-- ==== Sys2Proof/Word.lean ====
section
/-!
DEFINITION. Sys2Proof/Word.lean: the word types of the machine and their plainest arithmetic.
-/
namespace Sys2Proof

/-- A general or floating-point register, a device register, a flit's data: 64 bits (R83, R279). -/
abbrev Word := BitVec 64

/-- An address: 52 bits (R97, R144). -/
abbrev Addr := BitVec 52

/-- A register number 0 to 31 (R36). -/
abbrev Reg := Fin 32

/-- One byte of memory. -/
abbrev Byte := BitVec 8

/-- A word that holds a truth value: 1 or 0 in the full 64 bits (R89). -/
def Word.ofBool (b : Bool) : Word := if b then 1 else 0

/-- Bits `lo + n - 1 : lo` of `x` as a natural number. -/
def bits {w : Nat} (x : BitVec w) (lo n : Nat) : Nat := (x.toNat >>> lo) % 2 ^ n

/-- Bit `i` of `x`. -/
def bit {w : Nat} (x : BitVec w) (i : Nat) : Bool := x.getLsbD i

/-- `x` with bits `lo + n - 1 : lo` replaced by the low `n` bits of `v`. -/
def setBits {w : Nat} (x : BitVec w) (lo n v : Nat) : BitVec w :=
  let m : BitVec w := BitVec.ofNat w ((2 ^ n - 1) <<< lo)
  (x &&& ~~~m) ||| (BitVec.ofNat w ((v % 2 ^ n) <<< lo))

/-- A word with `v` in bits `lo + n - 1 : lo` and zeros elsewhere. -/
def field (lo n v : Nat) : Word := BitVec.ofNat 64 ((v % 2 ^ n) <<< lo)

/-- A flag at bit `lo` of a word. -/
def flag (lo : Nat) (b : Bool) : Word := field lo 1 b.toNat

end Sys2Proof
end

