-- ==== Sys2Proof/Syntax.lean ====
section
/-!
DEFINITION. Sys2Proof/Syntax.lean: the operand types and `Instr`, one constructor per row of spec/opcode_table.json.

Rows 0 to 174 are the 32-bit thread instructions of layer 1, then the 128-bit stream commands of layer 3, then the node
operations and router operators of layer 2 (held in 64-bit words), then the events: steps the device takes of its own
accord, whose arguments name the waiting thread, message, instance or register that the event is about.
-/
namespace Sys2Proof

/-- The floating-point formats, in the order of majors 0x20 to 0x24 (R44, R110). -/
inductive FType
  | f64 | f32 | f16 | b16 | w19
  deriving DecidableEq, Repr

/-- The integer types of conversions (R45, R114). -/
inductive IntType
  | i8 | i16 | i32 | i64 | n8 | n16 | n32 | n64
  deriving DecidableEq, Repr

/-- The rounding field of a floating-point instruction: dynamic (from TMODE) or one of the five modes (R45, R125). -/
inductive RmField
  | dyn | rne | rtz | rup | rdn | rna
  deriving DecidableEq, Repr

/-- The qualifier of a load (R47). -/
inductive LoadQual
  | plain | fek | fec | nt
  deriving DecidableEq, Repr

/-- The qualifier of a store (R47). -/
inductive StoreQual
  | plain | fes | nt
  deriving DecidableEq, Repr

/-- The hint of PREF (R46). -/
inductive PrefHint
  | read | write
  deriving DecidableEq, Repr

/-- The scope of a fence (R48, R173). -/
inductive Scope
  | thread | core | cluster | device | domain
  deriving DecidableEq, Repr

/-- The size of an atomic: .W or .D (R49). -/
inductive AtomSize
  | w | d
  deriving DecidableEq, Repr

/-- Where a thread is: in a slot of a site's barrel core, on a control core, in a save record named by its thread ID, or
in a caravan on its way to a reserved slot (R80, R170, R234). -/
inductive Place
  | slot (site : Fin 1024) (n : Fin 16)
  | control (i : Fin 16)
  | saved (ctx : Fin 16) (tid : BitVec 24)
  | caravan (site : Fin 1024) (n : Fin 16)
  deriving DecidableEq, Repr

/-- The qualifiers every stream command has: .B (barrier) and .S (signal) (R67). -/
structure CmdQual where
  b : Bool
  s : Bool
  deriving DecidableEq, Repr

/-- The operands shared by the data-movement commands: target streamer, descriptor address bits 51:6, slot, instance and
the bound bit (R363). -/
structure DataOps where
  tgt  : BitVec 8
  desc : BitVec 46
  slot : BitVec 3
  inst : BitVec 10
  bnd  : Bool
  deriving DecidableEq, Repr

/-- The operands of SDRN (R411). -/
structure DrainOps where
  ep    : BitVec 8
  slot  : BitVec 3
  inst  : BitVec 10
  page  : BitVec 10
  asl   : BitVec 2
  fmt   : BitVec 2
  rm    : BitVec 3
  tbl   : BitVec 2
  scl   : BitVec 8
  elink : BitVec 32
  epage : BitVec 10
  deriving DecidableEq, Repr

/-- The fields of a node word below OP (R53). -/
structure NodeFields where
  ety   : BitVec 4
  fn    : BitVec 4
  ina   : BitVec 4
  inb   : BitVec 4
  inc   : BitVec 4
  omask : BitVec 16
  param : BitVec 20
  deriving DecidableEq, Repr

/-- The fields of a router word beside ROP (R56). -/
structure RouterFields where
  swmask : BitVec 16
  ctl    : BitVec 4
  ia     : BitVec 4
  ib     : BitVec 4
  oa     : BitVec 16
  ob     : BitVec 16
  deriving DecidableEq, Repr

/-- The issuer of a Route request: a thread or control core, or the streamer at a perimeter position (R437). -/
inductive Requester
  | thread (p : Place)
  | streamer (pos : Fin 128)
  deriving DecidableEq, Repr

/-- An owner's request at the management port, as Wellis receives it: the message, the carried key, the signature and, for
an enrolment, the KEYTAB entries that it writes with their new digests (R449). -/
structure OwnerRequest where
  body   : List (BitVec 8)
  nonce  : BitVec 256
  key    : Option (BitVec 512)
  sig    : List (BitVec 8)
  keys   : List (Fin 16 × BitVec 256)
  deriving DecidableEq, Repr

/-- One constructor per row of the opcode table. -/
inductive Instr
  /-- ILLEGAL: A word with major opcode 0x00, 0x7F or a reserved major raises the precise ILLEGAL trap. (R38) -/
  | illegal (w : BitVec 32)
  /-- ADD: Writes the 64-bit wrapping sum of g[a] and g[b] to g[d]. (R87) -/
  | add (d : Reg) (a : Reg) (b : Reg)
  /-- SUB: Writes the 64-bit wrapping difference g[a] minus g[b] to g[d]. (R87) -/
  | sub (d : Reg) (a : Reg) (b : Reg)
  /-- AND: Writes the bitwise and of g[a] and g[b] to g[d]. (R87) -/
  | and (d : Reg) (a : Reg) (b : Reg)
  /-- OR: Writes the bitwise or of g[a] and g[b] to g[d]. (R87) -/
  | or (d : Reg) (a : Reg) (b : Reg)
  /-- XOR: Writes the bitwise xor of g[a] and g[b] to g[d]. (R87) -/
  | xor (d : Reg) (a : Reg) (b : Reg)
  /-- SHL: Shifts g[a] left by g[b][5:0] into g[d]. (R88) -/
  | shl (d : Reg) (a : Reg) (b : Reg)
  /-- SHR: Shifts g[a] right logically by g[b][5:0] into g[d]. (R88) -/
  | shr (d : Reg) (a : Reg) (b : Reg)
  /-- SRA: Shifts g[a] right arithmetically by g[b][5:0] into g[d]. (R88) -/
  | sra (d : Reg) (a : Reg) (b : Reg)
  /-- ROL: Rotates g[a] left by g[b][5:0] into g[d]. (R88) -/
  | rol (d : Reg) (a : Reg) (b : Reg)
  /-- ROR: Rotates g[a] right by g[b][5:0] into g[d]. (R88) -/
  | ror (d : Reg) (a : Reg) (b : Reg)
  /-- MIN: Writes the signed lesser of g[a] and g[b] to g[d]. (R89) -/
  | min (d : Reg) (a : Reg) (b : Reg)
  /-- MAX: Writes the signed greater of g[a] and g[b] to g[d]. (R89) -/
  | max (d : Reg) (a : Reg) (b : Reg)
  /-- MINN: Writes the unsigned lesser of g[a] and g[b] to g[d]. (R89) -/
  | minn (d : Reg) (a : Reg) (b : Reg)
  /-- MAXN: Writes the unsigned greater of g[a] and g[b] to g[d]. (R89) -/
  | maxn (d : Reg) (a : Reg) (b : Reg)
  /-- SLT: Writes 1 to g[d] when g[a] is signed-less than g[b], else 0. (R89) -/
  | slt (d : Reg) (a : Reg) (b : Reg)
  /-- SLTN: Writes 1 to g[d] when g[a] is unsigned-less than g[b], else 0. (R89) -/
  | sltn (d : Reg) (a : Reg) (b : Reg)
  /-- SEQ: Writes 1 to g[d] when g[a] equals g[b], else 0. (R89) -/
  | seq (d : Reg) (a : Reg) (b : Reg)
  /-- SEL: Writes g[a] to g[d] when g[c] is nonzero, else g[b]. (R89) -/
  | sel (d : Reg) (a : Reg) (b : Reg) (c : Reg)
  /-- MUL: Writes the low 64 bits of the product of g[a] and g[b]. (R90) -/
  | mul (d : Reg) (a : Reg) (b : Reg)
  /-- MULH: Writes the high 64 bits of the signed product. (R90) -/
  | mulh (d : Reg) (a : Reg) (b : Reg)
  /-- MULHN: Writes the high 64 bits of the unsigned product. (R90) -/
  | mulhn (d : Reg) (a : Reg) (b : Reg)
  /-- DIV: Signed division truncating toward zero over four turns, trapping DIVZ on a zero divisor. (R91) -/
  | div (d : Reg) (a : Reg) (b : Reg)
  /-- DIVN: Unsigned division over four turns, trapping DIVZ on a zero divisor. (R91) -/
  | divn (d : Reg) (a : Reg) (b : Reg)
  /-- REM: Signed remainder over four turns, trapping DIVZ on a zero divisor. (R91) -/
  | rem (d : Reg) (a : Reg) (b : Reg)
  /-- REMN: Unsigned remainder over four turns, trapping DIVZ on a zero divisor. (R91) -/
  | remn (d : Reg) (a : Reg) (b : Reg)
  /-- CLZ: Writes the count of leading zero bits of g[a]. (R90) -/
  | clz (d : Reg) (a : Reg)
  /-- CTZ: Writes the count of trailing zero bits of g[a]. (R90) -/
  | ctz (d : Reg) (a : Reg)
  /-- POP: Writes the count of one bits of g[a]. (R90) -/
  | pop (d : Reg) (a : Reg)
  /-- LEA: Adds g[b] scaled by 2^s to the 52-bit address of pointer g[a], keeping tag and rights. (R96) -/
  | lea (d : Reg) (a : Reg) (b : Reg) (s : Fin 5)
  /-- PTAG: Copies g[a] with its tag replaced by g[b][3:0]. (R96) -/
  | ptag (d : Reg) (a : Reg) (b : Reg)
  /-- PRGT: Copies g[a] with its rights replaced by g[b][1:0]. (R96) -/
  | prgt (d : Reg) (a : Reg) (b : Reg)
  /-- PADR: Copies the tag and upper bits of g[a] with the address replaced by g[b][51:0]. (R96) -/
  | padr (d : Reg) (a : Reg) (b : Reg)
  /-- ADDI: Adds a sign-extended 15-bit immediate to g[a]. (R92) -/
  | addi (d : Reg) (a : Reg) (i : BitVec 15)
  /-- ANDI: Ands g[a] with a zero-extended 15-bit immediate. (R92) -/
  | andi (d : Reg) (a : Reg) (i : BitVec 15)
  /-- ORI: Ors g[a] with a zero-extended 15-bit immediate. (R92) -/
  | ori (d : Reg) (a : Reg) (i : BitVec 15)
  /-- XORI: Xors g[a] with a zero-extended 15-bit immediate. (R92) -/
  | xori (d : Reg) (a : Reg) (i : BitVec 15)
  /-- SHLI: Shifts g[a] left by an immediate count. (R93) -/
  | shli (d : Reg) (a : Reg) (n : BitVec 6)
  /-- SHRI: Shifts g[a] right logically by an immediate count. (R93) -/
  | shri (d : Reg) (a : Reg) (n : BitVec 6)
  /-- SRAI: Shifts g[a] right arithmetically by an immediate count. (R93) -/
  | srai (d : Reg) (a : Reg) (n : BitVec 6)
  /-- BFX: Extracts a zero-extended bit field of g[a]. (R94) -/
  | bfx (d : Reg) (a : Reg) (w : BitVec 6) (p : BitVec 6)
  /-- BFX_S: Extracts a sign-extended bit field of g[a]. (R94) -/
  | bfxS (d : Reg) (a : Reg) (w : BitVec 6) (p : BitVec 6)
  /-- BFI: Inserts the low bits of g[a] into a field of g[d]. (R94) -/
  | bfi (d : Reg) (a : Reg) (w : BitVec 6) (p : BitVec 6)
  /-- LUI: Loads a 20-bit immediate into bits 31:12, sign-extended. (R95) -/
  | lui (d : Reg) (i : BitVec 20)
  /-- LUIH: Replaces bits 63:32 of g[d] with a zero-extended 20-bit immediate. (R95) -/
  | luih (d : Reg) (i : BitVec 20)
  /-- ADPC: Writes the instruction address plus a scaled word offset. (R95) -/
  | adpc (d : Reg) (i : BitVec 20)
  /-- BEQ: Branches when g[a] equals g[b]. (R99) -/
  | beq (a : Reg) (b : Reg) (o : BitVec 15)
  /-- BNE: Branches when g[a] differs from g[b]. (R99) -/
  | bne (a : Reg) (b : Reg) (o : BitVec 15)
  /-- BLT: Branches when g[a] is signed-less than g[b]. (R99) -/
  | blt (a : Reg) (b : Reg) (o : BitVec 15)
  /-- BGE: Branches when g[a] is signed-greater-or-equal to g[b]. (R99) -/
  | bge (a : Reg) (b : Reg) (o : BitVec 15)
  /-- BLTN: Branches when g[a] is unsigned-less than g[b]. (R99) -/
  | bltn (a : Reg) (b : Reg) (o : BitVec 15)
  /-- BGEN: Branches when g[a] is unsigned-greater-or-equal to g[b]. (R99) -/
  | bgen (a : Reg) (b : Reg) (o : BitVec 15)
  /-- J: Jumps by a 25-bit word offset. (R100) -/
  | j (o : BitVec 25)
  /-- JAL: Jumps by a 25-bit word offset, linking to g1. (R100) -/
  | jal (o : BitVec 25)
  /-- JALR: Jumps to g[a] plus an immediate, linking to g[d], trapping ALIGN on a misaligned target. (R101) -/
  | jalr (d : Reg) (a : Reg) (i : BitVec 15)
  /-- LOOP: Decrements g[a] and branches while it is nonzero. (R102) -/
  | loop (a : Reg) (o : BitVec 15)
  /-- TRAP: Raises a TRAP of a code below 0x800, delivered to the thread's vector. (R229) -/
  | trap (c : BitVec 11)
  /-- TRAP_SERVICE: A TRAP code of 0x800 to 0xFFE saves the thread and sends a service request record to the host trap queue. (R229) -/
  | trapService (c : BitVec 11)
  /-- TRET: Returns from a trap handler by restoring the edited image from the trap area. (R229) -/
  | tret
  /-- MFS: Reads a thread or supervisor state register into g[d]. (R225) -/
  | mfs (d : Reg) (n : BitVec 12)
  /-- MTS: Writes g[a] to a thread or supervisor state register. (R225) -/
  | mts (a : Reg) (n : BitVec 12)
  /-- ERET: Returns a control core from a trap or interrupt, restoring TPC, mode and interrupt enable. (R241) -/
  | eret
  /-- YIELD: Gives the slot to a waiting runnable thread of equal or higher priority, or does nothing. (R103) -/
  | yield
  /-- HALT: Ends the thread and puts its slot in DRAIN. (R104) -/
  | halt
  /-- TNOW: Reads the thread's time as the larger of its field counter and its floor, raising the floor. (R245) -/
  | tnow (d : Reg)
  /-- TWAIT: Waits for pending signals until a time limit. (R247) -/
  | twait (d : Reg) (a : Reg)
  /-- QGRD: Returns module ID, grade, stepping, live and enabled core counts. (R248) -/
  | qgrd (d : Reg)
  /-- QTOP: Returns topology information about the thread itself or a site. (R249) -/
  | qtop (d : Reg) (a : Reg)
  /-- QSPD: Returns the speed-table word of a site. (R250) -/
  | qspd (d : Reg) (a : Reg)
  /-- QBLT: Returns the banded-latency word for an ordered pair of fields. (R251) -/
  | qblt (d : Reg) (a : Reg) (b : Reg)
  /-- QRNG: Describes the home of an address after translating it. (R253) -/
  | qrng (d : Reg) (a : Reg)
  /-- COFF: Starts the orderly or forced retirement of a site on a control core. (R254) -/
  | coff (a : Reg)
  /-- SIGV: Releases and ORs signal bits into another thread's pending signals. (R246) -/
  | sigv (a : Reg) (b : Reg)
  /-- CRCC: Advances a CRC-32C over 1 to 8 bytes of g[b]. (R256) -/
  | crcc (d : Reg) (a : Reg) (b : Reg) (n : BitVec 3)
  /-- FADD: Floating-point add with rounding and flags. (R133) -/
  | fadd (t : FType) (d : Reg) (a : Reg) (b : Reg) (r : RmField)
  /-- FSUB: Floating-point subtract with rounding and flags. (R133) -/
  | fsub (t : FType) (d : Reg) (a : Reg) (b : Reg) (r : RmField)
  /-- FMUL: Floating-point multiply with rounding and flags. (R133) -/
  | fmul (t : FType) (d : Reg) (a : Reg) (b : Reg) (r : RmField)
  /-- FDIV: Floating-point divide with rounding and flags over several turns. (R133) -/
  | fdiv (t : FType) (d : Reg) (a : Reg) (b : Reg) (r : RmField)
  /-- FSQRT: Floating-point square root with rounding and flags. (R133) -/
  | fsqrt (t : FType) (d : Reg) (a : Reg) (r : RmField)
  /-- FMIN: Writes the lesser of two floating-point values. (R133) -/
  | fmin (t : FType) (d : Reg) (a : Reg) (b : Reg)
  /-- FMAX: Writes the greater of two floating-point values. (R133) -/
  | fmax (t : FType) (d : Reg) (a : Reg) (b : Reg)
  /-- FABS: Clears the sign bit of a floating-point value. (R133) -/
  | fabs (t : FType) (d : Reg) (a : Reg)
  /-- FNEG: Inverts the sign bit of a floating-point value. (R133) -/
  | fneg (t : FType) (d : Reg) (a : Reg)
  /-- FSGN: Copies fa with the sign bit of fb. (R133) -/
  | fsgn (t : FType) (d : Reg) (a : Reg) (b : Reg)
  /-- FEQ: Writes 1 to g[d] when two floating-point values are equal. (R133) -/
  | feq (t : FType) (d : Reg) (a : Reg) (b : Reg)
  /-- FLT: Writes 1 to g[d] when fa is less than fb. (R133) -/
  | flt (t : FType) (d : Reg) (a : Reg) (b : Reg)
  /-- FLE: Writes 1 to g[d] when fa is less than or equal to fb. (R133) -/
  | fle (t : FType) (d : Reg) (a : Reg) (b : Reg)
  /-- FCLS: Writes a one-hot class mask of a floating-point value. (R135) -/
  | fcls (t : FType) (d : Reg) (a : Reg)
  /-- FFMA: Fused multiply-add with one rounding under TMODE. (R134) -/
  | ffma (t : FType) (d : Reg) (a : Reg) (b : Reg) (c : Reg)
  /-- FFMS: Fused multiply-subtract with one rounding under TMODE. (R134) -/
  | ffms (t : FType) (d : Reg) (a : Reg) (b : Reg) (c : Reg)
  /-- FCVT: Converts between floating-point formats. (R136) -/
  | fcvt (t : FType) (d : Reg) (a : Reg) (src : FType) (r : RmField)
  /-- FCVI: Converts a floating-point value to an integer, saturating with NV. (R136) -/
  | fcvi (t : FType) (d : Reg) (a : Reg) (ty : IntType) (r : RmField)
  /-- ICVF: Converts an integer to a floating-point value. (R136) -/
  | icvf (t : FType) (d : Reg) (a : Reg) (ty : IntType) (r : RmField)
  /-- FRND: Rounds a floating-point value to an integral value. (R137) -/
  | frnd (t : FType) (d : Reg) (a : Reg) (r : RmField)
  /-- FSCL: Multiplies a floating-point value by a clamped power of two. (R138) -/
  | fscl (t : FType) (d : Reg) (a : Reg) (b : Reg) (r : RmField)
  /-- MVGF: Moves the low bits of a general register into a floating-point register. (R133) -/
  | mvgf (t : FType) (d : Reg) (a : Reg)
  /-- MVFG: Moves the low bits of a floating-point register into a general register. (R133) -/
  | mvfg (t : FType) (d : Reg) (a : Reg)
  /-- TENC: Encodes a value into a C8 code through a decode table. (R139) -/
  | tenc (t : FType) (d : Reg) (a : Reg) (n : Fin 4)
  /-- TDEC: Decodes a C8 code to its W19 table entry. (R140) -/
  | tdec (d : Reg) (a : Reg) (n : Fin 4)
  /-- TBLD: Reads a 1,024-byte table image and starts building a core decode table. (R141) -/
  | tbld (a : Reg) (n : Fin 4)
  /-- LD_B: Loads a sign-extended byte, with an optional FE or NT qualifier. (R155) -/
  | ldB (d : Reg) (b : Reg) (q : LoadQual) (o : BitVec 12)
  /-- LD_H: Loads a sign-extended halfword. (R155) -/
  | ldH (d : Reg) (b : Reg) (q : LoadQual) (o : BitVec 12)
  /-- LD_W: Loads a sign-extended word. (R155) -/
  | ldW (d : Reg) (b : Reg) (q : LoadQual) (o : BitVec 12)
  /-- LD_D: Loads a doubleword. (R155) -/
  | ldD (d : Reg) (b : Reg) (q : LoadQual) (o : BitVec 12)
  /-- LDN_B: Loads a zero-extended byte. (R155) -/
  | ldnB (d : Reg) (b : Reg) (q : LoadQual) (o : BitVec 12)
  /-- LDN_H: Loads a zero-extended halfword. (R155) -/
  | ldnH (d : Reg) (b : Reg) (q : LoadQual) (o : BitVec 12)
  /-- LDN_W: Loads a zero-extended word. (R155) -/
  | ldnW (d : Reg) (b : Reg) (q : LoadQual) (o : BitVec 12)
  /-- ST_B: Stores a byte, with an optional FES or NT qualifier. (R155) -/
  | stB (d : Reg) (b : Reg) (q : StoreQual) (o : BitVec 12)
  /-- ST_H: Stores a halfword. (R155) -/
  | stH (d : Reg) (b : Reg) (q : StoreQual) (o : BitVec 12)
  /-- ST_W: Stores a word. (R155) -/
  | stW (d : Reg) (b : Reg) (q : StoreQual) (o : BitVec 12)
  /-- ST_D: Stores a doubleword. (R155) -/
  | stD (d : Reg) (b : Reg) (q : StoreQual) (o : BitVec 12)
  /-- LDF_H: Loads 16 bits into a floating-point register. (R155) -/
  | ldfH (d : Reg) (b : Reg) (q : LoadQual) (o : BitVec 12)
  /-- LDF_W: Loads 32 bits into a floating-point register. (R155) -/
  | ldfW (d : Reg) (b : Reg) (q : LoadQual) (o : BitVec 12)
  /-- LDF_D: Loads 64 bits into a floating-point register. (R155) -/
  | ldfD (d : Reg) (b : Reg) (q : LoadQual) (o : BitVec 12)
  /-- STF_H: Stores 16 bits of a floating-point register. (R155) -/
  | stfH (d : Reg) (b : Reg) (q : StoreQual) (o : BitVec 12)
  /-- STF_W: Stores 32 bits of a floating-point register. (R155) -/
  | stfW (d : Reg) (b : Reg) (q : StoreQual) (o : BitVec 12)
  /-- STF_D: Stores 64 bits of a floating-point register. (R155) -/
  | stfD (d : Reg) (b : Reg) (q : StoreQual) (o : BitVec 12)
  /-- LDP: Loads an aligned 16-byte pair into g[d] and g[d+1]. (R155) -/
  | ldp (d : Reg) (b : Reg) (q : LoadQual) (o : BitVec 12)
  /-- STP: Stores g[d] and g[d+1] as an aligned 16-byte pair, or issues a stream command to a command port. (R155) -/
  | stp (d : Reg) (b : Reg) (q : StoreQual) (o : BitVec 12)
  /-- PREF: Prefetches a line for reading or writing, discarding any fault. (R166) -/
  | pref (h : PrefHint) (b : Reg) (o : BitVec 12)
  /-- CFLS: Writes a dirty line back to its home, keeping it valid. (R166) -/
  | cfls (b : Reg) (o : BitVec 12)
  /-- CINV: Writes back and removes a line from the thread cache. (R166) -/
  | cinv (b : Reg) (o : BitVec 12)
  /-- TGLD: Reads a granule's memory tag. (R161) -/
  | tgld (d : Reg) (b : Reg) (o : BitVec 12)
  /-- TGST: Writes a granule's memory tag. (R161) -/
  | tgst (d : Reg) (b : Reg) (o : BitVec 12)
  /-- VISIT: Moves the thread by caravan to the owning or TCM site of an address without accessing memory. (R171) -/
  | visit (b : Reg) (o : BitVec 12)
  /-- TKAQ: Acquires the write token of the region holding an address. (R192) -/
  | tkaq (a : Reg)
  /-- TKHD: Hands a held region token to another thread after release and sweep. (R194) -/
  | tkhd (a : Reg) (b : Reg)
  /-- CFLX: Flushes the context's lines from a site's thread cache. (R196) -/
  | cflx (a : Reg)
  /-- FENCE_ACQ: Acquire fence of a given scope. (R178) -/
  | fenceAcq (s : Scope)
  /-- FENCE_REL: Release fence of a given scope. (R178) -/
  | fenceRel (s : Scope)
  /-- FENCE_AR: Acquire-release fence of a given scope. (R178) -/
  | fenceAr (s : Scope)
  /-- AADD: Non-returning atomic add at the home. (R199) -/
  | aadd (a : Reg) (b : Reg) (z : AtomSize)
  /-- AAND: Non-returning atomic and at the home. (R199) -/
  | aand (a : Reg) (b : Reg) (z : AtomSize)
  /-- AOR: Non-returning atomic or at the home. (R199) -/
  | aor (a : Reg) (b : Reg) (z : AtomSize)
  /-- AXOR: Non-returning atomic xor at the home. (R199) -/
  | axor (a : Reg) (b : Reg) (z : AtomSize)
  /-- AMIN: Non-returning atomic signed minimum. (R199) -/
  | amin (a : Reg) (b : Reg) (z : AtomSize)
  /-- AMAX: Non-returning atomic signed maximum. (R199) -/
  | amax (a : Reg) (b : Reg) (z : AtomSize)
  /-- AMINN: Non-returning atomic unsigned minimum. (R199) -/
  | aminn (a : Reg) (b : Reg) (z : AtomSize)
  /-- AMAXN: Non-returning atomic unsigned maximum. (R199) -/
  | amaxn (a : Reg) (b : Reg) (z : AtomSize)
  /-- ASWP: Non-returning atomic swap. (R199) -/
  | aswp (a : Reg) (b : Reg) (z : AtomSize)
  /-- ACAS: Non-returning atomic compare-and-swap. (R199) -/
  | acas (a : Reg) (b : Reg) (z : AtomSize) (c : Reg)
  /-- AFADD_F32: Non-returning atomic F32 add under RNE. (R200) -/
  | afaddF32 (a : Reg) (b : Reg)
  /-- AADD_R: Returning atomic add. (R199) -/
  | aaddR (d : Reg) (a : Reg) (b : Reg) (z : AtomSize)
  /-- AAND_R: Returning atomic and. (R199) -/
  | aandR (d : Reg) (a : Reg) (b : Reg) (z : AtomSize)
  /-- AOR_R: Returning atomic or. (R199) -/
  | aorR (d : Reg) (a : Reg) (b : Reg) (z : AtomSize)
  /-- AXOR_R: Returning atomic xor. (R199) -/
  | axorR (d : Reg) (a : Reg) (b : Reg) (z : AtomSize)
  /-- AMIN_R: Returning atomic signed minimum. (R199) -/
  | aminR (d : Reg) (a : Reg) (b : Reg) (z : AtomSize)
  /-- AMAX_R: Returning atomic signed maximum. (R199) -/
  | amaxR (d : Reg) (a : Reg) (b : Reg) (z : AtomSize)
  /-- AMINN_R: Returning atomic unsigned minimum. (R199) -/
  | aminnR (d : Reg) (a : Reg) (b : Reg) (z : AtomSize)
  /-- AMAXN_R: Returning atomic unsigned maximum. (R199) -/
  | amaxnR (d : Reg) (a : Reg) (b : Reg) (z : AtomSize)
  /-- ASWP_R: Returning atomic swap. (R199) -/
  | aswpR (d : Reg) (a : Reg) (b : Reg) (z : AtomSize)
  /-- ACAS_R: Returning atomic compare-and-swap. (R199) -/
  | acasR (d : Reg) (a : Reg) (b : Reg) (z : AtomSize) (c : Reg)
  /-- AFADD_R_F32: Returning atomic F32 add, setting flags in TFLAGS. (R200) -/
  | afaddRF32 (d : Reg) (a : Reg) (b : Reg)
  /-- BARA: Releases and counts an arrival at a barrier, recording the phase. (R214) -/
  | bara (a : Reg)
  /-- BARW: Waits for the release of the thread's recorded barrier phase with a time limit. (R215) -/
  | barw (d : Reg) (a : Reg) (b : Reg)
  /-- BARS: Reads an entry of the straggler report of the last released phase. (R217) -/
  | bars (d : Reg) (a : Reg)
  /-- ACQS: Reserves the next ring slot, or returns 0 when the ring is full. (R211) -/
  | acqs (d : Reg) (a : Reg)
  /-- CMTS: Releases and commits a reserved ring slot. (R211) -/
  | cmts (a : Reg) (b : Reg)
  /-- PEKS: Takes the oldest committed ring slot with acquire, or returns 0. (R211) -/
  | peks (d : Reg) (a : Reg)
  /-- RELS: Releases a held ring slot and advances RLS over contiguous free slots. (R211) -/
  | rels (a : Reg) (b : Reg)
  /-- WTFE: Waits with a time limit until a granule is full. (R220) -/
  | wtfe (d : Reg) (a : Reg) (b : Reg)
  /-- HNEW: Asks the hypothesis controller to create a child hypothesis. (R266) -/
  | hnew (d : Reg) (a : Reg)
  /-- HSET: Sets THYP to a live handle, or raises ORPHAN. (R267) -/
  | hset (a : Reg)
  /-- HGET: Reads THYP into g[d]. (R267) -/
  | hget (d : Reg)
  /-- HCONF: Releases and sends a confirm request for a hypothesis to the controller. (R270) -/
  | hconf (a : Reg)
  /-- HREF: Sends a refute request for a hypothesis and its descendants to the controller. (R271) -/
  | href (a : Reg)
  /-- HSTAT: Reads the state of a hypothesis handle from the controller. (R268) -/
  | hstat (d : Reg) (a : Reg)
  /-- HWAIT: Waits with a time limit for a hypothesis to have a recorded outcome. (R274) -/
  | hwait (d : Reg) (a : Reg) (b : Reg)
  /-- ACCA: Posts a one-product step to an element of an accumulator row. (R406) -/
  | acca (a : Reg) (b : Reg) (n : Fin 4)
  /-- ACCR: Loads 16 F32 values and posts them as a product step to an accumulator row. (R407) -/
  | accr (a : Reg) (b : Reg) (n : Fin 4)
  /-- ACCZ: Posts a clear of every row and count of a tile slot. (R408) -/
  | accz (n : Fin 4)
  /-- ACCN: Reads a row's state or a slot count. (R409) -/
  | accn (d : Reg) (b : Reg) (n : Fin 4)
  /-- ACCX: Reads an accumulator element raw or as F32. (R410) -/
  | accx (d : Reg) (b : Reg) (n : Fin 4)
  /-- LNCH: Releases, reads a launch descriptor and appends the launch to a queue. (R350) -/
  | lnch (a : Reg) (b : Reg)
  /-- LNCI: Appends a launch whose count is read from memory at the queue head. (R350) -/
  | lnci (a : Reg) (b : Reg) (c : Reg)
  /-- SCFG: Stages a checked configuration image into a slot and writes a report. (R332) -/
  | scfg (q : CmdQual) (img : BitVec 46) (rpt : BitVec 48) (slot : BitVec 3)
  /-- SPLC: Places a slot's staged configuration as instances. (R334) -/
  | splc (q : CmdQual) (part : Bool) (slot : BitVec 3) (ninst : BitVec 10) (queue : BitVec 6)
  /-- SPLC_U: Releases every instance of a slot. (R334) -/
  | splcU (q : CmdQual) (part : Bool) (slot : BitVec 3) (queue : BitVec 6)
  /-- SMOV: Moves an instance to a new anchor at its next segment boundary. (R337) -/
  | smov (q : CmdQual) (slot : BitVec 3) (inst : BitVec 10) (lx : BitVec 5) (ly : BitVec 5) (any : Bool)
  /-- SARM: Sets the arm factor of an endpoint. (R341) -/
  | sarm (q : CmdQual) (abs : Bool) (ep : BitVec 8) (slot : BitVec 3) (inst : BitVec 10) (count : BitVec 32)
  /-- SBND: Delivers a one-element value token into an input endpoint. (R342) -/
  | sbnd (q : CmdQual) (ep : BitVec 8) (slot : BitVec 3) (inst : BitVec 10) (value : BitVec 64) (ety : BitVec 4)
  /-- SBND_T: Sets the bound tag of a memory port in named instances. (R342) -/
  | sbndT (q : CmdQual) (slot : BitVec 3) (inst : BitVec 10) (page : BitVec 10) (port : BitVec 2) (tag : BitVec 4)
  /-- SSEG: Runs one segment of a slot's instances, making tile ranges if needed. (R343) -/
  | sseg (q : CmdQual) (last : Bool) (slot : BitVec 3) (tiles : BitVec 32)
  /-- SSYN: Waits for earlier commands and a queue's launches, then writes a word. (R347) -/
  | ssyn (q : CmdQual) (n : Bool) (queue : BitVec 6) (addr : BitVec 52) (value : BitVec 32)
  /-- SCPY: Copies an affine pattern between memory, endpoints and edge slices. (R371) -/
  | scpy (q : CmdQual) (o : DataOps)
  /-- SGTH: Gathers indexed rows to a dense side or an endpoint. (R373) -/
  | sgth (q : CmdQual) (o : DataOps)
  /-- SSCT: Scatters dense rows to indexed rows. (R373) -/
  | ssct (q : CmdQual) (o : DataOps)
  /-- SLKP: Looks up indexed rows of an embedding table, handling misses. (R373) -/
  | slkp (q : CmdQual) (o : DataOps)
  /-- SUPD: Applies non-returning atomic updates to indexed table rows. (R373) -/
  | supd (q : CmdQual) (o : DataOps)
  /-- SMIG: Starts the migration of one table row between a cold place and a hot copy. (R377) -/
  | smig (q : CmdQual) (tgt : BitVec 8) (blk : BitVec 48)
  /-- STBL: Installs a new version of an embedding table. (R376) -/
  | stbl (q : CmdQual) (tbl : BitVec 4) (desc : BitVec 46) (free : BitVec 49)
  /-- SDOR: Binds a door of an instance to a stack base and argument. (R381) -/
  | sdor (q : CmdQual) (door : BitVec 8) (slot : BitVec 3) (inst : BitVec 10) (blk : BitVec 48)
  /-- SWIN: Declares a window of a slot with a notify granule. (R389) -/
  | swin (q : CmdQual) (win : BitVec 4) (slot : BitVec 3) (obj : BitVec 48) (ntf : BitVec 48)
  /-- SWIN_U: Removes a window. (R389) -/
  | swinU (q : CmdQual) (win : BitVec 4) (slot : BitVec 3)
  /-- SAGP: Loads an address-generator program into an edge-slice program slot. (R378) -/
  | sagp (q : CmdQual) (pos : BitVec 7) (prog : BitVec 2) (pgm : BitVec 46) (slot : BitVec 3) (inst : BitVec 10)
  /-- SAGP_U: Unloads an edge-slice program slot. (R378) -/
  | sagpU (q : CmdQual) (pos : BitVec 7) (prog : BitVec 2)
  /-- SRED: Reduces participants' regions element by element into a root. (R430) -/
  | sred (q : CmdQual) (o : DataOps)
  /-- SCOL: Broadcasts, gathers or scatters between a root and participants. (R431) -/
  | scol (q : CmdQual) (o : DataOps)
  /-- SDRN: Drains an accumulator slot as a converted tile into an input endpoint. (R411) -/
  | sdrn (q : CmdQual) (clear : Bool) (o : DrainOps)
  /-- SHDR: Sets a scale and table edit on headers passing an input endpoint. (R413) -/
  | shdr (q : CmdQual) (ep : BitVec 8) (slot : BitVec 3) (inst : BitVec 10) (scale : BitVec 8) (tslot : BitVec 2) (en : Bool)
  /-- NADD: A node adds its A and B inputs lane by lane. (R290) -/
  | nadd (n : NodeFields)
  /-- NSUB: A node subtracts B from A lane by lane. (R290) -/
  | nsub (n : NodeFields)
  /-- NMUL: A node multiplies its inputs lane by lane. (R290) -/
  | nmul (n : NodeFields)
  /-- NFMA: A node forms a fused multiply-add of three inputs. (R290) -/
  | nfma (n : NodeFields)
  /-- NMIN: A node takes the lesser of its inputs. (R290) -/
  | nmin (n : NodeFields)
  /-- NMAX: A node takes the greater of its inputs. (R290) -/
  | nmax (n : NodeFields)
  /-- NABS: A node takes the absolute value of its input. (R290) -/
  | nabs (n : NodeFields)
  /-- NNEG: A node negates its input. (R290) -/
  | nneg (n : NodeFields)
  /-- NCMP: A node compares its inputs, writing 1 or +0. (R292) -/
  | ncmp (n : NodeFields)
  /-- NSEL: A node selects A or B by C. (R292) -/
  | nsel (n : NodeFields)
  /-- NCVT: A node converts elements to another type, repacking flits. (R294) -/
  | ncvt (n : NodeFields)
  /-- NDEC: A node decodes C8 elements to W19. (R295) -/
  | ndec (n : NodeFields)
  /-- NENC: A node encodes elements to C8 codes with a scale. (R295) -/
  | nenc (n : NodeFields)
  /-- NAND: A node forms the bitwise and of its inputs. (R291) -/
  | nand (n : NodeFields)
  /-- NOR: A node forms the bitwise or of its inputs. (R291) -/
  | nor (n : NodeFields)
  /-- NXOR: A node forms the bitwise xor of its inputs. (R291) -/
  | nxor (n : NodeFields)
  /-- NSHL: A node shifts A left by B. (R291) -/
  | nshl (n : NodeFields)
  /-- NSHR: A node shifts A right by B. (R291) -/
  | nshr (n : NodeFields)
  /-- NRED: A node reduces each group of a tile to one element. (R296) -/
  | nred (n : NodeFields)
  /-- NACC: A node emits an inclusive scan within each group. (R296) -/
  | nacc (n : NodeFields)
  /-- NCNT: A node passes flits and places EOR and EOK marks from its counters. (R298) -/
  | ncnt (n : NodeFields)
  /-- NBND: A node turns each input element into a generated N32 tile. (R299) -/
  | nbnd (n : NodeFields)
  /-- NCON: A node emits a constant flit for each input flit. (R300) -/
  | ncon (n : NodeFields)
  /-- NRLY: A node relays every flit unchanged. (R301) -/
  | nrly (n : NodeFields)
  /-- NLD: A memory node translates and loads 8 bytes for each address flit. (R314) -/
  | nld (n : NodeFields)
  /-- NST: A memory node stores a data flit at each address. (R315) -/
  | nst (n : NodeFields)
  /-- NOWN: An owner node applies an update to an element in its line buffer. (R316) -/
  | nown (n : NodeFields)
  /-- NDOR: A door node parks a request flit in its serai and issues a ticket. (R383) -/
  | ndor (n : NodeFields)
  /-- SECTION_STEP: A matrix section advances one skewed step of exact products into its row buffers. (R393) -/
  | sectionStep (n : NodeFields)
  /-- STEER: A router sends a unit to the true or false arm by a control decision. (R305) -/
  | steer (r : RouterFields)
  /-- GATE: A router passes or discards a unit by a control decision. (R305) -/
  | gate (r : RouterFields)
  /-- FORK: A router copies every flit to all its outputs. (R305) -/
  | fork (r : RouterFields)
  /-- SINK: A router discards flits; the configuration's sink retires on a LAST flit of the final segment. (R305) -/
  | sink (r : RouterFields)
  /-- MERGE: A router takes the next unit from the arm its control copy names. (R306) -/
  | merge (r : RouterFields)
  /-- CARRY: A router feeds a loop through its INIT, LOOP and DRAIN states. (R307) -/
  | carry (r : RouterFields)
  /-- INVAR: A router holds a loop-invariant unit and copies it per true decision. (R308) -/
  | invar (r : RouterFields)
  /-- CSEQ: A controller issues enables one at a time, waiting for each done. (R311) -/
  | cseq (r : RouterFields)
  /-- CPIP: A controller issues all enables, then waits for all dones. (R311) -/
  | cpip (r : RouterFields)
  /-- CSTR: A controller streams activations, counting dones in arrival order. (R311) -/
  | cstr (r : RouterFields)
  /-- CREDIT_RETURN: A credit returns to an output channel after its flit is released at the target. (R278) -/
  | creditReturn (i : Nat) (k : Nat)
  /-- FLIT_ARRIVE: A flit arriving over a link enters its target input channel. (R280) -/
  | flitArrive (i : Nat) (k : Nat)
  /-- PORT_RESULT_RETURN: A port access's data or acknowledgement returns from its home and is emitted in order. (R314) -/
  | portResultReturn (i : Nat) (page : Nat) (port : Fin 4) (k : Nat)
  /-- PAGE_ROW_DRAIN: A page row buffer drains as a row-add to its accumulation slot and a done flit is sent after row 15. (R395) -/
  | pageRowDrain (i : Nat) (page : Nat) (row : Fin 16)
  /-- STORE_EVENT_APPLY: The accumulation store applies the next event of its arrival queue to a slot. (R403) -/
  | storeEventApply (site : Fin 1024)
  /-- ISSUE_WAIT_COMPLETE: A thread's own wait completes (load data, tag, divide or fence acknowledgement) and it issues at its next turn. (R81) -/
  | issueWaitComplete (p : Place)
  /-- DIVIDE_COMPLETE: A division finishes and writes its destination after its forfeited turns. (R91) -/
  | divideComplete (p : Place)
  /-- TBLD_COMPLETE: The last table line arrives and the decode table is checked, built and installed. (R141) -/
  | tbldComplete (p : Place)
  /-- IMAGE_WRITE_COMPLETE: A landed thread's register image is written and the slot goes from LOAD to RUN. (R82) -/
  | imageWriteComplete (p : Place)
  /-- DRAIN_COMPLETE: A halted thread's release fence completes, its tokens are released and the slot becomes EMPTY. (R104) -/
  | drainComplete (p : Place)
  /-- STORE_PERFORM: A store is applied at its home and takes its place in the coherence order. (R174) -/
  | storePerform (k : Nat)
  /-- FE_WAITER_RETRY: An unrecorded FE waiter is sent again every 64 field cycles. (R164) -/
  | feWaiterRetry (p : Place)
  /-- ATOMIC_APPLY: An atomic or ring operation is applied at its home in arrival order. (R202) -/
  | atomicApply (k : Nat)
  /-- TLB_WALK_LEVEL_RETURN: A table-walk level read returns and the walk continues or completes. (R153) -/
  | tlbWalkLevelReturn (p : Place)
  /-- PAGE_FILL_COMPLETE: A hardware fill copies the peer page, sets V and lets waiting accesses retry, or fails to the host. (R154) -/
  | pageFillComplete (k : Nat) (err : Bool)
  /-- WATCH_DELIVER: A watcher takes the WATCH trap at its first RUN turn after the record reaches it. (R169) -/
  | watchDeliver (p : Place)
  /-- LANDING_REQUEST_ARRIVE: A caravan's landing request reaches the target, which grants and reserves a slot or refuses. (R170) -/
  | landingRequestArrive (k : Nat)
  /-- LANDING_REPLY_ARRIVE: The landing answer reaches the old core, which drains and sends the image or performs the access remotely. (R170) -/
  | landingReplyArrive (k : Nat)
  /-- CARAVAN_LAND: A caravan image arrives and its slot passes through LOAD. (R170) -/
  | caravanLand (k : Nat)
  /-- FLUSH_ACK_ARRIVE: The old core's flush acknowledgement releases the held accesses and updates token holding sites. (R197) -/
  | flushAckArrive (k : Nat)
  /-- TOKEN_REQUEST_ARRIVE: A token request reaches the token home and is granted, queued or starts a recall. (R191) -/
  | tokenRequestArrive (k : Nat)
  /-- TOKEN_REQUEST_RETRY: A token request that found the record full is sent again every 64 field cycles. (R191) -/
  | tokenRequestRetry (k : Nat)
  /-- TOKEN_RECALL_COMPLETE: A recall's sweep is acknowledged and the token passes to the oldest waiter or becomes free. (R191) -/
  | tokenRecallComplete (k : Nat)
  /-- TOKEN_GRANT_ARRIVE: A token grant reaches the waiting thread, which invalidates clean lines and acquires. (R192) -/
  | tokenGrantArrive (k : Nat)
  /-- LLC_EVICT: The LLC replaces a line, writing it to HBM first when dirty. (R24) -/
  | llcEvict (line : Nat)
  /-- CACHE_EVICT: A thread cache evicts a line, writing back a dirty one. (R190) -/
  | cacheEvict (k : Nat)
  /-- BARRIER_RELEASE: A completed barrier phase's release reaches member cores and PHASE advances. (R216) -/
  | barrierRelease (ctx : Fin 16) (b : Fin 4)
  /-- TIMED_WAIT_TIMEOUT: A timed wait reports TIMEOUT at an issue turn where TNOW reaches its limit. (R221) -/
  | timedWaitTimeout (p : Place)
  /-- SIGNAL_DELIVER: A signal's bits are ORed into the target's pending signals on arrival. (R246) -/
  | signalDeliver (k : Nat)
  /-- INTERRUPT_ENTRY: A control core takes an enabled pending interrupt between instructions. (R241) -/
  | interruptEntry (core : Fin 16)
  /-- RETIREMENT_RUN: A started retirement closes the site, saves or ends its threads and makes it dark and retired. (R254) -/
  | retirementRun
  /-- RESYNC_PULSE: Every 1 ms the resynchronisation pulse steps lagging field counters forward. (R16) -/
  | resyncPulse
  /-- HYP_CONTROLLER_REQUEST: The hypothesis controller performs the next HNEW or HSTAT request in arrival order. (R269) -/
  | hypControllerRequest (ctx : Fin 16)
  /-- HCONF_MERGE: The controller merges a confirmed hypothesis into its parent module-wide. (R270) -/
  | hconfMerge (ctx : Fin 16)
  /-- HREF_DISCARD: The controller discards a refuted hypothesis and its descendants module-wide. (R271) -/
  | hrefDiscard (ctx : Fin 16)
  /-- ORPHAN: A thread whose hypothesis is no longer live abandons its wait and takes the ORPHAN trap. (R272) -/
  | orphan (p : Place)
  /-- HYP_OUTCOME_ARRIVE: A recorded hypothesis outcome reaches a core and becomes visible to HWAIT. (R274) -/
  | hypOutcomeArrive (k : Nat)
  /-- COMMAND_ACCEPT: The sequencer accepts the next ready command from the port or a graph stream and assigns its ID. (R327) -/
  | commandAccept (ctx : Fin 16)
  /-- COMMAND_COMPLETE: A stream command reaches its completion event, setting SQINT.CMD when it has .S. (R328) -/
  | commandComplete (ctx : Fin 16) (id : BitVec 32)
  /-- INSTANCE_PLACE: The allocator places a waiting instance at an anchor once pages are free. (R334) -/
  | instancePlace (k : Nat)
  /-- INSTANCE_DISPLACE: The allocator saves a lower-priority instance to free pages for a placement. (R336) -/
  | instanceDisplace (i : Nat)
  /-- INSTANCE_COMPACT: In hardware mode the allocator moves instances toward the lowest anchors. (R336) -/
  | instanceCompact (i : Nat) (lx : Nat) (ly : Nat)
  /-- INSTANCE_SAVE_COMPLETE: An instance's resident state has been streamed out and its pages freed. (R339) -/
  | instanceSaveComplete (i : Nat)
  /-- SEGMENT_BOUNDARY: An instance meets its boundary conditions and performs write-back, flags, tables, windows and pending actions. (R344) -/
  | segmentBoundary (i : Nat)
  /-- GRAPH_END: A graph ends, writing its completion record and releasing its instances. (R346) -/
  | graphEnd (ctx : Fin 16) (g : Fin 4)
  /-- SINK_WAIT_TIMEOUT: HANGINT passes after the drain with a sink not retired, ending the graph as NOSINK. (R346) -/
  | sinkWaitTimeout (ctx : Fin 16) (g : Fin 4)
  /-- LAUNCH_START: A queue's head launch validates and starts once its order, count and resources allow. (R351) -/
  | launchStart (ctx : Fin 16) (qn : Fin 64)
  /-- THREAD_LAND: A launched or resumed thread lands on a group core's slot, pre-empting lower priorities if needed. (R352) -/
  | threadLand (ctx : Fin 16) (qn : Fin 64)
  /-- LAUNCH_COMPLETE: A launch completes, writing its completion record and setting SQINT.CPL. (R355) -/
  | launchComplete (ctx : Fin 16) (k : Nat)
  /-- HANG_DETECT: An instance idle for a whole HANGINT interval is shuttered with cause HANG. (R356) -/
  | hangDetect (i : Nat)
  /-- BOUNDARY_SHUTTER: A save, move or release that waited a whole HANGINT shutters the instance. (R357) -/
  | boundaryShutter (i : Nat)
  /-- CFGECC_ERROR: An uncorrectable configuration-memory error shutters an instance and reloads it. (R357) -/
  | cfgeccError (i : Nat) (page : Nat)
  /-- TRANSFER_START: A streamer starts a queued transfer and reads its descriptor. (R363) -/
  | transferStart (pos : Fin 128)
  /-- TRANSFER_COMPLETE: A streamer transfer has finished and all its writes have performed. (R363) -/
  | transferComplete (pos : Fin 128) (k : Nat)
  /-- EDGE_PROGRAM_FLIT: An edge-slice program pushes or absorbs the next flit of its pattern. (R379) -/
  | edgeProgramFlit (pos : Fin 128) (prog : Fin 4)
  /-- SMIG_COMMIT: After the row copy and forward queue drain, the redirect entry is written and the queue closed. (R377) -/
  | smigCommit (k : Nat)
  /-- TABLE_VERSION_FREE: A table version whose bound work has completed is freed and its notice written. (R376) -/
  | tableVersionFree (ctx : Fin 16) (k : Nat)
  /-- DOOR_THREAD_LAND: A parked door ticket lands its thread on a qualifying core of its cluster. (R384) -/
  | doorThreadLand (i : Nat) (door : Nat)
  /-- DOOR_RESULT_RELEASE: A replied door result leaves the serai in ticket or reply order when its channels have space. (R387) -/
  | doorResultRelease (i : Nat) (door : Nat)
  /-- ROUTE_REQUEST_FAIL: A Route request with no response within 64 µs fails, is reported and marks the module unreachable. (R437) -/
  | routeRequestFail (who : Requester) (k : Nat)
  /-- ROUTE_LINK_CHANGE: A Route port's link goes up or down, setting CHG. (R435) -/
  | routeLinkChange (port : Fin 48) (up : Bool) (lanes : Fin 5)
  /-- CORE_POWER_OFF: A barrel core empty for 100 µs writes back its cache and switches off. (R444) -/
  | corePowerOff (site : Fin 1024)
  /-- CORE_WAKE: A switched-off core is woken by the field's wake ring for a landing. (R444) -/
  | coreWake (site : Fin 1024)
  /-- ACTIVITY_BALANCE: Paired fields' activity is compared and ballast or pacing is applied. (R445) -/
  | activityBalance (row : Fin 4) (act0 : BitVec 10) (act1 : BitVec 10)
  /-- START_UP: Power-on runs the staged start-up with boot verification and memory clearing. (R443) -/
  | startUp
  /-- MGMT_FRAME_RECEIVE: A management-port frame is received and raises SIPND bit 9. (R448) -/
  | mgmtFrameReceive (frame : List Byte)
  /-- OWNER_RESET: An OWNER-RESET request is authenticated and runs the owner-change reset. (R449) -/
  | ownerReset (req : OwnerRequest)
  /-- KEYTAB_ENROL: An owner request writes KEYTAB entries 1 to 15. (R449) -/
  | keytabEnrol (req : OwnerRequest)
  /-- ATTESTATION_REQUEST: Wellis returns an attestation report signed with the identity key. (R447) -/
  | attestationRequest (nonce : BitVec 256)
  /-- RERUN_COMPARE: A sampled tile's primary and shadow output signatures are compared and mismatches counted. (R451) -/
  | rerunCompare (i tile : Nat) (shadow : List (Nat × BitVec 64 × BitVec 8)) (anchor : Nat × Nat)
  /-- TLBINV_WRITE: A write to TLBINV starts invalidating translations of a context. (R153) -/
  | tlbinvWrite (ctx : Fin 16) (v : Word)
  /-- TLB_INVALIDATION_DONE: Every access through the invalidated translations has performed and BUSY clears. (R153) -/
  | tlbInvalidationDone (ctx : Fin 16)
  /-- RGNCTL_COUNT_WRITE: A write to COUNT starts the homes reading the region table. (R188) -/
  | rgnctlCountWrite (ctx : Fin 16) (v : Word)
  /-- REGION_TABLE_READ_DONE: The homes finish reading the region table and BUSY and ERR settle. (R188) -/
  | regionTableReadDone (ctx : Fin 16)
  /-- RLOGCTL_PEND_CLEAR: Writing 1 to PEND restarts a halted context. (R208) -/
  | rlogctlPendClear (ctx : Fin 16) (v : Word)
  /-- FQCTL_RD_WRITE: Advancing a fault queue's RD frees space, writes held records and clears LOST. (R232) -/
  | fqctlRdWrite (ctx : Fin 16) (fq : Fin 3) (v : Word)
  /-- CXRSM_RESUME: CXRSM with DISC 0 places a saved thread on a launch queue for resumption. (R235) -/
  | cxrsmResume (ctx : Fin 16) (v : Word)
  /-- CXRSM_DISCARD: CXRSM with DISC 1 ends a saved thread as by a fault. (R235) -/
  | cxrsmDiscard (ctx : Fin 16) (v : Word)
  /-- CXPRE_WRITE: A write to CXPRE saves the named resident thread. (R233) -/
  | cxpreWrite (ctx : Fin 16) (v : Word)
  /-- CXRST_GO: Writing GO resets a context to its reset state. (R239) -/
  | cxrstGo (ctx : Fin 16)
  /-- BMASK_WRITE: A write to a barrier mask clears members at once, possibly completing the phase, or adds them next phase. (R213) -/
  | bmaskWrite (ctx : Fin 16) (b : Fin 4) (bw : Fin 16) (v : Word)
  /-- PRES_RETRY: RETRY clears a port's FLT and retries its spilled entries. (R324) -/
  | presRetry (site : Fin 1024) (port : Fin 4)
  /-- PRES_DISCARD: DISCARD clears a port's FLT and empties its spill queue with poison. (R324) -/
  | presDiscard (site : Fin 1024) (port : Fin 4)
  /-- STRES_RETRY: RETRY retries a streamer's spilled entries of a context. (R366) -/
  | stresRetry (pos : Fin 128) (ctx : Fin 16)
  /-- STRES_DISCARD: DISCARD drops a streamer's spilled entries of a context with poison. (R366) -/
  | stresDiscard (pos : Fin 128) (ctx : Fin 16)
  /-- SHUTCTL_RESUME: RESUME returns a shuttered instance to its former state. (R358) -/
  | shutctlResume (ctx : Fin 16) (v : Word)
  /-- SHUTCTL_DISCARD: DISCARD ends a shuttered instance's graph as DISCARDED. (R358) -/
  | shutctlDiscard (ctx : Fin 16) (v : Word)
  /-- SHUTCTL_RELOAD: RELOAD rewrites the page records from the staged copy and resumes. (R358) -/
  | shutctlReload (ctx : Fin 16) (v : Word)
  /-- GCTL_COMMIT: COMMIT validates staged groups and starts a commit or sets ERR. (R419) -/
  | gctlCommit (v : Word)
  /-- GROUP_COMMIT_DONE: No operation remains bound to the older version, so the commit takes effect and BUSY clears. (R420) -/
  | groupCommitDone
  /-- ROUTECFG_WRITE: A write to ROUTECFG sets the module ID and brings Route into or out of service. (R433) -/
  | routecfgWrite (v : Word)
  /-- RTMAP_WRITE: A write to a routing word takes effect after requests in flight to that module finish. (R434) -/
  | rtmapWrite (m : Fin 1152) (v : Word)
  /-- RTUCTL_STAGE: Stage checks a routing-table update's signature, digests and CRCs. (R450) -/
  | rtuctlStage (v : Word)
  /-- RTU_STAGING_DONE: Routing-table staging ends as staged or rejected. (R450) -/
  | rtuStagingDone
  /-- RTUCTL_COMMIT: Commit holds injection, drains the network and switches every router at once. (R450) -/
  | rtuctlCommit
  /-- RTUCTL_ABORT: Abort discards a staged routing-table update. (R450) -/
  | rtuctlAbort
  /-- RRSTAT_CLEAR: A write to RRSTAT clears the re-run counts. (R451) -/
  | rrstatClear
  /-- REGISTER_WRITE: A write to a device register with no behaviour of its own updates its writable fields. (R9) -/
  | registerWrite (off : Nat) (v : Word)
  /-- PLACING_COMPLETE: An instance in PLACING finishes writing its words, links and range entries and streaming in any saved state, and goes to IDLE, or to RUN when a segment is pending. (R338) -/
  | placingComplete (i : Nat)
  /-- MANAGEMENT_PORT_LINK_UP: The management port's 25GBASE-R link comes up, and Clause 108 RS-FEC or Clause 74 BASE-R FEC is selected. (R448) -/
  | managementPortLinkUp (rs : Bool)
  deriving DecidableEq, Repr

end Sys2Proof
end

