-- ==== Sys2Proof/WellFormed.lean ====
section
/-!
DEFINITION. Sys2Proof/WellFormed.lean: the terms of `Instr` that an encoding of the spec stands for. The conditions are those
the spec puts on fields that the syntax itself does not rule out. An event has no encoding and is always well formed.
-/
namespace Sys2Proof

/-- A streamer target of class P: a position 0x00 to 0x7F, or 0xFF (R68). -/
def streamerTarget (t : BitVec 8) : Bool := t.toNat < 128 || t == 0xFF

/-- Whether the term is an instruction of the spec: BFX and BFI need pos + w at most 64 (R41), LOOP a nonzero register (R102),
LDP and STP an even register (R46), FCVT two different types (R45), a service request a code other than TRET's (R229), a
streamer command a target of its class (R68) and SBND an integer type (R342). -/
def WellFormed : Instr → Bool
  | .illegal w => w.extractLsb' 25 7 == 0
  | .bfx _ _ w p => w.toNat + 1 + p.toNat ≤ 64
  | .bfxS _ _ w p => w.toNat + 1 + p.toNat ≤ 64
  | .bfi _ _ w p => w.toNat + 1 + p.toNat ≤ 64
  | .loop a _ => a != 0
  | .trapService c => c != 0x7FF
  | .ldp d _ _ _ => d.val % 2 == 0
  | .stp d _ _ _ => d.val % 2 == 0
  | .fcvt t _ _ src _ => t != src
  | .sbnd _ _ _ _ _ ety => ety.toNat < 8
  | .scpy _ o => streamerTarget o.tgt
  | .sgth _ o => streamerTarget o.tgt
  | .ssct _ o => streamerTarget o.tgt
  | .slkp _ o => streamerTarget o.tgt
  | .supd _ o => streamerTarget o.tgt
  | .smig _ tgt _ => streamerTarget tgt
  | .sred _ o => streamerTarget o.tgt
  | .scol _ o => streamerTarget o.tgt
  | .add _ _ _ => true
  | .sub _ _ _ => true
  | .and _ _ _ => true
  | .or _ _ _ => true
  | .xor _ _ _ => true
  | .shl _ _ _ => true
  | .shr _ _ _ => true
  | .sra _ _ _ => true
  | .rol _ _ _ => true
  | .ror _ _ _ => true
  | .min _ _ _ => true
  | .max _ _ _ => true
  | .minn _ _ _ => true
  | .maxn _ _ _ => true
  | .slt _ _ _ => true
  | .sltn _ _ _ => true
  | .seq _ _ _ => true
  | .sel _ _ _ _ => true
  | .mul _ _ _ => true
  | .mulh _ _ _ => true
  | .mulhn _ _ _ => true
  | .div _ _ _ => true
  | .divn _ _ _ => true
  | .rem _ _ _ => true
  | .remn _ _ _ => true
  | .clz _ _ => true
  | .ctz _ _ => true
  | .pop _ _ => true
  | .lea _ _ _ _ => true
  | .ptag _ _ _ => true
  | .prgt _ _ _ => true
  | .padr _ _ _ => true
  | .addi _ _ _ => true
  | .andi _ _ _ => true
  | .ori _ _ _ => true
  | .xori _ _ _ => true
  | .shli _ _ _ => true
  | .shri _ _ _ => true
  | .srai _ _ _ => true
  | .lui _ _ => true
  | .luih _ _ => true
  | .adpc _ _ => true
  | .beq _ _ _ => true
  | .bne _ _ _ => true
  | .blt _ _ _ => true
  | .bge _ _ _ => true
  | .bltn _ _ _ => true
  | .bgen _ _ _ => true
  | .j _ => true
  | .jal _ => true
  | .jalr _ _ _ => true
  | .trap _ => true
  | .tret => true
  | .mfs _ _ => true
  | .mts _ _ => true
  | .eret => true
  | .yield => true
  | .halt => true
  | .tnow _ => true
  | .twait _ _ => true
  | .qgrd _ => true
  | .qtop _ _ => true
  | .qspd _ _ => true
  | .qblt _ _ _ => true
  | .qrng _ _ => true
  | .coff _ => true
  | .sigv _ _ => true
  | .crcc _ _ _ _ => true
  | .fadd _ _ _ _ _ => true
  | .fsub _ _ _ _ _ => true
  | .fmul _ _ _ _ _ => true
  | .fdiv _ _ _ _ _ => true
  | .fsqrt _ _ _ _ => true
  | .fmin _ _ _ _ => true
  | .fmax _ _ _ _ => true
  | .fabs _ _ _ => true
  | .fneg _ _ _ => true
  | .fsgn _ _ _ _ => true
  | .feq _ _ _ _ => true
  | .flt _ _ _ _ => true
  | .fle _ _ _ _ => true
  | .fcls _ _ _ => true
  | .ffma _ _ _ _ _ => true
  | .ffms _ _ _ _ _ => true
  | .fcvi _ _ _ _ _ => true
  | .icvf _ _ _ _ _ => true
  | .frnd _ _ _ _ => true
  | .fscl _ _ _ _ _ => true
  | .mvgf _ _ _ => true
  | .mvfg _ _ _ => true
  | .tenc _ _ _ _ => true
  | .tdec _ _ _ => true
  | .tbld _ _ => true
  | .ldB _ _ _ _ => true
  | .ldH _ _ _ _ => true
  | .ldW _ _ _ _ => true
  | .ldD _ _ _ _ => true
  | .ldnB _ _ _ _ => true
  | .ldnH _ _ _ _ => true
  | .ldnW _ _ _ _ => true
  | .stB _ _ _ _ => true
  | .stH _ _ _ _ => true
  | .stW _ _ _ _ => true
  | .stD _ _ _ _ => true
  | .ldfH _ _ _ _ => true
  | .ldfW _ _ _ _ => true
  | .ldfD _ _ _ _ => true
  | .stfH _ _ _ _ => true
  | .stfW _ _ _ _ => true
  | .stfD _ _ _ _ => true
  | .pref _ _ _ => true
  | .cfls _ _ => true
  | .cinv _ _ => true
  | .tgld _ _ _ => true
  | .tgst _ _ _ => true
  | .visit _ _ => true
  | .tkaq _ => true
  | .tkhd _ _ => true
  | .cflx _ => true
  | .fenceAcq _ => true
  | .fenceRel _ => true
  | .fenceAr _ => true
  | .aadd _ _ _ => true
  | .aand _ _ _ => true
  | .aor _ _ _ => true
  | .axor _ _ _ => true
  | .amin _ _ _ => true
  | .amax _ _ _ => true
  | .aminn _ _ _ => true
  | .amaxn _ _ _ => true
  | .aswp _ _ _ => true
  | .acas _ _ _ _ => true
  | .afaddF32 _ _ => true
  | .aaddR _ _ _ _ => true
  | .aandR _ _ _ _ => true
  | .aorR _ _ _ _ => true
  | .axorR _ _ _ _ => true
  | .aminR _ _ _ _ => true
  | .amaxR _ _ _ _ => true
  | .aminnR _ _ _ _ => true
  | .amaxnR _ _ _ _ => true
  | .aswpR _ _ _ _ => true
  | .acasR _ _ _ _ _ => true
  | .afaddRF32 _ _ _ => true
  | .bara _ => true
  | .barw _ _ _ => true
  | .bars _ _ => true
  | .acqs _ _ => true
  | .cmts _ _ => true
  | .peks _ _ => true
  | .rels _ _ => true
  | .wtfe _ _ _ => true
  | .hnew _ _ => true
  | .hset _ => true
  | .hget _ => true
  | .hconf _ => true
  | .href _ => true
  | .hstat _ _ => true
  | .hwait _ _ _ => true
  | .acca _ _ _ => true
  | .accr _ _ _ => true
  | .accz _ => true
  | .accn _ _ _ => true
  | .accx _ _ _ => true
  | .lnch _ _ => true
  | .lnci _ _ _ => true
  | .scfg _ _ _ _ => true
  | .splc _ _ _ _ _ => true
  | .splcU _ _ _ _ => true
  | .smov _ _ _ _ _ _ => true
  | .sarm _ _ _ _ _ _ => true
  | .sbndT _ _ _ _ _ _ => true
  | .sseg _ _ _ _ => true
  | .ssyn _ _ _ _ _ => true
  | .stbl _ _ _ _ => true
  | .sdor _ _ _ _ _ => true
  | .swin _ _ _ _ _ => true
  | .swinU _ _ _ => true
  | .sagp _ _ _ _ _ _ => true
  | .sagpU _ _ _ => true
  | .sdrn _ _ _ => true
  | .shdr _ _ _ _ _ _ _ => true
  | .nadd _ => true
  | .nsub _ => true
  | .nmul _ => true
  | .nfma _ => true
  | .nmin _ => true
  | .nmax _ => true
  | .nabs _ => true
  | .nneg _ => true
  | .ncmp _ => true
  | .nsel _ => true
  | .ncvt _ => true
  | .ndec _ => true
  | .nenc _ => true
  | .nand _ => true
  | .nor _ => true
  | .nxor _ => true
  | .nshl _ => true
  | .nshr _ => true
  | .nred _ => true
  | .nacc _ => true
  | .ncnt _ => true
  | .nbnd _ => true
  | .ncon _ => true
  | .nrly _ => true
  | .nld _ => true
  | .nst _ => true
  | .nown _ => true
  | .ndor _ => true
  | .sectionStep _ => true
  | .steer _ => true
  | .gate _ => true
  | .fork _ => true
  | .sink _ => true
  | .merge _ => true
  | .carry _ => true
  | .invar _ => true
  | .cseq _ => true
  | .cpip _ => true
  | .cstr _ => true
  | .creditReturn _ _ => true
  | .flitArrive _ _ => true
  | .portResultReturn _ _ _ _ => true
  | .pageRowDrain _ _ _ => true
  | .storeEventApply _ => true
  | .issueWaitComplete _ => true
  | .divideComplete _ => true
  | .tbldComplete _ => true
  | .imageWriteComplete _ => true
  | .drainComplete _ => true
  | .storePerform _ => true
  | .feWaiterRetry _ => true
  | .atomicApply _ => true
  | .tlbWalkLevelReturn _ => true
  | .pageFillComplete _ _ => true
  | .watchDeliver _ => true
  | .landingRequestArrive _ => true
  | .landingReplyArrive _ => true
  | .caravanLand _ => true
  | .flushAckArrive _ => true
  | .tokenRequestArrive _ => true
  | .tokenRequestRetry _ => true
  | .tokenRecallComplete _ => true
  | .tokenGrantArrive _ => true
  | .llcEvict _ => true
  | .cacheEvict _ => true
  | .barrierRelease _ _ => true
  | .timedWaitTimeout _ => true
  | .signalDeliver _ => true
  | .interruptEntry _ => true
  | .retirementRun => true
  | .resyncPulse => true
  | .hypControllerRequest _ => true
  | .hconfMerge _ => true
  | .hrefDiscard _ => true
  | .orphan _ => true
  | .hypOutcomeArrive _ => true
  | .commandAccept _ => true
  | .commandComplete _ _ => true
  | .instancePlace _ => true
  | .instanceDisplace _ => true
  | .instanceCompact _ _ _ => true
  | .instanceSaveComplete _ => true
  | .segmentBoundary _ => true
  | .graphEnd _ _ => true
  | .sinkWaitTimeout _ _ => true
  | .launchStart _ _ => true
  | .threadLand _ _ => true
  | .launchComplete _ _ => true
  | .hangDetect _ => true
  | .boundaryShutter _ => true
  | .cfgeccError _ _ => true
  | .transferStart _ => true
  | .transferComplete _ _ => true
  | .edgeProgramFlit _ _ => true
  | .smigCommit _ => true
  | .tableVersionFree _ _ => true
  | .doorThreadLand _ _ => true
  | .doorResultRelease _ _ => true
  | .routeRequestFail _ _ => true
  | .routeLinkChange _ _ _ => true
  | .corePowerOff _ => true
  | .coreWake _ => true
  | .activityBalance _ _ _ => true
  | .startUp => true
  | .mgmtFrameReceive _ => true
  | .ownerReset _ => true
  | .keytabEnrol _ => true
  | .attestationRequest _ => true
  | .rerunCompare _ _ _ _ => true
  | .tlbinvWrite _ _ => true
  | .tlbInvalidationDone _ => true
  | .rgnctlCountWrite _ _ => true
  | .regionTableReadDone _ => true
  | .rlogctlPendClear _ _ => true
  | .fqctlRdWrite _ _ _ => true
  | .cxrsmResume _ _ => true
  | .cxrsmDiscard _ _ => true
  | .cxpreWrite _ _ => true
  | .cxrstGo _ => true
  | .bmaskWrite _ _ _ _ => true
  | .presRetry _ _ => true
  | .presDiscard _ _ => true
  | .stresRetry _ _ => true
  | .stresDiscard _ _ => true
  | .shutctlResume _ _ => true
  | .shutctlDiscard _ _ => true
  | .shutctlReload _ _ => true
  | .gctlCommit _ => true
  | .groupCommitDone => true
  | .routecfgWrite _ => true
  | .rtmapWrite _ _ => true
  | .rtuctlStage _ => true
  | .rtuStagingDone => true
  | .rtuctlCommit => true
  | .rtuctlAbort => true
  | .rrstatClear => true
  | .registerWrite _ _ => true
  | .placingComplete _ => true
  | .managementPortLinkUp _ => true

end Sys2Proof
end

