-- ==== Sys2Proof/Decode.lean ====
section
/-!
DEFINITION. Sys2Proof/Decode.lean: the decoders of the three layers, total on any bits and rejecting by name, and after them
the encoders, written from the same tables of spec/02_encodings.md. `decodeTableWord` is the host's question.
-/
namespace Sys2Proof

/-- Why bits are not an instruction. -/
inductive DecodeError
  | reservedMajor      -- a reserved major opcode, or 0x7F (R38)
  | reservedFunction   -- a reserved op5, aop or sub-code (R40, R42, R44, R48 to R50)
  | unusedField        -- an unused field is not zero (R36)
  | reservedValue      -- a field holds a reserved value (R41, R45 to R49)
  | fieldTooWide       -- pos + w above 64 (R41)
  | oddPair            -- an odd pair register (R46)
  | sameType           -- FCVT from its own type (R45)
  | reservedNode       -- a reserved OP value, or the idle word (R55)
  | reservedOperator   -- a reserved ROP value, or none (R57)
  | reservedCommand    -- a reserved OP of a stream command (R69)
  | reservedTarget     -- a target outside its class (R68)
  | reservedQualifier  -- a qualifier bit the command does not define (R70)
  deriving DecidableEq, Repr

/-- What a decoder answers. -/
abbrev Decoded := Except DecodeError Instr

/-! ### Fields of a 32-bit word (R35) -/

def fMajor (w : BitVec 32) : BitVec 7 := w.extractLsb' 25 7
def fD (w : BitVec 32) : BitVec 5 := w.extractLsb' 20 5
def fA (w : BitVec 32) : BitVec 5 := w.extractLsb' 15 5
def fB (w : BitVec 32) : BitVec 5 := w.extractLsb' 10 5
def fOp5 (w : BitVec 32) : BitVec 5 := w.extractLsb' 5 5
def fC (w : BitVec 32) : BitVec 5 := w.extractLsb' 0 5
def fImm15 (w : BitVec 32) : BitVec 15 := w.extractLsb' 0 15
def fImm20 (w : BitVec 32) : BitVec 20 := w.extractLsb' 0 20
def fOff25 (w : BitVec 32) : BitVec 25 := w.extractLsb' 0 25
def fQual (w : BitVec 32) : BitVec 3 := w.extractLsb' 12 3
def fOff12 (w : BitVec 32) : BitVec 12 := w.extractLsb' 0 12

/-- The register that a 5-bit field names. -/
def reg (x : BitVec 5) : Reg := x.toFin

/-! ### Codes of fields -/

/-- The rounding field (R45). -/
def rmOf (c : BitVec 5) : Option RmField :=
  match c.toNat with
  | 0 => some .dyn | 1 => some .rne | 2 => some .rtz | 3 => some .rup | 4 => some .rdn | 5 => some .rna
  | _ => none

/-- The source float code (R45). -/
def ftypeOf (c : BitVec 5) : Option FType :=
  match c.toNat with
  | 0 => some .f64 | 1 => some .f32 | 2 => some .f16 | 3 => some .b16 | 4 => some .w19
  | _ => none

/-- The integer code (R45). -/
def intTypeOf (c : BitVec 5) : Option IntType :=
  match c.toNat with
  | 0 => some .i8 | 1 => some .i16 | 2 => some .i32 | 3 => some .i64
  | 4 => some .n8 | 5 => some .n16 | 6 => some .n32 | 7 => some .n64
  | _ => none

/-- The qualifier of a load (R47). -/
def loadQualOf (q : BitVec 3) : Option LoadQual :=
  match q.toNat with
  | 0 => some .plain | 1 => some .fek | 2 => some .fec | 3 => some .nt
  | _ => none

/-- The qualifier of a store (R47). -/
def storeQualOf (q : BitVec 3) : Option StoreQual :=
  match q.toNat with
  | 0 => some .plain | 1 => some .fes | 2 => some .nt
  | _ => none

/-- The scope of a fence (R48). -/
def scopeOf (s : BitVec 3) : Option Scope :=
  match s.toNat with
  | 0 => some .thread | 1 => some .core | 2 => some .cluster | 3 => some .device | 4 => some .domain
  | _ => none

/-- The size bit of an atomic (R49). -/
def sizeOf (b : Bool) : AtomSize := if b then .d else .w

/-- The 2-bit number of a table or tile slot held in a 5-bit field (R45, R50). -/
def smallOf (c : BitVec 5) : Option (Fin 4) := if h : c.toNat < 4 then some ⟨c.toNat, h⟩ else none

/-! ### Shapes of the RR format: which fields must be zero, and which the constructor takes -/

def shDAB (k : Reg → Reg → Reg → Instr) (w : BitVec 32) : Decoded :=
  if fC w = 0 then .ok (k (reg (fD w)) (reg (fA w)) (reg (fB w))) else .error .unusedField

def shDA (k : Reg → Reg → Instr) (w : BitVec 32) : Decoded :=
  if fB w = 0 ∧ fC w = 0 then .ok (k (reg (fD w)) (reg (fA w))) else .error .unusedField

def shD (k : Reg → Instr) (w : BitVec 32) : Decoded :=
  if fA w = 0 ∧ fB w = 0 ∧ fC w = 0 then .ok (k (reg (fD w))) else .error .unusedField

def shA (k : Reg → Instr) (w : BitVec 32) : Decoded :=
  if fD w = 0 ∧ fB w = 0 ∧ fC w = 0 then .ok (k (reg (fA w))) else .error .unusedField

def shAB (k : Reg → Reg → Instr) (w : BitVec 32) : Decoded :=
  if fD w = 0 ∧ fC w = 0 then .ok (k (reg (fA w)) (reg (fB w))) else .error .unusedField

def shNone (i : Instr) (w : BitVec 32) : Decoded :=
  if fD w = 0 ∧ fA w = 0 ∧ fB w = 0 ∧ fC w = 0 then .ok i else .error .unusedField

/-! ### The majors -/

def decodeInt (w : BitVec 32) : Decoded :=
  match (fOp5 w).toNat with
  | 0x00 => shDAB .add w
  | 0x01 => shDAB .sub w
  | 0x02 => shDAB .and w
  | 0x03 => shDAB .or w
  | 0x04 => shDAB .xor w
  | 0x05 => shDAB .shl w
  | 0x06 => shDAB .shr w
  | 0x07 => shDAB .sra w
  | 0x08 => shDAB .rol w
  | 0x09 => shDAB .ror w
  | 0x0A => shDAB .min w
  | 0x0B => shDAB .max w
  | 0x0C => shDAB .minn w
  | 0x0D => shDAB .maxn w
  | 0x0E => shDAB .slt w
  | 0x0F => shDAB .sltn w
  | 0x10 => shDAB .seq w
  | 0x11 => .ok (.sel (reg (fD w)) (reg (fA w)) (reg (fB w)) (reg (fC w)))
  | _ => .error .reservedFunction

def decodeIntm (w : BitVec 32) : Decoded :=
  match (fOp5 w).toNat with
  | 0x00 => shDAB .mul w
  | 0x01 => shDAB .mulh w
  | 0x02 => shDAB .mulhn w
  | 0x03 => shDAB .div w
  | 0x04 => shDAB .divn w
  | 0x05 => shDAB .rem w
  | 0x06 => shDAB .remn w
  | 0x07 => shDA .clz w
  | 0x08 => shDA .ctz w
  | 0x09 => shDA .pop w
  | _ => .error .reservedFunction

def decodePtr (w : BitVec 32) : Decoded :=
  match (fOp5 w).toNat with
  | 0x00 =>
    if h : (fC w).toNat < 5 then .ok (.lea (reg (fD w)) (reg (fA w)) (reg (fB w)) ⟨(fC w).toNat, h⟩)
    else .error .reservedValue
  | 0x01 => shDAB .ptag w
  | 0x02 => shDAB .prgt w
  | 0x03 => shDAB .padr w
  | _ => .error .reservedFunction

/-- SHI: the function in imm 14:12, zeros in imm 11:6, the count in imm 5:0 (R41). -/
def decodeShi (w : BitVec 32) : Decoded :=
  if w.extractLsb' 6 6 = 0 then
    match (fQual w).toNat with
    | 0 => .ok (.shli (reg (fD w)) (reg (fA w)) (w.extractLsb' 0 6))
    | 1 => .ok (.shri (reg (fD w)) (reg (fA w)) (w.extractLsb' 0 6))
    | 2 => .ok (.srai (reg (fD w)) (reg (fA w)) (w.extractLsb' 0 6))
    | _ => .error .reservedFunction
  else .error .unusedField

/-- BFX and BFI: w − 1 in imm 11:6, pos in imm 5:0 (R41). -/
def shField (k : Reg → Reg → BitVec 6 → BitVec 6 → Instr) (w : BitVec 32) : Decoded :=
  if (w.extractLsb' 6 6).toNat + 1 + (w.extractLsb' 0 6).toNat ≤ 64 then
    .ok (k (reg (fD w)) (reg (fA w)) (w.extractLsb' 6 6) (w.extractLsb' 0 6))
  else .error .fieldTooWide

def decodeBfx (w : BitVec 32) : Decoded :=
  match (fQual w).toNat with
  | 0 => shField .bfx w
  | 1 => shField .bfxS w
  | _ => .error .unusedField

def decodeBfi (w : BitVec 32) : Decoded :=
  if fQual w = 0 then shField .bfi w else .error .unusedField

def decodeLoop (w : BitVec 32) : Decoded :=
  if fA w = 0 then
    if fD w = 0 then .error .reservedValue else .ok (.loop (reg (fD w)) (fImm15 w))
  else .error .unusedField

def decodeSysi (w : BitVec 32) : Decoded :=
  match (fQual w).toNat with
  | 0 =>
    if fD w = 0 ∧ fA w = 0 then
      if w.extractLsb' 11 1 = 0 then .ok (.trap (w.extractLsb' 0 11))
      else if w.extractLsb' 0 11 = 0x7FF#11 then .ok .tret
      else .ok (.trapService (w.extractLsb' 0 11))
    else .error .unusedField
  | 1 => if fA w = 0 then .ok (.mfs (reg (fD w)) (fOff12 w)) else .error .unusedField
  | 2 => if fD w = 0 then .ok (.mts (reg (fA w)) (fOff12 w)) else .error .unusedField
  | _ => .error .reservedFunction

def decodeSys (w : BitVec 32) : Decoded :=
  match (fOp5 w).toNat with
  | 0x00 => shNone .eret w
  | 0x01 => shNone .yield w
  | 0x02 => shNone .halt w
  | 0x03 => shD .tnow w
  | 0x04 => shDA .twait w
  | 0x05 => shD .qgrd w
  | 0x06 => shDA .qtop w
  | 0x07 => shDA .qspd w
  | 0x08 => shDAB .qblt w
  | 0x09 => shDA .qrng w
  | 0x0A => shA .coff w
  | 0x0B => shAB .sigv w
  | 0x0C =>
    if w.extractLsb' 3 2 = 0 then .ok (.crcc (reg (fD w)) (reg (fA w)) (reg (fB w)) (w.extractLsb' 0 3))
    else .error .reservedValue
  | _ => .error .reservedFunction

/-- A function with a rounding field (R44, R45). -/
def withRm (w : BitVec 32) (k : RmField → Instr) : Decoded :=
  match rmOf (fC w) with
  | some r => .ok (k r)
  | none => .error .reservedValue

def decodeFp (t : FType) (w : BitVec 32) : Decoded :=
  match (fOp5 w).toNat with
  | 0x00 => withRm w (.fadd t (reg (fD w)) (reg (fA w)) (reg (fB w)))
  | 0x01 => withRm w (.fsub t (reg (fD w)) (reg (fA w)) (reg (fB w)))
  | 0x02 => withRm w (.fmul t (reg (fD w)) (reg (fA w)) (reg (fB w)))
  | 0x03 => withRm w (.fdiv t (reg (fD w)) (reg (fA w)) (reg (fB w)))
  | 0x04 => if fB w = 0 then withRm w (.fsqrt t (reg (fD w)) (reg (fA w))) else .error .unusedField
  | 0x05 => shDAB (.fmin t) w
  | 0x06 => shDAB (.fmax t) w
  | 0x07 => shDA (.fabs t) w
  | 0x08 => shDA (.fneg t) w
  | 0x09 => shDAB (.fsgn t) w
  | 0x0A => shDAB (.feq t) w
  | 0x0B => shDAB (.flt t) w
  | 0x0C => shDAB (.fle t) w
  | 0x0D => shDA (.fcls t) w
  | 0x0E => .ok (.ffma t (reg (fD w)) (reg (fA w)) (reg (fB w)) (reg (fC w)))
  | 0x0F => .ok (.ffms t (reg (fD w)) (reg (fA w)) (reg (fB w)) (reg (fC w)))
  | 0x10 =>
    match ftypeOf (fB w) with
    | some src => if t = src then .error .sameType else withRm w (.fcvt t (reg (fD w)) (reg (fA w)) src)
    | none => .error .reservedValue
  | 0x11 =>
    match intTypeOf (fB w) with
    | some ty => withRm w (.fcvi t (reg (fD w)) (reg (fA w)) ty)
    | none => .error .reservedValue
  | 0x12 =>
    match intTypeOf (fB w) with
    | some ty => withRm w (.icvf t (reg (fD w)) (reg (fA w)) ty)
    | none => .error .reservedValue
  | 0x13 => if fB w = 0 then withRm w (.frnd t (reg (fD w)) (reg (fA w))) else .error .unusedField
  | 0x14 => withRm w (.fscl t (reg (fD w)) (reg (fA w)) (reg (fB w)))
  | 0x15 => shDA (.mvgf t) w
  | 0x16 => shDA (.mvfg t) w
  | 0x17 =>
    if fC w = 0 then
      match smallOf (fB w) with
      | some n => .ok (.tenc t (reg (fD w)) (reg (fA w)) n)
      | none => .error .reservedValue
    else .error .unusedField
  | 0x18 =>
    if fC w = 0 ∧ t = .w19 then
      match smallOf (fB w) with
      | some n => .ok (.tdec (reg (fD w)) (reg (fA w)) n)
      | none => .error .reservedValue
    else .error .unusedField
  | 0x19 =>
    if fC w = 0 ∧ fD w = 0 ∧ t = .w19 then
      match smallOf (fB w) with
      | some n => .ok (.tbld (reg (fA w)) n)
      | none => .error .reservedValue
    else .error .unusedField
  | _ => .error .reservedFunction

/-- A load of the M format (R46, R47). -/
def shLoad (k : Reg → Reg → LoadQual → BitVec 12 → Instr) (w : BitVec 32) : Decoded :=
  match loadQualOf (fQual w) with
  | some q => .ok (k (reg (fD w)) (reg (fA w)) q (fOff12 w))
  | none => .error .reservedValue

/-- A store of the M format (R46, R47). -/
def shStore (k : Reg → Reg → StoreQual → BitVec 12 → Instr) (w : BitVec 32) : Decoded :=
  match storeQualOf (fQual w) with
  | some q => .ok (k (reg (fD w)) (reg (fA w)) q (fOff12 w))
  | none => .error .reservedValue

/-- A pair form: d must be even (R46). -/
def shEven (w : BitVec 32) (x : Decoded) : Decoded :=
  if (fD w).toNat % 2 = 0 then x else .error .oddPair

def decodePref (w : BitVec 32) : Decoded :=
  if fQual w = 0 then
    match (fD w).toNat with
    | 0 => .ok (.pref .read (reg (fA w)) (fOff12 w))
    | 1 => .ok (.pref .write (reg (fA w)) (fOff12 w))
    | _ => .error .reservedValue
  else .error .reservedValue

/-- CFLS, CINV and VISIT: d = 0, qualifier plain (R46, R47). -/
def shBase (k : Reg → BitVec 12 → Instr) (w : BitVec 32) : Decoded :=
  if fQual w = 0 then
    if fD w = 0 then .ok (k (reg (fA w)) (fOff12 w)) else .error .unusedField
  else .error .reservedValue

/-- TGLD and TGST: qualifier plain (R46, R47). -/
def shTag (k : Reg → Reg → BitVec 12 → Instr) (w : BitVec 32) : Decoded :=
  if fQual w = 0 then .ok (k (reg (fD w)) (reg (fA w)) (fOff12 w)) else .error .reservedValue

def decodeOrd (w : BitVec 32) : Decoded :=
  match (fOp5 w).toNat with
  | 0x00 => shA .tkaq w
  | 0x01 => shAB .tkhd w
  | 0x02 => shA .cflx w
  | _ => .error .reservedFunction

def decodeFence (w : BitVec 32) : Decoded :=
  if fD w = 0 ∧ fA w = 0 ∧ w.extractLsb' 5 10 = 0 then
    match scopeOf (w.extractLsb' 0 3) with
    | some s =>
      match (w.extractLsb' 3 2).toNat with
      | 1 => .ok (.fenceAcq s)
      | 2 => .ok (.fenceRel s)
      | 3 => .ok (.fenceAr s)
      | _ => .error .reservedValue
    | none => .error .reservedValue
  else .error .unusedField

/-- A non-returning atomic: d and c zero (R49). -/
def shAtom (k : Reg → Reg → AtomSize → Instr) (w : BitVec 32) : Decoded :=
  if fD w = 0 ∧ fC w = 0 then .ok (k (reg (fA w)) (reg (fB w)) (sizeOf (w.getLsbD 5))) else .error .unusedField

/-- A returning atomic: c zero (R49). -/
def shAtomR (k : Reg → Reg → Reg → AtomSize → Instr) (w : BitVec 32) : Decoded :=
  if fC w = 0 then .ok (k (reg (fD w)) (reg (fA w)) (reg (fB w)) (sizeOf (w.getLsbD 5))) else .error .unusedField

def decodeAtom (w : BitVec 32) : Decoded :=
  match (w.extractLsb' 6 4).toNat with
  | 0x0 => shAtom .aadd w
  | 0x1 => shAtom .aand w
  | 0x2 => shAtom .aor w
  | 0x3 => shAtom .axor w
  | 0x4 => shAtom .amin w
  | 0x5 => shAtom .amax w
  | 0x6 => shAtom .aminn w
  | 0x7 => shAtom .amaxn w
  | 0x8 => shAtom .aswp w
  | 0x9 =>
    if fD w = 0 then .ok (.acas (reg (fA w)) (reg (fB w)) (sizeOf (w.getLsbD 5)) (reg (fC w)))
    else .error .unusedField
  | 0xA => if w.getLsbD 5 then .error .reservedValue else shAB .afaddF32 w
  | _ => .error .reservedFunction

def decodeAtomR (w : BitVec 32) : Decoded :=
  match (w.extractLsb' 6 4).toNat with
  | 0x0 => shAtomR .aaddR w
  | 0x1 => shAtomR .aandR w
  | 0x2 => shAtomR .aorR w
  | 0x3 => shAtomR .axorR w
  | 0x4 => shAtomR .aminR w
  | 0x5 => shAtomR .amaxR w
  | 0x6 => shAtomR .aminnR w
  | 0x7 => shAtomR .amaxnR w
  | 0x8 => shAtomR .aswpR w
  | 0x9 => .ok (.acasR (reg (fD w)) (reg (fA w)) (reg (fB w)) (sizeOf (w.getLsbD 5)) (reg (fC w)))
  | 0xA => if w.getLsbD 5 then .error .reservedValue else shDAB .afaddRF32 w
  | _ => .error .reservedFunction

def decodeSync (w : BitVec 32) : Decoded :=
  match (fOp5 w).toNat with
  | 0x00 => shA .bara w
  | 0x01 => shDAB .barw w
  | 0x02 => shDA .bars w
  | 0x03 => shDA .acqs w
  | 0x04 => shAB .cmts w
  | 0x05 => shDA .peks w
  | 0x06 => shAB .rels w
  | 0x07 => shDAB .wtfe w
  | _ => .error .reservedFunction

def decodeHyp (w : BitVec 32) : Decoded :=
  match (fOp5 w).toNat with
  | 0x00 => shDA .hnew w
  | 0x01 => shA .hset w
  | 0x02 => shD .hget w
  | 0x03 => shA .hconf w
  | 0x04 => shA .href w
  | 0x05 => shDA .hstat w
  | 0x06 => shDAB .hwait w
  | _ => .error .reservedFunction

def decodeAcc (w : BitVec 32) : Decoded :=
  match smallOf (fC w) with
  | none => .error .reservedValue
  | some n =>
    match (fOp5 w).toNat with
    | 0x00 => if fD w = 0 then .ok (.acca (reg (fA w)) (reg (fB w)) n) else .error .unusedField
    | 0x01 => if fD w = 0 then .ok (.accr (reg (fA w)) (reg (fB w)) n) else .error .unusedField
    | 0x02 => if fD w = 0 ∧ fA w = 0 ∧ fB w = 0 then .ok (.accz n) else .error .unusedField
    | 0x03 => if fA w = 0 then .ok (.accn (reg (fD w)) (reg (fB w)) n) else .error .unusedField
    | 0x04 => if fA w = 0 then .ok (.accx (reg (fD w)) (reg (fB w)) n) else .error .unusedField
    | _ => .error .reservedFunction

def decodeLnch (w : BitVec 32) : Decoded :=
  match (fOp5 w).toNat with
  | 0x00 => shAB .lnch w
  | 0x01 => if fD w = 0 then .ok (.lnci (reg (fA w)) (reg (fB w)) (reg (fC w))) else .error .unusedField
  | _ => .error .reservedFunction

/-- The decoder of layer 1 (R35 to R50). Major 0x00 stands for ILLEGAL itself; every other word that is not an instruction is
rejected by name, and the step then takes the ILLEGAL trap with it. -/
def decode (w : BitVec 32) : Decoded :=
  match (fMajor w).toNat with
  | 0x00 => .ok (.illegal w)
  | 0x01 => decodeInt w
  | 0x02 => decodeIntm w
  | 0x03 => decodePtr w
  | 0x04 => .ok (.addi (reg (fD w)) (reg (fA w)) (fImm15 w))
  | 0x05 => .ok (.andi (reg (fD w)) (reg (fA w)) (fImm15 w))
  | 0x06 => .ok (.ori (reg (fD w)) (reg (fA w)) (fImm15 w))
  | 0x07 => .ok (.xori (reg (fD w)) (reg (fA w)) (fImm15 w))
  | 0x08 => decodeShi w
  | 0x09 => decodeBfx w
  | 0x0A => decodeBfi w
  | 0x0B => .ok (.lui (reg (fD w)) (fImm20 w))
  | 0x0C => .ok (.luih (reg (fD w)) (fImm20 w))
  | 0x0D => .ok (.adpc (reg (fD w)) (fImm20 w))
  | 0x10 => .ok (.beq (reg (fD w)) (reg (fA w)) (fImm15 w))
  | 0x11 => .ok (.bne (reg (fD w)) (reg (fA w)) (fImm15 w))
  | 0x12 => .ok (.blt (reg (fD w)) (reg (fA w)) (fImm15 w))
  | 0x13 => .ok (.bge (reg (fD w)) (reg (fA w)) (fImm15 w))
  | 0x14 => .ok (.bltn (reg (fD w)) (reg (fA w)) (fImm15 w))
  | 0x15 => .ok (.bgen (reg (fD w)) (reg (fA w)) (fImm15 w))
  | 0x16 => .ok (.j (fOff25 w))
  | 0x17 => .ok (.jal (fOff25 w))
  | 0x18 => .ok (.jalr (reg (fD w)) (reg (fA w)) (fImm15 w))
  | 0x19 => decodeLoop w
  | 0x1A => decodeSysi w
  | 0x1B => decodeSys w
  | 0x20 => decodeFp .f64 w
  | 0x21 => decodeFp .f32 w
  | 0x22 => decodeFp .f16 w
  | 0x23 => decodeFp .b16 w
  | 0x24 => decodeFp .w19 w
  | 0x30 => shLoad .ldB w
  | 0x31 => shLoad .ldH w
  | 0x32 => shLoad .ldW w
  | 0x33 => shLoad .ldD w
  | 0x34 => shLoad .ldnB w
  | 0x35 => shLoad .ldnH w
  | 0x36 => shLoad .ldnW w
  | 0x38 => shStore .stB w
  | 0x39 => shStore .stH w
  | 0x3A => shStore .stW w
  | 0x3B => shStore .stD w
  | 0x3C => shLoad .ldfH w
  | 0x3D => shLoad .ldfW w
  | 0x3E => shLoad .ldfD w
  | 0x40 => shStore .stfH w
  | 0x41 => shStore .stfW w
  | 0x42 => shStore .stfD w
  | 0x43 => shEven w (shLoad .ldp w)
  | 0x44 => shEven w (shStore .stp w)
  | 0x45 => decodePref w
  | 0x46 => shBase .cfls w
  | 0x47 => shBase .cinv w
  | 0x48 => shTag .tgld w
  | 0x49 => shTag .tgst w
  | 0x4A => shBase .visit w
  | 0x50 => decodeOrd w
  | 0x51 => decodeFence w
  | 0x52 => decodeAtom w
  | 0x53 => decodeAtomR w
  | 0x54 => decodeSync w
  | 0x55 => decodeHyp w
  | 0x56 => decodeAcc w
  | 0x57 => decodeLnch w
  | _ => .error .reservedMajor

/-! ### Layer 2: node and router words (R53 to R57) -/

/-- The fields of a node word below OP (R53). -/
def nodeFields (w : BitVec 64) : NodeFields :=
  { ety := w.extractLsb' 52 4, fn := w.extractLsb' 48 4, ina := w.extractLsb' 44 4, inb := w.extractLsb' 40 4,
    inc := w.extractLsb' 36 4, omask := w.extractLsb' 20 16, param := w.extractLsb' 0 20 }

/-- The fields of a router word beside ROP (R56). -/
def routerFields (w : BitVec 64) : RouterFields :=
  { swmask := w.extractLsb' 48 16, ctl := w.extractLsb' 40 4, ia := w.extractLsb' 36 4, ib := w.extractLsb' 32 4,
    oa := w.extractLsb' 16 16, ob := w.extractLsb' 0 16 }

/-- The decoder of node words (R55). -/
def decodeNode (w : BitVec 64) : Decoded :=
  match (w.extractLsb' 56 8).toNat with
  | 0x01 => .ok (.nadd (nodeFields w))
  | 0x02 => .ok (.nsub (nodeFields w))
  | 0x03 => .ok (.nmul (nodeFields w))
  | 0x04 => .ok (.nfma (nodeFields w))
  | 0x05 => .ok (.nmin (nodeFields w))
  | 0x06 => .ok (.nmax (nodeFields w))
  | 0x07 => .ok (.nabs (nodeFields w))
  | 0x08 => .ok (.nneg (nodeFields w))
  | 0x09 => .ok (.ncmp (nodeFields w))
  | 0x0A => .ok (.nsel (nodeFields w))
  | 0x0B => .ok (.ncvt (nodeFields w))
  | 0x0C => .ok (.ndec (nodeFields w))
  | 0x0D => .ok (.nenc (nodeFields w))
  | 0x0E => .ok (.nand (nodeFields w))
  | 0x0F => .ok (.nor (nodeFields w))
  | 0x10 => .ok (.nxor (nodeFields w))
  | 0x11 => .ok (.nshl (nodeFields w))
  | 0x12 => .ok (.nshr (nodeFields w))
  | 0x13 => .ok (.nred (nodeFields w))
  | 0x14 => .ok (.nacc (nodeFields w))
  | 0x15 => .ok (.ncnt (nodeFields w))
  | 0x16 => .ok (.nbnd (nodeFields w))
  | 0x17 => .ok (.ncon (nodeFields w))
  | 0x18 => .ok (.nrly (nodeFields w))
  | 0x20 => .ok (.nld (nodeFields w))
  | 0x21 => .ok (.nst (nodeFields w))
  | 0x22 => .ok (.nown (nodeFields w))
  | 0x23 => .ok (.ndor (nodeFields w))
  | 0x30 => .ok (.sectionStep (nodeFields w))
  | _ => .error .reservedNode

/-- The decoder of router words (R57). -/
def decodeRouter (w : BitVec 64) : Decoded :=
  match (w.extractLsb' 44 4).toNat with
  | 0x1 => .ok (.steer (routerFields w))
  | 0x2 => .ok (.carry (routerFields w))
  | 0x3 => .ok (.invar (routerFields w))
  | 0x4 => .ok (.merge (routerFields w))
  | 0x5 => .ok (.gate (routerFields w))
  | 0x6 => .ok (.fork (routerFields w))
  | 0x7 => .ok (.sink (routerFields w))
  | 0x8 => .ok (.cseq (routerFields w))
  | 0x9 => .ok (.cpip (routerFields w))
  | 0xA => .ok (.cstr (routerFields w))
  | _ => .error .reservedOperator

/-! ### Layer 3: stream commands (R67 to R70) -/

def cmdQual (w : BitVec 128) : CmdQual := { b := w.getLsbD 119, s := w.getLsbD 118 }

/-- Whether every listed run of operand bits (first bit, length) is zero (R70). -/
def unusedZero (w : BitVec 128) (runs : List (Nat × Nat)) : Bool :=
  runs.all fun r => (w.toNat >>> r.1) % 2 ^ r.2 == 0

/-- The checks of R70 on a command: the qualifier bits it defines (a mask of bits 117:112), the target and unused bits. -/
def checked (w : BitVec 128) (quals : BitVec 6) (target : Bool) (runs : List (Nat × Nat)) (i : Instr) : Decoded :=
  if w.extractLsb' 112 6 &&& ~~~quals ≠ 0 then .error .reservedQualifier
  else if !target then .error .reservedTarget
  else if unusedZero w runs then .ok i
  else .error .unusedField

/-- The target field (R67). -/
def cmdTarget (w : BitVec 128) : BitVec 8 := w.extractLsb' 104 8

/-- SCFG (R332). -/
def decodeScfg (w : BitVec 128) : Decoded :=
  checked w 0 (cmdTarget w == 0) [(46, 2), (99, 5)]
    (.scfg (cmdQual w) (w.extractLsb' 0 46) (w.extractLsb' 48 48) (w.extractLsb' 96 3))

/-- SPLC (R334). -/
def decodeSplc (w : BitVec 128) : Decoded :=
  checked w 1 (cmdTarget w == 0) [(3, 5), (18, 6), (30, 74)]
    (.splc (cmdQual w) (w.getLsbD 112) (w.extractLsb' 0 3) (w.extractLsb' 8 10) (w.extractLsb' 24 6))

/-- SPLC_U (R334). -/
def decodeSplcU (w : BitVec 128) : Decoded :=
  checked w 3 (cmdTarget w == 0) [(3, 21), (30, 74)]
    (.splcU (cmdQual w) (w.getLsbD 112) (w.extractLsb' 0 3) (w.extractLsb' 24 6))

/-- SMOV (R337). -/
def decodeSmov (w : BitVec 128) : Decoded :=
  checked w 0 (cmdTarget w == 0) [(3, 5), (29, 75)]
    (.smov (cmdQual w) (w.extractLsb' 0 3) (w.extractLsb' 8 10) (w.extractLsb' 18 5) (w.extractLsb' 23 5) (w.getLsbD 28))

/-- SARM (R341). -/
def decodeSarm (w : BitVec 128) : Decoded :=
  checked w 1 (true) [(13, 3), (48, 56)]
    (.sarm (cmdQual w) (w.getLsbD 112) (w.extractLsb' 104 8) (w.extractLsb' 0 3) (w.extractLsb' 3 10) (w.extractLsb' 16 32))

/-- SBND (R342). -/
def decodeSbnd (w : BitVec 128) : Decoded :=
  if (w.extractLsb' 80 4).toNat < 8 then
    checked w 0 (true) [(13, 3), (84, 20)]
    (.sbnd (cmdQual w) (w.extractLsb' 104 8) (w.extractLsb' 0 3) (w.extractLsb' 3 10) (w.extractLsb' 16 64) (w.extractLsb' 80 4))
  else .error .reservedValue

/-- SBND_T (R342). -/
def decodeSbndT (w : BitVec 128) : Decoded :=
  checked w 1 (cmdTarget w == 0) [(13, 3), (32, 72)]
    (.sbndT (cmdQual w) (w.extractLsb' 0 3) (w.extractLsb' 3 10) (w.extractLsb' 16 10) (w.extractLsb' 26 2) (w.extractLsb' 28 4))

/-- SSEG (R343). -/
def decodeSseg (w : BitVec 128) : Decoded :=
  checked w 1 (cmdTarget w == 0) [(3, 5), (40, 64)]
    (.sseg (cmdQual w) (w.getLsbD 112) (w.extractLsb' 0 3) (w.extractLsb' 8 32))

/-- SSYN (R347). -/
def decodeSsyn (w : BitVec 128) : Decoded :=
  checked w 1 ((cmdTarget w).toNat < 64) [(52, 12), (96, 8)]
    (.ssyn (cmdQual w) (w.getLsbD 112) (w.extractLsb' 104 6) (w.extractLsb' 0 52) (w.extractLsb' 64 32))

/-- SCPY (R371). -/
def decodeScpy (w : BitVec 128) : Decoded :=
  checked w 0 (streamerTarget (cmdTarget w)) [(46, 2), (62, 42)]
    (.scpy (cmdQual w) { tgt := w.extractLsb' 104 8, desc := w.extractLsb' 0 46, slot := w.extractLsb' 48 3, inst := w.extractLsb' 51 10, bnd := w.getLsbD 61 })

/-- SGTH (R373). -/
def decodeSgth (w : BitVec 128) : Decoded :=
  checked w 0 (streamerTarget (cmdTarget w)) [(46, 2), (62, 42)]
    (.sgth (cmdQual w) { tgt := w.extractLsb' 104 8, desc := w.extractLsb' 0 46, slot := w.extractLsb' 48 3, inst := w.extractLsb' 51 10, bnd := w.getLsbD 61 })

/-- SSCT (R373). -/
def decodeSsct (w : BitVec 128) : Decoded :=
  checked w 0 (streamerTarget (cmdTarget w)) [(46, 2), (62, 42)]
    (.ssct (cmdQual w) { tgt := w.extractLsb' 104 8, desc := w.extractLsb' 0 46, slot := w.extractLsb' 48 3, inst := w.extractLsb' 51 10, bnd := w.getLsbD 61 })

/-- SLKP (R373). -/
def decodeSlkp (w : BitVec 128) : Decoded :=
  checked w 0 (streamerTarget (cmdTarget w)) [(46, 2), (62, 42)]
    (.slkp (cmdQual w) { tgt := w.extractLsb' 104 8, desc := w.extractLsb' 0 46, slot := w.extractLsb' 48 3, inst := w.extractLsb' 51 10, bnd := w.getLsbD 61 })

/-- SUPD (R373). -/
def decodeSupd (w : BitVec 128) : Decoded :=
  checked w 0 (streamerTarget (cmdTarget w)) [(46, 2), (62, 42)]
    (.supd (cmdQual w) { tgt := w.extractLsb' 104 8, desc := w.extractLsb' 0 46, slot := w.extractLsb' 48 3, inst := w.extractLsb' 51 10, bnd := w.getLsbD 61 })

/-- SMIG (R377). -/
def decodeSmig (w : BitVec 128) : Decoded :=
  checked w 0 (streamerTarget (cmdTarget w)) [(48, 56)]
    (.smig (cmdQual w) (w.extractLsb' 104 8) (w.extractLsb' 0 48))

/-- STBL (R376). -/
def decodeStbl (w : BitVec 128) : Decoded :=
  checked w 0 (cmdTarget w == 0) [(4, 4), (103, 1)]
    (.stbl (cmdQual w) (w.extractLsb' 0 4) (w.extractLsb' 8 46) (w.extractLsb' 54 49))

/-- SDOR (R381). -/
def decodeSdor (w : BitVec 128) : Decoded :=
  checked w 0 (true) [(13, 3), (64, 40)]
    (.sdor (cmdQual w) (w.extractLsb' 104 8) (w.extractLsb' 0 3) (w.extractLsb' 3 10) (w.extractLsb' 16 48))

/-- SWIN (R389). -/
def decodeSwin (w : BitVec 128) : Decoded :=
  checked w 0 ((cmdTarget w).toNat < 16) [(99, 5)]
    (.swin (cmdQual w) (w.extractLsb' 104 4) (w.extractLsb' 0 3) (w.extractLsb' 3 48) (w.extractLsb' 51 48))

/-- SWIN_U (R389). -/
def decodeSwinU (w : BitVec 128) : Decoded :=
  checked w 1 ((cmdTarget w).toNat < 16) [(3, 101)]
    (.swinU (cmdQual w) (w.extractLsb' 104 4) (w.extractLsb' 0 3))

/-- SAGP (R378). -/
def decodeSagp (w : BitVec 128) : Decoded :=
  checked w 0 ((cmdTarget w).toNat < 128) [(2, 2), (50, 1), (64, 40)]
    (.sagp (cmdQual w) (w.extractLsb' 104 7) (w.extractLsb' 0 2) (w.extractLsb' 4 46) (w.extractLsb' 51 3) (w.extractLsb' 54 10))

/-- SAGP_U (R378). -/
def decodeSagpU (w : BitVec 128) : Decoded :=
  checked w 1 ((cmdTarget w).toNat < 128) [(2, 102)]
    (.sagpU (cmdQual w) (w.extractLsb' 104 7) (w.extractLsb' 0 2))

/-- SRED (R430). -/
def decodeSred (w : BitVec 128) : Decoded :=
  checked w 0 (streamerTarget (cmdTarget w)) [(46, 2), (62, 42)]
    (.sred (cmdQual w) { tgt := w.extractLsb' 104 8, desc := w.extractLsb' 0 46, slot := w.extractLsb' 48 3, inst := w.extractLsb' 51 10, bnd := w.getLsbD 61 })

/-- SCOL (R431). -/
def decodeScol (w : BitVec 128) : Decoded :=
  checked w 0 (streamerTarget (cmdTarget w)) [(46, 2), (62, 42)]
    (.scol (cmdQual w) { tgt := w.extractLsb' 104 8, desc := w.extractLsb' 0 46, slot := w.extractLsb' 48 3, inst := w.extractLsb' 51 10, bnd := w.getLsbD 61 })

/-- SDRN (R411). -/
def decodeSdrn (w : BitVec 128) : Decoded :=
  checked w 1 (true) [(40, 8), (90, 14)]
    (.sdrn (cmdQual w) (w.getLsbD 112) { ep := w.extractLsb' 104 8, slot := w.extractLsb' 0 3, inst := w.extractLsb' 3 10, page := w.extractLsb' 13 10, asl := w.extractLsb' 23 2, fmt := w.extractLsb' 25 2, rm := w.extractLsb' 27 3, tbl := w.extractLsb' 30 2, scl := w.extractLsb' 32 8, elink := w.extractLsb' 48 32, epage := w.extractLsb' 80 10 })

/-- SHDR (R413). With EN = 0 a nonzero SCALE or TSLOT is accepted: the rule does not call them unused there.
(DESIGN CHOICE, assumption 54) -/
def decodeShdr (w : BitVec 128) : Decoded :=
  checked w 0 (true) [(13, 3), (27, 77)]
    (.shdr (cmdQual w) (w.extractLsb' 104 8) (w.extractLsb' 0 3) (w.extractLsb' 3 10) (w.extractLsb' 16 8) (w.extractLsb' 24 2) (w.getLsbD 26))

/-- The decoder of stream commands (R69): the forms of one OP are told apart by their qualifier. -/
def decodeStream (w : BitVec 128) : Decoded :=
  match (w.extractLsb' 120 8).toNat with
  | 0x01 => decodeScfg w
  | 0x02 => if w.getLsbD 113 then decodeSplcU w else decodeSplc w
  | 0x03 => decodeSmov w
  | 0x04 => decodeSarm w
  | 0x05 => if w.getLsbD 112 then decodeSbndT w else decodeSbnd w
  | 0x06 => decodeSseg w
  | 0x07 => decodeSsyn w
  | 0x10 => decodeScpy w
  | 0x11 => decodeSgth w
  | 0x12 => decodeSsct w
  | 0x13 => decodeSlkp w
  | 0x14 => decodeSupd w
  | 0x15 => decodeSmig w
  | 0x16 => decodeStbl w
  | 0x18 => decodeSdor w
  | 0x19 => if w.getLsbD 112 then decodeSwinU w else decodeSwin w
  | 0x1A => if w.getLsbD 112 then decodeSagpU w else decodeSagp w
  | 0x20 => decodeSred w
  | 0x21 => decodeScol w
  | 0x22 => decodeSdrn w
  | 0x23 => decodeShdr w
  | _ => .error .reservedCommand

/-- The host's question: the instruction whose bits are `w`, in a word of 32, 64 (a node word) or 128 bits. The table gives
bits to the 32-bit rows alone. (DESIGN CHOICE, assumption 4) -/
def decodeTableWord (nbits w : Nat) : Option Instr :=
  if nbits ≤ 32 then (decode (BitVec.ofNat 32 w)).toOption
  else if nbits ≤ 64 then (decodeNode (BitVec.ofNat 64 w)).toOption
  else (decodeStream (BitVec.ofNat 128 w)).toOption

/-! ### Encoders -/

/-- The number of a register as a 5-bit field. -/
def num (r : Reg) : BitVec 5 := BitVec.ofFin r

/-- The RI, M and BR layout: major, two registers, fifteen bits (R35). -/
def encRI (major : BitVec 7) (d a : BitVec 5) (imm : BitVec 15) : BitVec 32 := major ++ d ++ a ++ imm

/-- The RR layout (R35). -/
def encRR (major : BitVec 7) (d a b op5 c : BitVec 5) : BitVec 32 := major ++ d ++ a ++ b ++ op5 ++ c

/-- The RR layout of an atomic: aop, sz and c (R49). -/
def encAt (major : BitVec 7) (d a b : BitVec 5) (aop : BitVec 4) (sz : BitVec 1) (c : BitVec 5) : BitVec 32 :=
  major ++ d ++ a ++ b ++ aop ++ sz ++ c

/-- The M layout (R35). -/
def encM (major : BitVec 7) (d base : BitVec 5) (q : BitVec 3) (off : BitVec 12) : BitVec 32 := major ++ d ++ base ++ q ++ off

/-- The U layout (R35). -/
def encU (major : BitVec 7) (d : BitVec 5) (imm : BitVec 20) : BitVec 32 := major ++ d ++ imm

/-- The J layout (R35). -/
def encJ (major : BitVec 7) (off : BitVec 25) : BitVec 32 := major ++ off

def rmCode : RmField → BitVec 5
  | .dyn => 0 | .rne => 1 | .rtz => 2 | .rup => 3 | .rdn => 4 | .rna => 5

def ftypeCode : FType → BitVec 5
  | .f64 => 0 | .f32 => 1 | .f16 => 2 | .b16 => 3 | .w19 => 4

def fpMajor : FType → BitVec 7
  | .f64 => 0x20 | .f32 => 0x21 | .f16 => 0x22 | .b16 => 0x23 | .w19 => 0x24

def intTypeCode : IntType → BitVec 5
  | .i8 => 0 | .i16 => 1 | .i32 => 2 | .i64 => 3 | .n8 => 4 | .n16 => 5 | .n32 => 6 | .n64 => 7

def loadQualCode : LoadQual → BitVec 3
  | .plain => 0 | .fek => 1 | .fec => 2 | .nt => 3

def storeQualCode : StoreQual → BitVec 3
  | .plain => 0 | .fes => 1 | .nt => 2

def scopeCode : Scope → BitVec 3
  | .thread => 0 | .core => 1 | .cluster => 2 | .device => 3 | .domain => 4

def sizeCode : AtomSize → BitVec 1
  | .w => 0 | .d => 1

def smallCode (n : Fin 4) : BitVec 5 := BitVec.ofNat 5 n.val

/-- The encoder of layer 1; a term of another layer has no 32-bit word. -/
def encode : Instr → Option (BitVec 32)
  | .illegal w => some w
  | .add d a b => some (encRR 0x01 (num d) (num a) (num b) 0x00 0)
  | .sub d a b => some (encRR 0x01 (num d) (num a) (num b) 0x01 0)
  | .and d a b => some (encRR 0x01 (num d) (num a) (num b) 0x02 0)
  | .or d a b => some (encRR 0x01 (num d) (num a) (num b) 0x03 0)
  | .xor d a b => some (encRR 0x01 (num d) (num a) (num b) 0x04 0)
  | .shl d a b => some (encRR 0x01 (num d) (num a) (num b) 0x05 0)
  | .shr d a b => some (encRR 0x01 (num d) (num a) (num b) 0x06 0)
  | .sra d a b => some (encRR 0x01 (num d) (num a) (num b) 0x07 0)
  | .rol d a b => some (encRR 0x01 (num d) (num a) (num b) 0x08 0)
  | .ror d a b => some (encRR 0x01 (num d) (num a) (num b) 0x09 0)
  | .min d a b => some (encRR 0x01 (num d) (num a) (num b) 0x0A 0)
  | .max d a b => some (encRR 0x01 (num d) (num a) (num b) 0x0B 0)
  | .minn d a b => some (encRR 0x01 (num d) (num a) (num b) 0x0C 0)
  | .maxn d a b => some (encRR 0x01 (num d) (num a) (num b) 0x0D 0)
  | .slt d a b => some (encRR 0x01 (num d) (num a) (num b) 0x0E 0)
  | .sltn d a b => some (encRR 0x01 (num d) (num a) (num b) 0x0F 0)
  | .seq d a b => some (encRR 0x01 (num d) (num a) (num b) 0x10 0)
  | .sel d a b c => some (encRR 0x01 (num d) (num a) (num b) 0x11 (num c))
  | .mul d a b => some (encRR 0x02 (num d) (num a) (num b) 0x00 0)
  | .mulh d a b => some (encRR 0x02 (num d) (num a) (num b) 0x01 0)
  | .mulhn d a b => some (encRR 0x02 (num d) (num a) (num b) 0x02 0)
  | .div d a b => some (encRR 0x02 (num d) (num a) (num b) 0x03 0)
  | .divn d a b => some (encRR 0x02 (num d) (num a) (num b) 0x04 0)
  | .rem d a b => some (encRR 0x02 (num d) (num a) (num b) 0x05 0)
  | .remn d a b => some (encRR 0x02 (num d) (num a) (num b) 0x06 0)
  | .clz d a => some (encRR 0x02 (num d) (num a) 0 0x07 0)
  | .ctz d a => some (encRR 0x02 (num d) (num a) 0 0x08 0)
  | .pop d a => some (encRR 0x02 (num d) (num a) 0 0x09 0)
  | .lea d a b s => some (encRR 0x03 (num d) (num a) (num b) 0x00 (BitVec.ofNat 5 s.val))
  | .ptag d a b => some (encRR 0x03 (num d) (num a) (num b) 0x01 0)
  | .prgt d a b => some (encRR 0x03 (num d) (num a) (num b) 0x02 0)
  | .padr d a b => some (encRR 0x03 (num d) (num a) (num b) 0x03 0)
  | .addi d a i => some (encRI 0x04 (num d) (num a) i)
  | .andi d a i => some (encRI 0x05 (num d) (num a) i)
  | .ori d a i => some (encRI 0x06 (num d) (num a) i)
  | .xori d a i => some (encRI 0x07 (num d) (num a) i)
  | .shli d a n => some (encRI 0x08 (num d) (num a) (0#3 ++ 0#6 ++ n))
  | .shri d a n => some (encRI 0x08 (num d) (num a) (1#3 ++ 0#6 ++ n))
  | .srai d a n => some (encRI 0x08 (num d) (num a) (2#3 ++ 0#6 ++ n))
  | .bfx d a w p => some (encRI 0x09 (num d) (num a) (0#3 ++ w ++ p))
  | .bfxS d a w p => some (encRI 0x09 (num d) (num a) (1#3 ++ w ++ p))
  | .bfi d a w p => some (encRI 0x0A (num d) (num a) (0#3 ++ w ++ p))
  | .lui d i => some (encU 0x0B (num d) i)
  | .luih d i => some (encU 0x0C (num d) i)
  | .adpc d i => some (encU 0x0D (num d) i)
  | .beq a b o => some (encRI 0x10 (num a) (num b) o)
  | .bne a b o => some (encRI 0x11 (num a) (num b) o)
  | .blt a b o => some (encRI 0x12 (num a) (num b) o)
  | .bge a b o => some (encRI 0x13 (num a) (num b) o)
  | .bltn a b o => some (encRI 0x14 (num a) (num b) o)
  | .bgen a b o => some (encRI 0x15 (num a) (num b) o)
  | .j o => some (encJ 0x16 o)
  | .jal o => some (encJ 0x17 o)
  | .jalr d a i => some (encRI 0x18 (num d) (num a) i)
  | .loop a o => some (encRI 0x19 (num a) 0 o)
  | .trap c => some (encM 0x1A 0 0 0 (0#1 ++ c))
  | .trapService c => some (encM 0x1A 0 0 0 (1#1 ++ c))
  | .tret => some (encM 0x1A 0 0 0 0xFFF)
  | .mfs d n => some (encM 0x1A (num d) 0 1 n)
  | .mts a n => some (encM 0x1A 0 (num a) 2 n)
  | .eret => some (encRR 0x1B (0) (0) (0) 0x00 0)
  | .yield => some (encRR 0x1B (0) (0) (0) 0x01 0)
  | .halt => some (encRR 0x1B (0) (0) (0) 0x02 0)
  | .tnow d => some (encRR 0x1B (num d) (0) (0) 0x03 0)
  | .twait d a => some (encRR 0x1B (num d) (num a) (0) 0x04 0)
  | .qgrd d => some (encRR 0x1B (num d) (0) (0) 0x05 0)
  | .qtop d a => some (encRR 0x1B (num d) (num a) (0) 0x06 0)
  | .qspd d a => some (encRR 0x1B (num d) (num a) (0) 0x07 0)
  | .qblt d a b => some (encRR 0x1B (num d) (num a) (num b) 0x08 0)
  | .qrng d a => some (encRR 0x1B (num d) (num a) (0) 0x09 0)
  | .coff a => some (encRR 0x1B (0) (num a) (0) 0x0A 0)
  | .sigv a b => some (encRR 0x1B (0) (num a) (num b) 0x0B 0)
  | .crcc d a b n => some (encRR 0x1B (num d) (num a) (num b) 0x0C (0#2 ++ n))
  | .fadd t d a b r => some (encRR (fpMajor t) (num d) (num a) (num b) 0x00 (rmCode r))
  | .fsub t d a b r => some (encRR (fpMajor t) (num d) (num a) (num b) 0x01 (rmCode r))
  | .fmul t d a b r => some (encRR (fpMajor t) (num d) (num a) (num b) 0x02 (rmCode r))
  | .fdiv t d a b r => some (encRR (fpMajor t) (num d) (num a) (num b) 0x03 (rmCode r))
  | .fsqrt t d a r => some (encRR (fpMajor t) (num d) (num a) 0 0x04 (rmCode r))
  | .fmin t d a b => some (encRR (fpMajor t) (num d) (num a) (num b) 0x05 0)
  | .fmax t d a b => some (encRR (fpMajor t) (num d) (num a) (num b) 0x06 0)
  | .fabs t d a => some (encRR (fpMajor t) (num d) (num a) 0 0x07 0)
  | .fneg t d a => some (encRR (fpMajor t) (num d) (num a) 0 0x08 0)
  | .fsgn t d a b => some (encRR (fpMajor t) (num d) (num a) (num b) 0x09 0)
  | .feq t d a b => some (encRR (fpMajor t) (num d) (num a) (num b) 0x0A 0)
  | .flt t d a b => some (encRR (fpMajor t) (num d) (num a) (num b) 0x0B 0)
  | .fle t d a b => some (encRR (fpMajor t) (num d) (num a) (num b) 0x0C 0)
  | .fcls t d a => some (encRR (fpMajor t) (num d) (num a) 0 0x0D 0)
  | .ffma t d a b c => some (encRR (fpMajor t) (num d) (num a) (num b) 0x0E (num c))
  | .ffms t d a b c => some (encRR (fpMajor t) (num d) (num a) (num b) 0x0F (num c))
  | .fcvt t d a src r => some (encRR (fpMajor t) (num d) (num a) (ftypeCode src) 0x10 (rmCode r))
  | .fcvi t d a ty r => some (encRR (fpMajor t) (num d) (num a) (intTypeCode ty) 0x11 (rmCode r))
  | .icvf t d a ty r => some (encRR (fpMajor t) (num d) (num a) (intTypeCode ty) 0x12 (rmCode r))
  | .frnd t d a r => some (encRR (fpMajor t) (num d) (num a) 0 0x13 (rmCode r))
  | .fscl t d a b r => some (encRR (fpMajor t) (num d) (num a) (num b) 0x14 (rmCode r))
  | .mvgf t d a => some (encRR (fpMajor t) (num d) (num a) 0 0x15 0)
  | .mvfg t d a => some (encRR (fpMajor t) (num d) (num a) 0 0x16 0)
  | .tenc t d a n => some (encRR (fpMajor t) (num d) (num a) (smallCode n) 0x17 0)
  | .tdec d a n => some (encRR 0x24 (num d) (num a) (smallCode n) 0x18 0)
  | .tbld a n => some (encRR 0x24 0 (num a) (smallCode n) 0x19 0)
  | .ldB d b q o => some (encM 0x30 (num d) (num b) (loadQualCode q) o)
  | .ldH d b q o => some (encM 0x31 (num d) (num b) (loadQualCode q) o)
  | .ldW d b q o => some (encM 0x32 (num d) (num b) (loadQualCode q) o)
  | .ldD d b q o => some (encM 0x33 (num d) (num b) (loadQualCode q) o)
  | .ldnB d b q o => some (encM 0x34 (num d) (num b) (loadQualCode q) o)
  | .ldnH d b q o => some (encM 0x35 (num d) (num b) (loadQualCode q) o)
  | .ldnW d b q o => some (encM 0x36 (num d) (num b) (loadQualCode q) o)
  | .stB d b q o => some (encM 0x38 (num d) (num b) (storeQualCode q) o)
  | .stH d b q o => some (encM 0x39 (num d) (num b) (storeQualCode q) o)
  | .stW d b q o => some (encM 0x3A (num d) (num b) (storeQualCode q) o)
  | .stD d b q o => some (encM 0x3B (num d) (num b) (storeQualCode q) o)
  | .ldfH d b q o => some (encM 0x3C (num d) (num b) (loadQualCode q) o)
  | .ldfW d b q o => some (encM 0x3D (num d) (num b) (loadQualCode q) o)
  | .ldfD d b q o => some (encM 0x3E (num d) (num b) (loadQualCode q) o)
  | .stfH d b q o => some (encM 0x40 (num d) (num b) (storeQualCode q) o)
  | .stfW d b q o => some (encM 0x41 (num d) (num b) (storeQualCode q) o)
  | .stfD d b q o => some (encM 0x42 (num d) (num b) (storeQualCode q) o)
  | .ldp d b q o => some (encM 0x43 (num d) (num b) (loadQualCode q) o)
  | .stp d b q o => some (encM 0x44 (num d) (num b) (storeQualCode q) o)
  | .pref h b o => some (encM 0x45 (match h with | .read => 0 | .write => 1) (num b) 0 o)
  | .cfls b o => some (encM 0x46 0 (num b) 0 o)
  | .cinv b o => some (encM 0x47 0 (num b) 0 o)
  | .visit b o => some (encM 0x4A 0 (num b) 0 o)
  | .tgld d b o => some (encM 0x48 (num d) (num b) 0 o)
  | .tgst d b o => some (encM 0x49 (num d) (num b) 0 o)
  | .tkaq a => some (encRR 0x50 (0) (num a) (0) 0x00 0)
  | .tkhd a b => some (encRR 0x50 (0) (num a) (num b) 0x01 0)
  | .cflx a => some (encRR 0x50 (0) (num a) (0) 0x02 0)
  | .fenceAcq s => some (encRI 0x51 0 0 (0#10 ++ 1#2 ++ scopeCode s))
  | .fenceRel s => some (encRI 0x51 0 0 (0#10 ++ 2#2 ++ scopeCode s))
  | .fenceAr s => some (encRI 0x51 0 0 (0#10 ++ 3#2 ++ scopeCode s))
  | .aadd a b z => some (encAt 0x52 0 (num a) (num b) 0x0 (sizeCode z) 0)
  | .aand a b z => some (encAt 0x52 0 (num a) (num b) 0x1 (sizeCode z) 0)
  | .aor a b z => some (encAt 0x52 0 (num a) (num b) 0x2 (sizeCode z) 0)
  | .axor a b z => some (encAt 0x52 0 (num a) (num b) 0x3 (sizeCode z) 0)
  | .amin a b z => some (encAt 0x52 0 (num a) (num b) 0x4 (sizeCode z) 0)
  | .amax a b z => some (encAt 0x52 0 (num a) (num b) 0x5 (sizeCode z) 0)
  | .aminn a b z => some (encAt 0x52 0 (num a) (num b) 0x6 (sizeCode z) 0)
  | .amaxn a b z => some (encAt 0x52 0 (num a) (num b) 0x7 (sizeCode z) 0)
  | .aswp a b z => some (encAt 0x52 0 (num a) (num b) 0x8 (sizeCode z) 0)
  | .acas a b z c => some (encAt 0x52 0 (num a) (num b) 0x9 (sizeCode z) (num c))
  | .afaddF32 a b => some (encAt 0x52 0 (num a) (num b) 0xA 0 0)
  | .aaddR d a b z => some (encAt 0x53 (num d) (num a) (num b) 0x0 (sizeCode z) 0)
  | .aandR d a b z => some (encAt 0x53 (num d) (num a) (num b) 0x1 (sizeCode z) 0)
  | .aorR d a b z => some (encAt 0x53 (num d) (num a) (num b) 0x2 (sizeCode z) 0)
  | .axorR d a b z => some (encAt 0x53 (num d) (num a) (num b) 0x3 (sizeCode z) 0)
  | .aminR d a b z => some (encAt 0x53 (num d) (num a) (num b) 0x4 (sizeCode z) 0)
  | .amaxR d a b z => some (encAt 0x53 (num d) (num a) (num b) 0x5 (sizeCode z) 0)
  | .aminnR d a b z => some (encAt 0x53 (num d) (num a) (num b) 0x6 (sizeCode z) 0)
  | .amaxnR d a b z => some (encAt 0x53 (num d) (num a) (num b) 0x7 (sizeCode z) 0)
  | .aswpR d a b z => some (encAt 0x53 (num d) (num a) (num b) 0x8 (sizeCode z) 0)
  | .acasR d a b z c => some (encAt 0x53 (num d) (num a) (num b) 0x9 (sizeCode z) (num c))
  | .afaddRF32 d a b => some (encAt 0x53 (num d) (num a) (num b) 0xA 0 0)
  | .bara a => some (encRR 0x54 (0) (num a) (0) 0x00 0)
  | .barw d a b => some (encRR 0x54 (num d) (num a) (num b) 0x01 0)
  | .bars d a => some (encRR 0x54 (num d) (num a) (0) 0x02 0)
  | .acqs d a => some (encRR 0x54 (num d) (num a) (0) 0x03 0)
  | .cmts a b => some (encRR 0x54 (0) (num a) (num b) 0x04 0)
  | .peks d a => some (encRR 0x54 (num d) (num a) (0) 0x05 0)
  | .rels a b => some (encRR 0x54 (0) (num a) (num b) 0x06 0)
  | .wtfe d a b => some (encRR 0x54 (num d) (num a) (num b) 0x07 0)
  | .hnew d a => some (encRR 0x55 (num d) (num a) (0) 0x00 0)
  | .hset a => some (encRR 0x55 (0) (num a) (0) 0x01 0)
  | .hget d => some (encRR 0x55 (num d) (0) (0) 0x02 0)
  | .hconf a => some (encRR 0x55 (0) (num a) (0) 0x03 0)
  | .href a => some (encRR 0x55 (0) (num a) (0) 0x04 0)
  | .hstat d a => some (encRR 0x55 (num d) (num a) (0) 0x05 0)
  | .hwait d a b => some (encRR 0x55 (num d) (num a) (num b) 0x06 0)
  | .acca a b n => some (encRR 0x56 0 (num a) (num b) 0x00 (smallCode n))
  | .accr a b n => some (encRR 0x56 0 (num a) (num b) 0x01 (smallCode n))
  | .accz n => some (encRR 0x56 0 0 0 0x02 (smallCode n))
  | .accn d b n => some (encRR 0x56 (num d) 0 (num b) 0x03 (smallCode n))
  | .accx d b n => some (encRR 0x56 (num d) 0 (num b) 0x04 (smallCode n))
  | .lnch a b => some (encRR 0x57 0 (num a) (num b) 0x00 0)
  | .lnci a b c => some (encRR 0x57 0 (num a) (num b) 0x01 (num c))
  | .scfg _ _ _ _ => none
  | .splc _ _ _ _ _ => none
  | .splcU _ _ _ _ => none
  | .smov _ _ _ _ _ _ => none
  | .sarm _ _ _ _ _ _ => none
  | .sbnd _ _ _ _ _ _ => none
  | .sbndT _ _ _ _ _ _ => none
  | .sseg _ _ _ _ => none
  | .ssyn _ _ _ _ _ => none
  | .scpy _ _ => none
  | .sgth _ _ => none
  | .ssct _ _ => none
  | .slkp _ _ => none
  | .supd _ _ => none
  | .smig _ _ _ => none
  | .stbl _ _ _ _ => none
  | .sdor _ _ _ _ _ => none
  | .swin _ _ _ _ _ => none
  | .swinU _ _ _ => none
  | .sagp _ _ _ _ _ _ => none
  | .sagpU _ _ _ => none
  | .sred _ _ => none
  | .scol _ _ => none
  | .sdrn _ _ _ => none
  | .shdr _ _ _ _ _ _ _ => none
  | .nadd _ => none
  | .nsub _ => none
  | .nmul _ => none
  | .nfma _ => none
  | .nmin _ => none
  | .nmax _ => none
  | .nabs _ => none
  | .nneg _ => none
  | .ncmp _ => none
  | .nsel _ => none
  | .ncvt _ => none
  | .ndec _ => none
  | .nenc _ => none
  | .nand _ => none
  | .nor _ => none
  | .nxor _ => none
  | .nshl _ => none
  | .nshr _ => none
  | .nred _ => none
  | .nacc _ => none
  | .ncnt _ => none
  | .nbnd _ => none
  | .ncon _ => none
  | .nrly _ => none
  | .nld _ => none
  | .nst _ => none
  | .nown _ => none
  | .ndor _ => none
  | .sectionStep _ => none
  | .steer _ => none
  | .gate _ => none
  | .fork _ => none
  | .sink _ => none
  | .merge _ => none
  | .carry _ => none
  | .invar _ => none
  | .cseq _ => none
  | .cpip _ => none
  | .cstr _ => none
  | .creditReturn _ _ => none
  | .flitArrive _ _ => none
  | .portResultReturn _ _ _ _ => none
  | .pageRowDrain _ _ _ => none
  | .storeEventApply _ => none
  | .issueWaitComplete _ => none
  | .divideComplete _ => none
  | .tbldComplete _ => none
  | .imageWriteComplete _ => none
  | .drainComplete _ => none
  | .storePerform _ => none
  | .feWaiterRetry _ => none
  | .atomicApply _ => none
  | .tlbWalkLevelReturn _ => none
  | .pageFillComplete _ _ => none
  | .watchDeliver _ => none
  | .landingRequestArrive _ => none
  | .landingReplyArrive _ => none
  | .caravanLand _ => none
  | .flushAckArrive _ => none
  | .tokenRequestArrive _ => none
  | .tokenRequestRetry _ => none
  | .tokenRecallComplete _ => none
  | .tokenGrantArrive _ => none
  | .llcEvict _ => none
  | .cacheEvict _ => none
  | .barrierRelease _ _ => none
  | .timedWaitTimeout _ => none
  | .signalDeliver _ => none
  | .interruptEntry _ => none
  | .retirementRun => none
  | .resyncPulse => none
  | .hypControllerRequest _ => none
  | .hconfMerge _ => none
  | .hrefDiscard _ => none
  | .orphan _ => none
  | .hypOutcomeArrive _ => none
  | .commandAccept _ => none
  | .commandComplete _ _ => none
  | .instancePlace _ => none
  | .instanceDisplace _ => none
  | .instanceCompact _ _ _ => none
  | .instanceSaveComplete _ => none
  | .segmentBoundary _ => none
  | .graphEnd _ _ => none
  | .sinkWaitTimeout _ _ => none
  | .launchStart _ _ => none
  | .threadLand _ _ => none
  | .launchComplete _ _ => none
  | .hangDetect _ => none
  | .boundaryShutter _ => none
  | .cfgeccError _ _ => none
  | .transferStart _ => none
  | .transferComplete _ _ => none
  | .edgeProgramFlit _ _ => none
  | .smigCommit _ => none
  | .tableVersionFree _ _ => none
  | .doorThreadLand _ _ => none
  | .doorResultRelease _ _ => none
  | .routeRequestFail _ _ => none
  | .routeLinkChange _ _ _ => none
  | .corePowerOff _ => none
  | .coreWake _ => none
  | .activityBalance _ _ _ => none
  | .startUp => none
  | .mgmtFrameReceive _ => none
  | .ownerReset _ => none
  | .keytabEnrol _ => none
  | .attestationRequest _ => none
  | .rerunCompare _ _ _ _ => none
  | .tlbinvWrite _ _ => none
  | .tlbInvalidationDone _ => none
  | .rgnctlCountWrite _ _ => none
  | .regionTableReadDone _ => none
  | .rlogctlPendClear _ _ => none
  | .fqctlRdWrite _ _ _ => none
  | .cxrsmResume _ _ => none
  | .cxrsmDiscard _ _ => none
  | .cxpreWrite _ _ => none
  | .cxrstGo _ => none
  | .bmaskWrite _ _ _ _ => none
  | .presRetry _ _ => none
  | .presDiscard _ _ => none
  | .stresRetry _ _ => none
  | .stresDiscard _ _ => none
  | .shutctlResume _ _ => none
  | .shutctlDiscard _ _ => none
  | .shutctlReload _ _ => none
  | .gctlCommit _ => none
  | .groupCommitDone => none
  | .routecfgWrite _ => none
  | .rtmapWrite _ _ => none
  | .rtuctlStage _ => none
  | .rtuStagingDone => none
  | .rtuctlCommit => none
  | .rtuctlAbort => none
  | .rrstatClear => none
  | .registerWrite _ _ => none
  | .placingComplete _ => none
  | .managementPortLinkUp _ => none

/-- A node word from its OP and fields (R53). -/
def encNode (op : BitVec 8) (n : NodeFields) : BitVec 64 :=
  op ++ n.ety ++ n.fn ++ n.ina ++ n.inb ++ n.inc ++ n.omask ++ n.param

/-- A router word from its ROP and fields (R56). -/
def encRouter (rop : BitVec 4) (r : RouterFields) : BitVec 64 :=
  r.swmask ++ rop ++ r.ctl ++ r.ia ++ r.ib ++ r.oa ++ r.ob

/-- The encoder of node words: `some` exactly on the node rows (R55). -/
def encodeNode : Instr → Option (BitVec 64)
  | .nadd n => some (encNode 0x01 n)
  | .nsub n => some (encNode 0x02 n)
  | .nmul n => some (encNode 0x03 n)
  | .nfma n => some (encNode 0x04 n)
  | .nmin n => some (encNode 0x05 n)
  | .nmax n => some (encNode 0x06 n)
  | .nabs n => some (encNode 0x07 n)
  | .nneg n => some (encNode 0x08 n)
  | .ncmp n => some (encNode 0x09 n)
  | .nsel n => some (encNode 0x0A n)
  | .ncvt n => some (encNode 0x0B n)
  | .ndec n => some (encNode 0x0C n)
  | .nenc n => some (encNode 0x0D n)
  | .nand n => some (encNode 0x0E n)
  | .nor n => some (encNode 0x0F n)
  | .nxor n => some (encNode 0x10 n)
  | .nshl n => some (encNode 0x11 n)
  | .nshr n => some (encNode 0x12 n)
  | .nred n => some (encNode 0x13 n)
  | .nacc n => some (encNode 0x14 n)
  | .ncnt n => some (encNode 0x15 n)
  | .nbnd n => some (encNode 0x16 n)
  | .ncon n => some (encNode 0x17 n)
  | .nrly n => some (encNode 0x18 n)
  | .nld n => some (encNode 0x20 n)
  | .nst n => some (encNode 0x21 n)
  | .nown n => some (encNode 0x22 n)
  | .ndor n => some (encNode 0x23 n)
  | .sectionStep n => some (encNode 0x30 n)
  | _ => none

/-- The encoder of router words: `some` exactly on the operator rows (R57). -/
def encodeRouter : Instr → Option (BitVec 64)
  | .steer r => some (encRouter 0x1 r)
  | .carry r => some (encRouter 0x2 r)
  | .invar r => some (encRouter 0x3 r)
  | .merge r => some (encRouter 0x4 r)
  | .gate r => some (encRouter 0x5 r)
  | .fork r => some (encRouter 0x6 r)
  | .sink r => some (encRouter 0x7 r)
  | .cseq r => some (encRouter 0x8 r)
  | .cpip r => some (encRouter 0x9 r)
  | .cstr r => some (encRouter 0xA r)
  | _ => none

/-- A stream command from OP, qualifiers, target and operands (R67). -/
def encCmd (op : BitVec 8) (q : CmdQual) (sp : BitVec 6) (tgt : BitVec 8) (ops : BitVec 104) : BitVec 128 :=
  op ++ BitVec.ofBool q.b ++ BitVec.ofBool q.s ++ sp ++ tgt ++ ops

/-- The operand layout of the data-movement commands (R363). -/
def encData (o : DataOps) : BitVec 104 := 0#42 ++ BitVec.ofBool o.bnd ++ o.inst ++ o.slot ++ 0#2 ++ o.desc

/-- The encoder of stream commands: `some` exactly on the command rows (R69). -/
def encodeStream : Instr → Option (BitVec 128)
  | .scfg q img rpt slot =>
    some (encCmd 0x01 q 0#6 0 (0#5 ++ slot ++ rpt ++ 0#2 ++ img))
  | .splc q part slot ninst queue =>
    some (encCmd 0x02 q (0#5 ++ BitVec.ofBool part) 0 (0#74 ++ queue ++ 0#6 ++ ninst ++ 0#5 ++ slot))
  | .splcU q part slot queue =>
    some (encCmd 0x02 q (1#5 ++ BitVec.ofBool part) 0 (0#74 ++ queue ++ 0#21 ++ slot))
  | .smov q slot inst lx ly any =>
    some (encCmd 0x03 q 0#6 0 (0#75 ++ BitVec.ofBool any ++ ly ++ lx ++ inst ++ 0#5 ++ slot))
  | .sarm q abs ep slot inst count =>
    some (encCmd 0x04 q (0#5 ++ BitVec.ofBool abs) ep (0#56 ++ count ++ 0#3 ++ inst ++ slot))
  | .sbnd q ep slot inst value ety =>
    some (encCmd 0x05 q 0#6 ep (0#20 ++ ety ++ value ++ 0#3 ++ inst ++ slot))
  | .sbndT q slot inst page port tag =>
    some (encCmd 0x05 q 1#6 0 (0#72 ++ tag ++ port ++ page ++ 0#3 ++ inst ++ slot))
  | .sseg q last slot tiles =>
    some (encCmd 0x06 q (0#5 ++ BitVec.ofBool last) 0 (0#64 ++ tiles ++ 0#5 ++ slot))
  | .ssyn q n queue addr value =>
    some (encCmd 0x07 q (0#5 ++ BitVec.ofBool n) (0#2 ++ queue) (0#8 ++ value ++ 0#12 ++ addr))
  | .scpy q o => some (encCmd 0x10 q 0 o.tgt (encData o))
  | .sgth q o => some (encCmd 0x11 q 0 o.tgt (encData o))
  | .ssct q o => some (encCmd 0x12 q 0 o.tgt (encData o))
  | .slkp q o => some (encCmd 0x13 q 0 o.tgt (encData o))
  | .supd q o => some (encCmd 0x14 q 0 o.tgt (encData o))
  | .smig q tgt blk =>
    some (encCmd 0x15 q 0#6 tgt (0#56 ++ blk))
  | .stbl q tbl desc free =>
    some (encCmd 0x16 q 0#6 0 (0#1 ++ free ++ desc ++ 0#4 ++ tbl))
  | .sdor q door slot inst blk =>
    some (encCmd 0x18 q 0#6 door (0#40 ++ blk ++ 0#3 ++ inst ++ slot))
  | .swin q win slot obj ntf =>
    some (encCmd 0x19 q 0#6 (0#4 ++ win) (0#5 ++ ntf ++ obj ++ slot))
  | .swinU q win slot =>
    some (encCmd 0x19 q 1#6 (0#4 ++ win) (0#101 ++ slot))
  | .sagp q pos prog pgm slot inst =>
    some (encCmd 0x1A q 0#6 (0#1 ++ pos) (0#40 ++ inst ++ slot ++ 0#1 ++ pgm ++ 0#2 ++ prog))
  | .sagpU q pos prog =>
    some (encCmd 0x1A q 1#6 (0#1 ++ pos) (0#102 ++ prog))
  | .sred q o => some (encCmd 0x20 q 0 o.tgt (encData o))
  | .scol q o => some (encCmd 0x21 q 0 o.tgt (encData o))
  | .sdrn q clear o =>
    some (encCmd 0x22 q (0#5 ++ BitVec.ofBool clear) o.ep (0#14 ++ o.epage ++ o.elink ++ 0#8 ++ o.scl ++ o.tbl ++ o.rm ++ o.fmt ++ o.asl ++ o.page ++ o.inst ++ o.slot))
  | .shdr q ep slot inst scale tslot en =>
    some (encCmd 0x23 q 0#6 ep (0#77 ++ BitVec.ofBool en ++ tslot ++ scale ++ 0#3 ++ inst ++ slot))
  | _ => none

end Sys2Proof
end

