-- ==== Sys2Proof/Config.lean ====
section
/-!
DEFINITION. Sys2Proof/Config.lean: what one module fixes (the data of its manufacture), the values the manual leaves open,
and the cryptographic functions it names by their standards. Every one is opaque: nothing here can be evaluated, so a
statement proved of the model holds whatever their values are.
-/
namespace Sys2Proof.Config

/-- The grade of the module: AE-850 when true, AE-900 when false (R1, R4). (DESIGN CHOICE, assumption 6) -/
opaque isAe850 : Bool

/-- Silicon stepping, DEVID.STEP (R4). (DESIGN CHOICE, assumption 6) -/
opaque stepping : BitVec 4

/-- How many sites are dark when the module is shipped: 1,024 less the enabled cores of the grade (R1, R18). -/
def darkCount : Nat := if isAe850 then 174 else 124

/-- Which sites are dark when shipped differs from module to module (R18): the k-th of them is this place, modulo what is left,
among the sites not yet named. (DESIGN CHOICE, assumption 6) -/
opaque darkChoice : Nat → Nat

/-- Takes `n` sites out of a list, one by one. -/
def pickSites : Nat → List (Fin 1024) → List (Fin 1024)
  | 0, _ => []
  | n + 1, l =>
    let k := darkChoice n % l.length
    match l[k]? with
    | some x => x :: pickSites n (l.eraseIdx k)
    | none => []

/-- Whether a site was dark when the module was shipped: one of the 124 or 174 of its grade (R18). -/
def darkAtManufacture (n : Fin 1024) : Bool := (pickSites darkCount (List.finRange 1024)).contains n

/-- The speed code of each site, fixed at manufacture; codes run from 0 to 20 (R3, R250). (DESIGN CHOICE, assumption 6) -/
opaque speedCode : Fin 1024 → Fin 21

/-- The SHAKE256 digest of Evder's boot public key held by the boot ROM (R446). -/
opaque bootKeyDigest : BitVec 256

/-- KEYTAB entry 0, Evder's configuration key, fixed at manufacture (R446). -/
opaque evderKeyDigest : BitVec 256

/-- The fused anti-rollback counter (R446). -/
opaque antiRollback : Nat

/-- The module flash's Wellis image: its body, its carried key, its signature and its version (R446). -/
opaque wellisBody : List Byte
opaque wellisKey : BitVec 512
opaque wellisSig : List Byte
opaque wellisVersion : Nat

/-- The digest of the identity public key (R447). -/
opaque identityDigest : BitVec 256

/-- SHAKE256 with a 256-bit output (R446, FIPS 202). (DESIGN CHOICE, assumption 7) -/
opaque shake256 : List Byte → BitVec 256

/-- Whether an SLH-DSA-SHAKE-256s signature over a message verifies under a public key (R64, FIPS 205).
(DESIGN CHOICE, assumption 7) -/
opaque slhDsaVerify : BitVec 512 → List Byte → List Byte → Bool

/-- The identity key's SLH-DSA-SHAKE-256s signature of a message (R447). (DESIGN CHOICE, assumption 7) -/
opaque identitySign : List Byte → List Byte

/-- A value the manual leaves open, one for each use: the argument is the free-value counter of the state.
(DESIGN CHOICE, assumption 5) -/
opaque freeValue : Nat → Word

/-- What the word that the replay log holds for an entry differs by from the model's form of that entry, at each place of the log: the
manual does not give the layout of the log (R452). (DESIGN CHOICE, assumption 5) -/
opaque logMask : Nat → Word

/-- Where the count of segment tiles stands from which one tile in 2^RATE is sampled (R451). (DESIGN CHOICE, assumption 47) -/
opaque samplePhase : Nat

/-! ### Routing-table images (R443, R450) -/

/-- A record of a routing-table image: the router's site, the table, and the CRC-32C that the record carries. -/
structure RtuRecord where
  site : BitVec 10
  body : List Byte
  crc  : BitVec 32
  deriving DecidableEq, Repr

/-- A routing-table image: the public key, the signature and the digest that it carries, and its records. -/
structure RtuImage where
  key     : BitVec 512
  sig     : List Byte
  digest  : BitVec 256
  records : List RtuRecord
  deriving DecidableEq, Repr

/-- The length of a routing-table image whose first 64 bytes are given; the manual does not give the image's layout.
(DESIGN CHOICE, assumption 47) -/
opaque rtuLength : List Byte → Nat

/-- The image that some bytes hold, or none where they are not of the image's format. (DESIGN CHOICE, assumption 47) -/
opaque rtuImage : List Byte → Option RtuImage

/-- The routing tables in the signed image of the module's dark-site map, by router (R443). (DESIGN CHOICE, assumption 6) -/
opaque darkSiteTables : List (BitVec 10 × List Byte)

end Sys2Proof.Config
end

