-- ==== Sys2Proof/Machine/State.lean ====
section
/-!
DEFINITION. Sys2Proof/Machine/State.lean: the state of the module as plain data, the reasons a step can stop, and the state
right after reset. Whatever the spec keeps per context, per site, per perimeter position or per address is held either in a
vector or in a sparse list sorted by key, which lists no entry equal to the key's default.
-/
namespace Sys2Proof.Machine

/-- A sparse table: entries sorted by key, none equal to the default its reader names. -/
abbrev Sparse (α : Type) := List (Nat × α)

/-- A hypothesis handle: generation in bits 31:16, number in bits 7:0; 0 names H0 (R258). -/
abbrev Handle := BitVec 32

/-- The core an agent runs on: a site's barrel core or a control core. -/
inductive CoreId
  | site (n : Fin 1024)
  | control (i : Fin 16)
  deriving DecidableEq, Repr

/-! ### Memory -/

/-- The memory of the module by module offset, and of other modules by domain physical address: data bytes, and for each
16-byte granule its tag, full-empty bit and poison mark (R147, R157, R159, R162). An unlisted byte reads 0, an unlisted
granule has tag 0, is empty and is not poisoned, as R7 leaves them. -/
structure Mem where
  bytes  : List Host.Cell
  tags   : Sparse (BitVec 4)
  full   : Sparse Bool
  poison : Sparse Bool
  deriving DecidableEq, Repr

/-- A hypothesis version of a 64-byte line of local HBM (R261, R262): context, line number, handle, data and the poison
marks of its four granules. -/
structure Version where
  ctx    : Fin 16
  line   : Nat
  hyp    : Handle
  data   : BitVec 512
  poison : BitVec 4
  deriving DecidableEq, Repr

/-- A line of a thread cache (R190, R263): whose core, context and hypothesis; the bytes it holds and which of them are
dirty; its granules' tags and which of those are dirty; poison marks; the granules that one store has written whole since it was
last clean (R157); and the slot that wrote it. -/
structure CacheLine where
  core   : CoreId
  ctx    : Fin 16
  line   : Nat
  hyp    : Handle
  data   : BitVec 512
  dirty  : BitVec 64
  tags   : BitVec 16
  tdirty : BitVec 4
  poison : BitVec 4
  whole  : BitVec 4
  writer : Nat
  deriving DecidableEq, Repr

/-- The operations of atomics (R199). -/
inductive AtomOp
  | add | and | or | xor | min | max | minn | maxn | swp | cas | fadd
  deriving DecidableEq, Repr

/-- What a store-buffer entry does when it performs (R85, R162, R201, R453). -/
inductive StoreKind
  | plain
  | fes
  | nt
  | device
  | tag (t : BitVec 4)
  | atom (op : AtomOp) (size : AtomSize) (expect : Word)
  deriving DecidableEq, Repr

/-- A store-buffer entry, at most 16 bytes within one granule (R85). -/
structure StoreEntry where
  id   : Nat
  core : CoreId
  slot : Nat
  ctx  : Fin 16
  tid  : BitVec 24
  hyp  : Handle
  va   : Word
  pa   : Nat
  size : Nat
  data : BitVec 128
  kind : StoreKind
  insn : BitVec 32
  pc   : Addr
  deriving DecidableEq, Repr

/-- Whose translation cache an entry stands in: a core's TLB, or a streamer's (R153, R364). -/
inductive TlbOwner
  | core (c : CoreId)
  | streamer (k : Fin 128)
  deriving DecidableEq, Repr

/-- An entry of a TLB or of a streamer's translation cache: its owner, context, first virtual address, log2 of the page size, the
leaf entry, and whether a TLBINV has invalidated it and it is not dropped yet (R151, R153, R364). -/
structure TlbEntry where
  owner : TlbOwner
  ctx   : Fin 16
  va    : Nat
  log2  : Nat
  leaf  : Word
  stale : Bool
  deriving DecidableEq, Repr

/-- Who waits at a home for a granule to become full: a thread, or another module's load with the TAG of its pointer (R164, R436). -/
inductive Waiter
  | thread (p : Place)
  | route (tag : BitVec 4)
  deriving DecidableEq, Repr

/-! ### Fault records, waits and threads -/

/-- The content of a fault record that its source gives; TIME and SEQ are set when it is made (R230). -/
structure Record where
  addr   : Word
  tid    : BitVec 24
  insn   : BitVec 32
  cause  : BitVec 8
  src    : BitVec 4
  ctx    : Fin 16
  expt   : BitVec 4
  fndt   : BitVec 4
  hyp    : BitVec 8
  site   : BitVec 10
  unit   : BitVec 8
  lane   : BitVec 8
  elem   : Word
  time   : Word
  pc     : Word
  detail : Word
  seq    : BitVec 32
  deriving DecidableEq, Repr

/-- A WATCH record waiting for its watcher: the watchpoint number and the record (R169). -/
structure WatchRecord where
  n      : Fin 4
  record : Record
  deriving DecidableEq, Repr

/-- Where a load's bytes go (R155): a general register sign-extended from so many bytes or zero-extended, a floating-point
register, an even pair, or the status of a WTFE (R220). -/
inductive LoadDest
  | signed (d : Reg)
  | zero (d : Reg)
  | float (d : Reg)
  | pair (d : Reg)
  | status (d : Reg)
  deriving DecidableEq, Repr

/-- What a TLB walk is for: a data access, a fetch, or a prefetch, which is discarded where it would fault (R97, R153, R166). -/
inductive WalkFor
  | access | fetch | prefetch
  deriving DecidableEq, Repr

/-- A returning atomic that waits for another module's response (R201): its operation, operand size, destination, pointer, operand
and expected value. -/
structure RemoteAtom where
  op     : AtomOp
  size   : AtomSize
  dst    : Reg
  ptr    : Word
  pa     : Nat
  opnd   : Word
  expect : Word
  deriving DecidableEq, Repr

/-- The thing a thread in WAIT waits for (R81). -/
inductive Wait
  | none
  | image                                                     -- LOAD: the register image is being written (R82)
  | turns (n : Nat)                                           -- turns forfeited (R86, R131, R143)
  | divide (turns : Nat) (d : Reg) (v : Word)                 -- a division in progress (R91)
  | table (n : Fin 4) (a : Word) (seq : Nat) (got : Sparse (BitVec 128))   -- a TBLD in progress, with its order of issue and the
                                                              -- granules it has read (R120, R141)
  | buffer (pa : Nat)                                         -- own store-buffer entries full, for an access at pa (R85)
  | overlap (pa size : Nat)                                   -- an entry over these bytes that may not be forwarded (R85)
  | walk (addr : Word) (va level table : Nat) (why : WalkFor)  -- a TLB walk, with the ADDR of a fault (R153)
  | fill (k : Nat) (addr : Word)                              -- a hardware page fill of an entry, with the ADDR of a fault (R154)
  | full (pa size : Nat) (tag : BitVec 4) (va : Word) (dst : LoadDest) (consume recorded : Bool) (limit : Word)
          (insn : BitVec 32)                                  -- an FE-qualified load or WTFE (R163, R220)
  | landing                                                   -- a landing request sent (R170)
  | flush                                                     -- the old core's flush (R197), or a CFLX (R196)
  | token (region : Nat) (acquire : Bool) (va : Word)         -- a region token, asked by TKAQ or by an access (R192, R193)
  | version (pa : Nat)                                        -- a version slot of the line at pa (R262)
  | barrier (d : Reg) (b : Fin 4) (limit : Word)              -- BARW (R215)
  | signal (d : Reg) (limit : Word)                           -- TWAIT (R247)
  | outcome (d : Reg) (h : Handle) (limit : Word)             -- HWAIT (R274)
  | hyp (id : Nat)                                            -- a request at the hypothesis controller (R269)
  | queue                                                     -- a launch queue with 16 launches (R350)
  | port                                                      -- a full command port (R51)
  | accQueue                                                  -- a full accumulation-store queue (R403)
  | retire                                                    -- COFF behind another retirement (R255)
  | device                                                    -- TLBINV behind a running invalidation (R153)
  | remote (write : Bool) (pa : Nat) (addr : Word) (atom : Option RemoteAtom)   -- a response over Route for an access at pa, with the
                                                              -- ADDR of a fault (R148, R437): of a returning atomic or another access
  deriving DecidableEq, Repr

/-- The states a slot with a thread can be in (R80); EMPTY is a slot no thread names. -/
inductive SlotState
  | load | run | wait | drain
  deriving DecidableEq, Repr

/-- What a thread was started by, and so to whom its end is reported (R104). -/
inductive Origin
  | none
  | launch (id : Nat)
  | door (uid : Nat) (door : Nat) (ticket : Nat) (index : Nat)
  deriving DecidableEq, Repr

/-- The supervisor state registers of a control core (R240). -/
structure Supervisor where
  sepc   : Addr
  scause : Word
  sfaddr : Word
  svec   : Word
  ssts   : Word
  sien   : Word
  sscr0  : Word
  sscr1  : Word
  sctx   : Fin 16
  sfrec  : Word
  deriving DecidableEq, Repr

/-- A barrel thread, or a control core (R83, R214, R224, R237, R240). -/
structure Thread where
  place   : Place
  st      : SlotState
  ctx     : Fin 16
  tid     : BitVec 24
  g       : Vector Word 32
  f       : Vector Word 32
  pc      : Addr
  tmode   : Word
  tflags  : Word
  thyp    : Handle
  twa     : Vector Word 4
  twc     : Vector Word 4
  floor   : Word
  aph     : Vector (BitVec 32) 4
  av      : Vector Bool 4
  mov     : Bool
  sigs    : BitVec 16
  prio    : BitVec 3
  intrap  : Bool
  sup     : Bool
  sv      : Supervisor
  wait    : Wait
  pass    : Bool                    -- the awaited grant or response has come; the instruction runs again with it
  mid     : Bool                    -- an instruction has begun and not completed: it waits, or its wait has ended (R105, R241)
  held    : Option Record           -- host-queue record held in the save record (R232)
  watches : List WatchRecord        -- hits made and not delivered (R169)
  origin  : Origin
  save    : Nat                     -- address of the save record, fixed at allocation (R234)
  old     : Option (Fin 1024)       -- site left, whose flush is not yet acknowledged (R197)
  landed  : Nat                     -- order of landing (R352); in a caravan, of departure (R17)
  ready   : Option (Fin 64)         -- saved and placed on this launch queue for resumption (R235)
  tseq    : Nat                     -- order of issue of a TBLD that waits for a page fill; else 0 (R120, R154)
  fwd     : List Nat                -- store-buffer entries of siblings read by forwarding (R178)
  halted  : Bool                    -- saved by a context halt (R208)
  deriving DecidableEq, Repr

/-! ### Configurations, instances and the fabric -/

/-- A flit: 64 data bits and 8 control bits (R279). -/
structure Flit where
  data : Word
  ctl  : BitVec 8
  deriving DecidableEq, Repr

/-- A port range entry (R63). -/
structure RangeEntry where
  base   : Word
  limit  : Word
  offset : Word
  ctrl   : Word
  deriving DecidableEq, Repr

/-- A door descriptor of an image (R61). -/
structure Door where
  entry   : Addr
  ordered : Bool
  reply   : Nat
  serai   : Nat
  slots   : Nat
  stack   : Nat
  deriving DecidableEq, Repr

/-- A link word with the page record, PE and output channel it stands for (R58, R62). -/
structure Link where
  page : Nat
  pe   : Nat
  ch   : Nat
  word : BitVec 32
  deriving DecidableEq, Repr

/-- A page record of a checked image: position, matrix flag, the node and router words that are not idle, and the range
entries of each port (R62). -/
structure PageRec where
  px     : Nat
  py     : Nat
  matrix : Bool
  nodes  : Sparse (BitVec 64)
  routes : Sparse (BitVec 64)
  ranges : Vector (List RangeEntry) 4
  good   : Bool                     -- the staged copy's CRC-32C still holds (R358)
  deriving DecidableEq, Repr

/-- A checked configuration (R331, R332). -/
structure Config where
  extw  : Nat
  exth  : Nat
  doors : List Door
  pages : List PageRec
  links : List Link
  bytes : Nat
  deriving DecidableEq, Repr

/-- The header in force on a node's input, or poisoned by a bad one (R122, R283). -/
structure HeaderIn where
  set    : Bool
  word   : Word
  psn    : Bool
  deriving DecidableEq, Repr

/-- A node's own state: headers in force on A, B and C; elements held for repacking with their poison; the running group;
counters; and recovery from a misaligned tile (R282, R293, R296, R298, R299). -/
structure NodeState where
  hdrs    : Vector HeaderIn 3
  emitted : Bool                    -- the output header of the tile has been sent
  elems   : List (Word × BitVec 8)  -- elements held, not yet emitted, with the control bits they bring
  count   : Nat                     -- elements of the tile consumed
  acc     : Option (Word × Bool)    -- running value of the group and its poison
  inner   : Nat
  outer   : Nat
  pending : List (Flit)             -- flits formed and not yet emitted
  recover : Bool                    -- misaligned: emitting poison, discarding to EOT
  skipB   : Bool
  skipC   : Bool
  open_   : Nat                     -- request tiles open (R383)
  fired   : Nat                     -- firings since load (R320)
  elem    : Nat                     -- element index within the segment (R322)
  tile    : Nat                     -- tile index within the segment (R322)
  deriving DecidableEq, Repr

/-- The phases of CARRY (R307). -/
inductive CarryState
  | init | loop | drain
  deriving DecidableEq, Repr

/-- A router operator's state (R303 to R312): whether it is inside a unit, the decision it runs under and its poison; the
CARRY phase; INVAR's held unit; controller position, dones and open activations. -/
structure RouterState where
  inUnit  : Bool
  dec     : Bool
  dpsn    : Bool
  carry   : CarryState
  tailed  : Bool
  held    : List Flit
  full    : Bool
  sent    : Nat
  dones   : Nat
  acts    : Nat
  active  : Bool
  issued  : Nat                     -- enables sent in the window under way
  deriving DecidableEq, Repr

/-- A processing element with its router: input channels, what of the head flit has been taken by node and router, credits
of output channels (R277, R278). -/
structure PE where
  ins    : Vector (List Flit) 16
  tookN  : BitVec 16
  nextN  : BitVec 16
  tookR  : BitVec 16
  credit : Vector Nat 16
  node   : NodeState
  router : RouterState
  deriving DecidableEq, Repr

/-- A flit on a link, or a credit coming back on it (R278, R280). -/
structure Wire where
  page : Nat
  pe   : Nat
  ch   : Nat
  flit : Flit
  deriving DecidableEq, Repr

/-- An access of a memory port that is in flight or spilled (R314, R315, R321). -/
structure PortAccess where
  pe      : Nat
  store   : Bool
  va      : Nat
  size    : Nat
  mask    : BitVec 8                -- bytes a store writes
  flit    : Flit                    -- data of a store
  marks   : BitVec 8                -- control bits of the address flit
  addr    : Word                    -- the address element
  elem    : Nat
  tile    : Nat
  pos     : Nat                     -- position within the tile
  iter    : Nat                     -- iteration of the node (R320)
  hdr     : Bool                    -- a header waiting its turn in the output order
  done    : Option Flit             -- the result, once it has come back
  spilled : Bool
  deriving DecidableEq, Repr

/-- A line of a NOWN buffer (R316). -/
structure OwnLine where
  line : Nat
  data : BitVec 512
  mask : BitVec 64
  bad  : Bool
  deriving DecidableEq, Repr

/-- A memory port of a page (R317, R321): accesses in flight or spilled, oldest first; FLT and its SEQ; bound tag; the owner
node's buffer, most recently used first. -/
structure PortState where
  acc   : List PortAccess
  flt   : Bool
  seq   : BitVec 32
  btag  : BitVec 4
  own   : List OwnLine
  deriving DecidableEq, Repr

/-- An accumulator row (R396). Mantissas are exact integers kept within 48 bits; codes are 0 finite, 1 +inf, 2 -inf, 3 NaN. -/
structure AccRow where
  z   : Bool
  ovr : Bool
  psn : Bool
  e   : Int
  h   : Nat
  m   : Vector Int 16
  s   : Vector (BitVec 2) 16
  deriving DecidableEq, Repr

/-- The three event counts of a tile slot or a page row buffer (R401). -/
structure Counts where
  rn : Nat
  tr : Nat
  tz : Nat
  deriving DecidableEq, Repr

/-- A page row buffer: the row, its counts, whether it waits to drain, the run it then holds, and the tick of its section at which it
began to wait (R395). -/
structure RowBuf where
  row    : AccRow
  counts : Counts
  ready  : Bool
  run    : Nat
  age    : Nat
  deriving DecidableEq, Repr

/-- A flit in the latches of a matrix section: its place in its edge's stream, the header in force and its run (R393, R395). -/
structure Block where
  num  : Nat
  flit : Flit
  hdr  : HeaderIn
  run  : Nat
  deriving DecidableEq, Repr

/-- An edge of a matrix section: header in force, whether it has consumed LAST, whether it discards up to EOT, the flits in the
latches behind it and the runs it has ended (R393, R394). -/
structure EdgeState where
  hdr  : HeaderIn
  last : Bool
  skip : Bool
  blks : List Block
  runs : Nat
  deriving DecidableEq, Repr

/-- A matrix section's state (R393 to R395): the step number; west and north edges by PE; for each place in the streams the
HDR, EOT and EOK bits first seen, and the operating type of a place that holds headers; EOK places with their runs; the two buffers of
each page row; runs whose done has been sent; whether it discards after a misalignment, or has discarded and waits for headers; steps
fired since the configuration was loaded. -/
structure Section where
  step  : Nat
  a     : Sparse EdgeState
  b     : Sparse EdgeState
  refs  : List (Nat × BitVec 8)
  ops   : List (Nat × Nat)
  eoks  : List (Nat × Nat)
  rows  : Vector (RowBuf × RowBuf) 16
  runs  : Nat
  skip  : Bool
  hold  : Bool
  ticks : Nat
  deriving DecidableEq, Repr

/-- The places of a serai (R382). -/
inductive PlaceState
  | free | parked | running | replied | abandoned
  deriving DecidableEq, Repr

/-- A place of a serai: its ticket, the request flit, position in its tile, stamp, the result, and the order of its reply. -/
structure Ticket where
  st     : PlaceState
  ticket : Nat
  req    : Flit
  pos    : Nat
  tile   : Nat
  stamp  : Word
  result : List Flit
  order  : Nat
  index  : Nat                       -- thread index j (R385)
  sent   : Nat                       -- result flits already emitted
  deriving DecidableEq, Repr

/-- An open request tile of a serai (R383): its output header, the marks of its request flits, and how many have left. -/
structure DoorTile where
  num    : Nat
  header : Flit
  hsent  : Bool
  marks  : List (BitVec 8)
  left   : Nat
  closed : Bool
  deriving DecidableEq, Repr

/-- A door of an instance: binding, serai places, ticket counter, open tiles and reply counter (R381 to R387). -/
structure Serai where
  bound  : Option (Word × Word)      -- STKBASE and ARG
  places : List Ticket
  next   : Nat
  tiles  : List DoorTile
  tilesSeen : Nat
  pos    : Nat
  replies : Nat
  leaveT : Nat                       -- next ticket an ordered door releases
  deriving DecidableEq, Repr

/-- The states of an instance (R338). -/
inductive InstState
  | placing | idle | run | saving | saved | shuttered | released
  deriving DecidableEq, Repr

/-- What waits for an instance's next boundary (R334, R336, R337, R357). -/
inductive Pending
  | none | save | move (anchor : Option (Nat × Nat)) | release | retire
  deriving DecidableEq, Repr

/-- Causes of a shutter (R359). -/
inductive ShutCause
  | hang | cfgecc | boundary | retire
  deriving DecidableEq, Repr

/-- A flit of a sampled tile at an endpoint, in the order in which it came (R451): whether it is an output flit, the endpoint, the tile's
place in the segment, and the flit. -/
structure Sampled where
  out  : Bool
  ep   : Nat
  tile : Nat
  flit : Flit
  deriving DecidableEq, Repr

/-- An endpoint's arm factor and what the running segment still admits or owes (R341, R343). -/
structure Arm where
  ep     : Nat
  factor : Nat
  abs    : Bool
  armed  : Nat
  next   : Option (Nat × Bool)       -- SARM for the next segment
  set    : Bool
  fed    : List Flit                 -- output endpoint: flits not yet absorbed; input endpoint: value tokens to deliver
  target : Option (Nat × Nat × Nat)  -- input endpoint: page, PE, channel fed
  past   : Option (Nat × Nat × Nat)  -- the channel it was last bound to (R375)
  depth  : Nat
  edit   : Option (BitVec 8 × BitVec 2)   -- SHDR in force (R413)
  editN  : Option (Option (BitVec 8 × BitVec 2))
  lastTile : Bool                    -- the segment's last tile carries LAST
  deriving DecidableEq, Repr

/-- An instance of a configuration (R334 to R345). -/
structure Inst where
  ctx     : Fin 16
  slot    : Nat
  num     : Nat
  uid     : Nat                      -- names the instance for its door threads, by order of first placement
  st      : InstState
  back    : InstState                -- the state a shutter or a save left
  cfg     : Config
  group   : Fin 64
  version : BitVec 16
  anchor  : Nat × Nat
  sites   : List Nat                 -- site of each page record while resident
  area    : List Nat                 -- site of each position of the extent, the anchor first, while resident
  graph   : Option (Fin 4)           -- graph slot, or none for the port stream
  hyp     : Handle
  prio    : Nat
  placed  : Nat                      -- order of placement
  pes     : Sparse PE                -- key: page record * 256 + PE index
  ports   : Sparse PortState         -- key: page record * 4 + port
  secs    : Sparse Section           -- key: page record
  wires   : List Wire
  credits : List Wire
  arms    : List Arm
  serais  : List Serai
  range   : Option (Nat × Nat)       -- first tile and length (R426)
  wt      : Nat                      -- weight by the sites on which it stands or last stood (R425)
  taken   : Nat                      -- tiles of the range taken by segments
  segTiles : Nat                     -- tiles of the segment under way, t(i) of R343
  segCmd  : BitVec 32                -- ID of the command that armed the segment
  final   : Bool                     -- the running segment carries .L
  retired : Bool                     -- the sink has retired
  flags   : Word                     -- flags raised in the segment (R287)
  slots   : List (Nat × Nat)         -- accumulation slots claimed: site, tile slot
  savedAcc : List (Vector AccRow 16 × Counts)   -- their contents while saved
  pend    : Pending
  waited  : Word                     -- time the pending request began to wait
  active  : Word                     -- time of the last movement (R356)
  shut    : Option ShutCause
  shutAt  : Nat                      -- order of shutters
  tabs    : List (Nat × Nat)         -- table versions bound by the segment (R376)
  poolAt  : Nat                      -- units of the fabric save pool it holds
  cmdTok  : BitVec 32
  stopped : Bool                     -- refuted: stops at its next boundary (R273)
  passed  : Bool                     -- has passed the boundary of the SSEG under way
  tape    : List Sampled             -- flits of the sampled tiles of the segment at its endpoints (R451)
  deriving DecidableEq, Repr

/-! ### Streams, launches and doors of a context -/

/-- Where a stream command comes from (R327). -/
inductive Stream
  | port
  | graph (g : Fin 4)
  deriving DecidableEq, Repr

/-- A command in a port queue or accepted: its 128 bits, its ID, its stream, and the issuing thread's hypothesis, site and
slot (R51, R67, R70, R361). -/
structure Command where
  word   : BitVec 128
  id     : BitVec 32
  stream : Stream
  hyp    : Handle
  site   : Nat
  slot   : Nat
  begun  : Bool
  wrote  : Bool                      -- an SSYN that has written its word
  upTo   : Nat                       -- for SSYN: the model's clock at its acceptance
  deriving DecidableEq, Repr

/-- A launch descriptor as copied (R349). -/
structure LaunchDesc where
  words : Vector Word 16
  deriving DecidableEq, Repr

/-- A queued or running launch (R349 to R355). -/
structure Launch where
  id      : Nat
  queue   : Fin 64
  desc    : LaunchDesc
  lnci    : Option Word              -- pointer to the count
  hyp     : Handle                   -- issuer's THYP
  count   : Nat
  landed  : Nat                      -- threads landed
  ended   : Nat
  good    : Nat                      -- threads ended by HALT
  fault   : Bool
  flags   : Word
  fcnt    : Nat
  fseq    : BitVec 32
  started : Bool
  version : BitVec 16                -- group version bound (R420)
  prio    : BitVec 3                 -- priority and group of its queue when it started (R348)
  group   : Fin 64
  status  : Option Nat               -- completion status once decided
  serial  : Nat                      -- acceptance order in its queue
  deriving DecidableEq, Repr

/-- A running graph in a graph slot (R327, R346). -/
structure Graph where
  launch  : Nat                      -- launch id
  pc      : Addr
  started : Nat
  prio    : Nat
  hyp     : Handle
  queue   : Fin 64
  count   : Nat
  last    : Option (BitVec 32)       -- ID of the last executed command
  ahead   : List (BitVec 128)        -- commands fetched ahead of the one accepted next, at most 4 (R329)
  tiles   : Nat                      -- tiles admitted
  flags   : Word
  ended   : Bool                     -- its SSEG.L has been fetched
  drained : Option Word              -- time of the drain (R346)
  status  : Option Nat
  ranges  : List Nat                 -- slots whose ranges have been made
  endSlot : Nat
  curSlot : Option Nat               -- slot whose configuration holds the reconfiguration token (R182, R345)
  deriving DecidableEq, Repr

/-- A waiting SPLC (R334, R336). -/
structure Placement where
  slot    : Nat
  ninst   : Nat
  partl   : Bool
  queue   : Fin 64
  prio    : Nat
  id      : BitVec 32
  stream  : Stream
  version : BitVec 16
  made    : Nat
  cmp     : Bool                     -- its context's hardware compacted when it was asked for (R441)
  deriving DecidableEq, Repr

/-- A table version (R374, R376). -/
structure TableVer where
  tbl     : Nat
  serial  : Nat
  base    : Word
  rows    : Nat
  stride  : Nat
  hot     : Word
  ety     : BitVec 4
  rowLen  : Nat
  label   : BitVec 32
  current : Bool
  free    : Word                     -- free-notice address of the STBL that replaced it
  deriving DecidableEq, Repr

/-- A window of a slot (R389). -/
structure Window where
  win   : Nat
  slot  : Nat
  base  : Addr
  len   : Nat
  ntf   : Addr
  count : BitVec 32
  deriving DecidableEq, Repr

/-- The states of a hypothesis number (R260). -/
inductive HypSt
  | free | live | confirming | refuting
  deriving DecidableEq, Repr

/-- A hypothesis number: state, generation, parent, depth, last outcome with its generation, and successor (R258, R260). -/
structure Hyp where
  st      : HypSt
  gen     : BitVec 16
  parent  : Handle
  depth   : Nat
  outcome : Option (Bool × BitVec 16)   -- confirmed?, generation
  succ    : Option (BitVec 16 × Handle)
  named   : Handle                   -- the handle its resolve named, for the DETAIL of an orphan (R272)
  deriving DecidableEq, Repr

/-- A request at a hypothesis controller (R269). -/
inductive HypReq
  | new (p : Place) (d : Reg) (parent : Handle)
  | stat (p : Place) (d : Reg) (h : Handle)
  | conf (p : Place) (h : Handle)
  | refute (p : Place) (h : Handle)
  deriving DecidableEq, Repr

/-- A barrier of a context (R213 to R218): the mask in force and the staged one, the count in force and staged, arrivals of
each core in the open phase and ahead of it, stamps, and the report of the last released phase. -/
structure Barrier where
  mask    : BitVec 1024
  maskN   : BitVec 1024              -- mask of the next phase
  cnt     : Nat
  cntN    : Nat
  en      : Bool
  phase   : BitVec 32
  arr     : Sparse Nat               -- site: arrivals counted toward the open phase
  ahead   : Sparse (List Word)       -- site: stamps of the arrivals counted toward the following phases, oldest first
  stamps  : List (Nat × Word × Bool × Bool) -- site, stamp, arrived, retired: cores that have arrived or were retired, in order
  report  : List (Nat × Word × Bool) -- latest first, of the last released phase: site, LATE, RET
  repPh   : BitVec 32
  repV    : Bool
  ready   : Bool                     -- complete, release not yet delivered
  deriving DecidableEq, Repr

/-- Who may hold a region token: a thread, by its ID within the context, or a control core that acts for the context, whose
cache obeys the same region-token rules (R26, R191). (DEDUCED, assumption 13) -/
inductive Holder
  | thread (tid : BitVec 24)
  | control (i : Fin 16)
  deriving DecidableEq, Repr

/-- A region token (R191): its home is fixed by the region; holder, holding site, waiters, pending recall. -/
structure Token where
  region  : Nat
  holder  : Option Holder
  site    : Option CoreId
  queue   : List (Holder × Bool)     -- who waits, whether by R193
  called  : Bool                     -- a recall is pending
  used    : Bool                     -- the granted access by R193 has performed
  deriving DecidableEq, Repr

/-- What one context owns beyond its device registers. -/
structure Ctx where
  port     : List Command            -- command port queue, at most 16 (R51)
  accepted : List Command            -- accepted and not completed (R328)
  nextId   : BitVec 32               -- ID the next accepted command receives (R67)
  slots    : Vector (Option Config) 8
  portRanges : List Nat              -- slots whose ranges the port stream has made
  queues   : List Launch             -- queued and running launches, in acceptance order
  nextLaunch : Nat
  served   : Nat                     -- queue served last (R352)
  graphs   : Vector (Option Graph) 4
  places   : List Placement
  tables   : List TableVer
  tabSer   : Nat
  windows  : List Window
  hyps     : Sparse Hyp
  hypQ     : List (Nat × HypReq)
  hypSer   : Nat
  tokens   : List Token
  regions  : List (Nat × Nat × Nat)  -- index, base, log2: region table as the homes read it (R188)
  early    : List (CoreId × Nat × Option Nat)   -- while they read it: core, line, and its region by the new table (R188)
  notes    : List (Nat × Nat)        -- granules to which a window's record was written, with its first word (R390)
  bars     : Vector Barrier 4
  tids     : List (BitVec 24)        -- thread IDs that own a save record (R234)
  seq      : BitVec 32               -- fault records made (R230)
  halted   : Bool                    -- R208
  resetting : Bool                   -- R239
  fills    : List (Nat × Nat)        -- hardware fills under way: page-table entry address, page VA (R154)
  cecnt    : Nat
  heldQ    : List (Fin 3 × Record)   -- thread records held for a full queue, in order (R232)
  logs     : Sparse Nat              -- how many entries the replay log at a BASE holds (R452)
  todo     : List Nat                -- places in the log of the entries still to be replayed (R452)
  deriving DecidableEq, Repr

/-! ### Sites, streamers, edge slices and the rest of the module -/

/-- What a site is (R18, R249, R254). -/
inductive SiteStatus
  | dark | enabled | retired | closing
  deriving DecidableEq, Repr

/-- A decode table as loaded: 256 W19 entries, or none loaded since reset (R116). -/
abbrev Table := Option (Vector (BitVec 19) 256)

/-- An addend of an accumulator row (R397, R400): the finite value `n * 2^e`, an infinity, or a NaN that may raise NV. -/
inductive Addend
  | fin (n e : Int)
  | inf (neg : Bool)
  | nan (nv : Bool)
  deriving DecidableEq, Repr

/-- An event waiting at an accumulation store (R403): a row-add from the page of a site, with its counts; a product step of a
thread slot; a clear by a thread slot; the read of an SDRN, named by its transfer. -/
inductive AccEvent
  | rowAdd (src : Nat) (slot : Fin 4) (row : Fin 16) (r : AccRow) (c : Counts)
  | product (tslot : Nat) (slot : Fin 4) (row : Fin 16) (n : Nat) (ps : List (Nat × Addend))
  | clear (tslot : Nat) (slot : Fin 4)
  | drain (xfer : Nat) (slot : Fin 4) (clear : Bool)
  deriving DecidableEq, Repr

/-- An accumulation store: four tile slots of 16 rows with their counts, the claims, and the arrival queue (R402, R403). -/
structure AccStore where
  rows   : Vector (Vector AccRow 16) 4
  counts : Vector Counts 4
  claim  : Vector (Option (Fin 16)) 4
  queue  : List AccEvent
  deriving DecidableEq, Repr

/-- A site: status, the two copies of its four decode tables, tables built and not yet adopted by the page, its accumulation
store, power, slots reserved for caravans, and the rotation counter (R79, R120, R170, R402, R444). -/
structure Site where
  status  : SiteStatus
  tables  : Vector Table 4
  pages   : Vector Table 4
  waitPg  : Vector Bool 4            -- the page copy adopts the thread copy at the next boundary
  issued  : Vector Nat 4             -- order of issue of the TBLD that each thread copy comes from (R120)
  acc     : AccStore
  on      : Bool
  waking  : Option Nat               -- a wake asked for and not granted, by order of asking (R444)
  reserve : BitVec 16
  rot     : BitVec 4
  deriving DecidableEq, Repr

/-- The sides of a streamer transfer (R370). -/
inductive Side
  | memory (ptr : Word)
  | endpoint (ep : Nat)
  | slice (pos : Nat) (prog : Nat)
  deriving DecidableEq, Repr

/-- A participant of SRED or SCOL (R429): the pointer to its region and, for one that is named by rank, the site of that rank,
none for a hole. -/
structure Participant where
  ptr  : Word
  rank : Bool
  site : Option (Fin 1024)
  deriving DecidableEq, Repr

/-- A transfer's descriptor as read at start (R363, R370, R372, R377, R428, R411). -/
inductive Desc
  | copy (src dst : Side) (ety : Nat) (tslot : Nat) (scale : Int) (dims : List (Nat × Int × Int)) (etgt : Word)
  | index (op : Nat) (base idx data : Word) (ety ity opr tbl iep dep mep rowLen count : Nat) (stride : Int) (etgt : Word)
  | migrate (tbl : Nat) (row : Nat) (new old dst : Word) (len : Nat) (entry : Word)
  | reduce (parts : List Participant) (root : Word) (ety op : Nat) (sat : Bool) (len : Nat)
  | collect (parts : List Participant) (root : Word) (ety kind len : Nat)
  | drain (fmt : Nat) (rm : Nat) (tbl : Nat) (scl : BitVec 8) (rows : Option (Vector AccRow 16)) (etgt : Word) (site : Nat) (asl : Nat)
      (ep : Nat)
  deriving DecidableEq, Repr

/-- A spilled access of a transfer (R365): which element and tile, its pointer, size and alignment, what a write writes or
whether it marks poison, the destination of a read whose side is memory, and whether the transfer waits for it. -/
structure Spill where
  ctx   : Fin 16
  xfer  : Nat
  elem  : Nat
  tile  : Nat
  va    : Word
  size  : Nat
  align : Nat
  write : Bool
  data  : Nat
  psn   : Bool
  next  : Word
  hold  : Bool
  part  : Option Participant         -- the participant whose region it accesses (R429)
  partN : Option Participant         -- that of the write that follows
  upd   : Option AtomOp              -- an update that waits behind a spilled access, with its operation (R365, R373)
  feed  : Bool                       -- a read for a flit: the transfer goes on reading, its flits wait (R369)
  key   : Nat                        -- which element of a feeding transfer it is, or of the row of a parked index
  comm  : Bool                       -- a read of committed data (R374)
  deriving DecidableEq, Repr

/-- What an index resolves to: a row in memory, a miss with its cause, or a poisoned index (R373 to R375). -/
inductive RowAt
  | found (p : Word)
  | miss (cause : Nat)
  | lost
  deriving DecidableEq, Repr

/-- An index of an indexed command in work: its ordinal, the next element of its row, the index once it is known (`none` inside stands
for a poisoned one), the row it resolves to, the row data absorbed for it, whether only that one element is left to do, the value read
for the element whose write is held, and whether the read it waited for was discarded (R365, R367, R373). -/
structure Cursor where
  at_  : Nat
  sub  : Nat
  idx  : Option (Option Word)
  row  : Option RowAt
  vals : List (Option Word)
  only : Bool
  got  : Option (Option Word)
  lost : Bool
  deriving DecidableEq, Repr

/-- Where an indexed command that takes its indices from an endpoint stands in a tile (R373). -/
inductive Phase
  | header | indices | rows | skipIndex | skipData
  deriving DecidableEq, Repr

/-- A running transfer, or the sub-transfer of one instance (R361 to R369). -/
structure Xfer where
  id      : Nat
  ctx     : Fin 16
  cmd     : BitVec 32
  stream  : Stream
  slot    : Nat
  inst    : Option Nat               -- instance number of a bound (sub-)transfer
  hyp     : Handle
  daddr   : Word                     -- descriptor address
  desc    : Desc
  at_     : Nat                      -- next element, index ordinal or byte
  span    : Option (Nat × Nat)       -- first pattern tile and the one after the last; of an index tile, its ordinals
  tiles   : Nat                      -- index tiles finished
  hdr     : Bool                     -- the header of the data tile has been formed or taken
  bad     : Bool                     -- discarding a bad tile
  psn     : Bool                     -- inside a tile with a poisoned header
  rd      : Nat                      -- next element that an SCPY which forms flits reads, or an indexed command puts into a flit
  ahead   : List (Nat × Option Word) -- elements it has read and not used, by number; none is poisoned
  part    : List (Option Word)       -- elements read and in no flit yet, or absorbed and not written; none is poisoned
  buf     : List Flit                -- flits formed and not delivered
  mbuf    : List (Nat × Flit)        -- data flits of the miss tile, by position (R375)
  mout    : List Flit                -- a miss tile that has not yet entered its channel
  phase   : Phase
  last    : Bool                     -- the index tile's EOT carried LAST
  idx     : List (Option Word)       -- indices taken from an endpoint and not served; none is poisoned
  cur     : Option Cursor            -- the index being served
  parked  : List Cursor              -- indices whose reads are spilled (R365)
  redo    : List Cursor              -- those whose spilled reads have been resolved
  held    : List Cursor              -- elements whose writes wait for those of earlier indices (R367)
  lost    : Bool                     -- the read it waited for was discarded
  version : Nat                      -- table version bound at start by an unbound transfer
  fillAt  : Option Nat               -- page-table entry of the fill it waits for (R154)
  nofill  : Bool                     -- that fill has failed
  spent   : Bool                     -- nothing left to move
  deriving DecidableEq, Repr

/-- A command queued at a streamer, with the site and slot of its issuer (R361). -/
structure Queued where
  ctx    : Fin 16
  cmd    : BitVec 32
  word   : BitVec 128
  stream : Stream
  hyp    : Handle
  site   : Nat
  slot   : Nat
  deriving DecidableEq, Repr

/-- A streamer (R361, R365, R366): queue, transfers, spill queue, and for each context FLT with its SEQ. -/
structure Streamer where
  queue : List Queued
  xfers : List Xfer
  spill : List Spill
  flt   : Sparse (BitVec 32)         -- contexts whose FLT is 1, with SEQ
  deriving DecidableEq, Repr

/-- An address-generator program in its slot (R378, R379). -/
structure EdgeProg where
  ctx   : Fin 16
  words : Vector Word 8
  slot  : Nat
  inst  : Nat
  at_   : Nat                        -- element within the pass
  pass  : Nat
  tile  : Bool                       -- a tile is in progress
  bad   : Bool
  hdr   : Bool
  buf   : List Flit
  deriving DecidableEq, Repr

/-- An edge slice: its SRAM and program slots (R21, R22, R378). -/
structure Slice where
  sram  : List Host.Cell
  progs : Vector (Option EdgeProg) 4
  deriving DecidableEq, Repr

/-- The way of a message: the interface that sent it, the interface that receives it, and its place in the order of sending (R17). -/
structure Way where
  src : Nat
  dst : Nat
  num : Nat
  deriving DecidableEq, Repr

/-- A landing request under way, or its reply (R170): who, from where, to which site, the reserved slot once granted, the
message's send stamp and way. -/
structure Landing where
  place  : Place
  target : Fin 1024
  grant  : Option (Option (Fin 16))  -- answered?, granted slot
  visit  : Bool
  stamp  : Word
  way    : Way
  deriving DecidableEq, Repr

/-- A flush under way: the core flushed, the context, the thread that waits for it, and the way of its request (R196, R197). -/
structure Flush where
  target : CoreId
  ctx    : Fin 16
  tid    : BitVec 24
  place  : Place
  auto   : Bool
  way    : Way
  deriving DecidableEq, Repr

/-- A token message (R191, R192). -/
inductive TokenMsg
  | request (ctx : Fin 16) (region : Nat) (who : Holder) (place : Place) (store : Bool) (way : Way)
  | retry (ctx : Fin 16) (region : Nat) (who : Holder) (place : Place) (store : Bool)
  | grant (ctx : Fin 16) (region : Nat) (who : Holder) (place : Place) (way : Way)
  deriving DecidableEq, Repr

/-- A signal under way, with its issuer and its way (R246). -/
structure Signal where
  who   : Nat
  ctx   : Fin 16
  tid   : BitVec 24
  bits  : BitVec 16
  stamp : Word
  way   : Way
  deriving DecidableEq, Repr

/-- A recorded outcome on its way to the cores (R274). -/
structure OutcomeMsg where
  ctx   : Fin 16
  h     : Handle
  core  : CoreId
  deriving DecidableEq, Repr

/-- A rank group's committed or staged values (R416 to R418). -/
structure Group where
  desc  : Word
  ranks : Sparse Word
  deriving DecidableEq, Repr

/-- The group table (R419, R420). -/
structure Groups where
  staged : Sparse Group
  coming : Sparse Group             -- the staged values as the commit under way has checked them
  force  : Sparse Group
  before : Sparse Group
  ver    : BitVec 16
  busy   : Bool
  err    : Bool
  egrp   : Nat
  erank  : Nat
  deriving DecidableEq, Repr

/-- A retirement under way (R254). -/
structure Retirement where
  site   : Fin 1024
  forced : Bool
  begun  : Bool                      -- its barrier and group entries have been cleared
  deriving DecidableEq, Repr

/-- The states of a routing-table update (R450). -/
inductive RtuState
  | idle | staging | staged | committing | rejected
  deriving DecidableEq, Repr

/-- The routing tables of the routers, in force and staged, with the update under way (R443, R450): its state, cause and site as
RTUSTAT shows them, the image's address, and the place in the order of sending from which a commit holds messages back. -/
structure Rtu where
  st     : RtuState
  cause  : BitVec 4
  site   : BitVec 10
  img    : Nat
  staged : List (BitVec 10 × List Byte)
  force  : List (BitVec 10 × List Byte)
  hold   : Nat
  deriving DecidableEq, Repr

/-- A field of the die: time counter, whether it holds until the reference reaches it, and the activity register (R15, R243,
R445). -/
structure Field where
  time  : Word
  hold  : Bool
  fact  : Word
  deriving DecidableEq, Repr

/-- An attestation report: its items in the order of R447. -/
structure Report where
  devid    : Word
  identity : BitVec 256
  image    : BitVec 256
  version  : Nat
  speeds   : BitVec 256
  dark     : BitVec 256
  keytab   : Vector (Option (BitVec 256)) 16
  modId    : Nat
  live     : Nat
  owners   : Nat
  nonce    : BitVec 256
  deriving DecidableEq, Repr

/-- What the management port answers (R446 to R449). (DESIGN CHOICE, assumption 46) -/
inductive Answer
  | bootFailure
  | authFailure
  | nonce (n : BitVec 256)
  | ownerDone (owners : Nat)
  | enrolled (entries : List (Fin 16))
  | attested (r : Report) (sig : List Byte)
  | value (o : Nat) (v : Word)       -- a management agent's read of the register at a module offset (R448)
  | written (o : Nat)                -- its write of one
  | noAccess (o : Nat)               -- an offset at which control cores reach no such register
  deriving DecidableEq, Repr

/-- The management port: whether its link is up, the FEC chosen, frames received and not yet served, the answers given in
order, and the nonces issued and not used (R448, R449). -/
structure Mgmt where
  up     : Bool
  rsfec  : Bool
  inbox  : List (List Byte)
  outbox : List Answer
  nonces : List (BitVec 256)
  deriving DecidableEq, Repr

/-- The stream command that is being started (R67). (DESIGN CHOICE, assumption 53) -/
structure CmdCursor where
  ctx    : Fin 16
  id     : BitVec 32
  stream : Stream
  hyp    : Handle
  site   : Nat
  slot   : Nat
  deriving DecidableEq, Repr

/-- The PE whose node or router is firing (R281, R303). (DESIGN CHOICE, assumption 53) -/
structure PeCursor where
  inst : Nat
  page : Nat
  pe   : Nat
  deriving DecidableEq, Repr

/-- What a request of another module asks of a home of this one over Route (R148, R434, R436): a read, an FE-qualified load, the
withdrawal of one, a store of up to 16 bytes (plain, .FES or an engine's), an atomic with its operand and expected value, or a tag
store. -/
inductive RouteReq
  | read
  | full (consume : Bool)
  | withdraw (consume : Bool)
  | store (n v : Nat) (fills : Bool)
  | atom (op : AtomOp) (size : AtomSize) (opnd expect : Word)
  | tag (t : BitVec 4)
  deriving DecidableEq, Repr

/-- What the surroundings and the device's own timing choose: which agent acts next and what happens by itself. The model is
deterministic, so these choices stand in the state as a list that the step consumes; every list is possible.
(DESIGN CHOICE, assumption 1) (DESIGN CHOICE, assumption 51) -/
inductive Input
  | turn (p : Place)                              -- an issue turn of that control core, or of that slot when ROT names it
  | cycle (n : Fin 1024)                          -- a core cycle of a site: the issue turn of the slot that ROT names (R79)
  | occur (i : Instr)                             -- an event of the table
  | command (ctx : Fin 16) (id : BitVec 32)       -- an accepted stream command starts
  | fire (inst page pe : Nat) (router : Bool)     -- a node or router operator fires
  | move (pos : Nat) (k : Nat) (early : Bool)     -- a transfer moves its next element or flit, or reads one before it writes the
                                                  -- elements before it (R367)
  | prefetch (ctx : Fin 16) (g : Fin 4)           -- a sequencer fetches one more command of a graph program ahead (R329)
  | spoil (ctx : Fin 16) (slot : Fin 8) (page : Nat)   -- an uncorrectable error in the staged copy of a page record (R358)
  | token (i ep : Nat)                            -- the next flit of a value token enters an input endpoint's channel (R342)
  | elapse (f : Fin 8) (ns : Nat)                 -- a field's counter advances
  | tableRead (p : Place) (i : Nat)               -- a TBLD under way reads one granule of its image (R141)
  | reference (ns : Nat)                          -- the reference of the resynchronisation pulse advances (R243)
  | dropTlb (k : Nat)                             -- an entry of a TLB or translation cache is replaced or dropped (R153)
  | region (core : CoreId) (c : Fin 16) (line : Nat)    -- a core applies the region table that is being read to a line (R188)
  | routeIn (o : Nat) (tag : BitVec 4) (r : RouteReq)   -- another module's request reaches the home of a module offset (R24, R148)
  | mgmtRead (o : Nat)                            -- Wellis reads the register at a module offset for a management agent (R448)
  | mgmtWrite (o : Nat) (v : Word)                -- Wellis writes it for the agent (R448)
  | uncorrectable (line : Nat) (ver : Option (Fin 16 × Handle))   -- an uncorrectable memory error in a line, or in a version of it
                                                  -- (R157)
  | peerWrite (addr : Nat) (b : Byte)             -- another module writes its own memory
  | retransmit (port : Fin 48)                    -- a beat is retransmitted on a Route port (R435)
  deriving DecidableEq, Repr

/-- How far start-up has come (R443): still in stage 1 because boot verification failed, at a unit of a stage, or through stage 6. -/
inductive Boot
  | failed
  | starting (stage unit : Nat)
  | up
  deriving DecidableEq, Repr

/-- The state of the module. (DESIGN CHOICE, assumption 9) (DESIGN CHOICE, assumption 53) -/
structure State where
  th      : Thread                   -- the thread or control core whose turn it is
  rest    : List Thread              -- every other thread and control core
  inputs  : List Input
  mem     : Mem
  peers   : Mem                      -- memory of other modules of the domain
  regs    : Sparse Word              -- device registers that hold plain bits, by module offset
  vers    : List Version
  llc     : Sparse Bool              -- lines held by the LLC slices, with their dirty bits (R24)
  cache   : List CacheLine
  sbuf    : List StoreEntry
  nextSt  : Nat
  tlb     : List TlbEntry
  inval   : List (Fin 16 × Place × Wait)   -- accesses that waited with an invalidated translation (R153)
  invalFills : List (Fin 16 × Nat)   -- fills that transfers waited for at an invalidated address: context, page-table entry (R153)
  feq     : List (Nat × Waiter × Bool) -- recorded FE waiters: granule, who, consuming (R164)
  ctxs    : Vector Ctx 16
  sites   : Sparse Site
  fields  : Vector Field 8
  ref     : Word                     -- the reference of the resynchronisation pulse (R16, R243)
  stamps  : Sparse Word              -- stamp registers above their counters, by interface or home (R244)
  insts   : List Inst
  streams : Sparse Streamer
  slices  : Sparse Slice
  groups  : Groups
  land    : List Landing
  flushes : List Flush
  tokmsgs : List TokenMsg
  signals : List Signal
  outmsgs : List (Fin 16 × Handle)   -- outcomes that have not reached every core (R274)
  seen    : List OutcomeMsg          -- outcomes that have reached a core (R274)
  retire  : Option Retirement
  rtu     : Rtu
  mgmt    : Mgmt
  keytab  : Vector (Option (BitVec 256)) 16
  owners  : Nat                      -- owner-change resets
  boot    : Boot
  silent  : List (Fin 128)           -- streamers whose next remote request gets no response (R437)
  spare   : Nat                      -- free values used (the model's own field)
  clock   : Nat                      -- order of landings, placements and shutters (the model's own field)
  cmd     : CmdCursor
  pe      : PeCursor
  deriving DecidableEq, Repr

/-- Why the machine stops with a fault. (DEDUCED, assumption 10) -/
inductive Fault
  /-- Raised by the step of a thread or control core while boot verification has failed: the module stays in stage 1 and
  nothing else runs (R446). Safe: the manual lets nothing run then. -/
  | bootFailed
  deriving DecidableEq, Repr

/-- Why the model refuses to give a step. -/
inductive Refusal
  /-- Raised by an arm of `exec` whose instruction has no meaning yet. Safe: nothing is claimed of it. -/
  | notModelled (mnemonic : String)
  deriving DecidableEq, Repr

/-! ### The state right after reset -/

/-- The supervisor registers at reset: every one 0 (R240). -/
def Supervisor.reset : Supervisor :=
  { sepc := 0, scause := 0, sfaddr := 0, svec := 0, ssts := 0, sien := 0, sscr0 := 0, sscr1 := 0, sctx := 0, sfrec := 0 }

/-- A thread with the register state of R107 and the reset values of R126, R127, R167 and R259: every register 0, TMODE
selecting RNE, every watchpoint disabled with SIZE 4. (DESIGN CHOICE, assumption 3) -/
def Thread.blank : Thread :=
  { place := .control 0, st := .run, ctx := 0, tid := 0, g := Vector.replicate 32 0, f := Vector.replicate 32 0, pc := 0,
    tmode := 1, tflags := 0, thyp := 0, twa := Vector.replicate 4 0, twc := Vector.replicate 4 0x400, floor := 0,
    aph := Vector.replicate 4 0, av := Vector.replicate 4 false, mov := false, sigs := 0, prio := 0, intrap := false,
    sup := false, sv := Supervisor.reset, wait := .none, pass := false, mid := false, held := none, watches := [], origin := .none,
    save := 0, old := none, landed := 0, ready := none, tseq := 0, fwd := [], halted := false }

/-- A control core as start-up leaves it: running Wellis in supervisor mode (R440, R443). Its pc is the model's choice.
(DESIGN CHOICE, assumption 3) -/
def Thread.controlCore (i : Fin 16) : Thread :=
  { Thread.blank with place := .control i, sup := true }

/-- A memory with nothing listed: every byte 0, every tag 0, every full-empty bit empty, nothing poisoned (R7).
(DEDUCED, assumption 8) -/
def Mem.cleared : Mem := { bytes := [], tags := [], full := [], poison := [] }

/-- A cleared accumulator row (R396). -/
def AccRow.cleared : AccRow :=
  { z := true, ovr := false, psn := false, e := 0, h := 8388607, m := Vector.replicate 16 0, s := Vector.replicate 16 0 }

/-- Counts after ACCZ (R401). -/
def Counts.zero : Counts := { rn := 0, tr := 0, tz := 0 }

/-- An accumulation store cleared (R7, R443). -/
def AccStore.cleared : AccStore :=
  { rows := Vector.replicate 4 (Vector.replicate 16 AccRow.cleared), counts := Vector.replicate 4 Counts.zero,
    claim := Vector.replicate 4 none, queue := [] }

/-- A site as manufacture and start-up leave it: dark or enabled, no decode table loaded (R116), its store cleared.
(DESIGN CHOICE, assumption 3) -/
def Site.initial (n : Nat) : Site :=
  { status := if h : n < 1024 then (if Config.darkAtManufacture ⟨n, h⟩ then .dark else .enabled) else .dark,
    tables := Vector.replicate 4 none, pages := Vector.replicate 4 none, waitPg := Vector.replicate 4 false,
    issued := Vector.replicate 4 0,
    acc := AccStore.cleared, on := true, waking := none, reserve := 0, rot := 0 }

/-- A barrier at reset: CNT 1, disabled, phase 0 open, no report (R213). -/
def Barrier.reset : Barrier :=
  { mask := 0, maskN := 0, cnt := 1, cntN := 1, en := false, phase := 0, arr := [], ahead := [], stamps := [],
    report := [], repPh := 0, repV := false, ready := false }

/-- A context at reset: nothing queued, staged, running or bound; every hypothesis number FREE with generation 0 (R239).
(DESIGN CHOICE, assumption 3) -/
def Ctx.reset : Ctx :=
  { port := [], accepted := [], nextId := 0, slots := Vector.replicate 8 none, portRanges := [], queues := [],
    nextLaunch := 0, served := 63, graphs := Vector.replicate 4 none, places := [], tables := [],
    tabSer := 0, windows := [], hyps := [], hypQ := [], hypSer := 0, tokens := [], regions := [], early := [], notes := [],
    bars := Vector.replicate 4 Barrier.reset, tids := [], seq := 0, halted := false, resetting := false, fills := [],
    cecnt := 0, heldQ := [], logs := [], todo := [] }

/-- A streamer with nothing queued. -/
def Streamer.reset : Streamer := { queue := [], xfers := [], spill := [], flt := [] }

/-- An edge slice cleared, with no program (R7). -/
def Slice.reset : Slice := { sram := [], progs := Vector.replicate 4 none }

/-- A field's counter and activity at start-up (R243, R445). -/
def Field.reset : Field := { time := 0, hold := false, fact := 0 }

/-- The group table after start-up: the default group committed as version 1; an unlisted group reads as R422 leaves it. -/
def Groups.reset : Groups :=
  { staged := [], coming := [], force := [], before := [], ver := 1, busy := false, err := false, egrp := 0, erank := 0 }

/-- The boot sequence's verdict on the Wellis image (R446). (DEDUCED, assumption 10) -/
def Boot.verdict : Boot :=
  if Config.shake256 ((List.range 64).map fun i => (Config.wellisKey.extractLsb' (8 * i) 8)) = Config.bootKeyDigest ∧
      Config.slhDsaVerify Config.wellisKey Config.wellisBody Config.wellisSig ∧
      Config.antiRollback ≤ Config.wellisVersion then .up else .failed

/-- The module right after reset: start-up has run through stage 6 (R443), so that memory, tags, full-empty bits, caches,
queues and hypotheses are cleared (R7), the default group is committed (R422), the sixteen control cores run in supervisor
mode and no barrel thread exists. (DESIGN CHOICE, assumption 3) -/
def State.reset : State :=
  { th := Thread.controlCore 0,
    rest := (List.finRange 16).tail.map Thread.controlCore,
    inputs := [], mem := Mem.cleared, peers := Mem.cleared, regs := [], vers := [], llc := [], cache := [], sbuf := [],
    nextSt := 0, tlb := [], inval := [], invalFills := [], feq := [], ctxs := Vector.replicate 16 Ctx.reset, sites := [],
    fields := Vector.replicate 8 Field.reset, ref := 0, stamps := [], insts := [], streams := [], slices := [],
    groups := Groups.reset, land := [], flushes := [], tokmsgs := [], signals := [], outmsgs := [], seen := [],
    retire := none,
    rtu := { st := .idle, cause := 0, site := 0, img := 0, staged := [], force := Config.darkSiteTables, hold := 0 },
    mgmt := { up := false, rsfec := false, inbox := [], outbox := [], nonces := [] },
    keytab := (Vector.replicate 16 none).set 0 (some Config.evderKeyDigest),
    owners := 0, boot := .up, silent := [], spare := 0, clock := 0,
    cmd := { ctx := 0, id := 0, stream := .port, hyp := 0, site := 0, slot := 0 },
    pe := { inst := 0, page := 0, pe := 0 } }

end Sys2Proof.Machine
end

