-- ==== Sys2Proof/Machine/Base.lean ====
section
/-!
DEFINITION. Sys2Proof/Machine/Base.lean: reading and updating sparse tables, memory bytes, registers, device registers,
threads by place, and the time and stamps of fields (R14, R15, R26, R36, R147, R243 to R245, R252).
-/
namespace Sys2Proof.Machine

/-- What every meaning answers. -/
abbrev Result := Host.Outcome State Fault Refusal

/-! ### Sparse tables -/

/-- The value at key `k`, or `d` where the table lists none. -/
def tget {α : Type} (d : α) : Sparse α → Nat → α
  | [], _ => d
  | (n, v) :: t, k => if k = n then v else tget d t k

/-- The table with `v` at key `k`, or with no entry there when `keep` is false; keys stay strictly rising. (DEDUCED, assumption 8) -/
def tput {α : Type} (keep : Bool) : Sparse α → Nat → α → Sparse α
  | [], k, v => if keep then [(k, v)] else []
  | (n, w) :: t, k, v =>
    if k < n then (if keep then (k, v) :: (n, w) :: t else (n, w) :: t)
    else if k = n then (if keep then (k, v) :: t else t)
    else (n, w) :: tput keep t k v

/-- Replaces element `k` of a list. -/
def setAt {α : Type} (l : List α) (k : Nat) (v : α) : List α := l.set k v

/-- Removes element `k` of a list. -/
def dropAt {α : Type} (l : List α) (k : Nat) : List α := l.eraseIdx k

/-! ### Memory bytes (R8, R147) -/

/-- One byte. -/
def Mem.byte (m : Mem) (a : Nat) : Byte := tget 0 m.bytes a

/-- The memory with one byte written; an address that holds 0 is not listed. -/
def Mem.setByte (m : Mem) (a : Nat) (b : Byte) : Mem := { m with bytes := tput (b != 0) m.bytes a b }

/-- `n` bytes from `a` up, little-endian (R8). -/
def Mem.read (m : Mem) (a : Nat) : Nat → Nat
  | 0 => 0
  | n + 1 => (m.byte a).toNat + 256 * m.read (a + 1) n

/-- Writes the low `n` bytes of `v`, little-endian (R8). -/
def Mem.write (m : Mem) (a : Nat) : Nat → Nat → Mem
  | 0, _ => m
  | n + 1, v => (m.setByte a (BitVec.ofNat 8 v)).write (a + 1) n (v / 256)

/-- The memory tag of the granule that holds `a` (R159). -/
def Mem.tag (m : Mem) (a : Nat) : BitVec 4 := tget 0 m.tags (a / 16)

def Mem.setTag (m : Mem) (a : Nat) (t : BitVec 4) : Mem := { m with tags := tput (t != 0) m.tags (a / 16) t }

/-- Whether the granule that holds `a` is full (R162). -/
def Mem.isFull (m : Mem) (a : Nat) : Bool := tget false m.full (a / 16)

def Mem.setFull (m : Mem) (a : Nat) (b : Bool) : Mem := { m with full := tput b m.full (a / 16) b }

/-- Whether the granule that holds `a` is poisoned (R157). -/
def Mem.poisoned (m : Mem) (a : Nat) : Bool := tget false m.poison (a / 16)

def Mem.setPoison (m : Mem) (a : Nat) (b : Bool) : Mem := { m with poison := tput b m.poison (a / 16) b }

/-- The windows of a module's address space (R147). -/
inductive Space
  | hbm | scratch | tcm | device | none
  deriving DecidableEq, Repr

/-- The window that a module offset lies in (R147). -/
def spaceOf (o : Nat) : Space :=
  if o < 0x12000000000 then .hbm
  else if 0x1E000000000 ≤ o ∧ o < 0x1E020000000 then .scratch
  else if 0x1F000000000 ≤ o ∧ o < 0x1F010000000 then .tcm
  else if 0x1FF00000000 ≤ o ∧ o < 0x1FF01000000 then .device
  else .none

/-- The site whose TCM holds an offset of the TCM window (R25). -/
def tcmSite (o : Nat) : Nat := (o - 0x1F000000000) / 0x40000

/-- The cluster whose scratchpad holds an offset of the scratchpad window (R25). -/
def scratchCluster (o : Nat) : Nat := (o - 0x1E000000000) / 0x200000

/-- The stack that homes an HBM offset (R23). -/
def stackOf (o : Nat) : Nat := (o / 4096) % 24

/-! ### Device registers held by offset -/

/-- The reset value of a device register whose reset value is not 0 (R359, R441, R451). -/
def regReset (o : Nat) : Word :=
  if 0x1FF00400000 ≤ o ∧ o < 0x1FF00400080 then 0x1F
  else if 0x1FF000E0000 ≤ o ∧ o < 0x1FF000E0800 ∧ (o - 0x1FF000E0000) % 0x80 = 0x28 then 1000
  else if o = 0x1FF00430000 then 12
  else 0

/-- The plain bits a device register holds. -/
def State.reg (s : State) (o : Nat) : Word := tget (regReset o) s.regs o

def State.setReg (s : State) (o : Nat) (v : Word) : State := { s with regs := tput (v != regReset o) s.regs o v }

/-- Sets bits `hi:lo` of a device register. -/
def State.setRegBits (s : State) (o lo n v : Nat) : State := s.setReg o (setBits (s.reg o) lo n v)

def cflagsAt (cluster : Nat) : Nat := 0x1FF00020000 + cluster * 8
def cxrootAt (k : Nat) : Nat := 0x1FF00030000 + k * 0x20
def cxpeerAt (k : Nat) : Nat := cxrootAt k + 8
def tlbstatAt (k : Nat) : Nat := cxrootAt k + 0x18
def rgnbaseAt (k : Nat) : Nat := 0x1FF00040000 + k * 0x10
def rgnctlAt (k : Nat) : Nat := rgnbaseAt k + 8
def rlogbaseAt (k : Nat) : Nat := 0x1FF00050000 + k * 0x10
def rlogctlAt (k : Nat) : Nat := rlogbaseAt k + 8
def fqbaseAt (k q : Nat) : Nat := 0x1FF00080000 + k * 0x40 + q * 0x10
def fqctlAt (k q : Nat) : Nat := fqbaseAt k q + 8
def cxtrapAt (k : Nat) : Nat := 0x1FF00090000 + k * 0x20
def cxtcmvAt (k : Nat) : Nat := cxtrapAt k + 8
def retstatAt : Nat := 0x1FF000A0000
def pgflagAt (site : Nat) : Nat := 0x1FF000B0000 + site * 8
def lqcfgAt (k q : Nat) : Nat := 0x1FF000D0000 + k * 0x400 + q * 0x10
def spbaseAt (k : Nat) : Nat := 0x1FF000E0000 + k * 0x80
def spcntAt (k : Nat) : Nat := spbaseAt k + 0x08
def fsbaseAt (k : Nat) : Nat := spbaseAt k + 0x10
def fssizeAt (k : Nat) : Nat := spbaseAt k + 0x18
def shmapAt (k : Nat) : Nat := spbaseAt k + 0x20
def hangintAt (k : Nat) : Nat := spbaseAt k + 0x28
def sqintAt (k : Nat) : Nat := spbaseAt k + 0x30
def ldstatAt (k : Nat) : Nat := spbaseAt k + 0x50
def routecfgAt : Nat := 0x1FF00300000
def rtmapAt (m : Nat) : Nat := 0x1FF00310000 + m * 8
def rtportAt (p : Nat) : Nat := 0x1FF00320000 + p * 8
def cxmodeAt (k : Nat) : Nat := 0x1FF00400000 + k * 8
def rrcfgAt : Nat := 0x1FF00430000
def rrstatAt : Nat := 0x1FF00430008
def rplctlAt (k : Nat) : Nat := 0x1FF00440000 + k * 0x10
def cxrstAt (k : Nat) : Nat := 0x1FF00450000 + k * 8

/-- The bits of CXMODE (R441). -/
inductive Mode
  | mig | tbl | hang | cmp | pf
  deriving DecidableEq, Repr

/-- Whether a function of a context is in hardware mode (R441). -/
def State.hardware (s : State) (c : Fin 16) (m : Mode) : Bool :=
  bit (s.reg (cxmodeAt c)) (match m with | .mig => 0 | .tbl => 1 | .hang => 2 | .cmp => 3 | .pf => 4)

/-- This module's ID (R433). -/
def State.modId (s : State) : Nat := bits (s.reg routecfgAt) 0 11

/-- Whether a domain physical address lies in this module (R27). -/
def State.isLocal (s : State) (pa : Nat) : Bool := pa / 2 ^ 41 == s.modId

/-- The module offset of a domain physical address (R147). -/
def offsetOf (pa : Nat) : Nat := pa % 2 ^ 41

/-- The domain physical address of an offset of this module. -/
def State.localPa (s : State) (o : Nat) : Nat := s.modId * 2 ^ 41 + o % 2 ^ 41

/-- The domain physical address that an untranslated address of a control core in supervisor mode names: itself, with the module
ID in bits 51:41 (R27). (DEDUCED, assumption 12) -/
def State.superPa (_s : State) (a : Nat) : Nat := a

/-! ### Sites, clusters, fields (R14, R26, R252) -/

def siteX (n : Nat) : Nat := n % 32
def siteY (n : Nat) : Nat := n / 32
def siteField (n : Nat) : Nat := (siteY n / 8) * 2 + siteX n / 16
def siteCluster (n : Nat) : Nat := (siteY n / 2) * 16 + siteX n / 2
def sitePosition (n : Nat) : Nat := (siteY n % 2) * 2 + siteX n % 2

/-- The field a control core attaches to (R26). -/
def controlField (i : Nat) : Nat :=
  match i / 4 with
  | 0 => 0 | 1 => 1 | 2 => 7 | _ => 6

/-- The field of an HBM stack (R252). -/
def stackField (k : Nat) : Nat := [0, 0, 0, 1, 1, 1, 1, 3, 3, 5, 5, 7, 7, 7, 7, 6, 6, 6, 6, 4, 4, 2, 2, 0].getD k 0

/-- The field of a cluster: that of its first site (R14). -/
def clusterField (c : Nat) : Nat := (c / 16 / 4) * 2 + (c % 16) / 8

/-- The sites of a cluster (R14). -/
def clusterSites (c : Nat) : List Nat :=
  let y := (c / 16) * 2
  let x := (c % 16) * 2
  [y * 32 + x, y * 32 + x + 1, (y + 1) * 32 + x, (y + 1) * 32 + x + 1]

/-- The edge site beside a perimeter position (R21). -/
def edgeSite (k : Nat) : Nat :=
  if k < 32 then k else if k < 64 then (k - 32) * 32 + 31 else if k < 96 then 31 * 32 + (k - 64) else (k - 96) * 32

/-- The site's state; an unlisted site is as manufacture and start-up leave it. -/
def State.site (s : State) (n : Nat) : Site := tget (Site.initial n) s.sites n

def State.setSite (s : State) (n : Nat) (v : Site) : State := { s with sites := tput true s.sites n v }

/-- Whether a site holds an enabled core (R18, R249): dark and retired sites do not. -/
def Site.enabled (x : Site) : Bool := x.status == .enabled || x.status == .closing

/-- Whether a site is dark: at manufacture or by retirement (R18, R254). -/
def Site.isDark (x : Site) : Bool := x.status == .dark || x.status == .retired

/-- Whether a cluster's scratchpad is present (R19). -/
def State.scratchPresent (s : State) (c : Nat) : Bool := (clusterSites c).any fun n => (s.site n).enabled

/-! ### Registers of a thread (R36, R83, R113) -/

/-- g[r]; g0 reads as zero (R36). -/
def Thread.gr (t : Thread) (r : Reg) : Word := if r = 0 then 0 else t.g[r]

/-- Writes g[r]; a write to g0 is discarded (R36). -/
def Thread.setG (t : Thread) (r : Reg) (v : Word) : Thread := if r = 0 then t else { t with g := t.g.set r v }

/-- f[r]. -/
def Thread.fr (t : Thread) (r : Reg) : Word := t.f[r]

def Thread.setF (t : Thread) (r : Reg) (v : Word) : Thread := { t with f := t.f.set r v }

/-- The register after `r`; a pair register is even, so this is its partner (R46). -/
def regSucc (r : Reg) : Reg := r + 1

def State.setTh (s : State) (t : Thread) : State := { s with th := t }
def State.gr (s : State) (r : Reg) : Word := s.th.gr r
def State.setG (s : State) (r : Reg) (v : Word) : State := { s with th := s.th.setG r v }
def State.fr (s : State) (r : Reg) : Word := s.th.fr r
def State.setF (s : State) (r : Reg) (v : Word) : State := { s with th := s.th.setF r v }

/-- The thread goes on at `a` (R97). -/
def State.goto (s : State) (a : Addr) : State := { s with th := { s.th with pc := a, pass := false, mid := false } }

/-- The thread goes on at its next instruction (R97). -/
def State.advance (s : State) : State := s.goto (s.th.pc + 4)

/-- The current thread enters WAIT in the midst of an instruction (R81); it runs its instruction again when the wait ends. -/
def State.block (s : State) (w : Wait) : State := { s with th := { s.th with st := .wait, wait := w, mid := true } }

/-- The current thread forfeits `n` turns after an instruction that has completed (R81, R86). -/
def State.pause (s : State) (n : Nat) : State := { s with th := { s.th with st := .wait, wait := .turns n } }

/-- Completes an instruction. -/
def done (s : State) : Result := .next s.advance

/-- Completes an instruction that writes g[d]. -/
def doneG (s : State) (d : Reg) (v : Word) : Result := done (s.setG d v)

/-- Completes an instruction that writes f[d]. -/
def doneF (s : State) (d : Reg) (v : Word) : Result := done (s.setF d v)

/-- Whether a thread stands in a slot of a barrel core. -/
def Thread.onBarrel (t : Thread) : Bool := match t.place with | .slot _ _ => true | _ => false

/-- Whether a thread is a control core. -/
def Thread.onControl (t : Thread) : Bool := match t.place with | .control _ => true | _ => false

/-- Whether the thread stands where it can issue: in a slot or on a control core (R80). -/
def Thread.resident (t : Thread) : Bool := t.onBarrel || t.onControl

/-- The site of a thread; 0 on a control core (R224). -/
def Thread.site (t : Thread) : Nat :=
  match t.place with
  | .slot n _ => n | .caravan n _ => n | _ => 0

/-- The slot of a thread, or the index of a control core (R224). -/
def Thread.slot (t : Thread) : Nat :=
  match t.place with
  | .slot _ k => k | .control i => i | .caravan _ k => k | _ => 0

/-- The core a thread runs on. -/
def Thread.core (t : Thread) : CoreId :=
  match t.place with
  | .control i => .control i
  | .slot n _ => .site n
  | .caravan n _ => .site n
  | .saved _ _ => .site 0

/-- The context a thread acts for; a control core acts for SCTX (R223). -/
def Thread.cx (t : Thread) : Fin 16 := if t.onControl then t.sv.sctx else t.ctx

/-- The thread ID; 0 on a control core (R249). -/
def Thread.id (t : Thread) : BitVec 24 := if t.onControl then 0 else t.tid

/-- Whether a control core runs in supervisor mode, untranslated (R223). -/
def Thread.supervisor (t : Thread) : Bool := t.onControl && t.sup

/-- The field of a core (R14, R26). -/
def coreField : CoreId → Nat
  | .site n => siteField n
  | .control i => controlField i

/-- TSTAT (R224). -/
def Thread.tstat (t : Thread) : Word :=
  field 52 4 t.cx ||| field 32 10 (if t.onControl then 0 else t.site) ||| field 24 4 t.slot ||| flag 5 t.onControl |||
    flag 4 t.sup ||| flag 0 t.intrap

/-- After an instruction of `n + 1` turns, a barrel thread forfeits `n` turns in WAIT (R86); a control core has no slot whose
turns could be forfeited (R26). (DESIGN CHOICE, assumption 51) -/
def forfeit (n : Nat) (s : State) : State :=
  if n ≠ 0 ∧ s.th.onBarrel then s.pause n else s

/-! ### Threads by place -/

/-- Every thread and control core. -/
def State.threads (s : State) : List Thread := s.th :: s.rest

def State.findThread (s : State) (p : Place) : Option Thread := s.threads.find? fun t => t.place = p

/-- As whom a thread or control core holds region tokens (R26, R191). -/
def Thread.holder (t : Thread) : Holder := match t.place with | .control i => .control i | _ => .thread t.tid

/-- The thread with ID `tid` of context `c`, wherever it is (R218, R234). -/
def State.findTid (s : State) (c : Fin 16) (tid : BitVec 24) : Option Thread :=
  s.threads.find? fun t => !t.onControl && t.ctx = c && t.tid = tid && tid != 0

/-- The thread of a context, or the control core, that holds or awaits a token (R26, R191). -/
def State.findHolder (s : State) (c : Fin 16) : Holder → Option Thread
  | .thread tid => s.findTid c tid
  | .control i => s.findThread (.control i)

def State.mapThreads (s : State) (f : Thread → Thread) : State := { s with th := f s.th, rest := s.rest.map f }

/-- Updates the thread at a place. -/
def State.updThread (s : State) (p : Place) (f : Thread → Thread) : State :=
  s.mapThreads fun t => if t.place = p then f t else t

/-- Removes the thread at a place; when it was the one whose turn it is, the next thread's turn it is. -/
def State.dropThread (s : State) (p : Place) : State :=
  if s.th.place = p then
    match s.rest with
    | t :: r => { s with th := t, rest := r }
    | [] => { s with th := Thread.controlCore 0 }
  else { s with rest := s.rest.filter fun t => t.place ≠ p }

/-- Takes the first element that satisfies `f` out of a list. -/
def takeFirst {α : Type} (f : α → Bool) : List α → Option (α × List α)
  | [] => none
  | a :: l => if f a then some (a, l) else (takeFirst f l).map fun (b, r) => (b, a :: r)

/-- Makes the thread at a place the one that acts; `none` when no thread stands there. -/
def State.focus (s : State) (p : Place) : Option State :=
  if s.th.place = p then some s
  else (takeFirst (fun t => decide (t.place = p)) s.rest).map fun (t, r) => { s with th := t, rest := s.th :: r }

/-- The thread or control core at a place acts again, where it still stands there. -/
def State.returnTo (s : State) (p : Place) : State := (s.focus p).getD s

/-- Adds a thread. -/
def State.addThread (s : State) (t : Thread) : State := { s with rest := s.rest ++ [t] }

/-- Whether a slot of a site holds no thread (R80). -/
def State.slotEmpty (s : State) (n : Fin 1024) (k : Fin 16) : Bool :=
  !(s.threads.any fun t => t.place == .slot n k || t.place == .caravan n k)

/-- An event that acts on the thread at a place; it does nothing where no thread stands there. (DESIGN CHOICE, assumption 2) -/
def onThread (p : Place) (s : State) (f : State → Result) : Result :=
  match s.focus p with
  | some s' => f s'
  | none => .next s

/-! ### Contexts -/

def State.ctx (s : State) (c : Fin 16) : Ctx := s.ctxs[c]

def State.setCtx (s : State) (c : Fin 16) (x : Ctx) : State := { s with ctxs := s.ctxs.set c x }

def State.updCtx (s : State) (c : Fin 16) (f : Ctx → Ctx) : State := s.setCtx c (f (s.ctx c))

/-! ### Time and stamps (R243 to R245) -/

/-- Network interfaces and homes, as keys of the stamp registers: sites, control cores, HBM stacks, scratchpads, the
units that stand at field 0 or at a context's corner, and streamers. -/
def siteKey (n : Nat) : Nat := n
def controlKey (i : Nat) : Nat := 1024 + i
def stackKey (k : Nat) : Nat := 2048 + k
def scratchKey (c : Nat) : Nat := 3072 + c
def hypKey (k : Nat) : Nat := 4096 + k
def seqKey (k : Nat) : Nat := 4112 + k
def barrierKey : Nat := 4128
def streamKey (k : Nat) : Nat := 5120 + k

def keyField (k : Nat) : Nat :=
  if k < 1024 then siteField k
  else if k < 2048 then controlField (k - 1024)
  else if k < 3072 then stackField (k - 2048)
  else if k < 4096 then clusterField (k - 3072)
  else if k < 4112 then 0
  else if k < 4128 then controlField (k - 4112)
  else if k < 5120 then 0
  else siteField (edgeSite (k - 5120))

/-- A field's time counter (R15, R243). -/
def State.time (s : State) (f : Nat) : Word := if h : f < 8 then s.fields[f].time else 0

/-- A stamp register, never below its field's counter (R244). -/
def State.stamp (s : State) (k : Nat) : Word :=
  let t := s.time (keyField k)
  let v := tget 0 s.stamps k
  if v.toNat < t.toNat then t else v

/-- A message from one interface to another: the receive stamp (R244), kept by the receiver. (DESIGN CHOICE, assumption 53) -/
def State.message (s : State) (src dst : Nat) : State × Word :=
  let sent := s.stamp src + 1
  let own := s.stamp dst
  let r := if own.toNat < sent.toNat then sent else own
  ({ s with stamps := tput true s.stamps dst r }, r)

/-- The key of a core's network interface. -/
def CoreId.key : CoreId → Nat
  | .site n => siteKey n
  | .control i => controlKey i

def Thread.key (t : Thread) : Nat := t.core.key

/-- Raises a thread's time floor (R245). -/
def Thread.raise (t : Thread) (v : Word) : Thread := if t.floor.toNat < v.toNat then { t with floor := v } else t

/-- A one-way message from one interface to another, whose receive stamp the receiver keeps (R244); within one interface nothing is
sent. -/
def State.send (s : State) (src dst : Nat) : State := if src = dst then s else (s.message src dst).1

/-- A request from one interface to a home and its response (R244); within one interface nothing is sent. -/
def State.roundTrip (s : State) (src home : Nat) : State := (s.send src home).send home src

/-- A request of the current thread to a home and its response, which raises the thread's floor (R245). An access to the core's own
TCM passes no other interface: its response bears the stamp register that the messages of other cores to the TCM have raised. -/
def State.exchange (s : State) (home : Nat) : State :=
  if home = s.th.key then { s with th := s.th.raise (s.stamp home) }
  else
    let (s, _) := s.message s.th.key home
    let (s, r) := s.message home s.th.key
    { s with th := s.th.raise r }

/-- A message is sent from one interface to another: its way, numbered in the order of sending (R17). -/
def State.post (s : State) (src dst : Nat) : State × Way :=
  ({ s with clock := s.clock + 1 }, { src := src, dst := dst, num := s.clock })

/-- The ways of the caravans under way, each from the site that its thread left, in the order of departure (R17, R170). -/
def Thread.way (t : Thread) : Option Way :=
  match t.place with
  | .caravan n _ => some { src := siteKey ((t.old.map (·.val)).getD n), dst := siteKey n, num := t.landed }
  | _ => none

def TokenMsg.way : TokenMsg → Option Way
  | .request _ _ _ _ _ w => some w
  | .retry _ _ _ _ _ => none
  | .grant _ _ _ _ w => some w

/-- The ways of the messages that are under way; a token request that its home could not record is sent again, and has none until
then (R17, R191). -/
def State.ways (s : State) : List Way :=
  s.land.map (·.way) ++ s.flushes.map (·.way) ++ s.tokmsgs.filterMap TokenMsg.way ++ s.signals.map (·.way) ++
    s.threads.filterMap Thread.way

/-- Whether a message would overtake one sent before it between the same two interfaces, or is held at its interface while routing
tables are switched (R17, R450). (DEDUCED, assumption 17) -/
def State.overtakes (s : State) (w : Way) : Bool :=
  (s.rtu.st == .committing && decide (s.rtu.hold ≤ w.num)) || s.ways.any fun v => v.src == w.src && v.dst == w.dst && decide (v.num < w.num)

/-- TNOW of a thread: the larger of its field's counter and its floor (R245). -/
def State.tnow (s : State) (t : Thread) : Word :=
  let c := s.time (coreField t.core)
  if c.toNat < t.floor.toNat then t.floor else c

/-- The stamp key of the home of a local module offset (R453 for the device window's registers of field 0, R23 for the HBM
window). -/
def homeKey (o : Nat) : Nat :=
  match spaceOf o with
  | .hbm => stackKey (stackOf o)
  | .scratch => scratchKey (scratchCluster o)
  | .tcm => siteKey (tcmSite o)
  | .device => barrierKey
  | .none => barrierKey

/-- The next free value (a value the manual leaves open); the counter moves on. (DESIGN CHOICE, assumption 5) -/
def State.free (s : State) : State × Word := ({ s with spare := s.spare + 1 }, Config.freeValue s.spare)

/-- The next number of the model's own clock, which orders landings, placements and shutters. -/
def State.tick (s : State) : State × Nat := ({ s with clock := s.clock + 1 }, s.clock)

end Sys2Proof.Machine
end

