-- ==== Sys2Proof/Machine/Float.lean ====
section
/-!
DEFINITION. Sys2Proof/Machine/Float.lean: the floating-point formats, exact values, rounding with its flags, the arithmetic of
R133 to R138 on bit patterns, and encoding through decode tables (R110 to R119, R125).
-/
namespace Sys2Proof.Machine

/-- A format: exponent width and fraction width (R110). -/
structure Fmt where
  eb : Nat
  fb : Nat
  deriving DecidableEq, Repr

/-- The formats (R110). -/
def fmtOf : FType → Fmt
  | .f64 => ⟨11, 52⟩
  | .f32 => ⟨8, 23⟩
  | .f16 => ⟨5, 10⟩
  | .b16 => ⟨8, 7⟩
  | .w19 => ⟨8, 10⟩

def Fmt.width (f : Fmt) : Nat := 1 + f.eb + f.fb
def Fmt.bias (f : Fmt) : Nat := 2 ^ (f.eb - 1) - 1
def Fmt.prec (f : Fmt) : Nat := f.fb + 1
def Fmt.eTop (f : Fmt) : Nat := 2 ^ f.eb - 1

/-- A datum (R111): a NaN, an infinity, or (-1)^s * m * 2^e. -/
inductive Datum
  | nan (signalling : Bool)
  | inf (s : Bool)
  | fin (s : Bool) (m : Nat) (e : Int)
  deriving DecidableEq, Repr

/-- The five rounding modes (R125). -/
inductive Round
  | rne | rtz | rup | rdn | rna
  deriving DecidableEq, Repr

/-- Flags NV DZ OF UF NX in bits 4 to 0 (R127). -/
abbrev Flags := BitVec 5

def fNV : Flags := 16
def fDZ : Flags := 8
def fOF : Flags := 4
def fUF : Flags := 2
def fNX : Flags := 1

/-- The datum a bit pattern stands for (R111). -/
def unpack (f : Fmt) (x : Nat) : Datum :=
  let frac := x % 2 ^ f.fb
  let e := (x / 2 ^ f.fb) % 2 ^ f.eb
  let s := (x / 2 ^ (f.fb + f.eb)) % 2 = 1
  if e = f.eTop then (if frac = 0 then .inf s else .nan (frac / 2 ^ (f.fb - 1) = 0))
  else if e = 0 then .fin s frac (1 - f.bias - f.fb)
  else .fin s (2 ^ f.fb + frac) ((e : Int) - f.bias - f.fb)

def signBit (f : Fmt) (s : Bool) : Nat := if s then 2 ^ (f.fb + f.eb) else 0
def canonNan (f : Fmt) : Nat := f.eTop * 2 ^ f.fb + 2 ^ (f.fb - 1)
def infBits (f : Fmt) (s : Bool) : Nat := signBit f s + f.eTop * 2 ^ f.fb
def zeroBits (f : Fmt) (s : Bool) : Nat := signBit f s
def maxBits (f : Fmt) (s : Bool) : Nat := signBit f s + (f.eTop - 1) * 2 ^ f.fb + (2 ^ f.fb - 1)

/-- Whether a magnitude with integer part `n`, and a rest compared with one half as `c` says, rounds up (R125). -/
def roundsUp (r : Round) (s : Bool) (n : Nat) (exact : Bool) (c : Ordering) : Bool :=
  if exact then false
  else match r with
    | .rne => c == .gt || (c == .eq && n % 2 == 1)
    | .rna => c != .lt
    | .rtz => false
    | .rup => !s
    | .rdn => s

/-- `m * 2^e`, plus a positive rest below `2^e` when `more`, as a multiple of `2^q` under a rounding mode: the multiple and
whether it is exact. -/
def quantise (r : Round) (s : Bool) (m : Nat) (e : Int) (more : Bool) (q : Int) : Nat × Bool :=
  if q ≤ e then
    let n := m * 2 ^ (e - q).toNat
    (if roundsUp r s n (!more) .lt then n + 1 else n, !more)
  else
    let d := (q - e).toNat
    let n := m / 2 ^ d
    let rest := m % 2 ^ d
    let exact := rest == 0 && !more
    let half := 2 ^ (d - 1)
    let c := if rest < half then Ordering.lt else if rest == half && !more then Ordering.eq else Ordering.gt
    (if roundsUp r s n exact c then n + 1 else n, exact)

/-- What overflow gives in each mode (R125). -/
def overflowBits (f : Fmt) (r : Round) (s : Bool) : Nat :=
  match r with
  | .rne => infBits f s
  | .rna => infBits f s
  | .rtz => maxBits f s
  | .rup => if s then maxBits f s else infBits f s
  | .rdn => if s then infBits f s else maxBits f s

/-- Rounds a finite value to a format (R125): bit pattern and flags. Tininess is detected after rounding; with `fz`, a
subnormal result becomes a zero of its sign with UF and NX (R132). -/
def roundFin (f : Fmt) (r : Round) (fz : Bool) (s : Bool) (m : Nat) (e : Int) (more : Bool) : Nat × Flags :=
  if m = 0 ∧ !more then (zeroBits f s, 0)
  else
    let top : Int := (if m = 0 then 0 else (Nat.log2 m : Int)) + e
    let eMin : Int := 1 - (f.bias : Int)
    let qFree := top - f.fb
    let q := max qFree (eMin - f.fb)
    let (n, exact) := quantise r s m e more q
    let (nFree, _) := quantise r s m e more qFree
    let tiny := decide (qFree < eMin - f.fb) && decide ((nFree : Int) < 2 ^ f.prec ∨ qFree + 1 < eMin - f.fb)
    let nx : Flags := if exact then 0 else fNX
    let (n, q) := if n = 2 ^ f.prec then (2 ^ f.fb, q + 1) else (n, q)
    if n < 2 ^ f.fb then
      if n ≠ 0 ∧ fz then (zeroBits f s, fUF ||| fNX)
      else (signBit f s + n, nx ||| (if tiny && !exact then fUF else 0))
    else
      let be := q + f.fb + f.bias
      if be ≥ f.eTop then (overflowBits f r s, fOF ||| fNX)
      else (signBit f s + be.toNat * 2 ^ f.fb + (n - 2 ^ f.fb), nx ||| (if tiny && !exact then fUF else 0))

/-- A NaN result: canonical, with NV when one of the operands was signalling (R112, R133). -/
def nanResult (f : Fmt) (sig : Bool) : Nat × Flags := (canonNan f, if sig then fNV else 0)

/-- An invalid operation (R133). -/
def invalid (f : Fmt) : Nat × Flags := (canonNan f, fNV)

def Datum.isSig : Datum → Bool
  | .nan b => b
  | _ => false

def Datum.isNan : Datum → Bool
  | .nan _ => true
  | _ => false

def Datum.neg : Datum → Datum
  | .fin s m e => .fin (!s) m e
  | .inf s => .inf (!s)
  | x => x

/-- Reads a subnormal as a zero of its sign (R132). -/
def Datum.flush (f : Fmt) : Datum → Datum
  | .fin s m e => if m < 2 ^ f.fb then .fin s 0 e else .fin s m e
  | x => x

/-- Whether a source operand is subnormal in its type (R131). -/
def isSubnormal (f : Fmt) (x : Nat) : Bool := (x / 2 ^ f.fb) % 2 ^ f.eb == 0 && x % 2 ^ f.fb != 0

/-- The sum of two finite values, exactly; the sign of an exact zero is R125's. -/
def addFin (r : Round) (s1 : Bool) (m1 : Nat) (e1 : Int) (s2 : Bool) (m2 : Nat) (e2 : Int) : Bool × Nat × Int :=
  let e := min e1 e2
  let a : Int := (m1 : Int) * 2 ^ (e1 - e).toNat
  let b : Int := (m2 : Int) * 2 ^ (e2 - e).toNat
  let v := (if s1 then -a else a) + (if s2 then -b else b)
  if v = 0 then (if s1 = s2 then s1 else decide (r = .rdn), 0, e)
  else (decide (v < 0), v.natAbs, e)

/-- Sum of two data (R133). -/
def addData (f : Fmt) (r : Round) (fz : Bool) : Datum → Datum → Nat × Flags
  | .nan a, b => nanResult f (a || b.isSig)
  | a, .nan b => nanResult f (b || a.isSig)
  | .inf a, .inf b => if a = b then (infBits f a, 0) else invalid f
  | .inf a, _ => (infBits f a, 0)
  | _, .inf b => (infBits f b, 0)
  | .fin s1 m1 e1, .fin s2 m2 e2 =>
    let (s, m, e) := addFin r s1 m1 e1 s2 m2 e2
    roundFin f r fz s m e false

/-- Product of two data (R133). -/
def mulData (f : Fmt) (r : Round) (fz : Bool) : Datum → Datum → Nat × Flags
  | .nan a, b => nanResult f (a || b.isSig)
  | a, .nan b => nanResult f (b || a.isSig)
  | .inf a, .inf b => (infBits f (a != b), 0)
  | .inf a, .fin s m _ => if m = 0 then invalid f else (infBits f (a != s), 0)
  | .fin s m _, .inf b => if m = 0 then invalid f else (infBits f (s != b), 0)
  | .fin s1 m1 e1, .fin s2 m2 e2 => roundFin f r fz (s1 != s2) (m1 * m2) (e1 + e2) false

/-- Quotient of two data (R133). -/
def divData (f : Fmt) (r : Round) (fz : Bool) : Datum → Datum → Nat × Flags
  | .nan a, b => nanResult f (a || b.isSig)
  | a, .nan b => nanResult f (b || a.isSig)
  | .inf _, .inf _ => invalid f
  | .inf a, .fin s _ _ => (infBits f (a != s), 0)
  | .fin s _ _, .inf b => (zeroBits f (s != b), 0)
  | .fin s1 m1 e1, .fin s2 m2 e2 =>
    if m2 = 0 then (if m1 = 0 then invalid f else (infBits f (s1 != s2), fDZ))
    else
      let k := 128 + Nat.log2 m2
      let n := m1 * 2 ^ k
      roundFin f r fz (s1 != s2) (n / m2) (e1 - e2 - k) (n % m2 != 0)

/-- The integer square root, bit by bit from bit `k` down. -/
def isqrt (n : Nat) : Nat → Nat → Nat
  | 0, acc => if (acc + 1) * (acc + 1) ≤ n then acc + 1 else acc
  | k + 1, acc => isqrt n k (if (acc + 2 ^ (k + 1)) * (acc + 2 ^ (k + 1)) ≤ n then acc + 2 ^ (k + 1) else acc)

/-- Square root (R133). -/
def sqrtData (f : Fmt) (r : Round) (fz : Bool) : Datum → Nat × Flags
  | .nan a => nanResult f a
  | .inf a => if a then invalid f else (infBits f false, 0)
  | .fin s m e =>
    if m = 0 then (zeroBits f s, 0)
    else if s then invalid f
    else
      let sh := 128 - Nat.log2 m
      let sh := if (e - sh) % 2 = 0 then sh else sh + 1
      let n := m * 2 ^ sh
      let q := isqrt n 66 0
      roundFin f r fz false q ((e - sh) / 2) (q * q != n)

/-- Fused multiply-add (R134). -/
def fmaData (f : Fmt) (r : Round) (fz : Bool) (a b c : Datum) : Nat × Flags :=
  let bad := match a, b with
    | .inf _, .fin _ m _ => m == 0
    | .fin _ m _, .inf _ => m == 0
    | _, _ => false
  if bad then invalid f
  else if a.isNan || b.isNan || c.isNan then nanResult f (a.isSig || b.isSig || c.isSig)
  else
    let sgn : Datum → Bool := fun x => match x with
      | .inf s => s | .fin s _ _ => s | .nan _ => false
    let ps := sgn a != sgn b
    match a, b, c with
    | .fin _ m1 e1, .fin _ m2 e2, .fin s3 m3 e3 =>
      let (s, m, e) := addFin r ps (m1 * m2) (e1 + e2) s3 m3 e3
      roundFin f r fz s m e false
    | .fin _ _ _, .fin _ _ _, x => (infBits f (sgn x), 0)
    | _, _, .inf s => if s = ps then (infBits f ps, 0) else invalid f
    | _, _, _ => (infBits f ps, 0)

/-- Compares two finite values. -/
def cmpFin (s1 : Bool) (m1 : Nat) (e1 : Int) (s2 : Bool) (m2 : Nat) (e2 : Int) : Ordering :=
  let e := min e1 e2
  let a : Int := (m1 : Int) * 2 ^ (e1 - e).toNat
  let b : Int := (m2 : Int) * 2 ^ (e2 - e).toNat
  let a := if s1 then -a else a
  let b := if s2 then -b else b
  if a < b then .lt else if a = b then .eq else .gt

/-- Compares two data that are not NaN; zeros of either sign are equal. -/
def cmpData : Datum → Datum → Ordering
  | .inf a, .inf b => if a = b then .eq else if a then .lt else .gt
  | .inf a, _ => if a then .lt else .gt
  | _, .inf b => if b then .gt else .lt
  | .fin s1 m1 e1, .fin s2 m2 e2 => cmpFin s1 m1 e1 s2 m2 e2
  | _, _ => .eq

/-- FMIN and FMAX (R133): `least` selects the lesser; a zero is ordered by its sign; operands are given with their bits. -/
def minMax (f : Fmt) (least : Bool) (x y : Nat) : Nat × Flags :=
  let a := unpack f x
  let b := unpack f y
  let fl : Flags := if a.isSig || b.isSig then fNV else 0
  if a.isNan && b.isNan then (canonNan f, fl)
  else if a.isNan then (y, fl)
  else if b.isNan then (x, fl)
  else
    let neg : Nat → Bool := fun v => v / 2 ^ (f.fb + f.eb) % 2 == 1
    match cmpData a b with
    | .lt => (if least then x else y, fl)
    | .gt => (if least then y else x, fl)
    | .eq => (if least = neg x then x else y, fl)

/-- FEQ, FLT, FLE (R133): the truth value and the flags. -/
def compareEq (a b : Datum) : Bool × Flags :=
  if a.isNan || b.isNan then (false, if a.isSig || b.isSig then fNV else 0) else (cmpData a b == .eq, 0)

def compareLt (a b : Datum) : Bool × Flags :=
  if a.isNan || b.isNan then (false, fNV) else (cmpData a b == .lt, 0)

def compareLe (a b : Datum) : Bool × Flags :=
  if a.isNan || b.isNan then (false, fNV) else (cmpData a b != .gt, 0)

/-- The class mask of FCLS (R135). -/
def classMask (f : Fmt) (x : Nat) : Nat :=
  let sub := isSubnormal f x
  match unpack f x with
  | .nan sig => if sig then 2 ^ 8 else 2 ^ 9
  | .inf s => if s then 2 ^ 0 else 2 ^ 7
  | .fin s m _ =>
    if m = 0 then (if s then 2 ^ 3 else 2 ^ 4)
    else if sub then (if s then 2 ^ 2 else 2 ^ 5)
    else (if s then 2 ^ 1 else 2 ^ 6)

/-- A datum rounded to a format, as a conversion does (R136). -/
def convert (f : Fmt) (r : Round) (fz : Bool) : Datum → Nat × Flags
  | .nan sig => nanResult f sig
  | .inf s => (infBits f s, 0)
  | .fin s m e => roundFin f r fz s m e false

/-- The width of an integer type and whether it is signed (R114). -/
def intWidth : IntType → Nat
  | .i8 => 8 | .i16 => 16 | .i32 => 32 | .i64 => 64 | .n8 => 8 | .n16 => 16 | .n32 => 32 | .n64 => 64

def intSigned : IntType → Bool
  | .i8 => true | .i16 => true | .i32 => true | .i64 => true | _ => false

def intMax (w : Nat) (sg : Bool) : Int := if sg then 2 ^ (w - 1) - 1 else 2 ^ w - 1
def intMin (w : Nat) (sg : Bool) : Int := if sg then -(2 ^ (w - 1)) else 0

/-- A finite datum rounded to an integer: the integer and whether it is exact (R125). -/
def roundInt (r : Round) (s : Bool) (m : Nat) (e : Int) : Int × Bool :=
  let (n, exact) := quantise r s m e false 0
  (if s then -(n : Int) else n, exact)

/-- FCVI (R136): the integer result, saturated, and the flags. -/
def toInteger (w : Nat) (sg : Bool) (r : Round) : Datum → Int × Flags
  | .nan _ => (0, fNV)
  | .inf s => (if s then intMin w sg else intMax w sg, fNV)
  | .fin s m e =>
    let (n, exact) := roundInt r s m e
    if n > intMax w sg then (intMax w sg, fNV)
    else if n < intMin w sg then (intMin w sg, fNV)
    else (n, if exact then 0 else fNX)

/-- ICVF (R136): an integer rounded to a format. -/
def fromInteger (f : Fmt) (r : Round) (fz : Bool) (n : Int) : Nat × Flags :=
  roundFin f r fz (decide (n < 0)) n.natAbs 0 false

/-- FRND (R137). -/
def roundIntegral (f : Fmt) (r : Round) (fz : Bool) : Datum → Nat × Flags
  | .nan sig => nanResult f sig
  | .inf s => (infBits f s, 0)
  | .fin s m e =>
    if m = 0 then (zeroBits f s, 0)
    else
      let (n, exact) := roundInt r s m e
      let (x, fl) := roundFin f r fz s n.natAbs 0 false
      (x, fl ||| (if exact then 0 else fNX))

/-- FSCL (R138). -/
def scaleBy (f : Fmt) (r : Round) (fz : Bool) (n : Int) : Datum → Nat × Flags
  | .nan sig => nanResult f sig
  | .inf s => (infBits f s, 0)
  | .fin s m e => roundFin f r fz s m (e + max (-4096) (min 4096 n)) false

/-! ### Decode tables and C8 codes (R116 to R119) -/

def w19 : Fmt := fmtOf .w19

/-- The entries of a table; one never loaded is all zeros (R116). -/
def tableEntries (t : Table) : Vector (BitVec 19) 256 := t.getD (Vector.replicate 256 0)

/-- The entry of a code. -/
def tableEntry (t : Table) (c : BitVec 8) : BitVec 19 := (tableEntries t)[c.toNat]'(by omega)

/-- The lowest code whose entry satisfies `p`. -/
def firstCode (t : Table) (p : BitVec 19 → Bool) : Option Nat := (tableEntries t).toList.findIdx? p

def isFinite19 (x : BitVec 19) : Bool := match unpack w19 x.toNat with | .fin _ _ _ => true | _ => false

/-- The finite entry that is best by `better`, among those that satisfy `p` (R117's list, searched). -/
def bestEntry (t : Table) (p : Datum → Bool) (better : Datum → Datum → Bool) : Option Datum :=
  (tableEntries t).toList.foldl
    (fun acc x =>
      let d := unpack w19 x.toNat
      match d with
      | .fin _ _ _ =>
        if p d then (match acc with | some b => if better d b then some d else acc | none => some d) else acc
      | _ => acc) none

def dataLe (a b : Datum) : Bool := cmpData a b != .gt
def dataLt (a b : Datum) : Bool := cmpData a b == .lt

/-- The code of zero by the sign of the encoded value (R119). -/
def zeroCode (t : Table) (s : Bool) : Nat :=
  match firstCode t (fun x => x.toNat = zeroBits w19 s) with
  | some c => c
  | none => (firstCode t (fun x => x.toNat = zeroBits w19 (!s))).getD 0

/-- The code that encoding returns for a finite table value (R117, R119). -/
def codeOf (t : Table) (s : Bool) (v : Datum) : Nat :=
  match v with
  | .fin _ 0 _ => zeroCode t s
  | _ => (firstCode t (fun x => let d := unpack w19 x.toNat
            !d.isNan && (match d with | .fin _ _ _ => cmpData d v == .eq | _ => false))).getD 0

/-- The sum of two finite data, compared with another: `x - lo` against `hi - x` (R119). -/
def nearer (lo x hi : Datum) : Ordering :=
  match lo, x, hi with
  | .fin s1 m1 e1, .fin s2 m2 e2, .fin s3 m3 e3 =>
    let (sa, ma, ea) := addFin .rne s2 m2 e2 (!s1) m1 e1
    let (sb, mb, eb) := addFin .rne s3 m3 e3 (!s2) m2 e2
    cmpFin sa ma ea sb mb eb
  | _, _, _ => .eq

/-- Encodes a datum into a code through a table (R119): code and flags. -/
def encodeC8 (t : Table) (x : Datum) : Nat × Flags :=
  let sgn := match x with | .fin s _ _ => s | .inf s => s | .nan _ => false
  match x with
  | .nan sig =>
    let c := firstCode t (fun v => (unpack w19 v.toNat).isNan)
    (c.getD 0, if sig || c.isNone then fNV else 0)
  | _ =>
    let fin := match x with | .fin _ _ _ => true | _ => false
    let infCode (s : Bool) := firstCode t (fun v => v.toNat = infBits w19 s)
    match bestEntry t (fun _ => true) (fun a b => dataLt b a), bestEntry t (fun _ => true) dataLt with
    | some top, some bot =>
      if dataLt top x then
        let c := infCode false
        (c.getD (codeOf t sgn top), if fin || c.isNone then fOF ||| fNX else 0)
      else if dataLt x bot then
        let c := infCode true
        (c.getD (codeOf t sgn bot), if fin || c.isNone then fOF ||| fNX else 0)
      else
        match bestEntry t (fun d => dataLe d x) (fun a b => dataLt b a), bestEntry t (fun d => dataLe x d) dataLt with
        | some lo, some hi =>
          if cmpData lo x == .eq then (codeOf t sgn lo, 0)
          else if cmpData hi x == .eq then (codeOf t sgn hi, 0)
          else
            let cl := codeOf t sgn lo
            let ch := codeOf t sgn hi
            let c := match nearer lo x hi with
              | .lt => cl
              | .gt => ch
              | .eq => if cl % 2 ≠ ch % 2 then (if cl % 2 = 0 then cl else ch) else (if cl ≤ ch then cl else ch)
            (c, fNX)
        | _, _ => (0, 0)
    | _, _ => (0, 0)

end Sys2Proof.Machine
end

