-- ==== Sys2Proof/Machine/Homes.lean ====
section
/-!
DEFINITION. Sys2Proof/Machine/Homes.lean: what the homes do: hypothesis views and versions, tags, poison, full-empty bits and
their waiters, atomics, the reduction error log, thread caches, the store buffer and its draining, watchpoints
(R85, R157 to R169, R174 to R178, R190 to R207, R261 to R263).
-/
namespace Sys2Proof.Machine

/-! ### The hypothesis tree (R258, R260) -/

def hypNum (h : Handle) : Nat := bits h 0 8
def hypGen (h : Handle) : BitVec 16 := BitVec.ofNat 16 (bits h 16 16)
def handleOf (gen : BitVec 16) (num : Nat) : Handle := BitVec.ofNat 32 (gen.toNat * 65536 + num % 256)

/-- A number at start-up and after a context reset: FREE with generation 0 (R258). -/
def hypFree : Hyp := { st := .free, gen := 0, parent := 0, depth := 0, outcome := none, succ := none, named := 0 }

def State.hyp (s : State) (c : Fin 16) (n : Nat) : Hyp := tget hypFree (s.ctx c).hyps n

def State.setHyp (s : State) (c : Fin 16) (n : Nat) (h : Hyp) : State :=
  s.updCtx c fun x => { x with hyps := tput true x.hyps n h }

/-- A handle without its ignored bits 15:8 (R265). -/
def canonHandle (h : Handle) : Handle := handleOf (hypGen h) (hypNum h)

/-- Whether a handle is live (R258): H0 always is. -/
def State.liveHyp (s : State) (c : Fin 16) (h : Handle) : Bool :=
  if hypNum h = 0 then hypGen h == 0
  else
    let x := s.hyp c (hypNum h)
    x.st == .live && x.gen == hypGen h

/-- Whether a write tagged with a handle still performs: the hypothesis is live, or its confirmation is under way (R270, R271). -/
def State.openHyp (s : State) (c : Fin 16) (h : Handle) : Bool :=
  s.liveHyp c h || (hypNum h != 0 && (s.hyp c (hypNum h)).st == .confirming && (s.hyp c (hypNum h)).gen == hypGen h)

/-- The parent of a handle whose number still has its generation; H0 otherwise. -/
def State.parentHyp (s : State) (c : Fin 16) (h : Handle) : Handle :=
  let x := s.hyp c (hypNum h)
  if x.gen = hypGen h then x.parent else 0

/-- The handles from `h` up to, and without, H0; no chain is longer than 8 (R258). -/
def State.chainHyp (s : State) (c : Fin 16) : Nat → Handle → List Handle
  | 0, _ => []
  | k + 1, h => if hypNum h = 0 then [] else h :: s.chainHyp c k (s.parentHyp c h)

/-- The version of a line tagged with a handle (R261). -/
def State.version (s : State) (c : Fin 16) (line : Nat) (h : Handle) : Option Version :=
  s.vers.find? fun v => v.ctx = c && v.line = line && v.hyp = h

/-- The version that an agent under `h` reads of a line, or none where it reads committed data (R261). -/
def State.view (s : State) (c : Fin 16) (h : Handle) (line : Nat) : Option Version :=
  (s.chainHyp c 9 h).findSome? fun a => s.version c line a

/-! ### Reading and writing at a home -/

/-- The memory that holds a domain physical address, and the address within it: this module's by offset, another module's by
its domain address (R27, R148). (DESIGN CHOICE, assumption 9) -/
def State.memAt (s : State) (pa : Nat) : Mem := if s.isLocal pa then s.mem else s.peers

def State.cellAt (s : State) (pa : Nat) : Nat := if s.isLocal pa then offsetOf pa else pa

def State.updMem (s : State) (pa : Nat) (f : Mem → Mem) : State :=
  if s.isLocal pa then { s with mem := f s.mem } else { s with peers := f s.peers }

/-- Whether an address is in the local HBM window, the only memory that is cached and versioned (R25, R261). -/
def State.localHbm (s : State) (pa : Nat) : Bool := s.isLocal pa && spaceOf (offsetOf pa) == .hbm

/-- Whether an address has full-empty bits (R147). -/
def hasFull (pa : Nat) : Bool := spaceOf (offsetOf pa) == .tcm || spaceOf (offsetOf pa) == .scratch

/-- `n` bytes within one line at the home, as seen under a hypothesis (R261). -/
def State.readHome (s : State) (c : Fin 16) (h : Handle) (pa n : Nat) : Nat :=
  if s.localHbm pa then
    let o := offsetOf pa
    match s.view c h (o / 64) with
    | some v => (v.data.toNat >>> (8 * (o % 64))) % 2 ^ (8 * n)
    | none => s.mem.read o n
  else (s.memAt pa).read (s.cellAt pa) n

/-- The tag of a granule at its home; tags are not versioned (R159, R261). -/
def State.tagHome (s : State) (pa : Nat) : BitVec 4 := (s.memAt pa).tag (s.cellAt pa)

/-- Whether the granule is poisoned in the version that the view returns (R157). -/
def State.poisonHome (s : State) (c : Fin 16) (h : Handle) (pa : Nat) : Bool :=
  if s.localHbm pa then
    let o := offsetOf pa
    match s.view c h (o / 64) with
    | some v => bit v.poison (o % 64 / 16)
    | none => s.mem.poisoned o
  else (s.memAt pa).poisoned (s.cellAt pa)

def State.fullHome (s : State) (pa : Nat) : Bool := (s.memAt pa).isFull (s.cellAt pa)

/-- The lines that the LLC slice of a line's stack holds: at most 64 MiB of them (R24, R25). -/
def State.llcRoom (s : State) (line : Nat) : Bool :=
  (s.llc.filter fun e => stackOf (e.1 * 64) = stackOf (line * 64)).length < 1048576

/-- The LLC slice of a line's stack replaces its first line that no version pins; a dirty one is written to HBM, which no reader can
tell (R24, R262). (DESIGN CHOICE, assumption 14) -/
def State.replaceLlc (s : State) (line : Nat) : State :=
  match s.llc.find? fun e => decide (stackOf (e.1 * 64) = stackOf (line * 64)) && !(s.vers.any fun v => v.line = e.1) with
  | some (l, _) => { s with llc := tput false s.llc l false }
  | none => s

/-- A line that the LLC slice holds after an access, dirty or clean (R24). -/
def State.touchLlc (s : State) (line : Nat) (dirty : Bool) : State :=
  let d := dirty || tget false s.llc line
  let s := if (s.llc.any fun e => e.1 == line) || s.llcRoom line then s else s.replaceLlc line
  { s with llc := tput true s.llc line d }

/-- The four poison marks of a committed line. -/
def Mem.linePoison (m : Mem) (line : Nat) : BitVec 4 :=
  BitVec.ofNat 4 ((List.range 4).foldl (fun a i => a + (if m.poisoned (line * 64 + i * 16) then 2 ^ i else 0)) 0)

/-- The whole line under a hypothesis: data and poison marks. -/
def State.lineView (s : State) (c : Fin 16) (h : Handle) (line : Nat) : BitVec 512 × BitVec 4 :=
  match s.view c h line with
  | some v => (v.data, v.poison)
  | none => (BitVec.ofNat 512 (s.mem.read (line * 64) 64), s.mem.linePoison line)

def StoreEntry.isAtom (e : StoreEntry) : Bool := match e.kind with | .atom _ _ _ => true | _ => false

/-- The versions that buffered atomics will create when they are applied, whose threads have waited for them already (R201,
R262). -/
def State.promised (s : State) : List (Fin 16 × Nat × Handle) :=
  ((s.sbuf.filter fun e => e.isAtom && s.localHbm e.pa && hypNum e.hyp != 0 && s.openHyp e.ctx e.hyp &&
      (s.version e.ctx (offsetOf e.pa / 64) e.hyp).isNone).map fun e => (e.ctx, offsetOf e.pa / 64, e.hyp)).dedup

/-- Whether a version of a line can be created now: fewer than four versions of the line and a free pin at its slice, those that
buffered atomics wait to create included (R262). -/
def State.versionRoom (s : State) (line : Nat) : Bool :=
  (s.vers.filter fun v => v.line = line).length + (s.promised.filter fun p => p.2.1 = line).length < 4 &&
    (s.vers.filter fun v => stackOf (v.line * 64) = stackOf (line * 64)).length +
      (s.promised.filter fun p => stackOf (p.2.1 * 64) = stackOf (line * 64)).length < 65536

/-- Creates the version of a line tagged `h`, a copy of the view, unless it exists (R262). -/
def State.makeVersion (s : State) (c : Fin 16) (h : Handle) (line : Nat) : State :=
  match s.version c line h with
  | some _ => s
  | none =>
    let (d, p) := s.lineView c h line
    { s with vers := s.vers ++ [{ ctx := c, line := line, hyp := h, data := d, poison := p }] }

/-- `x` with `n` bytes from byte `at_` replaced by the low bytes of `v`. -/
def patchBytes {w : Nat} (x : BitVec w) (at_ n v : Nat) : BitVec w := setBits x (8 * at_) (8 * n) v

/-- Writes `n` bytes within one granule at the home under a hypothesis: committed memory under H0, the version otherwise; a
write tagged with a hypothesis that is resolved, or is being refuted, is dropped (R262, R271). Writing all 16 bytes clears poison (R157). -/
def State.writeHome (s : State) (c : Fin 16) (h : Handle) (pa n v : Nat) : State :=
  let o := offsetOf pa
  let whole := n == 16
  if s.localHbm pa then
    if hypNum h = 0 then
      ({ s with mem := let m := s.mem.write o n v
                       if whole then m.setPoison o false else m }).touchLlc (o / 64) true
    else if s.openHyp c h then
      let s := s.makeVersion c h (o / 64)
      { s with vers := s.vers.map fun x =>
          if x.ctx = c ∧ x.line = o / 64 ∧ x.hyp = h then
            { x with data := patchBytes x.data (o % 64) n v,
                     poison := if whole then setBits x.poison (o % 64 / 16) 1 0 else x.poison }
          else x }
    else s
  else
    s.updMem pa fun m =>
      let a := s.cellAt pa
      let m := m.write a n v
      if whole then m.setPoison a false else m

/-- Writes a list of 8-byte words at consecutive addresses, committed (records, images and notices of the device). -/
def State.writeWords (s : State) (c : Fin 16) (pa : Nat) : List Word → State
  | [] => s
  | w :: ws => (s.writeHome c 0 pa 8 w.toNat).writeWords c (pa + 8) ws

/-- Reads `n` committed 8-byte words. -/
def State.readWords (s : State) (pa : Nat) : Nat → List Word
  | 0 => []
  | n + 1 => BitVec.ofNat 64 (s.readHome 0 0 pa 8) :: s.readWords (pa + 8) n

/-! ### Regions and tokens (R188 to R191) -/

/-- The region of a table that covers a module offset: the lowest index (R189). -/
def regionIn (l : List (Nat × Nat × Nat)) (o : Nat) : Option Nat := (l.find? fun (_, b, l) => b ≤ o && o < b + 2 ^ l).map (·.1)

/-- The region that governs a local HBM offset for a core: by the table in force, or for a line to which the core has applied the
table that the homes are reading, by that one (R188, R189). -/
def State.regionOf (s : State) (core : CoreId) (c : Fin 16) (o : Nat) : Option Nat :=
  if bit (s.reg (rgnbaseAt c)) 0 then
    match (s.ctx c).early.find? fun e => decide (e.1 = core) && e.2.1 == o / 64 with
    | some e => e.2.2
    | none => regionIn (s.ctx c).regions o
  else none

/-- A token that nobody holds (R191). -/
def tokenFree (r : Nat) : Token := { region := r, holder := none, site := none, queue := [], called := false, used := true }

def State.token (s : State) (c : Fin 16) (r : Nat) : Token :=
  ((s.ctx c).tokens.find? fun t => t.region = r).getD (tokenFree r)

def State.setToken (s : State) (c : Fin 16) (t : Token) : State :=
  s.updCtx c fun x => { x with tokens := t :: x.tokens.filter fun u => u.region ≠ t.region }

/-- Whether a thread or control core holds the token of the region that covers an address; true where no region does. -/
def State.holdsToken (s : State) (core : CoreId) (c : Fin 16) (who : Holder) (o : Nat) : Bool :=
  match s.regionOf core c o with
  | none => true
  | some r => (s.token c r).holder == some who

/-- Who made the store of an entry, as a holder of tokens. -/
def StoreEntry.holder (e : StoreEntry) : Holder := match e.core with | .control i => .control i | .site _ => .thread e.tid

/-! ### Thread caches (R190, R263) -/

def lineKey (core : CoreId) (c : Fin 16) (line : Nat) (h : Handle) (x : CacheLine) : Bool :=
  decide (x.core = core) && x.ctx = c && x.line = line && x.hyp = h

/-- The copy of a line that loads of a core under a hypothesis use (R263). -/
def State.cached (s : State) (core : CoreId) (c : Fin 16) (line : Nat) (h : Handle) : Option CacheLine :=
  s.cache.find? (lineKey core c line h)

def CacheLine.isDirty (x : CacheLine) : Bool := x.dirty != 0 || x.tdirty != 0

/-- The tags of a line at its home. -/
def Mem.lineTags (m : Mem) (line : Nat) : BitVec 16 :=
  BitVec.ofNat 16 ((List.range 4).foldl (fun a i => a + (m.tag (line * 64 + i * 16)).toNat * 16 ^ i) 0)

/-- A fresh clean copy of a line, fetched for a hypothesis's view (R190, R263). -/
def State.fetchCopy (s : State) (core : CoreId) (c : Fin 16) (line : Nat) (h : Handle) : CacheLine :=
  let (d, p) := s.lineView c h line
  { core := core, ctx := c, line := line, hyp := h, data := d, dirty := 0, tags := s.mem.lineTags line, tdirty := 0,
    poison := p, whole := 0, writer := 0 }

/-- Applies a function to the copy a core holds of a line for a context under a hypothesis. -/
def State.updCache (s : State) (core : CoreId) (c : Fin 16) (line : Nat) (h : Handle) (f : CacheLine → CacheLine) : State :=
  { s with cache := s.cache.map fun x => if lineKey core c line h x then f x else x }

/-- The bytes of a mask, one by one, written to the home. -/
def State.writeMasked (s : State) (c : Fin 16) (h : Handle) (pa : Nat) (d : BitVec 512) (mask : BitVec 64) : Nat → State
  | 0 => s
  | n + 1 =>
    let i := 63 - n
    let s := if bit mask i then s.writeHome c h (pa + i) 1 (bits d (8 * i) 8) else s
    s.writeMasked c h pa d mask n

/-- The granules of a line that a store has written whole lose their poison (R157). -/
def State.clearWhole (s : State) (c : Fin 16) (h : Handle) (pa : Nat) (d : BitVec 512) (whole : BitVec 4) : State :=
  (List.range 4).foldl (fun s i => if bit whole i then s.writeHome c h (pa + 16 * i) 16 (bits d (128 * i) 128) else s) s

def StoreEntry.isTag (e : StoreEntry) : Bool := match e.kind with | .tag _ => true | _ => false

/-- Whether a store of another core to a granule is still buffered, checked against the tag that the home holds (R160). -/
def State.tagAwaited (s : State) (core : CoreId) (pa : Nat) : Bool :=
  s.sbuf.any fun e => !e.isTag && decide (e.core ≠ core) && e.pa / 16 == pa / 16

/-- The tag of a granule of a line that is written back, on its way to the home: it stands in no slot's entries. -/
def CacheLine.tagEntry (x : CacheLine) (id pa : Nat) (t : BitVec 4) : StoreEntry :=
  { id := id, core := x.core, slot := 16, ctx := x.ctx, tid := 0, hyp := 0, va := 0, pa := pa, size := 16, data := 0, kind := .tag t,
    insn := 0, pc := 0 }

/-- A dirty tag of a line that is written back reaches its home; where a store of another core that was checked against the tag there
has not performed, it waits for it (R160). -/
def State.writeTag (s : State) (x : CacheLine) (i : Nat) : State :=
  let pa := s.localPa (x.line * 64 + 16 * i)
  let t := BitVec.ofNat 4 (bits x.tags (4 * i) 4)
  if s.tagAwaited x.core pa then { s with sbuf := s.sbuf ++ [x.tagEntry s.nextSt pa t], nextSt := s.nextSt + 1 }
  else { s with mem := s.mem.setTag (x.line * 64 + 16 * i) t }

/-- Writes a line back to its home: its dirty bytes and tags, under its hypothesis (R166, R190), in a message to the home's slice
(R244). -/
def State.writeBack (s : State) (x : CacheLine) : State :=
  let pa := s.localPa (x.line * 64)
  let s := if x.isDirty then s.send x.core.key (stackKey (stackOf (x.line * 64))) else s
  let s := s.writeMasked x.ctx x.hyp pa x.data x.dirty 64
  let s := s.clearWhole x.ctx x.hyp pa x.data x.whole
  (List.range 4).foldl (fun s i => if bit x.tdirty i then s.writeTag x i else s) s

/-- Writes back every dirty line that satisfies `p`, keeping it as a clean copy. -/
def State.cleanLines (s : State) (p : CacheLine → Bool) : State :=
  let s := (s.cache.filter fun x => p x && x.isDirty).foldl State.writeBack s
  { s with cache := s.cache.map fun x => if p x then { x with dirty := 0, tdirty := 0, whole := 0 } else x }

/-- Writes back every dirty line that satisfies `p` and removes every line that does (R191, R196). -/
def State.flushLines (s : State) (p : CacheLine → Bool) : State :=
  let s := s.cleanLines p
  { s with cache := s.cache.filter fun x => !p x }

/-- How many lines a core's cache holds: 64 KiB on a barrel core, 1 MiB on a control core (R25, R26). -/
def CoreId.lines : CoreId → Nat
  | .site _ => 1024
  | .control _ => 16384

/-- A core whose cache is full evicts the line that it has held longest, with write-back (R190). (DESIGN CHOICE, assumption 14) -/
def State.makeRoom (s : State) (core : CoreId) : State :=
  if (s.cache.filter fun x => decide (x.core = core)).length < core.lines then s
  else
    match takeFirst (fun x => decide (x.core = core)) s.cache with
    | some (x, l) => { s.writeBack x with cache := l }
    | none => s

/-- The core holds a copy of the line afterwards: its own or a fresh clean one (R190). -/
def State.fill (s : State) (core : CoreId) (c : Fin 16) (line : Nat) (h : Handle) : State :=
  match s.cached core c line h with
  | some _ => s
  | none =>
    let s := s.makeRoom core
    { s.touchLlc line false with cache := s.cache ++ [s.fetchCopy core c line h] }

/-- The acquire part of CLUSTER scope or wider for a thread: its core drops every clean line of the context whose region token
no thread of the core holds (R178). -/
def State.acquireFor (s : State) (t : Thread) : State :=
  let c := t.cx
  let held (line : Nat) : Bool :=
    match s.regionOf t.core c (line * 64) with
    | none => false
    | some r =>
      s.threads.any fun u => u.resident && u.cx = c && (s.token c r).holder == some u.holder && decide (u.core = t.core)
  { s with cache := s.cache.filter fun x => !(decide (x.core = t.core) && x.ctx = c && !x.isDirty && !held x.line) }

/-- A core drops its clean copies of the lines of a context: what a thread that comes to the core has stored elsewhere may be newer
(R176, R197). -/
def State.dropClean (s : State) (core : CoreId) (c : Fin 16) : State :=
  { s with cache := s.cache.filter fun x => !(decide (x.core = core) && x.ctx = c && !x.isDirty) }

/-! ### Fault records (R230) -/

/-- The place of SRC, SITE, UNIT and LANE of a record made for a thread (R230). -/
def Thread.record (t : Thread) (cause : BitVec 8) (insn : BitVec 32) (addr detail : Word) (expt fndt : BitVec 4) : Record :=
  { addr := addr, tid := t.id, insn := insn, cause := cause, src := if t.onControl then 1 else 0, ctx := t.cx, expt := expt,
    fndt := fndt, hyp := BitVec.ofNat 8 (hypNum t.thyp), site := BitVec.ofNat 10 (if t.onControl then 0 else t.site),
    unit := BitVec.ofNat 8 t.slot, lane := BitVec.ofNat 8 t.slot, elem := 0, time := 0, pc := t.pc.setWidth 64,
    detail := detail, seq := 0 }

/-- The eight words of a record (R230). -/
def Record.words (r : Record) : List Word :=
  [ r.addr,
    field 32 24 r.tid.toNat ||| field 0 32 r.insn.toNat,
    field 56 8 r.cause.toNat ||| field 52 4 r.src.toNat ||| field 48 4 r.ctx ||| field 44 4 r.expt.toNat |||
      field 40 4 r.fndt.toNat ||| field 32 8 r.hyp.toNat ||| field 16 10 r.site.toNat ||| field 8 8 r.unit.toNat |||
      field 0 8 r.lane.toNat,
    r.elem, r.time, r.pc, r.detail,
    field 32 32 r.seq.toNat ||| 1 ]

/-- A fault record caused by a launch is counted for its completion record, with the SEQ of the first (R355). -/
def State.blame (s : State) (c : Fin 16) (id : Nat) (seq : BitVec 32) : State :=
  s.updCtx c fun x => { x with queues := x.queues.map fun l =>
    if l.id = id then { l with fcnt := min 4294967295 (l.fcnt + 1), fseq := if l.fcnt = 0 then seq else l.fseq } else l }

/-- The launch that started the thread a record names (R355). -/
def State.launchOf (s : State) (r : Record) : Option Nat :=
  if r.src = 0 then
    (s.threads.find? fun t => !t.onControl && t.ctx = r.ctx && t.tid = r.tid).bind fun t =>
      match t.origin with
      | .launch id => some id
      | _ => none
  else none

/-- Stamps a record with the context's count and the time at the interface that made it (R230, R245). -/
def State.makeRecord (s : State) (key : Nat) (r : Record) : State × Record :=
  let r := { r with time := s.stamp key, seq := (s.ctx r.ctx).seq }
  let s := match s.launchOf r with
    | some id => s.blame r.ctx id r.seq
    | none => s
  (s.updCtx r.ctx fun x => { x with seq := x.seq + 1 }, r)

/-! ### The context image (R237) -/

def Thread.ids (t : Thread) : Word :=
  field 0 4 ((List.range 4).foldl (fun a i => a + (if t.av.toList.getD i false then 2 ^ i else 0)) 0) ||| flag 4 t.mov |||
    field 16 16 t.sigs.toNat ||| field 32 24 t.tid.toNat ||| field 56 3 t.prio.toNat

/-- The 80 words of the context image (R237). -/
def Thread.image (t : Thread) : List Word :=
  [t.floor] ++ t.g.toList.drop 1 ++ t.f.toList ++ [t.pc.setWidth 64, t.tstat, t.tmode, t.tflags, t.thyp.setWidth 64] ++
    t.twa.toList ++ t.twc.toList ++
    [field 0 32 t.aph[0].toNat ||| field 32 32 t.aph[1].toNat, field 0 32 t.aph[2].toNat ||| field 32 32 t.aph[3].toNat, t.ids]

/-- Updates one word of a saved thread's image in its save record (R236). -/
def State.pokeImage (s : State) (t : Thread) (off : Nat) (v : Word) : State :=
  match t.place with
  | .saved c _ => s.writeHome c 0 (s.localPa (t.save + off)) 8 v.toNat
  | _ => s

/-! ### Watchpoints (R167 to R169) -/

/-- What an access was, for watchpoints: its context, core or none for an engine, place, virtual address and length, and the
kinds it counts as (R168). -/
structure Touch where
  ctx  : Fin 16
  core : Option CoreId
  who  : Option Place
  va   : Nat
  len  : Nat
  rd   : Bool
  wr   : Bool
  tg   : Bool
  rec_ : Record
  deriving DecidableEq, Repr

def twcEn (w : Word) : Bool := bit w 0
def twcPend (w : Word) : Bool := bit w 32

/-- Whether a touch hits watchpoint `n` of a thread (R168). -/
def hitsWatch (t : Thread) (n : Fin 4) (k : Touch) : Bool :=
  let w := t.twc[n]
  let size := 2 ^ bits w 8 5
  let base := (bits t.twa[n] 0 52) / size * size
  twcEn w && decide (k.va < base + size) && decide (base < k.va + k.len) &&
    ((bit w 1 && k.rd) || (bit w 2 && k.wr) || (bit w 3 && k.tg)) &&
    (match bits w 4 2 with
     | 0 => k.who == some t.place
     | 1 => t.resident && k.core == some t.core
     | _ => t.cx == k.ctx)

/-- Delivers a hit on watchpoint `n` to the thread at a place: PEND and a record, or one more OVF (R169). -/
def State.hitOne (s : State) (p : Place) (n : Fin 4) (k : Touch) : State :=
  match s.findThread p with
  | none => s
  | some t =>
    if hitsWatch t n k then
      let w := t.twc[n]
      if twcPend w then
        let w' := setBits w 40 8 (min 255 (bits w 40 8 + 1))
        (s.updThread p fun t => { t with twc := t.twc.set n w' }).pokeImage t (0x248 + 8 * n) w'
      else
        let w' := setBits w 32 1 1
        let (s, r) := s.makeRecord t.key { k.rec_ with cause := 0x12, detail := BitVec.ofNat 64 n, ctx := t.cx }
        (s.updThread p fun t => { t with twc := t.twc.set n w', watches := t.watches ++ [{ n := n, record := r }] }).pokeImage t
          (0x248 + 8 * n) w'
    else s

/-- Whether any thread has an enabled watchpoint. -/
def State.anyWatch (s : State) : Bool := s.threads.any fun t => t.twc.toList.any twcEn

/-- Every watchpoint that a touch hits is told of it (R168, R169). (DEDUCED, assumption 16) -/
def State.touch (s : State) (k : Touch) : State :=
  if s.anyWatch then
    (s.threads.map (·.place)).foldl (fun s p => (List.finRange 4).foldl (fun s n => s.hitOne p n k) s) s
  else s

/-- A touch by a thread, where the access lies within this module (R148). An untranslated access of a control core has no virtual
address: its physical address stands in for one, and it acts for SCTX. The spec does not speak of it.
(DESIGN CHOICE, assumption 54) -/
def State.touchBy (s : State) (t : Thread) (insn : BitVec 32) (va : Word) (pa len : Nat) (rd wr tg : Bool) : State :=
  if s.isLocal pa then
    s.touch { ctx := t.cx, core := some t.core, who := some t.place, va := bits va 0 52, len := len, rd := rd, wr := wr, tg := tg,
              rec_ := t.record 0x12 insn va 0 0 0 }
  else s

/-- A touch by the current thread, where the access lies within this module (R148). -/
def State.threadTouch (s : State) (insn : BitVec 32) (va : Word) (pa len : Nat) (rd wr tg : Bool) : State :=
  s.touchBy s.th insn va pa len rd wr tg

/-! ### Full-empty waiters (R163, R164) -/

/-- Puts a load's bytes where they go and lets the thread go on (R155, R163). -/
def Thread.landLoad (t : Thread) (dst : LoadDest) (size v : Nat) : Thread :=
  let t := match dst with
    | .signed d => t.setG d ((BitVec.ofNat (8 * size) v).signExtend 64)
    | .zero d => t.setG d (BitVec.ofNat 64 v)
    | .float d => t.setF d (BitVec.ofNat 64 v)
    | .pair d => (t.setG d (BitVec.ofNat 64 v)).setG (regSucc d) (BitVec.ofNat 64 (v / 2 ^ 64))
    | .status d => t.setG d 0
  { t with pc := t.pc + 4, st := .run, wait := .none, pass := false, mid := false }

/-- Whether a granule holds the record that a window of a context last wrote to it, whether or not the window is still declared
(R330, R390). -/
def State.noteAt (s : State) (c : Fin 16) (pa : Nat) : Bool :=
  (s.ctx c).notes.any fun n => n.1 == pa / 16 && n.2 == s.readHome c 0 (pa / 16 * 16) 8

/-- A message from the home of an address of this module to a thread's core: the receive stamp raises the thread's floor (R244,
R245). -/
def State.tell (s : State) (home : Nat) (p : Place) : State :=
  match s.findThread p with
  | none => s
  | some t =>
    if home = t.key then s.updThread p fun t => t.raise (s.stamp home)
    else
      let (s, r) := s.message home t.key
      s.updThread p fun t => t.raise r

/-- The home serves one recorded waiter whose granule is full: it reads, and empties the granule when it is a .FEC load; a
waiter whose check now fails runs its instruction again (R160, R163). A WTFE acquires (R220), and so does a load that is released by a
window's record (R31, R187, R390). -/
def State.serveOne (s : State) (p : Place) : State :=
  match s.findThread p with
  | none => s
  | some t =>
    match t.wait with
    | .full pa size tag va dst consume _ _ ins =>
      let isStatus : Bool := match dst with | .status _ => true | _ => false
      if s.tagHome pa ≠ tag ∨ s.poisonHome t.cx t.thyp pa then
        s.updThread p fun t => { t with st := .run, wait := .none }
      else
        let v := s.readHome t.cx t.thyp pa size
        let note := s.noteAt t.cx pa
        let s := if s.isLocal pa then s.tell (homeKey (offsetOf pa)) p else s
        let s := s.updThread p fun t => t.landLoad dst size v
        let s := if consume then s.updMem pa fun m => m.setFull (s.cellAt pa) false else s
        let s := if isStatus ∨ note then s.acquireFor t else s
        if isStatus then s else s.touchBy t ins va pa size true consume false
    | _ => s

/-- The home serves another module's recorded load of a granule that is full: a .FEC load empties it, and one whose check fails now
is answered with its cause (R160, R163, R436). -/
def State.serveRemote (s : State) (pa : Nat) (tag : BitVec 4) (consume : Bool) : State :=
  if s.tagHome pa = tag ∧ !s.poisonHome 0 0 pa ∧ consume then s.updMem pa fun m => m.setFull (s.cellAt pa) false else s

/-- The first recorded waiter of a granule, and the others. -/
def State.unrecord (s : State) (g : Nat) (w : Waiter) (consume : Bool) : State :=
  match takeFirst (fun e => decide (e = (g, w, consume))) s.feq with
  | some (_, l) => { s with feq := l }
  | none => s

/-- The home serves its recorded waiters for a granule in order of arrival, until a .FEC waiter has emptied it (R164). -/
def State.serveWaiters (s : State) (pa : Nat) : List (Nat × Waiter × Bool) → State
  | [] => s
  | (g, w, consume) :: l =>
    if g = pa / 16 ∧ s.fullHome pa then
      let s := s.unrecord g w consume
      let s := match w with
        | .thread p => s.serveOne p
        | .route tag => s.serveRemote pa tag consume
      if consume && !s.fullHome pa then s else s.serveWaiters pa l
    else s.serveWaiters pa l

/-- A granule becomes full, and its waiters are served (R162, R164). -/
def State.makeFull (s : State) (pa : Nat) : State :=
  let s := s.updMem pa fun m => m.setFull (s.cellAt pa) true
  s.serveWaiters pa s.feq

/-- A message from an engine's interface to the home of an address of this module (R244). -/
def State.enginePost (s : State) (src pa : Nat) : State := if s.isLocal pa then s.send src (homeKey (offsetOf pa)) else s

/-- An engine's write of at most one granule, in a message from its interface to the home (R244): it sets the granule full where there
are full-empty bits (R162). -/
def State.engineWrite (s : State) (src : Nat) (c : Fin 16) (h : Handle) (pa n v : Nat) : State :=
  let s := (s.enginePost src pa).writeHome c h pa n v
  if hasFull pa then s.makeFull pa else s

/-- An engine's read of an address: the request to its home and the response (R244). -/
def State.engineAsk (s : State) (src pa : Nat) : State := if s.isLocal pa then s.roundTrip src (homeKey (offsetOf pa)) else s

/-! ### Atomics at the home (R199 to R207) -/

/-- What an atomic writes, if anything, and the flags of a floating add (R199, R200). -/
def atomResult (op : AtomOp) (w : Nat) (old b expect : Nat) : Option Nat × Flags :=
  let o := BitVec.ofNat w old
  let y := BitVec.ofNat w b
  match op with
  | .add => (some (o + y).toNat, 0)
  | .and => (some (o &&& y).toNat, 0)
  | .or => (some (o ||| y).toNat, 0)
  | .xor => (some (o ^^^ y).toNat, 0)
  | .min => (some (if o.toInt ≤ y.toInt then o else y).toNat, 0)
  | .max => (some (if o.toInt ≥ y.toInt then o else y).toNat, 0)
  | .minn => (some (if o.toNat ≤ y.toNat then o else y).toNat, 0)
  | .maxn => (some (if o.toNat ≥ y.toNat then o else y).toNat, 0)
  | .swp => (some y.toNat, 0)
  | .cas => (if o = BitVec.ofNat w expect then some y.toNat else none, 0)
  | .fadd =>
    let f := fmtOf .f32
    let (v, fl) := addData f .rne false (unpack f o.toNat) (unpack f y.toNat)
    (some v, fl)

def atomBytes : AtomSize → Nat
  | .w => 4 | .d => 8

/-- What a returning form writes to g[d] (R199). -/
def atomReturn (op : AtomOp) (z : AtomSize) (old : Nat) : Word :=
  match op with
  | .minn => BitVec.ofNat 64 old
  | .maxn => BitVec.ofNat 64 old
  | .fadd => BitVec.ofNat 64 old
  | _ => (BitVec.ofNat (8 * atomBytes z) old).signExtend 64

/-- The aop code of R49. -/
def aopCode : AtomOp → Nat
  | .add => 0 | .and => 1 | .or => 2 | .xor => 3 | .min => 4 | .max => 5 | .minn => 6 | .maxn => 7 | .swp => 8 | .cas => 9
  | .fadd => 10

/-- An entry of the reduction error log (R207): its four words; PEND is set and the context halts at its next fence point
(R206). (DEDUCED, assumption 24) -/
def State.logReduction (s : State) (c : Fin 16) (w0 w1 w2 w3 : Word) : State :=
  let base := s.reg (rlogbaseAt c)
  let ctl := s.reg (rlogctlAt c)
  let n := 2 ^ bits base 1 4
  let wr := bits ctl 16 13
  let rd := bits ctl 0 13
  let ctl := setBits ctl 63 1 1
  if bit base 0 ∧ (wr + 8192 - rd) % 8192 ≠ n then
    let pa := s.localPa (bits base 12 40 * 4096 + (wr % n) * 32)
    (s.writeWords c pa [w0, w1, w2, w3]).setReg (rlogctlAt c) (setBits ctl 16 13 (wr + 1))
  else s.setReg (rlogctlAt c) (setBits ctl 45 16 (min 65535 (bits ctl 45 16 + 1)))

/-- Word 3 of a log entry (R207). -/
def logWord3 (cause found : Nat) (h : Handle) (src aop : Nat) (d : Bool) (site slot : Nat) : Word :=
  field 56 8 cause ||| field 52 4 found ||| field 44 8 (hypNum h) ||| field 40 4 src ||| field 36 4 aop ||| flag 35 d |||
    field 16 10 site ||| field 12 4 slot

/-- The check an atomic meets at its home: TAG, then POISON (R203); the found tag with TAG. -/
def State.atomCheck (s : State) (c : Fin 16) (h : Handle) (va : Word) (pa : Nat) : Option (Nat × Nat) :=
  if s.tagHome pa ≠ BitVec.ofNat 4 (bits va 60 4) then some (0x0F, (s.tagHome pa).toNat)
  else if s.poisonHome c h pa then some (0x10, 0)
  else none

/-- Applies an atomic at its home: the old value, and the flags of a floating add (R199, R202). -/
def State.applyAtom (s : State) (c : Fin 16) (h : Handle) (pa : Nat) (op : AtomOp) (z : AtomSize) (b expect : Nat) :
    State × Nat × Flags :=
  let n := atomBytes z
  let old := s.readHome c h pa n
  let (v, fl) := atomResult op (8 * n) old b expect
  (match v with | some x => s.writeHome c h pa n x | none => s, old, fl)

/-! ### The store buffer (R85, R174 to R178) -/

/-- Whether an entry covers some of `n` bytes at `pa`; a tag store covers no byte (R85, R201). -/
def StoreEntry.overlaps (e : StoreEntry) (pa n : Nat) : Bool :=
  (match e.kind with | .tag _ => false | _ => true) && decide (e.pa < pa + n) && decide (pa < e.pa + e.size)

/-- Whether an entry may be forwarded to a plain load of a context under `h`: under H0 both are committed data, and a handle names a
hypothesis of its own context alone (R85, R258, R263). -/
def StoreEntry.forwards (e : StoreEntry) (c : Fin 16) (h : Handle) : Bool :=
  (match e.kind with | .plain => true | .fes => true | .nt => true | _ => false) && e.hyp == h && (hypNum h == 0 || decide (e.ctx = c))

/-- Writes bytes into a core's own copy of a line, which becomes dirty and records the writing slot (R190). -/
def CacheLine.patch (x : CacheLine) (o n v slot : Nat) (dirty : Bool) : CacheLine :=
  { x with data := patchBytes x.data (o % 64) n v,
           dirty := if dirty then setBits x.dirty (o % 64) n (2 ^ n - 1) else x.dirty,
           poison := if n = 16 then setBits x.poison (o % 64 / 16) 1 0 else x.poison,
           whole := if n = 16 ∧ dirty then setBits x.whole (o % 64 / 16) 1 1 else x.whole,
           writer := if dirty then slot else x.writer }

/-- The message that carries an entry to its home in this module (R244). -/
def State.carry (s : State) (e : StoreEntry) : State :=
  if s.isLocal e.pa then s.send e.core.key (homeKey (offsetOf e.pa)) else s

/-- Whether a store of an entry is written into the cache: the line is in a region whose token its maker holds (R190), and an .NT
store finds it there (R158). -/
def State.storesInCache (s : State) (e : StoreEntry) : Bool :=
  let o := offsetOf e.pa
  (s.regionOf e.core e.ctx o).isSome && s.holdsToken e.core e.ctx e.holder o &&
    (e.kind != .nt || (s.cached e.core e.ctx (o / 64) e.hyp).isSome)

/-- A store performs (R174, R190): in the cache when the line is in a region whose token the thread holds, else at the home,
with the core's own copy of the line updated. -/
def State.performStore (s : State) (e : StoreEntry) : State :=
  let v := e.data.toNat
  if s.localHbm e.pa then
    let o := offsetOf e.pa
    if hypNum e.hyp ≠ 0 ∧ !s.openHyp e.ctx e.hyp then s
    else if s.storesInCache e then
      (s.fill e.core e.ctx (o / 64) e.hyp).updCache e.core e.ctx (o / 64) e.hyp fun x => x.patch o e.size v e.slot true
    else ((s.carry e).writeHome e.ctx e.hyp e.pa e.size v).updCache e.core e.ctx (o / 64) e.hyp fun x => x.patch o e.size v 0 false
  else
    let s := (s.carry e).writeHome e.ctx e.hyp e.pa e.size v
    match e.kind with
    | .fes => s.makeFull e.pa
    | _ => s

/-- A tag that a write-back carries, not a thread's tag store. -/
def StoreEntry.posted (e : StoreEntry) : Bool := e.isTag && e.slot == 16

/-- A tag store performs: in the cache for a line of a region held, else at the home, as a tag written back does (R161, R190). -/
def State.performTag (s : State) (e : StoreEntry) (t : BitVec 4) : State :=
  let o := offsetOf e.pa
  let setTagOf (x : CacheLine) (d : Bool) : CacheLine :=
    { x with tags := setBits x.tags (o % 64 / 16 * 4) 4 t.toNat, tdirty := if d then setBits x.tdirty (o % 64 / 16) 1 1 else x.tdirty,
             writer := if d then e.slot else x.writer }
  if !e.posted ∧ s.localHbm e.pa ∧ (s.regionOf e.core e.ctx o).isSome ∧ s.holdsToken e.core e.ctx e.holder o then
    (s.fill e.core e.ctx (o / 64) e.hyp).updCache e.core e.ctx (o / 64) e.hyp fun x => setTagOf x true
  else
    let s := (s.carry e).updMem e.pa fun m => m.setTag (s.cellAt e.pa) t
    if s.localHbm e.pa then { s with cache := s.cache.map fun x =>
        if x.core = e.core ∧ x.line = o / 64 then setTagOf x false else x }
    else s

/-- The failure of a buffered atomic goes to the reduction error log (R204, R207). The spec gives no SITE for an atomic of a control
core; the model writes 0, as its TSTAT has it. (DESIGN CHOICE, assumption 54) -/
def State.logAtom (s : State) (e : StoreEntry) (op : AtomOp) (z : AtomSize) (expect : Word) (cause found : Nat) : State :=
  let site := match e.core with | .site n => n.val | .control _ => 0
  s.logReduction e.ctx (field 60 4 (bits e.va 60 4) ||| field 0 52 (bits e.va 0 52)) (BitVec.ofNat 64 e.data.toNat) expect
    (logWord3 cause found e.hyp 0 (aopCode op) (z == .d) site e.slot)

/-- Where the thread of an entry stands. -/
def StoreEntry.place (e : StoreEntry) : Place := match e.core with | .site n => .slot n (Fin.ofNat 16 e.slot) | .control i => .control i

/-- A buffered atomic that has passed its checks is a write for watchpoints (R168, R203). -/
def State.touchEntry (s : State) (e : StoreEntry) : State :=
  if s.isLocal e.pa then
    let site := match e.core with | .site n => n.val | .control _ => 0
    s.touch { ctx := e.ctx, core := some e.core, who := some e.place, va := bits e.va 0 52, len := e.size, rd := false, wr := true,
              tg := false,
              rec_ := { addr := e.va, tid := e.tid, insn := e.insn, cause := 0x12,
                        src := match e.core with | .site _ => 0 | .control _ => 1,
                        ctx := e.ctx, expt := 0, fndt := 0, hyp := BitVec.ofNat 8 (hypNum e.hyp), site := BitVec.ofNat 10 site,
                        unit := BitVec.ofNat 8 e.slot, lane := BitVec.ofNat 8 e.slot, elem := 0, time := 0,
                        pc := e.pc.setWidth 64, detail := 0, seq := 0 } }
  else s

/-- A buffered atomic is applied at its home; a failure goes to the reduction error log (R203, R204, R207).
(DEDUCED, assumption 24) -/
def State.performAtom (s : State) (e : StoreEntry) (op : AtomOp) (z : AtomSize) (expect : Word) : State :=
  if s.localHbm e.pa ∧ hypNum e.hyp ≠ 0 ∧ !s.openHyp e.ctx e.hyp then s
  else
    let s := s.carry e
    match s.atomCheck e.ctx e.hyp e.va e.pa with
    | some (cause, found) => s.logAtom e op z expect cause found
    | none =>
      let s := if s.localHbm e.pa ∧ hypNum e.hyp ≠ 0 then s.makeVersion e.ctx e.hyp (offsetOf e.pa / 64) else s
      (s.touchEntry e).applyAtom e.ctx e.hyp e.pa op z e.data.toNat expect.toNat |>.1

/-- Before an entry performs, its core gives up, with write-back, the copies of the line that a waiting load must not be served
from: every copy before an atomic (R201), and those of other hypotheses and contexts before a store (R85, R263).
(DEDUCED, assumption 16) -/
def State.giveUpCopies (s : State) (e : StoreEntry) : State :=
  if s.localHbm e.pa then
    s.flushLines fun x => decide (x.core = e.core) && x.line == offsetOf e.pa / 64 && (e.isAtom || x.ctx != e.ctx || x.hyp != e.hyp)
  else s

/-- A store-buffer entry performs; it has left the buffer already. -/
def State.performEntry (s : State) (e : StoreEntry) : State :=
  let s := s.giveUpCopies e
  match e.kind with
  | .plain => s.performStore e
  | .fes => s.performStore e
  | .nt => s.performStore e
  | .device => s
  | .tag t => s.performTag e t
  | .atom op z x => s.performAtom e op z x

/-- An entry must wait for an older entry of its core to the same granule (R176), one to another module for an older one of its slot
to the same line, whose requests take one path (R434), and a tag store of one core for the buffered stores of other cores whose tag
came from the home before it (R160). -/
def StoreEntry.behind (e f : StoreEntry) (remote : Bool) (older : List StoreEntry) : Bool :=
  (remote && f.core == e.core && f.slot == e.slot && f.pa / 64 == e.pa / 64 && decide (f.id < e.id)) ||
  f.pa / 16 == e.pa / 16 &&
    ((f.core == e.core && decide (f.id < e.id)) ||
      (e.isTag && !f.isTag && decide (f.core ≠ e.core) &&
        !(older.any fun g => g.isTag && decide (g.core = f.core) && g.pa / 16 == f.pa / 16 && decide (g.id < f.id))))

/-- Whether an entry has to wait for another. -/
def State.waitsFor (s : State) (e f : StoreEntry) : Bool := decide (f.id ≠ e.id) && e.behind f (!s.isLocal e.pa) s.sbuf

/-- Whether an entry may perform now. (DEDUCED, assumption 16) -/
def State.canPerform (s : State) (e : StoreEntry) : Bool := !(s.sbuf.any fun f => s.waitsFor e f)

/-- Performs one entry that may. -/
def State.perform (s : State) (e : StoreEntry) : State :=
  if s.canPerform e then ({ s with sbuf := s.sbuf.filter fun f => f.id ≠ e.id }).performEntry e else s

/-- The entries that must perform before those of a list can, and the list itself. -/
def State.blockers (s : State) : Nat → List StoreEntry → List StoreEntry
  | 0, l => l
  | n + 1, l =>
    let more := s.sbuf.filter fun f => l.any (fun e => s.waitsFor e f) && !(l.any fun e => e.id = f.id)
    if more.isEmpty then l else s.blockers n (l ++ more)

/-- Performs the entries whose serial numbers are listed, in a possible order. -/
def State.performIds (s : State) (ids : List Nat) : Nat → State
  | 0 => s
  | n + 1 =>
    match s.sbuf.find? fun e => ids.contains e.id && s.canPerform e with
    | some e => (s.perform e).performIds ids n
    | none => s

/-- Performs every buffered entry that satisfies `p`, and those that must perform before them (R178). -/
def State.drain (s : State) (p : StoreEntry → Bool) : State :=
  let l := s.sbuf.filter p
  if l.isEmpty then s
  else
    let ids := (s.blockers s.sbuf.length l).map (·.id)
    s.performIds ids s.sbuf.length

/-- The entries of a slot. -/
def ofSlot (t : Thread) (e : StoreEntry) : Bool := decide (e.core = t.core) && e.slot == t.slot

/-- Writes back every dirty line that satisfies `p`, tags that had to wait included (R160). -/
def State.cleanAll (s : State) (p : CacheLine → Bool) : State := (s.cleanLines p).drain StoreEntry.posted

/-- Writes back every dirty line that satisfies `p`, tags that had to wait included, and removes every line that does. -/
def State.flushAll (s : State) (p : CacheLine → Bool) : State := (s.flushLines p).drain StoreEntry.posted

/-- Whether a core holds lines that a thread may have written: its own, and one that it left and whose flush is not acknowledged
(R197). -/
def State.wroteOn (s : State) (t : Thread) (core : CoreId) : Bool :=
  decide (core = t.core) ||
    (t.onBarrel && s.flushes.any fun f => f.auto && f.ctx = t.ctx && f.tid = t.tid && decide (f.target = core))

/-- The release part of a fence of a scope (R178). THREAD and CORE: the thread's non-returning atomics within the module pass their
checks at their homes; no fence but DOMAIN waits for Route (R438). CLUSTER and DEVICE: also its stores within the module, those it
read by forwarding, and the write-back of the context's dirty lines in its core's cache and in those of the cores it left whose flush
is still under way, whichever slot wrote them: the thread's own, from this slot or an earlier one, and those of siblings whose stores
it may have read (R179). DOMAIN: also its stores to other modules. -/
def State.releaseTo (s : State) (sc : Scope) : State :=
  let t := s.th
  match sc with
  | .thread => s.drain fun e => ofSlot t e && e.isAtom && s.isLocal e.pa
  | .core => s.drain fun e => ofSlot t e && e.isAtom && s.isLocal e.pa
  | _ =>
    let s := s.drain fun e => (ofSlot t e || t.fwd.contains e.id) && (sc == .domain || s.isLocal e.pa)
    let s := s.cleanAll fun x => s.wroteOn t x.core && x.ctx = t.cx && x.isDirty
    { s with th := { s.th with fwd := s.th.fwd.filter fun i => s.sbuf.any fun e => e.id = i } }

/-- The release part of FENCE.REL.DEVICE (R178, R181). -/
def State.release (s : State) : State := s.releaseTo .device

/-- The acquire part of DEVICE scope for the current thread (R178). -/
def State.acquire (s : State) : State := s.acquireFor s.th

/-- Sweeps a region at a core: dirty lines are written back and every copy of every version is removed (R191). -/
def State.sweep (s : State) (core : CoreId) (c : Fin 16) (r : Nat) : State :=
  s.flushAll fun x => decide (x.core = core) && x.ctx = c && s.regionOf core c (x.line * 64) == some r

/-- Flushes a context from a core's thread cache (R196). -/
def State.flushCore (s : State) (core : CoreId) (c : Fin 16) : State :=
  s.flushAll fun x => decide (x.core = core) && x.ctx = c

/-- Whether a thread's site accepts a token grant: a closing site accepts none (R254). -/
def State.takesGrants (s : State) (t : Thread) : Bool := !(t.onBarrel && (s.site t.site).status == .closing)

/-- The key of the home of a region's token: the slice that homes the region's first block (R189). -/
def State.tokenKey (s : State) (c : Fin 16) (r : Nat) : Nat :=
  match (s.ctx c).regions.find? fun g => g.1 = r with
  | some g => stackKey (stackOf g.2.1)
  | none => stackKey 0

/-- The home sends a grant of a region's token (R191). -/
def State.sendGrant (s : State) (c : Fin 16) (r : Nat) (who : Holder) (p : Place) : State :=
  let dst := match s.findThread p with | some t => t.key | none => 0
  let (s, w) := s.post (s.tokenKey c r) dst
  { s with tokmsgs := s.tokmsgs ++ [.grant c r who p w] }

/-- The oldest waiter of a token is granted it, or it is free (R191); a waiter that is no longer live, or whose site is closing
(R254), is passed by: such a thread is about to be saved or ended, which withdraws its request. -/
def State.passOn (s : State) (c : Fin 16) (k : Token) : Nat → State
  | 0 => s.setToken c { k with holder := none, site := none, called := false, used := true }
  | n + 1 =>
    match k.queue with
    | [] => s.setToken c { k with holder := none, site := none, called := false, used := true }
    | (who, _) :: q =>
      match s.findHolder c who with
      | none => s.passOn c { k with queue := q } n
      | some t =>
        if s.takesGrants t then
          let s := s.setToken c { k with holder := some who, site := some t.core, queue := q, used := false,
                                         called := q.any (·.2) }
          s.sendGrant c k.region who t.place
        else s.passOn c { k with queue := q } n

/-- The entries of a region's holder perform before the token leaves it (R193). -/
def State.drainRegion (s : State) (c : Fin 16) (who : Holder) (r : Nat) : State :=
  s.drain fun e => e.ctx = c && e.holder == who && s.localHbm e.pa && s.regionOf e.core c (offsetOf e.pa) == some r

/-- A token leaves its holder: its stores perform, its site is swept, and the oldest waiter gets it (R191, R195). -/
def State.giveUp (s : State) (c : Fin 16) (r : Nat) (sweeping : Bool) : State :=
  let k := s.token c r
  match k.holder with
  | none => s
  | some who =>
    let s := if sweeping then s.drainRegion c who r else s
    let s := match k.site with
      | some core => if sweeping then s.sweep core c r else s
      | none => s
    s.passOn c k k.queue.length

/-- The flush of the core that a thread left ends: the core's lines of the context are written back and removed, the core on which the
thread stands now, or which it left last, becomes the holding site of its tokens, and that core keeps no clean copy that may be older
than what the thread stored before (R176, R197). -/
def State.flushEnd (s : State) (f : Flush) : State :=
  let s := s.flushCore f.target f.ctx
  if f.auto then
    let core : Option CoreId := match s.findTid f.ctx f.tid with
      | some t => if t.onBarrel then some t.core else t.old.map .site
      | none => none
    let s := match core with | some k => s.dropClean k f.ctx | none => s
    s.updCtx f.ctx fun x =>
      { x with tokens := x.tokens.map fun k =>
          if k.holder = some (.thread f.tid) ∧ core.isSome then { k with site := core } else k }
  else s

/-- The flushes of the cores that the current thread left end now (R105, R197). -/
def State.endFlushes (s : State) : State :=
  let mine (f : Flush) : Bool := f.auto && f.ctx = s.th.ctx && f.tid = s.th.tid && s.th.onBarrel
  let l := s.flushes.filter mine
  l.foldl State.flushEnd { s with flushes := s.flushes.filter fun f => !mine f }

/-- A thread that ends releases every token it holds, and leaves every queue (R195). -/
def State.releaseTokens (s : State) (c : Fin 16) (tid : BitVec 24) (sweeping : Bool) : State :=
  let s := s.updCtx c fun x => { x with tokens := x.tokens.map fun k =>
      { k with queue := k.queue.filter fun q => q.1 ≠ .thread tid } }
  ((s.ctx c).tokens.filter fun k => k.holder = some (.thread tid)).foldl (fun s k => s.giveUp c k.region sweeping) s

end Sys2Proof.Machine
end

