-- ==== Sys2Proof/Machine/Ops.lean ====
section
/-!
DEFINITION. Sys2Proof/Machine/Ops.lean: the operations that the meanings share: normalised state registers, fault records and
host queues, saving a thread, taking an exception (a trap of a barrel thread, R228; of a control core, R241; an interrupt) and
returning from one (TRET R229, ERET R241), translation, and fetching (R97, R126, R127, R150 to R153, R167, R230 to R241).
-/
namespace Sys2Proof.Machine

/-! ### State registers as they are stored -/

/-- TMODE as an MTS stores it: reserved bits 0, RM 0, 6 and 7 stored as 1 (R126). (DESIGN CHOICE, assumption 52) -/
def normTmode (v : Word) : Word :=
  let rm := bits v 0 3
  flag 3 (bit v 3) ||| field 0 3 (if rm = 0 ∨ rm = 6 ∨ rm = 7 then 1 else rm)

/-- TFLAGS as an MTS stores it (R127). -/
def normTflags (v : Word) : Word := field 0 5 (bits v 0 5)

/-- TWAn as an MTS stores it (R167). -/
def normTwa (v : Word) : Word := field 0 52 (bits v 0 52)

/-- TWCn as an MTS stores it: SIZE below 4 stored as 4, SCOPE 3 as 0, reserved bits 0 (R167). -/
def normTwc (v : Word) : Word :=
  let size := max 4 (bits v 8 5)
  let scope := if bits v 4 2 = 3 then 0 else bits v 4 2
  field 40 8 (bits v 40 8) ||| field 32 1 (bits v 32 1) ||| field 8 5 size ||| field 4 2 scope ||| field 0 4 (bits v 0 4)

/-- Whether a TWC value is an enabled watchpoint of context scope (R167). -/
def contextWatch (w : Word) : Bool := twcEn w && bits w 4 2 == 2

/-- The enabled watchpoints of context scope of a context, without watchpoint `n` of the thread at `p` (R167). -/
def State.watchCount (s : State) (c : Fin 16) (p : Place) (n : Fin 4) : Nat :=
  ((s.threads.filter fun t => t.cx = c).map fun t =>
    ((List.finRange 4).filter fun i => contextWatch t.twc[i] && !(decide (t.place = p) && i == n)).length).sum

/-! ### Host queues (R232) -/

/-- Whether a fault queue can take a record now. -/
def State.queueOpen (s : State) (c : Fin 16) (q : Nat) : Bool :=
  let base := s.reg (fqbaseAt c q)
  let ctl := s.reg (fqctlAt c q)
  bit base 0 && (bits ctl 16 13 + 8192 - bits ctl 0 13) % 8192 != 2 ^ bits base 1 4

/-- Writes a record to a fault queue that has room. -/
def State.queueWrite (s : State) (c : Fin 16) (q : Nat) (r : Record) : State :=
  let base := s.reg (fqbaseAt c q)
  let ctl := s.reg (fqctlAt c q)
  let wr := bits ctl 16 13
  let pa := s.localPa (bits base 12 40 * 4096 + (wr % 2 ^ bits base 1 4) * 64)
  (s.writeWords c pa r.words).setReg (fqctlAt c q) (setBits ctl 16 13 (wr + 1))

/-- A record goes to a fault queue: queue 2 drops it and counts LOST when it has no room, queues 0 and 1 hold it in order. -/
def State.queueRecord (s : State) (c : Fin 16) (q : Fin 3) (r : Record) : State :=
  let behind := (s.ctx c).heldQ.any fun h => h.1 = q
  if s.queueOpen c q ∧ !behind then s.queueWrite c q r
  else if q = 2 then
    let ctl := s.reg (fqctlAt c 2)
    s.setReg (fqctlAt c 2) (setBits ctl 45 16 (min 65535 (bits ctl 45 16 + 1)))
  else s.updCtx c fun x => { x with heldQ := x.heldQ ++ [(q, r)] }

/-- A held record leaves the save record of its thread. -/
def State.unhold (s : State) (c : Fin 16) (r : Record) : State :=
  match s.threads.find? fun t => t.held = some r && t.ctx = c with
  | some t =>
    let s := s.updThread t.place fun t => { t with held := none }
    if t.save = 0 then s else s.writeWords c (s.localPa (t.save + 0x280)) (List.replicate 8 0)
  | none => s

/-- Writes held records of a context, in order, as far as their queues have room (R232). -/
def State.flushHeld (s : State) (c : Fin 16) : Nat → State
  | 0 => s
  | n + 1 =>
    match takeFirst (fun h => s.queueOpen c h.1) (s.ctx c).heldQ with
    | some ((q, r), l) =>
      (((s.updCtx c fun x => { x with heldQ := l }).queueWrite c q r).unhold c r).flushHeld c n
    | none => s

/-! ### Saving a thread (R233, R234) -/

/-- The trap area of a slot, as a TCM address of this module (R227). -/
def trapArea (site slot : Nat) : Nat := 0x1F000000000 + site * 0x40000 + 0x3C000 + slot * 0x400

/-- The pointer that g31 holds in a handler (R228). -/
def State.trapPointer (s : State) (c : Fin 16) (site slot : Nat) : Word :=
  BitVec.ofNat 64 (0x0800000000000000 + ((bits (s.reg (cxtcmvAt c)) 28 24 * 2 ^ 28 + site * 0x40000 + 0x3C000 + slot * 0x400) % 2 ^ 52))

/-- Flags raised by an instruction of the current thread: they stick in TFLAGS, and in CFLAGS of the cluster of a barrel core
(R127, R130). -/
def State.raiseFlags (s : State) (fl : Flags) : State :=
  let s := { s with th := { s.th with tflags := s.th.tflags ||| fl.setWidth 64 } }
  if s.th.onBarrel ∧ fl ≠ 0 then
    let a := cflagsAt (siteCluster s.th.site)
    s.setReg a (s.reg a ||| fl.setWidth 64)
  else s

/-- The response to a returning atomic of the current thread at another module's home (R148, R201, R203), where its older requests to
the line have performed first (R202, R434): the operation, the old value in g[d], and the next instruction; or the cause and found
tag of a failing check. -/
def State.remoteAtom (s : State) (r : RemoteAtom) : Except (Nat × Nat) State :=
  let s := s.drain fun e => decide (e.core = s.th.core) && (e.pa / 16 == r.pa / 16 || (e.slot == s.th.slot && e.pa / 64 == r.pa / 64))
  match s.atomCheck s.th.cx s.th.thyp r.ptr r.pa with
  | some e => .error e
  | none =>
    let n := 8 * atomBytes r.size
    let a := s.applyAtom s.th.cx s.th.thyp r.pa r.op r.size (r.opnd.toNat % 2 ^ n) (r.expect.toNat % 2 ^ n)
    let s := a.1.setG r.dst (atomReturn r.op r.size a.2.1)
    .ok ({ s with th := { s.th with st := .run, wait := .none } }.raiseFlags a.2.2 |>.advance)

/-- Withdraws or completes the wait of the current thread, so that it can be saved (R233 steps 1 and 2): a division writes its
destination, and so does a returning atomic at another module (R201); waiters, token and controller requests are
withdrawn; a token already granted to a TKAQ is kept and a resolve already sent goes on, and the thread resumes at the next
instruction (R192, R269). -/
def State.withdraw (s : State) : State :=
  let t := s.th
  let c := t.cx
  let idle (t : Thread) : Thread := { t with st := .run, wait := .none, pass := false, mid := false, tseq := 0 }
  match t.wait with
  | .divide _ d v => { s with th := idle { t.setG d v with pc := t.pc + 4 } }
  | .full _ _ _ _ _ _ _ _ _ =>
    { s with th := idle t, feq := s.feq.filter fun w => w.2.1 ≠ .thread t.place }
  | .remote _ _ _ (some r) => match s.remoteAtom r with | .ok s => s | .error _ => { s with th := idle t }
  | .token r acq _ =>
    let s := if (s.token c r).holder = some t.holder then s.setToken c { s.token c r with used := true } else s
    if acq ∧ (s.token c r).holder = some t.holder then
      let s := { s with cache := s.cache.filter fun x =>
        !(decide (x.core = t.core) && x.ctx = c && !x.isDirty && s.regionOf t.core c (x.line * 64) == some r) }
      let s := s.acquireFor t
      { s with th := idle { t with pc := t.pc + 4 } }
    else
      let k := s.token c r
      let s := s.setToken c { k with queue := k.queue.filter fun q => q.1 ≠ t.holder }
      { s with th := idle t,
               tokmsgs := s.tokmsgs.filter fun m => match m with
                 | .request c' _ who _ _ _ => !(c' = c && who == t.holder)
                 | .retry c' _ who _ _ => !(c' = c && who == t.holder)
                 | .grant _ _ _ _ _ => true }
  | .hyp id =>
    match ((s.ctx c).hypQ.find? fun q => q.1 = id).map (·.2) with
    | some (HypReq.conf _ _) => { s with th := idle { t with pc := t.pc + 4 } }
    | some (HypReq.refute _ _) => { s with th := idle { t with pc := t.pc + 4 } }
    | _ => { s.updCtx c fun x => { x with hypQ := x.hypQ.filter fun q => q.1 ≠ id } with th := idle t }
  | .landing =>
    let freed := s.land.filter fun l => l.place = t.place
    let s := freed.foldl (fun s l => match l.grant with
      | some (some k) => s.setSite l.target { s.site l.target with reserve := setBits (s.site l.target).reserve k 1 0 }
      | _ => s) s
    { s with th := idle t, land := s.land.filter fun l => l.place ≠ t.place }
  | .flush => { s with th := idle t, flushes := s.flushes.filter fun f => f.auto || decide (f.place ≠ t.place) || f.tid ≠ t.tid }
  | _ => { s with th := idle t }

/-- Saves the current barrel thread: its buffered stores perform, its image and, in a handler, its trap area go to the save
record, and the slot becomes EMPTY (R233, R234). -/
def State.saveTh (s : State) : State :=
  let s := s.withdraw
  let s := s.drain (ofSlot s.th)
  let t := s.th
  let pa := s.localPa t.save
  let s := s.writeWords t.ctx pa t.image
  let s := s.writeWords t.ctx (pa + 0x280) (match t.held with | some r => r.words | none => List.replicate 8 0)
  let s := s.writeWords t.ctx (pa + 0x2C0) (List.replicate 40 0)
  let s := s.writeWords t.ctx (pa + 0x400)
    (if t.intrap then s.readWords (s.localPa (trapArea t.site t.slot)) 128 else List.replicate 128 0)
  { s with th := { t with place := .saved t.ctx t.tid,
                          old := match t.place with | .slot n _ => some n | _ => none } }

/-- Stamps and counts a record, unless it was made already (R230). -/
def State.ensureMade (s : State) (made : Bool) (r : Record) : State × Record :=
  if made then (s, r) else s.makeRecord s.th.key r

/-- Saves the current thread and sends a record to a host queue; a record that cannot be written yet is held (R228, R232). -/
def State.saveMade (s : State) (q : Fin 3) (r : Record) (made : Bool) : State :=
  let (s, r) := s.ensureMade made r
  let c := s.th.ctx
  let fits := s.queueOpen c q && !((s.ctx c).heldQ.any fun h => h.1 = q)
  let s := { s with th := { s.th with held := if fits then none else some r } }
  s.saveTh.queueRecord c q r

def State.saveWith (s : State) (q : Fin 3) (r : Record) : State := s.saveMade q r false

/-! ### Taking an exception and returning (R228, R229, R241) -/

/-- A control core takes a trap: the record goes to SFREC, SEPC, SCAUSE and SFADDR are written, the status is stacked and TPC is
SVEC (R241). `t` is the core as the cause found it. -/
def State.enterControl (s : State) (t : Thread) (r : Record) : State :=
  let s := s.writeWords r.ctx (s.localPa (t.sv.sfrec.toNat)) r.words
  let v := t.sv
  let ssts := flag 2 (bit v.ssts 0) ||| flag 1 t.sup
  { s with th := { t with pc := (v.svec).setWidth 52, sup := true, pass := false, mid := false, st := .run, wait := .none,
                          sv := { v with sepc := t.pc, scause := field 0 8 r.cause.toNat, sfaddr := r.addr, ssts := ssts } } }

/-- A barrel thread enters its trap handler: the image and the record go to the trap area, INTRAP is set, g31 points at the area
and TPC is the vector (R228). -/
def State.enterHandler (s : State) (c : Fin 16) (trap : Word) (r : Record) : State :=
  let t := s.th
  let pa := s.localPa (trapArea t.site t.slot)
  let s := s.writeWords c pa t.image
  let s := s.writeWords c (pa + 0x280) r.words
  forfeit 2 { s with th := { (t.setG 31 (s.trapPointer c t.site t.slot)) with
    intrap := true, pc := BitVec.ofNat 52 (bits trap 2 50 * 4), pass := false, mid := false, st := .run, wait := .none } }

/-- A trap of the current thread, whose TPC is as the cause's rule gives. On a control core: SEPC, SCAUSE, SFADDR and the
record at SFREC are written, the status is stacked and TPC is SVEC (R241). On a barrel thread: image and record go to the trap
area, INTRAP is set, g31 points at the area and TPC is the vector; with EN 0, or from a handler (DOUBLE), the thread is saved
and the record goes to the host trap queue (R228). The record of a trap in supervisor mode is not counted (R230); the spec says
neither which SEQ nor which CTX it carries, and the model writes the count as it stands and SCTX. (DESIGN CHOICE, assumption 54) -/
def State.deliverMade (s : State) (r : Record) (made : Bool) : State :=
  let t := s.th
  if t.onControl then
    if t.sup then s.enterControl t { r with time := s.stamp t.key, seq := (s.ctx r.ctx).seq }
    else (s.ensureMade made r).1.enterControl t (s.ensureMade made r).2
  else
    let c := t.ctx
    let trap := s.reg (cxtrapAt c)
    if !bit trap 0 then s.saveMade 1 r made
    else if t.intrap then s.saveMade 1 { r with cause := 0x1C, detail := r.cause.setWidth 64, expt := 0, fndt := 0 } made
    else (s.ensureMade made r).1.enterHandler c trap (s.ensureMade made r).2

def State.deliver (s : State) (r : Record) : State := s.deliverMade r false

/-- An interrupt of a control core by a SIPND bit (R241): no record is written and SFADDR is 0. -/
def State.interrupt (s : State) (b : Nat) : State :=
  let t := s.th
  let v := t.sv
  let ssts := flag 2 (bit v.ssts 0) ||| flag 1 t.sup
  { s with th := { t with pc := v.svec.setWidth 52, sup := true, pass := false, mid := false, st := .run, wait := .none,
                          sv := { v with sepc := t.pc, scause := flag 63 true ||| field 0 8 b, sfaddr := 0, ssts := ssts } } }

/-- ERET: TPC, mode and interrupt enable are restored together (R241). -/
def State.eret (s : State) : State :=
  let t := s.th
  let v := t.sv
  let ssts := setBits v.ssts 0 1 (bit v.ssts 2).toNat
  { s with th := { t with pc := v.sepc, sup := bit v.ssts 1, pass := false, mid := false, sv := { v with ssts := ssts } } }

/-- A thread with the registers and state fields of an image, each stored as MTS would store it (R229, R237). Identity,
arrival records, signals and priority are not loaded. -/
def Thread.loadImage (t : Thread) (w : List Word) : Thread :=
  let at_ (off : Nat) : Word := w.getD (off / 8) 0
  ({ t with g := Vector.ofFn fun i : Fin 32 => if i = 0 then 0 else at_ (8 * i),
            f := Vector.ofFn fun i : Fin 32 => at_ (0x100 + 8 * i),
            pc := BitVec.ofNat 52 (bits (at_ 0x200) 2 50 * 4),
            tmode := normTmode (at_ 0x210), tflags := normTflags (at_ 0x218),
            thyp := canonHandle ((at_ 0x220).setWidth 32),
            twa := Vector.ofFn fun i : Fin 4 => normTwa (at_ (0x228 + 8 * i)),
            twc := Vector.ofFn fun i : Fin 4 => normTwc (at_ (0x248 + 8 * i)) } : Thread).raise (at_ 0)

/-- An MTS to TWCn that would make a 17th context-scope watchpoint leaves it unchanged; so does a TRET (R167, R229). -/
def State.fitWatches (s : State) (before : Vector Word 4) : State :=
  (List.finRange 4).foldl
    (fun s n => if contextWatch s.th.twc[n] && decide (16 ≤ s.watchCount s.th.cx s.th.place n) then
        { s with th := { s.th with twc := s.th.twc.set n before[n] } } else s) s

/-- TRET: the handler's image is loaded from the trap area and INTRAP is cleared (R229). A THYP that an MTS would refuse, one that is
not live, is not stored (R259, R267). (DEDUCED, assumption 19) -/
def State.tret (s : State) : State :=
  let t := s.th
  let w := s.readWords (s.localPa (trapArea t.site t.slot)) 80
  let s := { s with th := { t.loadImage w with
    thyp := if s.liveHyp t.cx (t.loadImage w).thyp then (t.loadImage w).thyp else t.thyp,
    intrap := false, pass := false, mid := false } }
  forfeit 2 (s.fitWatches t.twc)

/-! ### Translation (R150 to R153) -/

/-- Why an access does not go on. -/
inductive Trouble
  | trap (cause : Nat) (detail : Word) (expt fndt : BitVec 4)
  | page (cause level : Nat)
  | wait (w : Wait)
  | migrate (site : Fin 1024)
  deriving DecidableEq, Repr

/-- Bits of a table entry (R151). -/
def pteV (e : Word) : Bool := bit e 0
def pteLeaf (e : Word) : Bool := bit e 1
def pteR (e : Word) : Bool := bit e 2
def pteW (e : Word) : Bool := bit e 3
def pteX (e : Word) : Bool := bit e 4
def pteMig (e : Word) : Bool := bit e 5
def pteFill (e : Word) : Bool := bit e 6
def pteOwn (e : Word) : Nat := bits e 54 10
def pteAddr (e : Word) : Nat := bits e 8 44 * 256

/-- log2 of the page a leaf of a level maps, and of the alignment of the table below a level (R150). -/
def leafLog (level : Nat) : Nat := match level with | 1 => 30 | 2 => 21 | _ => 16
def tableLog (level : Nat) : Nat := match level with | 0 => 12 | 1 => 12 | _ => 8

/-- Whether a valid entry is malformed (R151). -/
def State.malformed (s : State) (level : Nat) (e : Word) : Bool :=
  bits e 52 2 != 0 || bit e 7 || (pteLeaf e && level == 0) || (!pteLeaf e && level == 3) || (pteW e && !pteR e) ||
    (if pteLeaf e then pteAddr e % 2 ^ leafLog level != 0 || (pteMig e && !s.isLocal (pteAddr e))
     else pteAddr e % 2 ^ tableLog level != 0 || !s.isLocal (pteAddr e)) ||
    (!pteMig e && pteOwn e != 0)

/-- The index of a level's table (R150). -/
def walkIndex (level va : Nat) : Nat :=
  match level with
  | 0 => va / 2 ^ 39 % 8192 | 1 => va / 2 ^ 30 % 512 | 2 => va / 2 ^ 21 % 512 | _ => va / 2 ^ 16 % 32

/-- The address of the entry a walk reads at a level. -/
def walkEntry (level table va : Nat) : Nat := table + walkIndex level va * 8

/-- The TLB entry of a core that translates an address (R153). -/
def State.tlbFind (s : State) (core : CoreId) (c : Fin 16) (va : Nat) : Option TlbEntry :=
  s.tlb.find? fun e => decide (e.owner = .core core) && e.ctx = c && e.va == va / 2 ^ e.log2 * 2 ^ e.log2

/-- Translation of an address of the current thread by its TLB: the domain physical address and the leaf. A miss starts a
walk; with translation disabled the access is a page fault of level 0 (R152, R153). -/
def State.translate (s : State) (va : Nat) (fetch : Bool) : Except Trouble (Nat × Word) :=
  let c := s.th.cx
  let root := s.reg (cxrootAt c)
  if !bit root 0 then .error (.page 0x09 0)
  else
    match s.tlbFind s.th.core c va with
    | some e => .ok (pteAddr e.leaf + va % 2 ^ e.log2, e.leaf)
    | none => .error (.wait (.walk (BitVec.ofNat 64 va) va 0 (bits root 16 36 * 65536) (if fetch then .fetch else .access)))

/-! ### Fetching (R97) -/

/-- The physical address an instruction is fetched from: local HBM with execute permission, above the lowest 64 KiB; a control
core in supervisor mode is not translated. (DEDUCED, assumption 12) -/
def State.fetchPa (s : State) : Except Trouble Nat :=
  let va := s.th.pc.toNat
  if s.th.supervisor then
    if s.localHbm (s.superPa va) then .ok (s.superPa va) else .error (.trap 0x11 0 0 0)
  else if va < 0x10000 then .error (.trap 0x11 0 0 0)
  else
    match s.translate va true with
    | .error e => .error e
    | .ok (pa, leaf) => if pteX leaf && s.localHbm pa then .ok pa else .error (.trap 0x11 0 0 0)

/-- The word at a physical address as the thread cache gives it: its copy of the committed line, else the home (R97, R98). -/
def State.codeWord (s : State) (pa : Nat) : BitVec 32 :=
  let o := offsetOf pa
  match s.cached s.th.core s.th.cx (o / 64) 0 with
  | some x => BitVec.ofNat 32 (bits x.data (8 * (o % 64)) 32)
  | none => BitVec.ofNat 32 (s.mem.read o 4)

/-- The word of the instruction that the thread is executing, for fault records (R230). -/
def State.insn (s : State) : BitVec 32 :=
  match s.fetchPa with
  | .ok pa => s.codeWord pa
  | .error _ => 0

/-- A fetch leaves the line in the thread cache (R97). -/
def State.fetchFill (s : State) (pa : Nat) : State := s.fill s.th.core s.th.cx (offsetOf pa / 64) 0

/-! ### Ending an instruction in a trap, a page fault or a wait -/

/-- The record of the current thread's trap. -/
def State.recordOf (s : State) (cause : Nat) (addr detail : Word) (expt fndt : BitVec 4) : Record :=
  s.th.record (BitVec.ofNat 8 cause) s.insn addr detail expt fndt

/-- A precise trap: the state is that before the instruction (R146, R228, R241). -/
def trapWith (s : State) (cause : Nat) (addr detail : Word) : Result := .next (s.deliver (s.recordOf cause addr detail 0 0))

/-- A precise trap with no address and no detail. -/
def trapNow (s : State) (cause : Nat) : Result := trapWith s cause 0 0

/-- A page fault handled by the host: the thread is saved at the instruction and a record goes to the page-fault queue (R154);
a control core takes it to its vector (R231). -/
def State.pageFault (s : State) (cause level : Nat) (addr : Word) : State :=
  let r := s.recordOf cause addr (BitVec.ofNat 64 level) 0 0
  if s.th.onControl then s.deliver r else s.saveWith 0 r

/-- The current thread asks the site that owns a page, or that VISIT names, for a landing, and waits (R170, R171). -/
def State.askLanding (s : State) (n : Fin 1024) (visit : Bool) : State :=
  let (s, w) := s.post s.th.key (siteKey n)
  { s.block .landing with
    land := s.land ++ [{ place := s.th.place, target := n, grant := none, visit := visit, stamp := s.stamp s.th.key, way := w }] }

/-- What an access that does not go on does to the current thread; `addr` is the record's ADDR. -/
def inTrouble (s : State) (addr : Word) : Trouble → Result
  | .trap cause detail expt fndt => .next (s.deliver (s.recordOf cause addr detail expt fndt))
  | .page cause level => .next (s.pageFault cause level addr)
  | .wait w => .next (s.block (match w with | .walk _ va l t f => .walk addr va l t f | .remote q m _ r => .remote q m addr r | w => w))
  | .migrate n => .next (s.askLanding n false)

/-- The pending interrupt sources of a control core (R242); bit 5 is the halt of the context, not the failure that leads to it
(R208). -/
def State.sipnd (s : State) (k : Fin 16) : Word :=
  let queue (q : Nat) : Bool :=
    let ctl := s.reg (fqctlAt k q)
    bits ctl 16 13 != bits ctl 0 13
  let own := flag 0 (bit (s.reg (sqintAt k)) 0) ||| flag 1 (bit (s.reg (sqintAt k)) 1) ||| flag 2 (queue 0) ||| flag 3 (queue 1) |||
    flag 4 (queue 2) ||| flag 5 (s.ctx k).halted |||
    flag 6 (s.insts.any fun i => i.ctx = k && i.shut.isSome) ||| flag 7 (bit (s.reg (ldstatAt k)) 63)
  if k = 0 then
    own ||| flag 8 (bit (s.reg retstatAt) 63) ||| flag 9 (!s.mgmt.inbox.isEmpty) |||
      flag 10 (bits (s.reg rrstatAt) 32 32 != 0) |||
      flag 11 (s.regs.any fun (o, v) =>
        (rtportAt 0 ≤ o && o < rtportAt 48 && bit v 62) || (rtmapAt 0 ≤ o && o < rtmapAt 1152 && bit v 63))
  else own

/-- The interrupt that a control core takes between instructions: the lowest enabled pending bit with SSTS.IE 1 (R241). -/
def State.pendingInterrupt (s : State) (t : Thread) : Option Nat :=
  match t.place with
  | .control k =>
    if bit t.sv.ssts 0 then (List.range 12).find? fun b => bit (s.sipnd k) b && bit t.sv.sien b else none
  | _ => none

end Sys2Proof.Machine
end

