-- ==== Sys2Proof/Machine/DeviceMap.lean ====
section
/-!
DEFINITION. Sys2Proof/Machine/DeviceMap.lean: the registers of the device window by module offset, and who may load and store
them (R51, R129, R149, R152, R188, R206, R213, R226, R232, R239, R250, R251, R255, R287, R324, R348, R359, R366, R417 to R421,
R433 to R435, R441, R445, R450 to R452).
-/
namespace Sys2Proof.Machine

/-- The registers of the device window. -/
inductive DevReg
  | devid | port (k : Fin 16) | cflags (c : Nat)
  | cxroot (k : Fin 16) | cxpeer (k : Fin 16) | tlbinv (k : Fin 16) | tlbstat (k : Fin 16)
  | rgnbase (k : Fin 16) | rgnctl (k : Fin 16) | rlogbase (k : Fin 16) | rlogctl (k : Fin 16)
  | bmask (k : Fin 16) (b : Fin 4) (w : Fin 16) | bcfg (k : Fin 16) (b : Fin 4) | bstat (k : Fin 16) (b : Fin 4)
  | speed (site : Nat) | latency (src dst : Nat)
  | fqbase (k : Fin 16) (q : Fin 3) | fqctl (k : Fin 16) (q : Fin 3)
  | cxtrap (k : Fin 16) | cxtcmv (k : Fin 16) | cxrsm (k : Fin 16) | cxpre (k : Fin 16)
  | retstat | pgflag (site : Nat) | pspl (site : Nat) (p : Fin 4) | pres (site : Nat) (p : Fin 4)
  | lqcfg (k : Fin 16) (q : Fin 64) | lqstat (k : Fin 16) (q : Fin 64)
  | spbase (k : Fin 16) | spcnt (k : Fin 16) | fsbase (k : Fin 16) | fssize (k : Fin 16) | shmap (k : Fin 16)
  | hangint (k : Fin 16) | sqint (k : Fin 16) | sqstat (k : Fin 16) | shutstat (k : Fin 16) | shutctl (k : Fin 16)
  | ldstat (k : Fin 16)
  | stspl (pos : Fin 128) (k : Fin 16) | stres (pos : Fin 128) (k : Fin 16)
  | gdesc (g : Nat) | gctl | gmyrank (g : Nat) | grank (g r : Nat)
  | routecfg | rtmap (m : Fin 1152) | rtport (p : Nat)
  | cxmode (k : Fin 16) | fact (f : Nat) | rtuctl | rtustat | rrcfg | rrstat | rplctl (k : Fin 16) | cxrst (k : Fin 16)
  deriving DecidableEq, Repr

/-- A number as a context, launch queue or the like; the maps below keep it in range. -/
def fin (n : Nat) [NeZero n] (x : Nat) : Fin n := Fin.ofNat n x

/-- The registers of a context's block at offset `d` of it. -/
def contextReg (k : Fin 16) (d : Nat) : Option DevReg :=
  match d with
  | 0x00 => some (.spbase k) | 0x08 => some (.spcnt k) | 0x10 => some (.fsbase k) | 0x18 => some (.fssize k)
  | 0x20 => some (.shmap k) | 0x28 => some (.hangint k) | 0x30 => some (.sqint k) | 0x38 => some (.sqstat k)
  | 0x40 => some (.shutstat k) | 0x48 => some (.shutctl k) | 0x50 => some (.ldstat k)
  | _ => none

/-- The register at an 8-byte-aligned module offset of the device window, if one is allocated. -/
def devReg (o : Nat) : Option DevReg :=
  let x := o - 0x1FF00000000
  let lo := x % 0x10000
  match x / 0x10000 with
  | 0x00 => if lo = 0 then some .devid else none
  | 0x01 => if lo % 0x100 = 0 ∧ lo < 0x1000 then some (.port (fin 16 (lo / 0x100))) else none
  | 0x02 => if lo < 2048 then some (.cflags (lo / 8)) else none
  | 0x03 =>
    if lo < 0x200 then
      let k := fin 16 (lo / 0x20)
      match lo % 0x20 with
      | 0 => some (.cxroot k) | 8 => some (.cxpeer k) | 0x10 => some (.tlbinv k) | 0x18 => some (.tlbstat k) | _ => none
    else none
  | 0x04 =>
    if lo < 0x100 then (if lo % 0x10 = 0 then some (.rgnbase (fin 16 (lo / 0x10))) else some (.rgnctl (fin 16 (lo / 0x10))))
    else none
  | 0x05 =>
    if lo < 0x100 then (if lo % 0x10 = 0 then some (.rlogbase (fin 16 (lo / 0x10))) else some (.rlogctl (fin 16 (lo / 0x10))))
    else none
  | 0x06 =>
    if lo < 0x4000 then
      let k := fin 16 (lo / 0x400)
      let b := fin 4 (lo % 0x400 / 0x100)
      let d := lo % 0x100
      if d < 0x80 then some (.bmask k b (fin 16 (d / 8))) else if d = 0x80 then some (.bcfg k b)
      else if d = 0x88 then some (.bstat k b) else none
    else none
  | 0x07 =>
    if lo < 0x2000 then some (.speed (lo / 8))
    else if lo < 0x2200 then some (.latency ((lo - 0x2000) / 64) ((lo - 0x2000) / 8 % 8)) else none
  | 0x08 =>
    if lo < 0x400 ∧ lo % 0x40 < 0x30 then
      let k := fin 16 (lo / 0x40)
      let q := fin 3 (lo % 0x40 / 0x10)
      if lo % 0x10 = 0 then some (.fqbase k q) else some (.fqctl k q)
    else none
  | 0x09 =>
    if lo < 0x200 then
      let k := fin 16 (lo / 0x20)
      match lo % 0x20 with
      | 0 => some (.cxtrap k) | 8 => some (.cxtcmv k) | 0x10 => some (.cxrsm k) | 0x18 => some (.cxpre k) | _ => none
    else none
  | 0x0A => if lo = 0 then some .retstat else none
  | 0x0B => if lo < 0x2000 then some (.pgflag (lo / 8)) else none
  | 0x0C =>
    let p := fin 4 (lo % 0x40 / 0x10)
    match lo % 0x10 with
    | 0 => some (.pspl (lo / 0x40) p) | 8 => some (.pres (lo / 0x40) p) | _ => none
  | 0x0D =>
    if lo < 0x4000 then
      let k := fin 16 (lo / 0x400)
      let q := fin 64 (lo % 0x400 / 0x10)
      if lo % 0x10 = 0 then some (.lqcfg k q) else some (.lqstat k q)
    else none
  | 0x0E => if lo < 0x800 then contextReg (fin 16 (lo / 0x80)) (lo % 0x80) else none
  | 0x0F =>
    if lo < 0x8000 then
      let k := fin 16 (lo % 0x100 / 0x10)
      let pos := fin 128 (lo / 0x100)
      if lo % 0x10 = 0 then some (.stspl pos k) else some (.stres pos k)
    else none
  | 0x10 =>
    if lo < 0x200 then some (.gdesc (lo / 8)) else if lo = 0x200 then some .gctl
    else if 0x400 ≤ lo ∧ lo < 0x600 then some (.gmyrank ((lo - 0x400) / 8)) else none
  | 0x30 => if lo = 0 then some .routecfg else none
  | 0x31 => if h : lo / 8 < 1152 then some (.rtmap ⟨lo / 8, h⟩) else none
  | 0x32 => if lo < 384 then some (.rtport (lo / 8)) else none
  | 0x40 => if lo < 0x80 then some (.cxmode (fin 16 (lo / 8))) else none
  | 0x41 => if lo < 0x40 then some (.fact (lo / 8)) else none
  | 0x42 => if lo = 0 then some .rtuctl else if lo = 8 then some .rtustat else none
  | 0x43 => if lo = 0 then some .rrcfg else if lo = 8 then some .rrstat else none
  | 0x44 => if lo < 0x100 ∧ lo % 0x10 = 0 then some (.rplctl (fin 16 (lo / 0x10))) else none
  | 0x45 => if lo < 0x80 then some (.cxrst (fin 16 (lo / 8))) else none
  | n =>
    if 0x20 ≤ n ∧ n < 0x28 then some (.grank ((x - 0x200000) / 0x2000) ((x - 0x200000) % 0x2000 / 8)) else none

/-- Registers that exist only where a unit is present: CFLAGS of a cluster with no scratchpad, page and port registers of a
dark site (R129, R287, R324). -/
def State.regPresent (s : State) : DevReg → Bool
  | .cflags c => s.scratchPresent c
  | .pgflag n => !(s.site n).isDark
  | .pspl n _ => !(s.site n).isDark
  | .pres n _ => !(s.site n).isDark
  | .port _ => false
  | _ => true

/-- Whether a thread may load or store a register with an 8-byte access (R149): control cores every register but a port, and
no store to GMYRANK (R421); barrel threads the read-only tables, the group table and DEVID, which alone they may store to
(R4). -/
def devAllowed (control store : Bool) (r : DevReg) : Bool :=
  match r with
  | .port _ => false
  | .gmyrank _ => !store
  | .devid => true
  | .speed _ => control || !store
  | .latency _ _ => control || !store
  | .gdesc _ => control || !store
  | .grank _ _ => control || !store
  | _ => control

/-- The key of the home a register is served at (R453). -/
def devHome (t : Thread) (r : DevReg) : Nat :=
  match r with
  | .devid => t.key
  | .speed _ => t.key
  | .latency _ _ => t.key
  | .gdesc _ => if t.onControl then barrierKey else t.key
  | .grank _ _ => if t.onControl then barrierKey else t.key
  | .gmyrank _ => t.key
  | .port k => seqKey k
  | .cflags c => scratchKey c
  | .pgflag n => siteKey n
  | .pspl n _ => siteKey n
  | .pres n _ => siteKey n
  | .stspl p _ => siteKey (edgeSite p)
  | .stres p _ => siteKey (edgeSite p)
  | .fact f => siteKey (f / 2 * 256 + f % 2 * 16)
  | _ => barrierKey

end Sys2Proof.Machine
end

