-- ==== Sys2Proof/Machine/Access.lean ====
section
/-!
DEFINITION. Sys2Proof/Machine/Access.lean: the checks on a thread's access in their order, and the accesses themselves: plain
and full-empty loads, stores, tag stores and atomics (R85, R144 to R165, R170, R190 to R193, R199 to R204, R262).
-/
namespace Sys2Proof.Machine

/-- What an access asks of the checks of R146. -/
structure Req where
  align : Nat          -- the address must be a multiple of it; 1 where never misaligned
  need  : Nat          -- least rights (R145)
  rd    : Bool         -- page R
  wr    : Bool         -- page W
  full  : Bool         -- a full-empty qualifier
  write : Bool         -- write-class (R156)
  reg   : Bool         -- an 8-byte plain load or store, which may name a device register
  store : Bool         -- a store
  port  : Bool         -- an STP, which may name a command port
  mig   : Bool         -- a load or store of R155, which a MIG page moves
  posted : Bool := false   -- it waits for no response of a remote home (R201)
  deriving DecidableEq, Repr

/-- The record's ADDR: the effective address with bits 63:52 of the base pointer (R230). -/
def withTop (p : Word) (ea : Nat) : Word := setBits p 0 52 ea

/-- Whether module `m` can be reached over Route (R27, R433, R434). -/
def State.routeTo (s : State) (m : Nat) : Bool :=
  bit (s.reg routecfgAt) 63 && m < 1152 && bits (s.reg (rtmapAt m)) 0 48 != 0 && !bit (s.reg (rtmapAt m)) 63

/-- Whether memory of this module stands at a module offset (R18, R19, R148). -/
def State.homeThere (s : State) (o : Nat) : Bool :=
  match spaceOf o with
  | .hbm => true
  | .scratch => s.scratchPresent (scratchCluster o)
  | .tcm => !(s.site (tcmSite o)).isDark
  | .device => false
  | .none => false

/-- Step 7 of R146: whether an access may reach a domain physical address; a request that Route carries already runs on to its
response (R437). (DESIGN CHOICE, assumption 9) -/
def State.reachable (s : State) (pa : Nat) (q : Req) : Bool :=
  let o := offsetOf pa
  if s.isLocal pa then
    match spaceOf o with
    | .device =>
      match devReg o with
      | some (.port k) => q.port && o % 0x100 == 0 && k == s.th.cx
      | some r => q.reg && !q.full && o % 8 == 0 && s.regPresent r && devAllowed s.th.onControl q.store r
      | none => false
    | _ => s.homeThere o
  else
    (s.th.pass || s.routeTo (pa / 2 ^ 41)) && (match spaceOf o with | .hbm => true | .scratch => true | .tcm => true | _ => false)

/-- Whether the flush of the core that the current thread left is not yet acknowledged (R197). (DEDUCED, assumption 17) -/
def State.awaitsFlush (s : State) : Bool :=
  s.th.onBarrel && s.flushes.any fun f => f.auto && f.ctx = s.th.ctx && f.tid = s.th.tid

/-- Steps 1 to 9 of R146 with the migration decision after step 7 (R170): the physical address. A control core never migrates, so
its access to a MIG page neither migrates nor asks after OWN; and a thread in its trap handler, whose accesses are remote ones
(R228), takes no ACCESS for a dark OWN. The spec states neither case. (DEDUCED, assumption 12) (DESIGN CHOICE, assumption 54) -/
def State.check (s : State) (p : Word) (ea : Nat) (q : Req) : Except Trouble Nat :=
  let user := !s.th.supervisor
  if ea % q.align ≠ 0 then .error (.trap 0x05 0 0 0)
  else if ea < 0x10000 then .error (.trap 0x06 0 0 0)
  else if bits p 52 6 ≠ 0 then .error (.trap 0x07 0 0 0)
  else if bits p 58 2 < q.need then .error (.trap 0x08 0 0 0)
  else
    match if user then s.translate ea false else .ok (s.superPa ea, 0xC) with
    | .error e => .error e
    | .ok (pa, leaf) =>
      if (q.rd ∧ !pteR leaf) ∨ (q.wr ∧ !pteW leaf) then .error (.trap 0x0B 0 0 0)
      else if !s.reachable pa q then .error (.trap 0x0C 0 0 0)
      else
        let own := pteOwn leaf
        if q.mig ∧ s.th.onBarrel ∧ pteMig leaf ∧ own ≠ s.th.site ∧ !s.th.intrap ∧
            ((s.site own).isDark ∨ (s.site own).status = .closing) then .error (.trap 0x0C 0 0 0)
        else if q.mig ∧ s.th.onBarrel ∧ pteMig leaf ∧ own ≠ s.th.site ∧ !s.th.intrap ∧ !s.th.pass then
          .error (.migrate (fin 1024 own))
        else if q.write ∧ hypNum s.th.thyp ≠ 0 ∧ !s.localHbm pa ∧
            !(q.port ∧ s.isLocal pa ∧ spaceOf (offsetOf pa) = .device) then .error (.trap 0x0D 0 0 0)
        else if q.full ∧ !hasFull pa then .error (.trap 0x0E 0 0 0)
        else if !s.isLocal pa ∧ !s.th.pass ∧ !q.posted then .error (.wait (.remote q.store pa 0 none))
        else if s.localHbm pa ∧ s.awaitsFlush then .error (.wait .flush)
        else .ok pa

/-! ### Tags and poison as the core sees them (R160) -/

/-- The tag of a granule: from a buffered tag store of the core, from the core's copy of the line, else from the home. -/
def State.tagSeen (s : State) (pa : Nat) : BitVec 4 :=
  let t := s.th
  match (s.sbuf.filter fun e => decide (e.core = t.core) && e.isTag && e.pa / 16 == pa / 16).getLast? with
  | some e => match e.kind with | .tag x => x | _ => 0
  | none =>
    match if s.localHbm pa then s.cached t.core t.cx (offsetOf pa / 64) t.thyp else none with
    | some x => BitVec.ofNat 4 (bits x.tags (offsetOf pa % 64 / 16 * 4) 4)
    | none => s.tagHome pa

/-- Step 10 of R146. -/
def State.tagCheck (s : State) (p : Word) (pa : Nat) : Except Trouble Unit :=
  let e := BitVec.ofNat 4 (bits p 60 4)
  let f := s.tagSeen pa
  if e = f then .ok () else .error (.trap 0x0F 0 e f)

/-- Whether the core holds a copy of the line that its loads use. -/
def State.copyHeld (s : State) (pa : Nat) : Option CacheLine :=
  if s.localHbm pa then s.cached s.th.core s.th.cx (offsetOf pa / 64) s.th.thyp else none

/-- Whether a load of the granule meets poison: in the core's copy, else at the home (R157). -/
def State.poisonSeen (s : State) (pa : Nat) : Bool :=
  match s.copyHeld pa with
  | some x => bit x.poison (offsetOf pa % 64 / 16)
  | none => s.poisonHome s.th.cx s.th.thyp pa

/-! ### Plain loads -/

/-- The bytes of a store-buffer entry laid over the `n` bytes at `pa` (R85). -/
def StoreEntry.overlay (e : StoreEntry) (pa n : Nat) (v : BitVec 128) : BitVec 128 :=
  (List.range n).foldl
    (fun v i => if e.pa ≤ pa + i ∧ pa + i < e.pa + e.size then setBits v (8 * i) 8 (bits e.data (8 * (pa + i - e.pa)) 8) else v) v

/-- The older requests of the current thread to a line of another module perform before a load of it: they take one path (R434). -/
def State.settleRemote (s : State) (pa : Nat) : State :=
  if s.isLocal pa then s else s.drain fun e => ofSlot s.th e && e.pa / 64 == pa / 64

/-- The `n` bytes a plain load receives, after step 9 of R146: buffered bytes of the core's threads under the same hypothesis
over the core's copy of the line or the home's bytes. A miss leaves a clean copy, unless the load is .NT (R85, R158, R190). -/
def State.loadAt (s : State) (p : Word) (pa n : Nat) (keep : Bool) : Except Trouble (State × BitVec 128) :=
  let t := s.th
  let s := s.settleRemote pa
  let lap := s.sbuf.filter fun e => decide (e.core = t.core) && e.overlaps pa n
  if lap.any fun e => !e.forwards t.cx t.thyp then .error (.wait (.overlap pa n))
  else
    match s.tagCheck p pa with
    | .error e => .error e
    | .ok () =>
      if s.poisonSeen pa ∧ !(lap.any fun e => e.size = 16) then .error (.trap 0x10 0 0 0)
      else
        let held := s.copyHeld pa
        let base := match held with
          | some x => bits x.data (8 * (offsetOf pa % 64)) (8 * n)
          | none => s.readHome t.cx t.thyp pa n
        let v := lap.foldl (fun v e => e.overlay pa n v) (BitVec.ofNat 128 base)
        let s := match held with
          | some _ => s
          | none => if s.isLocal pa then s.exchange (homeKey (offsetOf pa)) else s
        let s := if s.localHbm pa ∧ keep then s.fill t.core t.cx (offsetOf pa / 64) t.thyp else s
        let sib := (lap.filter fun e => e.slot ≠ t.slot).map (·.id)
        .ok ({ s with th := { s.th with fwd := s.th.fwd ++ sib.filter fun i => !s.th.fwd.contains i } }, v)

/-! ### Full-empty loads (R163, R164) -/

/-- The FE-qualified loads recorded at the home of an address. -/
def State.recordedAt (s : State) (pa : Nat) : Nat :=
  (s.feq.filter fun (g, _, _) => g * 16 / 2 ^ 41 = pa / 2 ^ 41 && homeKey (offsetOf (g * 16)) == homeKey (offsetOf pa)).length

/-- An FE-qualified load or WTFE whose checks to step 9 have passed. When the granule is full it completes; otherwise it is
recorded at the home, which records 64 waiters, and the thread waits. -/
def State.fullLoad (s : State) (p : Word) (ea : Word) (pa n : Nat) (dst : LoadDest) (consume : Bool) (limit : Word) :
    Except Trouble State :=
  let t := s.th
  let s := s.settleRemote pa
  if s.sbuf.any fun e => decide (e.core = t.core) && e.overlaps (pa / 16 * 16) 16 then .error (.wait (.overlap (pa / 16 * 16) 16))
  else
    match s.tagCheck p pa with
    | .error e => .error e
    | .ok () =>
      if s.poisonHome t.cx t.thyp pa then .error (.trap 0x10 0 0 0)
      else if s.fullHome pa then
        let v := s.readHome t.cx t.thyp pa n
        let s := if s.isLocal pa then s.exchange (homeKey (offsetOf pa)) else s
        let s := if consume then s.updMem pa fun m => m.setFull (s.cellAt pa) false else s
        .ok { s with th := s.th.landLoad dst n v }
      else
        let room := s.recordedAt pa < 64
        let s := if room then { s with feq := s.feq ++ [(pa / 16, .thread t.place, consume)] } else s
        .ok (s.block (.full pa n (BitVec.ofNat 4 (bits p 60 4)) ea dst consume room limit s.insn))

/-! ### Stores -/

/-- The region whose token a write-class access of the current thread must wait for (R193); a control core is held to the same
rule (R26). -/
def State.tokenNeeded (s : State) (pa : Nat) : Option Nat :=
  if !s.localHbm pa then none
  else
    match s.regionOf s.th.core s.th.cx (offsetOf pa) with
    | none => none
    | some r => if (s.token s.th.cx r).holder = some s.th.holder then none else some r

/-- The thread sends a token request and waits (R192, R193). -/
def State.askToken (s : State) (r : Nat) (acq : Bool) (va : Word) : State :=
  let t := s.th
  let (s, w) := s.post t.key (s.tokenKey t.cx r)
  { s.block (.token r acq va) with tokmsgs := s.tokmsgs ++ [.request t.cx r t.holder t.place (!acq) w] }

/-- A granted access has performed or entered the buffer: a recall of its token may go on (R193). -/
def State.tokenUsed (s : State) (pa : Nat) : State :=
  match if s.localHbm pa then s.regionOf s.th.core s.th.cx (offsetOf pa) else none with
  | some r =>
    let k := s.token s.th.cx r
    if !k.used ∧ k.holder = some s.th.holder then s.setToken s.th.cx { k with used := true } else s
  | none => s

/-- Whether an access under a hypothesis must wait for a version slot (R262). -/
def State.versionBlocked (s : State) (pa : Nat) : Bool :=
  let h := s.th.thyp
  s.localHbm pa && hypNum h != 0 && s.openHyp s.th.cx h && (s.version s.th.cx (offsetOf pa / 64) h).isNone &&
    !(s.promised.contains (s.th.cx, offsetOf pa / 64, h)) && !s.versionRoom (offsetOf pa / 64)

/-- The version a write under a hypothesis will perform on exists afterwards (R262). -/
def State.openVersion (s : State) (pa : Nat) : State :=
  if s.localHbm pa ∧ hypNum s.th.thyp ≠ 0 ∧ s.openHyp s.th.cx s.th.thyp then
    s.makeVersion s.th.cx s.th.thyp (offsetOf pa / 64)
  else s

/-- Whether all four store-buffer entries of the thread's slot are in use (R85). -/
def State.bufferFull (s : State) : Bool := s.th.onBarrel && 4 ≤ (s.sbuf.filter (ofSlot s.th)).length

/-- Whether an address lies in the thread's own TCM (R155). -/
def State.ownTcm (s : State) (pa : Nat) : Bool :=
  s.th.onBarrel && s.isLocal pa && spaceOf (offsetOf pa) == .tcm && tcmSite (offsetOf pa) == s.th.site

/-- Whether the tag of a store is held at the core: its own TCM, its own cluster's scratchpad, or a copy of the line (R155). -/
def State.tagHeld (s : State) (pa : Nat) : Bool :=
  s.ownTcm pa || (s.copyHeld pa).isSome ||
    (s.th.onBarrel && s.isLocal pa && spaceOf (offsetOf pa) == .scratch && scratchCluster (offsetOf pa) == siteCluster s.th.site)

/-- The core's buffered entries of a granule perform, so that the thread's own order and what it read by forwarding hold
(R176, R202). -/
def State.settleGranule (s : State) (pa : Nat) : State :=
  s.drain fun e => decide (e.core = s.th.core) && e.pa / 16 == pa / 16

/-- The stores that a tag store of the current thread follows at its home: those of any core to the granule, checked against the
tag before it (R160). -/
def State.settleTag (s : State) (pa : Nat) : State := s.drain fun e => e.pa / 16 == pa / 16 && !e.isTag

/-- A checked store, tag store or non-returning atomic takes a buffer entry; one to the thread's own TCM, and every one of a
control core, performs at once, after the core's earlier entries of its granule, and a tag store after every store that was checked
against the tag before it (R85, R155, R160, R161, R176, R201). (DEDUCED, assumption 16) -/
def State.enter (s : State) (va : Word) (pa n v : Nat) (kind : StoreKind) : State :=
  let t := s.th
  let e : StoreEntry := { id := s.nextSt, core := t.core, slot := t.slot, ctx := t.cx, tid := t.id, hyp := t.thyp, va := va,
                          pa := pa, size := n, data := BitVec.ofNat 128 v, kind := kind, insn := s.insn,
                          pc := t.pc }
  let s := { s with nextSt := s.nextSt + 1 }
  let s := s.tokenUsed pa
  let own : Bool := match kind with | .atom _ _ _ => false | _ => s.ownTcm pa
  if t.onControl ∨ own then (if e.isTag then (s.settleGranule pa).settleTag pa else s.settleGranule pa).performEntry e
  else { s with sbuf := s.sbuf ++ [e] }

/-- What a write-class access waits for before it takes an entry: a token, a version slot, a buffer entry. -/
def State.storeWait (s : State) (va : Word) (pa : Nat) : Option State :=
  match s.tokenNeeded pa with
  | some r => some (s.askToken r false va)
  | none =>
    if s.versionBlocked pa then some (s.block (.version pa))
    else if s.bufferFull then some (s.block (.buffer pa))
    else none

/-- A store of `n` bytes whose checks to step 9 have passed: step 10, then a buffer entry (R155, R160). (DEDUCED, assumption 13) -/
def State.storeAt (s : State) (p ea : Word) (pa n v : Nat) (kind : StoreKind) : Except Trouble State :=
  match s.tagCheck p pa with
  | .error e => .error e
  | .ok () =>
    match s.storeWait ea pa with
    | some w => .ok w
    | none =>
      let s := if s.tagHeld pa ∨ !s.isLocal pa then s else s.exchange (homeKey (offsetOf pa))
      .ok ((s.openVersion pa).enter ea pa n v kind).advance

/-! ### Atomics (R199 to R204) -/

/-- Before an atomic is sent, the core writes back its dirty copy of the line and gives up every copy of it, whichever context's
(R201). -/
def State.evictFor (s : State) (pa : Nat) : State :=
  if s.localHbm pa then
    s.flushLines fun x => decide (x.core = s.th.core) && x.line == offsetOf pa / 64
  else s

/-- A returning atomic whose checks to step 9 have passed: steps 10 and 11 at the home, then the operation (R202, R203); the
old value and the flags. -/
def State.atomAt (s : State) (p : Word) (pa : Nat) (op : AtomOp) (z : AtomSize) (b expect : Word) :
    Except Trouble (State × Nat × Flags) :=
  let t := s.th
  let s := (s.settleGranule pa).evictFor pa
  match s.atomCheck t.cx t.thyp p pa with
  | some (cause, found) =>
    .error (.trap cause 0 (if cause = 0x0F then BitVec.ofNat 4 (bits p 60 4) else 0) (BitVec.ofNat 4 found))
  | none =>
    let s := if s.isLocal pa then s.exchange (homeKey (offsetOf pa)) else s
    let s := (s.openVersion pa).tokenUsed pa
    let n := 8 * atomBytes z
    .ok (s.applyAtom t.cx t.thyp pa op z (b.toNat % 2 ^ n) (expect.toNat % 2 ^ n))

/-! ### Walking the tables (R150, R151, R153, R154) -/

/-- What a walk does with the entry it has read. -/
inductive WalkStep
  | table (pa : Nat)
  | leaf (e : Word)
  | fill
  | fault (cause : Nat)
  deriving DecidableEq, Repr

/-- Whether an entry with FILL 1 names a page that a hardware fill may write (R154). (DESIGN CHOICE, assumption 15) -/
def State.fillFit (s : State) (e : Word) : Bool :=
  pteAddr e % 65536 == 0 && s.isLocal (pteAddr e) && spaceOf (offsetOf (pteAddr e)) != .device && spaceOf (offsetOf (pteAddr e)) != .none

/-- The next step of a walk at a level, from the entry there. -/
def State.walkStep (s : State) (c : Fin 16) (level : Nat) (e : Word) : WalkStep :=
  if pteV e then
    if s.malformed level e then .fault 0x0A else if pteLeaf e then .leaf e else .table (pteAddr e)
  else if level = 3 ∧ pteFill e then
    if !s.fillFit e then .fault 0x0A
    else if s.hardware c .pf ∧ bit (s.reg (cxpeerAt c)) 63 then .fill
    else .fault 0x09
  else .fault 0x09

/-- The entry of a level, read committed at its home (R151). A CXROOT.BASE with the ID of another module names a table there: the spec
says that tables are local and gives such a base no outcome, and the model reads that module's memory.
(DESIGN CHOICE, assumption 15) -/
def State.walkRead (s : State) (level table va : Nat) : Word := BitVec.ofNat 64 (s.readHome 0 0 (walkEntry level table va) 8)

/-- The whole walk for an address, without effects: the domain physical address or the cause (R253). -/
def State.walkAll (s : State) (c : Fin 16) (va : Nat) : Nat → Nat → Nat → Except Nat Nat
  | 0, _, _ => .error 0x09
  | n + 1, level, table =>
    match s.walkStep c level (s.walkRead level table va) with
    | .table pa => s.walkAll c va n (level + 1) pa
    | .leaf e => .ok (pteAddr e + va % 2 ^ leafLog level)
    | .fill => .error 0x09
    | .fault cause => .error cause

/-- The virtual address of an access that may wait for long after its translation: on a full-empty bit, a region token, a
hardware fill or a remote module. -/
def Wait.longVa : Wait → Option Word
  | .full _ _ _ va _ _ _ _ _ => some va
  | .token _ _ va => some va
  | .fill _ va => some va
  | .remote _ _ va _ => some va
  | _ => Option.none

/-- Whether an entry of a core's TLB translates an address of a context. -/
def TlbEntry.holds (e : TlbEntry) (core : CoreId) (c : Fin 16) (va : Nat) : Bool :=
  decide (e.owner = .core core) && e.ctx = c && e.va == va / 2 ^ e.log2 * 2 ^ e.log2

/-- The accesses that wait, translated, at an address for which `f` holds of their core and context (R153). -/
def State.waitingAt (s : State) (f : CoreId → Fin 16 → Nat → Bool) : List (Fin 16 × Place × Wait) :=
  s.threads.filterMap fun t =>
    match t.wait.longVa with
    | some va => if t.st = .wait ∧ !t.supervisor ∧ f t.core t.cx (bits va 0 52) then some (t.cx, t.place, t.wait) else none
    | none => none

/-- Entries of TLBs and translation caches go; what waits with a translation that a TLBINV has invalidated is remembered until it has
performed (R153). -/
def State.dropTlb (s : State) (p : TlbEntry → Bool) : State :=
  { s with tlb := s.tlb.filter fun e => !p e,
           inval := s.inval ++ s.waitingAt fun core c va => s.tlb.any fun e => p e && e.stale && e.holds core c va }

/-- Puts a translation in a core's TLB of 1,024 entries, or in a streamer's translation cache (R153). -/
def State.tlbAdd (s : State) (e : TlbEntry) : State :=
  let mine := s.tlb.filter fun x => decide (x.owner = e.owner)
  let s := if 1024 ≤ mine.length then (match mine with | x :: _ => s.dropTlb fun y => decide (y = x) | [] => s) else s
  { s with tlb := s.tlb ++ [e] }

/-- Whether a fill from the context's peer can be made now (R154). -/
def State.fillOpen (s : State) (c : Fin 16) : Bool := s.routeTo (bits (s.reg (cxpeerAt c)) 0 11)

/-- The whole walk of the current thread for an address, from a level and table on: the translation joins the core's TLB, or what
stops the walk (R150, R153, R154). -/
def State.walkNow (s : State) (addr : Word) (va : Nat) : Nat → Nat → Nat → Except Trouble State
  | 0, _, _ => .error (.page 0x09 0)
  | n + 1, level, table =>
    let k := walkEntry level table va
    let e := s.walkRead level table va
    let s := s.exchange (homeKey (offsetOf k))
    match s.walkStep s.th.cx level e with
    | .table pa => s.walkNow addr va n (level + 1) pa
    | .leaf e =>
      let m := leafLog level
      .ok (s.tlbAdd { owner := .core s.th.core, ctx := s.th.cx, va := va / 2 ^ m * 2 ^ m, log2 := m, leaf := e, stale := false })
    | .fill => if s.fillOpen s.th.cx then .error (.wait (.fill k addr)) else .error (.page 0x09 3)
    | .fault cause => .error (.page cause level)

/-- A hardware fill of a page's entry is under way; accesses to the page wait for the same one (R154). -/
def State.askFill (s : State) (c : Fin 16) (k va : Nat) : State :=
  s.updCtx c fun x => { x with fills := if x.fills.any fun f => f.1 = k then x.fills else x.fills ++ [(k, va / 65536 * 65536)] }

end Sys2Proof.Machine
end

