-- ==== Sys2Proof/Machine/Operands.lean ====
section
/-!
DEFINITION. Sys2Proof/Machine/Operands.lean: the operand forms: immediates, bit fields, branch targets, effective addresses,
rounding fields, floating-point sources and the qualifiers of loads and stores (R35, R41, R45 to R47, R92 to R101, R113, R144).
-/
namespace Sys2Proof.Machine

/-- A sign-extended 15-bit immediate (R92). -/
def sImm (i : BitVec 15) : Word := i.signExtend 64

/-- A zero-extended 15-bit immediate (R92). -/
def zImm (i : BitVec 15) : Word := i.setWidth 64

/-- The target of a branch or jump from `pc` by a signed word offset (R99, R100). -/
def branchTarget {w : Nat} (pc : Addr) (o : BitVec w) : Addr := pc + o.signExtend 52 * 4

/-- The address after the instruction, zero-extended, as a link (R100). -/
def linkOf (pc : Addr) : Word := (pc + 4).setWidth 64

/-- The target of JALR (R101). -/
def jalrTarget (a : Word) (i : BitVec 15) : Addr := (a + sImm i).setWidth 52

/-- Field width of BFX and BFI, from the encoded width less 1 (R41, R94). -/
def fieldWidth (w : BitVec 6) : Nat := w.toNat + 1

/-- BFX (R94). -/
def extractField (a : Word) (p n : Nat) (signed : Bool) : Word :=
  let v := BitVec.ofNat n (bits a p n)
  if signed then v.signExtend 64 else v.setWidth 64

/-- LUI (R95). -/
def luiValue (i : BitVec 20) : Word := (i ++ (0 : BitVec 12)).signExtend 64

/-- LUIH (R95). -/
def luihValue (d : Word) (i : BitVec 20) : Word := setBits d 32 32 i.toNat

/-- ADPC (R95). -/
def adpcValue (pc : Addr) (i : BitVec 20) : Word := (branchTarget pc i).setWidth 64

/-- LEA (R96). -/
def leaValue (a b : Word) (s : Nat) : Word := setBits a 0 52 ((a + b <<< s).toNat)

/-- The effective address of an M-format access of scale `sc` (R11, R144). -/
def effective (p : Word) (o : BitVec 12) (sc : Nat) : Nat :=
  ((p.setWidth 52 : BitVec 52) + o.signExtend 52 * BitVec.ofNat 52 sc).toNat

/-- The address operand of an atomic, ring or token instruction: bits 51:0 of the register (R192, R199, R211). -/
def plainAddress (p : Word) : Nat := bits p 0 52

/-- The rounding mode of a code of R125; the reserved codes never stand in TMODE (R126). -/
def roundOfCode (c : Nat) : Round :=
  match c with
  | 2 => .rtz | 3 => .rup | 4 => .rdn | 5 => .rna | _ => .rne

/-- TMODE.RM (R126). -/
def State.roundMode (s : State) : Round := roundOfCode (bits s.th.tmode 0 3)

/-- The mode of a rounding field (R45, R126). -/
def State.roundField (s : State) : RmField → Round
  | .dyn => s.roundMode
  | .rne => .rne | .rtz => .rtz | .rup => .rup | .rdn => .rdn | .rna => .rna

/-- TMODE.FZ (R126). -/
def State.fz (s : State) : Bool := bit s.th.tmode 3

/-- The low bits of a floating-point register, in an instruction's type (R113). -/
def State.fbits (s : State) (t : FType) (r : Reg) : Nat := bits (s.fr r) 0 (fmtOf t).width

/-- A floating-point source as a datum, read as it is (R113). -/
def State.fdatum (s : State) (t : FType) (r : Reg) : Datum := unpack (fmtOf t) (s.fbits t r)

/-- A floating-point source of an instruction of R131: with FZ a subnormal reads as a zero of its sign (R132). -/
def State.fsource (s : State) (t : FType) (r : Reg) : Datum :=
  if s.fz then (s.fdatum t r).flush (fmtOf t) else s.fdatum t r

/-- The value of an integer source of a conversion (R114). -/
def intSource (ty : IntType) (a : Word) : Int :=
  let x := BitVec.ofNat (intWidth ty) a.toNat
  if intSigned ty then x.toInt else x.toNat

def loadFull : LoadQual → Bool
  | .fek => true | .fec => true | _ => false

def loadConsumes : LoadQual → Bool
  | .fec => true | _ => false

def loadNt : LoadQual → Bool
  | .nt => true | _ => false

def storeFull : StoreQual → Bool
  | .fes => true | _ => false

def storeKindOf : StoreQual → StoreKind
  | .plain => .plain | .fes => .fes | .nt => .nt

/-- What a load of `n` bytes asks of the checks; `reg` for an LD.D, which may name a device register (R145, R149, R155,
R156). -/
def loadReq (n : Nat) (q : LoadQual) (reg : Bool) : Req :=
  { align := n, need := if loadConsumes q then 2 else 1, rd := true, wr := loadConsumes q, full := loadFull q,
    write := loadConsumes q, reg := reg, store := false, port := false, mig := true }

/-- What a store of `n` bytes asks of the checks; `reg` for an ST.D, `port` for an STP, which may name a command port. -/
def storeReq (n : Nat) (q : StoreQual) (reg port : Bool) : Req :=
  { align := n, need := 2, rd := false, wr := true, full := storeFull q, write := true, reg := reg, store := true,
    port := port && !storeFull q, mig := true }

/-- What an atomic asks of the checks (R203), or a ring instruction (R212). -/
def atomReq (n : Nat) : Req :=
  { align := n, need := 2, rd := true, wr := true, full := false, write := true, reg := false, store := false, port := false,
    mig := false }

/-- What TGLD and TGST ask of the checks (R161). -/
def tagReq (store : Bool) : Req :=
  { align := 16, need := if store then 3 else 1, rd := !store, wr := store, full := false, write := store, reg := false,
    store := store, port := false, mig := false }

/-- What PREF, CFLS, CINV and the reads of TBLD ask of the checks (R145, R166). (DESIGN CHOICE, assumption 14) -/
def cacheReq (align : Nat) (wr : Bool) : Req :=
  { align := align, need := if wr then 2 else 1, rd := !wr, wr := wr, full := false, write := false, reg := false, store := false,
    port := false, mig := false }

end Sys2Proof.Machine
end

