-- ==== Sys2Proof/Machine/Flags.lean ====
section
/-!
DEFINITION. Sys2Proof/Machine/Flags.lean: raising floating-point flags in TFLAGS and CFLAGS, and the turns forfeited to the
normaliser (R127 to R132).
-/
namespace Sys2Proof.Machine

/-- The turns forfeited for subnormal sources of an instruction of R131 (R131, R132). -/
def State.normTurns (s : State) (t : FType) (rs : List Reg) : Nat :=
  if !s.fz ∧ rs.any (fun r => isSubnormal (fmtOf t) (s.fbits t r)) then 4 else 0

/-- Completes a floating-point instruction that writes f[d] with flags, then forfeits turns (R113, R128, R143). -/
def doneFloat (s : State) (d : Reg) (x : Nat × Flags) (turns : Nat) : Result :=
  .next (forfeit turns ((s.setF d (BitVec.ofNat 64 x.1)).raiseFlags x.2).advance)

/-- Completes a floating-point instruction that writes g[d] with flags, then forfeits turns. -/
def doneInt (s : State) (d : Reg) (v : Word) (fl : Flags) (turns : Nat) : Result :=
  .next (forfeit turns ((s.setG d v).raiseFlags fl).advance)

end Sys2Proof.Machine
end

