-- ==== Sys2Proof/Machine/FloatOps.lean ====
section
/-!
DEFINITION. Sys2Proof/Machine/FloatOps.lean: the floating-point and table instructions of threads (R131 to R143).
-/
namespace Sys2Proof.Machine

/-- Forfeited turns of a division or square root: 8, 5 or 3 turns in all (R143). -/
def divTurns : FType → Nat
  | .f64 => 7 | .f32 => 4 | _ => 2

def execFadd (t : FType) (d a b : Reg) (r : RmField) (s : State) : Result :=
  doneFloat s d (addData (fmtOf t) (s.roundField r) s.fz (s.fsource t a) (s.fsource t b)) (s.normTurns t [a, b])
def execFsub (t : FType) (d a b : Reg) (r : RmField) (s : State) : Result :=
  doneFloat s d (addData (fmtOf t) (s.roundField r) s.fz (s.fsource t a) (s.fsource t b).neg) (s.normTurns t [a, b])
def execFmul (t : FType) (d a b : Reg) (r : RmField) (s : State) : Result :=
  doneFloat s d (mulData (fmtOf t) (s.roundField r) s.fz (s.fsource t a) (s.fsource t b)) (s.normTurns t [a, b])
def execFdiv (t : FType) (d a b : Reg) (r : RmField) (s : State) : Result :=
  doneFloat s d (divData (fmtOf t) (s.roundField r) s.fz (s.fsource t a) (s.fsource t b)) (divTurns t + s.normTurns t [a, b])
def execFsqrt (t : FType) (d a : Reg) (r : RmField) (s : State) : Result :=
  doneFloat s d (sqrtData (fmtOf t) (s.roundField r) s.fz (s.fsource t a)) (divTurns t + s.normTurns t [a])

def execFmin (t : FType) (d a b : Reg) (s : State) : Result :=
  doneFloat s d (minMax (fmtOf t) true (s.fbits t a) (s.fbits t b)) 0
def execFmax (t : FType) (d a b : Reg) (s : State) : Result :=
  doneFloat s d (minMax (fmtOf t) false (s.fbits t a) (s.fbits t b)) 0

/-- `x` with its sign bit replaced. -/
def withSign (f : Fmt) (x : Nat) (neg : Bool) : Nat := x % 2 ^ (f.fb + f.eb) + signBit f neg

/-- The sign bit of a bit pattern. -/
def signOf (f : Fmt) (x : Nat) : Bool := x / 2 ^ (f.fb + f.eb) % 2 == 1

def execFabs (t : FType) (d a : Reg) (s : State) : Result :=
  doneFloat s d (withSign (fmtOf t) (s.fbits t a) false, 0) 0
def execFneg (t : FType) (d a : Reg) (s : State) : Result :=
  doneFloat s d (withSign (fmtOf t) (s.fbits t a) (!signOf (fmtOf t) (s.fbits t a)), 0) 0
def execFsgn (t : FType) (d a b : Reg) (s : State) : Result :=
  doneFloat s d (withSign (fmtOf t) (s.fbits t a) (signOf (fmtOf t) (s.fbits t b)), 0) 0

def execFeq (t : FType) (d a b : Reg) (s : State) : Result :=
  let (v, fl) := compareEq (s.fdatum t a) (s.fdatum t b)
  doneInt s d (Word.ofBool v) fl 0
def execFlt (t : FType) (d a b : Reg) (s : State) : Result :=
  let (v, fl) := compareLt (s.fdatum t a) (s.fdatum t b)
  doneInt s d (Word.ofBool v) fl 0
def execFle (t : FType) (d a b : Reg) (s : State) : Result :=
  let (v, fl) := compareLe (s.fdatum t a) (s.fdatum t b)
  doneInt s d (Word.ofBool v) fl 0
def execFcls (t : FType) (d a : Reg) (s : State) : Result :=
  doneInt s d (BitVec.ofNat 64 (classMask (fmtOf t) (s.fbits t a))) 0 0

def execFfma (t : FType) (d a b c : Reg) (s : State) : Result :=
  doneFloat s d (fmaData (fmtOf t) s.roundMode s.fz (s.fsource t a) (s.fsource t b) (s.fsource t c)) (s.normTurns t [a, b, c])
def execFfms (t : FType) (d a b c : Reg) (s : State) : Result :=
  doneFloat s d (fmaData (fmtOf t) s.roundMode s.fz (s.fsource t a) (s.fsource t b) (s.fsource t c).neg)
    (s.normTurns t [a, b, c])

def execFcvt (t : FType) (d a : Reg) (src : FType) (r : RmField) (s : State) : Result :=
  doneFloat s d (convert (fmtOf t) (s.roundField r) s.fz (s.fsource src a)) (s.normTurns src [a])
def execFcvi (t : FType) (d a : Reg) (ty : IntType) (r : RmField) (s : State) : Result :=
  let (n, fl) := toInteger (intWidth ty) (intSigned ty) (s.roundField r) (s.fsource t a)
  doneInt s d (BitVec.ofInt 64 n) fl (s.normTurns t [a])
def execIcvf (t : FType) (d a : Reg) (ty : IntType) (r : RmField) (s : State) : Result :=
  doneFloat s d (fromInteger (fmtOf t) (s.roundField r) false (intSource ty (s.gr a))) 0
def execFrnd (t : FType) (d a : Reg) (r : RmField) (s : State) : Result :=
  doneFloat s d (roundIntegral (fmtOf t) (s.roundField r) s.fz (s.fsource t a)) (s.normTurns t [a])
def execFscl (t : FType) (d a b : Reg) (r : RmField) (s : State) : Result :=
  doneFloat s d (scaleBy (fmtOf t) (s.roundField r) s.fz (s.gr b).toInt (s.fsource t a)) (s.normTurns t [a])
def execMvgf (t : FType) (d a : Reg) (s : State) : Result :=
  doneFloat s d (bits (s.gr a) 0 (fmtOf t).width, 0) 0
def execMvfg (t : FType) (d a : Reg) (s : State) : Result :=
  doneInt s d (BitVec.ofNat 64 (s.fbits t a)) 0 0

/-- The thread copy of a decode table of the thread's core; a control core has none and uses one never loaded (R116, R120).
(DEDUCED, assumption 13) -/
def State.threadTable (s : State) (n : Fin 4) : Table := if s.th.onBarrel then (s.site s.th.site).tables[n] else none

def execTenc (t : FType) (d a : Reg) (n : Fin 4) (s : State) : Result :=
  let (c, fl) := encodeC8 (s.threadTable n) (s.fsource t a)
  doneInt s d (BitVec.ofNat 64 c) fl (s.normTurns t [a])
def execTdec (d a : Reg) (n : Fin 4) (s : State) : Result :=
  doneFloat s d ((tableEntry (s.threadTable n) ((s.gr a).setWidth 8)).toNat, 0) 0

/-! ### TBLD (R141) -/

/-- TBLD: a misaligned address traps; otherwise the image is being read and TBLD_COMPLETE ends it (R141). One that ran before and waited
for a page fill keeps its order of issue (R120, R154). -/
def execTbld (a : Reg) (n : Fin 4) (s : State) : Result :=
  let p := s.gr a
  if bits p 0 6 ≠ 0 then trapWith s 0x05 p 0
  else
    let (s, k) := s.tick
    .next (s.block (.table n p (if s.th.tseq = 0 then k + 1 else s.th.tseq) []))

/-- What the reads of a TBLD ask of the checks; one from another module waits in the TBLD itself (R141, R145). -/
def tableReq : Req := { cacheReq 1 false with posted := true }

/-- One granule of a table image, with the address and page that its check has given (R85, R141): where an entry of the core over it may
not be forwarded, every one over it performs first. -/
def State.tableLoad (s : State) (p : Word) (ea pa : Nat) : Except (Trouble × Nat) (State × BitVec 128) :=
  let lap (e : StoreEntry) : Bool := decide (e.core = s.th.core) && e.overlaps pa 16
  let s := if s.sbuf.any fun e => lap e && !e.forwards s.th.cx s.th.thyp then s.drain lap else s
  match s.loadAt p pa 16 true with
  | .error e => .error (e, ea)
  | .ok r => .ok r

/-- The address of a granule of a table image. -/
def tableAddr (p : Word) (i : Nat) : Nat := (plainAddress p + 16 * i) % 2 ^ 52

/-- Reads one granule of a table image with the checks of a plain load; a TLB miss is walked within the TBLD, which nothing
interrupts (R141, R153). -/
def State.tableGranule (s : State) (p : Word) (i : Nat) : Except (Trouble × Nat) (State × BitVec 128) :=
  let ea := tableAddr p i
  match s.check p ea tableReq with
  | .ok pa => s.tableLoad p ea pa
  | .error (.wait (.walk _ va level table _)) =>
    match s.walkNow (withTop p ea) va 4 level table with
    | .error e => .error (e, ea)
    | .ok s =>
      match s.check p ea tableReq with
      | .ok pa => s.tableLoad p ea pa
      | .error e => .error (e, ea)
  | .error e => .error (e, ea)

/-- The 64-byte read of a table image that holds granule `i` has passed its checks: one read for watchpoints (R159, R168). -/
def State.tableTouch (s : State) (p : Word) (i : Nat) : State :=
  let ea := tableAddr p (i / 4 * 4)
  match s.check p ea tableReq with
  | .ok pa => s.threadTouch s.insn (withTop p ea) pa 64 true false false
  | .error _ => s

/-- Whether the four granules of the 64-byte read that holds granule `i` are all among those read. -/
def lineRead (got : Sparse (BitVec 128)) (i : Nat) : Bool :=
  (List.range 4).all fun k => got.any fun g => g.1 = i / 4 * 4 + k

/-- The granules of a table image from granule `i` up: those already read, and the others now; each line that this completes is a read
for watchpoints, those before a fault too (R141, R168). -/
def State.tableRead (s : State) (p : Word) (got : Sparse (BitVec 128)) :
    Nat → Nat → List (BitVec 128) → State × Except (Trouble × Nat) (List (BitVec 128))
  | 0, _, acc => (s, .ok acc)
  | k + 1, i, acc =>
    let last (s : State) : State := if i % 4 = 3 ∧ !lineRead got i then s.tableTouch p i else s
    match got.find? fun g => g.1 = i with
    | some g => (last s).tableRead p got k (i + 1) (acc ++ [g.2])
    | none =>
      match s.tableGranule p i with
      | .error e => (s, .error e)
      | .ok (s, v) => (last s).tableRead p got k (i + 1) (acc ++ [v])

/-- A TBLD under way at a place reads one granule of its image now; the stores of other agents before and after may therefore be seen
in some granules and not in others. A granule whose check fails is read again when the TBLD ends (R141, R175).
(DESIGN CHOICE, assumption 21) -/
def State.tableStep (s : State) (p : Place) (i : Nat) : State :=
  match s.focus p with
  | none => s
  | some t =>
    match t.th.wait with
    | .table n a k got =>
      if i < 64 ∧ !(got.any fun g => g.1 = i) then
        match t.tableGranule a i with
        | .ok (u, v) =>
          let got := tput true got i v
          let u := { u with th := { u.th with wait := .table n a k got } }
          if lineRead got i then u.tableTouch a i else u
        | .error _ => s
      else s
    | _ => s

/-- The 256 words of an image (R118). -/
def imageWords (l : List (BitVec 128)) : List (BitVec 32) :=
  l.flatMap fun x => [x.extractLsb' 0 32, x.extractLsb' 32 32, x.extractLsb' 64 32, x.extractLsb' 96 32]

/-- Installs a table: the thread copy at once, the page copy too when no instance has a page there, else at its next segment
boundary. A table issued before the one in the slot leaves that one, the later (R120). -/
def State.installTable (s : State) (site : Nat) (n : Fin 4) (seq : Nat) (v : Vector (BitVec 19) 256) : State :=
  let x := s.site site
  if seq < x.issued[n] then s
  else
    let busy := s.insts.any fun i => i.sites.contains site
    let x := { x with tables := x.tables.set n (some v),
                      pages := if busy then x.pages else x.pages.set n (some v),
                      waitPg := x.waitPg.set n busy,
                      issued := x.issued.set n seq }
    s.setSite site x

/-- The end of the current thread's TBLD: the image is checked and the table built, or the fault is taken (R117, R141). A page that the
device fills is waited for, and the TBLD then runs again with its order of issue (R154); while the flush of R197 is awaited the TBLD
goes on waiting. (DESIGN CHOICE, assumption 21) -/
def State.tableFinish (s : State) (n : Fin 4) (p : Word) (seq : Nat) (got : Sparse (BitVec 128)) : State :=
  let t := s.th
  let ready := { s with th := { t with st := .run, wait := .none, tseq := 0 } }
  match ready.tableRead p got 64 0 [] with
  | (s, .error (.trap cause detail e f, ea)) => s.deliver (s.recordOf cause (withTop p ea) detail e f)
  | (s, .error (.page cause level, ea)) => s.pageFault cause level (withTop p ea)
  | (s, .error (.wait (.fill k _), ea)) =>
    let w := (s.askFill t.cx k ea).block (.fill k (withTop p ea))
    { w with th := { w.th with tseq := seq } }
  | (_, .error (.wait _, _)) => s
  | (_, .error (.migrate _, _)) => s
  | (s, .ok l) =>
    let ws := imageWords l
    match ws.findIdx? fun w => bits w 19 13 ≠ 0 with
    | some c => s.deliver (s.recordOf 0x14 (withTop p (plainAddress p + 4 * c)) 0 0 0)
    | none =>
      if ws.any fun w => isFinite19 (w.setWidth 19) then
        let v : Vector (BitVec 19) 256 := Vector.ofFn fun i => (ws.getD i 0).setWidth 19
        let s := if t.onBarrel then s.installTable t.site n seq v else s
        s.advance
      else s.deliver (s.recordOf 0x14 p 0 0 0)

/-- Whether a table load of the same slot of the same core was issued before the one numbered `k` and has not ended (R120). -/
def State.earlierTable (s : State) (core : CoreId) (n : Fin 4) (k : Nat) : Option Thread :=
  s.threads.find? fun t => decide (t.core = core) && t.resident &&
    match t.wait with | .table m _ j _ => m == n && decide (j < k) | _ => false

/-- Ends the table loads of a thread's slot that were issued before its own, and its own; a flush of R197 that would hold their reads
ends first (R105, R120, R141). (DESIGN CHOICE, assumption 21) -/
def State.settleTable (s : State) (p : Place) : Nat → State
  | 0 => s
  | f + 1 =>
    match s.focus p with
    | none => s
    | some s =>
      match s.th.wait with
      | .table n a k got =>
        match s.earlierTable s.th.core n k with
        | some u => (s.settleTable u.place f).settleTable p f
        | none => s.endFlushes.tableFinish n a k got
      | _ => s

end Sys2Proof.Machine
end

