-- ==== Sys2Proof/Machine/Sched.lean ====
section
/-!
DEFINITION. Sys2Proof/Machine/Sched.lean: pre-emption and context halts (R105, R208, R233), fence points, acquire parts held
until a flush is acknowledged (R197), the walk of the page tables level by level (R150 to R154), and the landing of threads
in slots (R80, R82, R197, R235, R249).
-/
namespace Sys2Proof.Machine

/-- Saves the thread at a place, if one is resident there and not in DRAIN, at its issue-turn boundary; its table load
completes first (R105, R233). -/
def State.preempt (s : State) (p : Place) : State :=
  let s := s.settleTable p (2 * s.rest.length + 2)
  match s.focus p with
  | some s => if s.th.onBarrel && s.th.st != .drain then s.saveTh else s
  | none => s

/-- Every resident thread of a context is saved and the context is halted (R208). (DEDUCED, assumption 19) -/
def State.haltContext (s : State) (c : Fin 16) : State :=
  let l := (s.threads.filter fun t => t.onBarrel && t.ctx = c && t.st != .drain).map fun t => (t.place, t.tid)
  let s := l.foldl (fun s (p, tid) => (s.preempt p).updThread (.saved c tid) fun t => { t with halted := true }) s
  s.updCtx c fun x => { x with halted := true }

/-- Whether a reduction fault is pending in a context (R206). -/
def State.pendingFault (s : State) (c : Fin 16) : Bool := bit (s.reg (rlogctlAt c)) 63

/-- The release part at a fence point and what follows it; with a reduction fault pending, the context halts and the thread is
saved with TPC at the instruction (R178, R181, R208). -/
def atFence (s : State) (sc : Scope) (k : State → Result) : Result :=
  let s := s.releaseTo sc
  if s.th.onBarrel && s.pendingFault s.th.ctx then .next (s.haltContext s.th.ctx) else k s

/-- An instruction with an acquire effect waits while the flush of the core that its thread left is not acknowledged (R197). -/
def acquiring (s : State) (k : State → Result) : Result := if s.awaitsFlush then .next (s.block .flush) else k s

/-- The translation of an address of the current thread, from its TLB or by a walk (R253). -/
def State.lookAt (s : State) (va : Nat) : Except Nat Nat :=
  let root := s.reg (cxrootAt s.th.cx)
  if !bit root 0 then .error 0x09
  else
    match s.tlbFind s.th.core s.th.cx va with
    | some e => .ok (pteAddr e.leaf + va % 2 ^ e.log2)
    | none => s.walkAll s.th.cx va 4 0 (bits root 16 36 * 65536)

/-! ### Landing (R80, R82, R170, R197, R235) -/

/-- A free slot of a site that may take a landing: EMPTY and not reserved. -/
def State.openSlot (s : State) (n : Fin 1024) : Option (Fin 16) :=
  (List.finRange 16).find? fun k => s.slotEmpty n k && !bit (s.site n).reserve k

/-- The threads resident on a site. -/
def State.residents (s : State) (n : Fin 1024) : List Thread :=
  s.threads.filter fun t => match t.place with | .slot m _ => m = n | _ => false

/-- The tokens that a thread was handed while it stood nowhere have its core as holding site from its landing on (R194). -/
def State.siteTokens (s : State) (c : Fin 16) (tid : BitVec 24) (core : CoreId) : State :=
  let land (k : Token) : Token := if k.holder = some (.thread tid) ∧ k.site = none then { k with site := some core } else k
  s.updCtx c fun x => { x with tokens := x.tokens.map land }

/-- A thread stands in a slot in state LOAD. When it left another core, MOV is set and that core's flush of the context begins, and
the tokens it was handed meanwhile wait for its end (R82, R194, R197, R249). A thread that lands again finds no clean copy that may be
older than what it stored elsewhere (R176); one that starts here, by a launch or a door payload, happens after what its launch or token
carries, so that its core keeps no clean copy that may be older than that (R30, R181). -/
def State.settleIn (s : State) (t : Thread) (n : Fin 1024) (k : Fin 16) : State :=
  let p : Place := .slot n k
  let (s, seq) := s.tick
  let moved := match t.old with | some m => m ≠ n | none => false
  let s := if t.old.isSome then s.dropClean (.site n) t.ctx else s
  let s := s.addThread { t with place := p, st := .load, wait := .image, pass := false, landed := seq, ready := none, old := none,
                                mov := t.mov || moved, halted := false }
  match t.old with
  | some m => if m ≠ n then
                let (s, w) := s.post (siteKey n) (siteKey m)
                { s with flushes := s.flushes ++ [{ target := .site m, ctx := t.ctx, tid := t.tid, place := p, auto := true, way := w }] }
              else s.siteTokens t.ctx t.tid (.site n)
  | none => s.acquireFor { t with place := p }

/-- The arrival records, MOV, pending signals and launch priority of an image (R237). -/
def Thread.loadIds (t : Thread) (w : List Word) : Thread :=
  let at_ (off : Nat) : Word := w.getD (off / 8) 0
  let ids := at_ 0x278
  { t with aph := Vector.ofFn fun i : Fin 4 => BitVec.ofNat 32 (bits (at_ (0x268 + i.val / 2 * 8)) (i.val % 2 * 32) 32),
           av := Vector.ofFn fun i : Fin 4 => bit ids i.val, mov := bit ids 4, sigs := BitVec.ofNat 16 (bits ids 16 16),
           prio := BitVec.ofNat 3 (bits ids 56 3) }

/-- A saved thread as its save record holds it (R235). -/
def State.savedThread (s : State) (t : Thread) : Thread :=
  let w := s.readWords (s.localPa t.save) 80
  { (t.loadImage w).loadIds w with held := none }

/-- The trap area of a thread in a handler follows it to its new slot (R235). -/
def State.moveTrap (s : State) (t : Thread) (n : Fin 1024) (k : Fin 16) : State :=
  s.writeWords t.ctx (s.localPa (trapArea n k)) (s.readWords (s.localPa (t.save + 0x400)) 128)

/-- A saved thread lands again: its image is restored from its save record, and in a handler the trap area and g31 follow it
to the new slot (R235). -/
def State.resume (s : State) (t : Thread) (n : Fin 1024) (k : Fin 16) : State :=
  let s := s.dropThread t.place
  let t := s.savedThread t
  if t.intrap then (s.moveTrap t n k).settleIn (t.setG 31 (s.trapPointer t.ctx n k)) n k else s.settleIn t n k

end Sys2Proof.Machine
end

