-- ==== Sys2Proof/Machine/System.lean ====
section
/-!
DEFINITION. Sys2Proof/Machine/System.lean: TRAP, TRET, ERET, the state registers, time, signals, the queries, COFF and CRCC
(R223 to R256, R258 to R267).
-/
namespace Sys2Proof.Machine

/-! ### Traps and returns (R229, R241) -/

/-- A record of cause TRAP for a code; TPC then stands at the next instruction (R229). -/
def trapCode (code : Nat) (s : State) : Result :=
  let r := s.recordOf 0x03 0 (BitVec.ofNat 64 code) 0 0
  .next (s.advance.deliver r)

def execTrap (c : BitVec 11) (s : State) : Result := trapCode c.toNat s

/-- TRAP 0x800 to 0xFFE: the thread is saved and a record goes to the host trap queue; a control core takes it to its vector
(R229, R231). (DEDUCED, assumption 19) -/
def execTrapService (c : BitVec 11) (s : State) : Result :=
  let code := 0x800 + c.toNat
  if s.th.onControl then trapCode code s
  else
    let r := s.recordOf 0x03 0 (BitVec.ofNat 64 code) 0 0
    .next (s.advance.saveWith 1 r)

/-- TRET (R229); on a control core in user mode it is a TRAP of code 0xFFF. (DEDUCED, assumption 19) -/
def execTret (s : State) : Result :=
  if s.th.onControl && !s.th.sup then trapCode 0xFFF s
  else if !s.th.intrap then trapNow s 0x01
  else .next s.tret

/-- ERET: PRIV outside supervisor mode (R39, R223, R241). -/
def execEret (s : State) : Result := if s.th.supervisor then .next s.eret else trapNow s 0x02

/-! ### Thread and supervisor state (R225, R240) -/

/-- HSET, and an MTS of THYP (R225, R267): the handle must be live. -/
def setHypothesis (s : State) (v : Word) : Result :=
  let h : Handle := v.setWidth 32
  if s.liveHyp s.th.cx (canonHandle h) then done { s with th := { s.th with thyp := canonHandle h } }
  else .next (s.deliver (s.recordOf 0x1B 0 (h.setWidth 64) 0 0))

/-- A supervisor register of the running control core (R240, R242). (DESIGN CHOICE, assumption 52) -/
def State.supRead (s : State) (n : Nat) : Option Word :=
  let v := s.th.sv
  match n with
  | 0x100 => some (v.sepc.setWidth 64)
  | 0x101 => some v.scause
  | 0x102 => some v.sfaddr
  | 0x103 => some v.svec
  | 0x104 => some v.ssts
  | 0x105 => some v.sien
  | 0x106 => some (match s.th.place with | .control k => s.sipnd k | _ => 0)
  | 0x107 => some v.sscr0
  | 0x108 => some v.sscr1
  | 0x109 => some (field 0 4 v.sctx)
  | 0x10A => some v.sfrec
  | _ => none

/-- A write of a supervisor register: its reserved bits stay 0, and SIPND is read-only (R240). (DESIGN CHOICE, assumption 52) -/
def Supervisor.write (v : Supervisor) (n : Nat) (x : Word) : Option Supervisor :=
  match n with
  | 0x100 => some { v with sepc := x.setWidth 52 }
  | 0x101 => some { v with scause := flag 63 (bit x 63) ||| field 0 8 (bits x 0 8) }
  | 0x102 => some { v with sfaddr := x }
  | 0x103 => some { v with svec := field 6 46 (bits x 6 46) }
  | 0x104 => some { v with ssts := field 0 3 (bits x 0 3) }
  | 0x105 => some { v with sien := field 0 12 (bits x 0 12) }
  | 0x106 => some v
  | 0x107 => some { v with sscr0 := x }
  | 0x108 => some { v with sscr1 := x }
  | 0x109 => some { v with sctx := BitVec.ofNat 4 (bits x 0 4) |>.toFin }
  | 0x10A => some { v with sfrec := field 6 46 (bits x 6 46) }
  | _ => none

/-- The larger of the field's counter and the floor becomes the floor, and is the result (R245). -/
def readTime (s : State) (d : Reg) : Result :=
  let v := s.tnow s.th
  doneG { s with th := s.th.raise v } d v

/-- MFS (R43, R225, R240). (DESIGN CHOICE, assumption 52) -/
def execMfs (d : Reg) (n : BitVec 12) (s : State) : Result :=
  let k := n.toNat
  let t := s.th
  if 0x100 ≤ k ∧ k < 0x200 then
    if !t.supervisor then trapNow s 0x02
    else
      match s.supRead k with
      | some v => doneG s d v
      | none => trapNow s 0x01
  else
    match k with
    | 0x000 => doneG s d t.tstat
    | 0x001 => doneG s d t.tmode
    | 0x002 => doneG s d t.tflags
    | 0x003 => doneG s d (t.thyp.setWidth 64)
    | 0x004 => readTime s d
    | 0x005 => doneG s d (t.pc.setWidth 64)
    | 0x010 => doneG s d t.twa[0]
    | 0x011 => doneG s d t.twa[1]
    | 0x012 => doneG s d t.twa[2]
    | 0x013 => doneG s d t.twa[3]
    | 0x018 => doneG s d t.twc[0]
    | 0x019 => doneG s d t.twc[1]
    | 0x01A => doneG s d t.twc[2]
    | 0x01B => doneG s d t.twc[3]
    | _ => trapNow s 0x01

/-- A write of TWAn (R167). -/
def writeTwa (s : State) (n : Fin 4) (v : Word) : Result :=
  done { s with th := { s.th with twa := s.th.twa.set n (normTwa v) } }

/-- A write of TWCn; a 17th enabled watchpoint of context scope raises WATCHLIM (R167). -/
def writeTwc (s : State) (n : Fin 4) (v : Word) : Result :=
  let w := normTwc v
  if contextWatch w && decide (16 ≤ s.watchCount s.th.cx s.th.place n) then trapNow s 0x13
  else done { s with th := { s.th with twc := s.th.twc.set n w } }

/-- MTS (R43, R225, R240). (DESIGN CHOICE, assumption 52) -/
def execMts (a : Reg) (n : BitVec 12) (s : State) : Result :=
  let k := n.toNat
  let v := s.gr a
  if 0x100 ≤ k ∧ k < 0x200 then
    if !s.th.supervisor then trapNow s 0x02
    else
      match s.th.sv.write k v with
      | some sv => done { s with th := { s.th with sv := sv } }
      | none => trapNow s 0x01
  else
    match k with
    | 0x000 => done s
    | 0x001 => done { s with th := { s.th with tmode := normTmode v } }
    | 0x002 => done { s with th := { s.th with tflags := normTflags v } }
    | 0x003 => setHypothesis s v
    | 0x010 => writeTwa s 0 v
    | 0x011 => writeTwa s 1 v
    | 0x012 => writeTwa s 2 v
    | 0x013 => writeTwa s 3 v
    | 0x018 => writeTwc s 0 v
    | 0x019 => writeTwc s 1 v
    | 0x01A => writeTwc s 2 v
    | 0x01B => writeTwc s 3 v
    | _ => trapNow s 0x01

/-! ### Time and signals (R245 to R247) -/

def execTnow (d : Reg) (s : State) : Result := readTime s d

/-- Ends a timed wait of the current thread: g[d] is written and the thread goes on. -/
def endWait (s : State) (d : Reg) (v : Word) : State :=
  { s with th := { s.th with st := .run, wait := .none } }.setG d v |>.advance

/-- TWAIT at an issue turn: the signals, or TIMEOUT at the limit, else the wait goes on (R221, R247). -/
def twaitTurn (d : Reg) (limit : Word) (s : State) : Result :=
  if s.th.sigs ≠ 0 then
    acquiring s fun s =>
      let v := field 16 16 s.th.sigs.toNat
      .next ((endWait { s with th := { s.th with sigs := 0 } } d v).acquire)
  else if limit.toNat ≤ (s.tnow s.th).toNat then .next (endWait s d 1)
  else .next (s.block (.signal d limit))

def execTwait (d a : Reg) (s : State) : Result := twaitTurn d (s.gr a) s

/-- A number for an issuer of signals: a thread of a context, or a control core. -/
def Thread.issuer (t : Thread) : Nat :=
  match t.place with
  | .control i => 2 ^ 28 + i
  | _ => t.ctx * 2 ^ 24 + t.tid.toNat

/-- SIGV: the release part, then the signal is sent; one that names no live thread or no bit delivers nothing (R246). -/
def execSigv (a b : Reg) (s : State) : Result :=
  atFence s .device fun s =>
    let tid := (s.gr a).setWidth 24
    let m := (s.gr b).setWidth 16
    let c := s.th.cx
    if m = 0 ∨ (s.findTid c tid).isNone then done s
    else
      let dst := match s.findTid c tid with | some t => t.key | none => 0
      let (s, w) := s.post s.th.key dst
      let g : Signal := { who := s.th.issuer, ctx := c, tid := tid, bits := m, stamp := s.stamp s.th.key, way := w }
      done { s with signals := s.signals ++ [g] }

/-! ### Queries (R248 to R253) -/

/-- NCORE and GRADE as DEVID holds them (R4). -/
def coreCount : Nat := if Config.isAe850 then 0x352 else 0x384
def gradeCode : Nat := if Config.isAe850 then 1 else 0

/-- DEVID (R4). -/
def devidValue : Word :=
  field 48 16 0xE7D0 ||| field 40 8 1 ||| field 32 8 1 ||| field 28 4 gradeCode ||| field 24 4 Config.stepping.toNat |||
    field 0 11 coreCount

/-- Enabled cores not retired (R248, R254). (DESIGN CHOICE, assumption 6) -/
def State.live (s : State) : Nat := ((List.range 1024).filter fun n => (s.site n).enabled).length

def execQgrd (d : Reg) (s : State) : Result :=
  doneG s d (field 32 11 s.modId ||| field 28 4 gradeCode ||| field 24 4 Config.stepping.toNat ||| field 12 11 s.live |||
    field 0 11 coreCount)

/-- QTOP SITE (R249). -/
def State.siteWord (s : State) (n : Nat) : Word :=
  let st := match (s.site n).status with | .dark => 0 | .enabled => 1 | .retired => 2 | .closing => 3
  flag 63 true ||| field 61 2 st ||| field 28 2 (sitePosition n) ||| field 20 8 (siteCluster n) ||| field 16 3 (siteField n) |||
    field 5 5 (siteY n) ||| field 0 5 (siteX n)

/-- QTOP SELF (R249). A control core stands at no site: the spec gives its SITE in TSTAT alone, as 0 (R224), and the model writes 0 here
too. (DESIGN CHOICE, assumption 54) -/
def Thread.selfWord (t : Thread) : Word :=
  flag 63 t.mov ||| flag 59 t.onControl ||| field 32 24 t.id.toNat ||| field 28 4 t.cx ||| field 24 4 t.slot |||
    field 16 3 (coreField t.core) ||| field 0 10 (if t.onControl then 0 else t.site)

def execQtop (d a : Reg) (s : State) : Result :=
  match bits (s.gr a) 0 8 with
  | 0 =>
    let v := s.th.selfWord
    doneG { s with th := { s.th with mov := false } } d v
  | 1 => doneG s d (s.siteWord (bits (s.gr a) 8 10))
  | _ => doneG s d 0

/-- The speed-table word of a site; a site dark at manufacture has 0 (R250). -/
def speedWord (n : Nat) : Word :=
  if h : n < 1024 then
    if Config.darkAtManufacture ⟨n, h⟩ then 0
    else
      let c := (Config.speedCode ⟨n, h⟩).val
      flag 63 true ||| field 32 22 (1750000 + c * 31250) ||| field 8 7 (c + 56) ||| field 0 5 c
  else 0

def execQspd (d a : Reg) (s : State) : Result := doneG s d (speedWord (bits (s.gr a) 0 10))

/-- The band between two fields: the number of crossings, a corner crossing counting once (R15). -/
def bandOf (x y : Nat) : Nat :=
  let dist (a b : Nat) := if a ≤ b then b - a else a - b
  max (dist (x % 2) (y % 2)) (dist (x / 2) (y / 2))

/-- The limits of a band in ns (R15). -/
def bandMin : Nat → Nat
  | 0 => 2 | 1 => 12 | 2 => 24 | _ => 40

def bandMax : Nat → Nat
  | 0 => 8 | 1 => 24 | 2 => 40 | _ => 64

/-- The banded-latency word of an ordered pair of fields (R251). -/
def latencyWord (x y : Nat) : Word :=
  let b := bandOf x y
  field 16 8 (bandMax b) ||| field 8 8 (bandMin b) ||| field 0 2 b

def execQblt (d a b : Reg) (s : State) : Result := doneG s d (latencyWord (bits (s.gr a) 0 3) (bits (s.gr b) 0 3))

/-- Step 7 of R146 as QRNG makes it: whether an address is present, and for a device register open to the thread (R253). -/
def State.present (s : State) (pa : Nat) : Bool :=
  let o := offsetOf pa
  if s.isLocal pa then
    match spaceOf o with
    | .hbm => true
    | .scratch => s.scratchPresent (scratchCluster o)
    | .tcm => !(s.site (tcmSite o)).isDark
    | .device =>
      match devReg (o / 8 * 8) with
      | some (.port k) => k == s.th.cx
      | some r => s.regPresent r && (devAllowed s.th.onControl true r || devAllowed s.th.onControl false r)
      | none => false
    | .none => false
  else s.routeTo (pa / 2 ^ 41) && (match spaceOf o with | .hbm => true | .scratch => true | .tcm => true | _ => false)

/-- The home of a domain physical address (R253). (DEDUCED, assumption 22) -/
def State.homeWord (s : State) (pa : Nat) : Word :=
  let o := offsetOf pa
  let common := flag 63 true ||| field 48 11 (pa / 2 ^ 41)
  if s.isLocal pa then
    match spaceOf o with
    | .hbm =>
      common ||| (match s.regionOf s.th.core s.th.cx o with | some r => flag 47 true ||| field 32 12 r | none => 0) |||
        field 24 3 (stackField (stackOf o)) ||| field 0 16 (stackOf o)
    | .scratch => common ||| field 60 3 1 ||| field 24 3 (clusterField (scratchCluster o)) ||| field 0 16 (scratchCluster o)
    | .tcm => common ||| field 60 3 2 ||| field 24 3 (siteField (tcmSite o)) ||| field 0 16 (tcmSite o)
    | _ => common ||| field 60 3 3
  else common ||| field 60 3 4

/-- QRNG: steps 2, 3, 5 and 7 of R146, without faults (R253). -/
def execQrng (d a : Reg) (s : State) : Result :=
  let p := s.gr a
  let va := bits p 0 52
  let user := !s.th.supervisor
  if va < 0x10000 then doneG s d 0x06
  else if bits p 52 6 ≠ 0 then doneG s d 0x07
  else
    match if user then s.lookAt va else .ok (s.superPa va) with
    | .error cause => doneG s d (BitVec.ofNat 64 cause)
    | .ok pa => if s.present pa then doneG s d (s.homeWord pa) else doneG s d 0x0C

/-! ### Retirement and CRC (R254 to R256) -/

/-- COFF: supervisor only; ACCESS for a dark or closing site; it waits for another site's retirement to end (R254, R255). -/
def execCoff (a : Reg) (s : State) : Result :=
  let n : Fin 1024 := fin 1024 (bits (s.gr a) 0 10)
  let x := s.site n
  if !s.th.supervisor then trapNow s 0x02
  else if x.isDark ∨ x.status = .closing then trapNow s 0x0C
  else if s.retire.isSome then .next (s.block .retire)
  else
    let s := s.setSite n { x with status := .closing }
    let s := s.setReg retstatAt (setBits (setBits (s.reg retstatAt) 62 1 1) 0 10 n)
    done { s with retire := some { site := n, forced := bit (s.gr a) 16, begun := false } }

/-- One bit of CRC-32C (R256). -/
def crcBit (c : BitVec 32) (b : Bool) : BitVec 32 :=
  let t := c.getLsbD 0 ^^ b
  if t then c >>> 1 ^^^ 0x82F63B78 else c >>> 1

/-- CRC-32C over the low `n` bits of `v`, from bit `i` up. -/
def crcBits (v : Nat) : Nat → Nat → BitVec 32 → BitVec 32
  | 0, _, c => c
  | n + 1, i, c => crcBits v n (i + 1) (crcBit c (v.testBit i))

def execCrcc (d a b : Reg) (n : BitVec 3) (s : State) : Result :=
  let k := if n = 0 then 8 else n.toNat
  doneG s d ((crcBits (s.gr b).toNat (8 * k) 0 ((s.gr a).setWidth 32)).setWidth 64)

end Sys2Proof.Machine
end

