-- ==== Sys2Proof/Machine/Order.lean ====
section
/-!
DEFINITION. Sys2Proof/Machine/Order.lean: fences, region tokens, flushes, atomics, the cache and tag instructions and VISIT
(R161, R166, R171, R178, R191 to R204).
-/
namespace Sys2Proof.Machine

/-! ### Fences (R178, R208) -/

/-- Whether a scope's acquire part removes clean lines (R178). -/
def wideScope : Scope → Bool
  | .thread => false | .core => false | _ => true

/-- Completes a fence of some kind: the release part where it has one, the fence point, the acquire part. -/
def fence (rel acq : Bool) (sc : Scope) (s : State) : Result :=
  let body (s : State) : Result :=
    if acq then
      acquiring s fun s => .next (forfeit (if wideScope sc then 1 else 0) (if wideScope sc then s.acquire else s).advance)
    else done s
  if rel then atFence s sc body
  else if s.th.onBarrel && s.pendingFault s.th.ctx then .next (s.haltContext s.th.ctx)
  else body s

def execFenceAcq (sc : Scope) (s : State) : Result := fence false true sc s
def execFenceRel (sc : Scope) (s : State) : Result := fence true false sc s
def execFenceAr (sc : Scope) (s : State) : Result := fence true true sc s

/-! ### Region tokens (R191 to R194) -/

/-- What TKAQ, TKHD and the checks of a region ask: steps 2 to 7 with rights 0b10 and page W. -/
def tokenReq : Req :=
  { align := 1, need := 2, rd := false, wr := true, full := false, write := false, reg := false, store := false, port := false,
    mig := false }

/-- The region that a token instruction names, or its TOKREG trap (R192, R194). -/
def withRegion (s : State) (p : Word) (k : Nat → Result) : Result :=
  let ea := plainAddress p
  match s.check p ea tokenReq with
  | .error (.wait (.remote _ _ _ _)) => trapWith s 0x15 p 0
  | .error e => inTrouble s p e
  | .ok pa =>
    match if s.localHbm pa then s.regionOf s.th.core s.th.cx (offsetOf pa) else none with
    | none => trapWith s 0x15 p 0
    | some r => k r

/-- The acquisition of a token that the current thread holds: clean copies of the region's lines leave the core, then the
acquire part (R192 steps 4 and 5). -/
def State.tokenAcquired (s : State) (r : Nat) : State :=
  let t := s.th
  { s with cache := s.cache.filter fun x =>
      !(decide (x.core = t.core) && x.ctx = t.cx && !x.isDirty && s.regionOf t.core t.cx (x.line * 64) == some r) }.acquire

/-- TKAQ (R192); a control core takes tokens like a thread (R26). -/
def execTkaq (a : Reg) (s : State) : Result :=
  withRegion s (s.gr a) fun r =>
    acquiring s fun s =>
      if (s.token s.th.cx r).holder = some s.th.holder then done (s.tokenAcquired r)
      else .next (s.askToken r true (s.gr a))

/-- TKHD: release and sweep, then the token passes to the target, or to the oldest waiter (R194). -/
def execTkhd (a b : Reg) (s : State) : Result :=
  withRegion s (s.gr a) fun r =>
    let c := s.th.cx
    let k := s.token c r
    if k.holder ≠ some s.th.holder then trapWith s 0x16 (s.gr a) 0
    else
      atFence s .device fun s =>
        let s := match k.site with | some core => s.sweep core c r | none => s
        let target := (s.gr b).setWidth 24
        if Holder.thread target = s.th.holder then done s
        else
          match s.findTid c target with
          | none => done (s.passOn c k k.queue.length)
          | some u =>
            let q := k.queue.filter fun q => q.1 ≠ .thread target
            let asked := k.queue.any fun q => q.1 = .thread target
            let s := s.setToken c { k with holder := some (.thread target),
                                           site := if u.resident ∧ s.takesGrants u then some u.core else none, queue := q,
                                           used := !asked, called := q.any (·.2) }
            done (if asked then s.sendGrant c r (.thread target) u.place else s)

/-- CFLX: a dark target site raises ACCESS with the operand in ADDR; otherwise the thread waits for the acknowledgement of the
flush (R196). -/
def execCflx (a : Reg) (s : State) : Result :=
  let n : Fin 1024 := fin 1024 (bits (s.gr a) 0 10)
  if (s.site n).isDark then trapWith s 0x0C (s.gr a) 0
  else
    let t := s.th
    let (s, w) := s.post t.key (siteKey n)
    .next { s.block .flush with
      flushes := s.flushes ++ [{ target := .site n, ctx := t.cx, tid := t.id, place := t.place, auto := false, way := w }] }

/-! ### Atomics (R199 to R204) -/

/-- The checks on the address of a non-returning atomic, then what follows; it waits for no response (R201). -/
def withAtom (s : State) (p : Word) (z : AtomSize) (k : State → Nat → Nat → Result) : Result :=
  let ea := plainAddress p
  match s.check p ea { atomReq (atomBytes z) with posted := true } with
  | .error e => inTrouble s p e
  | .ok pa =>
    match s.storeWait ea pa with
    | some w => .next w
    | none => k s ea pa

/-- A non-returning atomic takes a store-buffer entry with its whole operand register; its checks at the home, and with them its
version and its hits, come when it performs (R201, R203, R207). (DEDUCED, assumption 24) -/
def postAtom (op : AtomOp) (z : AtomSize) (p b expect : Word) (s : State) : Result :=
  withAtom s p z fun s _ pa =>
    let n := atomBytes z
    done ((s.evictFor pa).enter p pa n b.toNat (.atom op z (BitVec.ofNat 64 (expect.toNat % 2 ^ (8 * n)))))

/-- A returning atomic: the checks at the home and the operation, then the old value in g[d] (R199, R202, R203).
(DEDUCED, assumption 24) -/
def returnAtom (op : AtomOp) (z : AtomSize) (d : Reg) (p b expect : Word) (s : State) : Result :=
  let ea := plainAddress p
  match s.check p ea (atomReq (atomBytes z)) with
  | .error (.wait (.remote w pa _ _)) => .next (s.block (.remote w pa p (some
      { op := op, size := z, dst := d, ptr := p, pa := pa, opnd := b, expect := expect })))
  | .error e => inTrouble s p e
  | .ok pa =>
    match s.tokenNeeded pa with
    | some r => .next (s.askToken r false ea)
    | none =>
      if s.versionBlocked pa then .next (s.block (.version pa))
      else
        match s.atomAt p pa op z b expect with
        | .error e => inTrouble s p e
        | .ok (s, old, fl) =>
          let s := s.threadTouch s.insn (withTop p ea) pa (atomBytes z) true true false
          done ((s.setG d (atomReturn op z old)).raiseFlags fl)

def execAadd (a b : Reg) (z : AtomSize) (s : State) : Result := postAtom .add z (s.gr a) (s.gr b) 0 s
def execAand (a b : Reg) (z : AtomSize) (s : State) : Result := postAtom .and z (s.gr a) (s.gr b) 0 s
def execAor (a b : Reg) (z : AtomSize) (s : State) : Result := postAtom .or z (s.gr a) (s.gr b) 0 s
def execAxor (a b : Reg) (z : AtomSize) (s : State) : Result := postAtom .xor z (s.gr a) (s.gr b) 0 s
def execAmin (a b : Reg) (z : AtomSize) (s : State) : Result := postAtom .min z (s.gr a) (s.gr b) 0 s
def execAmax (a b : Reg) (z : AtomSize) (s : State) : Result := postAtom .max z (s.gr a) (s.gr b) 0 s
def execAminn (a b : Reg) (z : AtomSize) (s : State) : Result := postAtom .minn z (s.gr a) (s.gr b) 0 s
def execAmaxn (a b : Reg) (z : AtomSize) (s : State) : Result := postAtom .maxn z (s.gr a) (s.gr b) 0 s
def execAswp (a b : Reg) (z : AtomSize) (s : State) : Result := postAtom .swp z (s.gr a) (s.gr b) 0 s
def execAcas (a b : Reg) (z : AtomSize) (c : Reg) (s : State) : Result := postAtom .cas z (s.gr a) (s.gr b) (s.gr c) s
def execAfaddF32 (a b : Reg) (s : State) : Result := postAtom .fadd .w (s.gr a) (s.gr b) 0 s

def execAaddR (d a b : Reg) (z : AtomSize) (s : State) : Result := returnAtom .add z d (s.gr a) (s.gr b) 0 s
def execAandR (d a b : Reg) (z : AtomSize) (s : State) : Result := returnAtom .and z d (s.gr a) (s.gr b) 0 s
def execAorR (d a b : Reg) (z : AtomSize) (s : State) : Result := returnAtom .or z d (s.gr a) (s.gr b) 0 s
def execAxorR (d a b : Reg) (z : AtomSize) (s : State) : Result := returnAtom .xor z d (s.gr a) (s.gr b) 0 s
def execAminR (d a b : Reg) (z : AtomSize) (s : State) : Result := returnAtom .min z d (s.gr a) (s.gr b) 0 s
def execAmaxR (d a b : Reg) (z : AtomSize) (s : State) : Result := returnAtom .max z d (s.gr a) (s.gr b) 0 s
def execAminnR (d a b : Reg) (z : AtomSize) (s : State) : Result := returnAtom .minn z d (s.gr a) (s.gr b) 0 s
def execAmaxnR (d a b : Reg) (z : AtomSize) (s : State) : Result := returnAtom .maxn z d (s.gr a) (s.gr b) 0 s
def execAswpR (d a b : Reg) (z : AtomSize) (s : State) : Result := returnAtom .swp z d (s.gr a) (s.gr b) 0 s
def execAcasR (d a b : Reg) (z : AtomSize) (c : Reg) (s : State) : Result := returnAtom .cas z d (s.gr a) (s.gr b) (s.gr c) s
def execAfaddRF32 (d a b : Reg) (s : State) : Result := returnAtom .fadd .w d (s.gr a) (s.gr b) 0 s

/-! ### Cache, tag and VISIT instructions (R161, R166, R171) -/

/-- What PREF asks: the rights of a load; the page permission is R for hint 0 and W for hint 1 (R145, R166).
(DESIGN CHOICE, assumption 14) -/
def prefReq : PrefHint → Req
  | .read => cacheReq 1 false
  | .write => { cacheReq 1 false with rd := false, wr := true }

/-- PREF: a line of local HBM that a load may read is fetched; whatever would fault is discarded, and no TAG is compared (R159, R166).
A TLB miss is no fault: the walk goes on, and so does the wait for a flush of R197. -/
def execPref (h : PrefHint) (b : Reg) (o : BitVec 12) (s : State) : Result :=
  let p := s.gr b
  match s.check p (effective p o 64) (prefReq h) with
  | .error (.wait (.walk _ va level table _)) => .next (s.block (.walk (withTop p (effective p o 64)) va level table .prefetch))
  | .error (.wait .flush) => .next (s.block .flush)
  | .error _ => done s
  | .ok pa =>
    if s.localHbm pa ∧ !s.poisonSeen pa then
      done (s.fill s.th.core s.th.cx (offsetOf pa / 64) s.th.thyp)
    else done s

/-- Steps 2 to 7 for CFLS and CINV; device registers raise ACCESS (R149, R166). (DESIGN CHOICE, assumption 14) -/
def withLine (s : State) (p : Word) (ea : Nat) (k : Nat → Result) : Result :=
  match s.check p ea (cacheReq 1 false) with
  | .error (.wait (.remote _ _ _ _)) => done s
  | .error e => inTrouble s (withTop p ea) e
  | .ok pa => k pa

/-- The lines of the current thread's context that a core holds of an address, of every version. -/
def State.ownLine (s : State) (pa : Nat) (x : CacheLine) : Bool :=
  decide (x.core = s.th.core) && x.ctx = s.th.cx && x.line == offsetOf pa / 64 && s.localHbm pa

def execCfls (b : Reg) (o : BitVec 12) (s : State) : Result :=
  let p := s.gr b
  withLine s p (effective p o 64) fun pa => done (s.cleanAll (s.ownLine pa))

def execCinv (b : Reg) (o : BitVec 12) (s : State) : Result :=
  let p := s.gr b
  withLine s p (effective p o 64) fun pa => done (s.flushAll (s.ownLine pa))

/-- TGLD: the granule's tag, with no comparison (R161). -/
def execTgld (d b : Reg) (o : BitVec 12) (s : State) : Result :=
  let p := s.gr b
  let ea := effective p o 16
  match s.check p ea (tagReq false) with
  | .error e => inTrouble s (withTop p ea) e
  | .ok pa => doneG s d ((s.tagSeen pa).setWidth 64)

/-- TGST: the tag changes through the store buffer, like a store (R160, R161). -/
def execTgst (d b : Reg) (o : BitVec 12) (s : State) : Result :=
  let p := s.gr b
  let ea := effective p o 16
  match s.check p ea (tagReq true) with
  | .error e => inTrouble s (withTop p ea) e
  | .ok pa =>
    if hypNum s.th.thyp ≠ 0 then inTrouble s (withTop p ea) (.trap 0x0D 0 0 0)
    else
      match s.storeWait ea pa with
      | some w => .next w
      | none =>
        let s := s.threadTouch s.insn (withTop p ea) pa 16 false false true
        done (s.enter (withTop p ea) pa 16 0 (.tag ((s.gr d).setWidth 4)))

/-- VISIT: a caravan to the owning site of a MIG page or to the site of a TCM; nothing happens where there is no such site,
where it is the thread's own, in a handler, or on a control core (R171, R228). A dark OWN raises ACCESS (R18). -/
def execVisit (b : Reg) (o : BitVec 12) (s : State) : Result :=
  let p := s.gr b
  let ea := effective p o 1
  let user := !s.th.supervisor
  match s.check p ea { cacheReq 1 false with rd := false } with
  | .error (.wait (.remote _ _ _ _)) => done s
  | .error e => inTrouble s (withTop p ea) e
  | .ok pa =>
    let leaf : Word := match if user then s.translate ea false else .ok (ea, 0) with | .ok (_, l) => l | .error _ => 0
    let target : Option Nat :=
      if pteMig leaf then some (pteOwn leaf)
      else if s.isLocal pa ∧ spaceOf (offsetOf pa) = .tcm then some (tcmSite (offsetOf pa))
      else none
    match target with
    | none => done s
    | some n =>
      if !s.th.onBarrel ∨ s.th.intrap ∨ n = s.th.site ∨ s.th.pass then done s
      else if (s.site n).isDark then trapWith s 0x0C (withTop p ea) 0
      else
        .next (s.askLanding (fin 1024 n) true)

end Sys2Proof.Machine
end

