-- ==== Sys2Proof/Machine/Sync.lean ====
section
/-!
DEFINITION. Sys2Proof/Machine/Sync.lean: rings, barriers and WTFE (R209 to R221).
-/
namespace Sys2Proof.Machine

/-! ### Rings (R209 to R212) -/

/-- The words of a ring control block (R209). -/
structure Ring where
  base  : Word
  shape : Word
  rsv   : Nat
  cns   : Nat
  rls   : Nat
  lo    : Word
  hi    : Word
  last  : Word
  top   : Nat                         -- bits 63:32 of the three counts
  deriving DecidableEq, Repr

def Ring.count (r : Ring) : Nat := bits r.shape 0 7
def Ring.slog (r : Ring) : Nat := bits r.shape 8 4

/-- The state of slot j (R209, R210). -/
def Ring.state (r : Ring) (j : Nat) : Nat := if j < 32 then bits r.lo (2 * j) 2 else bits r.hi (2 * (j - 32)) 2

def Ring.setState (r : Ring) (j v : Nat) : Ring :=
  if j < 32 then { r with lo := setBits r.lo (2 * j) 2 v } else { r with hi := setBits r.hi (2 * (j - 32)) 2 v }

/-- A difference of two counts, modulo 2^32. -/
def gap32 (a b : Nat) : Nat := (a + 2 ^ 32 - b) % 2 ^ 32

/-- Whether an RCB is malformed (R209). -/
def Ring.bad (r : Ring) : Bool :=
  bits r.shape 12 52 != 0 || bit r.shape 7 || r.top != 0 || r.last != 0 || r.slog < 3 || 12 < r.slog || r.count == 0 || 64 < r.count ||
    r.count < gap32 r.cns r.rls || r.count < gap32 r.rsv r.cns || r.count < gap32 r.rsv r.rls ||
    ((List.range 64).any fun j => r.count ≤ j && r.state j != 0)

/-- The pointer of slot `i mod n` (R209, R211). -/
def Ring.pointer (r : Ring) (i : Nat) : Word :=
  setBits r.base 0 52 (bits r.base 0 52 + (i % r.count) * 2 ^ r.slog)

/-- The slot whose address is `a`, by bits 51:0 (R211). -/
def Ring.indexOf (r : Ring) (a : Nat) : Option Nat :=
  (List.range r.count).find? fun j => bits (r.pointer j) 0 52 == a

/-- Reads an RCB at its home. -/
def State.readRing (s : State) (pa : Nat) : Ring :=
  let w (i : Nat) : Word := BitVec.ofNat 64 (s.readHome 0 0 (pa + 8 * i) 8)
  { base := w 0, shape := w 1, rsv := bits (w 2) 0 32, cns := bits (w 3) 0 32, rls := bits (w 4) 0 32, lo := w 5, hi := w 6,
    last := w 7, top := bits (w 2) 32 32 + bits (w 3) 32 32 + bits (w 4) 32 32 }

/-- Writes the changing words of an RCB. -/
def State.writeRing (s : State) (pa : Nat) (r : Ring) : State :=
  s.writeWords 0 (pa + 16) [BitVec.ofNat 64 (r.rsv % 2 ^ 32), BitVec.ofNat 64 (r.cns % 2 ^ 32), BitVec.ofNat 64 (r.rls % 2 ^ 32), r.lo, r.hi]

/-- What a ring instruction asks of the checks (R212). -/
def ringReq : Req := { atomReq 64 with write := true }

/-- Steps 10 and 11 for each of the four granules of an RCB (R212). -/
def State.ringTags (s : State) (p : Word) (pa : Nat) : Option Trouble :=
  (List.range 4).findSome? fun i =>
    match s.atomCheck s.th.cx s.th.thyp p (pa + 16 * i) with
    | some (cause, found) => some (.trap cause 0 (if cause = 0x0F then BitVec.ofNat 4 (bits p 60 4) else 0) (BitVec.ofNat 4 found))
    | none => none

/-- The checks of a ring instruction, then its step at the home: `k` gives the new RCB, or none for RINGSTATE, and the result
that the instruction writes; `fin` is told whether the RCB has changed (R211, R212). -/
def ringStep (s : State) (p : Word) (k : Ring → Option (Ring × Word)) (fin : State → Bool → Word → Result) : Result :=
  let ea := plainAddress p
  match s.check p ea ringReq with
  | .error (.wait (.remote _ _ _ _)) => trapWith s 0x18 p 0
  | .error e => inTrouble s p e
  | .ok pa =>
    if hypNum s.th.thyp ≠ 0 then trapWith s 0x0D p 0
    else if !s.isLocal pa ∨ !hasFull pa then trapWith s 0x18 p 0
    else
      let s := s.drain fun e => decide (e.core = s.th.core) && decide (pa / 64 = e.pa / 64)
      match s.ringTags p pa with
      | some e => inTrouble s p e
      | none =>
        let r := s.readRing pa
        if r.bad then trapWith s 0x18 p 0
        else
          match k r with
          | none => trapWith s 0x17 p 0
          | some (r', v) =>
            let s := s.exchange (homeKey (offsetOf pa))
            let s := if r' = r then s else s.writeRing pa r'
            fin (s.threadTouch s.insn (withTop p ea) pa 64 true true false) (r' != r) v

def execAcqs (d a : Reg) (s : State) : Result :=
  ringStep s (s.gr a)
    (fun r =>
      if gap32 r.rsv r.rls < r.count then
        some ({ r.setState (r.rsv % r.count) 1 with rsv := r.rsv + 1 }, r.pointer r.rsv)
      else some (r, 0))
    (fun s _ v => doneG s d v)

def execCmts (a b : Reg) (s : State) : Result :=
  atFence s .device fun s =>
    ringStep s (s.gr a)
      (fun r =>
        match r.indexOf (bits (s.gr b) 0 52) with
        | some j => if r.state j = 1 then some (r.setState j 2, 0) else none
        | none => none)
      (fun s _ _ => done s)

def execPeks (d a : Reg) (s : State) : Result :=
  acquiring s fun s =>
    ringStep s (s.gr a)
      (fun r =>
        if r.cns ≠ r.rsv ∧ r.state (r.cns % r.count) = 2 then
          some ({ r.setState (r.cns % r.count) 3 with cns := r.cns + 1 }, r.pointer r.cns)
        else some (r, 0))
      (fun s got v => if got then .next (forfeit 2 (s.setG d v).acquire.advance) else doneG s d v)

/-- RLS passes every free slot up to CNS (R211). -/
def Ring.advanceRls (r : Ring) : Nat → Ring
  | 0 => r
  | n + 1 =>
    if r.rls ≠ r.cns ∧ r.state (r.rls % r.count) = 0 then { r with rls := (r.rls + 1) % 2 ^ 32 }.advanceRls n else r

def execRels (a b : Reg) (s : State) : Result :=
  atFence s .device fun s =>
    ringStep s (s.gr a)
      (fun r =>
        match r.indexOf (bits (s.gr b) 0 52) with
        | some j => if r.state j = 3 then some ((r.setState j 0).advanceRls 64, 0) else none
        | none => none)
      (fun s _ _ => done s)

/-! ### Barriers (R213 to R219) -/

def State.bar (s : State) (c : Fin 16) (b : Fin 4) : Barrier := (s.ctx c).bars[b]

def State.setBar (s : State) (c : Fin 16) (b : Fin 4) (x : Barrier) : State :=
  s.updCtx c fun k => { k with bars := k.bars.set b x }

/-- The barrier number of an operand: bits 1:0. -/
def barNum (a : Word) : Fin 4 := fin 4 (bits a 0 2)

/-- The member sites of the open phase. -/
def Barrier.members (x : Barrier) : List Nat := (List.range 1024).filter fun n => x.mask.getLsbD n

/-- Whether a core has arrived in the open phase. -/
def Barrier.arrived (x : Barrier) (n : Nat) : Bool := x.stamps.any fun e => e.1 = n && e.2.2.1

/-- Whether phase 0 is open and no arrival has been counted: its members are then still being set up (R213). -/
def Barrier.fresh (x : Barrier) : Bool := x.phase == 0 && x.arr.isEmpty && x.stamps.isEmpty && (!x.en || x.mask == 0)

/-- Whether every member core of the open phase has arrived (R214, R218). A phase with no member left completes too, once the barrier
is in use: no arrival is awaited. (DEDUCED, assumption 18) -/
def Barrier.complete (x : Barrier) : Bool := (x.members.all x.arrived) && (!x.stamps.isEmpty || (x.en && !x.fresh))

/-- A completed phase is marked, its release still to reach the cores (R214, R216). -/
def Barrier.settle (x : Barrier) : Barrier := { x with ready := x.complete }

/-- One arrival of a thread of a site at a time: it counts toward the open phase until the core's count is full, then toward
the following ones, with its stamp kept; the barrier and the phase it counts toward (R214). An arrival counted ahead records the phase by
the count staged at that moment. (DEDUCED, assumption 18) -/
def Barrier.arrive (x : Barrier) (n : Nat) (now : Word) : Barrier × BitVec 32 :=
  let have_ := tget 0 x.arr n
  if have_ < x.cnt then
    let y := { x with arr := tput true x.arr n (have_ + 1) }
    if have_ + 1 = x.cnt ∧ x.mask.getLsbD n then
      ({ y with stamps := y.stamps ++ [(n, now, true, false)] }.settle, x.phase)
    else (y.settle, x.phase)
  else
    let l := tget [] x.ahead n
    ({ x with ahead := tput true x.ahead n (l ++ [now]) }, x.phase + 1 + BitVec.ofNat 32 (l.length / x.cntN))

/-- Whether a phase has been released: it precedes the open one, modulo 2^32. -/
def Barrier.released (x : Barrier) (ph : BitVec 32) : Bool := x.phase != ph && (x.phase - ph).toNat < 2 ^ 31

/-- BARA (R214); a control core belongs to no member core, so its arrival counts for none. -/
def execBara (a : Reg) (s : State) : Result :=
  let c := s.th.cx
  let b := barNum (s.gr a)
  let x := s.bar c b
  if !x.en then trapNow s 0x19
  else if s.th.av[b] && !x.released s.th.aph[b] then trapNow s 0x1A
  else
    atFence s .device fun s =>
      let x := s.bar c b
      let s := s.send s.th.key barrierKey
      let (x, ph) := if s.th.onBarrel then x.arrive s.th.site (s.time (coreField s.th.core)) else (x, x.phase)
      let s := s.setBar c b x
      done { s with th := { s.th with av := s.th.av.set b true, aph := s.th.aph.set b ph } }

/-- The result word of BARW (R215). -/
def barResult (st : Nat) (ph : BitVec 32) : Word := field 32 32 ph.toNat ||| field 0 2 st

/-- BARW at an issue turn (R215, R219, R221). -/
def barwTurn (d : Reg) (b : Fin 4) (limit : Word) (s : State) : Result :=
  let x := s.bar s.th.cx b
  let ph := s.th.aph[b]
  if !s.th.av[b] ∨ !x.en then .next (endWait s d (barResult 2 ph))
  else if x.released ph then
    acquiring s fun s =>
      let s := { s with th := { s.th with av := s.th.av.set b false } }
      .next (endWait s d (barResult 0 ph)).acquire
  else if limit ≠ 0 ∧ limit.toNat ≤ (s.tnow s.th).toNat then .next (endWait s d (barResult 1 ph))
  else .next (s.block (.barrier d b limit))

def execBarw (d a b : Reg) (s : State) : Result := barwTurn d (barNum (s.gr a)) (s.gr b) s

/-- An entry of the straggler report of the last released phase, the latest core first (R217). An entry beyond the phase's cores has
V 0; the spec does not say what its PH holds, and the model shows the phase. (DESIGN CHOICE, assumption 54) -/
def Barrier.reportWord (x : Barrier) (i : Nat) : Word :=
  match x.report[i]? with
  | some (site, late, ret) =>
    if x.repV then
      field 32 32 (min late.toNat (2 ^ 32 - 1)) ||| field 16 16 x.repPh.toNat ||| flag 15 true ||| flag 14 ret ||| field 0 10 site
    else 0
  | none => if x.repV then field 16 16 x.repPh.toNat else 0

def execBars (d a : Reg) (s : State) : Result :=
  let x := s.bar s.th.cx (barNum (s.gr a))
  .next (forfeit 1 (s.setG d (x.reportWord (bits (s.gr a) 2 2))).advance)

/-- The report of a phase: cores by stamp, the higher site number later where stamps are equal, latest first; LATE counts from the
earliest arrival (R217). A core retired before it arrived may have a time below that, or stand alone: the spec gives no LATE for it, and
the model writes 0. (DESIGN CHOICE, assumption 54) -/
def Barrier.makeReport (x : Barrier) : List (Nat × Word × Bool) :=
  let l := x.stamps.mergeSort fun p q => decide (q.2.1.toNat < p.2.1.toNat) || (decide (p.2.1 = q.2.1) && decide (q.1 ≤ p.1))
  let first := ((x.stamps.filter fun e => e.2.2.1).map fun e => e.2.1.toNat).min?
  (l.take 4).map fun (n, t, _, ret) =>
    (n, match first with | some f => BitVec.ofNat 64 (t.toNat - f) | none => 0, ret)

/-- Opens the next phase of a complete one: staged mask and count come into force, and of each core's arrivals ahead the first ones,
as many as the new count, move to the phase; the one that fills the count stamps the core's arrival (R213, R214). -/
def Barrier.release (x : Barrier) : Barrier :=
  let arr := x.ahead.map fun (n, l) => (n, min l.length x.cntN)
  let rest := x.ahead.filterMap fun (n, l) => if x.cntN < l.length then some (n, l.drop x.cntN) else none
  let come := x.ahead.filterMap fun (n, l) =>
    if x.cntN ≤ l.length ∧ x.maskN.getLsbD n then some (n, l.getD (x.cntN - 1) 0, true, false) else none
  { x with mask := x.maskN, cnt := x.cntN, phase := x.phase + 1, arr := arr, ahead := rest, stamps := come,
           report := x.makeReport, repPh := x.phase, repV := true, ready := false }.settle

/-! ### WTFE (R220) -/

/-- What WTFE asks of the checks: steps 2 to 7 and 9 (R220). -/
def wtfeReq : Req :=
  { align := 1, need := 1, rd := true, wr := false, full := true, write := false, reg := false, store := false, port := false,
    mig := false }

def execWtfe (d a b : Reg) (s : State) : Result :=
  let p := s.gr a
  let ea := plainAddress p
  match s.check p ea wtfeReq with
  | .error e => inTrouble s p e
  | .ok pa =>
    acquiring s fun s =>
      match s.fullLoad p p pa 1 (.status d) false (s.gr b) with
      | .error e => inTrouble s p e
      | .ok s =>
        if s.th.st = .wait then
          if s.gr b ≠ 0 ∧ (s.gr b).toNat ≤ (s.tnow s.th).toNat then
            .next (endWait { s with feq := s.feq.filter fun w => w.2.1 ≠ .thread s.th.place } d 1)
          else .next s
        else .next s.acquire

/-- WTFE at an issue turn while it waits: TIMEOUT at its limit, with its record withdrawn (R220, R221). -/
def wtfeTurn (d : Reg) (limit : Word) (s : State) : Result :=
  if limit ≠ 0 ∧ limit.toNat ≤ (s.tnow s.th).toNat then
    .next (endWait { s with feq := s.feq.filter fun w => w.2.1 ≠ .thread s.th.place } d 1)
  else .next s

end Sys2Proof.Machine
end

