-- ==== Sys2Proof/Machine/Hypo.lean ====
section
/-!
DEFINITION. Sys2Proof/Machine/Hypo.lean: the hypothesis instructions, the hypothesis controller, resolutions and orphans
(R258 to R275).
-/
namespace Sys2Proof.Machine

/-! ### Handles and their states (R258, R268) -/

/-- The state that HSTAT reports for a handle: 0 FREE, 1 LIVE, 2 CONFIRMING, 3 REFUTING, 4 CONFIRMED, 5 REFUTED, 6 STALE. -/
def State.hypCode (s : State) (c : Fin 16) (h : Handle) : Nat :=
  let g := (hypGen h).toNat
  if hypNum h = 0 then (if g = 0 then 1 else 0)
  else
    let x := s.hyp c (hypNum h)
    let k := x.gen.toNat
    if x.st ≠ .free ∧ g = k then (match x.st with | .confirming => 2 | .refuting => 3 | _ => 1)
    else
      match x.outcome with
      | some (ok, og) =>
        if x.st = .free ∧ g = og.toNat then (if ok then 4 else 5) else older k g
      | none => older k g
where
  /-- Whether a generation is older than the current one or was never allocated (R268). -/
  older (k g : Nat) : Nat :=
    if k = 0 ∨ g = 0 then 0
    else
      let d := (k + 65535 - g) % 65535
      if 1 ≤ d ∧ d ≤ 32767 then 6 else 0

/-- The word of HSTAT (R268). -/
def State.hypStatus (s : State) (c : Fin 16) (h : Handle) : Word :=
  let k := s.hypCode c h
  if hypNum h = 0 then field 60 4 k
  else if 1 ≤ k ∧ k ≤ 3 then
    let x := s.hyp c (hypNum h)
    field 60 4 k ||| field 56 4 x.depth |||
      field 32 24 (min (2 ^ 24 - 1) (s.vers.filter fun v => v.ctx = c && v.hyp = canonHandle h).length) |||
      field 0 32 x.parent.toNat
  else field 60 4 k

/-- The depth of a live handle (R258). -/
def State.hypDepth (s : State) (c : Fin 16) (h : Handle) : Nat := if hypNum h = 0 then 0 else (s.hyp c (hypNum h)).depth

/-- HNEW at the controller (R266). -/
def State.hypNew (s : State) (c : Fin 16) (p : Handle) : State × Word :=
  let p := canonHandle p
  if !s.liveHyp c p then (s, 0x8000000000000002)
  else if s.hypDepth c p = 8 then (s, 0x8000000000000003)
  else
    match (List.range 256).find? fun n => n ≠ 0 && (s.hyp c n).st == .free with
    | none => (s, 0x8000000000000001)
    | some n =>
      let g := (s.hyp c n).gen
      let g := if g = 65535 then 1 else g + 1
      let s := { s with outmsgs := s.outmsgs.filter fun m => !(m.1 = c && hypNum m.2 = n),
                        seen := s.seen.filter fun m => !(m.ctx = c && hypNum m.h = n) }
      (s.setHyp c n { st := .live, gen := g, parent := p, depth := s.hypDepth c p + 1, outcome := none, succ := none, named := 0 },
        (handleOf g n).setWidth 64)

/-! ### Resolutions (R270, R271) -/

/-- Whether a handle lies in the subtree of another, itself included. -/
def State.inSubtree (s : State) (c : Fin 16) (root h : Handle) : Bool :=
  if hypNum root = 0 then true else (s.chainHyp c 9 h).contains root

/-- A thread's hypothesis changes; a saved thread's image follows (R270). -/
def State.setThyp (s : State) (p : Place) (h : Handle) : State :=
  match s.findThread p with
  | none => s
  | some t => (s.updThread p fun t => { t with thyp := h }).pokeImage t 0x220 (h.setWidth 64)

/-- Every agent that acts under one handle acts under another: threads, instances, graphs, transfers and commands (R270). -/
def State.renameHyp (s : State) (c : Fin 16) (h p : Handle) : State :=
  let l := (s.threads.filter fun t => !t.onControl && t.ctx = c && t.thyp = h).map (·.place)
  let s := l.foldl (fun s q => s.setThyp q p) s
  let s := s.mapThreads fun t => if t.onControl && t.cx = c && t.thyp = h then { t with thyp := p } else t
  let ren (x : Handle) : Handle := if x = h then p else x
  let cmd (x : Command) : Command := { x with hyp := ren x.hyp }
  let s := s.updCtx c fun x =>
    { x with graphs := x.graphs.map fun g => g.map fun g => { g with hyp := ren g.hyp },
             port := x.port.map cmd, accepted := x.accepted.map cmd }
  { s with insts := s.insts.map fun i => if i.ctx = c then { i with hyp := ren i.hyp } else i,
           streams := s.streams.map fun (k, st) =>
             (k, { st with queue := st.queue.map fun q => if q.ctx = c then { q with hyp := ren q.hyp } else q,
                           xfers := st.xfers.map fun x => if x.ctx = c then { x with hyp := ren x.hyp } else x }) }

/-- The lines of which a hypothesis holds a version, at a slice or dirty in a thread cache. -/
def State.hypLines (s : State) (c : Fin 16) (h : Handle) : List Nat :=
  (s.vers.filter fun v => v.ctx = c && v.hyp = h).map (·.line) ++
    (s.cache.filter fun x => x.ctx = c && x.hyp = h && x.isDirty).map (·.line)

/-- The merge of a confirmed hypothesis in the thread caches (R270). -/
def State.mergeCaches (s : State) (c : Fin 16) (h p : Handle) : State :=
  let lines := s.hypLines c h
  let clean := s.cache.filter fun x =>
    !(x.ctx = c && !x.isDirty && s.inSubtree c p x.hyp && !s.inSubtree c h x.hyp)
  let cut := clean.filter fun x => !(x.ctx = c && x.hyp = p && lines.contains x.line)
  let cut := cut.filter fun x =>
    !(x.ctx = c && x.hyp = h && !x.isDirty && !lines.contains x.line &&
      cut.any fun y => y.ctx = c && decide (y.core = x.core) && y.line = x.line && y.hyp = p && y.isDirty)
  { s with cache := cut.map fun x => if x.ctx = c ∧ x.hyp = h then { x with hyp := p } else x }

/-- One version passes to its parent: the committed data, or the parent's version (R270). -/
def State.mergeVersion (s : State) (p : Handle) (v : Version) : State :=
  if hypNum p = 0 then
    let m := s.mem.write (v.line * 64) 64 v.data.toNat
    let m := (List.range 4).foldl (fun m i => m.setPoison (v.line * 64 + 16 * i) (bit v.poison i)) m
    { s with mem := m }.touchLlc v.line true
  else
    { s with vers := (s.vers.filter fun w => !(w.ctx = v.ctx && w.line = v.line && w.hyp = p)) ++ [{ v with hyp := p }] }

/-- Parked tickets go and running ones are abandoned (R388). -/
def Serai.abandon (v : Serai) : Serai :=
  { v with places := (v.places.filter fun p => p.st != .parked).map fun (p : Ticket) => if p.st = .running then { p with st := .abandoned } else p }

/-- Records the end of a number's hypothesis: FREE, its outcome and its successor (R260). -/
def State.resolve (s : State) (c : Fin 16) (h : Handle) (ok : Bool) (succ named : Handle) : State :=
  let x := s.hyp c (hypNum h)
  let s := s.setHyp c (hypNum h)
    { x with st := .free, outcome := some (ok, hypGen h), succ := some (hypGen h, succ), named := named }
  { s with outmsgs := s.outmsgs ++ [(c, h)] }

/-- The members of the subtree of a handle whose number is in a state. -/
def State.subtreeIn (s : State) (c : Fin 16) (h : Handle) (st : HypSt) : List Handle :=
  let tree := s.inSubtree c h
  ((s.ctx c).hyps.filter fun (n, y) => y.st == st && tree (handleOf y.gen n)).map fun (n, y) => handleOf y.gen n

/-- A resolution of a number starts: its state, its successor and the handle that the resolve named are recorded (R260). -/
def State.hypLeave (s : State) (c : Fin 16) (st : HypSt) (succ named h : Handle) : State :=
  s.setHyp c (hypNum h) { s.hyp c (hypNum h) with st := st, succ := some (hypGen h, succ), named := named }

/-- The controller starts a confirm: the hypothesis is CONFIRMING (R260, R270). It has no effect on a handle that is not live
(R269). -/
def State.startConfirm (s : State) (c : Fin 16) (h : Handle) : State :=
  let h := canonHandle h
  if hypNum h = 0 ∨ !s.liveHyp c h then s else s.hypLeave c .confirming (s.parentHyp c h) h h

/-- The controller starts a refute: the hypothesis and its descendants are REFUTING (R260, R271). It has no effect on a handle that
is not live (R269). -/
def State.startRefute (s : State) (c : Fin 16) (h : Handle) : State :=
  let h := canonHandle h
  if hypNum h = 0 ∨ !s.liveHyp c h then s
  else (s.subtreeIn c h .live).foldl (fun t x => t.hypLeave c .refuting (s.parentHyp c h) h x) s

/-- The writes tagged with a hypothesis that are still buffered perform at their homes (R270). -/
def State.drainHyp (s : State) (c : Fin 16) (h : Handle) : State :=
  let lines := (s.sbuf.filter fun e => e.ctx = c && e.hyp = h).map fun e => offsetOf e.pa / 64
  (s.drain fun e => e.ctx = c && e.hyp = h).cleanLines fun x => x.ctx = c && x.hyp = h && lines.contains x.line

/-- The merge of a hypothesis whose confirm has started, in one step (R270). (DEDUCED, assumption 20) -/
def State.hypConfirm (s : State) (c : Fin 16) (h : Handle) : State :=
  let h := canonHandle h
  if hypNum h = 0 ∨ (s.hyp c (hypNum h)).st ≠ .confirming ∨ !s.openHyp c h then s
  else
    let p := s.parentHyp c h
    let s := s.drainHyp c h
    let s := s.renameHyp c h p
    let s := s.mergeCaches c h p
    let mine := s.vers.filter fun v => v.ctx = c && v.hyp = h
    let s := { s with vers := s.vers.filter fun v => !(v.ctx = c && v.hyp = h) }
    let s := mine.foldl (fun s v => s.mergeVersion p v) s
    let tree := s.inSubtree c h
    let up (e : Nat × Hyp) : Nat × Hyp :=
      let y := e.2
      let g : Handle := handleOf y.gen e.1
      if y.st == .live && g != h && tree g then
        (e.1, { y with parent := if y.parent = h then p else y.parent, depth := y.depth - 1 })
      else e
    let s := s.updCtx c fun x => { x with hyps := x.hyps.map up }
    s.resolve c h true p h

/-- The discard of a hypothesis whose refute has started, and of its descendants, in one step (R271). (DEDUCED, assumption 20) -/
def State.hypRefute (s : State) (c : Fin 16) (h : Handle) : State :=
  let h := canonHandle h
  let x := s.hyp c (hypNum h)
  if hypNum h = 0 ∨ x.st ≠ .refuting ∨ x.gen ≠ hypGen h then s
  else
    let p := s.parentHyp c h
    let dead := s.subtreeIn c h .refuting
    let gone (x : Handle) : Bool := dead.contains x
    let s := { s with
      sbuf := s.sbuf.filter fun e => !(e.ctx = c && gone e.hyp),
      cache := s.cache.filter fun x => !(x.ctx = c && gone x.hyp),
      vers := s.vers.filter fun v => !(v.ctx = c && gone v.hyp),
      insts := s.insts.map fun i =>
        if i.ctx = c ∧ gone i.hyp then
          { i with stopped := i.stopped || (i.st != .run && i.back != .run), serais := i.serais.map Serai.abandon }
        else i }
    dead.foldl (fun s x => s.resolve c x false p h) s

/-! ### The controller (R269) -/

/-- A request completes for the thread that waits for it; the answer raises the thread's time floor (R245). -/
def State.hypAnswer (s : State) (c : Fin 16) (p : Place) (id : Nat) (f : Thread → Thread) : State :=
  match s.findThread p with
  | none => s
  | some t =>
    if t.wait = .hyp id then
      let (s, r) := s.message (hypKey c) t.key
      s.updThread p fun t => { (f t).raise r with st := .run, wait := .none, pc := t.pc + 4, pass := false, mid := false }
    else s

/-- The outcomes that a resolution has recorded are visible at the issuer's core when its instruction completes (R274). -/
def State.hypSeen (s : State) (c : Fin 16) (core : CoreId) : State :=
  { s with seen := s.seen ++ ((s.outmsgs.filter fun m => m.1 = c).map fun m => { ctx := c, h := m.2, core := core }) }

/-- The controller reaches the oldest request of its queue: a resolution of a live handle starts (R269). -/
def State.hypBegin (s : State) (c : Fin 16) : State :=
  match (s.ctx c).hypQ with
  | (_, .conf _ h) :: _ => s.startConfirm c h
  | (_, .refute _ h) :: _ => s.startRefute c h
  | _ => s

/-- The controller performs the oldest request of its queue, to its end, and reaches the next one. -/
def State.hypServe (s : State) (c : Fin 16) : State :=
  let s := s.hypBegin c
  match (s.ctx c).hypQ with
  | [] => s
  | (id, q) :: l =>
    let s := s.updCtx c fun x => { x with hypQ := l }
    let core (p : Place) : CoreId := match s.findThread p with | some t => t.core | none => .site 0
    let s := match q with
      | .new p d parent =>
        let (s, v) := s.hypNew c parent
        s.hypAnswer c p id fun t => t.setG d v
      | .stat p d h => s.hypAnswer c p id fun t => t.setG d (s.hypStatus c h)
      | .conf p h => ((s.hypConfirm c h).hypSeen c (core p)).hypAnswer c p id id_
      | .refute p h => ((s.hypRefute c h).hypSeen c (core p)).hypAnswer c p id id_
    s.hypBegin c
where
  /-- A resolve writes no register. -/
  id_ (t : Thread) : Thread := t

/-- Whether a request is a resolution of a live handle, which takes the controller up to 2 µs (R269, R276). -/
def State.hypTakesTime (s : State) (c : Fin 16) : HypReq → Bool
  | .conf _ h => hypNum h != 0 && s.liveHyp c (canonHandle h)
  | .refute _ h => hypNum h != 0 && s.liveHyp c (canonHandle h)
  | _ => false

/-- Sends a request of the current thread to the controller of its context. When no earlier one waits the controller reaches it at
once: a resolution of a live handle starts, and any other request performs (R269). -/
def askController (s : State) (q : HypReq) : Result :=
  let c := s.th.cx
  let id := (s.ctx c).hypSer
  let alone := (s.ctx c).hypQ.isEmpty
  let s := (s.exchange (hypKey c)).block (.hyp id)
  let s := s.updCtx c fun x => { x with hypQ := x.hypQ ++ [(id, q)], hypSer := id + 1 }
  .next (if !alone then s else if s.hypTakesTime c q then s.hypBegin c else s.hypServe c)

def execHnew (d a : Reg) (s : State) : Result := askController s (.new s.th.place d ((s.gr a).setWidth 32))
def execHset (a : Reg) (s : State) : Result := setHypothesis s (s.gr a)
def execHget (d : Reg) (s : State) : Result := doneG s d (s.th.thyp.setWidth 64)
def execHconf (a : Reg) (s : State) : Result :=
  atFence s .device fun s => askController s (.conf s.th.place ((s.gr a).setWidth 32))
/-- HREF; what the issuer stored before it happens before the resolution (R275). -/
def execHref (a : Reg) (s : State) : Result :=
  let s := s.releaseTo .device
  askController s (.refute s.th.place ((s.gr a).setWidth 32))
def execHstat (d a : Reg) (s : State) : Result := askController s (.stat s.th.place d ((s.gr a).setWidth 32))

/-- Whether a recorded outcome has reached a core (R274). -/
def State.outcomeAt (s : State) (c : Fin 16) (h : Handle) (core : CoreId) : Bool :=
  !(s.outmsgs.contains (c, h)) || s.seen.any fun m => m.ctx = c && m.h = h && decide (m.core = core)

/-- The status of HWAIT that already holds, if one does (R274). -/
def State.hwaitStatus (s : State) (h : Handle) : Option Nat :=
  let c := s.th.cx
  let h := canonHandle h
  if h = 0 then some 0
  else
    match s.hypCode c h with
    | 4 => if s.outcomeAt c h s.th.core then some 0 else none
    | 5 => if s.outcomeAt c h s.th.core then some 2 else none
    | 6 => some 3
    | 0 => some 3
    | _ => none

/-- HWAIT at an issue turn (R221, R274). -/
def hwaitTurn (d : Reg) (h : Handle) (limit : Word) (s : State) : Result :=
  match s.hwaitStatus h with
  | some k =>
    if k = 3 then .next (endWait s d 3)
    else acquiring s fun s => .next (endWait s d (BitVec.ofNat 64 k)).acquire
  | none =>
    if limit ≠ 0 ∧ limit.toNat ≤ (s.tnow s.th).toNat then .next (endWait s d 1)
    else .next (s.block (.outcome d h limit))

def execHwait (d a b : Reg) (s : State) : Result := hwaitTurn d ((s.gr a).setWidth 32) (s.gr b) s

/-! ### Orphans (R272) -/

/-- The walk from a dead handle to a live one (R272). (DEDUCED, assumption 20) -/
def State.orphanWalk (s : State) (c : Fin 16) : Nat → Handle → Handle
  | 0, _ => 0
  | n + 1, h =>
    if s.liveHyp c h then h
    else
      match (s.hyp c (hypNum h)).succ with
      | some (g, a) => if g = hypGen h ∧ hypNum h ≠ 0 then s.orphanWalk c n a else 0
      | none => 0

/-- Whether the current thread waits for the HREF that is refuting its own hypothesis; its ORPHAN comes after that (R272). -/
def State.refutesOwn (s : State) : Bool :=
  match s.th.wait, (s.ctx s.th.cx).hypQ with
  | .hyp id, (j, .refute _ h) :: _ => j == id && hypNum h != 0 && s.inSubtree s.th.cx (canonHandle h) s.th.thyp
  | _, _ => false

/-- Whether the current thread is an orphan; the threads of a hypothesis that is CONFIRMING pass to its parent with the merge
(R270). The spec names no exception for a control core in supervisor mode whose THYP is not live; the model lets it take none.
(DEDUCED, assumption 20) -/
def State.isOrphan (s : State) : Bool := !s.th.supervisor && !s.openHyp s.th.cx s.th.thyp && !s.refutesOwn

/-- The ORPHAN trap of the current thread at an issue turn (R272). One that meets a thread waiting for an HCONF or HREF of another
hypothesis leaves TPC at the next instruction, as R269 has a thread saved there resume, and not at the abandoned one: the spec does not
say which of its two rules holds. (DEDUCED, assumption 20) -/
def State.takeOrphan (s : State) : State :=
  let s := match s.th.wait with
    | .table _ _ _ _ => s.settleTable s.th.place (2 * s.rest.length + 2)
    | .remote _ _ _ _ => { s with th := { s.th with wait := .none } }
    | _ => s
  let pc := s.th.pc
  let stays : Bool := match s.th.wait with | .token _ _ _ => true | _ => false
  let s := s.withdraw
  let s := if stays then { s with th := { s.th with pc := pc } } else s
  let old := s.th.thyp
  let x := s.hyp s.th.cx (hypNum old)
  let named := match x.succ with | some (g, _) => if g = hypGen old ∧ hypNum old ≠ 0 then x.named else old | none => old
  let r := s.recordOf 0x1B 0 (named.setWidth 64) 0 0
  let h := s.orphanWalk s.th.cx 256 old
  { s with th := { s.th with thyp := h } }.deliver r

end Sys2Proof.Machine
end

