-- ==== Sys2Proof/Machine/Acc.lean ====
section
/-!
DEFINITION. Sys2Proof/Machine/Acc.lean: accumulator rows and their events, the accumulation store with its arrival queue, the
replay log of R452, and the thread accumulator instructions (R396 to R410).
-/
namespace Sys2Proof.Machine

/-! ### The replay log (R452) -/

/-- RPLCTL.MODE of a context: 0 off, 1 record, 2 replay. -/
def State.replayMode (s : State) (c : Fin 16) : Nat := bits (s.reg (rplctlAt c)) 0 2

/-- Where the log of a context stands, at a place of it: at BASE, in words. -/
def State.logAt (s : State) (c : Fin 16) (n : Nat) : Nat := s.localPa (bits (s.reg (rplctlAt c)) 12 40 * 4096 + 8 * n)

/-- How many entries the log at BASE holds. (DESIGN CHOICE, assumption 23) -/
def State.logLength (s : State) (c : Fin 16) : Nat := tget 0 (s.ctx c).logs (bits (s.reg (rplctlAt c)) 12 40)

def State.setLogLength (s : State) (c : Fin 16) (n : Nat) : State :=
  s.updCtx c fun x => { x with logs := tput true x.logs (bits (s.reg (rplctlAt c)) 12 40) n }

/-- Appends an entry to the log in record mode. The manual does not give the log's layout, so what a word differs by from the model's form of
its entry is left open. (DESIGN CHOICE, assumption 5) (DESIGN CHOICE, assumption 23) -/
def State.logAppend (s : State) (c : Fin 16) (w : Word) : State :=
  if s.replayMode c = 1 then
    let n := s.logLength c
    (s.writeHome c 0 (s.logAt c n) 8 (w ^^^ Config.logMask n).toNat).setLogLength c (n + 1)
  else s

/-- A log entry: its kind, the key it is about and its value. -/
def logEntry (kind key v : Nat) : Word := field 60 4 kind ||| field 32 28 key ||| field 0 32 v

/-- The entry at a place of the log, as memory holds it. -/
def State.logWord (s : State) (c : Fin 16) (n : Nat) : Word :=
  BitVec.ofNat 64 (s.mem.read (offsetOf (s.logAt c n)) 8) ^^^ Config.logMask n

/-- Whether the entry at a place of the log is of a kind and key. -/
def State.logAbout (s : State) (c : Fin 16) (kind key n : Nat) : Bool :=
  bits (s.logWord c n) 60 4 = kind && bits (s.logWord c n) 32 28 = key

/-- The next logged value for a kind and key in replay mode. -/
def State.logNext (s : State) (c : Fin 16) (kind key : Nat) : Option Nat :=
  if s.replayMode c = 2 then ((s.ctx c).todo.find? (s.logAbout c kind key)).map fun n => bits (s.logWord c n) 0 32 else none

/-- The next logged entry of a kind and key has been replayed. (DESIGN CHOICE, assumption 23) -/
def State.logTake (s : State) (c : Fin 16) (kind key : Nat) : State :=
  if s.replayMode c = 2 then
    match takeFirst (s.logAbout c kind key) (s.ctx c).todo with
    | some (_, l) => s.updCtx c fun x => { x with todo := l }
    | none => s
  else s

/-! ### Accumulator rows (R396 to R401) -/

/-- A count that saturates at 2^32 - 1 (R401). -/
def satCount (n : Nat) : Nat := min n 4294967295

def Counts.add (a b : Counts) : Counts :=
  { rn := satCount (a.rn + b.rn), tr := satCount (a.tr + b.tr), tz := satCount (a.tz + b.tz) }

/-- A row with its counts and the flags its events have raised. -/
structure RowUnit where
  row    : AccRow
  counts : Counts
  flags  : Flags
  deriving DecidableEq, Repr

/-- floor(n * 2^(e - E)): arithmetic alignment, toward minus infinity (R397). -/
def alignTo (n e big : Int) : Int := if big ≤ e then n * 2 ^ (e - big).toNat else n / 2 ^ (big - e).toNat

/-- Whether an alignment discards nonzero bits. -/
def alignLoses (n e big : Int) : Bool := !(decide (big ≤ e)) && decide (n % 2 ^ (big - e).toNat ≠ 0)

/-- Whether |n * 2^e| is at least 2^k. -/
def reaches (n e k : Int) : Bool := decide (n ≠ 0) && decide (k ≤ (Nat.log2 n.natAbs : Int) + e)

/-- round_ne(M / 2^8) (R399). -/
def roundByte (m : Int) : Int :=
  let q := m / 256
  let r := m % 256
  if r > 128 ∨ (r = 128 ∧ q % 2 = 1) then q + 1 else q

/-- The code of an infinity (R396). -/
def infCode (neg : Bool) : BitVec 2 := if neg then 2 else 1

/-- One more counted addend whose alignment lost bits, giving `q` (R401). -/
def RowUnit.lost (u : RowUnit) (q : Int) : RowUnit :=
  { u with counts := { u.counts with tr := satCount (u.counts.tr + 1),
                                     tz := if q = 0 ∨ q = -1 then satCount (u.counts.tz + 1) else u.counts.tz } }

/-- An overflow event (R399). -/
def RowUnit.overflow (u : RowUnit) : RowUnit :=
  let r := u.row
  { row := { r with s := Vector.ofFn fun j : Fin 16 => if r.s[j] = 0 ∧ r.m[j] ≠ 0 then infCode (decide (r.m[j] < 0)) else r.s[j],
                    m := Vector.replicate 16 0, ovr := true, h := 8355839 },
    counts := { u.counts with rn := satCount (u.counts.rn + 1) }, flags := u.flags ||| fOF }

/-- A renormalisation; true when it is an overflow event instead (R399). -/
def RowUnit.renormalise (u : RowUnit) : RowUnit × Bool :=
  if u.row.e + 8 > 511 then (u.overflow, true)
  else
    ({ u with row := { u.row with m := u.row.m.map roundByte, e := u.row.e + 8, h := 8355839 },
              counts := { u.counts with rn := satCount (u.counts.rn + 1) } }, false)

/-- A non-finite addend, or a finite one, meets the code of an element (R400). -/
def RowUnit.addCode (u : RowUnit) (j : Fin 16) (a : Addend) : RowUnit :=
  let c := u.row.s[j]
  let put (x : BitVec 2) (fl : Flags) : RowUnit := { u with row := { u.row with s := u.row.s.set j x }, flags := u.flags ||| fl }
  match a with
  | .fin _ _ => u
  | .nan nv => put 3 (if nv then fNV else 0)
  | .inf neg =>
    if c = 0 then put (infCode neg) 0
    else if c = 3 ∨ c = infCode neg then u
    else put 3 fNV

/-- The loop of R397 that makes room for a step's products; at most 130 rounds raise E from -512 past 511. -/
def RowUnit.makeRoom (u : RowUnit) (n : Nat) (ps : List (Int × Int)) : Nat → RowUnit
  | 0 => u
  | k + 1 =>
    let big := ps.any fun p => reaches p.1 p.2 (u.row.e + 24)
    if u.row.ovr ∧ big then u.overflow
    else if n ≤ u.row.h ∧ !big then u
    else u.renormalise.1.makeRoom n ps k

/-- Adds one finite product to an element (R397). -/
def RowUnit.addFinite (u : RowUnit) (j : Fin 16) (n e : Int) : RowUnit :=
  if u.row.s[j] ≠ 0 then u
  else if reaches n e (u.row.e + 24) then { u with row := { u.row with s := u.row.s.set j (infCode (decide (n < 0))) } }
  else
    let q := alignTo n e u.row.e
    let u := if alignLoses n e u.row.e then u.lost q else u
    { u with row := { u.row with m := u.row.m.set j (u.row.m[j] + q) } }

/-- The non-finite addends of a step or row, by R400. -/
def RowUnit.addCodes (u : RowUnit) (ps : List (Nat × Addend)) : RowUnit :=
  ps.foldl (fun u p => u.addCode (fin 16 p.1) p.2) u

def Addend.finite : Addend → Option (Int × Int)
  | .fin n e => some (n, e)
  | _ => none

/-- A product step of `n` products an element (R397). -/
def RowUnit.products (u : RowUnit) (n : Nat) (ps : List (Nat × Addend)) : RowUnit :=
  let fins := ps.filterMap fun p => p.2.finite
  let nz := fins.filter fun p => p.1 ≠ 0
  let u' : Option RowUnit :=
    if u.row.z then
      match nz with
      | [] => none
      | p :: l =>
        let lead (p : Int × Int) : Int := (Nat.log2 p.1.natAbs : Int) + p.2
        let top := l.foldl (fun m p => max m (lead p)) (lead p)
        some { u with row := { u.row with e := max (top - 23) (-512), z := false } }
    else some u
  match u' with
  | none => u.addCodes ps
  | some u =>
    let u := u.makeRoom n fins 200
    let u := ps.foldl (fun u p => match p.2 with | .fin a e => u.addFinite (fin 16 p.1) a e | _ => u) u
    ({ u with row := { u.row with h := u.row.h - n } }).addCodes ps

/-- The elements of an incoming row that are not finite, as addends. -/
def AccRow.codes (s : AccRow) : List (Nat × Addend) :=
  (List.finRange 16).filterMap fun j =>
    if s.s[j] = 1 then some (j.val, .inf false) else if s.s[j] = 2 then some (j.val, .inf true)
    else if s.s[j] = 3 then some (j.val, .nan false) else none

/-- The aligned addend of element `j` of a row-add. -/
def AccRow.aligned (s : AccRow) (big : Int) (j : Fin 16) : Int := alignTo s.m[j] s.e big

/-- The finite elements that a row-add adds to. -/
def pairs (r s : AccRow) : List (Fin 16) := (List.finRange 16).filter fun j => r.s[j] = 0 && s.s[j] = 0

/-- The headroom a row-add takes (R398). -/
def rowCost (r s : AccRow) : Nat :=
  let top := (pairs r s).foldl (fun m j => max m (s.aligned r.e j).natAbs) 0
  max 1 ((top + 16777215) / 16777216)

/-- What the loop of R398 comes to: the row with room, the headroom the addition takes and, where an overflow ended the loop, the row
as it stood before that. -/
structure RowRoom where
  unit   : RowUnit
  cost   : Nat
  before : Option AccRow
  deriving DecidableEq, Repr

/-- The loop of R398. -/
def RowUnit.makeRowRoom (u : RowUnit) (s : AccRow) : Nat → RowRoom
  | 0 => { unit := u, cost := rowCost u.row s, before := none }
  | k + 1 =>
    let c := rowCost u.row s
    if c ≤ u.row.h then { unit := u, cost := c, before := none }
    else
      let x := u.renormalise
      if x.2 then { unit := x.1, cost := c, before := some u.row } else x.1.makeRowRoom s k

/-- Adds the aligned element `j` of a row to a finite one, and counts what the alignment loses (R398, R401). -/
def RowUnit.addAligned (s : AccRow) (u : RowUnit) (j : Fin 16) : RowUnit :=
  let a := s.aligned u.row.e j
  let u := if alignLoses s.m[j] s.e u.row.e then u.lost a else u
  { u with row := { u.row with m := u.row.m.set j (u.row.m[j] + a) } }

/-- An overflow ended the loop: an element whose aligned addend is not zero becomes the infinity of its sign, the addends are zero, and
each that was not exactly zero is counted (R398). -/
def RowUnit.addOverflowed (s before : AccRow) (u : RowUnit) (j : Fin 16) : RowUnit :=
  let a := s.aligned before.e j
  let u := if a ≠ 0 then { u with row := { u.row with s := u.row.s.set j (infCode (decide (a < 0))) } } else u
  if s.m[j] ≠ 0 then u.lost 0 else u

/-- A row-add (R398). (DEDUCED, assumption 36) -/
def RowUnit.addRow (u : RowUnit) (s : AccRow) : RowUnit :=
  let u := { u with row := { u.row with psn := u.row.psn || s.psn, ovr := u.row.ovr || s.ovr } }
  if s.z then u.addCodes s.codes
  else if u.row.z then
    ({ u with row := { u.row with z := false, e := s.e, h := s.h,
                                  m := Vector.ofFn fun j : Fin 16 => if u.row.s[j] = 0 then s.m[j] else u.row.m[j] } }).addCodes s.codes
  else
    let x := u.makeRowRoom s 200
    let u := match x.before with
      | some r => (pairs r s).foldl (RowUnit.addOverflowed s r) x.unit
      | none => (pairs x.unit.row s).foldl (RowUnit.addAligned s) x.unit
    ({ u with row := { u.row with h := u.row.h - x.cost } }).addCodes s.codes

/-! ### Products (R394, R400, R406) -/

/-- The exact product of two data times 2^t, as an addend. -/
def productOf (a b : Datum) (t : Int) : Addend :=
  match a, b with
  | .fin s1 m1 e1, .fin s2 m2 e2 =>
    let n : Int := m1 * m2
    .fin (if s1 != s2 then -n else n) (e1 + e2 + t)
  | .nan x, y => .nan (x || y.isSig)
  | x, .nan y => .nan (y || x.isSig)
  | .inf x, .inf y => .inf (x != y)
  | .inf x, .fin y m _ => if m = 0 then .nan true else .inf (x != y)
  | .fin x m _, .inf y => if m = 0 then .nan true else .inf (x != y)

/-- A datum times 2^t as an addend (R407). -/
def addendOf (a : Datum) (t : Int) : Addend :=
  match a with
  | .fin s m e => .fin (if s then -(m : Int) else m) (e + t)
  | .inf s => .inf s
  | .nan b => .nan b

/-! ### The store (R402, R403) -/

/-- Raises flags of a page in PGFLAG of its site (R287, R400). -/
def State.pageFlags (s : State) (site : Nat) (fl : Flags) : State :=
  if fl = 0 then s else s.setReg (pgflagAt site) (s.reg (pgflagAt site) ||| fl.setWidth 64)

/-- The slot that an event acts on. -/
def AccEvent.slot : AccEvent → Fin 4
  | .rowAdd _ n _ _ _ => n
  | .product _ n _ _ _ => n
  | .clear _ n => n
  | .drain _ n _ => n

/-- The source of an event, as the replay log names it (R452). -/
def AccEvent.source (site : Nat) : AccEvent → Nat
  | .rowAdd src _ row _ _ => if src = site then row.val else 0x10000 + src * 16 + row.val
  | .product k _ _ _ _ => 0x30000 + k
  | .clear k _ => 0x30000 + k
  | .drain _ _ _ => 0x20000

def AccStore.unit (x : AccStore) (n : Fin 4) (row : Fin 16) : RowUnit := { row := x.rows[n][row], counts := x.counts[n], flags := 0 }

def AccStore.setUnit (x : AccStore) (n : Fin 4) (row : Fin 16) (u : RowUnit) : AccStore :=
  { x with rows := x.rows.set n (x.rows[n].set row u.row), counts := x.counts.set n u.counts }

/-- A slot cleared by R396. -/
def AccStore.clearSlot (x : AccStore) (n : Fin 4) (counts : Bool) : AccStore :=
  { x with rows := x.rows.set n (Vector.replicate 16 AccRow.cleared),
           counts := if counts then x.counts.set n Counts.zero else x.counts }

/-- Puts the rows that an SDRN has read into its transfer. -/
def Desc.withRows (rows : Vector AccRow 16) : Desc → Desc
  | .drain fmt rm tbl scl _ e site asl ep => .drain fmt rm tbl scl (some rows) e site asl ep
  | d => d

def State.streamer (s : State) (p : Nat) : Streamer := tget Streamer.reset s.streams p

def State.setStreamer (s : State) (p : Nat) (x : Streamer) : State := { s with streams := tput true s.streams p x }

/-- The unit that runs SDRN transfers, beside the 128 streamers. -/
def drainUnit : Nat := 128

/-- Applies an event to a store. -/
def State.applyEvent (s : State) (site : Nat) (ev : AccEvent) : State :=
  let x := s.site site
  let put (s : State) (a : AccStore) : State := s.setSite site { s.site site with acc := a }
  match ev with
  | .rowAdd _ n row r c =>
    let u := x.acc.unit n row
    let u := ({ u with counts := u.counts.add c } : RowUnit).addRow r
    (put s (x.acc.setUnit n row u)).pageFlags site u.flags
  | .product _ n row k ps =>
    let u := (x.acc.unit n row).products k ps
    (put s (x.acc.setUnit n row u)).pageFlags site u.flags
  | .clear _ n => put s (x.acc.clearSlot n true)
  | .drain id n clear =>
    let d := s.streamer drainUnit
    let rows := x.acc.rows[n]
    let s := s.setStreamer drainUnit { d with xfers := d.xfers.map fun t => if t.id = id then { t with desc := t.desc.withRows rows } else t }
    put s (if clear then x.acc.clearSlot n false else x.acc)

/-- The context whose instance claims a slot of a store (R402). -/
def State.claimOf (s : State) (site : Nat) (n : Fin 4) : Option (Fin 16) := (s.site site).acc.claim[n]

/-- Whether replay lets an event of a store be applied next (R452). -/
def State.mayApply (s : State) (site : Nat) (ev : AccEvent) : Bool :=
  match s.claimOf site ev.slot with
  | some c =>
    match s.logNext c 3 (site * 4 + ev.slot) with
    | some src => src == ev.source site
    | none => true
  | none => true

/-- The store of a site applies the next event of its arrival queue (R403). -/
def State.accApply (s : State) (site : Nat) : State :=
  match takeFirst (s.mayApply site) (s.site site).acc.queue with
  | some (ev, q) =>
    let s := s.setSite site { s.site site with acc := { (s.site site).acc with queue := q } }
    let s := match s.claimOf site ev.slot with
      | some c => (s.logAppend c (logEntry 3 (site * 4 + ev.slot) (ev.source site))).logTake c 3 (site * 4 + ev.slot)
      | none => s
    s.applyEvent site ev
  | none => s

def State.accDrain (s : State) (site : Nat) : Nat → State
  | 0 => s
  | n + 1 => (s.accApply site).accDrain site n

def State.accQueue (s : State) (site : Nat) : List AccEvent := (s.site site).acc.queue

/-- Whether the arrival queue has room (R403). -/
def State.accRoom (s : State) (site : Nat) : Bool := decide ((s.accQueue site).length < 32)

/-- An event arrives at a store. -/
def State.accPost (s : State) (site : Nat) (ev : AccEvent) : State :=
  s.setSite site { s.site site with acc := { (s.site site).acc with queue := (s.accQueue site) ++ [ev] } }

def execStoreEventApply (site : Fin 1024) (s : State) : Result := .next (s.accApply site)

/-! ### Thread accumulator instructions (R405 to R410) -/

/-- Whether the current thread may use a slot of its core (R402). -/
def State.accAllowed (s : State) (n : Fin 4) : Bool :=
  s.th.onBarrel && (match s.claimOf s.th.site n with | some c => c == s.th.ctx | none => true)

/-- Posts an event of the current thread, waiting for room (R405). -/
def postAcc (s : State) (n : Fin 4) (ev : AccEvent) (k : State → Result) : Result :=
  if !s.accAllowed n then trapNow s 0x0C
  else if s.accRoom s.th.site then k (s.accPost s.th.site ev)
  else .next (s.block .accQueue)

/-- Row, element and scale of a control operand (R406). -/
def accRow (b : Word) : Fin 16 := fin 16 (bits b 0 4)
def accElem (b : Word) : Nat := bits b 4 4
def accScale (b : Word) : Int := (BitVec.ofNat 8 (bits b 8 8)).toInt

def execAcca (a b : Reg) (n : Fin 4) (s : State) : Result :=
  let x := unpack w19 (bits (s.gr a) 0 19)
  let y := unpack w19 (bits (s.gr a) 19 19)
  let c := s.gr b
  postAcc s n (.product s.th.slot n (accRow c) 1 [(accElem c, productOf x y (accScale c))]) done

/-- The 64 bytes of a line as four granule loads of the current thread (R407). -/
def State.lineLoad (s : State) (p : Word) (pa : Nat) : Nat → List (BitVec 128) → Except Trouble (State × List (BitVec 128))
  | 0, l => .ok (s, l)
  | n + 1, l =>
    match s.loadAt p (pa + 16 * (3 - n)) 16 true with
    | .error e => .error e
    | .ok (s, v) => s.lineLoad p pa n (l ++ [v])

def execAccr (a b : Reg) (n : Fin 4) (s : State) : Result :=
  let p := s.gr a
  let c := s.gr b
  if !s.accAllowed n then trapNow s 0x0C
  else if !s.accRoom s.th.site then .next (s.block .accQueue)
  else
    let insn := s.insn
    match s.check p (plainAddress p) (cacheReq 64 false) with
    | .error e => inTrouble s p e
    | .ok pa =>
      match s.lineLoad p pa 4 [] with
      | .error e => inTrouble s p e
      | .ok (s, l) =>
        let ps := (imageWords l).mapIdx fun j w => (j, addendOf (unpack (fmtOf .f32) w.toNat) (accScale c))
        let s := s.accPost s.th.site (.product s.th.slot n (accRow c) 1 ps)
        done (s.threadTouch insn p pa 64 true false false)

def execAccz (n : Fin 4) (s : State) : Result := postAcc s n (.clear s.th.slot n) done

/-- A read that sees every earlier event of the thread: the queue is applied first (R404). (DEDUCED, assumption 36) -/
def readAcc (s : State) (n : Fin 4) (k : State → AccStore → Result) : Result :=
  if !s.accAllowed n then trapNow s 0x0C
  else
    let s := s.accDrain s.th.site (s.accQueue s.th.site).length
    if (s.accQueue s.th.site).isEmpty then k s (s.site s.th.site).acc else .next (s.block .accQueue)

/-- ACCN's word (R409). -/
def accState (x : AccStore) (n : Fin 4) (c : Word) : Word :=
  let r := x.rows[n][accRow c]
  match bits c 8 2 with
  | 0 => flag 63 r.z ||| flag 62 r.ovr ||| flag 61 r.psn ||| field 48 10 (BitVec.ofInt 10 r.e).toNat ||| field 0 24 r.h
  | 1 => BitVec.ofNat 64 x.counts[n].rn
  | 2 => BitVec.ofNat 64 x.counts[n].tr
  | _ => BitVec.ofNat 64 x.counts[n].tz

def execAccn (d b : Reg) (n : Fin 4) (s : State) : Result :=
  readAcc s n fun s x => .next (forfeit 1 ((s.setG d (accState x n (s.gr b))).advance))

/-- An element converted to a format, exactly scaled by 2^k first (R410, R412). -/
def AccRow.convert (r : AccRow) (j : Fin 16) (f : Fmt) (m : Round) (k : Int) : Nat × Flags :=
  if r.s[j] = 1 then (infBits f false, 0)
  else if r.s[j] = 2 then (infBits f true, 0)
  else if r.s[j] = 3 then (canonNan f, 0)
  else if r.z then (0, 0)
  else roundFin f m false (decide (r.m[j] < 0)) r.m[j].natAbs (r.e + k) false

/-- ACCX's raw word (R410). -/
def AccRow.raw (r : AccRow) (j : Fin 16) : Word :=
  field 0 48 (BitVec.ofInt 48 r.m[j]).toNat ||| field 48 2 r.s[j].toNat

def execAccx (d b : Reg) (n : Fin 4) (s : State) : Result :=
  readAcc s n fun s x =>
    let c := s.gr b
    let r := x.rows[n][accRow c]
    let j := fin 16 (accElem c)
    if bit c 8 then .next (forfeit 1 ((s.setG d (r.raw j)).advance))
    else
      let v := r.convert j (fmtOf .f32) s.roundMode 0
      doneInt s d (BitVec.ofNat 64 v.1) v.2 1

end Sys2Proof.Machine
end

