-- ==== Sys2Proof/Machine/Events.lean ====
section
/-!
DEFINITION. Sys2Proof/Machine/Events.lean: the events of threads, homes, caches, tokens, barriers, signals and hypothesis
controllers: what the device does of its own accord (R80 to R82, R91, R141, R153, R154, R164, R169, R170, R174, R190, R191,
R196, R197, R202, R216, R221, R243 to R247, R269 to R274).
-/
namespace Sys2Proof.Machine

/-! ### Waits (R80, R81, R91, R141) -/

/-- The current thread leaves WAIT or LOAD and issues at its next turn (R81). -/
def State.wake (s : State) : State := { s with th := { s.th with st := .run, wait := .none } }

/-- The end of a division: the destination is written and the thread goes on (R91). -/
def divideEnd (d : Reg) (v : Word) (s : State) : Result := .next ((s.wake.setG d v).advance)

def execDivideComplete (p : Place) (s : State) : Result :=
  onThread p s fun s =>
    match s.th.wait with
    | .divide _ d v => divideEnd d v s
    | _ => .next s

def execTbldComplete (p : Place) (s : State) : Result := .next (s.settleTable p (2 * s.rest.length + 2))

/-- The register image is complete: LOAD becomes RUN (R82). -/
def execImageWriteComplete (p : Place) (s : State) : Result :=
  onThread p s fun s => if s.th.st = .load ∧ s.th.resident then .next s.wake else .next s

/-! ### Walks and fills (R153, R154) -/

/-- One level of the current thread's walk returns (R151, R153, R154). A prefetch whose page would fault is discarded: its thread
goes on (R166). -/
def walkTurn (addr : Word) (va level table : Nat) (why : WalkFor) (s : State) : Result :=
  let c := s.th.cx
  let e := s.walkRead level table va
  let s := s.exchange (homeKey (offsetOf (walkEntry level table va)))
  match s.walkStep c level e with
  | .table pa => .next (s.block (.walk addr va (level + 1) pa why))
  | .leaf e =>
    let n := leafLog level
    .next (s.tlbAdd { owner := .core s.th.core, ctx := c, va := va / 2 ^ n * 2 ^ n, log2 := n, leaf := e, stale := false }).wake
  | .fill =>
    if why = .prefetch then .next s.wake.advance
    else if s.fillOpen c then
      let k := walkEntry level table va
      .next ((s.askFill c k va).block (.fill k addr))
    else .next (s.wake.pageFault 0x09 3 addr)
  | .fault cause => if why = .prefetch then .next s.wake.advance else .next (s.wake.pageFault cause level addr)

def execTlbWalkLevelReturn (p : Place) (s : State) : Result :=
  onThread p s fun s =>
    match s.th.wait with
    | .walk addr va level table why => walkTurn addr va level table why s
    | _ => .next s

/-- Part of a sorted table, at its place in another (R154). -/
def spliceTable {α : Type} (src dst : Sparse α) (a b n : Nat) : Sparse α :=
  dst.filter (fun e => e.1 < b) ++ (src.filter fun e => a ≤ e.1 && e.1 < a + n).map (fun e => (e.1 - a + b, e.2)) ++
    dst.filter fun e => b + n ≤ e.1

/-- Copies `n` bytes with tags and full-empty bits; the copy is not poisoned. -/
def Mem.copyPage (src dst : Mem) (a b n : Nat) : Mem :=
  { bytes := spliceTable src.bytes dst.bytes a b n,
    tags := spliceTable src.tags dst.tags (a / 16) (b / 16) (n / 16),
    full := spliceTable src.full dst.full (a / 16) (b / 16) (n / 16),
    poison := dst.poison.filter fun e => !(b / 16 ≤ e.1 && e.1 < (b + n) / 16) }

/-- Whether a wait is for the fill of an entry. -/
def Wait.fills (k : Nat) : Wait → Bool
  | .fill j _ => j == k
  | _ => false

/-- The threads that wait for a fill of an entry. -/
def State.fillWaiters (s : State) (k : Nat) : List Place :=
  (s.threads.filter fun t => t.wait.fills k && t.resident).map (·.place)

/-- A hardware fill ends: the page and its tags are copied from the peer, the waiters of granules that the copy made full are served
(R164), and V is set; or the waiting threads' faults go to the host (R154). -/
def execPageFillComplete (k : Nat) (err : Bool) (s : State) : Result :=
  match (List.finRange 16).find? fun c => (s.ctx c).fills.any fun f => f.1 = k with
  | none => .next s
  | some c =>
    let s := s.updCtx c fun x => { x with fills := x.fills.filter fun f => f.1 ≠ k }
    let e : Word := BitVec.ofNat 64 (s.readHome 0 0 k 8)
    let dst := offsetOf (pteAddr e)
    let src := bits (s.reg (cxpeerAt c)) 0 11 * 2 ^ 41 + dst
    let bad := s.peers.poison.any fun g => src / 16 ≤ g.1 && g.1 < (src + 65536) / 16
    if err ∨ bad ∨ !s.fillOpen c then
      let s : State := { s with streams := s.streams.map fun (p, v) =>
        (p, { v with xfers := v.xfers.map fun (t : Xfer) => if t.fillAt = some k then { t with fillAt := none, nofill := true } else t }) }
      .next ((s.fillWaiters k).foldl
        (fun s p => match s.focus p with
          | some s =>
            match s.th.wait with
            | .fill _ addr => s.wake.pageFault 0x09 3 addr
            | _ => s
          | none => s) s)
    else
      let s := { s with mem := s.peers.copyPage s.mem src dst 65536 }
      let s := s.writeHome c 0 k 8 (e.toNat ||| 1)
      let s := (s.feq.map (·.1)).foldl
        (fun (s : State) g => if s.isLocal (16 * g) ∧ dst ≤ offsetOf (16 * g) ∧ offsetOf (16 * g) < dst + 65536 ∧ hasFull (16 * g)
          then s.serveWaiters (16 * g) s.feq else s) s
      .next (s.mapThreads fun t => if t.wait.fills k then { t with st := .run, wait := .none } else t)

/-! ### Stores, atomics and full-empty waiters (R164, R174, R202) -/

/-- A store-buffer entry performs at its home (R174). (DESIGN CHOICE, assumption 2) -/
def execStorePerform (k : Nat) (s : State) : Result :=
  match s.sbuf.find? fun e => e.id = k && !e.isAtom with
  | some e => .next (s.perform e)
  | none => .next s

/-- A buffered atomic is applied at its home (R202). -/
def execAtomicApply (k : Nat) (s : State) : Result :=
  match s.sbuf.find? fun e => e.id = k && e.isAtom with
  | some e => .next (s.perform e)
  | none => .next s

/-- An unrecorded waiter is sent again: it is served when its granule is full, recorded when the home has room (R164). -/
def execFeWaiterRetry (p : Place) (s : State) : Result :=
  match s.findThread p with
  | some t =>
    match t.wait with
    | .full pa size tag va dst consume false limit ins =>
      if s.fullHome pa then .next (s.serveOne p)
      else if s.recordedAt pa < 64 then
        .next { s.updThread p fun t => { t with wait := .full pa size tag va dst consume true limit ins } with
          feq := s.feq ++ [(pa / 16, .thread p, consume)] }
      else .next s
    | _ => .next s
  | none => .next s

/-! ### Watchpoint delivery (R169) -/

/-- The pending WATCH record of the lowest-numbered watchpoint of a thread, and the others. -/
def Thread.takeWatch (t : Thread) : Option (WatchRecord × List WatchRecord) :=
  (List.finRange 4).findSome? fun n => takeFirst (fun w => w.n == n) t.watches

/-- Whether the current thread takes a WATCH trap at this turn, which comes between two instructions (R169). -/
def State.watchDue (s : State) : Bool :=
  !s.th.watches.isEmpty && !s.th.intrap && s.th.st == .run && !s.th.mid && s.th.resident

/-- The WATCH trap of the current thread (R169). -/
def State.takeWatch (s : State) : State :=
  match s.th.takeWatch with
  | some (w, l) => { s with th := { s.th with watches := l } }.deliverMade w.record true
  | none => s

def execWatchDeliver (p : Place) (s : State) : Result :=
  onThread p s fun s => if s.watchDue then .next s.takeWatch else .next s

/-! ### Caravans (R170, R171, R254) -/

def State.setReserve (s : State) (n : Fin 1024) (k : Fin 16) (b : Bool) : State :=
  s.setSite n { s.site n with reserve := setBits (s.site n).reserve k 1 b.toNat }

/-- Whether a site takes landings of a context: enabled, not closing, and the context not being reset (R239, R254). -/
def State.takesLandings (s : State) (n : Fin 1024) (c : Fin 16) : Bool :=
  (s.site n).status == .enabled && !(s.ctx c).resetting

/-- A landing addressed to a switched-off core waits for the wake ring, which is asked for a wake (R444).
(DESIGN CHOICE, assumption 47) -/
def State.askWake (s : State) (n : Fin 1024) : Option State :=
  let x := s.site n
  if x.on then none
  else if x.waking.isSome then some s
  else some ({ s with clock := s.clock + 1 }.setSite n { x with waking := some s.clock })

/-- A landing request reaches the site it names, which answers (R17, R170). -/
def execLandingRequestArrive (k : Nat) (s : State) : Result :=
  match s.land[k]? with
  | some l =>
    if l.grant.isSome ∨ s.overtakes l.way then .next s
    else
      let c := match s.findThread l.place with | some t => t.ctx | none => 0
      if let some w := if s.takesLandings l.target c then s.askWake l.target else none then .next w else
      let slot := if s.takesLandings l.target c then s.openSlot l.target else none
      let s := match slot with | some j => s.setReserve l.target j true | none => s
      let (s, w) := s.post l.way.dst l.way.src
      .next { s with land := setAt s.land k { l with grant := some slot, way := w } }
  | none => .next s

/-- The reply reaches the core that asked: the caravan departs, or the access or VISIT goes on without it (R17, R170, R171). -/
def execLandingReplyArrive (k : Nat) (s : State) : Result :=
  match s.land[k]? with
  | some l =>
    match l.grant with
    | none => .next s
    | some slot =>
      if s.overtakes l.way then .next s else
      let s := { s with land := dropAt s.land k }
      onThread l.place s fun s =>
        if s.th.wait ≠ .landing then .next s
        else
          match slot with
          | none => if l.visit then .next s.wake.advance else .next { s.wake with th := { s.wake.th with pass := true } }
          | some j =>
            let s := (s.drain (ofSlot s.th)).wake
            let s := if l.visit then s.advance else s
            let from_ : Option (Fin 1024) := match s.th.place with | .slot n _ => some n | _ => none
            let (s, n) := s.tick
            .next { s with th := { s.th with place := .caravan l.target j, old := from_, landed := n } }
  | none => .next s

/-- The k-th caravan under way. -/
def State.caravanAt (s : State) (k : Nat) : Option Thread :=
  (s.threads.filter fun t => match t.place with | .caravan _ _ => true | _ => false)[k]?

/-- The launch queue on which a thread waits for resumption: that of its launch (R103, R235); a door thread and one with no
launch wait without one. -/
def State.homeQueue (s : State) (t : Thread) : Option (Fin 64) :=
  match t.origin with
  | .launch id => ((s.ctx t.ctx).queues.find? fun l => l.id = id).map (·.queue)
  | _ => none

/-- Makes a saved thread ready for resumption on the queue of its launch (R235). -/
def State.makeReady (s : State) (c : Fin 16) (tid : BitVec 24) : State :=
  match s.findThread (.saved c tid) with
  | some t =>
    let q := (s.homeQueue t).getD 0
    let (s, n) := s.tick
    s.updThread (.saved c tid) fun t => { t with ready := some q, landed := n }
  | none => s

/-! ### Flushes (R196, R197) -/

/-- The acknowledgement of a flush reaches the core that asked for it: the thread that waits for it goes on, after its own CFLX or with
the access that the flush of R197 held (R17, R196, R197). (DEDUCED, assumption 17) -/
def execFlushAckArrive (k : Nat) (s : State) : Result :=
  match s.flushes[k]? with
  | some f =>
    if s.overtakes f.way then .next s else
    let s := ({ s with flushes := dropAt s.flushes k }).flushEnd f
    let asked (t : Thread) : Bool := s.flushes.any fun g => !g.auto && decide (g.place = t.place)
    if f.auto then
      .next (s.mapThreads fun t => if t.wait = .flush ∧ t.ctx = f.ctx ∧ t.tid = f.tid ∧ t.onBarrel ∧ !asked t then
        { t with st := .run, wait := .none } else t)
    else
      onThread f.place s fun s =>
        if s.th.wait = .flush ∧ s.th.cx = f.ctx ∧ s.th.id = f.tid then .next s.wake.advance else .next s
  | none => .next s

/-! ### Tokens (R191 to R193) -/

/-- A token request at its home: granted, queued, or sent again later when 256 requests wait (R191, R193). (DEDUCED, assumption 17) -/
def State.tokenRequest (s : State) (k : Nat) (c : Fin 16) (r : Nat) (who : Holder) (p : Place) (byStore : Bool) : State :=
  match s.findHolder c who with
  | none => { s with tokmsgs := dropAt s.tokmsgs k }
  | some t =>
    if !s.takesGrants t then s
    else
      let s := s.send t.key (s.tokenKey c r)
      let x := s.token c r
      let rest := dropAt s.tokmsgs k
      match x.holder with
      | none =>
        let s := s.setToken c { x with holder := some who, site := some t.core, used := false, called := x.queue.any (·.2) }
        { s with tokmsgs := rest }.sendGrant c r who p
      | some u =>
        if u = who then { s.setToken c { x with used := false } with tokmsgs := rest }.sendGrant c r who p
        else if x.queue.length < 256 then
          let s := s.setToken c { x with queue := x.queue ++ [(who, byStore)], called := x.called || byStore }
          { s with tokmsgs := rest }
        else { s with tokmsgs := setAt s.tokmsgs k (.retry c r who p byStore) }

def execTokenRequestArrive (k : Nat) (s : State) : Result :=
  match s.tokmsgs[k]? with
  | some (.request c r who p b w) =>
    if s.overtakes w then .next s else .next (s.tokenRequest k c r who p b)
  | _ => .next s

def execTokenRequestRetry (k : Nat) (s : State) : Result :=
  match s.tokmsgs[k]? with
  | some (.retry c r who p b) => .next (s.tokenRequest k c r who p b)
  | _ => .next s

/-- The bytes that a waiting access covers at its home, where it has been translated (R85, R262). -/
def Wait.address : Wait → Option Nat
  | .buffer pa => some pa
  | .overlap pa _ => some pa
  | .version pa => some pa
  | _ => Option.none

/-- Whether the holder of a region's token waits on an access of its own to the region, or on one whose address it has not translated
yet, or is about to make it (R193). (DEDUCED, assumption 17) -/
def State.holderBusy (s : State) (c : Fin 16) (r : Nat) (who : Holder) : Bool :=
  match s.findHolder c who with
  | none => false
  | some t => t.mid && t.cx == c &&
    (match t.wait with
     | .none => true
     | .walk _ _ _ _ _ => true
     | .fill _ _ => true
     | .flush => true
     | .token r' acq _ => r' == r && !acq
     | w =>
       match w.address with
       | some pa => s.localHbm pa && s.regionOf t.core c (offsetOf pa) == some r
       | none => false)

/-- Whether a granted access of the holder has still to perform: one that ended in a trap has not (R193). -/
def State.grantOpen (s : State) (c : Fin 16) (x : Token) (who : Holder) : Bool :=
  !x.used && ((s.findHolder c who).map (·.mid)).getD false

/-- The recall of a token, named by context and region as `context * 4096 + region`, completes after the holder's granted
access has performed, and after an access of its own to the region that the holder waits on (R191, R193). -/
def execTokenRecallComplete (k : Nat) (s : State) : Result :=
  let c := fin 16 (k / 4096)
  let x := s.token c (k % 4096)
  match x.holder with
  | none => .next s
  | some who =>
    if x.called ∧ !s.grantOpen c x who ∧ !s.holderBusy c (k % 4096) who then .next (s.giveUp c (k % 4096) true) else .next s

/-- A message reaches a thread wherever it is: in a slot at its core's interface (R244); a saved one, in its save record, and one in a
caravan meet it at no interface, which the spec leaves open, and their floor rises to the send stamp plus 1 (R245).
(DESIGN CHOICE, assumption 54) -/
def State.reach (s : State) (home : Nat) (p : Place) : State :=
  match s.findThread p with
  | none => s
  | some t =>
    if t.resident then s.tell home p
    else
      let u := t.raise (s.stamp home + 1)
      (s.updThread p fun _ => u).pokeImage u 0 u.floor

/-- A grant reaches the thread that asked (R191 to R193); a closing site accepts none (R254). -/
def execTokenGrantArrive (k : Nat) (s : State) : Result :=
  match s.tokmsgs[k]? with
  | some (.grant c r who _ w) =>
    if s.overtakes w then .next s
    else
      match s.findHolder c who with
      | none => .next { s with tokmsgs := dropAt s.tokmsgs k }
      | some t =>
        if !s.takesGrants t then .next s
        else
          let s := { s with tokmsgs := dropAt s.tokmsgs k }
          let used (s : State) : State := s.setToken c { s.token c r with used := true }
          match t.wait with
          | .token r' acq _ =>
            if r' = r ∧ t.resident ∧ t.cx = c then
              onThread t.place s fun s =>
                let s := (s.tell (s.tokenKey c r) t.place).wake
                if acq then .next ((used s).tokenAcquired r).advance else .next s
            else .next (used (s.reach (s.tokenKey c r) t.place))
          | _ => .next (used (s.reach (s.tokenKey c r) t.place))
  | _ => .next s

/-! ### Evictions (R24, R190) -/

/-- The LLC replaces a line; a dirty one is written to HBM first, which no reader can tell (R24). (DESIGN CHOICE, assumption 14) -/
def execLlcEvict (line : Nat) (s : State) : Result :=
  if s.vers.any fun v => v.line = line then .next s else .next { s with llc := tput false s.llc line false }

def execCacheEvict (k : Nat) (s : State) : Result :=
  match s.cache[k]? with
  | some x => .next { s.writeBack x with cache := dropAt s.cache k }
  | none => .next s

/-! ### Barriers, timed waits, signals and time (R216, R221, R243, R246) -/

/-- The release of a completed phase reaches the member cores (R214, R216), and by R245 the floor of every thread whose arrival it
releases. -/
def execBarrierRelease (c : Fin 16) (b : Fin 4) (s : State) : Result :=
  let x := s.bar c b
  if x.ready then
    let l := (s.threads.filter fun t => !t.onControl && t.ctx = c && t.av[b] && t.aph[b] == x.phase).map (·.place)
    .next ((l.foldl (fun s p => s.reach barrierKey p) s).setBar c b x.release)
  else .next s

/-- A timed wait is evaluated at an issue turn: the event first, then the limit (R221). -/
def timedTurn (s : State) : Result :=
  match s.th.wait with
  | .barrier d b limit => barwTurn d b limit s
  | .signal d limit => twaitTurn d limit s
  | .outcome d h limit => hwaitTurn d h limit s
  | .full _ _ _ _ (.status d) _ _ limit _ => wtfeTurn d limit s
  | _ => .next s

def execTimedWaitTimeout (p : Place) (s : State) : Result :=
  onThread p s fun s =>
    if s.th.st = .wait ∧ s.th.resident then (if s.isOrphan then .next s.takeOrphan else timedTurn s) else .next s

/-- A signal reaches its target; signals of one issuer to one target arrive in issue order (R246). A saved target, or one in a caravan,
has no interface that would receive it, and the spec names none: its floor rises to the send stamp plus 1.
(DESIGN CHOICE, assumption 54) -/
def execSignalDeliver (k : Nat) (s : State) : Result :=
  match s.signals[k]? with
  | some g =>
    if ((s.signals.take k).any fun e => e.who = g.who && e.ctx = g.ctx && e.tid = g.tid) ∨ s.overtakes g.way then .next s
    else
      let s := { s with signals := dropAt s.signals k }
      match s.findTid g.ctx g.tid with
      | none => .next s
      | some t =>
        let own := if t.resident then s.stamp t.key else 0
        let r := if own.toNat < (g.stamp + 1).toNat then g.stamp + 1 else own
        let s := if t.resident then { s with stamps := tput true s.stamps t.key r } else s
        let u := { t with sigs := t.sigs ||| g.bits }.raise r
        .next (((s.updThread t.place fun _ => u).pokeImage u 0x278 u.ids).pokeImage u 0 u.floor)
  | none => .next s

/-! ### Interrupts (R241) -/

/-- Whether an interrupt withdraws the wait of a control core (R233, R241). -/
def Wait.yields : Wait → Bool
  | .full _ _ _ _ _ _ _ _ _ => true
  | .token _ _ _ => true
  | .barrier _ _ _ => true
  | .fill _ _ => true
  | .signal _ _ => true
  | .outcome _ _ _ => true
  | .version _ => true
  | .retire => true
  | _ => false

/-- The interrupt that the current control core takes now, if any: between two instructions, or in a wait that it withdraws; another
wait completes first, and the instruction with it (R241). -/
def State.interruptDue (s : State) : Option Nat :=
  match s.pendingInterrupt s.th with
  | some b => if (s.th.st = .run ∧ !s.th.mid) ∨ (s.th.st = .wait ∧ s.th.wait.yields) then some b else none
  | none => none

/-- Entry of an enabled pending interrupt, with a withdrawn wait at its instruction (R241). -/
def State.takeInterrupt (s : State) (b : Nat) : State := s.withdraw.interrupt b

def execInterruptEntry (core : Fin 16) (s : State) : Result :=
  onThread (.control core) s fun s =>
    match s.interruptDue with
    | some b => .next (s.takeInterrupt b)
    | none => .next s

/-! ### Hypothesis events (R269 to R274) -/

/-- The controller performs the next request when it is an HNEW or HSTAT (R269). -/
def execHypControllerRequest (c : Fin 16) (s : State) : Result :=
  match (s.ctx c).hypQ with
  | (_, .new _ _ _) :: _ => .next (s.hypServe c)
  | (_, .stat _ _ _) :: _ => .next (s.hypServe c)
  | _ => .next s

def execHconfMerge (c : Fin 16) (s : State) : Result :=
  match (s.ctx c).hypQ with
  | (_, .conf _ _) :: _ => .next (s.hypServe c)
  | _ => .next s

def execHrefDiscard (c : Fin 16) (s : State) : Result :=
  match (s.ctx c).hypQ with
  | (_, .refute _ _) :: _ => .next (s.hypServe c)
  | _ => .next s

def execOrphan (p : Place) (s : State) : Result :=
  onThread p s fun s =>
    if s.isOrphan ∧ s.th.resident ∧ (s.th.st = .run ∨ s.th.st = .wait) then .next s.takeOrphan else .next s

/-- A recorded outcome reaches a core: `k` is the outcome's place times 2,048 plus the core, control cores from 1,024 up (R274). The
outcomes of one controller reach a core in the order in which they were recorded (R17). -/
def execHypOutcomeArrive (k : Nat) (s : State) : Result :=
  match s.outmsgs[k / 2048]? with
  | some (c, h) =>
    let n := k % 2048
    let core : CoreId := if n < 1024 then .site (fin 1024 n) else .control (fin 16 (n - 1024))
    let waits (m : Fin 16 × Handle) : Bool := m.1 == c && !(s.seen.contains { ctx := c, h := m.2, core := core })
    if (s.outmsgs.take (k / 2048)).any waits then .next s
    else .next { s with seen := if s.seen.contains { ctx := c, h := h, core := core } then s.seen
                           else s.seen ++ [{ ctx := c, h := h, core := core }] }
  | none => .next s

/-! ### A turn in WAIT (R81) -/

/-- The response of another module: a load goes on with it, after the thread's older requests to its line (R434); a returning atomic
completes, or its trap is taken (R148, R201, R203). -/
def remoteTurn (pa : Nat) (addr : Word) (r : Option RemoteAtom) (s : State) : Result :=
  match r with
  | none =>
    let s := s.drain fun e => ofSlot s.th e && e.pa / 64 == pa / 64
    .next { s.wake with th := { s.wake.th with pass := true } }
  | some r =>
  match s.remoteAtom r with
  | .ok s => .next s
  | .error (cause, found) =>
    inTrouble s addr (.trap cause 0 (if cause = 0x0F then BitVec.ofNat 4 (bits r.ptr 60 4) else 0) (BitVec.ofNat 4 found))

/-- What the current thread's turn does while it waits: its own dependency may complete, and it then issues at its next turn;
else the turn is a bubble. -/
def waitTurn (s : State) : Result :=
  match s.th.wait with
  | .none => .next s.wake
  | .turns n => if n ≤ 1 then .next s.wake else .next (s.pause (n - 1))
  | .divide n d v => if n ≤ 1 then divideEnd d v s else .next (s.block (.divide (n - 1) d v))
  | .table _ _ _ _ => execTbldComplete s.th.place s
  | .walk addr va level table why => walkTurn addr va level table why s
  | .buffer _ =>
    match s.sbuf.find? fun e => ofSlot s.th e && s.canPerform e with
    | some e => .next (s.perform e).wake
    | none => .next s.wake
  | .overlap pa n =>
    let s := match s.sbuf.find? fun e => decide (e.core = s.th.core) && s.canPerform e with
      | some e => s.perform e
      | none => s
    if s.sbuf.any fun e => decide (e.core = s.th.core) && e.overlaps pa n then .next s else .next s.wake
  | .remote _ pa addr r => remoteTurn pa addr r s
  | .version _ => .next s.wake
  | .queue => .next s.wake
  | .port => .next s.wake
  | .accQueue => .next (s.accApply s.th.site).wake
  | .retire => .next s.wake
  | .device => .next s.wake
  | .flush => if s.awaitsFlush ∨ s.flushes.any (fun f => !f.auto && decide (f.place = s.th.place)) then .next s else .next s.wake
  | .barrier _ _ _ => timedTurn s
  | .signal _ _ => timedTurn s
  | .outcome _ _ _ => timedTurn s
  | .full _ _ _ _ _ _ _ _ _ => timedTurn s
  | .image => .next s
  | .fill _ _ => .next s
  | .landing => .next s
  | .token _ _ _ => .next s
  | .hyp _ => .next (s.hypServe s.th.cx)

def execIssueWaitComplete (p : Place) (s : State) : Result :=
  onThread p s fun s =>
    if s.th.st = .wait ∧ s.th.resident then (if s.isOrphan then .next s.takeOrphan else waitTurn s) else .next s

end Sys2Proof.Machine
end

