-- ==== Sys2Proof/Machine/Fabric.lean ====
section
/-!
DEFINITION. Sys2Proof/Machine/Fabric.lean: flits, tile headers and lanes, links, channels with their credits, the faults of
PEs, and the arrival of flits and credits (R115, R121 to R124, R277 to R284, R286, R287, R303).
-/
namespace Sys2Proof.Machine

/-! ### Flits, headers and lanes (R115, R121, R279) -/

def Flit.hdr (f : Flit) : Bool := bit f.ctl 1
def Flit.sot (f : Flit) : Bool := bit f.ctl 2
def Flit.eot (f : Flit) : Bool := bit f.ctl 3
def Flit.psn (f : Flit) : Bool := bit f.ctl 6
def Flit.last (f : Flit) : Bool := bit f.ctl 7

/-- The marks EOT, EOR, EOK and LAST of a flit (R282). -/
def Flit.marks (f : Flit) : BitVec 8 := f.ctl &&& 0xB8

/-- A data flit with marks; a poisoned one has zero data (R279). -/
def dataFlit (d : Word) (marks : BitVec 8) (psn : Bool) : Flit :=
  { data := if psn then 0 else d, ctl := marks &&& 0xB8 ||| 1 ||| (if psn then 0x40 else 0) }

/-- A header flit (R121, R279). -/
def headerFlit (d : Word) (psn : Bool) : Flit := { data := if psn then 0 else d, ctl := if psn then 0x47 else 0x07 }

/-- A flit with PSN set. -/
def Flit.poison (f : Flit) : Flit := { data := 0, ctl := f.ctl ||| 0x40 }

/-- The fields of a header (R121). -/
structure TileHdr where
  ety   : Nat
  tslot : Nat
  scale : Int
  rows  : Nat
  cols  : Nat
  rsv   : Bool
  deriving DecidableEq, Repr

def parseHdr (w : Word) : TileHdr :=
  { ety := bits w 60 4, tslot := bits w 58 2, scale := (BitVec.ofNat 8 (bits w 48 8)).toInt, rows := bits w 16 16,
    cols := bits w 0 16, rsv := bits w 56 2 != 0 || bits w 32 16 != 0 }

def headerWord (ety tslot : Nat) (scale : Int) (rows cols : Nat) : Word :=
  field 60 4 ety ||| field 58 2 tslot ||| field 48 8 (BitVec.ofInt 8 scale).toNat ||| field 16 16 rows ||| field 0 16 cols

/-- Elements of a tile. -/
def TileHdr.count (h : TileHdr) : Nat := (h.rows + 1) * (h.cols + 1)

/-- Whether an element type is an integer type, a floating-point type (R289). -/
def etyInt (t : Nat) : Bool := decide (t < 8)
def etyFloat (t : Nat) : Bool := decide (8 ≤ t) && decide (t < 13)

def intTypeOfEty (t : Nat) : IntType :=
  match t with
  | 0 => .i8 | 1 => .i16 | 2 => .i32 | 3 => .i64 | 4 => .n8 | 5 => .n16 | 6 => .n32 | _ => .n64

def fmtOfEty (t : Nat) : Fmt :=
  match t with
  | 8 => fmtOf .f16 | 9 => fmtOf .b16 | 10 => fmtOf .w19 | 11 => fmtOf .f32 | _ => fmtOf .f64

/-- Bits of a lane and lanes of a flit (R115). -/
def laneWidth (t : Nat) : Nat :=
  match t with
  | 0 => 8 | 4 => 8 | 13 => 8 | 1 => 16 | 5 => 16 | 8 => 16 | 9 => 16 | 10 => 19 | 2 => 32 | 6 => 32 | 11 => 32 | _ => 64

def lanesOf (t : Nat) : Nat := 64 / laneWidth t

def lane (w : Word) (t k : Nat) : Nat := bits w (k * laneWidth t) (laneWidth t)

/-- A word as a writer of an element type writes it: W19 words have bits 63:57 zero (R115). -/
def w19Clean (t : Nat) (w : Word) : Word := if t = 10 then BitVec.ofNat 64 (bits w 0 57) else w

/-- Packs elements from lane 0 up; the bits in no lane are zero. -/
def packLanes (t : Nat) (l : List Nat) : Word :=
  BitVec.ofNat 64 (l.foldr (fun v acc => v % 2 ^ laneWidth t + acc * 2 ^ laneWidth t) 0)

/-- Data flits of a tile. -/
def TileHdr.flits (h : TileHdr) : Nat := (h.count + lanesOf h.ety - 1) / lanesOf h.ety

/-- Whether a header is bad whatever its consumer (R124, R283). -/
def badHeader (f : Flit) : Bool :=
  let h := parseHdr f.data
  !f.sot || decide (14 ≤ h.ety) || h.rsv || (h.tslot != 0 && h.ety != 13) || (h.scale != 0 && etyInt h.ety)

/-! ### Links (R58, R284) -/

def Link.depth (l : Link) : Nat := bits l.word 0 7

/-- The endpoint that a link leads to. -/
def Link.endpoint (l : Link) : Option Nat := if bits l.word 13 6 = 0x20 then some (bits l.word 19 8) else none

def linkDx (w : BitVec 32) : Int := (BitVec.ofNat 6 (bits w 13 6)).toInt
def linkDy (w : BitVec 32) : Int := (BitVec.ofNat 6 (bits w 7 6)).toInt

/-- The PE and channel a link word names. -/
def linkPe (w : BitVec 32) : Nat := bits w 23 4 * 16 + bits w 27 4
def linkCh (w : BitVec 32) : Nat := bits w 19 4

def Config.page (c : Config) (n : Nat) : PageRec :=
  c.pages.getD n { px := 0, py := 0, matrix := false, nodes := [], routes := [], ranges := Vector.replicate 4 [], good := true }

/-- The page record at an offset from page record `n`. -/
def Config.pageAt (c : Config) (n : Nat) (dx dy : Int) : Option Nat :=
  let p := c.page n
  c.pages.findIdx? fun q => (q.px : Int) == p.px + dx && (q.py : Int) == p.py + dy

/-- The channel that a link leads to. -/
def Config.target (c : Config) (l : Link) : Option (Nat × Nat × Nat) :=
  match l.endpoint with
  | some _ => none
  | none => (c.pageAt l.page (linkDx l.word) (linkDy l.word)).map fun p => (p, linkPe l.word, linkCh l.word)

def Config.linkOf (c : Config) (page pe ch : Nat) : Option Link :=
  c.links.find? fun l => l.page = page && l.pe = pe && l.ch = ch

/-- The link that leads into a channel (R59). -/
def Config.linkInto (c : Config) (page pe ch : Nat) : Option Link :=
  c.links.find? fun l => c.target l == some (page, pe, ch)

/-! ### Instances and PEs (R277, R278) -/

/-- A node's state when the configuration is loaded. -/
def NodeState.fresh : NodeState :=
  { hdrs := Vector.replicate 3 { set := false, word := 0, psn := false }, emitted := false, elems := [], count := 0, acc := none,
    inner := 0, outer := 0, pending := [], recover := false, skipB := false, skipC := false, open_ := 0, fired := 0, elem := 0,
    tile := 0 }

/-- A router operator's state when the configuration is loaded (R312). -/
def RouterState.fresh : RouterState :=
  { inUnit := false, dec := false, dpsn := false, carry := .init, tailed := false, held := [], full := false, sent := 0,
    dones := 0, acts := 0, active := false, issued := 0 }

/-- A PE when the configuration is loaded: every credit count at its link's DEPTH (R278). -/
def PE.fresh (c : Config) (page pe : Nat) : PE :=
  { ins := Vector.replicate 16 [], tookN := 0, nextN := 0, tookR := 0,
    credit := Vector.ofFn fun ch : Fin 16 => match c.linkOf page pe ch with | some l => l.depth | none => 0,
    node := NodeState.fresh, router := RouterState.fresh }

def Inst.peAt (x : Inst) (page pe : Nat) : PE := tget (PE.fresh x.cfg page pe) x.pes (page * 256 + pe)

def Inst.setPe (x : Inst) (page pe : Nat) (p : PE) : Inst := { x with pes := tput true x.pes (page * 256 + pe) p }

def Inst.updPe (x : Inst) (page pe : Nat) (f : PE → PE) : Inst := x.setPe page pe (f (x.peAt page pe))

def Inst.updNode (x : Inst) (page pe : Nat) (f : NodeState → NodeState) : Inst :=
  x.updPe page pe fun p => { p with node := f p.node }

def Inst.updRouter (x : Inst) (page pe : Nat) (f : RouterState → RouterState) : Inst :=
  x.updPe page pe fun p => { p with router := f p.router }

/-- Whether an instance is in a state in which its nodes, operators, ports and engines act: resident, not frozen, and not stopped by
a refutation (R273, R338, R356). (DEDUCED, assumption 32) -/
def Inst.acts (x : Inst) : Bool := (x.st == .run || x.st == .idle) && !x.stopped

/-- The SSEG of a graph that its sequencer has accepted first among those it still holds. -/
def Ctx.segment (x : Ctx) (g : Fin 4) : Option Command :=
  x.accepted.find? fun k => k.stream == .graph g && bits k.word 120 8 == 0x06

/-- Whether a graph's sequencer cannot go on to an SSEG before a command that it has accepted is over: one that waits for every earlier
command (R67), or for a place in a streamer's queue (R361). -/
def State.stuck (s : State) (c : Fin 16) (g : Fin 4) : Bool :=
  (s.ctx c).accepted.any fun k => k.stream == .graph g && !k.begun &&
    ((bit k.word 119 && ((s.ctx c).accepted.head?.map (·.id)) != some k.id) ||
      (decide (0x10 ≤ bits k.word 120 8) && s.streams.any fun v => decide (64 ≤ v.2.queue.length)))

/-- Whether the reconfiguration token of an instance's graph lies with its configuration (R182, R345). Before a graph's first segment it
lies with the configuration of the SSEG that is accepted first, and until that is known with none; with all of them where no SSEG can
come before what they have to do. (DEDUCED, assumption 32) -/
def State.tokenHere (s : State) (x : Inst) : Bool :=
  match x.graph with
  | none => true
  | some g => match (s.ctx x.ctx).graphs[g] with
    | some r =>
      match r.curSlot, (s.ctx x.ctx).segment g with
      | some n, _ => n == x.slot
      | none, some k => bits k.word 0 3 == x.slot
      | none, none => r.ended || r.status.isSome || !s.openHyp x.ctx r.hyp || s.stuck x.ctx g
    | none => true

/-- Whether the nodes, operators, ports and engines of an instance act now: no access of a configuration comes before the token is
passed to it (R182). -/
def State.instActs (s : State) (x : Inst) : Bool := x.acts && s.tokenHere x

/-- Whether the engines bound to an instance act now; those of a stopped one drain (R185, R273). (DEDUCED, assumption 32) -/
def State.engineActs (s : State) (x : Inst) : Bool := (x.st == .run || x.st == .idle) && s.tokenHere x

def Inst.nodeWord (x : Inst) (page pe : Nat) : BitVec 64 := tget 0 (x.cfg.page page).nodes pe
def Inst.routeWord (x : Inst) (page pe : Nat) : BitVec 64 := tget 0 (x.cfg.page page).routes pe

/-- OP of a node word. -/
def nodeOp (w : BitVec 64) : Nat := bits w 56 8

/-- Whether a PE of a page holds an NMMA. -/
def Inst.isNmma (x : Inst) (page pe : Nat) : Bool := nodeOp (x.nodeWord page pe) == 0x30

/-- A west or north edge of a matrix section (R393). -/
def Inst.westEdge (x : Inst) (page pe : Nat) : Bool := pe % 16 == 0 || !x.isNmma page (pe - 1)
def Inst.northEdge (x : Inst) (page pe : Nat) : Bool := pe < 16 || !x.isNmma page (pe - 16)

/-- The input channels that a node names (R55, R277). -/
def Inst.nodeChans (x : Inst) (page pe : Nat) : List (Fin 16) :=
  let w := x.nodeWord page pe
  let a := fin 16 (bits w 44 4)
  let b := fin 16 (bits w 40 4)
  let c := fin 16 (bits w 36 4)
  let op := nodeOp w
  if op = 0 then []
  else if op = 0x30 then (if x.westEdge page pe then [a] else []) ++ (if x.northEdge page pe then [b] else [])
  else if op = 4 ∨ op = 0x0A then [a, b, c]
  else if op < 7 ∨ op = 9 ∨ (0x0E ≤ op ∧ op ≤ 0x12) ∨ op = 0x21 then [a, b]
  else [a]

/-- The input channels that a router's operator names (R57, R307). -/
def Inst.routerChans (x : Inst) (page pe : Nat) : List (Fin 16) :=
  let w := x.routeWord page pe
  let ctl := fin 16 (bits w 40 4)
  let ia := fin 16 (bits w 36 4)
  let ib := fin 16 (bits w 32 4)
  match bits w 44 4 with
  | 0 => []
  | 2 => [ctl, ia, ib, fin 16 (bits w 0 4)]
  | 4 => [ctl, ia, ib]
  | 6 => [ia]
  | 7 => [ia]
  | _ => [ctl, ia]

/-- The flit at the head of a channel that the node (or else the router) has not taken. -/
def Inst.head (x : Inst) (page pe : Nat) (ch : Fin 16) (node : Bool) : Option Flit :=
  let p := x.peAt page pe
  if bit (if node then p.tookN else p.tookR) ch then none else p.ins[ch].head?

/-- A consumer takes the flit at the head of a channel; the flit leaves when every consumer that names the channel has taken
it, and its credit goes back (R277, R278). A node that takes two flits together takes the second one while the router has still to
take the first (R316). -/
def Inst.take (x : Inst) (page pe : Nat) (node : Bool) (ch : Fin 16) : Inst :=
  let p := x.peAt page pe
  let p := if node ∧ bit p.tookN ch then { p with nextN := setBits p.nextN ch 1 1 } else p
  let tn := if node then setBits p.tookN ch 1 1 else p.tookN
  let tr := if node then p.tookR else setBits p.tookR ch 1 1
  let freeN := bit tn ch || !(x.nodeChans page pe).contains ch
  let freeR := bit tr ch || !(x.routerChans page pe).contains ch
  if freeN ∧ freeR then
    let x := x.setPe page pe { p with ins := p.ins.set ch (p.ins[ch].drop 1), tookN := setBits tn ch 1 (bits p.nextN ch 1),
                                      nextN := setBits p.nextN ch 1 0, tookR := setBits tr ch 1 0 }
    match x.cfg.linkInto page pe ch with
    | some l => { x with credits := x.credits ++ [{ page := l.page, pe := l.pe, ch := l.ch, flit := { data := 0, ctl := 0 } }] }
    | none => x
  else x.setPe page pe { p with tookN := tn, tookR := tr }

/-- Takes one flit from each of the channels named, once each (R277, R281). -/
def Inst.takeAll (x : Inst) (page pe : Nat) (node : Bool) (chs : List (Fin 16)) : Inst :=
  chs.eraseDups.foldl (fun x ch => x.take page pe node ch) x

/-- The channels of a mask. -/
def maskChans (m : BitVec 16) : List (Fin 16) := (List.finRange 16).filter fun k => bit m k

/-- Whether every output channel of a mask has space (R278, R281). -/
def Inst.space (x : Inst) (page pe : Nat) (m : BitVec 16) : Bool :=
  (maskChans m).all fun k => decide (0 < (x.peAt page pe).credit[k])

/-- Sends one flit into every output channel of a mask (R278, R281). -/
def Inst.send (x : Inst) (page pe : Nat) (m : BitVec 16) (f : Flit) : Inst :=
  (maskChans m).foldl
    (fun (x : Inst) (k : Fin 16) =>
      let p := x.peAt page pe
      { x.setPe page pe { p with credit := p.credit.set k (p.credit[k] - 1) } with
        wires := x.wires ++ [{ page := page, pe := pe, ch := k, flit := if f.psn then f.poison else f }] }) x

def State.setInst (s : State) (i : Nat) (x : Inst) : State := { s with insts := setAt s.insts i x }

/-- The site of a page record of a resident instance. -/
def Inst.siteOf (x : Inst) (page : Nat) : Nat := x.sites.getD page 0

/-- The time of the field of an instance's anchor (R356). -/
def State.instTime (s : State) (x : Inst) : Word := s.time (siteField (x.area.headD 0))

/-- A flit of the instance has moved (R356). -/
def State.stir (s : State) (i : Nat) (x : Inst) : State := s.setInst i { x with active := s.instTime x }

/-! ### Endpoints (R341, R368) -/

/-- The arm of an endpoint when the instance is placed: factor 1 for an output endpoint, 0 for an input endpoint (R341). -/
def Arm.fresh (c : Config) (ep : Nat) : Arm :=
  let out := c.links.any fun l => l.endpoint == some ep
  { ep := ep, factor := if out then 1 else 0, abs := false, armed := 0, next := none, set := false, fed := [], target := none,
    past := none, depth := 0, edit := none, editN := none, lastTile := false }

/-- Whether an endpoint is an output endpoint of a configuration. -/
def Config.isOutput (c : Config) (ep : Nat) : Bool := c.links.any fun l => l.endpoint == some ep

def Inst.arm (x : Inst) (ep : Nat) : Arm := (x.arms.find? fun a => a.ep = ep).getD (Arm.fresh x.cfg ep)

def Inst.setArm (x : Inst) (a : Arm) : Inst := { x with arms := a :: x.arms.filter fun b => b.ep ≠ a.ep }

/-! ### Sampled tiles (R451) -/

/-- Whether tiles of an instance are sampled: no NLD, NST, NOWN or NDOR in its configuration, sampling on, its context not in replay.
(DESIGN CHOICE, assumption 47) -/
def State.sampled (s : State) (x : Inst) : Bool :=
  bits (s.reg rrcfgAt) 0 4 != 0 && bits (s.reg (rplctlAt x.ctx)) 0 2 != 2 &&
    !(x.cfg.pages.any fun p => p.nodes.any fun (_, w) => 0x20 ≤ nodeOp w && nodeOp w ≤ 0x23)

/-- The tile of the segment to which the next flit at an endpoint belongs. -/
def Inst.segTile (x : Inst) (a : Arm) : Option Nat :=
  if a.abs ∨ a.factor = 0 ∨ a.armed = 0 then none else some ((x.segTiles * a.factor - a.armed) / a.factor)

/-- A flit passes an endpoint: one of a sampled tile, of which there is one in 2^RATE, is copied. (DESIGN CHOICE, assumption 47) -/
def State.tape (s : State) (x : Inst) (out : Bool) (ep : Nat) (f : Flit) : Inst :=
  match x.segTile (x.arm ep) with
  | some k =>
    if s.sampled x ∧ (x.taken - x.segTiles + k + Config.samplePhase) % 2 ^ bits (s.reg rrcfgAt) 0 4 = 0 then
      { x with tape := x.tape ++ [{ out := out, ep := ep, tile := k, flit := f }] }
    else x
  | none => x

/-! ### Faults of the fabric (R124, R230, R355) -/

/-- The launch whose graph placed an instance. -/
def State.instLaunch (s : State) (x : Inst) : Option Nat :=
  match x.graph with
  | some g => ((s.ctx x.ctx).graphs[g]).map (·.launch)
  | none => none

/-- A class A record of a unit of an instance, counted for the instance's graph. -/
def State.asyncRecord (s : State) (launch : Option Nat) (key : Nat) (q : Fin 3) (r : Record) : State × Record :=
  let (s, r) := s.makeRecord key r
  let s := match launch with
    | some id => s.blame r.ctx id r.seq
    | none => s
  (s.queueRecord r.ctx q r, r)

/-- HDR-BAD of a PE, naming its input channel (R124, R230). (DEDUCED, assumption 33) -/
def State.headerFault (s : State) (x : Inst) (page pe : Nat) (ch : Nat) : State :=
  let n := (x.peAt page pe).node
  let site := x.siteOf page
  (s.asyncRecord (s.instLaunch x) (siteKey site) 2
    { addr := 0, tid := 0, insn := x.segCmd, cause := 0x20, src := 6, ctx := x.ctx, expt := 0, fndt := 0,
      hyp := BitVec.ofNat 8 (hypNum x.hyp), site := BitVec.ofNat 10 site, unit := BitVec.ofNat 8 pe, lane := BitVec.ofNat 8 ch,
      elem := BitVec.ofNat 64 n.elem, time := 0, pc := field 32 32 (n.tile - 1) ||| field 8 8 pe, detail := 0, seq := 0 }).1

/-- Flags that nodes of a page raise: PGFLAG of the site and the graph's record (R287). -/
def State.nodeFlags (s : State) (i : Nat) (page : Nat) (fl : Flags) : State :=
  if fl = 0 then s
  else
    match s.insts[i]? with
    | some x => (s.setInst i { x with flags := x.flags ||| fl.setWidth 64 }).pageFlags (x.siteOf page) fl
    | none => s

/-! ### Arrival of flits and credits (R278, R280, R284) -/

/-- The k-th wire arrives unless an earlier one of the same link is still under way. -/
def firstOf (l : List Wire) (k : Nat) : Option Wire :=
  match l[k]? with
  | some w => if (l.take k).any fun v => v.page = w.page && v.pe = w.pe && v.ch = w.ch then none else some w
  | none => none

def execFlitArrive (i k : Nat) (s : State) : Result :=
  match s.insts[i]? with
  | none => .next s
  | some x =>
    match firstOf x.wires k with
    | none => .next s
    | some w =>
      match x.cfg.linkOf w.page w.pe w.ch with
      | none => .next s
      | some l =>
        let x := { x with wires := dropAt x.wires k }
        match l.endpoint with
        | some ep =>
          let a := x.arm ep
          let x := s.tape x true ep w.flit
          .next (s.stir i (x.setArm { a with fed := a.fed ++ [w.flit], armed := if w.flit.eot then a.armed - 1 else a.armed }))
        | none =>
          match x.cfg.target l with
          | some (page, pe, ch) =>
            .next (s.stir i (x.updPe page pe fun p => { p with ins := p.ins.set (fin 16 ch) (p.ins[fin 16 ch] ++ [w.flit]) }))
          | none => .next s

def execCreditReturn (i k : Nat) (s : State) : Result :=
  match s.insts[i]? with
  | none => .next s
  | some x =>
    match x.credits[k]? with
    | none => .next s
    | some w =>
      let c := fin 16 w.ch
      .next (s.setInst i ({ x with credits := dropAt x.credits k }.updPe w.page w.pe fun p =>
        { p with credit := p.credit.set c (p.credit[c] + 1) }))

/-- A flit that a transfer takes from an output endpoint; its credit goes back. -/
def Inst.absorb (x : Inst) (ep : Nat) : Inst :=
  let a := x.arm ep
  let x := x.setArm { a with fed := a.fed.drop 1 }
  match x.cfg.links.find? fun l => l.endpoint == some ep with
  | some l => { x with credits := x.credits ++ [{ page := l.page, pe := l.pe, ch := l.ch, flit := { data := 0, ctl := 0 } }] }
  | none => x

/-- Whether an input channel has room for one more flit of a feeder (R278, R368). -/
def Inst.chanRoom (x : Inst) (c : Nat × Nat × Nat) (depth : Nat) : Bool :=
  decide ((x.peAt c.1 c.2.1).ins[fin 16 c.2.2].length < depth)

/-- A flit enters an input channel (R368). -/
def Inst.enter (x : Inst) (c : Nat × Nat × Nat) (f : Flit) : Inst :=
  x.updPe c.1 c.2.1 fun p => { p with ins := p.ins.set (fin 16 c.2.2) (p.ins[fin 16 c.2.2] ++ [f]) }

/-- Whether the channel into which an input endpoint's value tokens go has room for one more flit (R342). -/
def Inst.feedRoom (x : Inst) (ep : Nat) : Bool :=
  let a := x.arm ep
  match a.target with
  | some c => x.chanRoom c a.depth
  | none => false

/-- A header as the edit in force at an endpoint leaves it; a scale out of range makes the header bad at its consumer, which the model
says by clearing SOT (R413). (DEDUCED, assumption 36) -/
def Arm.edited (a : Arm) (f : Flit) : Flit :=
  match a.edit with
  | some (sc, ts) =>
    if f.hdr ∧ !f.psn then
      let h := parseHdr f.data
      let v := h.scale + sc.toInt
      let w := setBits f.data 58 2 (if h.ety = 13 then ts.toNat else h.tslot)
      { data := setBits w 48 8 (BitVec.ofInt 8 v).toNat, ctl := if v < -128 ∨ 127 < v then setBits f.ctl 2 1 0 else f.ctl }
    else f
  | none => f

/-- A flit of a value token enters the channel that its input endpoint feeds: the one that its latest feeder names (R342, R368).
(DEDUCED, assumption 37) -/
def Inst.feed (x : Inst) (ep : Nat) (f : Flit) : Inst :=
  match (x.arm ep).target with
  | some c => x.enter c f
  | none => x

end Sys2Proof.Machine
end

