-- ==== Sys2Proof/Machine/Nodes.lean ====
section
/-!
DEFINITION. Sys2Proof/Machine/Nodes.lean: the firing rule with headers, misalignment and poison, and the nodes of R289: the
elementwise nodes, conversions and codes, reductions and scans, counters, bounds, constants and relays (R281 to R301).
-/
namespace Sys2Proof.Machine

/-! ### What a node does (R288, R289) -/

/-- The nodes that decode elements, as an operation on one lane. -/
inductive NodeKind
  | add | sub | mul | fma | min | max | abs | neg | cmp | sel | and | or | xor | shl | shr | con | acc
  | cvt | dec | enc | red | bnd
  deriving DecidableEq, Repr

/-- The types that a node accepts (R289). -/
def NodeKind.accepts (k : NodeKind) (n : NodeFields) (t : Nat) : Bool :=
  let logical := decide (3 ≤ n.param.toNat % 8)
  match k with
  | .and => etyInt t | .or => etyInt t | .xor => etyInt t | .shl => etyInt t | .shr => etyInt t | .bnd => etyInt t
  | .dec => t == 13
  | .enc => etyFloat t
  | .red => etyInt t || (etyFloat t && !logical)
  | .acc => etyInt t || (etyFloat t && !logical)
  | _ => etyInt t || etyFloat t

/-- FN[2:0] as a rounding mode (R288). -/
def nodeRound (c : Nat) : Round := roundOfCode (c % 8)

/-- The rounding mode under which a node rounds scaled values: RNE where FN carries none (R285). (DEDUCED, assumption 32) -/
def NodeKind.scaleRound (k : NodeKind) (n : NodeFields) : Round :=
  match k with
  | .add => nodeRound n.fn.toNat | .sub => nodeRound n.fn.toNat | .mul => nodeRound n.fn.toNat | .fma => nodeRound n.fn.toNat
  | .dec => nodeRound n.fn.toNat | .red => nodeRound n.fn.toNat | .acc => nodeRound n.fn.toNat
  | _ => .rne

/-- The output type (R289). -/
def NodeKind.outType (k : NodeKind) (n : NodeFields) (t : Nat) : Nat :=
  match k with
  | .cvt => n.fn.toNat | .dec => 10 | .enc => 13 | .bnd => 6 | _ => t

/-- The value of an integer lane. -/
def intLane (t x : Nat) : Int :=
  if t < 4 then (BitVec.ofNat (laneWidth t) x).toInt else (BitVec.ofNat (laneWidth t) x).toNat

/-- fix(v): wraps, or saturates to the range of the type (R288, R290). -/
def fixInt (t : Nat) (sat : Bool) (v : Int) : Nat :=
  let w := laneWidth t
  let v := if sat then max (intMin w (decide (t < 4))) (min (intMax w (decide (t < 4))) v) else v
  (BitVec.ofInt w v).toNat

/-- A scaled element as its decoder delivers it (R285): a NaN keeps its bits. (DEDUCED, assumption 32) -/
def deliver (f : Fmt) (m : Round) (scale : Int) (x : Nat) : Nat × Flags :=
  if scale = 0 then (x, 0)
  else match unpack f x with
    | .fin s n e => roundFin f m false s n (e + scale) false
    | _ => (x, 0)

/-- 1 of a type, for NCMP (R292). -/
def oneOf (t : Nat) : Nat := if etyInt t then 1 else (fmtOfEty t).bias * 2 ^ (fmtOfEty t).fb

/-- NCMP (R292). -/
def compareLanes (t fn a b : Nat) : Bool × Flags :=
  if etyInt t then
    let x := intLane t a
    let y := intLane t b
    (match fn with
     | 0 => decide (x = y) | 1 => decide (x ≠ y) | 2 => decide (x < y) | 3 => decide (x ≤ y) | 4 => decide (y < x) | _ => decide (y ≤ x), 0)
  else
    let x := unpack (fmtOfEty t) a
    let y := unpack (fmtOfEty t) b
    match fn with
    | 0 => compareEq x y
    | 1 => (!(compareEq x y).1, (compareEq x y).2)
    | 2 => compareLt x y
    | 3 => compareLe x y
    | 4 => compareLt y x
    | _ => compareLe y x

/-- The combining operation of NRED and NACC, by PARAM[2:0] (R296), and of SRED (R430). -/
def combine (t op : Nat) (m : Round) (sat : Bool) (a b : Nat) : Nat × Flags :=
  if etyInt t then
    let x := intLane t a
    let y := intLane t b
    (match op with
     | 0 => fixInt t sat (x + y) | 1 => if y < x then b else a | 2 => if x < y then b else a
     | 3 => a &&& b | 4 => a ||| b | _ => a ^^^ b, 0)
  else
    let f := fmtOfEty t
    match op with
    | 0 => addData f m false (unpack f a) (unpack f b)
    | 1 => minMax f true a b
    | _ => minMax f false a b

/-- The constant of NCON in a type (R300). -/
def constLane (p : BitVec 20) (t : Nat) : Nat :=
  if t < 4 then (p.signExtend 64).toNat % 2 ^ laneWidth t
  else if t < 8 then p.toNat % 2 ^ laneWidth t
  else match t with
    | 8 => p.toNat % 65536 | 9 => p.toNat % 65536 | 10 => p.toNat % 524288 | 11 => p.toNat * 4096 | _ => p.toNat * 2 ^ 44

/-- Whether PARAM has a bit that the type does not use (R300). -/
def constBad (p : BitVec 20) (t : Nat) : Bool :=
  ((t == 8 || t == 9) && decide (65536 ≤ p.toNat)) || (t == 10 && decide (524288 ≤ p.toNat))

/-- An elementwise operation on delivered lanes (R290 to R292). -/
def evalLane (k : NodeKind) (n : NodeFields) (t : Nat) (l : List Nat) : Nat × Flags :=
  let a := l.getD 0 0
  let b := l.getD 1 0
  let c := l.getD 2 0
  let m := nodeRound n.fn.toNat
  let sat := bit n.fn 3
  let f := fmtOfEty t
  let w := laneWidth t
  let x := intLane t a
  let y := intLane t b
  match k with
  | .add => if etyInt t then (fixInt t sat (x + y), 0) else addData f m false (unpack f a) (unpack f b)
  | .sub => if etyInt t then (fixInt t sat (x - y), 0) else addData f m false (unpack f a) (unpack f b).neg
  | .mul => if etyInt t then (fixInt t sat (x * y), 0) else mulData f m false (unpack f a) (unpack f b)
  | .fma => if etyInt t then (fixInt t sat (x * y + intLane t c), 0) else fmaData f m false (unpack f a) (unpack f b) (unpack f c)
  | .min => if etyInt t then (if y < x then b else a, 0) else minMax f true a b
  | .max => if etyInt t then (if x < y then b else a, 0) else minMax f false a b
  | .abs => if etyInt t then (if t < 4 then fixInt t sat x.natAbs else a, 0) else (withSign f a false, 0)
  | .neg => if etyInt t then (fixInt t sat (0 - x), 0) else (withSign f a (!signOf f a), 0)
  | .cmp =>
    let r := compareLanes t n.fn.toNat a b
    (if r.1 then oneOf t else 0, r.2)
  | .sel => (if c ≠ 0 then a else b, 0)
  | .and => (a &&& b, 0)
  | .or => (a ||| b, 0)
  | .xor => (a ^^^ b, 0)
  | .shl => (if w ≤ b then 0 else a * 2 ^ b % 2 ^ w, 0)
  | .shr => (if w ≤ b then (if x < 0 then 2 ^ w - 1 else 0) else (BitVec.ofInt w (x / 2 ^ b)).toNat, 0)
  | .con => (constLane n.param t, 0)
  | _ => (a, 0)

/-- One element converted by NCVT (R294). -/
def convertLane (n : NodeFields) (t x : Nat) : Nat × Flags :=
  let d := n.fn.toNat
  let m := nodeRound (n.param.toNat % 8)
  if d = t then (x, 0)
  else if etyInt t then
    (if etyInt d then (fixInt d (bit n.param 3) (intLane t x), 0) else fromInteger (fmtOfEty d) m false (intLane t x))
  else if etyInt d then
    let r := toInteger (laneWidth d) (decide (d < 4)) m (unpack (fmtOfEty t) x)
    ((BitVec.ofInt (laneWidth d) r.1).toNat, r.2)
  else convert (fmtOfEty d) m false (unpack (fmtOfEty t) x)

/-- The page copy of a decode table of a site (R120). -/
def State.pageTable (s : State) (site n : Nat) : Table := (s.site site).pages[fin 4 n]

/-- One element as the repacking nodes take it: NCVT, NDEC, NENC (R294, R295). -/
def convertElem (s : State) (site : Nat) (k : NodeKind) (n : NodeFields) (h : TileHdr) (x : Nat) : Nat × Flags :=
  match k with
  | .dec =>
    let v := unpack w19 (tableEntry (s.pageTable site h.tslot) (BitVec.ofNat 8 x)).toNat
    match v with
    | .fin sg m e => roundFin w19 (nodeRound n.fn.toNat) false sg m (e + h.scale) false
    | v => convert w19 .rne false v
  | .enc =>
    let sc := (BitVec.ofNat 8 (n.param.toNat % 256)).toInt
    match unpack (fmtOfEty h.ety) x with
    | .fin sg m e => encodeC8 (s.pageTable site (n.fn.toNat % 4)) (.fin sg m (e + h.scale - sc))
    | v => encodeC8 (s.pageTable site (n.fn.toNat % 4)) v
  | _ =>
    let d := if etyFloat h.ety then deliver (fmtOfEty h.ety) (k.scaleRound n) h.scale x else (x, 0)
    let r := if k == .cvt then convertLane n h.ety d.1 else (d.1, 0)
    (r.1, d.2 ||| r.2)

/-! ### The firing of a node (R281 to R283) -/

/-- A node about to fire: the state, its instance, page record, PE and inputs. -/
structure Firing where
  s    : State
  i    : Nat
  x    : Inst
  page : Nat
  pe   : Nat
  n    : NodeFields
  ins  : List (Fin 16)

def Firing.node (f : Firing) : NodeState := (f.x.peAt f.page f.pe).node
def Firing.heads (f : Firing) : List (Option Flit) := f.ins.map fun c => f.x.head f.page f.pe c true
def Firing.updNode (f : Firing) (g : NodeState → NodeState) : Firing := { f with x := f.x.updNode f.page f.pe g }
def Firing.takeAll (f : Firing) : Firing := { f with x := f.x.takeAll f.page f.pe true f.ins }
def Firing.send (f : Firing) (d : Flit) : Firing := { f with x := f.x.send f.page f.pe f.n.omask d }
def Firing.site (f : Firing) : Nat := f.x.siteOf f.page

/-- The state after the firing. -/
def Firing.done (f : Firing) : Result := .next (f.s.stir f.i f.x)

/-- Raises flags of the node (R287). -/
def Firing.flags (f : Firing) (fl : Flags) : Firing :=
  if fl = 0 then f
  else { f with s := f.s.pageFlags f.site fl, x := { f.x with flags := f.x.flags ||| fl.setWidth 64 } }

/-- HDR-BAD on the k-th input (R124). -/
def Firing.fault (f : Firing) (k : Nat) : Firing :=
  let s := (f.s.setInst f.i f.x).headerFault f.x f.page f.pe (f.ins.getD k 0)
  { f with s := s }

/-- Whether the k-th input names the channel of an earlier one, whose flit is then the same one and is consumed once (R277). -/
def Firing.again (f : Firing) (k : Nat) : Bool := (f.ins.take k).contains (f.ins.getD k 0)

/-- HDR-BAD on the k-th input, once for each channel (R124, R277). -/
def Firing.faultOnce (f : Firing) (k : Nat) : Firing := if f.again k then f else f.fault k

/-- The header in force on the k-th input. -/
def NodeState.hdrAt (n : NodeState) (k : Nat) : HeaderIn := n.hdrs[fin 3 k]

def NodeState.setHdr (n : NodeState) (k : Nat) (h : HeaderIn) : NodeState := { n with hdrs := n.hdrs.set (fin 3 k) h }

/-- Begins a firing of the PE under the cursor, where its instance acts and every output channel has space. -/
def withFiring (n : NodeFields) (ins : List (BitVec 4)) (s : State) (k : Firing → Result) : Result :=
  let c := s.pe
  match s.insts[c.inst]? with
  | none => .next s
  | some x =>
    if s.instActs x ∧ x.space c.page c.pe n.omask then
      k { s := s, i := c.inst, x := x, page := c.page, pe := c.pe, n := n, ins := ins.map fun a => fin 16 a.toNat }
    else .next s

/-- The type a node works in: its fixed ETYPE, or that of input A's header in force (R122, R282). -/
def Firing.ety (f : Firing) : Nat :=
  if f.n.ety = 14 then (parseHdr (f.node.hdrAt 0).word).ety else f.n.ety.toNat

/-- Whether a header of a node that decodes its inputs is bad: its type, and its shape beside input A's. A header is compared
with A's only when A's is not poisoned (R124, R282, R283). -/
def decodeBad (n : NodeFields) (accepts : Nat → Bool) (hs : List Flit) (d : Flit) : Bool :=
  let a := hs.headD { data := 0, ctl := 0 }
  let h := parseHdr d.data
  let ha := parseHdr a.data
  let t := if n.ety = 14 then (if a.psn then h.ety else ha.ety) else n.ety.toNat
  badHeader d || !accepts h.ety || h.ety != t || (!a.psn && (h.rows != ha.rows || h.cols != ha.cols))

/-- Takes the headers at the heads: each comes into force on its input, poisoned when it is bad or arrives poisoned; answers
whether the tile is poisoned (R282, R283). -/
def Firing.takeHeaders (f : Firing) (bad : List Flit → Nat → Flit → Bool) (hs : List Flit) : Firing × Bool :=
  let f := f.updNode fun n => { n with count := 0, acc := none, tile := n.tile + 1 }
  (hs.zipIdx).foldl
    (fun (r : Firing × Bool) (d : Flit × Nat) =>
      let bad := !d.1.psn && bad hs d.2 d.1
      let g := if bad then r.1.faultOnce d.2 else r.1
      let p := bad || d.1.psn
      (g.updNode fun n => n.setHdr d.2 { set := true, word := d.1.data, psn := p }, r.2 || p)) (f, false)

/-- A data flit with no header in force, or with SOT, is a bad header (R283). -/
def Firing.needHeaders (f : Firing) (hs : List Flit) : Firing :=
  (hs.zipIdx).foldl
    (fun (g : Firing) (d : Flit × Nat) =>
      let h := g.node.hdrAt d.2
      if !h.set ∨ d.1.sot then (g.faultOnce d.2).updNode fun n => n.setHdr d.2 { set := true, word := h.word, psn := true } else g) f

/-- The first input whose head differs from A's on HDR or on EOT (R282). (DEDUCED, assumption 33) -/
def misaligned (hs : List Flit) : Option Nat :=
  match hs with
  | [] => none
  | a :: _ => hs.findIdx? fun d => d.hdr != a.hdr || (!a.hdr && d.eot != a.eot)

/-- A node in recovery discards the next flit of an input up to and including its EOT; `off` notes the EOT (R282). -/
def Firing.skipTile (f : Firing) (k : Nat) (on : Bool) (off : NodeState → NodeState) : Firing :=
  if on then
    match f.x.head f.page f.pe (f.ins.getD k 0) true with
    | some d =>
      let f := { f with x := f.x.take f.page f.pe true (f.ins.getD k 0) }
      if d.eot then f.updNode off else f
    | none => f
  else f

/-- A node in recovery gives a poisoned result, by `out`, for the next data flit of A's tile, until its EOT or a header (R282). -/
def Firing.recoverFirst (f : Firing) (out : Firing → Flit → Firing) : Firing :=
  let a := f.ins.getD 0 0
  match f.x.head f.page f.pe a true with
  | some d =>
    if f.node.recover then
      if d.hdr then f.updNode fun n => { n with recover := false }
      else
        let f := out { f with x := f.x.take f.page f.pe true a } (dataFlit 0 d.marks true)
        if d.eot then f.updNode fun n => { n with recover := false } else f
    else f
  | none => f

/-- Recovery from a misaligned tile (R282): the rest of A's tile gives poisoned results, the other inputs are discarded up to
their next EOT. (DEDUCED, assumption 33) -/
def Firing.recover (f : Firing) (out : Firing → Flit → Firing) : Result :=
  let f := f.recoverFirst out
  let f := f.skipTile 1 f.node.skipB fun n => { n with skipB := false }
  (f.skipTile 2 f.node.skipC fun n => { n with skipC := false }).done

/-- Whether recovery is under way. -/
def NodeState.recovering (n : NodeState) : Bool := n.recover || n.skipB || n.skipC

/-- A misaligned firing: HDR-BAD names the input, and recovery begins (R282). -/
def Firing.misalign (f : Firing) (k : Nat) (hs : List Flit) : Firing :=
  let a := hs.headD { data := 0, ctl := 0 }
  let other (j : Nat) : Bool := decide (j < f.ins.length) && !f.again j
  (f.fault k).updNode fun n => { n with recover := !a.hdr, skipB := other 1, skipC := other 2,
                                        hdrs := n.hdrs.map fun h => { h with set := false } }

/-- The lanes of the flit now consumed that hold elements of its tile, in a type. Where the header in force on input A is poisoned it
gives no count, and a flit beyond the count of a header is of no other tile: every lane then counts, so that the marks of the tile's
last flit reach the output (R283, R293). (DEDUCED, assumption 32) -/
def NodeState.used (n : NodeState) (h : TileHdr) (lanes : Nat) : Nat :=
  if (n.hdrAt 0).psn ∨ h.count ≤ n.count then lanes else min lanes (h.count - n.count)

/-- Whether any input of a data firing is poisoned (R282, R283). -/
def Firing.poisoned (f : Firing) (hs : List Flit) : Bool :=
  hs.any (·.psn) || (List.range f.ins.length).any fun k => (f.node.hdrAt k).psn

/-- The firing rule for a node whose heads are present and agree: headers, then data; `out` takes the poisoned results of a recovery
(R281 to R283). -/
def fireInto (out : Firing → Flit → Firing) (n : NodeFields) (ins : List (BitVec 4)) (bad : List Flit → Nat → Flit → Bool)
    (onHeader : Firing → Bool → Result) (onData : Firing → List Flit → Result) (idle : Firing → Result) (s : State) : Result :=
  withFiring n ins s fun f =>
    if f.node.recovering then f.recover out
    else
      let hs := f.heads.filterMap id
      if hs.length ≠ f.ins.length then idle f
      else
        match misaligned hs with
        | some k => (f.misalign k hs).recover out
        | none =>
          if (hs.headD { data := 0, ctl := 0 }).hdr then
            let x := f.takeHeaders bad hs
            onHeader x.1 x.2
          else onData (f.needHeaders hs) hs

/-- The firing rule of a node that sends its results into its output channels. -/
def fire (n : NodeFields) (ins : List (BitVec 4)) (bad : List Flit → Nat → Flit → Bool) (onHeader : Firing → Bool → Result)
    (onData : Firing → List Flit → Result) (idle : Firing → Result) (s : State) : Result :=
  fireInto Firing.send n ins bad onHeader onData idle s

/-- The output header of a tile (R285). -/
def Firing.sendHeader (f : Firing) (w : Word) (psn : Bool) : Firing := f.takeAll.send (headerFlit w psn)

/-- The elementwise data firing: every lane in use, by the operation (R285, R290). -/
def Firing.lanes (f : Firing) (k : NodeKind) (hs : List Flit) : Firing × Word :=
  let t := f.ety
  let h := parseHdr (f.node.hdrAt 0).word
  let used := f.node.used { h with ety := t } (lanesOf t)
  let rows := (List.range used).map fun j =>
    let vals := hs.zipIdx.map fun d =>
      let hd := parseHdr (f.node.hdrAt d.2).word
      let raw := lane d.1.data t j
      if etyFloat t then deliver (fmtOfEty t) (k.scaleRound f.n) hd.scale raw else (raw, 0)
    let r := evalLane k f.n t (vals.map (·.1))
    (r.1, vals.foldl (fun a v => a ||| v.2) r.2)
  (f.flags (rows.foldl (fun a r => a ||| r.2) 0), packLanes t (rows.map (·.1)))

/-- Counts the elements of a flit. -/
def Firing.counted (f : Firing) : Firing :=
  f.updNode fun n => { n with count := n.count + lanesOf f.ety, elem := n.elem + lanesOf f.ety }

/-- An elementwise node. With a poisoned input its result is poisoned and no flag is raised: the spec does not say whether one is.
(DEDUCED, assumption 32) -/
def elementwise (k : NodeKind) (n : NodeFields) (ins : List (BitVec 4)) (s : State) : Result :=
  fire n ins (fun hs _ d => decodeBad n (k.accepts n) hs d)
    (fun f psn =>
      let h := parseHdr (f.node.hdrAt 0).word
      if k == .con then
        if !psn && n.ety == 14 && constBad n.param h.ety then
          (((f.fault 0).updNode fun x => x.setHdr 0 { x.hdrAt 0 with psn := true }).sendHeader 0 true).done
        else (f.sendHeader (setBits (f.node.hdrAt 0).word 48 8 0) psn).done
      else (f.sendHeader (headerWord (k.outType n h.ety) 0 0 h.rows h.cols) psn).done)
    (fun f hs =>
      let a := hs.headD { data := 0, ctl := 0 }
      let psn := f.poisoned hs
      let x := if psn then (f, 0) else f.lanes k hs
      (x.1.counted.takeAll.send (dataFlit x.2 a.marks psn)).done)
    (fun f => .next f.s) s

def execNadd (n : NodeFields) (s : State) : Result := elementwise .add n [n.ina, n.inb] s
def execNsub (n : NodeFields) (s : State) : Result := elementwise .sub n [n.ina, n.inb] s
def execNmul (n : NodeFields) (s : State) : Result := elementwise .mul n [n.ina, n.inb] s
def execNfma (n : NodeFields) (s : State) : Result := elementwise .fma n [n.ina, n.inb, n.inc] s
def execNmin (n : NodeFields) (s : State) : Result := elementwise .min n [n.ina, n.inb] s
def execNmax (n : NodeFields) (s : State) : Result := elementwise .max n [n.ina, n.inb] s
def execNabs (n : NodeFields) (s : State) : Result := elementwise .abs n [n.ina] s
def execNneg (n : NodeFields) (s : State) : Result := elementwise .neg n [n.ina] s
def execNcmp (n : NodeFields) (s : State) : Result := elementwise .cmp n [n.ina, n.inb] s
def execNsel (n : NodeFields) (s : State) : Result := elementwise .sel n [n.ina, n.inb, n.inc] s
def execNand (n : NodeFields) (s : State) : Result := elementwise .and n [n.ina, n.inb] s
def execNor (n : NodeFields) (s : State) : Result := elementwise .or n [n.ina, n.inb] s
def execNxor (n : NodeFields) (s : State) : Result := elementwise .xor n [n.ina, n.inb] s
def execNshl (n : NodeFields) (s : State) : Result := elementwise .shl n [n.ina, n.inb] s
def execNshr (n : NodeFields) (s : State) : Result := elementwise .shr n [n.ina, n.inb] s
def execNcon (n : NodeFields) (s : State) : Result := elementwise .con n [n.ina] s

/-! ### Repacking (R293 to R295) -/

/-- Emits one output flit from the elements held, when a flit's lanes are full or the tile's last element has been placed; `tail`
says that no further element of the tile comes. -/
def Firing.emit (f : Firing) (t : Nat) (tail : Bool) : Firing :=
  let l := f.node.elems
  let upTo := match l.findIdx? fun e => bit e.2 3 with | some k => k + 1 | none => if tail then l.length else l.length + 1
  let k := min (lanesOf t) upTo
  if l.isEmpty ∨ l.length < k then f
  else
    let out := l.take k
    let ctl := out.foldl (fun c e => c ||| e.2) 0
    (f.updNode fun n => { n with elems := l.drop k }).send (dataFlit (packLanes t (out.map (·.1.toNat))) ctl (bit ctl 6))

/-- Elements of one input flit as they are held: the marks go with the last one, poison with every one (R293). -/
def holdElems (vals : List Nat) (marks : BitVec 8) (psn : Bool) : List (Word × BitVec 8) :=
  vals.zipIdx.map fun v =>
    (BitVec.ofNat 64 v.1, (if v.2 + 1 = vals.length then marks else 0) ||| (if psn then 0x40 else 0))

/-- Consumes one input flit of NCVT, NDEC or NENC; a poisoned one raises no flag. (DEDUCED, assumption 32) -/
def Firing.convertFlit (f : Firing) (k : NodeKind) (d : Flit) : Firing :=
  let h := { parseHdr (f.node.hdrAt 0).word with ety := f.ety }
  let used := f.node.used h (lanesOf h.ety)
  let psn := f.poisoned [d]
  let vals := (List.range used).map fun j => convertElem f.s f.site k f.n h (lane d.data h.ety j)
  let f := if psn then f else f.flags (vals.foldl (fun a v => a ||| v.2) 0)
  let held := holdElems (if psn then vals.map fun _ => 0 else vals.map (·.1)) d.marks psn
  f.counted.takeAll.updNode fun n => { n with elems := n.elems ++ held }

/-- Whether the lanes of a node's held elements have room for those of its next data flit. -/
def Firing.fits (f : Firing) : Bool :=
  let h := { parseHdr (f.node.hdrAt 0).word with ety := f.ety }
  decide (f.node.elems.length + f.node.used h (lanesOf h.ety) ≤ 16)

/-- A repacking node of one element in, one out. -/
def repack (k : NodeKind) (n : NodeFields) (header : TileHdr → Word) (s : State) : Result :=
  let out (f : Firing) : Nat := k.outType n f.ety
  fire n [n.ina] (fun hs _ d => decodeBad n (k.accepts n) hs d)
    (fun f psn =>
      if !f.node.elems.isEmpty then .next s
      else (f.sendHeader (header (parseHdr (f.node.hdrAt 0).word)) psn).done)
    (fun f hs =>
      ((f.convertFlit k (hs.headD { data := 0, ctl := 0 })).emit (out f) false).done)
    (fun f => if f.node.elems.isEmpty then .next s else (f.emit (out f) false).done) s

/-- With elements still held, a repacking node emits them before it takes the next header, or a data flit that finds no room: what is
wrong with such a flit is found when it is consumed (R283). -/
def repackStep (k : NodeKind) (n : NodeFields) (header : TileHdr → Word) (s : State) : Result :=
  withFiring n [n.ina] s fun f =>
    match f.heads with
    | [some d] =>
      if f.node.recovering then repack k n header s
      else if d.hdr ∧ !f.node.elems.isEmpty then (f.emit (k.outType n f.ety) true).done
      else if !d.hdr ∧ !(f.needHeaders [d]).fits then (f.emit (k.outType n f.ety) false).done
      else repack k n header s
    | _ => repack k n header s

def execNcvt (n : NodeFields) (s : State) : Result :=
  repackStep .cvt n (fun h => headerWord n.fn.toNat 0 0 h.rows h.cols) s
def execNdec (n : NodeFields) (s : State) : Result := repackStep .dec n (fun h => headerWord 10 0 0 h.rows h.cols) s
def execNenc (n : NodeFields) (s : State) : Result :=
  repackStep .enc n (fun h => headerWord 13 (n.fn.toNat % 4) (BitVec.ofNat 8 (n.param.toNat % 256)).toInt h.rows h.cols) s

/-! ### Reductions and scans (R296) -/

/-- One element enters the running group; answers the new running value, its poison and the flags, none of a group that is poisoned.
(DEDUCED, assumption 32) -/
def groupStep (n : NodeFields) (t : Nat) (acc : Option (Word × Bool)) (v : Nat) (psn : Bool) : (Word × Bool) × Flags :=
  match acc with
  | none => ((BitVec.ofNat 64 v, psn), 0)
  | some (a, p) =>
    if p ∨ psn then ((0, true), 0)
    else
      let r := combine t (n.param.toNat % 8) (nodeRound n.fn.toNat) (bit n.fn 3) a.toNat v
      ((BitVec.ofNat 64 r.1, false), r.2)

/-- The state of a reduction inside one flit: running group, elements made, flags, index of the element in the tile. -/
structure GroupRun where
  acc   : Option (Word × Bool)
  out   : List (Word × Bool)
  flags : Flags
  idx   : Nat
  deriving DecidableEq, Repr

/-- Runs the elements of a flit through the group; `scan` makes one element for each, else one for each group that ends.
(DEDUCED, assumption 32) -/
def groupRun (n : NodeFields) (t : Nat) (h : TileHdr) (scan eot psn : Bool) (g : GroupRun) : List (Nat × Flags) → GroupRun
  | [] => g
  | v :: vs =>
    let r := groupStep n t g.acc v.1 psn
    let ends := (if bit n.param 4 then decide ((g.idx + 1) % (h.cols + 1) = 0) else false) || (eot && vs.isEmpty)
    let g := { acc := if ends then none else some r.1, out := if scan ∨ ends then g.out ++ [r.1] else g.out,
               flags := g.flags ||| v.2 ||| r.2, idx := g.idx + 1 }
    groupRun n t h scan eot psn g vs

/-- The elements of a flit through the group of a firing. -/
def Firing.group (f : Firing) (scan : Bool) (d : Flit) : GroupRun :=
  let t := f.ety
  let h := { parseHdr (f.node.hdrAt 0).word with ety := t }
  let used := f.node.used h (lanesOf t)
  let vals := (List.range used).map fun j =>
    if etyFloat t then deliver (fmtOfEty t) (nodeRound f.n.fn.toNat) h.scale (lane d.data t j) else (lane d.data t j, 0)
  groupRun f.n t h scan d.eot (f.poisoned [d]) { acc := f.node.acc, out := [], flags := 0, idx := f.node.count } vals

def execNacc (n : NodeFields) (s : State) : Result :=
  fire n [n.ina] (fun hs _ d => decodeBad n (NodeKind.accepts .acc n) hs d)
    (fun f psn =>
      let h := parseHdr (f.node.hdrAt 0).word
      (f.sendHeader (headerWord h.ety 0 0 h.rows h.cols) psn).done)
    (fun f hs =>
      let d := hs.headD { data := 0, ctl := 0 }
      let g := f.group true d
      let psn := g.out.any (·.2) || f.poisoned [d]
      let f := (if f.poisoned [d] then f else f.flags g.flags).counted.updNode fun x => { x with acc := g.acc }
      (f.takeAll.send (dataFlit (packLanes f.ety (g.out.map (·.1.toNat))) d.marks psn)).done)
    (fun f => .next f.s) s

/-- Consumes one input flit of NRED. -/
def Firing.reduceFlit (f : Firing) (d : Flit) : Firing :=
  let g := f.group false d
  let f := if f.poisoned [d] then f else f.flags g.flags
  let held := g.out.zipIdx.map fun e =>
    (e.1.1, (if e.2 + 1 = g.out.length then d.marks &&& 0x88 else 0) ||| (if e.1.2 then 0x40 else 0))
  f.counted.takeAll.updNode fun n => { n with acc := g.acc, elems := n.elems ++ held }

def execNred (n : NodeFields) (s : State) : Result :=
  withFiring n [n.ina] s fun f =>
    let drain (tail : Bool) : Result := if f.node.elems.isEmpty then .next s else (f.emit f.ety tail).done
    match f.heads with
    | [some d] =>
      if d.hdr ∧ !f.node.elems.isEmpty then drain true
      else
        fire n [n.ina] (fun hs _ d => decodeBad n (NodeKind.accepts .red n) hs d)
          (fun f psn =>
            let h := parseHdr (f.node.hdrAt 0).word
            (f.sendHeader (headerWord h.ety 0 0 (if bit n.param 4 then h.rows else 0) 0) psn).done)
          (fun f hs =>
            if f.node.elems.length + lanesOf f.ety ≤ 16 then
              ((f.reduceFlit (hs.headD { data := 0, ctl := 0 })).emit f.ety false).done
            else (f.emit f.ety false).done)
          (fun f => .next f.s) s
    | _ => drain false

/-! ### Counters, bounds and relays (R298, R299, R301) -/

/-- A node that passes every flit of A, changed by `g`. -/
def passing (n : NodeFields) (g : NodeState → Flit → NodeState × Flit) (s : State) : Result :=
  withFiring n [n.ina] s fun f =>
    match f.heads with
    | [some d] =>
      let r := g f.node d
      ((f.updNode fun _ => r.1).takeAll.send r.2).done
    | _ => .next s

/-- NCNT's counters and marks (R298). -/
def countFlit (n : NodeFields) (x : NodeState) (d : Flit) : NodeState × Flit :=
  if d.hdr then (if bit n.fn 0 then { x with inner := 0, outer := 0 } else x, d)
  else
    let i := bits n.param 0 10 + 1
    let k := bits n.param 10 10 + 1
    if x.inner + 1 = i then
      if x.outer + 1 = k then ({ x with inner := 0, outer := 0 }, { d with ctl := d.ctl ||| 0x30 })
      else ({ x with inner := 0, outer := x.outer + 1 }, { d with ctl := d.ctl ||| 0x10 })
    else ({ x with inner := x.inner + 1 }, d)

def execNcnt (n : NodeFields) (s : State) : Result := passing n (countFlit n) s
def execNrly (n : NodeFields) (s : State) : Result := passing n (fun x d => (x, d)) s

/-- The tile that NBND makes of `m` elements from `b` (R299). -/
def boundTile (b m : Nat) (last : Bool) : List Flit :=
  if m = 0 then []
  else
    let flits := (m + 1) / 2
    headerFlit (headerWord 6 0 0 0 (m - 1)) false :: (List.range flits).map fun j =>
      let els := (List.range (min 2 (m - 2 * j))).map fun e => (b + 2 * j + e) % 2 ^ 32
      let tail := j + 1 = flits
      dataFlit (packLanes 6 els) ((if tail then 0x08 else 0) ||| (if tail ∧ last then 0x80 else 0)) false

/-- The flits that NBND makes of an input flit. -/
def boundFlits (n : NodeFields) (t used : Nat) (d : Flit) (psn : Bool) : List Flit :=
  (List.range used).flatMap fun j =>
    let last := d.last && j + 1 == used
    if psn then [headerFlit 0 true, dataFlit 0 (0x08 ||| (if last then 0x80 else 0)) true]
    else
      let v := intLane t (lane d.data t j)
      boundTile n.param.toNat (min v.toNat 65536) last

/-- Emits the next flit formed. -/
def Firing.emitPending (f : Firing) : Firing :=
  match f.node.pending with
  | d :: l => (f.updNode fun n => { n with pending := l }).send d
  | [] => f

/-- NBND; it takes its next flit once it has begun the last tile of the current one: none of the flits formed is a header. -/
def execNbnd (n : NodeFields) (s : State) : Result :=
  withFiring n [n.ina] s fun f =>
    if f.node.pending.any (·.hdr) then f.emitPending.done
    else
      fire n [n.ina] (fun hs _ d => decodeBad n (NodeKind.accepts .bnd n) hs d)
        (fun f _ => f.takeAll.emitPending.done)
        (fun f hs =>
          let d := hs.headD { data := 0, ctl := 0 }
          let h := { parseHdr (f.node.hdrAt 0).word with ety := f.ety }
          let l := boundFlits n h.ety (f.node.used h (lanesOf h.ety)) d (f.poisoned [d])
          (f.counted.takeAll.updNode fun x => { x with pending := x.pending ++ l }).emitPending.done)
        (fun f => if f.node.pending.isEmpty then .next f.s else f.emitPending.done) s

end Sys2Proof.Machine
end

