-- ==== Sys2Proof/Machine/Routers.lean ====
section
/-!
DEFINITION. Sys2Proof/Machine/Routers.lean: the control operators and controllers of routers (R303 to R311). Each firing moves
at most one flit.
-/
namespace Sys2Proof.Machine

/-- A router operator about to fire. -/
structure Routing where
  s    : State
  i    : Nat
  x    : Inst
  page : Nat
  pe   : Nat
  r    : RouterFields

def Routing.st (f : Routing) : RouterState := (f.x.peAt f.page f.pe).router
def Routing.upd (f : Routing) (g : RouterState → RouterState) : Routing := { f with x := f.x.updRouter f.page f.pe g }
def Routing.head (f : Routing) (ch : BitVec 4) : Option Flit := f.x.head f.page f.pe (fin 16 ch.toNat) false
def Routing.take (f : Routing) (ch : BitVec 4) : Routing := { f with x := f.x.take f.page f.pe false (fin 16 ch.toNat) }
def Routing.space (f : Routing) (m : BitVec 16) : Bool := f.x.space f.page f.pe m

/-- Sends a flit, poisoned under a poisoned decision (R304). -/
def Routing.send (f : Routing) (m : BitVec 16) (psn : Bool) (d : Flit) : Routing :=
  { f with x := f.x.send f.page f.pe m (if psn then d.poison else d) }

def Routing.done (f : Routing) : Result := .next (f.s.stir f.i f.x)

/-- Begins a firing of the operator under the cursor. -/
def withRouter (r : RouterFields) (s : State) (k : Routing → Result) : Result :=
  let c := s.pe
  match s.insts[c.inst]? with
  | none => .next s
  | some x => if s.instActs x then k { s := s, i := c.inst, x := x, page := c.page, pe := c.pe, r := r } else .next s

/-- A decision at a control input (R304): headers make none and are taken; a poisoned flit is read as false. -/
def withDecision (f : Routing) (k : Routing → Bool → Bool → Result) : Result :=
  match f.head f.r.ctl with
  | none => .next f.s
  | some c => if c.hdr then (f.take f.r.ctl).done else k f (!c.psn && c.data != 0) c.psn

/-- Moves the flit at the head of a data input to a mask, within the unit under way or as its first flit (R303). -/
def moveFlit (f : Routing) (ch : BitVec 4) (mask : BitVec 16) (psn : Bool) (g : RouterState → Bool → RouterState) : Result :=
  match f.head ch with
  | none => .next f.s
  | some d =>
    if f.space mask then
      (((f.take ch).send mask psn d).upd fun st => g { st with inUnit := !d.eot } d.eot).done
    else .next f.s

/-- An operator that takes one decision for each unit of a data input (R304, R305). -/
def decided (r : RouterFields) (input : Bool → BitVec 4) (mask : Bool → BitVec 16) (s : State) : Result :=
  withRouter r s fun f =>
    let st := f.st
    if st.inUnit then moveFlit f (input st.dec) (mask st.dec) st.dpsn fun st _ => st
    else
      withDecision f fun f dec psn =>
        match f.head (input dec) with
        | none => .next s
        | some _ =>
          if f.space (mask dec) then
            moveFlit ((f.take f.r.ctl).upd fun st => { st with dec := dec, dpsn := psn }) (input dec) (mask dec) psn fun st _ => st
          else .next s

def execSteer (r : RouterFields) (s : State) : Result := decided r (fun _ => r.ia) (fun d => if d then r.oa else r.ob) s
def execGate (r : RouterFields) (s : State) : Result := decided r (fun _ => r.ia) (fun d => if d then r.oa else 0) s
def execMerge (r : RouterFields) (s : State) : Result := decided r (fun d => if d then r.ia else r.ib) (fun _ => r.oa) s

def execFork (r : RouterFields) (s : State) : Result := withRouter r s fun f => moveFlit f r.ia r.oa false fun st _ => st

/-- The sink of a configuration: the SINK of the first page record that has one, of lowest PE index (R305). -/
def Config.sink (c : Config) : Option (Nat × Nat) :=
  (c.pages.zipIdx).findSome? fun p =>
    ((List.range 256).find? fun pe => bits (tget 0 p.1.routes pe : BitVec 64) 44 4 == 7).map fun pe => (p.2, pe)

/-- SINK; the configuration's sink retires on a LAST flit of the graph's final segment (R305). -/
def execSink (r : RouterFields) (s : State) : Result :=
  withRouter r s fun f =>
    match f.head r.ia with
    | none => .next s
    | some d =>
      let f := f.take r.ia
      let mine := f.x.cfg.sink == some (f.page, f.pe)
      ({ f with x := { f.x with retired := f.x.retired || (mine && d.last && f.x.final && s.openHyp f.x.ctx f.x.hyp) } }).done

/-- CARRY (R307): units that have reached IB are discarded before the tail marker is consumed. (DEDUCED, assumption 34) -/
def execCarry (r : RouterFields) (s : State) : Result :=
  withRouter r s fun f =>
    let st := f.st
    match st.carry with
    | .init => moveFlit f r.ia r.oa false fun st eot => { st with carry := if eot then .loop else .init }
    | .loop =>
      if st.inUnit then moveFlit f r.ib r.oa st.dpsn fun st _ => st
      else
        withDecision f fun f dec psn =>
          if !dec then ((f.take r.ctl).upd fun st => { st with carry := .drain }).done
          else
            match f.head r.ib with
            | none => .next s
            | some _ =>
              if f.space r.oa then moveFlit ((f.take r.ctl).upd fun st => { st with dpsn := psn }) r.ib r.oa psn fun st _ => st
              else .next s
    | .drain =>
      match f.head r.ib with
      | some _ => moveFlit f r.ib 0 false fun st _ => st
      | none =>
        let tail : BitVec 4 := r.ob.extractLsb' 0 4
        if st.inUnit then .next s
        else
          match f.head tail with
          | some _ => ((f.take tail).upd fun st => { st with carry := .init }).done
          | none => .next s

/-- One flit of IA's unit enters INVAR's hold; a unit of more than 16 flits is held as its first 16, the sixteenth with PSN and
EOT (R308). -/
def RouterState.hold (st : RouterState) (d : Flit) : RouterState :=
  let n := st.held.length
  let held :=
    if n < 16 then st.held ++ [d]
    else st.held.take 15 ++ (st.held.drop 15).map fun x => { x.poison with ctl := x.poison.ctl ||| 0x08 }
  { st with held := held, full := d.eot }

/-- INVAR (R308). (DEDUCED, assumption 34) -/
def execInvar (r : RouterFields) (s : State) : Result :=
  withRouter r s fun f =>
    let st := f.st
    if !st.full then
      match f.head r.ia with
      | none => .next s
      | some d => ((f.take r.ia).upd fun st => st.hold d).done
    else if st.inUnit then
      if f.space r.oa then
        let n := st.sent + 1
        ((f.send r.oa st.dpsn (st.held.getD st.sent { data := 0, ctl := 0 })).upd fun st =>
          { st with sent := if n < st.held.length then n else 0, inUnit := decide (n < st.held.length) }).done
      else .next s
    else
      withDecision f fun f dec psn =>
        if dec then ((f.take r.ctl).upd fun st => { st with inUnit := true, sent := 0, dpsn := psn }).done
        else ((f.take r.ctl).upd fun st => { st with held := [], full := false }).done

/-! ### Controllers (R310, R311) -/

/-- Whether an output channel is a done channel: its link leads to the IA of a controller, or to a stream endpoint (R310). -/
def Inst.doneChan (x : Inst) (page pe ch : Nat) : Bool :=
  match x.cfg.linkOf page pe ch with
  | none => false
  | some l =>
    match l.endpoint, x.cfg.target l with
    | some _, _ => true
    | none, none => false
    | none, some (q, qe, qch) =>
      let w := x.routeWord q qe
      decide (8 ≤ bits w 44 4) && decide (bits w 44 4 ≤ 10) && bits w 36 4 == qch

/-- The done channels, or else the enable channels, of a controller's OA (R310). -/
def Routing.chans (f : Routing) (dones : Bool) : BitVec 16 :=
  (maskChans f.r.oa).foldl (fun (m : BitVec 16) (k : Fin 16) => if f.x.doneChan f.page f.pe k == dones then setBits m k.val 1 1 else m) 0

/-- W, the window count (R310). -/
def windowCount (r : RouterFields) : Nat := max 1 r.ob.toNat

/-- A token of a controller: one data flit with EOT (R310). -/
def token (v : Nat) : Flit := { data := BitVec.ofNat 64 v, ctl := 0x09 }

/-- The next enable of the window leaves when its channels have space. -/
def sendEnable (f : Routing) : Result :=
  let m := f.chans false
  if f.space m then ((f.send m false (token (f.st.issued + 1))).upd fun st => { st with issued := st.issued + 1 }).done else .next f.s

/-- The done leaves when its channels have space, and the state becomes `g`'s. -/
def sendDone (f : Routing) (g : RouterState → RouterState) : Result :=
  let m := f.chans true
  if f.space m then ((f.send m false (token 1)).upd g).done else .next f.s

/-- An enable at CTL, when the controller may take one; headers are only consumed (R310). -/
def takeEnable (f : Routing) (g : RouterState → RouterState) : Result :=
  match f.head f.r.ctl with
  | none => .next f.s
  | some d => if d.hdr then (f.take f.r.ctl).done else ((f.take f.r.ctl).upd g).done

/-- A flit at IA: one with EOT counts as one done (R310). (DEDUCED, assumption 34) -/
def takeDone (f : Routing) (k : Routing → Result) : Result :=
  match f.head f.r.ia with
  | some d => ((f.take f.r.ia).upd fun st => { st with dones := if d.eot then st.dones + 1 else st.dones }).done
  | none => k f

/-- An enable opens an activation, which starts with no done counted: dones that came before, or in excess of W, are forgotten (R311).
(DEDUCED, assumption 34) -/
def openWindow (st : RouterState) : RouterState := { st with active := true, issued := 0, dones := 0 }

/-- CSEQ: one enable at a time (R311). -/
def execCseq (r : RouterFields) (s : State) : Result :=
  withRouter r s fun f => takeDone f fun f =>
    let st := f.st
    if !st.active then takeEnable f openWindow
    else if st.dones < st.issued then .next s
    else if st.issued < windowCount r then sendEnable f
    else sendDone f fun st => { st with active := false }

/-- CPIP: every enable, then every done (R311). (DEDUCED, assumption 34) -/
def execCpip (r : RouterFields) (s : State) : Result :=
  withRouter r s fun f => takeDone f fun f =>
    let st := f.st
    if !st.active then takeEnable f openWindow
    else if st.issued < windowCount r then sendEnable f
    else if st.dones < windowCount r then .next s
    else sendDone f fun st => { st with active := false }

/-- CSTR: activations overlap, at most 64 open (R311). -/
def execCstr (r : RouterFields) (s : State) : Result :=
  withRouter r s fun f => takeDone f fun f =>
    let st := f.st
    let w := windowCount r
    if w ≤ st.dones ∧ 0 < st.acts then sendDone f fun st => { st with dones := st.dones - w, acts := st.acts - 1 }
    else if st.active then
      if st.issued < w then sendEnable f else (f.upd fun st => { st with active := false }).done
    else if st.acts < 64 then takeEnable f fun st => { st with active := true, issued := 0, acts := st.acts + 1 }
    else .next s

end Sys2Proof.Machine
end

