-- ==== Sys2Proof/Machine/Ports.lean ====
section
/-!
DEFINITION. Sys2Proof/Machine/Ports.lean: memory ports and memory nodes: translation and checks, order, wave chains, faults and
the spill queue, NLD, NST and NOWN (R313 to R325).
-/
namespace Sys2Proof.Machine

/-- The memory port of a PE position (R52). -/
def portOf (pe : Nat) : Option (Fin 4) :=
  match pe with
  | 0 => some 0 | 15 => some 1 | 255 => some 2 | 240 => some 3 | _ => none

/-- The PE of a memory port. -/
def portPe (p : Fin 4) : Nat := [0, 15, 255, 240].getD p 0

/-- A port after loading: nothing in flight, tag 0 bound (R317). -/
def PortState.fresh : PortState := { acc := [], flt := false, seq := 0, btag := 0, own := [] }

def Inst.port (x : Inst) (page : Nat) (p : Fin 4) : PortState := tget PortState.fresh x.ports (page * 4 + p)

def Inst.setPort (x : Inst) (page : Nat) (p : Fin 4) (v : PortState) : Inst := { x with ports := tput true x.ports (page * 4 + p) v }

/-- Entries in the spill queue. -/
def PortState.spills (p : PortState) : Nat := (p.acc.filter (·.spilled)).length

/-- Accesses in flight, or waiting for their turn in the output order. -/
def PortState.flights (p : PortState) : Nat := (p.acc.filter fun a => !a.spilled && !a.hdr).length

/-! ### Translation and checks (R317, R318) -/

/-- A failed check: cause, DETAIL, expected and found tag of a TAG failure, entry index, and the tag that the entry gives the access. -/
structure PortFault where
  cause  : Nat
  detail : Nat
  expt   : BitVec 4
  fndt   : BitVec 4
  entry  : Nat
  tag    : BitVec 4
  deriving DecidableEq, Repr

/-- The first range entry that covers an access (R317). -/
def Inst.rangeOf (x : Inst) (page : Nat) (p : Fin 4) (va size : Nat) : Option (Nat × RangeEntry) :=
  let l := (x.cfg.page page).ranges[p]
  match l.findIdx? fun e => bits e.base 0 52 ≤ va && va + size - 1 ≤ bits e.limit 0 52 with
  | some k => some (k, l.getD k { base := 0, limit := 0, offset := 0, ctrl := 0 })
  | none => none

def RangeEntry.pa (e : RangeEntry) (va : Nat) : Nat := bits (BitVec.ofNat 64 va + e.offset) 0 52

/-- Whether an engine may reach an address: inside a window, no dark site, absent scratchpad or module, no device register. -/
def State.engineReach (s : State) (pa : Nat) : Bool :=
  let o := offsetOf pa
  if s.isLocal pa then
    match spaceOf o with
    | .hbm => true
    | .scratch => s.scratchPresent (scratchCluster o)
    | .tcm => !(s.site (tcmSite o)).isDark
    | _ => false
  else s.routeTo (pa / 2 ^ 41) && (match spaceOf o with | .hbm => true | .scratch => true | .tcm => true | _ => false)

/-- The tag that a range entry gives its accesses: its own, or the port's bound tag (R317). -/
def Inst.entryTag (x : Inst) (page : Nat) (p : Fin 4) (e : RangeEntry) : BitVec 4 :=
  if bits e.ctrl 2 2 = 1 then (x.port page p).btag else BitVec.ofNat 4 (bits e.ctrl 4 4)

/-- The checks of R318: the physical address and entry, or the first failure. `need` is 0 for NLD, 1 for NST, 2 for NOWN. -/
def State.portCheck (s : State) (x : Inst) (page : Nat) (p : Fin 4) (va size need : Nat) : Except PortFault Nat :=
  match x.rangeOf page p va size with
  | none => .error { cause := 0x22, detail := (x.cfg.page page).ranges[p].length, expt := 0, fndt := 0, entry := 15, tag := 0 }
  | some (k, e) =>
    let perm := bits e.ctrl 0 2
    let pa := e.pa va
    let want : BitVec 4 := x.entryTag page p e
    let fault (c : Nat) : PortFault := { cause := c, detail := 0, expt := 0, fndt := 0, entry := k, tag := want }
    if (need = 1 ∧ perm = 1) ∨ (need = 2 ∧ perm ≠ 3) then .error (fault 0x0B)
    else if !s.engineReach pa then .error (fault 0x0C)
    else if need ≠ 0 ∧ hypNum x.hyp ≠ 0 ∧ !s.localHbm pa then .error (fault 0x0D)
    else if s.tagHome pa ≠ want then .error { fault 0x0F with expt := want, fndt := s.tagHome pa }
    else if s.poisonHome x.ctx x.hyp pa then .error (fault 0x10)
    else .ok pa

/-- Whether two accesses of a port overlap in bytes, by virtual or by physical address (R319). -/
def Inst.accOverlap (x : Inst) (page : Nat) (p : Fin 4) (a b : PortAccess) : Bool :=
  let meet (u n v m : Nat) : Bool := decide (u < v + m) && decide (v < u + n)
  meet a.va a.size b.va b.size ||
    (match x.rangeOf page p a.va a.size, x.rangeOf page p b.va b.size with
     | some (_, e), some (_, f) => meet (e.pa a.va) a.size (f.pa b.va) b.size
     | _, _ => false)

/-! ### Wave chains (R320) -/

def waveOf (w : BitVec 64) : Nat := if nodeOp w = 0x20 ∨ nodeOp w = 0x21 then bits w 14 6 else 0
def predOf (w : BitVec 64) : Nat := if nodeOp w = 0x20 ∨ nodeOp w = 0x21 then bits w 8 6 else 0

/-- The port whose node holds a wave number: the lowest PE index that carries it. (DEDUCED, assumption 35) -/
def Inst.waveHolder (x : Inst) (page w : Nat) : Option (Fin 4) :=
  ([0, 1, 3, 2] : List (Fin 4)).find? fun p => waveOf (x.nodeWord page (portPe p)) == w

/-- Whether the k-th access of a port's node has performed or been discarded. -/
def Inst.performed (x : Inst) (page : Nat) (p : Fin 4) (k : Nat) : Bool :=
  decide (k < (x.peAt page (portPe p)).node.fired) && !((x.port page p).acc.any fun a => a.iter = k && !a.hdr && a.done.isNone)

/-- Whether the wave chain lets the k-th access of a port's node perform. -/
def Inst.waveOpen (x : Inst) (page : Nat) (p : Fin 4) (k : Nat) : Bool :=
  let pred := predOf (x.nodeWord page (portPe p))
  if pred = 0 then true
  else match x.waveHolder page pred with
    | none => true
    | some q => q == p || x.performed page q k

/-! ### Faults of a port (R321, R322) -/

/-- The record of a failed port access. -/
def portRecord (x : Inst) (page : Nat) (p : Fin 4) (a : PortAccess) (f : PortFault) (occ : Nat) : Record :=
  { addr := BitVec.ofNat 64 a.va, tid := 0, insn := x.segCmd, cause := BitVec.ofNat 8 f.cause, src := 2, ctx := x.ctx,
    expt := f.expt, fndt := f.fndt, hyp := BitVec.ofNat 8 (hypNum x.hyp), site := BitVec.ofNat 10 (x.siteOf page),
    unit := BitVec.ofNat 8 p, lane := 0, elem := BitVec.ofNat 64 a.elem, time := 0,
    pc := field 32 32 a.tile ||| field 16 4 f.entry ||| field 8 8 (portPe p) ||| field 0 8 occ,
    detail := BitVec.ofNat 64 f.detail, seq := 0 }

/-- Updates the k-th access of a port. -/
def Inst.setAccess (x : Inst) (page : Nat) (p : Fin 4) (k : Nat) (a : PortAccess) : Inst :=
  let v := x.port page p
  x.setPort page p { v with acc := setAt v.acc k a }

def Inst.dropAccess (x : Inst) (page : Nat) (p : Fin 4) (k : Nat) : Inst :=
  let v := x.port page p
  x.setPort page p { v with acc := dropAt v.acc k }

/-- A failed access is spilled; the first one since the last resolution writes a record. With a full queue it waits (R321). -/
def State.spillAccess (s : State) (i : Nat) (x : Inst) (page : Nat) (p : Fin 4) (k : Nat) (a : PortAccess) (f : PortFault) : State :=
  let v := x.port page p
  if 64 ≤ v.spills then s
  else
    let x := x.setAccess page p k { a with spilled := true }
    if v.flt then s.stir i x
    else
      let r := (s.stir i x).asyncRecord (s.instLaunch x) (siteKey (x.siteOf page)) 2 (portRecord x page p a f (v.spills + 1))
      r.1.setInst i (x.setPort page p { x.port page p with flt := true, seq := r.2.seq })

/-! ### Performing an access (R314, R315, R319) -/

/-- A port access within the module that has passed its checks hits context-scope watchpoints; an owner node's reads and writes
(R148, R318). -/
def State.portTouch (s : State) (x : Inst) (page : Nat) (p : Fin 4) (a : PortAccess) (pa : Nat) (rd wr : Bool) : State :=
  if !s.isLocal pa then s else
  s.touch { ctx := x.ctx, core := none, who := none, va := a.va, len := a.size, rd := rd, wr := wr, tg := false,
            rec_ := portRecord x page p a { cause := 0x12, detail := 0, expt := 0, fndt := 0, entry := 0, tag := 0 } 0 }

/-- The result of an access enters the output order; an access of a node with no output leaves the port. -/
def State.finishAccess (s : State) (i : Nat) (x : Inst) (page : Nat) (p : Fin 4) (k : Nat) (a : PortAccess) (d : Flit) : State :=
  let out := bits (x.nodeWord page (portPe p)) 20 16
  if out = 0 then s.stir i (x.dropAccess page p k)
  else s.stir i (x.setAccess page p k { a with spilled := false, done := some d })

/-- An NST's write of `n` bytes that stay within one granule; with NT a line that the LLC does not hold is not allocated (R313). -/
def State.portWrite (s : State) (x : Inst) (page pa n v : Nat) (nt : Bool) : State :=
  let t := s.engineWrite (siteKey (x.siteOf page)) x.ctx x.hyp pa n v
  if nt && s.localHbm pa && !(s.llc.any fun e => e.1 == offsetOf pa / 64) then { t with llc := s.llc } else t

/-- Whether a write under an instance's hypothesis must wait for a version slot of its line (R262). -/
def State.engineBlocked (s : State) (c : Fin 16) (h : Handle) (pa : Nat) : Bool :=
  s.localHbm pa && hypNum h != 0 && s.openHyp c h && (s.version c (offsetOf pa / 64) h).isNone && !s.versionRoom (offsetOf pa / 64)

/-- Marks a granule poisoned, in the version that the hypothesis writes (R157, R262). -/
def State.poisonGranule (s : State) (c : Fin 16) (h : Handle) (pa : Nat) : State :=
  if s.localHbm pa ∧ hypNum h ≠ 0 then
    if s.openHyp c h then
      let o := offsetOf pa
      let s := s.makeVersion c h (o / 64)
      { s with vers := s.vers.map fun x =>
          if x.ctx = c ∧ x.line = o / 64 ∧ x.hyp = h then { x with poison := setBits x.poison (o % 64 / 16) 1 1 } else x }
    else s
  else s.updMem pa fun m => m.setPoison (s.cellAt pa) true

/-- Tries the k-th access of a port: it waits for an earlier overlapping one and for its wave, is spilled behind a spilled one
that it overlaps or when a check fails, and otherwise performs. (DEDUCED, assumption 35) -/
def State.tryAccess (s : State) (i page : Nat) (p : Fin 4) (k : Nat) : State :=
  match s.insts[i]? with
  | none => s
  | some x =>
    let v := x.port page p
    match v.acc[k]? with
    | none => s
    | some a =>
      let older := (v.acc.take k).filter fun b => !b.hdr && b.done.isNone && x.accOverlap page p b a
      if a.hdr ∨ a.done.isSome ∨ a.spilled then s
      else if older.any (·.spilled) then (if v.spills < 64 then s.setInst i (x.setAccess page p k { a with spilled := true }) else s)
      else if !older.isEmpty ∨ !x.waveOpen page p a.iter then s
      else
        match s.portCheck x page p a.va a.size (if a.store then 1 else 0) with
        | .error f => s.spillAccess i x page p k a f
        | .ok pa =>
          let nt := bit (x.nodeWord page (portPe p)) 48
          if a.store then
            if s.engineBlocked x.ctx x.hyp pa then s
            else
              let n := (a.mask.toNat + 1).log2
              let s := s.portTouch x page p a pa false true
              let s := if a.flit.psn then (s.enginePost (siteKey (x.siteOf page)) pa).poisonGranule x.ctx x.hyp pa
                else s.portWrite x page pa n (bits a.flit.data 0 (8 * n)) nt
              s.finishAccess i ((s.insts[i]?).getD x) page p k a (dataFlit a.addr a.marks a.flit.psn)
          else
            let s := (s.portTouch x page p a pa true false).engineAsk (siteKey (x.siteOf page)) pa
            let d := s.readHome x.ctx x.hyp pa 8
            let s := if s.localHbm pa ∧ !nt then s.touchLlc (offsetOf pa / 64) false else s
            s.finishAccess i ((s.insts[i]?).getD x) page p k a (dataFlit (BitVec.ofNat 64 d) a.marks false)

/-! ### Emission (R314, R315, R323) -/

/-- Whether the k-th entry of a port may leave: the oldest one; for a commutative consumer any one of the oldest tile whose
header has left. -/
def PortState.mayLeave (v : PortState) (commutes : Bool) (k : Nat) : Bool :=
  match v.acc[k]? with
  | none => false
  | some a =>
    k == 0 || (commutes && !a.hdr && (v.acc.take k).all fun b => !b.hdr && b.tile == a.tile)

/-- The entries after the k-th has left: the marks of a tile stay with the positions (R323). -/
def shiftMarks (l : List PortAccess) (k : Nat) : List PortAccess :=
  let ms := l.map (·.marks)
  (dropAt l k).zipIdx.map fun a =>
    if a.2 < k then
      let m := ms.getD (a.2 + 1) 0
      { a.1 with marks := m, done := a.1.done.map fun d => { d with ctl := d.ctl &&& 0x47 ||| m } }
    else a.1

/-- The k-th entry of a port leaves if it may. -/
def State.emitAccess (s : State) (i page : Nat) (p : Fin 4) (k : Nat) : State :=
  match s.insts[i]? with
  | none => s
  | some x =>
    let v := x.port page p
    let w := x.nodeWord page (portPe p)
    let mask : BitVec 16 := BitVec.ofNat 16 (bits w 20 16)
    match v.acc[k]? with
    | none => s
    | some a =>
      match a.done with
      | none => s
      | some d =>
        if v.mayLeave (nodeOp w == 0x20 && bit w 49) k ∧ x.space page (portPe p) mask then
          let m := (v.acc.headD a).marks
          let d := if k = 0 ∨ a.hdr then d else { d with ctl := d.ctl &&& 0x47 ||| m }
          let x := x.setPort page p { v with acc := shiftMarks v.acc k }
          s.stir i (x.send page (portPe p) mask d)
        else s

/-- A port access's data or acknowledgement comes back, and leaves when its turn has come. (DEDUCED, assumption 35) -/
def execPortResultReturn (i page : Nat) (port : Fin 4) (k : Nat) (s : State) : Result :=
  match s.insts[i]? with
  | some x => if s.instActs x then .next ((s.tryAccess i page port k).emitAccess i page port k) else .next s
  | none => .next s

/-! ### NLD and NST (R313 to R315) -/

/-- Adds an entry to the port of a firing's PE. -/
def Firing.pushAccess (f : Firing) (p : Fin 4) (a : PortAccess) : Firing :=
  let v := f.x.port f.page p
  { f with x := f.x.setPort f.page p { v with acc := v.acc ++ [a] } }

/-- A blank entry of a firing. -/
def Firing.access (f : Firing) (store : Bool) : PortAccess :=
  let n := f.node
  { pe := f.pe, store := store, va := 0, size := 8, mask := 0xFF, flit := { data := 0, ctl := 0 }, marks := 0, addr := 0,
    elem := n.elem, tile := n.tile - 1, pos := n.count, iter := n.fired, hdr := false, done := none, spilled := false }

/-- An output header waits for its turn; a node without outputs emits none. -/
def Firing.pushHeader (f : Firing) (p : Fin 4) (w : Word) (psn : Bool) : Firing :=
  if f.n.omask = 0 then f else f.pushAccess p { f.access false with hdr := true, done := some (headerFlit w psn) }

/-- Runs a memory node's firing where the PE is a memory port that still consumes (R314, R321). -/
def withPort (s : State) (k : Fin 4 → Result) : Result :=
  match portOf s.pe.pe, s.insts[s.pe.inst]? with
  | some p, some x =>
    let v := x.port s.pe.page p
    if v.spills < 64 ∧ v.flights < 64 then k p else .next s
  | _, _ => .next s

/-- A poisoned result of a recovery waits for its turn in the port's output order (R282, R315). -/
def Firing.pushResult (f : Firing) (p : Fin 4) (n : NodeFields) (d : Flit) : Firing :=
  (if n.omask = 0 then f else f.pushAccess p { f.access false with marks := d.marks, done := some d }).updNode fun x =>
    { x with elem := x.elem + 1 }

/-- Memory nodes queue their results, so that a full output channel does not stop a firing. -/
def fireQueued (p : Fin 4) (n : NodeFields) (ins : List (BitVec 4)) (bad : List Flit → Nat → Flit → Bool)
    (onHeader : Firing → Bool → Result) (onData : Firing → List Flit → Result) (s : State) : Result :=
  fireInto (fun f d => f.pushResult p n d) { n with omask := 0 } ins bad (fun f psn => onHeader { f with n := n } psn)
    (fun f hs => onData { f with n := n } hs)
    (fun f => .next f.s) s

/-- Whether the header of an address tile is bad: it must give I64 or N64 (R313). (DEDUCED, assumption 35) -/
def addressBad (d : Flit) : Bool := badHeader d || !((parseHdr d.data).ety == 3 || (parseHdr d.data).ety == 7)

/-- The address of an access: bits 51:3 of the element (R313). -/
def portAddress (d : Flit) : Nat := bits d.data 3 49 * 8

def execNld (n : NodeFields) (s : State) : Result :=
  withPort s fun p =>
    let l := lanesOf n.ety.toNat
    fireQueued p n [n.ina] (fun _ _ d => addressBad d || decide (65536 < ((parseHdr d.data).cols + 1) * l))
      (fun f psn =>
        let h := parseHdr (f.node.hdrAt 0).word
        let w := headerWord n.ety.toNat (if n.ety = 13 then n.fn.toNat / 4 else 0) 0 h.rows ((h.cols + 1) * l - 1)
        (f.pushHeader p w psn).takeAll.done)
      (fun f hs =>
        let d := hs.headD { data := 0, ctl := 0 }
        let psn := f.poisoned [d]
        let a := { f.access false with va := portAddress d, marks := d.marks, addr := d.data,
                                       done := if psn then some (dataFlit 0 d.marks true) else none }
        ((if psn ∧ n.omask = 0 then f else f.pushAccess p a).takeAll.updNode fun x =>
          { x with count := x.count + 1, elem := x.elem + 1, fired := x.fired + 1 }).done) s

/-- NST: A holds addresses, B data of ETYPE or, under HDR, of its own type (R313, R315). -/
def execNst (n : NodeFields) (s : State) : Result :=
  withPort s fun p =>
    let bad (_ : List Flit) (k : Nat) (d : Flit) : Bool :=
      if k = 0 then addressBad d else badHeader d || (n.ety != 14 && (parseHdr d.data).ety != n.ety.toNat)
    fireQueued p n [n.ina, n.inb] bad
      (fun f psn =>
        let h := parseHdr (f.node.hdrAt 0).word
        (f.pushHeader p (headerWord 7 0 0 h.rows h.cols) psn).takeAll.done)
      (fun f hs =>
        let a := hs.getD 0 { data := 0, ctl := 0 }
        let b := hs.getD 1 { data := 0, ctl := 0 }
        let h := parseHdr (f.node.hdrAt 1).word
        let l := lanesOf h.ety
        let used := min l (h.count - f.node.count * l)
        let bytes := if h.ety = 10 then 8 else used * laneWidth h.ety / 8
        let apsn := a.psn || (f.node.hdrAt 0).psn
        let bpsn := b.psn || (f.node.hdrAt 1).psn
        let e := { f.access true with va := portAddress a, marks := a.marks, addr := a.data,
                                      mask := BitVec.ofNat 8 (2 ^ bytes - 1), flit := dataFlit (w19Clean h.ety b.data) b.marks bpsn,
                                      done := if apsn then some (dataFlit 0 a.marks true) else none }
        ((if apsn ∧ n.omask = 0 then f else f.pushAccess p e).takeAll.updNode fun x =>
          { x with count := x.count + 1, elem := x.elem + 1, fired := x.fired + 1 }).done) s

/-! ### NOWN (R316, R325) -/

/-- Whether a line of an owner node's buffer has to wait for a version slot before it is written back (R262, R316). -/
def State.ownBlocked (s : State) (x : Inst) (l : OwnLine) : Bool := l.mask != 0 && s.engineBlocked x.ctx x.hyp (l.line * 64)

/-- Writes the modified bytes of a line of an owner node's buffer to its home; `line` is a physical line number. A write-back is no
engine write and leaves full-empty bits unchanged (R162, R316). -/
def State.ownWriteBack (s : State) (x : Inst) (page : Nat) (l : OwnLine) : State :=
  (List.range 64).foldl
    (fun s b => if bit l.mask b then s.writeHome x.ctx x.hyp (l.line * 64 + b) 1 (bits l.data (8 * b) 8) else s)
    (if l.mask = 0 then s else s.enginePost (siteKey (x.siteOf page)) (l.line * 64))

/-- Writes back the modified lines of a list as far as version slots allow, and keeps the lines, those written clean. -/
def State.ownFlush (s : State) (x : Inst) (page : Nat) : List OwnLine → State × List OwnLine
  | [] => (s, [])
  | l :: rest =>
    let r := (if s.ownBlocked x l then s else s.ownWriteBack x page l).ownFlush x page rest
    (r.1, (if s.ownBlocked x l then l else { l with mask := 0 }) :: r.2)

/-- Writes back the modified lines of a port's buffer (R316). -/
def State.ownClean (s : State) (i page : Nat) (p : Fin 4) : State :=
  match s.insts[i]? with
  | none => s
  | some x =>
    let v := x.port page p
    let r := s.ownFlush x page v.own
    match r.1.insts[i]? with
    | some x => r.1.setInst i (x.setPort page p { v with own := r.2 })
    | none => r.1

/-- Whether no port of an instance buffers a modified line. -/
def Inst.ownIdle (x : Inst) : Bool := x.ports.all fun e => e.2.own.all fun l => l.mask == 0

/-- Whether an owner node's next fetch would evict a line that has to wait for a version slot. -/
def State.evictBlocked (s : State) (x : Inst) (page : Nat) (p : Fin 4) : Bool :=
  match (x.port page p).own.drop 63 with
  | l :: _ => s.ownBlocked x l
  | [] => false

/-- A line in an owner node's buffer, fetched when absent; an error found in the fetch has poisoned all its granules (R325); 64
lines, the least recently used evicted (R316). -/
def State.bufferLine (s : State) (x : Inst) (page : Nat) (p : Fin 4) (line : Nat) : State × OwnLine × List OwnLine :=
  let v := x.port page p
  match takeFirst (fun l => decide (l.line = line)) v.own with
  | some (l, rest) => (s, l, rest)
  | none =>
    let s := match v.own.drop 63 with
      | l :: _ => s.ownWriteBack x page l
      | [] => s
    let s := s.engineAsk (siteKey (x.siteOf page)) (line * 64)
    let data := (List.range 8).foldl
      (fun (a : BitVec 512) k => setBits a (64 * k) 64 (s.readHome x.ctx x.hyp (line * 64 + 8 * k) 8)) 0
    let bad := (List.range 4).all fun k => s.poisonHome x.ctx x.hyp (line * 64 + 16 * k)
    (s, { line := line, data := data, mask := 0, bad := bad }, v.own.take 63)

/-- One update at an owner node; answers the old value, or nothing where the update was logged and dropped. The entry of the
reduction error log gives the update operation, FN[2:0], and the operand, bits 31:0 of the element for a 32-bit type (R207, R316). -/
def Firing.ownUpdate (f : Firing) (p : Fin 4) (addr operand : Word) : Firing × Option Nat :=
  let t := f.n.ety.toNat
  let op := f.n.fn.toNat % 8
  let size := laneWidth t / 8
  let va := bits addr 0 52 / size * size
  let x := f.x
  let log (s : State) (cause found : Nat) (tag : Nat) : State :=
    s.logReduction x.ctx (field 60 4 tag ||| field 0 52 va) (BitVec.ofNat 64 (bits operand 0 (8 * size))) 0
      (logWord3 cause found x.hyp 1 op (size == 8) f.site p)
  match f.s.portCheck x f.page p va size 2 with
  | .error e => ({ f with s := log f.s e.cause e.fndt.toNat e.tag.toNat }, none)
  | .ok pa =>
    let r := (f.s.portTouch x f.page p { f.access true with va := va, size := size } pa true true).bufferLine x f.page p (pa / 64)
    let l := r.2.1
    let put (s : State) (l : OwnLine) : Firing :=
      { f with s := s, x := x.setPort f.page p { x.port f.page p with own := l :: r.2.2 } }
    if l.bad then
      let tag := match x.rangeOf f.page p va size with | some e => (x.entryTag f.page p e.2).toNat | none => 0
      (put (log r.1 0x10 0 tag) l, none)
    else
      let o := 8 * (pa % 64)
      let old := bits l.data o (8 * size)
      let v := bits operand 0 (8 * size)
      let y := if op = 6 then (v, 0) else combine t op .rne false old v
      let l := { l with data := setBits l.data o (8 * size) y.1, mask := setBits l.mask (pa % 64) size (2 ^ size - 1) }
      ((put r.1 l).flags y.2, some old)

/-- NOWN: address and operand are taken in pairs. The spec does not say what becomes of the last data flit of a tile that has an odd
number of them: the model leaves it at the head of A before the next header, so that the node fires no more, and the output header's
COLS is half the count of flits less one, in 16 bits. (DEDUCED, assumption 35) -/
def execNown (n : NodeFields) (s : State) : Result :=
  match portOf s.pe.pe with
  | none => .next s
  | some p =>
    withFiring n [n.ina] s fun f =>
      let ch := fin 16 n.ina.toNat
      match (f.x.peAt f.page f.pe).ins[ch] with
      | d :: rest =>
        if bit (f.x.peAt f.page f.pe).tookN ch ∨ f.s.evictBlocked f.x f.page p then .next s
        else if d.hdr then
          let y := f.takeHeaders (fun _ _ d => addressBad d) [d]
          let h := parseHdr (y.1.node.hdrAt 0).word
          (y.1.sendHeader (headerWord n.ety.toNat 0 0 0 (h.count / 2 - 1)) y.2).done
        else
          match rest with
          | [] => .next s
          | e :: _ =>
            if e.hdr then .next s
            else
            let f := f.needHeaders [d]
            let g (f : Firing) : Firing := { f with x := (f.x.take f.page f.pe true ch).take f.page f.pe true ch }
            let count (f : Firing) : Firing := f.updNode fun x => { x with count := x.count + 2, elem := x.elem + 2, fired := x.fired + 1 }
            if f.poisoned [d, e] then ((count (g f)).send (dataFlit 0 e.marks true)).done
            else
              let r := f.ownUpdate p d.data e.data
              let out := match r.2 with
                | some v => dataFlit (BitVec.ofNat 64 v) e.marks false
                | none => dataFlit 0 e.marks true
              ((count (g r.1)).send out).done
      | [] => .next s

/-! ### Resolving the spill queue (R324) -/

/-- The instance and page record on a site's page. -/
def State.pageOn (s : State) (site : Nat) : Option (Nat × Nat) :=
  (s.insts.zipIdx).findSome? fun x => (x.1.sites.findIdx? fun n => n == site).map fun p => (x.2, p)

/-- The spilled entry of a port with an iteration number is tried again; those not yet retried stay in the queue (R322, R324). -/
def State.retryAccess (s : State) (i page : Nat) (p : Fin 4) (it : Nat) : State :=
  match s.insts[i]? with
  | none => s
  | some x =>
    match (x.port page p).acc.zipIdx.find? fun a => a.1.iter = it && !a.1.hdr && a.1.spilled with
    | some (a, k) => (s.setInst i (x.setAccess page p k { a with spilled := false })).tryAccess i page p k
    | none => s

/-- RETRY: FLT is cleared and every spilled entry is tried again, oldest first. -/
def State.portRetry (s : State) (site : Nat) (p : Fin 4) : State :=
  match s.pageOn site with
  | none => s
  | some (i, page) =>
    match s.insts[i]? with
    | none => s
    | some x =>
      let v := x.port page p
      if v.spills = 0 then s
      else
        let again := (v.acc.filter (·.spilled)).map (·.iter)
        again.foldl (fun (s : State) it => s.retryAccess i page p it) (s.stir i (x.setPort page p { v with flt := false }))

/-- DISCARD: FLT is cleared and the queue emptied; loads give poisoned flits, stores poisoned acknowledgements. -/
def State.portDiscard (s : State) (site : Nat) (p : Fin 4) : State :=
  match s.pageOn site with
  | none => s
  | some (i, page) =>
    match s.insts[i]? with
    | none => s
    | some x =>
      let v := x.port page p
      if v.spills = 0 then s
      else
        let out := bits (x.nodeWord page (portPe p)) 20 16
        let acc := (if out = 0 then v.acc.filter fun a => !a.spilled else v.acc).map fun a =>
          if a.spilled then { a with spilled := false, done := some (dataFlit 0 a.marks true) } else a
        s.stir i (x.setPort page p { v with flt := false, acc := acc })

def execPresRetry (site : Fin 1024) (port : Fin 4) (s : State) : Result := .next (s.portRetry site port)
def execPresDiscard (site : Fin 1024) (port : Fin 4) (s : State) : Result := .next (s.portDiscard site port)

end Sys2Proof.Machine
end

