-- ==== Sys2Proof/Machine/Matrix.lean ====
section
/-!
DEFINITION. Sys2Proof/Machine/Matrix.lean: matrix sections: steps, headers, misalignment, runs and drains of page rows, and the
conversion of a drained slot (R392 to R395, R412).
-/
namespace Sys2Proof.Machine

def RowBuf.cleared : RowBuf := { row := AccRow.cleared, counts := Counts.zero, ready := false, run := 0, age := 0 }

def EdgeState.fresh : EdgeState :=
  { hdr := { set := false, word := 0, psn := false }, last := false, skip := false, blks := [], runs := 0 }

def Section.fresh : Section :=
  { step := 0, a := [], b := [], refs := [], ops := [], eoks := [], rows := Vector.replicate 16 (RowBuf.cleared, RowBuf.cleared),
    runs := 0, skip := false, hold := false, ticks := 0 }

/-- The section of a page record. -/
def Inst.section (x : Inst) (page : Nat) : Section := tget Section.fresh x.secs page

def Inst.setSection (x : Inst) (page : Nat) (v : Section) : Inst := { x with secs := tput true x.secs page v }

/-- An edge input: whether it is a west edge, its PE, its delay in the skew and its channel (R393). -/
structure Edge where
  west  : Bool
  pe    : Nat
  delay : Nat
  ch    : Fin 16
  deriving DecidableEq, Repr

/-- The PEs of a section. -/
def Inst.nmmas (x : Inst) (page : Nat) : List Nat := (List.range 256).filter fun pe => x.isNmma page pe

/-- The leader: the NMMA of lowest PE index (R392). -/
def Inst.leader (x : Inst) (page : Nat) : Nat := (x.nmmas page).headD 0

/-- The edges of a section, west edges first, in ascending PE index (R393). -/
def Inst.edges (x : Inst) (page : Nat) : List Edge :=
  let l := x.nmmas page
  (l.filter (x.westEdge page)).map (fun pe => { west := true, pe := pe, delay := pe / 16, ch := fin 16 (bits (x.nodeWord page pe) 44 4) }) ++
    (l.filter (x.northEdge page)).map fun pe => { west := false, pe := pe, delay := pe % 16, ch := fin 16 (bits (x.nodeWord page pe) 40 4) }

def Section.edge (v : Section) (e : Edge) : EdgeState := tget EdgeState.fresh (if e.west then v.a else v.b) e.pe

def Section.setEdge (v : Section) (e : Edge) (st : EdgeState) : Section :=
  if e.west then { v with a := tput true v.a e.pe st } else { v with b := tput true v.b e.pe st }

/-- The west edge that feeds an NMMA, and the north edge (R393). -/
def Inst.westOf (x : Inst) (page : Nat) : Nat → Nat → Nat
  | 0, pe => pe
  | n + 1, pe => if x.westEdge page pe then pe else x.westOf page n (pe - 1)

def Inst.northOf (x : Inst) (page : Nat) : Nat → Nat → Nat
  | 0, pe => pe
  | n + 1, pe => if x.northEdge page pe then pe else x.northOf page n (pe - 16)

/-- HDR, EOT and EOK of a flit, on which due edges must agree for one place in the streams (R394). -/
def Flit.agreement (f : Flit) : BitVec 8 := f.ctl &&& 0x2A

/-- Whether a header at an edge is bad: its type, given the operating type (R394). -/
def sectionBad (ety op : Nat) (f : Flit) : Bool :=
  let h := parseHdr f.data
  badHeader f ||
    (if ety = 14 then !((h.ety == 8 || h.ety == 9 || h.ety == 10 || h.ety == 13) && lanesOf h.ety == lanesOf op) else h.ety != ety)

/-- The operating type under HDR of a place in the streams: that of the header consumed first there, which is row 0's A header (R394). A
section without an NMMA in row 0 or a poisoned header there leaves it to the next edge. (DEDUCED, assumption 36) -/
def Section.operating (v : Section) (num : Nat) (f : Flit) : Nat :=
  match v.ops.find? fun e => e.1 = num with
  | some e => e.2
  | none => (parseHdr f.data).ety

/-- A section under way: the state with the instance. -/
structure Stepping where
  s    : State
  i    : Nat
  x    : Inst
  page : Nat
  n    : NodeFields

def Stepping.sec (f : Stepping) : Section := f.x.section f.page
def Stepping.upd (f : Stepping) (g : Section → Section) : Stepping := { f with x := f.x.setSection f.page (g f.sec) }
def Stepping.done (f : Stepping) : Result := .next (f.s.stir f.i f.x)

def Stepping.fault (f : Stepping) (e : Edge) : Stepping :=
  { f with s := (f.s.setInst f.i f.x).headerFault f.x f.page e.pe e.ch }

def Stepping.take (f : Stepping) (e : Edge) : Stepping := { f with x := f.x.take f.page e.pe true e.ch }

/-- An edge consumes the flit at its head in step `s` (R393, R394). -/
def Stepping.consume (f : Stepping) (e : Edge) (d : Flit) : Stepping :=
  let v := f.sec
  let num := v.step - e.delay
  let st := v.edge e
  let op := v.operating num d
  let bad := d.hdr && !d.psn && sectionBad f.n.ety.toNat op d
  let f := if bad then f.fault e else f
  let hdr : HeaderIn := if d.hdr then { set := true, word := d.data, psn := bad || d.psn } else st.hdr
  let known := v.refs.any fun r => r.1 = num
  let ends := bit d.ctl 5 && !d.hdr
  let b : Block := { num := num, flit := d, hdr := hdr, run := st.runs }
  let st := { st with hdr := hdr, last := d.last, blks := st.blks ++ [b], runs := if ends then st.runs + 1 else st.runs }
  (f.take e).upd fun v =>
    let v := v.setEdge e st
    let v := if d.hdr ∧ !hdr.psn ∧ !(v.ops.any fun r => r.1 = num) then { v with ops := v.ops ++ [(num, op)] } else v
    if known then v
    else { v with refs := v.refs ++ [(num, d.agreement)], eoks := if ends then v.eoks ++ [(num, b.run)] else v.eoks }

/-- A datum of a lane of a flit, by its header (R123, R394). -/
def laneDatum (s : State) (site : Nat) (h : TileHdr) (w : Word) (k : Nat) : Datum :=
  if h.ety = 13 then unpack w19 (tableEntry (s.pageTable site h.tslot) (BitVec.ofNat 8 (lane w 13 k))).toNat
  else unpack (fmtOfEty h.ety) (lane w h.ety k)

/-- The products of one element in a step: the run, whether they are poisoned, the lane count and the addends (R393). -/
def Stepping.element (f : Stepping) (pe : Nat) : Option (Nat × Bool × Nat × List (Nat × Addend)) :=
  let v := f.sec
  let px := pe % 16
  let py := pe / 16
  if v.step < px + py then none
  else
    let num := v.step - px - py
    let a := (tget EdgeState.fresh v.a (f.x.westOf f.page 16 pe)).blks.find? fun b => b.num = num
    let b := (tget EdgeState.fresh v.b (f.x.northOf f.page 16 pe)).blks.find? fun b => b.num = num
    match a, b with
    | some a, some b =>
      if a.flit.hdr ∨ b.flit.hdr then none
      else
        let ha := parseHdr a.hdr.word
        let hb := parseHdr b.hdr.word
        let psn := a.flit.psn || b.flit.psn || a.hdr.psn || b.hdr.psn || !a.hdr.set || !b.hdr.set
        let l := lanesOf ha.ety
        let site := f.x.siteOf f.page
        let ps := if psn then [] else (List.range l).map fun k =>
          (px, productOf (laneDatum f.s site ha a.flit.data k) (laneDatum f.s site hb b.flit.data k) (ha.scale + hb.scale))
        some (a.run, psn, l, ps)
    | _, _ => none

def getBuf (b : RowBuf × RowBuf) (run : Nat) : RowBuf := if run % 2 = 0 then b.1 else b.2
def setBuf (b : RowBuf × RowBuf) (run : Nat) (v : RowBuf) : RowBuf × RowBuf := if run % 2 = 0 then (v, b.2) else (b.1, v)

/-- The products of a page row in a step, for one run (R397). -/
def Stepping.rowStep (f : Stepping) (py run : Nat) (els : List (Nat × Bool × Nat × List (Nat × Addend))) : Stepping :=
  let mine := els.filter fun e => e.1 = run
  let k := fin 16 py
  let b := getBuf f.sec.rows[k] run
  let psn := mine.any fun e => e.2.1
  let n := mine.foldl (fun m e => max m e.2.2.1) 0
  let u : RowUnit := { row := { b.row with psn := b.row.psn || psn }, counts := b.counts, flags := 0 }
  let u := u.products n (mine.flatMap fun e => e.2.2.2)
  let b := { b with row := u.row, counts := u.counts }
  let f := f.upd fun v => { v with rows := v.rows.set k (setBuf v.rows[k] run b) }
  if u.flags = 0 then f
  else { f with s := f.s.pageFlags (f.x.siteOf f.page) u.flags, x := { f.x with flags := f.x.flags ||| u.flags.setWidth 64 } }

/-- The elements of a page row in the step under way. -/
def Stepping.rowEls (f : Stepping) (py : Nat) : List (Nat × Bool × Nat × List (Nat × Addend)) :=
  ((f.x.nmmas f.page).filter fun pe => pe / 16 = py).filterMap f.element

/-- Whether a step needs a row buffer that still waits to drain (R395). -/
def Stepping.bufferBusy (f : Stepping) : Bool :=
  (List.finRange 16).any fun py => (f.rowEls py).any fun e => (getBuf f.sec.rows[py] e.1).ready

/-- After a step: buffers whose run has had its last product wait to drain, used-up flits leave the latches, and a section that
has consumed LAST everywhere and used every flit begins anew (R393, R395). (DEDUCED, assumption 36) -/
def Section.after (v : Section) (edges : List Edge) : Section :=
  let s := v.step
  let rows : Vector (RowBuf × RowBuf) 16 := Vector.ofFn fun py : Fin 16 =>
    v.eoks.foldl (fun b e =>
      if e.1 + py.val + 15 = s then setBuf b e.2 { getBuf b e.2 with ready := true, run := e.2, age := v.ticks } else b) v.rows[py]
  let trim (l : Sparse EdgeState) : Sparse EdgeState := l.map fun e => (e.1, { e.2 with blks := e.2.blks.filter fun b => s < b.num + 30 })
  let v := { v with rows := rows, a := trim v.a, b := trim v.b, step := s + 1, refs := v.refs.filter fun r => s < r.1 + 30,
                    ops := v.ops.filter fun r => s < r.1 + 30, eoks := v.eoks.filter fun e => s < e.1 + 30, ticks := v.ticks + 1 }
  let idle := edges.all fun e => (v.edge e).last && (v.edge e).blks.isEmpty
  if idle then
    let again (l : Sparse EdgeState) : Sparse EdgeState := l.map fun e => (e.1, { e.2 with last := false })
    { v with step := 0, a := again v.a, b := again v.b, refs := [], ops := [], eoks := [] }
  else v

/-- The products of one step in every page row, for each run met. -/
def Stepping.products (f : Stepping) : Stepping :=
  (List.range 16).foldl (fun (f : Stepping) py =>
    let els := f.rowEls py
    ((els.map (·.1)).eraseDups).foldl (fun (f : Stepping) run => f.rowStep py run els) f) f

/-- Steps that consume nothing: the flits in the latches go on, and the runs that have had their EOK end (R395). -/
def Stepping.flush (f : Stepping) (edges : List Edge) : Nat → Stepping
  | 0 => f
  | n + 1 => (f.products.upd fun v => v.after edges).flush edges n

/-- PSN in the buffer of a run, unless it holds an earlier one that waits to drain. -/
def poisonRun (run : Nat) (b : RowBuf × RowBuf) : RowBuf × RowBuf :=
  let x := getBuf b run
  if x.ready then b else setBuf b run { x with row := { x.row with psn := true } }

/-- Misaligned edges: HDR-BAD, PSN in every page row of the current run, and every edge discards up to its next EOT. What stands in
the latches goes through first, so that an earlier run drains whole; the current run of a row is that of its own west edge, and for
every row the run that the foremost edge is in (R394). (DEDUCED, assumption 36) -/
def Stepping.misalign (f : Stepping) (e : Edge) (edges : List Edge) : Stepping :=
  let run := edges.foldl (fun m e => max m (f.sec.edge e).runs) 0
  let mine (py : Nat) : Nat := match edges.find? fun d => d.west && d.pe / 16 == py with | some d => (f.sec.edge d).runs | none => run
  let poison (v : Section) : Section :=
    { v with rows := Vector.ofFn fun py : Fin 16 => poisonRun run (poisonRun (mine py.val) v.rows[py]) }
  (((f.fault e).upd poison).flush edges 31).upd fun v =>
    let v := edges.foldl (fun v e => v.setEdge e { v.edge e with skip := true, blks := [], runs := run }) v
    { v with skip := true, hold := true, step := 0, refs := [], ops := [], eoks := [] }

/-- Discards one flit at each edge that is to discard; when every edge has met its EOT the section waits for headers (R394). -/
def Stepping.discard (f : Stepping) (edges : List Edge) : Stepping :=
  let f := edges.foldl (fun (f : Stepping) e =>
    if (f.sec.edge e).skip then
      match f.x.head f.page e.pe e.ch true with
      | some d => (f.take e).upd fun v => v.setEdge e { v.edge e with skip := !d.eot, last := d.last }
      | none => f
    else f) f
  f.upd fun v => { v with skip := edges.any fun e => (v.edge e).skip }

/-- The site whose store receives the drains (R392). -/
def Inst.drainSite (x : Inst) (page : Nat) (param : BitVec 20) : Nat :=
  let p := x.cfg.page page
  let dx := (BitVec.ofNat 6 (bits param 8 6)).toInt
  let dy := (BitVec.ofNat 6 (bits param 14 6)).toInt
  x.area.getD (((p.py : Int) + dy).toNat * x.cfg.extw + ((p.px : Int) + dx).toNat) 0

def drainSlot (param : BitVec 20) : Fin 4 := fin 4 (bits param 0 2)

/-- The buffers of page rows that wait to drain. -/
def Section.waiting (v : Section) : List (Fin 16 × RowBuf) :=
  (List.finRange 16).flatMap fun py => ([v.rows[py].1, v.rows[py].2].filter (·.ready)).map fun b => (py, b)

/-- The buffer that has waited longest: page rows drain in the order in which they received their last products (R395). -/
def Section.drainNext (v : Section) : Option (Fin 16 × RowBuf) :=
  v.waiting.foldl
    (fun (m : Option (Fin 16 × RowBuf)) e => match m with
      | some d => if e.2.age < d.2.age then some e else m
      | none => some e) none

/-- The next page row buffer of a section drains: a row-add to its slot; after row 15 the leader sends the done flit. None while the
arrival queue or a channel of OMASK has no room (R395). -/
def State.drainRow (s : State) (i page : Nat) : Option State :=
  match s.insts[i]? with
  | none => none
  | some x =>
    let v := x.section page
    match v.drainNext with
    | none => none
    | some (row, buf) =>
      let lead := x.leader page
      let w := x.nodeWord page lead
      let param : BitVec 20 := BitVec.ofNat 20 (bits w 0 20)
      let mask : BitVec 16 := BitVec.ofNat 16 (bits w 20 16)
      let site := x.drainSite page param
      if !s.accRoom site ∨ (row = 15 ∧ !x.space page lead mask) then none
      else
        let s := s.accPost site (.rowAdd (x.siteOf page) (drainSlot param) row buf.row buf.counts)
        let v := { v with rows := v.rows.set row (setBuf v.rows[row] buf.run RowBuf.cleared), runs := if row = 15 then v.runs + 1 else v.runs }
        let x := x.setSection page v
        let x := if row = 15 then x.send page lead mask { data := BitVec.ofNat 64 (v.runs % 2 ^ 32), ctl := 0x09 } else x
        some (s.stir i x)

/-- Every page row buffer that waits drains, as far as there is room. -/
def State.drainRows (s : State) (i page : Nat) : Nat → State
  | 0 => s
  | n + 1 => match s.drainRow i page with
    | some s => s.drainRows i page n
    | none => s

/-- Whether a section has work that needs no further input: page rows that wait to drain; flits at every edge that is due; or, where no
edge is due any more, flits in the latches (R393, R395, R404). -/
def Inst.sectionSteps (x : Inst) (page : Nat) : Bool :=
  let v := x.section page
  let edges := x.edges page
  let due := edges.filter fun e => decide (e.delay ≤ v.step) && !(v.edge e).last
  !v.waiting.isEmpty ||
    (if due.isEmpty then edges.any fun e => !(v.edge e).blks.isEmpty
     else due.all fun e => (x.head page e.pe e.ch true).isSome)

/-- Whether a PE that is no part of a section has the flits and the space for its node or its router to fire: such flits may yet reach a
section. -/
def Inst.stirs (x : Inst) (page pe : Nat) : Bool :=
  let has (l : List (Fin 16)) (node : Bool) : Bool := !l.isEmpty && l.all fun ch => (x.head page pe ch node).isSome
  let w := x.nodeWord page pe
  (!x.isNmma page pe && has (x.nodeChans page pe) true && x.space page pe (BitVec.ofNat 16 (bits w 20 16))) ||
    (has (x.routerChans page pe) false && x.space page pe (BitVec.ofNat 16 (bits (x.routeWord page pe) 16 16)))

/-- A step of a section, in the turn of its leader, whose fields alone are read (R392): the page rows that received their last products
drain, then every due edge consumes its flit (R393 to R395). (DEDUCED, assumption 36) -/
def execSectionStep (n : NodeFields) (s : State) : Result :=
  let page := s.pe.page
  let s' := s.drainRows s.pe.inst page 32
  match s'.insts[s.pe.inst]? with
  | none => .next s
  | some x =>
    let f : Stepping := { s := s', i := s.pe.inst, x := x, page := page, n := n }
    let edges := x.edges page
    let v := f.sec
    if !s.engineActs x ∨ edges.isEmpty ∨ s.pe.pe ≠ x.leader page then .next s
    else if v.skip then (if x.stopped then .next s else (f.discard edges).done)
    else
      let due := edges.filter fun e => decide (e.delay ≤ v.step) && !(v.edge e).last
      let heads := due.filterMap fun e => (x.head page e.pe e.ch true).map fun d => (e, d)
      if heads.length ≠ due.length ∨ (x.stopped ∧ !due.isEmpty) ∨ (!v.waiting.isEmpty ∧ !s'.accRoom (x.drainSite page n.param)) ∨
          (v.hold ∧ heads.any fun h => !h.2.hdr) then .next s
      else
        let ref (num : Nat) : Option (BitVec 8) :=
          match v.refs.find? fun r => r.1 = num with
          | some r => some r.2
          | none => (heads.find? fun h => v.step - h.1.delay = num).map fun h => h.2.agreement
        let off := heads.filter fun h => ref (v.step - h.1.delay) != some h.2.agreement
        let low := off.foldl (fun (m : Option Edge) h => match m with
          | some e => if h.1.pe < e.pe then some h.1 else m
          | none => some h.1) none
        match low with
        | some e => (f.misalign e edges).done
        | none =>
          let g := heads.foldl (fun (f : Stepping) h => f.consume h.1 h.2) f
          if g.bufferBusy then .next s else (g.products.upd fun v => { v.after edges with hold := false }).done

/-- A page row buffer drains, where it is the next to do so (R395). -/
def execPageRowDrain (i page : Nat) (row : Fin 16) (s : State) : Result :=
  match s.insts[i]? with
  | none => .next s
  | some x =>
    match (x.section page).drainNext with
    | some (r, _) => if r = row ∧ s.engineActs x then .next ((s.drainRow i page).getD s) else .next s
    | none => .next s

/-! ### Converting a drained slot (R412) -/

/-- One element of a drained tile. -/
def drainElem (s : State) (site fmt rm tbl : Nat) (scl : Int) (r : AccRow) (j : Fin 16) : Nat × Flags :=
  match fmt with
  | 0 => r.convert j (fmtOf .f32) (nodeRound rm) (-scl)
  | 1 => r.convert j (fmtOf .b16) (nodeRound rm) (-scl)
  | _ =>
    let t := s.pageTable site tbl
    if r.s[j] = 1 then encodeC8 t (.inf false)
    else if r.s[j] = 2 then encodeC8 t (.inf true)
    else if r.s[j] = 3 then encodeC8 t (.nan false)
    else if r.z ∨ r.m[j] = 0 then encodeC8 t (.fin false 0 0)
    else encodeC8 t (.fin (decide (r.m[j] < 0)) r.m[j].natAbs (r.e - scl))

/-- The element type of a format of SDRN (R411). -/
def drainType (fmt : Nat) : Nat := match fmt with | 0 => 11 | 1 => 9 | _ => 13

/-- The tile of a drained slot, header first, and the flags its conversion raises (R412). -/
def drainTile (s : State) (site fmt rm tbl : Nat) (scl : BitVec 8) (rows : Vector AccRow 16) : List Flit × Flags :=
  let t := drainType fmt
  let per := 16 / lanesOf t
  let els (r : AccRow) : List (Nat × Flags) := (List.finRange 16).map fun j => drainElem s site fmt rm tbl scl.toInt r j
  let one (r : AccRow) (k : Nat) (final : Bool) : Flit :=
    let l := (els r).map (·.1)
    dataFlit (packLanes t ((l.drop (k * lanesOf t)).take (lanesOf t))) (if final then 0x08 else 0) r.psn
  let flits := (List.finRange 16).flatMap fun i => (List.range per).map fun k => one rows[i] k (decide (i.val = 15 ∧ k + 1 = per))
  let fl := rows.toList.foldl (fun a r => if r.psn then a else (els r).foldl (fun a e => a ||| e.2) a) 0
  (headerFlit (headerWord t tbl scl.toInt 15 15) false :: flits, fl)

end Sys2Proof.Machine
end

