-- ==== Sys2Proof/Machine/Engine.lean ====
section
/-!
DEFINITION. Sys2Proof/Machine/Engine.lean: what the graph sequencers and streamers share: access checks of engines at virtual
addresses, words read and written as committed data (R330, R363, R364), records of a sequencer (R70, R230, R329), and the rank
groups as bound to a version (R416 to R424).
-/
namespace Sys2Proof.Machine

/-! ### Engine accesses at virtual addresses (R146, R330, R364) -/

/-- The first failed check of an engine's access: cause, walk level, expected and found tag. -/
structure EngineFault where
  cause : Nat
  level : Nat
  expt  : BitVec 4
  fndt  : BitVec 4
  deriving DecidableEq, Repr

/-- A fault without tags. -/
def engineFault (cause level : Nat) : EngineFault := { cause := cause, level := level, expt := 0, fndt := 0 }

/-- The walk of an engine for an address: the leaf with log2 of its page size, or the cause with its level.
(DESIGN CHOICE, assumption 15) -/
def State.engineWalk (s : State) (c : Fin 16) (va : Nat) : Nat → Nat → Nat → Except EngineFault (Nat × Word)
  | 0, level, _ => .error (engineFault 0x09 level)
  | n + 1, level, table =>
    match s.walkStep c level (s.walkRead level table va) with
    | .table pa => s.engineWalk c va n (level + 1) pa
    | .leaf e => .ok (leafLog level, e)
    | .fill => .error (engineFault 0x09 level)
    | .fault cause => .error (engineFault cause level)

/-- The entry that a streamer's translation cache holds for an address (R364). -/
def State.streamEntry (s : State) (k : Fin 128) (c : Fin 16) (va : Nat) : Option TlbEntry :=
  s.tlb.find? fun e => decide (e.owner = .streamer k) && decide (e.ctx = c) && e.va == va / 2 ^ e.log2 * 2 ^ e.log2

/-- Translation by an engine: log2 of the page size and the leaf. A streamer looks in its translation cache first (R364); with
translation disabled every address is a page fault of level 0 (R152). -/
def State.engineLeaf (s : State) (c : Fin 16) (va : Nat) (who : Option (Fin 128) := none) : Except EngineFault (Nat × Word) :=
  let root := s.reg (cxrootAt c)
  if !bit root 0 then .error (engineFault 0x09 0)
  else
    match who.bind fun k => s.streamEntry k c va with
    | some e => .ok (e.log2, e.leaf)
    | none => s.engineWalk c va 4 0 (bits root 16 36 * 65536)

/-- Steps 2 and 5 to 7 of R146 for an engine's access of `c`: the physical address. `rd` and `wr` are the page permissions. -/
def State.engineAddress (s : State) (c : Fin 16) (va : Nat) (rd wr : Bool) (who : Option (Fin 128) := none) : Except EngineFault Nat :=
  if va % 2 ^ 52 < 0x10000 then .error (engineFault 0x06 0)
  else
    match s.engineLeaf c (va % 2 ^ 52) who with
    | .error e => .error e
    | .ok (m, leaf) =>
      let pa := pteAddr leaf + va % 2 ^ 52 % 2 ^ m
      if (rd ∧ !pteR leaf) ∨ (wr ∧ !pteW leaf) then .error (engineFault 0x0B 0)
      else if !s.engineReach pa then .error (engineFault 0x0C 0)
      else .ok pa

/-- The translation that a streamer's access has used stands in its translation cache (R364). (DESIGN CHOICE, assumption 15) -/
def State.keepTranslation (s : State) (k : Fin 128) (c : Fin 16) (va : Nat) : State :=
  if (s.streamEntry k c va).isSome then s
  else
    match s.engineLeaf c va with
    | .ok (m, leaf) => s.tlbAdd { owner := .streamer k, ctx := c, va := va / 2 ^ m * 2 ^ m, log2 := m, leaf := leaf, stale := false }
    | .error _ => s

/-- Steps 3 to 11 of R146 for a pointer that an engine uses: also bits 57:52, rights, HYPST, the tag and, for a
read, poison. -/
def State.enginePointer (s : State) (c : Fin 16) (h : Handle) (p : Word) (need : Nat) (rd wr : Bool) (who : Option (Fin 128) := none) :
    Except EngineFault Nat :=
  if bits p 0 52 < 0x10000 then .error (engineFault 0x06 0)
  else if bits p 52 6 ≠ 0 then .error (engineFault 0x07 0)
  else if bits p 58 2 < need then .error (engineFault 0x08 0)
  else
    match s.engineAddress c (bits p 0 52) rd wr who with
    | .error e => .error e
    | .ok pa =>
      let want := BitVec.ofNat 4 (bits p 60 4)
      if wr ∧ hypNum h ≠ 0 ∧ !s.localHbm pa then .error (engineFault 0x0D 0)
      else if s.tagHome pa ≠ want then .error { engineFault 0x0F 0 with expt := want, fndt := s.tagHome pa }
      else if rd ∧ s.poisonHome c h pa then .error (engineFault 0x10 0)
      else .ok pa

/-- `n` words of committed data at a virtual address, each 8-byte aligned: page R, no tag check, poison refused (R329, R332,
R363). -/
def State.engineWords (s : State) (c : Fin 16) (va : Nat) : Nat → Except EngineFault (List Word)
  | 0 => .ok []
  | n + 1 =>
    match s.engineAddress c va true false with
    | .error e => .error e
    | .ok pa =>
      if s.poisonHome 0 0 pa then .error (engineFault 0x10 0)
      else
        match s.engineWords c (va + 8) n with
        | .error e => .error e
        | .ok l => .ok (BitVec.ofNat 64 (s.readHome 0 0 pa 8) :: l)

/-- The requests of an engine that reads `n` words at a virtual address, one for each 64 bytes, and their responses (R244). -/
def State.askWords (s : State) (src : Nat) (c : Fin 16) (va n : Nat) : State :=
  (List.range ((n + 7) / 8)).foldl
    (fun (s : State) k => match s.engineAddress c (va + 64 * k) true false with
      | .ok pa => s.engineAsk src pa
      | .error _ => s) s

/-- Writes a list of granules of 16 bytes from a physical address up, as committed data of a context's sequencer (R162, R330). -/
def State.engineGranules (s : State) (c : Fin 16) (pa : Nat) : List Word → State
  | a :: b :: l => (s.engineWrite (seqKey c) c 0 pa 16 (a.toNat + 2 ^ 64 * b.toNat)).engineGranules c (pa + 16) l
  | [a] => s.engineWrite (seqKey c) c 0 pa 8 a.toNat
  | [] => s

/-! ### Records of the sequencer (R70, R230, R329) -/

/-- A fault record of context `c`'s sequencer, counted for a launch: DETAIL is the walk level of a PAGE or PAGE-BAD, and EXPT and FNDT
are the tags of a TAG (R230, R231, R329, R355). It goes to the asynchronous fault queue whatever its cause: R70 and R351 name that queue
for their own cases, and R329 names none for a failed fetch. (DEDUCED, assumption 28) -/
def State.seqRecord (s : State) (c : Fin 16) (launch : Option Nat) (f : EngineFault) (addr : Word) (cmd : BitVec 32) (h : Handle)
    (site slot : Nat) : State :=
  (s.asyncRecord launch (seqKey c) 2
    { addr := addr, tid := 0, insn := cmd, cause := BitVec.ofNat 8 f.cause, src := 5, ctx := c, expt := f.expt, fndt := f.fndt,
      hyp := BitVec.ofNat 8 (hypNum h), site := BitVec.ofNat 10 site, unit := BitVec.ofNat 8 slot, lane := 0,
      elem := 0, time := 0, pc := 0, detail := BitVec.ofNat 64 f.level, seq := 0 }).1

/-! ### Rank groups (R416 to R424) -/

/-- The sites that are not dark at manufacture, in ascending order. -/
def defaultSites : List (Fin 1024) := (List.finRange 1024).filter fun n => !Config.darkAtManufacture n

/-- A rank entry that names a site (R418). -/
def rankEntry (site : Nat) : Word := flag 63 true ||| field 0 10 site

/-- Group 0 as start-up commits it (R422); every other group is undefined. -/
def defaultGroup (g : Nat) : Group :=
  if g = 0 then
    { desc := flag 63 true ||| field 24 6 (if Config.isAe850 then 29 else 30) ||| field 16 6 30 |||
        field 0 11 (if Config.isAe850 then 0x352 else 0x384),
      ranks := (defaultSites.zipIdx.map fun (n, r) => (r, rankEntry n)) }
  else { desc := 0, ranks := [] }

/-- The values of a group in a table. -/
def groupIn (t : Sparse Group) (g : Nat) : Group := tget (defaultGroup g) t g

/-- The committed group that a binding to a version uses: the version in force or the one before it (R420). -/
def State.groupAt (s : State) (ver : BitVec 16) (g : Nat) : Group :=
  groupIn (if ver = s.groups.ver then s.groups.force else s.groups.before) g

def State.groupNow (s : State) (g : Nat) : Group := s.groupAt s.groups.ver g

def Group.en (g : Group) : Bool := bit g.desc 63
def Group.wid (g : Group) : Nat := bits g.desc 16 6
def Group.hgt (g : Group) : Nat := bits g.desc 24 6
def Group.nrank (g : Group) : Nat := bits g.desc 0 11

/-- The site of a rank; none for a hole and beyond NRANK (R416, R418). -/
def Group.siteOf (g : Group) (r : Nat) : Option (Fin 1024) :=
  let e := tget 0 g.ranks r
  if g.en ∧ r < g.nrank ∧ bit e 63 then some (fin 1024 (bits e 0 10)) else none

/-- The site at a logical position (R416). -/
def Group.position (g : Group) (lx ly : Nat) : Option (Fin 1024) :=
  if lx < g.wid ∧ ly < g.hgt then g.siteOf (ly * g.wid + lx) else none

/-- The sites of a group in rank order. -/
def Group.members (g : Group) : List (Fin 1024) := (List.range g.nrank).filterMap g.siteOf

/-- The rank of a site in a group. -/
def Group.rankOf (g : Group) (n : Fin 1024) : Option Nat := (List.range g.nrank).find? fun r => g.siteOf r == some n

end Sys2Proof.Machine
end

