-- ==== Sys2Proof/Machine/Launch.lean ====
section
/-!
DEFINITION. Sys2Proof/Machine/Launch.lean: launches and threads from start to end: LNCH and LNCI, validation and start of queue
heads, landing of launched and resumed threads, YIELD, the end of a thread and its report, and caravans that land (R80, R82,
R103, R104, R107, R170, R195, R234, R235, R348 to R355, R382 to R386).
-/
namespace Sys2Proof.Machine

/-! ### LNCH and LNCI (R350) -/

/-- A plain line read of a launch descriptor (R350). -/
def lineReq (align : Nat) : Req :=
  { align := align, need := 1, rd := true, wr := false, full := false, write := false, reg := false, store := false, port := false,
    mig := false }

/-- Launches of a queue that are queued and not started (R348, R350). -/
def State.queued (s : State) (c : Fin 16) (q : Fin 64) : List Launch :=
  (s.ctx c).queues.filter fun l => l.queue = q && !l.started && l.status.isNone

/-- A 64-byte line read as loads of the current thread read it. -/
def State.loadWords (s : State) (p : Word) (pa : Nat) : Nat → Except Trouble (State × List Word)
  | 0 => .ok (s, [])
  | n + 1 =>
    match s.loadAt p pa 8 true with
    | .error e => .error e
    | .ok (s, v) =>
      match s.loadWords p (pa + 8) n with
      | .error e => .error e
      | .ok (s, l) => .ok (s, v.setWidth 64 :: l)

/-- A launch joins its queue (R350). -/
def State.appendLaunch (s : State) (c : Fin 16) (q : Fin 64) (ws : List Word) (p : Option Word) (h : Handle) : State :=
  let (s, n) := s.tick
  let desc : LaunchDesc := { words := Vector.ofFn fun i : Fin 16 => ws.getD i 0 }
  s.updCtx c fun x => { x with
    nextLaunch := x.nextLaunch + 1,
    queues := x.queues ++ [{ id := x.nextLaunch, queue := q, desc := desc, lnci := p, hyp := h, count := bits (ws.getD 0 0) 32 32,
                             landed := 0, ended := 0, good := 0, fault := false, flags := 0, fcnt := 0, fseq := 0,
                             started := false, version := 0, prio := 0, group := 0, status := none, serial := n }] }

/-- The 128 bytes of a descriptor, as two line reads: the second line is checked for itself, since it may lie in another page; a
failure with its address (R350). -/
def State.loadDesc (s : State) (p : Word) (ea pa : Nat) : Except (Word × Trouble) (State × List Word) :=
  match s.loadWords p pa 8 with
  | .error e => .error (p, e)
  | .ok (s, l) =>
    let eb := (ea + 64) % 2 ^ 52
    match s.check p eb (lineReq 64) with
    | .error e => .error (withTop p eb, e)
    | .ok pb =>
      match s.loadWords p pb 8 with
      | .error e => .error (withTop p eb, e)
      | .ok (s, m) => .ok (s, l ++ m)

/-- LNCH and LNCI after their release part. (DEDUCED, assumption 25) -/
def launchTurn (s : State) (a b : Reg) (count : Option Reg) : Result :=
  let p := s.gr a
  let ea := bits p 0 52
  match s.check p ea (lineReq 64) with
  | .error e => inTrouble s p e
  | .ok pa =>
    match s.loadDesc p ea pa with
    | .error (a, e) => inTrouble s a e
    | .ok (s, ws) =>
      let q := fin 64 (bits (s.gr b) 0 6)
      let go (s : State) : Result :=
        if 16 ≤ (s.queued s.th.cx q).length ∨ (s.ctx s.th.cx).resetting then .next (s.block .queue)
        else done (s.appendLaunch s.th.cx q ws (count.map s.gr) s.th.thyp)
      match count with
      | none => go s
      | some c =>
        match s.check (s.gr c) (bits (s.gr c) 0 52) (lineReq 4) with
        | .error e => inTrouble s (s.gr c) e
        | .ok _ => go s

def execLnch (a b : Reg) (s : State) : Result := atFence s .device fun s => launchTurn s a b none
def execLnci (a b c : Reg) (s : State) : Result := atFence s .device fun s => launchTurn s a b (some c)

/-! ### Save records and landing slots (R234, R352) -/

/-- The lowest free index of a context's save pool, when records may be allocated (R234, R359). -/
def State.freeRecord (s : State) (c : Fin 16) : Option Nat :=
  let used := (s.ctx c).tids
  if bit (s.reg (spbaseAt c)) 0 then
    (List.range (used.length + 1)).find? fun i => decide (i < bits (s.reg (spcntAt c)) 0 24) && !used.contains (BitVec.ofNat 24 (i + 1))
  else none

/-- The unreserved EMPTY slots of a site. -/
def State.openCount (s : State) (n : Fin 1024) : Nat :=
  ((List.finRange 16).filter fun k => s.slotEmpty n k && !bit (s.site n).reserve k).length

/-- The site of a list, for threads of a context, with the most unreserved EMPTY slots, the first among equals, and its lowest
such slot (R352). -/
def State.bestSite (s : State) (c : Fin 16) (l : List (Fin 1024)) : Option (Fin 1024 × Fin 16) :=
  let fit := l.filter fun n => s.takesLandings n c && decide (0 < s.openCount n)
  let best := fit.foldl
    (fun (b : Option (Fin 1024)) n => match b with
      | none => some n
      | some m => if s.openCount m < s.openCount n then some n else some m) none
  best.bind fun n => (s.openSlot n).map fun k => (n, k)

/-! ### Heads of queues (R351, R352) -/

/-- What stands at the head of a launch queue: a launch or a thread placed there for resumption. -/
inductive Head
  | launch (l : Launch)
  | thread (t : Thread)

/-- Whether a launch has left the head of its queue: a thread launch when all its threads have landed, a graph launch when it
has started, and one whose completion is decided (R351). -/
def Launch.gone (l : Launch) : Bool :=
  l.status.isSome || (l.started && (bits l.desc.words[0] 0 2 == 1 || l.count == l.landed))

def Thread.isDoor (t : Thread) : Bool := match t.origin with | .door _ _ _ _ => true | _ => false

/-- The oldest of a list by a measure. -/
def oldest {α : Type} (f : α → Nat) : List α → Option α
  | [] => none
  | a :: l => match oldest f l with
    | none => some a
    | some b => if f b < f a then some b else some a

/-- The head of a queue. -/
def State.headOf (s : State) (c : Fin 16) (q : Fin 64) : Option Head :=
  let l := oldest (·.serial) ((s.ctx c).queues.filter fun l => l.queue = q && !l.gone)
  let t := oldest (·.landed) (s.threads.filter fun t => t.place == .saved c t.tid && t.ready == some q && !t.isDoor)
  match l, t with
  | none, none => none
  | some l, none => some (.launch l)
  | none, some t => some (.thread t)
  | some l, some t => if l.serial < t.landed then some (.launch l) else some (.thread t)

def State.queueGroup (s : State) (c : Fin 16) (q : Fin 64) : Fin 64 := fin 64 (bits (s.reg (lqcfgAt c q)) 0 6)
def State.queuePrio (s : State) (c : Fin 16) (q : Fin 64) : BitVec 3 := BitVec.ofNat 3 (bits (s.reg (lqcfgAt c q)) 8 3)

/-- Priority of a head: that at which its launch started, else its queue's (R348, R352). -/
def State.headPrio (s : State) (c : Fin 16) (q : Fin 64) : Head → BitVec 3
  | .launch l => if l.started then l.prio else s.queuePrio c q
  | .thread _ => s.queuePrio c q

/-- The sites on which a head lands, in rank order; a started launch is bound to a version of its group (R420). -/
def State.headSites (s : State) (c : Fin 16) (q : Fin 64) : Head → List (Fin 1024)
  | .launch l => if l.started then (s.groupAt l.version l.group).members else (s.groupNow (s.queueGroup c q)).members
  | .thread _ => (s.groupNow (s.queueGroup c q)).members

/-- The order condition of R351. -/
def State.inOrder (s : State) (c : Fin 16) (l : Launch) : Bool :=
  !((bit l.desc.words[0] 8 || l.lnci.isSome) && (s.ctx c).queues.any fun m => m.queue = l.queue && decide (m.serial < l.serial))

/-- Whether a launch descriptor breaks a rule of R354, apart from its queue's EN. (DEDUCED, assumption 25) -/
def Launch.invalid (l : Launch) (count : Nat) : Bool :=
  let w (i : Nat) : Word := l.desc.words.toList.getD i 0
  let kind := bits (w 0) 0 2
  let graph := kind == 1
  bits (w 0) 27 5 != 0 || bits (w 0) 10 6 != 0 || bits (w 0) 2 6 != 0 || decide (2 ≤ kind) ||
    bits (w 1) 52 12 != 0 || bits (w 2) 32 32 != 0 || bits (w 3) 52 12 != 0 || bits (w 4) 52 6 != 0 ||
    w 5 != 0 || w 6 != 0 || w 7 != 0 ||
    (!graph && !(decide (1 ≤ count) && decide (count ≤ 65536)) && !(l.lnci.isSome && count == 0)) ||
    bits (w 1) 0 (if graph then 4 else 2) != 0 || bits (w 3) 0 6 != 0 || bits (w 4) 0 4 != 0 ||
    (graph && (bits (w 3) 0 52 == 0 || bits (w 0) 16 11 != 0 || (List.range 8).any fun i => w (8 + i) != 0))

/-- The count of a launch at the head of its queue: that of its descriptor, or for an LNCI the word at its pointer (R351). -/
def State.launchCount (s : State) (c : Fin 16) (l : Launch) : Except EngineFault Nat :=
  match l.lnci with
  | none => .ok l.count
  | some p =>
    match s.enginePointer c 0 p 1 true false with
    | .error e => .error e
    | .ok pa => .ok (s.readHome 0 0 pa 4)

/-- What the validation of a launch at the head of its queue finds: its count, or the record that it makes, if it makes one, with the
count and the completion status (R351, R354). (DEDUCED, assumption 25) -/
def State.validate (s : State) (c : Fin 16) (q : Fin 64) (l : Launch) : Except (Option (EngineFault × Word × Handle) × Nat × Nat) Nat :=
  match s.launchCount c l with
  | .error e => .error (some (e, l.lnci.getD 0, 0), 0, 2)
  | .ok n =>
    let h := canonHandle (l.desc.words[2].setWidth 32)
    if l.invalid n ∨ !bit (s.reg (lqcfgAt c q)) 63 then .error (some (engineFault 0x21 0, 0, h), n, 2)
    else if !s.liveHyp c h then .error (none, n, 1)
    else .ok n

/-- Whether a launch that has not started can start once it finds its resources: its order condition holds and it is valid. -/
def State.startable (s : State) (c : Fin 16) (q : Fin 64) (l : Launch) : Bool :=
  s.inOrder c l && (match s.validate c q l with | .ok n => bits l.desc.words[0] 0 2 == 1 || n != 0 | .error _ => false)

/-- Whether a head now wants landing slots. -/
def State.wantsSlot (s : State) (c : Fin 16) (q : Fin 64) : Bool :=
  !(s.ctx c).halted && !(s.ctx c).resetting &&
    (match s.headOf c q with
     | none => false
     | some (.thread _) => true
     | some (.launch l) => bits l.desc.words[0] 0 2 == 0 && (l.started || s.startable c q l) && (s.freeRecord c).isSome)

/-- Whether the head of `(c', q')` comes before that of `(c, q)` (R352). -/
def State.headBefore (s : State) (c' : Fin 16) (q' : Fin 64) (c : Fin 16) (q : Fin 64) : Bool :=
  match s.headOf c' q', s.headOf c q with
  | some h', some h =>
    let p' := s.headPrio c' q' h'
    let p := s.headPrio c q h
    let turn (x : Fin 64) : Nat := (x.val + 63 - (s.ctx c).served % 64) % 64
    decide (p < p') || (p == p' && (decide (c' < c) || (c' == c && decide (turn q' < turn q))))
  | _, _ => false

/-- The queues that hold anything. -/
def State.busyQueues (s : State) : List (Fin 16 × Fin 64) :=
  (List.finRange 16).flatMap fun c =>
    (List.finRange 64).filterMap fun q =>
      if ((s.ctx c).queues.any fun l => l.queue = q) || (s.threads.any fun t => t.place == .saved c t.tid && t.ready == some q)
      then some (c, q) else none

/-- Whether the landing of a head takes a save record: a launched thread's does. -/
def Head.takesRecord : Head → Bool
  | .launch _ => true
  | .thread _ => false

/-- Resident threads of lower priority that a head may pre-empt on the cores of its group: the lowest priority first, then the
most recently landed (R352). -/
def State.victim (s : State) (sites : List (Fin 1024)) (p : BitVec 3) (c : Fin 16) : Option Thread :=
  (s.threads.filter fun t => match t.place with
    | .slot n _ => sites.contains n && decide (t.prio < p) && t.st != .drain && t.st != .load && s.takesLandings n c
    | _ => false).foldl
    (fun (b : Option Thread) t => match b with
      | none => some t
      | some u => if t.prio < u.prio ∨ (t.prio = u.prio ∧ u.landed < t.landed) then some t else some u) none

/-- Whether a landing slot can be had for a head, free or by pre-emption (R352). -/
def State.canLand (s : State) (c : Fin 16) (q : Fin 64) (h : Head) : Bool :=
  (s.bestSite c (s.headSites c q h)).isSome || (s.victim (s.headSites c q h) (s.headPrio c q h) c).isSome

/-- Whether a context has no more than one free save record. -/
def State.lastRecord (s : State) (c : Fin 16) : Bool :=
  decide (bits (s.reg (spcntAt c)) 0 24 ≤ (s.ctx c).tids.length + 1)

/-- Whether a better head can use what a head would take: the slot of a site, or the last free save record of the same context
(R352). -/
def State.outranked (s : State) (c : Fin 16) (q : Fin 64) (n : Fin 1024) : Bool :=
  s.busyQueues.any fun (c', q') => s.wantsSlot c' q' && s.headBefore c' q' c q &&
    (match s.headOf c' q', s.headOf c q with
     | some h', some h =>
       ((s.headSites c' q' h').contains n && s.takesLandings n c') ||
         (decide (c' = c) && h'.takesRecord && h.takesRecord && s.lastRecord c && s.canLand c' q' h')
     | _, _ => false)

/-- A landing slot for a head: a free one, or one freed by pre-emption, whose thread waits on its launch's queue (R352). -/
def State.slotFor (s : State) (c : Fin 16) (q : Fin 64) (h : Head) : Option (State × Fin 1024 × Fin 16) :=
  let sites := s.headSites c q h
  match s.bestSite c sites with
  | some (n, k) => some (s, n, k)
  | none =>
    match s.victim sites (s.headPrio c q h) c with
    | some v =>
      let s := (s.preempt v.place).makeReady v.ctx v.tid
      (s.bestSite c sites).map fun (n, k) => (s, n, k)
    | none => none

/-! ### Starting a launch (R351, R354) -/

def State.updLaunch (s : State) (c : Fin 16) (id : Nat) (f : Launch → Launch) : State :=
  s.updCtx c fun x => { x with queues := x.queues.map fun l => if l.id = id then f l else l }

/-- A free graph slot of a context (R327, R351). -/
def State.freeGraph (s : State) (c : Fin 16) : Option (Fin 4) :=
  (List.finRange 4).find? fun g => ((s.ctx c).graphs[g]).isNone

/-- A graph begins in its slot: its program counter at ENTRY (R71, R346). -/
def State.startGraph (s : State) (c : Fin 16) (g : Fin 4) (l : Launch) : State :=
  let (s, n) := s.tick
  let w := l.desc.words
  s.updCtx c fun x => { x with graphs := x.graphs.set g (some
    { launch := l.id, pc := w[1].setWidth 52, started := n, prio := l.prio.toNat, hyp := canonHandle (w[2].setWidth 32),
      queue := l.queue, count := l.count, last := none, ahead := [], tiles := 0, flags := 0, ended := false, drained := none, status := none,
      ranges := [], endSlot := 0, curSlot := none }) }

/-- A better graph head of the same context that can use it takes the graph slot first (R352). -/
def State.graphOutranked (s : State) (c : Fin 16) (q : Fin 64) : Bool :=
  (List.finRange 64).any fun q' => s.headBefore c q' c q &&
    (match s.headOf c q' with
     | some (.launch l) => bits l.desc.words[0] 0 2 == 1 && !l.started && s.startable c q' l
     | _ => false)

/-- A launch at the head of its queue, its order condition met, is validated and then started, or its completion is decided
(R351, R354). `none` while a resource is missing. (DEDUCED, assumption 25) -/
def State.startHead (s : State) (c : Fin 16) (q : Fin 64) (l : Launch) : Option State :=
  let decide_ (s : State) (n st : Nat) : State := s.updLaunch c l.id fun l => { l with count := n, status := some st }
  match s.validate c q l with
  | .error (r, n, st) =>
    some (decide_ (match r with | some (f, addr, h) => s.seqRecord c (some l.id) f addr 0 h 0 0 | none => s) n st)
  | .ok n =>
    let s := match l.lnci with
      | some p => s.askWords (seqKey c) c (bits p 0 52) 1
      | none => s
    let l := { l with count := n, prio := s.queuePrio c q, group := s.queueGroup c q, version := s.groups.ver }
    let begin_ (s : State) : State := s.updLaunch c l.id fun m =>
      { m with count := n, prio := l.prio, group := l.group, version := l.version, started := true }
    if bits l.desc.words[0] 0 2 = 1 then
      if s.graphOutranked c q then none
      else (s.freeGraph c).map fun g => (begin_ (s.updCtx c fun x => { x with served := q.val })).startGraph c g l
    else if n = 0 then some (decide_ s n 0)
    else if (s.freeRecord c).isSome ∧ s.canLand c q (.launch l) then some (begin_ (s.updCtx c fun x => { x with served := q.val }))
    else none

def execLaunchStart (c : Fin 16) (q : Fin 64) (s : State) : Result :=
  if (s.ctx c).halted ∨ (s.ctx c).resetting then .next s
  else
    match s.headOf c q with
    | some (.launch l) => if l.started ∨ !s.inOrder c l then .next s else .next ((s.startHead c q l).getD s)
    | _ => .next s

/-! ### Landing (R107, R235, R352, R353) -/

/-- The stack pointer of a thread whose stack ends at `top` bytes above a stack array (R353, R385). -/
def stackPointer (base : Word) (top : Nat) : Word :=
  field 60 4 (bits base 60 4) ||| field 58 2 2 ||| field 0 52 (bits base 0 52 + top)

/-- A new thread of a context, before it lands: R107's state with what its launch or door gives. -/
def newThread (c : Fin 16) (tid : BitVec 24) (entry : Addr) (h : Handle) (prio : BitVec 3) (origin : Origin) (save : Nat) (floor : Word)
    (args : List Word) : Thread :=
  { Thread.blank with ctx := c, tid := tid, pc := entry, thyp := h, prio := prio, origin := origin, save := save, floor := floor,
                      sup := false, place := .saved c tid,
                      g := Vector.ofFn fun i : Fin 32 => if 2 ≤ i.val then args.getD (i.val - 2) 0 else 0 }

/-- The address of a save record (R234). -/
def State.recordAt (s : State) (c : Fin 16) (i : Nat) : Nat := bits (s.reg (spbaseAt c)) 11 41 * 2048 + i * 2048

/-- Lands the next thread of a launch in a slot (R353). -/
def State.landLaunch (s : State) (c : Fin 16) (l : Launch) (n : Fin 1024) (k : Fin 16) : State :=
  match s.freeRecord c with
  | none => s
  | some r =>
    let i := l.landed
    let w (j : Nat) : Word := l.desc.words.toList.getD j 0
    let stack := bits (w 0) 16 11
    let (s, t) := s.message (seqKey c) (siteKey n)
    let g2 : Word := if stack = 0 then 0 else stackPointer (w 4) ((i + 1) * stack * 64)
    let args := g2 :: ((List.range 7).map fun j => w (8 + j)) ++ [w 15 + BitVec.ofNat 64 i]
    let tid := BitVec.ofNat 24 (r + 1)
    let th := newThread c tid ((w 1).setWidth 52) (canonHandle ((w 2).setWidth 32)) l.prio (.launch l.id) (s.recordAt c r) t args
    let s := s.updCtx c fun x => { x with tids := x.tids ++ [tid], served := l.queue.val }
    (s.settleIn th n k).updLaunch c l.id fun l => { l with landed := l.landed + 1 }

/-- A saved thread lands in a slot (R235). -/
def State.landSaved (s : State) (c : Fin 16) (t : Thread) (n : Fin 1024) (k : Fin 16) : State :=
  let (s, v) := s.message (seqKey c) (siteKey n)
  (s.resume t n k).updThread (.slot n k) fun t => t.raise v

/-- The head of a queue lands its next thread in a slot. (DEDUCED, assumption 25) -/
def State.landHead (s : State) (c : Fin 16) (q : Fin 64) (n : Fin 1024) (k : Fin 16) : State :=
  match s.headOf c q with
  | some (.launch l) => if l.started then s.landLaunch c l n k else s
  | some (.thread t) => (s.updCtx c fun x => { x with served := q.val }).landSaved c t n k
  | none => s

/-- A head's next thread lands, where its turn has come and a slot can be had (R352). -/
def State.threadLand (s : State) (c : Fin 16) (q : Fin 64) : State :=
  match s.headOf c q with
  | some h =>
    let ready : Bool := match h with | .launch l => l.started | .thread _ => true
    if ready ∧ s.wantsSlot c q then
      match s.slotFor c q h with
      | some (s', n, k) => if s.outranked c q n then s else (s.askWake n).getD (s'.landHead c q n k)
      | none => s
    else s
  | none => s

def execThreadLand (c : Fin 16) (q : Fin 64) (s : State) : Result := .next (s.threadLand c q)

/-! ### Serais (R382, R386) -/

/-- The place of an instance with a name of the model, in a context. -/
def State.instOf (s : State) (c : Fin 16) (uid : Nat) : Option (Nat × Inst) :=
  match s.insts.findIdx? fun x => x.ctx = c && x.uid = uid with
  | some i => (s.insts[i]?).map fun x => (i, x)
  | none => none

def seraiFresh : Serai :=
  { bound := none, places := [], next := 0, tiles := [], tilesSeen := 0, pos := 0, replies := 0, leaveT := 0 }

def Inst.serai (x : Inst) (d : Nat) : Serai := x.serais.getD d seraiFresh

def Inst.setSerai (x : Inst) (d : Nat) (v : Serai) : Inst := { x with serais := setAt x.serais d v }

def Inst.door (x : Inst) (d : Nat) : Door :=
  x.cfg.doors.getD d { entry := 0, ordered := false, reply := 1, serai := 1, slots := 1, stack := 0 }

/-- The place of a ticket takes the thread's end: a result when it was wanted (R382, R386). -/
def Serai.answer (v : Serai) (ticket : Nat) (result : List Flit) : Serai :=
  { v with places := v.places.filterMap fun p =>
             if p.ticket = ticket then
               match p.st with
               | .running => some { p with st := .replied, result := result, order := v.replies }
               | .abandoned => none
               | _ => some p
             else some p,
           replies := v.replies + 1 }

/-- A door thread has ended: by HALT it replies with g3 onward, else with poison (R386). (DEDUCED, assumption 43) -/
def State.doorEnd (s : State) (c : Fin 16) (uid d ticket : Nat) (t : Thread) (good : Bool) : State :=
  match s.instOf c uid with
  | some (i, x) =>
    let n := (x.door d).reply
    let result := (List.range n).map fun k => if good then dataFlit (t.gr (fin 32 (3 + k))) 0 false else dataFlit 0 0 true
    s.stir i (x.setSerai d ((x.serai d).answer ticket result))
  | none => s

/-! ### The end of a thread (R104, R195, R355) -/

/-- The end of a thread is reported to its launch or door. -/
def State.report (s : State) (t : Thread) (good : Bool) : State :=
  match t.origin with
  | .launch id => s.updLaunch t.ctx id fun l =>
      { l with ended := l.ended + 1, good := if good then l.good + 1 else l.good, fault := l.fault || !good,
               flags := l.flags ||| t.tflags }
  | .door uid d ticket _ => s.doorEnd t.ctx uid d ticket t good
  | .none => s

/-- A thread ends: its tokens are released, its end is reported, its save record is freed and its slot is EMPTY. -/
def State.endThread (s : State) (p : Place) (good sweep : Bool) : State :=
  match s.findThread p with
  | some t =>
    let s := (s.releaseTokens t.ctx t.tid sweep).report t good
    let s := s.dropThread p
    { s with feq := s.feq.filter fun w => w.2.1 ≠ Waiter.thread p }.updCtx t.ctx fun x => { x with tids := x.tids.filter fun i => i ≠ t.tid }
  | none => s

/-- The drain of HALT completes (R104). (DEDUCED, assumption 19) -/
def execDrainComplete (p : Place) (s : State) : Result :=
  onThread p s fun s =>
    if s.th.st = .drain ∧ s.th.onBarrel then
      let c := s.th.ctx
      let s := (s.releaseTo .device)
      let s := (s.drain (ofSlot s.th)).endThread p true true
      .next (if s.pendingFault c then s.haltContext c else s)
    else .next s

/-! ### Caravans (R170, R239, R254) -/

/-- A context reset is over once no caravan of the context is under way (R239). (DEDUCED, assumption 48) -/
def State.resetOver (s : State) (c : Fin 16) : State :=
  if s.threads.any fun t => t.ctx = c && (match t.place with | .caravan _ _ => true | _ => false) then s
  else s.updCtx c fun x => { x with resetting := false }

/-- The k-th caravan lands, unless it would overtake (R17): its slot passes through LOAD. At a site that closes, the thread is saved and
made ready elsewhere; in a context that is being reset it ends. (DEDUCED, assumption 17) -/
def execCaravanLand (k : Nat) (s : State) : Result :=
  match s.caravanAt k with
  | some t =>
    match t.place with
    | .caravan n j =>
      if (t.way.map s.overtakes).getD false then .next s else
      let s := s.setReserve n j false
      if (s.ctx t.ctx).resetting then .next ((s.endThread t.place false true).resetOver t.ctx)
      else
        let s := s.dropThread t.place
        let (s, v) := s.message (siteKey (t.old.getD n)) (siteKey n)
        if (s.site n).status = .enabled then .next (s.settleIn (t.raise v) n j)
        else
          match (s.addThread { t with place := .slot n j }).focus (.slot n j) with
          | some s =>
            let s := s.saveTh
            .next ({ s with th := { s.th with old := t.old } }.makeReady t.ctx t.tid)
          | none => .next s
    | _ => .next s
  | none => .next s

/-! ### YIELD (R103) -/

/-- The sites of the cluster of a site, the site itself first. -/
def nearSites (n : Nat) : List (Fin 1024) :=
  fin 1024 n :: ((clusterSites (siteCluster n)).filter fun m => m ≠ n).map fun m => fin 1024 m

/-- The page record that holds the NDOR of a door, with its PE. -/
def Inst.doorAt (x : Inst) (d : Nat) : Option (Nat × Nat) :=
  (x.cfg.pages.zipIdx).findSome? fun (r, n) =>
    (r.nodes.find? fun e => nodeOp e.2 == 0x23 && bits e.2 0 8 == d).map fun e => (n, e.1)

/-- The cores on which a saved door thread may land, the first preferred: its NDOR's and its cluster's (R384); for a thread
whose instance is gone, those of the core it left. (DEDUCED, assumption 43) -/
def State.doorSites (s : State) (t : Thread) : List (Fin 1024) :=
  match t.origin with
  | .door uid d _ _ =>
    match s.instOf t.ctx uid with
    | some (_, x) =>
      match x.doorAt d with
      | some (page, _) => nearSites (x.siteOf page)
      | none => []
    | none => match t.old with | some m => nearSites m | none => List.finRange 1024
  | _ => []

/-- The heads that a yielding thread of priority `p` on a site gives way to, the one served first in front (R103, R352).
(DEDUCED, assumption 26) -/
def State.yieldHead (s : State) (c : Fin 16) (n : Fin 1024) (p : BitVec 3) : Option (Fin 64) :=
  ((List.finRange 64).filter fun q => s.wantsSlot c q &&
    (match s.headOf c q with
     | some h => decide (p ≤ s.headPrio c q h) && (s.headSites c q h).contains n
     | none => false)).foldl
    (fun (b : Option (Fin 64)) q => match b with
      | none => some q
      | some r => if s.headBefore c q c r then some q else some r) none

/-- The saved thread of a door that lands next: the oldest ticket (R384). -/
def State.doorSaved (s : State) (c : Fin 16) (uid d : Nat) : Option Thread :=
  oldest (fun t => match t.origin with | .door _ _ ticket _ => ticket | _ => 0)
    (s.threads.filter fun t => t.ctx = c && t.place == .saved c t.tid && t.ready.isSome && (match t.origin with
      | .door u e _ _ => u == uid && e == d
      | _ => false))

/-- Whether a saved door thread is the next of its door. -/
def State.doorFirst (s : State) (t : Thread) : Bool :=
  t.place == .saved t.ctx t.tid && t.ready.isSome && (match t.origin with
    | .door u d _ _ => (match s.doorSaved t.ctx u d with | some v => v.tid == t.tid | none => false)
    | _ => false)

/-- A saved door thread that waits for a slot on a site: of each door the oldest ticket, of several doors the one ready longest (R384).
(DEDUCED, assumption 26) -/
def State.yieldDoor (s : State) (c : Fin 16) (n : Fin 1024) (p : BitVec 3) : Option Thread :=
  oldest (·.landed) (s.threads.filter fun t => t.ctx == c && s.doorFirst t && decide (p ≤ t.prio) && (s.doorSites t).contains n)

/-- A launch at a head that has not started starts now, where R351 allows it. -/
def State.beginHead (s : State) (c : Fin 16) (q : Fin 64) : State :=
  match s.headOf c q with
  | some (.launch l) => if l.started then s else (s.startHead c q l).getD s
  | _ => s

def execYield (s : State) : Result :=
  match s.th.place with
  | .slot n k =>
    let t := s.th
    let c := t.ctx
    if !s.takesLandings n c then done s
    else
      match s.yieldHead c n t.prio with
      | some q =>
        let s' := s.advance.saveTh.beginHead c q
        let begun : Bool := match s.headOf c q, s'.headOf c q with
          | some (.launch l), some (.launch m) => m.started && m.id == l.id
          | some (.launch _), _ => false
          | _, _ => true
        if begun then .next ((s'.landHead c q n k).makeReady c t.tid) else done s
      | none =>
        match s.yieldDoor c n t.prio with
        | some u => .next ((s.advance.saveTh.landSaved c u n k).makeReady c t.tid)
        | none => done s
  | _ => done s

end Sys2Proof.Machine
end

