-- ==== Sys2Proof/Machine/Loader.lean ====
section
/-!
DEFINITION. Sys2Proof/Machine/Loader.lean: the configuration loader: the checks of an image in their order and the checked copy
they leave (R53 to R66, R288 to R300, R306, R309, R313, R380, R392).
-/
namespace Sys2Proof.Machine

/-- A rejection: cause, page record and PE, the last two 0 where they do not apply (R65). -/
structure Reject where
  cause  : Nat
  record : Nat
  pe     : Nat
  deriving DecidableEq, Repr

/-- `n` bytes at an offset of an image, little-endian (R60). -/
def le (l : List Byte) (o n : Nat) : Nat := ((l.drop o).take n).foldr (fun b a => b.toNat + 256 * a) 0

/-- CRC-32C of a byte string (R256). -/
def crc32c (l : List Byte) : BitVec 32 := ~~~ (l.foldl (fun c b => crcBits b.toNat 8 0 c) 0xFFFFFFFF)

/-- The part of an image from an offset. -/
def part (l : List Byte) (o n : Nat) : List Byte := (l.drop o).take n

/-! ### Node and router words (R55, R57, R288 to R300, R313, R380, R392) -/

/-- The types that a node accepts: integers, floating-point types, C8, HDR (R289, R313, R380). -/
def acceptsType (op ety : Nat) : Bool :=
  let i := decide (ety < 8)
  let f := decide (8 ≤ ety) && decide (ety ≤ 12)
  let h := ety == 14
  match op with
  | 0x0C => ety == 13 || h
  | 0x0D => f || h
  | 0x0E => i || h
  | 0x0F => i || h
  | 0x10 => i || h
  | 0x11 => i || h
  | 0x12 => i || h
  | 0x15 => h
  | 0x16 => i || h
  | 0x18 => h
  | 0x20 => decide (ety < 14)
  | 0x21 => decide (ety ≤ 14)
  | 0x22 => ety == 2 || ety == 3 || ety == 6 || ety == 7 || ety == 11 || ety == 12
  | 0x23 => decide (ety < 14)
  | 0x30 => ety == 8 || ety == 9 || ety == 10 || ety == 13 || h
  | _ => i || f || h

/-- Whether a node uses its inputs B and C (R55). -/
def usesB (op : Nat) : Bool := [0x01, 0x02, 0x03, 0x04, 0x05, 0x06, 0x09, 0x0A, 0x0E, 0x0F, 0x10, 0x11, 0x12, 0x21].contains op
def usesC (op : Nat) : Bool := op == 0x04 || op == 0x0A

/-- Whether FN is one that the node reads (R288 to R300, R313). -/
def fnGood (op ety fn : Nat) : Bool :=
  let rm := fn % 8
  let sat := decide (8 ≤ fn)
  let i := decide (ety < 8)
  let f := decide (8 ≤ ety) && decide (ety ≤ 12)
  let rmsat := decide (rm ≤ 5) && !(i && rm != 0) && !(f && sat)
  match op with
  | 0x01 => rmsat
  | 0x02 => rmsat
  | 0x03 => rmsat
  | 0x04 => rmsat
  | 0x07 => rm == 0 && !(f && sat)
  | 0x08 => rm == 0 && !(f && sat)
  | 0x09 => decide (fn ≤ 5)
  | 0x0B => decide (fn ≤ 12)
  | 0x0C => decide (fn ≤ 5)
  | 0x0D => decide (fn < 4)
  | 0x13 => rmsat
  | 0x14 => rmsat
  | 0x15 => decide (fn ≤ 1)
  | 0x20 => ety == 13 || decide (fn < 4)
  | 0x21 => decide (fn ≤ 1)
  | 0x22 => decide (fn < 7)
  | _ => fn == 0

/-- Whether PARAM has no bit set that the node does not read (R289, R294, R296, R300, R313, R380). -/
def paramGood (op ety p : Nat) : Bool :=
  match op with
  | 0x0B => decide (p < 16) && decide (p % 8 ≤ 5)
  | 0x0D => decide (p < 256)
  | 0x13 => decide (p / 32 = 0) && p / 8 % 2 == 0 && decide (p % 8 ≤ 5)
  | 0x14 => decide (p / 32 = 0) && p / 8 % 2 == 0 && decide (p % 8 ≤ 5)
  | 0x15 => true
  | 0x16 => true
  | 0x17 => !((ety == 8 || ety == 9) && decide (2 ^ 16 ≤ p)) && !(ety == 10 && decide (2 ^ 19 ≤ p))
  | 0x20 => p % 4 == 0
  | 0x21 => p % 4 == 0
  | 0x23 => decide (p < 256)
  | _ => p == 0

/-- Whether a type breaks the operation that FN or PARAM selects (R296, R313). -/
def typeBarred (op ety fn p : Nat) : Bool :=
  let f := decide (8 ≤ ety) && decide (ety ≤ 12)
  ((op == 0x13 || op == 0x14) && f && decide (3 ≤ p % 8) && decide (p % 8 ≤ 5)) ||
    (op == 0x22 && f && decide (3 ≤ fn % 8) && decide (fn % 8 ≤ 5))

def smallestCause (l : List (Bool × Nat)) : Option Nat := oldest id ((l.filter (·.1)).map (·.2))

/-- The NMMA nodes of a page's node words, and the leader of its matrix section (R392). -/
def nmmaPes (nodes : Sparse (BitVec 64)) : List Nat := (nodes.filter fun e => nodeOp e.2 == 0x30).map (·.1)

/-- Whether a signed page offset from a position stays within the extent (R58, R66). -/
def inExtent (w h px py : Nat) (dx dy : Int) : Bool :=
  decide (0 ≤ (px : Int) + dx) && decide ((px : Int) + dx < w) && decide (0 ≤ (py : Int) + dy) && decide ((py : Int) + dy < h)

/-- The lowest cause that rejects a node word, if any. -/
def nodeCause (w : BitVec 64) (pe : Nat) (matrix : Bool) (nodes : Sparse (BitVec 64)) (px py extw exth ndoor : Nat) : Option Nat :=
  let n := nodeFields w
  let op := nodeOp w
  let ety := n.ety.toNat
  let known := match decodeNode w with | .ok _ => true | .error _ => false
  if op = 0 then smallestCause [(ety == 15, 0x11), (w != 0, 0x12)]
  else if !known then some 0x10
  else if op = 0x30 then
    let l := nmmaPes nodes
    let west := pe % 16 != 0 && l.contains (pe - 1)
    let north := decide (16 ≤ pe) && l.contains (pe - 16)
    let latched := n.inc != 0 || (west && n.ina != 0) || (north && n.inb != 0)
    let dx := BitVec.ofNat 6 (bits n.param 8 6)
    let dy := BitVec.ofNat 6 (bits n.param 14 6)
    let barred := dx == 0x20 || dy == 0x20
    if l.head? = some pe then
      smallestCause [(!matrix, 0x13), (!acceptsType op ety, 0x11), (latched || n.fn != 0 || bits n.param 2 6 != 0 || barred, 0x12),
        (!barred && !inExtent extw exth px py dx.toInt dy.toInt, 0x1A)]
    else smallestCause [(!matrix, 0x13), (latched || ety != 0 || n.fn != 0 || n.omask != 0 || n.param != 0, 0x12)]
  else
    let fn := n.fn.toNat
    let p := n.param.toNat
    smallestCause
      [(!acceptsType op ety || typeBarred op ety fn p, 0x11),
       (!fnGood op ety fn || !paramGood op ety p || (!usesB op && n.inb != 0) || (!usesC op && n.inc != 0), 0x12),
       ((op == 0x20 || op == 0x21 || op == 0x22) && (portOf pe).isNone, 0x13),
       (op == 0x23 && decide (ndoor ≤ p % 256), 0x14)]

/-- The lowest cause that rejects a router word, if any (R57, R66). -/
def routerCause (w : BitVec 64) : Option Nat :=
  let r := routerFields w
  match bits w 44 4 with
  | 0x0 => if bits w 0 48 = 0 then none else some 0x12
  | 0x1 => if r.ib = 0 then none else some 0x12
  | 0x2 => if bits r.ob 4 12 = 0 then none else some 0x12
  | 0x3 => if r.ib = 0 ∧ r.ob = 0 then none else some 0x12
  | 0x4 => none
  | 0x5 => if r.ib = 0 ∧ r.ob = 0 then none else some 0x12
  | 0x6 => if r.ctl = 0 ∧ r.ib = 0 ∧ r.ob = 0 then none else some 0x12
  | 0x7 => if r.ctl = 0 ∧ r.ib = 0 ∧ r.oa = 0 ∧ r.ob = 0 then none else some 0x12
  | 0x8 => if r.ib = 0 then none else some 0x12
  | 0x9 => if r.ib = 0 then none else some 0x12
  | 0xA => if r.ib = 0 then none else some 0x12
  | _ => some 0x18

/-- The output channels that a router word's operator drives (R57). -/
def routerOuts (w : BitVec 64) : BitVec 16 :=
  let r := routerFields w
  match bits w 44 4 with
  | 0x0 => 0
  | 0x1 => r.oa ||| r.ob
  | _ => r.oa

def nodeOuts (w : BitVec 64) : BitVec 16 := (nodeFields w).omask

/-! ### Page records (R62, R63) -/

/-- The words of a page record's table of 256, those that are not idle. -/
def peWords (l : List Byte) (o : Nat) : Sparse (BitVec 64) :=
  (List.range 256).filterMap fun pe =>
    let w := BitVec.ofNat 64 (le l (o + 8 * pe) 8)
    if w = 0 then none else some (pe, w)

/-- The PE and output channel of each link word in their order (R62). -/
def linkPlaces (routes : Sparse (BitVec 64)) : List (Nat × Nat) :=
  routes.flatMap fun (pe, w) => (maskChans (routerFields w).swmask).map fun k => (pe, k.val)

/-- A range entry (R63). -/
def rangeEntry (l : List Byte) (o : Nat) : RangeEntry :=
  let w (i : Nat) : Word := BitVec.ofNat 64 (le l (o + 8 * i) 8)
  { base := w 0, limit := w 1, offset := w 2, ctrl := w 3 }

/-- Whether a link word is refused with cause 0x1A (R58, R66). -/
def linkBad (w : BitVec 32) (px py extw exth : Nat) : Bool :=
  bits w 31 1 == 0 || bits w 0 7 == 0 ||
    (if bits w 13 6 = 0x20 then bits w 27 4 != 0 || bits w 7 6 != 0 else !inExtent extw exth px py (linkDx w) (linkDy w))

/-- The causes that a page record's contents draw, each with its PE. The spec does not say which PE is reported where a cause belongs to
none: the model gives 0 for an NLINK mismatch and for the record's header, and the port's PE for a range entry.
(DESIGN CHOICE, assumption 29) -/
def pageCauses (l : List Byte) (px py extw exth ndoor pflags nlink : Nat) (nrng : List Nat) (nodes routes : Sparse (BitVec 64))
    (places : List (Nat × Nat)) (words : List (BitVec 32)) : List (Nat × Nat) :=
  let header := if pflags / 2 ≠ 0 ∨ (part l 14 18).any (· != 0) then [(0x12, 0)] else []
  let node := nodes.filterMap fun (pe, w) =>
    (nodeCause w pe (pflags % 2 == 1) nodes px py extw exth ndoor).map fun c => (c, pe)
  let route := routes.filterMap fun (pe, w) => (routerCause w).map fun c => (c, pe)
  let pes := (List.range 256).filter fun pe => tget 0 nodes pe != 0 || tget 0 routes pe != 0
  let outs := pes.flatMap fun pe =>
    let a := nodeOuts (tget 0 nodes pe)
    let w := tget 0 routes pe
    let b := routerOuts w
    (if (a ||| b) &&& ~~~ (routerFields w).swmask ≠ 0 then [(0x19, pe)] else []) ++ (if a &&& b ≠ 0 then [(0x1B, pe)] else [])
  let count := if places.length ≠ nlink then [(0x19, 0)] else []
  let link := (places.zip words).filterMap fun ((pe, _), w) => if linkBad w px py extw exth then some (0x1A, pe) else none
  let start := 4128 + (nlink * 4 + 7) / 8 * 8
  let ranges := ((List.range 4).flatMap fun p =>
    let before := (nrng.take p).sum
    let pe := [0, 15, 255, 240].getD p 0
    (if 16 < nrng.getD p 0 then [(0x1E, pe)] else []) ++
      (List.range (nrng.getD p 0)).filterMap fun k =>
        let e := rangeEntry l (start + 32 * (before + k))
        if bits e.ctrl 8 56 ≠ 0 ∨ bits e.base 52 12 ≠ 0 ∨ (bits e.ctrl 2 2 = 1 ∧ bits e.ctrl 4 4 ≠ 0) then some (0x12, pe)
        else if e.limit.toNat < e.base.toNat ∨ bits e.ctrl 0 2 = 0 ∨ 2 ≤ bits e.ctrl 2 2 then some (0x1E, pe)
        else none)
  header ++ node ++ route ++ outs ++ count ++ link ++ ranges

/-- The first rejection of a list: lowest cause, then, where the spec gives no order, the lowest record and PE (R65).
(DESIGN CHOICE, assumption 29) -/
def firstReject (l : List (Nat × Nat × Nat)) : Option Reject :=
  (oldest (fun e => e.1 * 2 ^ 32 + e.2.1 * 256 + e.2.2) l).map fun e => { cause := e.1, record := e.2.1, pe := e.2.2 }

/-- One page record at an offset: the record with its links and its length, or a rejection (R62, R65). No cause code names a nonzero byte
of the padding after the link words, and the model accepts it. (DESIGN CHOICE, assumption 29) -/
def checkPage (img : List Byte) (o sigoff k extw exth ndoor : Nat) (seen : List (Nat × Nat)) :
    Except Reject (PageRec × List Link × Nat) :=
  let no (c : Nat) : Except Reject (PageRec × List Link × Nat) := .error { cause := c, record := k, pe := 0 }
  if sigoff < o + 32 then no 0x03
  else
    let rlen := le img o 4
    let px := le img (o + 4) 1
    let py := le img (o + 5) 1
    let pflags := le img (o + 6) 2
    let nlink := le img (o + 8) 2
    let nrng := (List.range 4).map fun p => le img (o + 10 + p) 1
    let want := 4128 + (nlink * 4 + 7) / 8 * 8 + 32 * nrng.sum + 8
    if rlen % 8 ≠ 0 ∨ rlen ≠ want ∨ sigoff < o + rlen then no 0x03
    else
      let l := part img o rlen
      if le l (rlen - 8) 4 ≠ (crc32c (l.take (rlen - 8))).toNat ∨ le l (rlen - 4) 4 ≠ 0 then no 0x06
      else if extw ≤ px ∨ exth ≤ py ∨ seen.contains (px, py) then no 0x07
      else
        let nodes := peWords l 32
        let routes := peWords l 2080
        let places := linkPlaces routes
        let words := (List.range nlink).map fun i => BitVec.ofNat 32 (le l (4128 + 4 * i) 4)
        match firstReject ((pageCauses l px py extw exth ndoor pflags nlink nrng nodes routes places words).map
            fun (c, pe) => (c, k, pe)) with
        | some r => .error r
        | none =>
          let start := 4128 + (nlink * 4 + 7) / 8 * 8
          let ranges : Vector (List RangeEntry) 4 := Vector.ofFn fun p =>
            (List.range (nrng.getD p 0)).map fun i => rangeEntry l (start + 32 * ((nrng.take p).sum + i))
          let links := (places.zip words).map fun ((pe, ch), w) => { page := k, pe := pe, ch := ch, word := w }
          .ok ({ px := px, py := py, matrix := pflags % 2 == 1, nodes := nodes, routes := routes, ranges := ranges, good := true },
               links, rlen)

/-- The page records in ascending order. A gap between the last record and SIGOFF draws no cause. (DESIGN CHOICE, assumption 29) -/
def checkPages (img : List Byte) (sigoff extw exth ndoor : Nat) : Nat → Nat → Nat → List (Nat × Nat) →
    Except Reject (List PageRec × List Link)
  | 0, _, _, _ => .ok ([], [])
  | n + 1, k, o, seen =>
    match checkPage img o sigoff k extw exth ndoor seen with
    | .error r => .error r
    | .ok (p, links, len) =>
      match checkPages img sigoff extw exth ndoor n (k + 1) (o + len) ((p.px, p.py) :: seen) with
      | .error r => .error r
      | .ok (ps, ls) => .ok (p :: ps, links ++ ls)

/-! ### Conditions across pages (R59, R306, R309) -/

/-- A node (`false`) or router operator (`true`) of a configuration: page record, PE, and which. -/
abbrev Vertex := Nat × Nat × Bool

/-- What consumes an input channel of a PE; an input of a matrix section feeds its leader (R392). -/
def Config.consumers (c : Config) (page pe ch : Nat) : List Vertex :=
  let r := c.page page
  let w := tget 0 r.nodes pe
  let n := nodeFields w
  let op := nodeOp w
  let k := BitVec.ofNat 4 ch
  let node := op != 0 && (n.ina == k || ((usesB op || op == 0x30) && n.inb == k) || (usesC op && n.inc == k))
  let v := tget 0 r.routes pe
  let f := routerFields v
  let rop := bits v 44 4
  let route := rop != 0 &&
    ((!(rop == 6 || rop == 7) && f.ctl == k) || f.ia == k || ((rop == 2 || rop == 4) && f.ib == k) ||
      (rop == 2 && bits f.ob 0 4 == ch))
  (if node then [(page, if op = 0x30 then (nmmaPes r.nodes).headD pe else pe, false)] else []) ++
    (if route then [(page, pe, true)] else [])

/-- The output channels of a vertex. -/
def Config.outsOf (c : Config) (v : Vertex) : BitVec 16 :=
  let r := c.page v.1
  if v.2.2 then routerOuts (tget 0 r.routes v.2.1) else nodeOuts (tget 0 r.nodes v.2.1)

/-- What a vertex feeds through its links. -/
def Config.feeds (c : Config) (v : Vertex) : List Vertex :=
  (maskChans (c.outsOf v)).flatMap fun (k : Fin 16) =>
    match c.linkOf v.1 v.2.1 k.val with
    | some l => match c.target l with
      | some (page, pe, ch) => c.consumers page pe ch
      | none => []
    | none => []

/-- The vertices reached from a list along links, not entering those that `stop` names. -/
def Config.reach (c : Config) (stop : Vertex → Bool) : Nat → List Vertex → List Vertex → List Vertex
  | 0, seen, _ => seen
  | _, seen, [] => seen
  | n + 1, seen, v :: l =>
    if seen.contains v ∨ stop v then c.reach stop n seen l
    else c.reach stop n (v :: seen) (c.feeds v ++ l)

/-- Enough steps for a search of the whole configuration. -/
def Config.fuel (c : Config) : Nat := 4 * (c.links.length + 1) * 2 + 4 * c.links.length + 16

/-- The FORK that feeds an input channel, by page record and PE (R309). -/
def Config.forkOf (c : Config) (page pe ch : Nat) : Option (Nat × Nat) :=
  match c.linkInto page pe ch with
  | some l =>
    let w := tget 0 (c.page l.page).routes l.pe
    if bits w 44 4 = 6 ∧ bit (routerFields w).oa l.ch then some (l.page, l.pe) else none
  | none => none

/-- Whether a vertex has side effects (R309). -/
def Config.sideEffect (c : Config) (v : Vertex) : Bool :=
  let op := nodeOp (tget 0 (c.page v.1).nodes v.2.1)
  (!v.2.2 && (op == 0x21 || op == 0x22 || op == 0x23)) ||
    (maskChans (c.outsOf v)).any fun (k : Fin 16) => match c.linkOf v.1 v.2.1 k.val with
      | some l => l.endpoint.isSome
      | none => false

/-- The vertices with side effects that break the rule of R309 for a CARRY. -/
def Config.carryBreaks (c : Config) (page pe : Nat) : List Vertex :=
  let carry : Vertex := (page, pe, true)
  let f := routerFields (tget 0 (c.page page).routes pe)
  let ctl := c.forkOf page pe f.ctl.toNat
  let exitGate (v : Vertex) : Bool :=
    let w := tget 0 (c.page v.1).routes v.2.1
    v.2.2 && bits w 44 4 == 5 && ctl.isSome && c.forkOf v.1 v.2.1 (routerFields w).ctl.toNat == ctl
  let here (v : Vertex) : Bool := v == carry
  let after := c.reach here c.fuel [] (c.feeds carry)
  let into : List Vertex := match c.linkInto page pe f.ib.toNat with
    | some l => [(l.page, l.pe, false), (l.page, l.pe, true)].filter fun v => bit (c.outsOf v) l.ch
    | none => []
  let body := after.filter fun v => into.contains v || (c.reach here c.fuel [] (c.feeds v)).any into.contains
  let fed := body ++ c.reach here c.fuel [] (body.flatMap c.feeds)
  let open_ := c.reach (fun v => here v || exitGate v) c.fuel [] (c.feeds carry)
  open_.filter fun v => fed.contains v && c.sideEffect v

/-- The causes of the cross-page conditions, with record and PE. R66 names FLAGS bit 0 alone as one; the model judges a second link into
a channel (0x1B), the depth of a MERGE's control link (0x1C) and R309 (0x1D) here too, also within one page, and names for a doubled
channel the source of the later link. A MERGE whose control channel no link enters has no such link to judge.
(DESIGN CHOICE, assumption 29) -/
def crossCauses (c : Config) (flags : Nat) : List (Nat × Nat × Nat) :=
  let matrix := if (flags % 2 == 1) == (c.pages.any (·.matrix)) then [] else [(0x03, 0, 0)]
  let twice := (c.links.zipIdx).filterMap fun (l, n) =>
    match c.target l with
    | some t => if (c.links.take n).any fun m => c.target m == some t then some (0x1B, l.page, l.pe) else none
    | none => none
  let routers := (c.pages.zipIdx).flatMap fun (r, k) => r.routes.map fun (pe, w) => (k, pe, w)
  let merge := routers.filterMap fun (k, pe, w) =>
    let f := routerFields w
    match c.linkInto k pe f.ctl.toNat with
    | some l => if bits w 44 4 = 4 ∧ l.depth < max 1 f.ob.toNat then some (0x1C, k, pe) else none
    | none => none
  let carry := routers.flatMap fun (k, pe, w) =>
    if bits w 44 4 = 2 then (c.carryBreaks k pe).map fun v => (0x1D, v.1, v.2.1) else []
  matrix ++ twice ++ merge ++ carry

/-! ### The whole image (R60, R61, R64, R65) -/

def signatureBytes : Nat := 29792

/-- A door descriptor of the door table (R61). -/
def doorAtOffset (img : List Byte) (o : Nat) : Option Door :=
  let entry := le img o 8
  let reply := le img (o + 9) 1
  let serai := le img (o + 10) 2
  let slots := le img (o + 12) 2
  let stack := le img (o + 16) 4
  if 2 ^ 52 ≤ entry ∨ entry % 4 ≠ 0 ∨ 1 < le img (o + 8) 1 ∨ reply = 0 ∨ 8 < reply ∨ serai = 0 ∨ 64 < serai ∨ slots = 0 ∨ 16 < slots ∨
      le img (o + 14) 2 ≠ 0 ∨ stack % 64 ≠ 0 ∨ 65536 < stack ∨ (part img (o + 20) 12).any (· != 0) then none
  else some { entry := BitVec.ofNat 52 entry, ordered := le img (o + 8) 1 == 1, reply := reply, serai := serai, slots := slots,
              stack := stack }

/-- The cause of a bad header in its first 128 bytes, with the whole image's length at hand (R60, R66). Gaps between the parts of the
image, which the spec does not speak of, draw no cause: DOOROFF above 128, PAGEOFF beyond the door table.
(DESIGN CHOICE, assumption 29) -/
def headerCause (h : List Byte) : Option Nat :=
  let imglen := le h 8 4
  let npage := le h 12 2
  let extw := le h 14 1
  let exth := le h 15 1
  let ndoor := le h 16 2
  let flags := le h 18 2
  let dooroff := le h 24 4
  let pageoff := le h 28 4
  let sigoff := le h 32 4
  if le h 0 4 ≠ 0x46434C50 ∨ le h 4 2 ≠ 1 ∨ le h 6 2 ≠ 128 then some 0x01
  else if le h 124 4 ≠ (crc32c (h.take 124)).toNat then some 0x02
  else if imglen % 8 ≠ 0 ∨ dooroff % 8 ≠ 0 ∨ pageoff % 8 ≠ 0 ∨ sigoff % 8 ≠ 0 ∨ dooroff < 128 ∨ pageoff < dooroff + ndoor * 32 + 8 ∨
      sigoff < pageoff ∨ sigoff + 72 + signatureBytes ≠ imglen ∨ npage = 0 ∨ 900 < npage ∨ extw = 0 ∨ 30 < extw ∨ exth = 0 ∨
      30 < exth ∨ 256 < ndoor ∨ flags / 4 ≠ 0 ∨ (flags / 2 % 2 = 1 ∧ ndoor = 0) ∨ (flags / 2 % 2 = 0 ∧ ndoor ≠ 0) ∨
      15 < le h 20 4 ∨ (part h 36 88).any (· != 0) then some 0x03
  else none

/-- Whether the signature block is accepted with the keys of KEYTAB (R64, R446). (DESIGN CHOICE, assumption 7) -/
def signatureGood (img : List Byte) (sigoff keyidx : Nat) (keytab : Vector (Option (BitVec 256)) 16) : Bool :=
  let key := part img (sigoff + 8) 64
  le img sigoff 4 == signatureBytes && le img (sigoff + 4) 4 == 0 &&
    keytab[fin 16 keyidx] == some (Config.shake256 key) &&
    Config.slhDsaVerify (BitVec.ofNat 512 (le key 0 64)) (img.take sigoff) (part img (sigoff + 72) signatureBytes)

/-- The check of an image whose header is good: the checked copy or the first rejection (R65). (DESIGN CHOICE, assumption 29) -/
def checkImage (img : List Byte) (keytab : Vector (Option (BitVec 256)) 16) : Except Reject Config :=
  let no (c : Nat) : Except Reject Config := .error { cause := c, record := 0, pe := 0 }
  let ndoor := le img 16 2
  let dooroff := le img 24 4
  let sigoff := le img 32 4
  let extw := le img 14 1
  let exth := le img 15 1
  if !signatureGood img sigoff (le img 20 4) keytab then no 0x04
  else if le img (dooroff + ndoor * 32) 4 ≠ (crc32c (part img dooroff (ndoor * 32))).toNat ∨ le img (dooroff + ndoor * 32 + 4) 4 ≠ 0 then
    no 0x05
  else
    let doors := (List.range ndoor).map fun i => doorAtOffset img (dooroff + 32 * i)
    if doors.any (·.isNone) then no 0x05
    else
      match checkPages img sigoff extw exth ndoor (le img 12 2) 0 (le img 28 4) [] with
      | .error r => .error r
      | .ok (pages, links) =>
        let c : Config := { extw := extw, exth := exth, doors := doors.filterMap id, pages := pages, links := links, bytes := le img 8 4 }
        match firstReject (crossCauses c (le img 18 2)) with
        | some r => .error r
        | none => .ok c

end Sys2Proof.Machine
end

