-- ==== Sys2Proof/Machine/Place.lean ====
section
/-!
DEFINITION. Sys2Proof/Machine/Place.lean: pages of instances: the allocator's choice of anchor, placing, saving, restoring, moving
and releasing instances, and their claims on accumulation stores and page tables (R120, R334 to R340, R402, R414, R445).
-/
namespace Sys2Proof.Machine

def State.updInst (s : State) (i : Nat) (f : Inst → Inst) : State :=
  match s.insts[i]? with
  | some x => s.setInst i (f x)
  | none => s

/-- The instances of a slot with their places in the list. -/
def State.instsOf (s : State) (c : Fin 16) (slot : Nat) : List (Nat × Inst) :=
  (s.insts.zipIdx.filter fun e => e.1.ctx = c && e.1.slot = slot).map fun (x, i) => (i, x)

/-- The time a context's sequencer measures waits on (R346, R357). -/
def State.seqTime (s : State) (c : Fin 16) : Word := s.time (keyField (seqKey c))

/-! ### The fabric save pool (R340) -/

def State.poolUsed (s : State) (c : Fin 16) : Nat :=
  (((s.ctx c).slots.toList.filterMap id).map fun g => (g.bytes + 65535) / 65536).sum +
    ((s.insts.filter fun x => x.ctx = c).map (·.poolAt)).sum

/-- Whether the pool of a context has room for so many more units. -/
def State.poolRoom (s : State) (c : Fin 16) (units : Nat) : Bool :=
  bit (s.reg (fsbaseAt c)) 0 && decide (s.poolUsed c + units ≤ bits (s.reg (fssizeAt c)) 0 24)

/-! ### Claims of accumulation slots and page tables (R120, R402, R414) -/

/-- The slots that the matrix sections of an instance name: site and tile slot (R402). -/
def Inst.claims (x : Inst) : List (Nat × Nat) :=
  (x.cfg.pages.zipIdx).filterMap fun (r, n) =>
    match nmmaPes r.nodes with
    | [] => none
    | pe :: _ =>
      let p := (nodeFields (tget 0 r.nodes pe)).param
      some (x.drainSite n p, (drainSlot p).val)

/-- Claims a slot for a context, with its rows and counts as given; what threads had left there, or had on the way there, is lost (R402). -/
def State.claim (s : State) (c : Option (Fin 16)) (e : Nat × Nat) (rows : Vector AccRow 16) (n : Counts) : State :=
  let x := s.site e.1
  let k := fin 4 e.2
  s.setSite e.1 { x with acc := { x.acc with rows := x.acc.rows.set k rows, counts := x.acc.counts.set k n,
                                             claim := x.acc.claim.set k c, queue := x.acc.queue.filter fun ev => ev.slot ≠ k } }

def clearedRows : Vector AccRow 16 := Vector.replicate 16 AccRow.cleared

/-- A slot becomes free and cleared (R414). -/
def State.unclaim (s : State) (e : Nat × Nat) : State := s.claim none e clearedRows Counts.zero

/-- The page copies of a site's tables adopt those that wait (R120). -/
def State.adoptTables (s : State) (n : Nat) : State :=
  let x := s.site n
  s.setSite n { x with pages := Vector.ofFn fun k : Fin 4 => if x.waitPg[k] then x.tables[k] else x.pages[k],
                       waitPg := Vector.replicate 4 false }

/-! ### Free pages and anchors (R335, R445) -/

/-- Whether an instance other than the `but`-th holds the page of a site. -/
def State.pageTaken (s : State) (but : Option Nat) (n : Nat) : Bool :=
  s.insts.zipIdx.any fun (x, i) => but != some i && x.area.contains n

/-- The sites of the positions of an extent at an anchor, in row-major order; none where a position does not exist, is a hole or
is not enabled (R335, R424). -/
def State.extentAt (s : State) (g : Group) (w h lx ly : Nat) : Option (List Nat) :=
  ((List.range (w * h)).mapM fun k => g.position (lx + k % w) (ly + k / w)).bind fun l =>
    if l.all fun n => (s.site n).status == .enabled then some (l.map (·.val)) else none

/-- The free anchors of an extent, lowest row first, with their sites. -/
def State.freeAnchors (s : State) (g : Group) (w h : Nat) (but : Option Nat) : List ((Nat × Nat) × List Nat) :=
  (List.range (g.hgt * g.wid)).filterMap fun k =>
    let lx := k % g.wid
    let ly := k / g.wid
    match s.extentAt g w h lx ly with
    | some l => if l.any (s.pageTaken but) then none else some ((lx, ly), l)
    | none => none

/-- The activity of a field with so many pages newly placed, each counted at the mean of its active pages (R335).
(DEDUCED, assumption 22) -/
def State.activity (s : State) (f new : Nat) : Rat :=
  let act : Rat := if h : f < 8 then (bits s.fields[f].fact 0 10 : Nat) else 0
  let pages := ((s.insts.flatMap (·.area)).filter fun n => siteField n = f).length
  if pages = 0 then act else act + act * (new : Nat) / (pages : Nat)

/-- The largest ratio between the two fields of a row after a placement on sites; `none` stands for no bound. -/
def State.imbalance (s : State) (sites : List Nat) : Option Rat :=
  (List.range 4).foldl
    (fun (m : Option Rat) r =>
      let new (f : Nat) : Nat := (sites.filter fun n => siteField n = f).length
      let a := s.activity (2 * r) (new (2 * r))
      let b := s.activity (2 * r + 1) (new (2 * r + 1))
      let hi := if a < b then b else a
      let lo := if a < b then a else b
      let v : Option Rat := if hi = 0 then some 1 else if lo = 0 then none else some (hi / lo)
      match m, v with
      | none, _ => none
      | _, none => none
      | some x, some y => some (if x < y then y else x)) (some 1)

/-- Whether one imbalance is smaller than another. -/
def lessImbalance (a b : Option Rat) : Bool :=
  match a, b with
  | some x, some y => decide (x < y)
  | some _, none => true
  | none, _ => false

/-- The allocator's choice among the free anchors (R335). -/
def State.chooseAnchor (s : State) (g : Group) (w h : Nat) (but : Option Nat) : Option ((Nat × Nat) × List Nat) :=
  (s.freeAnchors g w h but).foldl
    (fun (b : Option ((Nat × Nat) × List Nat)) e => match b with
      | none => some e
      | some d => if lessImbalance (s.imbalance e.2) (s.imbalance d.2) then some e else some d) none

/-- The key under which the replay log keeps the anchors of an instance, and the logged form of an anchor (R452). -/
def anchorKey (slot num : Nat) : Nat := slot * 1024 + num
def anchorCode (a : Nat × Nat) : Nat := a.1 + 32 * a.2

/-- The anchor a placement takes: in replay the logged one, once its pages are free; else the allocator's choice (R335, R452). -/
def State.pickAnchor (s : State) (c : Fin 16) (key : Nat) (g : Group) (w h : Nat) (but : Option Nat) : Option ((Nat × Nat) × List Nat) :=
  match s.logNext c 1 key with
  | some v => (s.freeAnchors g w h but).find? fun e => anchorCode e.1 == v
  | none => s.chooseAnchor g w h but

/-! ### Placing (R334, R338) -/

/-- The site of each page record of an extent's area. -/
def pageSites (c : Config) (area : List Nat) : List Nat := c.pages.map fun r => area.getD (r.py * c.extw + r.px) 0

/-- The arms of an instance as placed: one for each output endpoint (R341). -/
def freshArms (c : Config) : List Arm := (c.links.filterMap (·.endpoint)).eraseDups.map (Arm.fresh c)

/-- A new instance of a placement (R334, R382). -/
def newInst (c : Fin 16) (p : Placement) (cfg : Config) (num n : Nat) (graph : Option (Fin 4)) (hyp : Handle) : Inst :=
  { ctx := c, slot := p.slot, num := num, uid := n, st := .placing, back := .idle, cfg := cfg, group := 0, version := p.version,
    anchor := (0, 0), sites := [], area := [], graph := graph, hyp := hyp, prio := p.prio, placed := n, pes := [], ports := [],
    secs := [], wires := [], credits := [], arms := freshArms cfg, serais := cfg.doors.map fun _ => seraiFresh, range := none, wt := 0,
    taken := 0, segTiles := 0, segCmd := 0, final := false, retired := false, flags := 0, slots := [], savedAcc := [],
    pend := .none, waited := 0, active := 0, shut := none, shutAt := 0, tabs := [], poolAt := 0, cmdTok := 0, stopped := false,
    passed := true, tape := [] }

/-- The weight of an instance on some sites: the smallest among them (R425). -/
def leastWeight (sites : List Nat) : Nat :=
  let w (n : Nat) : Nat := bits (speedWord n) 8 7
  match sites with
  | [] => 0
  | n :: l => l.foldl (fun m k => min m (w k)) (w n)

/-- An instance takes the pages of an area: its claimed slots are cleared, or restored from its saved state (R402, R414). -/
def State.seat (s : State) (x : Inst) (a : Nat × Nat) (area : List Nat) : State × Inst :=
  let (s, n) := s.tick
  let key := anchorKey x.slot x.num
  let s := (s.logAppend x.ctx (logEntry 1 key (anchorCode a))).logTake x.ctx 1 key
  let x := { x with st := .placing, anchor := a, area := area, sites := pageSites x.cfg area, placed := n,
                    wt := leastWeight (pageSites x.cfg area) }
  let l := x.claims.eraseDups
  let s := (l.zipIdx).foldl
    (fun (s : State) e =>
      let (rows, counts) := x.savedAcc.getD e.2 (clearedRows, Counts.zero)
      s.claim (some x.ctx) e.1 rows counts) s
  (s, { x with slots := l, savedAcc := [], poolAt := 0 })

/-- One more instance of a placement, at the anchor the allocator chooses. -/
def State.placeOne (s : State) (c : Fin 16) (p : Placement) (cfg : Config) (num : Nat) : Option State :=
  match s.pickAnchor c (anchorKey p.slot num) (s.groupAt p.version (s.queueGroup c p.queue)) cfg.extw cfg.exth none with
  | some (a, area) =>
    let (s, n) := s.tick
    let (graph, hyp) : Option (Fin 4) × Handle := match p.stream with
      | .port => (none, 0)
      | .graph g => (some g, match (s.ctx c).graphs[g] with | some r => r.hyp | none => 0)
    let (s, x) := s.seat { newInst c p cfg num n graph hyp with group := s.queueGroup c p.queue } a area
    some { s with insts := s.insts ++ [x] }
  | none => none

/-- As many instances of a placement as can be placed, up to a number, with how many were. -/
def State.placeMany (s : State) (c : Fin 16) (p : Placement) (cfg : Config) (num : Nat) : Nat → State × Nat
  | 0 => (s, 0)
  | n + 1 =>
    match s.placeOne c p cfg num with
    | some s =>
      let r := s.placeMany c p cfg (num + 1) n
      (r.1, r.2 + 1)
    | none => (s, 0)

/-- A placement that can be made now, made: all its instances, or with .P at least one (R334). (DESIGN CHOICE, assumption 30) -/
def State.place (s : State) (c : Fin 16) (k : Nat) (p : Placement) : Option State :=
  match (s.ctx c).slots[fin 8 p.slot] with
  | none => none
  | some cfg =>
    let r := s.placeMany c p cfg 0 p.ninst
    if r.2 = p.ninst ∨ (p.partl ∧ 0 < r.2) then some (r.1.updCtx c fun x => { x with places := dropAt x.places k }) else none

/-- What waits for pages: an SPLC's placement, or a saved instance (R336, R337). -/
inductive Waiting
  | fresh (c : Fin 16) (k : Nat) (p : Placement)
  | saved (i : Nat) (x : Inst)
  deriving DecidableEq, Repr

def State.waiting (s : State) : List Waiting :=
  ((List.finRange 16).flatMap fun c => (s.ctx c).places.zipIdx.map fun (p, k) => Waiting.fresh c k p) ++
    (s.insts.zipIdx.filter fun e => e.1.st == .saved).map fun (x, i) => Waiting.saved i x

/-- A saved instance takes free pages: at its move's anchor, or where the allocator chooses, unless a displaced one finds a waiting
placement of higher priority that can use them (R336, R337). An anchor that no longer exists, since a site of it was retired, gives way
to the allocator's choice. (DESIGN CHOICE, assumption 30) -/
def State.restore (s : State) (i : Nat) (x : Inst) : Option State :=
  let ver := match x.pend with | .move _ => x.version | _ => s.groups.ver
  let g := s.groupAt ver x.group
  let rival : Bool := match x.pend with
    | .none => s.waiting.any fun w => match w with
      | .fresh c k p => decide (x.prio < p.prio) && (s.place c k p).isSome
      | .saved _ _ => false
    | _ => false
  let any := s.pickAnchor x.ctx (anchorKey x.slot x.num) g x.cfg.extw x.cfg.exth (some i)
  let at_ := match x.pend with
    | .move (some (lx, ly)) =>
      match s.extentAt g x.cfg.extw x.cfg.exth lx ly with
      | some l => if l.any (s.pageTaken (some i)) then none else some ((lx, ly), l)
      | none => any
    | _ => any
  if rival ∨ (s.ctx x.ctx).resetting then none
  else at_.map fun (a, area) =>
    let (s, x) := s.seat { x with version := ver } a area
    s.setInst i { x with pend := .none }

def execInstancePlace (k : Nat) (s : State) : Result :=
  match s.waiting[k]? with
  | some (.fresh c j p) => .next (if (s.ctx c).halted ∨ (s.ctx c).resetting then s else (s.place c j p).getD s)
  | some (.saved i x) => .next ((s.restore i x).getD s)
  | none => .next s

/-! ### Releasing and saving (R334, R338, R339, R414) -/

/-- The pages of an instance become free, and their page tables adopt what waits (R120). -/
def State.vacate (s : State) (x : Inst) : State := x.sites.foldl State.adoptTables (x.slots.foldl State.unclaim s)

/-- Whether a transfer or an edge program is bound to an instance; a program that serves a streamer is bound to none (R379). -/
def Xfer.boundTo (t : Xfer) (x : Inst) : Bool := t.ctx = x.ctx && t.slot == x.slot && t.inst == some x.num
def EdgeProg.boundTo (p : EdgeProg) (x : Inst) : Bool :=
  !bit p.words[0] 1 && decide (p.ctx = x.ctx) && p.slot == x.slot && p.inst == x.num

def State.slice (s : State) (pos : Nat) : Slice := tget Slice.reset s.slices pos
def State.setSlice (s : State) (pos : Nat) (v : Slice) : State := { s with slices := tput true s.slices pos v }

/-- The engines of an instance stop: its bound transfers end with their spilled accesses, and its edge programs leave their
slots. (DEDUCED, assumption 38) -/
def State.stopEngines (s : State) (x : Inst) : State :=
  { s with
    streams := s.streams.map fun (k, v) =>
      (k, { v with xfers := v.xfers.filter fun t => !t.boundTo x,
                   spill := v.spill.filter fun e => !(v.xfers.any fun t => t.id = e.xfer && t.boundTo x) }),
    slices := s.slices.map fun (k, v) =>
      (k, { v with progs := v.progs.map fun p => match p with
                     | some q => if q.boundTo x then none else some q
                     | none => none }) }

/-- Releases the i-th instance: its pages are freed and its state is discarded; its slot's windows go with the last one (R334,
R389). -/
def State.release_ (s : State) (i : Nat) : State :=
  match s.insts[i]? with
  | none => s
  | some x =>
    let s := (s.stopEngines x).vacate x
    let s := { s with insts := dropAt s.insts i }
    if (s.instsOf x.ctx x.slot).isEmpty then s.updCtx x.ctx fun c => { c with windows := c.windows.filter fun w => w.slot ≠ x.slot } else s

/-- Releases the instances that satisfy `p`. (DESIGN CHOICE, assumption 30) -/
def State.releaseAll (s : State) (p : Inst → Bool) : Nat → State
  | 0 => s
  | n + 1 =>
    match s.insts.findIdx? p with
    | some i => (s.release_ i).releaseAll p n
    | none => s

/-- An instance begins to be saved, when its state fits in the pool; how much it takes is left open (R339, R340).
(DESIGN CHOICE, assumption 5) (DESIGN CHOICE, assumption 30) -/
def State.beginSave (s : State) (i : Nat) (x : Inst) : State :=
  let (s, v) := s.free
  let units := bits v 0 24
  if s.poolRoom x.ctx units then s.setInst i { x with st := .saving, back := .idle, poolAt := units } else s

/-- The owner nodes' buffers of an instance are written back, as far as version slots allow (R316). -/
def State.ownCleanAll (s : State) (i : Nat) : State :=
  match s.insts[i]? with
  | none => s
  | some x => (List.range x.cfg.pages.length).foldl
    (fun (s : State) page => (List.finRange 4).foldl (fun (s : State) (p : Fin 4) => s.ownClean i page p) s) s

/-- What waits for an idle instance, or the release of a saved one, is carried out once no owner node of it buffers a modified line; an
instance on a retiring site that no free pages can take is shuttered (R316, R336, R337, R338, R344, R357). -/
def State.carryOut (s : State) (i : Nat) : State :=
  match s.insts[i]? with
  | none => s
  | some y =>
    if y.st = .saved ∧ y.pend = .release then s.release_ i
    else if y.st ≠ .idle ∨ y.pend = .none then s
    else
      let s := s.ownCleanAll i
      match s.insts[i]? with
      | none => s
      | some x =>
        if !x.ownIdle then s
        else
          match x.pend with
          | .none => s
          | .release => s.release_ i
          | .retire =>
            if (s.chooseAnchor (s.groupNow x.group) x.cfg.extw x.cfg.exth (some i)).isSome then s.beginSave i x
            else
              let (s, n) := s.tick
              s.setInst i { x with st := .shuttered, back := .idle, shut := some .retire, shutAt := n }
          | .save => s.beginSave i x
          | .move _ => s.beginSave i x

/-- A request for an instance: carried out at once when it is idle, else at its boundary (R338). A release that is already wanted stays
so (R334). -/
def State.request (s : State) (i : Nat) (p : Pending) : State :=
  match s.insts[i]? with
  | none => s
  | some x =>
    (s.setInst i { x with pend := if x.pend = .release then .release else p, waited := s.instTime x }).carryOut i

/-- Whether an event for a claimed slot of an instance still waits at its store (R404, R414). -/
def State.slotEvents (s : State) (x : Inst) : Bool := x.slots.any fun e => (s.accQueue e.1).any fun ev => ev.slot == fin 4 e.2

/-- The state has been streamed out, with every event of its slots applied: the pages are freed, to SAVED (R338, R339, R414). -/
def execInstanceSaveComplete (i : Nat) (s : State) : Result :=
  match s.insts[i]? with
  | some x =>
    if x.st = .saving ∧ !s.slotEvents x then
      let rows := x.slots.map fun e =>
        let a := (s.site e.1).acc
        (a.rows[fin 4 e.2], a.counts[fin 4 e.2])
      let s := s.vacate x
      let s := s.setInst i { x with st := .saved, sites := [], area := [], slots := [], savedAcc := rows,
                                    pend := match x.pend with | .save => .none | p => p }
      .next (if x.pend = .release then s.carryOut i else s)
    else .next s
  | none => .next s

/-- PLACING ends: to IDLE, or to RUN when a segment is pending (R338). -/
def execPlacingComplete (i : Nat) (s : State) : Result :=
  match s.insts[i]? with
  | some x =>
    if x.st = .placing then
      let s := s.setInst i { x with st := x.back, back := .idle, active := s.instTime x, waited := s.instTime x }
      .next (if x.back = .idle then s.carryOut i else s)
    else .next s
  | none => .next s

/-! ### Displacement and compaction (R336) -/

/-- The free pages of a group. -/
def State.freePages (s : State) (g : Group) : Nat :=
  (g.members.filter fun (n : Fin 1024) => (s.site n.val).status == .enabled && !s.pageTaken none n.val).length

/-- Whether a placement that cannot be made finds enough free pages for its instances, or with .P for one (R336). -/
def State.scattered (s : State) (c : Fin 16) (p : Placement) : Bool :=
  match (s.ctx c).slots[fin 8 p.slot] with
  | some cfg => decide ((if p.partl then 1 else p.ninst) * (cfg.extw * cfg.exth) ≤ s.freePages (s.groupAt p.version (s.queueGroup c p.queue)))
  | none => false

/-- Whether an SPLC that cannot place its instances wants pages that an instance of lower priority holds; for compaction one of equal
or lower priority, where its context's hardware compacted when it was asked for and enough pages are free (R336, R441). -/
def State.wanted (s : State) (x : Inst) (strict : Bool) : Bool :=
  s.waiting.any fun w =>
    match w with
    | .fresh c k p =>
      (if strict then decide (x.prio < p.prio) else decide (x.prio ≤ p.prio) && p.cmp && s.scattered c p) &&
        (s.place c k p).isNone &&
        (x.area.any fun n => ((s.groupAt p.version (s.queueGroup c p.queue)).members).contains (fin 1024 n))
    | .saved _ _ => false

/-- Instances of graphs that may be displaced: those of lower priority with no request waiting, the lowest priority first and
then the most recently placed. -/
def State.displaceable (s : State) : Option Nat :=
  ((s.insts.zipIdx.filter fun e => e.1.graph.isSome && e.1.pend == .none && (e.1.st == .run || e.1.st == .idle) && s.wanted e.1 true).foldl
    (fun (b : Option (Inst × Nat)) e => match b with
      | none => some e
      | some d => if e.1.prio < d.1.prio ∨ (e.1.prio = d.1.prio ∧ d.1.placed < e.1.placed) then some e else some d) none).map (·.2)

def execInstanceDisplace (i : Nat) (s : State) : Result :=
  if s.displaceable = some i then .next (s.request i .save) else .next s

/-- Compaction moves an instance to a free anchor lower than its own. -/
def execInstanceCompact (i lx ly : Nat) (s : State) : Result :=
  match s.insts[i]? with
  | some x =>
    let lower := ly < x.anchor.2 ∨ (ly = x.anchor.2 ∧ lx < x.anchor.1)
    let free := ((s.freeAnchors (s.groupNow x.group) x.cfg.extw x.cfg.exth (some i)).head?).map (·.1)
    if x.pend = .none ∧ (x.st = .run ∨ x.st = .idle) ∧ lower ∧ free = some (lx, ly) ∧ s.wanted x false then
      .next ({ s with insts := setAt s.insts i { x with version := s.groups.ver } }.request i (.move (some (lx, ly))))
    else .next s
  | none => .next s

end Sys2Proof.Machine
end

