-- ==== Sys2Proof/Machine/StreamI.lean ====
section
/-!
DEFINITION. Sys2Proof/Machine/StreamI.lean: the graph sequencers: acceptance, start and completion of commands, configuration slots,
placement commands, arms and value tokens, segments and their boundaries, graphs and their ends, and shutters (R67 to R71, R327 to
R347, R355 to R358, R389, R390, R425 to R427).
-/
namespace Sys2Proof.Machine

/-! ### Commands in the sequencer (R67, R70, R327 to R329) -/

/-- An operand field of a command (R67). -/
def Command.field (k : Command) (lo n : Nat) : Nat := bits k.word lo n
def Command.op (k : Command) : Nat := k.field 120 8

/-- A command leaves the accepted ones. -/
def State.dropCommand (s : State) (c : Fin 16) (id : BitVec 32) : State :=
  s.updCtx c fun x => { x with accepted := x.accepted.filter fun k => k.id ≠ id }

def State.updGraph (s : State) (c : Fin 16) (g : Fin 4) (f : Graph → Graph) : State :=
  s.updCtx c fun x => { x with graphs := x.graphs.set g (x.graphs[g].map f) }

/-- A graph stops with a status: the sequencer fetches and starts no further command of it (R329, R346). -/
def State.stopGraph (s : State) (c : Fin 16) (g : Fin 4) (st : Nat) : State :=
  let s := s.updGraph c g fun r => { r with ended := true, status := match r.status with | some v => some v | none => some st }
  s.updCtx c fun x => { x with accepted := x.accepted.filter fun k => k.stream ≠ .graph g ∨ k.begun }

/-- The launch of the stream of a command. -/
def State.streamLaunch (s : State) (c : Fin 16) : Stream → Option Nat
  | .port => none
  | .graph g => ((s.ctx c).graphs[g]).map (·.launch)

/-- SEQ-RSV, or another cause, for the command being started: it has no effect; a graph stops (R70, R329, R363). -/
def State.refuse (s : State) (f : EngineFault) (addr : Word) : State :=
  let k := s.cmd
  let s := s.seqRecord k.ctx (s.streamLaunch k.ctx k.stream) f addr k.id k.hyp k.site k.slot
  let s := s.dropCommand k.ctx k.id
  match k.stream with
  | .port => s
  | .graph g => s.stopGraph k.ctx g 2

def refused (s : State) : Result := .next (s.refuse (engineFault 0x21 0) 0)

/-- Whether every accepted command of a stream has begun, so that its next one is ready. -/
def Ctx.streamReady (x : Ctx) (t : Stream) : Bool := !(x.accepted.any fun k => k.stream == t && !k.begun)

/-- A command is accepted and receives its ID (R67, R327). (DEDUCED, assumption 28) -/
def State.accept (s : State) (c : Fin 16) (k : Command) : State :=
  s.updCtx c fun x => { x with accepted := x.accepted ++ [{ k with id := x.nextId, upTo := s.clock }], nextId := x.nextId + 1 }

/-- The running graph whose command is accepted next: the highest priority, then the one that started first (R327). -/
def State.nextGraph (s : State) (c : Fin 16) : Option (Fin 4 × Graph) :=
  ((List.finRange 4).filterMap fun g => match (s.ctx c).graphs[g] with
    | some r => if !r.ended && r.status.isNone && s.openHyp c r.hyp && (s.ctx c).streamReady (.graph g) then some (g, r) else none
    | none => none).foldl
    (fun (b : Option (Fin 4 × Graph)) e => match b with
      | none => some e
      | some d => if d.2.prio < e.2.prio ∨ (e.2.prio = d.2.prio ∧ e.2.started < d.2.started) then some e else some d) none

/-- The command of a graph program at an address, read whole as committed data (R329). -/
def State.programWord (s : State) (c : Fin 16) (pc : Addr) : Except EngineFault (BitVec 128) :=
  match s.engineWords c pc.toNat 2 with
  | .error e => .error e
  | .ok ws => .ok (BitVec.ofNat 128 ((ws.getD 0 0).toNat + 2 ^ 64 * (ws.getD 1 0).toNat))

/-- Whether a command is a graph's last SSEG (R346). -/
def finalCommand (w : BitVec 128) : Bool := bits w 120 8 == 0x06 && bits w 112 1 == 1

/-- The next command of a graph program is accepted: one that was fetched ahead as it was then, else it is fetched now; a failed fetch
stops the graph (R329, R346). (DEDUCED, assumption 28) -/
def State.fetchCommand (s : State) (c : Fin 16) (g : Fin 4) (r : Graph) : State :=
  match (match r.ahead with | w :: _ => Except.ok w | [] => s.programWord c r.pc) with
  | .error e => (s.seqRecord c (some r.launch) e (r.pc.setWidth 64) 0 r.hyp 0 0).stopGraph c g 2
  | .ok w =>
    let k : Command := { word := w, id := 0, stream := .graph g, hyp := r.hyp, site := 0, slot := 0, begun := false, wrote := false, upTo := 0 }
    let s := if r.ahead.isEmpty then s.askWords (seqKey c) c r.pc.toNat 2 else s
    (s.accept c k).updGraph c g fun r => { r with pc := r.pc + 16, ahead := r.ahead.drop 1, ended := r.ended || finalCommand w }

/-- The sequencer fetches one more command of a graph program ahead, up to four, and none after the last SSEG. A fetch that fails is left
until its command's turn (R329). (DEDUCED, assumption 28) -/
def State.prefetch (s : State) (c : Fin 16) (g : Fin 4) : State :=
  match (s.ctx c).graphs[g] with
  | none => s
  | some r =>
    if r.ended ∨ r.status.isSome ∨ !s.openHyp c r.hyp ∨ (s.ctx c).halted ∨ (s.ctx c).resetting ∨ 4 ≤ r.ahead.length ∨
        r.ahead.any finalCommand then s
    else
      let pc := r.pc + BitVec.ofNat 52 (16 * r.ahead.length)
      match s.programWord c pc with
      | .ok w => (s.askWords (seqKey c) c pc.toNat 2).updGraph c g fun r => { r with ahead := r.ahead ++ [w] }
      | .error _ => s

def execCommandAccept (c : Fin 16) (s : State) : Result :=
  let x := s.ctx c
  if x.halted ∨ x.resetting then .next s
  else
    match x.port with
    | k :: rest =>
      if x.streamReady .port then .next ((s.updCtx c fun x => { x with port := rest }).accept c k)
      else
        match s.nextGraph c with
        | some (g, r) => .next (s.fetchCommand c g r)
        | none => .next s
    | [] =>
      match s.nextGraph c with
      | some (g, r) => .next (s.fetchCommand c g r)
      | none => .next s

/-- The output endpoints of a configuration that a transfer absorbs. -/
def Xfer.sources (t : Xfer) (c : Config) : List Nat :=
  (match t.desc with
  | .copy (.endpoint ep) _ _ _ _ _ _ => [ep]
  | .index _ _ idx data _ _ _ _ iep dep _ _ _ _ _ => (if idx == 0 then [iep] else []) ++ (if data == 0 then [dep] else [])
  | _ => []).filter c.isOutput

/-- Whether a transfer has an endpoint on some side. -/
def Desc.sided : Desc → Bool
  | .copy (.endpoint _) _ _ _ _ _ _ => true
  | .copy _ (.endpoint _) _ _ _ _ _ => true
  | .index _ _ idx data _ _ _ _ _ _ _ _ _ _ _ => idx == 0 || data == 0
  | .drain _ _ _ _ _ _ _ _ _ => true
  | _ => false

/-- The indices that an indexed command works on. -/
def Xfer.cursors (t : Xfer) : List Cursor := t.cur.toList ++ t.redo ++ t.held ++ t.parked

/-- Whether the store has answered the read of a drain (R404); a transfer of another kind posts none. -/
def Desc.answered : Desc → Bool
  | .drain _ _ _ _ rows _ _ _ _ => rows.isSome
  | _ => true

/-- Whether a transfer bound to an instance is not in progress: no access of it is spilled, its store has answered, and it has moved
everything, or it has met every tile of its endpoints that is armed (R344, R369, R404). (DEDUCED, assumption 31) -/
def Xfer.quiet (t : Xfer) (x : Inst) (v : Streamer) : Bool :=
  !(v.spill.any fun e => e.xfer = t.id) && t.desc.answered &&
    (t.spent || (t.desc.sided && ((t.sources x.cfg).isEmpty ||
      (t.part.isEmpty && t.idx.isEmpty && t.cursors.isEmpty && t.mout.isEmpty && (t.sources x.cfg).all fun e => (x.arm e).fed.isEmpty))))

/-- Whether the matrix sections of an instance may still make row-adds without further input: a section has such work, a flit is on its
way, or a node or router can fire (R393, R395, R404). Flits that wait for others of a later segment remain (R344).
(DEDUCED, assumption 31) -/
def Inst.sectionBusy (x : Inst) : Bool :=
  (x.cfg.pages.any (·.matrix)) &&
    (!x.wires.isEmpty || ((List.range x.cfg.pages.length).any fun p => x.sectionSteps p) || x.pes.any fun e => x.stirs (e.1 / 256) (e.1 % 256))

/-- Whether a row-add or a drain's read for a claimed slot of an instance still waits at its store (R404). -/
def State.slotDrains (s : State) (x : Inst) : Bool :=
  x.slots.any fun e => (s.accQueue e.1).any fun ev => ev.slot == fin 4 e.2 && (match ev with
    | .rowAdd _ _ _ _ _ => true
    | .drain _ _ _ => true
    | _ => false)

/-- Whether every engine bound to an instance has drained: its transfers, its programs and its matrix nodes (R185, R404). -/
def State.instDrained (s : State) (x : Inst) : Bool :=
  (s.streams.all fun (_, v) => v.xfers.all fun t => !t.boundTo x || t.quiet x v) &&
    (s.slices.all fun (_, v) => v.progs.toList.all fun p => match p with
      | some q => !q.boundTo x || !q.tile
      | none => true) && !x.sectionBusy && !s.slotDrains x

/-- Whether no port of an instance holds an access in flight or spilled (R321, R344). -/
def Inst.portsIdle (x : Inst) : Bool := x.ports.all fun e => e.2.acc.all fun a => a.hdr || a.done.isSome

/-- Whether every access of a slot's instances has been made: every engine bound to them has drained, no port holds an access, and every
owner node has written back (R182, R185, R316, R345). -/
def State.enginesIdle (s : State) (c : Fin 16) (slot : Nat) : Bool :=
  ((s.instsOf c slot).all fun e => s.instDrained e.2 && e.2.portsIdle && e.2.ownIdle) &&
    !(s.streams.any fun (_, v) => v.queue.any fun k => k.ctx = c && bits k.word 61 1 == 1 && bits k.word 48 3 == slot)

/-- Whether no engine acts for a graph any more: those of its instances have drained, and no transfer of its stream is queued or runs
unbound (R181, R346). -/
def State.graphIdle (s : State) (c : Fin 16) (g : Fin 4) : Bool :=
  (s.insts.all fun x => !(x.ctx = c && x.graph == some g) || s.enginesIdle c x.slot) &&
    !(s.streams.any fun (_, v) => (v.queue.any fun k => k.ctx = c && k.stream == .graph g) ||
      (v.xfers.any fun t => t.ctx = c && t.stream == .graph g && t.inst.isNone))

/-- The accepted commands before one. -/
def Ctx.before (x : Ctx) (id : BitVec 32) : List Command := x.accepted.takeWhile fun k => k.id ≠ id

/-- Whether the stream of a command goes on: no command of a refuted graph starts (R273, R346). -/
def State.streamOpen (s : State) (c : Fin 16) (k : Command) : Bool :=
  match k.stream with
  | .port => true
  | .graph g => match (s.ctx c).graphs[g] with
    | some r => s.openHyp c r.hyp
    | none => true

/-- Whether an accepted command may start now (R67, R327, R345). (DEDUCED, assumption 28) -/
def State.mayStart (s : State) (c : Fin 16) (k : Command) : Bool :=
  let x := s.ctx c
  let l := x.before k.id
  let seg (j : Command) : Bool := j.stream == k.stream && j.op == 0x06
  let drained (slot : Nat) : Bool := match k.stream with
    | .port => true
    | .graph g =>
      !(l.any seg) &&
        (match x.graphs[g] with
         | some r => (match r.curSlot with
           | some old => (k.op == 0x06 && old == slot) || s.enginesIdle c old
           | none => true)
         | none => true)
  !k.begun && !x.halted && !x.resetting && s.streamOpen c k && !(l.any fun j => j.stream == k.stream && !j.begun) &&
    (k.field 119 1 == 0 || l.isEmpty) &&
    (if k.op = 0x06 then drained (k.field 0 3)
     else if k.op = 0x02 ∧ k.field 113 1 = 1 then drained 8
     else true)

/-- Whether a command of a streamer is queued or running (R361, R363). -/
def State.streaming (s : State) (c : Fin 16) (id : BitVec 32) : Bool :=
  s.streams.any fun (_, v) => (v.xfers.any fun t => t.ctx = c && t.cmd = id) || (v.queue.any fun k => k.ctx = c && k.cmd = id)

/-- The conditions of an SSYN (R347). -/
def State.syncReady (s : State) (c : Fin 16) (k : Command) : Bool :=
  let x := s.ctx c
  !((x.before k.id).any fun j => j.stream == k.stream) &&
    (k.field 112 1 == 1 || !(x.queues.any fun l => l.queue.val == k.field 104 8 && decide (l.serial < k.upTo)))

/-- Whether a command that has begun is complete (R328, R363, R378, R411, R428). -/
def State.commandDone (s : State) (c : Fin 16) (k : Command) : Bool :=
  let x := s.ctx c
  let slot := k.field 0 3
  match k.op with
  | 0x02 =>
    if k.field 113 1 = 1 then (s.instsOf c slot).isEmpty
    else !(x.places.any fun p => p.id = k.id) && !((s.instsOf c slot).any fun e => e.2.st == .placing)
  | 0x03 => !((s.instsOf c slot).any fun e => e.2.num == k.field 8 10 &&
      ((match e.2.pend with | .move _ => true | _ => false) || e.2.st == .placing || e.2.st == .saving))
  | 0x06 => !((s.instsOf c slot).any fun e => e.2.segCmd == k.id && !e.2.passed)
  | 0x07 => k.wrote
  | _ => !s.streaming c k.id

/-- The segment to which the token of a graph may pass: it waits at the head of its stream, and only a `.B` may still hold it back
(R67, R345). -/
def State.nextSegment (s : State) (c : Fin 16) (g : Fin 4) : Option Command :=
  let mine := (s.ctx c).accepted.filter fun k => k.stream == .graph g
  match mine.find? fun k => k.op == 0x06 with
  | some k => if k.begun ∨ ((mine.takeWhile fun j => j.id ≠ k.id).any fun j => !j.begun) then none else some k
  | none => none

/-- A slot of a graph whose accesses are not all made. -/
def State.unfinished (s : State) (c : Fin 16) (g : Fin 4) : Option Nat :=
  ((s.insts.filter fun x => x.ctx = c && x.graph == some g).map (·.slot)).find? fun n => !s.enginesIdle c n

/-- The token of a graph passes once every access of the configuration that holds it has been made: to the segment that waits for it
(R182, R345). In a graph in which no segment follows any more, its last one past, it passes on to a configuration whose engines still
have work, and once there is none the drain is dated (R346). -/
def State.noteGraph (s : State) (c : Fin 16) (g : Fin 4) : State :=
  match (s.ctx c).graphs[g] with
  | none => s
  | some r =>
    let s : State := match s.nextSegment c g, r.curSlot with
      | some k, some n => if s.enginesIdle c n then s.updGraph c g fun r => { r with curSlot := some (k.field 0 3) } else s
      | _, _ => s
    let past := r.ended || r.status.isSome || !s.openHyp c r.hyp
    let idle : Bool := match r.curSlot with | some n => s.enginesIdle c n | none => true
    let coming : Bool := (s.ctx c).accepted.any fun k =>
      k.stream == .graph g && k.op == 0x06 && (k.begun || (r.status.isNone && s.openHyp c r.hyp))
    if !past ∨ coming ∨ !idle then s
    else
      match s.unfinished c g with
      | some n => s.updGraph c g fun r => { r with curSlot := some n }
      | none =>
        if r.ended ∧ r.status = none ∧ r.drained = none ∧ s.graphIdle c g then s.updGraph c g fun r => { r with drained := some (s.seqTime c) }
        else s

def State.noteDrain (s : State) (c : Fin 16) : State := (List.finRange 4).foldl (fun (s : State) g => s.noteGraph c g) s

/-- The drains of every context that are over are dated. -/
def State.noteDrains (s : State) : State := (List.finRange 16).foldl State.noteDrain s

/-- The word of an SSYN is written; an address that is not 8-byte aligned cannot be (R330, R347). (DEDUCED, assumption 38) -/
def State.syncWrite (s : State) (c : Fin 16) (k : Command) : Option State :=
  let a := k.field 0 52
  if a = 0 then some s
  else
    match if a % 8 = 0 then s.engineAddress c a false true else .error (engineFault 0x05 0) with
    | .error _ => none
    | .ok pa => some (s.engineWrite (seqKey c) c 0 pa 8 (k.field 64 32))

/-- A command completes: it leaves the sequencer, its graph counts it as executed, and .S sets SQINT.CMD (R328). -/
def State.finish (s : State) (c : Fin 16) (k : Command) : State :=
  let s := s.dropCommand c k.id
  let s := if k.field 118 1 = 1 then s.setReg (sqintAt c) (setBits (s.reg (sqintAt c)) 1 1 1) else s
  let s := match k.stream with
    | .port => s
    | .graph g => s.updGraph c g fun r => { r with last := match r.last with
        | some i => some (if (k.id - i).toNat < 2 ^ 31 then k.id else i)
        | none => some k.id }
  s.noteDrain c

def execCommandComplete (c : Fin 16) (id : BitVec 32) (s : State) : Result :=
  match (s.ctx c).accepted.find? fun k => k.id = id with
  | none => .next s
  | some k =>
    if !k.begun then .next s
    else if k.op = 0x07 ∧ !k.wrote then
      if s.syncReady c k then
        match s.syncWrite c k with
        | some s => .next (s.finish c k)
        | none => .next ({ s with cmd := { ctx := c, id := id, stream := k.stream, hyp := k.hyp, site := k.site, slot := k.slot } }.refuse
            (engineFault 0x21 0) 0)
      else .next s
    else if s.commandDone c k then .next (s.finish c k)
    else .next s

/-! ### SCFG (R332, R333) -/

/-- The bytes of a list of words. -/
def wordBytes (l : List Word) : List Byte := l.flatMap fun w => (List.range 8).map fun i => w.extractLsb' (8 * i) 8

/-- What staging an image comes to: RESULT with cause, record and PE, and the checked copy. The image is read whole, as long as its header
says it is, before the pool is asked and the copy checked (R332). (DESIGN CHOICE, assumption 29) -/
def State.stage (s : State) (c : Fin 16) (img slot : Nat) : Nat × Nat × Nat × Nat × Option Config :=
  let no (r cause record pe : Nat) : Nat × Nat × Nat × Nat × Option Config := (r, cause, record, pe, none)
  if !(s.instsOf c slot).isEmpty then no 2 0 0 0
  else
    match s.engineWords c img 16 with
    | .error e => no 3 e.cause 0 0
    | .ok h =>
      let h := wordBytes h
      let len := le h 8 4
      match s.engineWords c img (max 16 ((len + 7) / 8)) with
      | .error e => no 3 e.cause 0 0
      | .ok l =>
        if !s.poolRoom c ((len + 65535) / 65536) then no 4 0 0 0
        else
          match headerCause h with
          | some cause => no 1 cause 0 0
          | none =>
            match checkImage (wordBytes l) s.keytab with
            | .error r => no 1 r.cause r.record r.pe
            | .ok cfg => (0, 0, 0, 0, some cfg)

def execScfg (_q : CmdQual) (img : BitVec 46) (rpt : BitVec 48) (slot : BitVec 3) (s : State) : Result :=
  let k := s.cmd
  let c := k.ctx
  let r := s.stage c (img.toNat * 64) slot.toNat
  let w0 := flag 63 true ||| field 56 3 r.1 ||| field 40 8 r.2.2.2.1 ||| field 16 16 r.2.2.1 ||| field 0 8 r.2.1
  let s := match r.2.2.2.2 with
    | some cfg => (s.askWords (seqKey c) c (img.toNat * 64) ((cfg.bytes + 7) / 8)).updCtx c fun x =>
      { x with slots := x.slots.set (fin 8 slot.toNat) (some cfg) }
    | none => s
  let s := if r.1 ≠ 0 then s.setReg (ldstatAt c) (flag 63 true ||| field 0 59 (bits w0 0 59)) else s
  let s := match k.stream with
    | .graph g => if r.1 ≠ 0 then s.stopGraph c g 4 else s
    | .port => s
  match s.engineAddress c (rpt.toNat * 16) false true with
  | .ok pa => if s.isLocal pa then .next (s.engineGranules c pa [w0, field 0 32 k.id.toNat]) else refused s
  | .error _ => refused s

/-! ### SPLC and SMOV (R334 to R337) -/

/-- The launch queue whose group and priority a placement command uses, if its operand is allowed (R334). -/
def State.placeQueue (s : State) (queue : BitVec 6) : Option (Fin 64 × Nat) :=
  let k := s.cmd
  match k.stream with
  | .port => some (fin 64 queue.toNat, (s.queuePrio k.ctx (fin 64 queue.toNat)).toNat)
  | .graph g =>
    match (s.ctx k.ctx).graphs[g] with
    | some r => if queue = 0 then some (r.queue, r.prio) else none
    | none => none

/-- Whether `n` of a list of areas, none meeting a used site, can be taken side by side. -/
def packs : List (List Nat) → Nat → List Nat → Bool
  | _, 0, _ => true
  | [], _ + 1, _ => false
  | a :: l, n + 1, used =>
    decide (n ≤ l.length) && ((!(a.any used.contains) && packs l n (a ++ used)) || packs l (n + 1) used)

/-- Whether a placement can never fit its group: the grid is too small, or the instances cannot stand side by side even on a group
without instances (R334, R336). (DESIGN CHOICE, assumption 30) -/
def State.neverFits (s : State) (g : Group) (cfg : Config) (n : Nat) : Bool :=
  !g.en || decide (g.wid < cfg.extw) || decide (g.hgt < cfg.exth) || decide (g.members.length < n * cfg.extw * cfg.exth) ||
    !packs ((({ s with insts := [] } : State).freeAnchors g cfg.extw cfg.exth none).map (·.2)) n []

def execSplc (_q : CmdQual) (partl : Bool) (slot : BitVec 3) (ninst : BitVec 10) (queue : BitVec 6) (s : State) : Result :=
  let k := s.cmd
  let c := k.ctx
  let n := ninst.toNat
  match (s.ctx c).slots[fin 8 slot.toNat], s.placeQueue queue with
  | some cfg, some (q, prio) =>
    let g := s.groupNow (s.queueGroup c q)
    if !(s.instsOf c slot.toNat).isEmpty ∨ n = 0 ∨ 900 < n ∨ s.neverFits g cfg (if partl then 1 else n) then refused s
    else
      let (s, t) := s.tick
      .next (s.updCtx c fun x =>
        { x with places := x.places ++ [{ slot := slot.toNat, ninst := n, partl := partl, queue := q, prio := prio, id := k.id,
                                          stream := k.stream, version := s.groups.ver, made := t, cmp := s.hardware c .cmp }] })
  | _, _ => refused s

/-- Requests the release of every instance of a list of names (R334). -/
def State.releaseEach (s : State) (c : Fin 16) (l : List Nat) : State :=
  l.foldl
    (fun (s : State) uid => match s.insts.findIdx? fun x => x.ctx = c && x.uid == uid with
      | some i => s.request i .release
      | none => s) s

def execSplcU (_q : CmdQual) (_p : Bool) (slot : BitVec 3) (queue : BitVec 6) (s : State) : Result :=
  let c := s.cmd.ctx
  match s.placeQueue queue with
  | some _ => .next (s.releaseEach c ((s.instsOf c slot.toNat).map fun e => e.2.uid))
  | none => refused s

def execSmov (_q : CmdQual) (slot : BitVec 3) (inst : BitVec 10) (lx ly : BitVec 5) (any : Bool) (s : State) : Result :=
  let c := s.cmd.ctx
  match (s.instsOf c slot.toNat).find? fun e => e.2.num == inst.toNat with
  | none => refused s
  | some (i, x) =>
    let g := s.groupNow x.group
    let fits : Bool := if any then lx == 0 && ly == 0
      else match s.extentAt g x.cfg.extw x.cfg.exth lx.toNat ly.toNat with
        | some l => !(l.any (s.pageTaken (some i)))
        | none => false
    if !fits ∨ x.pend = .release then refused s
    else .next ((s.setInst i { x with version := s.groups.ver }).request i (.move (if any then none else some (lx.toNat, ly.toNat))))

/-! ### SARM and SBND (R341, R342) -/

/-- The instances that a command names: one number, or 0x3FF for every instance of the slot. -/
def State.named (s : State) (c : Fin 16) (slot : Nat) (inst : BitVec 10) : List Nat :=
  ((s.instsOf c slot).filter fun e => inst == 0x3FF || e.2.num == inst.toNat).map (·.1)

/-- A command on every named instance; none is refused (R329). -/
def onInsts (slot : BitVec 3) (inst : BitVec 10) (s : State) (f : State → Nat → Inst → State) : Result :=
  let l := s.named s.cmd.ctx slot.toNat inst
  if l.isEmpty then refused s
  else .next (l.foldl (fun (s : State) i => match s.insts[i]? with | some x => f s i x | none => s) s)

def execSarm (_q : CmdQual) (abs : Bool) (ep : BitVec 8) (slot : BitVec 3) (inst : BitVec 10) (count : BitVec 32) (s : State) : Result :=
  onInsts slot inst s fun s i x => s.setInst i (x.setArm { x.arm ep.toNat with next := some (count.toNat, abs), set := true })

/-- Value tokens enter the channel that an input endpoint feeds, as far as it has room (R342). (DEDUCED, assumption 37) -/
def Inst.flushTokens (x : Inst) (ep : Nat) : Nat → Inst
  | 0 => x
  | n + 1 =>
    match (x.arm ep).fed with
    | f :: l => if !x.cfg.isOutput ep && x.feedRoom ep then (((x.setArm { x.arm ep with fed := l }).feed ep f).flushTokens ep n) else x
    | [] => x

/-- The two flits of a value token (R342). -/
def tokenFlits (ety : Nat) (v : Word) : List Flit :=
  [headerFlit (headerWord ety 0 0 0 0) false, dataFlit (field 0 (laneWidth ety) (bits v 0 (laneWidth ety))) 0x08 false]

def execSbnd (_q : CmdQual) (ep : BitVec 8) (slot : BitVec 3) (inst : BitVec 10) (value : BitVec 64) (ety : BitVec 4) (s : State) : Result :=
  match (s.ctx s.cmd.ctx).slots[fin 8 slot.toNat] with
  | none => refused s
  | some cfg =>
    if cfg.isOutput ep.toNat ∨ 8 ≤ ety.toNat then refused s
    else
      onInsts slot inst s fun s i x =>
        s.setInst i ((x.setArm { x.arm ep.toNat with fed := (x.arm ep.toNat).fed ++ tokenFlits ety.toNat value }).flushTokens ep.toNat 2)

def execSbndT (_q : CmdQual) (slot : BitVec 3) (inst : BitVec 10) (page : BitVec 10) (port : BitVec 2) (tag : BitVec 4) (s : State) : Result :=
  match (s.ctx s.cmd.ctx).slots[fin 8 slot.toNat] with
  | none => refused s
  | some cfg =>
    if cfg.pages.length ≤ page.toNat then refused s
    else
      let p := fin 4 port.toNat
      onInsts slot inst s fun s i x => s.setInst i (x.setPort page.toNat p { x.port page.toNat p with btag := tag })

/-! ### Windows and segment boundaries (R344, R389, R390) -/

/-- The granule to which a window's record is written is known by its first word to the loads that observe the record (R31, R390). -/
def State.noteWindow (s : State) (c : Fin 16) (pa : Nat) (w0 : Word) : State :=
  s.updCtx c fun x => { x with notes := (x.notes.filter fun n => n.1 ≠ pa / 16) ++ [(pa / 16, w0.toNat)] }

/-- Each window of a slot is opened once (R390). -/
def State.openWindows (s : State) (c : Fin 16) (slot : Nat) : State :=
  ((s.ctx c).windows.filter fun w => w.slot = slot).foldl
    (fun (s : State) w =>
      let n := w.count + 1
      let s := s.updCtx c fun x => { x with windows := x.windows.map fun v => if v.win = w.win then { v with count := n } else v }
      match s.engineAddress c w.ntf.toNat false true with
      | .ok pa =>
        let (s, t) := s.message (seqKey c) (homeKey (offsetOf pa))
        let w0 : Word := flag 63 true ||| field 32 4 w.win ||| field 0 32 n.toNat
        (s.noteWindow c pa w0).engineGranules c pa [w0, t]
      | .error _ => s.seqRecord c none (engineFault 0x21 0) (w.ntf.setWidth 64) 0 0 0 0) s

/-- An instance has reached the boundary of the SSEG under way; with the last one the windows of its slot are opened (R328, R390). -/
def State.notePassed (s : State) (i : Nat) : State :=
  match s.insts[i]? with
  | none => s
  | some x =>
    let s := s.updInst i fun y => { y with passed := true }
    if (s.instsOf x.ctx x.slot).all (fun e => e.2.passed) then s.openWindows x.ctx x.slot else s

/-- The six actions of an instance at its segment boundary; while a line of an owner node waits for a version slot the first of them is
not over, and the others wait (R262, R344). (DEDUCED, assumption 31) -/
def State.passBoundary (s : State) (i : Nat) : State :=
  let s := s.ownCleanAll i
  match s.insts[i]? with
  | none => s
  | some x =>
    if !x.ownIdle then s
    else
      let s := match x.graph with
        | some g => s.updGraph x.ctx g fun r => { r with flags := r.flags ||| x.flags, tiles := r.tiles + x.segTiles }
        | none => s
      let s := x.sites.foldl State.adoptTables s
      let s := s.updInst i fun y => { y with flags := 0, tabs := [], segTiles := 0, st := if y.st = .run then .idle else y.st,
                                             stopped := y.stopped || !s.openHyp x.ctx x.hyp }
      (s.notePassed i).carryOut i

/-- The conditions of a segment boundary (R344, R404). (DEDUCED, assumption 31) -/
def State.atBoundary (s : State) (x : Inst) : Bool :=
  (x.arms.all fun a => a.armed == 0) && x.portsIdle &&
    (x.serais.all fun v => v.places.all fun p => p.st == .free || p.st == .abandoned) && s.instDrained x

/-- An instance in RUN reaches its boundary. An idle one ends a boundary that waited for a version slot, tries a request again that found
no room, or writes back what its owner nodes have modified since (R316, R340, R344). -/
def execSegmentBoundary (i : Nat) (s : State) : Result :=
  match s.insts[i]? with
  | some x =>
    if (x.st = .run ∧ s.atBoundary x) ∨ (x.st = .idle ∧ !x.passed) then .next (s.passBoundary i)
    else if x.st = .idle then .next (if x.pend = .none then s.ownCleanAll i else s.carryOut i)
    else .next s
  | none => .next s

/-! ### SSEG (R343, R425 to R427) -/

/-- The shares of `N` tiles by weights, in instance order (R426). -/
def shares (total : Nat) (w : List Nat) : List Nat :=
  let sum := w.sum
  let s := w.map fun v => if sum = 0 then 0 else total * v / sum
  let rem := total - s.sum
  let better (i j : Nat) : Bool := decide (w.getD j 0 < w.getD i 0) || (w.getD i 0 == w.getD j 0 && decide (i < j))
  (s.zipIdx).map fun (v, i) => if ((List.range w.length).filter fun j => better j i).length < rem then v + 1 else v

/-- Each instance of a slot gets the contiguous range of its share; one that is saved or moved keeps its weight (R343, R425, R426). -/
def State.makeRanges (s : State) (c : Fin 16) (slot total : Nat) : State :=
  let l := s.instsOf c slot
  let sh := shares total (l.map fun e => e.2.wt)
  (l.zipIdx).foldl
    (fun (s : State) e => s.updInst e.1.1 fun x => { x with range := some ((sh.take e.2).sum, sh.getD e.2 0), taken := 0 }) s

/-- The tiles of the next segment of an instance: t(i) of R343. -/
def Inst.share (x : Inst) (tiles : Nat) : Nat :=
  match x.range with
  | some (_, len) => if tiles = 0 then len - x.taken else min (len - x.taken) tiles
  | none => 0

/-- An instance's arms for a segment of `t` tiles (R341, R343, R413). -/
def Arm.start (a : Arm) (t : Nat) (last : Bool) : Arm :=
  let a := match a.next with | some (n, abs) => { a with factor := n, abs := abs, next := none } | none => a
  let a := match a.editN with | some e => { a with edit := e, editN := none } | none => a
  { a with armed := if a.abs then a.factor else t * a.factor, lastTile := last }

/-- An instance enters its segment (R343); one that is not resident runs when it is placed (R338). -/
def Inst.begin_ (x : Inst) (id : BitVec 32) (t : Nat) (last : Bool) (now : Word) : Inst :=
  let arms := x.arms.map fun a => a.start t last
  let idle := t = 0 ∧ !(arms.any fun a => a.armed != 0)
  let x := { x with arms := arms, taken := x.taken + t, segTiles := t, segCmd := id, final := last, retired := false, active := now,
                    pes := x.pes.map fun e => (e.1, { e.2 with node := { e.2.node with elem := 0, tile := 0 } }), passed := false, tape := [] }
  if idle then x
  else match x.st with
    | .idle => { x with st := .run }
    | _ => { x with back := .run }

/-- Whether every door of a slot's configuration is bound in every instance (R381). -/
def State.doorsBound (s : State) (c : Fin 16) (slot : Nat) : Bool :=
  (s.instsOf c slot).all fun e => e.2.serais.all fun v => v.bound.isSome

def execSseg (_q : CmdQual) (last : Bool) (slot : BitVec 3) (tiles : BitVec 32) (s : State) : Result :=
  let k := s.cmd
  let c := k.ctx
  let n := slot.toNat
  let x := s.ctx c
  let made : Bool := match k.stream with
    | .port => x.portRanges.contains n
    | .graph g => match x.graphs[g] with | some r => r.ranges.contains n | none => false
  let total : Nat := match k.stream with
    | .port => tiles.toNat
    | .graph g => match x.graphs[g] with | some r => r.count | none => 0
  let l := s.instsOf c n
  if l.isEmpty ∨ (l.any fun e => e.2.st == .run || e.2.back == .run) ∨ !s.doorsBound c n ∨
      (k.stream = .port ∧ tiles = 0 ∧ !made) then refused s
  else
    let s := if made then s else s.makeRanges c n total
    let s := match k.stream with
      | .port => s.updCtx c fun x => { x with portRanges := if made then x.portRanges else n :: x.portRanges }
      | .graph g => s.updGraph c g fun r =>
          { r with ranges := if made then r.ranges else n :: r.ranges, curSlot := some n, endSlot := if last then n else r.endSlot }
    let tabs := ((s.ctx c).tables.filter (·.current)).map fun v => (v.tbl, v.serial)
    let s := l.foldl (fun (s : State) e => s.updInst e.1 fun x => { x.begin_ k.id (x.share tiles.toNat) last (s.instTime x) with tabs := tabs }) s
    let zero := (s.instsOf c n).filter fun e => e.2.st != .run && e.2.back != .run
    .next (zero.foldl
      (fun (s : State) e => match s.insts.findIdx? fun x => x.ctx = c && x.uid == e.2.uid with
        | some i => if e.2.st = .idle then s.passBoundary i else s.notePassed i
        | none => s) s)

/-! ### SSYN (R347) -/

def execSsyn (_q : CmdQual) (_n : Bool) (_queue : BitVec 6) (_addr : BitVec 52) (_value : BitVec 32) (s : State) : Result :=
  let c := s.cmd.ctx
  match (s.ctx c).accepted.find? fun k => k.id = s.cmd.id with
  | some k =>
    if s.syncReady c k then
      match s.syncWrite c k with
      | some s => .next (s.updCtx c fun x => { x with accepted := x.accepted.map fun j => if j.id = k.id then { j with wrote := true } else j })
      | none => refused s
    else .next s
  | none => .next s

/-! ### Ends of launches and graphs (R346, R355) -/

/-- The completion record of a launch (R355). -/
def recordWords (l : Launch) (g : Option Graph) (st : Nat) (time : Word) : List Word :=
  let w := l.desc.words
  [ flag 63 true ||| field 16 6 l.queue ||| field 8 2 (bits w[0] 0 2) ||| field 0 8 st,
    match g with | some r => field 0 32 (r.last.getD 0).toNat | none => 0,
    match g with | some r => BitVec.ofNat 64 r.tiles | none => BitVec.ofNat 64 l.good,
    field 0 5 (match g with | some r => bits r.flags 0 5 | none => bits l.flags 0 5),
    time,
    field 0 32 (bits w[2] 0 32),
    field 32 32 l.fcnt ||| field 0 32 l.fseq.toNat,
    0 ]

/-- A launch completes: its record is written, SQINT.CPL is set, and it leaves its queue (R355). -/
def State.completeLaunch (s : State) (c : Fin 16) (l : Launch) (g : Option Graph) (st : Nat) : State :=
  let w := l.desc.words
  let a := bits w[3] 0 52
  let h : Handle := w[2].setWidth 32
  let bad (s : State) : State := s.seqRecord c (some l.id) (engineFault 0x21 0) w[3] 0 h 0 0
  let s :=
    if a = 0 then s
    else
      match if a % 64 = 0 then s.engineAddress c a false true else .error (engineFault 0x05 0) with
      | .ok pa =>
        if s.isLocal pa then
          let (s, t) := s.message (seqKey c) (homeKey (offsetOf pa))
          s.engineGranules c pa (recordWords l g st t)
        else bad s
      | .error _ => bad s
  let s := if bits w[0] 0 2 = 1 ∨ bit w[0] 9 then s.setReg (sqintAt c) (setBits (s.reg (sqintAt c)) 0 1 1) else s
  s.updCtx c fun x => { x with queues := x.queues.filter fun m => m.id ≠ l.id }

/-- A launch that started no graph completes: its status is decided, or every thread of it has ended. -/
def execLaunchComplete (c : Fin 16) (k : Nat) (s : State) : Result :=
  match (s.ctx c).queues[k]? with
  | some l =>
    match l.status with
    | some st => .next (s.completeLaunch c l none st)
    | none =>
      if l.started ∧ bits l.desc.words[0] 0 2 = 0 ∧ l.ended = l.count ∧ l.landed = l.count then
        .next (s.completeLaunch c l none (if l.fault then 2 else 0))
      else .next s
  | none => .next s

/-- The tiles of a segment that is cut short which every input endpoint has admitted (R355). (DEDUCED, assumption 31) -/
def Inst.admitted (x : Inst) : Nat :=
  if x.passed then 0
  else (x.arms.filter fun a => !x.cfg.isOutput a.ep && !a.abs && a.factor != 0).foldl
    (fun n a => min n ((x.segTiles * a.factor - a.armed) / a.factor)) x.segTiles

/-- A graph's record with what the segments of its instances that are cut short have admitted and raised (R287, R355). -/
def State.cutShort (s : State) (c : Fin 16) (g : Fin 4) (r : Graph) : Graph :=
  (s.insts.filter fun x => x.ctx = c && x.graph == some g).foldl
    (fun r x => { r with tiles := r.tiles + x.admitted, flags := r.flags ||| x.flags }) r

/-- A graph ends with a status: its launch completes and its instances are released; none of them acts any more (R346). -/
def State.finishGraph (s : State) (c : Fin 16) (g : Fin 4) (st : Nat) : State :=
  match (s.ctx c).graphs[g] with
  | none => s
  | some r =>
    let s := s.stopGraph c g st
    let s := match (s.ctx c).queues.find? fun l => l.id = r.launch with
      | some l => s.completeLaunch c l (some (s.cutShort c g r)) st
      | none => s
    let mine := (s.insts.filter fun x => x.ctx = c && x.graph == some g).map (·.uid)
    let s : State := { s with insts := s.insts.map fun (x : Inst) =>
      if x.ctx = c ∧ x.graph = some g then { x with graph := none, stopped := true } else x }
    let s := s.updCtx c fun x =>
      { x with graphs := x.graphs.set g none, places := x.places.filter fun (p : Placement) => p.stream ≠ Stream.graph g }
    if st = 5 then s.releaseAll (fun x => x.ctx = c && mine.contains x.uid) s.insts.length else s.releaseEach c mine

/-- Whether the sink of every instance of a slot has retired; a configuration without one waits for none (R305, R346). -/
def State.sinksRetired (s : State) (c : Fin 16) (slot : Nat) : Bool :=
  (s.instsOf c slot).all fun e => e.2.retired || e.2.cfg.sink.isNone

/-- The status with which a graph can end now; whatever it is, a segment under way completes first and the graph's engines drain, so that
every access of the graph comes before its completion record (R181, R273, R346), and every command that has been carried out is counted
as executed (R355). (DEDUCED, assumption 31) -/
def State.graphOver (s : State) (c : Fin 16) (g : Fin 4) (r : Graph) : Option Nat :=
  if ((s.ctx c).accepted.any fun k => k.stream == .graph g && k.begun && (k.op == 0x06 || s.commandDone c k)) || !s.graphIdle c g then none
  else
    match r.status with
    | some st => some st
    | none =>
      if !s.openHyp c r.hyp then some 1
      else if r.ended ∧ r.drained.isSome ∧ s.sinksRetired c r.endSlot then some 0
      else none

def execGraphEnd (c : Fin 16) (g : Fin 4) (s : State) : Result :=
  let s := s.noteDrain c
  match (s.ctx c).graphs[g] with
  | some r =>
    match s.graphOver c g r with
    | some st => .next (s.finishGraph c g st)
    | none => .next s
  | none => .next s

/-- HANGINT of a context in nanoseconds (R359). -/
def State.hangTime (s : State) (c : Fin 16) : Nat := bits (s.reg (hangintAt c)) 0 20 * 1000

def execSinkWaitTimeout (c : Fin 16) (g : Fin 4) (s : State) : Result :=
  let s := s.noteDrain c
  match (s.ctx c).graphs[g] with
  | some r =>
    match r.drained with
    | some t =>
      if r.ended ∧ r.status = none ∧ s.openHyp c r.hyp ∧ s.graphIdle c g ∧ !s.sinksRetired c r.endSlot ∧
          t.toNat + s.hangTime c ≤ (s.seqTime c).toNat then
        .next (s.finishGraph c g 3)
      else .next s
    | none => .next s
  | none => .next s

/-! ### Shutters (R356 to R358) -/

def shutCode : ShutCause → Nat
  | .hang => 1 | .cfgecc => 2 | .boundary => 3 | .retire => 4

/-- The byte of the occupancy map for an input channel (R356). -/
def occupancy (l : List Flit) : Nat := min 127 l.length + (match l with | f :: _ => if f.psn then 128 else 0 | [] => 0)

/-- The occupancy map of an instance (R356). (DESIGN CHOICE, assumption 30) -/
def State.writeMap (s : State) (x : Inst) (cause : ShutCause) : State :=
  let m := s.reg (shmapAt x.ctx)
  if !bit m 0 then s
  else
    let base := s.localPa (bits m 12 40 * 4096)
    let size := bits m 1 11 * 4096
    let (s, t) := s.message (seqKey x.ctx) (homeKey (offsetOf base))
    let n := x.cfg.pages.length
    let w0 : Word := field 0 8 x.slot ||| field 16 16 x.num ||| field 32 8 (shutCode cause) ||| field 48 16 n
    let s := s.writeWords x.ctx base ([w0, t] ++ List.replicate 6 0)
    (List.range n).foldl
      (fun (s : State) page =>
        if 64 + 4096 * (page + 1) ≤ size then
          let words := (List.range 512).map fun k =>
            let ins := (x.peAt page (k / 2)).ins
            BitVec.ofNat 64 ((List.range 8).foldl (fun a j => a + occupancy (ins[fin 16 (k % 2 * 8 + j)]) * 256 ^ j) 0)
          s.writeWords x.ctx (base + 64 + 4096 * page) words
        else s) s

/-- An instance is frozen with a cause (R356, R357). -/
def State.shutter (s : State) (i : Nat) (cause : ShutCause) : State :=
  match s.insts[i]? with
  | none => s
  | some x =>
    let (s, n) := s.tick
    let s := if cause = .hang then s.writeMap x cause else s
    s.setInst i { x with st := .shuttered, back := if x.st = .run then .run else .idle, shut := some cause, shutAt := n }

/-- RESUME: the instance leaves SHUTTERED for the state it left; after RETIRE the move is tried again (R358). -/
def State.shutResume (s : State) (i : Nat) (withdraw : Bool) : State :=
  match s.insts[i]? with
  | none => s
  | some x =>
    if x.st = .shuttered then
      let retry := x.shut = some .retire
      let s := s.setInst i { x with st := x.back, back := .idle, shut := none, active := s.instTime x, waited := s.instTime x,
                                    pend := if withdraw then .none else x.pend }
      if retry then s.request i .retire else if x.back = .idle then s.carryOut i else s
    else s

/-- An instance's graph ends as DISCARDED; an instance of the port stream is released alone (R358, R388). -/
def State.discardInst (s : State) (i : Nat) (x : Inst) : State :=
  match x.graph with
  | some g => s.finishGraph x.ctx g 5
  | none => s.release_ i

/-- DISCARD of a shutter (R358). -/
def State.shutDiscard (s : State) (i : Nat) : State :=
  match s.insts[i]? with
  | none => s
  | some x => if x.st = .shuttered then s.discardInst i x else s

/-- Whether every record of the staged copy behind an instance still has its CRC-32C (R358). -/
def State.stagedGood (s : State) (x : Inst) : Bool :=
  match (s.ctx x.ctx).slots[fin 8 x.slot] with
  | some cfg => cfg.pages.all fun p => p.good
  | none => false

/-- One more reload after a configuration-memory error (R359). -/
def State.countReload (s : State) (c : Fin 16) : State := s.updCtx c fun x => { x with cecnt := min 4294967295 (x.cecnt + 1) }

/-- RELOAD: the page records are written again from the staged copy when each still has its CRC; else DISCARD (R358). -/
def State.shutReload (s : State) (i : Nat) : State :=
  match s.insts[i]? with
  | none => s
  | some x =>
    if x.st = .shuttered then
      if s.stagedGood x then
        (if x.shut = some .cfgecc then s.countReload x.ctx else s).shutResume i false
      else s.shutDiscard i
    else s

/-- Whether an instance is idle in the sense of the hang monitor: no port waits for RETRY or DISCARD and no ticket's thread lives
(R356). -/
def Inst.monitored (x : Inst) : Bool :=
  !(x.ports.any fun e => e.2.flt) && !(x.serais.any fun v => v.places.any fun p => p.st == .running)

/-- Whether a flit remains in a channel, the way to an endpoint and the accesses that wait in a port included, or an armed count remains
unmet: a port whose accesses wait for one another for ever is hung (R320, R356). -/
def Inst.unfinished (x : Inst) : Bool :=
  (x.arms.any fun a => a.armed != 0 || !a.fed.isEmpty) || (x.ports.any fun e => !e.2.acc.isEmpty) ||
    (x.pes.any fun e => e.2.ins.toList.any fun l => !l.isEmpty) || !x.wires.isEmpty

def execHangDetect (i : Nat) (s : State) : Result :=
  match s.insts[i]? with
  | some x =>
    if x.st = .run ∧ x.monitored ∧ x.unfinished ∧ x.active.toNat + s.hangTime x.ctx ≤ (s.instTime x).toNat then
      let s := s.shutter i .hang
      .next (if s.hardware x.ctx .hang then s.shutDiscard i else s)
    else .next s
  | none => .next s

def execBoundaryShutter (i : Nat) (s : State) : Result :=
  match s.insts[i]? with
  | some x =>
    if x.st = .run ∧ x.pend ≠ .none ∧ x.waited.toNat + s.hangTime x.ctx ≤ (s.instTime x).toNat then
      let s := s.shutter i .boundary
      .next (if s.hardware x.ctx .hang then s.shutResume i true else s)
    else .next s
  | none => .next s

/-- An uncorrectable configuration-memory error in a page of an instance: CFGECC, resolved at once by RELOAD in every mode. An instance
that is being placed or saved, or that an earlier shutter has frozen, stays as it is with its page records written again (R357, R358).
(DEDUCED, assumption 49) -/
def execCfgeccError (i page : Nat) (s : State) : Result :=
  match s.insts[i]? with
  | some x =>
    if x.area.isEmpty ∨ x.cfg.pages.length ≤ page then .next s
    else if x.st = .run ∨ x.st = .idle then .next ((s.shutter i .cfgecc).shutReload i)
    else .next (if s.stagedGood x then s.countReload x.ctx else s.discardInst i x)
  | none => .next s

end Sys2Proof.Machine
end

