-- ==== Sys2Proof/Machine/Spill.lean ====
section
/-!
DEFINITION. Sys2Proof/Machine/Spill.lean: the element accesses of streamer transfers: their checks, the spill queue with its
records, page fills, and RETRY and DISCARD (R361, R364 to R367).
-/
namespace Sys2Proof.Machine

/-! ### Transfers and their instances (R361) -/

def State.updXfer (s : State) (pos id : Nat) (f : Xfer → Xfer) : State :=
  let v := s.streamer pos
  s.setStreamer pos { v with xfers := v.xfers.map fun t => if t.id = id then f t else t }

/-- The instance that a transfer is bound to. -/
def State.xferInst (s : State) (t : Xfer) : Option (Nat × Inst) :=
  match s.insts.findIdx? t.boundTo with
  | some i => (s.insts[i]?).map fun x => (i, x)
  | none => none

/-- Whether a transfer moves: an unbound one, or one whose instance acts (R338, R356). -/
def State.xferActs (s : State) (t : Xfer) : Bool :=
  t.inst.isNone || (match s.xferInst t with | some (_, x) => s.engineActs x | none => false)

/-- The launch whose completion record counts a transfer's faults (R355). -/
def State.xferLaunch (s : State) (t : Xfer) : Option Nat :=
  match s.xferInst t with
  | some (_, x) => s.instLaunch x
  | none => s.streamLaunch t.ctx t.stream

/-- Whether a transfer waits for a spilled read. -/
def State.xferHeld (s : State) (pos : Nat) (t : Xfer) : Bool := (s.streamer pos).spill.any fun e => e.xfer = t.id && e.hold

/-! ### Records (R365) -/

/-- Bytes of an element as a streamer moves it: W19 in 8-byte words of three elements (R370). -/
def unitBits (ety : Nat) : Nat := if ety = 10 then 64 else laneWidth ety
def unitBytes (ety : Nat) : Nat := unitBits ety / 8
def unitLanes (ety : Nat) : Nat := 64 / unitBits ety

/-- The record of a streamer. (DEDUCED, assumption 41) -/
def xferRecord (s : State) (pos : Nat) (t : Xfer) (cause : Nat) (addr : Word) (elem tile : Nat) (write : Bool)
    (expt fndt : BitVec 4) : Record :=
  { addr := addr, tid := 0, insn := t.cmd, cause := BitVec.ofNat 8 cause, src := 3, ctx := t.ctx, expt := expt, fndt := fndt,
    hyp := BitVec.ofNat 8 (hypNum t.hyp), site := BitVec.ofNat 10 (edgeSite pos), unit := BitVec.ofNat 8 pos, lane := 0,
    elem := BitVec.ofNat 64 elem, time := 0,
    pc := field 32 32 tile ||| flag 8 write ||| field 0 8 (s.streamer pos).spill.length, detail := t.daddr, seq := 0 }

/-- The spilled access joins the queue; the first of its context since the last resolution writes a record (R365).
(DEDUCED, assumption 41) -/
def State.spillElem (s : State) (pos : Nat) (t : Xfer) (e : Spill) (f : Option EngineFault) : State :=
  let v := s.streamer pos
  let s := s.setStreamer pos { v with spill := v.spill ++ [e] }
  match f with
  | none => s
  | some f =>
    if v.flt.any fun k => k.1 = t.ctx then s
    else
      let q : Fin 3 := if f.cause = 9 ∨ f.cause = 10 then 0 else 2
      let r := s.asyncRecord (s.xferLaunch t) (siteKey (edgeSite pos)) q
        (xferRecord s pos t f.cause (withTop 0 (bits e.va 0 52)) e.elem e.tile e.write f.expt f.fndt)
      let v := r.1.streamer pos
      r.1.setStreamer pos { v with flt := v.flt ++ [(t.ctx.val, r.2.seq)] }

/-! ### Checks (R364) -/

/-- The handle under which an access is made: a read of committed data is made under none (R374). -/
def Spill.under (e : Spill) (h : Handle) : Handle := if e.comm then 0 else h

/-- Whether a participant's rank is a hole now (R420, R429). -/
def State.isHole (s : State) (p : Participant) : Bool :=
  p.rank && (match p.site with
    | none => true
    | some n => (s.site n).status == .retired || (match s.retire with | some r => r.begun && r.site == n | none => false))

/-- The checks of an element access of a streamer: a participant whose rank is a hole when the access is made, as a retried one is now,
fails with ACCESS (R364, R420, R429). -/
def State.elemCheck (s : State) (pos : Nat) (t : Xfer) (e : Spill) : Except EngineFault Nat :=
  if bits e.va 0 52 % e.align ≠ 0 then .error (engineFault 0x05 0)
  else if e.part.any s.isHole then .error (engineFault 0x0C 0)
  else s.enginePointer t.ctx (e.under t.hyp) e.va (if e.write then 2 else 1) (!e.write) e.write (some (fin 128 pos))

/-- The page-table entry whose hardware fill an access to a page waits for (R154). -/
def State.fillWanted (s : State) (c : Fin 16) (va : Nat) : Nat → Nat → Nat → Option Nat
  | 0, _, _ => none
  | n + 1, level, table =>
    match s.walkStep c level (s.walkRead level table va) with
    | .table pa => s.fillWanted c va n (level + 1) pa
    | .fill => if s.fillOpen c then some (walkEntry level table va) else none
    | _ => none

/-- What comes of an attempt at an access: it may go on at a physical address, it has been spilled, or it waits. -/
inductive Try
  | ok (pa : Nat)
  | spilled (s : State)
  | wait (s : State)

/-- Whether a write under a hypothesis waits for a version slot (R262). -/
def State.versionWait (s : State) (c : Fin 16) (h : Handle) (pa : Nat) : Bool :=
  s.localHbm pa && hypNum h != 0 && s.openHyp c h && (s.version c (offsetOf pa / 64) h).isNone && !s.versionRoom (offsetOf pa / 64)

/-- The transfer waits for a hardware fill of a page (R154, R364). -/
def State.awaitFill (s : State) (pos : Nat) (t : Xfer) (k : Nat) (va : Nat) : State :=
  (s.updCtx t.ctx fun x => { x with fills := if x.fills.any fun f => f.1 = k then x.fills else x.fills ++ [(k, va / 65536 * 65536)] }).updXfer
    pos t.id fun t => { t with fillAt := some k }

/-- The fill that an access failing with a page fault waits for, unless its transfer's fill has failed. -/
def State.fillFor (s : State) (t : Xfer) (va : Nat) (f : EngineFault) : Option Nat :=
  if f.cause = 9 ∧ !t.nofill then s.fillWanted t.ctx va 4 0 (bits (s.reg (cxrootAt t.ctx)) 16 36 * 65536) else none

/-- A failed request of any kind marks its module unreachable (R437). -/
def State.failRoute (s : State) (m : Nat) : State := s.setRegBits (rtmapAt m) 63 1 1

/-- The streamer's failed request has been reported (R437). -/
def State.answered (s : State) (pos : Nat) : State := { s with silent := s.silent.filter fun p => p.val ≠ pos }

/-- Whether an access has to stay behind a spilled one of its transfer: it overlaps its bytes, or it writes bytes that the spilled read
will be written to (R365, R367). -/
def Spill.behind (e d : Spill) : Bool :=
  let meets (p : Word) : Bool := decide (bits p 0 52 < bits e.va 0 52 + e.size) && decide (bits e.va 0 52 < bits p 0 52 + d.size)
  d.xfer == e.xfer && (meets d.va || (e.write && !d.write && !d.hold && !d.feed && meets d.next))

/-- Tries an element access: behind a spilled one that it overlaps it is spilled without a record; a failed check spills it, or
starts a page fill; a remote one that gets no response is spilled with ROUTE (R437); with a full queue it waits (R364, R365). -/
def State.tryElem (s : State) (pos : Nat) (t : Xfer) (e : Spill) : Try :=
  let v := s.streamer pos
  if 64 ≤ v.spill.length then .wait s
  else if v.spill.any e.behind then .spilled (s.spillElem pos t e none)
  else
    match s.elemCheck pos t e with
    | .ok pa =>
      if !s.isLocal pa ∧ s.silent.any (fun p => p.val = pos) then
        .spilled ((s.failRoute (pa / 2 ^ 41)).spillElem pos t e (some (engineFault 0x2B 0)) |>.answered pos)
      else if e.write ∧ s.versionWait t.ctx (e.under t.hyp) pa then .wait s
      else .ok pa
    | .error f =>
      match s.fillFor t (bits e.va 0 52) f with
      | some k => .wait (s.awaitFill pos t k (bits e.va 0 52))
      | none => .spilled ((s.spillElem pos t e (some f)).updXfer pos t.id fun t => { t with nofill := false })

/-- Whether the hardware fill that a transfer waits for is still under way. -/
def State.filling (s : State) (t : Xfer) : Bool :=
  match t.fillAt with
  | some k => (s.ctx t.ctx).fills.any fun f => f.1 = k
  | none => false

/-- The table version that serves a transfer: the one its instance's segment binds, or the one bound at start (R376). -/
def State.tableFor (s : State) (t : Xfer) (tbl : Nat) : Option TableVer :=
  let serial : Option Nat := match t.inst with
    | none => some t.version
    | some _ => match s.xferInst t with
      | some (_, x) => (x.tabs.find? fun v => v.1 == tbl).map (·.2)
      | none => none
  match serial with
  | some n => (s.ctx t.ctx).tables.find? fun v => v.tbl == tbl && v.serial == n
  | none => none

/-- The element type of the data that a transfer moves. -/
def State.elemType (s : State) (t : Xfer) : Nat :=
  match t.desc with
  | .copy _ _ ety _ _ _ _ => ety
  | .index op _ _ _ ety _ _ tbl _ _ _ _ _ _ _ => if op = 0x13 ∨ op = 0x14 then (match s.tableFor t tbl with | some v => v.ety.toNat | none => 0) else ety
  | .migrate tbl _ _ _ _ _ _ => match (s.ctx t.ctx).tables.find? fun v => v.tbl == tbl && v.serial == t.version with
    | some v => v.ety.toNat
    | none => 0
  | .reduce _ _ ety _ _ _ => ety
  | .collect _ _ ety _ _ => ety
  | .drain _ _ _ _ _ _ _ _ _ => 0

/-- Bytes as a writer of an element type writes them: bits 63:57 of each W19 word are zero (R115). -/
def cleanBytes (ety n v : Nat) : Nat :=
  if ety = 10 then (List.range (n / 8)).foldl (fun a k => a + v / 2 ^ (64 * k) % 2 ^ 57 * 2 ^ (64 * k)) 0 else v

/-- A streamer access that has passed its checks has its translation in the streamer's cache (R364), and within the module it hits
context-scope watchpoints (R148, R168). -/
def State.elemTouch (s : State) (pos : Nat) (t : Xfer) (e : Spill) (pa : Nat) : State :=
  let u := s.keepTranslation (fin 128 pos) t.ctx (bits e.va 0 52)
  if !s.isLocal pa then u
  else u.touch
    { ctx := t.ctx, core := none, who := none, va := bits e.va 0 52, len := e.size, rd := !e.write, wr := e.write, tg := false,
      rec_ := xferRecord s pos t 0x12 (withTop 0 (bits e.va 0 52)) e.elem e.tile e.write 0 0 }

/-- The value of an element read at a physical address. -/
def State.elemRead (s : State) (pos : Nat) (t : Xfer) (e : Spill) (pa : Nat) : State × Nat :=
  let s := (s.elemTouch pos t e pa).engineAsk (streamKey pos) pa
  let v := if e.comm then s.readHome 0 0 pa e.size else s.readHome t.ctx t.hyp pa e.size
  (if s.localHbm pa then s.touchLlc (offsetOf pa / 64) false else s, v)

/-- A checked write performs: its bytes, or a poison mark (R162, R366, R371). -/
def State.elemWrite (s : State) (pos : Nat) (t : Xfer) (e : Spill) (pa : Nat) : State :=
  let s := s.elemTouch pos t e pa
  let h := e.under t.hyp
  if e.psn then (s.enginePost (streamKey pos) pa).poisonGranule t.ctx h pa
  else s.engineWrite (streamKey pos) t.ctx h pa e.size (if e.comm then e.data else cleanBytes (s.elemType t) e.size e.data)

/-- What comes of a step of a transfer: it has moved on, or it waits in a state. -/
inductive Moved
  | yes (s : State)
  | no (s : State)

/-- Writes an element, or spills the write. -/
def State.putElem (s : State) (pos : Nat) (t : Xfer) (e : Spill) : Moved :=
  match s.tryElem pos t e with
  | .ok pa => .yes (s.elemWrite pos t e pa)
  | .spilled s => .yes s
  | .wait s => .no s

/-- The write that follows a read whose side is memory. -/
def Spill.follow (e : Spill) (data : Nat) (psn : Bool) : Spill :=
  { e with va := e.next, write := true, data := data, psn := psn, next := 0, hold := false, part := e.partN, partN := none }

/-- Moves an element from memory to memory: both accesses perform, or one of them is spilled. -/
def State.moveElem (s : State) (pos : Nat) (t : Xfer) (e : Spill) : Moved :=
  match s.tryElem pos t e with
  | .ok pa =>
    let r := s.elemRead pos t e pa
    match r.1.putElem pos t (e.follow r.2 false) with
    | .yes s => .yes s
    | .no s' => .no { s with ctxs := s'.ctxs, streams := s'.streams }
  | .spilled s => .yes s
  | .wait s => .no s

/-! ### Migration chunks (R377) -/

/-- The bytes of the chunk of a row that starts at byte `k`: within one granule on both sides. -/
def chunkSize (old dst : Word) (len k : Nat) : Nat :=
  min (min (16 - (bits old 0 52 + k) % 16) (16 - (bits dst 0 52 + k) % 16)) (len - k)

/-- A pointer moved on by some bytes, within its bits 51:0 (R371). -/
def stepPtr (p : Word) (k : Int) : Word := withTop p ((((bits p 0 52 : Nat) : Int) + k) % 2 ^ 52).toNat

/-- The read of a chunk of a migration, which waits when it is spilled. -/
def chunkRead (t : Xfer) (old dst : Word) (len align : Nat) : Spill :=
  { ctx := t.ctx, xfer := t.id, elem := t.at_, tile := 0, va := stepPtr old t.at_, size := chunkSize old dst len t.at_, align := align,
    write := false, data := 0, psn := false, next := stepPtr dst t.at_, hold := true, part := none, partN := none, upd := none,
    feed := false, key := 0, comm := false }

/-! ### Updates (R373) -/

/-- An element of a transfer at a pointer. -/
def Xfer.elem (t : Xfer) (elem tile : Nat) (p : Word) (size : Nat) (write : Bool) (next : Word) (hold : Bool) : Spill :=
  { ctx := t.ctx, xfer := t.id, elem := elem, tile := tile, va := p, size := size, align := size, write := write, data := 0,
    psn := false, next := next, hold := hold, part := none, partN := none, upd := none, feed := false, key := 0, comm := false }

/-- The reduction error log entry of an update that is dropped (R207, R373). (DEDUCED, assumption 39) -/
def State.logUpdate (s : State) (pos : Nat) (t : Xfer) (p : Word) (operand : Word) (op : AtomOp) (cause found size : Nat) : State :=
  s.logReduction t.ctx (field 60 4 (bits p 60 4) ||| field 0 52 (bits p 0 52)) operand 0
    (logWord3 cause found t.hyp 2 (aopCode op) (size == 8) (edgeSite pos) 0)

/-- Applies an update at its home, and drops it under a refuted hypothesis. -/
def State.applyUpdate (s : State) (t : Xfer) (pa : Nat) (op : AtomOp) (size : Nat) (operand : Word) : State :=
  if s.localHbm pa ∧ hypNum t.hyp ≠ 0 ∧ !s.openHyp t.ctx t.hyp then s
  else (s.applyAtom t.ctx t.hyp pa op (if size = 8 then .d else .w) operand.toNat 0).1

/-- The migrations that have already copied the bytes at a pointer: where an update is applied again (R377). -/
def State.forwardTo (s : State) (t : Xfer) (p : Word) : Option Word :=
  s.streams.findSome? fun (_, v) => v.xfers.findSome? fun m =>
    match m.desc with
    | .migrate _ _ _ old dst _ _ =>
      let o := bits old 0 52
      if m.ctx = t.ctx ∧ o ≤ bits p 0 52 ∧ bits p 0 52 < o + m.at_ then some (stepPtr dst ((bits p 0 52 - o : Nat))) else none
    | _ => none

/-- An update of an element: behind a spilled access that it overlaps it is spilled without a record (R365); checked, applied at its
home, and again at the new place of a row that is migrating (R377); an update that fails, or that gets no response over Route, is logged
and dropped (R373, R437). With a full spill queue, or while a version slot is missing, it waits (R262, R365). -/
def State.tryUpdate (s : State) (pos : Nat) (t : Xfer) (e : Spill) (op : AtomOp) : Moved :=
  let operand := BitVec.ofNat 64 e.data
  let check (s : State) (p : Word) : Except EngineFault Nat :=
    if bits p 0 52 % e.size ≠ 0 then .error (engineFault 0x05 0) else s.enginePointer t.ctx t.hyp p 2 true true (some (fin 128 pos))
  let unheard (s : State) (pa : Nat) : Bool := !s.isLocal pa && s.silent.any fun p => p.val == pos
  let lose (s : State) (p : Word) (pa : Nat) : State :=
    ((s.failRoute (pa / 2 ^ 41)).logUpdate pos t p operand op 0x2B 0 e.size).answered pos
  if 64 ≤ (s.streamer pos).spill.length then .no s
  else if (s.streamer pos).spill.any e.behind then .yes (s.spillElem pos t e none)
  else
    match check s e.va with
    | .error f =>
      match s.fillFor t (bits e.va 0 52) f with
      | some k => .no (s.awaitFill pos t k (bits e.va 0 52))
      | none => .yes ((s.logUpdate pos t e.va operand op f.cause f.fndt.toNat e.size).updXfer pos t.id fun t => { t with nofill := false })
    | .ok pa =>
      if unheard s pa then .yes (lose s e.va pa)
      else if s.versionWait t.ctx t.hyp pa then .no s
      else
        let u := ((s.elemTouch pos t e pa).engineAsk (streamKey pos) pa).applyUpdate t pa op e.size operand
        match s.forwardTo t e.va with
        | none => .yes u
        | some q =>
          match check u q with
          | .ok pa =>
            if unheard u pa then .yes (lose u q pa)
            else if u.versionWait t.ctx t.hyp pa then .no s
            else .yes ((u.engineAsk (streamKey pos) pa).applyUpdate t pa op e.size operand)
          | .error f => .yes (u.logUpdate pos t q operand op f.cause f.fndt.toNat e.size)

/-- The update of an element for the index of an ordinal. -/
def State.updateAt (s : State) (pos : Nat) (t : Xfer) (n : Nat) (p : Word) (op : AtomOp) (size : Nat) (operand : Word) : Moved :=
  s.tryUpdate pos t { t.elem n t.tiles p size true 0 false with data := operand.toNat, upd := some op } op

/-! ### RETRY and DISCARD (R324, R366) -/

/-- An index that waited for a read is taken up again, with the read or without it (R365). -/
def Xfer.wakeCursor (t : Xfer) (e : Spill) (lost : Bool) : Xfer :=
  match takeFirst (fun c => c.at_ == e.elem && c.sub == e.key) t.parked with
  | some (c, l) => { t with parked := l, redo := t.redo ++ [{ c with lost := lost }] }
  | none => { t with lost := t.lost || lost }

/-- RETRY of one entry taken from the queue. (DEDUCED, assumption 41) -/
def State.retrySpill (s : State) (pos : Nat) (e : Spill) : State :=
  match (s.streamer pos).xfers.find? fun t => t.id = e.xfer with
  | none => s
  | some t =>
    let put (s : State) : State := s.setStreamer pos { s.streamer pos with spill := (s.streamer pos).spill ++ [e] }
    match e.upd with
    | some op =>
      match s.tryUpdate pos t e op with
      | .yes s => s
      | .no s => put s
    | none =>
    if e.hold then
      match s.tryElem pos t e with
      | .ok _ => s.updXfer pos t.id fun t => t.wakeCursor e false
      | .spilled s => s
      | .wait s => put s
    else if e.feed then
      match s.tryElem pos t e with
      | .ok pa =>
        let r := s.elemRead pos t e pa
        r.1.updXfer pos t.id fun t => { t with ahead := t.ahead ++ [(e.key, some (BitVec.ofNat 64 r.2))] }
      | .spilled s => s
      | .wait s => put s
    else
      match if e.write then s.putElem pos t e else s.moveElem pos t e with
      | .yes s => s
      | .no s => put s

/-- RETRY of a context's entries, oldest first. -/
def State.streamRetry (s : State) (pos : Nat) (c : Fin 16) : State :=
  let v := s.streamer pos
  let mine := v.spill.filter fun e => e.ctx = c
  if mine.isEmpty then s
  else
    let s := s.setStreamer pos { v with spill := v.spill.filter (fun e => e.ctx ≠ c), flt := v.flt.filter fun k => k.1 ≠ c }
    mine.foldl (fun (s : State) e => s.retrySpill pos e) s

/-- DISCARD of one entry taken from the queue: a write writes nothing, a read gives poison to its element or its granule; a write
of a migration passes its chunk over. (DEDUCED, assumption 41) -/
def State.discardSpill (s : State) (pos : Nat) (e : Spill) : State :=
  match (s.streamer pos).xfers.find? fun t => t.id = e.xfer with
  | none => s
  | some t =>
    if e.hold then
      if e.write then s.updXfer pos t.id fun t => { t with at_ := t.at_ + e.size } else s.updXfer pos t.id fun t => t.wakeCursor e true
    else if e.feed then s.updXfer pos t.id fun t => { t with ahead := t.ahead ++ [(e.key, none)] }
    else if e.write then s
    else
      match s.putElem pos t (e.follow 0 true) with
      | .yes s => s
      | .no s => s.setStreamer pos { s.streamer pos with spill := (s.streamer pos).spill ++ [e.follow 0 true] }

/-- DISCARD of a context's entries. -/
def State.streamDiscard (s : State) (pos : Nat) (c : Fin 16) : State :=
  let v := s.streamer pos
  let mine := v.spill.filter fun e => e.ctx = c
  if mine.isEmpty then s
  else
    let s := s.setStreamer pos { v with spill := v.spill.filter (fun e => e.ctx ≠ c), flt := v.flt.filter fun k => k.1 ≠ c }
    mine.foldl (fun (s : State) e => s.discardSpill pos e) s

def execStresRetry (pos : Fin 128) (ctx : Fin 16) (s : State) : Result := .next (s.streamRetry pos ctx)
def execStresDiscard (pos : Fin 128) (ctx : Fin 16) (s : State) : Result := .next (s.streamDiscard pos ctx)

end Sys2Proof.Machine
end

