-- ==== Sys2Proof/Machine/Transfer.lean ====
section
/-!
DEFINITION. Sys2Proof/Machine/Transfer.lean: streamer commands from their queue to a running transfer: choice of the streamer,
descriptors and their checks, endpoint channels, tables and their versions, participants, and completion (R361 to R363, R368,
R370 to R378, R411, R413, R428 to R432).
-/
namespace Sys2Proof.Machine

/-! ### Queues (R361, R362) -/

/-- The streamer of a command: the one named, or for 0xFF the one with the fewest commands, the lowest position first. -/
def State.chosen (s : State) (tgt : Nat) : Nat :=
  if tgt < 128 then tgt
  else (List.range 128).foldl (fun (b : Nat) p => if (s.streamer p).queue.length < (s.streamer b).queue.length then p else b) 0

/-- The command that is being started waits: it has not begun. (DEDUCED, assumption 37) -/
def holdBack (s : State) : Result :=
  .next (s.updCtx s.cmd.ctx fun x =>
    { x with accepted := x.accepted.map fun j => if j.id = s.cmd.id then { j with begun := false } else j })

/-- A command joins a streamer's queue; a full queue holds it back, and its stream with it. -/
def enqueue (s : State) (tgt : Nat) : Result :=
  let k := s.cmd
  match (s.ctx k.ctx).accepted.find? fun j => j.id = k.id with
  | none => .next s
  | some j =>
    if 128 ≤ tgt ∧ tgt ≠ 255 then refused s
    else
      let p := s.chosen tgt
      let v := s.streamer p
      if 64 ≤ v.queue.length then holdBack s
      else
        .next (s.setStreamer p { v with queue := v.queue ++
          [{ ctx := k.ctx, cmd := k.id, word := j.word, stream := k.stream, hyp := k.hyp, site := k.site, slot := k.slot }] })

/-- A command with the operand layout of R363; an unbound one has SLOT and INST zero. -/
def enqueueData (s : State) (o : DataOps) (unbound : Bool) : Result :=
  if (!o.bnd && (o.slot != 0 || o.inst != 0)) || (unbound && o.bnd) then refused s else enqueue s o.tgt.toNat

def execScpy (_q : CmdQual) (o : DataOps) (s : State) : Result := enqueueData s o false
def execSgth (_q : CmdQual) (o : DataOps) (s : State) : Result := enqueueData s o false
def execSsct (_q : CmdQual) (o : DataOps) (s : State) : Result := enqueueData s o false
def execSlkp (_q : CmdQual) (o : DataOps) (s : State) : Result := enqueueData s o false
def execSupd (_q : CmdQual) (o : DataOps) (s : State) : Result := enqueueData s o false
def execSmig (_q : CmdQual) (tgt : BitVec 8) (_blk : BitVec 48) (s : State) : Result := enqueue s tgt.toNat
def execSred (_q : CmdQual) (o : DataOps) (s : State) : Result := enqueueData s o true
def execScol (_q : CmdQual) (o : DataOps) (s : State) : Result := enqueueData s o true

/-! ### Endpoint channels (R368) -/

/-- What an ETGT word names: page record, PE, channel and depth. -/
def etgtOf (w : Word) : Option (Nat × Nat × Nat × Nat) :=
  let l : BitVec 32 := w.setWidth 32
  if bits w 42 22 ≠ 0 ∨ bits l 13 6 ≠ 0 ∨ linkBad l 0 0 1 1 then none
  else some (bits w 32 10, linkPe l, linkCh l, bits l 0 7)

/-- The ETGT of a transfer that feeds an input endpoint, with the endpoint. -/
def Desc.feeding : Desc → Option (Nat × Word)
  | .copy _ (.endpoint ep) _ _ _ _ e => some (ep, e)
  | .index op _ _ data _ _ _ _ _ dep _ _ _ _ e => if data = 0 ∧ (op = 0x11 ∨ op = 0x13) then some (dep, e) else none
  | .drain _ _ _ _ _ e _ _ ep => some (ep, e)
  | _ => none

/-- The channel that an edge-slice program feeds in its instance. -/
def EdgeProg.feeding (p : EdgeProg) : Option (Nat × Word) :=
  let w := p.words[0]
  if bit w 0 || bit w 1 then none else some (bits w 8 8, p.words[6])

/-- Whether a running transfer or program of an instance feeds a channel. -/
def State.fed (s : State) (x : Inst) (page pe ch : Nat) : Bool :=
  let same (e : Option (Nat × Word)) : Bool := match e with
    | some (_, w) => (match etgtOf w with | some (a, b, c, _) => a == page && b == pe && c == ch | none => false)
    | none => false
  (x.arms.any fun a => a.target == some (page, pe, ch)) ||
    (s.streams.any fun (_, v) => v.xfers.any fun t => t.boundTo x && same t.desc.feeding) ||
    (s.slices.any fun (_, v) => v.progs.toList.any fun p => match p with
      | some p => p.boundTo x && same p.feeding
      | none => false)

/-- Whether a feeder can bind an input endpoint of an instance to the channel that ETGT names. -/
def State.bindable (s : State) (x : Inst) (ep : Nat) (w : Word) : Bool :=
  match etgtOf w with
  | some (page, pe, ch, _) =>
    !x.cfg.isOutput ep && decide (page < x.cfg.pages.length) && (x.cfg.linkInto page pe ch).isNone && !s.fed x page pe ch
  | none => false

/-- The endpoint's flits enter that channel from now on; its factor becomes 1 unless SARM has set it (R341, R368). -/
def Inst.bindEp (x : Inst) (ep : Nat) (w : Word) : Inst :=
  match etgtOf w with
  | some (page, pe, ch, depth) =>
    let a := x.arm ep
    x.setArm { a with target := some (page, pe, ch), past := some (page, pe, ch), depth := depth, factor := if a.set then a.factor else 1 }
  | none => x

/-- The miss endpoint of an SLKP (R375). -/
def Desc.missing : Desc → Option Nat
  | .index op _ _ _ _ _ _ _ _ _ mep _ _ _ _ => if op = 0x13 ∧ mep ≠ 255 then some mep else none
  | _ => none

/-- The miss endpoint of an SLKP that starts: no word of the command names its channel. It is the one that the endpoint was last bound
to by a feeding command; failing that, the channel of the command's own ETGT (R341, R368, R375). (DESIGN CHOICE, assumption 54) -/
def Inst.bindMiss (x : Inst) (d : Desc) : Inst :=
  match d.missing with
  | none => x
  | some ep =>
    let a := x.arm ep
    let own : Option (Nat × Nat × Nat × Nat) := d.feeding.bind fun e => etgtOf e.2
    let a := match a.target, a.past, own with
      | some _, _, _ => a
      | none, some c, _ => { a with target := some c }
      | none, none, some (page, pe, ch, depth) => { a with target := some (page, pe, ch), depth := depth }
      | none, none, none => a
    x.setArm { a with factor := if a.set then a.factor else 1 }

/-- The channels that running transfers and programs of an instance name for an endpoint, the earliest first. -/
def State.feeders (s : State) (x : Inst) (ep : Nat) : List (Nat × Nat × Nat × Nat) :=
  let chan (e : Option (Nat × Word)) : Option (Nat × Nat × Nat × Nat) := e.bind fun e => if e.1 = ep then etgtOf e.2 else none
  (s.streams.flatMap fun (_, v) => (v.xfers.filter (·.boundTo x)).filterMap fun t => chan t.desc.feeding) ++
    (s.slices.flatMap fun (_, v) => (v.progs.toList.filterMap id |>.filter (·.boundTo x)).filterMap fun p => chan p.feeding)

/-- A feeder of an endpoint has gone: its value tokens go where a remaining feeder does; with none left the channel has no feeder, unless
an SLKP still emits its miss tiles there (R342, R368, R375). -/
def State.freeEp (s : State) (i : Nat) (ep : Nat) : State :=
  match s.insts[i]? with
  | none => s
  | some x =>
    let shared : Bool := s.streams.any fun (_, v) => v.xfers.any fun t => t.boundTo x && t.desc.missing == some ep
    match (s.feeders x ep).getLast? with
    | some (page, pe, ch, depth) => s.setInst i (x.setArm { x.arm ep with target := some (page, pe, ch), depth := depth })
    | none => if shared then s else s.setInst i (x.setArm { x.arm ep with target := none })

/-! ### Descriptors (R363, R370, R372, R377, R428) -/

/-- Whether an extent is 1 to 2^32 - 1. -/
def extentBad (w : Word) : Bool := w == 0 || bits w 32 32 != 0

/-- The SCPY descriptor. (DEDUCED, assumption 38) -/
def parseCopy (w : List Word) (bnd : Bool) : Option Desc :=
  let at_ (k : Nat) : Word := w.getD k 0
  let ctl := at_ 2
  let ety := bits ctl 0 4
  let nd := bits ctl 4 3
  let sk := bits ctl 8 2
  let dk := bits ctl 10 2
  let peer := bits ctl 12 9
  let dims := (List.range nd).map fun d => ((at_ (4 + 3 * d)).toNat, (at_ (5 + 3 * d)).toInt, (at_ (6 + 3 * d)).toInt)
  let ext (d : Nat) : Nat := if d < nd then (at_ (4 + 3 * d)).toNat else 1
  let side (k : Nat) (p : Word) : Side := if k = 0 then .memory p else if k = 1 then .endpoint (peer % 256) else .slice (peer % 128) (peer / 128)
  let big := (sk ≠ 0 ∨ dk ≠ 0) ∧ (65536 < ext 1 ∨ 65536 < ext 0 * (if ety = 10 then 3 else 1))
  if bits ctl 7 1 ≠ 0 ∨ bits ctl 21 3 ≠ 0 ∨ bits ctl 34 30 ≠ 0 ∨ 14 ≤ ety ∨ nd = 0 ∨ sk = 3 ∨ dk = 3 ∨ (sk ≠ 0 ∧ dk ≠ 0) ∨
      ((List.range nd).any fun d => extentBad (at_ (4 + 3 * d))) ∨ (sk ≠ 0 ∧ (at_ 0 ≠ 0 ∨ dims.any fun d => d.2.1 ≠ 0)) ∨
      (dk ≠ 0 ∧ (at_ 1 ≠ 0 ∨ dims.any fun d => d.2.2 ≠ 0)) ∨ (dk ≠ 1 ∧ at_ 3 ≠ 0) ∨
      ((sk = 1 ∨ dk = 1) ∧ (!bnd ∨ 256 ≤ peer)) ∨ big then none
  else some (.copy (side sk (at_ 0)) (side dk (at_ 1)) ety (bits ctl 32 2) (BitVec.ofNat 8 (bits ctl 24 8)).toInt dims (at_ 3))

/-- The indexed descriptor of SGTH, SSCT, SLKP and SUPD. -/
def parseIndex (op : Nat) (w : List Word) (bnd : Bool) : Option Desc :=
  let at_ (k : Nat) : Word := w.getD k 0
  let ctl := at_ 3
  let ety := bits ctl 0 4
  let table := op = 0x13 ∨ op = 0x14
  let feeds := at_ 2 = 0 ∧ (op = 0x11 ∨ op = 0x13)
  let mep := bits ctl 32 8
  if bits ctl 12 4 ≠ 0 ∨ bits ctl 56 8 ≠ 0 ∨ at_ 7 ≠ 0 ∨ 14 ≤ ety ∨ (op ≠ 0x14 ∧ bits ctl 6 2 ≠ 0) ∨ bits ctl 6 2 = 3 ∨
      (op ≠ 0x13 ∧ mep ≠ 0) ∨ (table ∧ (ety ≠ 0 ∨ bits ctl 40 16 ≠ 0 ∨ at_ 0 ≠ 0 ∨ at_ 5 ≠ 0)) ∨
      (¬ table ∧ (bits ctl 8 4 ≠ 0 ∨ (bits ctl 40 16 + 1) % unitBytes ety ≠ 0)) ∨
      (if at_ 1 = 0 then at_ 4 ≠ 0 else extentBad (at_ 4)) ∨ (at_ 2 = 0 ∧ at_ 1 ≠ 0) ∨ (¬ feeds ∧ at_ 6 ≠ 0) ∨
      (!bnd ∧ (at_ 1 = 0 ∨ at_ 2 = 0 ∨ (op = 0x13 ∧ mep ≠ 255))) then none
  else some (.index op (at_ 0) (at_ 1) (at_ 2) ety (bits ctl 4 2) (bits ctl 6 2) (bits ctl 8 4) (bits ctl 16 8) (bits ctl 24 8)
    (if op = 0x13 then mep else 255) (bits ctl 40 16 + 1) (at_ 4).toNat (at_ 5).toInt (at_ 6))

/-- The current version of a table. -/
def Ctx.tableNow (x : Ctx) (tbl : Nat) : Option TableVer := x.tables.find? fun v => v.current && v.tbl == tbl

/-- Whether SUPD acts on an element type with an operation (R373). -/
def updGood (ety opr : Nat) : Bool := [2, 3, 6, 7].contains ety || (ety == 11 && opr == 0)

/-- The cold place of a row. -/
def TableVer.cold (v : TableVer) (x : Int) : Word := stepPtr v.base (x * v.stride)

/-- What a redirect entry says of a row: its cold place, absent, or a hot copy (R374). -/
def TableVer.entry (v : TableVer) (x : Int) (e : Word) : RowAt :=
  if e = 0 then .found (v.cold x)
  else if bit e 0 || bits e 0 4 != 0 || bits e 52 6 != 0 || decide (bits e 0 52 < 0x10000) then .miss 2
  else .found e

/-- The pointer to the redirect entry of a row. -/
def TableVer.entryPtr (v : TableVer) (x : Int) : Word := stepPtr v.hot (x * 8)

/-- Whether a migration of a row of a table version runs. -/
def State.migrating (s : State) (c : Fin 16) (tbl row ver : Nat) : Bool :=
  s.streams.any fun (_, v) => v.xfers.any fun t => t.ctx = c && (match t.desc with
    | .migrate k r _ _ _ _ _ => k == tbl && r == row && t.version == ver
    | _ => false)

def State.migrations (s : State) (c : Fin 16) : Nat :=
  (s.streams.map fun (_, v) => (v.xfers.filter fun t => t.ctx = c && (match t.desc with | .migrate _ _ _ _ _ _ _ => true | _ => false)).length).sum

/-- The migration that SMIG starts: the descriptor and the version, or the cause with an address (R377). (DEDUCED, assumption 40) -/
def State.parseMigrate (s : State) (c : Fin 16) (w : List Word) : Except (EngineFault × Word) (Desc × Nat) :=
  let at_ (k : Nat) : Word := w.getD k 0
  let bad : Except (EngineFault × Word) (Desc × Nat) := .error (engineFault 0x21 0, 0)
  match (s.ctx c).tableNow (bits (at_ 0) 0 4) with
  | none => bad
  | some v =>
    let x := (at_ 1).toNat
    let new := at_ 2
    if bits (at_ 0) 4 60 ≠ 0 ∨ at_ 3 ≠ 0 ∨ v.hot = 0 ∨ v.rows ≤ x ∨ s.migrating c v.tbl x v.serial then bad
    else
      match s.enginePointer c 0 (v.entryPtr x) 1 true false with
      | .error e => .error (e, withTop 0 (bits (v.entryPtr x) 0 52))
      | .ok pa =>
        match v.entry x (BitVec.ofNat 64 (s.readHome 0 0 pa 8)) with
        | .found old => .ok (.migrate v.tbl x new old (if new = 0 then v.cold x else new) v.rowLen (v.entryPtr x), v.serial)
        | _ => bad

/-- A participant entry (R429). -/
def State.participant (s : State) (c : Fin 16) (w0 w1 : Word) (size bytes : Nat) : Option Participant :=
  if bit w1 63 then
    let g := s.groupNow (bits w1 56 6)
    let off := bits w1 0 18
    let site := g.siteOf (bits w1 32 10)
    if bits w0 0 58 ≠ 0 ∨ bits w1 62 1 ≠ 0 ∨ bits w1 42 14 ≠ 0 ∨ bits w1 18 14 ≠ 0 ∨ off % size ≠ 0 ∨ 0x40000 < off + bytes ∨
        !g.en ∨ g.nrank ≤ bits w1 32 10 then none
    else
      let base := bits (s.reg (cxtcmvAt c)) 28 24 * 2 ^ 28
      some { ptr := withTop w0 ((base + (match site with | some n => n.val | none => 0) * 0x40000 + off) % 2 ^ 52), rank := true, site := site }
  else if w1 ≠ 0 then none
  else some { ptr := w0, rank := false, site := none }

/-- The participant table. (DEDUCED, assumption 40) -/
def State.participants (s : State) (c : Fin 16) (h : Handle) (ptab : Word) (size bytes : Nat) : Nat → Nat → Except (EngineFault × Word) (List Participant)
  | 0, _ => .ok []
  | n + 1, k =>
    let p := stepPtr ptab (16 * k)
    match s.enginePointer c h p 1 true false with
    | .error e => .error (e, withTop 0 (bits p 0 52))
    | .ok pa =>
      match s.participant c (BitVec.ofNat 64 (s.readHome c h pa 8)) (BitVec.ofNat 64 (s.readHome c h (pa + 8) 8)) size bytes with
      | none => .error (engineFault 0x21 0, 0)
      | some e =>
        match s.participants c h ptab size bytes n (k + 1) with
        | .error e => .error e
        | .ok l => .ok (e :: l)

/-- The descriptor of SRED and SCOL with its participants. -/
def State.parseGroup (s : State) (c : Fin 16) (h : Handle) (op : Nat) (w : List Word) : Except (EngineFault × Word) Desc :=
  let at_ (k : Nat) : Word := w.getD k 0
  let ctl := at_ 2
  let ety := bits ctl 0 4
  let kind := bits ctl 4 2
  let fop := bits ctl 8 3
  let sat := bit ctl 11
  let n := bits ctl 16 13
  let red := op = 0x20
  let good : Bool :=
    if red then [2, 3, 6, 7, 11, 12].contains ety && kind == 0 && decide (fop < 6) && !(11 ≤ ety && (3 ≤ fop || sat))
    else decide (ety < 14) && decide (kind < 3) && fop == 0 && !sat
  if !good ∨ bits ctl 6 2 ≠ 0 ∨ bits ctl 12 4 ≠ 0 ∨ n = 0 ∨ 4096 < n ∨ bits ctl 29 35 ≠ 0 ∨ extentBad (at_ 3) ∨
      ((w.drop 4).any fun v => v ≠ 0) ∨ bits (at_ 0) 0 4 ≠ 0 then .error (engineFault 0x21 0, 0)
  else
    match s.participants c h (at_ 0) (unitBytes ety) ((at_ 3).toNat * unitBytes ety) n 0 with
    | .error e => .error e
    | .ok l => .ok (if red then .reduce l (at_ 1) ety fop sat (at_ 3).toNat else .collect l (at_ 1) ety kind (at_ 3).toNat)

/-! ### Starting a transfer (R361, R363, R368) -/

/-- The tiles of a descriptor's pattern (R371). -/
def Desc.tiles : Desc → Nat
  | .copy _ _ _ _ _ dims _ => ((dims.drop 2).map (·.1)).prod
  | _ => 0

/-- A transfer that has moved nothing; with INST = 0x3FF its tiles are those of its instance's range (R369). -/
def newXfer (k : Queued) (id slot : Nat) (inst : Option Nat) (hyp : Handle) (daddr : Word) (desc : Desc) (version : Nat) : Xfer :=
  { id := id, ctx := k.ctx, cmd := k.cmd, stream := k.stream, slot := slot, inst := inst, hyp := hyp, daddr := daddr, desc := desc,
    at_ := 0, span := if inst.isSome ∧ bits k.word 51 10 = 0x3FF then none else some (0, desc.tiles), tiles := 0,
    hdr := false, bad := false, psn := false, part := [], buf := [], mbuf := [], mout := [], rd := 0, ahead := [], phase := .header,
    last := false, idx := [], cur := none, parked := [], redo := [], held := [], lost := false, version := version, fillAt := none, nofill := false,
    spent := false }

/-- Whether the endpoints of a descriptor are of the right kind in an instance, and its channel is free. -/
def State.endpointsGood (s : State) (x : Inst) (d : Desc) : Bool :=
  (match d.feeding with | some (ep, w) => s.bindable x ep w | none => true) &&
    (match d with
     | .copy (.endpoint ep) _ _ _ _ _ _ => x.cfg.isOutput ep
     | .index op _ idx data _ _ _ _ iep dep mep _ _ _ _ =>
       (idx != 0 || x.cfg.isOutput iep) && (data != 0 || op == 0x11 || op == 0x13 || x.cfg.isOutput dep) &&
         (mep == 255 || !x.cfg.isOutput mep)
     | _ => true)

/-- Whether a descriptor's slice program, if one is loaded that serves a streamer, has the right direction (R379).
(DEDUCED, assumption 38) -/
def State.sliceGood (s : State) (d : Desc) : Bool :=
  let fits (pos prog : Nat) (absorb : Bool) : Bool :=
    match (s.slice pos).progs[fin 4 prog] with
    | some p => !bit p.words[0] 1 || bit p.words[0] 0 == absorb
    | none => true
  match d with
  | .copy (.slice pos prog) _ _ _ _ _ _ => fits pos prog false
  | .copy _ (.slice pos prog) _ _ _ _ _ => fits pos prog true
  | _ => true

/-- The descriptor of a queued command and the version it binds, or the cause of its refusal with an address. -/
def State.descOf (s : State) (k : Queued) : Except (EngineFault × Word) (Desc × Nat) :=
  let op := bits k.word 120 8
  let va := if op = 0x15 then bits k.word 0 48 * 16 else bits k.word 0 46 * 64
  let bnd := bits k.word 61 1 = 1
  let read (n : Nat) (f : List Word → Except (EngineFault × Word) (Desc × Nat)) : Except (EngineFault × Word) (Desc × Nat) :=
    match s.engineWords k.ctx va n with
    | .error e => .error (e, BitVec.ofNat 64 va)
    | .ok w => f w
  let ofOpt (o : Option Desc) (v : Nat) : Except (EngineFault × Word) (Desc × Nat) :=
    match o with | some d => .ok (d, v) | none => .error (engineFault 0x21 0, 0)
  match op with
  | 0x10 => read 4 fun h => read (4 + 3 * bits (h.getD 2 0) 4 3) fun w => ofOpt (parseCopy w bnd) 0
  | 0x15 => read 4 fun w => s.parseMigrate k.ctx w
  | 0x20 => read 8 fun w => (s.parseGroup k.ctx k.hyp op w).map fun d => (d, s.groups.ver.toNat)
  | 0x21 => read 8 fun w => (s.parseGroup k.ctx k.hyp op w).map fun d => (d, s.groups.ver.toNat)
  | _ =>
    read 8 fun w =>
      match parseIndex op w bnd with
      | none => .error (engineFault 0x21 0, 0)
      | some d =>
        if op = 0x11 ∨ op = 0x12 then .ok (d, 0)
        else
          match (s.ctx k.ctx).tableNow (bits (w.getD 3 0) 8 4) with
          | some v => if op = 0x14 ∧ !updGood v.ety.toNat (bits (w.getD 3 0) 6 2) then .error (engineFault 0x21 0, 0) else .ok (d, v.serial)
          | none => .error (engineFault 0x21 0, 0)

/-- The sub-transfers of a command start: one for each instance named, or one unbound (R361, R363). -/
def State.launchXfers (s : State) (pos : Nat) (k : Queued) (slot : Nat) (names : List Nat) (bnd : Bool) (daddr : Word) (d : Desc)
    (version : Nat) : State :=
  if bnd then
    names.foldl
      (fun (s : State) i =>
        match s.insts[i]? with
        | none => s
        | some x =>
          let (s, id) := s.tick
          let v := s.streamer pos
          let s := s.setStreamer pos { v with xfers := v.xfers ++ [newXfer k id slot (some x.num) x.hyp daddr d version] }
          let x := x.bindMiss d
          match d.feeding with
          | some (ep, w) => s.setInst i ((x.bindEp ep w).flushTokens ep ((x.arm ep).fed.length))
          | none => s.setInst i x) s
  else
    let (s, id) := s.tick
    let v := s.streamer pos
    s.setStreamer pos { v with xfers := v.xfers ++ [newXfer k id slot none k.hyp daddr d version] }

/-- The refusal of a queued command at its start (R329, R363). -/
def State.refuseQueued (s : State) (k : Queued) (f : EngineFault) (addr : Word) : State :=
  { s with cmd := { ctx := k.ctx, id := k.cmd, stream := k.stream, hyp := k.hyp, site := k.site, slot := k.slot } }.refuse f addr

/-- The commands that a streamer runs. -/
def Streamer.running (v : Streamer) : Nat := ((v.xfers.map fun t => (t.ctx, t.cmd)).eraseDups).length

/-- A queued command starts: its descriptor is read and checked, and its transfers run (R361, R363). -/
def State.startTransfer (s : State) (pos : Nat) (k : Queued) : State :=
  let bnd := bits k.word 61 1 = 1 ∧ bits k.word 120 8 ≠ 0x15
  let slot := bits k.word 48 3
  let names := s.named k.ctx slot (BitVec.ofNat 10 (bits k.word 51 10))
  match s.descOf k with
  | .error (f, addr) => s.refuseQueued k f addr
  | .ok (d, version) =>
    let s := s.askWords (streamKey pos) k.ctx (if bits k.word 120 8 = 0x15 then bits k.word 0 48 * 16 else bits k.word 0 46 * 64) 8
    let good := (names.filterMap fun i => s.insts[i]?).all fun x => s.endpointsGood x d
    if (bnd ∧ ((names.isEmpty ∧ k.stream = .port) ∨ !good)) ∨ !s.sliceGood d then s.refuseQueued k (engineFault 0x21 0) 0
    else
      s.launchXfers pos k slot names (decide bnd)
        (BitVec.ofNat 64 (if bits k.word 120 8 = 0x15 then bits k.word 0 48 * 16 else bits k.word 0 46 * 64)) d version

def execTransferStart (pos : Fin 128) (s : State) : Result :=
  let v := s.streamer pos
  match v.queue with
  | k :: rest =>
    if 16 ≤ v.running ∨ (bits k.word 120 8 = 0x15 ∧ 16 ≤ s.migrations k.ctx) then .next s
    else .next ((s.setStreamer pos { v with queue := rest }).startTransfer pos k)
  | [] => .next s

/-- A transfer leaves its streamer, and the channels it fed (R368, R375). -/
def State.endXfer (s : State) (pos : Nat) (t : Xfer) : State :=
  let v := s.streamer pos
  let u := s.setStreamer pos { v with xfers := v.xfers.filter fun u => u.id ≠ t.id }
  match s.xferInst t with
  | some (i, _) =>
    let u := match t.desc.feeding with | some (ep, _) => u.freeEp i ep | none => u
    match t.desc.missing with | some ep => u.freeEp i ep | none => u
  | none => u

def execTransferComplete (pos : Fin 128) (k : Nat) (s : State) : Result :=
  match (s.streamer pos).xfers[k]? with
  | some t =>
    let migrates := match t.desc with | .migrate _ _ _ _ _ _ _ => true | _ => false
    if t.spent ∧ !migrates ∧ !((s.streamer pos).spill.any fun e => e.xfer = t.id) then .next (s.endXfer pos t) else .next s
  | none => .next s

/-! ### STBL (R374, R376) -/

/-- The table descriptor; none where a field is out of range. -/
def parseTable (w : List Word) (tbl serial : Nat) (free : Word) : Option TableVer :=
  let at_ (k : Nat) : Word := w.getD k 0
  let ctl := at_ 4
  let ety := bits ctl 0 4
  let len := bits ctl 16 16 + 1
  if bits (at_ 1) 40 24 ≠ 0 ∨ at_ 1 = 0 ∨ bits (at_ 2) 32 32 ≠ 0 ∨ (at_ 2).toNat < len ∨ 14 ≤ ety ∨ bits ctl 4 12 ≠ 0 ∨
      bits ctl 32 32 ≠ 0 ∨ len % unitBytes ety ≠ 0 ∨ bits (at_ 5) 32 32 ≠ 0 ∨ at_ 6 ≠ 0 ∨ at_ 7 ≠ 0 then none
  else some { tbl := tbl, serial := serial, base := at_ 0, rows := (at_ 1).toNat, stride := (at_ 2).toNat, hot := at_ 3,
              ety := BitVec.ofNat 4 ety, rowLen := len, label := (at_ 5).setWidth 32, current := true, free := free }

/-- A notice word written by R330; one that cannot be written is reported. (DEDUCED, assumption 40) -/
def State.notice (s : State) (c : Fin 16) (a : Word) (v : Nat) : State :=
  if a = 0 then s
  else
    match s.engineAddress c (bits a 0 52) false true with
    | .ok pa => s.engineWrite (seqKey c) c 0 pa 8 v
    | .error _ => s.seqRecord c none (engineFault 0x21 0) a 0 0 0 0

def execStbl (_q : CmdQual) (tbl : BitVec 4) (desc : BitVec 46) (free : BitVec 49) (s : State) : Result :=
  let c := s.cmd.ctx
  let x := s.ctx c
  let notice := field 3 49 free.toNat
  match s.engineWords c (desc.toNat * 64) 8 with
  | .error e => .next (s.refuse e (BitVec.ofNat 64 (desc.toNat * 64)))
  | .ok w =>
    let s := s.askWords (seqKey c) c (desc.toNat * 64) 8
    match parseTable w tbl.toNat x.tabSer 0 with
    | none => refused s
    | some v =>
      let first := !(x.tables.any fun t => t.tbl == tbl.toNat)
      let s := s.updCtx c fun x =>
        { x with tabSer := x.tabSer + 1,
                 tables := (x.tables.map fun t => if t.tbl = tbl.toNat ∧ t.current then { t with current := false, free := notice } else t) ++ [v] }
      .next (if first then s.notice c notice (2 ^ 64 - 1) else s)

/-- Whether a version is bound by a segment or by an unbound transfer (R376). -/
def State.versionUsed (s : State) (c : Fin 16) (v : TableVer) : Bool :=
  (s.insts.any fun x => x.ctx = c && x.tabs.contains (v.tbl, v.serial)) ||
    (s.streams.any fun (_, m) => m.xfers.any fun t => t.ctx = c && (match t.desc with
      | .index _ _ _ _ _ _ _ tbl _ _ _ _ _ _ _ => t.inst.isNone && tbl == v.tbl && t.version == v.serial
      | .migrate tbl _ _ _ _ _ _ => tbl == v.tbl && t.version == v.serial
      | _ => false))

def execTableVersionFree (c : Fin 16) (k : Nat) (s : State) : Result :=
  match (s.ctx c).tables[k]? with
  | some v =>
    if v.current ∨ s.versionUsed c v then .next s
    else .next ((s.updCtx c fun x => { x with tables := dropAt x.tables k }).notice c v.free v.label.toNat)
  | none => .next s

/-! ### SDRN and SHDR (R411, R413) -/

/-- ETGT of a drain's operands. -/
def drainTarget (o : DrainOps) : Word := field 0 32 o.elink.toNat ||| field 32 10 o.epage.toNat

/-- The drain of a slot of one instance or of every one: a transfer of its own, whose first act is to post its read. -/
def execSdrn (_q : CmdQual) (clear : Bool) (o : DrainOps) (s : State) : Result :=
  let k := s.cmd
  let l := s.named k.ctx o.slot.toNat o.inst
  let xs := l.filterMap fun i => (s.insts[i]?).map fun x => (i, x)
  let asl := fin 4 o.asl.toNat
  let claimed (x : Inst) : Bool := x.slots.contains (x.siteOf o.page.toNat, asl.val)
  let good (x : Inst) : Bool := decide (o.page.toNat < x.cfg.pages.length) && claimed x && s.bindable x o.ep.toNat (drainTarget o)
  if o.fmt = 3 ∨ 6 ≤ o.rm.toNat ∨ (o.fmt = 2 ∧ o.rm ≠ 0) ∨ (o.fmt ≠ 2 ∧ o.tbl ≠ 0) ∨ (l.isEmpty ∧ k.stream = .port) ∨
      !(xs.all fun e => good e.2) then refused s
  else
    .next (xs.foldl
      (fun (s : State) e =>
        let (s, id) := s.tick
        let v := s.streamer drainUnit
        let q : Queued := { ctx := k.ctx, cmd := k.id, word := 0, stream := k.stream, hyp := k.hyp, site := k.site, slot := k.slot }
        let d : Desc := .drain o.fmt.toNat o.rm.toNat o.tbl.toNat o.scl none (drainTarget o) o.page.toNat asl o.ep.toNat
        let s := s.setStreamer drainUnit { v with xfers := v.xfers ++ [newXfer q id o.slot.toNat (some e.2.num) e.2.hyp 0 d clear.toNat] }
        s.setInst e.1 ((e.2.bindEp o.ep.toNat (drainTarget o)).flushTokens o.ep.toNat (e.2.arm o.ep.toNat).fed.length)) s)

def execShdr (_q : CmdQual) (ep : BitVec 8) (slot : BitVec 3) (inst : BitVec 10) (scale : BitVec 8) (tslot : BitVec 2) (en : Bool)
    (s : State) : Result :=
  match (s.ctx s.cmd.ctx).slots[fin 8 slot.toNat] with
  | none => refused s
  | some cfg =>
    if cfg.isOutput ep.toNat then refused s
    else onInsts slot inst s fun s i x =>
      s.setInst i (x.setArm { x.arm ep.toNat with editN := some (if en then some (scale, tslot) else none) })

end Sys2Proof.Machine
end

