-- ==== Sys2Proof/Machine/Move.lean ====
section
/-!
DEFINITION. Sys2Proof/Machine/Move.lean: what a transfer moves: flits into and out of endpoints and edge slices, the elements of
SCPY, rows of the indexed commands with misses and updates, migrations, reductions and collections, and drained tiles (R367 to
R377, R411, R412, R429 to R432).
-/
namespace Sys2Proof.Machine

/-! ### Flits into and out of endpoints and slices (R341, R368, R369, R379) -/

/-- The channel of a feeder of an endpoint with its depth: the one that its own ETGT names; a miss tile has none of its own, and goes where
its endpoint is bound (R368, R375). -/
def Inst.channelOf (x : Inst) (ep : Nat) (own : Option (Nat × Word)) : Option ((Nat × Nat × Nat) × Nat) :=
  match own.bind fun e => if e.1 = ep then etgtOf e.2 else none with
  | some (page, pe, ch, depth) => some ((page, pe, ch), depth)
  | none => (x.arm ep).target.map fun c => (c, (x.arm ep).depth)

/-- Delivers a flit into an input endpoint of the i-th instance, by the channel of its feeder: value tokens go first, a tile must be armed
and the channel must have room; LAST goes on the EOT of the last tile of a last segment (R343). -/
def State.deliverEp (s : State) (i : Nat) (x : Inst) (ep : Nat) (own : Option (Nat × Word)) (f : Flit) : Option State :=
  let x := x.flushTokens ep (x.arm ep).fed.length
  let a := x.arm ep
  match x.channelOf ep own with
  | none => none
  | some (c, depth) =>
    if s.engineActs x ∧ a.fed.isEmpty ∧ 0 < a.armed ∧ x.chanRoom c depth then
      let f : Flit := if f.eot ∧ a.lastTile ∧ a.armed = 1 then { f with ctl := setBits f.ctl 7 1 1 } else f
      let x := (s.tape x false ep (a.edited f)).enter c (a.edited f)
      some (s.stir i (if f.eot then x.setArm { x.arm ep with armed := a.armed - 1 } else x))
    else none

/-- Whether an earlier transfer takes its flits from the same output endpoint of an instance (R368). -/
def State.absorberBefore (s : State) (x : Inst) (ep id : Nat) : Bool :=
  s.streams.any fun (_, v) => v.xfers.any fun t => t.boundTo x && decide (t.id < id) && !t.spent && (match t.desc with
    | .copy (.endpoint e) _ _ _ _ _ _ => e == ep
    | .index op _ idx data _ _ _ _ iep dep _ _ _ _ _ =>
      (idx == 0 && iep == ep) || (data == 0 && (op == 0x12 || op == 0x14) && dep == ep)
    | _ => false)

/-- The next flit of an output endpoint of the i-th instance, taken. -/
def State.takeEp (s : State) (i : Nat) (x : Inst) (ep id : Nat) : Option (Flit × State) :=
  match (x.arm ep).fed with
  | f :: _ => if s.engineActs x ∧ !s.absorberBefore x ep id then some (f, s.stir i (x.absorb ep)) else none
  | [] => none

def State.updProg (s : State) (pos prog : Nat) (f : EdgeProg → EdgeProg) : State :=
  let v := s.slice pos
  s.setSlice pos { v with progs := v.progs.set (fin 4 prog) (v.progs[fin 4 prog].map f) }

/-- The program that serves the SCPYs that name its slice and slot, in a direction (R379). -/
def State.serving (s : State) (pos prog : Nat) (absorb : Bool) : Option EdgeProg :=
  match (s.slice pos).progs[fin 4 prog] with
  | some p => if bit p.words[0] 1 ∧ bit p.words[0] 0 == absorb then some p else none
  | none => none

/-- Delivers a flit of a transfer to its outlet. -/
def State.deliverTo (s : State) (t : Xfer) (side : Side) (f : Flit) : Option State :=
  match side with
  | .memory _ => none
  | .endpoint ep =>
    match s.xferInst t with
    | some (i, x) => s.deliverEp i x ep t.desc.feeding f
    | none => none
  | .slice pos prog =>
    match s.serving pos prog true with
    | some p => if p.buf.isEmpty then some (s.updProg pos prog fun p => { p with buf := [f] }) else none
    | none => none

/-- Takes the next flit of a transfer's inlet. -/
def State.takeFrom (s : State) (t : Xfer) (side : Side) : Option (Flit × State) :=
  match side with
  | .memory _ => none
  | .endpoint ep =>
    match s.xferInst t with
    | some (i, x) => s.takeEp i x ep t.id
    | none => none
  | .slice pos prog =>
    match s.serving pos prog false with
    | some p =>
      match p.buf with
      | f :: l => some (f, s.updProg pos prog fun p => { p with buf := l, tile := !f.eot })
      | [] => none
    | none => none

/-- The values in the lanes of a flit; none for each of a poisoned one. -/
def flitUnits (ety : Nat) (f : Flit) (psn : Bool) (n : Nat) : List (Option Word) :=
  (List.range (min n (unitLanes ety))).map fun k =>
    if psn || f.psn then none else some (w19Clean ety (BitVec.ofNat 64 (bits f.data (k * unitBits ety) (unitBits ety))))

/-- The flit of some values: poisoned when one of them is. -/
def unitsFlit (ety : Nat) (l : List (Option Word)) (eot : Bool) : Flit :=
  let w := l.foldr (fun v acc => (match v with | some x => x.toNat | none => 0) % 2 ^ unitBits ety + acc * 2 ^ unitBits ety) 0
  dataFlit (w19Clean ety (BitVec.ofNat 64 w)) (if eot then 0x08 else 0) (l.any Option.isNone)

/-- The header of a tile of `rows` by `cols` elements, W19 in words of three. -/
def unitsHeader (ety tslot : Nat) (scale : Int) (rows cols : Nat) : Flit :=
  headerFlit (headerWord ety tslot scale (rows - 1) (cols * (if ety = 10 then 3 else 1) - 1)) false

/-- Whether a header gives a type and shape. -/
def headerFits (f : Flit) (ety rows cols : Nat) : Bool :=
  let h := parseHdr f.data
  f.hdr && f.sot && h.ety == ety && h.rows + 1 == rows && h.cols + 1 == cols * (if ety = 10 then 3 else 1)

/-- HDR-BAD of a streamer (R371, R373): the tile's first element; no address. -/
def State.xferHeaderBad (s : State) (pos : Nat) (t : Xfer) (elem tile : Nat) : State :=
  (s.asyncRecord (s.xferLaunch t) (siteKey (edgeSite pos)) 2 (xferRecord s pos t 0x20 0 elem tile true 0 0)).1

/-- Goes on after a write of an element, if it performed or was spilled. -/
def Moved.andThen (m : Moved) (f : State → State) : Moved :=
  match m with
  | .yes s => .yes (f s)
  | .no s => .no s

/-! ### SCPY (R370, R371) -/

/-- The byte offset of the e-th element of a pattern, dimension 0 fastest. -/
def patternOffset (f : Nat × Int × Int → Int) : List (Nat × Int × Int) → Nat → Int
  | [], _ => 0
  | d :: l, e => (e % d.1 : Nat) * f d + patternOffset f l (e / d.1)

/-- Elements of a tile of a pattern. -/
def tileSize (dims : List (Nat × Int × Int)) : Nat := ((dims.take 2).map (·.1)).prod

/-- The pointer of the e-th element on a side. -/
def sidePtr (side : Side) (dims : List (Nat × Int × Int)) (dst : Bool) (e : Nat) : Word :=
  match side with
  | .memory p => stepPtr p (patternOffset (fun d => if dst then d.2.2 else d.2.1) dims e)
  | _ => 0

/-- A value joins the flit being formed; the flit is complete when its lanes are filled or the tile ends. -/
def Xfer.push (t : Xfer) (ety : Nat) (v : Option Word) (eot : Bool) : Xfer :=
  let l := t.part ++ [v]
  if eot ∨ l.length = unitLanes ety then { t with part := [], buf := [unitsFlit ety l eot], hdr := !eot } else { t with part := l }

/-- The element before which a copy may read while its flits wait for a spilled read: the end of the last armed tile (R365,
R369). -/
def State.readLimit (s : State) (t : Xfer) (dst : Side) (n final : Nat) : Nat :=
  match dst, s.xferInst t with
  | .endpoint ep, some (_, x) => min final ((t.at_ / n + max 1 (x.arm ep).armed) * n)
  | _, _ => final

/-- One step of a copy whose destination takes flits. A spilled read holds the flits from its element on, while later elements go
on being read (R365, R369). -/
def State.copyOut (s : State) (pos : Nat) (t : Xfer) (src dst : Side) (ety tslot : Nat) (scale : Int) (dims : List (Nat × Int × Int))
    (final : Nat) : Moved :=
  let n := tileSize dims
  let upd (s : State) (f : Xfer → Xfer) : State := s.updXfer pos t.id f
  match t.buf with
  | f :: l =>
    match s.deliverTo t dst f with
    | some s => .yes (upd s fun t => { t with buf := l })
    | none => .no s
  | [] =>
    if final ≤ t.at_ then .yes (upd s fun t => { t with spent := true })
    else if !t.hdr then
      let cols := (dims.headD (1, 0, 0)).1
      .yes (upd s fun t => { t with hdr := true, buf := [unitsHeader ety tslot scale (n / cols) cols] })
    else
      match takeFirst (fun r => r.1 == t.at_) t.ahead with
      | some (r, l) =>
        .yes (upd s fun t => { t.push ety r.2 (decide ((t.at_ + 1) % n = 0)) with at_ := t.at_ + 1, ahead := l })
      | none =>
        if s.readLimit t dst n final ≤ t.rd then .no s
        else
          let e := { t.elem t.rd (t.rd / n) (sidePtr src dims false t.rd) (unitBytes ety) false 0 false with feed := true, key := t.rd }
          match s.tryElem pos t e with
          | .ok pa =>
            let r := s.elemRead pos t e pa
            .yes (upd r.1 fun t => { t with rd := t.rd + 1, ahead := t.ahead ++ [(t.rd, some (BitVec.ofNat 64 r.2))] })
          | .spilled s => .yes (upd s fun t => { t with rd := t.rd + 1 })
          | .wait s => .no s

/-- What taking a flit does to a copy whose source gives flits: headers are compared, data flits are unpacked, a bad tile is
discarded to its EOT. -/
def State.copyTake (s : State) (pos : Nat) (t : Xfer) (ety : Nat) (dims : List (Nat × Int × Int)) (f : Flit) : State :=
  let n := tileSize dims
  let cols := (dims.headD (1, 0, 0)).1
  let upd (s : State) (g : Xfer → Xfer) : State := s.updXfer pos t.id g
  let over_ (t : Xfer) : Xfer := { t with bad := false, hdr := false, psn := false, at_ := (t.at_ / n + 1) * n }
  let bad (s : State) : State :=
    upd (s.xferHeaderBad pos t (t.at_ / n * n) (t.at_ / n)) fun t => if f.eot then over_ t else { t with bad := true, hdr := false }
  if t.bad then (if f.eot then upd s over_ else s)
  else if f.hdr then
    if t.hdr then bad s
    else if f.psn then upd s fun t => { t with hdr := true, psn := true }
    else if headerFits f ety (n / cols) cols then upd s fun t => { t with hdr := true, psn := false }
    else bad s
  else if !t.hdr then bad s
  else
    let left := n - t.at_ % n
    upd s fun t => { t with part := flitUnits ety f t.psn left, hdr := decide (unitLanes ety < left) }

/-- One step of a copy whose source gives flits. -/
def State.copyIn (s : State) (pos : Nat) (t : Xfer) (src dst : Side) (ety : Nat) (dims : List (Nat × Int × Int)) (final : Nat) : Moved :=
  match t.part with
  | v :: l =>
    let e := t.elem t.at_ (t.at_ / tileSize dims) (sidePtr dst dims true t.at_) (unitBytes ety) true 0 false
    (s.putElem pos t { e with data := (match v with | some w => w.toNat | none => 0), psn := v.isNone }).andThen fun s =>
      s.updXfer pos t.id fun t => { t with part := l, at_ := t.at_ + 1 }
  | [] =>
    if final ≤ t.at_ then .yes (s.updXfer pos t.id fun t => { t with spent := true })
    else
      match s.takeFrom t src with
      | some (f, s) => .yes (s.copyTake pos t ety dims f)
      | none => .no s

/-- One step of a transfer from memory to memory whose next element has the read `e` (with its write), of elements up to `stop`, whose
reads are given by `at_`. An early step reads the next element not yet read, where that access passes, and leaves its write for later:
an element that the transfer overwrites before then has given its value from before (R367). (DEDUCED, assumption 41) -/
def State.memoryMove (s : State) (pos : Nat) (t : Xfer) (stop : Nat) (at_ : Nat → Spill) (early : Bool) : Moved :=
  let upd (s : State) (f : Xfer → Xfer) : State := s.updXfer pos t.id f
  if early then
    let n := max t.rd t.at_
    if stop ≤ n then .no s
    else
      let e := at_ n
      match s.tryElem pos t e with
      | .ok pa =>
        let r := s.elemRead pos t e pa
        .yes (upd r.1 fun t => { t with rd := n + 1, ahead := t.ahead ++ [(n, some (BitVec.ofNat 64 r.2))] })
      | .spilled _ => .no s
      | .wait s => .no s
  else if stop ≤ t.at_ then .yes (upd s fun t => { t with spent := true })
  else
    match takeFirst (fun r => r.1 == t.at_) t.ahead with
    | some (r, l) =>
      (s.putElem pos t ((at_ t.at_).follow (match r.2 with | some v => v.toNat | none => 0) r.2.isNone)).andThen fun s =>
        upd s fun t => { t with at_ := t.at_ + 1, ahead := l }
    | none => (s.moveElem pos t (at_ t.at_)).andThen fun s => upd s fun t => { t with at_ := t.at_ + 1 }

/-- One step of an SCPY; with INST = 0x3FF it waits for the range of its instance (R369). (DEDUCED, assumption 38) -/
def State.copyMove (s : State) (pos : Nat) (t : Xfer) (src dst : Side) (ety tslot : Nat) (scale : Int) (dims : List (Nat × Int × Int))
    (early : Bool) : Moved :=
  let n := tileSize dims
  match t.span with
  | none =>
    match s.xferInst t with
    | some (_, x) =>
      match x.range with
      | some (first, len) =>
        let stop := min (first + len) t.desc.tiles
        .yes (s.updXfer pos t.id fun t => { t with span := some (first, max first stop), at_ := first * n, rd := first * n })
      | none => .no s
    | none => .no s
  | some (_, stop) =>
    match src, dst with
    | .memory _, .memory _ =>
      s.memoryMove pos t (stop * n)
        (fun k => t.elem k (k / n) (sidePtr src dims false k) (unitBytes ety) false (sidePtr dst dims true k) false) early
    | .memory _, _ => s.copyOut pos t src dst ety tslot scale dims (stop * n)
    | _, _ => s.copyIn pos t src dst ety dims (stop * n)

/-! ### Rows of indexed commands (R373 to R375) -/

/-- An index as its type reads it. (DEDUCED, assumption 39) -/
def indexValue (ity : Nat) (w : Word) : Int :=
  match ity with
  | 0 => (bits w 0 32 : Nat)
  | 1 => w.toNat
  | 2 => (w.setWidth 32).toInt
  | _ => w.toInt

/-- The element type of an index tile. -/
def indexEty (ity : Nat) : Nat := [6, 7, 2, 3].getD ity 7

def indexBytes (ity : Nat) : Nat := if ity % 2 = 0 then 4 else 8

/-- The flit of the miss tile for an index (R375). -/
def missFlit (x : Int) (p : Nat) : RowAt → Flit
  | .found _ => dataFlit (field 0 40 (x % 2 ^ 40).toNat ||| field 40 16 p) 0 false
  | .miss cause => dataFlit (field 0 40 (x % 2 ^ 40).toNat ||| field 40 16 p ||| field 56 8 cause) 0 false
  | .lost => dataFlit 0 0 true

/-- The operation of an update on an element type (R373). -/
def updOp (ety opr : Nat) : AtomOp :=
  if ety = 11 then .fadd
  else match opr with
    | 0 => .add
    | 1 => if ety < 4 then .min else .minn
    | _ => if ety < 4 then .max else .maxn

/-- The fields of an indexed transfer that its steps share. -/
structure Rows where
  op    : Nat
  base  : Word
  idx   : Word
  data  : Word
  ety   : Nat
  ity   : Nat
  opr   : Nat
  iep   : Nat
  dep   : Nat
  mep   : Nat
  len   : Nat
  count : Nat
  stride : Int
  ver   : Option TableVer
  deriving DecidableEq, Repr

/-- Elements of a row, and an element's bytes. -/
def Rows.size (r : Rows) : Nat := unitBytes r.ety
def Rows.per (r : Rows) : Nat := r.len / r.size
/-- Whether rows go to an endpoint, or come from one. -/
def Rows.feeds (r : Rows) : Bool := r.data == 0 && (r.op == 0x11 || r.op == 0x13)
def Rows.drinks (r : Rows) : Bool := r.data == 0 && (r.op == 0x12 || r.op == 0x14)

/-- The shared fields of an indexed transfer; none while no table version serves it. -/
def State.rowsOf (s : State) (t : Xfer) : Option Rows :=
  match t.desc with
  | .index op base idx data ety ity opr tbl iep dep mep len count stride _ =>
    let r : Rows := { op := op, base := base, idx := idx, data := data, ety := ety, ity := ity, opr := opr, iep := iep, dep := dep,
                      mep := mep, len := len, count := count, stride := stride, ver := none }
    if op = 0x11 ∨ op = 0x12 then some r
    else (s.tableFor t tbl).map fun v => { r with ety := v.ety.toNat, len := v.rowLen, ver := some v }
  | _ => none

/-- The ordinals of the current index tile. -/
def Xfer.tileStart (t : Xfer) : Nat := match t.span with | some (a, _) => a | none => t.at_
def Xfer.tileStop (t : Xfer) : Nat := match t.span with | some (_, b) => b | none => t.at_
def Xfer.tileCount (t : Xfer) : Nat := t.tileStop - t.tileStart

/-- The dense side's pointer of an element. -/
def Rows.densePtr (r : Rows) (c : Cursor) : Word := stepPtr r.data ((c.at_ * r.len + c.sub * r.size : Nat))

/-- The number of an element among those that a feeding command puts into flits. -/
def Rows.flat (r : Rows) (c : Cursor) : Nat := c.at_ * r.per + c.sub

/-! What comes of a piece of work on an index. -/

/-- The index waits as it is; its work goes on; it is done; its read is spilled and it is parked (R365), or an element of it is held whose
write waits (R367), while the work goes on with the rest of it, if there is one. -/
inductive Work
  | stay (s : State)
  | next (s : State) (c : Cursor)
  | ended (s : State)
  | park (s : State) (c : Cursor) (rest : Option Cursor)
  | hold (s : State) (c : Cursor) (rest : Option Cursor)

/-- The index after an element of its row. -/
def Cursor.after (c : Cursor) (r : Rows) : Option Cursor :=
  if c.only ∨ r.per ≤ c.sub + 1 then none else some { c with sub := c.sub + 1, lost := false }

/-- Goes on with what is left of an index. -/
def Work.go (s : State) : Option Cursor → Work
  | some c => .next s c
  | none => .ended s

/-- A step of a transfer that ends an element of an index. -/
def Moved.step (m : Moved) (c : Option Cursor) : Work :=
  match m with
  | .yes s => .go s c
  | .no s => .stay s

/-- Reads what an index waits for: its value, none where its read was discarded. A spilled read parks the index. -/
def State.cursorRead (s : State) (pos : Nat) (t : Xfer) (c : Cursor) (rest : Option Cursor) (e : Spill) (k : State → Option Word → Work) :
    Work :=
  if c.lost then k s none
  else
    match s.tryElem pos t { e with key := c.sub, hold := true } with
    | .ok pa =>
      let r := s.elemRead pos t e pa
      k r.1 (some (BitVec.ofNat 64 r.2))
    | .spilled s => .park s c rest
    | .wait s => .stay s

/-- An index has become a row; SLKP notes it for the miss tile (R375). -/
def State.foundRow (s : State) (pos : Nat) (t : Xfer) (r : Rows) (c : Cursor) (x : Int) (row : RowAt) : Work :=
  let p := c.at_ - t.tileStart
  .next (if r.mep = 255 then s else s.updXfer pos t.id fun t => { t with mbuf := t.mbuf ++ [(p, missFlit x p row)] })
    { c with row := some row, lost := false }

/-- An index becomes a row, through the table's redirect array where it has one, which is read as committed data (R373, R374).
(DEDUCED, assumption 39) -/
def State.resolveRow (s : State) (pos : Nat) (t : Xfer) (r : Rows) (c : Cursor) (x : Int) : Work :=
  match r.ver with
  | none => s.foundRow pos t r c x (.found (stepPtr r.base (x * r.stride)))
  | some v =>
    if x < 0 ∨ (v.rows : Int) ≤ x then s.foundRow pos t r c x (.miss 1)
    else if v.hot = 0 then s.foundRow pos t r c x (.found (v.cold x))
    else
      s.cursorRead pos t c none { t.elem c.at_ t.tiles (v.entryPtr x) 8 false 0 true with comm := true } fun s w =>
        s.foundRow pos t r c x (match w with | some e => v.entry x e | none => .lost)

/-- The cursor of the one element of an index that is in work, with the value read for it. -/
def Cursor.one (c : Cursor) (v : Option Word) : Cursor := { c with only := true, got := some v, lost := false }

/-- Whether an index whose own writes are not over comes before another, and may write bytes of an element at `p` (R367). -/
def Cursor.guards (u c : Cursor) (r : Rows) (p : Word) : Bool :=
  decide (u.at_ < c.at_) && (match u.row with
    | none => true
    | some (.found q) => decide (bits q 0 52 < bits p 0 52 + r.size) && decide (bits p 0 52 < bits q 0 52 + r.len)
    | some _ => false)

/-- Whether the write of an element has to wait for an earlier index: writes to overlapping bytes perform in the order of the indices
(R367). -/
def Xfer.guarded (t : Xfer) (r : Rows) (c : Cursor) (p : Word) : Bool :=
  (r.op == 0x12 || r.op == 0x14) && (t.parked ++ t.redo ++ t.held).any fun u => u.guards c r p

/-- Where an element of an index is written: in its row, or on the dense side. -/
def Rows.target (r : Rows) (c : Cursor) : Option Word :=
  if r.op = 0x11 ∨ r.op = 0x13 then some (r.densePtr c)
  else match c.row with
    | some (.found p) => some (stepPtr p ((c.sub * r.size : Nat)))
    | _ => none

/-- One element of a row that is read: gathered or looked up. What feeds an endpoint waits for its place among the flits (R369). In an
early step the element is read, and its write to the dense side held (R367). -/
def State.rowRead (s : State) (pos : Nat) (t : Xfer) (r : Rows) (c : Cursor) (row : RowAt) (early : Bool) : Work :=
  let put (s : State) (v : Option Word) : Work := .go (s.updXfer pos t.id fun t => { t with ahead := t.ahead ++ [(r.flat c, v)] }) (c.after r)
  let dense (v : Nat) (psn : Bool) : Work :=
    (s.putElem pos t { t.elem c.at_ t.tiles (r.densePtr c) r.size true 0 false with data := v, psn := psn }).step (c.after r)
  match row with
  | .found p =>
    let src := stepPtr p ((c.sub * r.size : Nat))
    if r.feeds then
      let e := { t.elem c.at_ t.tiles src r.size false 0 false with feed := true, key := r.flat c }
      match s.tryElem pos t e with
      | .ok pa =>
        let x := s.elemRead pos t e pa
        put x.1 (some (BitVec.ofNat 64 x.2))
      | .spilled s => .go s (c.after r)
      | .wait s => .stay s
    else if early then
      s.cursorRead pos t { c with only := true } (c.after r) (t.elem c.at_ t.tiles src r.size false 0 true) fun s v =>
        .hold s (c.one v) (c.after r)
    else if c.lost then dense 0 true
    else (s.moveElem pos t (t.elem c.at_ t.tiles src r.size false (r.densePtr c) false)).step (c.after r)
  | .miss _ => if r.feeds then put s (some 0) else dense 0 false
  | .lost => if r.feeds then put s none else dense 0 true

/-- The pointer that the log names for a miss: the index's cold place. -/
def Rows.missPtr (r : Rows) (x : Int) : Word := match r.ver with | some v => v.cold x | none => 0

/-- One element of a row that is updated, with its operand (R373, R375). -/
def State.rowUpdate (s : State) (pos : Nat) (t : Xfer) (r : Rows) (c : Cursor) (row : RowAt) (v : Option Word) : Work :=
  let op := updOp r.ety r.opr
  match row, v with
  | .found p, some w => (s.updateAt pos t c.at_ (stepPtr p ((c.sub * r.size : Nat))) op r.size w).step (c.after r)
  | .found p, none => .go (s.logUpdate pos t (stepPtr p ((c.sub * r.size : Nat))) 0 op 0x10 0 r.size) (c.after r)
  | .miss _, v =>
    let x : Int := match c.idx with | some (some i) => indexValue r.ity i | _ => 0
    .go (if c.sub = 0 then s.logUpdate pos t (r.missPtr x) (v.getD 0) op 0x0C 0 r.size else s) (c.after r)
  | .lost, _ => .go s (c.after r)

/-- The write of an element whose value is at hand: into its row, by an update, or on the dense side. -/
def State.putRow (s : State) (pos : Nat) (t : Xfer) (r : Rows) (c : Cursor) (row : RowAt) (v : Option Word) : Work :=
  if r.op = 0x14 then s.rowUpdate pos t r c row v
  else
    match r.target c with
    | some p =>
      (s.putElem pos t { t.elem c.at_ t.tiles p r.size true 0 false with
        data := (match v with | some w => w.toNat | none => 0), psn := v.isNone }).step (c.after r)
    | none => .go s (c.after r)

/-- One element of a row that is written: scattered or updated. Its value is absorbed, or read from the dense side: where that read is
spilled, only the one element waits. While an earlier index may still write the same bytes, or in an early step, the element is held with
its value (R367). -/
def State.rowWrite (s : State) (pos : Nat) (t : Xfer) (r : Rows) (c : Cursor) (row : RowAt) (early : Bool) : Work :=
  let waits : Bool := match r.target c with | some p => early || t.guarded r c p | none => false
  let put (s : State) (v : Option Word) : Work :=
    if waits then .hold s (c.one v) (c.after r) else s.putRow pos t r c row v
  match c.got with
  | some v => if waits then .hold s c none else s.putRow pos t r c row v
  | none =>
    if r.drinks then put s (c.vals.getD c.sub none)
    else if r.op = 0x14 ∨ waits ∨ c.lost then
      s.cursorRead pos t { c with only := true } (c.after r) (t.elem c.at_ t.tiles (r.densePtr c) r.size false 0 true) put
    else
      match r.target c with
      | some p => (s.moveElem pos t (t.elem c.at_ t.tiles (r.densePtr c) r.size false p false)).step (c.after r)
      | none => .go s (c.after r)

/-- One piece of work on an index: it is read from its array, becomes a row, and has the next element of the row served (R373). -/
def State.work (s : State) (pos : Nat) (t : Xfer) (r : Rows) (c : Cursor) (early : Bool) : Work :=
  match c.idx with
  | none =>
    s.cursorRead pos t c none (t.elem c.at_ t.tiles (stepPtr r.idx ((c.at_ * indexBytes r.ity : Nat))) (indexBytes r.ity) false 0 true)
      fun s w => .next s { c with idx := some w, lost := false }
  | some w =>
    match c.row, w with
    | none, none => s.foundRow pos t r c 0 .lost
    | none, some v => s.resolveRow pos t r c (indexValue r.ity v)
    | some row, _ =>
      if r.op = 0x11 ∨ r.op = 0x13 then
        match c.got with
        | some v => if early then .hold s c none else s.putRow pos t r c row v
        | none => s.rowRead pos t r c row early
      else s.rowWrite pos t r c row early

/-- The data flits of the miss tile, one for each index of the tile (R375). -/
def Xfer.missFlits (t : Xfer) (n : Nat) : List Flit :=
  (List.range n).map fun k =>
    let f := match t.mbuf.find? fun e => e.1 == k with | some e => e.2 | none => missFlit 0 k (.found 0)
    if k + 1 = n then { f with ctl := f.ctl ||| 0x08 } else f

/-- The end of an index tile: its miss tile goes out, and the next tile begins; a tile that carried LAST was the last one. -/
def State.tileOver (s : State) (pos : Nat) (t : Xfer) (r : Rows) : State :=
  let n := t.tileCount
  let miss := if r.mep = 255 then [] else headerFlit (headerWord 7 0 0 0 (n - 1)) false :: t.missFlits n
  s.updXfer pos t.id fun t =>
    { t with phase := .header, hdr := false, psn := false, bad := false, mbuf := [], mout := miss, spent := t.last && miss.isEmpty,
             tiles := t.tiles + 1 }

/-- A flit of an index tile (R373). (DEDUCED, assumption 39) -/
def State.indexTake (s : State) (pos : Nat) (t : Xfer) (r : Rows) (f : Flit) : State :=
  let upd (s : State) (g : Xfer → Xfer) : State := s.updXfer pos t.id g
  let after (last : Bool) (t : Xfer) : Xfer :=
    { t with last := last, tiles := t.tiles + 1, idx := [], psn := false, phase := if r.drinks then .skipData else .header,
             spent := last && !r.drinks }
  let bad (s : State) : State :=
    upd (s.xferHeaderBad pos t t.at_ t.tiles) fun t => if f.eot then after f.last t else { t with phase := .skipIndex, idx := [] }
  match t.phase with
  | .header =>
    let h := parseHdr f.data
    if f.hdr ∧ f.psn then upd s fun t => { t with phase := .indices, psn := true, idx := [], span := none }
    else if f.hdr ∧ f.sot ∧ h.ety = indexEty r.ity ∧ h.count ≤ 65536 then
      upd s fun t => { t with phase := .indices, psn := false, idx := [], span := some (t.at_, t.at_ + h.count) }
    else bad s
  | .indices =>
    if f.hdr then bad s
    else
      let left := match t.span with | some (a, b) => b - a - t.idx.length | none => 2
      let l := t.idx ++ flitUnits (indexEty r.ity) f t.psn left
      upd s fun t =>
        if f.eot then { t with idx := l, phase := .rows, last := f.last, hdr := false, psn := false, span := some (t.at_, t.at_ + l.length) }
        else { t with idx := l }
  | .skipIndex => if f.eot then upd s (after f.last) else s
  | _ => s

/-- A flit of a data tile that is absorbed (R373). -/
def State.dataTake (s : State) (pos : Nat) (t : Xfer) (r : Rows) (f : Flit) : State :=
  let upd (s : State) (g : Xfer → Xfer) : State := s.updXfer pos t.id g
  let drop (t : Xfer) : Xfer :=
    { t with idx := [], cur := none, part := [], mbuf := [], tiles := t.tiles + 1, at_ := t.tileStop,
             phase := if f.eot then .header else .skipData, hdr := false, spent := f.eot && t.last }
  let bad (s : State) : State := upd (s.xferHeaderBad pos t t.at_ t.tiles) drop
  if t.phase = .skipData then (if f.eot then upd s fun t => { t with phase := .header, spent := t.last } else s)
  else if !t.hdr then
    if f.hdr ∧ f.psn then upd s fun t => { t with hdr := true, psn := true }
    else if headerFits f r.ety t.tileCount r.per then upd s fun t => { t with hdr := true, psn := false }
    else bad s
  else if f.hdr then bad s
  else
    let left := match t.cur with
      | some c => (t.tileStop - c.at_) * r.per - c.vals.length
      | none => (t.tileStop - t.at_) * r.per
    upd s fun t => { t with part := flitUnits r.ety f t.psn left }

/-- The next index begins: of an array, or of the index tile. -/
def Xfer.nextIndex (t : Xfer) (r : Rows) : Option Xfer :=
  let c : Cursor := { at_ := t.at_, sub := 0, idx := none, row := none, vals := [], only := false, got := none, lost := false }
  if r.idx ≠ 0 then (if t.at_ < r.count then some { t with cur := some c, at_ := t.at_ + 1 } else none)
  else
    match t.idx with
    | w :: l => some { t with cur := some { c with idx := some w }, idx := l, at_ := t.at_ + 1 }
    | [] => none

/-- What a piece of work on the index in hand, or on one taken up again, leaves. -/
def Work.settle (pos : Nat) (t : Xfer) (again : Bool) : Work → Moved
  | .stay s' => .no s'
  | .next s' c => .yes (s'.updXfer pos t.id fun t => if again then { t with redo := c :: t.redo.drop 1 } else { t with cur := some c })
  | .ended s' => .yes (s'.updXfer pos t.id fun t => if again then { t with redo := t.redo.drop 1 } else { t with cur := none })
  | .park s' p rest =>
    .yes (s'.updXfer pos t.id fun t =>
      let t := { t with parked := t.parked ++ [p] }
      if again then { t with redo := rest.toList ++ t.redo.drop 1 } else { t with cur := rest })
  | .hold s' p rest =>
    .yes (s'.updXfer pos t.id fun t =>
      let t := { t with held := t.held ++ [p] }
      if again then { t with redo := rest.toList ++ t.redo.drop 1 } else { t with cur := rest })

/-- The first held element that `free` lets go is taken up again. -/
def Xfer.unhold (t : Xfer) (free : Cursor → Bool) : Option Xfer :=
  (takeFirst free t.held).map fun (c, l) => { t with held := l, redo := c :: t.redo }

/-- A held element of an indexed command whose write need not wait any more is taken up again (R367). -/
def Xfer.release (t : Xfer) (r : Rows) : Option Xfer :=
  t.unhold fun c => match r.target c with | some p => !t.guarded r c p | none => true

/-- Whether every index of an indexed command, or of its tile, has been served, and its flits formed. -/
def Xfer.served (t : Xfer) (r : Rows) : Bool := t.cursors.isEmpty && (!r.feeds || t.tileStop * r.per ≤ t.rd)

/-- The next value of a feeding command joins its flit, once it has been read (R369). -/
def State.formRow (s : State) (pos : Nat) (t : Xfer) (r : Rows) : Option State :=
  if r.feeds ∧ t.hdr then
    (takeFirst (fun e => e.1 == t.rd) t.ahead).map fun (e, l) =>
      s.updXfer pos t.id fun t => { t.push r.ety e.2 (decide (t.rd + 1 = t.tileStop * r.per)) with rd := t.rd + 1, ahead := l }
  else none

/-- The flits of an indexed command that are formed enter their channels: data first, then a miss tile (R369, R375). -/
def State.indexOut (s : State) (pos : Nat) (t : Xfer) (r : Rows) : Option State :=
  match t.buf, t.mout with
  | f :: l, _ => (s.deliverTo t (.endpoint r.dep) f).map fun s => s.updXfer pos t.id fun t => { t with buf := l }
  | [], f :: l => (s.deliverTo t (.endpoint r.mep) f).map fun s =>
      s.updXfer pos t.id fun t => { t with mout := l, spent := t.spent || (l.isEmpty && t.last) }
  | [], [] => none

/-- One step of an indexed command. (DEDUCED, assumption 39) -/
def State.indexMove (s : State) (pos : Nat) (t : Xfer) (r : Rows) (early : Bool) : Moved :=
  let upd (s : State) (f : Xfer → Xfer) : State := s.updXfer pos t.id f
  let rows : Bool := r.idx != 0 || t.phase == .rows
  match s.indexOut pos t r with
  | some s => .yes s
  | none =>
    match (if t.buf.isEmpty then s.formRow pos t r else none), (if early then none else t.release r), t.redo with
    | some s, _, _ => .yes s
    | none, some u, _ => .yes (upd s fun _ => u)
    | none, none, c :: _ => (s.work pos t r c early).settle pos t true
    | none, none, [] =>
      if r.idx = 0 ∧ (t.phase = .header ∨ t.phase = .indices ∨ t.phase = .skipIndex) then
        if !t.mout.isEmpty ∨ !t.buf.isEmpty then .no s
        else
          match s.takeFrom t (.endpoint r.iep) with
          | some (f, s) => .yes (s.indexTake pos t r f)
          | none => .no s
      else if r.feeds ∧ rows ∧ !t.hdr ∧ t.rd < t.tileStop * r.per ∧ t.buf.isEmpty then
        .yes (upd s fun t => { t with hdr := true, buf := [unitsHeader r.ety 0 0 t.tileCount r.per] })
      else if r.drinks ∧ (t.phase = .skipData ∨ (rows ∧ !t.hdr)) then
        match s.takeFrom t (.endpoint r.dep) with
        | some (f, s) => .yes (s.dataTake pos t r f)
        | none => .no s
      else
        match t.cur with
        | some c =>
          if r.drinks ∧ c.vals.length < r.per then
            match t.part with
            | v :: l => .yes (upd s fun t => { t with part := l, cur := some { c with vals := c.vals ++ [v] } })
            | [] =>
              match s.takeFrom t (.endpoint r.dep) with
              | some (f, s) => .yes (s.dataTake pos t r f)
              | none => .no s
          else (s.work pos t r c early).settle pos t false
        | none =>
          match t.nextIndex r with
          | some u => .yes (upd s fun _ => u)
          | none =>
            if !t.served r then .no s
            else if r.idx ≠ 0 then .yes (upd s fun t => { t with spent := true })
            else .yes (s.tileOver pos t r)

/-! ### Migrations (R377) -/

/-- Copies the next chunk of a row; a spilled access is waited for, and the chunk then read again. (DEDUCED, assumption 40) -/
def State.migrateMove (s : State) (pos : Nat) (t : Xfer) (tbl : Nat) (old dst : Word) (len : Nat) : Moved :=
  if s.xferHeld pos t then .no s
  else if len ≤ t.at_ then .yes (s.updXfer pos t.id fun t => { t with spent := true })
  else
    let align := match (s.ctx t.ctx).tables.find? fun v => v.tbl == tbl && v.serial == t.version with
      | some v => unitBytes v.ety.toNat
      | none => 1
    let e := chunkRead t old dst len align
    let write (s : State) (v : Nat) (psn : Bool) : Moved :=
      let w := { e.follow v psn with hold := true }
      match s.tryElem pos t w with
      | .ok pa => .yes ((s.elemWrite pos t w pa).updXfer pos t.id fun t => { t with at_ := t.at_ + e.size, lost := false })
      | .spilled s => .no s
      | .wait s => .no s
    if t.lost then write s 0 true
    else
      match s.tryElem pos t e with
      | .ok pa =>
        let r := s.elemRead pos t e pa
        write r.1 r.2 false
      | .spilled s => .no s
      | .wait s => .no s

/-- Whether an update still works on a row at its old place, or waits there behind a spilled access. -/
def State.updating (s : State) (c : Fin 16) (old : Word) (len : Nat) : Bool :=
  (s.streams.any fun (_, v) => v.spill.any fun e => e.ctx = c && e.upd.isSome && decide (bits old 0 52 ≤ bits e.va 0 52) &&
    decide (bits e.va 0 52 < bits old 0 52 + len)) ||
  s.streams.any fun (_, v) => v.xfers.any fun t => t.ctx = c && (match t.desc with
    | .index op _ _ _ _ _ _ _ _ _ _ _ _ _ _ => op == 0x14 && (t.cursors.any fun x => match x.row with
      | some (.found p) => bits p 0 52 == bits old 0 52
      | _ => false)
    | _ => false)

/-- The write of a row's redirect entry that commits a migration: one committed word (R377). -/
def entryWrite (t : Xfer) (entry new : Word) : Spill :=
  { t.elem t.at_ 0 entry 8 true 0 true with data := new.toNat, comm := true }

/-- The migration of a number commits: its row is copied and nothing of it is spilled (R377). An entry write that fails its checks is
spilled like any access; where DISCARD has dropped it, the migration ends with the entry as it was (R365, R366).
(DEDUCED, assumption 40) -/
def execSmigCommit (k : Nat) (s : State) : Result :=
  match s.streams.findSome? fun (p, v) => (v.xfers.find? fun t => t.id = k).map fun t => (p, t) with
  | none => .next s
  | some (pos, t) =>
    match t.desc with
    | .migrate _ _ new old _ len entry =>
      if !t.spent ∨ ((s.streamer pos).spill.any fun e => e.xfer = t.id) ∨ s.updating t.ctx old len ∨ s.filling t then .next s
      else if len < t.at_ then .next (s.endXfer pos t)
      else
        let e := entryWrite t entry new
        match s.tryElem pos t e with
        | .ok pa => .next ((s.elemWrite pos t e pa).endXfer pos t)
        | .spilled s => .next s
        | .wait s => .next s
    | _ => .next s

/-! ### Reductions and collections (R430 to R432) -/

/-- The write of a reduced element to the root. -/
def rootWrite (t : Xfer) (root : Word) (z e : Nat) (v : Option Word) : Spill :=
  { t.elem e 0 (stepPtr root ((e * z : Nat))) z true 0 false with data := (match v with | some a => a.toNat | none => 0), psn := v.isNone }

/-- A value joins the running value of an element of SRED, in participant order; none stands for a poisoned one (R430). -/
def joinPart (ety op : Nat) (sat : Bool) (acc : List (Option Word)) (v : Option Word) : Option Word :=
  match acc, v with
  | [some a], some b => some (BitVec.ofNat 64 (combine ety op .rne sat a.toNat b.toNat).1)
  | [none], _ => none
  | _, v => v

/-- One piece of work on an element of SRED: its next participant is read and joins the running value, or the root element is written;
the cursor's ordinal is the access's ELEM, k × LEN + e, and `sub` is k (R430, R432). A spilled read parks the one element, while the
others go on (R365); in an early step the write to the root is held (R367). (DEDUCED, assumption 40) -/
def State.reduceWork (s : State) (pos : Nat) (t : Xfer) (parts : List Participant) (root : Word) (ety op : Nat) (sat : Bool) (len : Nat)
    (c : Cursor) (early : Bool) : Work :=
  let z := unitBytes ety
  let e := c.at_ % len
  match c.got with
  | some v => if early then .hold s c none else (s.putElem pos t (rootWrite t root z e v)).step none
  | none =>
    match parts[c.sub]? with
    | none => .next s { c with got := some (c.vals.headD none), lost := false }
    | some p =>
      s.cursorRead pos t c none { t.elem c.at_ 0 (stepPtr p.ptr ((e * z : Nat))) z false 0 true with part := some p } fun s v =>
        .next s { c with at_ := c.at_ + len, sub := c.sub + 1, vals := [joinPart ety op sat c.vals v], lost := false }

/-- One step of SRED: a held element, one taken up again, the one in work, or the next one. (DEDUCED, assumption 40) -/
def State.reduceMove (s : State) (pos : Nat) (t : Xfer) (parts : List Participant) (root : Word) (ety op : Nat) (sat : Bool) (len : Nat)
    (early : Bool) : Moved :=
  let work (c : Cursor) : Work := s.reduceWork pos t parts root ety op sat len c early
  match (if early then none else t.unhold fun _ => true), t.redo, t.cur with
  | some u, _, _ => .yes (s.updXfer pos t.id fun _ => u)
  | none, c :: _, _ => (work c).settle pos t true
  | none, [], some c => (work c).settle pos t false
  | none, [], none =>
    if t.at_ < len then
      let c : Cursor := { at_ := t.at_, sub := 0, idx := none, row := none, vals := [], only := false, got := none, lost := false }
      .yes (s.updXfer pos t.id fun t => { t with cur := some c, at_ := t.at_ + 1 })
    else if t.cursors.isEmpty then .yes (s.updXfer pos t.id fun t => { t with spent := true })
    else .no s

/-- The access of an element of SCOL, with its write: `k` runs over the participants' elements in order (R431, R432). -/
def collectElem (t : Xfer) (parts : List Participant) (root : Word) (ety kind len k : Nat) : Spill :=
  let z := unitBytes ety
  let e := k % len
  let p : Participant := parts.getD (k / len) { ptr := 0, rank := false, site := none }
  let region := stepPtr p.ptr ((e * z : Nat))
  let whole := stepPtr root (((if kind = 0 then e else k) * z : Nat))
  if kind = 1 then { t.elem k 0 region z false whole false with part := some p }
  else { t.elem k 0 whole z false region false with partN := some p }

/-- One element of SCOL. -/
def State.collectMove (s : State) (pos : Nat) (t : Xfer) (parts : List Participant) (root : Word) (ety kind len : Nat) (early : Bool) :
    Moved :=
  s.memoryMove pos t (parts.length * len) (collectElem t parts root ety kind len) early

/-! ### Drains (R411, R412) -/

/-- One step of a drain: its read is posted, its tile formed once the store has answered, and the tile delivered. -/
def State.drainMove (s : State) (t : Xfer) (fmt rm tbl : Nat) (scl : BitVec 8) (rows : Option (Vector AccRow 16)) (etgt : Word)
    (site asl ep : Nat) : Moved :=
  let upd (s : State) (f : Xfer → Xfer) : State := s.updXfer drainUnit t.id f
  match s.xferInst t with
  | none => .no s
  | some (_, x) =>
    if !t.hdr then
      let site := x.siteOf site
      if s.accRoom site then
        .yes (upd (s.accPost site (.drain t.id (fin 4 asl) (t.version == 1))) fun t =>
          { t with hdr := true, desc := .drain fmt rm tbl scl rows etgt site asl ep })
      else .no s
    else
      match t.buf, rows with
      | f :: l, _ =>
        match s.deliverTo t (.endpoint ep) f with
        | some s => .yes (if l.isEmpty then s.endXfer drainUnit t else upd s fun t => { t with buf := l })
        | none => .no s
      | [], some v =>
        let d := drainTile s site fmt rm tbl scl v
        .yes ((upd s fun t => { t with buf := d.1, spent := true }).pageFlags site d.2)
      | [], none => .no s

/-! ### A step of a transfer -/

/-- One step of a transfer; an early one only reads ahead, where the transfer moves data within memory (R367). -/
def State.xferStep (s : State) (pos : Nat) (t : Xfer) (early : Bool) : Moved :=
  match t.desc with
  | .copy src dst ety tslot scale dims _ => s.copyMove pos t src dst ety tslot scale dims early
  | .index _ _ _ _ _ _ _ _ _ _ _ _ _ _ _ =>
    match s.rowsOf t with
    | some r => s.indexMove pos t r early
    | none => .no s
  | .migrate tbl _ _ old dst len _ => s.migrateMove pos t tbl old dst len
  | .reduce parts root ety op sat len => s.reduceMove pos t parts root ety op sat len early
  | .collect parts root ety kind len => s.collectMove pos t parts root ety kind len early
  | .drain fmt rm tbl scl rows etgt site asl ep => s.drainMove t fmt rm tbl scl rows etgt site asl ep

/-- The k-th transfer of a streamer moves, if it can. -/
def State.moveXfer (s : State) (pos k : Nat) (early : Bool) : State :=
  match (s.streamer pos).xfers[k]? with
  | none => s
  | some t =>
    if t.spent ∧ pos ≠ drainUnit ∨ !s.xferActs t ∨ s.filling t then s
    else
      match s.xferStep pos t early with
      | .yes s => s
      | .no s => s

end Sys2Proof.Machine
end

