-- ==== Sys2Proof/Machine/Doors.lean ====
section
/-!
DEFINITION. Sys2Proof/Machine/Doors.lean: edge-slice programs, doors with their serais and threads, and windows (R378 to R390).
-/
namespace Sys2Proof.Machine

/-! ### Edge-slice programs (R378, R379) -/

def EdgeProg.absorbs (p : EdgeProg) : Bool := bit p.words[0] 0
def EdgeProg.streams (p : EdgeProg) : Bool := bit p.words[0] 1
def EdgeProg.ety (p : EdgeProg) : Nat := bits p.words[0] 4 4
def EdgeProg.ep (p : EdgeProg) : Nat := bits p.words[0] 8 8

/-- Extents and strides of the dimensions in use; the second stride is not used. -/
def EdgeProg.dims (p : EdgeProg) : List (Nat × Int × Int) :=
  (List.range (bits p.words[0] 16 2 + 1)).map fun d =>
    let w := p.words.toList.getD (2 + d) 0
    (bits w 0 32, (BitVec.ofNat 32 (bits w 32 32)).toInt, 0)

/-- Elements of one pass over the pattern. -/
def EdgeProg.total (p : EdgeProg) : Nat := (p.dims.map (·.1)).prod

/-- The byte offset of the e-th element of a pass. -/
def EdgeProg.offset (p : EdgeProg) (e : Nat) : Nat :=
  ((bits p.words[1] 0 23 : Nat) + patternOffset (fun d => d.2.1) p.dims e).toNat

/-- Whether every pass has been made; REP 0 means without end. -/
def EdgeProg.finished (p : EdgeProg) : Bool := bits p.words[0] 32 32 != 0 && decide (bits p.words[0] 32 32 ≤ p.pass)

/-- Whether a program is refused at load: a field out of range, an element that is not aligned or leaves the slice. -/
def EdgeProg.illFormed (p : EdgeProg) : Bool :=
  let w := p.words[0]
  let z := unitBytes p.ety
  let dims := p.dims
  let reach (f : Int → Bool) : Int := ((dims.filter fun d => f d.2.1).map fun d => ((d.1 : Int) - 1) * d.2.1).sum
  let low : Int := (bits p.words[1] 0 23 : Nat) + reach fun v => v < 0
  let high : Int := (bits p.words[1] 0 23 : Nat) + reach fun v => 0 ≤ v
  bits w 2 2 != 0 || decide (14 ≤ p.ety) || bits w 18 2 != 0 || bits w 22 2 != 0 || bits p.words[1] 23 41 != 0 ||
    (dims.zipIdx.any fun e => e.1.1 == 0 || (decide (e.2 < 2) && decide (65536 < e.1.1))) ||
    (decide (p.ety = 10) && decide (65536 < 3 * (dims.headD (1, 0, 0)).1)) ||
    (p.words[6] != 0 && (p.absorbs || p.streams)) || p.words[7] != 0 || decide (low < 0) || decide (6 * 2 ^ 20 < high + z) ||
    bits p.words[1] 0 23 % z != 0 || (dims.any fun d => decide (1 < d.1) && d.2.1 % (z : Int) != 0)

/-- The instance of a program. -/
def State.progInst (s : State) (p : EdgeProg) : Option (Nat × Inst) :=
  match s.insts.findIdx? p.boundTo with
  | some i => (s.insts[i]?).map fun x => (i, x)
  | none => none

/-- A program leaves its slot, and the channel it fed has no feeder any more. -/
def State.unloadProg (s : State) (pos : Nat) (prog : Fin 4) : State :=
  let v := s.slice pos
  let s := match v.progs[prog] with
    | some p =>
      match p.feeding, s.progInst p with
      | some (ep, _), some (i, _) => (s.setSlice pos { v with progs := v.progs.set prog none }).freeEp i ep
      | _, _ => s
    | none => s
  s.setSlice pos { s.slice pos with progs := (s.slice pos).progs.set prog none }

/-- Whether the program of a slot has a tile in progress. -/
def State.progBusy (s : State) (pos : Nat) (prog : Fin 4) : Bool :=
  match (s.slice pos).progs[prog] with
  | some p => p.tile
  | none => false

def execSagp (_q : CmdQual) (pos : BitVec 7) (prog : BitVec 2) (pgm : BitVec 46) (slot : BitVec 3) (inst : BitVec 10) (s : State) :
    Result :=
  let k := s.cmd
  let n := fin 4 prog.toNat
  if s.progBusy pos.toNat n then holdBack s
  else
    match s.engineWords k.ctx (pgm.toNat * 64) 8 with
    | .error e => .next (s.refuse e (BitVec.ofNat 64 (pgm.toNat * 64)))
    | .ok w =>
      let s := s.askWords (seqKey k.ctx) k.ctx (pgm.toNat * 64) 8
      let p : EdgeProg := { ctx := k.ctx, words := Vector.ofFn fun i : Fin 8 => w.getD i 0, slot := slot.toNat, inst := inst.toNat,
                            at_ := 0, pass := 0, tile := false, bad := false, hdr := false, buf := [] }
      let s' := s.unloadProg pos.toNat n
      let load (s : State) : State := s.setSlice pos.toNat { s.slice pos.toNat with progs := (s.slice pos.toNat).progs.set n (some p) }
      if p.illFormed then refused s
      else if p.streams then .next (load s')
      else
        match s'.progInst p with
        | none => refused s
        | some (i, x) =>
          if p.absorbs then (if x.cfg.isOutput p.ep then .next (load s') else refused s)
          else if s'.bindable x p.ep p.words[6] then
            .next (load (s'.setInst i ((x.bindEp p.ep p.words[6]).flushTokens p.ep (x.arm p.ep).fed.length)))
          else refused s

def execSagpU (_q : CmdQual) (pos : BitVec 7) (prog : BitVec 2) (s : State) : Result :=
  if s.progBusy pos.toNat (fin 4 prog.toNat) then holdBack s else .next (s.unloadProg pos.toNat (fin 4 prog.toNat))

/-- Bytes of a slice's SRAM. -/
def Slice.read (v : Slice) (a n : Nat) : Nat := ({ Mem.cleared with bytes := v.sram } : Mem).read a n
def Slice.write (v : Slice) (a n x : Nat) : Slice := { v with sram := (({ Mem.cleared with bytes := v.sram } : Mem).write a n x).bytes }

/-- A pushing program forms its next flit: the header of a tile, or a data flit from its slice. (DEDUCED, assumption 42) -/
def EdgeProg.form (p : EdgeProg) (v : Slice) : EdgeProg :=
  let w := p.words[0]
  let n := tileSize p.dims
  let cols := (p.dims.headD (1, 0, 0)).1
  if !p.hdr then
    { p with hdr := true, buf := [unitsHeader p.ety (bits w 20 2) (BitVec.ofNat 8 (bits w 24 8)).toInt (n / cols) cols] }
  else
    let k := min (unitLanes p.ety) (n - p.at_ % n)
    let l := (List.range k).map fun j => some (BitVec.ofNat 64 (v.read (p.offset (p.at_ + j)) (unitBytes p.ety)))
    let stop := decide ((p.at_ + k) % n = 0)
    let over_ := p.at_ + k = p.total
    { p with hdr := !stop, buf := [unitsFlit p.ety l stop], at_ := if over_ then 0 else p.at_ + k, pass := if over_ then p.pass + 1 else p.pass }

/-- The record of a program whose tile header is bad (R371, R379). -/
def State.progHeaderBad (s : State) (pos : Nat) (p : EdgeProg) : State :=
  let launch := match s.progInst p with | some (_, x) => (if p.streams then none else s.instLaunch x) | none => none
  let hyp := match s.progInst p with | some (_, x) => (if p.streams then 0 else hypNum x.hyp) | none => 0
  (s.asyncRecord launch (siteKey (edgeSite pos)) 2
    { addr := 0, tid := 0, insn := 0, cause := 0x20, src := 4, ctx := p.ctx, expt := 0, fndt := 0, hyp := BitVec.ofNat 8 hyp,
      site := BitVec.ofNat 10 (edgeSite pos), unit := BitVec.ofNat 8 pos, lane := 0,
      elem := BitVec.ofNat 64 (p.at_ / tileSize p.dims * tileSize p.dims), time := 0,
      pc := field 32 32 (p.at_ / tileSize p.dims) ||| flag 8 true, detail := 0, seq := 0 }).1

/-- A program after the tile it absorbs has ended. -/
def EdgeProg.nextTile (p : EdgeProg) : EdgeProg :=
  let n := tileSize p.dims
  let e := (p.at_ / n + 1) * n
  { p with tile := false, hdr := false, bad := false, at_ := if e = p.total then 0 else e, pass := if e = p.total then p.pass + 1 else p.pass }

/-- An absorbing program takes a flit: headers are compared, data is written to its slice; a poisoned flit writes nothing.
(DEDUCED, assumption 42) -/
def State.progTake (s : State) (pos : Nat) (prog : Fin 4) (p : EdgeProg) (f : Flit) : State :=
  let n := tileSize p.dims
  let cols := (p.dims.headD (1, 0, 0)).1
  let put (s : State) (p : EdgeProg) : State := s.setSlice pos { s.slice pos with progs := (s.slice pos).progs.set prog (some p) }
  let bad (s : State) : State :=
    put (s.progHeaderBad pos p) (if f.eot then p.nextTile else { p with bad := true, tile := true, hdr := false })
  if p.bad then put s (if f.eot then p.nextTile else p)
  else if f.hdr then
    if p.hdr then bad s
    else if f.psn ∨ headerFits f p.ety (n / cols) cols then put s { p with hdr := true, tile := true }
    else bad s
  else if !p.hdr then bad s
  else
    let left := n - p.at_ % n
    let l := (flitUnits p.ety f false left).zipIdx
    let s := l.foldl
      (fun (s : State) e => match e.1 with
        | some w => s.setSlice pos ((s.slice pos).write (p.offset (p.at_ + e.2)) (unitBytes p.ety) w.toNat)
        | none => s) s
    put s (if left ≤ unitLanes p.ety then p.nextTile else { p with at_ := p.at_ + l.length })

/-- The program of a slot pushes or absorbs its next flit (R369, R379). -/
def execEdgeProgramFlit (pos : Fin 128) (prog : Fin 4) (s : State) : Result :=
  match (s.slice pos).progs[prog] with
  | none => .next s
  | some p =>
    if p.absorbs then
      if p.finished then .next s
      else if p.streams then
        match p.buf with
        | f :: l => .next (s.progTake pos prog { p with buf := l } f)
        | [] => .next s
      else
        match s.progInst p with
        | some (i, x) =>
          match s.takeEp i x p.ep s.clock with
          | some (f, s) => .next (s.progTake pos prog p f)
          | none => .next s
        | none => .next s
    else
      let p := if p.buf.isEmpty ∧ !p.finished then p.form (s.slice pos) else p
      let s := s.setSlice pos { s.slice pos with progs := (s.slice pos).progs.set prog (some p) }
      if p.streams then .next s
      else
        match p.buf, s.progInst p with
        | f :: l, some (i, x) =>
          match s.deliverEp i x p.ep p.feeding f with
          | some s => .next (s.updProg pos prog fun p => { p with buf := l, tile := !f.eot })
          | none => .next s
        | _, _ => .next s

/-! ### Doors: binding and requests (R380 to R383) -/

def execSdor (_q : CmdQual) (door : BitVec 8) (slot : BitVec 3) (inst : BitVec 10) (blk : BitVec 48) (s : State) : Result :=
  let c := s.cmd.ctx
  match (s.ctx c).slots[fin 8 slot.toNat] with
  | none => refused s
  | some cfg =>
    if cfg.doors.length ≤ door.toNat then refused s
    else
      match s.engineWords c (blk.toNat * 16) 4 with
      | .error e => .next (s.refuse e (BitVec.ofNat 64 (blk.toNat * 16)))
      | .ok w =>
        let s := s.askWords (seqKey c) c (blk.toNat * 16) 4
        let stk := w.getD 0 0
        if bits stk 0 4 ≠ 0 ∨ bits stk 52 6 ≠ 0 ∨ w.getD 2 0 ≠ 0 ∨ w.getD 3 0 ≠ 0 then refused s
        else onInsts slot inst s fun s i x =>
          s.setInst i (x.setSerai door.toNat { x.serai door.toNat with bound := some (stk, w.getD 1 0) })

/-- The place of the next ticket is FREE. -/
def Serai.room (v : Serai) (size : Nat) : Bool := !(v.places.any fun p => p.ticket % size == v.next % size)

/-- A request tile opens. -/
def Serai.openTile (v : Serai) (header : Flit) : Serai :=
  { v with tiles := v.tiles ++ [{ num := v.tilesSeen, header := header, hsent := false, marks := [], left := 0, closed := false }],
           tilesSeen := v.tilesSeen + 1, pos := 0 }

/-- A request flit takes the next ticket: parked, or answered with poison when it is poisoned. -/
def Serai.request (v : Serai) (f : Flit) (psn : Bool) (reply : Nat) (stamp : Word) : Serai :=
  let p : Ticket := { st := if psn then .replied else .parked, ticket := v.next, req := f, pos := v.pos, tile := v.tilesSeen - 1,
                      stamp := stamp, result := if psn then List.replicate reply (dataFlit 0 0 true) else [], order := v.replies,
                      index := 0, sent := 0 }
  { v with places := v.places ++ [p], next := (v.next + 1) % 2 ^ 32, pos := v.pos + 1, replies := if psn then v.replies + 1 else v.replies,
           tiles := v.tiles.map fun (t : DoorTile) =>
             if t.num + 1 = v.tilesSeen then { t with marks := t.marks ++ [f.marks], closed := f.eot } else t }

/-- The header of a request tile's replies (R383). -/
def doorHeader (n : NodeFields) (h : TileHdr) (reply : Nat) : Word :=
  headerWord n.ety.toNat 0 0 (h.flits - 1) (reply * lanesOf n.ety.toNat - 1)

/-- NDOR takes a header while fewer than four tiles are open, and a data flit when the next ticket's place is free.
(DEDUCED, assumption 43) -/
def execNdor (n : NodeFields) (s : State) : Result :=
  let c := s.pe
  match s.insts[c.inst]? with
  | none => .next s
  | some x =>
    let d := bits n.param 0 8
    let f : Firing := { s := s, i := c.inst, x := x, page := c.page, pe := c.pe, n := n, ins := [fin 16 n.ina.toNat] }
    match f.heads with
    | [some q] =>
      let v := x.serai d
      let door := x.door d
      if !s.instActs x then .next s
      else if q.hdr then
        if 4 ≤ v.tiles.length then .next s
        else
          let r := f.takeHeaders (fun _ _ q => badHeader q || decide (65536 < (parseHdr q.data).flits)) [q]
          let g := r.1.takeAll
          let head := if r.2 then headerFlit 0 true else headerFlit (doorHeader n (parseHdr q.data) door.reply) false
          ({ g with x := g.x.setSerai d ((g.x.serai d).openTile head) } : Firing).done
      else
        let fresh := v.tiles.all (·.closed)
        if !v.room door.serai ∨ (fresh ∧ 4 ≤ v.tiles.length) then .next s
        else
          let g := (f.needHeaders [q]).takeAll
          let psn := g.poisoned [q]
          let (s, t) := g.s.message (siteKey f.site) (siteKey f.site)
          let v := g.x.serai d
          let v := if fresh then v.openTile (headerFlit 0 true) else v
          ({ g with s := s, x := g.x.setSerai d (v.request q psn door.reply t) } : Firing).done
    | _ => .next s

/-! ### Door threads (R384, R385) -/

/-- The slot that a door thread lands in: its NDOR's core, else the one of the cluster with the most free slots. -/
def State.doorSlot (s : State) (c : Fin 16) : List (Fin 1024) → Option (Fin 1024 × Fin 16)
  | [] => none
  | n :: l => match s.bestSite c [n] with | some r => some r | none => s.bestSite c l

/-- The lowest thread index that no running thread of the door holds. -/
def Serai.index (v : Serai) (slots : Nat) : Nat :=
  ((List.range slots).find? fun j => !(v.places.any fun p => p.st == .running && p.index == j)).getD 0

/-- A parked ticket's thread lands in a slot. -/
def State.landDoor (s : State) (i : Nat) (x : Inst) (d : Nat) (p : Ticket) (r : Nat) (n : Fin 1024) (k : Fin 16) : State :=
  let v := x.serai d
  let door := x.door d
  let b := v.bound.getD (0, 0)
  let j := v.index door.slots
  let tid := BitVec.ofNat 24 (r + 1)
  let args := [stackPointer b.1 ((x.num * door.slots + j + 1) * door.stack), p.req.data, BitVec.ofNat 64 p.ticket, b.2,
    BitVec.ofNat 64 p.pos, BitVec.ofNat 64 (x.num * 256 + d)]
  let th := newThread x.ctx tid door.entry x.hyp (BitVec.ofNat 3 x.prio) (.door x.uid d p.ticket j) (s.recordAt x.ctx r) p.stamp args
  let s := s.setInst i (x.setSerai d { v with places := v.places.map fun (q : Ticket) =>
    if q.ticket = p.ticket then { q with st := .running, index := j } else q })
  let s := s.updCtx x.ctx fun c => { c with tids := c.tids ++ [tid] }
  s.settleIn th n k

/-- A saved door thread whose instance is gone, next of its door to land. (DEDUCED, assumption 43) -/
def State.doorOrphan (s : State) (d : Nat) : Option Thread :=
  oldest (·.landed) (s.threads.filter fun t => s.doorFirst t && (match t.origin with
    | .door uid e _ _ => e == d && (s.instOf t.ctx uid).isNone
    | _ => false))

/-- The next thread of a door lands: a saved one, oldest ticket first, ahead of every parked ticket; with no instance, one whose
instance is gone. -/
def execDoorThreadLand (i door : Nat) (s : State) : Result :=
  match s.insts[i]? with
  | none =>
    match s.doorOrphan door with
    | some t =>
      match s.doorSlot t.ctx (s.doorSites t) with
      | some (n, k) => if (s.ctx t.ctx).halted then .next s else .next ((s.askWake n).getD (s.landSaved t.ctx t n k))
      | none => .next s
    | none => .next s
  | some x =>
    let v := x.serai door
    let sites := match x.doorAt door with | some (page, _) => nearSites (x.siteOf page) | none => []
    if (s.ctx x.ctx).halted ∨ x.sites.isEmpty then .next s
    else
      match s.doorSaved x.ctx x.uid door with
      | some t =>
        match s.doorSlot x.ctx sites with
        | some (n, k) => .next ((s.askWake n).getD (s.landSaved x.ctx t n k))
        | none => .next s
      | none =>
        let running := (v.places.filter fun p => p.st == .running).length
        match v.places.find? fun p => p.st == .parked, s.freeRecord x.ctx, s.doorSlot x.ctx sites with
        | some p, some r, some (n, k) =>
          if s.instActs x ∧ running < (x.door door).slots then .next ((s.askWake n).getD (s.landDoor i x door p r n k)) else .next s
        | _, _, _ => .next s

/-! ### Results (R387) -/

/-- The replied ticket whose result leaves next: one that has begun to leave, else by ticket order or by order of reply. -/
def Serai.leaving (v : Serai) (ordered : Bool) (tile : Nat) : Option Ticket :=
  let l := v.places.filter fun p => p.st == .replied && p.tile == tile
  match l.find? fun p => p.sent != 0 with
  | some p => some p
  | none => if ordered then l.find? fun p => p.ticket == v.leaveT else oldest (·.order) l

/-- The flit of a result as it leaves, at the tile's position `left`. -/
def resultFlit (t : DoorTile) (p : Ticket) : Flit :=
  let f := p.result.getD p.sent (dataFlit 0 0 true)
  let m := t.marks.getD t.left 0
  let final := p.sent + 1 = p.result.length
  let eot := final ∧ t.closed ∧ t.left + 1 = t.marks.length
  let marks : BitVec 8 := (if final then m &&& 0x30 else 0) ||| (if eot then 0x08 ||| ((t.marks.getLastD 0) &&& 0x80) else 0)
  dataFlit f.data marks f.psn

/-- The serai after a flit of a result has left. -/
def Serai.left (v : Serai) (t : DoorTile) (p : Ticket) : Serai :=
  if p.sent + 1 < p.result.length then
    { v with places := v.places.map fun (q : Ticket) => if q.ticket = p.ticket then { q with sent := q.sent + 1 } else q }
  else
    let t := { t with left := t.left + 1 }
    { v with places := v.places.filter fun q => q.ticket ≠ p.ticket, leaveT := (p.ticket + 1) % 2 ^ 32,
             tiles := if t.closed ∧ t.left = t.marks.length then v.tiles.drop 1 else t :: v.tiles.drop 1 }

/-- The key under which the replay log keeps the release order of a door (R452). -/
def doorKey (x : Inst) (door : Nat) : Nat := (x.slot * 1024 + x.num) * 256 + door

/-- Whether replay lets a result of an unordered door begin to leave: its turn in the logged order has come (R452). -/
def State.mayLeave (s : State) (x : Inst) (door : Nat) (p : Ticket) : Bool :=
  p.sent != 0 || (x.door door).ordered || (match s.logNext x.ctx 2 (doorKey x door) with | some t => t == p.ticket | none => true)

/-- The release of an unordered door's result enters the replay log (R452). -/
def State.noteLeave (s : State) (x : Inst) (door : Nat) (p : Ticket) : State :=
  if p.sent ≠ 0 ∨ (x.door door).ordered then s
  else (s.logAppend x.ctx (logEntry 2 (doorKey x door) p.ticket)).logTake x.ctx 2 (doorKey x door)

/-- The result that leaves next in replay: the logged ticket, once it has replied; else as the door's order says. -/
def State.nextResult (s : State) (x : Inst) (door : Nat) (tile : Nat) : Option Ticket :=
  let v := x.serai door
  match v.leaving (x.door door).ordered tile with
  | none => none
  | some p =>
    if s.mayLeave x door p then some p
    else v.places.find? fun q => q.st == .replied && q.tile == tile && s.mayLeave x door q

/-- The next flit of a door's output leaves when every channel has space: a tile's header, then its results. -/
def execDoorResultRelease (i door : Nat) (s : State) : Result :=
  match s.insts[i]? with
  | none => .next s
  | some x =>
    match x.doorAt door, (x.serai door).tiles with
    | some (page, pe), t :: _ =>
      let v := x.serai door
      let mask : BitVec 16 := BitVec.ofNat 16 (bits (x.nodeWord page pe) 20 16)
      if !s.instActs x ∨ !x.space page pe mask then .next s
      else if !t.hsent then
        let x := x.setSerai door { v with tiles := { t with hsent := true } :: v.tiles.drop 1 }
        .next (s.stir i (x.send page pe mask t.header))
      else
        match s.nextResult x door t.num with
        | some p => .next ((s.noteLeave x door p).stir i ((x.setSerai door (v.left t p)).send page pe mask (resultFlit t p)))
        | none => .next s
    | _, _ => .next s

/-! ### Windows (R389) -/

def execSwin (_q : CmdQual) (win : BitVec 4) (slot : BitVec 3) (obj ntf : BitVec 48) (s : State) : Result :=
  let c := s.cmd.ctx
  match s.engineWords c (obj.toNat * 16) 2 with
  | .error e => .next (s.refuse e (BitVec.ofNat 64 (obj.toNat * 16)))
  | .ok w =>
    let s := s.askWords (seqKey c) c (obj.toNat * 16) 2
    let len := (w.getD 1 0).toNat
    let granule : Bool := match s.engineAddress c (ntf.toNat * 16) false true with
      | .ok pa => s.isLocal pa && hasFull pa
      | .error _ => false
    if len = 0 ∨ 2 ^ 41 < len ∨ !granule then refused s
    else
      .next (s.updCtx c fun x =>
        { x with windows := x.windows.filter (fun v => v.win ≠ win.toNat) ++
          [{ win := win.toNat, slot := slot.toNat, base := (w.getD 0 0).setWidth 52, len := len, ntf := BitVec.ofNat 52 (ntf.toNat * 16),
             count := 0 }] })

def execSwinU (_q : CmdQual) (win : BitVec 4) (slot : BitVec 3) (s : State) : Result :=
  .next (s.updCtx s.cmd.ctx fun x => { x with windows := x.windows.filter fun v => !(v.win == win.toNat && v.slot == slot.toNat) })

end Sys2Proof.Machine
end

