-- ==== Sys2Proof/Machine/Groups.lean ====
section
/-!
DEFINITION. Sys2Proof/Machine/Groups.lean: commits of rank groups and the versions that operations bind, barrier masks, and the
retirement of a site (R213, R218, R254, R255, R416 to R424).
-/
namespace Sys2Proof.Machine

/-! ### Groups: staging and commits (R417 to R420) -/

def State.staged (s : State) (g : Nat) : Group := groupIn s.groups.staged g

def State.setStaged (s : State) (g : Nat) (x : Group) : State :=
  { s with groups := { s.groups with staged := tput true s.groups.staged g x } }

/-- A staged descriptor is written; VER is not stored. (DEDUCED, assumption 44) -/
def State.writeGdesc (s : State) (g : Nat) (v : Word) : State :=
  s.setStaged g { s.staged g with desc := setBits v 32 16 0 }

/-- A staged rank entry is written. -/
def State.writeGrank (s : State) (g r : Nat) (v : Word) : State :=
  let x := s.staged g
  s.setStaged g { x with ranks := tput (v != 0) x.ranks r v }

/-- Whether a descriptor is refused at a commit (R419). -/
def Group.descBad (x : Group) : Bool :=
  bits x.desc 48 15 != 0 || bits x.desc 30 2 != 0 || bits x.desc 22 2 != 0 || bits x.desc 11 5 != 0 || x.wid == 0 || x.hgt == 0 ||
    decide (32 < x.wid) || decide (32 < x.hgt) || decide (x.wid * x.hgt < x.nrank)

/-- Whether a rank entry is refused at a commit (R419). -/
def State.rankBad (s : State) (x : Group) (r : Nat) : Bool :=
  let e := tget 0 x.ranks r
  bits e 10 53 != 0 || (decide (x.nrank ≤ r) && e != 0) ||
    (bit e 63 && ((s.site (bits e 0 10)).status != .enabled ||
      (List.range r).any fun q => bit (tget 0 x.ranks q) 63 && bits (tget 0 x.ranks q) 0 10 == bits e 0 10))

/-- The first fault of the staged groups, in ascending group and then rank order (R419). -/
def State.commitFault (s : State) : Option (Nat × Nat) :=
  (List.range 64).findSome? fun g =>
    let x := s.staged g
    if !x.en then none
    else if x.descBad then some (g, 0)
    else ((List.range 1024).find? (s.rankBad x)).map fun r => (g, r)

/-- A commit is asked for: ignored while one is in progress; refused with the first fault; else it begins (R419).
(DEDUCED, assumption 44) -/
def State.commitGroups (s : State) (v : Word) : State :=
  let t := s.groups
  if !bit v 63 || t.busy then s
  else
    match s.commitFault with
    | some (g, r) => { s with groups := { t with err := true, egrp := g, erank := r } }
    | none => { s with groups := { t with err := false, egrp := 0, erank := 0, busy := true, coming := t.staged } }

def execGctlCommit (v : Word) (s : State) : Result := .next (s.commitGroups v)

/-- Whether an operation remains bound to a version older than the one in force (R420). -/
def State.boundOlder (s : State) : Bool :=
  let old (v : BitVec 16) : Bool := v != s.groups.ver
  (s.ctxs.toList.any fun x =>
      (x.queues.any fun l => l.started && bits l.desc.words[0] 0 2 == 0 && decide (l.landed < l.count) && old l.version) ||
        (x.places.any fun p => old p.version)) ||
    (s.insts.any fun x => (x.st == .placing || (match x.pend with | .move _ => true | _ => false)) && old x.version) ||
    (s.streams.any fun (_, v) => v.xfers.any fun t => (match t.desc with
      | .reduce _ _ _ _ _ _ => old (BitVec.ofNat 16 t.version)
      | .collect _ _ _ _ _ => old (BitVec.ofNat 16 t.version)
      | _ => false))

/-- The commit takes effect once nothing is bound to the older version (R420). -/
def execGroupCommitDone (s : State) : Result :=
  let t := s.groups
  if t.busy ∧ !s.boundOlder then
    .next { s with groups := { t with before := t.force, force := t.coming, coming := [], busy := false, ver := t.ver + 1 } }
  else .next s

/-- GCTL as read. -/
def Groups.control (t : Groups) : Word :=
  flag 62 t.busy ||| flag 61 t.err ||| field 48 6 t.egrp ||| field 32 10 t.erank ||| field 0 16 t.ver.toNat

/-- GMYRANK of a group for a site (R421). -/
def State.myRank (s : State) (g : Nat) (n : Fin 1024) : Word :=
  let x := s.groupNow g
  match x.rankOf n with
  | some r => flag 63 true ||| field 24 5 (r / x.wid) ||| field 16 5 (r % x.wid) ||| field 0 10 r
  | none => 0

/-! ### Retirement of a rank (R423) -/

/-- Clears V of every entry that names a site. -/
def Group.without (x : Group) (n : Nat) : Group :=
  { x with ranks := x.ranks.filterMap fun (r, e) =>
      let e := if bit e 63 ∧ bits e 0 10 = n then setBits e 63 1 0 else e
      if e = 0 then none else some (r, e) }

/-- Every group of a table without a site. -/
def dropSite (t : Sparse Group) (n : Nat) : Sparse Group :=
  (List.range 64).foldl (fun t g => tput true t g ((groupIn t g).without n)) t

/-- The groups without a retired site: every value kept, staged or committed, in one step; VER increments, and what was bound to
the version in force is bound to the new one. -/
def State.retireRank (s : State) (n : Nat) : State :=
  let t := s.groups
  let ver := t.ver + 1
  let up (v : BitVec 16) : BitVec 16 := if v = t.ver then ver else v
  { s with
    groups := { t with staged := dropSite t.staged n, coming := if t.busy then dropSite t.coming n else t.coming,
                       force := dropSite t.force n, before := dropSite t.before n, ver := ver },
    ctxs := s.ctxs.map fun (x : Ctx) =>
      { x with queues := x.queues.map fun (l : Launch) => { l with version := up l.version },
               places := x.places.map fun (p : Placement) => { p with version := up p.version } },
    insts := s.insts.map fun (x : Inst) => { x with version := up x.version },
    streams := s.streams.map fun (p, v) =>
      (p, { v with xfers := v.xfers.map fun (x : Xfer) => match x.desc with
        | .reduce _ _ _ _ _ _ => { x with version := (up (BitVec.ofNat 16 x.version)).toNat }
        | .collect _ _ _ _ _ => { x with version := (up (BitVec.ofNat 16 x.version)).toNat }
        | _ => x }) }

/-! ### Barrier masks (R213, R218) -/

/-- The bits of a word of a barrier mask that name sites that are not dark. -/
def State.maskBits (s : State) (w : Fin 16) (v : Word) : Word :=
  (List.range 64).foldl (fun (a : Word) i => if (s.site (64 * w + i)).isDark then setBits a i 1 0 else a) v

/-- A word of a mask is written: set bits count from the next phase, cleared ones at once (R213). The worked example of R218 runs
phase 0 with the members written before its first arrival. (DEDUCED, assumption 18) -/
def Barrier.writeMask (x : Barrier) (w : Fin 16) (v : Word) : Barrier :=
  let open_ := if x.fresh then v else BitVec.ofNat 64 (bits x.mask (64 * w) 64) &&& v
  let mask := setBits x.mask (64 * w) 64 open_.toNat
  { x with mask := mask, maskN := setBits x.maskN (64 * w) 64 v.toNat,
           stamps := x.stamps.filter fun e => e.2.2.2 || mask.getLsbD e.1 }.settle

def State.writeBmask (s : State) (c : Fin 16) (b : Fin 4) (w : Fin 16) (v : Word) : State :=
  s.setBar c b ((s.bar c b).writeMask w (s.maskBits w v))

def execBmaskWrite (ctx : Fin 16) (b : Fin 4) (bw : Fin 16) (v : Word) (s : State) : Result := .next (s.writeBmask ctx b bw v)

/-- A member core is retired while a phase is open: it stays in the report with RET, and the phase goes on without it (R218).
(DEDUCED, assumption 18) -/
def Barrier.retireSite (x : Barrier) (n : Nat) (now : Word) : Barrier :=
  let stamps :=
    if x.arrived n then x.stamps.map fun e => if e.1 = n then (e.1, e.2.1, e.2.2.1, true) else e
    else if x.mask.getLsbD n then x.stamps ++ [(n, now, false, true)]
    else x.stamps
  { x with mask := setBits x.mask n 1 0, maskN := setBits x.maskN n 1 0, stamps := stamps }.settle

/-! ### Retirement of a site (R254) -/

/-- The barriers of every context without a site. -/
def State.retireMembers (s : State) (n : Nat) : State :=
  { s with ctxs := s.ctxs.map fun (x : Ctx) => { x with bars := x.bars.map fun b => b.retireSite n (s.time (siteField n)) } }

/-- Forced retirement of a resident thread: a record with cause RETIRE, its buffered work gone, its tokens released without a
sweep. -/
def State.retireThread (s : State) (t : Thread) : State :=
  let (s, r) := s.makeRecord t.key (t.record 0x1D 0 0 0 0 0)
  let s := s.queueRecord t.ctx 1 r
  { s with sbuf := s.sbuf.filter fun e => !ofSlot t e }.endThread t.place false false

/-- The resident threads of a closing site are saved and made ready, or ended (step 3). -/
def State.clearSite (s : State) (n : Fin 1024) (forced : Bool) : State :=
  let l := s.residents n
  if forced then
    let s := l.foldl (fun (s : State) t => s.retireThread t) s
    { s with cache := s.cache.filter fun x => x.core ≠ .site n }
  else
    l.foldl
      (fun (s : State) t => if t.st = .drain then s else (s.preempt t.place).makeReady t.ctx t.tid) s

/-- The instances with a page on a site are to be moved (step 4). -/
def State.moveOff (s : State) (n : Nat) : State :=
  match s.insts.findIdx? fun x => x.area.contains n && x.pend == .none && x.st != .shuttered with
  | some i => s.request i .retire
  | none => s

/-- A waiter on a granule of a site's TCM takes ACCESS at its instruction (step 5). -/
def State.refuseWaiter (s : State) (p : Place) (n : Nat) : State :=
  match s.focus p with
  | some u =>
    match u.th.wait with
    | .full pa _ _ va _ _ _ _ _ =>
      if u.isLocal pa ∧ spaceOf (offsetOf pa) = .tcm ∧ tcmSite (offsetOf pa) = n then
        let u := { u with feq := u.feq.filter fun w => w.2.1 ≠ Waiter.thread p }.wake
        u.deliver (u.recordOf 0x0C va 0 0 0)
      else s
    | _ => s
  | none => s

/-- The site is dark and retired: its waiters are refused, its store and tables are lost, and RETSTAT tells (steps 5 and 6).
(DEDUCED, assumption 44) -/
def State.endRetirement (s : State) (n : Fin 1024) : State :=
  let s := (s.threads.map (·.place)).foldl (fun (s : State) p => s.refuseWaiter p n) s
  let s := s.setSite n { s.site n with status := .retired, tables := Vector.replicate 4 none, pages := Vector.replicate 4 none,
                                       waitPg := Vector.replicate 4 false, acc := AccStore.cleared, reserve := 0 }
  let s := s.setReg retstatAt (setBits (setBits (s.reg retstatAt) 63 1 1) 62 1 0)
  { s with retire := none }

/-- A retirement goes on as far as it can: barrier and group entries first, then threads, then instances; it ends once the site
holds no thread and no page of an instance. (DEDUCED, assumption 44) -/
def execRetirementRun (s : State) : Result :=
  match s.retire with
  | none => .next s
  | some r =>
    let s := if r.begun then s
      else { (s.retireMembers r.site).retireRank r.site with retire := some { r with begun := true } }
    let s := (s.clearSite r.site r.forced).moveOff r.site
    if (s.residents r.site).isEmpty ∧ !(s.insts.any fun x => x.area.contains r.site.val) then .next (s.endRetirement r.site)
    else .next s

end Sys2Proof.Machine
end

