-- ==== Sys2Proof/Machine/Route.lean ====
section
/-!
DEFINITION. Sys2Proof/Machine/Route.lean: Route between modules: its configuration, routing words and port status, and requests
that get no response (R433 to R437).
-/
namespace Sys2Proof.Machine

/-! ### Configuration and routing words (R433, R434) -/

/-- ROUTECFG as a write stores it: a MODID above 1,151 stores 0 and clears EN (R433). -/
def routecfgStored (v : Word) : Word := if 1151 < bits v 0 11 then 0 else field 63 1 (bits v 63 1) ||| field 0 11 (bits v 0 11)

def State.writeRoutecfg (s : State) (v : Word) : State := s.setReg routecfgAt (routecfgStored v)

def execRoutecfgWrite (v : Word) (s : State) : Result := .next (s.writeRoutecfg v)

/-- A returning access that waits at a place for module `m` has its response: a load goes on with it, an atomic completes or takes
its trap (R148). -/
def State.routeAnswer (s : State) (m : Nat) (p : Place) : State :=
  match s.focus p with
  | none => s
  | some t =>
    match t.th.wait with
    | .remote _ pa addr r => if pa / 2 ^ 41 = m then (match remoteTurn pa addr r t with | .next u => u | _ => s) else s
    | _ => s

/-- Every request in flight to a module is answered: waiting threads go on with their responses, and posted stores and atomics
perform (R434). -/
def State.settleRoute (s : State) (m : Nat) : State :=
  let t := ((s.threads.map (·.place)).foldl (fun (s : State) p => s.routeAnswer m p) s).returnTo s.th.place
  t.drain fun e => !s.isLocal e.pa && e.pa / 2 ^ 41 == m

/-- RTMAPm as a write stores it: a write of 0 clears UNR (R434). -/
def rtmapStored (old v : Word) : Word := field 63 1 (if bit v 63 then bits old 63 1 else 0) ||| field 0 48 (bits v 0 48)

/-- A write to a routing word takes effect when the requests in flight to its module have been answered (R434).
(DEDUCED, assumption 45) -/
def State.writeRtmap (s : State) (m : Fin 1152) (v : Word) : State :=
  let s := s.settleRoute m
  s.setReg (rtmapAt m) (rtmapStored (s.reg (rtmapAt m)) v)

def execRtmapWrite (m : Fin 1152) (v : Word) (s : State) : Result := .next (s.writeRtmap m v)

/-! ### Ports (R435) -/

/-- The status word of a port after its link changes. -/
def rtportChanged (old : Word) (up : Bool) (lanes : Nat) : Word :=
  setBits (setBits (setBits old 0 3 lanes) 63 1 up.toNat) 62 1 (if bit old 63 = up then bits old 62 1 else 1)

def execRouteLinkChange (port : Fin 48) (up : Bool) (lanes : Fin 5) (s : State) : Result :=
  .next (s.setReg (rtportAt port) (rtportChanged (s.reg (rtportAt port)) up lanes))

/-- A beat is retransmitted on a port: ERRCNT counts it, and saturates (R435). (DEDUCED, assumption 45) -/
def State.retransmit (s : State) (port : Fin 48) : State :=
  s.setRegBits (rtportAt port) 16 16 (min 65535 (bits (s.reg (rtportAt port)) 16 16 + 1))

/-- A write to RTPORTp clears CHG where it writes 1 (R435). -/
def State.writeRtport (s : State) (p : Nat) (v : Word) : State :=
  if bit v 62 then s.setRegBits (rtportAt p) 62 1 0 else s

/-! ### Failed requests (R437) -/

/-- The Route port by which requests for the line of an address leave: with a = address div 64 and n = popcount(PORTS), the set bit of
PORTS number a mod n, counted from the lowest (R434). (DEDUCED, assumption 45) -/
def State.routePort (s : State) (pa : Nat) : Nat :=
  let ports := bits (s.reg (rtmapAt (pa / 2 ^ 41))) 0 48
  let set := (List.range 48).filter fun p => ports.testBit p
  set.getD (pa / 64 % set.length) 0

/-- The ROUTE record of a posted store, whose DETAIL is the port of its line (R231, R437). -/
def routeRecord (t : Thread) (insn : BitVec 32) (pc : Addr) (addr : Word) (port : Nat) : Record :=
  { t.record 0x2B insn addr (BitVec.ofNat 64 port) 0 0 with pc := pc.setWidth 64 }

/-- A posted store, tag store or atomic of the current thread's slot or core fails (R437). (DEDUCED, assumption 45) -/
def State.failEntry (s : State) (e : StoreEntry) : State :=
  let s := { s with sbuf := s.sbuf.filter fun f => f.id ≠ e.id }
  match e.kind with
  | .atom op z x => s.logAtom e op z x 0x2B 0
  | _ =>
    let r := { routeRecord s.th e.insn e.pc e.va (s.routePort e.pa) with ctx := e.ctx, hyp := BitVec.ofNat 8 (hypNum e.hyp) }
    (s.asyncRecord none s.th.key 2 r).1

/-- The precise ACCESS of a returning access that gets no response, with the port of its line in DETAIL (R437). -/
def State.failAccess (s : State) (pa : Nat) (addr : Word) : Result :=
  trapWith (s.failRoute (pa / 2 ^ 41)) 0x0C addr (BitVec.ofNat 64 (s.routePort pa))

/-- The posted request of the current thread's slot or core with a number, the oldest first, gets no response: a store is reported to
the asynchronous queue, a non-returning atomic to the reduction error log, and the module becomes unreachable (R437). -/
def State.failPosted (s : State) (k : Nat) : Result :=
  match (s.sbuf.filter fun e => ofSlot s.th e && !s.isLocal e.pa)[k]? with
  | some e => .next ((s.failEntry e).failRoute (e.pa / 2 ^ 41))
  | none => .next s

/-- The access for which the current thread waits gets no response: a returning one takes a precise ACCESS, a store is reported to the
asynchronous queue, and the module becomes unreachable (R437). -/
def State.failAwaited (s : State) : Result :=
  match s.th.wait with
  | .remote true pa addr none =>
    let s := s.wake.failRoute (pa / 2 ^ 41)
    done (s.asyncRecord none s.th.key 2 (routeRecord s.th s.insn s.th.pc addr (s.routePort pa))).1
  | .remote _ pa addr _ => s.wake.failAccess pa addr
  | .full pa _ _ va _ _ _ _ _ => s.withdraw.failAccess pa va
  | _ => .next s

/-- Whether the current thread waits for another module's response. -/
def State.awaitsRoute (s : State) : Bool :=
  match s.th.wait with
  | .remote _ _ _ _ => true
  | .full pa _ _ _ _ _ _ _ _ => !s.isLocal pa
  | _ => false

/-- A request of the current thread fails, by its number: the access that the thread waits for comes first, then its posted requests,
the oldest first (R437). (DEDUCED, assumption 45) -/
def State.failThread (s : State) (k : Nat) : Result :=
  if !s.awaitsRoute then s.failPosted k
  else match k with
    | 0 => s.failAwaited
    | n + 1 => s.failPosted n

/-- A request over Route fails: of a thread the one with a number among those it has under way, of a streamer its next remote access
(R437). (DEDUCED, assumption 45) -/
def execRouteRequestFail (who : Requester) (k : Nat) (s : State) : Result :=
  match who with
  | .thread p => onThread p s fun s => s.failThread k
  | .streamer pos => .next { s with silent := if s.silent.contains pos then s.silent else s.silent ++ [pos] }

end Sys2Proof.Machine
end

