-- ==== Sys2Proof/Machine/Control.lean ====
section
/-!
DEFINITION. Sys2Proof/Machine/Control.lean: start-up, power and activity, the management port with owner change, enrolment and
attestation, routing-table updates, and the re-run check (R443 to R451).
-/
namespace Sys2Proof.Machine

/-! ### The resynchronisation pulse (R16, R243) -/

/-- The resynchronisation pulse: a counter behind the reference is stepped forward to it, and one ahead of it holds until the reference
reaches it (R16, R243). The spec names no reference; the model keeps one that no counter runs more than 4 ns ahead of.
(DESIGN CHOICE, assumption 51) -/
def execResyncPulse (s : State) : Result :=
  let s := s.noteDrains
  .next { s with fields := s.fields.map fun f =>
    if f.time.toNat < s.ref.toNat then { f with time := s.ref, hold := false }
    else { f with hold := decide (s.ref.toNat < f.time.toNat) } }

/-! ### Power (R444, R445) -/

/-- Whether a core may switch off: it has a core, every slot is EMPTY, and no landing is reserved. -/
def State.mayPowerOff (s : State) (n : Fin 1024) : Bool :=
  let x := s.site n
  x.enabled && x.on && x.waking.isNone && x.reserve == 0 && (List.finRange 16).all fun k => s.slotEmpty n k

/-- A core that has been empty writes back its dirty lines, empties its cache and switches off. -/
def execCorePowerOff (site : Fin 1024) (s : State) : Result :=
  if s.mayPowerOff site then
    let s := s.flushLines fun x => decide (x.core = .site site)
    .next (s.setSite site { s.site site with on := false })
  else .next s

/-- Whether an earlier wake of the same field is still to be granted: the ring grants them in request order (R444). -/
def State.wakeBefore (s : State) (n : Fin 1024) (k : Nat) : Bool :=
  (List.finRange 1024).any fun m => siteField m == siteField n && (match (s.site m).waking with | some j => decide (j < k) | none => false)

/-- The wake ring grants the oldest waiting wake of a field; ROT is 0 when the core is powered up (R79, R444).
(DESIGN CHOICE, assumption 47) -/
def execCoreWake (site : Fin 1024) (s : State) : Result :=
  match (s.site site).waking with
  | some k =>
    if s.wakeBefore site k then .next s else .next (s.setSite site { s.site site with on := true, waking := none, rot := 0 })
  | none => .next s

def State.setFact (s : State) (f : Nat) (act bal pace : Nat) : State :=
  if h : f < 8 then
    { s with fields := s.fields.set f { s.fields[f] with fact := field 32 1 pace ||| field 16 10 bal ||| field 0 10 act } }
  else s

/-- The paired fields' activities are compared: beyond 10 % of the larger, the lower field runs ballast and the higher one may
be paced; how much ballast, and whether pacing is needed, the manual leaves open (R445). (DESIGN CHOICE, assumption 47) -/
def execActivityBalance (row : Fin 4) (act0 act1 : BitVec 10) (s : State) : Result :=
  let a := act0.toNat
  let b := act1.toNat
  let gap := if a ≤ b then b - a else a - b
  if max a b < 10 * gap then
    let (s, v) := s.free
    let bal := bits v 0 10
    let pace := bits v 16 1
    if a < b then .next ((s.setFact (2 * row) a bal 0).setFact (2 * row + 1) b 0 pace)
    else .next ((s.setFact (2 * row) a 0 pace).setFact (2 * row + 1) b bal 0)
  else .next ((s.setFact (2 * row) a 0 0).setFact (2 * row + 1) b 0 0)

/-! ### Start-up (R7, R443, R446) -/

/-- The sites as a start-up leaves them: a retired site stays dark. (DESIGN CHOICE, assumption 11) -/
def keptSites (t : Sparse Site) : Sparse Site :=
  (t.filter fun e => e.2.status == .retired).map fun e => (e.1, { Site.initial e.1 with status := .retired })

/-- The default group over the sites that are enabled, in ascending site number: a site retired since manufacture has no rank, and the
highest ranks of NCORE are holes for it (R5, R422). (DESIGN CHOICE, assumption 11) -/
def State.regroup (s : State) : State :=
  let live := (List.finRange 1024).filter fun n => (s.site n).status == .enabled
  let g : Group := { defaultGroup 0 with ranks := live.zipIdx.map fun (n, r) => (r, rankEntry n) }
  let put (t : Sparse Group) : Sparse Group := if g = groupIn t 0 then t else tput true t 0 g
  { s with groups := { s.groups with staged := put s.groups.staged, force := put s.groups.force, before := put s.groups.before } }

/-- The cleared state of R7, with what lasts through a start-up: the keys, the count of owner changes, retired sites, the
memory of other modules. (DESIGN CHOICE, assumption 11) -/
def State.startUp (s : State) : State :=
  ({ State.reset with inputs := s.inputs, peers := s.peers, spare := s.spare, keytab := s.keytab,
                      owners := s.owners, sites := keptSites s.sites } : State).regroup

/-- Power-on (stage 1): control core 0 runs the boot ROM and the other control cores are held in reset, so that they are no agents; no
site is awake, and what memory holds is cleared later. (DESIGN CHOICE, assumption 11) -/
def State.powerOn (s : State) : State :=
  { s.startUp with boot := .starting 1 0, th := Thread.controlCore 0, rest := [], mem := s.mem,
                   sites := (List.range 1024).map fun n => (n, { (s.startUp.site n) with on := false }),
                   groups := State.reset.groups, rtu := { State.reset.rtu with force := [] } }

/-- The order in which the wake ring starts the enabled sites: the fields in turn (R443). -/
def State.wakeOrder (s : State) : List (Fin 1024) :=
  (List.range 128).flatMap fun k => (List.range 8).filterMap fun f =>
    ((List.finRange 1024).filter fun (n : Fin 1024) => siteField n == f && (s.site n).enabled)[k]?

/-- How many units a stage starts one after another (R443): the verification and the sixteen control cores; the training of the 24 stacks,
then their base dies; the fields; the enabled sites. -/
def State.stageUnits (s : State) (stage : Nat) : Nat :=
  match stage with
  | 2 => 17
  | 3 => 48
  | 4 => 8
  | 5 => s.wakeOrder.length
  | _ => 1

/-- The memory with everything cleared at the addresses for which `f` holds (R7). -/
def Mem.wipe (m : Mem) (f : Nat → Bool) : Mem :=
  { bytes := m.bytes.filter fun e => !f e.1, tags := m.tags.filter fun e => !f (16 * e.1), full := m.full.filter fun e => !f (16 * e.1),
    poison := m.poison.filter fun e => !f (16 * e.1) }

/-- A site wakes: its TCM, accumulation store and thread cache are cleared, and its cluster's scratchpad if it is the first of its
cluster to wake (R443). -/
def State.wakeSite (s : State) (n : Fin 1024) : State :=
  let first := (clusterSites (siteCluster n)).all fun k => !((s.site k).enabled && (s.site k).on)
  let gone (o : Nat) : Bool :=
    (spaceOf o == .tcm && tcmSite o == n.val) || (first && spaceOf o == .scratch && scratchCluster o == siteCluster n)
  { s.setSite n { s.site n with on := true, acc := AccStore.cleared } with
    mem := s.mem.wipe gone, cache := s.cache.filter fun x => decide (x.core ≠ .site n) }

/-- One unit of a stage starts (R443). A failed verification leaves the module in stage 1 (R446). (DESIGN CHOICE, assumption 11) -/
def State.startUnit (s : State) (stage unit : Nat) : State :=
  match stage, unit with
  | 2, 0 => match Boot.verdict with | .failed => { s with boot := .failed } | _ => s
  | 2, 1 => { s with th := Thread.controlCore 0 }
  | 2, k => { s with rest := s.rest ++ [Thread.controlCore (fin 16 (k - 1))] }
  | 3, k => if k < 24 then s else { s with mem := s.mem.wipe fun o => spaceOf o == .hbm && stackOf o == k - 24 }
  | 4, f =>
    let s := if h : f < 8 then { s with fields := s.fields.set f Field.reset } else s
    if f = 7 then { s with rtu := { s.rtu with force := Config.darkSiteTables } } else s
  | 5, k => match s.wakeOrder[k]? with | some n => s.wakeSite n | none => s
  | 6, _ => s.regroup
  | _, _ => s

/-- What starts after a unit: the next unit of its stage, the first of the next stage, or nothing after stage 6. -/
def State.nextUnit (s : State) (stage unit : Nat) : Boot :=
  if unit + 1 < s.stageUnits stage then .starting stage (unit + 1) else if stage < 6 then .starting (stage + 1) 0 else .up

/-- Start-up: power-on, or while it runs the next unit of its stage (R443). (DESIGN CHOICE, assumption 11) -/
def execStartUp (s : State) : Result :=
  match s.boot with
  | .starting stage unit =>
    let t := s.startUnit stage unit
    match t.boot with
    | .failed => .next t
    | _ => .next { t with boot := s.nextUnit stage unit }
  | _ => .next s.powerOn

/-! ### The management port (R448) -/

/-- An answer of the management port. -/
def State.answer (s : State) (a : Answer) : State := { s with mgmt := { s.mgmt with outbox := s.mgmt.outbox ++ [a] } }

def execManagementPortLinkUp (rs : Bool) (s : State) : Result := .next { s with mgmt := { s.mgmt with up := true, rsfec := rs } }

/-- A fresh nonce of 32 bytes, which nothing fixes. (DESIGN CHOICE, assumption 5) (DESIGN CHOICE, assumption 46) -/
def State.freshNonce (s : State) : State × BitVec 256 :=
  let (s, a) := s.free
  let (s, b) := s.free
  let (s, c) := s.free
  let (s, d) := s.free
  (s, a ++ b ++ c ++ d)

/-- A frame of at most 9,216 bytes is received and waits for Wellis, which issues a nonce with it; after a boot failure the port
answers with that status (R446, R448, R449). -/
def execMgmtFrameReceive (frame : List Byte) (s : State) : Result :=
  match s.boot with
  | .failed => .next (s.answer .bootFailure)
  | .starting _ _ => .next s
  | .up =>
    if s.mgmt.up ∧ frame.length ≤ 9216 then
      let (s, n) := s.freshNonce
      .next ({ s with mgmt := { s.mgmt with inbox := s.mgmt.inbox ++ [frame], nonces := s.mgmt.nonces ++ [n] } }.answer (.nonce n))
    else .next s

/-- Wellis takes the oldest frame. -/
def State.takeFrame (s : State) : State := { s with mgmt := { s.mgmt with inbox := s.mgmt.inbox.drop 1 } }

/-! ### Owner change and keys (R446, R449) -/

/-- The bytes of a value, lowest first. -/
def bytesOf {w : Nat} (v : BitVec w) (n : Nat) : List Byte := (List.range n).map fun i => v.extractLsb' (8 * i) 8

/-- The digest of a public key. -/
def keyDigest (k : BitVec 512) : BitVec 256 := Config.shake256 (bytesOf k 64)

/-- Whether KEYTAB entries 1 to 15 are all empty: the module has no owner. -/
def State.noOwner (s : State) : Bool := (s.keytab.toList.drop 1).all (·.isNone)

/-- Whether a request is signed with a key whose digest stands in one of some entries. (DESIGN CHOICE, assumption 7) -/
def signedBy (entries : List (Option (BitVec 256))) (message : List Byte) (r : OwnerRequest) : Bool :=
  match r.key with
  | some k => entries.contains (some (keyDigest k)) && Config.slhDsaVerify k message r.sig
  | none => false

/-- Whether Wellis accepts an OWNER-RESET request. (DESIGN CHOICE, assumption 46) -/
def State.mayReset (s : State) (r : OwnerRequest) : Bool :=
  s.noOwner || (s.mgmt.nonces.contains r.nonce && signedBy s.keytab.toList (r.body ++ bytesOf r.nonce 32) r)

/-- The module after an accepted OWNER-RESET: as start-up leaves it, with Route out of service and MODID kept, KEYTAB entries
1 to 15 cleared and the owner change counted; the control cores go on with Wellis. (DESIGN CHOICE, assumption 11) -/
def State.ownerReset (s : State) : State :=
  let cores := (s.threads.filter (·.onControl)).map fun t => { t with st := .run, wait := .none, pass := false }
  let t := s.startUp
  let t := { t with th := cores.headD (Thread.controlCore 0), rest := cores.drop 1, boot := s.boot, mgmt := s.mgmt,
                    keytab := (Vector.replicate 16 none).set 0 s.keytab[0], owners := s.owners + 1 }
  t.setReg routecfgAt (field 0 11 s.modId)

/-- OWNER-RESET: refused with an authentication failure, or carried out and answered with the new count. -/
def execOwnerReset (req : OwnerRequest) (s : State) : Result :=
  match s.boot with
  | .failed => .next (s.answer .bootFailure)
  | .starting _ _ => .next s
  | .up =>
    let t := s.takeFrame
    if s.mayReset req then
      let t := { t with mgmt := { t.mgmt with nonces := t.mgmt.nonces.filter fun n => n != req.nonce } }
      let t := t.ownerReset
      .next (t.answer (.ownerDone t.owners))
    else .next (t.answer .authFailure)

/-- The bytes that the signature of an enrolment covers. (DESIGN CHOICE, assumption 46) -/
def enrolMessage (r : OwnerRequest) : List Byte := r.body ++ r.keys.flatMap fun k => BitVec.ofNat 8 k.1 :: bytesOf k.2 32

/-- A request that writes KEYTAB entries among 1 to 15: unsigned while the module has no owner, else signed with a key of a set entry of
1 to 15 (R449). -/
def execKeytabEnrol (req : OwnerRequest) (s : State) : Result :=
  match s.boot with
  | .failed => .next (s.answer .bootFailure)
  | .starting _ _ => .next s
  | .up =>
    let t := s.takeFrame
    if (req.keys.all fun k => k.1 != 0) ∧ (s.noOwner ∨ signedBy (s.keytab.toList.drop 1) (enrolMessage req) req) then
      .next ({ t with keytab := req.keys.foldl (fun (t : Vector (Option (BitVec 256)) 16) (k : Fin 16 × BitVec 256) => t.set k.1 (some k.2)) t.keytab }.answer
        (.enrolled (req.keys.map fun (k : Fin 16 × BitVec 256) => k.1)))
    else .next (t.answer .authFailure)

/-! ### Attestation (R447) -/

/-- The attestation report for a nonce. -/
def State.report_ (s : State) (nonce : BitVec 256) : Report :=
  { devid := devidValue, identity := Config.identityDigest,
    image := Config.shake256 Config.wellisBody, version := Config.wellisVersion,
    speeds := Config.shake256 ((List.range 1024).flatMap fun n => bytesOf (speedWord n) 8),
    dark := Config.shake256 ((List.range 128).map fun i =>
      BitVec.ofNat 8 ((List.range 8).foldl (fun (a : Nat) j => if (s.site (8 * i + j)).isDark then a + 2 ^ j else a) 0)),
    keytab := s.keytab, modId := s.modId, live := s.live, owners := s.owners, nonce := nonce }

/-- The bytes of a report that are signed: its items in order, an empty KEYTAB entry as zeros. (DESIGN CHOICE, assumption 46) -/
def Report.bytes (r : Report) : List Byte :=
  bytesOf r.devid 8 ++ bytesOf r.identity 32 ++ bytesOf r.image 32 ++ bytesOf (BitVec.ofNat 64 r.version) 8 ++ bytesOf r.speeds 32 ++
    bytesOf r.dark 32 ++ (r.keytab.toList.flatMap fun k => bytesOf (k.getD 0) 32) ++ bytesOf (BitVec.ofNat 64 r.modId) 8 ++
    bytesOf (BitVec.ofNat 64 r.live) 8 ++ bytesOf (BitVec.ofNat 64 r.owners) 8 ++ bytesOf r.nonce 32

/-- Wellis returns the report signed with the identity key. -/
def execAttestationRequest (nonce : BitVec 256) (s : State) : Result :=
  match s.boot with
  | .failed => .next (s.answer .bootFailure)
  | .starting _ _ => .next s
  | .up =>
    let r := s.report_ nonce
    .next (s.takeFrame.answer (.attested r (Config.identitySign r.bytes)))

/-! ### Routing-table updates (R450) -/

/-- RTUCTL as written: stage, commit or abort. Staging starts unless one runs; a commit or abort acts on a staged update alone.
(DESIGN CHOICE, assumption 47) -/
def State.stageRtu (s : State) (v : Word) : State :=
  match s.rtu.st with
  | .staging => s
  | .committing => s
  | _ => { s with rtu := { s.rtu with st := .staging, img := bits v 6 46 * 64, cause := 0, site := 0 } }

/-- A commit under way switches every router at once when every message sent before it has arrived, and messages held at their
interfaces go on (R450). -/
def State.switchRtu (s : State) : State :=
  if s.ways.any fun w => decide (w.num < s.rtu.hold) then s else { s with rtu := { s.rtu with st := .idle, force := s.rtu.staged } }

/-- A commit of a staged update holds injection at every interface: a message sent from now on starts when the routers have switched. One
that is under way ends when no earlier message remains (R450). (DESIGN CHOICE, assumption 47) -/
def State.commitRtu (s : State) : State :=
  match s.rtu.st with
  | .staged => { s with rtu := { s.rtu with st := .committing, hold := s.clock } }.switchRtu
  | _ => s

def State.abortRtu (s : State) : State :=
  match s.rtu.st with
  | .staged => { s with rtu := { s.rtu with st := .idle } }
  | _ => s

def State.writeRtuctl (s : State) (v : Word) : State :=
  match bits v 62 2 with
  | 1 => s.stageRtu v
  | 2 => s.commitRtu
  | 3 => s.abortRtu
  | _ => s

def execRtuctlStage (v : Word) (s : State) : Result := .next (s.stageRtu v)

/-- A commit begins, or the one under way ends once every earlier message has arrived. -/
def execRtuctlCommit (s : State) : Result :=
  match s.rtu.st with
  | .committing => .next s.switchRtu
  | _ => .next s.commitRtu

def execRtuctlAbort (s : State) : Result := .next s.abortRtu

/-- `n` bytes of committed memory. -/
def State.bytesAt (s : State) (a n : Nat) : List Byte := (List.range n).map fun i => s.mem.byte (offsetOf (a + i))

/-- What staging finds: the cause and the first router that rejects, or nothing. The key's digest is checked against KEYTAB entry 0, then
the signature over the digest; then each router checks its record's CRC-32C and the digest of all records (R450). -/
def rtuFault (entry : Option (BitVec 256)) (g : Config.RtuImage) : Option (BitVec 4 × BitVec 10) :=
  if entry ≠ some (keyDigest g.key) ∨ !Config.slhDsaVerify g.key (bytesOf g.digest 32) g.sig then some (3, 0)
  else
    let whole := decide (Config.shake256 (g.records.flatMap fun r => r.body ++ bytesOf r.crc 4) = g.digest)
    g.records.findSome? fun r => if crc32c r.body ≠ r.crc then some (1, r.site) else if whole then none else some (2, r.site)

/-- Staging ends: the image at IMG is read and checked; every router keeps its new table beside the one in force, or the first that rejects
is named and none keeps it (R450). (DESIGN CHOICE, assumption 47) -/
def execRtuStagingDone (s : State) : Result :=
  match s.rtu.st with
  | .staging =>
    let reject (cause : BitVec 4) (site : BitVec 10) : State := { s with rtu := { s.rtu with st := .rejected, cause := cause, site := site } }
    match Config.rtuImage (s.bytesAt s.rtu.img (Config.rtuLength (s.bytesAt s.rtu.img 64))) with
    | none => .next (reject 4 0)
    | some g =>
      match rtuFault s.keytab[0] g with
      | some (cause, site) => .next (reject cause site)
      | none => .next { s with rtu := { s.rtu with st := .staged, staged := g.records.map fun r => (r.site, r.body) } }
  | _ => .next s

/-- RTUSTAT. -/
def Rtu.status (r : Rtu) : Word :=
  let st := match r.st with | .idle => 0 | .staging => 1 | .staged => 2 | .committing => 3 | .rejected => 4
  flag 63 (st == 1 || st == 3) ||| field 60 3 st ||| field 56 4 r.cause.toNat ||| field 0 10 r.site.toNat

/-! ### Re-run checking (R451) -/

/-- The CRC-64 of some bytes, with the polynomial of R451 and the highest bit first. (DESIGN CHOICE, assumption 47) -/
def crc64 (l : List Byte) : BitVec 64 :=
  l.foldl (fun (c : BitVec 64) (b : Byte) =>
    (List.range 8).foldl (fun (c : BitVec 64) _ => if c.msb then (c <<< 1) ^^^ 0x42F0E1EBA9EA3693#64 else c <<< 1)
      (c ^^^ ((b.setWidth 64 : BitVec 64) <<< 56))) 0

/-- The signature of output flits: those of each endpoint in order (R451). (DESIGN CHOICE, assumption 47) -/
def signature (l : List (Nat × Word × BitVec 8)) : BitVec 64 :=
  crc64 ((List.range 256).flatMap fun ep => (l.filter fun e => e.1 == ep).flatMap fun e => bytesOf e.2.1 8 ++ bytesOf e.2.2 1)

/-- Whether a sampled tile has passed every endpoint that it has flits at: its last flit has, at each output endpoint. -/
def Inst.tileOut (x : Inst) (tile : Nat) : Bool :=
  (x.tape.any fun e => e.tile == tile && e.out) &&
    (x.arms.filter fun a => x.cfg.isOutput a.ep && a.factor != 0).all fun a => x.segTile a != some tile

/-- A sampled tile is run again from the copy of its input flits on a shadow placement at a free anchor, whose output flits are given:
they differ from the primary's only where a unit failed. The two signatures are compared, or the tile is skipped for want of free pages;
both counts saturate, and the shadow's flits are discarded (R451). (DESIGN CHOICE, assumption 47) -/
def execRerunCompare (i tile : Nat) (shadow : List (Nat × BitVec 64 × BitVec 8)) (anchor : Nat × Nat) (s : State) : Result :=
  match s.insts[i]? with
  | none => .next s
  | some x =>
    let free := (s.freeAnchors (s.groupAt x.version x.group) x.cfg.extw x.cfg.exth none).map (·.1)
    if !s.sampled x ∨ !x.tileOut tile ∨ (!free.isEmpty && !free.contains anchor) then .next s
    else
      let own := (x.tape.filter fun e => e.tile == tile && e.out).map fun e => (e.ep, e.flit.data, e.flit.ctl)
      let s := s.setInst i { x with tape := x.tape.filter fun e => e.tile != tile }
      let r := s.reg rrstatAt
      let count (at_ : Nat) : State := s.setReg rrstatAt (setBits r at_ 32 (min 4294967295 (bits r at_ 32 + 1)))
      if free.isEmpty then .next (count 0)
      else if signature own ≠ signature shadow then .next (count 32)
      else .next s

def State.clearRerun (s : State) : State := s.setReg rrstatAt 0

def execRrstatClear (s : State) : Result := .next s.clearRerun

end Sys2Proof.Machine
end

