-- ==== Sys2Proof/Machine/Reset.lean ====
section
/-!
DEFINITION. Sys2Proof/Machine/Reset.lean: the reset of a context (R239).
-/
namespace Sys2Proof.Machine

/-- A thread of the context ends without a record: what it has in progress completes and its buffered stores perform, its save
record is freed, and its tokens are released with a sweep (step 2). A caravan ends when it lands. -/
def State.resetThread (s : State) (p : Place) : State :=
  match p with
  | .caravan _ _ => s
  | .control _ => s
  | .saved _ _ => s.endThread p false true
  | .slot _ _ =>
    match (s.settleTable p (2 * s.rest.length + 2)).focus p with
    | some s =>
      let s := s.withdraw
      (s.drain (ofSlot s.th)).endThread p false true
    | none => s

/-- The engines drop what they hold of a context: streamer commands, transfers and spilled accesses, and edge programs
(step 3). -/
def State.dropEngines (s : State) (c : Fin 16) : State :=
  { s with
    streams := s.streams.map fun (p, v) =>
      (p, { v with queue := v.queue.filter fun k => k.ctx ≠ c, xfers := v.xfers.filter fun t => t.ctx ≠ c,
                   spill := v.spill.filter fun e => e.ctx ≠ c, flt := v.flt.filter fun k => k.1 ≠ c }),
    slices := s.slices.map fun (p, v) =>
      (p, { v with progs := v.progs.map fun g => match g with | some q => if q.ctx = c then none else g | none => none }) }

/-- The instances of a context are released, with no completion record (step 3). -/
def State.dropInstances (s : State) (c : Fin 16) : State :=
  (s.updCtx c fun x => { x with graphs := Vector.replicate 4 none, queues := [], accepted := [], port := [], places := [] }).releaseAll
    (fun x => x.ctx = c) s.insts.length

/-- A control core that acts for the context loses its arrival records, and where it waits for something of the context it tries its
instruction again (R214, R239). (DEDUCED, assumption 48) -/
def Thread.unwait (t : Thread) (c : Fin 16) : Thread :=
  if t.onControl ∧ t.sv.sctx = c then
    let t := { t with av := Vector.replicate 4 false, aph := Vector.replicate 4 0 }
    if t.st = .wait then { t with st := .run, wait := .none, pass := false } else t
  else t

/-- Messages, requests and hypothesis state of a context are gone (steps 3 and 4). -/
def State.dropMessages (s : State) (c : Fin 16) : State :=
  { s.mapThreads (·.unwait c) with
    tokmsgs := s.tokmsgs.filter fun m => match m with
      | .request k _ _ _ _ _ => k ≠ c
      | .retry k _ _ _ _ => k ≠ c
      | .grant k _ _ _ _ => k ≠ c,
    signals := s.signals.filter fun g => g.ctx ≠ c,
    flushes := s.flushes.filter fun f => f.ctx ≠ c,
    outmsgs := s.outmsgs.filter fun m => m.1 ≠ c,
    seen := s.seen.filter fun m => m.ctx ≠ c,
    vers := s.vers.filter fun v => v.ctx ≠ c }

/-- The lines of a context are written back and leave every cache, and its translations every TLB (step 5). -/
def State.dropLines (s : State) (c : Fin 16) : State :=
  let s := s.flushAll fun x => x.ctx = c
  { s with tlb := s.tlb.filter fun e => e.ctx ≠ c }

/-- A barrier at phase 0, with its mask and configuration. -/
def Barrier.restart (x : Barrier) : Barrier :=
  { Barrier.reset with mask := x.maskN, maskN := x.maskN, cnt := x.cntN, cntN := x.cntN, en := x.en }

/-- The context's own state at its reset values (step 6). (DEDUCED, assumption 48) -/
def State.clearCtx (s : State) (c : Fin 16) : State :=
  let x := s.ctx c
  let s := s.setCtx c { Ctx.reset with regions := x.regions, bars := x.bars.map Barrier.restart, logs := x.logs, resetting := true }
  let s := (((s.setReg (fqctlAt c 0) 0).setReg (fqctlAt c 1) 0).setReg (fqctlAt c 2) 0).setReg (rlogctlAt c) 0
  let s := (s.setReg (sqintAt c) 0).setReg (ldstatAt c) 0
  s.setRegBits (rplctlAt c) 0 2 0

/-- The hypotheses of a context are refuted: their buffered stores are dropped with their versions (R271). -/
def State.dropHyps (s : State) (c : Fin 16) : State :=
  { s with sbuf := s.sbuf.filter fun e => !(e.ctx = c && hypNum e.hyp != 0) }

/-- A reset of a context: ignored while one runs. It completes in this step, unless a caravan of the context is under way.
(DEDUCED, assumption 48) -/
def State.resetContext (s : State) (c : Fin 16) : State :=
  if (s.ctx c).resetting then s
  else
    let s := s.updCtx c fun x => { x with resetting := true }
    let l := (s.threads.filter fun t => !t.onControl && t.ctx = c).map (·.place)
    let s := l.foldl (fun (s : State) p => s.resetThread p) s
    let s := ((s.dropInstances c).dropEngines c).dropHyps c
    let s := ((s.dropLines c).dropMessages c).clearCtx c
    s.resetOver c

def execCxrstGo (ctx : Fin 16) (s : State) : Result := .next (s.resetContext ctx)

end Sys2Proof.Machine
end

