-- ==== Sys2Proof/Machine/DeviceRead.lean ====
section
/-!
DEFINITION. Sys2Proof/Machine/DeviceRead.lean: what a load of a device register returns: stored fields, fields that the device
computes, zero from reserved and write-only fields (R9, R129, R149, R152, R188, R206, R213, R226, R232, R239, R250, R251, R255,
R287, R324, R348, R359, R366, R417 to R421, R433 to R435, R441, R445, R450 to R452).
-/
namespace Sys2Proof.Machine

/-- BSTAT (R213). -/
def Barrier.status (x : Barrier) : Word :=
  field 32 32 x.phase.toNat ||| field 0 11 (x.stamps.filter fun e => e.2.2.1 && !e.2.2.2).length

/-- BCFG (R213): the count that the last write gave. -/
def Barrier.config (x : Barrier) : Word := field 3 5 x.cntN ||| flag 0 x.en

/-- PSPL of a port (R324); a page that no instance uses has nothing spilled. -/
def State.portStatus (s : State) (site : Nat) (p : Fin 4) : Word :=
  match s.pageOn site with
  | none => 0
  | some (i, page) =>
    match s.insts[i]? with
    | none => 0
    | some x =>
      let v := x.port page p
      flag 63 v.flt ||| flag 62 (decide (64 ≤ v.spills)) ||| (if v.flt then field 8 32 v.seq.toNat else 0) ||| field 0 7 v.spills

/-- STSPL of a streamer for a context (R366). -/
def Streamer.status (v : Streamer) (c : Fin 16) : Word :=
  (match v.flt.find? fun k => k.1 = c.val with
   | some k => flag 63 true ||| field 8 32 k.2.toNat
   | none => 0) |||
    flag 62 (decide (64 ≤ v.spill.length)) ||| field 0 7 (v.spill.filter fun e => e.ctx = c).length

/-- Whether a launch at the head of its queue lacks a start condition of R351. (DEDUCED, assumption 22) -/
def State.blocked (s : State) (c : Fin 16) (q : Fin 64) : Bool :=
  match s.headOf c q with
  | some (.launch l) => !l.started && (!s.inOrder c l || (s.startHead c q l).isNone)
  | _ => false

/-- LQSTAT (R348). -/
def State.queueStatus (s : State) (c : Fin 16) (q : Fin 64) : Word :=
  let running := ((s.ctx c).queues.filter fun l => l.queue = q && l.started).length
  flag 63 (s.blocked c q) ||| field 32 16 (min 65535 running) ||| field 0 5 (s.queued c q).length

/-- SQSTAT (R359). -/
def Ctx.sequencer (x : Ctx) : Word :=
  flag 40 (!x.places.isEmpty) ||| field 32 3 (x.graphs.toList.filter (·.isSome)).length ||| field 0 32 x.nextId.toNat

/-- SHUTSTAT (R359): the oldest unresolved shutter, how many there are, and the reloads. -/
def State.shutters (s : State) (c : Fin 16) : Word :=
  let l := s.insts.filter fun x => x.ctx = c && x.shut.isSome
  (match oldest (·.shutAt) l with
   | some x =>
     flag 63 true ||| field 60 3 (match x.shut with | some k => shutCode k | none => 0) ||| field 56 3 x.slot ||| field 32 10 x.num
   | none => 0) |||
    field 48 8 (min 255 l.length) ||| field 0 32 (s.ctx c).cecnt

/-- A group descriptor as read: reserved fields 0, with the version in force (R417). -/
def State.descWord (s : State) (x : Group) : Word :=
  flag 63 x.en ||| field 32 16 s.groups.ver.toNat ||| field 24 6 x.hgt ||| field 16 6 x.wid ||| field 0 11 x.nrank

/-- A rank entry as read (R418). -/
def Group.entryWord (x : Group) (r : Nat) : Word :=
  let e := tget 0 x.ranks r
  flag 63 (bit e 63) ||| field 0 10 (bits e 0 10)

/-- The group a thread sees: a control core the staged values, a barrel thread the committed ones (R417). -/
def State.groupSeen (s : State) (g : Nat) : Group := if s.th.onControl then s.staged g else s.groupNow g

/-- The value that a load by the current thread returns. -/
def State.devRead (s : State) (r : DevReg) : Word :=
  match r with
  | .devid => devidValue
  | .port _ => 0
  | .cflags c => s.reg (cflagsAt c)
  | .cxroot k => s.reg (cxrootAt k)
  | .cxpeer k => s.reg (cxpeerAt k)
  | .tlbinv _ => 0
  | .tlbstat k => field 0 1 (bits (s.reg (tlbstatAt k)) 0 1)
  | .rgnbase k => s.reg (rgnbaseAt k)
  | .rgnctl k => s.reg (rgnctlAt k)
  | .rlogbase k => s.reg (rlogbaseAt k)
  | .rlogctl k => s.reg (rlogctlAt k)
  | .bmask k b w => BitVec.ofNat 64 (bits (s.bar k b).maskN (64 * w) 64)
  | .bcfg k b => (s.bar k b).config
  | .bstat k b => (s.bar k b).status
  | .speed n => speedWord n
  | .latency x y => latencyWord x y
  | .fqbase k q => s.reg (fqbaseAt k q)
  | .fqctl k q => s.reg (fqctlAt k q)
  | .cxtrap k => s.reg (cxtrapAt k)
  | .cxtcmv k => s.reg (cxtcmvAt k)
  | .cxrsm _ => 0
  | .cxpre _ => 0
  | .retstat => s.reg retstatAt
  | .pgflag n => s.reg (pgflagAt n)
  | .pspl n p => s.portStatus n p
  | .pres _ _ => 0
  | .lqcfg k q => s.reg (lqcfgAt k q)
  | .lqstat k q => s.queueStatus k q
  | .spbase k => s.reg (spbaseAt k)
  | .spcnt k => field 32 24 (s.ctx k).tids.length ||| field 0 24 (bits (s.reg (spcntAt k)) 0 24)
  | .fsbase k => s.reg (fsbaseAt k)
  | .fssize k => field 32 24 (s.poolUsed k) ||| field 0 24 (bits (s.reg (fssizeAt k)) 0 24)
  | .shmap k => s.reg (shmapAt k)
  | .hangint k => s.reg (hangintAt k)
  | .sqint k => s.reg (sqintAt k)
  | .sqstat k => (s.ctx k).sequencer
  | .shutstat k => s.shutters k
  | .shutctl _ => 0
  | .ldstat k => s.reg (ldstatAt k)
  | .stspl p k => (s.streamer p).status k
  | .stres _ _ => 0
  | .gdesc g => s.descWord (s.groupSeen g)
  | .gctl => s.groups.control
  | .gmyrank g => if s.th.onControl then 0 else s.myRank g (fin 1024 s.th.site)
  | .grank g r => (s.groupSeen g).entryWord r
  | .routecfg => s.reg routecfgAt
  | .rtmap m => s.reg (rtmapAt m)
  | .rtport p => s.reg (rtportAt p)
  | .cxmode k => s.reg (cxmodeAt k)
  | .fact f => if h : f < 8 then s.fields[f].fact else 0
  | .rtuctl => 0
  | .rtustat => s.rtu.status
  | .rrcfg => s.reg rrcfgAt
  | .rrstat => s.reg rrstatAt
  | .rplctl k => s.reg (rplctlAt k)
  | .cxrst k => flag 62 (s.ctx k).resetting

end Sys2Proof.Machine
end

