-- ==== Sys2Proof/Machine/DeviceWrite.lean ====
section
/-!
DEFINITION. Sys2Proof/Machine/DeviceWrite.lean: what a store to a device register does: fields stored, write-one-to-clear bits,
read-only and reserved fields dropped (R9), and the actions that writes start (R152, R153, R188, R206, R208, R213, R226, R232
to R235, R239, R255, R287, R324, R348, R358, R359, R366, R417 to R419, R433 to R435, R441, R450 to R452). The events of the opcode
table that name a write act through the same operations.
-/
namespace Sys2Proof.Machine

/-! ### Invalidation (R153) -/

/-- Whether a TLB entry lies in the range that a TLBINV names. -/
def invalidates (v : Word) (e : TlbEntry) : Bool :=
  let a := bits v 16 36 * 65536
  let n := match bits v 0 2 with | 0 => 16 | 1 => 21 | _ => 30
  bits v 0 2 == 3 || (decide (e.va < a / 2 ^ n * 2 ^ n + 2 ^ n) && decide (a / 2 ^ n * 2 ^ n < e.va + 2 ^ e.log2))

/-- A walk under way begins again at its thread's next turn. -/
def Thread.rewalk (t : Thread) (c : Fin 16) : Thread :=
  match t.wait with
  | .walk _ _ _ _ _ => if t.cx = c then { t with st := .run, wait := .none } else t
  | _ => t

/-- Whether an access of a context at an address was translated through what a TLBINV invalidates: an address of the range that it
names, or of an entry that it invalidates. (DESIGN CHOICE, assumption 15) -/
def State.throughInval (s : State) (k : Fin 16) (v : Word) (core : CoreId) (c : Fin 16) (va : Nat) : Bool :=
  c = k && (invalidates v { owner := .core core, ctx := c, va := va, log2 := 0, leaf := 0, stale := false } ||
    s.tlb.any fun e => invalidates v e && e.holds core c va)

/-- The fills of a context, at addresses that a TLBINV names, that transfers of the streamers wait for (R153, R154). -/
def State.fillsAt (s : State) (c : Fin 16) (v : Word) : List (Fin 16 × Nat) :=
  let named (f : Nat × Nat) : Bool :=
    invalidates v { owner := .core (.control 0), ctx := c, va := f.2, log2 := 16, leaf := 0, stale := false }
  let waits (k : Nat) : Bool := s.streams.any fun x => x.2.xfers.any fun (t : Xfer) => t.fillAt == some k
  ((s.ctx c).fills.filter fun f => named f && waits f.1).map fun f => (c, f.1)

/-- TLBINV: the entries are invalidated and may be used until they are dropped, walks begin again, and BUSY is set.
(DESIGN CHOICE, assumption 15) -/
def State.writeTlbinv (s : State) (c : Fin 16) (v : Word) : State :=
  let s := { s with tlb := s.tlb.map fun (e : TlbEntry) => if e.ctx = c ∧ invalidates v e then { e with stale := true } else e,
                    inval := s.inval.filter (fun (x : Fin 16 × Place × Wait) => decide (x.1 ≠ c)) ++ s.waitingAt (s.throughInval c v),
                    invalFills := s.invalFills.filter (fun (x : Fin 16 × Nat) => decide (x.1 ≠ c)) ++ s.fillsAt c v }
  (s.mapThreads fun t => t.rewalk c).setRegBits (tlbstatAt c) 0 1 1

/-- Whether an access translated through the invalidated translations still waits. -/
def State.holdsOld (s : State) (c : Fin 16) : Bool :=
  s.inval.any fun (x : Fin 16 × Place × Wait) => x.1 = c &&
    s.threads.any fun t => decide (t.place = x.2.1) && t.cx = c && t.st == .wait && decide (t.wait = x.2.2)

/-- Whether a transfer still waits for a fill at an invalidated address. -/
def State.fillsOld (s : State) (c : Fin 16) : Bool :=
  s.invalFills.any fun (x : Fin 16 × Nat) => x.1 = c && s.streams.any fun y => y.2.xfers.any fun (t : Xfer) => t.ctx = c && t.fillAt == some x.2

def execTlbinvWrite (ctx : Fin 16) (v : Word) (s : State) : Result :=
  if bit (s.reg (tlbstatAt ctx)) 0 then .next s else .next (s.writeTlbinv ctx v)

/-- The invalidated entries of a context are dropped everywhere and its buffered stores perform; BUSY clears once every access through
them has performed (R153). -/
def execTlbInvalidationDone (ctx : Fin 16) (s : State) : Result :=
  let s := (s.dropTlb fun e => e.ctx = ctx && e.stale).drain fun e => e.ctx = ctx
  if s.holdsOld ctx ∨ s.fillsOld ctx then .next s else .next (s.setRegBits (tlbstatAt ctx) 0 1 0)

/-! ### Region tables (R188, R189) -/

/-- A write to RGNCTL: COUNT is stored and the homes start to read the table. -/
def State.writeRgnctl (s : State) (c : Fin 16) (v : Word) : State :=
  s.setReg (rgnctlAt c) (setBits (setBits (s.reg (rgnctlAt c)) 63 1 1) 0 13 (min 4096 (bits v 0 13)))

def execRgnctlCountWrite (ctx : Fin 16) (v : Word) (s : State) : Result := .next (s.writeRgnctl ctx v)

/-- Whether a region entry is malformed, valid or not (R189). (DESIGN CHOICE, assumption 50) -/
def regionBad (e : Word) : Bool :=
  let b := bits e 12 29 * 4096
  let n := bits e 0 6
  bits e 41 22 != 0 || bits e 6 6 != 0 || decide (n < 12) || decide (41 < n) || b % 2 ^ n != 0 || decide (0x12000000000 < b + 2 ^ n)

/-- The entries of a region table. (DESIGN CHOICE, assumption 50) -/
def State.regionEntries (s : State) (c : Fin 16) : List (Nat × Word) :=
  let base := offsetOf (bits (s.reg (rgnbaseAt c)) 15 37 * 32768)
  (List.range (bits (s.reg (rgnctlAt c)) 0 13)).map fun i => (i, BitVec.ofNat 64 (s.mem.read (base + 8 * i) 8))

/-- The regions of a table that is read: its well-formed valid entries. -/
def State.regionsRead (s : State) (c : Fin 16) : List (Nat × Nat × Nat) :=
  ((s.regionEntries c).filter fun e => bit e.2 63 && !regionBad e.2).map fun e => (e.1, bits e.2 12 29 * 4096, bits e.2 0 6)

/-- While the homes read the table, a core applies it to a line, and keeps to that until they have read it (R188).
(DESIGN CHOICE, assumption 50) -/
def State.applyRegion (s : State) (core : CoreId) (c : Fin 16) (line : Nat) : State :=
  if bit (s.reg (rgnctlAt c)) 63 then
    s.updCtx c fun x => { x with
      early := ((core, line, regionIn (s.regionsRead c) (line * 64)) :: x.early.filter fun e => !(decide (e.1 = core) && e.2.1 == line)) }
  else s

/-- The homes have read the table: its well-formed valid entries are in force, and ERR and IDX tell of the first malformed one.
(DESIGN CHOICE, assumption 50) -/
def execRegionTableReadDone (ctx : Fin 16) (s : State) : Result :=
  let ctl := s.reg (rgnctlAt ctx)
  if bit ctl 63 then
    let bad := ((s.regionEntries ctx).find? fun e => regionBad e.2).map (·.1)
    let good := s.regionsRead ctx
    let s := s.updCtx ctx fun x => { x with regions := good, early := [] }
    .next (s.setReg (rgnctlAt ctx) (setBits (setBits (setBits ctl 63 1 0) 62 1 bad.isSome.toNat) 16 12 (bad.getD 0)))
  else .next s

/-! ### The reduction error log and context halts (R206, R208) -/

/-- The context starts again: every thread that the halt saved and that has not ended is made ready. -/
def State.restart (s : State) (c : Fin 16) : State :=
  let l := (s.threads.filter fun t => t.halted && t.ctx = c).map fun t => t.tid
  let s := l.foldl (fun (s : State) tid => (s.makeReady c tid).updThread (.saved c tid) fun t => { t with halted := false }) s
  s.updCtx c fun x => { x with halted := false }

/-- A write to RLOGCTL: RD is stored; a 1 to PEND clears PEND and LOST and restarts a halted context. -/
def State.writeRlogctl (s : State) (c : Fin 16) (v : Word) : State :=
  let ctl := setBits (s.reg (rlogctlAt c)) 0 13 (bits v 0 13)
  if bit v 63 then
    let s := s.setReg (rlogctlAt c) (setBits (setBits ctl 63 1 0) 45 16 0)
    if (s.ctx c).halted then s.restart c else s
  else s.setReg (rlogctlAt c) ctl

def execRlogctlPendClear (ctx : Fin 16) (v : Word) (s : State) : Result := .next (s.writeRlogctl ctx (setBits v 63 1 1))

/-! ### Fault queues (R232) -/

/-- Held records of a context are written as far as there is room. -/
def State.writeHeld (s : State) (c : Fin 16) : State := s.flushHeld c (s.ctx c).heldQ.length

/-- A write to FQCTL: RD is stored, LOST of queue 2 is cleared, and held records are written. -/
def State.writeFqctl (s : State) (c : Fin 16) (q : Fin 3) (v : Word) : State :=
  let ctl := setBits (s.reg (fqctlAt c q)) 0 13 (bits v 0 13)
  (s.setReg (fqctlAt c q) (if q = 2 then setBits ctl 45 16 0 else ctl)).writeHeld c

def execFqctlRdWrite (ctx : Fin 16) (fq : Fin 3) (v : Word) (s : State) : Result := .next (s.writeFqctl ctx fq v)

/-- A ring base with a field LOG2N kept between a least and a greatest value. -/
def ringBase (v : Word) (least : Nat) : Word :=
  field 12 40 (bits v 12 40) ||| field 1 4 (min 12 (max least (bits v 1 4))) ||| flag 0 (bit v 0)

/-! ### Resumption, pre-emption and shutters (R226, R233, R235, R358) -/

/-- A write to CXRSM: the saved thread it names joins a launch queue, or ends as by a fault. (DEDUCED, assumption 19) -/
def State.writeCxrsm (s : State) (c : Fin 16) (v : Word) : State :=
  let tid := BitVec.ofNat 24 (bits v 0 24)
  match s.findThread (.saved c tid) with
  | none => s
  | some t =>
    if bit v 63 then s.endThread (.saved c tid) false true
    else if t.ready.isSome then s
    else
      let (s, n) := s.tick
      s.updThread (.saved c tid) fun t => { t with ready := some (fin 64 (bits v 24 6)), landed := n }

def execCxrsmResume (ctx : Fin 16) (v : Word) (s : State) : Result := .next (s.writeCxrsm ctx (setBits v 63 1 0))
def execCxrsmDiscard (ctx : Fin 16) (v : Word) (s : State) : Result := .next (s.writeCxrsm ctx (setBits v 63 1 1))

/-- A write to CXPRE: the resident thread it names is saved. -/
def State.writeCxpre (s : State) (c : Fin 16) (v : Word) : State :=
  match s.findTid c (BitVec.ofNat 24 (bits v 0 24)) with
  | some t => if t.onBarrel then s.preempt t.place else s
  | none => s

def execCxpreWrite (ctx : Fin 16) (v : Word) (s : State) : Result := .next (s.writeCxpre ctx v)

/-- A write to SHUTCTL acts on the shuttered instance it names. -/
def State.writeShutctl (s : State) (c : Fin 16) (v : Word) : State :=
  match s.insts.findIdx? fun x => x.ctx = c && x.slot == bits v 56 3 && x.num == bits v 32 10 with
  | none => s
  | some i =>
    match bits v 0 2 with
    | 1 => s.shutResume i false
    | 2 => s.shutDiscard i
    | 3 => s.shutReload i
    | _ => s

def execShutctlResume (ctx : Fin 16) (v : Word) (s : State) : Result := .next (s.writeShutctl ctx (setBits v 0 2 1))
def execShutctlDiscard (ctx : Fin 16) (v : Word) (s : State) : Result := .next (s.writeShutctl ctx (setBits v 0 2 2))
def execShutctlReload (ctx : Fin 16) (v : Word) (s : State) : Result := .next (s.writeShutctl ctx (setBits v 0 2 3))

/-- A write to PRES or STRES: RETRY, DISCARD or nothing (R324, R366). -/
def State.writePres (s : State) (n : Nat) (p : Fin 4) (v : Word) : State :=
  match bits v 0 2 with | 1 => s.portRetry n p | 2 => s.portDiscard n p | _ => s

def State.writeStres (s : State) (p : Fin 128) (c : Fin 16) (v : Word) : State :=
  match bits v 0 2 with | 1 => s.streamRetry p c | 2 => s.streamDiscard p c | _ => s

/-! ### Barriers and replay (R213, R452) -/

/-- A write to BCFG: EN at once, CNT from the next phase. -/
def State.writeBcfg (s : State) (c : Fin 16) (b : Fin 4) (v : Word) : State :=
  s.setBar c b { s.bar c b with cntN := min 16 (max 1 (bits v 3 5)), en := bit v 0 }.settle

/-- A write to RPLCTL: a mode or BASE that is new begins a recording with an empty log, or a replay with every entry of the log at BASE.
(DESIGN CHOICE, assumption 23) -/
def State.writeRplctl (s : State) (c : Fin 16) (v : Word) : State :=
  let old := s.reg (rplctlAt c)
  let new := field 12 40 (bits v 12 40) ||| field 0 2 (bits v 0 2)
  let s := s.setReg (rplctlAt c) new
  if new = old then s
  else if bits v 0 2 = 1 then s.setLogLength c 0
  else if bits v 0 2 = 2 then s.updCtx c fun x => { x with todo := List.range (s.logLength c) }
  else s

/-! ### A store to a register -/

/-- Clears the bits of a register that a write sets to 1, among the `n` lowest. -/
def State.clearOnes (s : State) (o n : Nat) (v : Word) : State := s.setReg o (s.reg o &&& ~~~(field 0 n (bits v 0 n)))

/-- HANGINT as stored (R359). -/
def hangintStored (v : Word) : Word := field 0 20 (max 1 (bits v 0 20))

/-- RATE as stored: 1 to 7 store 8 (R451). -/
def rateStored (v : Word) : Word :=
  let r := bits v 0 4
  field 0 4 (if 1 ≤ r ∧ r ≤ 7 then 8 else r)

/-- The fields that a register without behaviour of its own stores; the other registers are not among them. -/
def plainStored (v : Word) : DevReg → Option (Nat × Word)
  | .cxroot k => some (cxrootAt k, field 16 36 (bits v 16 36) ||| flag 0 (bit v 0))
  | .cxpeer k => some (cxpeerAt k, flag 63 (bit v 63) ||| field 0 11 (bits v 0 11))
  | .rgnbase k => some (rgnbaseAt k, field 15 37 (bits v 15 37) ||| flag 0 (bit v 0))
  | .rlogbase k => some (rlogbaseAt k, ringBase v 4)
  | .fqbase k q => some (fqbaseAt k q, ringBase v 6)
  | .cxtrap k => some (cxtrapAt k, field 2 50 (bits v 2 50) ||| flag 0 (bit v 0))
  | .cxtcmv k => some (cxtcmvAt k, field 28 24 (bits v 28 24))
  | .lqcfg k q => some (lqcfgAt k q, flag 63 (bit v 63) ||| field 8 3 (bits v 8 3) ||| field 0 6 (bits v 0 6))
  | .spbase k => some (spbaseAt k, field 11 41 (bits v 11 41) ||| flag 0 (bit v 0))
  | .spcnt k => some (spcntAt k, field 0 24 (bits v 0 24))
  | .fsbase k => some (fsbaseAt k, field 16 36 (bits v 16 36) ||| flag 0 (bit v 0))
  | .fssize k => some (fssizeAt k, field 0 24 (bits v 0 24))
  | .shmap k => some (shmapAt k, field 12 40 (bits v 12 40) ||| field 1 11 (bits v 1 11) ||| flag 0 (bit v 0))
  | .hangint k => some (hangintAt k, hangintStored v)
  | .cxmode k => some (cxmodeAt k, field 0 5 (bits v 0 5))
  | .rrcfg => some (rrcfgAt, rateStored v)
  | _ => none

/-- A register that holds plain bits takes what was stored; FQBASE then writes the records held for want of it (R232). -/
def State.devStored (s : State) (r : DevReg) (o : Nat) (w : Word) : State :=
  match r with
  | .fqbase k _ => (s.setReg o w).writeHeld k
  | _ => s.setReg o w

/-- What a write of a register that acts does. -/
def State.devCommand (s : State) (r : DevReg) (v : Word) : State :=
  match r with
  | .cflags c => s.clearOnes (cflagsAt c) 5 v
  | .pgflag n => s.clearOnes (pgflagAt n) 5 v
  | .sqint k => s.clearOnes (sqintAt k) 2 v
  | .tlbinv k => s.writeTlbinv k v
  | .rgnctl k => s.writeRgnctl k v
  | .rlogctl k => s.writeRlogctl k v
  | .bmask k b w => s.writeBmask k b w v
  | .bcfg k b => s.writeBcfg k b v
  | .fqctl k q => s.writeFqctl k q v
  | .cxrsm k => s.writeCxrsm k v
  | .cxpre k => s.writeCxpre k v
  | .retstat => if bit v 63 then s.setRegBits retstatAt 63 1 0 else s
  | .pres n p => s.writePres n p v
  | .stres p k => s.writeStres p k v
  | .shutctl k => s.writeShutctl k v
  | .ldstat k => if bit v 63 then s.setRegBits (ldstatAt k) 63 1 0 else s
  | .gdesc g => s.writeGdesc g v
  | .grank g n => s.writeGrank g n v
  | .gctl => s.commitGroups v
  | .routecfg => s.writeRoutecfg v
  | .rtmap m => s.writeRtmap m v
  | .rtport p => s.writeRtport p v
  | .rtuctl => s.writeRtuctl v
  | .rrstat => s.clearRerun
  | .rplctl k => s.writeRplctl k v
  | .cxrst k => if bit v 63 then s.resetContext k else s
  | _ => s

/-- What a store of `v` to a register that has been let through does. (DEDUCED, assumption 27) -/
def State.devWrite (s : State) (r : DevReg) (v : Word) : State :=
  match plainStored v r with
  | some (o, w) => s.devStored r o w
  | none => s.devCommand r v

/-- Whether a store to a register stalls: TLBINV while an invalidation runs (R153). -/
def State.devBusy (s : State) : DevReg → Bool
  | .tlbinv k => bit (s.reg (tlbstatAt k)) 0
  | _ => false

/-- A write to a register with no behaviour of its own, by its module offset (R9): its writable fields change, a bit that is
written 1 to clear is cleared, and everything else is ignored; CNT and EN of a barrier and the replay register among them. -/
def execRegisterWrite (off : Nat) (v : Word) (s : State) : Result :=
  if spaceOf off = .device ∧ off % 8 = 0 then
    match devReg off with
    | none => .next s
    | some r =>
      if !s.regPresent r || s.devBusy r then .next s else .next (s.devWrite r v)
  else .next s

end Sys2Proof.Machine
end

