-- ==== Sys2Proof/Machine/Int.lean ====
section
/-!
DEFINITION. Sys2Proof/Machine/Int.lean: the integer and immediate instructions (R87 to R95).
-/
namespace Sys2Proof.Machine

def execAdd (d a b : Reg) (s : State) : Result := doneG s d (s.gr a + s.gr b)
def execSub (d a b : Reg) (s : State) : Result := doneG s d (s.gr a - s.gr b)
def execAnd (d a b : Reg) (s : State) : Result := doneG s d (s.gr a &&& s.gr b)
def execOr (d a b : Reg) (s : State) : Result := doneG s d (s.gr a ||| s.gr b)
def execXor (d a b : Reg) (s : State) : Result := doneG s d (s.gr a ^^^ s.gr b)

/-- The shift count of R88. -/
def shiftCount (b : Word) : Nat := bits b 0 6

def execShl (d a b : Reg) (s : State) : Result := doneG s d (s.gr a <<< shiftCount (s.gr b))
def execShr (d a b : Reg) (s : State) : Result := doneG s d (s.gr a >>> shiftCount (s.gr b))
def execSra (d a b : Reg) (s : State) : Result := doneG s d ((s.gr a).sshiftRight (shiftCount (s.gr b)))
def execRol (d a b : Reg) (s : State) : Result := doneG s d ((s.gr a).rotateLeft (shiftCount (s.gr b)))
def execRor (d a b : Reg) (s : State) : Result := doneG s d ((s.gr a).rotateRight (shiftCount (s.gr b)))

def execMin (d a b : Reg) (s : State) : Result := doneG s d (if (s.gr a).toInt ≤ (s.gr b).toInt then s.gr a else s.gr b)
def execMax (d a b : Reg) (s : State) : Result := doneG s d (if (s.gr a).toInt ≥ (s.gr b).toInt then s.gr a else s.gr b)
def execMinn (d a b : Reg) (s : State) : Result := doneG s d (if (s.gr a).toNat ≤ (s.gr b).toNat then s.gr a else s.gr b)
def execMaxn (d a b : Reg) (s : State) : Result := doneG s d (if (s.gr a).toNat ≥ (s.gr b).toNat then s.gr a else s.gr b)
def execSlt (d a b : Reg) (s : State) : Result := doneG s d (Word.ofBool ((s.gr a).toInt < (s.gr b).toInt))
def execSltn (d a b : Reg) (s : State) : Result := doneG s d (Word.ofBool ((s.gr a).toNat < (s.gr b).toNat))
def execSeq (d a b : Reg) (s : State) : Result := doneG s d (Word.ofBool (s.gr a = s.gr b))
def execSel (d a b c : Reg) (s : State) : Result := doneG s d (if s.gr c ≠ 0 then s.gr a else s.gr b)

def execMul (d a b : Reg) (s : State) : Result := doneG s d (s.gr a * s.gr b)
def execMulh (d a b : Reg) (s : State) : Result :=
  doneG s d (BitVec.ofInt 64 ((s.gr a).toInt * (s.gr b).toInt / 2 ^ 64))
def execMulhn (d a b : Reg) (s : State) : Result :=
  doneG s d (BitVec.ofNat 64 ((s.gr a).toNat * (s.gr b).toNat / 2 ^ 64))

/-- A division: DIVZ in the issue turn; on a barrel core the result is written after three forfeited turns (R86, R91).
(DEDUCED, assumption 13) -/
def divide (s : State) (d : Reg) (b : Word) (v : Word) : Result :=
  if b = 0 then trapNow s 0x04
  else if s.th.onBarrel then .next (s.block (.divide 3 d v))
  else doneG s d v

def execDiv (d a b : Reg) (s : State) : Result :=
  divide s d (s.gr b) (BitVec.ofInt 64 ((s.gr a).toInt.tdiv (s.gr b).toInt))
def execDivn (d a b : Reg) (s : State) : Result :=
  divide s d (s.gr b) (BitVec.ofNat 64 ((s.gr a).toNat / (s.gr b).toNat))
def execRem (d a b : Reg) (s : State) : Result :=
  divide s d (s.gr b) (BitVec.ofInt 64 ((s.gr a).toInt.tmod (s.gr b).toInt))
def execRemn (d a b : Reg) (s : State) : Result :=
  divide s d (s.gr b) (BitVec.ofNat 64 ((s.gr a).toNat % (s.gr b).toNat))

/-- The number of leading zero bits below bit `n`. -/
def leadingZeros (a : Word) : Nat → Nat
  | 0 => 0
  | n + 1 => if a.getLsbD n then 0 else leadingZeros a n + 1

/-- The number of zero bits from bit `64 - n` up to the first one. -/
def trailingZeros (a : Word) : Nat → Nat
  | 0 => 0
  | n + 1 => if a.getLsbD (63 - n) then 0 else trailingZeros a n + 1

/-- The number of one bits below bit `n`. -/
def onesBelow (a : Word) : Nat → Nat
  | 0 => 0
  | n + 1 => onesBelow a n + (if a.getLsbD n then 1 else 0)

def execClz (d a : Reg) (s : State) : Result := doneG s d (BitVec.ofNat 64 (leadingZeros (s.gr a) 64))
def execCtz (d a : Reg) (s : State) : Result := doneG s d (BitVec.ofNat 64 (trailingZeros (s.gr a) 64))
def execPop (d a : Reg) (s : State) : Result := doneG s d (BitVec.ofNat 64 (onesBelow (s.gr a) 64))

def execAddi (d a : Reg) (i : BitVec 15) (s : State) : Result := doneG s d (s.gr a + sImm i)
def execAndi (d a : Reg) (i : BitVec 15) (s : State) : Result := doneG s d (s.gr a &&& zImm i)
def execOri (d a : Reg) (i : BitVec 15) (s : State) : Result := doneG s d (s.gr a ||| zImm i)
def execXori (d a : Reg) (i : BitVec 15) (s : State) : Result := doneG s d (s.gr a ^^^ zImm i)

def execShli (d a : Reg) (n : BitVec 6) (s : State) : Result := doneG s d (s.gr a <<< n.toNat)
def execShri (d a : Reg) (n : BitVec 6) (s : State) : Result := doneG s d (s.gr a >>> n.toNat)
def execSrai (d a : Reg) (n : BitVec 6) (s : State) : Result := doneG s d ((s.gr a).sshiftRight n.toNat)

def execBfx (d a : Reg) (w p : BitVec 6) (s : State) : Result :=
  doneG s d (extractField (s.gr a) p.toNat (fieldWidth w) false)
def execBfxS (d a : Reg) (w p : BitVec 6) (s : State) : Result :=
  doneG s d (extractField (s.gr a) p.toNat (fieldWidth w) true)
def execBfi (d a : Reg) (w p : BitVec 6) (s : State) : Result :=
  doneG s d (setBits (s.gr d) p.toNat (fieldWidth w) (s.gr a).toNat)

def execLui (d : Reg) (i : BitVec 20) (s : State) : Result := doneG s d (luiValue i)
def execLuih (d : Reg) (i : BitVec 20) (s : State) : Result := doneG s d (luihValue (s.gr d) i)
def execAdpc (d : Reg) (i : BitVec 20) (s : State) : Result := doneG s d (adpcValue s.th.pc i)

/-! ### Pointers (R96) -/

def execLea (d a b : Reg) (sc : Fin 5) (s : State) : Result := doneG s d (leaValue (s.gr a) (s.gr b) sc)
def execPtag (d a b : Reg) (s : State) : Result := doneG s d (setBits (s.gr a) 60 4 (bits (s.gr b) 0 4))
def execPrgt (d a b : Reg) (s : State) : Result := doneG s d (setBits (s.gr a) 58 2 (bits (s.gr b) 0 2))
def execPadr (d a b : Reg) (s : State) : Result := doneG s d (setBits (s.gr a) 0 52 (bits (s.gr b) 0 52))

/-! ### Control flow (R99 to R102) -/

/-- A conditional branch (R99). -/
def branchIf (c : Bool) (o : BitVec 15) (s : State) : Result :=
  if c then .next (s.goto (branchTarget s.th.pc o)) else done s

def execBeq (a b : Reg) (o : BitVec 15) (s : State) : Result := branchIf (s.gr a = s.gr b) o s
def execBne (a b : Reg) (o : BitVec 15) (s : State) : Result := branchIf (s.gr a ≠ s.gr b) o s
def execBlt (a b : Reg) (o : BitVec 15) (s : State) : Result := branchIf ((s.gr a).toInt < (s.gr b).toInt) o s
def execBge (a b : Reg) (o : BitVec 15) (s : State) : Result := branchIf ((s.gr a).toInt ≥ (s.gr b).toInt) o s
def execBltn (a b : Reg) (o : BitVec 15) (s : State) : Result := branchIf ((s.gr a).toNat < (s.gr b).toNat) o s
def execBgen (a b : Reg) (o : BitVec 15) (s : State) : Result := branchIf ((s.gr a).toNat ≥ (s.gr b).toNat) o s

def execJ (o : BitVec 25) (s : State) : Result := .next (s.goto (branchTarget s.th.pc o))
def execJal (o : BitVec 25) (s : State) : Result :=
  .next ((s.setG 1 (linkOf s.th.pc)).goto (branchTarget s.th.pc o))
def execJalr (d a : Reg) (i : BitVec 15) (s : State) : Result :=
  let t := jalrTarget (s.gr a) i
  if bits t 0 2 ≠ 0 then trapWith s 0x05 (t.setWidth 64) 0
  else .next ((s.setG d (linkOf s.th.pc)).goto t)
def execLoop (a : Reg) (o : BitVec 15) (s : State) : Result :=
  let n := s.gr a - 1
  let s' := s.setG a n
  if n ≠ 0 then .next (s'.goto (branchTarget s.th.pc o)) else done s'

/-- HALT: the slot enters DRAIN; the end of the thread is DRAIN_COMPLETE's (R104). (DEDUCED, assumption 13) -/
def execHalt (s : State) : Result := .next { s with th := { s.th with st := .drain, pass := false } }

/-- A word that is no instruction raises ILLEGAL (R36, R38). -/
def execIllegal (w : BitVec 32) (s : State) : Result := .next (s.deliver (s.th.record 0x01 w 0 0 0 0))

end Sys2Proof.Machine
end

