-- ==== Sys2Proof/Machine/Loads.lean ====
section
/-!
DEFINITION. Sys2Proof/Machine/Loads.lean: the loads of R155 from memory, full-empty granules and device registers (R46, R47, R144
to R149, R155 to R158, R163, R168, R453).
-/
namespace Sys2Proof.Machine

/-- A state whose current thread completes or has completed an access of the thread of `s`: watchpoints of this module see the access
(R148, R168). -/
def State.touched (t s : State) (addr : Word) (pa n : Nat) (rd wr : Bool) : State :=
  t.touchBy s.th s.insn addr pa n rd wr false

/-- The bytes of a load reach their register and the thread goes on. -/
def State.landed (s : State) (dst : LoadDest) (n v : Nat) : State := { s with th := s.th.landLoad dst n v }

/-- A load of a device register (R149, R453); it waits while the core buffers a store to that register (R81, R85). -/
def State.loadReg (s : State) (r : DevReg) (addr : Word) (pa : Nat) (dst : LoadDest) : State :=
  if s.sbuf.any fun e => decide (e.core = s.th.core) && e.overlaps pa 8 then s.block (.overlap pa 8)
  else
    let v := s.devRead r
    let t := if devHome s.th r = s.th.key then s else s.exchange (devHome s.th r)
    (t.touched s addr pa 8 true false).landed dst 8 v.toNat

/-- What follows a full-empty load of the thread of `s` that has completed: watchpoints see it, and one that a window's record
released acquires (R31, R187, R390). -/
def State.fullLanded (t s : State) (addr : Word) (pa n : Nat) (consume : Bool) : State :=
  let u := t.touched s addr pa n true consume
  if s.noteAt s.th.cx pa then u.acquire else u

/-- A load of `n` bytes (R155): the checks, then a device register, a full-empty granule, or a plain load. -/
def loadTurn (s : State) (n : Nat) (q : LoadQual) (reg : Bool) (b : Reg) (o : BitVec 12) (dst : LoadDest) : Result :=
  let p := s.gr b
  let ea := effective p o n
  let addr := withTop p ea
  match s.check p ea (loadReq n q reg) with
  | .error e => inTrouble s addr e
  | .ok pa =>
    if s.isLocal pa ∧ spaceOf (offsetOf pa) = .device then
      match devReg (offsetOf pa) with
      | some r => .next (s.loadReg r addr pa dst)
      | none => trapWith s 0x0C addr 0
    else if loadFull q ∧ s.noteAt s.th.cx pa ∧ s.awaitsFlush then .next (s.block .flush)
    else if loadFull q then
      match s.fullLoad p addr pa n dst (loadConsumes q) 0 with
      | .error e => inTrouble s addr e
      | .ok t => .next (if t.th.st = .wait then t else t.fullLanded s addr pa n (loadConsumes q))
    else
      match s.loadAt p pa n (!loadNt q) with
      | .error e => inTrouble s addr e
      | .ok (t, v) => .next ((t.touched s addr pa n true false).landed dst n v.toNat)

def execLdB (d b : Reg) (q : LoadQual) (o : BitVec 12) (s : State) : Result := loadTurn s 1 q false b o (.signed d)
def execLdH (d b : Reg) (q : LoadQual) (o : BitVec 12) (s : State) : Result := loadTurn s 2 q false b o (.signed d)
def execLdW (d b : Reg) (q : LoadQual) (o : BitVec 12) (s : State) : Result := loadTurn s 4 q false b o (.signed d)
def execLdD (d b : Reg) (q : LoadQual) (o : BitVec 12) (s : State) : Result := loadTurn s 8 q true b o (.signed d)
def execLdnB (d b : Reg) (q : LoadQual) (o : BitVec 12) (s : State) : Result := loadTurn s 1 q false b o (.zero d)
def execLdnH (d b : Reg) (q : LoadQual) (o : BitVec 12) (s : State) : Result := loadTurn s 2 q false b o (.zero d)
def execLdnW (d b : Reg) (q : LoadQual) (o : BitVec 12) (s : State) : Result := loadTurn s 4 q false b o (.zero d)
def execLdfH (d b : Reg) (q : LoadQual) (o : BitVec 12) (s : State) : Result := loadTurn s 2 q false b o (.float d)
def execLdfW (d b : Reg) (q : LoadQual) (o : BitVec 12) (s : State) : Result := loadTurn s 4 q false b o (.float d)
def execLdfD (d b : Reg) (q : LoadQual) (o : BitVec 12) (s : State) : Result := loadTurn s 8 q false b o (.float d)
def execLdp (d b : Reg) (q : LoadQual) (o : BitVec 12) (s : State) : Result := loadTurn s 16 q false b o (.pair d)

end Sys2Proof.Machine
end

