-- ==== Sys2Proof/Machine/Stores.lean ====
section
/-!
DEFINITION. Sys2Proof/Machine/Stores.lean: the stores of R155 to memory, full-empty granules and device registers, and the STP that
issues a stream command (R46, R47, R51, R144 to R149, R155 to R158, R162, R163, R168, R181, R453).
-/
namespace Sys2Proof.Machine

/-- A store to a device register: a control core's acts at once; a barrel thread may name DEVID alone, and its store takes an
entry that changes nothing when it performs (R4, R149, R153, R453). (DEDUCED, assumption 27) -/
def State.storeReg (s : State) (r : DevReg) (addr : Word) (pa : Nat) (v : Word) : State :=
  if s.th.onControl then
    if s.devBusy r then s.block .device
    else
      let t := if devHome s.th r = s.th.key then s else s.exchange (devHome s.th r)
      ((t.touched s addr pa 8 false true).advance.devWrite r v).returnTo s.th.place
  else
    match s.storeWait addr pa with
    | some w => w
    | none => ((s.touched s addr pa 8 false true).enter addr pa 8 v.toNat .device).advance

/-- An STP to the thread's command port: a release part, then the command joins the port's queue, or waits for room (R51, R67,
R181). (DEDUCED, assumption 27) -/
def portTurn (s : State) (addr : Word) (pa v : Nat) : Result :=
  atFence s .device fun s =>
    let c := s.th.cx
    let x := s.ctx c
    if 16 ≤ x.port.length ∨ x.resetting then .next (s.block .port)
    else
      let t := (s.exchange (seqKey c)).touched s addr pa 16 false true
      done (t.updCtx c fun x => { x with port := x.port ++
        [{ word := BitVec.ofNat 128 v, id := 0, stream := .port, hyp := s.th.thyp, site := s.th.site, slot := s.th.slot,
           begun := false, wrote := false, upTo := 0 }] })

/-- A store of the low `n` bytes of `v` (R155): the checks, then a command port, a device register or memory. -/
def storeTurn (s : State) (n : Nat) (q : StoreQual) (reg port : Bool) (b : Reg) (o : BitVec 12) (v : Nat) : Result :=
  let p := s.gr b
  let ea := effective p o n
  let addr := withTop p ea
  match s.check p ea (storeReq n q reg port) with
  | .error e => inTrouble s addr e
  | .ok pa =>
    if s.isLocal pa ∧ spaceOf (offsetOf pa) = .device then
      match devReg (offsetOf pa) with
      | some (.port _) => portTurn s addr pa v
      | some r => .next (s.storeReg r addr pa (BitVec.ofNat 64 v))
      | none => trapWith s 0x0C addr 0
    else
      match s.storeAt p addr pa n (v % 2 ^ (8 * n)) (storeKindOf q) with
      | .error e => inTrouble s addr e
      | .ok t => .next (if t.th.st = .wait then t else t.touched s addr pa n false true)

def execStB (d b : Reg) (q : StoreQual) (o : BitVec 12) (s : State) : Result := storeTurn s 1 q false false b o (s.gr d).toNat
def execStH (d b : Reg) (q : StoreQual) (o : BitVec 12) (s : State) : Result := storeTurn s 2 q false false b o (s.gr d).toNat
def execStW (d b : Reg) (q : StoreQual) (o : BitVec 12) (s : State) : Result := storeTurn s 4 q false false b o (s.gr d).toNat
def execStD (d b : Reg) (q : StoreQual) (o : BitVec 12) (s : State) : Result := storeTurn s 8 q true false b o (s.gr d).toNat
def execStfH (d b : Reg) (q : StoreQual) (o : BitVec 12) (s : State) : Result := storeTurn s 2 q false false b o (s.fr d).toNat
def execStfW (d b : Reg) (q : StoreQual) (o : BitVec 12) (s : State) : Result := storeTurn s 4 q false false b o (s.fr d).toNat
def execStfD (d b : Reg) (q : StoreQual) (o : BitVec 12) (s : State) : Result := storeTurn s 8 q false false b o (s.fr d).toNat
def execStp (d b : Reg) (q : StoreQual) (o : BitVec 12) (s : State) : Result :=
  storeTurn s 16 q false true b o ((s.gr d).toNat + 2 ^ 64 * (s.gr (regSucc d)).toNat)

end Sys2Proof.Machine
end

