-- ==== Sys2Proof/Machine/Dispatch.lean ====
section
/-!
DEFINITION. Sys2Proof/Machine/Dispatch.lean: one arm per constructor of Instr, each a direct call of its meaning.
-/
namespace Sys2Proof.Machine

def exec (i : Instr) (s : State) : Host.Outcome State Fault Refusal :=
  match i with
  | .illegal w => Sys2Proof.Machine.execIllegal w s
  | .add d a b => Sys2Proof.Machine.execAdd d a b s
  | .sub d a b => Sys2Proof.Machine.execSub d a b s
  | .and d a b => Sys2Proof.Machine.execAnd d a b s
  | .or d a b => Sys2Proof.Machine.execOr d a b s
  | .xor d a b => Sys2Proof.Machine.execXor d a b s
  | .shl d a b => Sys2Proof.Machine.execShl d a b s
  | .shr d a b => Sys2Proof.Machine.execShr d a b s
  | .sra d a b => Sys2Proof.Machine.execSra d a b s
  | .rol d a b => Sys2Proof.Machine.execRol d a b s
  | .ror d a b => Sys2Proof.Machine.execRor d a b s
  | .min d a b => Sys2Proof.Machine.execMin d a b s
  | .max d a b => Sys2Proof.Machine.execMax d a b s
  | .minn d a b => Sys2Proof.Machine.execMinn d a b s
  | .maxn d a b => Sys2Proof.Machine.execMaxn d a b s
  | .slt d a b => Sys2Proof.Machine.execSlt d a b s
  | .sltn d a b => Sys2Proof.Machine.execSltn d a b s
  | .seq d a b => Sys2Proof.Machine.execSeq d a b s
  | .sel d a b c => Sys2Proof.Machine.execSel d a b c s
  | .mul d a b => Sys2Proof.Machine.execMul d a b s
  | .mulh d a b => Sys2Proof.Machine.execMulh d a b s
  | .mulhn d a b => Sys2Proof.Machine.execMulhn d a b s
  | .div d a b => Sys2Proof.Machine.execDiv d a b s
  | .divn d a b => Sys2Proof.Machine.execDivn d a b s
  | .rem d a b => Sys2Proof.Machine.execRem d a b s
  | .remn d a b => Sys2Proof.Machine.execRemn d a b s
  | .clz d a => Sys2Proof.Machine.execClz d a s
  | .ctz d a => Sys2Proof.Machine.execCtz d a s
  | .pop d a => Sys2Proof.Machine.execPop d a s
  | .lea d a b sc => Sys2Proof.Machine.execLea d a b sc s
  | .ptag d a b => Sys2Proof.Machine.execPtag d a b s
  | .prgt d a b => Sys2Proof.Machine.execPrgt d a b s
  | .padr d a b => Sys2Proof.Machine.execPadr d a b s
  | .addi d a x => Sys2Proof.Machine.execAddi d a x s
  | .andi d a x => Sys2Proof.Machine.execAndi d a x s
  | .ori d a x => Sys2Proof.Machine.execOri d a x s
  | .xori d a x => Sys2Proof.Machine.execXori d a x s
  | .shli d a n => Sys2Proof.Machine.execShli d a n s
  | .shri d a n => Sys2Proof.Machine.execShri d a n s
  | .srai d a n => Sys2Proof.Machine.execSrai d a n s
  | .bfx d a w p => Sys2Proof.Machine.execBfx d a w p s
  | .bfxS d a w p => Sys2Proof.Machine.execBfxS d a w p s
  | .bfi d a w p => Sys2Proof.Machine.execBfi d a w p s
  | .lui d x => Sys2Proof.Machine.execLui d x s
  | .luih d x => Sys2Proof.Machine.execLuih d x s
  | .adpc d x => Sys2Proof.Machine.execAdpc d x s
  | .beq a b o => Sys2Proof.Machine.execBeq a b o s
  | .bne a b o => Sys2Proof.Machine.execBne a b o s
  | .blt a b o => Sys2Proof.Machine.execBlt a b o s
  | .bge a b o => Sys2Proof.Machine.execBge a b o s
  | .bltn a b o => Sys2Proof.Machine.execBltn a b o s
  | .bgen a b o => Sys2Proof.Machine.execBgen a b o s
  | .j o => Sys2Proof.Machine.execJ o s
  | .jal o => Sys2Proof.Machine.execJal o s
  | .jalr d a x => Sys2Proof.Machine.execJalr d a x s
  | .loop a o => Sys2Proof.Machine.execLoop a o s
  | .trap c => Sys2Proof.Machine.execTrap c s
  | .trapService c => Sys2Proof.Machine.execTrapService c s
  | .tret => Sys2Proof.Machine.execTret s
  | .mfs d n => Sys2Proof.Machine.execMfs d n s
  | .mts a n => Sys2Proof.Machine.execMts a n s
  | .eret => Sys2Proof.Machine.execEret s
  | .yield => Sys2Proof.Machine.execYield s
  | .halt => Sys2Proof.Machine.execHalt s
  | .tnow d => Sys2Proof.Machine.execTnow d s
  | .twait d a => Sys2Proof.Machine.execTwait d a s
  | .qgrd d => Sys2Proof.Machine.execQgrd d s
  | .qtop d a => Sys2Proof.Machine.execQtop d a s
  | .qspd d a => Sys2Proof.Machine.execQspd d a s
  | .qblt d a b => Sys2Proof.Machine.execQblt d a b s
  | .qrng d a => Sys2Proof.Machine.execQrng d a s
  | .coff a => Sys2Proof.Machine.execCoff a s
  | .sigv a b => Sys2Proof.Machine.execSigv a b s
  | .crcc d a b n => Sys2Proof.Machine.execCrcc d a b n s
  | .fadd t d a b r => Sys2Proof.Machine.execFadd t d a b r s
  | .fsub t d a b r => Sys2Proof.Machine.execFsub t d a b r s
  | .fmul t d a b r => Sys2Proof.Machine.execFmul t d a b r s
  | .fdiv t d a b r => Sys2Proof.Machine.execFdiv t d a b r s
  | .fsqrt t d a r => Sys2Proof.Machine.execFsqrt t d a r s
  | .fmin t d a b => Sys2Proof.Machine.execFmin t d a b s
  | .fmax t d a b => Sys2Proof.Machine.execFmax t d a b s
  | .fabs t d a => Sys2Proof.Machine.execFabs t d a s
  | .fneg t d a => Sys2Proof.Machine.execFneg t d a s
  | .fsgn t d a b => Sys2Proof.Machine.execFsgn t d a b s
  | .feq t d a b => Sys2Proof.Machine.execFeq t d a b s
  | .flt t d a b => Sys2Proof.Machine.execFlt t d a b s
  | .fle t d a b => Sys2Proof.Machine.execFle t d a b s
  | .fcls t d a => Sys2Proof.Machine.execFcls t d a s
  | .ffma t d a b c => Sys2Proof.Machine.execFfma t d a b c s
  | .ffms t d a b c => Sys2Proof.Machine.execFfms t d a b c s
  | .fcvt t d a src r => Sys2Proof.Machine.execFcvt t d a src r s
  | .fcvi t d a ty r => Sys2Proof.Machine.execFcvi t d a ty r s
  | .icvf t d a ty r => Sys2Proof.Machine.execIcvf t d a ty r s
  | .frnd t d a r => Sys2Proof.Machine.execFrnd t d a r s
  | .fscl t d a b r => Sys2Proof.Machine.execFscl t d a b r s
  | .mvgf t d a => Sys2Proof.Machine.execMvgf t d a s
  | .mvfg t d a => Sys2Proof.Machine.execMvfg t d a s
  | .tenc t d a n => Sys2Proof.Machine.execTenc t d a n s
  | .tdec d a n => Sys2Proof.Machine.execTdec d a n s
  | .tbld a n => Sys2Proof.Machine.execTbld a n s
  | .ldB d b q o => Sys2Proof.Machine.execLdB d b q o s
  | .ldH d b q o => Sys2Proof.Machine.execLdH d b q o s
  | .ldW d b q o => Sys2Proof.Machine.execLdW d b q o s
  | .ldD d b q o => Sys2Proof.Machine.execLdD d b q o s
  | .ldnB d b q o => Sys2Proof.Machine.execLdnB d b q o s
  | .ldnH d b q o => Sys2Proof.Machine.execLdnH d b q o s
  | .ldnW d b q o => Sys2Proof.Machine.execLdnW d b q o s
  | .stB d b q o => Sys2Proof.Machine.execStB d b q o s
  | .stH d b q o => Sys2Proof.Machine.execStH d b q o s
  | .stW d b q o => Sys2Proof.Machine.execStW d b q o s
  | .stD d b q o => Sys2Proof.Machine.execStD d b q o s
  | .ldfH d b q o => Sys2Proof.Machine.execLdfH d b q o s
  | .ldfW d b q o => Sys2Proof.Machine.execLdfW d b q o s
  | .ldfD d b q o => Sys2Proof.Machine.execLdfD d b q o s
  | .stfH d b q o => Sys2Proof.Machine.execStfH d b q o s
  | .stfW d b q o => Sys2Proof.Machine.execStfW d b q o s
  | .stfD d b q o => Sys2Proof.Machine.execStfD d b q o s
  | .ldp d b q o => Sys2Proof.Machine.execLdp d b q o s
  | .stp d b q o => Sys2Proof.Machine.execStp d b q o s
  | .pref h b o => Sys2Proof.Machine.execPref h b o s
  | .cfls b o => Sys2Proof.Machine.execCfls b o s
  | .cinv b o => Sys2Proof.Machine.execCinv b o s
  | .tgld d b o => Sys2Proof.Machine.execTgld d b o s
  | .tgst d b o => Sys2Proof.Machine.execTgst d b o s
  | .visit b o => Sys2Proof.Machine.execVisit b o s
  | .tkaq a => Sys2Proof.Machine.execTkaq a s
  | .tkhd a b => Sys2Proof.Machine.execTkhd a b s
  | .cflx a => Sys2Proof.Machine.execCflx a s
  | .fenceAcq sc => Sys2Proof.Machine.execFenceAcq sc s
  | .fenceRel sc => Sys2Proof.Machine.execFenceRel sc s
  | .fenceAr sc => Sys2Proof.Machine.execFenceAr sc s
  | .aadd a b z => Sys2Proof.Machine.execAadd a b z s
  | .aand a b z => Sys2Proof.Machine.execAand a b z s
  | .aor a b z => Sys2Proof.Machine.execAor a b z s
  | .axor a b z => Sys2Proof.Machine.execAxor a b z s
  | .amin a b z => Sys2Proof.Machine.execAmin a b z s
  | .amax a b z => Sys2Proof.Machine.execAmax a b z s
  | .aminn a b z => Sys2Proof.Machine.execAminn a b z s
  | .amaxn a b z => Sys2Proof.Machine.execAmaxn a b z s
  | .aswp a b z => Sys2Proof.Machine.execAswp a b z s
  | .acas a b z c => Sys2Proof.Machine.execAcas a b z c s
  | .afaddF32 a b => Sys2Proof.Machine.execAfaddF32 a b s
  | .aaddR d a b z => Sys2Proof.Machine.execAaddR d a b z s
  | .aandR d a b z => Sys2Proof.Machine.execAandR d a b z s
  | .aorR d a b z => Sys2Proof.Machine.execAorR d a b z s
  | .axorR d a b z => Sys2Proof.Machine.execAxorR d a b z s
  | .aminR d a b z => Sys2Proof.Machine.execAminR d a b z s
  | .amaxR d a b z => Sys2Proof.Machine.execAmaxR d a b z s
  | .aminnR d a b z => Sys2Proof.Machine.execAminnR d a b z s
  | .amaxnR d a b z => Sys2Proof.Machine.execAmaxnR d a b z s
  | .aswpR d a b z => Sys2Proof.Machine.execAswpR d a b z s
  | .acasR d a b z c => Sys2Proof.Machine.execAcasR d a b z c s
  | .afaddRF32 d a b => Sys2Proof.Machine.execAfaddRF32 d a b s
  | .bara a => Sys2Proof.Machine.execBara a s
  | .barw d a b => Sys2Proof.Machine.execBarw d a b s
  | .bars d a => Sys2Proof.Machine.execBars d a s
  | .acqs d a => Sys2Proof.Machine.execAcqs d a s
  | .cmts a b => Sys2Proof.Machine.execCmts a b s
  | .peks d a => Sys2Proof.Machine.execPeks d a s
  | .rels a b => Sys2Proof.Machine.execRels a b s
  | .wtfe d a b => Sys2Proof.Machine.execWtfe d a b s
  | .hnew d a => Sys2Proof.Machine.execHnew d a s
  | .hset a => Sys2Proof.Machine.execHset a s
  | .hget d => Sys2Proof.Machine.execHget d s
  | .hconf a => Sys2Proof.Machine.execHconf a s
  | .href a => Sys2Proof.Machine.execHref a s
  | .hstat d a => Sys2Proof.Machine.execHstat d a s
  | .hwait d a b => Sys2Proof.Machine.execHwait d a b s
  | .acca a b n => Sys2Proof.Machine.execAcca a b n s
  | .accr a b n => Sys2Proof.Machine.execAccr a b n s
  | .accz n => Sys2Proof.Machine.execAccz n s
  | .accn d b n => Sys2Proof.Machine.execAccn d b n s
  | .accx d b n => Sys2Proof.Machine.execAccx d b n s
  | .lnch a b => Sys2Proof.Machine.execLnch a b s
  | .lnci a b c => Sys2Proof.Machine.execLnci a b c s
  | .scfg q img rpt slot => Sys2Proof.Machine.execScfg q img rpt slot s
  | .splc q part slot ninst queue => Sys2Proof.Machine.execSplc q part slot ninst queue s
  | .splcU q part slot queue => Sys2Proof.Machine.execSplcU q part slot queue s
  | .smov q slot inst lx ly any => Sys2Proof.Machine.execSmov q slot inst lx ly any s
  | .sarm q abs ep slot inst count => Sys2Proof.Machine.execSarm q abs ep slot inst count s
  | .sbnd q ep slot inst value ety => Sys2Proof.Machine.execSbnd q ep slot inst value ety s
  | .sbndT q slot inst page port tag => Sys2Proof.Machine.execSbndT q slot inst page port tag s
  | .sseg q last slot tiles => Sys2Proof.Machine.execSseg q last slot tiles s
  | .ssyn q n queue addr value => Sys2Proof.Machine.execSsyn q n queue addr value s
  | .scpy q o => Sys2Proof.Machine.execScpy q o s
  | .sgth q o => Sys2Proof.Machine.execSgth q o s
  | .ssct q o => Sys2Proof.Machine.execSsct q o s
  | .slkp q o => Sys2Proof.Machine.execSlkp q o s
  | .supd q o => Sys2Proof.Machine.execSupd q o s
  | .smig q tgt blk => Sys2Proof.Machine.execSmig q tgt blk s
  | .stbl q tbl desc free => Sys2Proof.Machine.execStbl q tbl desc free s
  | .sdor q door slot inst blk => Sys2Proof.Machine.execSdor q door slot inst blk s
  | .swin q win slot obj ntf => Sys2Proof.Machine.execSwin q win slot obj ntf s
  | .swinU q win slot => Sys2Proof.Machine.execSwinU q win slot s
  | .sagp q pos prog pgm slot inst => Sys2Proof.Machine.execSagp q pos prog pgm slot inst s
  | .sagpU q pos prog => Sys2Proof.Machine.execSagpU q pos prog s
  | .sred q o => Sys2Proof.Machine.execSred q o s
  | .scol q o => Sys2Proof.Machine.execScol q o s
  | .sdrn q clear o => Sys2Proof.Machine.execSdrn q clear o s
  | .shdr q ep slot inst scale tslot en => Sys2Proof.Machine.execShdr q ep slot inst scale tslot en s
  | .nadd n => Sys2Proof.Machine.execNadd n s
  | .nsub n => Sys2Proof.Machine.execNsub n s
  | .nmul n => Sys2Proof.Machine.execNmul n s
  | .nfma n => Sys2Proof.Machine.execNfma n s
  | .nmin n => Sys2Proof.Machine.execNmin n s
  | .nmax n => Sys2Proof.Machine.execNmax n s
  | .nabs n => Sys2Proof.Machine.execNabs n s
  | .nneg n => Sys2Proof.Machine.execNneg n s
  | .ncmp n => Sys2Proof.Machine.execNcmp n s
  | .nsel n => Sys2Proof.Machine.execNsel n s
  | .ncvt n => Sys2Proof.Machine.execNcvt n s
  | .ndec n => Sys2Proof.Machine.execNdec n s
  | .nenc n => Sys2Proof.Machine.execNenc n s
  | .nand n => Sys2Proof.Machine.execNand n s
  | .nor n => Sys2Proof.Machine.execNor n s
  | .nxor n => Sys2Proof.Machine.execNxor n s
  | .nshl n => Sys2Proof.Machine.execNshl n s
  | .nshr n => Sys2Proof.Machine.execNshr n s
  | .nred n => Sys2Proof.Machine.execNred n s
  | .nacc n => Sys2Proof.Machine.execNacc n s
  | .ncnt n => Sys2Proof.Machine.execNcnt n s
  | .nbnd n => Sys2Proof.Machine.execNbnd n s
  | .ncon n => Sys2Proof.Machine.execNcon n s
  | .nrly n => Sys2Proof.Machine.execNrly n s
  | .nld n => Sys2Proof.Machine.execNld n s
  | .nst n => Sys2Proof.Machine.execNst n s
  | .nown n => Sys2Proof.Machine.execNown n s
  | .ndor n => Sys2Proof.Machine.execNdor n s
  | .sectionStep n => Sys2Proof.Machine.execSectionStep n s
  | .steer r => Sys2Proof.Machine.execSteer r s
  | .gate r => Sys2Proof.Machine.execGate r s
  | .fork r => Sys2Proof.Machine.execFork r s
  | .sink r => Sys2Proof.Machine.execSink r s
  | .merge r => Sys2Proof.Machine.execMerge r s
  | .carry r => Sys2Proof.Machine.execCarry r s
  | .invar r => Sys2Proof.Machine.execInvar r s
  | .cseq r => Sys2Proof.Machine.execCseq r s
  | .cpip r => Sys2Proof.Machine.execCpip r s
  | .cstr r => Sys2Proof.Machine.execCstr r s
  | .creditReturn x k => Sys2Proof.Machine.execCreditReturn x k s
  | .flitArrive x k => Sys2Proof.Machine.execFlitArrive x k s
  | .portResultReturn x page port k => Sys2Proof.Machine.execPortResultReturn x page port k s
  | .pageRowDrain x page row => Sys2Proof.Machine.execPageRowDrain x page row s
  | .storeEventApply site => Sys2Proof.Machine.execStoreEventApply site s
  | .issueWaitComplete p => Sys2Proof.Machine.execIssueWaitComplete p s
  | .divideComplete p => Sys2Proof.Machine.execDivideComplete p s
  | .tbldComplete p => Sys2Proof.Machine.execTbldComplete p s
  | .imageWriteComplete p => Sys2Proof.Machine.execImageWriteComplete p s
  | .drainComplete p => Sys2Proof.Machine.execDrainComplete p s
  | .storePerform k => Sys2Proof.Machine.execStorePerform k s
  | .feWaiterRetry p => Sys2Proof.Machine.execFeWaiterRetry p s
  | .atomicApply k => Sys2Proof.Machine.execAtomicApply k s
  | .tlbWalkLevelReturn p => Sys2Proof.Machine.execTlbWalkLevelReturn p s
  | .pageFillComplete k err => Sys2Proof.Machine.execPageFillComplete k err s
  | .watchDeliver p => Sys2Proof.Machine.execWatchDeliver p s
  | .landingRequestArrive k => Sys2Proof.Machine.execLandingRequestArrive k s
  | .landingReplyArrive k => Sys2Proof.Machine.execLandingReplyArrive k s
  | .caravanLand k => Sys2Proof.Machine.execCaravanLand k s
  | .flushAckArrive k => Sys2Proof.Machine.execFlushAckArrive k s
  | .tokenRequestArrive k => Sys2Proof.Machine.execTokenRequestArrive k s
  | .tokenRequestRetry k => Sys2Proof.Machine.execTokenRequestRetry k s
  | .tokenRecallComplete k => Sys2Proof.Machine.execTokenRecallComplete k s
  | .tokenGrantArrive k => Sys2Proof.Machine.execTokenGrantArrive k s
  | .llcEvict line => Sys2Proof.Machine.execLlcEvict line s
  | .cacheEvict k => Sys2Proof.Machine.execCacheEvict k s
  | .barrierRelease ctx b => Sys2Proof.Machine.execBarrierRelease ctx b s
  | .timedWaitTimeout p => Sys2Proof.Machine.execTimedWaitTimeout p s
  | .signalDeliver k => Sys2Proof.Machine.execSignalDeliver k s
  | .interruptEntry core => Sys2Proof.Machine.execInterruptEntry core s
  | .retirementRun => Sys2Proof.Machine.execRetirementRun s
  | .resyncPulse => Sys2Proof.Machine.execResyncPulse s
  | .hypControllerRequest ctx => Sys2Proof.Machine.execHypControllerRequest ctx s
  | .hconfMerge ctx => Sys2Proof.Machine.execHconfMerge ctx s
  | .hrefDiscard ctx => Sys2Proof.Machine.execHrefDiscard ctx s
  | .orphan p => Sys2Proof.Machine.execOrphan p s
  | .hypOutcomeArrive k => Sys2Proof.Machine.execHypOutcomeArrive k s
  | .commandAccept ctx => Sys2Proof.Machine.execCommandAccept ctx s
  | .commandComplete ctx id => Sys2Proof.Machine.execCommandComplete ctx id s
  | .instancePlace k => Sys2Proof.Machine.execInstancePlace k s
  | .instanceDisplace x => Sys2Proof.Machine.execInstanceDisplace x s
  | .instanceCompact x lx ly => Sys2Proof.Machine.execInstanceCompact x lx ly s
  | .instanceSaveComplete x => Sys2Proof.Machine.execInstanceSaveComplete x s
  | .segmentBoundary x => Sys2Proof.Machine.execSegmentBoundary x s
  | .graphEnd ctx g => Sys2Proof.Machine.execGraphEnd ctx g s
  | .sinkWaitTimeout ctx g => Sys2Proof.Machine.execSinkWaitTimeout ctx g s
  | .launchStart ctx qn => Sys2Proof.Machine.execLaunchStart ctx qn s
  | .threadLand ctx qn => Sys2Proof.Machine.execThreadLand ctx qn s
  | .launchComplete ctx k => Sys2Proof.Machine.execLaunchComplete ctx k s
  | .hangDetect x => Sys2Proof.Machine.execHangDetect x s
  | .boundaryShutter x => Sys2Proof.Machine.execBoundaryShutter x s
  | .cfgeccError x page => Sys2Proof.Machine.execCfgeccError x page s
  | .transferStart pos => Sys2Proof.Machine.execTransferStart pos s
  | .transferComplete pos k => Sys2Proof.Machine.execTransferComplete pos k s
  | .edgeProgramFlit pos prog => Sys2Proof.Machine.execEdgeProgramFlit pos prog s
  | .smigCommit k => Sys2Proof.Machine.execSmigCommit k s
  | .tableVersionFree ctx k => Sys2Proof.Machine.execTableVersionFree ctx k s
  | .doorThreadLand x door => Sys2Proof.Machine.execDoorThreadLand x door s
  | .doorResultRelease x door => Sys2Proof.Machine.execDoorResultRelease x door s
  | .routeRequestFail p k => Sys2Proof.Machine.execRouteRequestFail p k s
  | .routeLinkChange port up lanes => Sys2Proof.Machine.execRouteLinkChange port up lanes s
  | .corePowerOff site => Sys2Proof.Machine.execCorePowerOff site s
  | .coreWake site => Sys2Proof.Machine.execCoreWake site s
  | .activityBalance row act0 act1 => Sys2Proof.Machine.execActivityBalance row act0 act1 s
  | .startUp => Sys2Proof.Machine.execStartUp s
  | .mgmtFrameReceive frame => Sys2Proof.Machine.execMgmtFrameReceive frame s
  | .ownerReset req => Sys2Proof.Machine.execOwnerReset req s
  | .keytabEnrol req => Sys2Proof.Machine.execKeytabEnrol req s
  | .attestationRequest nonce => Sys2Proof.Machine.execAttestationRequest nonce s
  | .rerunCompare x tile shadow anchor => Sys2Proof.Machine.execRerunCompare x tile shadow anchor s
  | .tlbinvWrite ctx v => Sys2Proof.Machine.execTlbinvWrite ctx v s
  | .tlbInvalidationDone ctx => Sys2Proof.Machine.execTlbInvalidationDone ctx s
  | .rgnctlCountWrite ctx v => Sys2Proof.Machine.execRgnctlCountWrite ctx v s
  | .regionTableReadDone ctx => Sys2Proof.Machine.execRegionTableReadDone ctx s
  | .rlogctlPendClear ctx v => Sys2Proof.Machine.execRlogctlPendClear ctx v s
  | .fqctlRdWrite ctx fq v => Sys2Proof.Machine.execFqctlRdWrite ctx fq v s
  | .cxrsmResume ctx v => Sys2Proof.Machine.execCxrsmResume ctx v s
  | .cxrsmDiscard ctx v => Sys2Proof.Machine.execCxrsmDiscard ctx v s
  | .cxpreWrite ctx v => Sys2Proof.Machine.execCxpreWrite ctx v s
  | .cxrstGo ctx => Sys2Proof.Machine.execCxrstGo ctx s
  | .bmaskWrite ctx b bw v => Sys2Proof.Machine.execBmaskWrite ctx b bw v s
  | .presRetry site port => Sys2Proof.Machine.execPresRetry site port s
  | .presDiscard site port => Sys2Proof.Machine.execPresDiscard site port s
  | .stresRetry pos ctx => Sys2Proof.Machine.execStresRetry pos ctx s
  | .stresDiscard pos ctx => Sys2Proof.Machine.execStresDiscard pos ctx s
  | .shutctlResume ctx v => Sys2Proof.Machine.execShutctlResume ctx v s
  | .shutctlDiscard ctx v => Sys2Proof.Machine.execShutctlDiscard ctx v s
  | .shutctlReload ctx v => Sys2Proof.Machine.execShutctlReload ctx v s
  | .gctlCommit v => Sys2Proof.Machine.execGctlCommit v s
  | .groupCommitDone => Sys2Proof.Machine.execGroupCommitDone s
  | .routecfgWrite v => Sys2Proof.Machine.execRoutecfgWrite v s
  | .rtmapWrite m v => Sys2Proof.Machine.execRtmapWrite m v s
  | .rtuctlStage v => Sys2Proof.Machine.execRtuctlStage v s
  | .rtuStagingDone => Sys2Proof.Machine.execRtuStagingDone s
  | .rtuctlCommit => Sys2Proof.Machine.execRtuctlCommit s
  | .rtuctlAbort => Sys2Proof.Machine.execRtuctlAbort s
  | .rrstatClear => Sys2Proof.Machine.execRrstatClear s
  | .registerWrite off v => Sys2Proof.Machine.execRegisterWrite off v s
  | .placingComplete x => Sys2Proof.Machine.execPlacingComplete x s
  | .managementPortLinkUp rs => Sys2Proof.Machine.execManagementPortLinkUp rs s

end Sys2Proof.Machine
end

