-- ==== Sys2Proof/Machine/Turn.lean ====
section
/-!
DEFINITION. Sys2Proof/Machine/Turn.lean: what a step does: the next input when there is one, else the issue turn of the thread
or control core that acts.
-/
namespace Sys2Proof.Machine

/-- What a step comes to: an answer, or an instruction to execute in a state. -/
inductive Agenda
  | answer (r : Result)
  | run (i : Instr) (s : State)

/-- The instruction of a word: a word that is none is ILLEGAL (R36, R38). -/
def instrOf (w : BitVec 32) : Instr :=
  match decode w with
  | .ok i => i
  | .error _ => .illegal w

/-- The current thread of a halted context is saved, to be made ready when the context restarts (R208). -/
def State.saveHalted (s : State) : State :=
  let s := s.saveTh
  { s with th := { s.th with halted := true } }

/-- The issue turn of a thread in RUN: a stop for a context halt, ORPHAN, WATCH and interrupts come before the next
instruction (R169, R208, R241, R272). -/
def State.runTurn (s : State) : Agenda :=
  if s.th.onBarrel && (s.ctx s.th.ctx).halted then .answer (.next s.saveHalted)
  else if s.isOrphan then .answer (.next s.takeOrphan)
  else if s.watchDue then .answer (.next s.takeWatch)
  else
    match s.interruptDue with
    | some b => .answer (.next (s.takeInterrupt b))
    | none =>
      match s.fetchPa with
      | .error e => .answer (inTrouble s (s.th.pc.setWidth 64) e)
      | .ok pa => .run (instrOf (s.codeWord pa)) (s.fetchFill pa)

/-- The turn of the thread or control core that acts. -/
def State.ownTurn (s : State) : Agenda :=
  if !s.th.resident then .answer (.next s)
  else
    match s.th.st with
    | .run => s.runTurn
    | .wait =>
      if s.isOrphan then .answer (.next s.takeOrphan)
      else
        match s.interruptDue with
        | some b => .answer (.next (s.takeInterrupt b))
        | none => .answer (waitTurn s)
    | .load => .answer (execImageWriteComplete s.th.place s)
    | .drain => .answer (.next s)

/-- One core cycle of a site: the slot that ROT names has its issue turn, and ROT advances (R79). -/
def State.coreCycle (s : State) (n : Fin 1024) : Agenda :=
  let k := (s.site n).rot
  let s := s.setSite n { s.site n with rot := k + 1 }
  match s.focus (.slot n k.toFin) with
  | some t => t.ownTurn
  | none => .answer (.next s)

/-- The issue turn of the thread or control core at a place; a slot has its turn in the core cycle in which ROT names it (R79).
(DESIGN CHOICE, assumption 1) -/
def State.turnAt (s : State) (p : Place) : Agenda :=
  match p with
  | .slot n k => if (s.site n).rot.toFin = k then s.coreCycle n else .answer (.next s)
  | p =>
    match s.focus p with
    | some s => s.ownTurn
    | none => .answer (.next s)

/-- What happens when the surroundings choose nothing: the acting control core has its turn, or the core of the acting thread its next
cycle. (DESIGN CHOICE, assumption 1) -/
def State.nextTurn (s : State) : Agenda :=
  match s.th.place with
  | .slot n _ => s.coreCycle n
  | _ => s.ownTurn

/-! ### What the surroundings and the engines do -/

/-- A counter `ns` later; it never decreases (R243). -/
def later (t : Word) (ns : Nat) : Word := if t.toNat + ns < 2 ^ 64 then t + BitVec.ofNat 64 ns else t

/-- Counters that the reference has reached run on (R243). -/
def State.letGo (s : State) : State :=
  { s with fields := s.fields.map fun x => if x.time.toNat ≤ s.ref.toNat then { x with hold := false } else x }

/-- Time passes on a field, each drain that is over dated before it; a counter that a pulse found ahead of the reference holds its
value (R243). No counter runs more than 4 ns ahead of the reference (R16). (DESIGN CHOICE, assumption 51) -/
def State.elapse (s : State) (f : Fin 8) (ns : Nat) : State :=
  let s := s.noteDrains
  let x := s.fields[f]
  if x.hold then s
  else
    let t := later x.time ns
    { s with fields := s.fields.set f { x with time := t },
             ref := if s.ref.toNat + 4 < t.toNat then t - 4 else s.ref }.letGo

/-- The reference of the resynchronisation pulse advances (R16, R243). (DESIGN CHOICE, assumption 51) -/
def State.advanceRef (s : State) (ns : Nat) : State := { s with ref := later s.ref ns }.letGo

/-- What the home does with a request of another module that reaches it: it checks the tag, and for an FE-qualified load or an atomic
the poison mark, and performs it (R148, R163, R202). An FE-qualified load that finds its granule empty is recorded, where the home has
room, until it is served or withdrawn (R164, R165, R436); a tag store waits for the stores that were checked against the old tag
(R160). (DESIGN CHOICE, assumption 9) -/
def State.serveRoute (s : State) (pa : Nat) (tag : BitVec 4) (r : RouteReq) : State :=
  let fe : Bool := spaceOf (offsetOf pa) != .hbm
  match r with
  | .tag t => (s.settleTag pa).updMem pa fun m => m.setTag (s.cellAt pa) t
  | .read => if s.localHbm pa then s.touchLlc (offsetOf pa / 64) false else s
  | .full consume =>
    if s.tagHome pa = tag ∧ !s.poisonHome 0 0 pa ∧ fe then
      if s.fullHome pa then s.serveRemote pa tag consume
      else if s.recordedAt pa < 64 then { s with feq := s.feq ++ [(pa / 16, .route tag, consume)] }
      else s
    else s
  | .withdraw consume => s.unrecord (pa / 16) (.route tag) consume
  | .store n v fills =>
    if s.tagHome pa = tag ∧ n ≤ 16 ∧ pa % 16 + n ≤ 16 then
      let s := s.writeHome 0 0 pa n v
      if fills ∧ fe then s.makeFull pa else s
    else s
  | .atom op z b expect =>
    if s.tagHome pa = tag ∧ !s.poisonHome 0 0 pa ∧ pa % atomBytes z = 0 then
      (s.applyAtom 0 0 pa op z (b.toNat % 2 ^ (8 * atomBytes z)) (expect.toNat % 2 ^ (8 * atomBytes z))).1
    else s

/-- A request of another module to an offset of this one (R24, R436). It acts under no hypothesis and no context of this module.
(DESIGN CHOICE, assumption 9) -/
def State.routeIn (s : State) (o : Nat) (tag : BitVec 4) (r : RouteReq) : State :=
  if s.homeThere (offsetOf (s.localPa o)) then s.serveRoute (s.localPa o) tag r else s

/-- An accepted command that may start is decoded and executed; a word that is no command is refused (R67, R70, R327). -/
def State.startCommand (s : State) (c : Fin 16) (id : BitVec 32) : Agenda :=
  match (s.ctx c).accepted.find? fun k => k.id = id with
  | none => .answer (.next s)
  | some k =>
    if s.mayStart c k then
      let s := s.updCtx c fun x => { x with accepted := x.accepted.map fun (j : Command) => if j.id = id then { j with begun := true } else j }
      let s := { s with cmd := { ctx := c, id := id, stream := k.stream, hyp := k.hyp, site := k.site, slot := k.slot } }
      match decodeStream k.word with
      | .ok i => .run i s
      | .error _ => .answer (refused s)
    else .answer (.next s)

/-- A node, or a router operator, of an instance that acts takes its turn to fire (R281, R303, R338). -/
def State.startFire (s : State) (i page pe : Nat) (router : Bool) : Agenda :=
  match s.insts[i]? with
  | none => .answer (.next s)
  | some x =>
    if s.instActs x ∧ page < x.sites.length ∧ pe < 256 then
      let s := { s with pe := { inst := i, page := page, pe := pe } }
      match if router then decodeRouter (x.routeWord page pe) else decodeNode (x.nodeWord page pe) with
      | .ok ins => .run ins s
      | .error _ => .answer (.next s)
    else .answer (.next s)

/-- The next flit of a value token enters the channel of its input endpoint (R342). -/
def State.moveToken (s : State) (i ep : Nat) : State :=
  match s.insts[i]? with
  | some x => if x.acts then s.setInst i (x.flushTokens ep 1) else s
  | none => s

/-- An uncorrectable error in the staged copy of a page record: its CRC-32C no longer holds (R358). (DEDUCED, assumption 49) -/
def State.spoil (s : State) (c : Fin 16) (slot : Fin 8) (page : Nat) : State :=
  s.updCtx c fun x => { x with slots := x.slots.set slot (x.slots[slot].map fun g =>
    { g with pages := g.pages.zipIdx.map fun (e : PageRec × Nat) => if e.2 = page then { e.1 with good := false } else e.1 }) }

/-- An uncorrectable error is found in a line, or in a version of it: the four granules of that one are poisoned (R157).
(DEDUCED, assumption 49) -/
def State.poisonLine (s : State) (line : Nat) (ver : Option (Fin 16 × Handle)) : State :=
  match ver with
  | some (c, h) => { s with vers := s.vers.map fun v => if v.ctx = c ∧ v.line = line ∧ v.hyp = h then { v with poison := 15 } else v }
  | none =>
  if spaceOf (line * 64) = .device ∨ spaceOf (line * 64) = .none then s
  else { s with mem := (List.range 4).foldl (fun (m : Mem) k => m.setPoison (line * 64 + 16 * k) true) s.mem }

/-- Another module writes a byte of its own memory. (DESIGN CHOICE, assumption 9) -/
def State.peerWrite (s : State) (a : Nat) (b : Byte) : State := if s.isLocal a then s else { s with peers := s.peers.setByte a b }

/-- Wellis, on control core 0, reads a register for a management agent: one that control cores reach (R448).
(DESIGN CHOICE, assumption 46) -/
def State.agentRead (s : State) (o : Nat) : State :=
  match (if spaceOf o = .device then devReg o else none), s.focus (.control 0) with
  | some r, some t => s.answer (if devAllowed true false r then .value o (t.devRead r) else .noAccess o)
  | _, _ => s.answer (.noAccess o)

/-- Wellis writes a register for a management agent, after what the register is busy with (R448). (DESIGN CHOICE, assumption 46) -/
def State.agentWrite (s : State) (o : Nat) (v : Word) : State :=
  match (if spaceOf o = .device then devReg o else none), s.focus (.control 0) with
  | some r, some t =>
    if !devAllowed true true r then s.answer (.noAccess o)
    else if t.devBusy r then { s with inputs := s.inputs ++ [.mgmtWrite o v] }
    else ((t.devWrite r v).returnTo s.th.place).answer (.written o)
  | _, _ => s.answer (.noAccess o)

/-- Whether an entry of the opcode table is an event: it has no encoding in any of the four layers, and happens by itself. Every other
one runs only by a fetch or an accepted command or a firing of its own (R80, R281, R303, R327). -/
def isEvent (i : Instr) : Bool := (encode i).isNone && (encodeStream i).isNone && (encodeNode i).isNone && (encodeRouter i).isNone

/-- What an input comes to. (DESIGN CHOICE, assumption 1) -/
def State.take (s : State) : Input → Agenda
  | .turn p => s.turnAt p
  | .cycle n => s.coreCycle n
  | .occur i => if isEvent i then .run i s else .answer (.next s)
  | .command c id => s.startCommand c id
  | .prefetch c g => .answer (.next (s.prefetch c g))
  | .fire i page pe router => s.startFire i page pe router
  | .move pos k early => .answer (.next (s.moveXfer pos k early))
  | .spoil c slot page => .answer (.next (s.spoil c slot page))
  | .token i ep => .answer (.next (s.moveToken i ep))
  | .elapse f ns => .answer (.next (s.elapse f ns))
  | .reference ns => .answer (.next (s.advanceRef ns))
  | .tableRead p i => .answer (.next ((s.tableStep p i).returnTo s.th.place))
  | .dropTlb k => .answer (.next (match s.tlb[k]? with | some e => s.dropTlb fun x => x = e | none => s))
  | .routeIn o tag r => .answer (.next (s.routeIn o tag r))
  | .mgmtRead o => .answer (.next (s.agentRead o))
  | .mgmtWrite o v => .answer (.next (s.agentWrite o v))
  | .uncorrectable line ver => .answer (.next (s.poisonLine line ver))
  | .region core c line => .answer (.next (s.applyRegion core c line))
  | .peerWrite a b => .answer (.next (s.peerWrite a b))
  | .retransmit port => .answer (.next (s.retransmit port))

/-- What still happens after boot verification has failed: the management port answers, and the module can be powered on
again (R443, R446). (DEDUCED, assumption 10) -/
def bootAnswers : Input → Option Instr
  | .occur (.mgmtFrameReceive f) => some (.mgmtFrameReceive f)
  | .occur (.ownerReset r) => some (.ownerReset r)
  | .occur (.keytabEnrol r) => some (.keytabEnrol r)
  | .occur (.attestationRequest n) => some (.attestationRequest n)
  | .occur (.managementPortLinkUp b) => some (.managementPortLinkUp b)
  | .occur .startUp => some .startUp
  | _ => none

/-- Whether an input is a management agent's request to Wellis. -/
def isAgent : Input → Bool
  | .mgmtRead _ => true
  | .mgmtWrite _ _ => true
  | _ => false

/-- What the step comes to: the next input, or with none waiting the turn of the thread or control core that acts. Start-up goes on by
itself, and until it is over nothing else happens (R443). (DESIGN CHOICE, assumption 1) (DEDUCED, assumption 10) -/
def State.agenda (s : State) : Agenda :=
  match s.inputs with
  | [] => match s.boot with | .failed => .answer (.fault .bootFailed) | .starting _ _ => .run .startUp s | .up => s.nextTurn
  | act :: rest =>
    let s' := { s with inputs := rest }
    match s.boot with
    | .up => s'.take act
    | .starting _ _ => .run .startUp s'
    | .failed =>
      match bootAnswers act with
      | some i => .run i s'
      | none => if isAgent act then .answer (.next (s'.answer .bootFailure)) else .answer (.fault .bootFailed)

/-- The control core that fetches a placed instruction: the one that acts, or control core 0. (DESIGN CHOICE, assumption 4) -/
def State.fetcher (s : State) : Thread :=
  let t := if s.th.onControl then s.th else Thread.controlCore 0
  let a := s.superPa t.pc.toNat
  { t with st := .run, wait := .none, sup := true, watches := [], sv := { t.sv with ssts := 0 },
           pc := if s.localHbm a ∧ a % 4 = 0 ∧ a % 2 ^ 41 + 12 ≤ 0x12000000000 then t.pc else BitVec.ofNat 52 (s.localPa 0) }

/-- The state with an instruction's bits, and 64 zero bits above them, stored at the pc of a control core in supervisor mode
whose turn comes next. (DESIGN CHOICE, assumption 4) -/
def State.placeWord (s : State) (nbits w : Nat) : State :=
  let t := s.fetcher
  let rest := if s.th.onControl then s.rest else s.th :: s.rest.filter fun u => u.place ≠ t.place
  let o := offsetOf t.pc.toNat
  { s with th := t, rest := rest, inputs := [], boot := .up,
           mem := s.mem.write o (nbits / 8 + 8) (w % 2 ^ nbits),
           cache := s.cache.filter fun x => !(x.line == o / 64 || x.line == o / 64 + 1) }

end Sys2Proof.Machine
end

