-- ==== Sys2Proof/Machine/Step.lean ====
section
/-!
DEFINITION. Sys2Proof/Machine/Step.lean: one step of the module, and the placing of an instruction where it is fetched next.
-/
namespace Sys2Proof.Machine

/-- One step (R12, R79): the agenda's answer, or the meaning of its instruction. (DESIGN CHOICE, assumption 1) -/
def step (s : State) : Host.Outcome State Fault Refusal :=
  match s.agenda with
  | .answer r => r
  | .run i s' => exec i s'

/-- The state with an instruction's bits stored where the next step fetches. (DESIGN CHOICE, assumption 4) -/
def State.withFetchWord (s : State) (nbits w : Nat) : State := s.placeWord nbits w

end Sys2Proof.Machine
end

