-- ==== Sys2Proof/Safety.lean ====
section
/-!
DEFINITION. Sys2Proof/Safety.lean: what counts as a safe step, in the terms that statements use: an answer that is a next
state, the canonical form of a memory, and the states that the plainest instructions leave, written out field by field.
-/
namespace Sys2Proof.Machine

/-- Whether a result is a next state. -/
def Completes (r : Result) : Prop := ∃ s : State, r = .next s

/-- A memory in canonical form: keys strictly rise, and no entry holds what an unlisted address reads as. -/
abbrev Mem.wf (m : Mem) : Prop :=
  (m.bytes.Pairwise fun a b => a.1 < b.1) ∧ (∀ e ∈ m.bytes, e.2 ≠ 0) ∧
  (m.tags.Pairwise fun a b => a.1 < b.1) ∧ (∀ e ∈ m.tags, e.2 ≠ 0) ∧
  (m.full.Pairwise fun a b => a.1 < b.1) ∧ (∀ e ∈ m.full, e.2 = true) ∧
  (m.poison.Pairwise fun a b => a.1 < b.1) ∧ (∀ e ∈ m.poison, e.2 = true)

/-- The state in which the current thread's g[d] holds `v`, unless d is 0, its pc is `pc`, and every other part of the module
is as before (R36, R97). -/
def State.wrote (s : State) (d : Reg) (v : Word) (pc : Addr) : State :=
  { s with th := { s.th with g := if d = 0 then s.th.g else s.th.g.set d v, pc := pc, pass := false, mid := false } }

/-- The state after an instruction that writes g[d] and nothing else. -/
def State.afterG (s : State) (d : Reg) (v : Word) : State := s.wrote d v (s.th.pc + 4)

/-- The state in which the current thread goes on at `pc` and every other part of the module is as before. -/
def State.jumped (s : State) (pc : Addr) : State := { s with th := { s.th with pc := pc, pass := false, mid := false } }

/-- The state after an instruction that writes f[d] and raises no flag: nothing else changes but the pc. -/
def State.afterF (s : State) (d : Reg) (v : Word) : State :=
  { s with th := { s.th with f := s.th.f.set d v, pc := s.th.pc + 4, pass := false, mid := false } }

/-- The state after an instruction that leaves the current thread's registers as `t` has them and changes no other part of the
module: the pc moves to the next instruction. -/
def State.afterTh (s : State) (t : Thread) : State := { s with th := { t with pc := s.th.pc + 4, pass := false, mid := false } }

/-- `t` is `s` after a floating-point instruction that raised `fl` and forfeits `turns` issue turns: the flags stick in TFLAGS
and, on a barrel core, in its cluster's CFLAGS, the pc moves to the next instruction, and beside what it says the module is as
before (R81, R127, R130, R143). -/
structure FloatStep (s t : State) (fl : BitVec 5) (turns : Nat) : Prop where
  module : t = { s with th := t.th, regs := t.regs }
  thread : t.th = { s.th with
    g := t.th.g, f := t.th.f, tflags := s.th.tflags ||| fl.setWidth 64, pc := s.th.pc + 4, pass := false, mid := false,
    st := t.th.st, wait := t.th.wait }
  union : ∀ o, t.reg o = if s.th.onBarrel = true ∧ o = cflagsAt (siteCluster s.th.site) then s.reg o ||| fl.setWidth 64 else s.reg o
  slot : if turns ≠ 0 ∧ s.th.onBarrel = true then t.th.st = .wait ∧ t.th.wait = .turns turns
         else t.th.st = s.th.st ∧ t.th.wait = s.th.wait

/-- An instruction completes as a floating-point instruction that writes `v` to f[d]. -/
def WritesF (i : Instr) (s : State) (d : Reg) (v : Nat) (fl : BitVec 5) (turns : Nat) : Prop :=
  ∃ t, exec i s = .next t ∧ FloatStep s t fl turns ∧ t.th.g = s.th.g ∧ t.th.f = s.th.f.set d (BitVec.ofNat 64 v)

/-- An instruction completes as a floating-point instruction that writes `v` to g[d]. -/
def WritesG (i : Instr) (s : State) (d : Reg) (v : Word) (fl : BitVec 5) (turns : Nat) : Prop :=
  ∃ t, exec i s = .next t ∧ FloatStep s t fl turns ∧ t.th.f = s.th.f ∧ t.th.g = if d = 0 then s.th.g else s.th.g.set d v

end Sys2Proof.Machine
end

