-- ==== Sys2Proof/Certificates/Slice0/Obligations.lean ====
section
/-!
DEFINITION. Sys2Proof/Certificates/Slice0/Obligations.lean: the statements for the provers.
-/
open Sys2Proof Sys2Proof.Machine

/-- In each of the three layers, the decoder reads from the encoded word of a well-formed instruction exactly that
instruction, whatever its operands: no bit of an encoding is dropped. (02_encodings.md, R35, R40, R46, R49, R53, R55, R56,
R57, R67, R69) -/
def Obligations.EncodeThenDecode : Prop :=
  ∀ (i : Instr), WellFormed i = true →
    (∀ w, encode i = some w → decode w = .ok i) ∧ (∀ w, encodeNode i = some w → decodeNode w = .ok i) ∧
      (∀ w, encodeRouter i = some w → decodeRouter w = .ok i) ∧ (∀ w, encodeStream i = some w → decodeStream w = .ok i)

/-- For every 64-bit word that the node decoder or the router decoder accepts, the word is the encoded word of the node or
operator read, so that two words never stand for one; and so for every 32-bit word of major INT that the decoder accepts.
(R53, R55, R56, R57, R35, R40) -/
def Obligations.DecodeThenEncode : Prop :=
  (∀ (w : BitVec 64) (i : Instr), decodeNode w = .ok i → encodeNode i = some w) ∧
  (∀ (w : BitVec 64) (i : Instr), decodeRouter w = .ok i → encodeRouter i = some w) ∧
  (∀ (w : BitVec 32) (i : Instr), decodeInt w = .ok i → fMajor w = 0x01 → encode i = some w)

/-- The decoder refuses a word for its major opcode exactly where the map of major opcodes shows a reserved one, 0x7F among
them; what such a word, or a word of major 0x00, stands for in a step is the instruction ILLEGAL, whose execution takes the
trap of cause ILLEGAL with the word in the record. (R38) -/
def Obligations.ReservedMajorsAreIllegal : Prop :=
  ∀ (w : BitVec 32) (s : State),
    (decode w = .error .reservedMajor ↔
      (fMajor w).toNat ∈ [0x0E, 0x0F, 0x1C, 0x1D, 0x1E, 0x1F, 0x25, 0x26, 0x27, 0x28, 0x29, 0x2A, 0x2B, 0x2C, 0x2D, 0x2E, 0x2F,
        0x37, 0x3F, 0x4B, 0x4C, 0x4D, 0x4E, 0x4F] ∨ 0x58 ≤ (fMajor w).toNat) ∧
    (decode w = .error .reservedMajor ∨ (fMajor w).toNat = 0 →
      instrOf w = .illegal w ∧ exec (instrOf w) s = .next (s.deliver (s.th.record 0x01 w 0 0 0 0)))

/-- Words given in the spec's text or put together from its tables decode to the instruction they stand for, one or more for
each of the four layers (thread words, node words, router words and stream commands), and a thread word with a nonzero
unused field is refused. (R35, R36, R38, R40, R45, R46, R49, R55, R57, R69, R106, R254) -/
def Obligations.WordsOfTheSpec : Prop :=
  decode 0x02000000 = .ok (.add 0 0 0) ∧ decode 0x36000020 = .ok .yield ∧ decode 0x36000040 = .ok .halt ∧
  decode 0x36018140 = .ok (.coff 3) ∧ decode 0x00000000 = .ok (.illegal 0) ∧ decode 0x02000001 = .error .unusedField ∧
  decodeNode 0x0180250004200000 = .ok (.nadd { ety := 8, fn := 0, ina := 2, inb := 5, inc := 0, omask := 0x0042, param := 0 }) ∧
  decodeNode 0x2370000000200000 = .ok (.ndor { ety := 7, fn := 0, ina := 0, inb := 0, inc := 0, omask := 0x0002, param := 0 }) ∧
  decodeRouter 0x000842010008000C = .ok (.merge { swmask := 0x0008, ctl := 2, ia := 0, ib := 1, oa := 8, ob := 12 }) ∧
  decodeStream 0x06810000000000000000000000000905 = .ok (.sseg { b := true, s := false } true 5 9) ∧
  decodeStream 0x10c0ff0000000000201a000000000040 = .ok (.scpy { b := true, s := true } { tgt := 0xFF, desc := 0x40, slot := 2, inst := 3, bnd := true })

/-- Where no input waits, the module is up, and the control core that acts, or the thread whose slot its core's ROT names,
stands in RUN with no halt, orphaning, watchpoint hit or interrupt due, the step is the execution of the instruction that
the word at the physical address of its pc decodes to, in the state in which ROT has advanced by one modulo 16 for a barrel
core and the core holds a copy of that line; a word that decodes to nothing executes as ILLEGAL with that word; a fetch that
does not go on takes its own trap, page fault or wait; and the instructions themselves move the pc. That the acting core
goes on where no input waits, and that the fetch leaves a copy of the line, are the model's choices (assumptions 1 and 14).
(R12, R79, R97, R36, R38, R208, R241, R272) -/
def Obligations.StepRunsTheDecodedInstruction : Prop :=
  ∀ (s u : State), s.inputs = [] → s.boot = .up →
    (s.th.onControl = true ∧ u = s ∨ ∃ (n : Fin 1024) (k : Fin 16), s.th.place = .slot n k ∧ (s.site n).rot.toNat = k.val ∧
      u = s.setSite n { s.site n with rot := (s.site n).rot + 1 }) →
    u.th.st = .run → (u.th.onBarrel && (u.ctx u.th.ctx).halted) = false → u.isOrphan = false → u.watchDue = false →
    u.interruptDue = none →
    (∀ pa i, u.fetchPa = .ok pa → decode (u.codeWord pa) = .ok i → step s = exec i (u.fetchFill pa)) ∧
    (∀ pa e, u.fetchPa = .ok pa → decode (u.codeWord pa) = .error e → step s = exec (.illegal (u.codeWord pa)) (u.fetchFill pa)) ∧
    (∀ e, u.fetchPa = .error e → step s = inTrouble u (u.th.pc.setWidth 64) e)

/-- With the module up, a step whose next input names an event executes that event's meaning in the state with the input
taken off the tape, and one that names an instruction which is no event does nothing; one that names a control core gives it
its turn, one that names a core cycle gives the slot that ROT names its turn and advances ROT, and one that names a slot
which ROT does not name does nothing; the passing of time adds to its field's counter, unless a pulse left it holding, and
to no other counter; a management agent's read of a register that control cores may read answers its value, DEVID its word,
its write of one that they may write writes it, after what the register is busy with, and any other offset answers that
there is no such access. While start-up is under way every step is the next unit of start-up. While boot verification has
failed, a step with no input waiting, or whose next input is not one that the management port or a new power-up answers, is
the fault bootFailed; a management agent's request answers the boot failure, and the management port's events and a new
power-up still run. The tape of inputs, the counter that holds, the answers' form and what still runs after a failed boot
are the model's choices (assumptions 1, 2, 10, 46 and 51). (R12, R79, R243, R443, R446, R448) -/
def Obligations.InputsComeFirst : Prop :=
  ∀ (s : State) (rest : List Input),
    let s' : State := { s with inputs := rest }
    let turn (a : Agenda) : Result := match a with | .answer r => r | .run i u => exec i u
    (s.boot = .up →
      (∀ i, s.inputs = .occur i :: rest → (isEvent i = true → step s = exec i s') ∧ (isEvent i = false → step s = .next s')) ∧
      (∀ (f : Fin 8) ns, s.inputs = .elapse f ns :: rest → ∃ t : State, step s = .next t ∧
        t = { s' with ctxs := t.ctxs, fields := t.fields, ref := t.ref } ∧
        (s.fields[f].hold = false → s.fields[f].time.toNat + ns < 2 ^ 64 → t.fields[f].time = s.fields[f].time + BitVec.ofNat 64 ns) ∧
        (s.fields[f].hold = true → t.fields[f].time = s.fields[f].time) ∧
        ∀ g : Fin 8, g ≠ f → t.fields[g].time = s.fields[g].time) ∧
      (∀ k t, s.inputs = .turn (.control k) :: rest → s'.focus (.control k) = some t → step s = turn t.ownTurn) ∧
      (∀ n t, s.inputs = .cycle n :: rest →
        State.focus (s'.setSite n { s.site n with rot := (s.site n).rot + 1 }) (.slot n (s.site n).rot.toFin) = some t →
        step s = turn t.ownTurn) ∧
      (∀ n k, s.inputs = .turn (.slot n k) :: rest → (s.site n).rot.toFin ≠ k → step s = .next s') ∧
      (∀ o t, s'.focus (.control 0) = some t → s.inputs = .mgmtRead o :: rest →
        (o = 0x1FF00000000 → step s = .next (s'.answer (.value o devidValue))) ∧
        (∀ r, spaceOf o = .device → devReg o = some r →
          step s = .next (s'.answer (if devAllowed true false r then .value o (t.devRead r) else .noAccess o))) ∧
        (spaceOf o ≠ .device ∨ devReg o = none → step s = .next (s'.answer (.noAccess o)))) ∧
      (∀ o v t r, s'.focus (.control 0) = some t → s.inputs = .mgmtWrite o v :: rest → spaceOf o = .device → devReg o = some r →
        (devAllowed true true r = false → step s = .next (s'.answer (.noAccess o))) ∧
        (devAllowed true true r = true → t.devBusy r = true →
          step s = .next { s' with inputs := rest ++ [.mgmtWrite o v] }) ∧
        (devAllowed true true r = true → t.devBusy r = false →
          step s = .next (((t.devWrite r v).returnTo s.th.place).answer (.written o))))) ∧
    (∀ st un, s.boot = .starting st un →
      (s.inputs = [] → step s = exec .startUp s) ∧ ∀ a, s.inputs = a :: rest → step s = exec .startUp s') ∧
    (s.boot = .failed →
      (s.inputs = [] → step s = .fault .bootFailed) ∧
      (∀ a, s.inputs = a :: rest → bootAnswers a = none → isAgent a = false → step s = .fault .bootFailed) ∧
      (∀ a i, s.inputs = a :: rest → bootAnswers a = some i → step s = exec i s') ∧
      (∀ o v, s.inputs = .mgmtRead o :: rest ∨ s.inputs = .mgmtWrite o v :: rest → step s = .next (s'.answer .bootFailure)) ∧
      (bootAnswers (.occur .startUp) = some .startUp) ∧ ∀ p, bootAnswers (.turn p) = none)

/-- Each writes g[d] with the sum, the difference, or the bitwise result of g[a] and g[b] as they were before, modulo 2^64
(nothing where d is 0), moves the pc to the next instruction, and leaves every other part of the module as it was; it traps
on no operands. (R87, R84, R36, R97) -/
def Obligations.AddAndLogic : Prop :=
  ∀ (d a b : Reg) (s : State),
    exec (.add d a b) s = .next (s.afterG d (BitVec.ofNat 64 ((s.gr a).toNat + (s.gr b).toNat))) ∧
    exec (.sub d a b) s = .next (s.afterG d (BitVec.ofInt 64 ((s.gr a).toInt - (s.gr b).toInt))) ∧
    exec (.and d a b) s = .next (s.afterG d (s.gr a &&& s.gr b)) ∧
    exec (.or d a b) s = .next (s.afterG d (s.gr a ||| s.gr b)) ∧
    exec (.xor d a b) s = .next (s.afterG d (s.gr a ^^^ s.gr b))

/-- With a count n, the low 6 bits of g[b] or the immediate, SHL writes A × 2^n, SHR the unsigned and SRA the signed
quotient of A by 2^n rounded toward minus infinity, ROL and ROR the rotation; a count of 0 yields A unchanged; nothing but
g[d] and the pc changes. (R88, R93, R41, R36) -/
def Obligations.Shifts : Prop :=
  ∀ (d a b : Reg) (i : BitVec 6) (s : State) (n : Nat),
    (n = (s.gr b).toNat % 64 →
      exec (.shl d a b) s = .next (s.afterG d (BitVec.ofNat 64 ((s.gr a).toNat * 2 ^ n))) ∧
      exec (.shr d a b) s = .next (s.afterG d (BitVec.ofNat 64 ((s.gr a).toNat / 2 ^ n))) ∧
      exec (.sra d a b) s = .next (s.afterG d (BitVec.ofInt 64 ((s.gr a).toInt / 2 ^ n))) ∧
      exec (.rol d a b) s = .next (s.afterG d (BitVec.ofNat 64 ((s.gr a).toNat * 2 ^ n) |||
        BitVec.ofNat 64 ((s.gr a).toNat / 2 ^ (64 - n)))) ∧
      exec (.ror d a b) s = .next (s.afterG d (BitVec.ofNat 64 ((s.gr a).toNat / 2 ^ n) |||
        BitVec.ofNat 64 ((s.gr a).toNat * 2 ^ (64 - n))))) ∧
    (n = i.toNat →
      exec (.shli d a i) s = .next (s.afterG d (BitVec.ofNat 64 ((s.gr a).toNat * 2 ^ n))) ∧
      exec (.shri d a i) s = .next (s.afterG d (BitVec.ofNat 64 ((s.gr a).toNat / 2 ^ n))) ∧
      exec (.srai d a i) s = .next (s.afterG d (BitVec.ofInt 64 ((s.gr a).toInt / 2 ^ n))))

/-- The minimum, the maximum and the comparisons read their sources as two's complement or unsigned values as their rule
says, a comparison writes 0 or 1 in the full 64 bits, and SEL writes A where C is not 0, else B; nothing but g[d] and the pc
changes. (R89, R36) -/
def Obligations.CompareAndSelect : Prop :=
  ∀ (d a b c : Reg) (s : State),
    exec (.min d a b) s = .next (s.afterG d (BitVec.ofInt 64 (min (s.gr a).toInt (s.gr b).toInt))) ∧
    exec (.max d a b) s = .next (s.afterG d (BitVec.ofInt 64 (max (s.gr a).toInt (s.gr b).toInt))) ∧
    exec (.minn d a b) s = .next (s.afterG d (BitVec.ofNat 64 (min (s.gr a).toNat (s.gr b).toNat))) ∧
    exec (.maxn d a b) s = .next (s.afterG d (BitVec.ofNat 64 (max (s.gr a).toNat (s.gr b).toNat))) ∧
    exec (.slt d a b) s = .next (s.afterG d (if (s.gr a).toInt < (s.gr b).toInt then 1 else 0)) ∧
    exec (.sltn d a b) s = .next (s.afterG d (if (s.gr a).toNat < (s.gr b).toNat then 1 else 0)) ∧
    exec (.seq d a b) s = .next (s.afterG d (if s.gr a = s.gr b then 1 else 0)) ∧
    exec (.sel d a b c) s = .next (s.afterG d (if s.gr c = 0 then s.gr b else s.gr a))

/-- MUL writes the low 64 bits of the product, MULH and MULHN the high 64 bits of the signed and the unsigned product; CLZ
and CTZ write the number k of zero bits above the highest or below the lowest one bit, and 64 where A is 0; POP writes the
number of one bits; nothing but g[d] and the pc changes. (R90, R36) -/
def Obligations.MultiplyAndCount : Prop :=
  ∀ (d a b : Reg) (s : State) (k : Nat),
    exec (.mul d a b) s = .next (s.afterG d (BitVec.ofInt 64 ((s.gr a).toInt * (s.gr b).toInt))) ∧
    exec (.mulh d a b) s = .next (s.afterG d (BitVec.ofInt 64 ((s.gr a).toInt * (s.gr b).toInt / 2 ^ 64))) ∧
    exec (.mulhn d a b) s = .next (s.afterG d (BitVec.ofNat 64 ((s.gr a).toNat * (s.gr b).toNat / 2 ^ 64))) ∧
    ((k = 64 ∧ s.gr a = 0 ∨ k < 64 ∧ (s.gr a).getLsbD (63 - k) = true ∧ ∀ j, 63 - k < j → (s.gr a).getLsbD j = false) →
      exec (.clz d a) s = .next (s.afterG d (BitVec.ofNat 64 k))) ∧
    ((k = 64 ∧ s.gr a = 0 ∨ k < 64 ∧ (s.gr a).getLsbD k = true ∧ ∀ j, j < k → (s.gr a).getLsbD j = false) →
      exec (.ctz d a) s = .next (s.afterG d (BitVec.ofNat 64 k))) ∧
    (k = ((List.range 64).filter fun j => (s.gr a).getLsbD j).length →
      exec (.pop d a) s = .next (s.afterG d (BitVec.ofNat 64 k)))

/-- A division by zero takes the DIVZ trap in the issue turn with the state as before; any other division gives the quotient
or remainder that truncates toward zero: a control core writes it at once, a thread of a barrel core waits with it for the
three turns it forfeits. Each turn of a waiting thread counts them down, and the last one, or DIVIDE_COMPLETE, writes g[d],
moves the pc and returns the thread to RUN; turns forfeited otherwise are counted down alike, and nothing else changes.
Choices of the model: that a control core divides at once (assumption 13), that the event DIVIDE_COMPLETE may come at any
count left and that turns alone are counted (assumptions 1 and 51). (R91, R86, R81, R36) -/
def Obligations.Division : Prop :=
  ∀ (d a b : Reg) (s : State),
    let results : List (Instr × Word) :=
      [(.div d a b, BitVec.ofInt 64 ((s.gr a).toInt.tdiv (s.gr b).toInt)), (.divn d a b, BitVec.ofNat 64 ((s.gr a).toNat / (s.gr b).toNat)),
       (.rem d a b, BitVec.ofInt 64 ((s.gr a).toInt.tmod (s.gr b).toInt)), (.remn d a b, BitVec.ofNat 64 ((s.gr a).toNat % (s.gr b).toNat))]
    (∀ e ∈ results,
      (s.gr b = 0 → exec e.1 s = .next (s.deliver (s.recordOf 0x04 0 0 0 0))) ∧
      (s.gr b ≠ 0 → s.th.onBarrel = false → exec e.1 s = .next (s.afterG d e.2)) ∧
      (s.gr b ≠ 0 → s.th.onBarrel = true →
        exec e.1 s = .next { s with th := { s.th with st := .wait, wait := .divide 3 d e.2, mid := true } })) ∧
    (∀ (n : Nat) (v : Word) (p : Place), s.th.st = .wait →
      (s.th.wait = .divide (n + 2) d v →
        waitTurn s = .next { s with th := { s.th with wait := .divide (n + 1) d v, mid := true } }) ∧
      (s.th.wait = .divide 1 d v →
        waitTurn s = .next { s.afterG d v with th := { (s.afterG d v).th with st := .run, wait := .none } }) ∧
      (s.th.wait = .divide n d v → s.th.place = p →
        exec (.divideComplete p) s = .next { s.afterG d v with th := { (s.afterG d v).th with st := .run, wait := .none } }) ∧
      (s.th.wait = .turns (n + 2) → waitTurn s = .next { s with th := { s.th with wait := .turns (n + 1) } }) ∧
      (s.th.wait = .turns 1 → waitTurn s = .next { s with th := { s.th with st := .run, wait := .none } }))

/-- ADDI adds the sign-extended and ANDI, ORI and XORI combine the zero-extended 15-bit immediate; LUI writes imm × 2^12 as
a signed 32-bit value, LUIH puts imm above the low 32 bits of g[d] and clears bits 63:52, ADPC writes the pc of the
instruction plus imm × 4 modulo 2^52; nothing but g[d] and the pc changes. (R92, R95, R36) -/
def Obligations.Immediates : Prop :=
  ∀ (d a : Reg) (i : BitVec 15) (u : BitVec 20) (s : State),
    exec (.addi d a i) s = .next (s.afterG d (BitVec.ofInt 64 ((s.gr a).toInt + i.toInt))) ∧
    exec (.andi d a i) s = .next (s.afterG d (s.gr a &&& BitVec.ofNat 64 i.toNat)) ∧
    exec (.ori d a i) s = .next (s.afterG d (s.gr a ||| BitVec.ofNat 64 i.toNat)) ∧
    exec (.xori d a i) s = .next (s.afterG d (s.gr a ^^^ BitVec.ofNat 64 i.toNat)) ∧
    exec (.lui d u) s = .next (s.afterG d (BitVec.ofInt 64 (u.toInt * 2 ^ 12))) ∧
    exec (.luih d u) s = .next (s.afterG d (BitVec.ofNat 64 (u.toNat * 2 ^ 32 + (s.gr d).toNat % 2 ^ 32))) ∧
    exec (.adpc d u) s = .next (s.afterG d (BitVec.ofNat 64 (((s.th.pc.toNat : Int) + u.toInt * 4) % 2 ^ 52).toNat))

/-- For a field of w + 1 bits at position p that fits in 64 bits, BFX writes the field of g[a] zero-extended, BFX.S
sign-extended, and BFI puts the low bits of g[a] into the field of g[d] with every other bit of it unchanged; nothing but
g[d] and the pc changes. (R94, R41, R36) -/
def Obligations.BitFields : Prop :=
  ∀ (d a : Reg) (w p : BitVec 6) (s : State), w.toNat + 1 + p.toNat ≤ 64 →
    exec (.bfx d a w p) s = .next (s.afterG d (BitVec.ofNat 64 ((s.gr a).toNat / 2 ^ p.toNat % 2 ^ (w.toNat + 1)))) ∧
    exec (.bfxS d a w p) s =
      .next (s.afterG d (BitVec.ofInt 64 (BitVec.ofNat (w.toNat + 1) ((s.gr a).toNat / 2 ^ p.toNat)).toInt)) ∧
    (∀ v : Word, (∀ j, j < 64 → v.getLsbD j = if p.toNat ≤ j ∧ j ≤ p.toNat + w.toNat then (s.gr a).getLsbD (j - p.toNat)
        else (s.gr d).getLsbD j) →
      exec (.bfi d a w p) s = .next (s.afterG d v))

/-- LEA adds g[b] × 2^s to bits 51:0 modulo 2^52 and keeps bits 63:52; PTAG, PRGT and PADR replace the tag, the rights or
the address by the low bits of g[b] and keep every other bit; nothing but g[d] and the pc changes. (R96, R36) -/
def Obligations.PointerParts : Prop :=
  ∀ (d a b : Reg) (k : Fin 5) (s : State),
    exec (.lea d a b k) s = .next (s.afterG d (BitVec.ofNat 64 ((s.gr a).toNat / 2 ^ 52 * 2 ^ 52 +
      ((s.gr a).toNat % 2 ^ 52 + (s.gr b).toNat * 2 ^ k.val) % 2 ^ 52))) ∧
    exec (.ptag d a b) s = .next (s.afterG d (BitVec.ofNat 64 ((s.gr b).toNat % 16 * 2 ^ 60 + (s.gr a).toNat % 2 ^ 60))) ∧
    exec (.prgt d a b) s = .next (s.afterG d (BitVec.ofNat 64 ((s.gr a).toNat / 2 ^ 60 * 2 ^ 60 +
      (s.gr b).toNat % 4 * 2 ^ 58 + (s.gr a).toNat % 2 ^ 58))) ∧
    exec (.padr d a b) s = .next (s.afterG d (BitVec.ofNat 64 ((s.gr a).toNat / 2 ^ 52 * 2 ^ 52 + (s.gr b).toNat % 2 ^ 52)))

/-- A branch whose condition holds, and J and JAL, go to the pc of the instruction plus the offset × 4 modulo 2^52; a branch
whose condition fails goes on at the next instruction; JAL first writes g1 with the zero-extended address of the next
instruction; nothing else changes. (R99, R100, R97) -/
def Obligations.Branches : Prop :=
  ∀ (a b : Reg) (o : BitVec 15) (j : BitVec 25) (s : State),
    let goes (c : Prop) (i : Instr) : Prop :=
      (c → exec i s = .next (s.jumped (BitVec.ofInt 52 ((s.th.pc.toNat : Int) + o.toInt * 4)))) ∧
        (¬ c → exec i s = .next (s.jumped (s.th.pc + 4)))
    goes (s.gr a = s.gr b) (.beq a b o) ∧ goes (s.gr a ≠ s.gr b) (.bne a b o) ∧
    goes ((s.gr a).toInt < (s.gr b).toInt) (.blt a b o) ∧ goes ((s.gr b).toInt ≤ (s.gr a).toInt) (.bge a b o) ∧
    goes ((s.gr a).toNat < (s.gr b).toNat) (.bltn a b o) ∧ goes ((s.gr b).toNat ≤ (s.gr a).toNat) (.bgen a b o) ∧
    exec (.j j) s = .next (s.jumped (BitVec.ofInt 52 ((s.th.pc.toNat : Int) + j.toInt * 4))) ∧
    exec (.jal j) s = .next (s.wrote 1 (BitVec.ofNat 64 ((s.th.pc.toNat + 4) % 2 ^ 52))
      (BitVec.ofInt 52 ((s.th.pc.toNat : Int) + j.toInt * 4)))

/-- With t the low 52 bits of g[a] plus the sign-extended immediate, JALR raises ALIGN where t is not a multiple of 4, with
t in the record's address field and the state as before; else it writes g[d] with the address of the next instruction,
nothing where d is 0, and goes on at t, which was computed before g[d] was written; every other part of the module is as
before. (R101) -/
def Obligations.JumpThroughRegister : Prop :=
  ∀ (d a : Reg) (i : BitVec 15) (s : State) (t : Addr), t = BitVec.ofInt 52 ((s.gr a).toInt + i.toInt) →
    (t.toNat % 4 = 0 → exec (.jalr d a i) s = .next (s.wrote d (BitVec.ofNat 64 ((s.th.pc.toNat + 4) % 2 ^ 52)) t)) ∧
    (t.toNat % 4 ≠ 0 → exec (.jalr d a i) s = .next (s.deliver (s.recordOf 0x05 (t.setWidth 64) 0 0 0)))

/-- LOOP decrements g[a] modulo 2^64 and branches where the result is not 0; a word of major 0x19 whose a field is 0 or
whose b field is not is refused, and executes as ILLEGAL; nothing but g[a] and the pc changes. (R102) -/
def Obligations.LoopCountsDown : Prop :=
  (∀ (a : Reg) (o : BitVec 15) (s : State) (n : Word), a ≠ 0 →
    n = BitVec.ofInt 64 ((s.gr a).toInt - 1) →
    (n ≠ 0 → exec (.loop a o) s = .next (s.wrote a n (BitVec.ofInt 52 ((s.th.pc.toNat : Int) + o.toInt * 4)))) ∧
    (n = 0 → exec (.loop a o) s = .next (s.wrote a n (s.th.pc + 4)))) ∧
  (∀ w : BitVec 32, fMajor w = 0x19 → (fD w = 0 ∨ fA w ≠ 0) → instrOf w = .illegal w)

/-- A trap of a control core, taken for any record, puts the pc into SEPC, the cause into SCAUSE and the record's ADDR into
SFADDR, stacks the mode and the interrupt enable, enters supervisor mode at SVEC and leaves every general and floating-point
register as it was; the eight words at SFREC are the record's, each field in its place, with the stamp of the core as TIME,
the context's count as SEQ and V set, no other byte of memory changes, and the record is counted unless the core was in
supervisor mode. An ILLEGAL word, a TRAP of any code below 0x800, a service code 0x800 to 0xFFE and, in user mode, a TRET
(as the code 0xFFF) and an ERET take it, each with its own record, the pc being the next instruction for the codes. That a
service code and a TRET are plain traps there, and the SEQ and CTX of a record that is not counted, are the model's readings
(assumptions 19 and 54). (R241, R229, R223, R230, R231) -/
def Obligations.ControlTrapEntry : Prop :=
  ∀ (s : State) (k : Fin 16), s.mem.wf → s.th.place = .control k → s.th.sv.sfrec.toNat % 64 = 0 →
    s.th.sv.sfrec.toNat < 0x12000000000 →
    let entered (t : State) (pc : Addr) (r : Record) : Prop :=
      t.th = { s.th with
        pc := s.th.sv.svec.setWidth 52, sup := true, pass := false, mid := false, st := .run, wait := .none,
        sv := { s.th.sv with
          sepc := pc, scause := BitVec.ofNat 64 r.cause.toNat, sfaddr := r.addr,
          ssts := BitVec.ofNat 64 (s.th.sv.ssts.toNat % 2 * 4 + s.th.sup.toNat * 2) } } ∧
      t.readWords (t.localPa s.th.sv.sfrec.toNat) 8 =
        [r.addr, BitVec.ofNat 64 (r.tid.toNat * 2 ^ 32 + r.insn.toNat),
         BitVec.ofNat 64 (r.cause.toNat * 2 ^ 56 + r.src.toNat * 2 ^ 52 + r.ctx.val * 2 ^ 48 + r.expt.toNat * 2 ^ 44 +
           r.fndt.toNat * 2 ^ 40 + r.hyp.toNat * 2 ^ 32 + r.site.toNat * 2 ^ 16 + r.unit.toNat * 2 ^ 8 + r.lane.toNat),
         r.elem, s.stamp s.th.key, r.pc, r.detail, BitVec.ofNat 64 ((s.ctx r.ctx).seq.toNat * 2 ^ 32 + 1)] ∧
      (∀ a, a < s.th.sv.sfrec.toNat ∨ s.th.sv.sfrec.toNat + 64 ≤ a → t.mem.byte a = s.mem.byte a) ∧
      (t.ctx r.ctx).seq = (if s.th.sup then (s.ctx r.ctx).seq else (s.ctx r.ctx).seq + 1)
    let record (cause : BitVec 8) (insn : BitVec 32) (detail : Nat) : Record :=
      { addr := 0, tid := 0, insn := insn, cause := cause, src := 1, ctx := s.th.sv.sctx, expt := 0, fndt := 0,
        hyp := BitVec.ofNat 8 (s.th.thyp.toNat % 256), site := 0, unit := BitVec.ofNat 8 k.val, lane := BitVec.ofNat 8 k.val, elem := 0,
        time := 0, pc := s.th.pc.setWidth 64, detail := BitVec.ofNat 64 detail, seq := 0 }
    let taken (i : Instr) (pc : Addr) (r : Record) : Prop := ∃ t, exec i s = .next t ∧ entered t pc r
    (∀ r, entered (s.deliver r) s.th.pc r) ∧
    (∀ w, taken (.illegal w) s.th.pc (record 0x01 w 0)) ∧
    (∀ c : BitVec 11, taken (.trap c) (s.th.pc + 4) (record 0x03 s.insn c.toNat)) ∧
    (∀ c : BitVec 11, c ≠ 0x7FF → taken (.trapService c) (s.th.pc + 4) (record 0x03 s.insn (0x800 + c.toNat))) ∧
    (s.th.sup = false → taken .eret s.th.pc (record 0x02 s.insn 0) ∧ taken .tret (s.th.pc + 4) (record 0x03 s.insn 0xFFF))

/-- In supervisor mode ERET goes to SEPC with SUP from PSUP and IE from PIE and changes nothing else; run right after the
entry of an ILLEGAL trap it brings back the pc, the mode and the interrupt enable from before the trap. (R241, R223) -/
def Obligations.EretRestores : Prop :=
  ∀ (s : State),
    (s.th.onControl = true → s.th.sup = true →
      exec .eret s = .next { s with th := { s.th with
        pc := s.th.sv.sepc, sup := s.th.sv.ssts.getLsbD 1, pass := false, mid := false,
        sv := { s.th.sv with ssts := if s.th.sv.ssts.getLsbD 2 then s.th.sv.ssts ||| 1 else s.th.sv.ssts &&& ~~~1 } } }) ∧
    (∀ w t u, s.th.onControl = true → exec (.illegal w) s = .next t → exec .eret t = .next u →
      u.th.pc = s.th.pc ∧ u.th.sup = s.th.sup ∧ u.th.sv.ssts.getLsbD 0 = s.th.sv.ssts.getLsbD 0 ∧ u.th.g = s.th.g ∧ u.th.f = s.th.f) ∧
    (s.th.onBarrel = true → exec .eret s = .next (s.deliver (s.recordOf 0x02 0 0 0 0)))

/-- Where a control core in RUN has IE set and b is the lowest bit set in both SIPND and SIEN, its next step, and the event
INTERRUPT_ENTRY, take the interrupt: SEPC is the next instruction, SCAUSE has INT and b, SFADDR is 0, the mode and IE are
stacked and the core goes on at SVEC in supervisor mode, with every other part of the module as before. So does a core that
waits for a barrier, a signal, an outcome, a page fill, a version slot or another retirement, with SEPC at the waiting
instruction, and one that waits for a granule to become full, whose waiter is then withdrawn from the home; in any other
wait but for a region token no interrupt is due, INTERRUPT_ENTRY changes nothing, and the step is the wait's own turn.
(R241, R242, R233) -/
def Obligations.InterruptEntry : Prop :=
  ∀ (s : State) (k : Fin 16) (b : Nat), s.inputs = [] → s.boot = .up → s.th.place = .control k → s.isOrphan = false →
    s.th.sv.ssts.getLsbD 0 = true → b < 12 →
    (s.sipnd k).getLsbD b = true → s.th.sv.sien.getLsbD b = true →
    (∀ j, j < b → ((s.sipnd k).getLsbD j && s.th.sv.sien.getLsbD j) = false) →
    let taken (l : List (Nat × Waiter × Bool)) (t : State) : Prop :=
      t = { s with feq := l, th := { s.th with
        pc := s.th.sv.svec.setWidth 52, sup := true, pass := false, mid := false, st := .run, wait := .none, tseq := 0, sv := { s.th.sv with
          sepc := s.th.pc, scause := BitVec.ofNat 64 (2 ^ 63 + b), sfaddr := 0, ssts := BitVec.ofNat 64 (4 + s.th.sup.toNat * 2) } } }
    let takes (l : List (Nat × Waiter × Bool)) : Prop := ∀ t, taken l t → step s = .next t ∧ exec (.interruptEntry k) s = .next t
    (s.th.st = .run → s.th.wait = .none → s.th.mid = false → s.th.tseq = 0 → s.th.watches = [] → takes s.feq) ∧
    (s.th.st = .wait →
      (∀ d c l, s.th.wait = .barrier d c l → takes s.feq) ∧ (∀ d l, s.th.wait = .signal d l → takes s.feq) ∧
      (∀ d h l, s.th.wait = .outcome d h l → takes s.feq) ∧ (∀ i a, s.th.wait = .fill i a → takes s.feq) ∧
      (∀ a, s.th.wait = .version a → takes s.feq) ∧ (s.th.wait = .retire → takes s.feq) ∧
      (∀ pa n g va d c r l w, s.th.wait = .full pa n g va d c r l w →
        takes (s.feq.filter fun e => decide (e.2.1 ≠ .thread (.control k)))) ∧
      ((match s.th.wait with
        | .barrier _ _ _ => False | .signal _ _ => False | .outcome _ _ _ => False | .fill _ _ => False | .version _ => False
        | .retire => False | .full _ _ _ _ _ _ _ _ _ => False | .token _ _ _ => False | _ => True) →
        exec (.interruptEntry k) s = .next s ∧ step s = waitTurn s))

/-- On a barrel core whose context has CXTRAP.EN set and outside a handler, a TRAP of a code below 0x800 sets INTRAP, points
g31 at the slot's trap area, goes on at TVEC and leaves the other registers; the trap area holds the context image with the
pc at the next instruction, then the record with the code; a TRET executed then restores every general and floating-point
register, TMODE, TFLAGS, THYP and the watchpoint registers, goes on at the instruction after the TRAP and clears INTRAP.
(R228, R229, R227, R237) -/
def Obligations.TrapAndReturn : Prop :=
  ∀ (s : State) (c : BitVec 11) (n : Fin 1024) (k : Fin 16), s.mem.wf → s.th.place = .slot n k → s.th.intrap = false →
    (s.reg (cxtrapAt s.th.ctx)).getLsbD 0 = true → s.th.pc.toNat % 4 = 0 →
    (s.th.tmode.toNat % 8 ∈ [1, 2, 3, 4, 5] ∧ s.th.tmode.toNat < 16) → s.th.tflags.toNat < 32 → canonHandle s.th.thyp = s.th.thyp →
    (∀ i : Fin 4, normTwa s.th.twa[i] = s.th.twa[i] ∧ normTwc s.th.twc[i] = s.th.twc[i]) →
    ∃ t u, exec (.trap c) s = .next t ∧ exec .tret t = .next u ∧
      (t.th.intrap = true ∧ t.th.pc.toNat = bits (s.reg (cxtrapAt s.th.ctx)) 2 50 * 4 ∧ t.th.f = s.th.f ∧
        (∀ r, r ≠ 31 → t.gr r = s.gr r) ∧ t.gr 31 = s.trapPointer s.th.ctx n k ∧
        t.readWords (t.localPa (trapArea n k)) 80 = Thread.image { s.th with pc := s.th.pc + 4, pass := false, mid := false } ∧
        (t.readWords (t.localPa (trapArea n k + 0x280)) 8)[6]? = some (BitVec.ofNat 64 c.toNat)) ∧
      (u.th.intrap = false ∧ u.th.pc = s.th.pc + 4 ∧ (∀ r, u.gr r = s.gr r) ∧ u.th.f = s.th.f ∧ u.th.tmode = s.th.tmode ∧
        u.th.tflags = s.th.tflags ∧ u.th.thyp = s.th.thyp ∧ u.th.twa = s.th.twa ∧ u.th.twc = s.th.twc)

/-- On a barrel core whose slot has nothing buffered, a TRAP of code 0x800 to 0xFFE, and with CXTRAP.EN 0 one below 0x800,
saves the thread with its pc at the next instruction and its registers as before: its slot is EMPTY and its save record
holds its whole context image, word for word, also where the record goes to the host queue, as long as the queue's entry
does not lie in the save record; where the host trap queue is enabled and has room and nothing is held for it, the record
stands in the queue's next entry and WR counts one more, else the record stands in the save record and WR is as before. HALT
puts the slot of the thread into DRAIN. A YIELD at which the head of a launch queue wants the slot saves the thread with its
pc at the next instruction, ready to land again, and lands in the slot the resumed thread that is that head, or the next
thread of the launch that is that head, which it starts first where it has not started; where that start does not come
about, and where no head and no saved door thread is a candidate, in a context that may not land there, or on a control
core, it is a plain advance that changes nothing but the pc; where a saved door thread is the candidate, that one lands. Own
memory is taken in canonical form. HALT on a control core and which candidates a YIELD considers are the model's readings
(assumptions 13 and 26). (R229, R228, R232, R233, R234, R237, R103, R104, R80, R351, R352, R353) -/
def Obligations.ServiceRequest : Prop :=
  ∀ (s : State) (n : Fin 1024) (k : Fin 16),
    let pc := s.th.pc + 4
    let away (t : State) : Prop := ∃ x ∈ t.threads, x.place = .saved s.th.ctx s.th.tid ∧ x.pc = pc ∧ x.g = s.th.g ∧ x.f = s.th.f ∧
      x.ready.isSome = true
    let base := s.reg (fqbaseAt s.th.ctx 1)
    let ctl := s.reg (fqctlAt s.th.ctx 1)
    let entry := bits base 12 40 * 4096 + bits ctl 16 13 % 2 ^ bits base 1 4 * 64
    (∀ (c : BitVec 11) (i : Instr) (code : Nat), s.mem.wf → s.th.place = .slot n k → s.th.wait = .none →
      s.sbuf.filter (ofSlot s.th) = [] → s.th.save % 2048 = 0 → s.th.save + 2048 ≤ 0x12000000000 →
      (∀ u ∈ s.rest, u.place ≠ .slot n k ∧ u.place ≠ .caravan n k) →
      (i = .trapService c ∧ c ≠ 0x7FF ∧ code = 0x800 + c.toNat ∨
        i = .trap c ∧ (s.reg (cxtrapAt s.th.ctx)).getLsbD 0 = false ∧ code = c.toNat) →
      let record : List Word := Record.words { s.recordOf 0x03 0 (BitVec.ofNat 64 code) 0 0 with
        time := s.stamp s.th.key, seq := (s.ctx s.th.ctx).seq }
      let fits := s.queueOpen s.th.ctx 1 && !((s.ctx s.th.ctx).heldQ.any fun h => h.1 = 1)
      (fits = true → entry + 64 ≤ 0x12000000000 → (entry + 64 ≤ s.th.save ∨ s.th.save + 2048 ≤ entry) →
        ∃ t, exec i s = .next t ∧ t.th.place = .saved s.th.ctx s.th.tid ∧ t.slotEmpty n k = true ∧ t.th.pc = pc ∧ t.th.g = s.th.g ∧
          t.th.f = s.th.f ∧ t.th.held = none ∧ t.readWords (t.localPa s.th.save) 80 = Thread.image { s.th with pc := pc } ∧
          t.readWords (t.localPa entry) 8 = record ∧
          bits (t.reg (fqctlAt s.th.ctx 1)) 16 13 = (bits ctl 16 13 + 1) % 8192) ∧
      (fits = false →
        ∃ t, exec i s = .next t ∧ t.th.place = .saved s.th.ctx s.th.tid ∧ t.slotEmpty n k = true ∧ t.th.pc = pc ∧ t.th.g = s.th.g ∧
          t.th.f = s.th.f ∧ t.th.held.isSome = true ∧ t.readWords (t.localPa s.th.save) 80 = Thread.image { s.th with pc := pc } ∧
          t.readWords (t.localPa (s.th.save + 0x280)) 8 = record ∧ t.reg (fqctlAt s.th.ctx 1) = ctl)) ∧
    exec .halt s = .next { s with th := { s.th with st := .drain, pass := false } } ∧
    (s.th.onBarrel = false → exec .yield s = .next (s.jumped pc)) ∧
    (s.th.place = .slot n k → s.takesLandings n s.th.ctx = false → exec .yield s = .next (s.jumped pc)) ∧
    (s.th.place = .slot n k → s.takesLandings n s.th.ctx = true → s.yieldHead s.th.ctx n s.th.prio = none →
      (s.yieldDoor s.th.ctx n s.th.prio = none → exec .yield s = .next (s.jumped pc)) ∧
      (∀ u, s.yieldDoor s.th.ctx n s.th.prio = some u → u.tid ≠ s.th.tid →
        ∃ t, exec .yield s = .next t ∧ (∃ x ∈ t.threads, x.place = .slot n k ∧ x.tid = u.tid ∧ x.st = .load) ∧
          (s.th.wait = .none → away t))) ∧
    (∀ q, s.th.place = .slot n k → s.takesLandings n s.th.ctx = true → s.yieldHead s.th.ctx n s.th.prio = some q → s.th.wait = .none →
      s.th.ready = none → s.sbuf.filter (ofSlot s.th) = [] →
      (∀ u, s.headOf s.th.ctx q = some (.thread u) → u.tid ≠ s.th.tid →
        ∃ t, exec .yield s = .next t ∧ (∃ x ∈ t.threads, x.place = .slot n k ∧ x.tid = u.tid ∧ x.st = .load) ∧ away t) ∧
      (∀ l r, s.headOf s.th.ctx q = some (.launch l) → l.started = true → s.freeRecord s.th.ctx = some r →
        ∃ t, exec .yield s = .next t ∧ (∃ x ∈ t.threads, x.place = .slot n k ∧ x.tid = BitVec.ofNat 24 (r + 1) ∧ x.st = .load ∧
          x.origin = .launch l.id ∧ x.pc = l.desc.words[1].setWidth 52) ∧ away t) ∧
      (∀ l u, s.headOf s.th.ctx q = some (.launch l) → l.started = false → u = s.advance.saveTh.beginHead s.th.ctx q →
        (∀ m r, u.headOf s.th.ctx q = some (.launch m) → m.started = true → m.id = l.id → u.freeRecord s.th.ctx = some r →
          ∃ t, exec .yield s = .next t ∧ ∃ x ∈ t.threads, x.place = .slot n k ∧ x.tid = BitVec.ofNat 24 (r + 1) ∧ x.st = .load ∧
            x.origin = .launch l.id) ∧
        ((∀ m, u.headOf s.th.ctx q = some (.launch m) → m.started = false ∨ m.id ≠ l.id) →
          exec .yield s = .next (s.jumped pc))))

/-- MFS of a thread state register writes that register to g[d], TSTAT with the context, site, slot, CC, SUP and INTRAP in
their places, TPC the address of the MFS itself, TNOW as the TNOW instruction; in supervisor mode each supervisor register
is read, SIPND as the sources stand; every other number raises ILLEGAL, and 0x100 to 0x1FF raise PRIV outside supervisor
mode; nothing else changes. (R225, R224, R240, R223, R43) -/
def Obligations.StateRegisterReads : Prop :=
  ∀ (d : Reg) (n : BitVec 12) (s : State),
    let reads (k : Nat) (v : Word) : Prop := n = BitVec.ofNat 12 k → exec (.mfs d n) s = .next (s.afterG d v)
    reads 0x000 (BitVec.ofNat 64 (s.th.cx.val * 2 ^ 52 + (if s.th.onControl then 0 else s.th.site % 1024) * 2 ^ 32 +
      s.th.slot % 16 * 2 ^ 24 + s.th.onControl.toNat * 32 + s.th.sup.toNat * 16 + s.th.intrap.toNat)) ∧
    reads 0x001 s.th.tmode ∧ reads 0x002 s.th.tflags ∧ reads 0x003 (s.th.thyp.setWidth 64) ∧ reads 0x005 (s.th.pc.setWidth 64) ∧
    (∀ i : Fin 4, reads (0x010 + i) s.th.twa[i] ∧ reads (0x018 + i) s.th.twc[i]) ∧
    (exec (.mfs d 0x004) s = exec (.tnow d) s) ∧
    (s.th.supervisor = true →
      reads 0x100 (s.th.sv.sepc.setWidth 64) ∧ reads 0x101 s.th.sv.scause ∧ reads 0x102 s.th.sv.sfaddr ∧
      reads 0x103 s.th.sv.svec ∧ reads 0x104 s.th.sv.ssts ∧ reads 0x105 s.th.sv.sien ∧
      (∀ k, s.th.place = .control k → reads 0x106 (s.sipnd k)) ∧
      reads 0x107 s.th.sv.sscr0 ∧ reads 0x108 s.th.sv.sscr1 ∧ reads 0x109 (BitVec.ofNat 64 s.th.sv.sctx.val) ∧
      reads 0x10A s.th.sv.sfrec ∧
      (0x10B ≤ n.toNat → n.toNat < 0x200 → exec (.mfs d n) s = .next (s.deliver (s.recordOf 0x01 0 0 0 0)))) ∧
    (s.th.supervisor = false → 0x100 ≤ n.toNat → n.toNat < 0x200 →
      exec (.mfs d n) s = .next (s.deliver (s.recordOf 0x02 0 0 0 0))) ∧
    ((5 < n.toNat ∧ n.toNat < 0x10 ∨ 0x13 < n.toNat ∧ n.toNat < 0x18 ∨ 0x1B < n.toNat ∧ n.toNat < 0x100 ∨ 0x200 ≤ n.toNat) →
      exec (.mfs d n) s = .next (s.deliver (s.recordOf 0x01 0 0 0 0)))

/-- MTS ignores TSTAT, stores RM 0, 6 and 7 of TMODE as 1 and keeps of TFLAGS the five flags, writes a watch address as 52
bits, a watch control with SIZE below 4 as 4 unless it would make a 17th of context scope, THYP as HSET does; TNOW and TPC
raise ILLEGAL; in supervisor mode each supervisor register takes its bits and SIPND none, in user mode the write raises
PRIV; nothing else changes. (R225, R126, R127, R167, R240, R223, R267) -/
def Obligations.StateRegisterWrites : Prop :=
  ∀ (a : Reg) (n : BitVec 12) (s : State) (v : Word), v = s.gr a →
    let writes (k : Nat) (t : Thread) : Prop := n = BitVec.ofNat 12 k → exec (.mts a n) s = .next (s.afterTh t)
    let sup (k : Nat) (x : Supervisor) : Prop := writes k { s.th with sv := x }
    writes 0x000 s.th ∧
    writes 0x001 { s.th with tmode := BitVec.ofNat 64 (v.toNat / 8 % 2 * 8 +
      (if v.toNat % 8 ∈ [1, 2, 3, 4, 5] then v.toNat % 8 else 1)) } ∧
    writes 0x002 { s.th with tflags := BitVec.ofNat 64 (v.toNat % 32) } ∧
    (n = 0x003 → exec (.mts a n) s = exec (.hset a) s) ∧
    (∀ i : Fin 4, writes (0x010 + i) { s.th with twa := s.th.twa.set i (BitVec.ofNat 64 (v.toNat % 2 ^ 52)) }) ∧
    (∀ i : Fin 4, (contextWatch (normTwc v) = false ∨ s.watchCount s.th.cx s.th.place i < 16) →
      writes (0x018 + i) { s.th with twc := s.th.twc.set i (normTwc v) }) ∧
    (∀ i : Fin 4, contextWatch (normTwc v) = true → 16 ≤ s.watchCount s.th.cx s.th.place i →
      exec (.mts a (BitVec.ofNat 12 (0x018 + i))) s = .next (s.deliver (s.recordOf 0x13 0 0 0 0))) ∧
    ((n = 0x004 ∨ n = 0x005) → exec (.mts a n) s = .next (s.deliver (s.recordOf 0x01 0 0 0 0))) ∧
    (s.th.supervisor = true →
      sup 0x100 { s.th.sv with sepc := BitVec.ofNat 52 v.toNat } ∧
      sup 0x101 { s.th.sv with scause := BitVec.ofNat 64 (v.toNat / 2 ^ 63 * 2 ^ 63 + v.toNat % 256) } ∧
      sup 0x102 { s.th.sv with sfaddr := v } ∧
      sup 0x103 { s.th.sv with svec := BitVec.ofNat 64 (v.toNat % 2 ^ 52 / 64 * 64) } ∧
      sup 0x104 { s.th.sv with ssts := BitVec.ofNat 64 (v.toNat % 8) } ∧
      sup 0x105 { s.th.sv with sien := BitVec.ofNat 64 (v.toNat % 4096) } ∧
      sup 0x106 s.th.sv ∧ sup 0x107 { s.th.sv with sscr0 := v } ∧ sup 0x108 { s.th.sv with sscr1 := v } ∧
      (∀ k : Fin 16, k.val = v.toNat % 16 → sup 0x109 { s.th.sv with sctx := k }) ∧
      sup 0x10A { s.th.sv with sfrec := BitVec.ofNat 64 (v.toNat % 2 ^ 52 / 64 * 64) }) ∧
    (s.th.supervisor = false → 0x100 ≤ n.toNat → n.toNat < 0x200 →
      exec (.mts a n) s = .next (s.deliver (s.recordOf 0x02 0 0 0 0)))

/-- TNOW writes the larger of the field's counter and the thread's floor and raises the floor to it; TWAIT with signals
pending writes them from bit 16 up and clears them, past its limit writes 1 and leaves them, else waits; SIGV sends its bits
to a live thread of the context once its release part is done, and sends nothing where no such thread lives or no bit is
set; nothing but g[d], the floor, the signals and the pc changes. (R245, R246, R247, R221) -/
def Obligations.TimeAndSignals : Prop :=
  ∀ (d a b : Reg) (s : State) (now : Word),
    now = (if (s.time (coreField s.th.core)).toNat < s.th.floor.toNat then s.th.floor else s.time (coreField s.th.core)) →
    (exec (.tnow d) s = .next (State.afterG { s with th := { s.th with floor := now } } d now)) ∧
    (s.th.st = .run → s.th.wait = .none → s.th.sigs = 0 →
      ((s.gr a).toNat ≤ now.toNat → exec (.twait d a) s = .next (s.afterG d 1)) ∧
      (now.toNat < (s.gr a).toNat →
        exec (.twait d a) s = .next { s with th := { s.th with st := .wait, wait := .signal d (s.gr a), mid := true } })) ∧
    (s.th.sigs ≠ 0 → s.awaitsFlush = false →
      ∃ t, exec (.twait d a) s = .next t ∧ t.th.sigs = 0 ∧ t.th.st = .run ∧ t.th.pc = s.th.pc + 4 ∧ t.mem = s.mem ∧
        (d ≠ 0 → t.gr d = BitVec.ofNat 64 (s.th.sigs.toNat * 2 ^ 16)) ∧ (∀ r, r ≠ d → t.gr r = s.gr r) ∧ t.th.f = s.th.f) ∧
    (∀ u, u = s.releaseTo .device → (u.th.onBarrel && u.pendingFault u.th.ctx) = false →
      let tid := (u.gr a).setWidth 24
      (((u.gr b).setWidth 16 = 0 ∨ u.findTid u.th.cx tid = none) → exec (.sigv a b) s = .next (u.jumped (u.th.pc + 4))) ∧
      ((u.gr b).setWidth 16 ≠ 0 → u.findTid u.th.cx tid ≠ none →
        let g : Signal :=
          { who := u.th.issuer, ctx := u.th.cx, tid := tid, bits := (u.gr b).setWidth 16, stamp := u.stamp u.th.key,
            way := { src := u.th.key, dst := (match u.findTid u.th.cx tid with | some t => t.key | none => 0), num := u.clock } }
        exec (.sigv a b) s = .next (State.jumped { u with signals := u.signals ++ [g], clock := u.clock + 1 } (u.th.pc + 4))))

/-- QGRD writes the module ID, grade, stepping, live cores and core count; QTOP SITE the state, position, cluster, field and
coordinates of a site and SELF the thread's own, which clears MOV; QSPD the frequency, weight and code of a site that is not
dark at manufacture; QBLT the band of the ordered pair of fields with its limits; any other selector of QTOP writes 0;
nothing but g[d], MOV and the pc changes. (R248, R249, R250, R251, R15, R4, R14) -/
def Obligations.Queries : Prop :=
  ∀ (d a b : Reg) (s : State) (n : Nat), n = (s.gr a).toNat / 256 % 1024 →
    (exec (.qgrd d) s = .next (s.afterG d (BitVec.ofNat 64 (s.modId % 2048 * 2 ^ 32 + gradeCode * 2 ^ 28 + Config.stepping.toNat * 2 ^ 24 +
      s.live % 2048 * 2 ^ 12 + coreCount)))) ∧
    ((s.gr a).toNat % 256 = 1 → ∃ st, (st = match (s.site n).status with | .dark => 0 | .enabled => 1 | .retired => 2 | .closing => 3) ∧
      exec (.qtop d a) s = .next (s.afterG d (BitVec.ofNat 64 (2 ^ 63 + st * 2 ^ 61 + (n / 32 % 2 * 2 + n % 32 % 2) * 2 ^ 28 +
        (n / 32 / 2 * 16 + n % 32 / 2) * 2 ^ 20 + (n / 32 / 8 * 2 + n % 32 / 16) * 2 ^ 16 + n / 32 * 32 + n % 32)))) ∧
    ((s.gr a).toNat % 256 = 0 → ∃ v, exec (.qtop d a) s = .next (State.afterG { s with th := { s.th with mov := false } } d v) ∧
      bit v 63 = s.th.mov ∧ bit v 59 = s.th.onControl ∧ bits v 32 24 = s.th.id.toNat ∧ bits v 28 4 = s.th.cx.val ∧
      bits v 24 4 = s.th.slot % 16 ∧ (s.th.onControl = false → bits v 0 10 = s.th.site % 1024)) ∧
    (1 < (s.gr a).toNat % 256 → exec (.qtop d a) s = .next (s.afterG d 0)) ∧
    (∀ k : Fin 1024, k.val = (s.gr a).toNat % 1024 →
      (Config.darkAtManufacture k = true → exec (.qspd d a) s = .next (s.afterG d 0)) ∧
      (Config.darkAtManufacture k = false → exec (.qspd d a) s = .next (s.afterG d (BitVec.ofNat 64 (2 ^ 63 +
        (1750000 + (Config.speedCode k).val * 31250) * 2 ^ 32 + ((Config.speedCode k).val + 56) * 256 + (Config.speedCode k).val))))) ∧
    (∀ x y k : Nat, x = (s.gr a).toNat % 8 → y = (s.gr b).toNat % 8 →
      k = max (if x % 2 = y % 2 then 0 else 1) (max (x / 2 - y / 2) (y / 2 - x / 2)) →
      exec (.qblt d a b) s = .next (s.afterG d (BitVec.ofNat 64 ([8, 24, 40, 64][k]! * 2 ^ 16 + [2, 12, 24, 40][k]! * 256 + k))))

/-- QRNG writes the cause NULL for an address below 64 KiB, NONCANON for one whose bits 57:52 are not 0, the cause of a
failed walk or ACCESS for an address that is not present, and the home's word with V set otherwise, in user mode by the
context's tables; it changes nothing but g[d] and the pc. CRCC folds the low bytes of g[b], 8 where the c field is 0, into
the CRC in g[a], one bit at a time from bit 0. (R253, R256, R146) -/
def Obligations.AddressQueryAndCrc : Prop :=
  ∀ (d a b : Reg) (n : BitVec 3) (s : State) (va : Nat), va = (s.gr a).toNat % 2 ^ 52 →
    (va < 0x10000 → exec (.qrng d a) s = .next (s.afterG d 0x06)) ∧
    (0x10000 ≤ va → (s.gr a).toNat / 2 ^ 52 % 64 ≠ 0 → exec (.qrng d a) s = .next (s.afterG d 0x07)) ∧
    (0x10000 ≤ va → (s.gr a).toNat / 2 ^ 52 % 64 = 0 →
      let at_ : Except Nat Nat := if s.th.supervisor then .ok (s.superPa va) else s.lookAt va
      (∀ e, at_ = .error e → exec (.qrng d a) s = .next (s.afterG d (BitVec.ofNat 64 e))) ∧
      (∀ pa, at_ = .ok pa → s.present pa = false → exec (.qrng d a) s = .next (s.afterG d 0x0C)) ∧
      (∀ pa, at_ = .ok pa → s.present pa = true → ∃ v, exec (.qrng d a) s = .next (s.afterG d v) ∧ bit v 63 = true ∧
        bits v 48 11 = pa / 2 ^ 41 % 2048 ∧
        (s.isLocal pa = false → bits v 60 3 = 4) ∧
        (s.isLocal pa = true → spaceOf (offsetOf pa) = .hbm → bits v 60 3 = 0 ∧ bits v 0 16 = offsetOf pa / 4096 % 24) ∧
        (s.isLocal pa = true → spaceOf (offsetOf pa) = .tcm → bits v 60 3 = 2 ∧ bits v 0 16 = tcmSite (offsetOf pa)))) ∧
    (∃ m : Nat, (m = if n = 0 then 64 else 8 * n.toNat) ∧
      exec (.crcc d a b n) s = .next (s.afterG d (((List.range m).foldl (fun (c : BitVec 32) i =>
        (if xor (c.getLsbD 0) ((s.gr b).getLsbD i) then (c >>> 1) ^^^ 0x82F63B78 else c >>> 1))
          ((s.gr a).setWidth 32)).setWidth 64)))

/-- COFF raises PRIV outside supervisor mode and ACCESS for a site that is dark or already closing; while another site's
retirement runs it waits; otherwise it completes with the site closing, RETSTAT.BUSY set with the site number, and the
retirement, in the mode of bit 16, under way; nothing else but the pc changes. (R254, R255, R223) -/
def Obligations.RetirementStarts : Prop :=
  ∀ (a : Reg) (s : State) (n : Fin 1024), n.val = (s.gr a).toNat % 1024 →
    (s.th.supervisor = false → exec (.coff a) s = .next (s.deliver (s.recordOf 0x02 0 0 0 0))) ∧
    (s.th.supervisor = true →
      ((s.site n).status ≠ .enabled → exec (.coff a) s = .next (s.deliver (s.recordOf 0x0C 0 0 0 0))) ∧
      ((s.site n).status = .enabled →
        (s.retire ≠ none → exec (.coff a) s = .next { s with th := { s.th with st := .wait, wait := .retire, mid := true } }) ∧
        (s.retire = none → ∃ t, exec (.coff a) s = .next t ∧ (t.site n).status = .closing ∧ t.live = s.live ∧
          (∀ m, m ≠ n.val → t.site m = s.site m) ∧
          t.retire = some { site := n, forced := (s.gr a).getLsbD 16, begun := false } ∧
          bit (t.reg retstatAt) 62 = true ∧ bits (t.reg retstatAt) 0 10 = n.val ∧ bit (t.reg retstatAt) 63 = bit (s.reg retstatAt) 63 ∧
          (∀ o, o ≠ retstatAt → t.reg o = s.reg o) ∧ t.mem = s.mem ∧ t.th = { s.th with pc := s.th.pc + 4, pass := false, mid := false })))

/-- In every state, for every operand and every form, each of the 339 instructions, commands, nodes, router operators and
events of the table answers a next state: what the specification gives a trap, a wait, a record or a permitted choice for is
one of these, and nothing ends in a fault or a refusal. (R12, R13) -/
def Obligations.EveryInstructionAnswers : Prop :=
  ∀ (i : Instr) (s : State), ∃ t : State, exec i s = .next t

/-- With the sources read in the instruction's type, a subnormal read as zero under FZ, each arithmetic instruction writes
to f[d], in the low bits of its type with zeros above, the result of its operation on their exact values rounded under its
mode, raises that operation's flags in TFLAGS and in the cluster's CFLAGS, and forfeits the turns of a division, a square
root and the normaliser; it traps on no operands, and nothing else changes. FFMA and FFMS round once, under TMODE.RM, and of
infinity times zero is invalid even with a quiet NaN to add. (R113, R128, R130, R131, R132, R133, R134, R137, R138, R143) -/
def Obligations.FloatArithmetic : Prop :=
  ∀ (t : FType) (d a b c : Reg) (r : RmField) (s : State),
    let f := fmtOf t
    let m := s.roundField r
    let x := s.fsource t a
    let y := s.fsource t b
    let z := s.fsource t c
    let norm (rs : List Reg) : Nat :=
      if (s.th.tmode.getLsbD 3) = false ∧ (∃ k ∈ rs, isSubnormal f ((s.fr k).toNat % 2 ^ f.width) = true) then 4 else 0
    let long : Nat := match t with | .f64 => 7 | .f32 => 4 | _ => 2
    let gives (i : Instr) (v : Nat × BitVec 5) (turns : Nat) : Prop := WritesF i s d v.1 v.2 turns
    gives (.fadd t d a b r) (addData f m s.fz x y) (s.normTurns t [a, b]) ∧
    gives (.fsub t d a b r) (addData f m s.fz x y.neg) (s.normTurns t [a, b]) ∧
    gives (.fmul t d a b r) (mulData f m s.fz x y) (s.normTurns t [a, b]) ∧
    gives (.fdiv t d a b r) (divData f m s.fz x y) (long + s.normTurns t [a, b]) ∧
    gives (.fsqrt t d a r) (sqrtData f m s.fz x) (long + s.normTurns t [a]) ∧
    gives (.ffma t d a b c) (fmaData f s.roundMode s.fz x y z) (s.normTurns t [a, b, c]) ∧
    gives (.ffms t d a b c) (fmaData f s.roundMode s.fz x y z.neg) (s.normTurns t [a, b, c]) ∧
    gives (.frnd t d a r) (roundIntegral f m s.fz x) (s.normTurns t [a]) ∧
    gives (.fscl t d a b r) (scaleBy f m s.fz (s.gr b).toInt x) (s.normTurns t [a]) ∧
    (∀ rs, s.normTurns t rs = norm rs) ∧
    (s.th.tmode.getLsbD 3 = true → ∀ g n e, s.fdatum t a = .fin g n e → n < 2 ^ f.fb → x = .fin g 0 e) ∧
    (∀ g n e w, fmaData f m s.fz (.inf g) (.fin n 0 e) w = (canonNan f, 16))

/-- FABS clears, FNEG inverts and FSGN copies the sign bit of the type's bits; MVGF and MVFG move the type's low bits with
zeros above; none raises a flag. FEQ, FLT and FLE write 0 where an operand is a NaN, with NV on a signalling one for FEQ and
on any for the others, else the truth of the comparison of the exact values, with equal zeros. FMIN and FMAX return one of
the two operands' bits, or the canonical NaN where both are NaNs; FCLS sets exactly one bit of ten. No such instruction
forfeits a turn. (R113, R133, R135, R143) -/
def Obligations.SignCompareMove : Prop :=
  ∀ (t : FType) (d a b : Reg) (s : State) (w x y : Nat), w = (fmtOf t).width → x = (s.fr a).toNat % 2 ^ w → y = (s.fr b).toNat % 2 ^ w →
    let A := unpack (fmtOf t) x
    let B := unpack (fmtOf t) y
    let nan : Prop := A.isNan = true ∨ B.isNan = true
    let sig : BitVec 5 := if A.isSig = true ∨ B.isSig = true then 16 else 0
    WritesF (.fabs t d a) s d (x % 2 ^ (w - 1)) 0 0 ∧
    WritesF (.fneg t d a) s d (if x < 2 ^ (w - 1) then x + 2 ^ (w - 1) else x - 2 ^ (w - 1)) 0 0 ∧
    WritesF (.fsgn t d a b) s d (x % 2 ^ (w - 1) + y / 2 ^ (w - 1) * 2 ^ (w - 1)) 0 0 ∧
    WritesF (.mvgf t d a) s d ((s.gr a).toNat % 2 ^ w) 0 0 ∧
    WritesG (.mvfg t d a) s d (BitVec.ofNat 64 x) 0 0 ∧
    (nan → WritesG (.feq t d a b) s d 0 sig 0 ∧ WritesG (.flt t d a b) s d 0 16 0 ∧ WritesG (.fle t d a b) s d 0 16 0) ∧
    (¬ nan → WritesG (.feq t d a b) s d (if cmpData A B = .eq then 1 else 0) 0 0 ∧
      WritesG (.flt t d a b) s d (if cmpData A B = .lt then 1 else 0) 0 0 ∧
      WritesG (.fle t d a b) s d (if cmpData A B = .gt then 0 else 1) 0 0 ∧
      (∃ v, (v = x ∨ v = y) ∧ (cmpData A B = .lt → v = x) ∧ (cmpData A B = .gt → v = y) ∧ WritesF (.fmin t d a b) s d v 0 0) ∧
      (∃ v, (v = x ∨ v = y) ∧ (cmpData A B = .lt → v = y) ∧ (cmpData A B = .gt → v = x) ∧ WritesF (.fmax t d a b) s d v 0 0)) ∧
    (A.isNan = true → B.isNan = true → WritesF (.fmin t d a b) s d (canonNan (fmtOf t)) sig 0 ∧
      WritesF (.fmax t d a b) s d (canonNan (fmtOf t)) sig 0) ∧
    (A.isNan = true → B.isNan = false → WritesF (.fmin t d a b) s d y sig 0 ∧ WritesF (.fmax t d a b) s d y sig 0) ∧
    (A.isNan = false → B.isNan = true → WritesF (.fmin t d a b) s d x sig 0 ∧ WritesF (.fmax t d a b) s d x sig 0) ∧
    (∃ k, k < 10 ∧ WritesG (.fcls t d a) s d (BitVec.ofNat 64 (2 ^ k)) 0 0 ∧
      (k = 9 ↔ A = .nan false) ∧ (k = 8 ↔ A = .nan true) ∧ (k = 7 ↔ A = .inf false) ∧ (k = 0 ↔ A = .inf true))

/-- FCVT rounds the source's exact value to the destination format; FCVI writes 0 with NV for a NaN, the type's extreme
value with NV where the rounded integer is out of range, else the rounded integer with NX where it differs, extended to 64
bits; ICVF rounds the integer in the low bits of g[a]; nothing but the destination, the flags and the turns of the
normaliser for a floating-point source changes. (R136, R114, R113, R131) -/
def Obligations.Conversions : Prop :=
  ∀ (t src : FType) (d a : Reg) (ty : IntType) (r : RmField) (s : State),
    (∀ v, v = convert (fmtOf t) (s.roundField r) s.fz (s.fsource src a) →
      WritesF (.fcvt t d a src r) s d v.1 v.2 (s.normTurns src [a])) ∧
    (∀ v, v = roundFin (fmtOf t) (s.roundField r) false (decide (intSource ty (s.gr a) < 0)) (intSource ty (s.gr a)).natAbs 0 false →
      WritesF (.icvf t d a ty r) s d v.1 v.2 0) ∧
    (intSource ty (s.gr a) = if intSigned ty then (BitVec.ofNat (intWidth ty) (s.gr a).toNat).toInt
      else ((s.gr a).toNat % 2 ^ intWidth ty : Nat)) ∧
    (∀ q, s.fsource t a = .nan q → WritesG (.fcvi t d a ty r) s d 0 16 (s.normTurns t [a])) ∧
    (∀ g, s.fsource t a = .inf g →
      WritesG (.fcvi t d a ty r) s d (BitVec.ofInt 64 (if g then intMin (intWidth ty) (intSigned ty) else intMax (intWidth ty) (intSigned ty)))
        16 (s.normTurns t [a])) ∧
    (∀ g m e n x, s.fsource t a = .fin g m e → (n, x) = roundInt (s.roundField r) g m e →
      (intMax (intWidth ty) (intSigned ty) < n →
        WritesG (.fcvi t d a ty r) s d (BitVec.ofInt 64 (intMax (intWidth ty) (intSigned ty))) 16 (s.normTurns t [a])) ∧
      (n < intMin (intWidth ty) (intSigned ty) →
        WritesG (.fcvi t d a ty r) s d (BitVec.ofInt 64 (intMin (intWidth ty) (intSigned ty))) 16 (s.normTurns t [a])) ∧
      (intMin (intWidth ty) (intSigned ty) ≤ n → n ≤ intMax (intWidth ty) (intSigned ty) →
        WritesG (.fcvi t d a ty r) s d (BitVec.ofInt 64 n) (if x then 0 else 1) (s.normTurns t [a])))

/-- For a magnitude m × 2^e and a unit 2^q, the multiple that the model's rounding gives is, in RTZ, the greatest that does
not exceed the magnitude; in RUP and RDN that one or the next one up as the sign says; in RNE and RNA one no more than half
a unit away, an even one and the larger one on a tie; it is reported exact just where it equals the magnitude. (R125) -/
def Obligations.RoundingOfMultiples : Prop :=
  ∀ (r : Round) (g : Bool) (m n : Nat) (e q : Int) (exact : Bool), (n, exact) = quantise r g m e false q →
    let x : ℚ := m * (2 : ℚ) ^ e
    let u : ℚ := (2 : ℚ) ^ q
    (exact = true ↔ n * u = x) ∧
    (r = .rtz → n * u ≤ x ∧ x < (n + 1) * u) ∧
    ((r = .rup ∧ g = false ∨ r = .rdn ∧ g = true) → x ≤ n * u ∧ n * u < x + u) ∧
    ((r = .rup ∧ g = true ∨ r = .rdn ∧ g = false) → n * u ≤ x ∧ x < (n + 1) * u) ∧
    ((r = .rne ∨ r = .rna) → 2 * (n * u - x) ≤ u ∧ 2 * (x - n * u) ≤ u) ∧
    (r = .rne → (2 * (n * u - x) = u ∨ 2 * (x - n * u) = u) → n % 2 = 0) ∧
    (r = .rna → 2 * (x - n * u) < u)

/-- For every format, every bit pattern of a finite value and every rounding mode, rounding the value that the pattern
stands for gives the same pattern back, raises no flag, and a zero keeps its sign; so a value is unpacked and packed alike,
in the normal and the subnormal range. (R110, R111, R125) -/
def Obligations.RepresentableValuesStay : Prop :=
  ∀ (t : FType) (r : Round) (x : Nat) (g : Bool) (m : Nat) (e : Int), x < 2 ^ (fmtOf t).width →
    unpack (fmtOf t) x = .fin g m e → roundFin (fmtOf t) r false g m e false = (x, 0)

/-- TDEC writes the entry of the code in the low byte of g[a], +0 for a table never loaded, and raises no flag; TENC writes
the code that the encoding of the source's exact value through the thread copy gives, with that encoding's flags, code 0 for
a table never loaded; TBLD of a misaligned address raises ALIGN, and otherwise the thread waits for the image with its place
in the order of issue, a load begun again keeping the first one; where the granules of the image have been read or read
through, every word has zeros in bits 31:19 and some entry is finite, the end of the load of a barrel thread with no earlier
load of the slot under way on its core and no later one ended puts the 256 entries into the thread copy of that slot, and
into the fabric copy where no instance holds a page of the site, of that core alone, and the thread goes on; an image with
no finite entry raises TBLF. Choices of the model: that granules of the image may be read at any time before the end, and
the order of issue kept over a page fill (assumption 21), and that a control core's tables are never loaded (assumption 13).
(R116, R119, R120, R139, R140, R141) -/
def Obligations.DecodeTables : Prop :=
  ∀ (t : FType) (d a : Reg) (n : Fin 4) (s : State),
    WritesF (.tdec d a n) s d ((tableEntries (s.threadTable n))[(s.gr a).toNat % 256]!).toNat 0 0 ∧
    (s.threadTable n = none → WritesF (.tdec d a n) s d 0 0 0) ∧
    (∀ v, v = encodeC8 (s.threadTable n) (s.fsource t a) → WritesG (.tenc t d a n) s d (BitVec.ofNat 64 v.1) v.2 (s.normTurns t [a])) ∧
    (∀ x : Datum, (encodeC8 none x).1 = 0) ∧
    ((s.gr a).toNat % 64 ≠ 0 → exec (.tbld a n) s = .next (s.deliver (s.recordOf 0x05 (s.gr a) 0 0 0))) ∧
    ((s.gr a).toNat % 64 = 0 → exec (.tbld a n) s = .next { s with
      clock := s.clock + 1, th := { s.th with
        st := .wait, wait := .table n (s.gr a) (if s.th.tseq = 0 then s.clock + 1 else s.th.tseq) [], mid := true } }) ∧
    (∀ p k got x z l ws, s.th.wait = .table n p k got → s.th.onBarrel = true → s.th.place = x →
      s.earlierTable s.th.core n k = none →
      State.tableRead { s with th := { s.th with st := .run, wait := .none, tseq := 0 } } p got 64 0 [] = (z, .ok l) → ws = imageWords l →
      (∀ w ∈ ws, w.toNat < 2 ^ 19) → (∃ w ∈ ws, isFinite19 (w.setWidth 19) = true) →
      (z.site s.th.site).issued[n] ≤ k →
      ∃ u, exec (.tbldComplete x) s = .next u ∧ u.th.pc = z.th.pc + 4 ∧ u.th.st = z.th.st ∧ u.mem = z.mem ∧
        (∀ c : Fin 256, ((tableEntries (u.site s.th.site).tables[n])[c]) = (ws.getD c 0).setWidth 19) ∧
        ((z.insts.any fun i => i.sites.contains s.th.site) = false → (u.site s.th.site).pages[n] = (u.site s.th.site).tables[n]) ∧
        (∀ j : Fin 4, j ≠ n → (u.site s.th.site).tables[j] = (z.site s.th.site).tables[j]) ∧
        (∀ j, j ≠ s.th.site → u.site j = z.site j)) ∧
    (∀ p k got x z l, s.th.wait = .table n p k got → s.th.place = x → s.earlierTable s.th.core n k = none →
      State.tableRead { s with th := { s.th with st := .run, wait := .none, tseq := 0 } } p got 64 0 [] = (z, .ok l) →
      (∀ w ∈ imageWords l, isFinite19 (w.setWidth 19) = false) → (∀ w ∈ imageWords l, w.toNat < 2 ^ 19) →
      exec (.tbldComplete x) s = .next (z.deliver (z.recordOf 0x14 p 0 0 0)))

/-- For a load and a store of eight bytes at the effective address, the low 52 bits of the pointer plus eight times the
signed offset modulo 2^52: a misaligned address raises ALIGN; else one below 64 KiB NULL; else nonzero bits 57:52 NONCANON;
else too few rights RIGHTS; else a page without the permission PERM; else an address that cannot be reached ACCESS; a
buffered or cached tag aside, a granule whose tag differs from the pointer's raises TAG with both tags. Every trap leaves
the thread's state as before and puts the effective address, with the pointer's bits 63:52, into the record. That a control
core in supervisor mode, whose accesses are not translated, meets the same checks is the model's reading (assumption 12).
(R144, R145, R146, R147, R160, R230) -/
def Obligations.ChecksInOrder : Prop :=
  ∀ (d b : Reg) (o : BitVec 12) (s : State) (ea : Nat) (addr : Word),
    (ea : Int) = (((s.gr b).toNat % 2 ^ 52 : Nat) + o.toInt * 8) % 2 ^ 52 →
    addr = BitVec.ofNat 64 ((s.gr b).toNat / 2 ^ 52 * 2 ^ 52 + ea) →
    let raises (cause : Nat) : Prop :=
      exec (.ldD d b .plain o) s = .next (s.deliver (s.recordOf cause addr 0 0 0)) ∧
      exec (.stD d b .plain o) s = .next (s.deliver (s.recordOf cause addr 0 0 0))
    (ea % 8 ≠ 0 → raises 0x05) ∧
    (ea % 8 = 0 → ea < 0x10000 → raises 0x06) ∧
    (ea % 8 = 0 → 0x10000 ≤ ea → (s.gr b).toNat / 2 ^ 52 % 64 ≠ 0 → raises 0x07) ∧
    (ea % 8 = 0 → 0x10000 ≤ ea → (s.gr b).toNat / 2 ^ 52 % 64 = 0 →
      ((s.gr b).toNat / 2 ^ 58 % 4 = 0 → raises 0x08) ∧
      ((s.gr b).toNat / 2 ^ 58 % 4 = 1 → exec (.stD d b .plain o) s = .next (s.deliver (s.recordOf 0x08 addr 0 0 0))) ∧
      (2 ≤ (s.gr b).toNat / 2 ^ 58 % 4 →
        ∀ pa leaf, (if s.th.supervisor then .ok (s.superPa ea, 0xC) else s.translate ea false) = .ok (pa, leaf) →
          (pteR leaf = false → exec (.ldD d b .plain o) s = .next (s.deliver (s.recordOf 0x0B addr 0 0 0))) ∧
          (pteW leaf = false → exec (.stD d b .plain o) s = .next (s.deliver (s.recordOf 0x0B addr 0 0 0))) ∧
          (pteR leaf = true → s.reachable pa (loadReq 8 .plain true) = false →
            exec (.ldD d b .plain o) s = .next (s.deliver (s.recordOf 0x0C addr 0 0 0))) ∧
          (pteW leaf = true → s.reachable pa (storeReq 8 .plain true false) = false →
            exec (.stD d b .plain o) s = .next (s.deliver (s.recordOf 0x0C addr 0 0 0))))) ∧
    (∀ pa, (s.isLocal pa && spaceOf (offsetOf pa) == .device) = false → s.sbuf = [] →
      s.tagSeen pa ≠ BitVec.ofNat 4 ((s.gr b).toNat / 2 ^ 60) →
      let r := s.recordOf 0x0F addr 0 (BitVec.ofNat 4 ((s.gr b).toNat / 2 ^ 60)) (s.tagSeen pa)
      (s.check (s.gr b) ea (loadReq 8 .plain true) = .ok pa → exec (.ldD d b .plain o) s = .next (s.deliver r)) ∧
      (s.check (s.gr b) ea (storeReq 8 .plain true false) = .ok pa → exec (.stD d b .plain o) s = .next (s.deliver r)))

/-- A plain or .NT load whose checks pass, whose granule has the pointer's tag and no poison, which no watchpoint sees and
over whose bytes every buffered store of its core may be forwarded, completes: the destination receives the little-endian
bytes, sign-extended, zero-extended or as they are, and for LDP the two words; each byte is that of the youngest buffered
store of the core over it, and where none covers it the byte of the core's copy of the line or of the home, under H0 of
memory itself, of this module or of another; every other register is unchanged but the time floor, and so is every byte of
memory, every buffered store and every version. Where a buffered store over the bytes may not be forwarded the thread waits.
A load of another module's memory first waits for the response; the response, with no older request of the slot to that line
in the buffer, lets it run again with it. (R8, R85, R144, R146, R148, R155, R157, R158, R160, R190, R263) -/
def Obligations.PlainLoads : Prop :=
  ∀ (d b : Reg) (q : LoadQual) (o : BitVec 12) (s : State) (pa : Nat),
    let sx (n v : Nat) : Word := BitVec.ofInt 64 (BitVec.ofNat (8 * n) v).toInt
    let G (f : Nat → Word) (v : Nat) : Thread := s.th.setG d (f v)
    let F (v : Nat) : Thread := { s.th with f := s.th.f.set d (BitVec.ofNat 64 v) }
    let P (v : Nat) : Thread := (s.th.setG d (BitVec.ofNat 64 v)).setG (d + 1) (BitVec.ofNat 64 (v / 2 ^ 64))
    let rows : List (Instr × Nat × Bool × (Nat → Thread)) :=
      [(.ldB d b q o, 1, false, G (sx 1)), (.ldH d b q o, 2, false, G (sx 2)), (.ldW d b q o, 4, false, G (sx 4)),
       (.ldD d b q o, 8, true, G (BitVec.ofNat 64)), (.ldnB d b q o, 1, false, G (BitVec.ofNat 64)),
       (.ldnH d b q o, 2, false, G (BitVec.ofNat 64)), (.ldnW d b q o, 4, false, G (BitVec.ofNat 64)),
       (.ldfH d b q o, 2, false, F), (.ldfW d b q o, 4, false, F), (.ldfD d b q o, 8, false, F), (.ldp d b q o, 16, false, P)]
    let mine (x : StoreEntry) : Prop := x.core = s.th.core ∧ x.kind ∈ [.plain, .fes, .nt]
    (∀ e ∈ rows, (q = .plain ∨ q = .nt) →
      s.check (s.gr b) (effective (s.gr b) o e.2.1) (loadReq e.2.1 q e.2.2.1) = .ok pa →
      (s.isLocal pa && spaceOf (offsetOf pa) == .device) = false →
      (s.isLocal pa = true ∨ (s.sbuf.any fun x => ofSlot s.th x && x.pa / 64 == pa / 64) = false) →
      ((∀ x ∈ s.sbuf, x.core = s.th.core → x.overlaps pa e.2.1 = true →
          mine x ∧ x.hyp = s.th.thyp ∧ (hypNum s.th.thyp = 0 ∨ x.ctx = s.th.cx)) →
        s.tagSeen pa = BitVec.ofNat 4 ((s.gr b).toNat / 2 ^ 60) → s.poisonSeen pa = false → s.anyWatch = false →
        (s.cache.filter fun x => decide (x.core = s.th.core)).length < s.th.core.lines →
        ∃ t v base, exec e.1 s = .next t ∧ v < 256 ^ e.2.1 ∧
          (∀ x, s.copyHeld pa = some x → base = bits x.data (8 * (offsetOf pa % 64)) (8 * e.2.1)) ∧
          (s.copyHeld pa = none → base = s.readHome s.th.cx s.th.thyp pa e.2.1) ∧
          (s.copyHeld pa = none → hypNum s.th.thyp = 0 → s.isLocal pa = true → base = s.mem.read (offsetOf pa) e.2.1) ∧
          (s.isLocal pa = false → base = s.peers.read pa e.2.1) ∧
          (∀ i, i < e.2.1 →
            ((∀ x ∈ s.sbuf, x.core = s.th.core → x.overlaps (pa + i) 1 = false) → v / 256 ^ i % 256 = base / 256 ^ i % 256) ∧
            (∀ l x r, s.sbuf = l ++ x :: r → x.core = s.th.core → x.overlaps (pa + i) 1 = true →
              (∀ y ∈ r, y.core = s.th.core → y.overlaps (pa + i) 1 = false) →
              v / 256 ^ i % 256 = x.data.toNat / 256 ^ (pa + i - x.pa) % 256)) ∧
          t.th.g = (e.2.2.2 v).g ∧ t.th.f = (e.2.2.2 v).f ∧
          t.th = { s.th with
            g := t.th.g, f := t.th.f, pc := s.th.pc + 4, st := .run, wait := .none, pass := false, mid := false, floor := t.th.floor,
            fwd := t.th.fwd } ∧
          s.th.floor.toNat ≤ t.th.floor.toNat ∧
          t.mem = s.mem ∧ t.peers = s.peers ∧ t.sbuf = s.sbuf ∧ t.vers = s.vers ∧ t.regs = s.regs ∧ t.rest = s.rest ∧ t.ctxs = s.ctxs) ∧
      (∀ x ∈ s.sbuf, x.core = s.th.core → x.overlaps pa e.2.1 = true → ¬ (mine x ∧ x.hyp = s.th.thyp ∧
          (hypNum s.th.thyp = 0 ∨ x.ctx = s.th.cx)) →
        exec e.1 s = .next { s with th := { s.th with st := .wait, wait := .overlap pa e.2.1, mid := true } })) ∧
    (∀ e ∈ rows, s.check (s.gr b) (effective (s.gr b) o e.2.1) (loadReq e.2.1 q e.2.2.1) = .error (.wait (.remote false pa 0 none)) →
      exec e.1 s = .next { s with th := { s.th with
        st := .wait, wait := .remote false pa (withTop (s.gr b) (effective (s.gr b) o e.2.1)) none, mid := true } }) ∧
    (∀ w a, s.th.wait = .remote w pa a none → (s.sbuf.any fun x => ofSlot s.th x && x.pa / 64 == pa / 64) = false →
      waitTurn s = .next { s with th := { s.th with st := .run, wait := .none, pass := true } })

/-- A load with .FEK or .FEC, of every load instruction, on a TCM or scratchpad granule whose checks pass, with the
pointer's tag and no poison, with nothing buffered by its core for the granule, no flush to wait for and no watchpoint:
where the granule is full it completes with the home's bytes in its register, for LDP in the two registers, and .FEC leaves
it empty, .FEK full, and no other byte, tag or bit of memory changes; where it still holds a record that a window wrote, the
load acquires as well; where it is empty the thread waits, recorded at the home while fewer than 64 waiters are, with memory
unchanged. (R31, R162, R163, R164, R155, R157, R160, R390) -/
def Obligations.FullEmptyLoads : Prop :=
  ∀ (d b : Reg) (q : LoadQual) (o : BitVec 12) (s : State) (pa : Nat),
    let sx (n v : Nat) : Word := BitVec.ofInt 64 (BitVec.ofNat (8 * n) v).toInt
    let G (f : Nat → Word) (v : Nat) : Thread := s.th.setG d (f v)
    let F (v : Nat) : Thread := { s.th with f := s.th.f.set d (BitVec.ofNat 64 v) }
    let P (v : Nat) : Thread := (s.th.setG d (BitVec.ofNat 64 v)).setG (d + 1) (BitVec.ofNat 64 (v / 2 ^ 64))
    let rows : List (Instr × Nat × Bool × (Nat → Thread)) :=
      [(.ldB d b q o, 1, false, G (sx 1)), (.ldH d b q o, 2, false, G (sx 2)), (.ldW d b q o, 4, false, G (sx 4)),
       (.ldD d b q o, 8, true, G (BitVec.ofNat 64)), (.ldnB d b q o, 1, false, G (BitVec.ofNat 64)),
       (.ldnH d b q o, 2, false, G (BitVec.ofNat 64)), (.ldnW d b q o, 4, false, G (BitVec.ofNat 64)),
       (.ldfH d b q o, 2, false, F), (.ldfW d b q o, 4, false, F), (.ldfD d b q o, 8, false, F), (.ldp d b q o, 16, false, P)]
    ∀ e ∈ rows, (q = .fek ∨ q = .fec) →
      s.check (s.gr b) (effective (s.gr b) o e.2.1) (loadReq e.2.1 q e.2.2.1) = .ok pa → s.isLocal pa = true →
      spaceOf (offsetOf pa) ≠ .device →
      (s.sbuf.any fun x => decide (x.core = s.th.core) && x.overlaps (pa / 16 * 16) 16) = false →
      s.tagSeen pa = BitVec.ofNat 4 ((s.gr b).toNat / 2 ^ 60) → s.poisonHome s.th.cx s.th.thyp pa = false → s.anyWatch = false →
      s.awaitsFlush = false →
      (s.mem.isFull (offsetOf pa) = true → ∃ t v, exec e.1 s = .next t ∧ v = s.mem.read (offsetOf pa) e.2.1 ∧
        t.th.g = (e.2.2.2 v).g ∧ t.th.f = (e.2.2.2 v).f ∧ t.th.pc = s.th.pc + 4 ∧ t.th.st = .run ∧
        t.mem = (if q = .fec then s.mem.setFull (offsetOf pa) false else s.mem) ∧ t.peers = s.peers ∧ t.sbuf = s.sbuf ∧
        (s.noteAt s.th.cx pa = true → ∀ x ∈ t.cache, x.core = s.th.core → x.ctx = s.th.cx → x.isDirty = false →
          (s.regionOf s.th.core s.th.cx (x.line * 64)).isSome = true)) ∧
      (s.mem.isFull (offsetOf pa) = false → ∃ t, exec e.1 s = .next t ∧ t.th.st = .wait ∧ t.th.pc = s.th.pc ∧ t.th.g = s.th.g ∧
        t.th.f = s.th.f ∧ t.mem = s.mem ∧
        t.feq = if s.recordedAt pa < 64 then s.feq ++ [(pa / 16, .thread s.th.place, q == .fec)] else s.feq)

/-- A store of a barrel thread outside its own TCM whose checks pass, with the granule's tag, no token, version slot or
buffer entry to wait for, and no watchpoint, completes: one entry more is buffered, with the physical address, the size and
the low bytes of the register or pair, for STP the two words; no register and no byte of memory changes. A store to another
module's memory first waits for the response that its tag check needs, and then takes its entry like any other. (R85, R144,
R148, R155, R160, R174) -/
def Obligations.StoresEnterTheBuffer : Prop :=
  ∀ (d b : Reg) (q : StoreQual) (o : BitVec 12) (s : State) (pa : Nat),
    let low (n : Nat) (v : Word) : Nat := v.toNat % 2 ^ n
    let pair (v w : Word) : Nat := v.toNat + 2 ^ 64 * w.toNat
    let rows : List (Instr × Nat × Bool × Bool × Nat) :=
      [(.stB d b q o, 1, false, false, low 8 (s.gr d)), (.stH d b q o, 2, false, false, low 16 (s.gr d)),
       (.stW d b q o, 4, false, false, low 32 (s.gr d)), (.stD d b q o, 8, true, false, low 64 (s.gr d)),
       (.stfH d b q o, 2, false, false, low 16 (s.fr d)), (.stfW d b q o, 4, false, false, low 32 (s.fr d)),
       (.stfD d b q o, 8, false, false, low 64 (s.fr d)),
       (.stp d b q o, 16, false, true, pair (s.gr d) (s.gr (d + 1)))]
    ∀ e ∈ rows,
      (s.check (s.gr b) (effective (s.gr b) o e.2.1) (storeReq e.2.1 q e.2.2.1 e.2.2.2.1) = .error (.wait (.remote true pa 0 none)) →
        exec e.1 s = .next { s with th := { s.th with
          st := .wait, wait := .remote true pa (withTop (s.gr b) (effective (s.gr b) o e.2.1)) none, mid := true } }) ∧
      (s.check (s.gr b) (effective (s.gr b) o e.2.1) (storeReq e.2.1 q e.2.2.1 e.2.2.2.1) = .ok pa →
      (s.isLocal pa && spaceOf (offsetOf pa) == .device) = false → s.th.onBarrel = true → s.ownTcm pa = false →
      s.tagSeen pa = BitVec.ofNat 4 ((s.gr b).toNat / 2 ^ 60) → s.tokenNeeded pa = none → s.versionBlocked pa = false →
      s.bufferFull = false → s.anyWatch = false → s.th.st = .run →
      ∃ t x, exec e.1 s = .next t ∧ t.sbuf = s.sbuf ++ [x] ∧
        x.pa = pa ∧ x.size = e.2.1 ∧ x.data.toNat = e.2.2.2.2 ∧ x.core = s.th.core ∧ x.slot = s.th.slot ∧ x.ctx = s.th.cx ∧
        x.hyp = s.th.thyp ∧ x.kind = storeKindOf q ∧
        t.th = { s.th with pc := s.th.pc + 4, pass := false, mid := false, floor := t.th.floor } ∧ t.mem = s.mem ∧ t.peers = s.peers ∧
        t.regs = s.regs ∧ t.rest = s.rest)

/-- When the event STORE_PERFORM finds an entry that nothing keeps behind another, of a plain or .NT store under H0 to a
local address that no region governs, the entry leaves the buffer and its bytes hold its data in little-endian order; every
byte outside them, every tag and every full-empty bit is as before, and poison leaves a granule that a 16-byte store covers;
of a store to another module's address it is that module's bytes that change, and none of this one's. A .FES store to TCM or
scratchpad with no waiter sets its granule full. Every store of a control core, or of a thread to its own TCM, with nothing
buffered performs at once in the same way, in every size and form. A control core's store to a peripheral register that
holds plain bits is no memory write: it acts at once, the register takes the bits it has, every other register, every byte
of memory and the store buffer stay as they are. Performing at once is the model's reading (assumptions 13 and 16). (R8,
R148, R149, R153, R155, R157, R162, R174, R190, R453) -/
def Obligations.StoresPerform : Prop :=
  (∀ (s : State) (k : Nat) (x : StoreEntry), s.mem.wf → s.sbuf.find? (fun e => e.id = k && !e.isAtom) = some x →
    (x.kind = .plain ∨ x.kind = .nt ∨ x.kind = .fes ∧ s.feq = []) → s.canPerform x = true → s.isLocal x.pa = true → hypNum x.hyp = 0 →
    s.regionOf x.core x.ctx (offsetOf x.pa) = none → (s.cache.all fun l => !l.isDirty) = true → x.size ∈ [1, 2, 4, 8, 16] →
    ∃ t, exec (.storePerform k) s = .next t ∧ t.sbuf = s.sbuf.filter (fun e => e.id ≠ x.id) ∧ t.mem.wf ∧
      t.mem.read (offsetOf x.pa) x.size = x.data.toNat % 256 ^ x.size ∧
      (∀ a, (a < offsetOf x.pa ∨ offsetOf x.pa + x.size ≤ a) → t.mem.byte a = s.mem.byte a) ∧
      (∀ a, t.mem.tag a = s.mem.tag a) ∧
      (∀ a, t.mem.isFull a = if x.kind = .fes ∧ s.localHbm x.pa = false ∧ a / 16 = offsetOf x.pa / 16 then true else s.mem.isFull a) ∧
      (∀ a, t.mem.poisoned a = if x.size = 16 ∧ a / 16 = offsetOf x.pa / 16 then false else s.mem.poisoned a) ∧
      t.peers = s.peers ∧ t.th = s.th ∧ t.regs = s.regs) ∧
  (∀ (s : State) (k : Nat) (x : StoreEntry), s.peers.wf → s.sbuf.find? (fun e => e.id = k && !e.isAtom) = some x →
    (x.kind = .plain ∨ x.kind = .nt) → s.canPerform x = true → s.isLocal x.pa = false → x.size ∈ [1, 2, 4, 8, 16] →
    ∃ t, exec (.storePerform k) s = .next t ∧ t.sbuf = s.sbuf.filter (fun e => e.id ≠ x.id) ∧
      t.peers.read x.pa x.size = x.data.toNat % 256 ^ x.size ∧
      (∀ a, (a < x.pa ∨ x.pa + x.size ≤ a) → t.peers.byte a = s.peers.byte a) ∧ t.mem = s.mem ∧ t.th = s.th ∧ t.regs = s.regs) ∧
  (∀ (d b : Reg) (q : StoreQual) (o : BitVec 12) (s : State) (pa : Nat),
    let rows : List (Instr × Nat × Bool × Bool × Nat) :=
      [(.stB d b q o, 1, false, false, (s.gr d).toNat), (.stH d b q o, 2, false, false, (s.gr d).toNat),
       (.stW d b q o, 4, false, false, (s.gr d).toNat), (.stD d b q o, 8, true, false, (s.gr d).toNat),
       (.stfH d b q o, 2, false, false, (s.fr d).toNat), (.stfW d b q o, 4, false, false, (s.fr d).toNat),
       (.stfD d b q o, 8, false, false, (s.fr d).toNat),
       (.stp d b q o, 16, false, true, (s.gr d).toNat + 2 ^ 64 * (s.gr (d + 1)).toNat)]
    ∀ e ∈ rows, s.mem.wf → s.sbuf = [] →
      s.check (s.gr b) (effective (s.gr b) o e.2.1) (storeReq e.2.1 q e.2.2.1 e.2.2.2.1) = .ok pa → s.isLocal pa = true →
      spaceOf (offsetOf pa) ≠ .device → (s.th.onControl = true ∨ s.ownTcm pa = true) → hypNum s.th.thyp = 0 →
      (q = .fes → s.feq = []) → s.regionOf s.th.core s.th.cx (offsetOf pa) = none → (s.cache.all fun l => !l.isDirty) = true →
      s.tagSeen pa = BitVec.ofNat 4 ((s.gr b).toNat / 2 ^ 60) → s.anyWatch = false → s.th.st = .run →
      ∃ t, exec e.1 s = .next t ∧ t.th.pc = s.th.pc + 4 ∧ t.th.g = s.th.g ∧ t.th.f = s.th.f ∧ t.sbuf = [] ∧
        t.mem.read (offsetOf pa) e.2.1 = e.2.2.2.2 % 256 ^ e.2.1 ∧
        (∀ a, (a < offsetOf pa ∨ offsetOf pa + e.2.1 ≤ a) → t.mem.byte a = s.mem.byte a) ∧ (∀ a, t.mem.tag a = s.mem.tag a) ∧
        (∀ a, t.mem.isFull a = if q = .fes ∧ a / 16 = offsetOf pa / 16 then true else s.mem.isFull a) ∧
        (∀ a, t.mem.poisoned a = if e.2.1 = 16 ∧ a / 16 = offsetOf pa / 16 then false else s.mem.poisoned a) ∧
        t.peers = s.peers) ∧
  (∀ (d b : Reg) (o : BitVec 12) (s : State) (pa n : Nat) (r : DevReg) (w : Word),
    s.check (s.gr b) (effective (s.gr b) o 8) (storeReq 8 .plain true false) = .ok pa → s.isLocal pa = true →
    spaceOf (offsetOf pa) = .device → devReg (offsetOf pa) = some r → s.th.onControl = true → s.anyWatch = false →
    plainStored (s.gr d) r = some (n, w) → (∀ k q, r ≠ .fqbase k q) →
    ∃ t, exec (.stD d b .plain o) s = .next t ∧ t.th.pc = s.th.pc + 4 ∧ t.th.g = s.th.g ∧ t.th.f = s.th.f ∧ t.th.st = s.th.st ∧
      t.reg n = w ∧ (∀ m, m ≠ n → t.reg m = s.reg m) ∧ t.mem = s.mem ∧ t.peers = s.peers ∧ t.vers = s.vers ∧ t.cache = s.cache ∧
      t.sbuf = s.sbuf ∧ t.ctxs = s.ctxs)

/-- With no reduction fault pending a fence completes: one with a release part after the slot's buffered atomics within the
module, and from CLUSTER up its stores within the module, those it has read by forwarding and, at DOMAIN, those to other
modules, have left the buffer, and with no dirty line of the context left in its core's cache, a buffered store of the
thread standing in memory; one with an acquire part, with no flush of the core it left to wait for, drops in the scopes from
CLUSTER up the core's clean copies of lines of the context outside the regions held, and forfeits one turn on a barrel core;
no register but the pc changes. CFLX raises ACCESS for a dark site and otherwise waits while the site's copies are flushed,
and the acknowledgement lets the thread go on. CFLS leaves the core's copies of the line clean, CINV removes them: the dirty
bytes of the line then stand in memory, with those of a granule that one store has written whole, and no other byte changes;
of an address of another module they do nothing. PREF never faults: it walks the table for an address that the TLB does not
hold, waits where its access waits for a flush, fetches a copy of the line where its checks pass and the core has room, with
no comparison of tags, and is discarded where a check fails. What PREF, CFLS and CINV ask of the page, and which line a full
cache gives up, are the model's choices (assumption 14); the acknowledgement is an event of the model's tape (assumption 1).
(R159, R166, R178, R190, R196, R197, R438) -/
def Obligations.FencesAndFlushes : Prop :=
  ∀ (sc : Scope) (s : State) (a b : Reg) (o : BitVec 12) (h : PrefHint),
    let wide : Prop := sc = .cluster ∨ sc = .device ∨ sc = .domain
    (∀ u, u = s.releaseTo sc →
      ((u.th.onBarrel && u.pendingFault u.th.ctx) = false →
        exec (.fenceRel sc) s = .next (u.jumped (u.th.pc + 4)) ∧
        (u.awaitsFlush = false → ∃ t, exec (.fenceAr sc) s = .next t ∧ t.th.pc = u.th.pc + 4 ∧ t.th.g = u.th.g ∧ t.mem = u.mem ∧
          (¬ wide → t.cache = u.cache ∧ t.th.st = u.th.st))) ∧
      (s.sbuf.Pairwise (fun e f => e.id < f.id) → (∀ e ∈ s.sbuf, e.isTag = false) → (∀ x ∈ s.cache, x.tdirty = 0) →
        (∀ e ∈ u.sbuf, e ∈ s.sbuf) ∧
        (∀ e ∈ u.sbuf, ofSlot s.th e = true → e.isAtom = true → s.isLocal e.pa = false) ∧
        (wide → (∀ e ∈ u.sbuf, (ofSlot s.th e = true ∨ e.id ∈ s.th.fwd) → sc ≠ .domain ∧ s.isLocal e.pa = false) ∧
          (∀ x ∈ u.cache, x.core = s.th.core → x.ctx = s.th.cx → x.isDirty = false))) ∧
      (∀ x, wide → s.mem.wf → s.sbuf = [x] → ofSlot s.th x = true → x.kind = .plain → x.size ∈ [1, 2, 4, 8, 16] →
        s.isLocal x.pa = true → hypNum x.hyp = 0 → s.regionOf x.core x.ctx (offsetOf x.pa) = none →
        (s.cache.all fun l => !l.isDirty) = true →
        u.sbuf = [] ∧ u.mem.read (offsetOf x.pa) x.size = x.data.toNat % 256 ^ x.size ∧
          ∀ a, (a < offsetOf x.pa ∨ offsetOf x.pa + x.size ≤ a) → u.mem.byte a = s.mem.byte a)) ∧
    ((s.th.onBarrel && s.pendingFault s.th.ctx) = false → s.awaitsFlush = false →
      ∃ t, exec (.fenceAcq sc) s = .next t ∧ t.th.pc = s.th.pc + 4 ∧ t.th.g = s.th.g ∧ t.th.f = s.th.f ∧ t.mem = s.mem ∧
        t.sbuf = s.sbuf ∧ (¬ wide → t.cache = s.cache ∧ t.th.st = s.th.st) ∧
        (wide → (∀ x ∈ t.cache, x ∈ s.cache) ∧ (∀ x ∈ s.cache, x.isDirty = true → x ∈ t.cache) ∧
          (∀ x ∈ s.cache, x.core ≠ s.th.core → x ∈ t.cache) ∧
          (∀ x ∈ t.cache, x.core = s.th.core → x.ctx = s.th.cx → x.isDirty = false →
            (s.regionOf s.th.core s.th.cx (x.line * 64)).isSome = true) ∧
          (s.th.onBarrel = true → t.th.st = .wait ∧ t.th.wait = .turns 1))) ∧
    (∀ n : Fin 1024, n.val = (s.gr a).toNat % 1024 →
      ((s.site n).isDark = true → exec (.cflx a) s = .next (s.deliver (s.recordOf 0x0C (s.gr a) 0 0 0))) ∧
      ((s.site n).isDark = false →
        let f : Flush := { target := .site n, ctx := s.th.cx, tid := s.th.id, place := s.th.place, auto := false
                           way := { src := s.th.key, dst := siteKey n, num := s.clock } }
        let w : State := { s with
          th := { s.th with st := .wait, wait := .flush, mid := true }, flushes := s.flushes ++ [f], clock := s.clock + 1 }
        exec (.cflx a) s = .next w ∧
        (w.overtakes f.way = false → (∀ e ∈ s.sbuf, e.core ≠ .site n) → ∃ t, exec (.flushAckArrive s.flushes.length) w = .next t ∧ t.th.pc = s.th.pc + 4 ∧
          t.th.st = .run ∧ t.flushes = s.flushes ∧ (∀ x ∈ t.cache, x.core = .site n → x.ctx ≠ s.th.cx)))) ∧
    (∀ ea, ea = effective (s.gr b) o 64 →
      (∀ e, s.check (s.gr b) ea (prefReq h) = .error e → (∀ w, e ≠ .wait w) → exec (.pref h b o) s = .next (s.jumped (s.th.pc + 4))) ∧
      (∀ addr va level table why, s.check (s.gr b) ea (prefReq h) = .error (.wait (.walk addr va level table why)) →
        exec (.pref h b o) s = .next { s with th := { s.th with
          st := .wait, wait := .walk (withTop (s.gr b) ea) va level table .prefetch, mid := true } }) ∧
      (s.check (s.gr b) ea (prefReq h) = .error (.wait .flush) →
        exec (.pref h b o) s = .next { s with th := { s.th with st := .wait, wait := .flush, mid := true } }) ∧
      (∀ pa, s.check (s.gr b) ea (prefReq h) = .ok pa →
        ((s.localHbm pa = false ∨ s.poisonSeen pa = true) → exec (.pref h b o) s = .next (s.jumped (s.th.pc + 4))) ∧
        (s.localHbm pa = true → s.poisonSeen pa = false →
          (s.cache.filter fun x => decide (x.core = s.th.core)).length < s.th.core.lines →
          ∃ t, exec (.pref h b o) s = .next t ∧ t.th = { s.th with pc := s.th.pc + 4, pass := false, mid := false } ∧ t.mem = s.mem ∧
            t.sbuf = s.sbuf ∧ (∀ x ∈ s.cache, x ∈ t.cache) ∧
            (t.cached s.th.core s.th.cx (offsetOf pa / 64) s.th.thyp).isSome = true))) ∧
    (∀ w pa va r, s.check (s.gr b) (effective (s.gr b) o 64) (cacheReq 1 false) = .error (.wait (.remote w pa va r)) →
      exec (.cfls b o) s = .next (s.jumped (s.th.pc + 4)) ∧ exec (.cinv b o) s = .next (s.jumped (s.th.pc + 4))) ∧
    (∀ pa, s.check (s.gr b) (effective (s.gr b) o 64) (cacheReq 1 false) = .ok pa →
      let line := offsetOf pa / 64
      let own (x : CacheLine) : Prop := x.core = s.th.core ∧ x.ctx = s.th.cx ∧ x.line = line
      ∃ t u, exec (.cfls b o) s = .next t ∧ exec (.cinv b o) s = .next u ∧
        t.th = { s.th with pc := s.th.pc + 4, pass := false, mid := false } ∧ u.th = t.th ∧
        (s.localHbm pa = true → s.sbuf = [] →
          t.cache.length = s.cache.length ∧ (∀ x ∈ t.cache, own x → x.isDirty = false) ∧ (∀ x ∈ u.cache, ¬ own x)) ∧
        (s.localHbm pa = false → s.sbuf = [] → t.cache = s.cache ∧ u.cache = s.cache ∧ t.mem = s.mem ∧ u.mem = s.mem) ∧
        (∀ x ∈ s.cache, s.mem.wf → s.localHbm pa = true → s.sbuf = [] → own x → hypNum x.hyp = 0 → x.isDirty = true →
          (∀ y ∈ s.cache, own y → y = x) → s.cache.Nodup →
          let written (i : Nat) : Prop := x.dirty.getLsbD i = true ∨ x.whole.getLsbD (i / 16) = true
          ∀ m, m = t.mem ∨ m = u.mem →
            (∀ i, i < 64 → written i → m.byte (line * 64 + i) = x.data.extractLsb' (8 * i) 8) ∧
            ∀ a, (a / 64 = line → ¬ written (a % 64)) → m.byte a = s.mem.byte a) ∧
        (s.sbuf = [] → (∀ x ∈ s.cache, own x → x.isDirty = false) → t.mem = s.mem ∧ u.mem = s.mem))

/-- TGLD whose checks pass writes the granule's tag to g[d] with no comparison; TGST under H0 with nothing to wait for and
no watchpoint takes a buffer entry that sets the tag when it performs, and where a control core executes it with nothing
buffered the tag is set at once and no byte of memory changes. VISIT of an address with no owning site, neither a MIG page's
nor a TCM's, of the thread's own site, in a handler or on a control core only moves the pc, and so does one of another
module's address, without waiting for a response; a dark owning site raises ACCESS; else the thread waits for a landing at
the site, and a landing that is granted puts it into a caravan with the pc at the next instruction. That a control core's
TGST acts at once is the model's reading (assumptions 13 and 16), and so is the order of messages by interface pair
(assumption 17). (R18, R159, R161, R170, R171, R145) -/
def Obligations.TagsAndMigration : Prop :=
  ∀ (d b : Reg) (o : BitVec 12) (s : State) (pa : Nat),
    (s.check (s.gr b) (effective (s.gr b) o 16) (tagReq false) = .ok pa →
      exec (.tgld d b o) s = .next (s.afterG d (BitVec.ofNat 64 (s.tagSeen pa).toNat))) ∧
    (s.check (s.gr b) (effective (s.gr b) o 16) (tagReq true) = .ok pa → s.anyWatch = false → hypNum s.th.thyp = 0 →
      s.tokenNeeded pa = none → s.bufferFull = false →
      (s.th.onBarrel = true → s.ownTcm pa = false → ∃ t x, exec (.tgst d b o) s = .next t ∧ t.sbuf = s.sbuf ++ [x] ∧ x.pa = pa ∧
        x.kind = .tag (BitVec.ofNat 4 (s.gr d).toNat) ∧ t.th = { s.th with pc := s.th.pc + 4, pass := false, mid := false } ∧ t.mem = s.mem) ∧
      (s.th.onControl = true → s.sbuf = [] → s.mem.wf → s.isLocal pa = true → s.regionOf s.th.core s.th.cx (offsetOf pa) = none →
        (s.cache.all fun l => !l.isDirty) = true →
        ∃ t, exec (.tgst d b o) s = .next t ∧ t.mem = s.mem.setTag (offsetOf pa) (BitVec.ofNat 4 (s.gr d).toNat) ∧
          t.th.pc = s.th.pc + 4 ∧ t.th.g = s.th.g)) ∧
    (∀ ea, ea = effective (s.gr b) o 1 →
      s.check (s.gr b) ea { cacheReq 1 false with rd := false } = .ok pa →
      ((s.th.onBarrel = false ∨ s.th.intrap = true ∨ s.th.pass = true) → exec (.visit b o) s = .next (s.jumped (s.th.pc + 4))) ∧
      (∀ leaf n, s.translate ea false = .ok (pa, leaf) → s.th.onBarrel = true → s.th.intrap = false → s.th.pass = false →
        (pteMig leaf = true ∧ n = pteOwn leaf ∨
          pteMig leaf = false ∧ s.isLocal pa = true ∧ spaceOf (offsetOf pa) = .tcm ∧ n = tcmSite (offsetOf pa)) →
        ((s.site n).isDark = true → n ≠ s.th.site →
          exec (.visit b o) s = .next (s.deliver (s.recordOf 0x0C (withTop (s.gr b) ea) 0 0 0))) ∧
        (n = s.th.site → exec (.visit b o) s = .next (s.jumped (s.th.pc + 4))) ∧
        (∀ m : Fin 1024, m.val = n → n ≠ s.th.site → (s.site n).isDark = false →
          let l : Landing := { place := s.th.place, target := m, grant := none, visit := true, stamp := s.stamp s.th.key
                               way := { src := s.th.key, dst := siteKey n, num := s.clock } }
          exec (.visit b o) s = .next { s with
            th := { s.th with st := .wait, wait := .landing, mid := true }, land := s.land ++ [l], clock := s.clock + 1 })) ∧
      (∀ leaf, s.translate ea false = .ok (pa, leaf) → s.th.onBarrel = true → pteMig leaf = false →
        (s.isLocal pa = false ∨ spaceOf (offsetOf pa) ≠ .tcm) → exec (.visit b o) s = .next (s.jumped (s.th.pc + 4)))) ∧
    (∀ ea w va r, ea = effective (s.gr b) o 1 →
      s.check (s.gr b) ea { cacheReq 1 false with rd := false } = .error (.wait (.remote w pa va r)) →
      exec (.visit b o) s = .next (s.jumped (s.th.pc + 4))) ∧
    (∀ k l (j : Fin 16), s.land[k]? = some l → l.grant = some (some j) → l.visit = true → s.overtakes l.way = false → s.th.place = l.place →
      s.th.wait = .landing → s.th.onBarrel = true → s.sbuf = [] →
      ∃ t, exec (.landingReplyArrive k) s = .next t ∧ t.th.place = .caravan l.target j ∧ t.th.pc = s.th.pc + 4 ∧ t.th.g = s.th.g)

/-- An address that no region governs raises TOKREG, with the operand in ADDR; a thread or control core that holds the
region's token completes TKAQ at once, one that does not sends a request and waits; the request of a free token makes the
requester the holder and sends it the grant, and the grant that arrives lets it go on at the next instruction, the token's
holder, its access performed; TKHD of one that does not hold the token raises TOKHOLD, of one that names itself changes no
token, and of one that names another live thread, with nothing pending, makes that one the holder; no general register
changes. Control cores as holders and the order of messages by interface pair are the model's readings (assumptions 13 and
17). (R191, R192, R193, R194) -/
def Obligations.RegionTokens : Prop :=
  ∀ (a b : Reg) (s : State) (pa : Nat), s.check (s.gr a) ((s.gr a).toNat % 2 ^ 52) tokenReq = .ok pa → s.localHbm pa = true →
    (s.regionOf s.th.core s.th.cx (offsetOf pa) = none →
      exec (.tkaq a) s = .next (s.deliver (s.recordOf 0x15 (s.gr a) 0 0 0)) ∧
      exec (.tkhd a b) s = .next (s.deliver (s.recordOf 0x15 (s.gr a) 0 0 0))) ∧
    (∀ r, s.regionOf s.th.core s.th.cx (offsetOf pa) = some r →
      (s.awaitsFlush = false → (s.token s.th.cx r).holder = some s.th.holder →
        ∃ t, exec (.tkaq a) s = .next t ∧ t.th = { s.th with pc := s.th.pc + 4, pass := false, mid := false } ∧ t.mem = s.mem ∧
          t.ctxs = s.ctxs) ∧
      (s.awaitsFlush = false → (s.token s.th.cx r).holder ≠ some s.th.holder →
        exec (.tkaq a) s = .next { s with
          th := { s.th with st := .wait, wait := .token r true (s.gr a), mid := true }, clock := s.clock + 1
          tokmsgs := s.tokmsgs ++ [.request s.th.cx r s.th.holder s.th.place false
            { src := s.th.key, dst := s.tokenKey s.th.cx r, num := s.clock }] }) ∧
      ((s.token s.th.cx r).holder ≠ some s.th.holder →
        exec (.tkhd a b) s = .next (s.deliver (s.recordOf 0x16 (s.gr a) 0 0 0))) ∧
      ((s.token s.th.cx r).holder = some s.th.holder → (s.token s.th.cx r).site = none → s.sbuf = [] → s.cache = [] →
        (s.th.onBarrel && s.pendingFault s.th.ctx) = false → Holder.thread ((s.gr b).setWidth 24) = s.th.holder →
        ∃ t, exec (.tkhd a b) s = .next t ∧ t.ctxs = s.ctxs ∧ t.th.pc = s.th.pc + 4 ∧ t.th.g = s.th.g ∧ t.mem = s.mem) ∧
      (∀ u, (s.token s.th.cx r).holder = some s.th.holder → (s.token s.th.cx r).site = none → s.sbuf = [] → s.cache = [] →
        (s.th.onBarrel && s.pendingFault s.th.ctx) = false → Holder.thread ((s.gr b).setWidth 24) ≠ s.th.holder →
        s.findTid s.th.cx ((s.gr b).setWidth 24) = some u →
        ∃ t, exec (.tkhd a b) s = .next t ∧ (t.token s.th.cx r).holder = some (.thread ((s.gr b).setWidth 24)) ∧
          t.th.pc = s.th.pc + 4 ∧ t.th.g = s.th.g ∧ t.mem = s.mem) ∧
      (∀ k p w u who st, s.tokmsgs[k]? = some (.request s.th.cx r who p st w) → s.overtakes w = false →
        s.findHolder s.th.cx who = some u → s.takesGrants u = true → (s.token s.th.cx r).holder = none →
        ∃ t w', exec (.tokenRequestArrive k) s = .next t ∧ (t.token s.th.cx r).holder = some who ∧
          (t.token s.th.cx r).site = some u.core ∧ (t.token s.th.cx r).used = false ∧
          t.tokmsgs = s.tokmsgs.eraseIdx k ++ [.grant s.th.cx r who p w'] ∧ t.mem = s.mem) ∧
      (∀ k p w, s.th.wait = .token r true (s.gr a) → s.tokmsgs[k]? = some (.grant s.th.cx r s.th.holder p w) →
        s.overtakes w = false → s.findHolder s.th.cx s.th.holder = some s.th → (s.token s.th.cx r).holder = some s.th.holder →
        s.takesGrants s.th = true → s.th.resident = true →
        ∃ t, exec (.tokenGrantArrive k) s = .next t ∧ (t.token s.th.cx r).holder = some s.th.holder ∧
          (t.token s.th.cx r).used = true ∧ t.th.pc = s.th.pc + 4 ∧ t.th.st = .run ∧ t.th.g = s.th.g ∧
          t.tokmsgs = s.tokmsgs.eraseIdx k))

/-- With the checks passed, the pointer's tag at the home, no poison, H0, nothing buffered, no dirty copy, no token to wait
for and no watchpoint: a returning atomic writes the old value, sign-extended or for the N forms zero-extended, to g[d] and
the operation's result to memory, CAS the old value where the compare fails, with every other byte unchanged; the
non-returning one takes a buffer entry with no register written, and the event ATOMIC_APPLY makes the same change of memory.
The F32 forms add under RNE and raise the addition's flags in the returning form. (R199, R200, R201, R202, R203) -/
def Obligations.Atomics : Prop :=
  ∀ (d a b c : Reg) (z : AtomSize) (s : State) (pa n : Nat), (n = match z with | .w => 4 | .d => 8) →
    s.mem.wf → s.sbuf = [] → (s.cache.all fun l => !l.isDirty) = true → s.anyWatch = false → hypNum s.th.thyp = 0 →
    s.isLocal pa = true → s.tokenNeeded pa = none → s.tagHome pa = BitVec.ofNat 4 ((s.gr a).toNat / 2 ^ 60) →
    s.poisonHome s.th.cx s.th.thyp pa = false →
    let m : Nat := 256 ^ n
    let y : Nat := (s.gr b).toNat % m
    let e : Nat := (s.gr c).toNat % m
    let sg (v : Nat) : Int := (BitVec.ofNat (8 * n) v).toInt
    let old : Nat := s.mem.read (offsetOf pa) n
    let back (signed : Bool) : Word := if signed then BitVec.ofInt 64 (sg old) else BitVec.ofNat 64 old
    let changed (t : State) (v : Nat) : Prop := t.mem.read (offsetOf pa) n = v ∧
      (∀ k, (k < offsetOf pa ∨ offsetOf pa + n ≤ k) → t.mem.byte k = s.mem.byte k) ∧ (∀ k, t.mem.tag k = s.mem.tag k) ∧
      (∀ k, t.mem.isFull k = s.mem.isFull k) ∧ t.peers = s.peers
    let returns (i : Instr) (signed : Bool) (v : Nat) (fl : BitVec 5) : Prop :=
      s.check (s.gr a) ((s.gr a).toNat % 2 ^ 52) (atomReq n) = .ok pa →
      ∃ t, exec i s = .next t ∧ changed t v ∧ t.th = { (s.th.setG d (back signed)) with
        pc := s.th.pc + 4, pass := false, mid := false, floor := t.th.floor, tflags := s.th.tflags ||| fl.setWidth 64 }
    let posts (i : Instr) (v : Nat) : Prop :=
      s.check (s.gr a) ((s.gr a).toNat % 2 ^ 52) { atomReq n with posted := true } = .ok pa → s.th.onBarrel = true →
      ∃ t x u, exec i s = .next t ∧ t.sbuf = [x] ∧ x.pa = pa ∧ t.mem = s.mem ∧ t.th = { s.th with pc := s.th.pc + 4, pass := false, mid := false } ∧
        exec (.atomicApply x.id) t = .next u ∧ u.sbuf = [] ∧ changed u v ∧ u.th = t.th
    let both (i j : Instr) (signed : Bool) (v : Nat) : Prop := returns i signed v 0 ∧ posts j v
    both (.aaddR d a b z) (.aadd a b z) true ((old + y) % m) ∧
    both (.aandR d a b z) (.aand a b z) true (old &&& y) ∧
    both (.aorR d a b z) (.aor a b z) true (old ||| y) ∧
    both (.axorR d a b z) (.axor a b z) true (old ^^^ y) ∧
    both (.aminR d a b z) (.amin a b z) true (if sg old ≤ sg y then old else y) ∧
    both (.amaxR d a b z) (.amax a b z) true (if sg y ≤ sg old then old else y) ∧
    both (.aminnR d a b z) (.aminn a b z) false (min old y) ∧
    both (.amaxnR d a b z) (.amaxn a b z) false (max old y) ∧
    both (.aswpR d a b z) (.aswp a b z) true y ∧
    both (.acasR d a b z c) (.acas a b z c) true (if old = e then y else old) ∧
    (z = .w → ∀ v, v = addData (fmtOf .f32) .rne false (unpack (fmtOf .f32) old) (unpack (fmtOf .f32) y) →
      returns (.afaddRF32 d a b) false v.1 v.2 ∧ posts (.afaddF32 a b) v.1)

/-- On a well-formed ring control block in local TCM or scratchpad, with the checks and tags passed, H0 and nothing to wait
for: ACQS of a ring that is not full writes the next slot's pointer, marks the slot acquired and advances RSV, and of a full
ring writes 0 and changes no memory; CMTS turns an acquired slot into a committed one; PEKS of a ring whose next slot is
committed writes its pointer, marks it taken and advances CNS, else writes 0; RELS frees a taken slot and advances RLS past
every free one; CMTS of a slot that is not acquired, RELS of one that is not taken, and both of an address that is no slot
raise RINGSTATE with memory as before. (R209, R210, R211, R212) -/
def Obligations.Rings : Prop :=
  ∀ (d a b : Reg) (s : State) (pa : Nat) (r : Ring), r = s.readRing pa → r.bad = false → s.mem.wf → s.sbuf = [] → s.cache = [] →
    s.th.fwd = [] → (s.th.onBarrel && s.pendingFault s.th.ctx) = false → s.awaitsFlush = false → s.anyWatch = false →
    hypNum s.th.thyp = 0 → s.isLocal pa = true → hasFull pa = true → s.ringTags (s.gr a) pa = none →
    s.check (s.gr a) ((s.gr a).toNat % 2 ^ 52) ringReq = .ok pa →
    let gives (i : Instr) (v : Option Word) (x : Ring) : Prop := ∃ t, exec i s = .next t ∧ t.readRing pa = x ∧
      t.th.pc = s.th.pc + 4 ∧ t.th.f = s.th.f ∧
      (∀ k, t.gr k = match v with | some w => if k = d ∧ d ≠ 0 then w else s.gr k | none => s.gr k) ∧
      (∀ k, (k < offsetOf pa + 16 ∨ offsetOf pa + 56 ≤ k) → t.mem.byte k = s.mem.byte k)
    let j := s.gr b
    (gap32 r.rsv r.rls < r.count →
      gives (.acqs d a) (some (r.pointer r.rsv)) { r.setState (r.rsv % r.count) 1 with rsv := (r.rsv + 1) % 2 ^ 32 }) ∧
    (r.count ≤ gap32 r.rsv r.rls → gives (.acqs d a) (some 0) r) ∧
    (∀ k, r.indexOf (j.toNat % 2 ^ 52) = some k → r.state k = 1 → gives (.cmts a b) none (r.setState k 2)) ∧
    (r.cns ≠ r.rsv → r.state (r.cns % r.count) = 2 →
      gives (.peks d a) (some (r.pointer r.cns)) { r.setState (r.cns % r.count) 3 with cns := (r.cns + 1) % 2 ^ 32 }) ∧
    ((r.cns = r.rsv ∨ r.state (r.cns % r.count) ≠ 2) → gives (.peks d a) (some 0) r) ∧
    (∀ k, r.indexOf (j.toNat % 2 ^ 52) = some k → r.state k = 3 → gives (.rels a b) none ((r.setState k 0).advanceRls 64)) ∧
    (∀ k, r.indexOf (j.toNat % 2 ^ 52) = some k → r.state k ≠ 1 →
      exec (.cmts a b) s = .next (s.deliver (s.recordOf 0x17 (s.gr a) 0 0 0))) ∧
    (∀ k, r.indexOf (j.toNat % 2 ^ 52) = some k → r.state k ≠ 3 →
      exec (.rels a b) s = .next (s.deliver (s.recordOf 0x17 (s.gr a) 0 0 0))) ∧
    (s.deliver (s.recordOf 0x17 (s.gr a) 0 0 0)).readRing pa = r ∧
    (r.indexOf (j.toNat % 2 ^ 52) = none → exec (.cmts a b) s = .next (s.deliver (s.recordOf 0x17 (s.gr a) 0 0 0)) ∧
      exec (.rels a b) s = .next (s.deliver (s.recordOf 0x17 (s.gr a) 0 0 0)))

/-- BARA of a disabled barrier raises BAROFF and a second arrival before the release BARSEQ; otherwise, with nothing
buffered, the arrival of a barrel thread counts for its core in the open phase while fewer than CNT have, and the thread
remembers the phase; one of a core whose count is full is kept with its stamp for the following phases, and the thread
remembers the phase that the count staged at that moment gives; one of a control core counts for no core. BARW without an
arrival gives status 2, after the release 0 and forgets the arrival, past a nonzero limit 1, else waits. BARS reads the
report of the last released phase. The event BARRIER_RELEASE opens the next phase of a complete one with the staged mask and
count. WTFE of a full granule writes 0, past its nonzero limit 1 with its waiter withdrawn, and else waits, recorded at the
home while fewer than 64 waiters are. The phase of an arrival counted ahead and the control core's arrival are the model's
choices (assumptions 13 and 18). (R213, R214, R215, R216, R217, R219, R220, R221) -/
def Obligations.BarriersAndTimedWaits : Prop :=
  ∀ (d a b : Reg) (s : State) (c : Fin 16) (k : Fin 4) (x : Barrier) (now : Word), c = s.th.cx → k.val = (s.gr a).toNat % 4 → x = s.bar c k →
    now = s.tnow s.th → s.th.st = .run → s.th.wait = .none →
    (x.en = false → exec (.bara a) s = .next (s.deliver (s.recordOf 0x19 0 0 0 0))) ∧
    (x.en = true → s.th.av[k] = true → x.released s.th.aph[k] = false →
      exec (.bara a) s = .next (s.deliver (s.recordOf 0x1A 0 0 0 0))) ∧
    (x.en = true → (s.th.av[k] = false ∨ x.released s.th.aph[k] = true) → s.sbuf = [] → s.cache = [] → s.th.onBarrel = true →
      s.pendingFault s.th.ctx = false → tget 0 x.arr s.th.site < x.cnt →
      ∃ t, exec (.bara a) s = .next t ∧ tget 0 (t.bar c k).arr s.th.site = tget 0 x.arr s.th.site + 1 ∧
        (∀ n, n ≠ s.th.site → tget 0 (t.bar c k).arr n = tget 0 x.arr n) ∧ (t.bar c k).phase = x.phase ∧
        t.th.av[k] = true ∧ t.th.aph[k] = x.phase ∧ t.th.pc = s.th.pc + 4 ∧ t.th.g = s.th.g ∧ t.mem = s.mem) ∧
    (x.en = true → (s.th.av[k] = false ∨ x.released s.th.aph[k] = true) → s.sbuf = [] → s.cache = [] → s.th.onBarrel = true →
      s.pendingFault s.th.ctx = false → x.cnt ≤ tget 0 x.arr s.th.site →
      ∃ t, exec (.bara a) s = .next t ∧ (t.bar c k).arr = x.arr ∧ (t.bar c k).phase = x.phase ∧
        tget [] (t.bar c k).ahead s.th.site = tget [] x.ahead s.th.site ++ [s.time (coreField s.th.core)] ∧
        t.th.av[k] = true ∧ t.th.aph[k] = x.phase + 1 + BitVec.ofNat 32 ((tget [] x.ahead s.th.site).length / x.cntN) ∧
        t.th.pc = s.th.pc + 4 ∧ t.th.g = s.th.g ∧ t.mem = s.mem) ∧
    (x.en = true → (s.th.av[k] = false ∨ x.released s.th.aph[k] = true) → s.sbuf = [] → s.cache = [] → s.th.onControl = true →
      ∃ t, exec (.bara a) s = .next t ∧ t.bar c k = x ∧ t.th.av[k] = true ∧ t.th.aph[k] = x.phase ∧ t.th.pc = s.th.pc + 4 ∧
        t.th.g = s.th.g ∧ t.mem = s.mem) ∧
    ((s.th.av[k] = false ∨ x.en = false) →
      exec (.barw d a b) s = .next (s.afterG d (BitVec.ofNat 64 (s.th.aph[k].toNat * 2 ^ 32 + 2)))) ∧
    (s.th.av[k] = true → x.en = true →
      (x.released s.th.aph[k] = true → s.awaitsFlush = false → ∃ t, exec (.barw d a b) s = .next t ∧ t.th.av[k] = false ∧
        (∀ r, t.gr r = if r = d ∧ d ≠ 0 then BitVec.ofNat 64 (s.th.aph[k].toNat * 2 ^ 32) else s.gr r) ∧
        t.th.pc = s.th.pc + 4 ∧ t.mem = s.mem) ∧
      (x.released s.th.aph[k] = false → s.gr b ≠ 0 → (s.gr b).toNat ≤ now.toNat →
        exec (.barw d a b) s = .next (s.afterG d (BitVec.ofNat 64 (s.th.aph[k].toNat * 2 ^ 32 + 1)))) ∧
      (x.released s.th.aph[k] = false → (s.gr b = 0 ∨ now.toNat < (s.gr b).toNat) →
        exec (.barw d a b) s = .next { s with th := { s.th with st := .wait, wait := .barrier d k (s.gr b), mid := true } })) ∧
    (∃ t, exec (.bars d a) s = .next t ∧ t.th.pc = s.th.pc + 4 ∧ t.mem = s.mem ∧
      (∀ r, t.gr r = if r = d ∧ d ≠ 0 then x.reportWord ((s.gr a).toNat / 4 % 4) else s.gr r)) ∧
    (x.ready = true → ∃ t, exec (.barrierRelease c k) s = .next t ∧ (t.bar c k).phase = x.phase + 1 ∧ (t.bar c k).mask = x.maskN ∧
      (t.bar c k).cnt = x.cntN ∧ (t.bar c k).repV = true ∧ (t.bar c k).repPh = x.phase ∧ t.mem = s.mem) ∧
    (∀ pa, s.check (s.gr a) ((s.gr a).toNat % 2 ^ 52) wtfeReq = .ok pa → s.awaitsFlush = false → s.sbuf = [] →
      s.tagSeen pa = BitVec.ofNat 4 ((s.gr a).toNat / 2 ^ 60) → s.poisonHome s.th.cx s.th.thyp pa = false →
      (s.fullHome pa = true → ∃ t, exec (.wtfe d a b) s = .next t ∧ t.th.st = .run ∧ t.th.pc = s.th.pc + 4 ∧ t.mem = s.mem ∧
        (∀ r, t.gr r = if r = d ∧ d ≠ 0 then 0 else s.gr r)) ∧
      (s.fullHome pa = false → (s.gr b = 0 ∨ now.toNat < (s.gr b).toNat) → ∃ t, exec (.wtfe d a b) s = .next t ∧ t.th.st = .wait ∧
        t.th.pc = s.th.pc ∧ t.th.g = s.th.g ∧ t.mem = s.mem ∧
        t.feq = if s.recordedAt pa < 64 then s.feq ++ [(pa / 16, .thread s.th.place, false)] else s.feq) ∧
      (s.fullHome pa = false → s.gr b ≠ 0 → (s.gr b).toNat ≤ now.toNat → ∃ t, exec (.wtfe d a b) s = .next t ∧ t.th.st = .run ∧
        t.th.pc = s.th.pc + 4 ∧ t.mem = s.mem ∧ (∀ r, t.gr r = if r = d ∧ d ≠ 0 then 1 else s.gr r) ∧
        t.feq = s.feq.filter fun e => decide (e.2.1 ≠ .thread s.th.place)))

/-- HGET reads the thread's handle and HSET takes a live one and raises ORPHAN for another. With the controller idle, HNEW
of a live parent of depth below 8 makes the lowest free number live under the parent with the next generation and writes its
handle, and writes the error words otherwise; HSTAT writes the state word; HREF of a live handle other than H0, with nothing
buffered or cached, makes it REFUTING while the thread waits, and HREF_DISCARD then frees it, drops its versions, leaves
memory unchanged and lets the thread go on; HCONF of one whose parent is H0, on a control core and on a barrel core with no
reduction fault pending, with nothing buffered or cached and no thread under it, makes it CONFIRMING, and HCONF_MERGE puts
its one version, if there is one, into memory, changes no other byte, records it confirmed and lets the thread go on. HWAIT
completes at once with 0 for a confirmed, 2 for a refuted and 3 for a stale or unused handle, 1 past a nonzero limit, else
waits; while another request is first, each waits for the controller. The merge and the discard in one step are the model's
reading (assumption 20). (R258, R259, R260, R266, R267, R268, R269, R270, R271, R274, R275) -/
def Obligations.Hypotheses : Prop :=
  ∀ (d a b : Reg) (s : State) (c : Fin 16) (h : Handle), c = s.th.cx → h = canonHandle ((s.gr a).setWidth 32) →
    exec (.hget d) s = .next (s.afterG d (BitVec.ofNat 64 s.th.thyp.toNat)) ∧
    (s.liveHyp c h = true → exec (.hset a) s = .next (s.afterTh { s.th with thyp := h })) ∧
    (s.liveHyp c h = false → ∃ r, r = s.recordOf 0x1B 0 (BitVec.ofNat 64 ((s.gr a).toNat % 2 ^ 32)) 0 0 ∧
      exec (.hset a) s = .next (s.deliver r)) ∧
    ((s.ctx c).hypQ ≠ [] → ∀ i ∈ [Instr.hnew d a, .hstat d a, .href a, .hconf a], (i = .href a ∨ i = .hconf a → s.sbuf = [] ∧ s.cache = []) →
      (i = .hconf a → (s.th.onBarrel && s.pendingFault s.th.ctx) = false) →
      ∃ t q, exec i s = .next t ∧ t.th.st = .wait ∧ t.th.pc = s.th.pc ∧ (t.ctx c).hypQ = (s.ctx c).hypQ ++ [((s.ctx c).hypSer, q)] ∧
        t.th.wait = .hyp (s.ctx c).hypSer ∧ t.mem = s.mem) ∧
    ((s.ctx c).hypQ = [] →
      let writes (i : Instr) (v : Word) : Prop := ∃ t, exec i s = .next t ∧ t.th.st = .run ∧ t.th.pc = s.th.pc + 4 ∧ t.mem = s.mem ∧
        (∀ r, t.gr r = if r = d ∧ d ≠ 0 then v else s.gr r) ∧ (t.ctx c).hypQ = []
      (s.liveHyp c h = false → writes (.hnew d a) 0x8000000000000002) ∧
      (s.liveHyp c h = true → s.hypDepth c h = 8 → writes (.hnew d a) 0x8000000000000003) ∧
      (s.liveHyp c h = true → s.hypDepth c h < 8 → (∀ n, 0 < n → n < 256 → (s.hyp c n).st ≠ .free) →
        writes (.hnew d a) 0x8000000000000001) ∧
      (∀ n, s.liveHyp c h = true → s.hypDepth c h < 8 → 0 < n → n < 256 → (s.hyp c n).st = .free →
        (∀ m, 0 < m → m < n → (s.hyp c m).st ≠ .free) →
        ∃ g : BitVec 16, (g = if (s.hyp c n).gen = 65535 then 1 else (s.hyp c n).gen + 1) ∧
          writes (.hnew d a) (BitVec.ofNat 64 (g.toNat * 65536 + n)) ∧
          ∃ t, exec (.hnew d a) s = .next t ∧ t.liveHyp c (handleOf g n) = true ∧ (t.hyp c n).parent = h ∧
            (t.hyp c n).depth = s.hypDepth c h + 1) ∧
      writes (.hstat d a) (s.hypStatus c ((s.gr a).setWidth 32)) ∧
      (hypNum h ≠ 0 → s.liveHyp c h = true → s.sbuf = [] → s.cache = [] →
        (∃ t u, exec (.href a) s = .next t ∧ t.th.st = .wait ∧ t.th.pc = s.th.pc ∧ t.mem = s.mem ∧ (t.hyp c (hypNum h)).st = .refuting ∧
          exec (.hrefDiscard c) t = .next u ∧ u.th.st = .run ∧ u.th.pc = s.th.pc + 4 ∧ u.th.g = s.th.g ∧ u.mem = s.mem ∧
          u.liveHyp c h = false ∧ (u.hyp c (hypNum h)).st = .free ∧ ∀ v ∈ u.vers, v ∈ s.vers ∧ ¬(v.ctx = c ∧ v.hyp = h)) ∧
        (s.parentHyp c h = 0 → s.mem.wf → (s.th.onBarrel && s.pendingFault s.th.ctx) = false → (∀ u ∈ s.threads, u.thyp ≠ h) →
          (s.vers = [] ∨ ∃ v, s.vers = [v] ∧ v.ctx = c ∧ v.hyp = h) →
          ∃ t u, exec (.hconf a) s = .next t ∧ t.th.st = .wait ∧ t.th.pc = s.th.pc ∧ (t.hyp c (hypNum h)).st = .confirming ∧
            exec (.hconfMerge c) t = .next u ∧ u.th.st = .run ∧ u.th.pc = s.th.pc + 4 ∧ u.th.g = s.th.g ∧ u.liveHyp c h = false ∧
            u.hypCode c h = 4 ∧ u.vers = [] ∧ (∀ v ∈ s.vers, u.mem.read (v.line * 64) 64 = v.data.toNat) ∧
            ∀ k, (∀ v ∈ s.vers, k < v.line * 64 ∨ v.line * 64 + 64 ≤ k) → u.mem.byte k = s.mem.byte k))) ∧
    (s.th.st = .run → s.th.wait = .none →
      (∀ k, s.hwaitStatus h = some k → (k = 3 ∨ s.awaitsFlush = false) → ∃ t, exec (.hwait d a b) s = .next t ∧
        t.th.pc = s.th.pc + 4 ∧ t.mem = s.mem ∧ (∀ r, t.gr r = if r = d ∧ d ≠ 0 then BitVec.ofNat 64 k else s.gr r)) ∧
      (s.hwaitStatus h = none → s.gr b ≠ 0 → (s.gr b).toNat ≤ (s.tnow s.th).toNat → exec (.hwait d a b) s = .next (s.afterG d 1)) ∧
      (s.hwaitStatus h = none → (s.gr b = 0 ∨ (s.tnow s.th).toNat < (s.gr b).toNat) →
        ∃ t, exec (.hwait d a b) s = .next t ∧ t.th.st = .wait ∧ t.th.pc = s.th.pc ∧ t.th.g = s.th.g))

/-- On a control core, and where another context's instance claims the slot, each raises ACCESS. Otherwise, with room in the
arrival queue, ACCA posts the product of the two W19 values scaled by the control's power of two, ACCZ a clear, and ACCR the
sixteen F32 values of a line that passes the checks, each with no other effect than the pc's advance, and the event
STORE_EVENT_APPLY applies the oldest event: a clear leaves the slot's rows and counts cleared and the other slots as they
were. With the queue empty, ACCN writes the row's state word or a count, and ACCX the raw element or the element rounded to
F32 with its flags, and the row is unchanged. A full queue makes the thread wait. (R402, R403, R404, R405, R406, R407, R408,
R409, R410, R396) -/
def Obligations.AccumulatorStore : Prop :=
  ∀ (d a b : Reg) (n : Fin 4) (s : State) (k : Nat), k = s.th.site →
    let row : Fin 16 := Fin.ofNat 16 ((s.gr b).toNat % 16)
    let scale : Int := (BitVec.ofNat 8 ((s.gr b).toNat / 256)).toInt
    let posts (i : Instr) (ev : AccEvent) : Prop := ∃ t, exec i s = .next t ∧ t.accQueue k = s.accQueue k ++ [ev] ∧
      t.th = { s.th with pc := s.th.pc + 4, pass := false, mid := false } ∧ t.mem = s.mem ∧ (∀ m, m ≠ k → t.site m = s.site m)
    (s.accAllowed n = false → ∀ i ∈ [Instr.acca a b n, .accr a b n, .accz n, .accn d b n, .accx d b n],
      exec i s = .next (s.deliver (s.recordOf 0x0C 0 0 0 0))) ∧
    (s.th.onControl = true → s.accAllowed n = false) ∧
    (s.accAllowed n = true → (s.accQueue k).length < 32 →
      posts (.acca a b n) (.product s.th.slot n row 1 [((s.gr b).toNat / 16 % 16,
        productOf (unpack (fmtOf .w19) ((s.gr a).toNat % 2 ^ 19)) (unpack (fmtOf .w19) ((s.gr a).toNat / 2 ^ 19 % 2 ^ 19)) scale)]) ∧
      posts (.accz n) (.clear s.th.slot n) ∧
      (∀ pa t l, s.check (s.gr a) ((s.gr a).toNat % 2 ^ 52) (cacheReq 64 false) = .ok pa → s.lineLoad (s.gr a) pa 4 [] = .ok (t, l) →
        t.anyWatch = false → t.site k = s.site k → t.th.place = s.th.place →
        ∃ (u : State) (ps : List (Nat × Addend)), exec (.accr a b n) s = .next u ∧ u.accQueue k = s.accQueue k ++ [.product s.th.slot n row 1 ps] ∧ ps.length = (imageWords l).length ∧
          (∀ (j : Nat) (w : BitVec 32), (imageWords l)[j]? = some w → ps[j]? = some (j, addendOf (unpack (fmtOf .f32) w.toNat) scale)) ∧
          u.th.pc = t.th.pc + 4 ∧ u.mem = t.mem)) ∧
    (s.accAllowed n = true → 32 ≤ (s.accQueue k).length →
      ∀ i ∈ [Instr.acca a b n, .accr a b n, .accz n], exec i s = .next { s with th := { s.th with st := .wait, wait := .accQueue, mid := true } }) ∧
    (∀ (m : Fin 1024) x q, s.accQueue m = .clear x n :: q → (s.site m).acc.claim[n] = none →
      ∃ t, exec (.storeEventApply m) s = .next t ∧ t.accQueue m = q ∧ (t.site m).acc.rows[n] = Vector.replicate 16 AccRow.cleared ∧
        (t.site m).acc.counts[n] = Counts.zero ∧ (∀ j : Fin 4, j ≠ n → (t.site m).acc.rows[j] = (s.site m).acc.rows[j]) ∧ t.mem = s.mem) ∧
    (s.accAllowed n = true → s.accQueue k = [] → s.th.onBarrel = true →
      let x := (s.site k).acc
      let r := x.rows[n][row]
      let j : Fin 16 := Fin.ofNat 16 ((s.gr b).toNat / 16 % 16)
      WritesG (.accn d b n) s d (accState x n (s.gr b)) 0 1 ∧
      ((s.gr b).getLsbD 8 = true → WritesG (.accx d b n) s d (r.raw j) 0 1) ∧
      ((s.gr b).getLsbD 8 = false → ∀ v, v = r.convert j (fmtOf .f32) s.roundMode 0 →
        WritesG (.accx d b n) s d (BitVec.ofNat 64 v.1) v.2 1))

/-- Once the release part is done and no reduction fault is pending, with the descriptor's line checks passed and its 128
bytes read, and for LNCI the check of the count's address, a launch joins the queue that g[b] names, with the sixteen words
of the descriptor, the issuer's hypothesis and, for LNCI, the count's pointer, unless 16 launches of the queue have not
started or the context is being reset: then the thread waits; no memory changes and no register but the pc and what the
descriptor's loads change. That the thread waits while its context is being reset, in which the context accepts no launch
(R239), is the model's reading (assumption 25). (R239, R349, R350, R348) -/
def Obligations.LaunchInstructions : Prop :=
  ∀ (a b e : Reg) (s u t : State) (pa pb : Nat) (ws : List Word) (q : Fin 64), u = s.releaseTo .device →
    (u.th.onBarrel && u.pendingFault u.th.ctx) = false → u.check (u.gr a) (plainAddress (u.gr a)) (lineReq 64) = .ok pa →
    u.loadDesc (u.gr a) (plainAddress (u.gr a)) pa = .ok (t, ws) → q.val = (t.gr b).toNat % 64 →
    let counted : Prop := t.check (t.gr e) (plainAddress (t.gr e)) (lineReq 4) = .ok pb
    ((16 ≤ (t.queued t.th.cx q).length ∨ (t.ctx t.th.cx).resetting = true) →
      exec (.lnch a b) s = .next { t with th := { t.th with st := .wait, wait := .queue, mid := true } } ∧
      (counted → exec (.lnci a b e) s = .next { t with th := { t.th with st := .wait, wait := .queue, mid := true } })) ∧
    ((t.queued t.th.cx q).length < 16 → (t.ctx t.th.cx).resetting = false →
      let joins (i : Instr) (p : Option Word) : Prop := ∃ v l, exec i s = .next v ∧
        (v.ctx t.th.cx).queues = (t.ctx t.th.cx).queues ++ [l] ∧ l.queue = q ∧ l.hyp = t.th.thyp ∧ l.lnci = p ∧ l.started = false ∧
        l.status = none ∧ l.count = bits (ws.getD 0 0) 32 32 ∧ (∀ k : Fin 16, l.desc.words[k] = ws.getD k 0) ∧
        v.th = { t.th with pc := t.th.pc + 4, pass := false, mid := false } ∧ v.mem = t.mem
      joins (.lnch a b) none ∧ (counted → joins (.lnci a b e) (some (t.gr e))))

/-- An accepted SCPY, SGTH, SSCT, SLKP or SUPD, with SLOT and INST 0 unless it is bound, an SMIG, and an SRED or SCOL that
is not bound, joins the end of the queue of the streamer that TGT names, or for 0xFF of the one with the fewest commands and
the lowest position, with its bits, its ID and its issuer; where that queue holds 64 it has not begun and no queue changes.
A TGT of 128 to 254, an unbound one with SLOT or INST not 0 and a bound SRED or SCOL are refused: the command leaves the
sequencer with a record of SEQ-RSV. (R361, R362, R363, R428) -/
def Obligations.StreamerCommands : Prop :=
  ∀ (q : CmdQual) (o : DataOps) (tgt : BitVec 8) (blk : BitVec 48) (s : State) (k : CmdCursor) (j : Command), k = s.cmd →
    ((s.ctx k.ctx).accepted.find? fun (x : Command) => decide (x.id = k.id)) = some j →
    let entry : Queued :=
      { ctx := k.ctx, cmd := k.id, word := j.word, stream := k.stream, hyp := k.hyp, site := k.site, slot := k.slot }
    let size (p : Nat) : Nat := (s.streamer p).queue.length
    let refuses (i : Instr) : Prop := exec i s = .next (s.refuse (engineFault 0x21 0) 0) ∧
      ∀ x ∈ ((s.refuse (engineFault 0x21 0) 0).ctx k.ctx).accepted, x.id ≠ k.id
    let queues (i : Instr) (n : Nat) : Prop :=
      (∀ p, (n < 128 → p = n) → (n = 255 → p < 128 ∧ ∀ r, r < 128 → size p < size r ∨ size p = size r ∧ p ≤ r) →
        (n < 128 ∨ n = 255) →
        (size p < 64 → ∃ t, exec i s = .next t ∧ (t.streamer p).queue = (s.streamer p).queue ++ [entry] ∧
          (t.streamer p).xfers = (s.streamer p).xfers ∧ (∀ r, r ≠ p → t.streamer r = s.streamer r) ∧
          t = { s with streams := t.streams }) ∧
        (64 ≤ size p → ∃ t, exec i s = .next t ∧ t = { s with ctxs := t.ctxs } ∧ (∀ c, c ≠ k.ctx → t.ctx c = s.ctx c) ∧
          (t.ctx k.ctx).accepted.map (·.id) = (s.ctx k.ctx).accepted.map (·.id) ∧
          ∀ x ∈ (t.ctx k.ctx).accepted, x.id = k.id → x.begun = false)) ∧
      (128 ≤ n → n ≠ 255 → refuses i)
    let free : Prop := o.slot = 0 ∧ o.inst = 0
    (∀ i ∈ [Instr.scpy q o, .sgth q o, .ssct q o, .slkp q o, .supd q o],
      ((o.bnd = true ∨ free) → queues i o.tgt.toNat) ∧ (o.bnd = false → ¬ free → refuses i)) ∧
    queues (.smig q tgt blk) tgt.toNat ∧
    (∀ i ∈ [Instr.sred q o, .scol q o],
      (o.bnd = false → free → queues i o.tgt.toNat) ∧ ((o.bnd = true ∨ ¬ free) → refuses i))

/-- SARM sets the arm factor for the next segment; SBND_T of a page in the configuration sets a port's bound tag; SHDR of an
input endpoint sets the edit for the next segment; SDOR binds a door of the configuration to the two words at its block;
SBND of an input endpoint and an element type appends a header and a data flit with LAST, which enter the channel the
endpoint feeds as far as it has room: each on every instance that the slot and the number name, 0x3FF naming all, with every
other instance and every other part of the module as before, but for the time stamps of the reads that SDOR makes. With no
instance named, or an operand out of its range, the command is refused. (R329, R341, R342, R381, R413) -/
def Obligations.InstanceCommands : Prop :=
  ∀ (q : CmdQual) (s : State) (slot : BitVec 3) (num : BitVec 10) (ep scale ety8 : BitVec 8) (count : BitVec 32) (page : BitVec 10)
    (port : Fin 4) (tag : BitVec 4) (tslot : BitVec 2) (abs en : Bool) (blk : BitVec 48) (value : Word) (ety : BitVec 4),
    let c := s.cmd.ctx
    let hit (x : Inst) : Bool := decide (x.ctx = c) && decide (x.slot = slot.toNat) && (decide (num = 0x3FF) || decide (x.num = num.toNat))
    let refuses (i : Instr) : Prop := exec i s = .next (s.refuse (engineFault 0x21 0) 0)
    let does (i : Instr) (f : Inst → Inst) (asked : Bool) : Prop :=
      (s.insts.any hit = true → ∃ t, exec i s = .next t ∧ t = { s with insts := t.insts, stamps := t.stamps } ∧
        (asked = false → t.stamps = s.stamps) ∧ t.insts = s.insts.map fun (x : Inst) => if hit x then f x else x) ∧
      (s.insts.any hit = false → ∃ u : State, u = { s with stamps := u.stamps } ∧ (asked = false → u = s) ∧
        exec i s = .next (u.refuse (engineFault 0x21 0) 0))
    let acts (i : Instr) (f : Inst → Inst) : Prop := does i f false
    let staged := (s.ctx c).slots[slot.toFin]
    acts (.sarm q abs ep slot num count) (fun x => x.setArm { x.arm ep.toNat with next := some (count.toNat, abs), set := true }) ∧
    (staged = none → ∀ i ∈ [Instr.sbndT q slot num page (BitVec.ofNat 2 port) tag, .shdr q ep slot num scale tslot en,
      .sbnd q ep slot num value ety, .sdor q ep slot num blk], refuses i) ∧
    (∀ (cfg : Sys2Proof.Machine.Config), staged = some cfg →
      (page.toNat < cfg.pages.length → acts (.sbndT q slot num page (BitVec.ofNat 2 port) tag)
        (fun x => x.setPort page.toNat port { x.port page.toNat port with btag := tag })) ∧
      (cfg.pages.length ≤ page.toNat → refuses (.sbndT q slot num page (BitVec.ofNat 2 port) tag)) ∧
      (cfg.isOutput ep.toNat = false →
        acts (.shdr q ep slot num scale tslot en)
          (fun x => x.setArm { x.arm ep.toNat with editN := some (if en then some (scale, tslot) else none) }) ∧
        (ety.toNat < 8 → acts (.sbnd q ep slot num value ety) (fun x =>
          (x.setArm { x.arm ep.toNat with fed := (x.arm ep.toNat).fed ++
            [headerFlit (headerWord ety.toNat 0 0 0 0) false,
             dataFlit (BitVec.ofNat 64 (value.toNat % 2 ^ laneWidth ety.toNat)) 0x08 false] }).flushTokens ep.toNat 2)) ∧
        (8 ≤ ety.toNat → refuses (.sbnd q ep slot num value ety))) ∧
      (cfg.isOutput ep.toNat = true → refuses (.shdr q ep slot num scale tslot en) ∧ refuses (.sbnd q ep slot num value ety)) ∧
      (cfg.doors.length ≤ ep.toNat → refuses (.sdor q ep slot num blk)) ∧
      (∀ stk arg : Word, ep.toNat < cfg.doors.length → s.engineWords c (blk.toNat * 16) 4 = .ok [stk, arg, 0, 0] →
        (bits stk 0 4 = 0 → bits stk 52 6 = 0 → does (.sdor q ep slot num blk)
          (fun x => x.setSerai ep.toNat { x.serai ep.toNat with bound := some (stk, arg) }) true) ∧
        ((bits stk 0 4 ≠ 0 ∨ bits stk 52 6 ≠ 0) → ∃ u : State, u = { s with stamps := u.stamps } ∧
          exec (.sdor q ep slot num blk) s = .next (u.refuse (engineFault 0x21 0) 0))))

/-- SCFG of an image that stages writes a report of RESULT 0 and the ID and puts the checked copy into the slot; on the port
stream one that does not stages nothing, sets LDSTAT and reports the cause. SPLC of a staged slot without instances makes
the placement wait with the group's version and the compaction mode of that moment, and one that can never fit its group is
refused; SPLC_U asks for the release of every instance of the slot; SMOV asks for the move of an instance that no release
awaits. SSEG of one idle instance whose doors are bound, with tiles on the port stream and no range made, gives it the whole
range and starts its segment; the shares of any total add up to it. SSYN with its conditions met and no address is noted as
written. STBL installs its descriptor's version as the current one of its table; SWIN and SWIN_U declare and remove a
window; SAGP of a streaming program fills its slot and SAGP_U empties it; SDRN of a claimed slot starts a transfer of its
own that drains it. The words that a command reads are requests of the sequencer's interface, so they raise time stamps and
nothing else. Which placements can never fit (assumption 30), how a segment starts and how refusals are recorded
(assumptions 28 and 31) are the model's choices. (R332, R333, R334, R336, R337, R343, R347, R376, R378, R389, R411, R425) -/
def Obligations.SequencerCommands : Prop :=
  ∀ (q : CmdQual) (s : State) (slot : BitVec 3) (n : Fin 8) (c : Fin 16) (id : BitVec 32), n.val = slot.toNat → c = s.cmd.ctx →
    id = s.cmd.id → s.cmd.stream = .port →
    (∀ (img : BitVec 46) (rpt : BitVec 48) (cfg : Sys2Proof.Machine.Config) (u : State) (pa : Nat), s.stage c (img.toNat * 64) slot.toNat = (0, 0, 0, 0, some cfg) →
      u = (s.askWords (seqKey c) c (img.toNat * 64) ((cfg.bytes + 7) / 8)).updCtx c (fun x => { x with slots := x.slots.set n (some cfg) }) →
      u.engineAddress c (rpt.toNat * 16) false true = .ok pa → u.isLocal pa = true → ∃ t, exec (.scfg q img rpt slot) s = .next t ∧
        t = u.engineGranules c pa [BitVec.ofNat 64 (2 ^ 63), BitVec.ofNat 64 id.toNat] ∧ (u.ctx c).slots[n] = some cfg) ∧
    (∀ (img : BitVec 46) (rpt : BitVec 48) (r cause rec_ pe : Nat) (u : State) (pa : Nat) (w : Word), s.stage c (img.toNat * 64) slot.toNat = (r, cause, rec_, pe, none) →
      0 < r → r < 5 → cause < 256 → rec_ < 65536 → pe < 256 →
      w = BitVec.ofNat 64 (2 ^ 63 + r * 2 ^ 56 + pe * 2 ^ 40 + rec_ * 2 ^ 16 + cause) → u = s.setReg (ldstatAt c) w →
      u.engineAddress c (rpt.toNat * 16) false true = .ok pa → u.isLocal pa = true →
      exec (.scfg q img rpt slot) s = .next (u.engineGranules c pa [w, BitVec.ofNat 64 id.toNat])) ∧
    (∀ (ninst : BitVec 10) (queue : BitVec 6) (part_ : Bool) (cfg : Sys2Proof.Machine.Config) (g : Group), (s.ctx c).slots[n] = some cfg → s.instsOf c slot.toNat = [] →
      0 < ninst.toNat → ninst.toNat ≤ 900 → g = s.groupNow (s.queueGroup c queue.toFin) →
      (s.neverFits g cfg (if part_ then 1 else ninst.toNat) = false → ∃ (t : State) (p : Placement), exec (.splc q part_ slot ninst queue) s = .next t ∧
        (t.ctx c).places = (s.ctx c).places ++ [p] ∧ p.slot = n.val ∧ p.ninst = ninst.toNat ∧ p.queue.val = queue.toNat ∧ p.id = id ∧
        p.version = s.groups.ver ∧ p.cmp = s.hardware c .cmp ∧ t.insts = s.insts ∧ t.mem = s.mem) ∧
      (s.neverFits g cfg (if part_ then 1 else ninst.toNat) = true →
        exec (.splc q part_ slot ninst queue) s = .next (s.refuse (engineFault 0x21 0) 0))) ∧
    (∀ (queue : BitVec 6) (part_ : Bool),
      exec (.splcU q part_ slot queue) s = .next (s.releaseEach c ((s.instsOf c slot.toNat).map fun e => e.2.uid))) ∧
    (∀ (num : BitVec 10) (i : Nat) (x : Inst), ((s.instsOf c slot.toNat).find? fun (e : Nat × Inst) => e.2.num == num.toNat) = some (i, x) →
      x.pend ≠ .release →
      exec (.smov q slot num 0 0 true) s = .next ((s.setInst i { x with version := s.groups.ver }).request i (.move none)) ∧
      (x.st = .run → s.insts[i]? = some x → ∃ (t : State) (y : Inst), exec (.smov q slot num 0 0 true) s = .next t ∧ t.insts[i]? = some y ∧
        y.pend = .move none ∧ y.st = .run)) ∧
    (∀ (tiles : BitVec 32) (last : Bool) (i : Nat) (x : Inst), s.instsOf c slot.toNat = [(i, x)] → x.st = .idle → x.back ≠ .run → 0 < x.wt →
      (∀ v ∈ x.serais, v.bound.isSome = true) → n.val ∉ (s.ctx c).portRanges → tiles ≠ 0 →
      ∃ (t : State) (y : Inst), exec (.sseg q last slot tiles) s = .next t ∧ t.insts[i]? = some y ∧ y.st = .run ∧ y.range = some (0, tiles.toNat) ∧
        y.taken = tiles.toNat ∧ y.segTiles = tiles.toNat ∧ y.segCmd = id ∧ y.final = last ∧ y.passed = false ∧
        y.arms = x.arms.map (fun a => a.start tiles.toNat last) ∧ n.val ∈ (t.ctx c).portRanges ∧ t.mem = s.mem) ∧
    (∀ (total : Nat) (w : List Nat), 0 < w.sum → (shares total w).sum = total ∧ (shares total w).length = w.length ∧
      ∀ i, total * w.getD i 0 / w.sum ≤ (shares total w).getD i 0) ∧
    (∀ (b : Bool) (queue : BitVec 6) (addr : BitVec 52) (value : BitVec 32) (k : Command),
      ((s.ctx c).accepted.find? fun (x : Command) => decide (x.id = id)) = some k → s.syncReady c k = true → k.field 0 52 = 0 →
      ∃ t, exec (.ssyn q b queue addr value) s = .next t ∧ t = { s with ctxs := t.ctxs } ∧
        (t.ctx c).accepted = (s.ctx c).accepted.map fun (x : Command) => if x.id = id then { x with wrote := true } else x) ∧
    (∀ (tbl : BitVec 4) (desc : BitVec 46) (w : List Word) (v : TableVer), s.engineWords c (desc.toNat * 64) 8 = .ok w →
      parseTable w tbl.toNat (s.ctx c).tabSer 0 = some v →
      ∃ (t : State) (old : List TableVer), exec (.stbl q tbl desc 0) s = .next t ∧ t = { s with ctxs := t.ctxs, stamps := t.stamps } ∧ (t.ctx c).tables = old ++ [v] ∧
        v.current = true ∧ v.tbl = tbl.toNat ∧ old.length = (s.ctx c).tables.length ∧
        ∀ x ∈ old, x.tbl = tbl.toNat → x.current = false) ∧
    (∀ (win : BitVec 4) (obj ntf : BitVec 48) (base len : Word) (pa : Nat), s.engineWords c (obj.toNat * 16) 2 = .ok [base, len] →
      0 < len.toNat → len.toNat ≤ 2 ^ 41 → s.engineAddress c (ntf.toNat * 16) false true = .ok pa → s.isLocal pa = true →
      hasFull pa = true → ∃ (t : State) (w : Window), exec (.swin q win slot obj ntf) s = .next t ∧ t = { s with ctxs := t.ctxs, stamps := t.stamps } ∧ w ∈ (t.ctx c).windows ∧
        w.win = win.toNat ∧ w.slot = n.val ∧ w.base = base.setWidth 52 ∧ w.len = len.toNat ∧ w.count = 0 ∧
        ∀ x ∈ (t.ctx c).windows, x ≠ w → x.win ≠ win.toNat ∧ x ∈ (s.ctx c).windows) ∧
    (∀ (win : BitVec 4), ∃ t, exec (.swinU q win slot) s = .next t ∧ t = { s with ctxs := t.ctxs } ∧
      ∀ w : Window, w ∈ (t.ctx c).windows ↔ w ∈ (s.ctx c).windows ∧ ¬ (w.win = win.toNat ∧ w.slot = n.val)) ∧
    (∀ (pos : BitVec 7) (prog : Fin 4), s.progBusy pos.toNat prog = false →
      (∃ t, exec (.sagpU q pos (BitVec.ofNat 2 prog)) s = .next t ∧ (t.slice pos.toNat).progs[prog] = none ∧ t.mem = s.mem) ∧
      (∀ (pgm : BitVec 46) (num : BitVec 10) (w : List Word) (p : EdgeProg), s.engineWords c (pgm.toNat * 64) 8 = .ok w →
        p = { ctx := c, words := Vector.ofFn fun i : Fin 8 => w.getD i 0, slot := n.val, inst := num.toNat, at_ := 0, pass := 0,
              tile := false, bad := false, hdr := false, buf := [] } → p.illFormed = false → p.streams = true →
        ∃ t, exec (.sagp q pos (BitVec.ofNat 2 prog) pgm slot num) s = .next t ∧ (t.slice pos.toNat).progs[prog] = some p ∧
          (t.slice pos.toNat).sram = (s.slice pos.toNat).sram ∧ t.mem = s.mem)) ∧
    (∀ (clear : Bool) (o : DrainOps) (i : Nat) (x : Inst), s.named c o.slot.toNat o.inst = [i] → s.insts[i]? = some x → o.fmt.toNat < 2 → o.rm.toNat < 6 →
      o.tbl = 0 → o.page.toNat < x.cfg.pages.length → (x.siteOf o.page.toNat, o.asl.toNat) ∈ x.slots →
      s.bindable x o.ep.toNat (drainTarget o) = true →
      ∃ (t : State) (y : Xfer), exec (.sdrn q clear o) s = .next t ∧ (t.streamer drainUnit).xfers = (s.streamer drainUnit).xfers ++ [y] ∧
        y.ctx = c ∧ y.cmd = id ∧ y.inst = some x.num ∧ y.version = clear.toNat ∧ y.spent = false ∧
        y.desc = .drain o.fmt.toNat o.rm.toNat 0 o.scl none (drainTarget o) o.page.toNat o.asl.toNat o.ep.toNat ∧ t.mem = s.mem)

/-- Where the instance acts, every output channel has space, no recovery is under way, and data flits that agree on EOT,
unpoisoned, with a header in force (of scale 0 for a floating-point type), stand at the inputs: NADD, NSUB, NMUL, NFMA,
NMIN, NMAX, NABS, NNEG, NCMP, NSEL, the logical nodes, the shifts and NCON send into every output channel one flit with A's
marks, each lane in use the operation's result in the node's type: for integers the exact value wrapped, or clamped where
FN[3] is set, for floating point the rounded one; memory is as before. A poisoned input or header makes the flit poison.
NRLY sends its flit unchanged and NCNT with EOR and EOK where its counters end. That no flag matters to the flit that
leaves, and the rounding of scaled values, are the model's choices (assumption 32). (R281, R282, R285, R288, R289, R290,
R291, R292, R298, R300, R301) -/
def Obligations.Nodes : Prop :=
  ∀ (n : NodeFields) (s : State) (x : Inst) (k : PeCursor) (da db dc : Flit), k = s.pe → s.insts[k.inst]? = some x → s.instActs x = true →
    x.space k.page k.pe n.omask = true → (x.peAt k.page k.pe).node.recovering = false →
    let nd : NodeState := (x.peAt k.page k.pe).node
    let word (j : Nat) : Word := (nd.hdrAt j).word
    let e : Nat := if n.ety = 14 then bits (word 0) 60 4 else n.ety.toNat
    let w : Nat := laneWidth e
    let used : Nat := min (lanesOf e) ((bits (word 0) 16 16 + 1) * (bits (word 0) 0 16 + 1) - nd.count)
    let at_ (c : BitVec 4) (d : Flit) : Prop := x.head k.page k.pe c.toFin true = some d
    let data (j : Nat) (c : BitVec 4) (d : Flit) : Prop := at_ c d ∧ d.hdr = false ∧ d.sot = false ∧ d.eot = da.eot ∧ (nd.hdrAt j).set = true
    let clean (j : Nat) (d : Flit) : Prop := d.psn = false ∧ (nd.hdrAt j).psn = false ∧ (8 ≤ e → bits (word j) 48 8 = 0)
    let sends (i : Instr) (p : Flit → Prop) : Prop := ∃ (t : State) (y : Inst) (f : Flit), exec i s = .next t ∧ t.mem = s.mem ∧
      t.insts[k.inst]? = some y ∧ p f ∧
      y.wires = x.wires ++ (maskChans n.omask).map fun ch => { page := k.page, pe := k.pe, ch := ch, flit := f }
    let gives (i : Instr) (v : Nat → Nat) : Prop :=
      sends i fun f => f.psn = false ∧ f.marks = da.marks ∧ ∀ j, j < used → lane f.data e j = v j % 2 ^ w
    let a (j : Nat) : Nat := lane da.data e j
    let b (j : Nat) : Nat := lane db.data e j
    let c (j : Nat) : Nat := lane dc.data e j
    let val (v : Nat) : Int := if e < 4 ∧ 2 ^ (w - 1) ≤ v then (v : Int) - 2 ^ w else v
    let fix (v : Int) : Nat := ((if n.fn.getLsbD 3 then
      (if e < 4 then max (-2 ^ (w - 1)) (min (2 ^ (w - 1) - 1) v) else max 0 (min (2 ^ w - 1) v)) else v) % 2 ^ w).toNat
    let wrap (v : Int) : Nat := (v % 2 ^ w).toNat
    let rel (x y : Int) : Bool := match n.fn.toNat with
      | 0 => decide (x = y) | 1 => decide (x ≠ y) | 2 => decide (x < y) | 3 => decide (x ≤ y) | 4 => decide (y < x) | _ => decide (y ≤ x)
    let g : Fmt := fmtOfEty e
    let u (v : Nat) : Datum := unpack g v
    let m : Round := roundOfCode (n.fn.toNat % 8)
    (data 0 n.ina da → clean 0 da →
      (e < 8 → gives (.nabs n) (fun j => fix ((val (a j)).natAbs : Int)) ∧ gives (.nneg n) (fun j => fix (0 - val (a j))) ∧
        gives (.ncon n) (fun _ => if e < 4 then wrap n.param.toInt else n.param.toNat)) ∧
      (8 ≤ e → e < 13 → gives (.nabs n) (fun j => withSign g (a j) false) ∧ gives (.nneg n) (fun j => withSign g (a j) (!signOf g (a j)))) ∧
      (data 1 n.inb db → clean 1 db →
        (e < 8 → gives (.nadd n) (fun j => fix (val (a j) + val (b j))) ∧ gives (.nsub n) (fun j => fix (val (a j) - val (b j))) ∧
          gives (.nmul n) (fun j => fix (val (a j) * val (b j))) ∧ gives (.nmin n) (fun j => wrap (min (val (a j)) (val (b j)))) ∧
          gives (.nmax n) (fun j => wrap (max (val (a j)) (val (b j)))) ∧
          gives (.ncmp n) (fun j => if rel (val (a j)) (val (b j)) then 1 else 0) ∧
          gives (.nand n) (fun j => a j &&& b j) ∧ gives (.nor n) (fun j => a j ||| b j) ∧ gives (.nxor n) (fun j => a j ^^^ b j) ∧
          gives (.nshl n) (fun j => a j * 2 ^ b j) ∧ gives (.nshr n) (fun j => wrap (val (a j) / 2 ^ b j))) ∧
        (8 ≤ e → e < 13 → gives (.nadd n) (fun j => (addData g m false (u (a j)) (u (b j))).1) ∧
          gives (.nsub n) (fun j => (addData g m false (u (a j)) (u (b j)).neg).1) ∧
          gives (.nmul n) (fun j => (mulData g m false (u (a j)) (u (b j))).1) ∧
          gives (.nmin n) (fun j => (minMax g true (a j) (b j)).1) ∧ gives (.nmax n) (fun j => (minMax g false (a j) (b j)).1) ∧
          gives (.ncmp n) (fun j => if (compareLanes e n.fn.toNat (a j) (b j)).1 then oneOf e else 0)) ∧
        (data 2 n.inc dc → clean 2 dc →
          (e < 13 → gives (.nsel n) (fun j => if c j ≠ 0 then a j else b j)) ∧
          (e < 8 → gives (.nfma n) (fun j => fix (val (a j) * val (b j) + val (c j)))) ∧
          (8 ≤ e → e < 13 → gives (.nfma n) (fun j => (fmaData g m false (u (a j)) (u (b j)) (u (c j))).1))))) ∧
    (data 0 n.ina da → data 1 n.inb db → (da.psn = true ∨ db.psn = true ∨ (nd.hdrAt 0).psn = true ∨ (nd.hdrAt 1).psn = true) →
      ∀ i ∈ [Instr.nadd n, .nsub n, .nmul n, .nmin n, .nmax n, .ncmp n, .nand n, .nor n, .nxor n, .nshl n, .nshr n],
        sends i fun f => f.psn = true ∧ f.data = 0 ∧ f.eot = da.eot) ∧
    (at_ n.ina da → da.psn = false → sends (.nrly n) (fun f => f = da) ∧
      (da.hdr = false → sends (.ncnt n) fun f => f.data = da.data ∧
        f.ctl = da.ctl ||| (if nd.inner = n.param.toNat % 1024 then (if nd.outer = n.param.toNat / 1024 then 0x30 else 0x10) else 0)))

/-- With a clean data flit at A and nothing held: NCVT, NDEC and NENC send the first output flit of the flit's converted
elements where they fill one or end the tile, and hold the rest; NRED of an integer sum over a tile sends at its end the
running value plus the lanes in use, and NACC each prefix; NBND sends the first flit of the generated tiles and keeps the
rest. A memory node with room queues an access: NLD a load of 8 bytes at bits 51:3 of the address, NST a store of the data
flit's bytes in use; NOWN on a line in its buffer sends the old value and puts the sum or the swapped value there; NDOR
parks its flit under the next ticket. A matrix section of one NMMA, in the turn of its leader, adds the products of two
agreeing flits to its row; in the turn of another of its nodes nothing happens. That a queued access completes by an event
of its own is the model's choice (assumption 35). (R293, R294, R295, R296, R299, R313, R314, R315, R316, R382, R392, R393) -/
def Obligations.NodesThatHold : Prop :=
  ∀ (n : NodeFields) (s : State) (x : Inst) (k : PeCursor) (d : Flit), k = s.pe → s.insts[k.inst]? = some x → s.instActs x = true →
    x.space k.page k.pe n.omask = true → (x.peAt k.page k.pe).node.recovering = false →
    let nd : NodeState := (x.peAt k.page k.pe).node
    let word (j : Nat) : Word := (nd.hdrAt j).word
    let count (j : Nat) : Nat := (bits (word j) 16 16 + 1) * (bits (word j) 0 16 + 1)
    let e : Nat := if n.ety = 14 then bits (word 0) 60 4 else n.ety.toNat
    let w : Nat := laneWidth e
    let used : Nat := min (lanesOf e) (count 0 - nd.count)
    let data (j : Nat) (c : BitVec 4) (d : Flit) : Prop := x.head k.page k.pe c.toFin true = some d ∧ d.hdr = false ∧ d.sot = false ∧
      d.psn = false ∧ (nd.hdrAt j).set = true ∧ (nd.hdrAt j).psn = false
    let becomes (i : Instr) (p : State → Inst → Prop) : Prop := ∃ (t : State) (y : Inst), exec i s = .next t ∧ t.insts[k.inst]? = some y ∧ p t y
    let wire (l : List Flit) (y : Inst) : Prop :=
      y.wires = x.wires ++ l.flatMap fun f => (maskChans n.omask).map fun ch => { page := k.page, pe := k.pe, ch := ch, flit := f }
    let node (y : Inst) : NodeState := (y.peAt k.page k.pe).node
    (data 0 n.ina d →
      (nd.elems = [] → 0 < used →
        (∀ c ∈ [(Instr.ncvt n, NodeKind.cvt, n.fn.toNat), (.ndec n, .dec, 10), (.nenc n, .enc, 13)],
          let o : Nat := c.2.2
          let conv (j : Nat) : Nat :=
            (convertElem s (x.siteOf k.page) c.2.1 n { parseHdr (word 0) with ety := e } (lane d.data e j)).1
          let m : Nat := if d.eot then min (lanesOf o) used else lanesOf o
          (m ≤ used → becomes c.1 fun t y => t.mem = s.mem ∧ (node y).elems.length = used - m ∧
            ∃ f : Flit, f.psn = false ∧ wire [f] y ∧ ∀ j, j < m → lane f.data o j = conv j % 2 ^ laneWidth o) ∧
          (used < m → becomes c.1 fun t y => t.mem = s.mem ∧ wire [] y ∧ (node y).elems.length = used ∧
            ∀ j, j < used → ((node y).elems.map fun (v : Word × BitVec 8) => v.1)[j]? = some (BitVec.ofNat 64 (conv j)))) ∧
        (∀ base : Nat, e < 8 → n.param.toNat % 32 = 0 → n.fn.toNat < 8 →
          (nd.acc = none ∧ base = 0 ∨ ∃ v : Word, nd.acc = some (v, false) ∧ base = v.toNat) →
          let upTo (j : Nat) : Nat := base + ((List.range j).map fun i => lane d.data e i).sum
          (d.eot = true → becomes (.nred n) fun t y => t.mem = s.mem ∧
            ∃ f : Flit, f.psn = false ∧ wire [f] y ∧ lane f.data e 0 = upTo used % 2 ^ w) ∧
          becomes (.nacc n) fun t y => t.mem = s.mem ∧ ∃ f : Flit, f.psn = false ∧ f.marks = d.marks ∧ wire [f] y ∧
            ∀ j, j < used → lane f.data e j = upTo (j + 1) % 2 ^ w)) ∧
      (nd.pending = [] → e < 8 → 0 < used →
        let tiles : List Flit := (List.range used).flatMap fun j =>
          boundTile n.param.toNat (min (intLane e (lane d.data e j)).toNat 65536) (d.last && j + 1 == used)
        becomes (.nbnd n) fun t y => t.mem = s.mem ∧ wire (tiles.take 1) y ∧ (node y).pending = tiles.drop 1) ∧
      (∀ p : Fin 4, portOf k.pe = some p → (x.port k.page p).spills < 64 → (x.port k.page p).flights < 64 →
        let queues (i : Instr) (q : PortAccess → Prop) : Prop := becomes i fun t y => t.mem = s.mem ∧ wire [] y ∧
          ∃ a : PortAccess, (y.port k.page p).acc = (x.port k.page p).acc ++ [a] ∧ a.va = bits d.data 3 49 * 8 ∧ a.size = 8 ∧
            a.pe = k.pe ∧ a.done = none ∧ a.hdr = false ∧ a.spilled = false ∧ a.marks = d.marks ∧ q a
        queues (.nld n) (fun a => a.store = false) ∧
        (∀ b : Flit, data 1 n.inb b → b.eot = d.eot →
          let z : Nat := bits (word 1) 60 4
          let lanes : Nat := min (lanesOf z) (count 1 - nd.count * lanesOf z)
          queues (.nst n) fun a => a.store = true ∧ a.flit.data = w19Clean z b.data ∧
            a.mask = BitVec.ofNat 8 (2 ^ (if z = 10 then 8 else lanes * laneWidth z / 8) - 1)) ∧
        (∀ (b : Flit) (pa : Nat) (l : OwnLine) (l1 : List OwnLine) (l2 : List Flit), e = n.ety.toNat → e < 8 → b.hdr = false → b.psn = false →
          s.evictBlocked x k.page p = false →
          (x.peAt k.page k.pe).ins[n.ina.toFin] = d :: b :: l2 → n.fn.toNat % 8 = 0 ∨ n.fn.toNat % 8 = 6 →
          s.portCheck x k.page p (bits d.data 0 52 / (w / 8) * (w / 8)) (w / 8) 2 = .ok pa → pa % 64 + w / 8 ≤ 64 →
          takeFirst (fun (v : OwnLine) => decide (v.line = pa / 64)) (x.port k.page p).own = some (l, l1) → l.bad = false →
          let old : Nat := bits l.data (8 * (pa % 64)) w
          becomes (.nown n) fun t y => t.mem = s.mem ∧ wire [dataFlit (BitVec.ofNat 64 old) b.marks false] y ∧
            ∃ r : OwnLine, (y.port k.page p).own = r :: l1 ∧ r.line = l.line ∧ bits r.mask (pa % 64) (w / 8) = 2 ^ (w / 8) - 1 ∧
              bits r.data (8 * (pa % 64)) w = (if n.fn.toNat % 8 = 6 then bits b.data 0 w else (old + bits b.data 0 w) % 2 ^ w))) ∧
      (∀ v : Serai, x.serais[n.param.toNat % 256]? = some v → v.room (x.door (n.param.toNat % 256)).serai = true →
        v.tiles.all (·.closed) = false → becomes (.ndor n) fun t y => t.mem = s.mem ∧ wire [] y ∧ ∃ (u : Serai) (q : Ticket),
          y.serais[n.param.toNat % 256]? = some u ∧ u.places = v.places ++ [q] ∧ q.st = .parked ∧ q.ticket = v.next ∧ q.req = d ∧
          q.pos = v.pos ∧ q.result = [] ∧ u.next = (v.next + 1) % 2 ^ 32 ∧ u.pos = v.pos + 1 ∧ u.replies = v.replies)) ∧
    (∀ (a b : Flit) (v : Section) (ca cb : Fin 16) (wa wb : Word) (ra : Nat), v = x.section k.page → k.pe = x.leader k.page → x.nmmas k.page = [0] → v.skip = false → v.hold = false →
      v.step = 0 → v.refs = [] → v.eoks = [] → ca.val = bits (x.nodeWord k.page 0) 44 4 → cb.val = bits (x.nodeWord k.page 0) 40 4 →
      x.head k.page 0 ca true = some a → x.head k.page 0 cb true = some b → a.hdr = false → b.hdr = false → a.psn = false → b.psn = false →
      a.agreement = b.agreement → (v.rows.toList.any fun (r : RowBuf × RowBuf) => r.1.ready || r.2.ready) = false →
      (∃ st : EdgeState, tget EdgeState.fresh v.a 0 = st ∧ st.hdr = { set := true, word := wa, psn := false } ∧ st.last = false ∧ st.blks = [] ∧ st.runs = ra) →
      (∃ st : EdgeState, tget EdgeState.fresh v.b 0 = st ∧ st.hdr = { set := true, word := wb, psn := false } ∧ st.last = false ∧ st.blks = []) →
      let site : Nat := x.siteOf k.page
      let buf : RowBuf := getBuf v.rows[0] ra
      let count : Nat := lanesOf (bits wa 60 4)
      let products : List (Nat × Addend) := (List.range count).map fun j => (0,
        productOf (laneDatum s site (parseHdr wa) a.data j) (laneDatum s site (parseHdr wb) b.data j) ((parseHdr wa).scale + (parseHdr wb).scale))
      let row : RowUnit := RowUnit.products { row := buf.row, counts := buf.counts, flags := 0 } count products
      becomes (.sectionStep n) fun t y => t.mem = s.mem ∧ (y.section k.page).step = 1 ∧
        (getBuf (y.section k.page).rows[0] ra).row = row.row ∧ (getBuf (y.section k.page).rows[0] ra).counts = row.counts ∧
        ∀ j : Fin 16, j ≠ 0 → (y.section k.page).rows[j] = v.rows[j]) ∧
    (k.pe ≠ x.leader k.page → (x.section k.page).waiting = [] → exec (.sectionStep n) s = .next s)

/-- Where the instance acts and the outputs have space: outside a unit a decision, true where the control flit is unpoisoned
and not 0, is taken with the unit's first flit: STEER sends it to OA or OB, GATE to OA or nowhere, MERGE sends IA's or IB's
to OA, poisoned under a poisoned decision; inside a unit the decision stands. FORK sends IA's flit to OA; SINK discards it,
and the configuration's sink retires on a LAST flit of the final segment. CARRY goes from INIT through LOOP to DRAIN and
back; INVAR fills its hold, copies it under a true decision and drops it under a false one. CSEQ, CPIP and CSTR count dones,
take an enable at CTL, send their enables numbered from 1 and their done in the order of each. Every flit used leaves its
channel for the operator, and memory is as before. Choices of the model: CARRY in DRAIN empties its input before the marker,
INVAR takes its next value as soon as it holds none, and a controller with a done and an enable waiting takes the done and
keeps it for its activation (assumption 34); that one operator acts in one step of its own is assumption 1. (R303, R304,
R305, R306, R307, R308, R310, R311) -/
def Obligations.Routers : Prop :=
  ∀ (r : RouterFields) (s : State) (x : Inst) (k : PeCursor), k = s.pe → s.insts[k.inst]? = some x → s.instActs x = true →
    let st : RouterState := (x.peAt k.page k.pe).router
    let head (c : BitVec 4) : Option Flit := x.head k.page k.pe c.toFin false
    let room (l : List (Fin 16)) : Prop := ∀ ch ∈ l, 0 < (x.peAt k.page k.pe).credit[ch]
    let becomes (i : Instr) (taken : List (BitVec 4)) (l : List (Fin 16)) (f : Flit) (p : RouterState → Prop) : Prop :=
      ∃ (t : State) (y : Inst), exec i s = .next t ∧ t.mem = s.mem ∧ t.insts[k.inst]? = some y ∧
        y.wires = x.wires ++ l.map (fun ch => { page := k.page, pe := k.pe, ch := ch, flit := f }) ∧
        p (y.peAt k.page k.pe).router ∧ ∀ c ∈ taken, y.head k.page k.pe c.toFin false = none ∨
          (y.peAt k.page k.pe).ins[c.toFin] = (x.peAt k.page k.pe).ins[c.toFin].drop 1
    let passed (c d : Flit) : Flit := if c.psn || d.psn then d.poison else d
    let dec (c : Flit) : Bool := !c.psn && c.data != 0
    (∀ c d : Flit, head r.ctl = some c → c.hdr = false → st.inUnit = false → r.ctl ≠ r.ia → r.ctl ≠ r.ib →
      let decides (i : Instr) (input : BitVec 4) (l : List (Fin 16)) : Prop := head input = some d → room l →
        becomes i [r.ctl, input] l (passed c d) fun u => u.inUnit = !d.eot ∧ u.dec = dec c ∧ u.dpsn = c.psn
      decides (.steer r) r.ia (maskChans (if dec c then r.oa else r.ob)) ∧
      decides (.gate r) r.ia (if dec c then maskChans r.oa else []) ∧
      decides (.merge r) (if dec c then r.ia else r.ib) (maskChans r.oa) ∧
      (st.carry = .loop → (dec c = true → head r.ib = some d → room (maskChans r.oa) →
        becomes (.carry r) [r.ctl, r.ib] (maskChans r.oa) (passed c d) fun u => u.carry = .loop ∧ u.inUnit = !d.eot) ∧
        (dec c = false → becomes (.carry r) [r.ctl] [] d fun u => u.carry = .drain)) ∧
      (st.full = true → becomes (.invar r) [r.ctl] [] d fun u =>
        if dec c then u.inUnit = true ∧ u.sent = 0 ∧ u.dpsn = c.psn ∧ u.held = st.held else u.held = [] ∧ u.full = false)) ∧
    (∀ d : Flit, st.inUnit = true →
      let goes (i : Instr) (input : BitVec 4) (l : List (Fin 16)) : Prop := head input = some d → room l →
        becomes i [input] l (if st.dpsn || d.psn then d.poison else d) fun u => u.inUnit = !d.eot ∧ u.dec = st.dec
      goes (.steer r) r.ia (maskChans (if st.dec then r.oa else r.ob)) ∧ goes (.gate r) r.ia (if st.dec then maskChans r.oa else []) ∧
      goes (.merge r) (if st.dec then r.ia else r.ib) (maskChans r.oa) ∧ (st.carry = .loop → goes (.carry r) r.ib (maskChans r.oa)) ∧
      (st.full = true → st.held[st.sent]? = some d → room (maskChans r.oa) →
        becomes (.invar r) [] (maskChans r.oa) (if st.dpsn || d.psn then d.poison else d) fun u => u.held = st.held ∧
          if st.sent + 1 < st.held.length then u.sent = st.sent + 1 ∧ u.inUnit = true else u.inUnit = false)) ∧
    (∀ d : Flit, head r.ia = some d →
      (room (maskChans r.oa) → becomes (.fork r) [r.ia] (maskChans r.oa) (if d.psn then d.poison else d) fun u => u.inUnit = !d.eot) ∧
      (∃ (t : State) (y : Inst), exec (.sink r) s = .next t ∧ t.mem = s.mem ∧ t.insts[k.inst]? = some y ∧ y.wires = x.wires ∧
        (y.retired = true ↔ x.retired = true ∨ x.cfg.sink = some (k.page, k.pe) ∧ d.last = true ∧ x.final = true ∧ s.openHyp x.ctx x.hyp = true)) ∧
      (st.carry = .init → room (maskChans r.oa) → becomes (.carry r) [r.ia] (maskChans r.oa) (if d.psn then d.poison else d)
        fun u => u.carry = if d.eot then .loop else .init) ∧
      (st.full = false → st.held.length < 16 → becomes (.invar r) [r.ia] [] d fun u => u.held = st.held ++ [d] ∧ u.full = d.eot) ∧
      ∀ i ∈ [Instr.cseq r, .cpip r, .cstr r], becomes i [r.ia] [] d fun u =>
        u = { st with dones := if d.eot then st.dones + 1 else st.dones }) ∧
    (st.carry = .drain → (∀ d, head r.ib = some d → becomes (.carry r) [r.ib] [] d fun u => u.carry = .drain) ∧
      (∀ d, head r.ib = none → st.inUnit = false → head (r.ob.extractLsb' 0 4) = some d →
        becomes (.carry r) [r.ob.extractLsb' 0 4] [] d fun u => u.carry = .init)) ∧
    (head r.ia = none →
      let w : Nat := max 1 r.ob.toNat
      let chans (dones : Bool) : List (Fin 16) := (maskChans r.oa).filter fun ch => x.doneChan k.page k.pe ch == dones
      let enables (i : Instr) : Prop := room (chans false) →
        becomes i [] (chans false) { data := BitVec.ofNat 64 (st.issued + 1), ctl := 0x09 } fun u => u = { st with issued := st.issued + 1 }
      let ends (i : Instr) (u : RouterState) : Prop := room (chans true) → becomes i [] (chans true) { data := 1, ctl := 0x09 } fun v => v = u
      (∀ d, head r.ctl = some d → st.active = false →
        (∀ i ∈ [Instr.cseq r, .cpip r], becomes i [r.ctl] [] d fun u =>
          u = if d.hdr then st else { st with active := true, issued := 0, dones := 0 }) ∧
        (st.acts < 64 → (st.dones < w ∨ st.acts = 0) → becomes (.cstr r) [r.ctl] [] d fun u =>
          u = if d.hdr then st else { st with active := true, issued := 0, acts := st.acts + 1 })) ∧
      (st.active = true →
        (st.issued ≤ st.dones → st.issued < w → enables (.cseq r)) ∧
        (st.issued ≤ st.dones → w ≤ st.issued → ends (.cseq r) { st with active := false }) ∧
        (st.issued < w → enables (.cpip r)) ∧
        (w ≤ st.issued → w ≤ st.dones → ends (.cpip r) { st with active := false }) ∧
        (st.dones < w → st.issued < w → enables (.cstr r))) ∧
      (w ≤ st.dones → 0 < st.acts → ends (.cstr r) { st with dones := st.dones - w, acts := st.acts - 1 }))

/-- Under the preconditions it names, each event has its effect: a wait that needs nothing more ends; LOAD becomes RUN; a
drained thread leaves its slot EMPTY and is counted by its launch; an unrecorded full-empty waiter is recorded; a walk goes
on with a table and ends with a leaf in the TLB; a page fill, where no full-empty waiter stands at a granule of its page,
copies the peer's page and lets its waiters go on; WATCH and ORPHAN are taken; a landing request reserves a free slot or is
refused, and its answer goes back; a caravan lands in LOAD; no message overtakes one sent before it between the same
interfaces; a token is granted when free, queued when held, and after a recall free or passed to the oldest waiter, to which
a grant goes; evictions keep what they must; a timed wait past its limit reports 1; a signal is ORed in; the controller
answers HSTAT; for HNEW it allocates the lowest free number under the parent named or answers its error code; a confirm
frees the number with its outcome, hands its threads, children and versions to the parent, and a refute frees the subtree
and drops its versions, each in one step, and the issuer goes on; an outcome becomes visible in the order of the
controller's; launches start, land their threads with their registers, and complete: they leave their queues, raise SQINT
and write the eight words of their record; a door's parked ticket lands. The order of messages between interfaces
(assumption 17), the one step of a merge or discard (assumption 20) and the choices of the schedule (assumption 1) are the
model's. (R81, R82, R104, R153, R154, R164, R170, R190, R191, R246, R353, R385) -/
def Obligations.EventsOfThreads : Prop :=
  ∀ (s : State) (p : Place) (c : Fin 16), s.th.place = p → s.th.cx = c →
    (∀ w, (w ∈ [Wait.none, .queue, .port, .retire, .device] ∨ ∃ pa, w = .version pa) → s.th.wait = w → s.th.st = .wait →
      s.th.resident = true → s.isOrphan = false →
      exec (.issueWaitComplete p) s = .next { s with th := { s.th with st := .run, wait := .none } }) ∧
    (s.th.st = .load → s.th.resident = true →
      exec (.imageWriteComplete p) s = .next { s with th := { s.th with st := .run, wait := .none } }) ∧
    (∀ (n : Fin 1024) (k : Fin 16) (id : Nat) (l : Launch), p = .slot n k → s.th.st = .drain → s.sbuf = [] → s.cache = [] →
      (s.ctx s.th.ctx).tokens = [] → s.pendingFault s.th.ctx = false → (∀ u ∈ s.rest, u.place ≠ .slot n k ∧ u.place ≠ .caravan n k) → s.th.origin = .launch id →
      l ∈ (s.ctx s.th.ctx).queues → l.id = id →
      ∃ t, exec (.drainComplete p) s = .next t ∧ t.slotEmpty n k = true ∧ s.th.tid ∉ (t.ctx s.th.ctx).tids ∧ t.mem = s.mem ∧
        { l with ended := l.ended + 1, good := l.good + 1, flags := l.flags ||| s.th.tflags } ∈ (t.ctx s.th.ctx).queues) ∧
    (∀ pa size tag va dst consume limit ins, s.th.wait = .full pa size tag va dst consume false limit ins → s.fullHome pa = false →
      s.recordedAt pa < 64 → ∃ t, exec (.feWaiterRetry p) s = .next t ∧ t.feq = s.feq ++ [(pa / 16, .thread p, consume)] ∧ t.mem = s.mem ∧
        t.th = { s.th with wait := .full pa size tag va dst consume true limit ins }) ∧
    (∀ addr va level table why, s.th.wait = .walk addr va level table why →
      (∀ pa, s.walkStep c level (s.walkRead level table va) = .table pa → ∃ t, exec (.tlbWalkLevelReturn p) s = .next t ∧
        t.th.wait = .walk addr va (level + 1) pa why ∧ t.th.st = .wait ∧ t.mem = s.mem ∧ t.th.pc = s.th.pc) ∧
      (∀ e, s.walkStep c level (s.walkRead level table va) = .leaf e →
        (s.tlb.filter fun (x : TlbEntry) => decide (x.owner = .core s.th.core)).length < 1024 →
        ∃ t, exec (.tlbWalkLevelReturn p) s = .next t ∧ t.th.st = .run ∧ t.th.wait = .none ∧ t.mem = s.mem ∧ t.th.pc = s.th.pc ∧
          t.tlb = s.tlb ++ [{ owner := .core s.th.core, ctx := c, va := va / 2 ^ leafLog level * 2 ^ leafLog level, log2 := leafLog level,
                              leaf := e, stale := false }]) ∧
      (∀ cause, s.walkStep c level (s.walkRead level table va) = .fault cause →
        (why = .prefetch → ∃ t, exec (.tlbWalkLevelReturn p) s = .next t ∧ t.th.st = .run ∧ t.th.pc = s.th.pc + 4 ∧ t.tlb = s.tlb) ∧
        (why ≠ .prefetch → s.th.onControl = true → cause < 256 →
          ∃ t, exec (.tlbWalkLevelReturn p) s = .next t ∧ t.th.sv.scause = BitVec.ofNat 64 cause ∧ t.th.sv.sfaddr = addr ∧
            t.th.sv.sepc = s.th.pc ∧ t.th.pc = s.th.sv.svec.setWidth 52 ∧ t.tlb = s.tlb))) ∧
    (∀ (k va : Nat) (e : Word) (dst src : Nat), (s.ctx c).fills = [(k, va)] → (∀ d, d ≠ c → (s.ctx d).fills = []) → s.mem.wf → s.peers.wf →
      s.peers.poison = [] → s.fillOpen c = true → s.isLocal k = true → e = BitVec.ofNat 64 (s.readHome 0 0 k 8) → dst = offsetOf (pteAddr e) →
      src = bits (s.reg (cxpeerAt c)) 0 11 * 2 ^ 41 + dst → spaceOf (offsetOf k) = .hbm → dst % 16 = 0 → src % 16 = 0 →
      (∀ w ∈ s.feq, s.isLocal (16 * w.1) = true → offsetOf (16 * w.1) < dst ∨ dst + 65536 ≤ offsetOf (16 * w.1)) → ∃ t, exec (.pageFillComplete k false) s = .next t ∧ (t.ctx c).fills = [] ∧ (∀ u ∈ t.threads, u.wait.fills k = false) ∧
        t.mem.read (offsetOf k) 8 = (e.toNat ||| 1) ∧ t.peers = s.peers ∧
        (∀ j, j < 65536 → (dst + j < offsetOf k ∨ offsetOf k + 8 ≤ dst + j) → t.mem.byte (dst + j) = s.peers.byte (src + j)) ∧
        (∀ j, j < 4096 → t.mem.tag (dst + 16 * j) = s.peers.tag (src + 16 * j)) ∧
        (∀ a, (a < dst ∨ dst + 65536 ≤ a) → (a < offsetOf k ∨ offsetOf k + 8 ≤ a) → t.mem.byte a = s.mem.byte a)) ∧
    (∀ w, s.watchDue = true → s.th.watches = [w] →
      exec (.watchDeliver p) s = .next (State.deliverMade { s with th := { s.th with watches := [] } } w.record true)) ∧
    (s.isOrphan = true → s.th.onControl = true → s.th.st = .run → s.th.wait = .none → ∃ t, exec (.orphan p) s = .next t ∧
      t.th.sv.scause = 0x1B ∧ t.th.sv.sepc = s.th.pc ∧ t.th.pc = s.th.sv.svec.setWidth 52 ∧ t.th.g = s.th.g ∧ t.th.f = s.th.f) ∧
    (∀ (k : Nat) (l : Landing), s.land[k]? = some l → l.grant = none → l.place = p → s.overtakes l.way = false →
      (∀ j, s.takesLandings l.target s.th.ctx = true → (s.site l.target).on = true → s.openSlot l.target = some j →
        ∃ t w, exec (.landingRequestArrive k) s = .next t ∧ t.land = s.land.set k { l with grant := some (some j), way := w } ∧
          w.src = l.way.dst ∧ w.dst = l.way.src ∧ bit (t.site l.target).reserve j = true ∧ t.th = s.th ∧ t.mem = s.mem) ∧
      (s.takesLandings l.target s.th.ctx = false → ∃ t w, exec (.landingRequestArrive k) s = .next t ∧
        t = { s with land := s.land.set k { l with grant := some none, way := w }, clock := t.clock } ∧
        w.src = l.way.dst ∧ w.dst = l.way.src)) ∧
    (∀ (k : Nat) (l : Landing), s.land[k]? = some l → s.overtakes l.way = true →
      exec (.landingRequestArrive k) s = .next s ∧ (l.grant.isSome = true → exec (.landingReplyArrive k) s = .next s)) ∧
    (∀ (k : Nat) (x : Thread) (n : Fin 1024) (j : Fin 16), s.caravanAt k = some x → x.place = .caravan n j →
      (∀ w, x.way = some w → s.overtakes w = false) →
      (s.ctx x.ctx).resetting = false → (s.site n).status = .enabled → ∃ t, exec (.caravanLand k) s = .next t ∧
        bit (t.site n).reserve j = false ∧ t.mem = s.mem ∧ ∃ u ∈ t.threads, u.place = .slot n j ∧ u.st = .load ∧ u.tid = x.tid ∧
          u.ctx = x.ctx ∧ u.g = x.g ∧ u.f = x.f ∧ u.pc = x.pc) ∧
    (∀ (k r : Nat) (who : Holder) (q : Place) (b : Bool) (x : Thread) (i : Instr) (m : TokenMsg), s.tokmsgs[k]? = some m →
      ((∃ w, i = .tokenRequestArrive k ∧ m = .request c r who q b w ∧ s.overtakes w = false) ∨
        i = .tokenRequestRetry k ∧ m = .retry c r who q b) →
      s.findHolder c who = some x → s.takesGrants x = true →
      ((s.token c r).holder = none → ∃ t w, exec i s = .next t ∧ t.tokmsgs = s.tokmsgs.eraseIdx k ++ [.grant c r who q w] ∧
        (t.token c r).holder = some who ∧ (t.token c r).site = some x.core ∧ t.mem = s.mem ∧ t.th = s.th) ∧
      (∀ u, (s.token c r).holder = some u → u ≠ who → (s.token c r).queue.length < 256 →
        ∃ t, exec i s = .next t ∧ t.tokmsgs = s.tokmsgs.eraseIdx k ∧ (t.token c r).holder = some u ∧
          (t.token c r).queue = (s.token c r).queue ++ [(who, b)] ∧ t.mem = s.mem ∧ t.th = s.th)) ∧
    (∀ (r : Nat) (who : Holder), r < 4096 → (s.token c r).called = true → (s.token c r).used = true →
      (s.token c r).holder = some who → s.holderBusy c r who = false → s.sbuf = [] → s.cache = [] →
      ((s.token c r).queue = [] → ∃ t, exec (.tokenRecallComplete (c.val * 4096 + r)) s = .next t ∧ (t.token c r).holder = none ∧
        (t.token c r).site = none ∧ t.tokmsgs = s.tokmsgs ∧ t.mem = s.mem) ∧
      (∀ next b l x, (s.token c r).queue = (next, b) :: l → s.findHolder c next = some x → s.takesGrants x = true →
        ∃ t w, exec (.tokenRecallComplete (c.val * 4096 + r)) s = .next t ∧ (t.token c r).holder = some next ∧
          (t.token c r).site = some x.core ∧ (t.token c r).queue = l ∧ (t.token c r).used = false ∧
          t.tokmsgs = s.tokmsgs ++ [.grant c r next x.place w] ∧ t.mem = s.mem)) ∧
    (∀ (line : Nat), (∀ v ∈ s.vers, v.line ≠ line) → ∃ t, exec (.llcEvict line) s = .next t ∧ t = { s with llc := t.llc } ∧
      (s.llc.Pairwise (fun a b => a.1 < b.1) → ∀ e ∈ t.llc, e.1 ≠ line)) ∧
    (∀ (k : Nat) (x : CacheLine), s.cache[k]? = some x → s.mem.wf → hypNum x.hyp = 0 → x.line * 64 + 64 ≤ 0x12000000000 →
      ∃ t, exec (.cacheEvict k) s = .next t ∧ t.cache = s.cache.eraseIdx k ∧ t.th = s.th ∧
        (∀ j : Fin 64, t.mem.byte (x.line * 64 + j) =
          if x.dirty.getLsbD j then BitVec.ofNat 8 (bits x.data (8 * j) 8) else s.mem.byte (x.line * 64 + j)) ∧
        (∀ a, (a < x.line * 64 ∨ x.line * 64 + 64 ≤ a) → t.mem.byte a = s.mem.byte a)) ∧
    (∀ (d : Reg) (limit : Word), s.th.wait = .signal d limit → s.th.st = .wait → s.th.resident = true → s.isOrphan = false → s.th.sigs = 0 →
      limit.toNat ≤ (s.tnow s.th).toNat → ∃ t, exec (.timedWaitTimeout p) s = .next t ∧ t.th.st = .run ∧ t.th.wait = .none ∧
        t.th.pc = s.th.pc + 4 ∧ t.mem = s.mem ∧ ∀ r, t.gr r = if r = d ∧ d ≠ 0 then 1 else s.gr r) ∧
    (∀ (k : Nat) (g : Signal) (x : Thread), s.signals[k]? = some g →
      (∀ e ∈ s.signals.take k, e.who ≠ g.who ∨ e.ctx ≠ g.ctx ∨ e.tid ≠ g.tid) → s.overtakes g.way = false → s.findTid g.ctx g.tid = some x →
      ∃ t, exec (.signalDeliver k) s = .next t ∧ t.signals = s.signals.eraseIdx k ∧
        ∃ u ∈ t.threads, u.place = x.place ∧ u.tid = x.tid ∧ u.sigs = x.sigs ||| g.bits ∧ u.pc = x.pc ∧ u.g = x.g) ∧
    (∀ (id : Nat) (d : Reg) (h : Handle) (q : Place) (l : List (Nat × HypReq)),
      ((s.ctx c).hypQ = (id, .stat p d h) :: l → s.th.wait = .hyp id → ∃ t, exec (.hypControllerRequest c) s = .next t ∧
        (t.ctx c).hypQ = l ∧ t.th.st = .run ∧ t.th.pc = s.th.pc + 4 ∧ t.mem = s.mem ∧
        ∀ r, t.gr r = if r = d ∧ d ≠ 0 then s.hypStatus c h else s.gr r) ∧
      ((s.ctx c).hypQ = (id, .new p d h) :: l → s.th.wait = .hyp id → ∃ t, exec (.hypControllerRequest c) s = .next t ∧
        (t.ctx c).hypQ = l ∧ t.th.st = .run ∧ t.th.pc = s.th.pc + 4 ∧ t.mem = s.mem ∧ ∀ r, r ≠ d → t.gr r = s.gr r) ∧
      (∀ i : Instr, s.th.wait = .hyp id → s.th.resident = true →
        ((s.ctx c).hypQ = (id, .conf p h) :: l ∧ i = .hconfMerge c ∧ s.sbuf = [] ∨ (s.ctx c).hypQ = (id, .refute p h) :: l ∧ i = .hrefDiscard c) →
        ∃ t, exec i s = .next t ∧ (t.ctx c).hypQ = l ∧ t.th.st = .run ∧ t.th.pc = s.th.pc + 4 ∧ t.th.g = s.th.g)) ∧
    (∀ (id : Nat) (d : Reg) (h up : Handle) (v : Word), (s.ctx c).hypQ = [(id, .new p d h)] → s.th.wait = .hyp id → d ≠ 0 →
      up = canonHandle h →
      (s.liveHyp c up = false ∧ v = 0x8000000000000002 ∨ s.liveHyp c up = true ∧ s.hypDepth c up = 8 ∧ v = 0x8000000000000003 ∨
        s.liveHyp c up = true ∧ s.hypDepth c up ≠ 8 ∧ (∀ n, 0 < n → n < 256 → (s.hyp c n).st ≠ .free) ∧ v = 0x8000000000000001 →
        ∃ t, exec (.hypControllerRequest c) s = .next t ∧ t.gr d = v ∧ (t.ctx c).hyps = (s.ctx c).hyps) ∧
      (∀ (n : Nat) (g : BitVec 16), s.liveHyp c up = true → s.hypDepth c up ≠ 8 → 0 < n → n < 256 → (s.hyp c n).st = .free →
        (∀ m, 0 < m → m < n → (s.hyp c m).st ≠ .free) → (s.ctx c).hyps.Pairwise (fun a b => a.1 < b.1) →
        g = (if (s.hyp c n).gen = 65535 then 1 else (s.hyp c n).gen + 1) →
        ∃ t, exec (.hypControllerRequest c) s = .next t ∧ t.gr d = (handleOf g n).setWidth 64 ∧ (∀ m, m ≠ n → t.hyp c m = s.hyp c m) ∧
          t.hyp c n = { st := .live, gen := g, parent := up, depth := s.hypDepth c up + 1, outcome := none, succ := none, named := 0 })) ∧
    (∀ (id : Nat) (h up : Handle), canonHandle h = h → hypNum h ≠ 0 → s.liveHyp c h = true → up = (s.hyp c (hypNum h)).parent →
      (s.ctx c).hyps.Pairwise (fun a b => a.1 < b.1) → s.th.wait = .hyp id → s.th.resident = true → s.sbuf = [] → s.cache = [] →
      ((s.ctx c).hypQ = [(id, .conf p h)] → (∀ u ∈ s.rest, u.thyp ≠ h) →
        (s.vers = [] ∨ ∃ v, s.vers = [v] ∧ v.ctx = c ∧ v.hyp = h) → ∃ t, exec (.hconfMerge c) s = .next t ∧ (t.ctx c).hypQ = [] ∧
        t.th.st = .run ∧ t.th.pc = s.th.pc + 4 ∧ t.th.thyp = (if s.th.thyp = h then up else s.th.thyp) ∧ t.th.g = s.th.g ∧
        (t.hyp c (hypNum h)).st = .free ∧ (t.hyp c (hypNum h)).outcome = some (true, hypGen h) ∧ (c, h) ∈ t.outmsgs ∧
        (∀ m, 0 < m → m < 256 → m ≠ hypNum h → (s.hyp c m).st = .live → (s.hyp c m).parent = h →
          (t.hyp c m).parent = up ∧ (t.hyp c m).depth = (s.hyp c m).depth - 1) ∧
        (s.vers = [] → t.vers = [] ∧ t.mem = s.mem) ∧
        (∀ v, s.vers = [v] → hypNum up ≠ 0 → t.vers = [{ v with hyp := up }] ∧ t.mem = s.mem) ∧
        (∀ v, s.vers = [v] → hypNum up = 0 → s.mem.wf → t.vers = [] ∧
          (∀ k : Fin 64, t.mem.byte (v.line * 64 + k) = BitVec.ofNat 8 (bits v.data (8 * k) 8)) ∧
          ∀ a, (a < v.line * 64 ∨ v.line * 64 + 64 ≤ a) → t.mem.byte a = s.mem.byte a)) ∧
      ((s.ctx c).hypQ = [(id, .refute p h)] → (∀ e ∈ (s.ctx c).hyps, e.1 < 256 ∧ e.2.st ≠ .refuting) →
        let dies (g : Handle) : Prop := ∃ m, 0 < m ∧ m < 256 ∧ (s.hyp c m).st = .live ∧ g = handleOf (s.hyp c m).gen m ∧
          s.inSubtree c h g = true
        ∃ t, exec (.hrefDiscard c) s = .next t ∧ (t.ctx c).hypQ = [] ∧ t.th.st = .run ∧ t.th.pc = s.th.pc + 4 ∧ t.th.thyp = s.th.thyp ∧
          t.mem = s.mem ∧ (∀ m, dies (handleOf (s.hyp c m).gen m) → 0 < m → m < 256 → (s.hyp c m).st = .live →
            (t.hyp c m).st = .free ∧ (t.hyp c m).outcome = some (false, (s.hyp c m).gen)) ∧
          (∀ g, dies g → (c, g) ∈ t.outmsgs) ∧ ∀ v, v ∈ t.vers ↔ v ∈ s.vers ∧ ¬ (v.ctx = c ∧ dies v.hyp))) ∧
    (∀ (j n : Nat) (d : Fin 16) (h : Handle) (m : CoreId), s.outmsgs[j]? = some (d, h) → n < 1040 →
      (∀ e ∈ s.outmsgs.take j, e.1 = d → { ctx := d, h := e.2, core := m } ∈ s.seen) →
      (∀ k : Fin 1024, n = k.val → m = .site k) → (∀ k : Fin 16, n = 1024 + k.val → m = .control k) →
      ∃ t, exec (.hypOutcomeArrive (j * 2048 + n)) s = .next t ∧ t = { s with seen := t.seen } ∧ (∀ e ∈ s.seen, e ∈ t.seen) ∧
        { ctx := d, h := h, core := m } ∈ t.seen) ∧
    (∀ (q : Fin 64) (l : Launch), s.headOf c q = some (.launch l) → (s.ctx c).halted = false → (s.ctx c).resetting = false →
      (l.started = false → s.inOrder c l = true → bits l.desc.words[0] 0 2 = 0 → l.lnci = none → l.invalid l.count = false →
        bit (s.reg (lqcfgAt c q)) 63 = true → s.liveHyp c (canonHandle (l.desc.words[2].setWidth 32)) = true → l.count ≠ 0 →
        (s.freeRecord c).isSome = true → (s.bestSite c (s.groupNow (s.queueGroup c q)).members).isSome = true →
        ∃ t, exec (.launchStart c q) s = .next t ∧ t.mem = s.mem ∧ t.th = s.th ∧ ∃ m ∈ (t.ctx c).queues, m.id = l.id ∧ m.started = true ∧
          m.count = l.count ∧ m.prio = s.queuePrio c q ∧ m.group = s.queueGroup c q ∧ m.version = s.groups.ver) ∧
      (∀ n k i, l.started = true → s.wantsSlot c q = true → s.bestSite c (s.groupAt l.version l.group).members = some (n, k) →
        s.outranked c q n = false → (s.site n).on = true → s.freeRecord c = some i →
        ∃ t, exec (.threadLand c q) s = .next t ∧ t.mem = s.mem ∧ ∃ u ∈ t.threads, u.place = .slot n k ∧ u.st = .load ∧ u.ctx = c ∧
          u.tid = BitVec.ofNat 24 (i + 1) ∧ u.pc = l.desc.words[1].setWidth 52 ∧ u.thyp = canonHandle (l.desc.words[2].setWidth 32) ∧
          u.origin = .launch l.id ∧ u.gr 1 = 0 ∧ u.gr 31 = 0 ∧ u.tmode = 1 ∧ u.tflags = 0 ∧
          u.gr 10 = l.desc.words[15] + BitVec.ofNat 64 l.landed ∧ (∀ j, j < 7 → u.gr (Fin.ofNat 32 (3 + j)) = l.desc.words.toList.getD (8 + j) 0))) ∧
    (∀ (k : Nat) (l : Launch) (st : Nat), (s.ctx c).queues[k]? = some l →
      (l.status = some st ∨ l.status = none ∧ l.started = true ∧ bits l.desc.words[0] 0 2 = 0 ∧ l.ended = l.count ∧ l.landed = l.count ∧
        st = if l.fault then 2 else 0) →
      let a : Nat := bits l.desc.words[3] 0 52
      let kind : Nat := bits l.desc.words[0] 0 2
      ∃ t, exec (.launchComplete c k) s = .next t ∧ (t.ctx c).queues = (s.ctx c).queues.filter (fun m => m.id ≠ l.id) ∧
        (a = 0 → t.mem = s.mem ∧ t.th = s.th ∧ (kind = 1 ∨ bit l.desc.words[0] 9 = true → bit (t.reg (sqintAt c)) 0 = true)) ∧
        (∀ pa, a ≠ 0 → a % 64 = 0 → st < 256 → s.mem.wf → s.feq = [] → s.engineAddress c a false true = .ok pa → s.isLocal pa = true →
          pa % 64 = 0 → let word (j : Nat) : Nat := t.mem.read (offsetOf pa + 8 * j) 8
          word 0 = 2 ^ 63 + l.queue.val * 65536 + kind * 256 + st ∧ word 1 = 0 ∧ word 2 = l.good % 2 ^ 64 ∧
          word 3 = bits l.flags 0 5 ∧ word 5 = bits l.desc.words[2] 0 32 ∧ word 6 = l.fcnt % 2 ^ 32 * 2 ^ 32 + l.fseq.toNat ∧
          word 7 = 0 ∧ ∀ b, (b < offsetOf pa ∨ offsetOf pa + 64 ≤ b) → t.mem.byte b = s.mem.byte b)) ∧
    (∀ (i d r : Nat) (x : Inst) (v : Serai) (b : Word × Word) (tk : Ticket) (n : Fin 1024) (k : Fin 16) (pg pe : Nat), s.insts[i]? = some x →
      x.serais[d]? = some v → v.bound = some b → (s.ctx x.ctx).halted = false → x.sites ≠ [] → s.instActs x = true → x.doorAt d = some (pg, pe) →
      s.doorSaved x.ctx x.uid d = none → (v.places.find? fun (t : Ticket) => t.st == .parked) = some tk → s.freeRecord x.ctx = some r →
      s.doorSlot x.ctx (nearSites (x.siteOf pg)) = some (n, k) → (s.site n).on = true →
      (v.places.filter fun (t : Ticket) => t.st == .running).length < (x.door d).slots →
      ∃ t, exec (.doorThreadLand i d) s = .next t ∧ t.mem = s.mem ∧ ∃ u ∈ t.threads, u.place = .slot n k ∧ u.st = .load ∧ u.ctx = x.ctx ∧
        u.pc = (x.door d).entry ∧ u.thyp = x.hyp ∧ u.gr 3 = tk.req.data ∧ u.gr 4 = BitVec.ofNat 64 tk.ticket ∧ u.gr 5 = b.2 ∧
        u.gr 6 = BitVec.ofNat 64 tk.pos ∧ u.gr 7 = BitVec.ofNat 64 (x.num * 256 + d))

/-- Under the preconditions it names, each event has its effect: a credit returns to the one channel it belongs to; a flit
arrives at the channel or endpoint its link names; the one access of a port that its checks pass reads or writes memory and
its answer leaves, and one that fails is spilled; a row buffer drains into its slot; a command is accepted with the next ID,
from the port or from the best graph's program, whose failed fetch stops the graph; a finished command leaves, counts for
its graph and raises SQINT, and an SSYN writes its word; a placement or a saved instance takes free pages, in PLACING; the
displaced, compacted, saved, placed, idle, hanging, overdue or failed instance changes state; at a segment boundary flags
and tiles go to the graph, the windows of the slot are opened and a wanted release is carried out; a graph that is over
leaves its slot and its launch its queue, with no instance or placement left to it and its record written; a transfer starts
with its descriptor or is refused, ends, or commits its row or spills that write; an edge program takes or gives a flit; a
table version is freed; a door's header or result leaves; a sampled tile's comparison is counted; and the writes that retry,
discard, resume or reload act on exactly what waits. How the sequencer's work is split into events (assumptions 1 and 28),
which placements go first (assumption 30), when engines have drained (assumption 31), the checking run (assumption 47) and
the migration's commit (assumption 40) are the model's choices. (R314, R321, R327, R334, R338, R344, R346, R355, R357, R363,
R377, R451) -/
def Obligations.EventsOfEngines : Prop :=
  ∀ (s : State) (i : Nat) (x : Inst), s.insts[i]? = some x →
    (∀ (k : Nat) (w : Wire) (h : Fin 16), x.credits[k]? = some w → w.ch = h.val →
      ∃ (t : State) (y : Inst), exec (.creditReturn i k) s = .next t ∧ t.mem = s.mem ∧ t.insts[i]? = some y ∧
        y.credits = x.credits.eraseIdx k ∧ y.wires = x.wires ∧
        ∀ j : Fin 16, (y.peAt w.page w.pe).credit[j] = (x.peAt w.page w.pe).credit[j] + (if j = h then 1 else 0)) ∧
    (∀ (k : Nat) (w : Wire) (l : Link), firstOf x.wires k = some w → x.cfg.linkOf w.page w.pe w.ch = some l →
      (∀ (pg pe : Nat) (h : Fin 16), l.endpoint = none → x.cfg.target l = some (pg, pe, h.val) →
        ∃ (t : State) (y : Inst), exec (.flitArrive i k) s = .next t ∧ t.mem = s.mem ∧ t.insts[i]? = some y ∧ y.wires = x.wires.eraseIdx k ∧
          (y.peAt pg pe).ins[h] = (x.peAt pg pe).ins[h] ++ [w.flit] ∧ y.active = s.instTime x) ∧
      (∀ ep : Nat, l.endpoint = some ep →
        ∃ (t : State) (y : Inst), exec (.flitArrive i k) s = .next t ∧ t.mem = s.mem ∧ t.insts[i]? = some y ∧ y.wires = x.wires.eraseIdx k ∧
          (y.arm ep).fed = (x.arm ep).fed ++ [w.flit] ∧ (y.arm ep).armed = if w.flit.eot then (x.arm ep).armed - 1 else (x.arm ep).armed)) ∧
    (∀ (page : Nat) (port : Fin 4) (a : PortAccess) (d : Flit) (mask : BitVec 16),
      mask = BitVec.ofNat 16 (bits (x.nodeWord page (portPe port)) 20 16) → s.instActs x = true → (x.port page port).acc[0]? = some a →
      a.done = some d → x.space page (portPe port) mask = true →
      ∃ (t : State) (y : Inst), exec (.portResultReturn i page port 0) s = .next t ∧ t.mem = s.mem ∧ t.insts[i]? = some y ∧
        (y.port page port).acc = shiftMarks (x.port page port).acc 0 ∧ y.wires.length = x.wires.length + (maskChans mask).length) ∧
    (∀ (page : Nat) (port : Fin 4) (a : PortAccess) (mask : BitVec 16), mask = BitVec.ofNat 16 (bits (x.nodeWord page (portPe port)) 20 16) →
      s.instActs x = true → (x.port page port).acc = [a] → a.hdr = false → a.done = none → a.spilled = false →
      x.waveOpen page port a.iter = true → s.anyWatch = false →
      let emits (t : State) (y : Inst) (d : Word) : Prop := t.insts[i]? = some y ∧ (y.port page port).acc = [] ∧
        y.wires = x.wires ++ (maskChans mask).map fun ch => { page := page, pe := portPe port, ch := ch, flit := dataFlit d a.marks false }
      (∀ pa, a.store = false → s.portCheck x page port a.va a.size 0 = .ok pa → (mask = 0 ∨ x.space page (portPe port) mask = true) →
        ∃ (t : State) (y : Inst), exec (.portResultReturn i page port 0) s = .next t ∧ t.mem = s.mem ∧
          emits t y (BitVec.ofNat 64 (s.readHome x.ctx x.hyp pa 8))) ∧
      (∀ (pa n : Nat), a.store = true → a.flit.psn = false → s.portCheck x page port a.va a.size 1 = .ok pa → s.localHbm pa = true →
        hypNum x.hyp = 0 → a.mask.toNat + 1 = 2 ^ n → 0 < n → n ≤ 8 → s.mem.wf →
        (mask = 0 ∨ x.space page (portPe port) mask = true) → ∃ (t : State) (y : Inst), exec (.portResultReturn i page port 0) s = .next t ∧
          t.mem.read (offsetOf pa) n = bits a.flit.data 0 (8 * n) ∧ emits t y a.addr ∧
          ∀ b, (b < offsetOf pa ∨ offsetOf pa + n ≤ b) → t.mem.byte b = s.mem.byte b) ∧
      (∀ e, s.portCheck x page port a.va a.size (if a.store then 1 else 0) = .error e → ∃ (t : State) (y : Inst),
        exec (.portResultReturn i page port 0) s = .next t ∧ t.insts[i]? = some y ∧ (y.port page port).flt = true ∧
          (y.port page port).acc = [{ a with spilled := true }] ∧ y.wires = x.wires ∧ ((x.port page port).flt = true → t.mem = s.mem))) ∧
    (∀ (page : Nat) (row : Fin 16) (b : RowBuf) (site : Nat) (param : BitVec 20), (x.section page).drainNext = some (row, b) →
      param = BitVec.ofNat 20 (bits (x.nodeWord page (x.leader page)) 0 20) → site = x.drainSite page param →
      s.engineActs x = true → s.accRoom site = true →
      (row = 15 → x.space page (x.leader page) (BitVec.ofNat 16 (bits (x.nodeWord page (x.leader page)) 20 16)) = true) →
      ∃ (t : State) (y : Inst), exec (.pageRowDrain i page row) s = .next t ∧ t.mem = s.mem ∧ t.insts[i]? = some y ∧
        (t.site site).acc.queue = s.accQueue site ++ [.rowAdd (x.siteOf page) (drainSlot param) row b.row b.counts] ∧
        (y.section page).rows[row] = setBuf (x.section page).rows[row] b.run RowBuf.cleared ∧
        (y.section page).runs = (x.section page).runs + (if row = 15 then 1 else 0)) ∧
    (∀ (c : Fin 16) (k : Command) (l : List Command), (s.ctx c).port = k :: l → (s.ctx c).halted = false → (s.ctx c).resetting = false →
      (s.ctx c).streamReady .port = true → ∃ t : State, exec (.commandAccept c) s = .next t ∧ (t.ctx c).port = l ∧
        (t.ctx c).accepted = (s.ctx c).accepted ++ [{ k with id := (s.ctx c).nextId, upTo := s.clock }] ∧
        (t.ctx c).nextId = (s.ctx c).nextId + 1 ∧ t.mem = s.mem ∧ t.th = s.th ∧ t.insts = s.insts) ∧
    (∀ (c : Fin 16) (g : Fin 4) (r : Graph), (s.ctx c).port = [] → (s.ctx c).halted = false → (s.ctx c).resetting = false →
      s.nextGraph c = some (g, r) →
      let next (w : BitVec 128) : Command := { word := w, id := (s.ctx c).nextId, stream := .graph g, hyp := r.hyp, site := 0, slot := 0,
                                               begun := false, wrote := false, upTo := s.clock }
      (∀ (w : BitVec 128) (l : List (BitVec 128)), (r.ahead = w :: l ∨ r.ahead = [] ∧ l = [] ∧ s.programWord c r.pc = .ok w) →
        ∃ (t : State) (u : Graph), exec (.commandAccept c) s = .next t ∧ t.mem = s.mem ∧ t.insts = s.insts ∧
          (t.ctx c).accepted = (s.ctx c).accepted ++ [next w] ∧ (t.ctx c).nextId = (s.ctx c).nextId + 1 ∧
          (t.ctx c).graphs[g] = some u ∧ u.pc = r.pc + 16 ∧ u.ahead = l ∧
          u.ended = (r.ended || (bits w 120 8 == 0x06 && bits w 112 1 == 1)) ∧ u.status = r.status ∧ u.hyp = r.hyp) ∧
      (∀ e, r.ahead = [] → s.programWord c r.pc = .error e → ∃ (t : State) (u : Graph), exec (.commandAccept c) s = .next t ∧
        (t.ctx c).graphs[g] = some u ∧ u.ended = true ∧ u.status = some 2 ∧
        (t.ctx c).accepted = (s.ctx c).accepted.filter fun m => decide (m.stream ≠ .graph g) || m.begun)) ∧
    (∀ (c : Fin 16) (k : Command), ((s.ctx c).accepted.find? fun m => m.id = k.id) = some k → k.begun = true →
      let leaves (t : State) : Prop := exec (.commandComplete c k.id) s = .next t ∧ t.insts = s.insts ∧
        (t.ctx c).accepted = ((s.ctx c).accepted.filter fun m => m.id ≠ k.id) ∧ (k.field 118 1 = 1 → bit (t.reg (sqintAt c)) 1 = true) ∧
        ∀ (g : Fin 4) (r : Graph), k.stream = .graph g → (s.ctx c).graphs[g] = some r → ∃ u : Graph, (t.ctx c).graphs[g] = some u ∧
          u.last = some (match r.last with | some n => if (k.id - n).toNat < 2 ^ 31 then k.id else n | none => k.id)
      ((k.op ≠ 0x07 ∨ k.wrote = true) → s.commandDone c k = true → ∃ t, leaves t ∧ t.mem = s.mem) ∧
      (k.op = 0x07 → k.wrote = false → s.syncReady c k = true → (k.field 0 52 = 0 → ∃ t, leaves t ∧ t.mem = s.mem) ∧
        ∀ pa, k.field 0 52 ≠ 0 → k.field 0 52 % 8 = 0 → s.engineAddress c (k.field 0 52) false true = .ok pa → s.isLocal pa = true →
          s.feq = [] → s.mem.wf → ∃ t, leaves t ∧ t.mem.read (offsetOf pa) 8 = k.field 64 32 ∧
            ∀ b, (b < offsetOf pa ∨ offsetOf pa + 8 ≤ b) → t.mem.byte b = s.mem.byte b)) ∧
    (∀ (k : Nat), (∀ (c : Fin 16) (j : Nat) (p : Placement), s.waiting[k]? = some (.fresh c j p) → 0 < p.ninst →
        ((s.ctx c).halted = true ∨ (s.ctx c).resetting = true ∨ s.place c j p = none → exec (.instancePlace k) s = .next s) ∧
        (∀ u, (s.ctx c).halted = false → (s.ctx c).resetting = false → s.place c j p = some u → exec (.instancePlace k) s = .next u ∧
          (u.ctx c).places = (s.ctx c).places.eraseIdx j ∧ ∃ l : List Inst, u.insts = s.insts ++ l ∧ 0 < l.length ∧ l.length ≤ p.ninst ∧
            (p.partl = false → l.length = p.ninst) ∧ ∀ y ∈ l, y.st = .placing ∧ y.ctx = c ∧ y.slot = p.slot ∧ y.prio = p.prio ∧
              (s.ctx c).slots[fin 8 p.slot] = some y.cfg ∧ y.wt = leastWeight y.sites ∧
              ∀ n ∈ y.area, (s.site n).status = .enabled ∧ ∀ z ∈ s.insts, n ∉ z.area)) ∧
      (∀ u : State, s.waiting[k]? = some (.saved i x) → s.restore i x = some u → exec (.instancePlace k) s = .next u ∧
        ∃ y : Inst, u.insts[i]? = some y ∧ y.st = .placing ∧ y.pend = .none ∧ y.back = x.back ∧ y.pes = x.pes ∧ y.wires = x.wires ∧
          y.savedAcc = [] ∧ ∀ n ∈ y.area, (s.site n).status = .enabled ∧ ∀ (m : Nat) (z : Inst), m ≠ i → s.insts[m]? = some z → n ∉ z.area)) ∧
    (s.displaceable = some i → x.st = .run → ∃ (t : State) (y : Inst), exec (.instanceDisplace i) s = .next t ∧ t.mem = s.mem ∧
      t.insts[i]? = some y ∧ y = { x with pend := .save, waited := s.instTime x }) ∧
    (∀ lx ly : Nat, x.pend = .none → x.st = .run → (ly < x.anchor.2 ∨ ly = x.anchor.2 ∧ lx < x.anchor.1) →
      ((s.freeAnchors (s.groupNow x.group) x.cfg.extw x.cfg.exth (some i)).head?.map fun a => a.1) = some (lx, ly) → s.wanted x false = true →
      ∃ (t : State) (y : Inst), exec (.instanceCompact i lx ly) s = .next t ∧ t.mem = s.mem ∧ t.insts[i]? = some y ∧
        y = { x with version := s.groups.ver, pend := .move (some (lx, ly)), waited := s.instTime x }) ∧
    (x.st = .saving → s.slotEvents x = false → x.pend ≠ .release → ∃ (t : State) (y : Inst), exec (.instanceSaveComplete i) s = .next t ∧ t.mem = s.mem ∧
      t.insts[i]? = some y ∧ y.st = .saved ∧ y.sites = [] ∧ y.area = [] ∧ y.slots = [] ∧ y.pes = x.pes ∧ y.wires = x.wires ∧
      y.savedAcc = x.slots.map (fun (e : Nat × Nat) => ((s.site e.1).acc.rows[fin 4 e.2], (s.site e.1).acc.counts[fin 4 e.2]))) ∧
    (x.st = .placing → x.back ≠ .idle ∨ x.pend = .none → ∃ (t : State) (y : Inst), exec (.placingComplete i) s = .next t ∧ t.mem = s.mem ∧
      t.insts[i]? = some y ∧ y = { x with st := x.back, back := .idle, active := s.instTime x, waited := s.instTime x }) ∧
    ((x.st = .run ∧ s.atBoundary x = true ∨ x.st = .idle ∧ x.passed = false) → x.ownIdle = true → x.pend = .none →
      let c := x.ctx
      let last : Bool := (s.instsOf c x.slot).all fun e => e.1 == i || e.2.passed
      let opened : List Window := (s.ctx c).windows.filter fun w => w.slot = x.slot
      ∃ (t : State) (y : Inst), exec (.segmentBoundary i) s = .next t ∧ t.insts[i]? = some y ∧ y.st = .idle ∧ y.passed = true ∧
        y.flags = 0 ∧ y.segTiles = 0 ∧ y.tabs = [] ∧ y.area = x.area ∧ y.pes = x.pes ∧
        ((last = false ∨ opened = []) → t.mem = s.mem) ∧
        (∀ (g : Fin 4) (r : Graph), x.graph = some g → (s.ctx c).graphs[g] = some r → ∃ u : Graph, (t.ctx c).graphs[g] = some u ∧
          u.flags = r.flags ||| x.flags ∧ u.tiles = r.tiles + x.segTiles) ∧
        (∀ (w : Window) (pa : Nat), last = true → opened = [w] → s.engineAddress c w.ntf.toNat false true = .ok pa → s.isLocal pa = true →
          s.feq = [] → s.mem.wf → w.win < 16 → t.mem.read (offsetOf pa) 8 = 2 ^ 63 + w.win * 2 ^ 32 + (w.count + 1).toNat ∧
          ∀ b, (b < offsetOf pa ∨ offsetOf pa + 16 ≤ b) → t.mem.byte b = s.mem.byte b)) ∧
    (x.st = .idle → x.passed = true → (x.pend = .none → ∃ t, exec (.segmentBoundary i) s = .next t ∧ t.insts.length = s.insts.length ∧
        (x.ownIdle = true → t.mem = s.mem)) ∧
      (x.pend = .release → x.ownIdle = true → ∃ t, exec (.segmentBoundary i) s = .next t ∧ t.insts = s.insts.eraseIdx i ∧ t.mem = s.mem)) ∧
    (∀ (c : Fin 16) (g : Fin 4) (r : Graph) (u : State), u = s.noteDrain c → (u.ctx c).graphs[g] = some r →
      let ends (j : Instr) (st : Nat) : Prop := ∃ t, exec j s = .next t ∧ (t.ctx c).graphs[g] = none ∧
        (∀ l ∈ (t.ctx c).queues, l.id ≠ r.launch) ∧ (∀ z ∈ t.insts, ¬ (z.ctx = c ∧ z.graph = some g)) ∧
        (∀ p ∈ (t.ctx c).places, p.stream ≠ .graph g) ∧
        ∀ (l : Launch) (pa : Nat), ((s.ctx c).queues.find? fun m => m.id = r.launch) = some l → bits l.desc.words[3] 0 52 ≠ 0 →
          bits l.desc.words[3] 0 52 % 64 = 0 → u.engineAddress c (bits l.desc.words[3] 0 52) false true = .ok pa → s.isLocal pa = true →
          pa % 64 = 0 → s.feq = [] → s.mem.wf → st < 256 →
          t.mem.read (offsetOf pa) 8 = 2 ^ 63 + l.queue.val * 65536 + bits l.desc.words[0] 0 2 * 256 + st ∧
          t.mem.read (offsetOf pa + 8) 8 = (r.last.getD 0).toNat
      (∀ st : Nat, u.graphOver c g r = some st → ends (.graphEnd c g) st) ∧
      (∀ e : Word, r.drained = some e → r.ended = true → r.status = none → u.openHyp c r.hyp = true → u.graphIdle c g = true →
        u.sinksRetired c r.endSlot = false → e.toNat + u.hangTime c ≤ (u.seqTime c).toNat → ends (.sinkWaitTimeout c g) 3)) ∧
    (x.st = .run → x.monitored = true → x.unfinished = true → x.active.toNat + s.hangTime x.ctx ≤ (s.instTime x).toNat →
      (s.hardware x.ctx .hang = false → bit (s.reg (shmapAt x.ctx)) 0 = false → ∃ (t : State) (y : Inst), exec (.hangDetect i) s = .next t ∧
        t.mem = s.mem ∧ t.insts[i]? = some y ∧ y = { x with st := .shuttered, back := .run, shut := some .hang, shutAt := s.clock }) ∧
      (s.hardware x.ctx .hang = true → bit (s.reg (shmapAt x.ctx)) 0 = false → x.graph = none →
        ∃ t, exec (.hangDetect i) s = .next t ∧ t.insts = s.insts.eraseIdx i ∧ t.mem = s.mem)) ∧
    (x.st = .run → x.pend ≠ .none → x.waited.toNat + s.hangTime x.ctx ≤ (s.instTime x).toNat →
      (s.hardware x.ctx .hang = false → ∃ (t : State) (y : Inst), exec (.boundaryShutter i) s = .next t ∧ t.mem = s.mem ∧
        t.insts[i]? = some y ∧ y = { x with st := .shuttered, back := .run, shut := some .boundary, shutAt := s.clock }) ∧
      (s.hardware x.ctx .hang = true → ∃ (t : State) (y : Inst), exec (.boundaryShutter i) s = .next t ∧ t.mem = s.mem ∧
        t.insts[i]? = some y ∧ y.st = .run ∧ y.pend = .none ∧ y.shut = none)) ∧
    (∀ page : Nat, x.st = .run → x.area ≠ [] → page < x.cfg.pages.length → s.stagedGood x = true → (s.ctx x.ctx).cecnt < 4294967295 →
      ∃ (t : State) (y : Inst), exec (.cfgeccError i page) s = .next t ∧ t.mem = s.mem ∧ t.insts[i]? = some y ∧ y.st = .run ∧ y.shut = none ∧
        y.pes = x.pes ∧ (t.ctx x.ctx).cecnt = (s.ctx x.ctx).cecnt + 1) ∧
    (∀ (pos : Fin 128) (k : Queued) (l : List Queued), (s.streamer pos).queue = k :: l → (s.streamer pos).running < 16 →
      bits k.word 120 8 ≠ 0x15 ∨ s.migrations k.ctx < 16 →
      let u := s.setStreamer pos { s.streamer pos with queue := l }
      let bound : Prop := bits k.word 61 1 = 1 ∧ bits k.word 120 8 ≠ 0x15
      let runs (p : Xfer → Prop) : Prop := ∃ (t : State) (y : Xfer), exec (.transferStart pos) s = .next t ∧ t.mem = s.mem ∧
        (t.streamer pos).queue = l ∧ (t.streamer pos).xfers = (s.streamer pos).xfers ++ [y] ∧ y.ctx = k.ctx ∧ y.cmd = k.cmd ∧
        y.stream = k.stream ∧ y.at_ = 0 ∧ y.spent = false ∧ p y
      let refuses : Prop := ∃ t, exec (.transferStart pos) s = .next t ∧ (t.streamer pos).queue = l ∧
        (t.streamer pos).xfers = (s.streamer pos).xfers ∧ ∀ m ∈ (t.ctx k.ctx).accepted, m.id ≠ k.cmd
      (∀ (d : Desc) (ver : Nat), u.descOf k = .ok (d, ver) → u.sliceGood d = true →
        (¬ bound → runs fun y => y.desc = d ∧ y.version = ver ∧ y.hyp = k.hyp ∧ y.inst = none) ∧
        (∀ (n : Nat) (z : Inst), bound → u.named k.ctx (bits k.word 48 3) (BitVec.ofNat 10 (bits k.word 51 10)) = [n] → s.insts[n]? = some z →
          u.endpointsGood z d = true → runs fun y => y.desc = d ∧ y.version = ver ∧ y.hyp = z.hyp ∧ y.inst = some z.num ∧ y.slot = bits k.word 48 3)) ∧
      (∀ (e : EngineFault) (a : Word), u.descOf k = .error (e, a) → refuses) ∧
      (∀ (d : Desc) (ver : Nat), u.descOf k = .ok (d, ver) → u.sliceGood d = false → refuses)) ∧
    (∀ (pos : Fin 128) (k : Nat) (t : Xfer), (s.streamer pos).xfers[k]? = some t → t.spent = true →
      (∀ tbl row new old dst len entry, t.desc ≠ .migrate tbl row new old dst len entry) →
      (∀ e ∈ (s.streamer pos).spill, e.xfer ≠ t.id) → ∃ u : State, exec (.transferComplete pos k) s = .next u ∧ u.mem = s.mem ∧
        (u.streamer pos).queue = (s.streamer pos).queue ∧ (u.streamer pos).xfers = (s.streamer pos).xfers.filter fun v => v.id ≠ t.id) ∧
    (∀ (pos : Fin 128) (prog : Fin 4) (p : EdgeProg) (f : Flit) (l : List Flit), (s.slice pos).progs[prog] = some p →
      (p.absorbs = true → p.finished = false → p.streams = true → p.buf = f :: l →
        exec (.edgeProgramFlit pos prog) s = .next (s.progTake pos prog { p with buf := l } f)) ∧
      (∀ (n : Nat) (z : Inst) (u : State), p.absorbs = true → p.finished = false → p.streams = false → s.progInst p = some (n, z) →
        s.takeEp n z p.ep s.clock = some (f, u) → exec (.edgeProgramFlit pos prog) s = .next (u.progTake pos prog p f)) ∧
      (∀ (n : Nat) (z : Inst) (u : State), p.absorbs = false → p.streams = false → p.buf = f :: l → s.progInst p = some (n, z) →
        (s.setSlice pos { s.slice pos with progs := (s.slice pos).progs.set prog (some p) }).deliverEp n z p.ep p.feeding f = some u →
        exec (.edgeProgramFlit pos prog) s = .next (u.updProg pos prog fun (q : EdgeProg) => { p with buf := l, tile := !f.eot })) ∧
      (p.absorbs = false → p.streams = true → p.buf = [] → p.finished = false → ∃ t : State, exec (.edgeProgramFlit pos prog) s = .next t ∧
        t.mem = s.mem ∧ (t.slice pos).sram = (s.slice pos).sram ∧ (t.slice pos).progs[prog] = some (p.form (s.slice pos)))) ∧
    (∀ (k : Nat) (pos : Nat) (t : Xfer) (tbl row : Nat) (new old dst : Word) (len : Nat) (entry : Word) (pa : Nat),
      (s.streams.findSome? fun (q : Nat × Streamer) => (q.2.xfers.find? fun v => v.id = k).map fun v => (q.1, v)) = some (pos, t) →
      t.desc = .migrate tbl row new old dst len entry → t.spent = true → (s.streamer pos).spill = [] → s.updating t.ctx old len = false →
      s.filling t = false → t.at_ ≤ len → entry.toNat % 8 = 0 →
      (s.enginePointer t.ctx 0 entry 2 false true (some (fin 128 pos)) = .ok pa → s.localHbm pa = true → s.anyWatch = false → s.mem.wf →
        ∃ u, exec (.smigCommit k) s = .next u ∧ u.mem.read (offsetOf pa) 8 = new.toNat ∧
          (∀ b, (b < offsetOf pa ∨ offsetOf pa + 8 ≤ b) → u.mem.byte b = s.mem.byte b) ∧
          (u.streamer pos).xfers = (s.streamer pos).xfers.filter fun v => v.id ≠ t.id) ∧
      (∀ e, s.enginePointer t.ctx 0 entry 2 false true (some (fin 128 pos)) = .error e → s.fillFor t (bits entry 0 52) e = none →
        ∃ (u : State) (z : Spill), exec (.smigCommit k) s = .next u ∧ (u.streamer pos).spill = [z] ∧ z.xfer = t.id ∧ z.va = entry ∧
          z.write = true ∧ z.data = new.toNat ∧ (u.streamer pos).xfers.length = (s.streamer pos).xfers.length)) ∧
    (∀ (c : Fin 16) (k : Nat) (v : TableVer), (s.ctx c).tables[k]? = some v → v.current = false → s.versionUsed c v = false → v.free = 0 →
      ∃ t : State, exec (.tableVersionFree c k) s = .next t ∧ t.mem = s.mem ∧ t.insts = s.insts ∧
        (t.ctx c).tables = (s.ctx c).tables.eraseIdx k) ∧
    (∀ (door page pe : Nat) (v : DoorTile) (l : List DoorTile) (mask : BitVec 16), x.doorAt door = some (page, pe) →
      (x.serai door).tiles = v :: l → mask = BitVec.ofNat 16 (bits (x.nodeWord page pe) 20 16) → s.instActs x = true → x.space page pe mask = true →
      (v.hsent = false → ∃ (t : State) (y : Inst), exec (.doorResultRelease i door) s = .next t ∧ t.mem = s.mem ∧ t.insts[i]? = some y ∧
        (y.serai door).tiles = { v with hsent := true } :: l ∧ y.wires.length = x.wires.length + (maskChans mask).length) ∧
      (∀ p : Ticket, v.hsent = true → s.nextResult x door v.num = some p → (x.door door).ordered = true →
        ∃ (t : State) (y : Inst), exec (.doorResultRelease i door) s = .next t ∧ t.mem = s.mem ∧ t.insts[i]? = some y ∧
          y.serai door = (x.serai door).left v p ∧ y.wires.length = x.wires.length + (maskChans mask).length)) ∧
    (∀ (tile : Nat) (shadow : List (Nat × BitVec 64 × BitVec 8)) (anchor : Nat × Nat),
      let free : List (Nat × Nat) := (s.freeAnchors (s.groupAt x.version x.group) x.cfg.extw x.cfg.exth none).map (·.1)
      let own : List (Nat × BitVec 64 × BitVec 8) := (x.tape.filter fun e => e.tile == tile && e.out).map fun e => (e.ep, e.flit.data, e.flit.ctl)
      let r : Word := s.reg rrstatAt
      let next (n : Nat) : Nat := min 4294967295 (n + 1)
      ((s.sampled x = false ∨ x.tileOut tile = false ∨ (free ≠ [] ∧ anchor ∉ free)) →
        exec (.rerunCompare i tile shadow anchor) s = .next s) ∧
      (s.sampled x = true → x.tileOut tile = true → (free = [] ∨ anchor ∈ free) →
        ∃ t, exec (.rerunCompare i tile shadow anchor) s = .next t ∧ t.mem = s.mem ∧
        t.insts = s.insts.set i { x with tape := x.tape.filter fun e => e.tile != tile } ∧
        bits (t.reg rrstatAt) 0 32 = (if free = [] then next (bits r 0 32) else bits r 0 32) ∧
        bits (t.reg rrstatAt) 32 32 = (if free ≠ [] ∧ signature own ≠ signature shadow then next (bits r 32 32) else bits r 32 32))) ∧
    (∀ (site : Fin 1024) (port : Fin 4) (page : Nat) (a : PortAccess), s.pageOn site = some (i, page) →
      ((x.port page port).acc = [a] → a.spilled = true → exec (.presRetry site port) s =
        .next ((s.stir i (x.setPort page port { x.port page port with flt := false })).retryAccess i page port a.iter)) ∧
      (0 < (x.port page port).spills → ∃ (t : State) (y : Inst), exec (.presDiscard site port) s = .next t ∧ t.mem = s.mem ∧
        t.insts[i]? = some y ∧ (y.port page port).flt = false ∧ (y.port page port).spills = 0 ∧ y.wires = x.wires)) ∧
    (∀ (pos : Fin 128) (c : Fin 16) (e : Spill) (u : State), ((s.streamer pos).spill.filter fun z => z.ctx = c) = [e] →
      u = s.setStreamer pos { s.streamer pos with spill := (s.streamer pos).spill.filter fun z => z.ctx ≠ c,
                                                  flt := (s.streamer pos).flt.filter fun z => z.1 ≠ c } →
      exec (.stresRetry pos c) s = .next (u.retrySpill pos e) ∧ exec (.stresDiscard pos c) s = .next (u.discardSpill pos e)) ∧
    (∀ (c : Fin 16) (v : Word), (s.insts.findIdx? fun (z : Inst) => z.ctx = c && z.slot == bits v 56 3 && z.num == bits v 32 10) = some i →
      x.st = .shuttered → x.back = .run →
      (x.shut ≠ some .retire → ∃ (t : State) (y : Inst), exec (.shutctlResume c v) s = .next t ∧ t.mem = s.mem ∧ t.insts[i]? = some y ∧
        y = { x with st := .run, back := .idle, shut := none, active := s.instTime x, waited := s.instTime x }) ∧
      (x.graph = none → exec (.shutctlDiscard c v) s = .next (s.release_ i)) ∧
      (∀ g : Fin 4, x.graph = some g → exec (.shutctlDiscard c v) s = .next (s.finishGraph x.ctx g 5)) ∧
      (s.stagedGood x = false → exec (.shutctlReload c v) s = exec (.shutctlDiscard c v) s) ∧
      (s.stagedGood x = true → x.shut = some .hang → exec (.shutctlReload c v) s = exec (.shutctlResume c v) s))

/-- Under the preconditions it names, each event has its effect: a retirement whose site is empty ends; the
resynchronisation pulse steps every field's counter that is behind the reference to it and holds every one that is ahead; a
failed request sets UNR; a link change is seen in its port's word; a core switches off or on; fields more than 10 % apart
get ballast on the lower one and pacing on the higher one; start-up clears all but what lasts; the management port issues
nonces, resets owners, enrols keys and attests; each write of a device register that has a behaviour of its own stores its
fields and acts as that register says; and LD.D of a device register whose checks pass brings its value into the register
and changes no memory and no device register: the stored bits of a register that stores, the fields that the device
computes, and 0 from a write-only one. Choices of the model: that such an event is one step of its own (assumption 1); the
reference of the pulse (51); which request of a thread fails (45); ballast, pacing, the wake order and how staging checks an
image (47); what lasts through a start-up and an owner change and the units of a stage (11); what a management request
covers and the nonce (46, 7, 5); which accesses hold TLBSTAT.BUSY and when the table read applies (50); which writes store
which fields (27, 44) and what a discarded thread leaves (19). (R16, R153, R188, R208, R232, R235, R419, R434, R443, R445,
R449, R450) -/
def Obligations.EventsOfTheSystem : Prop :=
  ∀ (s : State) (c : Fin 16),
    (∀ r : Retirement, s.retire = some r → r.begun = true → r.forced = false → s.residents r.site = [] →
      (∀ x ∈ s.insts, r.site.val ∉ x.area) → ∃ t : State, exec .retirementRun s = .next t ∧ t = s.endRetirement r.site ∧ t.retire = none ∧
        (t.site r.site).status = .retired) ∧
    (∃ t : State, exec .resyncPulse s = .next t ∧ t.mem = s.mem ∧ t.threads = s.threads ∧ t.regs = s.regs ∧ t.insts = s.insts ∧ t.ref = s.ref ∧
      ∀ j : Fin 8, t.fields[j].fact = s.fields[j].fact ∧ t.fields[j].hold = decide (s.ref.toNat < s.fields[j].time.toNat) ∧
        t.fields[j].time = if s.fields[j].time.toNat < s.ref.toNat then s.ref else s.fields[j].time) ∧
    (∀ (pos : Fin 128) (k : Nat), ∃ t : State, exec (.routeRequestFail (.streamer pos) k) s = .next t ∧ t = { s with silent := t.silent } ∧
      ∀ q : Fin 128, q ∈ t.silent ↔ q = pos ∨ q ∈ s.silent) ∧
    (∀ pa : Nat, bits (s.reg (rtmapAt (pa / 2 ^ 41))) 0 48 ≠ 0 → s.routePort pa < 48 ∧
      bit (s.reg (rtmapAt (pa / 2 ^ 41))) (s.routePort pa) = true ∧
      ((List.range (s.routePort pa)).filter fun p => bit (s.reg (rtmapAt (pa / 2 ^ 41))) p).length =
        pa / 64 % ((List.range 48).filter fun p => bit (s.reg (rtmapAt (pa / 2 ^ 41))) p).length) ∧
    (∀ p : Place, s.th.place = p →
      (∀ (pa : Nat) (addr : Word) (a : Option RemoteAtom), s.th.wait = .remote false pa addr a →
        exec (.routeRequestFail (.thread p) 0) s =
          trapWith (s.wake.failRoute (pa / 2 ^ 41)) 0x0C addr (BitVec.ofNat 64 (s.routePort pa))) ∧
      (∀ (e : StoreEntry) (k : Nat), s.th.wait = .none →
        (s.sbuf.filter fun (f : StoreEntry) => ofSlot s.th f && !s.isLocal f.pa)[k]? = some e →
        exec (.routeRequestFail (.thread p) k) s = .next ((s.failEntry e).failRoute (e.pa / 2 ^ 41)))) ∧
    (∀ (port : Fin 48) (up : Bool) (lanes : Fin 5), ∃ w : Word, exec (.routeLinkChange port up lanes) s = .next (s.setReg (rtportAt port) w) ∧
      bits w 0 3 = lanes ∧ bit w 63 = up ∧ bit w 62 = (bit (s.reg (rtportAt port)) 62 || bit (s.reg (rtportAt port)) 63 != up) ∧
      ∀ n : Nat, 3 ≤ n → n < 62 → bit w n = bit (s.reg (rtportAt port)) n) ∧
    (∀ n : Fin 1024, s.mayPowerOff n = true → ∃ t : State, exec (.corePowerOff n) s = .next t ∧ (t.site n).on = false ∧
      (∀ l ∈ t.cache, l.core ≠ .site n) ∧ (s.cache = [] → t.mem = s.mem)) ∧
    (∀ (n : Fin 1024) (k : Nat), (s.site n).waking = some k →
      ((∀ (m : Fin 1024) (j : Nat), siteField m = siteField n → (s.site m).waking = some j → k ≤ j) →
        exec (.coreWake n) s = .next (s.setSite n { s.site n with on := true, waking := none, rot := 0 })) ∧
      ∀ (m : Fin 1024) (j : Nat), siteField m = siteField n → (s.site m).waking = some j → j < k → exec (.coreWake n) s = .next s) ∧
    (∀ (row : Fin 4) (a b : BitVec 10) (f g : Fin 8), f.val = 2 * row.val → g.val = 2 * row.val + 1 → ∃ t : State,
      exec (.activityBalance row a b) s = .next t ∧ t.mem = s.mem ∧ t.fields[f].time = s.fields[f].time ∧ t.fields[g].time = s.fields[g].time ∧
      (max a.toNat b.toNat ≥ 10 * (max a.toNat b.toNat - min a.toNat b.toNat) →
        t.fields[f].fact = field 0 10 a.toNat ∧ t.fields[g].fact = field 0 10 b.toNat) ∧
      (max a.toNat b.toNat < 10 * (max a.toNat b.toNat - min a.toNat b.toNat) → bits t.fields[f].fact 0 10 = a.toNat ∧
        bits t.fields[g].fact 0 10 = b.toNat ∧
        if a.toNat < b.toNat then bit t.fields[f].fact 32 = false ∧ bits t.fields[g].fact 16 10 = 0
        else bit t.fields[g].fact 32 = false ∧ bits t.fields[f].fact 16 10 = 0)) ∧
    ((s.boot = .up ∨ s.boot = .failed) → ∃ t : State, exec .startUp s = .next t ∧ t.boot = .starting 1 0 ∧ t.mem = s.mem ∧
      t.threads = [Thread.controlCore 0] ∧ t.regs = State.reset.regs ∧ t.insts = [] ∧ t.tlb = [] ∧ t.keytab = s.keytab ∧
      t.owners = s.owners ∧ t.peers = s.peers ∧ t.inputs = s.inputs ∧
      ∀ n : Fin 1024, (t.site n).on = false ∧ ((s.site n).status = .retired → (t.site n).status = .retired)) ∧
    (∀ stage unit : Nat, s.boot = .starting stage unit → ∃ t : State, exec .startUp s = .next t ∧
      (t.boot = if stage = 2 ∧ unit = 0 ∧ Boot.verdict = .failed then .failed
        else if unit + 1 < s.stageUnits stage then .starting stage (unit + 1) else if stage < 6 then .starting (stage + 1) 0 else .up) ∧
      t.keytab = s.keytab ∧ t.owners = s.owners ∧ t.regs = s.regs ∧
      (stage = 2 → t.mem = s.mem ∧ ∀ k : Nat, 2 ≤ unit → unit = k + 1 → t.threads = s.threads ++ [Thread.controlCore (fin 16 k)]) ∧
      (stage = 3 → t.threads = s.threads ∧ ∀ o : Nat,
        t.mem.byte o = if 24 ≤ unit ∧ spaceOf o = .hbm ∧ stackOf o = unit - 24 then 0 else s.mem.byte o) ∧
      (stage = 4 → t.mem = s.mem ∧ (∀ h : unit < 8, t.fields[unit] = Field.reset) ∧ (unit = 7 → t.rtu.force = Config.darkSiteTables)) ∧
      (stage = 5 → ∀ n : Fin 1024, s.wakeOrder[unit]? = some n → (t.site n).on = true ∧ (∀ l ∈ t.cache, l.core ≠ .site n) ∧
        ∀ o : Nat, spaceOf o = .tcm → tcmSite o = n.val → t.mem.byte o = 0) ∧
      (stage = 6 → t.mem = s.mem ∧ t.threads = s.threads ∧ bit (t.groupNow 0).desc 63 = true)) ∧
    (∀ rs : Bool, exec (.managementPortLinkUp rs) s = .next { s with mgmt := { s.mgmt with up := true, rsfec := rs } }) ∧
    (s.boot = .failed → ∀ (frame : List Byte), exec (.mgmtFrameReceive frame) s =
      .next { s with mgmt := { s.mgmt with outbox := s.mgmt.outbox ++ [.bootFailure] } }) ∧
    (s.boot = .up →
      (∀ frame : List Byte, s.mgmt.up = true → frame.length ≤ 9216 → ∃ (t : State) (n : BitVec 256), exec (.mgmtFrameReceive frame) s = .next t ∧
        t.mem = s.mem ∧ t.th = s.th ∧ t.mgmt.up = true ∧ t.mgmt.inbox = s.mgmt.inbox ++ [frame] ∧
        t.mgmt.nonces = s.mgmt.nonces ++ [n] ∧ t.mgmt.outbox = s.mgmt.outbox ++ [.nonce n]) ∧
      (∀ frame : List Byte, 9216 < frame.length → exec (.mgmtFrameReceive frame) s = .next s) ∧
      (∀ q : OwnerRequest, ∃ t : State, exec (.ownerReset q) s = .next t ∧
        (s.mayReset q = true → t.owners = s.owners + 1 ∧ t.mem = State.reset.mem ∧ t.insts = [] ∧ t.keytab[0] = s.keytab[0] ∧
          (∀ k : Fin 16, k ≠ 0 → t.keytab[k] = none) ∧ bits (t.reg routecfgAt) 0 11 = bits (s.reg routecfgAt) 0 11 ∧
          t.mgmt.outbox = s.mgmt.outbox ++ [.ownerDone (s.owners + 1)] ∧ q.nonce ∉ t.mgmt.nonces) ∧
        (s.mayReset q = false → t.owners = s.owners ∧ t.mem = s.mem ∧ t.keytab = s.keytab ∧ t.mgmt.outbox = s.mgmt.outbox ++ [.authFailure])) ∧
      (∀ q : OwnerRequest, ∃ t : State, exec (.keytabEnrol q) s = .next t ∧ t.mem = s.mem ∧ t.owners = s.owners ∧
        if (∀ e ∈ q.keys, e.1 ≠ 0) ∧ (s.noOwner = true ∨ signedBy (s.keytab.toList.drop 1) (enrolMessage q) q = true) then
          t.mgmt.outbox = s.mgmt.outbox ++ [.enrolled (q.keys.map fun e => e.1)] ∧
            (∀ k : Fin 16, (∀ e ∈ q.keys, e.1 ≠ k) → t.keytab[k] = s.keytab[k]) ∧
            ∀ l e r, q.keys = l ++ e :: r → (∀ x ∈ r, x.1 ≠ e.1) → t.keytab[e.1] = some e.2
        else t.keytab = s.keytab ∧ t.mgmt.outbox = s.mgmt.outbox ++ [.authFailure]) ∧
      (∀ nonce : BitVec 256, exec (.attestationRequest nonce) s = .next
        (s.takeFrame.answer (.attested (s.report_ nonce) (Config.identitySign (s.report_ nonce).bytes))))) ∧
    (∀ v : Word,
      (bit (s.reg (tlbstatAt c)) 0 = true → exec (.tlbinvWrite c v) s = .next s) ∧
      (bit (s.reg (tlbstatAt c)) 0 = false → ∃ t : State, exec (.tlbinvWrite c v) s = .next t ∧ t.mem = s.mem ∧ bit (t.reg (tlbstatAt c)) 0 = true ∧
        t.tlb = s.tlb.map fun (e : TlbEntry) => if e.ctx = c ∧ invalidates v e = true then { e with stale := true } else e) ∧
      (∃ w : Word, exec (.rgnctlCountWrite c v) s = .next (s.setReg (rgnctlAt c) w) ∧ bit w 63 = true ∧ bits w 0 13 = min 4096 (bits v 0 13)) ∧
      (∃ w : Word, bit w 63 = false ∧ bits w 45 16 = 0 ∧ bits w 0 13 = bits v 0 13 ∧ exec (.rlogctlPendClear c v) s =
        .next (if (s.ctx c).halted = true then (s.setReg (rlogctlAt c) w).restart c else s.setReg (rlogctlAt c) w)) ∧
      (∀ q : Fin 3, ∃ w : Word, bits w 0 13 = bits v 0 13 ∧ bits w 45 16 = (if q = 2 then 0 else bits (s.reg (fqctlAt c q)) 45 16) ∧
        exec (.fqctlRdWrite c q v) s = .next ((s.setReg (fqctlAt c q) w).writeHeld c)) ∧
      (∀ x : Thread, s.findThread (.saved c (BitVec.ofNat 24 (bits v 0 24))) = some x →
        (x.ready = none → ∃ t : State, exec (.cxrsmResume c v) s = .next t ∧ t.mem = s.mem ∧ ∃ y ∈ t.threads, y.place = x.place ∧ y.pc = x.pc ∧
          y.g = x.g ∧ y.ready = some (fin 64 (bits v 24 6))) ∧
        exec (.cxrsmDiscard c v) s = .next (s.endThread x.place false true)) ∧
      (∀ x : Thread, s.findTid c (BitVec.ofNat 24 (bits v 0 24)) = some x → x.onBarrel = true → exec (.cxpreWrite c v) s = .next (s.preempt x.place)) ∧
      (∀ (b : Fin 4) (w : Fin 16), ∃ t : State, exec (.bmaskWrite c b w v) s = .next t ∧ t.mem = s.mem ∧
        t.bar c b = (s.bar c b).writeMask w (s.maskBits w v) ∧ bits (t.bar c b).maskN (64 * w) 64 = (s.maskBits w v).toNat) ∧
      (bit v 63 = true → s.groups.busy = false →
        (s.commitFault = none → exec (.gctlCommit v) s =
          .next { s with groups := { s.groups with err := false, egrp := 0, erank := 0, busy := true, coming := s.groups.staged } }) ∧
        ∀ g r : Nat, s.commitFault = some (g, r) → exec (.gctlCommit v) s =
          .next { s with groups := { s.groups with err := true, egrp := g, erank := r } }) ∧
      (∃ w : Word, exec (.routecfgWrite v) s = .next (s.setReg routecfgAt w) ∧ (1151 < bits v 0 11 → w = 0) ∧
        (bits v 0 11 ≤ 1151 → bits w 0 11 = bits v 0 11 ∧ bit w 63 = bit v 63)) ∧
      (∀ m : Fin 1152, ∃ w : Word, exec (.rtmapWrite m v) s = .next ((s.settleRoute m).setReg (rtmapAt m) w) ∧ bits w 0 48 = bits v 0 48 ∧
        bit w 63 = (bit v 63 && bit ((s.settleRoute m).reg (rtmapAt m)) 63)) ∧
      (s.rtu.st ≠ .staging → s.rtu.st ≠ .committing → exec (.rtuctlStage v) s =
        .next { s with rtu := { s.rtu with st := .staging, img := bits v 6 46 * 64, cause := 0, site := 0 } }) ∧
      (∀ (off : Nat) (r : DevReg), spaceOf off = .device → off % 8 = 0 → devReg off = some r → s.regPresent r = true → s.devBusy r = false →
        exec (.registerWrite off v) s = .next (s.devWrite r v) ∧
        ∀ (o : Nat) (w : Word), plainStored v r = some (o, w) → (∀ k q, r ≠ .fqbase k q) → exec (.registerWrite off v) s = .next (s.setReg o w))) ∧
    (s.sbuf = [] → ∃ u : State, u.mem = s.mem ∧ u.regs = s.regs ∧ (∀ e : TlbEntry, e ∈ u.tlb ↔ e ∈ s.tlb ∧ ¬(e.ctx = c ∧ e.stale = true)) ∧
      exec (.tlbInvalidationDone c) s =
        .next (if u.holdsOld c = true ∨ u.fillsOld c = true then u else u.setReg (tlbstatAt c) (setBits (s.reg (tlbstatAt c)) 0 1 0))) ∧
    (bit (s.reg (rgnctlAt c)) 63 = true → ∃ (t : State) (w : Word), exec (.regionTableReadDone c) s = .next t ∧
      (t.ctx c).regions = ((s.regionEntries c).filter fun (e : Nat × Word) => bit e.2 63 && !regionBad e.2).map
        (fun (e : Nat × Word) => (e.1, bits e.2 12 29 * 4096, bits e.2 0 6)) ∧
      t.regs = (s.setReg (rgnctlAt c) w).regs ∧ bit w 63 = false ∧
      (bit w 62 = true ↔ ∃ e ∈ s.regionEntries c, regionBad e.2 = true) ∧ t.mem = s.mem ∧ t.th = s.th) ∧
    ((s.ctx c).resetting = false → exec (.cxrstGo c) s = .next (s.resetContext c) ∧ ∀ x ∈ (s.resetContext c).insts, x.ctx ≠ c) ∧
    (s.groups.busy = true → s.boundOlder = false → exec .groupCommitDone s = .next { s with groups := { s.groups with
      before := s.groups.force, force := s.groups.coming, coming := [], busy := false, ver := s.groups.ver + 1 } }) ∧
    (s.rtu.st = .staging → ∃ t : State, exec .rtuStagingDone s = .next t ∧ t.mem = s.mem ∧ t.rtu.force = s.rtu.force ∧
      let image := Config.rtuImage (s.bytesAt s.rtu.img (Config.rtuLength (s.bytesAt s.rtu.img 64)))
      (image = none → t.rtu.st = .rejected ∧ t.rtu.cause = 4) ∧
      ∀ g : Config.RtuImage, image = some g →
        let signed : Prop := s.keytab[0] = some (keyDigest g.key) ∧ Config.slhDsaVerify g.key (bytesOf g.digest 32) g.sig = true
        let whole : Prop := Config.shake256 (g.records.flatMap fun r => r.body ++ bytesOf r.crc 4) = g.digest
        (¬signed → t.rtu.st = .rejected ∧ t.rtu.cause = 3) ∧
        (signed → whole → (∀ r ∈ g.records, crc32c r.body = r.crc) →
          t.rtu.st = .staged ∧ t.rtu.staged = g.records.map fun r => (r.site, r.body)) ∧
        (signed → ¬whole → ∀ r l, g.records = r :: l → t.rtu.st = .rejected ∧ t.rtu.site = r.site ∧
          t.rtu.cause = if crc32c r.body = r.crc then 2 else 1) ∧
        ∀ l r m, signed → whole → g.records = l ++ r :: m → (∀ x ∈ l, crc32c x.body = x.crc) → crc32c r.body ≠ r.crc →
          t.rtu.st = .rejected ∧ t.rtu.cause = 1 ∧ t.rtu.site = r.site) ∧
    (s.rtu.st = .staged → (∃ t : State, exec .rtuctlCommit s = .next t ∧ t = { s with rtu := t.rtu } ∧ t.rtu.hold = s.clock ∧
        if ∃ w ∈ s.ways, w.num < s.clock then t.rtu.st = .committing ∧ t.rtu.force = s.rtu.force
        else t.rtu.st = .idle ∧ t.rtu.force = s.rtu.staged) ∧
      exec .rtuctlAbort s = .next { s with rtu := { s.rtu with st := .idle } }) ∧
    (s.rtu.st = .committing → (∀ w ∈ s.ways, s.rtu.hold ≤ w.num) →
      exec .rtuctlCommit s = .next { s with rtu := { s.rtu with st := .idle, force := s.rtu.staged } }) ∧
    (∀ (d b : Reg) (o : BitVec 12) (pa : Nat) (r : DevReg), s.check (s.gr b) (effective (s.gr b) o 8) (loadReq 8 .plain true) = .ok pa →
      s.isLocal pa = true → spaceOf (offsetOf pa) = .device → devReg (offsetOf pa) = some r →
      (∀ x ∈ s.sbuf, x.core = s.th.core → x.overlaps pa 8 = false) → s.anyWatch = false →
      ∃ (t : State) (w : Word), exec (.ldD d b .plain o) s = .next t ∧ t.th.g = (s.th.setG d w).g ∧ t.th.f = s.th.f ∧ t.th.pc = s.th.pc + 4 ∧
        s.th.floor.toNat ≤ t.th.floor.toNat ∧ t.mem = s.mem ∧ t.regs = s.regs ∧ t.sbuf = s.sbuf ∧ t.rest = s.rest ∧
        (∀ k : Fin 16, (r = .tlbinv k ∨ r = .cxrsm k ∨ r = .cxpre k ∨ r = .shutctl k) → w = 0) ∧
        ((r = .rtuctl ∨ (∃ n p, r = .pres n p) ∨ ∃ p k, r = .stres p k) → w = 0) ∧ (r = .devid → w = devidValue) ∧
        (∀ n, r = .speed n → w = speedWord n) ∧ (∀ x y, r = .latency x y → w = latencyWord x y) ∧
        (∀ e ∈ [(DevReg.cxroot c, cxrootAt c), (.cxpeer c, cxpeerAt c), (.rgnbase c, rgnbaseAt c), (.rgnctl c, rgnctlAt c),
          (.rlogbase c, rlogbaseAt c), (.rlogctl c, rlogctlAt c), (.cxtrap c, cxtrapAt c), (.cxtcmv c, cxtcmvAt c), (.retstat, retstatAt),
          (.spbase c, spbaseAt c), (.fsbase c, fsbaseAt c), (.shmap c, shmapAt c), (.hangint c, hangintAt c), (.sqint c, sqintAt c),
          (.ldstat c, ldstatAt c), (.routecfg, routecfgAt), (.cxmode c, cxmodeAt c), (.rrcfg, rrcfgAt), (.rrstat, rrstatAt),
          (.rplctl c, rplctlAt c)], r = e.1 → w = s.reg e.2) ∧
        (∀ k q, r = .fqbase k q → w = s.reg (fqbaseAt k q)) ∧ (∀ k q, r = .fqctl k q → w = s.reg (fqctlAt k q)) ∧
        (∀ k q, r = .lqcfg k q → w = s.reg (lqcfgAt k q)) ∧ (∀ m, r = .rtmap m → w = s.reg (rtmapAt m)) ∧
        (∀ p, r = .rtport p → w = s.reg (rtportAt p)) ∧ (∀ n, r = .cflags n → w = s.reg (cflagsAt n)) ∧
        (∀ n, r = .pgflag n → w = s.reg (pgflagAt n)) ∧ (∀ k, r = .tlbstat k → w.toNat = bits (s.reg (tlbstatAt k)) 0 1) ∧
        (∀ k, r = .spcnt k → bits w 0 24 = bits (s.reg (spcntAt k)) 0 24 ∧ bits w 32 24 = (s.ctx k).tids.length % 2 ^ 24) ∧
        (∀ k, r = .fssize k → bits w 0 24 = bits (s.reg (fssizeAt k)) 0 24 ∧ bits w 32 24 = s.poolUsed k % 2 ^ 24) ∧
        (∀ k v n, r = .bmask k v n → w.toNat = bits (s.bar k v).maskN (64 * n) 64) ∧
        (∀ k v, r = .bcfg k v → bits w 3 5 = (s.bar k v).cntN % 32 ∧ bit w 0 = (s.bar k v).en) ∧
        (∀ k v, r = .bstat k v → bits w 32 32 = (s.bar k v).phase.toNat) ∧
        (∀ k, r = .cxrst k → bit w 62 = (s.ctx k).resetting) ∧ (∀ f : Fin 8, r = .fact f → w = s.fields[f].fact) ∧
        (∀ k, r = .sqstat k → bits w 0 32 = (s.ctx k).nextId.toNat ∧ bit w 40 = !(s.ctx k).places.isEmpty) ∧
        (∀ k q, r = .lqstat k q → bits w 0 5 = (s.queued k q).length % 32 ∧ bit w 63 = s.blocked k q) ∧
        (∀ g, r = .gdesc g → let x := if s.th.onControl then s.staged g else s.groupNow g
          bit w 63 = x.en ∧ bits w 32 16 = s.groups.ver.toNat ∧ bits w 0 11 = x.nrank % 2048) ∧
        (∀ g n, r = .grank g n → let x := if s.th.onControl then s.staged g else s.groupNow g
          bits w 0 10 = bits (tget 0 x.ranks n) 0 10 ∧ bit w 63 = bit (tget 0 x.ranks n) 63) ∧
        (r = .rtustat → bits w 60 3 = (match s.rtu.st with | .idle => 0 | .staging => 1 | .staged => 2 | .committing => 3 | .rejected => 4) ∧
          bits w 56 4 = s.rtu.cause.toNat ∧ bits w 0 10 = s.rtu.site.toNat)) ∧
    exec .rrstatClear s = .next (s.setReg rrstatAt 0)

/-- After reset memory, tags, full-empty bits, translations, hypotheses, launches, instances and waiting messages are
cleared in canonical form; every context's CXMODE reads 0x1F, HANGINT 1,000 and the comparison rate 12, and every other
device register 0; VER reads 1, group 0 is the default group with the enabled sites in ascending order, and the other groups
are disabled; sixteen control cores run in supervisor mode (that their registers and their pc are 0, and every other value
that the spec does not give, is the model's choice, assumption 3; that the state stands after stage 6 of start-up with the
default group's ranks given in ascending order to the enabled sites of the grade is assumptions 6 and 11; that no poison
mark is left is assumption 8). (R7, R359, R422, R440, R441, R443, R451) -/
def Obligations.ResetValues : Prop :=
  State.reset.mem.wf ∧ State.reset.peers.wf ∧
    (∀ a : Nat, State.reset.mem.byte a = 0 ∧ State.reset.mem.tag a = 0 ∧ State.reset.mem.isFull a = false ∧ State.reset.mem.poisoned a = false) ∧
    (∀ c : Fin 16, State.reset.reg (cxmodeAt c) = 0x1F ∧ State.reset.reg (hangintAt c) = 1000 ∧ (State.reset.ctx c).queues = [] ∧
      (State.reset.ctx c).hyps = [] ∧ (State.reset.ctx c).tokens = [] ∧ (State.reset.ctx c).nextId = 0 ∧
      ∀ b : Fin 4, (State.reset.bar c b).cnt = 1 ∧ (State.reset.bar c b).en = false ∧ (State.reset.bar c b).phase = 0) ∧
    State.reset.reg rrcfgAt = 12 ∧
    (∀ o : Nat, o % 8 = 0 → (∀ c : Fin 16, o ≠ cxmodeAt c ∧ o ≠ hangintAt c) → o ≠ rrcfgAt → State.reset.reg o = 0) ∧
    State.reset.insts = [] ∧ State.reset.tlb = [] ∧ State.reset.cache = [] ∧ State.reset.sbuf = [] ∧ State.reset.vers = [] ∧
    State.reset.tokmsgs = [] ∧ State.reset.signals = [] ∧ (∀ k : Fin 16, k ≠ 0 → State.reset.keytab[k] = none) ∧
    (∀ t ∈ State.reset.threads, t.sup = true ∧ t.onControl = true ∧ t.st = .run ∧ t.pc = 0 ∧ ∀ r : Reg, t.gr r = 0) ∧
    State.reset.threads.length = 16 ∧
    State.reset.ref = 0 ∧ (∀ j : Fin 8, State.reset.fields[j].time = 0 ∧ State.reset.fields[j].hold = false) ∧
    State.reset.groups.ver = 1 ∧ (∀ g : Nat, g ≠ 0 → (State.reset.groupNow g).desc = 0) ∧
    bit (State.reset.groupNow 0).desc 63 = true ∧ bits (State.reset.groupNow 0).desc 16 6 = 30 ∧
    bits (State.reset.groupNow 0).desc 24 6 = (if Config.isAe850 = true then 29 else 30) ∧
    ∀ (r : Nat) (n : Fin 1024), defaultSites[r]? = some n → tget 0 (State.reset.groupNow 0).ranks r = rankEntry n

/-- From every state whose own memory and whose peers' memory are in canonical form (addresses strictly rising and no entry
equal to what an unlisted address reads as, for bytes, tags, full-empty bits and poison marks alike), a step that answers a
next state leaves both in canonical form, so that equal memories are equal data. That reset meets the form is a part of
ResetValues. (R7, R147, R157, R162) -/
def Obligations.MemoryStaysCanonical : Prop :=
  ∀ s t : State, s.mem.wf → s.peers.wf → step s = .next t → t.mem.wf ∧ t.peers.wf
end

