-- ==== Sys2Proof/Laws/Answers.lean ====
section
/-!
SUPPORT. Sys2Proof/Laws/Answers.lean: every meaning, and every operation that answers a step, answers a next state: one lemma for each,
named after it. A lemma of an operation with a continuation asks the same of the continuation.
-/
namespace Sys2Proof.Machine

/-- The answer is a next state, and neither a fault nor a refusal. -/
def Answers (r : Result) : Prop := ∃ t, r = .next t

theorem answers_next (t : State) : Answers (.next t) := ⟨t, rfl⟩

theorem answers_ite {c : Prop} [Decidable c] {x y : Result} (hx : Answers x) (hy : Answers y) : Answers (if c then x else y) := by
  split
  · exact hx
  · exact hy

theorem execStoreEventApply_answers (site : Fin 1024) (s : State) :
    Answers (execStoreEventApply site s) := by
  unfold execStoreEventApply
  exact answers_next _

theorem trapWith_answers (s : State) (cause : Nat) (addr : Word) (detail : Word) :
    Answers (trapWith s cause addr detail) := by
  unfold trapWith
  exact answers_next _

theorem trapNow_answers (s : State) (cause : Nat) :
    Answers (trapNow s cause) := by
  unfold trapNow
  repeat' first
    | with_reducible exact answers_next _
    | with_reducible assumption
    | with_reducible apply trapWith_answers

theorem postAcc_answers (s : State) (n : Fin 4) (ev : AccEvent) (k : State → Result) (hc3 : ∀ y0, (Answers (k y0))) :
    Answers (postAcc s n ev k) := by
  unfold postAcc
  repeat' first
    | with_reducible exact answers_next _
    | with_reducible assumption
    | with_reducible apply hc3
    | with_reducible apply trapNow_answers
    | with_reducible apply answers_ite

theorem done_answers (s : State) :
    Answers (done s) := by
  unfold done
  exact answers_next _

theorem execAcca_answers (a : Reg) (b : Reg) (n : Fin 4) (s : State) :
    Answers (execAcca a b n s) := by
  unfold execAcca
  repeat' first
    | with_reducible exact answers_next _
    | with_reducible assumption
    | with_reducible apply done_answers
    | with_reducible apply postAcc_answers

theorem inTrouble_answers (s : State) (addr : Word) (z2 : Trouble) :
    Answers (inTrouble s addr z2) := by
  unfold inTrouble
  repeat' first
    | with_reducible exact answers_next _
    | with_reducible assumption
    | with_reducible apply answers_ite
    | dsimp only
    | split

theorem execAccr_answers (a : Reg) (b : Reg) (n : Fin 4) (s : State) :
    Answers (execAccr a b n s) := by
  unfold execAccr
  repeat' first
    | with_reducible exact answers_next _
    | with_reducible assumption
    | with_reducible apply done_answers
    | with_reducible apply inTrouble_answers
    | with_reducible apply trapNow_answers
    | with_reducible apply answers_ite
    | dsimp only
    | split

theorem execAccz_answers (n : Fin 4) (s : State) :
    Answers (execAccz n s) := by
  unfold execAccz
  repeat' first
    | with_reducible exact answers_next _
    | with_reducible assumption
    | with_reducible apply done_answers
    | with_reducible apply postAcc_answers

theorem readAcc_answers (s : State) (n : Fin 4) (k : State → AccStore → Result) (hc2 : ∀ y0, ∀ y1, (Answers (k y0 y1))) :
    Answers (readAcc s n k) := by
  unfold readAcc
  repeat' first
    | with_reducible exact answers_next _
    | with_reducible assumption
    | with_reducible apply hc2
    | with_reducible apply trapNow_answers
    | with_reducible apply answers_ite

theorem execAccn_answers (d : Reg) (b : Reg) (n : Fin 4) (s : State) :
    Answers (execAccn d b n s) := by
  unfold execAccn
  repeat' first
    | with_reducible exact answers_next _
    | with_reducible assumption
    | with_reducible apply readAcc_answers
    | with_reducible apply answers_ite
    | dsimp only
    | split
    | intro _

theorem doneInt_answers (s : State) (d : Reg) (v : Word) (fl : Flags) (turns : Nat) :
    Answers (doneInt s d v fl turns) := by
  unfold doneInt
  exact answers_next _

theorem execAccx_answers (d : Reg) (b : Reg) (n : Fin 4) (s : State) :
    Answers (execAccx d b n s) := by
  unfold execAccx
  repeat' first
    | with_reducible exact answers_next _
    | with_reducible assumption
    | with_reducible apply readAcc_answers
    | with_reducible apply doneInt_answers
    | with_reducible apply answers_ite
    | dsimp only
    | split
    | intro _

theorem doneG_answers (s : State) (d : Reg) (v : Word) :
    Answers (doneG s d v) := by
  unfold doneG
  repeat' first
    | with_reducible exact answers_next _
    | with_reducible assumption
    | with_reducible apply done_answers

theorem doneF_answers (s : State) (d : Reg) (v : Word) :
    Answers (doneF s d v) := by
  unfold doneF
  repeat' first
    | with_reducible exact answers_next _
    | with_reducible assumption
    | with_reducible apply done_answers

theorem onThread_answers (p : Place) (s : State) (f : State → Result) (hc2 : ∀ y0, (Answers (f y0))) :
    Answers (onThread p s f) := by
  unfold onThread
  repeat' first
    | with_reducible exact answers_next _
    | with_reducible assumption
    | with_reducible apply hc2
    | with_reducible apply answers_ite
    | dsimp only
    | split

theorem execResyncPulse_answers (s : State) :
    Answers (execResyncPulse s) := by
  unfold execResyncPulse
  exact answers_next _

theorem execCorePowerOff_answers (site : Fin 1024) (s : State) :
    Answers (execCorePowerOff site s) := by
  unfold execCorePowerOff
  repeat' first
    | with_reducible exact answers_next _
    | with_reducible assumption
    | with_reducible apply answers_ite

theorem execCoreWake_answers (site : Fin 1024) (s : State) :
    Answers (execCoreWake site s) := by
  unfold execCoreWake
  repeat' first
    | with_reducible exact answers_next _
    | with_reducible assumption
    | with_reducible apply answers_ite
    | dsimp only
    | split

theorem execActivityBalance_answers (row : Fin 4) (act0 : BitVec 10) (act1 : BitVec 10) (s : State) :
    Answers (execActivityBalance row act0 act1 s) := by
  unfold execActivityBalance
  repeat' first
    | with_reducible exact answers_next _
    | with_reducible assumption
    | with_reducible apply answers_ite

theorem execStartUp_answers (s : State) :
    Answers (execStartUp s) := by
  unfold execStartUp
  repeat' first
    | with_reducible exact answers_next _
    | with_reducible assumption
    | with_reducible apply answers_ite
    | dsimp only
    | split

theorem execManagementPortLinkUp_answers (rs : Bool) (s : State) :
    Answers (execManagementPortLinkUp rs s) := by
  unfold execManagementPortLinkUp
  exact answers_next _

theorem execMgmtFrameReceive_answers (frame : List Byte) (s : State) :
    Answers (execMgmtFrameReceive frame s) := by
  unfold execMgmtFrameReceive
  repeat' first
    | with_reducible exact answers_next _
    | with_reducible assumption
    | with_reducible apply answers_ite
    | dsimp only
    | split

theorem execOwnerReset_answers (req : OwnerRequest) (s : State) :
    Answers (execOwnerReset req s) := by
  unfold execOwnerReset
  repeat' first
    | with_reducible exact answers_next _
    | with_reducible assumption
    | with_reducible apply answers_ite
    | dsimp only
    | split

theorem execKeytabEnrol_answers (req : OwnerRequest) (s : State) :
    Answers (execKeytabEnrol req s) := by
  unfold execKeytabEnrol
  repeat' first
    | with_reducible exact answers_next _
    | with_reducible assumption
    | with_reducible apply answers_ite
    | dsimp only
    | split

theorem execAttestationRequest_answers (nonce : BitVec 256) (s : State) :
    Answers (execAttestationRequest nonce s) := by
  unfold execAttestationRequest
  repeat' first
    | with_reducible exact answers_next _
    | with_reducible assumption
    | with_reducible apply answers_ite
    | dsimp only
    | split

theorem execRtuctlStage_answers (v : Word) (s : State) :
    Answers (execRtuctlStage v s) := by
  unfold execRtuctlStage
  exact answers_next _

theorem execRtuctlCommit_answers (s : State) :
    Answers (execRtuctlCommit s) := by
  unfold execRtuctlCommit
  repeat' first
    | with_reducible exact answers_next _
    | with_reducible assumption
    | with_reducible apply answers_ite
    | dsimp only
    | split

theorem execRtuctlAbort_answers (s : State) :
    Answers (execRtuctlAbort s) := by
  unfold execRtuctlAbort
  exact answers_next _

theorem execRtuStagingDone_answers (s : State) :
    Answers (execRtuStagingDone s) := by
  unfold execRtuStagingDone
  repeat' first
    | with_reducible exact answers_next _
    | with_reducible assumption
    | with_reducible apply answers_ite
    | dsimp only
    | split

theorem execRerunCompare_answers (i : Nat) (tile : Nat) (shadow : List (Nat × BitVec 64 × BitVec 8)) (anchor : Nat × Nat) (s : State) :
    Answers (execRerunCompare i tile shadow anchor s) := by
  unfold execRerunCompare
  repeat' first
    | with_reducible exact answers_next _
    | with_reducible assumption
    | with_reducible apply answers_ite
    | dsimp only
    | split

theorem execRrstatClear_answers (s : State) :
    Answers (execRrstatClear s) := by
  unfold execRrstatClear
  exact answers_next _

theorem execTlbinvWrite_answers (ctx : Fin 16) (v : Word) (s : State) :
    Answers (execTlbinvWrite ctx v s) := by
  unfold execTlbinvWrite
  repeat' first
    | with_reducible exact answers_next _
    | with_reducible assumption
    | with_reducible apply answers_ite

theorem execTlbInvalidationDone_answers (ctx : Fin 16) (s : State) :
    Answers (execTlbInvalidationDone ctx s) := by
  unfold execTlbInvalidationDone
  repeat' first
    | with_reducible exact answers_next _
    | with_reducible assumption
    | with_reducible apply answers_ite

theorem execRgnctlCountWrite_answers (ctx : Fin 16) (v : Word) (s : State) :
    Answers (execRgnctlCountWrite ctx v s) := by
  unfold execRgnctlCountWrite
  exact answers_next _

theorem execRegionTableReadDone_answers (ctx : Fin 16) (s : State) :
    Answers (execRegionTableReadDone ctx s) := by
  unfold execRegionTableReadDone
  repeat' first
    | with_reducible exact answers_next _
    | with_reducible assumption
    | with_reducible apply answers_ite

theorem execRlogctlPendClear_answers (ctx : Fin 16) (v : Word) (s : State) :
    Answers (execRlogctlPendClear ctx v s) := by
  unfold execRlogctlPendClear
  exact answers_next _

theorem execFqctlRdWrite_answers (ctx : Fin 16) (fq : Fin 3) (v : Word) (s : State) :
    Answers (execFqctlRdWrite ctx fq v s) := by
  unfold execFqctlRdWrite
  exact answers_next _

theorem execCxrsmResume_answers (ctx : Fin 16) (v : Word) (s : State) :
    Answers (execCxrsmResume ctx v s) := by
  unfold execCxrsmResume
  exact answers_next _

theorem execCxrsmDiscard_answers (ctx : Fin 16) (v : Word) (s : State) :
    Answers (execCxrsmDiscard ctx v s) := by
  unfold execCxrsmDiscard
  exact answers_next _

theorem execCxpreWrite_answers (ctx : Fin 16) (v : Word) (s : State) :
    Answers (execCxpreWrite ctx v s) := by
  unfold execCxpreWrite
  exact answers_next _

theorem execShutctlResume_answers (ctx : Fin 16) (v : Word) (s : State) :
    Answers (execShutctlResume ctx v s) := by
  unfold execShutctlResume
  exact answers_next _

theorem execShutctlDiscard_answers (ctx : Fin 16) (v : Word) (s : State) :
    Answers (execShutctlDiscard ctx v s) := by
  unfold execShutctlDiscard
  exact answers_next _

theorem execShutctlReload_answers (ctx : Fin 16) (v : Word) (s : State) :
    Answers (execShutctlReload ctx v s) := by
  unfold execShutctlReload
  exact answers_next _

theorem execRegisterWrite_answers (off : Nat) (v : Word) (s : State) :
    Answers (execRegisterWrite off v s) := by
  unfold execRegisterWrite
  repeat' first
    | with_reducible exact answers_next _
    | with_reducible assumption
    | with_reducible apply answers_ite
    | dsimp only
    | split

theorem acquiring_answers (s : State) (k : State → Result) (hc1 : ∀ y0, (Answers (k y0))) :
    Answers (acquiring s k) := by
  unfold acquiring
  repeat' first
    | with_reducible exact answers_next _
    | with_reducible assumption
    | with_reducible apply hc1
    | with_reducible apply answers_ite

theorem hwaitTurn_answers (d : Reg) (h : Handle) (limit : Word) (s : State) :
    Answers (hwaitTurn d h limit s) := by
  unfold hwaitTurn
  repeat' first
    | with_reducible exact answers_next _
    | with_reducible assumption
    | with_reducible apply acquiring_answers
    | with_reducible apply answers_ite
    | dsimp only
    | split
    | intro _

theorem execHwait_answers (d : Reg) (a : Reg) (b : Reg) (s : State) :
    Answers (execHwait d a b s) := by
  unfold execHwait
  repeat' first
    | with_reducible exact answers_next _
    | with_reducible assumption
    | with_reducible apply hwaitTurn_answers

theorem returnAtom_answers (op : AtomOp) (z : AtomSize) (d : Reg) (p : Word) (b : Word) (expect : Word) (s : State) :
    Answers (returnAtom op z d p b expect s) := by
  unfold returnAtom
  repeat' first
    | with_reducible exact answers_next _
    | with_reducible assumption
    | with_reducible apply done_answers
    | with_reducible apply inTrouble_answers
    | with_reducible apply answers_ite
    | dsimp only
    | split

theorem execAminR_answers (d : Reg) (a : Reg) (b : Reg) (z : AtomSize) (s : State) :
    Answers (execAminR d a b z s) := by
  unfold execAminR
  repeat' first
    | with_reducible exact answers_next _
    | with_reducible assumption
    | with_reducible apply returnAtom_answers

theorem execMulhn_answers (d : Reg) (a : Reg) (b : Reg) (s : State) :
    Answers (execMulhn d a b s) := by
  unfold execMulhn
  repeat' first
    | with_reducible exact answers_next _
    | with_reducible assumption
    | with_reducible apply doneG_answers

theorem divide_answers (s : State) (d : Reg) (b : Word) (v : Word) :
    Answers (divide s d b v) := by
  unfold divide
  repeat' first
    | with_reducible exact answers_next _
    | with_reducible assumption
    | with_reducible apply doneG_answers
    | with_reducible apply trapNow_answers
    | with_reducible apply answers_ite

theorem execDiv_answers (d : Reg) (a : Reg) (b : Reg) (s : State) :
    Answers (execDiv d a b s) := by
  unfold execDiv
  repeat' first
    | with_reducible exact answers_next _
    | with_reducible assumption
    | with_reducible apply divide_answers

theorem askController_answers (s : State) (q : HypReq) :
    Answers (askController s q) := by
  unfold askController
  exact answers_next _

theorem execHref_answers (a : Reg) (s : State) :
    Answers (execHref a s) := by
  unfold execHref
  repeat' first
    | with_reducible exact answers_next _
    | with_reducible assumption
    | with_reducible apply askController_answers

theorem execTransferComplete_answers (pos : Fin 128) (k : Nat) (s : State) :
    Answers (execTransferComplete pos k s) := by
  unfold execTransferComplete
  repeat' first
    | with_reducible exact answers_next _
    | with_reducible assumption
    | with_reducible apply answers_ite
    | dsimp only
    | split

theorem withFiring_answers (n : NodeFields) (ins : List (BitVec 4)) (s : State) (k : Firing → Result) (hc3 : ∀ y0, (Answers (k y0))) :
    Answers (withFiring n ins s k) := by
  unfold withFiring
  repeat' first
    | with_reducible exact answers_next _
    | with_reducible assumption
    | with_reducible apply hc3
    | with_reducible apply answers_ite
    | dsimp only
    | split

theorem Firing.done_answers (f : Firing) :
    Answers (Firing.done f) := by
  unfold Firing.done
  exact answers_next _

theorem Firing.recover_answers (f : Firing) (out : Firing → Flit → Firing) :
    Answers (Firing.recover f out) := by
  unfold Firing.recover
  repeat' first
    | with_reducible exact answers_next _
    | with_reducible assumption
    | with_reducible apply Firing.done_answers

theorem fireInto_answers (out : Firing → Flit → Firing) (n : NodeFields) (ins : List (BitVec 4)) (bad : List Flit → Nat → Flit → Bool)
    (onHeader : Firing → Bool → Result) (onData : Firing → List Flit → Result) (idle : Firing → Result) (s : State) (hc4 : ∀ y0, ∀ y1, (Answers (onHeader y0 y1))) (hc5 : ∀ y0, ∀ y1, (Answers (onData y0 y1))) (hc6 : ∀ y0, (Answers (idle y0))) :
    Answers (fireInto out n ins bad onHeader onData idle s) := by
  unfold fireInto
  repeat' first
    | with_reducible exact answers_next _
    | with_reducible assumption
    | with_reducible apply hc4
    | with_reducible apply hc5
    | with_reducible apply hc6
    | with_reducible apply withFiring_answers
    | with_reducible apply Firing.recover_answers
    | with_reducible apply answers_ite
    | dsimp only
    | split
    | intro _

theorem fire_answers (n : NodeFields) (ins : List (BitVec 4)) (bad : List Flit → Nat → Flit → Bool) (onHeader : Firing → Bool → Result)
    (onData : Firing → List Flit → Result) (idle : Firing → Result) (s : State) (hc3 : ∀ y0, ∀ y1, (Answers (onHeader y0 y1))) (hc4 : ∀ y0, ∀ y1, (Answers (onData y0 y1))) (hc5 : ∀ y0, (Answers (idle y0))) :
    Answers (fire n ins bad onHeader onData idle s) := by
  unfold fire
  repeat' first
    | with_reducible exact answers_next _
    | with_reducible assumption
    | with_reducible apply hc3
    | with_reducible apply hc4
    | with_reducible apply hc5
    | with_reducible apply fireInto_answers

theorem elementwise_answers (k : NodeKind) (n : NodeFields) (ins : List (BitVec 4)) (s : State) :
    Answers (elementwise k n ins s) := by
  unfold elementwise
  repeat' first
    | with_reducible exact answers_next _
    | with_reducible assumption
    | with_reducible apply fire_answers
    | with_reducible apply Firing.done_answers
    | with_reducible apply answers_ite
    | dsimp only
    | split
    | intro _

theorem execNcmp_answers (n : NodeFields) (s : State) :
    Answers (execNcmp n s) := by
  unfold execNcmp
  repeat' first
    | with_reducible exact answers_next _
    | with_reducible assumption
    | with_reducible apply elementwise_answers

theorem execInstanceCompact_answers (i : Nat) (lx : Nat) (ly : Nat) (s : State) :
    Answers (execInstanceCompact i lx ly s) := by
  unfold execInstanceCompact
  repeat' first
    | with_reducible exact answers_next _
    | with_reducible assumption
    | with_reducible apply answers_ite
    | dsimp only
    | split

theorem execInstanceSaveComplete_answers (i : Nat) (s : State) :
    Answers (execInstanceSaveComplete i s) := by
  unfold execInstanceSaveComplete
  repeat' first
    | with_reducible exact answers_next _
    | with_reducible assumption
    | with_reducible apply answers_ite
    | dsimp only
    | split

theorem execBfi_answers (d : Reg) (a : Reg) (w : BitVec 6) (p : BitVec 6) (s : State) :
    Answers (execBfi d a w p s) := by
  unfold execBfi
  repeat' first
    | with_reducible exact answers_next _
    | with_reducible assumption
    | with_reducible apply doneG_answers

theorem execCflx_answers (a : Reg) (s : State) :
    Answers (execCflx a s) := by
  unfold execCflx
  repeat' first
    | with_reducible exact answers_next _
    | with_reducible assumption
    | with_reducible apply trapWith_answers
    | with_reducible apply answers_ite

theorem ringStep_answers (s : State) (p : Word) (k : Ring → Option (Ring × Word)) (fin : State → Bool → Word → Result) (hc3 : ∀ y0, ∀ y1, ∀ y2,
    (Answers (fin y0 y1 y2))) :
    Answers (ringStep s p k fin) := by
  unfold ringStep
  repeat' first
    | with_reducible exact answers_next _
    | with_reducible assumption
    | with_reducible apply hc3
    | with_reducible apply inTrouble_answers
    | with_reducible apply trapWith_answers
    | with_reducible apply answers_ite
    | dsimp only
    | split

theorem execAcqs_answers (d : Reg) (a : Reg) (s : State) :
    Answers (execAcqs d a s) := by
  unfold execAcqs
  repeat' first
    | with_reducible exact answers_next _
    | with_reducible assumption
    | with_reducible apply ringStep_answers
    | with_reducible apply doneG_answers
    | with_reducible apply answers_ite
    | dsimp only
    | split
    | intro _

theorem execLuih_answers (d : Reg) (i : BitVec 20) (s : State) :
    Answers (execLuih d i s) := by
  unfold execLuih
  repeat' first
    | with_reducible exact answers_next _
    | with_reducible assumption
    | with_reducible apply doneG_answers

theorem execShr_answers (d : Reg) (a : Reg) (b : Reg) (s : State) :
    Answers (execShr d a b s) := by
  unfold execShr
  repeat' first
    | with_reducible exact answers_next _
    | with_reducible assumption
    | with_reducible apply doneG_answers

theorem refused_answers (s : State) :
    Answers (refused s) := by
  unfold refused
  exact answers_next _

theorem onInsts_answers (slot : BitVec 3) (inst : BitVec 10) (s : State) (f : State → Nat → Inst → State) :
    Answers (onInsts slot inst s f) := by
  unfold onInsts
  repeat' first
    | with_reducible exact answers_next _
    | with_reducible assumption
    | with_reducible apply refused_answers
    | with_reducible apply answers_ite

theorem execSbnd_answers (_q : CmdQual) (ep : BitVec 8) (slot : BitVec 3) (inst : BitVec 10) (value : BitVec 64) (ety : BitVec 4) (s : State) :
    Answers (execSbnd _q ep slot inst value ety s) := by
  unfold execSbnd
  repeat' first
    | with_reducible exact answers_next _
    | with_reducible assumption
    | with_reducible apply refused_answers
    | with_reducible apply onInsts_answers
    | with_reducible apply answers_ite
    | dsimp only
    | split

theorem execTransferStart_answers (pos : Fin 128) (s : State) :
    Answers (execTransferStart pos s) := by
  unfold execTransferStart
  repeat' first
    | with_reducible exact answers_next _
    | with_reducible assumption
    | with_reducible apply answers_ite
    | dsimp only
    | split

theorem State.failPosted_answers (s : State) (k : Nat) :
    Answers (State.failPosted s k) := by
  unfold State.failPosted
  repeat' first
    | with_reducible exact answers_next _
    | with_reducible assumption
    | with_reducible apply answers_ite
    | dsimp only
    | split

theorem State.failAccess_answers (s : State) (pa : Nat) (addr : Word) :
    Answers (State.failAccess s pa addr) := by
  unfold State.failAccess
  repeat' first
    | with_reducible exact answers_next _
    | with_reducible assumption
    | with_reducible apply trapWith_answers

theorem State.failAwaited_answers (s : State) :
    Answers (State.failAwaited s) := by
  unfold State.failAwaited
  repeat' first
    | with_reducible exact answers_next _
    | with_reducible assumption
    | with_reducible apply done_answers
    | with_reducible apply State.failAccess_answers
    | with_reducible apply answers_ite
    | dsimp only
    | split

theorem State.failThread_answers (s : State) (k : Nat) :
    Answers (State.failThread s k) := by
  unfold State.failThread
  repeat' first
    | with_reducible exact answers_next _
    | with_reducible assumption
    | with_reducible apply State.failPosted_answers
    | with_reducible apply State.failAwaited_answers
    | with_reducible apply answers_ite
    | dsimp only
    | split

theorem execRouteRequestFail_answers (who : Requester) (k : Nat) (s : State) :
    Answers (execRouteRequestFail who k s) := by
  unfold execRouteRequestFail
  repeat' first
    | with_reducible exact answers_next _
    | with_reducible assumption
    | with_reducible apply onThread_answers
    | with_reducible apply State.failThread_answers
    | with_reducible apply answers_ite
    | dsimp only
    | split
    | intro _

theorem doneFloat_answers (s : State) (d : Reg) (x : Nat × Flags) (turns : Nat) :
    Answers (doneFloat s d x turns) := by
  unfold doneFloat
  exact answers_next _

theorem execIcvf_answers (t : FType) (d : Reg) (a : Reg) (ty : IntType) (r : RmField) (s : State) :
    Answers (execIcvf t d a ty r s) := by
  unfold execIcvf
  repeat' first
    | with_reducible exact answers_next _
    | with_reducible assumption
    | with_reducible apply doneFloat_answers

theorem execFsub_answers (t : FType) (d : Reg) (a : Reg) (b : Reg) (r : RmField) (s : State) :
    Answers (execFsub t d a b r s) := by
  unfold execFsub
  repeat' first
    | with_reducible exact answers_next _
    | with_reducible assumption
    | with_reducible apply doneFloat_answers

theorem setHypothesis_answers (s : State) (v : Word) :
    Answers (setHypothesis s v) := by
  unfold setHypothesis
  repeat' first
    | with_reducible exact answers_next _
    | with_reducible assumption
    | with_reducible apply done_answers
    | with_reducible apply answers_ite

theorem execHset_answers (a : Reg) (s : State) :
    Answers (execHset a s) := by
  unfold execHset
  repeat' first
    | with_reducible exact answers_next _
    | with_reducible assumption
    | with_reducible apply setHypothesis_answers

theorem execSplc_answers (_q : CmdQual) (partl : Bool) (slot : BitVec 3) (ninst : BitVec 10) (queue : BitVec 6) (s : State) :
    Answers (execSplc _q partl slot ninst queue s) := by
  unfold execSplc
  repeat' first
    | with_reducible exact answers_next _
    | with_reducible assumption
    | with_reducible apply refused_answers
    | with_reducible apply answers_ite
    | dsimp only
    | split

theorem execSra_answers (d : Reg) (a : Reg) (b : Reg) (s : State) :
    Answers (execSra d a b s) := by
  unfold execSra
  repeat' first
    | with_reducible exact answers_next _
    | with_reducible assumption
    | with_reducible apply doneG_answers

theorem execRouteLinkChange_answers (port : Fin 48) (up : Bool) (lanes : Fin 5) (s : State) :
    Answers (execRouteLinkChange port up lanes s) := by
  unfold execRouteLinkChange
  exact answers_next _

theorem execSinkWaitTimeout_answers (c : Fin 16) (g : Fin 4) (s : State) :
    Answers (execSinkWaitTimeout c g s) := by
  unfold execSinkWaitTimeout
  repeat' first
    | with_reducible exact answers_next _
    | with_reducible assumption
    | with_reducible apply answers_ite
    | dsimp only
    | split

theorem execSmigCommit_answers (k : Nat) (s : State) :
    Answers (execSmigCommit k s) := by
  unfold execSmigCommit
  repeat' first
    | with_reducible exact answers_next _
    | with_reducible assumption
    | with_reducible apply answers_ite
    | dsimp only
    | split

theorem execDrainComplete_answers (p : Place) (s : State) :
    Answers (execDrainComplete p s) := by
  unfold execDrainComplete
  repeat' first
    | with_reducible exact answers_next _
    | with_reducible assumption
    | with_reducible apply onThread_answers
    | with_reducible apply answers_ite
    | dsimp only
    | split
    | intro _

theorem loadTurn_answers (s : State) (n : Nat) (q : LoadQual) (reg : Bool) (b : Reg) (o : BitVec 12) (dst : LoadDest) :
    Answers (loadTurn s n q reg b o dst) := by
  unfold loadTurn
  repeat' first
    | with_reducible exact answers_next _
    | with_reducible assumption
    | with_reducible apply inTrouble_answers
    | with_reducible apply trapWith_answers
    | with_reducible apply answers_ite
    | dsimp only
    | split

theorem execLdp_answers (d : Reg) (b : Reg) (q : LoadQual) (o : BitVec 12) (s : State) :
    Answers (execLdp d b q o s) := by
  unfold execLdp
  repeat' first
    | with_reducible exact answers_next _
    | with_reducible assumption
    | with_reducible apply loadTurn_answers

theorem execNsub_answers (n : NodeFields) (s : State) :
    Answers (execNsub n s) := by
  unfold execNsub
  repeat' first
    | with_reducible exact answers_next _
    | with_reducible assumption
    | with_reducible apply elementwise_answers

theorem writeTwa_answers (s : State) (n : Fin 4) (v : Word) :
    Answers (writeTwa s n v) := by
  unfold writeTwa
  repeat' first
    | with_reducible exact answers_next _
    | with_reducible assumption
    | with_reducible apply done_answers

theorem writeTwc_answers (s : State) (n : Fin 4) (v : Word) :
    Answers (writeTwc s n v) := by
  unfold writeTwc
  repeat' first
    | with_reducible exact answers_next _
    | with_reducible assumption
    | with_reducible apply done_answers
    | with_reducible apply trapNow_answers
    | with_reducible apply answers_ite

theorem execMts_answers (a : Reg) (n : BitVec 12) (s : State) :
    Answers (execMts a n s) := by
  unfold execMts
  repeat' first
    | with_reducible exact answers_next _
    | with_reducible assumption
    | with_reducible apply done_answers
    | with_reducible apply writeTwa_answers
    | with_reducible apply writeTwc_answers
    | with_reducible apply trapNow_answers
    | with_reducible apply setHypothesis_answers
    | with_reducible apply answers_ite
    | dsimp only
    | split

theorem launchTurn_answers (s : State) (a : Reg) (b : Reg) (count : Option Reg) :
    Answers (launchTurn s a b count) := by
  unfold launchTurn
  repeat' first
    | with_reducible exact answers_next _
    | with_reducible assumption
    | with_reducible apply done_answers
    | with_reducible apply inTrouble_answers
    | with_reducible apply answers_ite
    | dsimp only
    | split

theorem atFence_answers (s : State) (sc : Scope) (k : State → Result) (hc2 : ∀ y0, (Answers (k y0))) :
    Answers (atFence s sc k) := by
  unfold atFence
  repeat' first
    | with_reducible exact answers_next _
    | with_reducible assumption
    | with_reducible apply hc2
    | with_reducible apply answers_ite

theorem execLnch_answers (a : Reg) (b : Reg) (s : State) :
    Answers (execLnch a b s) := by
  unfold execLnch
  repeat' first
    | with_reducible exact answers_next _
    | with_reducible assumption
    | with_reducible apply launchTurn_answers
    | with_reducible apply atFence_answers
    | with_reducible apply answers_ite
    | dsimp only
    | split
    | intro _

theorem execFmul_answers (t : FType) (d : Reg) (a : Reg) (b : Reg) (r : RmField) (s : State) :
    Answers (execFmul t d a b r s) := by
  unfold execFmul
  repeat' first
    | with_reducible exact answers_next _
    | with_reducible assumption
    | with_reducible apply doneFloat_answers

theorem execTenc_answers (t : FType) (d : Reg) (a : Reg) (n : Fin 4) (s : State) :
    Answers (execTenc t d a n s) := by
  unfold execTenc
  repeat' first
    | with_reducible exact answers_next _
    | with_reducible assumption
    | with_reducible apply doneInt_answers

theorem wtfeTurn_answers (d : Reg) (limit : Word) (s : State) :
    Answers (wtfeTurn d limit s) := by
  unfold wtfeTurn
  repeat' first
    | with_reducible exact answers_next _
    | with_reducible assumption
    | with_reducible apply answers_ite

theorem barwTurn_answers (d : Reg) (b : Fin 4) (limit : Word) (s : State) :
    Answers (barwTurn d b limit s) := by
  unfold barwTurn
  repeat' first
    | with_reducible exact answers_next _
    | with_reducible assumption
    | with_reducible apply acquiring_answers
    | with_reducible apply answers_ite
    | dsimp only
    | split
    | intro _

theorem twaitTurn_answers (d : Reg) (limit : Word) (s : State) :
    Answers (twaitTurn d limit s) := by
  unfold twaitTurn
  repeat' first
    | with_reducible exact answers_next _
    | with_reducible assumption
    | with_reducible apply acquiring_answers
    | with_reducible apply answers_ite
    | dsimp only
    | split
    | intro _

theorem timedTurn_answers (s : State) :
    Answers (timedTurn s) := by
  unfold timedTurn
  repeat' first
    | with_reducible exact answers_next _
    | with_reducible assumption
    | with_reducible apply hwaitTurn_answers
    | with_reducible apply wtfeTurn_answers
    | with_reducible apply barwTurn_answers
    | with_reducible apply twaitTurn_answers
    | with_reducible apply answers_ite
    | dsimp only
    | split

theorem execTimedWaitTimeout_answers (p : Place) (s : State) :
    Answers (execTimedWaitTimeout p s) := by
  unfold execTimedWaitTimeout
  repeat' first
    | with_reducible exact answers_next _
    | with_reducible assumption
    | with_reducible apply onThread_answers
    | with_reducible apply timedTurn_answers
    | with_reducible apply answers_ite
    | dsimp only
    | split
    | intro _

theorem execLdH_answers (d : Reg) (b : Reg) (q : LoadQual) (o : BitVec 12) (s : State) :
    Answers (execLdH d b q o s) := by
  unfold execLdH
  repeat' first
    | with_reducible exact answers_next _
    | with_reducible assumption
    | with_reducible apply loadTurn_answers

theorem execNfma_answers (n : NodeFields) (s : State) :
    Answers (execNfma n s) := by
  unfold execNfma
  repeat' first
    | with_reducible exact answers_next _
    | with_reducible assumption
    | with_reducible apply elementwise_answers

theorem branchIf_answers (c : Bool) (o : BitVec 15) (s : State) :
    Answers (branchIf c o s) := by
  unfold branchIf
  repeat' first
    | with_reducible exact answers_next _
    | with_reducible assumption
    | with_reducible apply done_answers
    | with_reducible apply answers_ite

theorem execBgen_answers (a : Reg) (b : Reg) (o : BitVec 15) (s : State) :
    Answers (execBgen a b o s) := by
  unfold execBgen
  repeat' first
    | with_reducible exact answers_next _
    | with_reducible assumption
    | with_reducible apply branchIf_answers

theorem execFlitArrive_answers (i : Nat) (k : Nat) (s : State) :
    Answers (execFlitArrive i k s) := by
  unfold execFlitArrive
  repeat' first
    | with_reducible exact answers_next _
    | with_reducible assumption
    | with_reducible apply answers_ite
    | dsimp only
    | split

theorem execLoop_answers (a : Reg) (o : BitVec 15) (s : State) :
    Answers (execLoop a o s) := by
  unfold execLoop
  repeat' first
    | with_reducible exact answers_next _
    | with_reducible assumption
    | with_reducible apply done_answers
    | with_reducible apply answers_ite

theorem execFmin_answers (t : FType) (d : Reg) (a : Reg) (b : Reg) (s : State) :
    Answers (execFmin t d a b s) := by
  unfold execFmin
  repeat' first
    | with_reducible exact answers_next _
    | with_reducible assumption
    | with_reducible apply doneFloat_answers

theorem execNsel_answers (n : NodeFields) (s : State) :
    Answers (execNsel n s) := by
  unfold execNsel
  repeat' first
    | with_reducible exact answers_next _
    | with_reducible assumption
    | with_reducible apply elementwise_answers

theorem execHrefDiscard_answers (c : Fin 16) (s : State) :
    Answers (execHrefDiscard c s) := by
  unfold execHrefDiscard
  repeat' first
    | with_reducible exact answers_next _
    | with_reducible assumption
    | with_reducible apply answers_ite
    | dsimp only
    | split

theorem withLine_answers (s : State) (p : Word) (ea : Nat) (k : Nat → Result) (hc3 : ∀ y0, (Answers (k y0))) :
    Answers (withLine s p ea k) := by
  unfold withLine
  repeat' first
    | with_reducible exact answers_next _
    | with_reducible assumption
    | with_reducible apply hc3
    | with_reducible apply done_answers
    | with_reducible apply inTrouble_answers
    | with_reducible apply answers_ite
    | dsimp only
    | split

theorem execCfls_answers (b : Reg) (o : BitVec 12) (s : State) :
    Answers (execCfls b o s) := by
  unfold execCfls
  repeat' first
    | with_reducible exact answers_next _
    | with_reducible assumption
    | with_reducible apply done_answers
    | with_reducible apply withLine_answers
    | with_reducible apply answers_ite
    | dsimp only
    | split
    | intro _

theorem execSigv_answers (a : Reg) (b : Reg) (s : State) :
    Answers (execSigv a b s) := by
  unfold execSigv
  repeat' first
    | with_reducible exact answers_next _
    | with_reducible assumption
    | with_reducible apply done_answers
    | with_reducible apply atFence_answers
    | with_reducible apply answers_ite
    | dsimp only
    | split
    | intro _

theorem holdBack_answers (s : State) :
    Answers (holdBack s) := by
  unfold holdBack
  exact answers_next _

theorem execSagpU_answers (_q : CmdQual) (pos : BitVec 7) (prog : BitVec 2) (s : State) :
    Answers (execSagpU _q pos prog s) := by
  unfold execSagpU
  repeat' first
    | with_reducible exact answers_next _
    | with_reducible assumption
    | with_reducible apply holdBack_answers
    | with_reducible apply answers_ite

theorem execHypControllerRequest_answers (c : Fin 16) (s : State) :
    Answers (execHypControllerRequest c s) := by
  unfold execHypControllerRequest
  repeat' first
    | with_reducible exact answers_next _
    | with_reducible assumption
    | with_reducible apply answers_ite
    | dsimp only
    | split

theorem execTokenGrantArrive_answers (k : Nat) (s : State) :
    Answers (execTokenGrantArrive k s) := by
  unfold execTokenGrantArrive
  repeat' first
    | with_reducible exact answers_next _
    | with_reducible assumption
    | with_reducible apply onThread_answers
    | with_reducible apply answers_ite
    | dsimp only
    | split
    | intro _

theorem execBfxS_answers (d : Reg) (a : Reg) (w : BitVec 6) (p : BitVec 6) (s : State) :
    Answers (execBfxS d a w p s) := by
  unfold execBfxS
  repeat' first
    | with_reducible exact answers_next _
    | with_reducible assumption
    | with_reducible apply doneG_answers

theorem execAnd_answers (d : Reg) (a : Reg) (b : Reg) (s : State) :
    Answers (execAnd d a b s) := by
  unfold execAnd
  repeat' first
    | with_reducible exact answers_next _
    | with_reducible assumption
    | with_reducible apply doneG_answers

theorem portTurn_answers (s : State) (addr : Word) (pa : Nat) (v : Nat) :
    Answers (portTurn s addr pa v) := by
  unfold portTurn
  repeat' first
    | with_reducible exact answers_next _
    | with_reducible assumption
    | with_reducible apply done_answers
    | with_reducible apply atFence_answers
    | with_reducible apply answers_ite
    | dsimp only
    | split
    | intro _

theorem storeTurn_answers (s : State) (n : Nat) (q : StoreQual) (reg : Bool) (port : Bool) (b : Reg) (o : BitVec 12) (v : Nat) :
    Answers (storeTurn s n q reg port b o v) := by
  unfold storeTurn
  repeat' first
    | with_reducible exact answers_next _
    | with_reducible assumption
    | with_reducible apply portTurn_answers
    | with_reducible apply inTrouble_answers
    | with_reducible apply trapWith_answers
    | with_reducible apply answers_ite
    | dsimp only
    | split

theorem execStD_answers (d : Reg) (b : Reg) (q : StoreQual) (o : BitVec 12) (s : State) :
    Answers (execStD d b q o s) := by
  unfold execStD
  repeat' first
    | with_reducible exact answers_next _
    | with_reducible assumption
    | with_reducible apply storeTurn_answers

theorem repack_answers (k : NodeKind) (n : NodeFields) (header : TileHdr → Word) (s : State) :
    Answers (repack k n header s) := by
  unfold repack
  repeat' first
    | with_reducible exact answers_next _
    | with_reducible assumption
    | with_reducible apply fire_answers
    | with_reducible apply Firing.done_answers
    | with_reducible apply answers_ite
    | dsimp only
    | split
    | intro _

theorem repackStep_answers (k : NodeKind) (n : NodeFields) (header : TileHdr → Word) (s : State) :
    Answers (repackStep k n header s) := by
  unfold repackStep
  repeat' first
    | with_reducible exact answers_next _
    | with_reducible assumption
    | with_reducible apply Firing.done_answers
    | with_reducible apply repack_answers
    | with_reducible apply withFiring_answers
    | with_reducible apply answers_ite
    | dsimp only
    | split
    | intro _

theorem execNdec_answers (n : NodeFields) (s : State) :
    Answers (execNdec n s) := by
  unfold execNdec
  repeat' first
    | with_reducible exact answers_next _
    | with_reducible assumption
    | with_reducible apply repackStep_answers

theorem execFle_answers (t : FType) (d : Reg) (a : Reg) (b : Reg) (s : State) :
    Answers (execFle t d a b s) := by
  unfold execFle
  repeat' first
    | with_reducible exact answers_next _
    | with_reducible assumption
    | with_reducible apply doneInt_answers

theorem execQtop_answers (d : Reg) (a : Reg) (s : State) :
    Answers (execQtop d a s) := by
  unfold execQtop
  repeat' first
    | with_reducible exact answers_next _
    | with_reducible assumption
    | with_reducible apply doneG_answers
    | with_reducible apply answers_ite
    | dsimp only
    | split

theorem execBlt_answers (a : Reg) (b : Reg) (o : BitVec 15) (s : State) :
    Answers (execBlt a b o s) := by
  unfold execBlt
  repeat' first
    | with_reducible exact answers_next _
    | with_reducible assumption
    | with_reducible apply branchIf_answers

theorem execPresDiscard_answers (site : Fin 1024) (port : Fin 4) (s : State) :
    Answers (execPresDiscard site port s) := by
  unfold execPresDiscard
  exact answers_next _

theorem execStfD_answers (d : Reg) (b : Reg) (q : StoreQual) (o : BitVec 12) (s : State) :
    Answers (execStfD d b q o s) := by
  unfold execStfD
  repeat' first
    | with_reducible exact answers_next _
    | with_reducible assumption
    | with_reducible apply storeTurn_answers

theorem execEdgeProgramFlit_answers (pos : Fin 128) (prog : Fin 4) (s : State) :
    Answers (execEdgeProgramFlit pos prog s) := by
  unfold execEdgeProgramFlit
  repeat' first
    | with_reducible exact answers_next _
    | with_reducible assumption
    | with_reducible apply answers_ite
    | dsimp only
    | split

theorem execBge_answers (a : Reg) (b : Reg) (o : BitVec 15) (s : State) :
    Answers (execBge a b o s) := by
  unfold execBge
  repeat' first
    | with_reducible exact answers_next _
    | with_reducible assumption
    | with_reducible apply branchIf_answers

theorem execDivn_answers (d : Reg) (a : Reg) (b : Reg) (s : State) :
    Answers (execDivn d a b s) := by
  unfold execDivn
  repeat' first
    | with_reducible exact answers_next _
    | with_reducible assumption
    | with_reducible apply divide_answers

theorem execBmaskWrite_answers (ctx : Fin 16) (b : Fin 4) (bw : Fin 16) (v : Word) (s : State) :
    Answers (execBmaskWrite ctx b bw v s) := by
  unfold execBmaskWrite
  exact answers_next _

theorem execNneg_answers (n : NodeFields) (s : State) :
    Answers (execNneg n s) := by
  unfold execNneg
  repeat' first
    | with_reducible exact answers_next _
    | with_reducible assumption
    | with_reducible apply elementwise_answers

theorem execCinv_answers (b : Reg) (o : BitVec 12) (s : State) :
    Answers (execCinv b o s) := by
  unfold execCinv
  repeat' first
    | with_reducible exact answers_next _
    | with_reducible assumption
    | with_reducible apply done_answers
    | with_reducible apply withLine_answers
    | with_reducible apply answers_ite
    | dsimp only
    | split
    | intro _

theorem execFdiv_answers (t : FType) (d : Reg) (a : Reg) (b : Reg) (r : RmField) (s : State) :
    Answers (execFdiv t d a b r s) := by
  unfold execFdiv
  repeat' first
    | with_reducible exact answers_next _
    | with_reducible assumption
    | with_reducible apply doneFloat_answers

theorem execPageFillComplete_answers (k : Nat) (err : Bool) (s : State) :
    Answers (execPageFillComplete k err s) := by
  unfold execPageFillComplete
  repeat' first
    | with_reducible exact answers_next _
    | with_reducible assumption
    | with_reducible apply answers_ite
    | dsimp only
    | split

theorem execCrcc_answers (d : Reg) (a : Reg) (b : Reg) (n : BitVec 3) (s : State) :
    Answers (execCrcc d a b n s) := by
  unfold execCrcc
  repeat' first
    | with_reducible exact answers_next _
    | with_reducible assumption
    | with_reducible apply doneG_answers

theorem execFabs_answers (t : FType) (d : Reg) (a : Reg) (s : State) :
    Answers (execFabs t d a s) := by
  unfold execFabs
  repeat' first
    | with_reducible exact answers_next _
    | with_reducible assumption
    | with_reducible apply doneFloat_answers

theorem readTime_answers (s : State) (d : Reg) :
    Answers (readTime s d) := by
  unfold readTime
  repeat' first
    | with_reducible exact answers_next _
    | with_reducible assumption
    | with_reducible apply doneG_answers

theorem execMfs_answers (d : Reg) (n : BitVec 12) (s : State) :
    Answers (execMfs d n s) := by
  unfold execMfs
  repeat' first
    | with_reducible exact answers_next _
    | with_reducible assumption
    | with_reducible apply doneG_answers
    | with_reducible apply readTime_answers
    | with_reducible apply trapNow_answers
    | with_reducible apply answers_ite
    | dsimp only
    | split

theorem execShdr_answers (_q : CmdQual) (ep : BitVec 8) (slot : BitVec 3) (inst : BitVec 10) (scale : BitVec 8) (tslot : BitVec 2) (en : Bool)
    (s : State) :
    Answers (execShdr _q ep slot inst scale tslot en s) := by
  unfold execShdr
  repeat' first
    | with_reducible exact answers_next _
    | with_reducible assumption
    | with_reducible apply refused_answers
    | with_reducible apply onInsts_answers
    | with_reducible apply answers_ite
    | dsimp only
    | split

theorem execNcvt_answers (n : NodeFields) (s : State) :
    Answers (execNcvt n s) := by
  unfold execNcvt
  repeat' first
    | with_reducible exact answers_next _
    | with_reducible assumption
    | with_reducible apply repackStep_answers

theorem execLdfW_answers (d : Reg) (b : Reg) (q : LoadQual) (o : BitVec 12) (s : State) :
    Answers (execLdfW d b q o s) := by
  unfold execLdfW
  repeat' first
    | with_reducible exact answers_next _
    | with_reducible assumption
    | with_reducible apply loadTurn_answers

theorem execLlcEvict_answers (line : Nat) (s : State) :
    Answers (execLlcEvict line s) := by
  unfold execLlcEvict
  repeat' first
    | with_reducible exact answers_next _
    | with_reducible assumption
    | with_reducible apply answers_ite

theorem execCfgeccError_answers (i : Nat) (page : Nat) (s : State) :
    Answers (execCfgeccError i page s) := by
  unfold execCfgeccError
  repeat' first
    | with_reducible exact answers_next _
    | with_reducible assumption
    | with_reducible apply answers_ite
    | dsimp only
    | split

theorem execLea_answers (d : Reg) (a : Reg) (b : Reg) (sc : Fin 5) (s : State) :
    Answers (execLea d a b sc s) := by
  unfold execLea
  repeat' first
    | with_reducible exact answers_next _
    | with_reducible assumption
    | with_reducible apply doneG_answers

theorem enqueue_answers (s : State) (tgt : Nat) :
    Answers (enqueue s tgt) := by
  unfold enqueue
  repeat' first
    | with_reducible exact answers_next _
    | with_reducible assumption
    | with_reducible apply refused_answers
    | with_reducible apply holdBack_answers
    | with_reducible apply answers_ite
    | dsimp only
    | split

theorem enqueueData_answers (s : State) (o : DataOps) (unbound : Bool) :
    Answers (enqueueData s o unbound) := by
  unfold enqueueData
  repeat' first
    | with_reducible exact answers_next _
    | with_reducible assumption
    | with_reducible apply enqueue_answers
    | with_reducible apply refused_answers
    | with_reducible apply answers_ite

theorem execSlkp_answers (_q : CmdQual) (o : DataOps) (s : State) :
    Answers (execSlkp _q o s) := by
  unfold execSlkp
  repeat' first
    | with_reducible exact answers_next _
    | with_reducible assumption
    | with_reducible apply enqueueData_answers

theorem execPortResultReturn_answers (i : Nat) (page : Nat) (port : Fin 4) (k : Nat) (s : State) :
    Answers (execPortResultReturn i page port k s) := by
  unfold execPortResultReturn
  repeat' first
    | with_reducible exact answers_next _
    | with_reducible assumption
    | with_reducible apply answers_ite
    | dsimp only
    | split

theorem execSagp_answers (_q : CmdQual) (pos : BitVec 7) (prog : BitVec 2) (pgm : BitVec 46) (slot : BitVec 3) (inst : BitVec 10) (s : State) :
    Answers (execSagp _q pos prog pgm slot inst s) := by
  unfold execSagp
  repeat' first
    | with_reducible exact answers_next _
    | with_reducible assumption
    | with_reducible apply refused_answers
    | with_reducible apply holdBack_answers
    | with_reducible apply answers_ite
    | dsimp only
    | split

theorem Routing.done_answers (f : Routing) :
    Answers (Routing.done f) := by
  unfold Routing.done
  exact answers_next _

theorem moveFlit_answers (f : Routing) (ch : BitVec 4) (mask : BitVec 16) (psn : Bool) (g : RouterState → Bool → RouterState) :
    Answers (moveFlit f ch mask psn g) := by
  unfold moveFlit
  repeat' first
    | with_reducible exact answers_next _
    | with_reducible assumption
    | with_reducible apply Routing.done_answers
    | with_reducible apply answers_ite
    | dsimp only
    | split

theorem withRouter_answers (r : RouterFields) (s : State) (k : Routing → Result) (hc2 : ∀ y0, (Answers (k y0))) :
    Answers (withRouter r s k) := by
  unfold withRouter
  repeat' first
    | with_reducible exact answers_next _
    | with_reducible assumption
    | with_reducible apply hc2
    | with_reducible apply answers_ite
    | dsimp only
    | split

theorem execFork_answers (r : RouterFields) (s : State) :
    Answers (execFork r s) := by
  unfold execFork
  repeat' first
    | with_reducible exact answers_next _
    | with_reducible assumption
    | with_reducible apply moveFlit_answers
    | with_reducible apply withRouter_answers
    | with_reducible apply answers_ite
    | dsimp only
    | split
    | intro _

theorem execYield_answers (s : State) :
    Answers (execYield s) := by
  unfold execYield
  repeat' first
    | with_reducible exact answers_next _
    | with_reducible assumption
    | with_reducible apply done_answers
    | with_reducible apply answers_ite
    | dsimp only
    | split

theorem execPref_answers (h : PrefHint) (b : Reg) (o : BitVec 12) (s : State) :
    Answers (execPref h b o s) := by
  unfold execPref
  repeat' first
    | with_reducible exact answers_next _
    | with_reducible assumption
    | with_reducible apply done_answers
    | with_reducible apply answers_ite
    | dsimp only
    | split

theorem execBarrierRelease_answers (c : Fin 16) (b : Fin 4) (s : State) :
    Answers (execBarrierRelease c b s) := by
  unfold execBarrierRelease
  repeat' first
    | with_reducible exact answers_next _
    | with_reducible assumption
    | with_reducible apply answers_ite

theorem execAswpR_answers (d : Reg) (a : Reg) (b : Reg) (z : AtomSize) (s : State) :
    Answers (execAswpR d a b z s) := by
  unfold execAswpR
  repeat' first
    | with_reducible exact answers_next _
    | with_reducible assumption
    | with_reducible apply returnAtom_answers

theorem execStbl_answers (_q : CmdQual) (tbl : BitVec 4) (desc : BitVec 46) (free : BitVec 49) (s : State) :
    Answers (execStbl _q tbl desc free s) := by
  unfold execStbl
  repeat' first
    | with_reducible exact answers_next _
    | with_reducible assumption
    | with_reducible apply refused_answers
    | with_reducible apply answers_ite
    | dsimp only
    | split

theorem execShli_answers (d : Reg) (a : Reg) (n : BitVec 6) (s : State) :
    Answers (execShli d a n s) := by
  unfold execShli
  repeat' first
    | with_reducible exact answers_next _
    | with_reducible assumption
    | with_reducible apply doneG_answers

theorem execFadd_answers (t : FType) (d : Reg) (a : Reg) (b : Reg) (r : RmField) (s : State) :
    Answers (execFadd t d a b r s) := by
  unfold execFadd
  repeat' first
    | with_reducible exact answers_next _
    | with_reducible assumption
    | with_reducible apply doneFloat_answers

theorem execFlt_answers (t : FType) (d : Reg) (a : Reg) (b : Reg) (s : State) :
    Answers (execFlt t d a b s) := by
  unfold execFlt
  repeat' first
    | with_reducible exact answers_next _
    | with_reducible assumption
    | with_reducible apply doneInt_answers

theorem execNor_answers (n : NodeFields) (s : State) :
    Answers (execNor n s) := by
  unfold execNor
  repeat' first
    | with_reducible exact answers_next _
    | with_reducible assumption
    | with_reducible apply elementwise_answers

theorem execTwait_answers (d : Reg) (a : Reg) (s : State) :
    Answers (execTwait d a s) := by
  unfold execTwait
  repeat' first
    | with_reducible exact answers_next _
    | with_reducible assumption
    | with_reducible apply twaitTurn_answers

theorem execBarw_answers (d : Reg) (a : Reg) (b : Reg) (s : State) :
    Answers (execBarw d a b s) := by
  unfold execBarw
  repeat' first
    | with_reducible exact answers_next _
    | with_reducible assumption
    | with_reducible apply barwTurn_answers

theorem execCxrstGo_answers (ctx : Fin 16) (s : State) :
    Answers (execCxrstGo ctx s) := by
  unfold execCxrstGo
  exact answers_next _

theorem withDecision_answers (f : Routing) (k : Routing → Bool → Bool → Result) (hc1 : ∀ y0, ∀ y1, ∀ y2, (Answers (k y0 y1 y2))) :
    Answers (withDecision f k) := by
  unfold withDecision
  repeat' first
    | with_reducible exact answers_next _
    | with_reducible assumption
    | with_reducible apply hc1
    | with_reducible apply Routing.done_answers
    | with_reducible apply answers_ite
    | dsimp only
    | split

theorem decided_answers (r : RouterFields) (input : Bool → BitVec 4) (mask : Bool → BitVec 16) (s : State) :
    Answers (decided r input mask s) := by
  unfold decided
  repeat' first
    | with_reducible exact answers_next _
    | with_reducible assumption
    | with_reducible apply moveFlit_answers
    | with_reducible apply withRouter_answers
    | with_reducible apply withDecision_answers
    | with_reducible apply answers_ite
    | dsimp only
    | split
    | intro _

theorem execMerge_answers (r : RouterFields) (s : State) :
    Answers (execMerge r s) := by
  unfold execMerge
  repeat' first
    | with_reducible exact answers_next _
    | with_reducible assumption
    | with_reducible apply decided_answers

theorem execGraphEnd_answers (c : Fin 16) (g : Fin 4) (s : State) :
    Answers (execGraphEnd c g s) := by
  unfold execGraphEnd
  repeat' first
    | with_reducible exact answers_next _
    | with_reducible assumption
    | with_reducible apply answers_ite
    | dsimp only
    | split

theorem execWtfe_answers (d : Reg) (a : Reg) (b : Reg) (s : State) :
    Answers (execWtfe d a b s) := by
  unfold execWtfe
  repeat' first
    | with_reducible exact answers_next _
    | with_reducible assumption
    | with_reducible apply acquiring_answers
    | with_reducible apply inTrouble_answers
    | with_reducible apply answers_ite
    | dsimp only
    | split
    | intro _

theorem execMvfg_answers (t : FType) (d : Reg) (a : Reg) (s : State) :
    Answers (execMvfg t d a s) := by
  unfold execMvfg
  repeat' first
    | with_reducible exact answers_next _
    | with_reducible assumption
    | with_reducible apply doneInt_answers

theorem execDoorResultRelease_answers (i : Nat) (door : Nat) (s : State) :
    Answers (execDoorResultRelease i door s) := by
  unfold execDoorResultRelease
  repeat' first
    | with_reducible exact answers_next _
    | with_reducible assumption
    | with_reducible apply answers_ite
    | dsimp only
    | split

theorem execQgrd_answers (d : Reg) (s : State) :
    Answers (execQgrd d s) := by
  unfold execQgrd
  repeat' first
    | with_reducible exact answers_next _
    | with_reducible assumption
    | with_reducible apply doneG_answers

theorem execHalt_answers (s : State) :
    Answers (execHalt s) := by
  unfold execHalt
  exact answers_next _

theorem withAtom_answers (s : State) (p : Word) (z : AtomSize) (k : State → Nat → Nat → Result) (hc3 : ∀ y0, ∀ y1, ∀ y2, (Answers (k y0 y1 y2))) :
    Answers (withAtom s p z k) := by
  unfold withAtom
  repeat' first
    | with_reducible exact answers_next _
    | with_reducible assumption
    | with_reducible apply hc3
    | with_reducible apply inTrouble_answers
    | with_reducible apply answers_ite
    | dsimp only
    | split

theorem postAtom_answers (op : AtomOp) (z : AtomSize) (p : Word) (b : Word) (expect : Word) (s : State) :
    Answers (postAtom op z p b expect s) := by
  unfold postAtom
  repeat' first
    | with_reducible exact answers_next _
    | with_reducible assumption
    | with_reducible apply done_answers
    | with_reducible apply withAtom_answers
    | with_reducible apply answers_ite
    | dsimp only
    | split
    | intro _

theorem execAcas_answers (a : Reg) (b : Reg) (z : AtomSize) (c : Reg) (s : State) :
    Answers (execAcas a b z c s) := by
  unfold execAcas
  repeat' first
    | with_reducible exact answers_next _
    | with_reducible assumption
    | with_reducible apply postAtom_answers

theorem execAadd_answers (a : Reg) (b : Reg) (z : AtomSize) (s : State) :
    Answers (execAadd a b z s) := by
  unfold execAadd
  repeat' first
    | with_reducible exact answers_next _
    | with_reducible assumption
    | with_reducible apply postAtom_answers

theorem execSink_answers (r : RouterFields) (s : State) :
    Answers (execSink r s) := by
  unfold execSink
  repeat' first
    | with_reducible exact answers_next _
    | with_reducible assumption
    | with_reducible apply Routing.done_answers
    | with_reducible apply withRouter_answers
    | with_reducible apply answers_ite
    | dsimp only
    | split
    | intro _

theorem fence_answers (rel : Bool) (acq : Bool) (sc : Scope) (s : State) :
    Answers (fence rel acq sc s) := by
  unfold fence
  repeat' first
    | with_reducible exact answers_next _
    | with_reducible assumption
    | with_reducible apply done_answers
    | with_reducible apply acquiring_answers
    | with_reducible apply atFence_answers
    | with_reducible apply answers_ite
    | dsimp only
    | split
    | intro _

theorem execFenceAcq_answers (sc : Scope) (s : State) :
    Answers (execFenceAcq sc s) := by
  unfold execFenceAcq
  repeat' first
    | with_reducible exact answers_next _
    | with_reducible assumption
    | with_reducible apply fence_answers

theorem execQblt_answers (d : Reg) (a : Reg) (b : Reg) (s : State) :
    Answers (execQblt d a b s) := by
  unfold execQblt
  repeat' first
    | with_reducible exact answers_next _
    | with_reducible assumption
    | with_reducible apply doneG_answers

theorem execPadr_answers (d : Reg) (a : Reg) (b : Reg) (s : State) :
    Answers (execPadr d a b s) := by
  unfold execPadr
  repeat' first
    | with_reducible exact answers_next _
    | with_reducible assumption
    | with_reducible apply doneG_answers

theorem execXori_answers (d : Reg) (a : Reg) (i : BitVec 15) (s : State) :
    Answers (execXori d a i s) := by
  unfold execXori
  repeat' first
    | with_reducible exact answers_next _
    | with_reducible assumption
    | with_reducible apply doneG_answers

theorem execAfaddF32_answers (a : Reg) (b : Reg) (s : State) :
    Answers (execAfaddF32 a b s) := by
  unfold execAfaddF32
  repeat' first
    | with_reducible exact answers_next _
    | with_reducible assumption
    | with_reducible apply postAtom_answers

theorem withRegion_answers (s : State) (p : Word) (k : Nat → Result) (hc2 : ∀ y0, (Answers (k y0))) :
    Answers (withRegion s p k) := by
  unfold withRegion
  repeat' first
    | with_reducible exact answers_next _
    | with_reducible assumption
    | with_reducible apply hc2
    | with_reducible apply inTrouble_answers
    | with_reducible apply trapWith_answers
    | with_reducible apply answers_ite
    | dsimp only
    | split

theorem execTkaq_answers (a : Reg) (s : State) :
    Answers (execTkaq a s) := by
  unfold execTkaq
  repeat' first
    | with_reducible exact answers_next _
    | with_reducible assumption
    | with_reducible apply done_answers
    | with_reducible apply acquiring_answers
    | with_reducible apply withRegion_answers
    | with_reducible apply answers_ite
    | dsimp only
    | split
    | intro _

theorem execHconfMerge_answers (c : Fin 16) (s : State) :
    Answers (execHconfMerge c s) := by
  unfold execHconfMerge
  repeat' first
    | with_reducible exact answers_next _
    | with_reducible assumption
    | with_reducible apply answers_ite
    | dsimp only
    | split

theorem execInterruptEntry_answers (core : Fin 16) (s : State) :
    Answers (execInterruptEntry core s) := by
  unfold execInterruptEntry
  repeat' first
    | with_reducible exact answers_next _
    | with_reducible assumption
    | with_reducible apply onThread_answers
    | with_reducible apply answers_ite
    | dsimp only
    | split
    | intro _

theorem execSltn_answers (d : Reg) (a : Reg) (b : Reg) (s : State) :
    Answers (execSltn d a b s) := by
  unfold execSltn
  repeat' first
    | with_reducible exact answers_next _
    | with_reducible assumption
    | with_reducible apply doneG_answers

theorem passing_answers (n : NodeFields) (g : NodeState → Flit → NodeState × Flit) (s : State) :
    Answers (passing n g s) := by
  unfold passing
  repeat' first
    | with_reducible exact answers_next _
    | with_reducible assumption
    | with_reducible apply Firing.done_answers
    | with_reducible apply withFiring_answers
    | with_reducible apply answers_ite
    | dsimp only
    | split
    | intro _

theorem execNrly_answers (n : NodeFields) (s : State) :
    Answers (execNrly n s) := by
  unfold execNrly
  repeat' first
    | with_reducible exact answers_next _
    | with_reducible assumption
    | with_reducible apply passing_answers

theorem execSarm_answers (_q : CmdQual) (abs : Bool) (ep : BitVec 8) (slot : BitVec 3) (inst : BitVec 10) (count : BitVec 32) (s : State) :
    Answers (execSarm _q abs ep slot inst count s) := by
  unfold execSarm
  repeat' first
    | with_reducible exact answers_next _
    | with_reducible assumption
    | with_reducible apply onInsts_answers

theorem execNmax_answers (n : NodeFields) (s : State) :
    Answers (execNmax n s) := by
  unfold execNmax
  repeat' first
    | with_reducible exact answers_next _
    | with_reducible assumption
    | with_reducible apply elementwise_answers

theorem execAdd_answers (d : Reg) (a : Reg) (b : Reg) (s : State) :
    Answers (execAdd d a b s) := by
  unfold execAdd
  repeat' first
    | with_reducible exact answers_next _
    | with_reducible assumption
    | with_reducible apply doneG_answers

theorem trapCode_answers (code : Nat) (s : State) :
    Answers (trapCode code s) := by
  unfold trapCode
  exact answers_next _

theorem execTrapService_answers (c : BitVec 11) (s : State) :
    Answers (execTrapService c s) := by
  unfold execTrapService
  repeat' first
    | with_reducible exact answers_next _
    | with_reducible assumption
    | with_reducible apply trapCode_answers
    | with_reducible apply answers_ite

theorem execAswp_answers (a : Reg) (b : Reg) (z : AtomSize) (s : State) :
    Answers (execAswp a b z s) := by
  unfold execAswp
  repeat' first
    | with_reducible exact answers_next _
    | with_reducible assumption
    | with_reducible apply postAtom_answers

theorem execAandR_answers (d : Reg) (a : Reg) (b : Reg) (z : AtomSize) (s : State) :
    Answers (execAandR d a b z s) := by
  unfold execAandR
  repeat' first
    | with_reducible exact answers_next _
    | with_reducible assumption
    | with_reducible apply returnAtom_answers

theorem execStH_answers (d : Reg) (b : Reg) (q : StoreQual) (o : BitVec 12) (s : State) :
    Answers (execStH d b q o s) := by
  unfold execStH
  repeat' first
    | with_reducible exact answers_next _
    | with_reducible assumption
    | with_reducible apply storeTurn_answers

theorem execCacheEvict_answers (k : Nat) (s : State) :
    Answers (execCacheEvict k s) := by
  unfold execCacheEvict
  repeat' first
    | with_reducible exact answers_next _
    | with_reducible assumption
    | with_reducible apply answers_ite
    | dsimp only
    | split

theorem execStp_answers (d : Reg) (b : Reg) (q : StoreQual) (o : BitVec 12) (s : State) :
    Answers (execStp d b q o s) := by
  unfold execStp
  repeat' first
    | with_reducible exact answers_next _
    | with_reducible assumption
    | with_reducible apply storeTurn_answers

theorem execGctlCommit_answers (v : Word) (s : State) :
    Answers (execGctlCommit v s) := by
  unfold execGctlCommit
  exact answers_next _

theorem execOr_answers (d : Reg) (a : Reg) (b : Reg) (s : State) :
    Answers (execOr d a b s) := by
  unfold execOr
  repeat' first
    | with_reducible exact answers_next _
    | with_reducible assumption
    | with_reducible apply doneG_answers

theorem withPort_answers (s : State) (k : Fin 4 → Result) (hc1 : ∀ y0, (Answers (k y0))) :
    Answers (withPort s k) := by
  unfold withPort
  repeat' first
    | with_reducible exact answers_next _
    | with_reducible assumption
    | with_reducible apply hc1
    | with_reducible apply answers_ite
    | dsimp only
    | split

theorem fireQueued_answers (p : Fin 4) (n : NodeFields) (ins : List (BitVec 4)) (bad : List Flit → Nat → Flit → Bool)
    (onHeader : Firing → Bool → Result) (onData : Firing → List Flit → Result) (s : State) (hc4 : ∀ y0, ∀ y1, (Answers (onHeader y0 y1))) (hc5 : ∀ y0, ∀ y1, (Answers (onData y0 y1))) :
    Answers (fireQueued p n ins bad onHeader onData s) := by
  unfold fireQueued
  repeat' first
    | with_reducible exact answers_next _
    | with_reducible assumption
    | with_reducible apply hc4
    | with_reducible apply hc5
    | with_reducible apply fireInto_answers
    | with_reducible apply answers_ite
    | dsimp only
    | split
    | intro _

theorem execNst_answers (n : NodeFields) (s : State) :
    Answers (execNst n s) := by
  unfold execNst
  repeat' first
    | with_reducible exact answers_next _
    | with_reducible assumption
    | with_reducible apply withPort_answers
    | with_reducible apply Firing.done_answers
    | with_reducible apply fireQueued_answers
    | with_reducible apply answers_ite
    | dsimp only
    | split
    | intro _

theorem execSel_answers (d : Reg) (a : Reg) (b : Reg) (c : Reg) (s : State) :
    Answers (execSel d a b c s) := by
  unfold execSel
  repeat' first
    | with_reducible exact answers_next _
    | with_reducible assumption
    | with_reducible apply doneG_answers

theorem execTgld_answers (d : Reg) (b : Reg) (o : BitVec 12) (s : State) :
    Answers (execTgld d b o s) := by
  unfold execTgld
  repeat' first
    | with_reducible exact answers_next _
    | with_reducible assumption
    | with_reducible apply inTrouble_answers
    | with_reducible apply doneG_answers
    | with_reducible apply answers_ite
    | dsimp only
    | split

theorem execHangDetect_answers (i : Nat) (s : State) :
    Answers (execHangDetect i s) := by
  unfold execHangDetect
  repeat' first
    | with_reducible exact answers_next _
    | with_reducible assumption
    | with_reducible apply answers_ite
    | dsimp only
    | split

theorem execNmul_answers (n : NodeFields) (s : State) :
    Answers (execNmul n s) := by
  unfold execNmul
  repeat' first
    | with_reducible exact answers_next _
    | with_reducible assumption
    | with_reducible apply elementwise_answers

theorem execNmin_answers (n : NodeFields) (s : State) :
    Answers (execNmin n s) := by
  unfold execNmin
  repeat' first
    | with_reducible exact answers_next _
    | with_reducible assumption
    | with_reducible apply elementwise_answers

theorem execSlt_answers (d : Reg) (a : Reg) (b : Reg) (s : State) :
    Answers (execSlt d a b s) := by
  unfold execSlt
  repeat' first
    | with_reducible exact answers_next _
    | with_reducible assumption
    | with_reducible apply doneG_answers

theorem execRels_answers (a : Reg) (b : Reg) (s : State) :
    Answers (execRels a b s) := by
  unfold execRels
  repeat' first
    | with_reducible exact answers_next _
    | with_reducible assumption
    | with_reducible apply done_answers
    | with_reducible apply ringStep_answers
    | with_reducible apply atFence_answers
    | with_reducible apply answers_ite
    | dsimp only
    | split
    | intro _

theorem execTbldComplete_answers (p : Place) (s : State) :
    Answers (execTbldComplete p s) := by
  unfold execTbldComplete
  exact answers_next _

theorem execAminn_answers (a : Reg) (b : Reg) (z : AtomSize) (s : State) :
    Answers (execAminn a b z s) := by
  unfold execAminn
  repeat' first
    | with_reducible exact answers_next _
    | with_reducible assumption
    | with_reducible apply postAtom_answers

theorem execFrnd_answers (t : FType) (d : Reg) (a : Reg) (r : RmField) (s : State) :
    Answers (execFrnd t d a r s) := by
  unfold execFrnd
  repeat' first
    | with_reducible exact answers_next _
    | with_reducible assumption
    | with_reducible apply doneFloat_answers

theorem execAdpc_answers (d : Reg) (i : BitVec 20) (s : State) :
    Answers (execAdpc d i s) := by
  unfold execAdpc
  repeat' first
    | with_reducible exact answers_next _
    | with_reducible assumption
    | with_reducible apply doneG_answers

theorem execLdnW_answers (d : Reg) (b : Reg) (q : LoadQual) (o : BitVec 12) (s : State) :
    Answers (execLdnW d b q o s) := by
  unfold execLdnW
  repeat' first
    | with_reducible exact answers_next _
    | with_reducible assumption
    | with_reducible apply loadTurn_answers

theorem execRol_answers (d : Reg) (a : Reg) (b : Reg) (s : State) :
    Answers (execRol d a b s) := by
  unfold execRol
  repeat' first
    | with_reducible exact answers_next _
    | with_reducible assumption
    | with_reducible apply doneG_answers

theorem execCaravanLand_answers (k : Nat) (s : State) :
    Answers (execCaravanLand k s) := by
  unfold execCaravanLand
  repeat' first
    | with_reducible exact answers_next _
    | with_reducible assumption
    | with_reducible apply answers_ite
    | dsimp only
    | split

theorem execStresRetry_answers (pos : Fin 128) (ctx : Fin 16) (s : State) :
    Answers (execStresRetry pos ctx s) := by
  unfold execStresRetry
  exact answers_next _

theorem execBfx_answers (d : Reg) (a : Reg) (w : BitVec 6) (p : BitVec 6) (s : State) :
    Answers (execBfx d a w p s) := by
  unfold execBfx
  repeat' first
    | with_reducible exact answers_next _
    | with_reducible assumption
    | with_reducible apply doneG_answers

theorem execNenc_answers (n : NodeFields) (s : State) :
    Answers (execNenc n s) := by
  unfold execNenc
  repeat' first
    | with_reducible exact answers_next _
    | with_reducible assumption
    | with_reducible apply repackStep_answers

theorem execNcon_answers (n : NodeFields) (s : State) :
    Answers (execNcon n s) := by
  unfold execNcon
  repeat' first
    | with_reducible exact answers_next _
    | with_reducible assumption
    | with_reducible apply elementwise_answers

theorem execCoff_answers (a : Reg) (s : State) :
    Answers (execCoff a s) := by
  unfold execCoff
  repeat' first
    | with_reducible exact answers_next _
    | with_reducible assumption
    | with_reducible apply done_answers
    | with_reducible apply trapNow_answers
    | with_reducible apply answers_ite

theorem execLdfH_answers (d : Reg) (b : Reg) (q : LoadQual) (o : BitVec 12) (s : State) :
    Answers (execLdfH d b q o s) := by
  unfold execLdfH
  repeat' first
    | with_reducible exact answers_next _
    | with_reducible assumption
    | with_reducible apply loadTurn_answers

theorem execFcvt_answers (t : FType) (d : Reg) (a : Reg) (src : FType) (r : RmField) (s : State) :
    Answers (execFcvt t d a src r s) := by
  unfold execFcvt
  repeat' first
    | with_reducible exact answers_next _
    | with_reducible assumption
    | with_reducible apply doneFloat_answers

theorem execNcnt_answers (n : NodeFields) (s : State) :
    Answers (execNcnt n s) := by
  unfold execNcnt
  repeat' first
    | with_reducible exact answers_next _
    | with_reducible assumption
    | with_reducible apply passing_answers

theorem execLandingReplyArrive_answers (k : Nat) (s : State) :
    Answers (execLandingReplyArrive k s) := by
  unfold execLandingReplyArrive
  repeat' first
    | with_reducible exact answers_next _
    | with_reducible assumption
    | with_reducible apply onThread_answers
    | with_reducible apply answers_ite
    | dsimp only
    | split
    | intro _

theorem execNred_answers (n : NodeFields) (s : State) :
    Answers (execNred n s) := by
  unfold execNred
  repeat' first
    | with_reducible exact answers_next _
    | with_reducible assumption
    | with_reducible apply fire_answers
    | with_reducible apply Firing.done_answers
    | with_reducible apply withFiring_answers
    | with_reducible apply answers_ite
    | dsimp only
    | split
    | intro _

theorem execFmax_answers (t : FType) (d : Reg) (a : Reg) (b : Reg) (s : State) :
    Answers (execFmax t d a b s) := by
  unfold execFmax
  repeat' first
    | with_reducible exact answers_next _
    | with_reducible assumption
    | with_reducible apply doneFloat_answers

theorem execRem_answers (d : Reg) (a : Reg) (b : Reg) (s : State) :
    Answers (execRem d a b s) := by
  unfold execRem
  repeat' first
    | with_reducible exact answers_next _
    | with_reducible assumption
    | with_reducible apply divide_answers

theorem execAand_answers (a : Reg) (b : Reg) (z : AtomSize) (s : State) :
    Answers (execAand a b z s) := by
  unfold execAand
  repeat' first
    | with_reducible exact answers_next _
    | with_reducible assumption
    | with_reducible apply postAtom_answers

theorem execXor_answers (d : Reg) (a : Reg) (b : Reg) (s : State) :
    Answers (execXor d a b s) := by
  unfold execXor
  repeat' first
    | with_reducible exact answers_next _
    | with_reducible assumption
    | with_reducible apply doneG_answers

theorem execMin_answers (d : Reg) (a : Reg) (b : Reg) (s : State) :
    Answers (execMin d a b s) := by
  unfold execMin
  repeat' first
    | with_reducible exact answers_next _
    | with_reducible assumption
    | with_reducible apply doneG_answers

theorem execVisit_answers (b : Reg) (o : BitVec 12) (s : State) :
    Answers (execVisit b o s) := by
  unfold execVisit
  repeat' first
    | with_reducible exact answers_next _
    | with_reducible assumption
    | with_reducible apply done_answers
    | with_reducible apply inTrouble_answers
    | with_reducible apply trapWith_answers
    | with_reducible apply answers_ite
    | dsimp only
    | split

theorem execCreditReturn_answers (i : Nat) (k : Nat) (s : State) :
    Answers (execCreditReturn i k s) := by
  unfold execCreditReturn
  repeat' first
    | with_reducible exact answers_next _
    | with_reducible assumption
    | with_reducible apply answers_ite
    | dsimp only
    | split

theorem execSsct_answers (_q : CmdQual) (o : DataOps) (s : State) :
    Answers (execSsct _q o s) := by
  unfold execSsct
  repeat' first
    | with_reducible exact answers_next _
    | with_reducible assumption
    | with_reducible apply enqueueData_answers

theorem execAaddR_answers (d : Reg) (a : Reg) (b : Reg) (z : AtomSize) (s : State) :
    Answers (execAaddR d a b z s) := by
  unfold execAaddR
  repeat' first
    | with_reducible exact answers_next _
    | with_reducible assumption
    | with_reducible apply returnAtom_answers

theorem execLdD_answers (d : Reg) (b : Reg) (q : LoadQual) (o : BitVec 12) (s : State) :
    Answers (execLdD d b q o s) := by
  unfold execLdD
  repeat' first
    | with_reducible exact answers_next _
    | with_reducible assumption
    | with_reducible apply loadTurn_answers

theorem execFenceAr_answers (sc : Scope) (s : State) :
    Answers (execFenceAr sc s) := by
  unfold execFenceAr
  repeat' first
    | with_reducible exact answers_next _
    | with_reducible assumption
    | with_reducible apply fence_answers

theorem execFsgn_answers (t : FType) (d : Reg) (a : Reg) (b : Reg) (s : State) :
    Answers (execFsgn t d a b s) := by
  unfold execFsgn
  repeat' first
    | with_reducible exact answers_next _
    | with_reducible assumption
    | with_reducible apply doneFloat_answers

theorem execStorePerform_answers (k : Nat) (s : State) :
    Answers (execStorePerform k s) := by
  unfold execStorePerform
  repeat' first
    | with_reducible exact answers_next _
    | with_reducible assumption
    | with_reducible apply answers_ite
    | dsimp only
    | split

theorem execNbnd_answers (n : NodeFields) (s : State) :
    Answers (execNbnd n s) := by
  unfold execNbnd
  repeat' first
    | with_reducible exact answers_next _
    | with_reducible assumption
    | with_reducible apply fire_answers
    | with_reducible apply Firing.done_answers
    | with_reducible apply withFiring_answers
    | with_reducible apply answers_ite
    | dsimp only
    | split
    | intro _

theorem execLaunchStart_answers (c : Fin 16) (q : Fin 64) (s : State) :
    Answers (execLaunchStart c q s) := by
  unfold execLaunchStart
  repeat' first
    | with_reducible exact answers_next _
    | with_reducible assumption
    | with_reducible apply answers_ite
    | dsimp only
    | split

theorem execFscl_answers (t : FType) (d : Reg) (a : Reg) (b : Reg) (r : RmField) (s : State) :
    Answers (execFscl t d a b r s) := by
  unfold execFscl
  repeat' first
    | with_reducible exact answers_next _
    | with_reducible assumption
    | with_reducible apply doneFloat_answers

theorem execFfms_answers (t : FType) (d : Reg) (a : Reg) (b : Reg) (c : Reg) (s : State) :
    Answers (execFfms t d a b c s) := by
  unfold execFfms
  repeat' first
    | with_reducible exact answers_next _
    | with_reducible assumption
    | with_reducible apply doneFloat_answers

theorem execFenceRel_answers (sc : Scope) (s : State) :
    Answers (execFenceRel sc s) := by
  unfold execFenceRel
  repeat' first
    | with_reducible exact answers_next _
    | with_reducible assumption
    | with_reducible apply fence_answers

theorem execFcvi_answers (t : FType) (d : Reg) (a : Reg) (ty : IntType) (r : RmField) (s : State) :
    Answers (execFcvi t d a ty r s) := by
  unfold execFcvi
  repeat' first
    | with_reducible exact answers_next _
    | with_reducible assumption
    | with_reducible apply doneInt_answers

theorem execImageWriteComplete_answers (p : Place) (s : State) :
    Answers (execImageWriteComplete p s) := by
  unfold execImageWriteComplete
  repeat' first
    | with_reducible exact answers_next _
    | with_reducible assumption
    | with_reducible apply onThread_answers
    | with_reducible apply answers_ite
    | dsimp only
    | split
    | intro _

theorem execMinn_answers (d : Reg) (a : Reg) (b : Reg) (s : State) :
    Answers (execMinn d a b s) := by
  unfold execMinn
  repeat' first
    | with_reducible exact answers_next _
    | with_reducible assumption
    | with_reducible apply doneG_answers

theorem execAminnR_answers (d : Reg) (a : Reg) (b : Reg) (z : AtomSize) (s : State) :
    Answers (execAminnR d a b z s) := by
  unfold execAminnR
  repeat' first
    | with_reducible exact answers_next _
    | with_reducible assumption
    | with_reducible apply returnAtom_answers

theorem execQrng_answers (d : Reg) (a : Reg) (s : State) :
    Answers (execQrng d a s) := by
  unfold execQrng
  repeat' first
    | with_reducible exact answers_next _
    | with_reducible assumption
    | with_reducible apply doneG_answers
    | with_reducible apply answers_ite
    | dsimp only
    | split

theorem execLaunchComplete_answers (c : Fin 16) (k : Nat) (s : State) :
    Answers (execLaunchComplete c k s) := by
  unfold execLaunchComplete
  repeat' first
    | with_reducible exact answers_next _
    | with_reducible assumption
    | with_reducible apply answers_ite
    | dsimp only
    | split

theorem execWatchDeliver_answers (p : Place) (s : State) :
    Answers (execWatchDeliver p s) := by
  unfold execWatchDeliver
  repeat' first
    | with_reducible exact answers_next _
    | with_reducible assumption
    | with_reducible apply onThread_answers
    | with_reducible apply answers_ite
    | dsimp only
    | split
    | intro _

theorem execRemn_answers (d : Reg) (a : Reg) (b : Reg) (s : State) :
    Answers (execRemn d a b s) := by
  unfold execRemn
  repeat' first
    | with_reducible exact answers_next _
    | with_reducible assumption
    | with_reducible apply divide_answers

theorem execNadd_answers (n : NodeFields) (s : State) :
    Answers (execNadd n s) := by
  unfold execNadd
  repeat' first
    | with_reducible exact answers_next _
    | with_reducible assumption
    | with_reducible apply elementwise_answers

theorem execStfW_answers (d : Reg) (b : Reg) (q : StoreQual) (o : BitVec 12) (s : State) :
    Answers (execStfW d b q o s) := by
  unfold execStfW
  repeat' first
    | with_reducible exact answers_next _
    | with_reducible assumption
    | with_reducible apply storeTurn_answers

theorem execMax_answers (d : Reg) (a : Reg) (b : Reg) (s : State) :
    Answers (execMax d a b s) := by
  unfold execMax
  repeat' first
    | with_reducible exact answers_next _
    | with_reducible assumption
    | with_reducible apply doneG_answers

theorem execTokenRequestRetry_answers (k : Nat) (s : State) :
    Answers (execTokenRequestRetry k s) := by
  unfold execTokenRequestRetry
  repeat' first
    | with_reducible exact answers_next _
    | with_reducible assumption
    | with_reducible apply answers_ite
    | dsimp only
    | split

theorem execTkhd_answers (a : Reg) (b : Reg) (s : State) :
    Answers (execTkhd a b s) := by
  unfold execTkhd
  repeat' first
    | with_reducible exact answers_next _
    | with_reducible assumption
    | with_reducible apply done_answers
    | with_reducible apply withRegion_answers
    | with_reducible apply trapWith_answers
    | with_reducible apply atFence_answers
    | with_reducible apply answers_ite
    | dsimp only
    | split
    | intro _

theorem execPop_answers (d : Reg) (a : Reg) (s : State) :
    Answers (execPop d a s) := by
  unfold execPop
  repeat' first
    | with_reducible exact answers_next _
    | with_reducible assumption
    | with_reducible apply doneG_answers

theorem execNabs_answers (n : NodeFields) (s : State) :
    Answers (execNabs n s) := by
  unfold execNabs
  repeat' first
    | with_reducible exact answers_next _
    | with_reducible assumption
    | with_reducible apply elementwise_answers

theorem walkTurn_answers (addr : Word) (va : Nat) (level : Nat) (table : Nat) (why : WalkFor) (s : State) :
    Answers (walkTurn addr va level table why s) := by
  unfold walkTurn
  repeat' first
    | with_reducible exact answers_next _
    | with_reducible assumption
    | with_reducible apply answers_ite
    | dsimp only
    | split

theorem execTlbWalkLevelReturn_answers (p : Place) (s : State) :
    Answers (execTlbWalkLevelReturn p s) := by
  unfold execTlbWalkLevelReturn
  repeat' first
    | with_reducible exact answers_next _
    | with_reducible assumption
    | with_reducible apply onThread_answers
    | with_reducible apply walkTurn_answers
    | with_reducible apply answers_ite
    | dsimp only
    | split
    | intro _

theorem execLdnB_answers (d : Reg) (b : Reg) (q : LoadQual) (o : BitVec 12) (s : State) :
    Answers (execLdnB d b q o s) := by
  unfold execLdnB
  repeat' first
    | with_reducible exact answers_next _
    | with_reducible assumption
    | with_reducible apply loadTurn_answers

theorem execStresDiscard_answers (pos : Fin 128) (ctx : Fin 16) (s : State) :
    Answers (execStresDiscard pos ctx s) := by
  unfold execStresDiscard
  exact answers_next _

theorem execIllegal_answers (w : BitVec 32) (s : State) :
    Answers (execIllegal w s) := by
  unfold execIllegal
  exact answers_next _

theorem takeEnable_answers (f : Routing) (g : RouterState → RouterState) :
    Answers (takeEnable f g) := by
  unfold takeEnable
  repeat' first
    | with_reducible exact answers_next _
    | with_reducible assumption
    | with_reducible apply Routing.done_answers
    | with_reducible apply answers_ite
    | dsimp only
    | split

theorem takeDone_answers (f : Routing) (k : Routing → Result) (hc1 : ∀ y0, (Answers (k y0))) :
    Answers (takeDone f k) := by
  unfold takeDone
  repeat' first
    | with_reducible exact answers_next _
    | with_reducible assumption
    | with_reducible apply hc1
    | with_reducible apply Routing.done_answers
    | with_reducible apply answers_ite
    | dsimp only
    | split

theorem sendEnable_answers (f : Routing) :
    Answers (sendEnable f) := by
  unfold sendEnable
  repeat' first
    | with_reducible exact answers_next _
    | with_reducible assumption
    | with_reducible apply Routing.done_answers
    | with_reducible apply answers_ite

theorem sendDone_answers (f : Routing) (g : RouterState → RouterState) :
    Answers (sendDone f g) := by
  unfold sendDone
  repeat' first
    | with_reducible exact answers_next _
    | with_reducible assumption
    | with_reducible apply Routing.done_answers
    | with_reducible apply answers_ite

theorem execCstr_answers (r : RouterFields) (s : State) :
    Answers (execCstr r s) := by
  unfold execCstr
  repeat' first
    | with_reducible exact answers_next _
    | with_reducible assumption
    | with_reducible apply takeEnable_answers
    | with_reducible apply Routing.done_answers
    | with_reducible apply withRouter_answers
    | with_reducible apply takeDone_answers
    | with_reducible apply sendEnable_answers
    | with_reducible apply sendDone_answers
    | with_reducible apply answers_ite
    | dsimp only
    | split
    | intro _

theorem execCarry_answers (r : RouterFields) (s : State) :
    Answers (execCarry r s) := by
  unfold execCarry
  repeat' first
    | with_reducible exact answers_next _
    | with_reducible assumption
    | with_reducible apply moveFlit_answers
    | with_reducible apply Routing.done_answers
    | with_reducible apply withRouter_answers
    | with_reducible apply withDecision_answers
    | with_reducible apply answers_ite
    | dsimp only
    | split
    | intro _

theorem execRoutecfgWrite_answers (v : Word) (s : State) :
    Answers (execRoutecfgWrite v s) := by
  unfold execRoutecfgWrite
  exact answers_next _

theorem execFlushAckArrive_answers (k : Nat) (s : State) :
    Answers (execFlushAckArrive k s) := by
  unfold execFlushAckArrive
  repeat' first
    | with_reducible exact answers_next _
    | with_reducible assumption
    | with_reducible apply onThread_answers
    | with_reducible apply answers_ite
    | dsimp only
    | split
    | intro _

theorem execSsyn_answers (_q : CmdQual) (_n : Bool) (_queue : BitVec 6) (_addr : BitVec 52) (_value : BitVec 32) (s : State) :
    Answers (execSsyn _q _n _queue _addr _value s) := by
  unfold execSsyn
  repeat' first
    | with_reducible exact answers_next _
    | with_reducible assumption
    | with_reducible apply refused_answers
    | with_reducible apply answers_ite
    | dsimp only
    | split

theorem execAxor_answers (a : Reg) (b : Reg) (z : AtomSize) (s : State) :
    Answers (execAxor a b z s) := by
  unfold execAxor
  repeat' first
    | with_reducible exact answers_next _
    | with_reducible assumption
    | with_reducible apply postAtom_answers

theorem execBara_answers (a : Reg) (s : State) :
    Answers (execBara a s) := by
  unfold execBara
  repeat' first
    | with_reducible exact answers_next _
    | with_reducible assumption
    | with_reducible apply done_answers
    | with_reducible apply trapNow_answers
    | with_reducible apply atFence_answers
    | with_reducible apply answers_ite
    | dsimp only
    | split
    | intro _

theorem execTbld_answers (a : Reg) (n : Fin 4) (s : State) :
    Answers (execTbld a n s) := by
  unfold execTbld
  repeat' first
    | with_reducible exact answers_next _
    | with_reducible assumption
    | with_reducible apply trapWith_answers
    | with_reducible apply answers_ite

theorem execMul_answers (d : Reg) (a : Reg) (b : Reg) (s : State) :
    Answers (execMul d a b s) := by
  unfold execMul
  repeat' first
    | with_reducible exact answers_next _
    | with_reducible assumption
    | with_reducible apply doneG_answers

theorem execAxorR_answers (d : Reg) (a : Reg) (b : Reg) (z : AtomSize) (s : State) :
    Answers (execAxorR d a b z s) := by
  unfold execAxorR
  repeat' first
    | with_reducible exact answers_next _
    | with_reducible assumption
    | with_reducible apply returnAtom_answers

theorem execTdec_answers (d : Reg) (a : Reg) (n : Fin 4) (s : State) :
    Answers (execTdec d a n s) := by
  unfold execTdec
  repeat' first
    | with_reducible exact answers_next _
    | with_reducible assumption
    | with_reducible apply doneFloat_answers

theorem execShri_answers (d : Reg) (a : Reg) (n : BitVec 6) (s : State) :
    Answers (execShri d a n s) := by
  unfold execShri
  repeat' first
    | with_reducible exact answers_next _
    | with_reducible assumption
    | with_reducible apply doneG_answers

theorem execSteer_answers (r : RouterFields) (s : State) :
    Answers (execSteer r s) := by
  unfold execSteer
  repeat' first
    | with_reducible exact answers_next _
    | with_reducible assumption
    | with_reducible apply decided_answers

theorem execAtomicApply_answers (k : Nat) (s : State) :
    Answers (execAtomicApply k s) := by
  unfold execAtomicApply
  repeat' first
    | with_reducible exact answers_next _
    | with_reducible assumption
    | with_reducible apply answers_ite
    | dsimp only
    | split

theorem execRetirementRun_answers (s : State) :
    Answers (execRetirementRun s) := by
  unfold execRetirementRun
  repeat' first
    | with_reducible exact answers_next _
    | with_reducible assumption
    | with_reducible apply answers_ite
    | dsimp only
    | split

theorem execMaxn_answers (d : Reg) (a : Reg) (b : Reg) (s : State) :
    Answers (execMaxn d a b s) := by
  unfold execMaxn
  repeat' first
    | with_reducible exact answers_next _
    | with_reducible assumption
    | with_reducible apply doneG_answers

theorem execAor_answers (a : Reg) (b : Reg) (z : AtomSize) (s : State) :
    Answers (execAor a b z s) := by
  unfold execAor
  repeat' first
    | with_reducible exact answers_next _
    | with_reducible assumption
    | with_reducible apply postAtom_answers

theorem execNld_answers (n : NodeFields) (s : State) :
    Answers (execNld n s) := by
  unfold execNld
  repeat' first
    | with_reducible exact answers_next _
    | with_reducible assumption
    | with_reducible apply withPort_answers
    | with_reducible apply Firing.done_answers
    | with_reducible apply fireQueued_answers
    | with_reducible apply answers_ite
    | dsimp only
    | split
    | intro _

theorem execCommandComplete_answers (c : Fin 16) (id : BitVec 32) (s : State) :
    Answers (execCommandComplete c id s) := by
  unfold execCommandComplete
  repeat' first
    | with_reducible exact answers_next _
    | with_reducible assumption
    | with_reducible apply answers_ite
    | dsimp only
    | split

theorem execLdB_answers (d : Reg) (b : Reg) (q : LoadQual) (o : BitVec 12) (s : State) :
    Answers (execLdB d b q o s) := by
  unfold execLdB
  repeat' first
    | with_reducible exact answers_next _
    | with_reducible assumption
    | with_reducible apply loadTurn_answers

theorem execQspd_answers (d : Reg) (a : Reg) (s : State) :
    Answers (execQspd d a s) := by
  unfold execQspd
  repeat' first
    | with_reducible exact answers_next _
    | with_reducible assumption
    | with_reducible apply doneG_answers

theorem execInstancePlace_answers (k : Nat) (s : State) :
    Answers (execInstancePlace k s) := by
  unfold execInstancePlace
  repeat' first
    | with_reducible exact answers_next _
    | with_reducible assumption
    | with_reducible apply answers_ite
    | dsimp only
    | split

theorem execLdnH_answers (d : Reg) (b : Reg) (q : LoadQual) (o : BitVec 12) (s : State) :
    Answers (execLdnH d b q o s) := by
  unfold execLdnH
  repeat' first
    | with_reducible exact answers_next _
    | with_reducible assumption
    | with_reducible apply loadTurn_answers

theorem execTgst_answers (d : Reg) (b : Reg) (o : BitVec 12) (s : State) :
    Answers (execTgst d b o s) := by
  unfold execTgst
  repeat' first
    | with_reducible exact answers_next _
    | with_reducible assumption
    | with_reducible apply done_answers
    | with_reducible apply inTrouble_answers
    | with_reducible apply answers_ite
    | dsimp only
    | split

theorem execAorR_answers (d : Reg) (a : Reg) (b : Reg) (z : AtomSize) (s : State) :
    Answers (execAorR d a b z s) := by
  unfold execAorR
  repeat' first
    | with_reducible exact answers_next _
    | with_reducible assumption
    | with_reducible apply returnAtom_answers

theorem execTokenRequestArrive_answers (k : Nat) (s : State) :
    Answers (execTokenRequestArrive k s) := by
  unfold execTokenRequestArrive
  repeat' first
    | with_reducible exact answers_next _
    | with_reducible assumption
    | with_reducible apply answers_ite
    | dsimp only
    | split

theorem execFcls_answers (t : FType) (d : Reg) (a : Reg) (s : State) :
    Answers (execFcls t d a s) := by
  unfold execFcls
  repeat' first
    | with_reducible exact answers_next _
    | with_reducible assumption
    | with_reducible apply doneInt_answers

theorem execBne_answers (a : Reg) (b : Reg) (o : BitVec 15) (s : State) :
    Answers (execBne a b o s) := by
  unfold execBne
  repeat' first
    | with_reducible exact answers_next _
    | with_reducible assumption
    | with_reducible apply branchIf_answers

theorem execPageRowDrain_answers (i : Nat) (page : Nat) (row : Fin 16) (s : State) :
    Answers (execPageRowDrain i page row s) := by
  unfold execPageRowDrain
  repeat' first
    | with_reducible exact answers_next _
    | with_reducible assumption
    | with_reducible apply answers_ite
    | dsimp only
    | split

theorem execAmaxnR_answers (d : Reg) (a : Reg) (b : Reg) (z : AtomSize) (s : State) :
    Answers (execAmaxnR d a b z s) := by
  unfold execAmaxnR
  repeat' first
    | with_reducible exact answers_next _
    | with_reducible assumption
    | with_reducible apply returnAtom_answers

theorem execBltn_answers (a : Reg) (b : Reg) (o : BitVec 15) (s : State) :
    Answers (execBltn a b o s) := by
  unfold execBltn
  repeat' first
    | with_reducible exact answers_next _
    | with_reducible assumption
    | with_reducible apply branchIf_answers

theorem execCmts_answers (a : Reg) (b : Reg) (s : State) :
    Answers (execCmts a b s) := by
  unfold execCmts
  repeat' first
    | with_reducible exact answers_next _
    | with_reducible assumption
    | with_reducible apply done_answers
    | with_reducible apply ringStep_answers
    | with_reducible apply atFence_answers
    | with_reducible apply answers_ite
    | dsimp only
    | split
    | intro _

theorem execBeq_answers (a : Reg) (b : Reg) (o : BitVec 15) (s : State) :
    Answers (execBeq a b o s) := by
  unfold execBeq
  repeat' first
    | with_reducible exact answers_next _
    | with_reducible assumption
    | with_reducible apply branchIf_answers

theorem execFeWaiterRetry_answers (p : Place) (s : State) :
    Answers (execFeWaiterRetry p s) := by
  unfold execFeWaiterRetry
  repeat' first
    | with_reducible exact answers_next _
    | with_reducible assumption
    | with_reducible apply answers_ite
    | dsimp only
    | split

theorem execCommandAccept_answers (c : Fin 16) (s : State) :
    Answers (execCommandAccept c s) := by
  unfold execCommandAccept
  repeat' first
    | with_reducible exact answers_next _
    | with_reducible assumption
    | with_reducible apply answers_ite
    | dsimp only
    | split

theorem execHstat_answers (d : Reg) (a : Reg) (s : State) :
    Answers (execHstat d a s) := by
  unfold execHstat
  repeat' first
    | with_reducible exact answers_next _
    | with_reducible assumption
    | with_reducible apply askController_answers

theorem execScpy_answers (_q : CmdQual) (o : DataOps) (s : State) :
    Answers (execScpy _q o s) := by
  unfold execScpy
  repeat' first
    | with_reducible exact answers_next _
    | with_reducible assumption
    | with_reducible apply enqueueData_answers

theorem execEret_answers (s : State) :
    Answers (execEret s) := by
  unfold execEret
  repeat' first
    | with_reducible exact answers_next _
    | with_reducible assumption
    | with_reducible apply trapNow_answers
    | with_reducible apply answers_ite

theorem execFneg_answers (t : FType) (d : Reg) (a : Reg) (s : State) :
    Answers (execFneg t d a s) := by
  unfold execFneg
  repeat' first
    | with_reducible exact answers_next _
    | with_reducible assumption
    | with_reducible apply doneFloat_answers

theorem execTnow_answers (d : Reg) (s : State) :
    Answers (execTnow d s) := by
  unfold execTnow
  repeat' first
    | with_reducible exact answers_next _
    | with_reducible assumption
    | with_reducible apply readTime_answers

theorem execSdor_answers (_q : CmdQual) (door : BitVec 8) (slot : BitVec 3) (inst : BitVec 10) (blk : BitVec 48) (s : State) :
    Answers (execSdor _q door slot inst blk s) := by
  unfold execSdor
  repeat' first
    | with_reducible exact answers_next _
    | with_reducible assumption
    | with_reducible apply refused_answers
    | with_reducible apply onInsts_answers
    | with_reducible apply answers_ite
    | dsimp only
    | split

theorem execSmig_answers (_q : CmdQual) (tgt : BitVec 8) (_blk : BitVec 48) (s : State) :
    Answers (execSmig _q tgt _blk s) := by
  unfold execSmig
  repeat' first
    | with_reducible exact answers_next _
    | with_reducible assumption
    | with_reducible apply enqueue_answers

theorem execStW_answers (d : Reg) (b : Reg) (q : StoreQual) (o : BitVec 12) (s : State) :
    Answers (execStW d b q o s) := by
  unfold execStW
  repeat' first
    | with_reducible exact answers_next _
    | with_reducible assumption
    | with_reducible apply storeTurn_answers

theorem execThreadLand_answers (c : Fin 16) (q : Fin 64) (s : State) :
    Answers (execThreadLand c q s) := by
  unfold execThreadLand
  exact answers_next _

theorem execBoundaryShutter_answers (i : Nat) (s : State) :
    Answers (execBoundaryShutter i s) := by
  unfold execBoundaryShutter
  repeat' first
    | with_reducible exact answers_next _
    | with_reducible assumption
    | with_reducible apply answers_ite
    | dsimp only
    | split

theorem execRor_answers (d : Reg) (a : Reg) (b : Reg) (s : State) :
    Answers (execRor d a b s) := by
  unfold execRor
  repeat' first
    | with_reducible exact answers_next _
    | with_reducible assumption
    | with_reducible apply doneG_answers

theorem execHypOutcomeArrive_answers (k : Nat) (s : State) :
    Answers (execHypOutcomeArrive k s) := by
  unfold execHypOutcomeArrive
  repeat' first
    | with_reducible exact answers_next _
    | with_reducible assumption
    | with_reducible apply answers_ite
    | dsimp only
    | split

theorem execGroupCommitDone_answers (s : State) :
    Answers (execGroupCommitDone s) := by
  unfold execGroupCommitDone
  repeat' first
    | with_reducible exact answers_next _
    | with_reducible assumption
    | with_reducible apply answers_ite

theorem execMulh_answers (d : Reg) (a : Reg) (b : Reg) (s : State) :
    Answers (execMulh d a b s) := by
  unfold execMulh
  repeat' first
    | with_reducible exact answers_next _
    | with_reducible assumption
    | with_reducible apply doneG_answers

theorem execLdfD_answers (d : Reg) (b : Reg) (q : LoadQual) (o : BitVec 12) (s : State) :
    Answers (execLdfD d b q o s) := by
  unfold execLdfD
  repeat' first
    | with_reducible exact answers_next _
    | with_reducible assumption
    | with_reducible apply loadTurn_answers

theorem divideEnd_answers (d : Reg) (v : Word) (s : State) :
    Answers (divideEnd d v s) := by
  unfold divideEnd
  exact answers_next _

theorem execDivideComplete_answers (p : Place) (s : State) :
    Answers (execDivideComplete p s) := by
  unfold execDivideComplete
  repeat' first
    | with_reducible exact answers_next _
    | with_reducible assumption
    | with_reducible apply divideEnd_answers
    | with_reducible apply onThread_answers
    | with_reducible apply answers_ite
    | dsimp only
    | split
    | intro _

theorem execAmaxR_answers (d : Reg) (a : Reg) (b : Reg) (z : AtomSize) (s : State) :
    Answers (execAmaxR d a b z s) := by
  unfold execAmaxR
  repeat' first
    | with_reducible exact answers_next _
    | with_reducible assumption
    | with_reducible apply returnAtom_answers

theorem execLdW_answers (d : Reg) (b : Reg) (q : LoadQual) (o : BitVec 12) (s : State) :
    Answers (execLdW d b q o s) := by
  unfold execLdW
  repeat' first
    | with_reducible exact answers_next _
    | with_reducible assumption
    | with_reducible apply loadTurn_answers

theorem execHconf_answers (a : Reg) (s : State) :
    Answers (execHconf a s) := by
  unfold execHconf
  repeat' first
    | with_reducible exact answers_next _
    | with_reducible assumption
    | with_reducible apply askController_answers
    | with_reducible apply atFence_answers
    | with_reducible apply answers_ite
    | dsimp only
    | split
    | intro _

theorem execNshr_answers (n : NodeFields) (s : State) :
    Answers (execNshr n s) := by
  unfold execNshr
  repeat' first
    | with_reducible exact answers_next _
    | with_reducible assumption
    | with_reducible apply elementwise_answers

theorem execNdor_answers (n : NodeFields) (s : State) :
    Answers (execNdor n s) := by
  unfold execNdor
  repeat' first
    | with_reducible exact answers_next _
    | with_reducible assumption
    | with_reducible apply Firing.done_answers
    | with_reducible apply answers_ite
    | dsimp only
    | split

theorem execAfaddRF32_answers (d : Reg) (a : Reg) (b : Reg) (s : State) :
    Answers (execAfaddRF32 d a b s) := by
  unfold execAfaddRF32
  repeat' first
    | with_reducible exact answers_next _
    | with_reducible assumption
    | with_reducible apply returnAtom_answers

theorem execRtmapWrite_answers (m : Fin 1152) (v : Word) (s : State) :
    Answers (execRtmapWrite m v s) := by
  unfold execRtmapWrite
  exact answers_next _

theorem execNown_answers (n : NodeFields) (s : State) :
    Answers (execNown n s) := by
  unfold execNown
  repeat' first
    | with_reducible exact answers_next _
    | with_reducible assumption
    | with_reducible apply Firing.done_answers
    | with_reducible apply withFiring_answers
    | with_reducible apply answers_ite
    | dsimp only
    | split
    | intro _

theorem execFeq_answers (t : FType) (d : Reg) (a : Reg) (b : Reg) (s : State) :
    Answers (execFeq t d a b s) := by
  unfold execFeq
  repeat' first
    | with_reducible exact answers_next _
    | with_reducible assumption
    | with_reducible apply doneInt_answers

theorem execSrai_answers (d : Reg) (a : Reg) (n : BitVec 6) (s : State) :
    Answers (execSrai d a n s) := by
  unfold execSrai
  repeat' first
    | with_reducible exact answers_next _
    | with_reducible assumption
    | with_reducible apply doneG_answers

theorem execTableVersionFree_answers (c : Fin 16) (k : Nat) (s : State) :
    Answers (execTableVersionFree c k s) := by
  unfold execTableVersionFree
  repeat' first
    | with_reducible exact answers_next _
    | with_reducible assumption
    | with_reducible apply answers_ite
    | dsimp only
    | split

theorem execSignalDeliver_answers (k : Nat) (s : State) :
    Answers (execSignalDeliver k s) := by
  unfold execSignalDeliver
  repeat' first
    | with_reducible exact answers_next _
    | with_reducible assumption
    | with_reducible apply answers_ite
    | dsimp only
    | split

theorem execSdrn_answers (_q : CmdQual) (clear : Bool) (o : DrainOps) (s : State) :
    Answers (execSdrn _q clear o s) := by
  unfold execSdrn
  repeat' first
    | with_reducible exact answers_next _
    | with_reducible assumption
    | with_reducible apply refused_answers
    | with_reducible apply answers_ite

theorem Stepping.done_answers (f : Stepping) :
    Answers (Stepping.done f) := by
  unfold Stepping.done
  exact answers_next _

theorem execSectionStep_answers (n : NodeFields) (s : State) :
    Answers (execSectionStep n s) := by
  unfold execSectionStep
  repeat' first
    | with_reducible exact answers_next _
    | with_reducible assumption
    | with_reducible apply Stepping.done_answers
    | with_reducible apply answers_ite
    | dsimp only
    | split

theorem execSeq_answers (d : Reg) (a : Reg) (b : Reg) (s : State) :
    Answers (execSeq d a b s) := by
  unfold execSeq
  repeat' first
    | with_reducible exact answers_next _
    | with_reducible assumption
    | with_reducible apply doneG_answers

theorem execAmaxn_answers (a : Reg) (b : Reg) (z : AtomSize) (s : State) :
    Answers (execAmaxn a b z s) := by
  unfold execAmaxn
  repeat' first
    | with_reducible exact answers_next _
    | with_reducible assumption
    | with_reducible apply postAtom_answers

theorem remoteTurn_answers (pa : Nat) (addr : Word) (r : Option RemoteAtom) (s : State) :
    Answers (remoteTurn pa addr r s) := by
  unfold remoteTurn
  repeat' first
    | with_reducible exact answers_next _
    | with_reducible assumption
    | with_reducible apply inTrouble_answers
    | with_reducible apply answers_ite
    | dsimp only
    | split

theorem waitTurn_answers (s : State) :
    Answers (waitTurn s) := by
  unfold waitTurn
  repeat' first
    | with_reducible exact answers_next _
    | with_reducible assumption
    | with_reducible apply divideEnd_answers
    | with_reducible apply execTbldComplete_answers
    | with_reducible apply timedTurn_answers
    | with_reducible apply walkTurn_answers
    | with_reducible apply remoteTurn_answers
    | with_reducible apply answers_ite
    | dsimp only
    | split

theorem execIssueWaitComplete_answers (p : Place) (s : State) :
    Answers (execIssueWaitComplete p s) := by
  unfold execIssueWaitComplete
  repeat' first
    | with_reducible exact answers_next _
    | with_reducible assumption
    | with_reducible apply onThread_answers
    | with_reducible apply waitTurn_answers
    | with_reducible apply answers_ite
    | dsimp only
    | split
    | intro _

theorem execTokenRecallComplete_answers (k : Nat) (s : State) :
    Answers (execTokenRecallComplete k s) := by
  unfold execTokenRecallComplete
  repeat' first
    | with_reducible exact answers_next _
    | with_reducible assumption
    | with_reducible apply answers_ite
    | dsimp only
    | split

theorem execOrphan_answers (p : Place) (s : State) :
    Answers (execOrphan p s) := by
  unfold execOrphan
  repeat' first
    | with_reducible exact answers_next _
    | with_reducible assumption
    | with_reducible apply onThread_answers
    | with_reducible apply answers_ite
    | dsimp only
    | split
    | intro _

theorem execCpip_answers (r : RouterFields) (s : State) :
    Answers (execCpip r s) := by
  unfold execCpip
  repeat' first
    | with_reducible exact answers_next _
    | with_reducible assumption
    | with_reducible apply takeEnable_answers
    | with_reducible apply withRouter_answers
    | with_reducible apply takeDone_answers
    | with_reducible apply sendEnable_answers
    | with_reducible apply sendDone_answers
    | with_reducible apply answers_ite
    | dsimp only
    | split
    | intro _

theorem execScol_answers (_q : CmdQual) (o : DataOps) (s : State) :
    Answers (execScol _q o s) := by
  unfold execScol
  repeat' first
    | with_reducible exact answers_next _
    | with_reducible assumption
    | with_reducible apply enqueueData_answers

theorem execCtz_answers (d : Reg) (a : Reg) (s : State) :
    Answers (execCtz d a s) := by
  unfold execCtz
  repeat' first
    | with_reducible exact answers_next _
    | with_reducible assumption
    | with_reducible apply doneG_answers

theorem execJal_answers (o : BitVec 25) (s : State) :
    Answers (execJal o s) := by
  unfold execJal
  exact answers_next _

theorem execPlacingComplete_answers (i : Nat) (s : State) :
    Answers (execPlacingComplete i s) := by
  unfold execPlacingComplete
  repeat' first
    | with_reducible exact answers_next _
    | with_reducible assumption
    | with_reducible apply answers_ite
    | dsimp only
    | split

theorem execFfma_answers (t : FType) (d : Reg) (a : Reg) (b : Reg) (c : Reg) (s : State) :
    Answers (execFfma t d a b c s) := by
  unfold execFfma
  repeat' first
    | with_reducible exact answers_next _
    | with_reducible assumption
    | with_reducible apply doneFloat_answers

theorem execStB_answers (d : Reg) (b : Reg) (q : StoreQual) (o : BitVec 12) (s : State) :
    Answers (execStB d b q o s) := by
  unfold execStB
  repeat' first
    | with_reducible exact answers_next _
    | with_reducible assumption
    | with_reducible apply storeTurn_answers

theorem execHget_answers (d : Reg) (s : State) :
    Answers (execHget d s) := by
  unfold execHget
  repeat' first
    | with_reducible exact answers_next _
    | with_reducible assumption
    | with_reducible apply doneG_answers

theorem execStfH_answers (d : Reg) (b : Reg) (q : StoreQual) (o : BitVec 12) (s : State) :
    Answers (execStfH d b q o s) := by
  unfold execStfH
  repeat' first
    | with_reducible exact answers_next _
    | with_reducible assumption
    | with_reducible apply storeTurn_answers

theorem execLnci_answers (a : Reg) (b : Reg) (c : Reg) (s : State) :
    Answers (execLnci a b c s) := by
  unfold execLnci
  repeat' first
    | with_reducible exact answers_next _
    | with_reducible assumption
    | with_reducible apply launchTurn_answers
    | with_reducible apply atFence_answers
    | with_reducible apply answers_ite
    | dsimp only
    | split
    | intro _

theorem execPrgt_answers (d : Reg) (a : Reg) (b : Reg) (s : State) :
    Answers (execPrgt d a b s) := by
  unfold execPrgt
  repeat' first
    | with_reducible exact answers_next _
    | with_reducible assumption
    | with_reducible apply doneG_answers

theorem execShl_answers (d : Reg) (a : Reg) (b : Reg) (s : State) :
    Answers (execShl d a b s) := by
  unfold execShl
  repeat' first
    | with_reducible exact answers_next _
    | with_reducible assumption
    | with_reducible apply doneG_answers

theorem execAndi_answers (d : Reg) (a : Reg) (i : BitVec 15) (s : State) :
    Answers (execAndi d a i s) := by
  unfold execAndi
  repeat' first
    | with_reducible exact answers_next _
    | with_reducible assumption
    | with_reducible apply doneG_answers

theorem execTret_answers (s : State) :
    Answers (execTret s) := by
  unfold execTret
  repeat' first
    | with_reducible exact answers_next _
    | with_reducible assumption
    | with_reducible apply trapNow_answers
    | with_reducible apply trapCode_answers
    | with_reducible apply answers_ite

theorem execAcasR_answers (d : Reg) (a : Reg) (b : Reg) (z : AtomSize) (c : Reg) (s : State) :
    Answers (execAcasR d a b z c s) := by
  unfold execAcasR
  repeat' first
    | with_reducible exact answers_next _
    | with_reducible assumption
    | with_reducible apply returnAtom_answers

theorem execLui_answers (d : Reg) (i : BitVec 20) (s : State) :
    Answers (execLui d i s) := by
  unfold execLui
  repeat' first
    | with_reducible exact answers_next _
    | with_reducible assumption
    | with_reducible apply doneG_answers

theorem execSwin_answers (_q : CmdQual) (win : BitVec 4) (slot : BitVec 3) (obj : BitVec 48) (ntf : BitVec 48) (s : State) :
    Answers (execSwin _q win slot obj ntf s) := by
  unfold execSwin
  repeat' first
    | with_reducible exact answers_next _
    | with_reducible assumption
    | with_reducible apply refused_answers
    | with_reducible apply answers_ite
    | dsimp only
    | split

theorem execSwinU_answers (_q : CmdQual) (win : BitVec 4) (slot : BitVec 3) (s : State) :
    Answers (execSwinU _q win slot s) := by
  unfold execSwinU
  exact answers_next _

theorem execPresRetry_answers (site : Fin 1024) (port : Fin 4) (s : State) :
    Answers (execPresRetry site port s) := by
  unfold execPresRetry
  exact answers_next _

theorem execInvar_answers (r : RouterFields) (s : State) :
    Answers (execInvar r s) := by
  unfold execInvar
  repeat' first
    | with_reducible exact answers_next _
    | with_reducible assumption
    | with_reducible apply Routing.done_answers
    | with_reducible apply withRouter_answers
    | with_reducible apply withDecision_answers
    | with_reducible apply answers_ite
    | dsimp only
    | split
    | intro _

theorem execHnew_answers (d : Reg) (a : Reg) (s : State) :
    Answers (execHnew d a s) := by
  unfold execHnew
  repeat' first
    | with_reducible exact answers_next _
    | with_reducible assumption
    | with_reducible apply askController_answers

theorem execAddi_answers (d : Reg) (a : Reg) (i : BitVec 15) (s : State) :
    Answers (execAddi d a i s) := by
  unfold execAddi
  repeat' first
    | with_reducible exact answers_next _
    | with_reducible assumption
    | with_reducible apply doneG_answers

theorem execPeks_answers (d : Reg) (a : Reg) (s : State) :
    Answers (execPeks d a s) := by
  unfold execPeks
  repeat' first
    | with_reducible exact answers_next _
    | with_reducible assumption
    | with_reducible apply acquiring_answers
    | with_reducible apply ringStep_answers
    | with_reducible apply doneG_answers
    | with_reducible apply answers_ite
    | dsimp only
    | split
    | intro _

theorem execPtag_answers (d : Reg) (a : Reg) (b : Reg) (s : State) :
    Answers (execPtag d a b s) := by
  unfold execPtag
  repeat' first
    | with_reducible exact answers_next _
    | with_reducible assumption
    | with_reducible apply doneG_answers

theorem execSupd_answers (_q : CmdQual) (o : DataOps) (s : State) :
    Answers (execSupd _q o s) := by
  unfold execSupd
  repeat' first
    | with_reducible exact answers_next _
    | with_reducible assumption
    | with_reducible apply enqueueData_answers

theorem execJ_answers (o : BitVec 25) (s : State) :
    Answers (execJ o s) := by
  unfold execJ
  exact answers_next _

theorem execSgth_answers (_q : CmdQual) (o : DataOps) (s : State) :
    Answers (execSgth _q o s) := by
  unfold execSgth
  repeat' first
    | with_reducible exact answers_next _
    | with_reducible assumption
    | with_reducible apply enqueueData_answers

theorem execNshl_answers (n : NodeFields) (s : State) :
    Answers (execNshl n s) := by
  unfold execNshl
  repeat' first
    | with_reducible exact answers_next _
    | with_reducible assumption
    | with_reducible apply elementwise_answers

theorem execNacc_answers (n : NodeFields) (s : State) :
    Answers (execNacc n s) := by
  unfold execNacc
  repeat' first
    | with_reducible exact answers_next _
    | with_reducible assumption
    | with_reducible apply fire_answers
    | with_reducible apply Firing.done_answers
    | with_reducible apply answers_ite
    | dsimp only
    | split
    | intro _

theorem execSub_answers (d : Reg) (a : Reg) (b : Reg) (s : State) :
    Answers (execSub d a b s) := by
  unfold execSub
  repeat' first
    | with_reducible exact answers_next _
    | with_reducible assumption
    | with_reducible apply doneG_answers

theorem execGate_answers (r : RouterFields) (s : State) :
    Answers (execGate r s) := by
  unfold execGate
  repeat' first
    | with_reducible exact answers_next _
    | with_reducible assumption
    | with_reducible apply decided_answers

theorem execScfg_answers (_q : CmdQual) (img : BitVec 46) (rpt : BitVec 48) (slot : BitVec 3) (s : State) :
    Answers (execScfg _q img rpt slot s) := by
  unfold execScfg
  repeat' first
    | with_reducible exact answers_next _
    | with_reducible assumption
    | with_reducible apply refused_answers
    | with_reducible apply answers_ite
    | dsimp only
    | split

theorem execDoorThreadLand_answers (i : Nat) (door : Nat) (s : State) :
    Answers (execDoorThreadLand i door s) := by
  unfold execDoorThreadLand
  repeat' first
    | with_reducible exact answers_next _
    | with_reducible assumption
    | with_reducible apply answers_ite
    | dsimp only
    | split

theorem execClz_answers (d : Reg) (a : Reg) (s : State) :
    Answers (execClz d a s) := by
  unfold execClz
  repeat' first
    | with_reducible exact answers_next _
    | with_reducible assumption
    | with_reducible apply doneG_answers

theorem execNxor_answers (n : NodeFields) (s : State) :
    Answers (execNxor n s) := by
  unfold execNxor
  repeat' first
    | with_reducible exact answers_next _
    | with_reducible assumption
    | with_reducible apply elementwise_answers

theorem execSred_answers (_q : CmdQual) (o : DataOps) (s : State) :
    Answers (execSred _q o s) := by
  unfold execSred
  repeat' first
    | with_reducible exact answers_next _
    | with_reducible assumption
    | with_reducible apply enqueueData_answers

theorem execOri_answers (d : Reg) (a : Reg) (i : BitVec 15) (s : State) :
    Answers (execOri d a i s) := by
  unfold execOri
  repeat' first
    | with_reducible exact answers_next _
    | with_reducible assumption
    | with_reducible apply doneG_answers

theorem execSegmentBoundary_answers (i : Nat) (s : State) :
    Answers (execSegmentBoundary i s) := by
  unfold execSegmentBoundary
  repeat' first
    | with_reducible exact answers_next _
    | with_reducible assumption
    | with_reducible apply answers_ite
    | dsimp only
    | split

theorem execNand_answers (n : NodeFields) (s : State) :
    Answers (execNand n s) := by
  unfold execNand
  repeat' first
    | with_reducible exact answers_next _
    | with_reducible assumption
    | with_reducible apply elementwise_answers

theorem execBars_answers (d : Reg) (a : Reg) (s : State) :
    Answers (execBars d a s) := by
  unfold execBars
  exact answers_next _

theorem execAmax_answers (a : Reg) (b : Reg) (z : AtomSize) (s : State) :
    Answers (execAmax a b z s) := by
  unfold execAmax
  repeat' first
    | with_reducible exact answers_next _
    | with_reducible assumption
    | with_reducible apply postAtom_answers

theorem execAmin_answers (a : Reg) (b : Reg) (z : AtomSize) (s : State) :
    Answers (execAmin a b z s) := by
  unfold execAmin
  repeat' first
    | with_reducible exact answers_next _
    | with_reducible assumption
    | with_reducible apply postAtom_answers

theorem execSplcU_answers (_q : CmdQual) (_p : Bool) (slot : BitVec 3) (queue : BitVec 6) (s : State) :
    Answers (execSplcU _q _p slot queue s) := by
  unfold execSplcU
  repeat' first
    | with_reducible exact answers_next _
    | with_reducible assumption
    | with_reducible apply refused_answers
    | with_reducible apply answers_ite
    | dsimp only
    | split

theorem execSmov_answers (_q : CmdQual) (slot : BitVec 3) (inst : BitVec 10) (lx : BitVec 5) (ly : BitVec 5) (any : Bool) (s : State) :
    Answers (execSmov _q slot inst lx ly any s) := by
  unfold execSmov
  repeat' first
    | with_reducible exact answers_next _
    | with_reducible assumption
    | with_reducible apply refused_answers
    | with_reducible apply answers_ite
    | dsimp only
    | split

theorem execCseq_answers (r : RouterFields) (s : State) :
    Answers (execCseq r s) := by
  unfold execCseq
  repeat' first
    | with_reducible exact answers_next _
    | with_reducible assumption
    | with_reducible apply takeEnable_answers
    | with_reducible apply withRouter_answers
    | with_reducible apply takeDone_answers
    | with_reducible apply sendEnable_answers
    | with_reducible apply sendDone_answers
    | with_reducible apply answers_ite
    | dsimp only
    | split
    | intro _

theorem execLandingRequestArrive_answers (k : Nat) (s : State) :
    Answers (execLandingRequestArrive k s) := by
  unfold execLandingRequestArrive
  repeat' first
    | with_reducible exact answers_next _
    | with_reducible assumption
    | with_reducible apply answers_ite
    | dsimp only
    | split

theorem execFsqrt_answers (t : FType) (d : Reg) (a : Reg) (r : RmField) (s : State) :
    Answers (execFsqrt t d a r s) := by
  unfold execFsqrt
  repeat' first
    | with_reducible exact answers_next _
    | with_reducible assumption
    | with_reducible apply doneFloat_answers

theorem execSseg_answers (_q : CmdQual) (last : Bool) (slot : BitVec 3) (tiles : BitVec 32) (s : State) :
    Answers (execSseg _q last slot tiles s) := by
  unfold execSseg
  repeat' first
    | with_reducible exact answers_next _
    | with_reducible assumption
    | with_reducible apply refused_answers
    | with_reducible apply answers_ite

theorem execSbndT_answers (_q : CmdQual) (slot : BitVec 3) (inst : BitVec 10) (page : BitVec 10) (port : BitVec 2) (tag : BitVec 4) (s : State) :
    Answers (execSbndT _q slot inst page port tag s) := by
  unfold execSbndT
  repeat' first
    | with_reducible exact answers_next _
    | with_reducible assumption
    | with_reducible apply refused_answers
    | with_reducible apply onInsts_answers
    | with_reducible apply answers_ite
    | dsimp only
    | split

theorem execInstanceDisplace_answers (i : Nat) (s : State) :
    Answers (execInstanceDisplace i s) := by
  unfold execInstanceDisplace
  repeat' first
    | with_reducible exact answers_next _
    | with_reducible assumption
    | with_reducible apply answers_ite

theorem execJalr_answers (d : Reg) (a : Reg) (i : BitVec 15) (s : State) :
    Answers (execJalr d a i s) := by
  unfold execJalr
  repeat' first
    | with_reducible exact answers_next _
    | with_reducible assumption
    | with_reducible apply trapWith_answers
    | with_reducible apply answers_ite

theorem execTrap_answers (c : BitVec 11) (s : State) :
    Answers (execTrap c s) := by
  unfold execTrap
  repeat' first
    | with_reducible exact answers_next _
    | with_reducible assumption
    | with_reducible apply trapCode_answers

theorem execMvgf_answers (t : FType) (d : Reg) (a : Reg) (s : State) :
    Answers (execMvgf t d a s) := by
  unfold execMvgf
  repeat' first
    | with_reducible exact answers_next _
    | with_reducible assumption
    | with_reducible apply doneFloat_answers

end Sys2Proof.Machine
end

