-- ==== Sys2Proof/Laws/State.lean ====
section
/-!
SUPPORT. Sys2Proof/Laws/State.lean: what each named update of the state leaves in each field, so that no proof unfolds a
record update.
-/
namespace Sys2Proof.Machine

/-! ### State.setTh -/

@[simp] theorem State.setTh_rest (s : State) (t : Thread) : (s.setTh t).rest = s.rest := rfl
@[simp] theorem State.setTh_inputs (s : State) (t : Thread) : (s.setTh t).inputs = s.inputs := rfl
@[simp] theorem State.setTh_mem (s : State) (t : Thread) : (s.setTh t).mem = s.mem := rfl
@[simp] theorem State.setTh_peers (s : State) (t : Thread) : (s.setTh t).peers = s.peers := rfl
@[simp] theorem State.setTh_regs (s : State) (t : Thread) : (s.setTh t).regs = s.regs := rfl
@[simp] theorem State.setTh_vers (s : State) (t : Thread) : (s.setTh t).vers = s.vers := rfl
@[simp] theorem State.setTh_llc (s : State) (t : Thread) : (s.setTh t).llc = s.llc := rfl
@[simp] theorem State.setTh_cache (s : State) (t : Thread) : (s.setTh t).cache = s.cache := rfl
@[simp] theorem State.setTh_sbuf (s : State) (t : Thread) : (s.setTh t).sbuf = s.sbuf := rfl
@[simp] theorem State.setTh_nextSt (s : State) (t : Thread) : (s.setTh t).nextSt = s.nextSt := rfl
@[simp] theorem State.setTh_tlb (s : State) (t : Thread) : (s.setTh t).tlb = s.tlb := rfl
@[simp] theorem State.setTh_inval (s : State) (t : Thread) : (s.setTh t).inval = s.inval := rfl
@[simp] theorem State.setTh_invalFills (s : State) (t : Thread) : (s.setTh t).invalFills = s.invalFills := rfl
@[simp] theorem State.setTh_feq (s : State) (t : Thread) : (s.setTh t).feq = s.feq := rfl
@[simp] theorem State.setTh_ctxs (s : State) (t : Thread) : (s.setTh t).ctxs = s.ctxs := rfl
@[simp] theorem State.setTh_sites (s : State) (t : Thread) : (s.setTh t).sites = s.sites := rfl
@[simp] theorem State.setTh_fields (s : State) (t : Thread) : (s.setTh t).fields = s.fields := rfl
@[simp] theorem State.setTh_ref (s : State) (t : Thread) : (s.setTh t).ref = s.ref := rfl
@[simp] theorem State.setTh_stamps (s : State) (t : Thread) : (s.setTh t).stamps = s.stamps := rfl
@[simp] theorem State.setTh_insts (s : State) (t : Thread) : (s.setTh t).insts = s.insts := rfl
@[simp] theorem State.setTh_streams (s : State) (t : Thread) : (s.setTh t).streams = s.streams := rfl
@[simp] theorem State.setTh_slices (s : State) (t : Thread) : (s.setTh t).slices = s.slices := rfl
@[simp] theorem State.setTh_groups (s : State) (t : Thread) : (s.setTh t).groups = s.groups := rfl
@[simp] theorem State.setTh_land (s : State) (t : Thread) : (s.setTh t).land = s.land := rfl
@[simp] theorem State.setTh_flushes (s : State) (t : Thread) : (s.setTh t).flushes = s.flushes := rfl
@[simp] theorem State.setTh_tokmsgs (s : State) (t : Thread) : (s.setTh t).tokmsgs = s.tokmsgs := rfl
@[simp] theorem State.setTh_signals (s : State) (t : Thread) : (s.setTh t).signals = s.signals := rfl
@[simp] theorem State.setTh_outmsgs (s : State) (t : Thread) : (s.setTh t).outmsgs = s.outmsgs := rfl
@[simp] theorem State.setTh_seen (s : State) (t : Thread) : (s.setTh t).seen = s.seen := rfl
@[simp] theorem State.setTh_retire (s : State) (t : Thread) : (s.setTh t).retire = s.retire := rfl
@[simp] theorem State.setTh_rtu (s : State) (t : Thread) : (s.setTh t).rtu = s.rtu := rfl
@[simp] theorem State.setTh_mgmt (s : State) (t : Thread) : (s.setTh t).mgmt = s.mgmt := rfl
@[simp] theorem State.setTh_keytab (s : State) (t : Thread) : (s.setTh t).keytab = s.keytab := rfl
@[simp] theorem State.setTh_owners (s : State) (t : Thread) : (s.setTh t).owners = s.owners := rfl
@[simp] theorem State.setTh_boot (s : State) (t : Thread) : (s.setTh t).boot = s.boot := rfl
@[simp] theorem State.setTh_silent (s : State) (t : Thread) : (s.setTh t).silent = s.silent := rfl
@[simp] theorem State.setTh_spare (s : State) (t : Thread) : (s.setTh t).spare = s.spare := rfl
@[simp] theorem State.setTh_clock (s : State) (t : Thread) : (s.setTh t).clock = s.clock := rfl
@[simp] theorem State.setTh_cmd (s : State) (t : Thread) : (s.setTh t).cmd = s.cmd := rfl
@[simp] theorem State.setTh_pe (s : State) (t : Thread) : (s.setTh t).pe = s.pe := rfl

/-! ### State.setG -/

@[simp] theorem State.setG_rest (s : State) (r : Reg) (v : Word) : (s.setG r v).rest = s.rest := rfl
@[simp] theorem State.setG_inputs (s : State) (r : Reg) (v : Word) : (s.setG r v).inputs = s.inputs := rfl
@[simp] theorem State.setG_mem (s : State) (r : Reg) (v : Word) : (s.setG r v).mem = s.mem := rfl
@[simp] theorem State.setG_peers (s : State) (r : Reg) (v : Word) : (s.setG r v).peers = s.peers := rfl
@[simp] theorem State.setG_regs (s : State) (r : Reg) (v : Word) : (s.setG r v).regs = s.regs := rfl
@[simp] theorem State.setG_vers (s : State) (r : Reg) (v : Word) : (s.setG r v).vers = s.vers := rfl
@[simp] theorem State.setG_llc (s : State) (r : Reg) (v : Word) : (s.setG r v).llc = s.llc := rfl
@[simp] theorem State.setG_cache (s : State) (r : Reg) (v : Word) : (s.setG r v).cache = s.cache := rfl
@[simp] theorem State.setG_sbuf (s : State) (r : Reg) (v : Word) : (s.setG r v).sbuf = s.sbuf := rfl
@[simp] theorem State.setG_nextSt (s : State) (r : Reg) (v : Word) : (s.setG r v).nextSt = s.nextSt := rfl
@[simp] theorem State.setG_tlb (s : State) (r : Reg) (v : Word) : (s.setG r v).tlb = s.tlb := rfl
@[simp] theorem State.setG_inval (s : State) (r : Reg) (v : Word) : (s.setG r v).inval = s.inval := rfl
@[simp] theorem State.setG_invalFills (s : State) (r : Reg) (v : Word) : (s.setG r v).invalFills = s.invalFills := rfl
@[simp] theorem State.setG_feq (s : State) (r : Reg) (v : Word) : (s.setG r v).feq = s.feq := rfl
@[simp] theorem State.setG_ctxs (s : State) (r : Reg) (v : Word) : (s.setG r v).ctxs = s.ctxs := rfl
@[simp] theorem State.setG_sites (s : State) (r : Reg) (v : Word) : (s.setG r v).sites = s.sites := rfl
@[simp] theorem State.setG_fields (s : State) (r : Reg) (v : Word) : (s.setG r v).fields = s.fields := rfl
@[simp] theorem State.setG_ref (s : State) (r : Reg) (v : Word) : (s.setG r v).ref = s.ref := rfl
@[simp] theorem State.setG_stamps (s : State) (r : Reg) (v : Word) : (s.setG r v).stamps = s.stamps := rfl
@[simp] theorem State.setG_insts (s : State) (r : Reg) (v : Word) : (s.setG r v).insts = s.insts := rfl
@[simp] theorem State.setG_streams (s : State) (r : Reg) (v : Word) : (s.setG r v).streams = s.streams := rfl
@[simp] theorem State.setG_slices (s : State) (r : Reg) (v : Word) : (s.setG r v).slices = s.slices := rfl
@[simp] theorem State.setG_groups (s : State) (r : Reg) (v : Word) : (s.setG r v).groups = s.groups := rfl
@[simp] theorem State.setG_land (s : State) (r : Reg) (v : Word) : (s.setG r v).land = s.land := rfl
@[simp] theorem State.setG_flushes (s : State) (r : Reg) (v : Word) : (s.setG r v).flushes = s.flushes := rfl
@[simp] theorem State.setG_tokmsgs (s : State) (r : Reg) (v : Word) : (s.setG r v).tokmsgs = s.tokmsgs := rfl
@[simp] theorem State.setG_signals (s : State) (r : Reg) (v : Word) : (s.setG r v).signals = s.signals := rfl
@[simp] theorem State.setG_outmsgs (s : State) (r : Reg) (v : Word) : (s.setG r v).outmsgs = s.outmsgs := rfl
@[simp] theorem State.setG_seen (s : State) (r : Reg) (v : Word) : (s.setG r v).seen = s.seen := rfl
@[simp] theorem State.setG_retire (s : State) (r : Reg) (v : Word) : (s.setG r v).retire = s.retire := rfl
@[simp] theorem State.setG_rtu (s : State) (r : Reg) (v : Word) : (s.setG r v).rtu = s.rtu := rfl
@[simp] theorem State.setG_mgmt (s : State) (r : Reg) (v : Word) : (s.setG r v).mgmt = s.mgmt := rfl
@[simp] theorem State.setG_keytab (s : State) (r : Reg) (v : Word) : (s.setG r v).keytab = s.keytab := rfl
@[simp] theorem State.setG_owners (s : State) (r : Reg) (v : Word) : (s.setG r v).owners = s.owners := rfl
@[simp] theorem State.setG_boot (s : State) (r : Reg) (v : Word) : (s.setG r v).boot = s.boot := rfl
@[simp] theorem State.setG_silent (s : State) (r : Reg) (v : Word) : (s.setG r v).silent = s.silent := rfl
@[simp] theorem State.setG_spare (s : State) (r : Reg) (v : Word) : (s.setG r v).spare = s.spare := rfl
@[simp] theorem State.setG_clock (s : State) (r : Reg) (v : Word) : (s.setG r v).clock = s.clock := rfl
@[simp] theorem State.setG_cmd (s : State) (r : Reg) (v : Word) : (s.setG r v).cmd = s.cmd := rfl
@[simp] theorem State.setG_pe (s : State) (r : Reg) (v : Word) : (s.setG r v).pe = s.pe := rfl

/-! ### State.setF -/

@[simp] theorem State.setF_rest (s : State) (r : Reg) (v : Word) : (s.setF r v).rest = s.rest := rfl
@[simp] theorem State.setF_inputs (s : State) (r : Reg) (v : Word) : (s.setF r v).inputs = s.inputs := rfl
@[simp] theorem State.setF_mem (s : State) (r : Reg) (v : Word) : (s.setF r v).mem = s.mem := rfl
@[simp] theorem State.setF_peers (s : State) (r : Reg) (v : Word) : (s.setF r v).peers = s.peers := rfl
@[simp] theorem State.setF_regs (s : State) (r : Reg) (v : Word) : (s.setF r v).regs = s.regs := rfl
@[simp] theorem State.setF_vers (s : State) (r : Reg) (v : Word) : (s.setF r v).vers = s.vers := rfl
@[simp] theorem State.setF_llc (s : State) (r : Reg) (v : Word) : (s.setF r v).llc = s.llc := rfl
@[simp] theorem State.setF_cache (s : State) (r : Reg) (v : Word) : (s.setF r v).cache = s.cache := rfl
@[simp] theorem State.setF_sbuf (s : State) (r : Reg) (v : Word) : (s.setF r v).sbuf = s.sbuf := rfl
@[simp] theorem State.setF_nextSt (s : State) (r : Reg) (v : Word) : (s.setF r v).nextSt = s.nextSt := rfl
@[simp] theorem State.setF_tlb (s : State) (r : Reg) (v : Word) : (s.setF r v).tlb = s.tlb := rfl
@[simp] theorem State.setF_inval (s : State) (r : Reg) (v : Word) : (s.setF r v).inval = s.inval := rfl
@[simp] theorem State.setF_invalFills (s : State) (r : Reg) (v : Word) : (s.setF r v).invalFills = s.invalFills := rfl
@[simp] theorem State.setF_feq (s : State) (r : Reg) (v : Word) : (s.setF r v).feq = s.feq := rfl
@[simp] theorem State.setF_ctxs (s : State) (r : Reg) (v : Word) : (s.setF r v).ctxs = s.ctxs := rfl
@[simp] theorem State.setF_sites (s : State) (r : Reg) (v : Word) : (s.setF r v).sites = s.sites := rfl
@[simp] theorem State.setF_fields (s : State) (r : Reg) (v : Word) : (s.setF r v).fields = s.fields := rfl
@[simp] theorem State.setF_ref (s : State) (r : Reg) (v : Word) : (s.setF r v).ref = s.ref := rfl
@[simp] theorem State.setF_stamps (s : State) (r : Reg) (v : Word) : (s.setF r v).stamps = s.stamps := rfl
@[simp] theorem State.setF_insts (s : State) (r : Reg) (v : Word) : (s.setF r v).insts = s.insts := rfl
@[simp] theorem State.setF_streams (s : State) (r : Reg) (v : Word) : (s.setF r v).streams = s.streams := rfl
@[simp] theorem State.setF_slices (s : State) (r : Reg) (v : Word) : (s.setF r v).slices = s.slices := rfl
@[simp] theorem State.setF_groups (s : State) (r : Reg) (v : Word) : (s.setF r v).groups = s.groups := rfl
@[simp] theorem State.setF_land (s : State) (r : Reg) (v : Word) : (s.setF r v).land = s.land := rfl
@[simp] theorem State.setF_flushes (s : State) (r : Reg) (v : Word) : (s.setF r v).flushes = s.flushes := rfl
@[simp] theorem State.setF_tokmsgs (s : State) (r : Reg) (v : Word) : (s.setF r v).tokmsgs = s.tokmsgs := rfl
@[simp] theorem State.setF_signals (s : State) (r : Reg) (v : Word) : (s.setF r v).signals = s.signals := rfl
@[simp] theorem State.setF_outmsgs (s : State) (r : Reg) (v : Word) : (s.setF r v).outmsgs = s.outmsgs := rfl
@[simp] theorem State.setF_seen (s : State) (r : Reg) (v : Word) : (s.setF r v).seen = s.seen := rfl
@[simp] theorem State.setF_retire (s : State) (r : Reg) (v : Word) : (s.setF r v).retire = s.retire := rfl
@[simp] theorem State.setF_rtu (s : State) (r : Reg) (v : Word) : (s.setF r v).rtu = s.rtu := rfl
@[simp] theorem State.setF_mgmt (s : State) (r : Reg) (v : Word) : (s.setF r v).mgmt = s.mgmt := rfl
@[simp] theorem State.setF_keytab (s : State) (r : Reg) (v : Word) : (s.setF r v).keytab = s.keytab := rfl
@[simp] theorem State.setF_owners (s : State) (r : Reg) (v : Word) : (s.setF r v).owners = s.owners := rfl
@[simp] theorem State.setF_boot (s : State) (r : Reg) (v : Word) : (s.setF r v).boot = s.boot := rfl
@[simp] theorem State.setF_silent (s : State) (r : Reg) (v : Word) : (s.setF r v).silent = s.silent := rfl
@[simp] theorem State.setF_spare (s : State) (r : Reg) (v : Word) : (s.setF r v).spare = s.spare := rfl
@[simp] theorem State.setF_clock (s : State) (r : Reg) (v : Word) : (s.setF r v).clock = s.clock := rfl
@[simp] theorem State.setF_cmd (s : State) (r : Reg) (v : Word) : (s.setF r v).cmd = s.cmd := rfl
@[simp] theorem State.setF_pe (s : State) (r : Reg) (v : Word) : (s.setF r v).pe = s.pe := rfl

/-! ### State.goto -/

@[simp] theorem State.goto_rest (s : State) (a : Addr) : (s.goto a).rest = s.rest := rfl
@[simp] theorem State.goto_inputs (s : State) (a : Addr) : (s.goto a).inputs = s.inputs := rfl
@[simp] theorem State.goto_mem (s : State) (a : Addr) : (s.goto a).mem = s.mem := rfl
@[simp] theorem State.goto_peers (s : State) (a : Addr) : (s.goto a).peers = s.peers := rfl
@[simp] theorem State.goto_regs (s : State) (a : Addr) : (s.goto a).regs = s.regs := rfl
@[simp] theorem State.goto_vers (s : State) (a : Addr) : (s.goto a).vers = s.vers := rfl
@[simp] theorem State.goto_llc (s : State) (a : Addr) : (s.goto a).llc = s.llc := rfl
@[simp] theorem State.goto_cache (s : State) (a : Addr) : (s.goto a).cache = s.cache := rfl
@[simp] theorem State.goto_sbuf (s : State) (a : Addr) : (s.goto a).sbuf = s.sbuf := rfl
@[simp] theorem State.goto_nextSt (s : State) (a : Addr) : (s.goto a).nextSt = s.nextSt := rfl
@[simp] theorem State.goto_tlb (s : State) (a : Addr) : (s.goto a).tlb = s.tlb := rfl
@[simp] theorem State.goto_inval (s : State) (a : Addr) : (s.goto a).inval = s.inval := rfl
@[simp] theorem State.goto_invalFills (s : State) (a : Addr) : (s.goto a).invalFills = s.invalFills := rfl
@[simp] theorem State.goto_feq (s : State) (a : Addr) : (s.goto a).feq = s.feq := rfl
@[simp] theorem State.goto_ctxs (s : State) (a : Addr) : (s.goto a).ctxs = s.ctxs := rfl
@[simp] theorem State.goto_sites (s : State) (a : Addr) : (s.goto a).sites = s.sites := rfl
@[simp] theorem State.goto_fields (s : State) (a : Addr) : (s.goto a).fields = s.fields := rfl
@[simp] theorem State.goto_ref (s : State) (a : Addr) : (s.goto a).ref = s.ref := rfl
@[simp] theorem State.goto_stamps (s : State) (a : Addr) : (s.goto a).stamps = s.stamps := rfl
@[simp] theorem State.goto_insts (s : State) (a : Addr) : (s.goto a).insts = s.insts := rfl
@[simp] theorem State.goto_streams (s : State) (a : Addr) : (s.goto a).streams = s.streams := rfl
@[simp] theorem State.goto_slices (s : State) (a : Addr) : (s.goto a).slices = s.slices := rfl
@[simp] theorem State.goto_groups (s : State) (a : Addr) : (s.goto a).groups = s.groups := rfl
@[simp] theorem State.goto_land (s : State) (a : Addr) : (s.goto a).land = s.land := rfl
@[simp] theorem State.goto_flushes (s : State) (a : Addr) : (s.goto a).flushes = s.flushes := rfl
@[simp] theorem State.goto_tokmsgs (s : State) (a : Addr) : (s.goto a).tokmsgs = s.tokmsgs := rfl
@[simp] theorem State.goto_signals (s : State) (a : Addr) : (s.goto a).signals = s.signals := rfl
@[simp] theorem State.goto_outmsgs (s : State) (a : Addr) : (s.goto a).outmsgs = s.outmsgs := rfl
@[simp] theorem State.goto_seen (s : State) (a : Addr) : (s.goto a).seen = s.seen := rfl
@[simp] theorem State.goto_retire (s : State) (a : Addr) : (s.goto a).retire = s.retire := rfl
@[simp] theorem State.goto_rtu (s : State) (a : Addr) : (s.goto a).rtu = s.rtu := rfl
@[simp] theorem State.goto_mgmt (s : State) (a : Addr) : (s.goto a).mgmt = s.mgmt := rfl
@[simp] theorem State.goto_keytab (s : State) (a : Addr) : (s.goto a).keytab = s.keytab := rfl
@[simp] theorem State.goto_owners (s : State) (a : Addr) : (s.goto a).owners = s.owners := rfl
@[simp] theorem State.goto_boot (s : State) (a : Addr) : (s.goto a).boot = s.boot := rfl
@[simp] theorem State.goto_silent (s : State) (a : Addr) : (s.goto a).silent = s.silent := rfl
@[simp] theorem State.goto_spare (s : State) (a : Addr) : (s.goto a).spare = s.spare := rfl
@[simp] theorem State.goto_clock (s : State) (a : Addr) : (s.goto a).clock = s.clock := rfl
@[simp] theorem State.goto_cmd (s : State) (a : Addr) : (s.goto a).cmd = s.cmd := rfl
@[simp] theorem State.goto_pe (s : State) (a : Addr) : (s.goto a).pe = s.pe := rfl

/-! ### State.advance -/

@[simp] theorem State.advance_rest (s : State) : (s.advance).rest = s.rest := rfl
@[simp] theorem State.advance_inputs (s : State) : (s.advance).inputs = s.inputs := rfl
@[simp] theorem State.advance_mem (s : State) : (s.advance).mem = s.mem := rfl
@[simp] theorem State.advance_peers (s : State) : (s.advance).peers = s.peers := rfl
@[simp] theorem State.advance_regs (s : State) : (s.advance).regs = s.regs := rfl
@[simp] theorem State.advance_vers (s : State) : (s.advance).vers = s.vers := rfl
@[simp] theorem State.advance_llc (s : State) : (s.advance).llc = s.llc := rfl
@[simp] theorem State.advance_cache (s : State) : (s.advance).cache = s.cache := rfl
@[simp] theorem State.advance_sbuf (s : State) : (s.advance).sbuf = s.sbuf := rfl
@[simp] theorem State.advance_nextSt (s : State) : (s.advance).nextSt = s.nextSt := rfl
@[simp] theorem State.advance_tlb (s : State) : (s.advance).tlb = s.tlb := rfl
@[simp] theorem State.advance_inval (s : State) : (s.advance).inval = s.inval := rfl
@[simp] theorem State.advance_invalFills (s : State) : (s.advance).invalFills = s.invalFills := rfl
@[simp] theorem State.advance_feq (s : State) : (s.advance).feq = s.feq := rfl
@[simp] theorem State.advance_ctxs (s : State) : (s.advance).ctxs = s.ctxs := rfl
@[simp] theorem State.advance_sites (s : State) : (s.advance).sites = s.sites := rfl
@[simp] theorem State.advance_fields (s : State) : (s.advance).fields = s.fields := rfl
@[simp] theorem State.advance_ref (s : State) : (s.advance).ref = s.ref := rfl
@[simp] theorem State.advance_stamps (s : State) : (s.advance).stamps = s.stamps := rfl
@[simp] theorem State.advance_insts (s : State) : (s.advance).insts = s.insts := rfl
@[simp] theorem State.advance_streams (s : State) : (s.advance).streams = s.streams := rfl
@[simp] theorem State.advance_slices (s : State) : (s.advance).slices = s.slices := rfl
@[simp] theorem State.advance_groups (s : State) : (s.advance).groups = s.groups := rfl
@[simp] theorem State.advance_land (s : State) : (s.advance).land = s.land := rfl
@[simp] theorem State.advance_flushes (s : State) : (s.advance).flushes = s.flushes := rfl
@[simp] theorem State.advance_tokmsgs (s : State) : (s.advance).tokmsgs = s.tokmsgs := rfl
@[simp] theorem State.advance_signals (s : State) : (s.advance).signals = s.signals := rfl
@[simp] theorem State.advance_outmsgs (s : State) : (s.advance).outmsgs = s.outmsgs := rfl
@[simp] theorem State.advance_seen (s : State) : (s.advance).seen = s.seen := rfl
@[simp] theorem State.advance_retire (s : State) : (s.advance).retire = s.retire := rfl
@[simp] theorem State.advance_rtu (s : State) : (s.advance).rtu = s.rtu := rfl
@[simp] theorem State.advance_mgmt (s : State) : (s.advance).mgmt = s.mgmt := rfl
@[simp] theorem State.advance_keytab (s : State) : (s.advance).keytab = s.keytab := rfl
@[simp] theorem State.advance_owners (s : State) : (s.advance).owners = s.owners := rfl
@[simp] theorem State.advance_boot (s : State) : (s.advance).boot = s.boot := rfl
@[simp] theorem State.advance_silent (s : State) : (s.advance).silent = s.silent := rfl
@[simp] theorem State.advance_spare (s : State) : (s.advance).spare = s.spare := rfl
@[simp] theorem State.advance_clock (s : State) : (s.advance).clock = s.clock := rfl
@[simp] theorem State.advance_cmd (s : State) : (s.advance).cmd = s.cmd := rfl
@[simp] theorem State.advance_pe (s : State) : (s.advance).pe = s.pe := rfl

/-! ### State.block -/

@[simp] theorem State.block_rest (s : State) (w : Wait) : (s.block w).rest = s.rest := rfl
@[simp] theorem State.block_inputs (s : State) (w : Wait) : (s.block w).inputs = s.inputs := rfl
@[simp] theorem State.block_mem (s : State) (w : Wait) : (s.block w).mem = s.mem := rfl
@[simp] theorem State.block_peers (s : State) (w : Wait) : (s.block w).peers = s.peers := rfl
@[simp] theorem State.block_regs (s : State) (w : Wait) : (s.block w).regs = s.regs := rfl
@[simp] theorem State.block_vers (s : State) (w : Wait) : (s.block w).vers = s.vers := rfl
@[simp] theorem State.block_llc (s : State) (w : Wait) : (s.block w).llc = s.llc := rfl
@[simp] theorem State.block_cache (s : State) (w : Wait) : (s.block w).cache = s.cache := rfl
@[simp] theorem State.block_sbuf (s : State) (w : Wait) : (s.block w).sbuf = s.sbuf := rfl
@[simp] theorem State.block_nextSt (s : State) (w : Wait) : (s.block w).nextSt = s.nextSt := rfl
@[simp] theorem State.block_tlb (s : State) (w : Wait) : (s.block w).tlb = s.tlb := rfl
@[simp] theorem State.block_inval (s : State) (w : Wait) : (s.block w).inval = s.inval := rfl
@[simp] theorem State.block_invalFills (s : State) (w : Wait) : (s.block w).invalFills = s.invalFills := rfl
@[simp] theorem State.block_feq (s : State) (w : Wait) : (s.block w).feq = s.feq := rfl
@[simp] theorem State.block_ctxs (s : State) (w : Wait) : (s.block w).ctxs = s.ctxs := rfl
@[simp] theorem State.block_sites (s : State) (w : Wait) : (s.block w).sites = s.sites := rfl
@[simp] theorem State.block_fields (s : State) (w : Wait) : (s.block w).fields = s.fields := rfl
@[simp] theorem State.block_ref (s : State) (w : Wait) : (s.block w).ref = s.ref := rfl
@[simp] theorem State.block_stamps (s : State) (w : Wait) : (s.block w).stamps = s.stamps := rfl
@[simp] theorem State.block_insts (s : State) (w : Wait) : (s.block w).insts = s.insts := rfl
@[simp] theorem State.block_streams (s : State) (w : Wait) : (s.block w).streams = s.streams := rfl
@[simp] theorem State.block_slices (s : State) (w : Wait) : (s.block w).slices = s.slices := rfl
@[simp] theorem State.block_groups (s : State) (w : Wait) : (s.block w).groups = s.groups := rfl
@[simp] theorem State.block_land (s : State) (w : Wait) : (s.block w).land = s.land := rfl
@[simp] theorem State.block_flushes (s : State) (w : Wait) : (s.block w).flushes = s.flushes := rfl
@[simp] theorem State.block_tokmsgs (s : State) (w : Wait) : (s.block w).tokmsgs = s.tokmsgs := rfl
@[simp] theorem State.block_signals (s : State) (w : Wait) : (s.block w).signals = s.signals := rfl
@[simp] theorem State.block_outmsgs (s : State) (w : Wait) : (s.block w).outmsgs = s.outmsgs := rfl
@[simp] theorem State.block_seen (s : State) (w : Wait) : (s.block w).seen = s.seen := rfl
@[simp] theorem State.block_retire (s : State) (w : Wait) : (s.block w).retire = s.retire := rfl
@[simp] theorem State.block_rtu (s : State) (w : Wait) : (s.block w).rtu = s.rtu := rfl
@[simp] theorem State.block_mgmt (s : State) (w : Wait) : (s.block w).mgmt = s.mgmt := rfl
@[simp] theorem State.block_keytab (s : State) (w : Wait) : (s.block w).keytab = s.keytab := rfl
@[simp] theorem State.block_owners (s : State) (w : Wait) : (s.block w).owners = s.owners := rfl
@[simp] theorem State.block_boot (s : State) (w : Wait) : (s.block w).boot = s.boot := rfl
@[simp] theorem State.block_silent (s : State) (w : Wait) : (s.block w).silent = s.silent := rfl
@[simp] theorem State.block_spare (s : State) (w : Wait) : (s.block w).spare = s.spare := rfl
@[simp] theorem State.block_clock (s : State) (w : Wait) : (s.block w).clock = s.clock := rfl
@[simp] theorem State.block_cmd (s : State) (w : Wait) : (s.block w).cmd = s.cmd := rfl
@[simp] theorem State.block_pe (s : State) (w : Wait) : (s.block w).pe = s.pe := rfl

/-! ### State.pause -/

@[simp] theorem State.pause_rest (s : State) (n : Nat) : (s.pause n).rest = s.rest := rfl
@[simp] theorem State.pause_inputs (s : State) (n : Nat) : (s.pause n).inputs = s.inputs := rfl
@[simp] theorem State.pause_mem (s : State) (n : Nat) : (s.pause n).mem = s.mem := rfl
@[simp] theorem State.pause_peers (s : State) (n : Nat) : (s.pause n).peers = s.peers := rfl
@[simp] theorem State.pause_regs (s : State) (n : Nat) : (s.pause n).regs = s.regs := rfl
@[simp] theorem State.pause_vers (s : State) (n : Nat) : (s.pause n).vers = s.vers := rfl
@[simp] theorem State.pause_llc (s : State) (n : Nat) : (s.pause n).llc = s.llc := rfl
@[simp] theorem State.pause_cache (s : State) (n : Nat) : (s.pause n).cache = s.cache := rfl
@[simp] theorem State.pause_sbuf (s : State) (n : Nat) : (s.pause n).sbuf = s.sbuf := rfl
@[simp] theorem State.pause_nextSt (s : State) (n : Nat) : (s.pause n).nextSt = s.nextSt := rfl
@[simp] theorem State.pause_tlb (s : State) (n : Nat) : (s.pause n).tlb = s.tlb := rfl
@[simp] theorem State.pause_inval (s : State) (n : Nat) : (s.pause n).inval = s.inval := rfl
@[simp] theorem State.pause_invalFills (s : State) (n : Nat) : (s.pause n).invalFills = s.invalFills := rfl
@[simp] theorem State.pause_feq (s : State) (n : Nat) : (s.pause n).feq = s.feq := rfl
@[simp] theorem State.pause_ctxs (s : State) (n : Nat) : (s.pause n).ctxs = s.ctxs := rfl
@[simp] theorem State.pause_sites (s : State) (n : Nat) : (s.pause n).sites = s.sites := rfl
@[simp] theorem State.pause_fields (s : State) (n : Nat) : (s.pause n).fields = s.fields := rfl
@[simp] theorem State.pause_ref (s : State) (n : Nat) : (s.pause n).ref = s.ref := rfl
@[simp] theorem State.pause_stamps (s : State) (n : Nat) : (s.pause n).stamps = s.stamps := rfl
@[simp] theorem State.pause_insts (s : State) (n : Nat) : (s.pause n).insts = s.insts := rfl
@[simp] theorem State.pause_streams (s : State) (n : Nat) : (s.pause n).streams = s.streams := rfl
@[simp] theorem State.pause_slices (s : State) (n : Nat) : (s.pause n).slices = s.slices := rfl
@[simp] theorem State.pause_groups (s : State) (n : Nat) : (s.pause n).groups = s.groups := rfl
@[simp] theorem State.pause_land (s : State) (n : Nat) : (s.pause n).land = s.land := rfl
@[simp] theorem State.pause_flushes (s : State) (n : Nat) : (s.pause n).flushes = s.flushes := rfl
@[simp] theorem State.pause_tokmsgs (s : State) (n : Nat) : (s.pause n).tokmsgs = s.tokmsgs := rfl
@[simp] theorem State.pause_signals (s : State) (n : Nat) : (s.pause n).signals = s.signals := rfl
@[simp] theorem State.pause_outmsgs (s : State) (n : Nat) : (s.pause n).outmsgs = s.outmsgs := rfl
@[simp] theorem State.pause_seen (s : State) (n : Nat) : (s.pause n).seen = s.seen := rfl
@[simp] theorem State.pause_retire (s : State) (n : Nat) : (s.pause n).retire = s.retire := rfl
@[simp] theorem State.pause_rtu (s : State) (n : Nat) : (s.pause n).rtu = s.rtu := rfl
@[simp] theorem State.pause_mgmt (s : State) (n : Nat) : (s.pause n).mgmt = s.mgmt := rfl
@[simp] theorem State.pause_keytab (s : State) (n : Nat) : (s.pause n).keytab = s.keytab := rfl
@[simp] theorem State.pause_owners (s : State) (n : Nat) : (s.pause n).owners = s.owners := rfl
@[simp] theorem State.pause_boot (s : State) (n : Nat) : (s.pause n).boot = s.boot := rfl
@[simp] theorem State.pause_silent (s : State) (n : Nat) : (s.pause n).silent = s.silent := rfl
@[simp] theorem State.pause_spare (s : State) (n : Nat) : (s.pause n).spare = s.spare := rfl
@[simp] theorem State.pause_clock (s : State) (n : Nat) : (s.pause n).clock = s.clock := rfl
@[simp] theorem State.pause_cmd (s : State) (n : Nat) : (s.pause n).cmd = s.cmd := rfl
@[simp] theorem State.pause_pe (s : State) (n : Nat) : (s.pause n).pe = s.pe := rfl

/-! ### State.setReg -/

@[simp] theorem State.setReg_th (s : State) (o : Nat) (v : Word) : (s.setReg o v).th = s.th := rfl
@[simp] theorem State.setReg_rest (s : State) (o : Nat) (v : Word) : (s.setReg o v).rest = s.rest := rfl
@[simp] theorem State.setReg_inputs (s : State) (o : Nat) (v : Word) : (s.setReg o v).inputs = s.inputs := rfl
@[simp] theorem State.setReg_mem (s : State) (o : Nat) (v : Word) : (s.setReg o v).mem = s.mem := rfl
@[simp] theorem State.setReg_peers (s : State) (o : Nat) (v : Word) : (s.setReg o v).peers = s.peers := rfl
@[simp] theorem State.setReg_vers (s : State) (o : Nat) (v : Word) : (s.setReg o v).vers = s.vers := rfl
@[simp] theorem State.setReg_llc (s : State) (o : Nat) (v : Word) : (s.setReg o v).llc = s.llc := rfl
@[simp] theorem State.setReg_cache (s : State) (o : Nat) (v : Word) : (s.setReg o v).cache = s.cache := rfl
@[simp] theorem State.setReg_sbuf (s : State) (o : Nat) (v : Word) : (s.setReg o v).sbuf = s.sbuf := rfl
@[simp] theorem State.setReg_nextSt (s : State) (o : Nat) (v : Word) : (s.setReg o v).nextSt = s.nextSt := rfl
@[simp] theorem State.setReg_tlb (s : State) (o : Nat) (v : Word) : (s.setReg o v).tlb = s.tlb := rfl
@[simp] theorem State.setReg_inval (s : State) (o : Nat) (v : Word) : (s.setReg o v).inval = s.inval := rfl
@[simp] theorem State.setReg_invalFills (s : State) (o : Nat) (v : Word) : (s.setReg o v).invalFills = s.invalFills := rfl
@[simp] theorem State.setReg_feq (s : State) (o : Nat) (v : Word) : (s.setReg o v).feq = s.feq := rfl
@[simp] theorem State.setReg_ctxs (s : State) (o : Nat) (v : Word) : (s.setReg o v).ctxs = s.ctxs := rfl
@[simp] theorem State.setReg_sites (s : State) (o : Nat) (v : Word) : (s.setReg o v).sites = s.sites := rfl
@[simp] theorem State.setReg_fields (s : State) (o : Nat) (v : Word) : (s.setReg o v).fields = s.fields := rfl
@[simp] theorem State.setReg_ref (s : State) (o : Nat) (v : Word) : (s.setReg o v).ref = s.ref := rfl
@[simp] theorem State.setReg_stamps (s : State) (o : Nat) (v : Word) : (s.setReg o v).stamps = s.stamps := rfl
@[simp] theorem State.setReg_insts (s : State) (o : Nat) (v : Word) : (s.setReg o v).insts = s.insts := rfl
@[simp] theorem State.setReg_streams (s : State) (o : Nat) (v : Word) : (s.setReg o v).streams = s.streams := rfl
@[simp] theorem State.setReg_slices (s : State) (o : Nat) (v : Word) : (s.setReg o v).slices = s.slices := rfl
@[simp] theorem State.setReg_groups (s : State) (o : Nat) (v : Word) : (s.setReg o v).groups = s.groups := rfl
@[simp] theorem State.setReg_land (s : State) (o : Nat) (v : Word) : (s.setReg o v).land = s.land := rfl
@[simp] theorem State.setReg_flushes (s : State) (o : Nat) (v : Word) : (s.setReg o v).flushes = s.flushes := rfl
@[simp] theorem State.setReg_tokmsgs (s : State) (o : Nat) (v : Word) : (s.setReg o v).tokmsgs = s.tokmsgs := rfl
@[simp] theorem State.setReg_signals (s : State) (o : Nat) (v : Word) : (s.setReg o v).signals = s.signals := rfl
@[simp] theorem State.setReg_outmsgs (s : State) (o : Nat) (v : Word) : (s.setReg o v).outmsgs = s.outmsgs := rfl
@[simp] theorem State.setReg_seen (s : State) (o : Nat) (v : Word) : (s.setReg o v).seen = s.seen := rfl
@[simp] theorem State.setReg_retire (s : State) (o : Nat) (v : Word) : (s.setReg o v).retire = s.retire := rfl
@[simp] theorem State.setReg_rtu (s : State) (o : Nat) (v : Word) : (s.setReg o v).rtu = s.rtu := rfl
@[simp] theorem State.setReg_mgmt (s : State) (o : Nat) (v : Word) : (s.setReg o v).mgmt = s.mgmt := rfl
@[simp] theorem State.setReg_keytab (s : State) (o : Nat) (v : Word) : (s.setReg o v).keytab = s.keytab := rfl
@[simp] theorem State.setReg_owners (s : State) (o : Nat) (v : Word) : (s.setReg o v).owners = s.owners := rfl
@[simp] theorem State.setReg_boot (s : State) (o : Nat) (v : Word) : (s.setReg o v).boot = s.boot := rfl
@[simp] theorem State.setReg_silent (s : State) (o : Nat) (v : Word) : (s.setReg o v).silent = s.silent := rfl
@[simp] theorem State.setReg_spare (s : State) (o : Nat) (v : Word) : (s.setReg o v).spare = s.spare := rfl
@[simp] theorem State.setReg_clock (s : State) (o : Nat) (v : Word) : (s.setReg o v).clock = s.clock := rfl
@[simp] theorem State.setReg_cmd (s : State) (o : Nat) (v : Word) : (s.setReg o v).cmd = s.cmd := rfl
@[simp] theorem State.setReg_pe (s : State) (o : Nat) (v : Word) : (s.setReg o v).pe = s.pe := rfl

/-! ### State.setCtx -/

@[simp] theorem State.setCtx_th (s : State) (c : Fin 16) (x : Ctx) : (s.setCtx c x).th = s.th := rfl
@[simp] theorem State.setCtx_rest (s : State) (c : Fin 16) (x : Ctx) : (s.setCtx c x).rest = s.rest := rfl
@[simp] theorem State.setCtx_inputs (s : State) (c : Fin 16) (x : Ctx) : (s.setCtx c x).inputs = s.inputs := rfl
@[simp] theorem State.setCtx_mem (s : State) (c : Fin 16) (x : Ctx) : (s.setCtx c x).mem = s.mem := rfl
@[simp] theorem State.setCtx_peers (s : State) (c : Fin 16) (x : Ctx) : (s.setCtx c x).peers = s.peers := rfl
@[simp] theorem State.setCtx_regs (s : State) (c : Fin 16) (x : Ctx) : (s.setCtx c x).regs = s.regs := rfl
@[simp] theorem State.setCtx_vers (s : State) (c : Fin 16) (x : Ctx) : (s.setCtx c x).vers = s.vers := rfl
@[simp] theorem State.setCtx_llc (s : State) (c : Fin 16) (x : Ctx) : (s.setCtx c x).llc = s.llc := rfl
@[simp] theorem State.setCtx_cache (s : State) (c : Fin 16) (x : Ctx) : (s.setCtx c x).cache = s.cache := rfl
@[simp] theorem State.setCtx_sbuf (s : State) (c : Fin 16) (x : Ctx) : (s.setCtx c x).sbuf = s.sbuf := rfl
@[simp] theorem State.setCtx_nextSt (s : State) (c : Fin 16) (x : Ctx) : (s.setCtx c x).nextSt = s.nextSt := rfl
@[simp] theorem State.setCtx_tlb (s : State) (c : Fin 16) (x : Ctx) : (s.setCtx c x).tlb = s.tlb := rfl
@[simp] theorem State.setCtx_inval (s : State) (c : Fin 16) (x : Ctx) : (s.setCtx c x).inval = s.inval := rfl
@[simp] theorem State.setCtx_invalFills (s : State) (c : Fin 16) (x : Ctx) : (s.setCtx c x).invalFills = s.invalFills := rfl
@[simp] theorem State.setCtx_feq (s : State) (c : Fin 16) (x : Ctx) : (s.setCtx c x).feq = s.feq := rfl
@[simp] theorem State.setCtx_sites (s : State) (c : Fin 16) (x : Ctx) : (s.setCtx c x).sites = s.sites := rfl
@[simp] theorem State.setCtx_fields (s : State) (c : Fin 16) (x : Ctx) : (s.setCtx c x).fields = s.fields := rfl
@[simp] theorem State.setCtx_ref (s : State) (c : Fin 16) (x : Ctx) : (s.setCtx c x).ref = s.ref := rfl
@[simp] theorem State.setCtx_stamps (s : State) (c : Fin 16) (x : Ctx) : (s.setCtx c x).stamps = s.stamps := rfl
@[simp] theorem State.setCtx_insts (s : State) (c : Fin 16) (x : Ctx) : (s.setCtx c x).insts = s.insts := rfl
@[simp] theorem State.setCtx_streams (s : State) (c : Fin 16) (x : Ctx) : (s.setCtx c x).streams = s.streams := rfl
@[simp] theorem State.setCtx_slices (s : State) (c : Fin 16) (x : Ctx) : (s.setCtx c x).slices = s.slices := rfl
@[simp] theorem State.setCtx_groups (s : State) (c : Fin 16) (x : Ctx) : (s.setCtx c x).groups = s.groups := rfl
@[simp] theorem State.setCtx_land (s : State) (c : Fin 16) (x : Ctx) : (s.setCtx c x).land = s.land := rfl
@[simp] theorem State.setCtx_flushes (s : State) (c : Fin 16) (x : Ctx) : (s.setCtx c x).flushes = s.flushes := rfl
@[simp] theorem State.setCtx_tokmsgs (s : State) (c : Fin 16) (x : Ctx) : (s.setCtx c x).tokmsgs = s.tokmsgs := rfl
@[simp] theorem State.setCtx_signals (s : State) (c : Fin 16) (x : Ctx) : (s.setCtx c x).signals = s.signals := rfl
@[simp] theorem State.setCtx_outmsgs (s : State) (c : Fin 16) (x : Ctx) : (s.setCtx c x).outmsgs = s.outmsgs := rfl
@[simp] theorem State.setCtx_seen (s : State) (c : Fin 16) (x : Ctx) : (s.setCtx c x).seen = s.seen := rfl
@[simp] theorem State.setCtx_retire (s : State) (c : Fin 16) (x : Ctx) : (s.setCtx c x).retire = s.retire := rfl
@[simp] theorem State.setCtx_rtu (s : State) (c : Fin 16) (x : Ctx) : (s.setCtx c x).rtu = s.rtu := rfl
@[simp] theorem State.setCtx_mgmt (s : State) (c : Fin 16) (x : Ctx) : (s.setCtx c x).mgmt = s.mgmt := rfl
@[simp] theorem State.setCtx_keytab (s : State) (c : Fin 16) (x : Ctx) : (s.setCtx c x).keytab = s.keytab := rfl
@[simp] theorem State.setCtx_owners (s : State) (c : Fin 16) (x : Ctx) : (s.setCtx c x).owners = s.owners := rfl
@[simp] theorem State.setCtx_boot (s : State) (c : Fin 16) (x : Ctx) : (s.setCtx c x).boot = s.boot := rfl
@[simp] theorem State.setCtx_silent (s : State) (c : Fin 16) (x : Ctx) : (s.setCtx c x).silent = s.silent := rfl
@[simp] theorem State.setCtx_spare (s : State) (c : Fin 16) (x : Ctx) : (s.setCtx c x).spare = s.spare := rfl
@[simp] theorem State.setCtx_clock (s : State) (c : Fin 16) (x : Ctx) : (s.setCtx c x).clock = s.clock := rfl
@[simp] theorem State.setCtx_cmd (s : State) (c : Fin 16) (x : Ctx) : (s.setCtx c x).cmd = s.cmd := rfl
@[simp] theorem State.setCtx_pe (s : State) (c : Fin 16) (x : Ctx) : (s.setCtx c x).pe = s.pe := rfl

/-! ### State.setSite -/

@[simp] theorem State.setSite_th (s : State) (n : Nat) (x : Site) : (s.setSite n x).th = s.th := rfl
@[simp] theorem State.setSite_rest (s : State) (n : Nat) (x : Site) : (s.setSite n x).rest = s.rest := rfl
@[simp] theorem State.setSite_inputs (s : State) (n : Nat) (x : Site) : (s.setSite n x).inputs = s.inputs := rfl
@[simp] theorem State.setSite_mem (s : State) (n : Nat) (x : Site) : (s.setSite n x).mem = s.mem := rfl
@[simp] theorem State.setSite_peers (s : State) (n : Nat) (x : Site) : (s.setSite n x).peers = s.peers := rfl
@[simp] theorem State.setSite_regs (s : State) (n : Nat) (x : Site) : (s.setSite n x).regs = s.regs := rfl
@[simp] theorem State.setSite_vers (s : State) (n : Nat) (x : Site) : (s.setSite n x).vers = s.vers := rfl
@[simp] theorem State.setSite_llc (s : State) (n : Nat) (x : Site) : (s.setSite n x).llc = s.llc := rfl
@[simp] theorem State.setSite_cache (s : State) (n : Nat) (x : Site) : (s.setSite n x).cache = s.cache := rfl
@[simp] theorem State.setSite_sbuf (s : State) (n : Nat) (x : Site) : (s.setSite n x).sbuf = s.sbuf := rfl
@[simp] theorem State.setSite_nextSt (s : State) (n : Nat) (x : Site) : (s.setSite n x).nextSt = s.nextSt := rfl
@[simp] theorem State.setSite_tlb (s : State) (n : Nat) (x : Site) : (s.setSite n x).tlb = s.tlb := rfl
@[simp] theorem State.setSite_inval (s : State) (n : Nat) (x : Site) : (s.setSite n x).inval = s.inval := rfl
@[simp] theorem State.setSite_invalFills (s : State) (n : Nat) (x : Site) : (s.setSite n x).invalFills = s.invalFills := rfl
@[simp] theorem State.setSite_feq (s : State) (n : Nat) (x : Site) : (s.setSite n x).feq = s.feq := rfl
@[simp] theorem State.setSite_ctxs (s : State) (n : Nat) (x : Site) : (s.setSite n x).ctxs = s.ctxs := rfl
@[simp] theorem State.setSite_fields (s : State) (n : Nat) (x : Site) : (s.setSite n x).fields = s.fields := rfl
@[simp] theorem State.setSite_ref (s : State) (n : Nat) (x : Site) : (s.setSite n x).ref = s.ref := rfl
@[simp] theorem State.setSite_stamps (s : State) (n : Nat) (x : Site) : (s.setSite n x).stamps = s.stamps := rfl
@[simp] theorem State.setSite_insts (s : State) (n : Nat) (x : Site) : (s.setSite n x).insts = s.insts := rfl
@[simp] theorem State.setSite_streams (s : State) (n : Nat) (x : Site) : (s.setSite n x).streams = s.streams := rfl
@[simp] theorem State.setSite_slices (s : State) (n : Nat) (x : Site) : (s.setSite n x).slices = s.slices := rfl
@[simp] theorem State.setSite_groups (s : State) (n : Nat) (x : Site) : (s.setSite n x).groups = s.groups := rfl
@[simp] theorem State.setSite_land (s : State) (n : Nat) (x : Site) : (s.setSite n x).land = s.land := rfl
@[simp] theorem State.setSite_flushes (s : State) (n : Nat) (x : Site) : (s.setSite n x).flushes = s.flushes := rfl
@[simp] theorem State.setSite_tokmsgs (s : State) (n : Nat) (x : Site) : (s.setSite n x).tokmsgs = s.tokmsgs := rfl
@[simp] theorem State.setSite_signals (s : State) (n : Nat) (x : Site) : (s.setSite n x).signals = s.signals := rfl
@[simp] theorem State.setSite_outmsgs (s : State) (n : Nat) (x : Site) : (s.setSite n x).outmsgs = s.outmsgs := rfl
@[simp] theorem State.setSite_seen (s : State) (n : Nat) (x : Site) : (s.setSite n x).seen = s.seen := rfl
@[simp] theorem State.setSite_retire (s : State) (n : Nat) (x : Site) : (s.setSite n x).retire = s.retire := rfl
@[simp] theorem State.setSite_rtu (s : State) (n : Nat) (x : Site) : (s.setSite n x).rtu = s.rtu := rfl
@[simp] theorem State.setSite_mgmt (s : State) (n : Nat) (x : Site) : (s.setSite n x).mgmt = s.mgmt := rfl
@[simp] theorem State.setSite_keytab (s : State) (n : Nat) (x : Site) : (s.setSite n x).keytab = s.keytab := rfl
@[simp] theorem State.setSite_owners (s : State) (n : Nat) (x : Site) : (s.setSite n x).owners = s.owners := rfl
@[simp] theorem State.setSite_boot (s : State) (n : Nat) (x : Site) : (s.setSite n x).boot = s.boot := rfl
@[simp] theorem State.setSite_silent (s : State) (n : Nat) (x : Site) : (s.setSite n x).silent = s.silent := rfl
@[simp] theorem State.setSite_spare (s : State) (n : Nat) (x : Site) : (s.setSite n x).spare = s.spare := rfl
@[simp] theorem State.setSite_clock (s : State) (n : Nat) (x : Site) : (s.setSite n x).clock = s.clock := rfl
@[simp] theorem State.setSite_cmd (s : State) (n : Nat) (x : Site) : (s.setSite n x).cmd = s.cmd := rfl
@[simp] theorem State.setSite_pe (s : State) (n : Nat) (x : Site) : (s.setSite n x).pe = s.pe := rfl

/-! ### The current thread after an update -/

@[simp] theorem State.setTh_th (s : State) (t : Thread) : (s.setTh t).th = t := rfl
@[simp] theorem State.setG_th (s : State) (r : Reg) (v : Word) : (s.setG r v).th = s.th.setG r v := rfl
@[simp] theorem State.setF_th (s : State) (r : Reg) (v : Word) : (s.setF r v).th = s.th.setF r v := rfl
@[simp] theorem State.goto_th_place (s : State) (a : Addr) : (s.goto a).th.place = s.th.place := rfl
@[simp] theorem State.goto_th_st (s : State) (a : Addr) : (s.goto a).th.st = s.th.st := rfl
@[simp] theorem State.goto_th_ctx (s : State) (a : Addr) : (s.goto a).th.ctx = s.th.ctx := rfl
@[simp] theorem State.goto_th_tid (s : State) (a : Addr) : (s.goto a).th.tid = s.th.tid := rfl
@[simp] theorem State.goto_th_g (s : State) (a : Addr) : (s.goto a).th.g = s.th.g := rfl
@[simp] theorem State.goto_th_f (s : State) (a : Addr) : (s.goto a).th.f = s.th.f := rfl
@[simp] theorem State.goto_th_pc (s : State) (a : Addr) : (s.goto a).th.pc = a := rfl
@[simp] theorem State.goto_th_tmode (s : State) (a : Addr) : (s.goto a).th.tmode = s.th.tmode := rfl
@[simp] theorem State.goto_th_tflags (s : State) (a : Addr) : (s.goto a).th.tflags = s.th.tflags := rfl
@[simp] theorem State.goto_th_thyp (s : State) (a : Addr) : (s.goto a).th.thyp = s.th.thyp := rfl
@[simp] theorem State.goto_th_twa (s : State) (a : Addr) : (s.goto a).th.twa = s.th.twa := rfl
@[simp] theorem State.goto_th_twc (s : State) (a : Addr) : (s.goto a).th.twc = s.th.twc := rfl
@[simp] theorem State.goto_th_floor (s : State) (a : Addr) : (s.goto a).th.floor = s.th.floor := rfl
@[simp] theorem State.goto_th_aph (s : State) (a : Addr) : (s.goto a).th.aph = s.th.aph := rfl
@[simp] theorem State.goto_th_av (s : State) (a : Addr) : (s.goto a).th.av = s.th.av := rfl
@[simp] theorem State.goto_th_mov (s : State) (a : Addr) : (s.goto a).th.mov = s.th.mov := rfl
@[simp] theorem State.goto_th_sigs (s : State) (a : Addr) : (s.goto a).th.sigs = s.th.sigs := rfl
@[simp] theorem State.goto_th_prio (s : State) (a : Addr) : (s.goto a).th.prio = s.th.prio := rfl
@[simp] theorem State.goto_th_intrap (s : State) (a : Addr) : (s.goto a).th.intrap = s.th.intrap := rfl
@[simp] theorem State.goto_th_sup (s : State) (a : Addr) : (s.goto a).th.sup = s.th.sup := rfl
@[simp] theorem State.goto_th_sv (s : State) (a : Addr) : (s.goto a).th.sv = s.th.sv := rfl
@[simp] theorem State.goto_th_wait (s : State) (a : Addr) : (s.goto a).th.wait = s.th.wait := rfl
@[simp] theorem State.goto_th_pass (s : State) (a : Addr) : (s.goto a).th.pass = false := rfl
@[simp] theorem State.goto_th_mid (s : State) (a : Addr) : (s.goto a).th.mid = false := rfl
@[simp] theorem State.goto_th_held (s : State) (a : Addr) : (s.goto a).th.held = s.th.held := rfl
@[simp] theorem State.goto_th_watches (s : State) (a : Addr) : (s.goto a).th.watches = s.th.watches := rfl
@[simp] theorem State.goto_th_origin (s : State) (a : Addr) : (s.goto a).th.origin = s.th.origin := rfl
@[simp] theorem State.goto_th_save (s : State) (a : Addr) : (s.goto a).th.save = s.th.save := rfl
@[simp] theorem State.goto_th_old (s : State) (a : Addr) : (s.goto a).th.old = s.th.old := rfl
@[simp] theorem State.goto_th_landed (s : State) (a : Addr) : (s.goto a).th.landed = s.th.landed := rfl
@[simp] theorem State.goto_th_ready (s : State) (a : Addr) : (s.goto a).th.ready = s.th.ready := rfl
@[simp] theorem State.goto_th_tseq (s : State) (a : Addr) : (s.goto a).th.tseq = s.th.tseq := rfl
@[simp] theorem State.goto_th_fwd (s : State) (a : Addr) : (s.goto a).th.fwd = s.th.fwd := rfl
@[simp] theorem State.goto_th_halted (s : State) (a : Addr) : (s.goto a).th.halted = s.th.halted := rfl
@[simp] theorem State.advance_th_place (s : State) : (s.advance).th.place = s.th.place := rfl
@[simp] theorem State.advance_th_st (s : State) : (s.advance).th.st = s.th.st := rfl
@[simp] theorem State.advance_th_ctx (s : State) : (s.advance).th.ctx = s.th.ctx := rfl
@[simp] theorem State.advance_th_tid (s : State) : (s.advance).th.tid = s.th.tid := rfl
@[simp] theorem State.advance_th_g (s : State) : (s.advance).th.g = s.th.g := rfl
@[simp] theorem State.advance_th_f (s : State) : (s.advance).th.f = s.th.f := rfl
@[simp] theorem State.advance_th_pc (s : State) : (s.advance).th.pc = s.th.pc + 4 := rfl
@[simp] theorem State.advance_th_tmode (s : State) : (s.advance).th.tmode = s.th.tmode := rfl
@[simp] theorem State.advance_th_tflags (s : State) : (s.advance).th.tflags = s.th.tflags := rfl
@[simp] theorem State.advance_th_thyp (s : State) : (s.advance).th.thyp = s.th.thyp := rfl
@[simp] theorem State.advance_th_twa (s : State) : (s.advance).th.twa = s.th.twa := rfl
@[simp] theorem State.advance_th_twc (s : State) : (s.advance).th.twc = s.th.twc := rfl
@[simp] theorem State.advance_th_floor (s : State) : (s.advance).th.floor = s.th.floor := rfl
@[simp] theorem State.advance_th_aph (s : State) : (s.advance).th.aph = s.th.aph := rfl
@[simp] theorem State.advance_th_av (s : State) : (s.advance).th.av = s.th.av := rfl
@[simp] theorem State.advance_th_mov (s : State) : (s.advance).th.mov = s.th.mov := rfl
@[simp] theorem State.advance_th_sigs (s : State) : (s.advance).th.sigs = s.th.sigs := rfl
@[simp] theorem State.advance_th_prio (s : State) : (s.advance).th.prio = s.th.prio := rfl
@[simp] theorem State.advance_th_intrap (s : State) : (s.advance).th.intrap = s.th.intrap := rfl
@[simp] theorem State.advance_th_sup (s : State) : (s.advance).th.sup = s.th.sup := rfl
@[simp] theorem State.advance_th_sv (s : State) : (s.advance).th.sv = s.th.sv := rfl
@[simp] theorem State.advance_th_wait (s : State) : (s.advance).th.wait = s.th.wait := rfl
@[simp] theorem State.advance_th_pass (s : State) : (s.advance).th.pass = false := rfl
@[simp] theorem State.advance_th_mid (s : State) : (s.advance).th.mid = false := rfl
@[simp] theorem State.advance_th_held (s : State) : (s.advance).th.held = s.th.held := rfl
@[simp] theorem State.advance_th_watches (s : State) : (s.advance).th.watches = s.th.watches := rfl
@[simp] theorem State.advance_th_origin (s : State) : (s.advance).th.origin = s.th.origin := rfl
@[simp] theorem State.advance_th_save (s : State) : (s.advance).th.save = s.th.save := rfl
@[simp] theorem State.advance_th_old (s : State) : (s.advance).th.old = s.th.old := rfl
@[simp] theorem State.advance_th_landed (s : State) : (s.advance).th.landed = s.th.landed := rfl
@[simp] theorem State.advance_th_ready (s : State) : (s.advance).th.ready = s.th.ready := rfl
@[simp] theorem State.advance_th_tseq (s : State) : (s.advance).th.tseq = s.th.tseq := rfl
@[simp] theorem State.advance_th_fwd (s : State) : (s.advance).th.fwd = s.th.fwd := rfl
@[simp] theorem State.advance_th_halted (s : State) : (s.advance).th.halted = s.th.halted := rfl
@[simp] theorem State.block_th_place (s : State) (w : Wait) : (s.block w).th.place = s.th.place := rfl
@[simp] theorem State.block_th_st (s : State) (w : Wait) : (s.block w).th.st = .wait := rfl
@[simp] theorem State.block_th_ctx (s : State) (w : Wait) : (s.block w).th.ctx = s.th.ctx := rfl
@[simp] theorem State.block_th_tid (s : State) (w : Wait) : (s.block w).th.tid = s.th.tid := rfl
@[simp] theorem State.block_th_g (s : State) (w : Wait) : (s.block w).th.g = s.th.g := rfl
@[simp] theorem State.block_th_f (s : State) (w : Wait) : (s.block w).th.f = s.th.f := rfl
@[simp] theorem State.block_th_pc (s : State) (w : Wait) : (s.block w).th.pc = s.th.pc := rfl
@[simp] theorem State.block_th_tmode (s : State) (w : Wait) : (s.block w).th.tmode = s.th.tmode := rfl
@[simp] theorem State.block_th_tflags (s : State) (w : Wait) : (s.block w).th.tflags = s.th.tflags := rfl
@[simp] theorem State.block_th_thyp (s : State) (w : Wait) : (s.block w).th.thyp = s.th.thyp := rfl
@[simp] theorem State.block_th_twa (s : State) (w : Wait) : (s.block w).th.twa = s.th.twa := rfl
@[simp] theorem State.block_th_twc (s : State) (w : Wait) : (s.block w).th.twc = s.th.twc := rfl
@[simp] theorem State.block_th_floor (s : State) (w : Wait) : (s.block w).th.floor = s.th.floor := rfl
@[simp] theorem State.block_th_aph (s : State) (w : Wait) : (s.block w).th.aph = s.th.aph := rfl
@[simp] theorem State.block_th_av (s : State) (w : Wait) : (s.block w).th.av = s.th.av := rfl
@[simp] theorem State.block_th_mov (s : State) (w : Wait) : (s.block w).th.mov = s.th.mov := rfl
@[simp] theorem State.block_th_sigs (s : State) (w : Wait) : (s.block w).th.sigs = s.th.sigs := rfl
@[simp] theorem State.block_th_prio (s : State) (w : Wait) : (s.block w).th.prio = s.th.prio := rfl
@[simp] theorem State.block_th_intrap (s : State) (w : Wait) : (s.block w).th.intrap = s.th.intrap := rfl
@[simp] theorem State.block_th_sup (s : State) (w : Wait) : (s.block w).th.sup = s.th.sup := rfl
@[simp] theorem State.block_th_sv (s : State) (w : Wait) : (s.block w).th.sv = s.th.sv := rfl
@[simp] theorem State.block_th_wait (s : State) (w : Wait) : (s.block w).th.wait = w := rfl
@[simp] theorem State.block_th_pass (s : State) (w : Wait) : (s.block w).th.pass = s.th.pass := rfl
@[simp] theorem State.block_th_mid (s : State) (w : Wait) : (s.block w).th.mid = true := rfl
@[simp] theorem State.block_th_held (s : State) (w : Wait) : (s.block w).th.held = s.th.held := rfl
@[simp] theorem State.block_th_watches (s : State) (w : Wait) : (s.block w).th.watches = s.th.watches := rfl
@[simp] theorem State.block_th_origin (s : State) (w : Wait) : (s.block w).th.origin = s.th.origin := rfl
@[simp] theorem State.block_th_save (s : State) (w : Wait) : (s.block w).th.save = s.th.save := rfl
@[simp] theorem State.block_th_old (s : State) (w : Wait) : (s.block w).th.old = s.th.old := rfl
@[simp] theorem State.block_th_landed (s : State) (w : Wait) : (s.block w).th.landed = s.th.landed := rfl
@[simp] theorem State.block_th_ready (s : State) (w : Wait) : (s.block w).th.ready = s.th.ready := rfl
@[simp] theorem State.block_th_tseq (s : State) (w : Wait) : (s.block w).th.tseq = s.th.tseq := rfl
@[simp] theorem State.block_th_fwd (s : State) (w : Wait) : (s.block w).th.fwd = s.th.fwd := rfl
@[simp] theorem State.block_th_halted (s : State) (w : Wait) : (s.block w).th.halted = s.th.halted := rfl
@[simp] theorem State.pause_th_place (s : State) (n : Nat) : (s.pause n).th.place = s.th.place := rfl
@[simp] theorem State.pause_th_st (s : State) (n : Nat) : (s.pause n).th.st = .wait := rfl
@[simp] theorem State.pause_th_ctx (s : State) (n : Nat) : (s.pause n).th.ctx = s.th.ctx := rfl
@[simp] theorem State.pause_th_tid (s : State) (n : Nat) : (s.pause n).th.tid = s.th.tid := rfl
@[simp] theorem State.pause_th_g (s : State) (n : Nat) : (s.pause n).th.g = s.th.g := rfl
@[simp] theorem State.pause_th_f (s : State) (n : Nat) : (s.pause n).th.f = s.th.f := rfl
@[simp] theorem State.pause_th_pc (s : State) (n : Nat) : (s.pause n).th.pc = s.th.pc := rfl
@[simp] theorem State.pause_th_tmode (s : State) (n : Nat) : (s.pause n).th.tmode = s.th.tmode := rfl
@[simp] theorem State.pause_th_tflags (s : State) (n : Nat) : (s.pause n).th.tflags = s.th.tflags := rfl
@[simp] theorem State.pause_th_thyp (s : State) (n : Nat) : (s.pause n).th.thyp = s.th.thyp := rfl
@[simp] theorem State.pause_th_twa (s : State) (n : Nat) : (s.pause n).th.twa = s.th.twa := rfl
@[simp] theorem State.pause_th_twc (s : State) (n : Nat) : (s.pause n).th.twc = s.th.twc := rfl
@[simp] theorem State.pause_th_floor (s : State) (n : Nat) : (s.pause n).th.floor = s.th.floor := rfl
@[simp] theorem State.pause_th_aph (s : State) (n : Nat) : (s.pause n).th.aph = s.th.aph := rfl
@[simp] theorem State.pause_th_av (s : State) (n : Nat) : (s.pause n).th.av = s.th.av := rfl
@[simp] theorem State.pause_th_mov (s : State) (n : Nat) : (s.pause n).th.mov = s.th.mov := rfl
@[simp] theorem State.pause_th_sigs (s : State) (n : Nat) : (s.pause n).th.sigs = s.th.sigs := rfl
@[simp] theorem State.pause_th_prio (s : State) (n : Nat) : (s.pause n).th.prio = s.th.prio := rfl
@[simp] theorem State.pause_th_intrap (s : State) (n : Nat) : (s.pause n).th.intrap = s.th.intrap := rfl
@[simp] theorem State.pause_th_sup (s : State) (n : Nat) : (s.pause n).th.sup = s.th.sup := rfl
@[simp] theorem State.pause_th_sv (s : State) (n : Nat) : (s.pause n).th.sv = s.th.sv := rfl
@[simp] theorem State.pause_th_wait (s : State) (n : Nat) : (s.pause n).th.wait = .turns n := rfl
@[simp] theorem State.pause_th_pass (s : State) (n : Nat) : (s.pause n).th.pass = s.th.pass := rfl
@[simp] theorem State.pause_th_mid (s : State) (n : Nat) : (s.pause n).th.mid = s.th.mid := rfl
@[simp] theorem State.pause_th_held (s : State) (n : Nat) : (s.pause n).th.held = s.th.held := rfl
@[simp] theorem State.pause_th_watches (s : State) (n : Nat) : (s.pause n).th.watches = s.th.watches := rfl
@[simp] theorem State.pause_th_origin (s : State) (n : Nat) : (s.pause n).th.origin = s.th.origin := rfl
@[simp] theorem State.pause_th_save (s : State) (n : Nat) : (s.pause n).th.save = s.th.save := rfl
@[simp] theorem State.pause_th_old (s : State) (n : Nat) : (s.pause n).th.old = s.th.old := rfl
@[simp] theorem State.pause_th_landed (s : State) (n : Nat) : (s.pause n).th.landed = s.th.landed := rfl
@[simp] theorem State.pause_th_ready (s : State) (n : Nat) : (s.pause n).th.ready = s.th.ready := rfl
@[simp] theorem State.pause_th_tseq (s : State) (n : Nat) : (s.pause n).th.tseq = s.th.tseq := rfl
@[simp] theorem State.pause_th_fwd (s : State) (n : Nat) : (s.pause n).th.fwd = s.th.fwd := rfl
@[simp] theorem State.pause_th_halted (s : State) (n : Nat) : (s.pause n).th.halted = s.th.halted := rfl

/-! ### Registers of a thread -/

@[simp] theorem Thread.setG_place (t : Thread) (r : Reg) (v : Word) : (t.setG r v).place = t.place := by
  unfold Thread.setG; split <;> rfl
@[simp] theorem Thread.setG_st (t : Thread) (r : Reg) (v : Word) : (t.setG r v).st = t.st := by
  unfold Thread.setG; split <;> rfl
@[simp] theorem Thread.setG_ctx (t : Thread) (r : Reg) (v : Word) : (t.setG r v).ctx = t.ctx := by
  unfold Thread.setG; split <;> rfl
@[simp] theorem Thread.setG_tid (t : Thread) (r : Reg) (v : Word) : (t.setG r v).tid = t.tid := by
  unfold Thread.setG; split <;> rfl
@[simp] theorem Thread.setG_f (t : Thread) (r : Reg) (v : Word) : (t.setG r v).f = t.f := by
  unfold Thread.setG; split <;> rfl
@[simp] theorem Thread.setG_pc (t : Thread) (r : Reg) (v : Word) : (t.setG r v).pc = t.pc := by
  unfold Thread.setG; split <;> rfl
@[simp] theorem Thread.setG_tmode (t : Thread) (r : Reg) (v : Word) : (t.setG r v).tmode = t.tmode := by
  unfold Thread.setG; split <;> rfl
@[simp] theorem Thread.setG_tflags (t : Thread) (r : Reg) (v : Word) : (t.setG r v).tflags = t.tflags := by
  unfold Thread.setG; split <;> rfl
@[simp] theorem Thread.setG_thyp (t : Thread) (r : Reg) (v : Word) : (t.setG r v).thyp = t.thyp := by
  unfold Thread.setG; split <;> rfl
@[simp] theorem Thread.setG_twa (t : Thread) (r : Reg) (v : Word) : (t.setG r v).twa = t.twa := by
  unfold Thread.setG; split <;> rfl
@[simp] theorem Thread.setG_twc (t : Thread) (r : Reg) (v : Word) : (t.setG r v).twc = t.twc := by
  unfold Thread.setG; split <;> rfl
@[simp] theorem Thread.setG_floor (t : Thread) (r : Reg) (v : Word) : (t.setG r v).floor = t.floor := by
  unfold Thread.setG; split <;> rfl
@[simp] theorem Thread.setG_aph (t : Thread) (r : Reg) (v : Word) : (t.setG r v).aph = t.aph := by
  unfold Thread.setG; split <;> rfl
@[simp] theorem Thread.setG_av (t : Thread) (r : Reg) (v : Word) : (t.setG r v).av = t.av := by
  unfold Thread.setG; split <;> rfl
@[simp] theorem Thread.setG_mov (t : Thread) (r : Reg) (v : Word) : (t.setG r v).mov = t.mov := by
  unfold Thread.setG; split <;> rfl
@[simp] theorem Thread.setG_sigs (t : Thread) (r : Reg) (v : Word) : (t.setG r v).sigs = t.sigs := by
  unfold Thread.setG; split <;> rfl
@[simp] theorem Thread.setG_prio (t : Thread) (r : Reg) (v : Word) : (t.setG r v).prio = t.prio := by
  unfold Thread.setG; split <;> rfl
@[simp] theorem Thread.setG_intrap (t : Thread) (r : Reg) (v : Word) : (t.setG r v).intrap = t.intrap := by
  unfold Thread.setG; split <;> rfl
@[simp] theorem Thread.setG_sup (t : Thread) (r : Reg) (v : Word) : (t.setG r v).sup = t.sup := by
  unfold Thread.setG; split <;> rfl
@[simp] theorem Thread.setG_sv (t : Thread) (r : Reg) (v : Word) : (t.setG r v).sv = t.sv := by
  unfold Thread.setG; split <;> rfl
@[simp] theorem Thread.setG_wait (t : Thread) (r : Reg) (v : Word) : (t.setG r v).wait = t.wait := by
  unfold Thread.setG; split <;> rfl
@[simp] theorem Thread.setG_pass (t : Thread) (r : Reg) (v : Word) : (t.setG r v).pass = t.pass := by
  unfold Thread.setG; split <;> rfl
@[simp] theorem Thread.setG_mid (t : Thread) (r : Reg) (v : Word) : (t.setG r v).mid = t.mid := by
  unfold Thread.setG; split <;> rfl
@[simp] theorem Thread.setG_held (t : Thread) (r : Reg) (v : Word) : (t.setG r v).held = t.held := by
  unfold Thread.setG; split <;> rfl
@[simp] theorem Thread.setG_watches (t : Thread) (r : Reg) (v : Word) : (t.setG r v).watches = t.watches := by
  unfold Thread.setG; split <;> rfl
@[simp] theorem Thread.setG_origin (t : Thread) (r : Reg) (v : Word) : (t.setG r v).origin = t.origin := by
  unfold Thread.setG; split <;> rfl
@[simp] theorem Thread.setG_save (t : Thread) (r : Reg) (v : Word) : (t.setG r v).save = t.save := by
  unfold Thread.setG; split <;> rfl
@[simp] theorem Thread.setG_old (t : Thread) (r : Reg) (v : Word) : (t.setG r v).old = t.old := by
  unfold Thread.setG; split <;> rfl
@[simp] theorem Thread.setG_landed (t : Thread) (r : Reg) (v : Word) : (t.setG r v).landed = t.landed := by
  unfold Thread.setG; split <;> rfl
@[simp] theorem Thread.setG_ready (t : Thread) (r : Reg) (v : Word) : (t.setG r v).ready = t.ready := by
  unfold Thread.setG; split <;> rfl
@[simp] theorem Thread.setG_tseq (t : Thread) (r : Reg) (v : Word) : (t.setG r v).tseq = t.tseq := by
  unfold Thread.setG; split <;> rfl
@[simp] theorem Thread.setG_fwd (t : Thread) (r : Reg) (v : Word) : (t.setG r v).fwd = t.fwd := by
  unfold Thread.setG; split <;> rfl
@[simp] theorem Thread.setG_halted (t : Thread) (r : Reg) (v : Word) : (t.setG r v).halted = t.halted := by
  unfold Thread.setG; split <;> rfl
@[simp] theorem Thread.setF_place (t : Thread) (r : Reg) (v : Word) : (t.setF r v).place = t.place := rfl
@[simp] theorem Thread.setF_st (t : Thread) (r : Reg) (v : Word) : (t.setF r v).st = t.st := rfl
@[simp] theorem Thread.setF_ctx (t : Thread) (r : Reg) (v : Word) : (t.setF r v).ctx = t.ctx := rfl
@[simp] theorem Thread.setF_tid (t : Thread) (r : Reg) (v : Word) : (t.setF r v).tid = t.tid := rfl
@[simp] theorem Thread.setF_g (t : Thread) (r : Reg) (v : Word) : (t.setF r v).g = t.g := rfl
@[simp] theorem Thread.setF_pc (t : Thread) (r : Reg) (v : Word) : (t.setF r v).pc = t.pc := rfl
@[simp] theorem Thread.setF_tmode (t : Thread) (r : Reg) (v : Word) : (t.setF r v).tmode = t.tmode := rfl
@[simp] theorem Thread.setF_tflags (t : Thread) (r : Reg) (v : Word) : (t.setF r v).tflags = t.tflags := rfl
@[simp] theorem Thread.setF_thyp (t : Thread) (r : Reg) (v : Word) : (t.setF r v).thyp = t.thyp := rfl
@[simp] theorem Thread.setF_twa (t : Thread) (r : Reg) (v : Word) : (t.setF r v).twa = t.twa := rfl
@[simp] theorem Thread.setF_twc (t : Thread) (r : Reg) (v : Word) : (t.setF r v).twc = t.twc := rfl
@[simp] theorem Thread.setF_floor (t : Thread) (r : Reg) (v : Word) : (t.setF r v).floor = t.floor := rfl
@[simp] theorem Thread.setF_aph (t : Thread) (r : Reg) (v : Word) : (t.setF r v).aph = t.aph := rfl
@[simp] theorem Thread.setF_av (t : Thread) (r : Reg) (v : Word) : (t.setF r v).av = t.av := rfl
@[simp] theorem Thread.setF_mov (t : Thread) (r : Reg) (v : Word) : (t.setF r v).mov = t.mov := rfl
@[simp] theorem Thread.setF_sigs (t : Thread) (r : Reg) (v : Word) : (t.setF r v).sigs = t.sigs := rfl
@[simp] theorem Thread.setF_prio (t : Thread) (r : Reg) (v : Word) : (t.setF r v).prio = t.prio := rfl
@[simp] theorem Thread.setF_intrap (t : Thread) (r : Reg) (v : Word) : (t.setF r v).intrap = t.intrap := rfl
@[simp] theorem Thread.setF_sup (t : Thread) (r : Reg) (v : Word) : (t.setF r v).sup = t.sup := rfl
@[simp] theorem Thread.setF_sv (t : Thread) (r : Reg) (v : Word) : (t.setF r v).sv = t.sv := rfl
@[simp] theorem Thread.setF_wait (t : Thread) (r : Reg) (v : Word) : (t.setF r v).wait = t.wait := rfl
@[simp] theorem Thread.setF_pass (t : Thread) (r : Reg) (v : Word) : (t.setF r v).pass = t.pass := rfl
@[simp] theorem Thread.setF_mid (t : Thread) (r : Reg) (v : Word) : (t.setF r v).mid = t.mid := rfl
@[simp] theorem Thread.setF_held (t : Thread) (r : Reg) (v : Word) : (t.setF r v).held = t.held := rfl
@[simp] theorem Thread.setF_watches (t : Thread) (r : Reg) (v : Word) : (t.setF r v).watches = t.watches := rfl
@[simp] theorem Thread.setF_origin (t : Thread) (r : Reg) (v : Word) : (t.setF r v).origin = t.origin := rfl
@[simp] theorem Thread.setF_save (t : Thread) (r : Reg) (v : Word) : (t.setF r v).save = t.save := rfl
@[simp] theorem Thread.setF_old (t : Thread) (r : Reg) (v : Word) : (t.setF r v).old = t.old := rfl
@[simp] theorem Thread.setF_landed (t : Thread) (r : Reg) (v : Word) : (t.setF r v).landed = t.landed := rfl
@[simp] theorem Thread.setF_ready (t : Thread) (r : Reg) (v : Word) : (t.setF r v).ready = t.ready := rfl
@[simp] theorem Thread.setF_tseq (t : Thread) (r : Reg) (v : Word) : (t.setF r v).tseq = t.tseq := rfl
@[simp] theorem Thread.setF_fwd (t : Thread) (r : Reg) (v : Word) : (t.setF r v).fwd = t.fwd := rfl
@[simp] theorem Thread.setF_halted (t : Thread) (r : Reg) (v : Word) : (t.setF r v).halted = t.halted := rfl

/-- g0 reads as zero (R36). -/
@[simp] theorem Thread.gr_zero (t : Thread) : t.gr 0 = 0 := rfl

/-- A write to g0 is discarded (R36). -/
@[simp] theorem Thread.setG_zero (t : Thread) (v : Word) : t.setG 0 v = t := rfl

/-- What a general register reads as after a write of one (R36). -/
theorem Thread.gr_setG (t : Thread) (r q : Reg) (v : Word) :
    (t.setG r v).gr q = if q = r ∧ q ≠ 0 then v else t.gr q := by
  unfold Thread.gr Thread.setG
  by_cases hq : q = 0
  · simp [hq]
  · by_cases hr : r = 0
    · subst hr; simp [hq]
    · by_cases h : q = r
      · subst h; simp [hq]
      · have : (r : Nat) ≠ q := fun e => h (Fin.ext e.symm)
        simp [hq, hr, h, this]

/-- What a floating-point register reads as after a write of one (R113). -/
theorem Thread.fr_setF (t : Thread) (r q : Reg) (v : Word) : (t.setF r v).fr q = if q = r then v else t.fr q := by
  unfold Thread.fr Thread.setF
  by_cases h : q = r
  · subst h; simp
  · have : (r : Nat) ≠ q := fun e => h (Fin.ext e.symm)
    simp [h, this]

@[simp] theorem Thread.fr_setG (t : Thread) (r q : Reg) (v : Word) : (t.setG r v).fr q = t.fr q := by
  unfold Thread.fr; simp

@[simp] theorem Thread.gr_setF (t : Thread) (r q : Reg) (v : Word) : (t.setF r v).gr q = t.gr q := rfl
@[simp] theorem State.gr_goto (s : State) (a : Addr) (r : Reg) : (s.goto a).gr r = s.gr r := rfl
@[simp] theorem State.fr_goto (s : State) (a : Addr) (r : Reg) : (s.goto a).fr r = s.fr r := rfl
@[simp] theorem State.gr_advance (s : State) (r : Reg) : s.advance.gr r = s.gr r := rfl
@[simp] theorem State.fr_advance (s : State) (r : Reg) : s.advance.fr r = s.fr r := rfl
@[simp] theorem State.gr_setF (s : State) (r q : Reg) (v : Word) : (s.setF r v).gr q = s.gr q := rfl
@[simp] theorem State.fr_setG (s : State) (r q : Reg) (v : Word) : (s.setG r v).fr q = s.fr q := by
  simp [State.fr]

/-- A general register of the state after a write of one. -/
theorem State.gr_setG (s : State) (r q : Reg) (v : Word) : (s.setG r v).gr q = if q = r ∧ q ≠ 0 then v else s.gr q :=
  s.th.gr_setG r q v

/-- A floating-point register of the state after a write of one. -/
theorem State.fr_setF (s : State) (r q : Reg) (v : Word) : (s.setF r v).fr q = if q = r then v else s.fr q :=
  s.th.fr_setF r q v

/-- A context after a write of one. -/
theorem State.ctx_setCtx (s : State) (c k : Fin 16) (x : Ctx) : (s.setCtx c x).ctx k = if k = c then x else s.ctx k := by
  unfold State.ctx State.setCtx
  by_cases h : k = c
  · subst h; simp
  · have : (c : Nat) ≠ k := fun e => h (Fin.ext e.symm)
    simp [h, this]

end Sys2Proof.Machine
end

