-- ==== Sys2Proof/Laws/Memory.lean ====
section
/-!
SUPPORT. Sys2Proof/Laws/Memory.lean: reading after writing in sparse tables and memories, and the canonical form that every
memory operation keeps.
-/
namespace Sys2Proof.Machine

/-! ### Sparse tables -/

/-- A table whose keys strictly rise and whose entries all satisfy `ok`. -/
abbrev Sparse.canon {α : Type} (ok : α → Prop) (t : Sparse α) : Prop :=
  (t.Pairwise fun a b => a.1 < b.1) ∧ ∀ e ∈ t, ok e.2

/-- The keys of a table after a write are the old ones and perhaps the one written. -/
theorem mem_tput {α : Type} {keep : Bool} {t : Sparse α} {k : Nat} {v : α} {e : Nat × α} (h : e ∈ tput keep t k v) :
    (e = (k, v) ∧ keep = true) ∨ e ∈ t := by
  induction t with
  | nil => cases keep <;> simp_all [tput]
  | cons a t ih =>
    obtain ⟨n, w⟩ := a
    simp only [tput] at h
    split at h
    · cases keep <;> simp_all
    · split at h
      · cases keep
        · exact .inr (List.mem_cons_of_mem _ (by simpa using h))
        · rcases List.mem_cons.mp (by simpa using h) with h | h
          · exact .inl ⟨h, rfl⟩
          · exact .inr (List.mem_cons_of_mem _ h)
      · rcases List.mem_cons.mp h with h | h
        · exact .inr (h ▸ List.mem_cons_self)
        · rcases ih h with h | h
          · exact .inl h
          · exact .inr (List.mem_cons_of_mem _ h)

/-- A write keeps the canonical form, where a value that is kept is one the table may list. -/
theorem canon_tput {α : Type} {ok : α → Prop} {t : Sparse α} (h : t.canon ok) (keep : Bool) (k : Nat) (v : α)
    (hv : keep = true → ok v) : (tput keep t k v).canon ok := by
  refine ⟨?_, fun e he => ?_⟩
  · have hs := h.1
    clear h
    induction t with
    | nil => cases keep <;> simp [tput]
    | cons a t ih =>
      obtain ⟨n, w⟩ := a
      obtain ⟨ha, ht⟩ := List.pairwise_cons.mp hs
      simp only [tput]
      split
      · cases keep
        · exact hs
        · refine List.pairwise_cons.mpr ⟨fun b hb => ?_, hs⟩
          rcases List.mem_cons.mp hb with rfl | hb
          · assumption
          · exact Nat.lt_trans ‹k < n› (ha b hb)
      · split
        · subst k
          cases keep
          · exact ht
          · exact List.pairwise_cons.mpr ⟨ha, ht⟩
        · refine List.pairwise_cons.mpr ⟨fun b hb => ?_, ih ht⟩
          rcases mem_tput hb with ⟨rfl, _⟩ | hb
          · exact Nat.lt_of_le_of_ne (Nat.le_of_not_lt ‹_›) fun e => ‹¬k = n› e.symm
          · exact ha b hb
  · rcases mem_tput he with ⟨rfl, hk⟩ | he
    · exact hv hk
    · exact h.2 e he

/-- Where every key is above `k`, the table lists nothing at `k`. -/
theorem tget_above {α : Type} (d : α) (t : Sparse α) (k : Nat) (h : ∀ e ∈ t, k < e.1) : tget d t k = d := by
  induction t with
  | nil => rfl
  | cons a t ih =>
    obtain ⟨n, w⟩ := a
    have hn : k < n := h (n, w) List.mem_cons_self
    simp only [tget]
    rw [if_neg (Nat.ne_of_lt hn)]
    exact ih fun e he => h e (List.mem_cons_of_mem _ he)

/-- Reading after a write: the value at the written key, else what stood there. -/
theorem tget_tput {α : Type} (d : α) (t : Sparse α) (keep : Bool) (k j : Nat) (v : α)
    (hs : t.Pairwise fun a b => a.1 < b.1) (hv : keep = false → v = d) :
    tget d (tput keep t k v) j = if j = k then v else tget d t j := by
  induction t with
  | nil =>
    cases keep
    · have := hv rfl; subst this; simp [tput, tget]
    · simp [tput, tget]
  | cons a t ih =>
    obtain ⟨n, w⟩ := a
    obtain ⟨ha, ht⟩ := List.pairwise_cons.mp hs
    simp only [tput]
    split
    · have hk : ∀ e ∈ ((n, w) :: t : Sparse α), k < e.1 := fun e he => by
        rcases List.mem_cons.mp he with rfl | he
        · assumption
        · exact Nat.lt_trans ‹k < n› (ha e he)
      cases keep
      · by_cases hj : j = k
        · subst hj
          simp only [Bool.false_eq_true, if_false, if_true]
          rw [tget_above d _ _ hk, hv rfl]
        · simp [hj]
      · simp only [if_true, tget]
    · split
      · subst k
        cases keep
        · by_cases hj : j = n
          · subst hj
            simp only [Bool.false_eq_true, if_false, if_true]
            rw [tget_above d _ _ ha, hv rfl]
          · simp [tget, hj]
        · by_cases hj : j = n <;> simp [tget, hj]
      · simp only [tget]
        rw [ih ht]
        by_cases hj : j = n
        · subst hj
          simp [Ne.symm ‹¬k = j›]
        · simp [hj]

/-! ### Memory (R147, R157, R159, R162) -/

theorem Mem.wf_cleared : Mem.cleared.wf := by simp [Mem.wf, Mem.cleared]

theorem Mem.wf_setByte {m : Mem} (h : m.wf) (a : Nat) (b : Byte) : (m.setByte a b).wf := by
  obtain ⟨h1, h2, h3⟩ := h
  obtain ⟨k1, k2⟩ := canon_tput (ok := fun x : Byte => x ≠ 0) ⟨h1, h2⟩ (b != 0) a b (by simp)
  exact ⟨k1, k2, h3⟩

theorem Mem.wf_setTag {m : Mem} (h : m.wf) (a : Nat) (t : BitVec 4) : (m.setTag a t).wf := by
  obtain ⟨h1, h2, h3, h4, h5⟩ := h
  obtain ⟨k1, k2⟩ := canon_tput (ok := fun x : BitVec 4 => x ≠ 0) ⟨h3, h4⟩ (t != 0) (a / 16) t (by simp)
  exact ⟨h1, h2, k1, k2, h5⟩

theorem Mem.wf_setFull {m : Mem} (h : m.wf) (a : Nat) (b : Bool) : (m.setFull a b).wf := by
  obtain ⟨h1, h2, h3, h4, h5, h6, h7⟩ := h
  obtain ⟨k1, k2⟩ := canon_tput (ok := fun x : Bool => x = true) ⟨h5, h6⟩ b (a / 16) b id
  exact ⟨h1, h2, h3, h4, k1, k2, h7⟩

/-- A wiped table lists what it listed at the kept keys (R7). -/
theorem tget_filter {α : Type} (d : α) (t : Sparse α) (f : Nat → Bool) (k : Nat) :
    tget d (t.filter fun e => !f e.1) k = if f k then d else tget d t k := by
  induction t with
  | nil => simp [tget]
  | cons e t ih =>
    obtain ⟨n, v⟩ := e
    by_cases hn : f n = true <;> by_cases hk : k = n <;> simp_all [tget, List.filter_cons]

theorem Mem.byte_wipe (m : Mem) (f : Nat → Bool) (a : Nat) : (m.wipe f).byte a = if f a then 0 else m.byte a := tget_filter 0 m.bytes f a

theorem Mem.wf_wipe {m : Mem} (h : m.wf) (f : Nat → Bool) : (m.wipe f).wf := by
  obtain ⟨h1, h2, h3, h4, h5, h6, h7, h8⟩ := h
  exact ⟨h1.filter _, fun e he => h2 e (List.mem_filter.1 he).1, h3.filter _, fun e he => h4 e (List.mem_filter.1 he).1,
    h5.filter _, fun e he => h6 e (List.mem_filter.1 he).1, h7.filter _, fun e he => h8 e (List.mem_filter.1 he).1⟩

theorem Mem.wf_setPoison {m : Mem} (h : m.wf) (a : Nat) (b : Bool) : (m.setPoison a b).wf := by
  obtain ⟨h1, h2, h3, h4, h5, h6, h7, h8⟩ := h
  obtain ⟨k1, k2⟩ := canon_tput (ok := fun x : Bool => x = true) ⟨h7, h8⟩ b (a / 16) b id
  exact ⟨h1, h2, h3, h4, h5, h6, k1, k2⟩

theorem Mem.wf_write {m : Mem} (h : m.wf) (a n v : Nat) : (m.write a n v).wf := by
  induction n generalizing m a v with
  | zero => exact h
  | succ n ih => exact ih (m.wf_setByte h a _) (a + 1) (v / 256)

/-- A byte after a byte is written: the one written at its address, every other as before. -/
theorem Mem.byte_setByte {m : Mem} (h : m.wf) (a j : Nat) (b : Byte) :
    (m.setByte a b).byte j = if j = a then b else m.byte j :=
  tget_tput 0 m.bytes (b != 0) a j b h.1 (by simp)

/-- Every byte outside the written ones is as before. -/
theorem Mem.byte_write_of_out {m : Mem} (h : m.wf) (a n v j : Nat) (hj : j < a ∨ a + n ≤ j) :
    (m.write a n v).byte j = m.byte j := by
  induction n generalizing m a v with
  | zero => rfl
  | succ n ih =>
    simp only [Mem.write]
    rw [ih (m.wf_setByte h a _) (a + 1) (v / 256) (by omega), Mem.byte_setByte h, if_neg (by omega)]

theorem Mem.tag_setByte (m : Mem) (a j : Nat) (b : Byte) : (m.setByte a b).tag j = m.tag j := rfl
theorem Mem.isFull_setByte (m : Mem) (a j : Nat) (b : Byte) : (m.setByte a b).isFull j = m.isFull j := rfl
theorem Mem.poisoned_setByte (m : Mem) (a j : Nat) (b : Byte) : (m.setByte a b).poisoned j = m.poisoned j := rfl

/-- A tag after a tag is written: the one written in its granule, every other as before. -/
theorem Mem.tag_setTag {m : Mem} (h : m.wf) (a j : Nat) (t : BitVec 4) :
    (m.setTag a t).tag j = if j / 16 = a / 16 then t else m.tag j :=
  tget_tput 0 m.tags (t != 0) (a / 16) (j / 16) t h.2.2.1 (by simp)

/-- A full-empty bit after one is written. -/
theorem Mem.isFull_setFull {m : Mem} (h : m.wf) (a j : Nat) (b : Bool) :
    (m.setFull a b).isFull j = if j / 16 = a / 16 then b else m.isFull j :=
  tget_tput false m.full b (a / 16) (j / 16) b h.2.2.2.2.1 id

/-- A poison bit after one is written. -/
theorem Mem.poisoned_setPoison {m : Mem} (h : m.wf) (a j : Nat) (b : Bool) :
    (m.setPoison a b).poisoned j = if j / 16 = a / 16 then b else m.poisoned j :=
  tget_tput false m.poison b (a / 16) (j / 16) b h.2.2.2.2.2.2.1 id

/-- The bytes read where bytes were written, and any others as before (R8). -/
theorem Mem.read_write_same {m : Mem} (h : m.wf) (a n v : Nat) : (m.write a n v).read a n = v % 256 ^ n := by
  induction n generalizing m a v with
  | zero => simp [Mem.read, Nat.mod_one]
  | succ n ih =>
    simp only [Mem.write, Mem.read]
    rw [ih (m.wf_setByte h a _) (a + 1) (v / 256),
      Mem.byte_write_of_out (m.wf_setByte h a _) (a + 1) n (v / 256) a (by omega), Mem.byte_setByte h, if_pos rfl]
    simp only [BitVec.toNat_ofNat]
    have e : 256 ^ (n + 1) = 256 * 256 ^ n := by rw [Nat.pow_succ, Nat.mul_comm]
    rw [e, Nat.mod_mul]

/-- The device registers as a table: a register after a write of one (R9). -/
theorem State.reg_setReg (s : State) (o k : Nat) (v : Word) (hs : s.regs.Pairwise fun a b => a.1 < b.1) :
    (s.setReg o v).reg k = if k = o then v else s.reg k := by
  unfold State.reg State.setReg
  by_cases h : k = o
  · subst h
    simpa using tget_tput (regReset k) s.regs (v != regReset k) k k v hs (by simp)
  · simp only [h, if_false]
    have aux : ∀ t : Sparse Word, (t.Pairwise fun a b => a.1 < b.1) →
        tget (regReset k) (tput (v != regReset o) t o v) k = tget (regReset k) t k := by
      intro t ht
      induction t with
      | nil => cases hv : (v != regReset o) <;> simp [tput, tget, h]
      | cons a t ih =>
        obtain ⟨n, w⟩ := a
        obtain ⟨_, ht⟩ := List.pairwise_cons.mp ht
        simp only [tput]
        split
        · cases hv : (v != regReset o) <;> simp [tget, h]
        · split
          · subst o
            cases hv : (v != regReset n) <;> simp [tget, h]
          · simp only [tget, ih ht]
    exact aux s.regs hs

end Sys2Proof.Machine
end

