-- ==== Sys2Proof/Laws/Ops.lean ====
section
/-!
SUPPORT. Sys2Proof/Laws/Ops.lean: what the shared operations can do, said once.
-/
namespace Sys2Proof.Machine

theorem done_eq (s : State) : done s = .next (s.jumped (s.th.pc + 4)) := rfl

theorem setG_goto_eq (s : State) (d : Reg) (v : Word) (a : Addr) : (s.setG d v).goto a = s.wrote d v a := by
  unfold State.setG Thread.setG State.wrote State.goto
  split <;> simp_all

theorem doneG_eq (s : State) (d : Reg) (v : Word) : doneG s d v = .next (s.afterG d v) := by
  unfold doneG done State.advance
  rw [setG_goto_eq]
  simp [State.afterG]

theorem doneF_eq (s : State) (d : Reg) (v : Word) : doneF s d v = .next (s.afterF d v) := rfl

theorem bits_zero {w : Nat} (x : BitVec w) (n : Nat) : bits x 0 n = x.toNat % 2 ^ n := by simp [bits]

/-- Reading after a put that keeps its entry, in any table: the value at the key, else what stood there. -/
theorem tget_tput_keep {α : Type} (d : α) (t : Sparse α) (k j : Nat) (v : α) :
    tget d (tput true t k v) j = if j = k then v else tget d t j := by
  induction t with
  | nil => simp [tput, tget]
  | cons a t ih =>
    obtain ⟨n, w⟩ := a
    simp only [tput]
    split
    · simp [tget]
    · split
      · subst k; by_cases hj : j = n <;> simp [tget, hj]
      · simp only [tget, ih]
        by_cases hj : j = n
        · subst hj; simp [Ne.symm ‹¬k = j›]
        · simp [hj]

/-- What a default changes in a table read: nothing at a key the table lists. -/
theorem tget_tput_other {α : Type} (d : α) (t : Sparse α) (keep : Bool) (k j : Nat) (v : α) (h : j ≠ k) :
    tget d (tput keep t k v) j = tget d t j := by
  induction t with
  | nil => cases keep <;> simp [tput, tget, h]
  | cons a t ih =>
    obtain ⟨n, w⟩ := a
    simp only [tput]
    split
    · cases keep <;> simp [tget, h]
    · split
      · subst k; cases keep <;> simp [tget, h]
      · simp [tget, ih]

/-- A device register written with a value other than its reset value reads back, and every other one is as before. -/
theorem State.reg_setReg_of_ne (s : State) (o : Nat) (v : Word) (h : v ≠ regReset o) (p : Nat) :
    (s.setReg o v).reg p = if p = o then v else s.reg p := by
  unfold State.reg State.setReg
  rw [show (v != regReset o) = true by simp [h]]
  exact tget_tput_keep _ _ _ _ _

/-- A register write leaves every other register as it was. -/
theorem State.reg_setReg_other (s : State) (o p : Nat) (v : Word) (h : p ≠ o) : (s.setReg o v).reg p = s.reg p :=
  tget_tput_other _ _ _ _ _ _ h

theorem State.site_setSite (s : State) (n m : Nat) (v : Site) : (s.setSite n v).site m = if m = n then v else s.site m := by
  unfold State.site State.setSite
  by_cases h : m = n
  · subst h; simp [tget_tput_keep]
  · simp [tget_tput_keep, h]

theorem State.streamer_setStreamer (s : State) (n m : Nat) (v : Streamer) :
    (s.setStreamer n v).streamer m = if m = n then v else s.streamer m := tget_tput_keep _ _ _ _ _

theorem State.slice_setSlice (s : State) (n m : Nat) (v : Slice) : (s.setSlice n v).slice m = if m = n then v else s.slice m :=
  tget_tput_keep _ _ _ _ _

theorem Inst.port_setPort (x : Inst) (page : Nat) (p q : Fin 4) (v : PortState) :
    (x.setPort page p v).port page q = if q = p then v else x.port page q := by
  have e : (page * 4 + q.val = page * 4 + p.val) ↔ q = p := by rw [Fin.ext_iff]; omega
  simp only [Inst.port, Inst.setPort, tget_tput_keep, e]

theorem Inst.section_setSection (x : Inst) (n m : Nat) (v : Section) :
    (x.setSection n v).section m = if m = n then v else x.section m := tget_tput_keep _ _ _ _ _

/-- An element written by its key reads back; the default may be of the instance as it was, since the key is listed. -/
theorem Inst.peAt_setPe (x : Inst) (page pe : Nat) (p : PE) : (x.setPe page pe p).peAt page pe = p := by
  simp [Inst.peAt, Inst.setPe, tget_tput_keep]

theorem forfeit_off (s : State) (n : Nat) (h : n = 0 ∨ s.th.onBarrel = false) : forfeit n s = s := by
  unfold forfeit; rw [if_neg]; rintro ⟨a, b⟩; rcases h with h | h <;> simp_all

theorem forfeit_on (s : State) (n : Nat) (h : n ≠ 0) (hb : s.th.onBarrel = true) :
    forfeit n s = { s with th := { s.th with st := .wait, wait := .turns n } } := by
  unfold forfeit; rw [if_pos ⟨h, hb⟩]; rfl

theorem raiseFlags_th (s : State) (fl : Flags) :
    (s.raiseFlags fl).th = { s.th with tflags := s.th.tflags ||| fl.setWidth 64 } := by
  unfold State.raiseFlags
  dsimp only
  split <;> rfl

theorem raiseFlags_eq (s : State) (fl : Flags) :
    s.raiseFlags fl = { s with th := (s.raiseFlags fl).th, regs := (s.raiseFlags fl).regs } := by
  unfold State.raiseFlags
  dsimp only
  split <;> rfl

theorem forfeit_eq (s : State) (n : Nat) : forfeit n s = { s with th := (forfeit n s).th } := by
  unfold forfeit; split <;> rfl

theorem setReg_eq (s : State) (o : Nat) (v : Word) : s.setReg o v = { s with regs := (s.setReg o v).regs } := rfl

/-- A cluster's CFLAGS is 0 at reset (R81). -/
theorem regReset_cflags (n : Nat) (h : n < 1024) : regReset (cflagsAt (siteCluster n)) = 0 := by
  have : siteCluster n < 256 := by unfold siteCluster siteX siteY; omega
  unfold regReset cflagsAt
  rw [if_neg (by omega), if_neg (by omega), if_neg (by omega)]

/-- The union of the flags is kept in the cluster's CFLAGS, and no other device register changes (R81, R127). -/
theorem raiseFlags_reg (s : State) (fl : Flags) (o : Nat) :
    (s.raiseFlags fl).reg o =
      if s.th.onBarrel = true ∧ o = cflagsAt (siteCluster s.th.site) then s.reg o ||| fl.setWidth 64 else s.reg o := by
  have hsite : s.th.onBarrel = true → s.th.site < 1024 := by
    unfold Thread.onBarrel Thread.site
    split <;> simp_all
  unfold State.raiseFlags
  dsimp only
  split
  · rename_i h
    have hb : s.th.onBarrel = true := h.1
    have hne : (s.reg (cflagsAt (siteCluster s.th.site)) ||| fl.setWidth 64) ≠ 0 := by
      intro e
      apply h.2
      obtain ⟨_, e⟩ := BitVec.or_eq_zero_iff.mp e
      have h1 : fl.setWidth 64 = (0 : BitVec 5).setWidth 64 := e
      have h2 := congrArg (BitVec.setWidth 5) h1
      simpa using h2
    have hz := regReset_cflags s.th.site (hsite hb)
    refine (State.reg_setReg_of_ne _ _ _ (fun e => hne (e.trans hz)) o).trans ?_
    by_cases ho : o = cflagsAt (siteCluster s.th.site)
    · subst ho; rw [if_pos rfl, if_pos ⟨hb, rfl⟩]
    · rw [if_neg ho, if_neg (fun h => ho h.2)]; rfl
  · rename_i h
    have e : (s.th.onBarrel = true ∧ fl ≠ 0) → False := h
    split
    · rename_i h2
      have : fl = 0 := Classical.byContradiction fun hn => e ⟨h2.1, hn⟩
      subst this
      simp
    · rfl

/-- The end of every floating-point instruction: flags, pc and the issue turns it forfeits, and nothing else (R81, R127, R130). -/
theorem floatStep (s u : State) (fl : Flags) (n : Nat) (hu : u = { s with th := u.th })
    (ht : u.th = { s.th with g := u.th.g, f := u.th.f }) :
    FloatStep s (forfeit n (u.raiseFlags fl).advance) fl n := by
  obtain ⟨g, f, rfl⟩ : ∃ g f, u = { s with th := { s.th with g := g, f := f } } := ⟨u.th.g, u.th.f, by rw [← ht]; exact hu⟩
  have hb : ({ s with th := { s.th with g := g, f := f } } : State).th.onBarrel = s.th.onBarrel := rfl
  have hr := raiseFlags_reg { s with th := { s.th with g := g, f := f } } fl
  have e : (({ s with th := { s.th with g := g, f := f } } : State).raiseFlags fl).advance =
      { s with th := { s.th with g := g, f := f, tflags := s.th.tflags ||| fl.setWidth 64, pc := s.th.pc + 4, pass := false, mid := false },
               regs := (({ s with th := { s.th with g := g, f := f } } : State).raiseFlags fl).regs } := by
    unfold State.advance State.goto
    rw [raiseFlags_eq, raiseFlags_th]
  rw [e]
  by_cases hn : n ≠ 0 ∧ s.th.onBarrel = true
  · rw [forfeit_on _ n hn.1 (by exact hn.2)]
    exact ⟨rfl, rfl, fun o => hr o, by rw [if_pos hn]; exact ⟨rfl, rfl⟩⟩
  · have h0 : n = 0 ∨ s.th.onBarrel = false := by
      by_cases h : n = 0
      · exact .inl h
      · exact .inr (by simpa using fun hb => hn ⟨h, hb⟩)
    rw [forfeit_off _ n (by exact h0)]
    exact ⟨rfl, rfl, fun o => hr o, by rw [if_neg hn]; exact ⟨rfl, rfl⟩⟩

end Sys2Proof.Machine
end

