-- ==== Sys2Proof/Laws/Canon.lean ====
section
/-!
SUPPORT. Sys2Proof/Laws/Canon.lean: every operation that gives a state, and every meaning, keeps both memories of the state in
canonical form: one lemma for each, named after the operation. A lemma of an operation with a continuation asks the same of the
continuation.
-/
namespace Sys2Proof.Machine

/-- Both memories of a state in canonical form. -/
abbrev State.Canon (s : State) : Prop := s.mem.wf ∧ s.peers.wf

/-- An answer that is a next state has canonical memories. -/
def Keeps : Result → Prop | .next t => t.Canon | _ => True

/-- A state, if there is one, has canonical memories. -/
def OptCanon : Option State → Prop | some t => t.Canon | none => True

/-- The same, the state being the first of a pair. -/
def OptCanonL {α : Type} : Option (State × α) → Prop | some t => t.1.Canon | none => True

/-- The same, the state being the second of a pair. -/
def OptCanonR {α : Type} : Option (α × State) → Prop | some t => t.2.Canon | none => True

/-- A state that an access gives has canonical memories. -/
def ExCanon {ε : Type} : Except ε State → Prop | .ok t => t.Canon | .error _ => True

/-- The same, the state being the first of a pair. -/
def ExCanonL {ε α : Type} : Except ε (State × α) → Prop | .ok t => t.1.Canon | .error _ => True

/-- What a transfer's move leaves has canonical memories. -/
def MovedCanon : Moved → Prop | .yes s => s.Canon | .no s => s.Canon

/-- What a tried element leaves has canonical memories. -/
def TryCanon : Try → Prop | .ok _ => True | .spilled s => s.Canon | .wait s => s.Canon

/-- What a piece of an indexed transfer leaves has canonical memories. -/
def WorkCanon : Work → Prop | .stay s => s.Canon | .next s _ => s.Canon | .ended s => s.Canon | .park s _ _ => s.Canon | .hold s _ _ => s.Canon

/-- What a step comes to has canonical memories. -/
def AgendaCanon : Agenda → Prop | .answer r => Keeps r | .run _ s => s.Canon

/-! ### Answers, pairs and folds -/

theorem canon_mk {s : State} (h : s.mem.wf) (k : s.peers.wf) : s.Canon := ⟨h, k⟩

theorem canon_mem {s : State} (h : s.Canon) : s.mem.wf := h.1

theorem canon_peers {s : State} (h : s.Canon) : s.peers.wf := h.2

theorem keeps_next {t : State} (h : t.Canon) : Keeps (.next t) := h

theorem keeps_fault (f : Fault) : Keeps (.fault f) := trivial

theorem optCanon_some {t : State} (h : t.Canon) : OptCanon (some t) := h

theorem optCanon_none : OptCanon none := trivial

theorem optCanonL_some {α : Type} {t : State} {a : α} (h : t.Canon) : OptCanonL (some (t, a)) := h

theorem optCanonL_none {α : Type} : OptCanonL (none : Option (State × α)) := trivial

theorem optCanonR_some {α : Type} {t : State} {a : α} (h : t.Canon) : OptCanonR (some (a, t)) := h

theorem optCanonR_none {α : Type} : OptCanonR (none : Option (α × State)) := trivial

theorem exCanon_ok {ε : Type} {t : State} (h : t.Canon) : ExCanon (.ok t : Except ε State) := h

theorem exCanon_error {ε : Type} {e : ε} : ExCanon (.error e : Except ε State) := trivial

theorem exCanonL_ok {ε α : Type} {t : State} {a : α} (h : t.Canon) : ExCanonL (.ok (t, a) : Except ε (State × α)) := h

theorem exCanonL_error {ε α : Type} {e : ε} : ExCanonL (.error e : Except ε (State × α)) := trivial

theorem movedCanon_yes {s : State} (h : s.Canon) : MovedCanon (.yes s) := h

theorem movedCanon_no {s : State} (h : s.Canon) : MovedCanon (.no s) := h

theorem workCanon_stay {s : State} (h : s.Canon) : WorkCanon (.stay s) := h

theorem workCanon_next {s : State} {c : Cursor} (h : s.Canon) : WorkCanon (.next s c) := h

theorem workCanon_ended {s : State} (h : s.Canon) : WorkCanon (.ended s) := h

theorem workCanon_park {s : State} {p : Cursor} {r : Option Cursor} (h : s.Canon) : WorkCanon (.park s p r) := h

theorem workCanon_hold {s : State} {p : Cursor} {r : Option Cursor} (h : s.Canon) : WorkCanon (.hold s p r) := h

theorem tryCanon_ok (pa : Nat) : TryCanon (.ok pa) := trivial

theorem tryCanon_spilled {s : State} (h : s.Canon) : TryCanon (.spilled s) := h

theorem tryCanon_wait {s : State} (h : s.Canon) : TryCanon (.wait s) := h

theorem agendaCanon_answer {r : Result} (h : Keeps r) : AgendaCanon (.answer r) := h

theorem agendaCanon_run {i : Instr} {s : State} (h : s.Canon) : AgendaCanon (.run i s) := h

theorem canon_of_pair {α : Type} {p : State × α} {s : State} {a : α} (e : p = (s, a)) (h : p.1.Canon) : s.Canon := by rw [e] at h; exact h

theorem canon_of_fpair {α : Type} {p : Firing × α} {s : Firing} {a : α} (e : p = (s, a)) (h : p.1.s.Canon) : s.s.Canon := by rw [e] at h; exact h

theorem canon_of_some {o : Option State} {s : State} (e : o = some s) (h : OptCanon o) : s.Canon := by rw [e] at h; exact h

theorem canon_of_someL {α : Type} {o : Option (State × α)} {s : State} {a : α} (e : o = some (s, a)) (h : OptCanonL o) : s.Canon := by rw [e] at h; exact h

theorem canon_of_someL' {α : Type} {o : Option (State × α)} {p : State × α} (e : o = some p) (h : OptCanonL o) : p.1.Canon := by rw [e] at h; exact h

theorem canon_of_someR {α : Type} {o : Option (α × State)} {s : State} {a : α} (e : o = some (a, s)) (h : OptCanonR o) : s.Canon := by rw [e] at h; exact h

theorem canon_of_ok {ε : Type} {o : Except ε State} {s : State} (e : o = .ok s) (h : ExCanon o) : s.Canon := by rw [e] at h; exact h

theorem canon_of_okL {ε α : Type} {o : Except ε (State × α)} {s : State} {a : α} (e : o = .ok (s, a)) (h : ExCanonL o) : s.Canon := by rw [e] at h; exact h

theorem canon_of_yes {o : Moved} {s : State} (e : o = .yes s) (h : MovedCanon o) : s.Canon := by rw [e] at h; exact h

theorem canon_of_no {o : Moved} {s : State} (e : o = .no s) (h : MovedCanon o) : s.Canon := by rw [e] at h; exact h

theorem canon_of_spilled {o : Try} {s : State} (e : o = .spilled s) (h : TryCanon o) : s.Canon := by rw [e] at h; exact h

theorem canon_of_wait {o : Try} {s : State} (e : o = .wait s) (h : TryCanon o) : s.Canon := by rw [e] at h; exact h

theorem keeps_of {r : Result} {s : State} (e : r = .next s) (h : Keeps r) : s.Canon := by rw [e] at h; exact h

theorem canon_of_run {o : Agenda} {i : Instr} {s : State} (e : o = .run i s) (h : AgendaCanon o) : s.Canon := by rw [e] at h; exact h

theorem canon_th {s : State} (h : s.Canon) (t : Thread) : State.Canon { s with th := t } := h

theorem canon_ite {c : Prop} [Decidable c] {a b : State} (ha : a.Canon) (hb : b.Canon) : State.Canon (if c then a else b) := by
  split
  · exact ha
  · exact hb

theorem keeps_ite {b : Bool} {x y : Result} (hx : Keeps x) (hy : Keeps y) : Keeps (if b then x else y) := by
  split
  · exact hx
  · exact hy

theorem foldl_canon {β : Type} {f : State → β → State} {l : List β} {s : State} (hf : ∀ s x, s.Canon → (f s x).Canon) (h : s.Canon) :
    (l.foldl f s).Canon := by
  induction l generalizing s with
  | nil => exact h
  | cons x l ih => exact ih (hf _ _ h)

theorem foldl_canon_pair {α β : Type} {f : State × α → β → State × α} {l : List β} {s : State × α} (hf : ∀ s x, s.1.Canon → (f s x).1.Canon) (h : s.1.Canon) :
    (l.foldl f s).1.Canon := by
  induction l generalizing s with
  | nil => exact h
  | cons x l ih => exact ih (hf _ _ h)

theorem optCanon_getD {o : Option State} {s : State} (h : OptCanon o) (k : s.Canon) : (o.getD s).Canon := by
  cases o with
  | none => exact k
  | some t => exact h

theorem optCanonL_map {α β : Type} {f : α → State × β} {o : Option α} (h : ∀ x, (f x).1.Canon) : OptCanonL (o.map f) := by
  cases o with
  | none => trivial
  | some a => exact h a

theorem foldl_canon_stepping {β : Type} {f : Stepping → β → Stepping} {l : List β} {s : Stepping} (hf : ∀ s x, s.s.Canon → (f s x).s.Canon) (h : s.s.Canon) :
    (l.foldl f s).s.Canon := by
  induction l generalizing s with
  | nil => exact h
  | cons x l ih => exact ih (hf _ _ h)

theorem foldl_canon_fpair {α β : Type} {f : Firing × α → β → Firing × α} {l : List β} {s : Firing × α} (hf : ∀ s x, s.1.s.Canon → (f s x).1.s.Canon) (h : s.1.s.Canon) :
    (l.foldl f s).1.s.Canon := by
  induction l generalizing s with
  | nil => exact h
  | cons x l ih => exact ih (hf _ _ h)

theorem foldl_canon_firing {β : Type} {f : Firing → β → Firing} {l : List β} {s : Firing} (hf : ∀ s x, s.s.Canon → (f s x).s.Canon) (h : s.s.Canon) :
    (l.foldl f s).s.Canon := by
  induction l generalizing s with
  | nil => exact h
  | cons x l ih => exact ih (hf _ _ h)

theorem optCanon_map {α : Type} {f : α → State} {o : Option α} (h : ∀ x, (f x).Canon) : OptCanon (o.map f) := by
  cases o with
  | none => trivial
  | some a => exact h a

theorem optCanon_mapS {f : State → State} {o : Option State} (h : OptCanon o) (hf : ∀ x, x.Canon → (f x).Canon) : OptCanon (o.map f) := by
  cases o with
  | none => trivial
  | some a => exact hf a h

theorem foldl_wf {β : Type} {f : Mem → β → Mem} {l : List β} {m : Mem} (hf : ∀ m x, m.wf → (f m x).wf) (h : m.wf) : (l.foldl f m).wf := by
  induction l generalizing m with
  | nil => exact h
  | cons x l ih => exact ih (hf _ _ h)

theorem sorted_append {α : Type} {a b : Sparse α} (ha : a.Pairwise fun x y => x.1 < y.1) (hb : b.Pairwise fun x y => x.1 < y.1) (k : Nat)
    (hl : ∀ e ∈ a, e.1 < k) (hr : ∀ e ∈ b, k ≤ e.1) : (a ++ b).Pairwise fun x y => x.1 < y.1 := by
  refine List.pairwise_append.2 ⟨ha, hb, fun x hx y hy => ?_⟩
  have := hl x hx; have := hr y hy; omega

theorem sorted_splice {α : Type} {src dst : Sparse α} (hs : src.Pairwise fun x y => x.1 < y.1) (hd : dst.Pairwise fun x y => x.1 < y.1)
    (a b n : Nat) : (spliceTable src dst a b n).Pairwise fun x y => x.1 < y.1 := by
  rw [spliceTable]
  refine sorted_append (sorted_append (hd.filter _) ?_ b (by simp) ?_) (hd.filter _) (b + n) ?_ (by simp)
  · refine List.pairwise_map.2 (List.Pairwise.imp_of_mem ?_ (hs.filter _))
    intro x y hx hy h
    simp at hx hy ⊢
    omega
  · intro e he
    obtain ⟨x, _, rfl⟩ := List.mem_map.1 he
    exact Nat.le_add_left _ _
  · simp only [List.mem_append, List.mem_filter, List.mem_map]
    rintro e (⟨_, h⟩ | ⟨x, ⟨_, h⟩, rfl⟩)
    · simp at h; omega
    · simp at h ⊢; omega

theorem mem_splice {α : Type} {src dst : Sparse α} {P : α → Prop} (hs : ∀ e ∈ src, P e.2) (hd : ∀ e ∈ dst, P e.2) (a b n : Nat) :
    ∀ e ∈ spliceTable src dst a b n, P e.2 := by
  intro e he
  simp only [spliceTable, List.mem_append, List.mem_filter, List.mem_map] at he
  obtain (⟨h, _⟩ | ⟨x, ⟨h, _⟩, rfl⟩) | ⟨h, _⟩ := he
  · exact hd e h
  · exact hs x h
  · exact hd e h

/-! ### Operations and meanings -/

theorem State.mem_canon (self : State) (hc0 : State.Canon self) :
    Mem.wf (State.mem self) := by
  exact hc0.1

theorem State.peers_canon (self : State) (hc0 : State.Canon self) :
    Mem.wf (State.peers self) := by
  exact hc0.2

theorem State.setCtx_canon (s : State) (c : Fin 16) (x : Ctx) (hc0 : State.Canon s) :
    State.Canon (State.setCtx s c x) := by
  unfold State.setCtx
  repeat' first
    | with_reducible assumption

theorem State.updCtx_canon (s : State) (c : Fin 16) (f : Ctx → Ctx) (hc0 : State.Canon s) :
    State.Canon (State.updCtx s c f) := by
  unfold State.updCtx
  repeat' first
    | with_reducible assumption
    | with_reducible apply State.setCtx_canon

theorem State.setLogLength_canon (s : State) (c : Fin 16) (n : ℕ) (hc0 : State.Canon s) :
    State.Canon (State.setLogLength s c n) := by
  unfold State.setLogLength
  repeat' first
    | with_reducible assumption
    | with_reducible apply State.updCtx_canon

theorem Mem.setByte_canon (m : Mem) (a : ℕ) (b : Byte) (hc0 : Mem.wf (m)) :
    Mem.wf (Mem.setByte m a b) := by
  exact Mem.wf_setByte hc0 _ _

theorem Mem.write_canon (m : Mem) (a : ℕ) (z2 : ℕ) (z3 : ℕ) (hc0 : Mem.wf (m)) :
    Mem.wf (Mem.write m a z2 z3) := by
  exact Mem.wf_write hc0 _ _ _

theorem State.makeVersion_canon (s : State) (c : Fin 16) (h : Handle) (line : ℕ) (hc0 : State.Canon s) :
    State.Canon (State.makeVersion s c h line) := by
  unfold State.makeVersion
  repeat' first
    | with_reducible assumption
    | with_reducible apply State.mem_canon
    | with_reducible apply State.peers_canon
    | dsimp only
    | split

theorem State.replaceLlc_canon (s : State) (line : ℕ) (hc0 : State.Canon s) :
    State.Canon (State.replaceLlc s line) := by
  unfold State.replaceLlc
  repeat' first
    | with_reducible assumption
    | with_reducible apply State.mem_canon
    | with_reducible apply State.peers_canon
    | dsimp only
    | split

theorem State.touchLlc_canon (s : State) (line : ℕ) (dirty : Bool) (hc0 : State.Canon s) :
    State.Canon (State.touchLlc s line dirty) := by
  unfold State.touchLlc
  repeat' first
    | with_reducible assumption
    | with_reducible apply State.mem_canon
    | with_reducible apply State.peers_canon
    | with_reducible apply State.replaceLlc_canon
    | dsimp only
    | split

theorem State.updMem_canon (s : State) (pa : ℕ) (f : Mem → Mem) (hc0 : State.Canon s) (hc2 : ∀ y0, (Mem.wf (y0)) → (Mem.wf (f y0))) :
    State.Canon (State.updMem s pa f) := by
  unfold State.updMem
  repeat' first
    | with_reducible assumption
    | with_reducible apply hc2
    | with_reducible apply Mem.wf_setByte
    | with_reducible apply Mem.wf_setTag
    | with_reducible apply Mem.wf_setFull
    | with_reducible apply Mem.wf_setPoison
    | with_reducible apply Mem.wf_write
    | with_reducible exact canon_mem (by assumption)
    | with_reducible exact canon_peers (by assumption)
    | with_reducible apply State.mem_canon
    | with_reducible apply State.peers_canon
    | dsimp only
    | split
    | intro _
    | dsimp only [State.Canon]
    | with_reducible refine And.intro ?_ ?_

theorem Mem.setPoison_canon (m : Mem) (a : ℕ) (b : Bool) (hc0 : Mem.wf (m)) :
    Mem.wf (Mem.setPoison m a b) := by
  exact Mem.wf_setPoison hc0 _ _

theorem State.writeHome_canon (s : State) (c : Fin 16) (h : Handle) (pa : ℕ) (n : ℕ) (v : ℕ) (hc0 : State.Canon s) :
    State.Canon (State.writeHome s c h pa n v) := by
  unfold State.writeHome
  repeat' first
    | with_reducible assumption
    | with_reducible apply Mem.wf_setByte
    | with_reducible apply Mem.wf_setTag
    | with_reducible apply Mem.wf_setFull
    | with_reducible apply Mem.wf_setPoison
    | with_reducible apply Mem.wf_write
    | with_reducible exact canon_mem (by assumption)
    | with_reducible exact canon_peers (by assumption)
    | with_reducible apply Mem.write_canon
    | with_reducible apply State.makeVersion_canon
    | with_reducible apply State.mem_canon
    | with_reducible apply State.touchLlc_canon
    | with_reducible apply State.peers_canon
    | with_reducible apply State.updMem_canon
    | with_reducible apply Mem.setPoison_canon
    | dsimp only
    | split
    | intro _
    | dsimp only [State.Canon]
    | with_reducible refine And.intro ?_ ?_

theorem State.logAppend_canon (s : State) (c : Fin 16) (w : Word) (hc0 : State.Canon s) :
    State.Canon (State.logAppend s c w) := by
  unfold State.logAppend
  repeat' first
    | with_reducible assumption
    | with_reducible apply State.writeHome_canon
    | with_reducible apply State.setLogLength_canon
    | dsimp only
    | split

theorem State.logTake_canon (s : State) (c : Fin 16) (kind : ℕ) (key : ℕ) (hc0 : State.Canon s) :
    State.Canon (State.logTake s c kind key) := by
  unfold State.logTake
  repeat' first
    | with_reducible assumption
    | with_reducible apply State.updCtx_canon
    | dsimp only
    | split

theorem State.setReg_canon (s : State) (o : ℕ) (v : Word) (hc0 : State.Canon s) :
    State.Canon (State.setReg s o v) := by
  unfold State.setReg
  repeat' first
    | with_reducible assumption

theorem State.pageFlags_canon (s : State) (site : ℕ) (fl : Flags) (hc0 : State.Canon s) :
    State.Canon (State.pageFlags s site fl) := by
  unfold State.pageFlags
  repeat' first
    | with_reducible assumption
    | with_reducible apply State.setReg_canon
    | dsimp only
    | split

theorem State.setStreamer_canon (s : State) (p : ℕ) (x : Streamer) (hc0 : State.Canon s) :
    State.Canon (State.setStreamer s p x) := by
  unfold State.setStreamer
  repeat' first
    | with_reducible assumption

theorem State.setSite_canon (s : State) (n : ℕ) (v : Site) (hc0 : State.Canon s) :
    State.Canon (State.setSite s n v) := by
  unfold State.setSite
  repeat' first
    | with_reducible assumption

theorem State.applyEvent_canon (s : State) (site : ℕ) (ev : AccEvent) (hc0 : State.Canon s) :
    State.Canon (State.applyEvent s site ev) := by
  unfold State.applyEvent
  repeat' first
    | with_reducible assumption
    | with_reducible apply State.setStreamer_canon
    | with_reducible apply State.setSite_canon
    | with_reducible apply State.pageFlags_canon
    | dsimp only
    | split

theorem State.accApply_canon (s : State) (site : ℕ) (hc0 : State.Canon s) :
    State.Canon (State.accApply s site) := by
  unfold State.accApply
  repeat' first
    | with_reducible assumption
    | with_reducible apply State.logTake_canon
    | with_reducible apply State.setSite_canon
    | with_reducible apply State.applyEvent_canon
    | with_reducible apply State.logAppend_canon
    | dsimp only
    | split

theorem State.accDrain_canon (s : State) (site : ℕ) (z2 : ℕ) (hc0 : State.Canon s) :
    State.Canon (State.accDrain s site z2) := by
  induction z2 generalizing s site with
  | zero  =>
    unfold State.accDrain
    repeat' first
      | with_reducible assumption
  | succ n_ ih =>
    unfold State.accDrain
    repeat' first
      | with_reducible assumption
      | with_reducible apply ih
      | with_reducible apply State.accApply_canon

theorem State.accPost_canon (s : State) (site : ℕ) (ev : AccEvent) (hc0 : State.Canon s) :
    State.Canon (State.accPost s site ev) := by
  unfold State.accPost
  repeat' first
    | with_reducible assumption
    | with_reducible apply State.setSite_canon

theorem execStoreEventApply_canon (site : Fin 1024) (s : State) (hc1 : State.Canon s) :
    Keeps (execStoreEventApply site s) := by
  unfold execStoreEventApply
  repeat' first
    | with_reducible assumption
    | with_reducible apply keeps_next
    | with_reducible apply keeps_fault
    | with_reducible apply State.accApply_canon

theorem State.writeWords_canon (s : State) (c : Fin 16) (pa : ℕ) (z3 : List Word) (hc0 : State.Canon s) :
    State.Canon (State.writeWords s c pa z3) := by
  induction z3 generalizing s c pa with
  | nil  =>
    unfold State.writeWords
    repeat' first
      | with_reducible assumption
  | cons x_ l_ ih =>
    unfold State.writeWords
    repeat' first
      | with_reducible assumption
      | with_reducible apply ih
      | with_reducible apply State.writeHome_canon

theorem State.pause_canon (s : State) (n : ℕ) (hc0 : State.Canon s) :
    State.Canon (State.pause s n) := by
  unfold State.pause
  repeat' first
    | with_reducible assumption

theorem forfeit_canon (n : ℕ) (s : State) (hc1 : State.Canon s) :
    State.Canon (forfeit n s) := by
  unfold forfeit
  repeat' first
    | with_reducible assumption
    | with_reducible apply State.pause_canon
    | dsimp only
    | split

theorem State.enterHandler_canon (s : State) (c : Fin 16) (trap : Word) (r : Record) (hc0 : State.Canon s) :
    State.Canon (State.enterHandler s c trap r) := by
  rw [State.enterHandler]
  exact forfeit_canon _ _ (canon_th (State.writeWords_canon _ _ _ _ (State.writeWords_canon _ _ _ _ hc0)) _)

theorem State.setToken_canon (s : State) (c : Fin 16) (t : Token) (hc0 : State.Canon s) :
    State.Canon (State.setToken s c t) := by
  unfold State.setToken
  repeat' first
    | with_reducible assumption
    | with_reducible apply State.updCtx_canon

theorem State.acquireFor_canon (s : State) (t : Thread) (hc0 : State.Canon s) :
    State.Canon (State.acquireFor s t) := by
  unfold State.acquireFor
  repeat' first
    | with_reducible assumption

theorem State.raiseFlags_canon (s : State) (fl : Flags) (hc0 : State.Canon s) :
    State.Canon (State.raiseFlags s fl) := by
  unfold State.raiseFlags
  repeat' first
    | with_reducible assumption
    | with_reducible apply State.setReg_canon
    | with_reducible apply State.mem_canon
    | with_reducible apply State.peers_canon
    | dsimp only
    | split

theorem State.setG_canon (s : State) (r : Reg) (v : Word) (hc0 : State.Canon s) :
    State.Canon (State.setG s r v) := by
  unfold State.setG
  repeat' first
    | with_reducible assumption

theorem State.applyAtom_canon (s : State) (c : Fin 16) (h : Handle) (pa : ℕ) (op : AtomOp) (z : AtomSize) (b : ℕ) (expect : ℕ) (hc0 : State.Canon s) :
    State.Canon (State.applyAtom s c h pa op z b expect).1 := by
  unfold State.applyAtom
  repeat' first
    | with_reducible assumption
    | with_reducible apply State.writeHome_canon
    | with_reducible refine canon_of_pair (by assumption) ?_
    | dsimp only
    | split

theorem State.message_canon (s : State) (src : ℕ) (dst : ℕ) (hc0 : State.Canon s) :
    State.Canon (State.message s src dst).1 := by
  unfold State.message
  repeat' first
    | with_reducible assumption

theorem State.send_canon (s : State) (src : ℕ) (dst : ℕ) (hc0 : State.Canon s) :
    State.Canon (State.send s src dst) := by
  unfold State.send
  repeat' first
    | with_reducible assumption
    | with_reducible apply State.message_canon
    | with_reducible refine canon_of_pair (by assumption) ?_
    | dsimp only
    | split

theorem State.carry_canon (s : State) (e : StoreEntry) (hc0 : State.Canon s) :
    State.Canon (State.carry s e) := by
  unfold State.carry
  repeat' first
    | with_reducible assumption
    | with_reducible apply State.send_canon
    | dsimp only
    | split

theorem Mem.setTag_canon (m : Mem) (a : ℕ) (t : BitVec 4) (hc0 : Mem.wf (m)) :
    Mem.wf (Mem.setTag m a t) := by
  exact Mem.wf_setTag hc0 _ _

theorem State.writeMasked_canon (s : State) (c : Fin 16) (h : Handle) (pa : ℕ) (d : BitVec 512) (mask : BitVec 64) (z6 : ℕ) (hc0 : State.Canon s) :
    State.Canon (State.writeMasked s c h pa d mask z6) := by
  induction z6 generalizing s c h pa d mask with
  | zero  =>
    unfold State.writeMasked
    repeat' first
      | with_reducible assumption
  | succ n_ ih =>
    unfold State.writeMasked
    repeat' first
      | with_reducible assumption
      | with_reducible apply ih
      | with_reducible apply State.writeHome_canon
      | dsimp only
      | split

theorem State.clearWhole_canon (s : State) (c : Fin 16) (h : Handle) (pa : ℕ) (d : BitVec 512) (whole : BitVec 4) (hc0 : State.Canon s) :
    State.Canon (State.clearWhole s c h pa d whole) := by
  unfold State.clearWhole
  repeat' first
    | with_reducible assumption
    | with_reducible apply foldl_canon
    | with_reducible apply State.writeHome_canon
    | dsimp only
    | split
    | intro _

theorem State.writeTag_canon (s : State) (x : CacheLine) (i : ℕ) (hc0 : State.Canon s) :
    State.Canon (State.writeTag s x i) := by
  unfold State.writeTag
  repeat' first
    | with_reducible assumption
    | with_reducible apply Mem.wf_setByte
    | with_reducible apply Mem.wf_setTag
    | with_reducible apply Mem.wf_setFull
    | with_reducible apply Mem.wf_setPoison
    | with_reducible apply Mem.wf_write
    | with_reducible exact canon_mem (by assumption)
    | with_reducible exact canon_peers (by assumption)
    | with_reducible apply State.mem_canon
    | with_reducible apply Mem.setTag_canon
    | with_reducible apply State.peers_canon
    | dsimp only
    | split
    | intro _
    | dsimp only [State.Canon]
    | with_reducible refine And.intro ?_ ?_

theorem State.writeBack_canon (s : State) (x : CacheLine) (hc0 : State.Canon s) :
    State.Canon (State.writeBack s x) := by
  unfold State.writeBack
  repeat' first
    | with_reducible assumption
    | with_reducible apply foldl_canon
    | with_reducible apply State.writeMasked_canon
    | with_reducible apply State.clearWhole_canon
    | with_reducible apply State.writeTag_canon
    | with_reducible apply State.send_canon
    | dsimp only
    | split
    | intro _

theorem State.makeRoom_canon (s : State) (core : CoreId) (hc0 : State.Canon s) :
    State.Canon (State.makeRoom s core) := by
  unfold State.makeRoom
  repeat' first
    | with_reducible assumption
    | with_reducible apply State.mem_canon
    | with_reducible apply State.peers_canon
    | with_reducible apply State.writeBack_canon
    | dsimp only
    | split

theorem State.fill_canon (s : State) (core : CoreId) (c : Fin 16) (line : ℕ) (h : Handle) (hc0 : State.Canon s) :
    State.Canon (State.fill s core c line h) := by
  unfold State.fill
  repeat' first
    | with_reducible assumption
    | with_reducible apply State.mem_canon
    | with_reducible apply State.makeRoom_canon
    | with_reducible apply State.touchLlc_canon
    | with_reducible apply State.peers_canon
    | dsimp only
    | split

theorem State.updCache_canon (s : State) (core : CoreId) (c : Fin 16) (line : ℕ) (h : Handle) (f : CacheLine → CacheLine) (hc0 : State.Canon s) :
    State.Canon (State.updCache s core c line h f) := by
  unfold State.updCache
  repeat' first
    | with_reducible assumption

theorem State.performTag_canon (s : State) (e : StoreEntry) (t : BitVec 4) (hc0 : State.Canon s) :
    State.Canon (State.performTag s e t) := by
  unfold State.performTag
  repeat' first
    | with_reducible assumption
    | with_reducible apply Mem.wf_setByte
    | with_reducible apply Mem.wf_setTag
    | with_reducible apply Mem.wf_setFull
    | with_reducible apply Mem.wf_setPoison
    | with_reducible apply Mem.wf_write
    | with_reducible exact canon_mem (by assumption)
    | with_reducible exact canon_peers (by assumption)
    | with_reducible apply State.carry_canon
    | with_reducible apply State.mem_canon
    | with_reducible apply Mem.setTag_canon
    | with_reducible apply State.peers_canon
    | with_reducible apply State.updMem_canon
    | with_reducible apply State.fill_canon
    | with_reducible apply State.updCache_canon
    | dsimp only
    | split
    | intro _

theorem State.unrecord_canon (s : State) (g : ℕ) (w : Waiter) (consume : Bool) (hc0 : State.Canon s) :
    State.Canon (State.unrecord s g w consume) := by
  unfold State.unrecord
  repeat' first
    | with_reducible assumption
    | with_reducible apply State.mem_canon
    | with_reducible apply State.peers_canon
    | dsimp only
    | split

theorem Mem.setFull_canon (m : Mem) (a : ℕ) (b : Bool) (hc0 : Mem.wf (m)) :
    Mem.wf (Mem.setFull m a b) := by
  exact Mem.wf_setFull hc0 _ _

theorem State.serveRemote_canon (s : State) (pa : ℕ) (tag : BitVec 4) (consume : Bool) (hc0 : State.Canon s) :
    State.Canon (State.serveRemote s pa tag consume) := by
  unfold State.serveRemote
  repeat' first
    | with_reducible assumption
    | with_reducible apply Mem.wf_setByte
    | with_reducible apply Mem.wf_setTag
    | with_reducible apply Mem.wf_setFull
    | with_reducible apply Mem.wf_setPoison
    | with_reducible apply Mem.wf_write
    | with_reducible exact canon_mem (by assumption)
    | with_reducible exact canon_peers (by assumption)
    | with_reducible apply Mem.setFull_canon
    | with_reducible apply State.updMem_canon
    | dsimp only
    | split
    | intro _

theorem State.mapThreads_canon (s : State) (f : Thread → Thread) (hc0 : State.Canon s) :
    State.Canon (State.mapThreads s f) := by
  unfold State.mapThreads
  repeat' first
    | with_reducible assumption

theorem State.updThread_canon (s : State) (p : Place) (f : Thread → Thread) (hc0 : State.Canon s) :
    State.Canon (State.updThread s p f) := by
  unfold State.updThread
  repeat' first
    | with_reducible assumption
    | with_reducible apply State.mapThreads_canon

theorem State.tell_canon (s : State) (home : ℕ) (p : Place) (hc0 : State.Canon s) :
    State.Canon (State.tell s home p) := by
  unfold State.tell
  repeat' first
    | with_reducible assumption
    | with_reducible apply State.message_canon
    | with_reducible apply State.updThread_canon
    | with_reducible refine canon_of_pair (by assumption) ?_
    | dsimp only
    | split

theorem State.blame_canon (s : State) (c : Fin 16) (id : ℕ) (seq : BitVec 32) (hc0 : State.Canon s) :
    State.Canon (State.blame s c id seq) := by
  unfold State.blame
  repeat' first
    | with_reducible assumption
    | with_reducible apply State.updCtx_canon

theorem State.makeRecord_canon (s : State) (key : ℕ) (r : Record) (hc0 : State.Canon s) :
    State.Canon (State.makeRecord s key r).1 := by
  unfold State.makeRecord
  repeat' first
    | with_reducible assumption
    | with_reducible apply State.updCtx_canon
    | with_reducible apply State.blame_canon
    | with_reducible refine canon_of_pair (by assumption) ?_
    | dsimp only
    | split

theorem State.pokeImage_canon (s : State) (t : Thread) (off : ℕ) (v : Word) (hc0 : State.Canon s) :
    State.Canon (State.pokeImage s t off v) := by
  unfold State.pokeImage
  repeat' first
    | with_reducible assumption
    | with_reducible apply State.writeHome_canon
    | dsimp only
    | split

theorem State.hitOne_canon (s : State) (p : Place) (n : Fin 4) (k : Touch) (hc0 : State.Canon s) :
    State.Canon (State.hitOne s p n k) := by
  unfold State.hitOne
  repeat' first
    | with_reducible assumption
    | with_reducible apply State.updThread_canon
    | with_reducible apply State.makeRecord_canon
    | with_reducible apply State.pokeImage_canon
    | with_reducible refine canon_of_pair (by assumption) ?_
    | dsimp only
    | split

theorem State.touch_canon (s : State) (k : Touch) (hc0 : State.Canon s) :
    State.Canon (State.touch s k) := by
  unfold State.touch
  repeat' first
    | with_reducible assumption
    | with_reducible apply foldl_canon
    | with_reducible apply State.hitOne_canon
    | dsimp only
    | split
    | intro _

theorem State.touchBy_canon (s : State) (t : Thread) (insn : BitVec 32) (va : Word) (pa : ℕ) (len : ℕ) (rd : Bool) (wr : Bool) (tg : Bool) (hc0 : State.Canon s) :
    State.Canon (State.touchBy s t insn va pa len rd wr tg) := by
  unfold State.touchBy
  repeat' first
    | with_reducible assumption
    | with_reducible apply State.touch_canon
    | dsimp only
    | split

theorem State.serveOne_canon (s : State) (p : Place) (hc0 : State.Canon s) :
    State.Canon (State.serveOne s p) := by
  unfold State.serveOne
  repeat' first
    | with_reducible assumption
    | with_reducible apply Mem.wf_setByte
    | with_reducible apply Mem.wf_setTag
    | with_reducible apply Mem.wf_setFull
    | with_reducible apply Mem.wf_setPoison
    | with_reducible apply Mem.wf_write
    | with_reducible exact canon_mem (by assumption)
    | with_reducible exact canon_peers (by assumption)
    | with_reducible apply State.updThread_canon
    | with_reducible apply Mem.setFull_canon
    | with_reducible apply State.acquireFor_canon
    | with_reducible apply State.updMem_canon
    | with_reducible apply State.tell_canon
    | with_reducible apply State.touchBy_canon
    | dsimp only
    | split
    | intro _

theorem State.serveWaiters_canon (s : State) (pa : ℕ) (z2 : List (ℕ × Waiter × Bool)) (hc0 : State.Canon s) :
    State.Canon (State.serveWaiters s pa z2) := by
  induction z2 generalizing s pa with
  | nil  =>
    unfold State.serveWaiters
    repeat' first
      | with_reducible assumption
  | cons x_ l_ ih =>
    unfold State.serveWaiters
    repeat' first
      | with_reducible assumption
      | with_reducible apply ih
      | with_reducible apply State.unrecord_canon
      | with_reducible apply State.serveRemote_canon
      | with_reducible apply State.serveOne_canon
      | dsimp only
      | split

theorem State.makeFull_canon (s : State) (pa : ℕ) (hc0 : State.Canon s) :
    State.Canon (State.makeFull s pa) := by
  unfold State.makeFull
  repeat' first
    | with_reducible assumption
    | with_reducible apply Mem.wf_setByte
    | with_reducible apply Mem.wf_setTag
    | with_reducible apply Mem.wf_setFull
    | with_reducible apply Mem.wf_setPoison
    | with_reducible apply Mem.wf_write
    | with_reducible exact canon_mem (by assumption)
    | with_reducible exact canon_peers (by assumption)
    | with_reducible apply State.serveWaiters_canon
    | with_reducible apply Mem.setFull_canon
    | with_reducible apply State.updMem_canon
    | dsimp only
    | split
    | intro _

theorem State.performStore_canon (s : State) (e : StoreEntry) (hc0 : State.Canon s) :
    State.Canon (State.performStore s e) := by
  unfold State.performStore
  repeat' first
    | with_reducible assumption
    | with_reducible apply State.carry_canon
    | with_reducible apply State.writeHome_canon
    | with_reducible apply State.fill_canon
    | with_reducible apply State.updCache_canon
    | with_reducible apply State.makeFull_canon
    | dsimp only
    | split

theorem State.cleanLines_canon (s : State) (p : CacheLine → Bool) (hc0 : State.Canon s) :
    State.Canon (State.cleanLines s p) := by
  unfold State.cleanLines
  repeat' first
    | with_reducible assumption
    | with_reducible apply foldl_canon
    | with_reducible apply State.mem_canon
    | with_reducible apply State.peers_canon
    | with_reducible apply State.writeBack_canon

theorem State.flushLines_canon (s : State) (p : CacheLine → Bool) (hc0 : State.Canon s) :
    State.Canon (State.flushLines s p) := by
  unfold State.flushLines
  repeat' first
    | with_reducible assumption
    | with_reducible apply State.mem_canon
    | with_reducible apply State.peers_canon
    | with_reducible apply State.cleanLines_canon

theorem State.giveUpCopies_canon (s : State) (e : StoreEntry) (hc0 : State.Canon s) :
    State.Canon (State.giveUpCopies s e) := by
  unfold State.giveUpCopies
  repeat' first
    | with_reducible assumption
    | with_reducible apply State.flushLines_canon
    | dsimp only
    | split

theorem State.logReduction_canon (s : State) (c : Fin 16) (w0 : Word) (w1 : Word) (w2 : Word) (w3 : Word) (hc0 : State.Canon s) :
    State.Canon (State.logReduction s c w0 w1 w2 w3) := by
  unfold State.logReduction
  repeat' first
    | with_reducible assumption
    | with_reducible apply State.setReg_canon
    | with_reducible apply State.writeWords_canon
    | dsimp only
    | split

theorem State.logAtom_canon (s : State) (e : StoreEntry) (op : AtomOp) (z : AtomSize) (expect : Word) (cause : ℕ) (found : ℕ) (hc0 : State.Canon s) :
    State.Canon (State.logAtom s e op z expect cause found) := by
  unfold State.logAtom
  repeat' first
    | with_reducible assumption
    | with_reducible apply State.logReduction_canon

theorem State.touchEntry_canon (s : State) (e : StoreEntry) (hc0 : State.Canon s) :
    State.Canon (State.touchEntry s e) := by
  unfold State.touchEntry
  repeat' first
    | with_reducible assumption
    | with_reducible apply State.touch_canon
    | dsimp only
    | split

theorem State.performAtom_canon (s : State) (e : StoreEntry) (op : AtomOp) (z : AtomSize) (expect : Word) (hc0 : State.Canon s) :
    State.Canon (State.performAtom s e op z expect) := by
  unfold State.performAtom
  repeat' first
    | with_reducible assumption
    | with_reducible apply State.carry_canon
    | with_reducible apply State.makeVersion_canon
    | with_reducible apply State.logAtom_canon
    | with_reducible apply State.touchEntry_canon
    | with_reducible apply State.applyAtom_canon
    | with_reducible refine canon_of_pair (by assumption) ?_
    | dsimp only
    | split

theorem State.performEntry_canon (s : State) (e : StoreEntry) (hc0 : State.Canon s) :
    State.Canon (State.performEntry s e) := by
  unfold State.performEntry
  repeat' first
    | with_reducible assumption
    | with_reducible apply State.performTag_canon
    | with_reducible apply State.performStore_canon
    | with_reducible apply State.giveUpCopies_canon
    | with_reducible apply State.performAtom_canon
    | dsimp only
    | split

theorem State.perform_canon (s : State) (e : StoreEntry) (hc0 : State.Canon s) :
    State.Canon (State.perform s e) := by
  unfold State.perform
  repeat' first
    | with_reducible assumption
    | with_reducible apply State.performEntry_canon
    | with_reducible apply State.mem_canon
    | with_reducible apply State.peers_canon
    | dsimp only
    | split

theorem State.performIds_canon (s : State) (ids : List ℕ) (z2 : ℕ) (hc0 : State.Canon s) :
    State.Canon (State.performIds s ids z2) := by
  induction z2 generalizing s ids with
  | zero  =>
    unfold State.performIds
    repeat' first
      | with_reducible assumption
  | succ n_ ih =>
    unfold State.performIds
    repeat' first
      | with_reducible assumption
      | with_reducible apply ih
      | with_reducible apply State.perform_canon
      | dsimp only
      | split

theorem State.drain_canon (s : State) (p : StoreEntry → Bool) (hc0 : State.Canon s) :
    State.Canon (State.drain s p) := by
  unfold State.drain
  repeat' first
    | with_reducible assumption
    | with_reducible apply State.performIds_canon
    | dsimp only
    | split

theorem State.goto_canon (s : State) (a : Addr) (hc0 : State.Canon s) :
    State.Canon (State.goto s a) := by
  unfold State.goto
  repeat' first
    | with_reducible assumption

theorem State.advance_canon (s : State) (hc0 : State.Canon s) :
    State.Canon (State.advance s) := by
  unfold State.advance
  repeat' first
    | with_reducible assumption
    | with_reducible apply State.goto_canon

theorem State.remoteAtom_canon (s : State) (r : RemoteAtom) (hc0 : State.Canon s) :
    ExCanon (State.remoteAtom s r) := by
  unfold State.remoteAtom
  repeat' first
    | with_reducible assumption
    | with_reducible apply exCanon_ok
    | with_reducible exact exCanon_error
    | with_reducible apply State.raiseFlags_canon
    | with_reducible apply State.mem_canon
    | with_reducible apply State.setG_canon
    | with_reducible apply State.peers_canon
    | with_reducible apply State.applyAtom_canon
    | with_reducible apply State.drain_canon
    | with_reducible apply State.advance_canon
    | with_reducible refine canon_of_pair (by assumption) ?_
    | with_reducible refine canon_of_ok (by assumption) ?_
    | dsimp only
    | split

theorem State.withdraw_canon (s : State) (hc0 : State.Canon s) :
    State.Canon (State.withdraw s) := by
  unfold State.withdraw
  repeat' first
    | with_reducible assumption
    | with_reducible apply exCanon_ok
    | with_reducible exact exCanon_error
    | with_reducible apply foldl_canon
    | with_reducible apply State.setToken_canon
    | with_reducible apply State.setSite_canon
    | with_reducible apply State.mem_canon
    | with_reducible apply State.peers_canon
    | with_reducible apply State.acquireFor_canon
    | with_reducible apply State.remoteAtom_canon
    | with_reducible apply State.updCtx_canon
    | with_reducible refine canon_of_ok (by assumption) ?_
    | dsimp only
    | split
    | intro _

theorem State.saveTh_canon (s : State) (hc0 : State.Canon s) :
    State.Canon (State.saveTh s) := by
  unfold State.saveTh
  repeat' first
    | with_reducible assumption
    | with_reducible apply State.writeWords_canon
    | with_reducible apply State.mem_canon
    | with_reducible apply State.peers_canon
    | with_reducible apply State.withdraw_canon
    | with_reducible apply State.drain_canon

theorem State.ensureMade_canon (s : State) (made : Bool) (r : Record) (hc0 : State.Canon s) :
    State.Canon (State.ensureMade s made r).1 := by
  unfold State.ensureMade
  repeat' first
    | with_reducible assumption
    | with_reducible apply State.makeRecord_canon
    | with_reducible refine canon_of_pair (by assumption) ?_
    | dsimp only
    | split

theorem State.queueWrite_canon (s : State) (c : Fin 16) (q : ℕ) (r : Record) (hc0 : State.Canon s) :
    State.Canon (State.queueWrite s c q r) := by
  unfold State.queueWrite
  repeat' first
    | with_reducible assumption
    | with_reducible apply State.setReg_canon
    | with_reducible apply State.writeWords_canon

theorem State.queueRecord_canon (s : State) (c : Fin 16) (q : Fin 3) (r : Record) (hc0 : State.Canon s) :
    State.Canon (State.queueRecord s c q r) := by
  unfold State.queueRecord
  repeat' first
    | with_reducible assumption
    | with_reducible apply State.setReg_canon
    | with_reducible apply State.queueWrite_canon
    | with_reducible apply State.updCtx_canon
    | dsimp only
    | split

theorem State.saveMade_canon (s : State) (q : Fin 3) (r : Record) (made : Bool) (hc0 : State.Canon s) :
    State.Canon (State.saveMade s q r made) := by
  unfold State.saveMade
  repeat' first
    | with_reducible assumption
    | with_reducible apply State.saveTh_canon
    | with_reducible apply State.mem_canon
    | with_reducible apply State.peers_canon
    | with_reducible apply State.ensureMade_canon
    | with_reducible apply State.queueRecord_canon

theorem State.enterControl_canon (s : State) (t : Thread) (r : Record) (hc0 : State.Canon s) :
    State.Canon (State.enterControl s t r) := by
  rw [State.enterControl]
  exact canon_th (State.writeWords_canon s _ _ _ hc0) _

theorem State.deliverMade_canon (s : State) (r : Record) (made : Bool) (hc0 : State.Canon s) :
    State.Canon (State.deliverMade s r made) := by
  unfold State.deliverMade
  repeat' first
    | with_reducible assumption
    | with_reducible apply State.enterHandler_canon
    | with_reducible apply State.saveMade_canon
    | with_reducible apply State.ensureMade_canon
    | with_reducible apply State.enterControl_canon
    | with_reducible refine canon_of_pair (by assumption) ?_
    | dsimp only
    | split

theorem State.deliver_canon (s : State) (r : Record) (hc0 : State.Canon s) :
    State.Canon (State.deliver s r) := by
  unfold State.deliver
  repeat' first
    | with_reducible assumption
    | with_reducible apply State.deliverMade_canon

theorem trapWith_canon (s : State) (cause : ℕ) (addr : Word) (detail : Word) (hc0 : State.Canon s) :
    Keeps (trapWith s cause addr detail) := by
  unfold trapWith
  repeat' first
    | with_reducible assumption
    | with_reducible apply keeps_next
    | with_reducible apply keeps_fault
    | with_reducible apply State.deliver_canon

theorem trapNow_canon (s : State) (cause : ℕ) (hc0 : State.Canon s) :
    Keeps (trapNow s cause) := by
  unfold trapNow
  repeat' first
    | with_reducible assumption
    | with_reducible apply keeps_next
    | with_reducible apply keeps_fault
    | with_reducible apply trapWith_canon

theorem State.block_canon (s : State) (w : Wait) (hc0 : State.Canon s) :
    State.Canon (State.block s w) := by
  unfold State.block
  repeat' first
    | with_reducible assumption

theorem postAcc_canon (s : State) (n : Fin 4) (ev : AccEvent) (k : State → Result) (hc0 : State.Canon s) (hc3 : ∀ y0, State.Canon y0 → (Keeps (k y0))) :
    Keeps (postAcc s n ev k) := by
  unfold postAcc
  repeat' first
    | with_reducible assumption
    | with_reducible apply hc3
    | with_reducible apply keeps_next
    | with_reducible apply keeps_fault
    | with_reducible apply State.accPost_canon
    | with_reducible apply trapNow_canon
    | with_reducible apply State.block_canon
    | dsimp only
    | split

theorem done_canon (s : State) (hc0 : State.Canon s) :
    Keeps (done s) := by
  unfold done
  repeat' first
    | with_reducible assumption
    | with_reducible apply keeps_next
    | with_reducible apply keeps_fault
    | with_reducible apply State.advance_canon

theorem execAcca_canon (a : Reg) (b : Reg) (n : Fin 4) (s : State) (hc3 : State.Canon s) :
    Keeps (execAcca a b n s) := by
  unfold execAcca
  repeat' first
    | with_reducible assumption
    | with_reducible apply keeps_next
    | with_reducible apply keeps_fault
    | with_reducible apply done_canon
    | with_reducible apply postAcc_canon

theorem State.settleRemote_canon (s : State) (pa : ℕ) (hc0 : State.Canon s) :
    State.Canon (State.settleRemote s pa) := by
  unfold State.settleRemote
  repeat' first
    | with_reducible assumption
    | with_reducible apply State.drain_canon
    | dsimp only
    | split

theorem State.exchange_canon (s : State) (home : ℕ) (hc0 : State.Canon s) :
    State.Canon (State.exchange s home) := by
  unfold State.exchange
  repeat' first
    | with_reducible assumption
    | with_reducible apply State.message_canon
    | with_reducible apply State.mem_canon
    | with_reducible apply State.peers_canon
    | with_reducible refine canon_of_pair (by assumption) ?_
    | dsimp only
    | split

theorem State.loadAt_canon (s : State) (p : Word) (pa : ℕ) (n : ℕ) (keep : Bool) (hc0 : State.Canon s) :
    ExCanonL (State.loadAt s p pa n keep) := by
  unfold State.loadAt
  repeat' first
    | with_reducible assumption
    | with_reducible apply exCanonL_ok
    | with_reducible exact exCanonL_error
    | with_reducible apply foldl_canon
    | with_reducible apply State.settleRemote_canon
    | with_reducible apply State.exchange_canon
    | with_reducible apply State.mem_canon
    | with_reducible apply State.peers_canon
    | with_reducible apply State.fill_canon
    | with_reducible refine canon_of_okL (by assumption) ?_
    | dsimp only
    | split

theorem State.lineLoad_canon (s : State) (p : Word) (pa : ℕ) (z3 : ℕ) (z4 : List (BitVec 128)) (hc0 : State.Canon s) :
    ExCanonL (State.lineLoad s p pa z3 z4) := by
  induction z3 generalizing s p pa z4 with
  | zero  =>
    unfold State.lineLoad
    repeat' first
      | with_reducible assumption
      | with_reducible apply exCanonL_ok
  | succ n_ ih =>
    unfold State.lineLoad
    repeat' first
      | with_reducible assumption
      | with_reducible apply ih
      | with_reducible apply exCanonL_ok
      | with_reducible exact exCanonL_error
      | with_reducible apply State.loadAt_canon
      | with_reducible refine canon_of_okL (by assumption) ?_
      | dsimp only
      | split

theorem State.threadTouch_canon (s : State) (insn : BitVec 32) (va : Word) (pa : ℕ) (len : ℕ) (rd : Bool) (wr : Bool) (tg : Bool) (hc0 : State.Canon s) :
    State.Canon (State.threadTouch s insn va pa len rd wr tg) := by
  unfold State.threadTouch
  repeat' first
    | with_reducible assumption
    | with_reducible apply State.touchBy_canon

theorem State.post_canon (s : State) (src : ℕ) (dst : ℕ) (hc0 : State.Canon s) :
    State.Canon (State.post s src dst).1 := by
  unfold State.post
  repeat' first
    | with_reducible assumption

theorem State.askLanding_canon (s : State) (n : Fin 1024) (visit : Bool) (hc0 : State.Canon s) :
    State.Canon (State.askLanding s n visit) := by
  unfold State.askLanding
  repeat' first
    | with_reducible assumption
    | with_reducible apply State.post_canon
    | with_reducible apply State.mem_canon
    | with_reducible apply State.peers_canon
    | with_reducible apply State.block_canon

theorem State.saveWith_canon (s : State) (q : Fin 3) (r : Record) (hc0 : State.Canon s) :
    State.Canon (State.saveWith s q r) := by
  unfold State.saveWith
  repeat' first
    | with_reducible assumption
    | with_reducible apply State.saveMade_canon

theorem State.pageFault_canon (s : State) (cause : ℕ) (level : ℕ) (addr : Word) (hc0 : State.Canon s) :
    State.Canon (State.pageFault s cause level addr) := by
  unfold State.pageFault
  repeat' first
    | with_reducible assumption
    | with_reducible apply State.saveWith_canon
    | with_reducible apply State.deliver_canon
    | dsimp only
    | split

theorem inTrouble_canon (s : State) (addr : Word) (z2 : Trouble) (hc0 : State.Canon s) :
    Keeps (inTrouble s addr z2) := by
  unfold inTrouble
  repeat' first
    | with_reducible assumption
    | with_reducible apply keeps_next
    | with_reducible apply keeps_fault
    | with_reducible apply State.askLanding_canon
    | with_reducible apply State.deliver_canon
    | with_reducible apply State.pageFault_canon
    | with_reducible apply State.block_canon
    | dsimp only
    | split

theorem execAccr_canon (a : Reg) (b : Reg) (n : Fin 4) (s : State) (hc3 : State.Canon s) :
    Keeps (execAccr a b n s) := by
  unfold execAccr
  repeat' first
    | with_reducible assumption
    | with_reducible apply keeps_next
    | with_reducible apply keeps_fault
    | with_reducible apply exCanonL_ok
    | with_reducible exact exCanonL_error
    | with_reducible apply done_canon
    | with_reducible apply State.lineLoad_canon
    | with_reducible apply State.threadTouch_canon
    | with_reducible apply inTrouble_canon
    | with_reducible apply State.accPost_canon
    | with_reducible apply trapNow_canon
    | with_reducible apply State.block_canon
    | with_reducible refine canon_of_okL (by assumption) ?_
    | dsimp only
    | split

theorem execAccz_canon (n : Fin 4) (s : State) (hc1 : State.Canon s) :
    Keeps (execAccz n s) := by
  unfold execAccz
  repeat' first
    | with_reducible assumption
    | with_reducible apply keeps_next
    | with_reducible apply keeps_fault
    | with_reducible apply done_canon
    | with_reducible apply postAcc_canon

theorem readAcc_canon (s : State) (n : Fin 4) (k : State → AccStore → Result) (hc0 : State.Canon s) (hc2 : ∀ y0, State.Canon y0 → ∀ y1, (Keeps (k y0 y1))) :
    Keeps (readAcc s n k) := by
  unfold readAcc
  repeat' first
    | with_reducible assumption
    | with_reducible apply hc2
    | with_reducible apply keeps_next
    | with_reducible apply keeps_fault
    | with_reducible apply State.accDrain_canon
    | with_reducible apply trapNow_canon
    | with_reducible apply State.block_canon
    | dsimp only
    | split

theorem execAccn_canon (d : Reg) (b : Reg) (n : Fin 4) (s : State) (hc3 : State.Canon s) :
    Keeps (execAccn d b n s) := by
  unfold execAccn
  repeat' first
    | with_reducible assumption
    | with_reducible apply keeps_next
    | with_reducible apply keeps_fault
    | with_reducible apply forfeit_canon
    | with_reducible apply State.setG_canon
    | with_reducible apply readAcc_canon
    | with_reducible apply State.advance_canon
    | dsimp only
    | split
    | intro _

theorem doneInt_canon (s : State) (d : Reg) (v : Word) (fl : Flags) (turns : ℕ) (hc0 : State.Canon s) :
    Keeps (doneInt s d v fl turns) := by
  unfold doneInt
  repeat' first
    | with_reducible assumption
    | with_reducible apply keeps_next
    | with_reducible apply keeps_fault
    | with_reducible apply State.raiseFlags_canon
    | with_reducible apply forfeit_canon
    | with_reducible apply State.setG_canon
    | with_reducible apply State.advance_canon

theorem execAccx_canon (d : Reg) (b : Reg) (n : Fin 4) (s : State) (hc3 : State.Canon s) :
    Keeps (execAccx d b n s) := by
  unfold execAccx
  repeat' first
    | with_reducible assumption
    | with_reducible apply keeps_next
    | with_reducible apply keeps_fault
    | with_reducible apply forfeit_canon
    | with_reducible apply State.setG_canon
    | with_reducible apply readAcc_canon
    | with_reducible apply doneInt_canon
    | with_reducible apply State.advance_canon
    | dsimp only
    | split
    | intro _

theorem State.fullLoad_canon (s : State) (p : Word) (ea : Word) (pa : ℕ) (n : ℕ) (dst : LoadDest) (consume : Bool) (limit : Word) (hc0 : State.Canon s) :
    ExCanon (State.fullLoad s p ea pa n dst consume limit) := by
  unfold State.fullLoad
  repeat' first
    | with_reducible assumption
    | with_reducible apply exCanon_ok
    | with_reducible exact exCanon_error
    | with_reducible apply Mem.wf_setByte
    | with_reducible apply Mem.wf_setTag
    | with_reducible apply Mem.wf_setFull
    | with_reducible apply Mem.wf_setPoison
    | with_reducible apply Mem.wf_write
    | with_reducible exact canon_mem (by assumption)
    | with_reducible exact canon_peers (by assumption)
    | with_reducible apply State.settleRemote_canon
    | with_reducible apply State.exchange_canon
    | with_reducible apply State.mem_canon
    | with_reducible apply State.peers_canon
    | with_reducible apply Mem.setFull_canon
    | with_reducible apply State.updMem_canon
    | with_reducible apply State.block_canon
    | with_reducible refine canon_of_ok (by assumption) ?_
    | dsimp only
    | split
    | intro _

theorem State.askToken_canon (s : State) (r : ℕ) (acq : Bool) (va : Word) (hc0 : State.Canon s) :
    State.Canon (State.askToken s r acq va) := by
  unfold State.askToken
  repeat' first
    | with_reducible assumption
    | with_reducible apply State.post_canon
    | with_reducible apply State.mem_canon
    | with_reducible apply State.peers_canon
    | with_reducible apply State.block_canon

theorem State.tokenUsed_canon (s : State) (pa : ℕ) (hc0 : State.Canon s) :
    State.Canon (State.tokenUsed s pa) := by
  unfold State.tokenUsed
  repeat' first
    | with_reducible assumption
    | with_reducible apply State.setToken_canon
    | dsimp only
    | split

theorem State.openVersion_canon (s : State) (pa : ℕ) (hc0 : State.Canon s) :
    State.Canon (State.openVersion s pa) := by
  unfold State.openVersion
  repeat' first
    | with_reducible assumption
    | with_reducible apply State.makeVersion_canon
    | dsimp only
    | split

theorem State.settleGranule_canon (s : State) (pa : ℕ) (hc0 : State.Canon s) :
    State.Canon (State.settleGranule s pa) := by
  unfold State.settleGranule
  repeat' first
    | with_reducible assumption
    | with_reducible apply State.drain_canon

theorem State.settleTag_canon (s : State) (pa : ℕ) (hc0 : State.Canon s) :
    State.Canon (State.settleTag s pa) := by
  unfold State.settleTag
  repeat' first
    | with_reducible assumption
    | with_reducible apply State.drain_canon

theorem State.enter_canon (s : State) (va : Word) (pa : ℕ) (n : ℕ) (v : ℕ) (kind : StoreKind) (hc0 : State.Canon s) :
    State.Canon (State.enter s va pa n v kind) := by
  unfold State.enter
  repeat' first
    | with_reducible assumption
    | with_reducible apply State.performEntry_canon
    | with_reducible apply State.settleGranule_canon
    | with_reducible apply State.mem_canon
    | with_reducible apply State.tokenUsed_canon
    | with_reducible apply State.peers_canon
    | with_reducible apply State.settleTag_canon
    | dsimp only
    | split

theorem State.storeWait_canon (s : State) (va : Word) (pa : ℕ) (hc0 : State.Canon s) :
    OptCanon (State.storeWait s va pa) := by
  unfold State.storeWait
  repeat' first
    | with_reducible assumption
    | with_reducible apply optCanon_some
    | with_reducible exact optCanon_none
    | with_reducible apply optCanon_map
    | with_reducible apply State.askToken_canon
    | with_reducible apply State.block_canon
    | with_reducible refine canon_of_some (by assumption) ?_
    | dsimp only
    | split

theorem State.storeAt_canon (s : State) (p : Word) (ea : Word) (pa : ℕ) (n : ℕ) (v : ℕ) (kind : StoreKind) (hc0 : State.Canon s) :
    ExCanon (State.storeAt s p ea pa n v kind) := by
  unfold State.storeAt
  repeat' first
    | with_reducible assumption
    | with_reducible apply optCanon_some
    | with_reducible exact optCanon_none
    | with_reducible apply exCanon_ok
    | with_reducible exact exCanon_error
    | with_reducible apply optCanon_map
    | with_reducible apply State.exchange_canon
    | with_reducible apply State.openVersion_canon
    | with_reducible apply State.storeWait_canon
    | with_reducible apply State.enter_canon
    | with_reducible apply State.advance_canon
    | with_reducible refine canon_of_some (by assumption) ?_
    | with_reducible refine canon_of_ok (by assumption) ?_
    | dsimp only
    | split

theorem State.evictFor_canon (s : State) (pa : ℕ) (hc0 : State.Canon s) :
    State.Canon (State.evictFor s pa) := by
  unfold State.evictFor
  repeat' first
    | with_reducible assumption
    | with_reducible apply State.flushLines_canon
    | dsimp only
    | split

theorem State.atomAt_canon (s : State) (p : Word) (pa : ℕ) (op : AtomOp) (z : AtomSize) (b : Word) (expect : Word) (hc0 : State.Canon s) :
    ExCanonL (State.atomAt s p pa op z b expect) := by
  unfold State.atomAt
  repeat' first
    | with_reducible assumption
    | with_reducible apply exCanonL_ok
    | with_reducible exact exCanonL_error
    | with_reducible apply State.evictFor_canon
    | with_reducible apply State.settleGranule_canon
    | with_reducible apply State.exchange_canon
    | with_reducible apply State.tokenUsed_canon
    | with_reducible apply State.applyAtom_canon
    | with_reducible apply State.openVersion_canon
    | with_reducible refine canon_of_pair (by assumption) ?_
    | with_reducible refine canon_of_okL (by assumption) ?_
    | dsimp only
    | split

theorem State.dropTlb_canon (s : State) (p : TlbEntry → Bool) (hc0 : State.Canon s) :
    State.Canon (State.dropTlb s p) := by
  unfold State.dropTlb
  repeat' first
    | with_reducible assumption

theorem State.tlbAdd_canon (s : State) (e : TlbEntry) (hc0 : State.Canon s) :
    State.Canon (State.tlbAdd s e) := by
  unfold State.tlbAdd
  repeat' first
    | with_reducible assumption
    | with_reducible apply State.mem_canon
    | with_reducible apply State.peers_canon
    | with_reducible apply State.dropTlb_canon
    | dsimp only
    | split

theorem State.walkNow_canon (s : State) (addr : Word) (va : ℕ) (z3 : ℕ) (z4 : ℕ) (z5 : ℕ) (hc0 : State.Canon s) :
    ExCanon (State.walkNow s addr va z3 z4 z5) := by
  induction z3 generalizing s addr va z4 z5 with
  | zero  =>
    unfold State.walkNow
    repeat' first
      | with_reducible assumption
      | with_reducible apply exCanon_ok
      | with_reducible exact exCanon_error
  | succ n_ ih =>
    unfold State.walkNow
    repeat' first
      | with_reducible assumption
      | with_reducible apply ih
      | with_reducible apply exCanon_ok
      | with_reducible exact exCanon_error
      | with_reducible apply State.exchange_canon
      | with_reducible apply State.tlbAdd_canon
      | with_reducible refine canon_of_ok (by assumption) ?_
      | dsimp only
      | split

theorem State.askFill_canon (s : State) (c : Fin 16) (k : ℕ) (va : ℕ) (hc0 : State.Canon s) :
    State.Canon (State.askFill s c k va) := by
  unfold State.askFill
  repeat' first
    | with_reducible assumption
    | with_reducible apply State.updCtx_canon

theorem State.setRegBits_canon (s : State) (o : ℕ) (lo : ℕ) (n : ℕ) (v : ℕ) (hc0 : State.Canon s) :
    State.Canon (State.setRegBits s o lo n v) := by
  unfold State.setRegBits
  repeat' first
    | with_reducible assumption
    | with_reducible apply State.setReg_canon

theorem State.setTh_canon (s : State) (t : Thread) (hc0 : State.Canon s) :
    State.Canon (State.setTh s t) := by
  unfold State.setTh
  repeat' first
    | with_reducible assumption

theorem State.setF_canon (s : State) (r : Reg) (v : Word) (hc0 : State.Canon s) :
    State.Canon (State.setF s r v) := by
  unfold State.setF
  repeat' first
    | with_reducible assumption

theorem doneG_canon (s : State) (d : Reg) (v : Word) (hc0 : State.Canon s) :
    Keeps (doneG s d v) := by
  unfold doneG
  repeat' first
    | with_reducible assumption
    | with_reducible apply keeps_next
    | with_reducible apply keeps_fault
    | with_reducible apply done_canon
    | with_reducible apply State.setG_canon

theorem doneF_canon (s : State) (d : Reg) (v : Word) (hc0 : State.Canon s) :
    Keeps (doneF s d v) := by
  unfold doneF
  repeat' first
    | with_reducible assumption
    | with_reducible apply keeps_next
    | with_reducible apply keeps_fault
    | with_reducible apply done_canon
    | with_reducible apply State.setF_canon

theorem State.dropThread_canon (s : State) (p : Place) (hc0 : State.Canon s) :
    State.Canon (State.dropThread s p) := by
  unfold State.dropThread
  repeat' first
    | with_reducible assumption
    | with_reducible apply State.mem_canon
    | with_reducible apply State.peers_canon
    | dsimp only
    | split

theorem State.focus_canon (s : State) (p : Place) (hc0 : State.Canon s) :
    OptCanon (State.focus s p) := by
  unfold State.focus
  repeat' first
    | with_reducible assumption
    | with_reducible apply optCanon_some
    | with_reducible exact optCanon_none
    | with_reducible apply optCanon_map
    | with_reducible apply State.mem_canon
    | with_reducible apply State.peers_canon
    | with_reducible refine canon_of_some (by assumption) ?_
    | dsimp only
    | split
    | intro _

theorem State.returnTo_canon (s : State) (p : Place) (hc0 : State.Canon s) :
    State.Canon (State.returnTo s p) := by
  unfold State.returnTo
  repeat' first
    | with_reducible assumption
    | with_reducible apply optCanon_some
    | with_reducible exact optCanon_none
    | with_reducible apply optCanon_map
    | with_reducible apply optCanon_getD
    | with_reducible apply State.focus_canon

theorem State.addThread_canon (s : State) (t : Thread) (hc0 : State.Canon s) :
    State.Canon (State.addThread s t) := by
  unfold State.addThread
  repeat' first
    | with_reducible assumption

theorem onThread_canon (p : Place) (s : State) (f : State → Result) (hc1 : State.Canon s) (hc2 : ∀ y0, State.Canon y0 → (Keeps (f y0))) :
    Keeps (onThread p s f) := by
  unfold onThread
  repeat' first
    | with_reducible assumption
    | with_reducible apply hc2
    | with_reducible apply keeps_next
    | with_reducible apply keeps_fault
    | with_reducible apply optCanon_some
    | with_reducible exact optCanon_none
    | with_reducible apply optCanon_map
    | with_reducible apply State.focus_canon
    | with_reducible refine canon_of_some (by assumption) ?_
    | dsimp only
    | split

theorem State.roundTrip_canon (s : State) (src : ℕ) (home : ℕ) (hc0 : State.Canon s) :
    State.Canon (State.roundTrip s src home) := by
  unfold State.roundTrip
  repeat' first
    | with_reducible assumption
    | with_reducible apply State.send_canon

theorem State.free_canon (s : State) (hc0 : State.Canon s) :
    State.Canon (State.free s).1 := by
  unfold State.free
  repeat' first
    | with_reducible assumption

theorem State.tick_canon (s : State) (hc0 : State.Canon s) :
    State.Canon (State.tick s).1 := by
  unfold State.tick
  repeat' first
    | with_reducible assumption

theorem State.updGraph_canon (s : State) (c : Fin 16) (g : Fin 4) (f : Graph → Graph) (hc0 : State.Canon s) :
    State.Canon (State.updGraph s c g f) := by
  unfold State.updGraph
  repeat' first
    | with_reducible assumption
    | with_reducible apply State.updCtx_canon

theorem State.noteGraph_canon (s : State) (c : Fin 16) (g : Fin 4) (hc0 : State.Canon s) :
    State.Canon (State.noteGraph s c g) := by
  unfold State.noteGraph
  repeat' first
    | with_reducible assumption
    | with_reducible apply State.updGraph_canon
    | dsimp only
    | split

theorem State.noteDrain_canon (s : State) (c : Fin 16) (hc0 : State.Canon s) :
    State.Canon (State.noteDrain s c) := by
  unfold State.noteDrain
  repeat' first
    | with_reducible assumption
    | with_reducible apply foldl_canon
    | with_reducible apply State.noteGraph_canon
    | dsimp only
    | split
    | intro _

theorem State.noteDrains_canon (s : State) (hc0 : State.Canon s) :
    State.Canon (State.noteDrains s) := by
  unfold State.noteDrains
  repeat' first
    | with_reducible assumption
    | with_reducible apply foldl_canon
    | with_reducible apply State.noteDrain_canon

theorem execResyncPulse_canon (s : State) (hc0 : State.Canon s) :
    Keeps (execResyncPulse s) := by
  unfold execResyncPulse
  repeat' first
    | with_reducible assumption
    | with_reducible apply keeps_next
    | with_reducible apply keeps_fault
    | with_reducible apply State.mem_canon
    | with_reducible apply State.peers_canon
    | with_reducible apply State.noteDrains_canon

theorem execCorePowerOff_canon (site : Fin 1024) (s : State) (hc1 : State.Canon s) :
    Keeps (execCorePowerOff site s) := by
  unfold execCorePowerOff
  repeat' first
    | with_reducible assumption
    | with_reducible apply keeps_next
    | with_reducible apply keeps_fault
    | with_reducible apply State.setSite_canon
    | with_reducible apply State.flushLines_canon
    | dsimp only
    | split

theorem execCoreWake_canon (site : Fin 1024) (s : State) (hc1 : State.Canon s) :
    Keeps (execCoreWake site s) := by
  unfold execCoreWake
  split
  · rename_i k e
    generalize s.wakeBefore site k = b
    cases b
    · exact State.setSite_canon _ _ _ hc1
    · exact hc1
  · exact hc1

theorem State.setFact_canon (s : State) (f : ℕ) (act : ℕ) (bal : ℕ) (pace : ℕ) (hc0 : State.Canon s) :
    State.Canon (State.setFact s f act bal pace) := by
  unfold State.setFact
  repeat' first
    | with_reducible assumption
    | with_reducible apply State.mem_canon
    | with_reducible apply State.peers_canon
    | dsimp only
    | split

theorem execActivityBalance_canon (row : Fin 4) (act0 : BitVec 10) (act1 : BitVec 10) (s : State) (hc3 : State.Canon s) :
    Keeps (execActivityBalance row act0 act1 s) := by
  unfold execActivityBalance
  repeat' first
    | with_reducible assumption
    | with_reducible apply keeps_next
    | with_reducible apply keeps_fault
    | with_reducible apply State.setFact_canon
    | with_reducible apply State.free_canon
    | with_reducible refine canon_of_pair (by assumption) ?_
    | dsimp only
    | split

theorem State.regroup_canon (s : State) (hc0 : State.Canon s) :
    State.Canon (State.regroup s) := by
  unfold State.regroup
  repeat' first
    | with_reducible assumption

theorem Mem.cleared_canon   :
    Mem.wf (Mem.cleared) := by
  exact Mem.wf_cleared

theorem State.reset_canon   :
    State.Canon (State.reset) := by
  exact ⟨Mem.wf_cleared, Mem.wf_cleared⟩

theorem State.startUp_canon (s : State) (hc0 : State.Canon s) :
    State.Canon (State.startUp s) := by
  exact ⟨Mem.wf_cleared, hc0.2⟩

theorem State.powerOn_canon (s : State) (hc0 : State.Canon s) :
    State.Canon (State.powerOn s) := by
  unfold State.powerOn
  repeat' first
    | with_reducible assumption
    | with_reducible apply Mem.wf_setByte
    | with_reducible apply Mem.wf_setTag
    | with_reducible apply Mem.wf_setFull
    | with_reducible apply Mem.wf_setPoison
    | with_reducible apply Mem.wf_write
    | with_reducible exact canon_mem (by assumption)
    | with_reducible exact canon_peers (by assumption)
    | with_reducible apply State.reset_canon
    | with_reducible apply State.mem_canon
    | with_reducible apply State.peers_canon
    | with_reducible apply State.startUp_canon
    | dsimp only
    | split
    | intro _
    | dsimp only [State.Canon]
    | with_reducible refine And.intro ?_ ?_

theorem Mem.wipe_canon (m : Mem) (f : ℕ → Bool) (hc0 : Mem.wf (m)) :
    Mem.wf (Mem.wipe m f) := by
  exact Mem.wf_wipe hc0 _

theorem State.wakeSite_canon (s : State) (n : Fin 1024) (hc0 : State.Canon s) :
    State.Canon (State.wakeSite s n) := by
  unfold State.wakeSite
  repeat' first
    | with_reducible assumption
    | with_reducible apply Mem.wf_setByte
    | with_reducible apply Mem.wf_setTag
    | with_reducible apply Mem.wf_setFull
    | with_reducible apply Mem.wf_setPoison
    | with_reducible apply Mem.wf_write
    | with_reducible exact canon_mem (by assumption)
    | with_reducible exact canon_peers (by assumption)
    | with_reducible apply State.setSite_canon
    | with_reducible apply State.mem_canon
    | with_reducible apply Mem.wipe_canon
    | with_reducible apply State.peers_canon
    | dsimp only
    | split
    | intro _
    | dsimp only [State.Canon]
    | with_reducible refine And.intro ?_ ?_

theorem State.startUnit_canon (s : State) (stage : ℕ) (unit : ℕ) (hc0 : State.Canon s) :
    State.Canon (State.startUnit s stage unit) := by
  unfold State.startUnit
  repeat' first
    | with_reducible assumption
    | with_reducible apply Mem.wf_setByte
    | with_reducible apply Mem.wf_setTag
    | with_reducible apply Mem.wf_setFull
    | with_reducible apply Mem.wf_setPoison
    | with_reducible apply Mem.wf_write
    | with_reducible exact canon_mem (by assumption)
    | with_reducible exact canon_peers (by assumption)
    | with_reducible apply State.wakeSite_canon
    | with_reducible apply State.regroup_canon
    | with_reducible apply State.mem_canon
    | with_reducible apply Mem.wipe_canon
    | with_reducible apply State.peers_canon
    | dsimp only
    | split
    | intro _
    | dsimp only [State.Canon]
    | with_reducible refine And.intro ?_ ?_

theorem execStartUp_canon (s : State) (hc0 : State.Canon s) :
    Keeps (execStartUp s) := by
  unfold execStartUp
  repeat' first
    | with_reducible assumption
    | with_reducible apply keeps_next
    | with_reducible apply keeps_fault
    | with_reducible apply State.mem_canon
    | with_reducible apply State.peers_canon
    | with_reducible apply State.startUnit_canon
    | with_reducible apply State.powerOn_canon
    | dsimp only
    | split

theorem State.answer_canon (s : State) (a : Answer) (hc0 : State.Canon s) :
    State.Canon (State.answer s a) := by
  unfold State.answer
  repeat' first
    | with_reducible assumption

theorem execManagementPortLinkUp_canon (rs : Bool) (s : State) (hc1 : State.Canon s) :
    Keeps (execManagementPortLinkUp rs s) := by
  unfold execManagementPortLinkUp
  repeat' first
    | with_reducible assumption
    | with_reducible apply keeps_next

theorem State.freshNonce_canon (s : State) (hc0 : State.Canon s) :
    State.Canon (State.freshNonce s).1 := by
  unfold State.freshNonce
  repeat' first
    | with_reducible assumption
    | with_reducible apply State.free_canon

theorem execMgmtFrameReceive_canon (frame : List Byte) (s : State) (hc1 : State.Canon s) :
    Keeps (execMgmtFrameReceive frame s) := by
  unfold execMgmtFrameReceive
  repeat' first
    | with_reducible assumption
    | with_reducible apply keeps_next
    | with_reducible apply keeps_fault
    | with_reducible apply State.answer_canon
    | with_reducible apply State.freshNonce_canon
    | with_reducible apply State.mem_canon
    | with_reducible apply State.peers_canon
    | with_reducible refine canon_of_pair (by assumption) ?_
    | dsimp only
    | split

theorem State.takeFrame_canon (s : State) (hc0 : State.Canon s) :
    State.Canon (State.takeFrame s) := by
  unfold State.takeFrame
  repeat' first
    | with_reducible assumption

theorem State.ownerReset_canon (s : State) (hc0 : State.Canon s) :
    State.Canon (State.ownerReset s) := by
  unfold State.ownerReset
  repeat' first
    | with_reducible assumption
    | with_reducible apply State.setReg_canon
    | with_reducible apply State.mem_canon
    | with_reducible apply State.peers_canon
    | with_reducible apply State.startUp_canon

theorem execOwnerReset_canon (req : OwnerRequest) (s : State) (hc1 : State.Canon s) :
    Keeps (execOwnerReset req s) := by
  unfold execOwnerReset
  repeat' first
    | with_reducible assumption
    | with_reducible apply keeps_next
    | with_reducible apply keeps_fault
    | with_reducible apply State.answer_canon
    | with_reducible apply State.mem_canon
    | with_reducible apply State.ownerReset_canon
    | with_reducible apply State.peers_canon
    | with_reducible apply State.takeFrame_canon
    | dsimp only
    | split

theorem execKeytabEnrol_canon (req : OwnerRequest) (s : State) (hc1 : State.Canon s) :
    Keeps (execKeytabEnrol req s) := by
  unfold execKeytabEnrol
  repeat' first
    | with_reducible assumption
    | with_reducible apply keeps_next
    | with_reducible apply keeps_fault
    | with_reducible apply foldl_canon
    | with_reducible apply State.answer_canon
    | with_reducible apply State.mem_canon
    | with_reducible apply State.peers_canon
    | with_reducible apply State.takeFrame_canon
    | dsimp only
    | split

theorem execAttestationRequest_canon (nonce : BitVec 256) (s : State) (hc1 : State.Canon s) :
    Keeps (execAttestationRequest nonce s) := by
  unfold execAttestationRequest
  repeat' first
    | with_reducible assumption
    | with_reducible apply keeps_next
    | with_reducible apply keeps_fault
    | with_reducible apply State.answer_canon
    | with_reducible apply State.takeFrame_canon
    | dsimp only
    | split

theorem State.stageRtu_canon (s : State) (v : Word) (hc0 : State.Canon s) :
    State.Canon (State.stageRtu s v) := by
  unfold State.stageRtu
  repeat' first
    | with_reducible assumption
    | with_reducible apply State.mem_canon
    | with_reducible apply State.peers_canon
    | dsimp only
    | split

theorem State.switchRtu_canon (s : State) (hc0 : State.Canon s) :
    State.Canon (State.switchRtu s) := by
  unfold State.switchRtu
  repeat' first
    | with_reducible assumption
    | with_reducible apply State.mem_canon
    | with_reducible apply State.peers_canon
    | dsimp only
    | split

theorem State.commitRtu_canon (s : State) (hc0 : State.Canon s) :
    State.Canon (State.commitRtu s) := by
  unfold State.commitRtu
  repeat' first
    | with_reducible assumption
    | with_reducible apply State.switchRtu_canon
    | with_reducible apply State.mem_canon
    | with_reducible apply State.peers_canon
    | dsimp only
    | split

theorem State.abortRtu_canon (s : State) (hc0 : State.Canon s) :
    State.Canon (State.abortRtu s) := by
  unfold State.abortRtu
  repeat' first
    | with_reducible assumption
    | with_reducible apply State.mem_canon
    | with_reducible apply State.peers_canon
    | dsimp only
    | split

theorem State.writeRtuctl_canon (s : State) (v : Word) (hc0 : State.Canon s) :
    State.Canon (State.writeRtuctl s v) := by
  unfold State.writeRtuctl
  repeat' first
    | with_reducible assumption
    | with_reducible apply State.abortRtu_canon
    | with_reducible apply State.commitRtu_canon
    | with_reducible apply State.stageRtu_canon
    | dsimp only
    | split

theorem execRtuctlStage_canon (v : Word) (s : State) (hc1 : State.Canon s) :
    Keeps (execRtuctlStage v s) := by
  unfold execRtuctlStage
  repeat' first
    | with_reducible assumption
    | with_reducible apply keeps_next
    | with_reducible apply keeps_fault
    | with_reducible apply State.stageRtu_canon

theorem execRtuctlCommit_canon (s : State) (hc0 : State.Canon s) :
    Keeps (execRtuctlCommit s) := by
  unfold execRtuctlCommit
  repeat' first
    | with_reducible assumption
    | with_reducible apply keeps_next
    | with_reducible apply keeps_fault
    | with_reducible apply State.switchRtu_canon
    | with_reducible apply State.commitRtu_canon
    | dsimp only
    | split

theorem execRtuctlAbort_canon (s : State) (hc0 : State.Canon s) :
    Keeps (execRtuctlAbort s) := by
  unfold execRtuctlAbort
  repeat' first
    | with_reducible assumption
    | with_reducible apply keeps_next
    | with_reducible apply keeps_fault
    | with_reducible apply State.abortRtu_canon

theorem execRtuStagingDone_canon (s : State) (hc0 : State.Canon s) :
    Keeps (execRtuStagingDone s) := by
  unfold execRtuStagingDone
  repeat' first
    | with_reducible assumption
    | with_reducible apply keeps_next
    | with_reducible apply keeps_fault
    | with_reducible apply State.mem_canon
    | with_reducible apply State.peers_canon
    | dsimp only
    | split

theorem State.setInst_canon (s : State) (i : ℕ) (x : Inst) (hc0 : State.Canon s) :
    State.Canon (State.setInst s i x) := by
  unfold State.setInst
  repeat' first
    | with_reducible assumption

theorem execRerunCompare_canon (i : ℕ) (tile : ℕ) (shadow : List (ℕ × BitVec 64 × BitVec 8)) (anchor : ℕ × ℕ) (s : State) (hc4 : State.Canon s) :
    Keeps (execRerunCompare i tile shadow anchor s) := by
  unfold execRerunCompare
  repeat' first
    | with_reducible assumption
    | with_reducible apply keeps_next
    | with_reducible apply keeps_fault
    | with_reducible apply State.setReg_canon
    | with_reducible apply State.setInst_canon
    | dsimp only
    | split

theorem State.clearRerun_canon (s : State) (hc0 : State.Canon s) :
    State.Canon (State.clearRerun s) := by
  unfold State.clearRerun
  repeat' first
    | with_reducible assumption
    | with_reducible apply State.setReg_canon

theorem execRrstatClear_canon (s : State) (hc0 : State.Canon s) :
    Keeps (execRrstatClear s) := by
  unfold execRrstatClear
  repeat' first
    | with_reducible assumption
    | with_reducible apply keeps_next
    | with_reducible apply keeps_fault
    | with_reducible apply State.clearRerun_canon

theorem State.writeTlbinv_canon (s : State) (c : Fin 16) (v : Word) (hc0 : State.Canon s) :
    State.Canon (State.writeTlbinv s c v) := by
  unfold State.writeTlbinv
  repeat' first
    | with_reducible assumption
    | with_reducible apply State.mem_canon
    | with_reducible apply State.peers_canon
    | with_reducible apply State.mapThreads_canon
    | with_reducible apply State.setRegBits_canon

theorem execTlbinvWrite_canon (ctx : Fin 16) (v : Word) (s : State) (hc2 : State.Canon s) :
    Keeps (execTlbinvWrite ctx v s) := by
  unfold execTlbinvWrite
  repeat' first
    | with_reducible assumption
    | with_reducible apply keeps_next
    | with_reducible apply keeps_fault
    | with_reducible apply State.writeTlbinv_canon
    | dsimp only
    | split

theorem execTlbInvalidationDone_canon (ctx : Fin 16) (s : State) (hc1 : State.Canon s) :
    Keeps (execTlbInvalidationDone ctx s) := by
  unfold execTlbInvalidationDone
  repeat' first
    | with_reducible assumption
    | with_reducible apply keeps_next
    | with_reducible apply keeps_fault
    | with_reducible apply State.dropTlb_canon
    | with_reducible apply State.drain_canon
    | with_reducible apply State.setRegBits_canon
    | dsimp only
    | split

theorem State.writeRgnctl_canon (s : State) (c : Fin 16) (v : Word) (hc0 : State.Canon s) :
    State.Canon (State.writeRgnctl s c v) := by
  unfold State.writeRgnctl
  repeat' first
    | with_reducible assumption
    | with_reducible apply State.setReg_canon

theorem execRgnctlCountWrite_canon (ctx : Fin 16) (v : Word) (s : State) (hc2 : State.Canon s) :
    Keeps (execRgnctlCountWrite ctx v s) := by
  unfold execRgnctlCountWrite
  repeat' first
    | with_reducible assumption
    | with_reducible apply keeps_next
    | with_reducible apply keeps_fault
    | with_reducible apply State.writeRgnctl_canon

theorem State.applyRegion_canon (s : State) (core : CoreId) (c : Fin 16) (line : ℕ) (hc0 : State.Canon s) :
    State.Canon (State.applyRegion s core c line) := by
  unfold State.applyRegion
  repeat' first
    | with_reducible assumption
    | with_reducible apply State.updCtx_canon
    | dsimp only
    | split

theorem execRegionTableReadDone_canon (ctx : Fin 16) (s : State) (hc1 : State.Canon s) :
    Keeps (execRegionTableReadDone ctx s) := by
  unfold execRegionTableReadDone
  repeat' first
    | with_reducible assumption
    | with_reducible apply keeps_next
    | with_reducible apply keeps_fault
    | with_reducible apply State.setReg_canon
    | with_reducible apply State.updCtx_canon
    | dsimp only
    | split

theorem State.makeReady_canon (s : State) (c : Fin 16) (tid : BitVec 24) (hc0 : State.Canon s) :
    State.Canon (State.makeReady s c tid) := by
  unfold State.makeReady
  repeat' first
    | with_reducible assumption
    | with_reducible apply State.updThread_canon
    | with_reducible apply State.tick_canon
    | with_reducible refine canon_of_pair (by assumption) ?_
    | dsimp only
    | split

theorem State.restart_canon (s : State) (c : Fin 16) (hc0 : State.Canon s) :
    State.Canon (State.restart s c) := by
  unfold State.restart
  repeat' first
    | with_reducible assumption
    | with_reducible apply foldl_canon
    | with_reducible apply State.makeReady_canon
    | with_reducible apply State.updThread_canon
    | with_reducible apply State.updCtx_canon
    | dsimp only
    | split
    | intro _

theorem State.writeRlogctl_canon (s : State) (c : Fin 16) (v : Word) (hc0 : State.Canon s) :
    State.Canon (State.writeRlogctl s c v) := by
  unfold State.writeRlogctl
  repeat' first
    | with_reducible assumption
    | with_reducible apply State.setReg_canon
    | with_reducible apply State.restart_canon
    | dsimp only
    | split

theorem execRlogctlPendClear_canon (ctx : Fin 16) (v : Word) (s : State) (hc2 : State.Canon s) :
    Keeps (execRlogctlPendClear ctx v s) := by
  unfold execRlogctlPendClear
  repeat' first
    | with_reducible assumption
    | with_reducible apply keeps_next
    | with_reducible apply keeps_fault
    | with_reducible apply State.writeRlogctl_canon

theorem State.unhold_canon (s : State) (c : Fin 16) (r : Record) (hc0 : State.Canon s) :
    State.Canon (State.unhold s c r) := by
  unfold State.unhold
  repeat' first
    | with_reducible assumption
    | with_reducible apply State.writeWords_canon
    | with_reducible apply State.updThread_canon
    | dsimp only
    | split

theorem State.flushHeld_canon (s : State) (c : Fin 16) (z2 : ℕ) (hc0 : State.Canon s) :
    State.Canon (State.flushHeld s c z2) := by
  induction z2 generalizing s c with
  | zero  =>
    unfold State.flushHeld
    repeat' first
      | with_reducible assumption
  | succ n_ ih =>
    unfold State.flushHeld
    repeat' first
      | with_reducible assumption
      | with_reducible apply ih
      | with_reducible apply State.queueWrite_canon
      | with_reducible apply State.unhold_canon
      | with_reducible apply State.updCtx_canon
      | dsimp only
      | split

theorem State.writeHeld_canon (s : State) (c : Fin 16) (hc0 : State.Canon s) :
    State.Canon (State.writeHeld s c) := by
  unfold State.writeHeld
  repeat' first
    | with_reducible assumption
    | with_reducible apply State.flushHeld_canon

theorem State.writeFqctl_canon (s : State) (c : Fin 16) (q : Fin 3) (v : Word) (hc0 : State.Canon s) :
    State.Canon (State.writeFqctl s c q v) := by
  unfold State.writeFqctl
  repeat' first
    | with_reducible assumption
    | with_reducible apply State.writeHeld_canon
    | with_reducible apply State.setReg_canon

theorem execFqctlRdWrite_canon (ctx : Fin 16) (fq : Fin 3) (v : Word) (s : State) (hc3 : State.Canon s) :
    Keeps (execFqctlRdWrite ctx fq v s) := by
  unfold execFqctlRdWrite
  repeat' first
    | with_reducible assumption
    | with_reducible apply keeps_next
    | with_reducible apply keeps_fault
    | with_reducible apply State.writeFqctl_canon

theorem State.flushAll_canon (s : State) (p : CacheLine → Bool) (hc0 : State.Canon s) :
    State.Canon (State.flushAll s p) := by
  unfold State.flushAll
  repeat' first
    | with_reducible assumption
    | with_reducible apply State.flushLines_canon
    | with_reducible apply State.drain_canon

theorem State.sweep_canon (s : State) (core : CoreId) (c : Fin 16) (r : ℕ) (hc0 : State.Canon s) :
    State.Canon (State.sweep s core c r) := by
  unfold State.sweep
  repeat' first
    | with_reducible assumption
    | with_reducible apply State.flushAll_canon

theorem State.sendGrant_canon (s : State) (c : Fin 16) (r : ℕ) (who : Holder) (p : Place) (hc0 : State.Canon s) :
    State.Canon (State.sendGrant s c r who p) := by
  unfold State.sendGrant
  repeat' first
    | with_reducible assumption
    | with_reducible apply State.post_canon

theorem State.passOn_canon (s : State) (c : Fin 16) (k : Token) (z3 : ℕ) (hc0 : State.Canon s) :
    State.Canon (State.passOn s c k z3) := by
  induction z3 generalizing s c k with
  | zero  =>
    unfold State.passOn
    repeat' first
      | with_reducible assumption
      | with_reducible apply State.setToken_canon
  | succ n_ ih =>
    unfold State.passOn
    repeat' first
      | with_reducible assumption
      | with_reducible apply ih
      | with_reducible apply State.setToken_canon
      | with_reducible apply State.sendGrant_canon
      | dsimp only
      | split

theorem State.drainRegion_canon (s : State) (c : Fin 16) (who : Holder) (r : ℕ) (hc0 : State.Canon s) :
    State.Canon (State.drainRegion s c who r) := by
  unfold State.drainRegion
  repeat' first
    | with_reducible assumption
    | with_reducible apply State.drain_canon

theorem State.giveUp_canon (s : State) (c : Fin 16) (r : ℕ) (sweeping : Bool) (hc0 : State.Canon s) :
    State.Canon (State.giveUp s c r sweeping) := by
  unfold State.giveUp
  repeat' first
    | with_reducible assumption
    | with_reducible apply State.sweep_canon
    | with_reducible apply State.passOn_canon
    | with_reducible apply State.drainRegion_canon
    | dsimp only
    | split

theorem State.releaseTokens_canon (s : State) (c : Fin 16) (tid : BitVec 24) (sweeping : Bool) (hc0 : State.Canon s) :
    State.Canon (State.releaseTokens s c tid sweeping) := by
  unfold State.releaseTokens
  repeat' first
    | with_reducible assumption
    | with_reducible apply foldl_canon
    | with_reducible apply State.giveUp_canon
    | with_reducible apply State.updCtx_canon
    | dsimp only
    | split
    | intro _

theorem State.updLaunch_canon (s : State) (c : Fin 16) (id : ℕ) (f : Launch → Launch) (hc0 : State.Canon s) :
    State.Canon (State.updLaunch s c id f) := by
  unfold State.updLaunch
  repeat' first
    | with_reducible assumption
    | with_reducible apply State.updCtx_canon

theorem State.stir_canon (s : State) (i : ℕ) (x : Inst) (hc0 : State.Canon s) :
    State.Canon (State.stir s i x) := by
  unfold State.stir
  repeat' first
    | with_reducible assumption
    | with_reducible apply State.setInst_canon

theorem State.doorEnd_canon (s : State) (c : Fin 16) (uid : ℕ) (d : ℕ) (ticket : ℕ) (t : Thread) (good : Bool) (hc0 : State.Canon s) :
    State.Canon (State.doorEnd s c uid d ticket t good) := by
  unfold State.doorEnd
  repeat' first
    | with_reducible assumption
    | with_reducible apply State.stir_canon
    | dsimp only
    | split

theorem State.report_canon (s : State) (t : Thread) (good : Bool) (hc0 : State.Canon s) :
    State.Canon (State.report s t good) := by
  unfold State.report
  repeat' first
    | with_reducible assumption
    | with_reducible apply State.updLaunch_canon
    | with_reducible apply State.doorEnd_canon
    | dsimp only
    | split

theorem State.endThread_canon (s : State) (p : Place) (good : Bool) (sweep : Bool) (hc0 : State.Canon s) :
    State.Canon (State.endThread s p good sweep) := by
  unfold State.endThread
  repeat' first
    | with_reducible assumption
    | with_reducible apply State.dropThread_canon
    | with_reducible apply State.releaseTokens_canon
    | with_reducible apply State.mem_canon
    | with_reducible apply State.peers_canon
    | with_reducible apply State.report_canon
    | with_reducible apply State.updCtx_canon
    | dsimp only
    | split

theorem State.writeCxrsm_canon (s : State) (c : Fin 16) (v : Word) (hc0 : State.Canon s) :
    State.Canon (State.writeCxrsm s c v) := by
  unfold State.writeCxrsm
  repeat' first
    | with_reducible assumption
    | with_reducible apply State.updThread_canon
    | with_reducible apply State.tick_canon
    | with_reducible apply State.endThread_canon
    | with_reducible refine canon_of_pair (by assumption) ?_
    | dsimp only
    | split

theorem execCxrsmResume_canon (ctx : Fin 16) (v : Word) (s : State) (hc2 : State.Canon s) :
    Keeps (execCxrsmResume ctx v s) := by
  unfold execCxrsmResume
  repeat' first
    | with_reducible assumption
    | with_reducible apply keeps_next
    | with_reducible apply keeps_fault
    | with_reducible apply State.writeCxrsm_canon

theorem execCxrsmDiscard_canon (ctx : Fin 16) (v : Word) (s : State) (hc2 : State.Canon s) :
    Keeps (execCxrsmDiscard ctx v s) := by
  unfold execCxrsmDiscard
  repeat' first
    | with_reducible assumption
    | with_reducible apply keeps_next
    | with_reducible apply keeps_fault
    | with_reducible apply State.writeCxrsm_canon

theorem State.installTable_canon (s : State) (site : ℕ) (n : Fin 4) (seq : ℕ) (v : Vector (BitVec 19) 256) (hc0 : State.Canon s) :
    State.Canon (State.installTable s site n seq v) := by
  unfold State.installTable
  repeat' first
    | with_reducible assumption
    | with_reducible apply State.setSite_canon
    | dsimp only
    | split

theorem State.tableTouch_canon (s : State) (p : Word) (i : ℕ) (hc0 : State.Canon s) :
    State.Canon (State.tableTouch s p i) := by
  unfold State.tableTouch
  repeat' first
    | with_reducible assumption
    | with_reducible apply State.threadTouch_canon
    | dsimp only
    | split

theorem State.tableLoad_canon (s : State) (p : Word) (ea : ℕ) (pa : ℕ) (hc0 : State.Canon s) :
    ExCanonL (State.tableLoad s p ea pa) := by
  unfold State.tableLoad
  repeat' first
    | with_reducible assumption
    | with_reducible apply exCanonL_ok
    | with_reducible exact exCanonL_error
    | with_reducible apply State.loadAt_canon
    | with_reducible apply State.drain_canon
    | with_reducible refine canon_of_okL (by assumption) ?_
    | dsimp only
    | split

theorem State.tableGranule_canon (s : State) (p : Word) (i : ℕ) (hc0 : State.Canon s) :
    ExCanonL (State.tableGranule s p i) := by
  unfold State.tableGranule
  repeat' first
    | with_reducible assumption
    | with_reducible apply exCanon_ok
    | with_reducible exact exCanon_error
    | with_reducible apply exCanonL_ok
    | with_reducible exact exCanonL_error
    | with_reducible apply State.tableLoad_canon
    | with_reducible apply State.walkNow_canon
    | with_reducible refine canon_of_ok (by assumption) ?_
    | with_reducible refine canon_of_okL (by assumption) ?_
    | dsimp only
    | split

theorem State.tableRead_canon (s : State) (p : Word) (got : Sparse (BitVec 128)) (z3 : ℕ) (z4 : ℕ) (z5 : List (BitVec 128)) (hc0 : State.Canon s) :
    State.Canon (State.tableRead s p got z3 z4 z5).1 := by
  induction z3 generalizing s p got z4 z5 with
  | zero  =>
    unfold State.tableRead
    repeat' first
      | with_reducible assumption
  | succ n_ ih =>
    unfold State.tableRead
    repeat' first
      | with_reducible assumption
      | with_reducible apply ih
      | with_reducible apply exCanonL_ok
      | with_reducible exact exCanonL_error
      | with_reducible apply State.tableTouch_canon
      | with_reducible apply State.tableGranule_canon
      | with_reducible refine canon_of_pair (by assumption) ?_
      | with_reducible refine canon_of_okL (by assumption) ?_
      | dsimp only
      | split

theorem State.tableFinish_canon (s : State) (n : Fin 4) (p : Word) (seq : ℕ) (got : Sparse (BitVec 128)) (hc0 : State.Canon s) :
    State.Canon (State.tableFinish s n p seq got) := by
  have h1 : State.Canon { s with th := { s.th with st := .run, wait := .none, tseq := 0 } } := hc0
  have ht := State.tableRead_canon _ p got 64 0 [] h1
  rw [State.tableFinish]
  split
  · rename_i e
    exact State.deliver_canon _ _ (canon_of_pair e ht)
  · rename_i e
    exact State.pageFault_canon _ _ _ _ (canon_of_pair e ht)
  · rename_i e
    exact canon_th (State.block_canon _ _ (State.askFill_canon _ _ _ _ (canon_of_pair e ht))) _
  · exact hc0
  · exact hc0
  · rename_i u l e
    have hu : u.Canon := canon_of_pair e ht
    dsimp only
    split
    · exact State.deliver_canon _ _ hu
    · split
      · refine State.advance_canon _ ?_
        split
        · exact State.installTable_canon _ _ _ _ _ hu
        · exact hu
      · exact State.deliver_canon _ _ hu

theorem State.flushCore_canon (s : State) (core : CoreId) (c : Fin 16) (hc0 : State.Canon s) :
    State.Canon (State.flushCore s core c) := by
  unfold State.flushCore
  repeat' first
    | with_reducible assumption
    | with_reducible apply State.flushAll_canon

theorem State.dropClean_canon (s : State) (core : CoreId) (c : Fin 16) (hc0 : State.Canon s) :
    State.Canon (State.dropClean s core c) := by
  unfold State.dropClean
  repeat' first
    | with_reducible assumption

theorem State.flushEnd_canon (s : State) (f : Flush) (hc0 : State.Canon s) :
    State.Canon (State.flushEnd s f) := by
  unfold State.flushEnd
  repeat' first
    | with_reducible assumption
    | with_reducible apply State.flushCore_canon
    | with_reducible apply State.dropClean_canon
    | with_reducible apply State.updCtx_canon
    | dsimp only
    | split

theorem State.endFlushes_canon (s : State) (hc0 : State.Canon s) :
    State.Canon (State.endFlushes s) := by
  unfold State.endFlushes
  repeat' first
    | with_reducible assumption
    | with_reducible apply foldl_canon
    | with_reducible apply State.mem_canon
    | with_reducible apply State.peers_canon
    | with_reducible apply State.flushEnd_canon

theorem State.settleTable_canon (s : State) (p : Place) (z2 : ℕ) (hc0 : State.Canon s) :
    State.Canon (State.settleTable s p z2) := by
  induction z2 generalizing s p with
  | zero  =>
    unfold State.settleTable
    repeat' first
      | with_reducible assumption
  | succ n_ ih =>
    unfold State.settleTable
    repeat' first
      | with_reducible assumption
      | with_reducible apply ih
      | with_reducible apply optCanon_some
      | with_reducible exact optCanon_none
      | with_reducible apply optCanon_map
      | with_reducible apply State.tableFinish_canon
      | with_reducible apply State.focus_canon
      | with_reducible apply State.endFlushes_canon
      | with_reducible refine canon_of_some (by assumption) ?_
      | dsimp only
      | split

theorem State.preempt_canon (s : State) (p : Place) (hc0 : State.Canon s) :
    State.Canon (State.preempt s p) := by
  unfold State.preempt
  repeat' first
    | with_reducible assumption
    | with_reducible apply optCanon_some
    | with_reducible exact optCanon_none
    | with_reducible apply optCanon_map
    | with_reducible apply State.saveTh_canon
    | with_reducible apply State.settleTable_canon
    | with_reducible apply State.focus_canon
    | with_reducible refine canon_of_some (by assumption) ?_
    | dsimp only
    | split

theorem State.writeCxpre_canon (s : State) (c : Fin 16) (v : Word) (hc0 : State.Canon s) :
    State.Canon (State.writeCxpre s c v) := by
  unfold State.writeCxpre
  repeat' first
    | with_reducible assumption
    | with_reducible apply State.preempt_canon
    | dsimp only
    | split

theorem execCxpreWrite_canon (ctx : Fin 16) (v : Word) (s : State) (hc2 : State.Canon s) :
    Keeps (execCxpreWrite ctx v s) := by
  unfold execCxpreWrite
  repeat' first
    | with_reducible assumption
    | with_reducible apply keeps_next
    | with_reducible apply keeps_fault
    | with_reducible apply State.writeCxpre_canon

theorem State.stopEngines_canon (s : State) (x : Inst) (hc0 : State.Canon s) :
    State.Canon (State.stopEngines s x) := by
  unfold State.stopEngines
  repeat' first
    | with_reducible assumption

theorem State.adoptTables_canon (s : State) (n : ℕ) (hc0 : State.Canon s) :
    State.Canon (State.adoptTables s n) := by
  unfold State.adoptTables
  repeat' first
    | with_reducible assumption
    | with_reducible apply State.setSite_canon

theorem State.claim_canon (s : State) (c : Option (Fin 16)) (e : ℕ × ℕ) (rows : Vector AccRow 16) (n : Counts) (hc0 : State.Canon s) :
    State.Canon (State.claim s c e rows n) := by
  unfold State.claim
  repeat' first
    | with_reducible assumption
    | with_reducible apply State.setSite_canon

theorem State.unclaim_canon (s : State) (e : ℕ × ℕ) (hc0 : State.Canon s) :
    State.Canon (State.unclaim s e) := by
  unfold State.unclaim
  repeat' first
    | with_reducible assumption
    | with_reducible apply State.claim_canon

theorem State.vacate_canon (s : State) (x : Inst) (hc0 : State.Canon s) :
    State.Canon (State.vacate s x) := by
  unfold State.vacate
  repeat' first
    | with_reducible assumption
    | with_reducible apply foldl_canon
    | with_reducible apply State.adoptTables_canon
    | with_reducible apply State.unclaim_canon

theorem State.release__canon (s : State) (i : ℕ) (hc0 : State.Canon s) :
    State.Canon (State.release_ s i) := by
  unfold State.release_
  repeat' first
    | with_reducible assumption
    | with_reducible apply State.stopEngines_canon
    | with_reducible apply State.mem_canon
    | with_reducible apply State.peers_canon
    | with_reducible apply State.vacate_canon
    | with_reducible apply State.updCtx_canon
    | dsimp only
    | split

theorem State.releaseAll_canon (s : State) (p : Inst → Bool) (z2 : ℕ) (hc0 : State.Canon s) :
    State.Canon (State.releaseAll s p z2) := by
  induction z2 generalizing s p with
  | zero  =>
    unfold State.releaseAll
    repeat' first
      | with_reducible assumption
  | succ n_ ih =>
    unfold State.releaseAll
    repeat' first
      | with_reducible assumption
      | with_reducible apply ih
      | with_reducible apply State.release__canon
      | dsimp only
      | split

theorem State.enginePost_canon (s : State) (src : ℕ) (pa : ℕ) (hc0 : State.Canon s) :
    State.Canon (State.enginePost s src pa) := by
  unfold State.enginePost
  repeat' first
    | with_reducible assumption
    | with_reducible apply State.send_canon
    | dsimp only
    | split

theorem State.engineWrite_canon (s : State) (src : ℕ) (c : Fin 16) (h : Handle) (pa : ℕ) (n : ℕ) (v : ℕ) (hc0 : State.Canon s) :
    State.Canon (State.engineWrite s src c h pa n v) := by
  unfold State.engineWrite
  repeat' first
    | with_reducible assumption
    | with_reducible apply State.enginePost_canon
    | with_reducible apply State.writeHome_canon
    | with_reducible apply State.makeFull_canon
    | dsimp only
    | split

theorem State.engineGranules_canon (s : State) (c : Fin 16) (pa : ℕ) (z3 : List Word) (hc0 : State.Canon s) :
    State.Canon (State.engineGranules s c pa z3) := by
  fun_induction State.engineGranules s c pa z3 with
  | case1 s pa a b l ih => exact ih (State.engineWrite_canon _ _ _ _ _ _ _ hc0)
  | case2 s pa a => exact State.engineWrite_canon _ _ _ _ _ _ _ hc0
  | case3 => exact hc0

theorem State.asyncRecord_canon (s : State) (launch : Option ℕ) (key : ℕ) (q : Fin 3) (r : Record) (hc0 : State.Canon s) :
    State.Canon (State.asyncRecord s launch key q r).1 := by
  unfold State.asyncRecord
  repeat' first
    | with_reducible assumption
    | with_reducible apply State.makeRecord_canon
    | with_reducible apply State.queueRecord_canon
    | with_reducible apply State.blame_canon
    | with_reducible refine canon_of_pair (by assumption) ?_
    | dsimp only
    | split

theorem State.seqRecord_canon (s : State) (c : Fin 16) (launch : Option ℕ) (f : EngineFault) (addr : Word) (cmd : BitVec 32) (h : Handle) (site : ℕ) (slot : ℕ) (hc0 : State.Canon s) :
    State.Canon (State.seqRecord s c launch f addr cmd h site slot) := by
  unfold State.seqRecord
  repeat' first
    | with_reducible assumption
    | with_reducible apply State.asyncRecord_canon

theorem State.completeLaunch_canon (s : State) (c : Fin 16) (l : Launch) (g : Option Graph) (st : ℕ) (hc0 : State.Canon s) :
    State.Canon (State.completeLaunch s c l g st) := by
  unfold State.completeLaunch
  repeat' first
    | with_reducible assumption
    | with_reducible apply State.setReg_canon
    | with_reducible apply State.engineGranules_canon
    | with_reducible apply State.message_canon
    | with_reducible apply State.seqRecord_canon
    | with_reducible apply State.updCtx_canon
    | with_reducible refine canon_of_pair (by assumption) ?_
    | dsimp only
    | split

theorem State.stopGraph_canon (s : State) (c : Fin 16) (g : Fin 4) (st : ℕ) (hc0 : State.Canon s) :
    State.Canon (State.stopGraph s c g st) := by
  unfold State.stopGraph
  repeat' first
    | with_reducible assumption
    | with_reducible apply State.updCtx_canon
    | with_reducible apply State.updGraph_canon

theorem State.ownWriteBack_canon (s : State) (x : Inst) (page : ℕ) (l : OwnLine) (hc0 : State.Canon s) :
    State.Canon (State.ownWriteBack s x page l) := by
  unfold State.ownWriteBack
  repeat' first
    | with_reducible assumption
    | with_reducible apply foldl_canon
    | with_reducible apply State.enginePost_canon
    | with_reducible apply State.writeHome_canon
    | dsimp only
    | split
    | intro _

theorem State.ownFlush_canon (s : State) (x : Inst) (page : ℕ) (z3 : List OwnLine) (hc0 : State.Canon s) :
    State.Canon (State.ownFlush s x page z3).1 := by
  induction z3 generalizing s x page with
  | nil  =>
    unfold State.ownFlush
    repeat' first
      | with_reducible assumption
  | cons x_ l_ ih =>
    unfold State.ownFlush
    repeat' first
      | with_reducible assumption
      | with_reducible apply ih
      | with_reducible apply State.ownWriteBack_canon
      | with_reducible refine canon_of_pair (by assumption) ?_
      | dsimp only
      | split

theorem State.ownClean_canon (s : State) (i : ℕ) (page : ℕ) (p : Fin 4) (hc0 : State.Canon s) :
    State.Canon (State.ownClean s i page p) := by
  unfold State.ownClean
  repeat' first
    | with_reducible assumption
    | with_reducible apply State.setInst_canon
    | with_reducible apply State.ownFlush_canon
    | with_reducible refine canon_of_pair (by assumption) ?_
    | dsimp only
    | split

theorem State.ownCleanAll_canon (s : State) (i : ℕ) (hc0 : State.Canon s) :
    State.Canon (State.ownCleanAll s i) := by
  unfold State.ownCleanAll
  repeat' first
    | with_reducible assumption
    | with_reducible apply foldl_canon
    | with_reducible apply State.ownClean_canon
    | dsimp only
    | split
    | intro _

theorem State.beginSave_canon (s : State) (i : ℕ) (x : Inst) (hc0 : State.Canon s) :
    State.Canon (State.beginSave s i x) := by
  unfold State.beginSave
  repeat' first
    | with_reducible assumption
    | with_reducible apply State.free_canon
    | with_reducible apply State.setInst_canon
    | with_reducible refine canon_of_pair (by assumption) ?_
    | dsimp only
    | split

theorem State.carryOut_canon (s : State) (i : ℕ) (hc0 : State.Canon s) :
    State.Canon (State.carryOut s i) := by
  unfold State.carryOut
  repeat' first
    | with_reducible assumption
    | with_reducible apply State.release__canon
    | with_reducible apply State.setInst_canon
    | with_reducible apply State.ownCleanAll_canon
    | with_reducible apply State.tick_canon
    | with_reducible apply State.beginSave_canon
    | with_reducible refine canon_of_pair (by assumption) ?_
    | dsimp only
    | split

theorem State.request_canon (s : State) (i : ℕ) (p : Pending) (hc0 : State.Canon s) :
    State.Canon (State.request s i p) := by
  unfold State.request
  repeat' first
    | with_reducible assumption
    | with_reducible apply State.carryOut_canon
    | with_reducible apply State.setInst_canon
    | dsimp only
    | split

theorem State.releaseEach_canon (s : State) (c : Fin 16) (l : List ℕ) (hc0 : State.Canon s) :
    State.Canon (State.releaseEach s c l) := by
  unfold State.releaseEach
  repeat' first
    | with_reducible assumption
    | with_reducible apply foldl_canon
    | with_reducible apply State.request_canon
    | dsimp only
    | split
    | intro _

theorem State.finishGraph_canon (s : State) (c : Fin 16) (g : Fin 4) (st : ℕ) (hc0 : State.Canon s) :
    State.Canon (State.finishGraph s c g st) := by
  unfold State.finishGraph
  repeat' first
    | with_reducible assumption
    | with_reducible apply State.mem_canon
    | with_reducible apply State.releaseAll_canon
    | with_reducible apply State.peers_canon
    | with_reducible apply State.completeLaunch_canon
    | with_reducible apply State.stopGraph_canon
    | with_reducible apply State.releaseEach_canon
    | with_reducible apply State.updCtx_canon
    | dsimp only
    | split

theorem State.discardInst_canon (s : State) (i : ℕ) (x : Inst) (hc0 : State.Canon s) :
    State.Canon (State.discardInst s i x) := by
  unfold State.discardInst
  repeat' first
    | with_reducible assumption
    | with_reducible apply State.release__canon
    | with_reducible apply State.finishGraph_canon
    | dsimp only
    | split

theorem State.shutDiscard_canon (s : State) (i : ℕ) (hc0 : State.Canon s) :
    State.Canon (State.shutDiscard s i) := by
  unfold State.shutDiscard
  repeat' first
    | with_reducible assumption
    | with_reducible apply State.discardInst_canon
    | dsimp only
    | split

theorem State.shutResume_canon (s : State) (i : ℕ) (withdraw : Bool) (hc0 : State.Canon s) :
    State.Canon (State.shutResume s i withdraw) := by
  unfold State.shutResume
  repeat' first
    | with_reducible assumption
    | with_reducible apply State.carryOut_canon
    | with_reducible apply State.setInst_canon
    | with_reducible apply State.request_canon
    | dsimp only
    | split

theorem State.countReload_canon (s : State) (c : Fin 16) (hc0 : State.Canon s) :
    State.Canon (State.countReload s c) := by
  unfold State.countReload
  repeat' first
    | with_reducible assumption
    | with_reducible apply State.updCtx_canon

theorem State.shutReload_canon (s : State) (i : ℕ) (hc0 : State.Canon s) :
    State.Canon (State.shutReload s i) := by
  unfold State.shutReload
  repeat' first
    | with_reducible assumption
    | with_reducible apply State.countReload_canon
    | with_reducible apply State.shutDiscard_canon
    | with_reducible apply State.shutResume_canon
    | dsimp only
    | split

theorem State.writeShutctl_canon (s : State) (c : Fin 16) (v : Word) (hc0 : State.Canon s) :
    State.Canon (State.writeShutctl s c v) := by
  unfold State.writeShutctl
  repeat' first
    | with_reducible assumption
    | with_reducible apply State.shutDiscard_canon
    | with_reducible apply State.shutResume_canon
    | with_reducible apply State.shutReload_canon
    | dsimp only
    | split

theorem execShutctlResume_canon (ctx : Fin 16) (v : Word) (s : State) (hc2 : State.Canon s) :
    Keeps (execShutctlResume ctx v s) := by
  unfold execShutctlResume
  repeat' first
    | with_reducible assumption
    | with_reducible apply keeps_next
    | with_reducible apply keeps_fault
    | with_reducible apply State.writeShutctl_canon

theorem execShutctlDiscard_canon (ctx : Fin 16) (v : Word) (s : State) (hc2 : State.Canon s) :
    Keeps (execShutctlDiscard ctx v s) := by
  unfold execShutctlDiscard
  repeat' first
    | with_reducible assumption
    | with_reducible apply keeps_next
    | with_reducible apply keeps_fault
    | with_reducible apply State.writeShutctl_canon

theorem execShutctlReload_canon (ctx : Fin 16) (v : Word) (s : State) (hc2 : State.Canon s) :
    Keeps (execShutctlReload ctx v s) := by
  unfold execShutctlReload
  repeat' first
    | with_reducible assumption
    | with_reducible apply keeps_next
    | with_reducible apply keeps_fault
    | with_reducible apply State.writeShutctl_canon

theorem State.poisonGranule_canon (s : State) (c : Fin 16) (h : Handle) (pa : ℕ) (hc0 : State.Canon s) :
    State.Canon (State.poisonGranule s c h pa) := by
  unfold State.poisonGranule
  repeat' first
    | with_reducible assumption
    | with_reducible apply Mem.wf_setByte
    | with_reducible apply Mem.wf_setTag
    | with_reducible apply Mem.wf_setFull
    | with_reducible apply Mem.wf_setPoison
    | with_reducible apply Mem.wf_write
    | with_reducible exact canon_mem (by assumption)
    | with_reducible exact canon_peers (by assumption)
    | with_reducible apply State.makeVersion_canon
    | with_reducible apply State.mem_canon
    | with_reducible apply State.peers_canon
    | with_reducible apply State.updMem_canon
    | with_reducible apply Mem.setPoison_canon
    | dsimp only
    | split
    | intro _

theorem State.engineAsk_canon (s : State) (src : ℕ) (pa : ℕ) (hc0 : State.Canon s) :
    State.Canon (State.engineAsk s src pa) := by
  unfold State.engineAsk
  repeat' first
    | with_reducible assumption
    | with_reducible apply State.roundTrip_canon
    | dsimp only
    | split

theorem State.portWrite_canon (s : State) (x : Inst) (page : ℕ) (pa : ℕ) (n : ℕ) (v : ℕ) (nt : Bool) (hc0 : State.Canon s) :
    State.Canon (State.portWrite s x page pa n v nt) := by
  unfold State.portWrite
  repeat' first
    | with_reducible assumption
    | with_reducible apply State.mem_canon
    | with_reducible apply State.engineWrite_canon
    | with_reducible apply State.peers_canon
    | dsimp only
    | split

theorem State.spillAccess_canon (s : State) (i : ℕ) (x : Inst) (page : ℕ) (p : Fin 4) (k : ℕ) (a : PortAccess) (f : PortFault) (hc0 : State.Canon s) :
    State.Canon (State.spillAccess s i x page p k a f) := by
  unfold State.spillAccess
  repeat' first
    | with_reducible assumption
    | with_reducible apply State.asyncRecord_canon
    | with_reducible apply State.setInst_canon
    | with_reducible apply State.stir_canon
    | with_reducible refine canon_of_pair (by assumption) ?_
    | dsimp only
    | split

theorem State.finishAccess_canon (s : State) (i : ℕ) (x : Inst) (page : ℕ) (p : Fin 4) (k : ℕ) (a : PortAccess) (d : Flit) (hc0 : State.Canon s) :
    State.Canon (State.finishAccess s i x page p k a d) := by
  unfold State.finishAccess
  repeat' first
    | with_reducible assumption
    | with_reducible apply State.stir_canon
    | dsimp only
    | split

theorem State.portTouch_canon (s : State) (x : Inst) (page : ℕ) (p : Fin 4) (a : PortAccess) (pa : ℕ) (rd : Bool) (wr : Bool) (hc0 : State.Canon s) :
    State.Canon (State.portTouch s x page p a pa rd wr) := by
  unfold State.portTouch
  repeat' first
    | with_reducible assumption
    | with_reducible apply State.touch_canon
    | dsimp only
    | split

theorem State.tryAccess_canon (s : State) (i : ℕ) (page : ℕ) (p : Fin 4) (k : ℕ) (hc0 : State.Canon s) :
    State.Canon (State.tryAccess s i page p k) := by
  unfold State.tryAccess
  repeat' first
    | with_reducible assumption
    | with_reducible apply State.poisonGranule_canon
    | with_reducible apply State.enginePost_canon
    | with_reducible apply State.engineAsk_canon
    | with_reducible apply State.touchLlc_canon
    | with_reducible apply State.portWrite_canon
    | with_reducible apply State.setInst_canon
    | with_reducible apply State.spillAccess_canon
    | with_reducible apply State.finishAccess_canon
    | with_reducible apply State.portTouch_canon
    | dsimp only
    | split

theorem State.retryAccess_canon (s : State) (i : ℕ) (page : ℕ) (p : Fin 4) (it : ℕ) (hc0 : State.Canon s) :
    State.Canon (State.retryAccess s i page p it) := by
  unfold State.retryAccess
  repeat' first
    | with_reducible assumption
    | with_reducible apply State.tryAccess_canon
    | with_reducible apply State.setInst_canon
    | dsimp only
    | split

theorem State.portRetry_canon (s : State) (site : ℕ) (p : Fin 4) (hc0 : State.Canon s) :
    State.Canon (State.portRetry s site p) := by
  unfold State.portRetry
  repeat' first
    | with_reducible assumption
    | with_reducible apply foldl_canon
    | with_reducible apply State.retryAccess_canon
    | with_reducible apply State.stir_canon
    | dsimp only
    | split
    | intro _

theorem State.portDiscard_canon (s : State) (site : ℕ) (p : Fin 4) (hc0 : State.Canon s) :
    State.Canon (State.portDiscard s site p) := by
  unfold State.portDiscard
  repeat' first
    | with_reducible assumption
    | with_reducible apply State.stir_canon
    | dsimp only
    | split

theorem State.writePres_canon (s : State) (n : ℕ) (p : Fin 4) (v : Word) (hc0 : State.Canon s) :
    State.Canon (State.writePres s n p v) := by
  unfold State.writePres
  repeat' first
    | with_reducible assumption
    | with_reducible apply State.portRetry_canon
    | with_reducible apply State.portDiscard_canon
    | dsimp only
    | split

theorem State.keepTranslation_canon (s : State) (k : Fin 128) (c : Fin 16) (va : ℕ) (hc0 : State.Canon s) :
    State.Canon (State.keepTranslation s k c va) := by
  unfold State.keepTranslation
  repeat' first
    | with_reducible assumption
    | with_reducible apply State.tlbAdd_canon
    | dsimp only
    | split

theorem State.elemTouch_canon (s : State) (pos : ℕ) (t : Xfer) (e : Spill) (pa : ℕ) (hc0 : State.Canon s) :
    State.Canon (State.elemTouch s pos t e pa) := by
  unfold State.elemTouch
  repeat' first
    | with_reducible assumption
    | with_reducible apply State.touch_canon
    | with_reducible apply State.keepTranslation_canon
    | dsimp only
    | split

theorem State.elemRead_canon (s : State) (pos : ℕ) (t : Xfer) (e : Spill) (pa : ℕ) (hc0 : State.Canon s) :
    State.Canon (State.elemRead s pos t e pa).1 := by
  unfold State.elemRead
  repeat' first
    | with_reducible assumption
    | with_reducible apply State.elemTouch_canon
    | with_reducible apply State.engineAsk_canon
    | with_reducible apply State.touchLlc_canon
    | with_reducible refine canon_of_pair (by assumption) ?_
    | dsimp only
    | split

theorem State.updXfer_canon (s : State) (pos : ℕ) (id : ℕ) (f : Xfer → Xfer) (hc0 : State.Canon s) :
    State.Canon (State.updXfer s pos id f) := by
  unfold State.updXfer
  repeat' first
    | with_reducible assumption
    | with_reducible apply State.setStreamer_canon

theorem State.awaitFill_canon (s : State) (pos : ℕ) (t : Xfer) (k : ℕ) (va : ℕ) (hc0 : State.Canon s) :
    State.Canon (State.awaitFill s pos t k va) := by
  unfold State.awaitFill
  repeat' first
    | with_reducible assumption
    | with_reducible apply State.updXfer_canon
    | with_reducible apply State.updCtx_canon

theorem State.failRoute_canon (s : State) (m : ℕ) (hc0 : State.Canon s) :
    State.Canon (State.failRoute s m) := by
  unfold State.failRoute
  repeat' first
    | with_reducible assumption
    | with_reducible apply State.setRegBits_canon

theorem State.answered_canon (s : State) (pos : ℕ) (hc0 : State.Canon s) :
    State.Canon (State.answered s pos) := by
  unfold State.answered
  repeat' first
    | with_reducible assumption

theorem State.spillElem_canon (s : State) (pos : ℕ) (t : Xfer) (e : Spill) (f : Option EngineFault) (hc0 : State.Canon s) :
    State.Canon (State.spillElem s pos t e f) := by
  unfold State.spillElem
  repeat' first
    | with_reducible assumption
    | with_reducible apply State.asyncRecord_canon
    | with_reducible apply State.setStreamer_canon
    | with_reducible refine canon_of_pair (by assumption) ?_
    | dsimp only
    | split

theorem State.tryElem_canon (s : State) (pos : ℕ) (t : Xfer) (e : Spill) (hc0 : State.Canon s) :
    TryCanon (State.tryElem s pos t e) := by
  unfold State.tryElem
  repeat' first
    | with_reducible assumption
    | with_reducible apply tryCanon_ok
    | with_reducible apply tryCanon_spilled
    | with_reducible apply tryCanon_wait
    | with_reducible apply State.awaitFill_canon
    | with_reducible apply State.failRoute_canon
    | with_reducible apply State.answered_canon
    | with_reducible apply State.spillElem_canon
    | with_reducible apply State.updXfer_canon
    | with_reducible refine canon_of_spilled (by assumption) ?_
    | with_reducible refine canon_of_wait (by assumption) ?_
    | dsimp only
    | split

theorem State.elemWrite_canon (s : State) (pos : ℕ) (t : Xfer) (e : Spill) (pa : ℕ) (hc0 : State.Canon s) :
    State.Canon (State.elemWrite s pos t e pa) := by
  unfold State.elemWrite
  repeat' first
    | with_reducible assumption
    | with_reducible apply State.poisonGranule_canon
    | with_reducible apply State.elemTouch_canon
    | with_reducible apply State.enginePost_canon
    | with_reducible apply State.engineWrite_canon
    | dsimp only
    | split

theorem State.putElem_canon (s : State) (pos : ℕ) (t : Xfer) (e : Spill) (hc0 : State.Canon s) :
    MovedCanon (State.putElem s pos t e) := by
  unfold State.putElem
  repeat' first
    | with_reducible assumption
    | with_reducible apply movedCanon_yes
    | with_reducible apply movedCanon_no
    | with_reducible apply tryCanon_ok
    | with_reducible apply tryCanon_spilled
    | with_reducible apply tryCanon_wait
    | with_reducible apply State.elemWrite_canon
    | with_reducible apply State.tryElem_canon
    | with_reducible refine canon_of_yes (by assumption) ?_
    | with_reducible refine canon_of_no (by assumption) ?_
    | with_reducible refine canon_of_spilled (by assumption) ?_
    | with_reducible refine canon_of_wait (by assumption) ?_
    | dsimp only
    | split

theorem State.moveElem_canon (s : State) (pos : ℕ) (t : Xfer) (e : Spill) (hc0 : State.Canon s) :
    MovedCanon (State.moveElem s pos t e) := by
  unfold State.moveElem
  repeat' first
    | with_reducible assumption
    | with_reducible apply movedCanon_yes
    | with_reducible apply movedCanon_no
    | with_reducible apply tryCanon_ok
    | with_reducible apply tryCanon_spilled
    | with_reducible apply tryCanon_wait
    | with_reducible apply State.elemRead_canon
    | with_reducible apply State.mem_canon
    | with_reducible apply State.peers_canon
    | with_reducible apply State.tryElem_canon
    | with_reducible apply State.putElem_canon
    | with_reducible refine canon_of_pair (by assumption) ?_
    | with_reducible refine canon_of_yes (by assumption) ?_
    | with_reducible refine canon_of_no (by assumption) ?_
    | with_reducible refine canon_of_spilled (by assumption) ?_
    | with_reducible refine canon_of_wait (by assumption) ?_
    | dsimp only
    | split

theorem State.applyUpdate_canon (s : State) (t : Xfer) (pa : ℕ) (op : AtomOp) (size : ℕ) (operand : Word) (hc0 : State.Canon s) :
    State.Canon (State.applyUpdate s t pa op size operand) := by
  unfold State.applyUpdate
  repeat' first
    | with_reducible assumption
    | with_reducible apply State.applyAtom_canon
    | with_reducible refine canon_of_pair (by assumption) ?_
    | dsimp only
    | split

theorem State.logUpdate_canon (s : State) (pos : ℕ) (t : Xfer) (p : Word) (operand : Word) (op : AtomOp) (cause : ℕ) (found : ℕ) (size : ℕ) (hc0 : State.Canon s) :
    State.Canon (State.logUpdate s pos t p operand op cause found size) := by
  unfold State.logUpdate
  repeat' first
    | with_reducible assumption
    | with_reducible apply State.logReduction_canon

theorem State.tryUpdate_canon (s : State) (pos : ℕ) (t : Xfer) (e : Spill) (op : AtomOp) (hc0 : State.Canon s) :
    MovedCanon (State.tryUpdate s pos t e op) := by
  unfold State.tryUpdate
  repeat' first
    | with_reducible assumption
    | with_reducible apply movedCanon_yes
    | with_reducible apply movedCanon_no
    | with_reducible apply State.awaitFill_canon
    | with_reducible apply State.applyUpdate_canon
    | with_reducible apply State.elemTouch_canon
    | with_reducible apply State.failRoute_canon
    | with_reducible apply State.engineAsk_canon
    | with_reducible apply State.answered_canon
    | with_reducible apply State.logUpdate_canon
    | with_reducible apply State.spillElem_canon
    | with_reducible apply State.updXfer_canon
    | with_reducible refine canon_of_yes (by assumption) ?_
    | with_reducible refine canon_of_no (by assumption) ?_
    | dsimp only
    | split

theorem State.retrySpill_canon (s : State) (pos : ℕ) (e : Spill) (hc0 : State.Canon s) :
    State.Canon (State.retrySpill s pos e) := by
  unfold State.retrySpill
  repeat' first
    | with_reducible assumption
    | with_reducible apply movedCanon_yes
    | with_reducible apply movedCanon_no
    | with_reducible apply tryCanon_ok
    | with_reducible apply tryCanon_spilled
    | with_reducible apply tryCanon_wait
    | with_reducible apply State.setStreamer_canon
    | with_reducible apply State.elemRead_canon
    | with_reducible apply State.moveElem_canon
    | with_reducible apply State.updXfer_canon
    | with_reducible apply State.tryUpdate_canon
    | with_reducible apply State.tryElem_canon
    | with_reducible apply State.putElem_canon
    | with_reducible refine canon_of_pair (by assumption) ?_
    | with_reducible refine canon_of_yes (by assumption) ?_
    | with_reducible refine canon_of_no (by assumption) ?_
    | with_reducible refine canon_of_spilled (by assumption) ?_
    | with_reducible refine canon_of_wait (by assumption) ?_
    | dsimp only
    | split

theorem State.streamRetry_canon (s : State) (pos : ℕ) (c : Fin 16) (hc0 : State.Canon s) :
    State.Canon (State.streamRetry s pos c) := by
  unfold State.streamRetry
  repeat' first
    | with_reducible assumption
    | with_reducible apply foldl_canon
    | with_reducible apply State.setStreamer_canon
    | with_reducible apply State.retrySpill_canon
    | dsimp only
    | split
    | intro _

theorem State.discardSpill_canon (s : State) (pos : ℕ) (e : Spill) (hc0 : State.Canon s) :
    State.Canon (State.discardSpill s pos e) := by
  unfold State.discardSpill
  repeat' first
    | with_reducible assumption
    | with_reducible apply movedCanon_yes
    | with_reducible apply movedCanon_no
    | with_reducible apply State.setStreamer_canon
    | with_reducible apply State.updXfer_canon
    | with_reducible apply State.putElem_canon
    | with_reducible refine canon_of_yes (by assumption) ?_
    | with_reducible refine canon_of_no (by assumption) ?_
    | dsimp only
    | split

theorem State.streamDiscard_canon (s : State) (pos : ℕ) (c : Fin 16) (hc0 : State.Canon s) :
    State.Canon (State.streamDiscard s pos c) := by
  unfold State.streamDiscard
  repeat' first
    | with_reducible assumption
    | with_reducible apply foldl_canon
    | with_reducible apply State.setStreamer_canon
    | with_reducible apply State.discardSpill_canon
    | dsimp only
    | split
    | intro _

theorem State.writeStres_canon (s : State) (p : Fin 128) (c : Fin 16) (v : Word) (hc0 : State.Canon s) :
    State.Canon (State.writeStres s p c v) := by
  unfold State.writeStres
  repeat' first
    | with_reducible assumption
    | with_reducible apply State.streamRetry_canon
    | with_reducible apply State.streamDiscard_canon
    | dsimp only
    | split

theorem State.setBar_canon (s : State) (c : Fin 16) (b : Fin 4) (x : Barrier) (hc0 : State.Canon s) :
    State.Canon (State.setBar s c b x) := by
  unfold State.setBar
  repeat' first
    | with_reducible assumption
    | with_reducible apply State.updCtx_canon

theorem State.writeBcfg_canon (s : State) (c : Fin 16) (b : Fin 4) (v : Word) (hc0 : State.Canon s) :
    State.Canon (State.writeBcfg s c b v) := by
  unfold State.writeBcfg
  repeat' first
    | with_reducible assumption
    | with_reducible apply State.setBar_canon

theorem State.writeRplctl_canon (s : State) (c : Fin 16) (v : Word) (hc0 : State.Canon s) :
    State.Canon (State.writeRplctl s c v) := by
  unfold State.writeRplctl
  repeat' first
    | with_reducible assumption
    | with_reducible apply State.setReg_canon
    | with_reducible apply State.updCtx_canon
    | with_reducible apply State.setLogLength_canon
    | dsimp only
    | split

theorem State.clearOnes_canon (s : State) (o : ℕ) (n : ℕ) (v : Word) (hc0 : State.Canon s) :
    State.Canon (State.clearOnes s o n v) := by
  unfold State.clearOnes
  repeat' first
    | with_reducible assumption
    | with_reducible apply State.setReg_canon

theorem State.devStored_canon (s : State) (r : DevReg) (o : ℕ) (w : Word) (hc0 : State.Canon s) :
    State.Canon (State.devStored s r o w) := by
  unfold State.devStored
  repeat' first
    | with_reducible assumption
    | with_reducible apply State.writeHeld_canon
    | with_reducible apply State.setReg_canon
    | dsimp only
    | split

theorem State.commitGroups_canon (s : State) (v : Word) (hc0 : State.Canon s) :
    State.Canon (State.commitGroups s v) := by
  unfold State.commitGroups
  repeat' first
    | with_reducible assumption
    | with_reducible apply State.mem_canon
    | with_reducible apply State.peers_canon
    | dsimp only
    | split

theorem State.setStaged_canon (s : State) (g : ℕ) (x : Group) (hc0 : State.Canon s) :
    State.Canon (State.setStaged s g x) := by
  unfold State.setStaged
  repeat' first
    | with_reducible assumption

theorem State.writeGrank_canon (s : State) (g : ℕ) (r : ℕ) (v : Word) (hc0 : State.Canon s) :
    State.Canon (State.writeGrank s g r v) := by
  unfold State.writeGrank
  repeat' first
    | with_reducible assumption
    | with_reducible apply State.setStaged_canon

theorem State.writeBmask_canon (s : State) (c : Fin 16) (b : Fin 4) (w : Fin 16) (v : Word) (hc0 : State.Canon s) :
    State.Canon (State.writeBmask s c b w v) := by
  unfold State.writeBmask
  repeat' first
    | with_reducible assumption
    | with_reducible apply State.setBar_canon

theorem State.wake_canon (s : State) (hc0 : State.Canon s) :
    State.Canon (State.wake s) := by
  unfold State.wake
  repeat' first
    | with_reducible assumption

theorem remoteTurn_canon (pa : ℕ) (addr : Word) (r : Option RemoteAtom) (s : State) (hc3 : State.Canon s) :
    Keeps (remoteTurn pa addr r s) := by
  unfold remoteTurn
  repeat' first
    | with_reducible assumption
    | with_reducible apply keeps_next
    | with_reducible apply keeps_fault
    | with_reducible apply exCanon_ok
    | with_reducible exact exCanon_error
    | with_reducible apply State.wake_canon
    | with_reducible apply State.mem_canon
    | with_reducible apply State.peers_canon
    | with_reducible apply inTrouble_canon
    | with_reducible apply State.remoteAtom_canon
    | with_reducible apply State.drain_canon
    | with_reducible refine canon_of_ok (by assumption) ?_
    | dsimp only
    | split

theorem State.routeAnswer_canon (s : State) (m : ℕ) (p : Place) (hc0 : State.Canon s) :
    State.Canon (State.routeAnswer s m p) := by
  rw [State.routeAnswer]
  split
  · exact hc0
  · rename_i t e
    have ht : t.Canon := canon_of_some e (State.focus_canon _ _ hc0)
    split
    · split
      · split
        · rename_i u e1
          have hk := keeps_of e1 (remoteTurn_canon _ _ _ t ht)
          exact hk
        · exact hc0
      · exact hc0
    · exact hc0

theorem State.settleRoute_canon (s : State) (m : ℕ) (hc0 : State.Canon s) :
    State.Canon (State.settleRoute s m) := by
  unfold State.settleRoute
  repeat' first
    | with_reducible assumption
    | with_reducible apply foldl_canon
    | with_reducible apply State.returnTo_canon
    | with_reducible apply State.routeAnswer_canon
    | with_reducible apply State.drain_canon
    | dsimp only
    | split
    | intro _

theorem State.writeRtmap_canon (s : State) (m : Fin 1152) (v : Word) (hc0 : State.Canon s) :
    State.Canon (State.writeRtmap s m v) := by
  unfold State.writeRtmap
  repeat' first
    | with_reducible assumption
    | with_reducible apply State.setReg_canon
    | with_reducible apply State.settleRoute_canon

theorem State.writeGdesc_canon (s : State) (g : ℕ) (v : Word) (hc0 : State.Canon s) :
    State.Canon (State.writeGdesc s g v) := by
  unfold State.writeGdesc
  repeat' first
    | with_reducible assumption
    | with_reducible apply State.setStaged_canon

theorem State.writeRtport_canon (s : State) (p : ℕ) (v : Word) (hc0 : State.Canon s) :
    State.Canon (State.writeRtport s p v) := by
  unfold State.writeRtport
  repeat' first
    | with_reducible assumption
    | with_reducible apply State.setRegBits_canon
    | dsimp only
    | split

theorem State.clearCtx_canon (s : State) (c : Fin 16) (hc0 : State.Canon s) :
    State.Canon (State.clearCtx s c) := by
  unfold State.clearCtx
  repeat' first
    | with_reducible assumption
    | with_reducible apply State.setReg_canon
    | with_reducible apply State.setCtx_canon
    | with_reducible apply State.setRegBits_canon

theorem State.dropLines_canon (s : State) (c : Fin 16) (hc0 : State.Canon s) :
    State.Canon (State.dropLines s c) := by
  unfold State.dropLines
  repeat' first
    | with_reducible assumption
    | with_reducible apply State.mem_canon
    | with_reducible apply State.peers_canon
    | with_reducible apply State.flushAll_canon

theorem State.dropMessages_canon (s : State) (c : Fin 16) (hc0 : State.Canon s) :
    State.Canon (State.dropMessages s c) := by
  unfold State.dropMessages
  repeat' first
    | with_reducible assumption
    | with_reducible apply State.mem_canon
    | with_reducible apply State.peers_canon
    | with_reducible apply State.mapThreads_canon

theorem State.dropHyps_canon (s : State) (c : Fin 16) (hc0 : State.Canon s) :
    State.Canon (State.dropHyps s c) := by
  unfold State.dropHyps
  repeat' first
    | with_reducible assumption

theorem State.resetThread_canon (s : State) (p : Place) (hc0 : State.Canon s) :
    State.Canon (State.resetThread s p) := by
  unfold State.resetThread
  repeat' first
    | with_reducible assumption
    | with_reducible apply optCanon_some
    | with_reducible exact optCanon_none
    | with_reducible apply optCanon_map
    | with_reducible apply State.settleTable_canon
    | with_reducible apply State.withdraw_canon
    | with_reducible apply State.endThread_canon
    | with_reducible apply State.focus_canon
    | with_reducible apply State.drain_canon
    | with_reducible refine canon_of_some (by assumption) ?_
    | dsimp only
    | split

theorem State.resetOver_canon (s : State) (c : Fin 16) (hc0 : State.Canon s) :
    State.Canon (State.resetOver s c) := by
  unfold State.resetOver
  repeat' first
    | with_reducible assumption
    | with_reducible apply State.updCtx_canon
    | dsimp only
    | split

theorem State.dropInstances_canon (s : State) (c : Fin 16) (hc0 : State.Canon s) :
    State.Canon (State.dropInstances s c) := by
  unfold State.dropInstances
  repeat' first
    | with_reducible assumption
    | with_reducible apply State.releaseAll_canon
    | with_reducible apply State.updCtx_canon

theorem State.dropEngines_canon (s : State) (c : Fin 16) (hc0 : State.Canon s) :
    State.Canon (State.dropEngines s c) := by
  unfold State.dropEngines
  repeat' first
    | with_reducible assumption

theorem State.resetContext_canon (s : State) (c : Fin 16) (hc0 : State.Canon s) :
    State.Canon (State.resetContext s c) := by
  unfold State.resetContext
  repeat' first
    | with_reducible assumption
    | with_reducible apply foldl_canon
    | with_reducible apply State.clearCtx_canon
    | with_reducible apply State.dropLines_canon
    | with_reducible apply State.dropMessages_canon
    | with_reducible apply State.dropHyps_canon
    | with_reducible apply State.resetThread_canon
    | with_reducible apply State.resetOver_canon
    | with_reducible apply State.updCtx_canon
    | with_reducible apply State.dropInstances_canon
    | with_reducible apply State.dropEngines_canon
    | dsimp only
    | split

theorem State.writeRoutecfg_canon (s : State) (v : Word) (hc0 : State.Canon s) :
    State.Canon (State.writeRoutecfg s v) := by
  unfold State.writeRoutecfg
  repeat' first
    | with_reducible assumption
    | with_reducible apply State.setReg_canon

theorem State.devCommand_canon (s : State) (r : DevReg) (v : Word) (hc0 : State.Canon s) :
    State.Canon (State.devCommand s r v) := by
  cases r with
  | cflags c => exact State.clearOnes_canon _ _ _ _ hc0
  | pgflag n => exact State.clearOnes_canon _ _ _ _ hc0
  | sqint k => exact State.clearOnes_canon _ _ _ _ hc0
  | tlbinv k => exact State.writeTlbinv_canon _ _ _ hc0
  | rgnctl k => exact State.writeRgnctl_canon _ _ _ hc0
  | rlogctl k => exact State.writeRlogctl_canon _ _ _ hc0
  | bmask k b w => exact State.writeBmask_canon _ _ _ _ _ hc0
  | bcfg k b => exact State.writeBcfg_canon _ _ _ _ hc0
  | fqctl k q => exact State.writeFqctl_canon _ _ _ _ hc0
  | cxrsm k => exact State.writeCxrsm_canon _ _ _ hc0
  | cxpre k => exact State.writeCxpre_canon _ _ _ hc0
  | pres n p => exact State.writePres_canon _ _ _ _ hc0
  | stres p k => exact State.writeStres_canon _ _ _ _ hc0
  | shutctl k => exact State.writeShutctl_canon _ _ _ hc0
  | gdesc g => exact State.writeGdesc_canon _ _ _ hc0
  | grank g n => exact State.writeGrank_canon _ _ _ _ hc0
  | gctl => exact State.commitGroups_canon _ _ hc0
  | routecfg => exact State.writeRoutecfg_canon _ _ hc0
  | rtmap m => exact State.writeRtmap_canon _ _ _ hc0
  | rtport p => exact State.writeRtport_canon _ _ _ hc0
  | rtuctl => exact State.writeRtuctl_canon _ _ hc0
  | rrstat => exact State.clearRerun_canon _ hc0
  | rplctl k => exact State.writeRplctl_canon _ _ _ hc0
  | retstat => exact canon_ite (State.setRegBits_canon _ _ _ _ _ hc0) hc0
  | ldstat k => exact canon_ite (State.setRegBits_canon _ _ _ _ _ hc0) hc0
  | cxrst k => exact canon_ite (State.resetContext_canon _ _ hc0) hc0
  | _ => exact hc0

theorem State.devWrite_canon (s : State) (r : DevReg) (v : Word) (hc0 : State.Canon s) :
    State.Canon (State.devWrite s r v) := by
  unfold State.devWrite
  repeat' first
    | with_reducible assumption
    | with_reducible apply State.devCommand_canon
    | with_reducible apply State.devStored_canon
    | dsimp only
    | split

theorem execRegisterWrite_canon (off : ℕ) (v : Word) (s : State) (hc2 : State.Canon s) :
    Keeps (execRegisterWrite off v s) := by
  unfold execRegisterWrite
  repeat' first
    | with_reducible assumption
    | with_reducible apply keeps_next
    | with_reducible apply keeps_fault
    | with_reducible apply State.devWrite_canon
    | dsimp only
    | split

theorem State.acquire_canon (s : State) (hc0 : State.Canon s) :
    State.Canon (State.acquire s) := by
  unfold State.acquire
  repeat' first
    | with_reducible assumption
    | with_reducible apply State.acquireFor_canon

theorem endWait_canon (s : State) (d : Reg) (v : Word) (hc0 : State.Canon s) :
    State.Canon (endWait s d v) := by
  unfold endWait
  repeat' first
    | with_reducible assumption
    | with_reducible apply State.mem_canon
    | with_reducible apply State.setG_canon
    | with_reducible apply State.peers_canon
    | with_reducible apply State.advance_canon

theorem acquiring_canon (s : State) (k : State → Result) (hc0 : State.Canon s) (hc1 : ∀ y0, State.Canon y0 → (Keeps (k y0))) :
    Keeps (acquiring s k) := by
  unfold acquiring
  repeat' first
    | with_reducible assumption
    | with_reducible apply hc1
    | with_reducible apply keeps_next
    | with_reducible apply keeps_fault
    | with_reducible apply State.block_canon
    | dsimp only
    | split

theorem hwaitTurn_canon (d : Reg) (h : Handle) (limit : Word) (s : State) (hc3 : State.Canon s) :
    Keeps (hwaitTurn d h limit s) := by
  unfold hwaitTurn
  repeat' first
    | with_reducible assumption
    | with_reducible apply keeps_next
    | with_reducible apply keeps_fault
    | with_reducible apply State.acquire_canon
    | with_reducible apply endWait_canon
    | with_reducible apply acquiring_canon
    | with_reducible apply State.block_canon
    | dsimp only
    | split
    | intro _

theorem execHwait_canon (d : Reg) (a : Reg) (b : Reg) (s : State) (hc3 : State.Canon s) :
    Keeps (execHwait d a b s) := by
  unfold execHwait
  repeat' first
    | with_reducible assumption
    | with_reducible apply keeps_next
    | with_reducible apply keeps_fault
    | with_reducible apply hwaitTurn_canon

theorem returnAtom_canon (op : AtomOp) (z : AtomSize) (d : Reg) (p : Word) (b : Word) (expect : Word) (s : State) (hc6 : State.Canon s) :
    Keeps (returnAtom op z d p b expect s) := by
  unfold returnAtom
  repeat' first
    | with_reducible assumption
    | with_reducible apply keeps_next
    | with_reducible apply keeps_fault
    | with_reducible apply exCanonL_ok
    | with_reducible exact exCanonL_error
    | with_reducible apply done_canon
    | with_reducible apply State.raiseFlags_canon
    | with_reducible apply State.atomAt_canon
    | with_reducible apply State.threadTouch_canon
    | with_reducible apply State.setG_canon
    | with_reducible apply inTrouble_canon
    | with_reducible apply State.askToken_canon
    | with_reducible apply State.block_canon
    | with_reducible refine canon_of_okL (by assumption) ?_
    | dsimp only
    | split

theorem execAminR_canon (d : Reg) (a : Reg) (b : Reg) (z : AtomSize) (s : State) (hc4 : State.Canon s) :
    Keeps (execAminR d a b z s) := by
  unfold execAminR
  repeat' first
    | with_reducible assumption
    | with_reducible apply keeps_next
    | with_reducible apply keeps_fault
    | with_reducible apply returnAtom_canon

theorem execMulhn_canon (d : Reg) (a : Reg) (b : Reg) (s : State) (hc3 : State.Canon s) :
    Keeps (execMulhn d a b s) := by
  unfold execMulhn
  repeat' first
    | with_reducible assumption
    | with_reducible apply keeps_next
    | with_reducible apply keeps_fault
    | with_reducible apply doneG_canon

theorem divide_canon (s : State) (d : Reg) (b : Word) (v : Word) (hc0 : State.Canon s) :
    Keeps (divide s d b v) := by
  unfold divide
  repeat' first
    | with_reducible assumption
    | with_reducible apply keeps_next
    | with_reducible apply keeps_fault
    | with_reducible apply doneG_canon
    | with_reducible apply trapNow_canon
    | with_reducible apply State.block_canon
    | dsimp only
    | split

theorem execDiv_canon (d : Reg) (a : Reg) (b : Reg) (s : State) (hc3 : State.Canon s) :
    Keeps (execDiv d a b s) := by
  unfold execDiv
  repeat' first
    | with_reducible assumption
    | with_reducible apply keeps_next
    | with_reducible apply keeps_fault
    | with_reducible apply divide_canon

theorem State.setHyp_canon (s : State) (c : Fin 16) (n : ℕ) (h : Hyp) (hc0 : State.Canon s) :
    State.Canon (State.setHyp s c n h) := by
  unfold State.setHyp
  repeat' first
    | with_reducible assumption
    | with_reducible apply State.updCtx_canon

theorem State.hypLeave_canon (s : State) (c : Fin 16) (st : HypSt) (succ : Handle) (named : Handle) (h : Handle) (hc0 : State.Canon s) :
    State.Canon (State.hypLeave s c st succ named h) := by
  unfold State.hypLeave
  repeat' first
    | with_reducible assumption
    | with_reducible apply State.setHyp_canon

theorem State.startRefute_canon (s : State) (c : Fin 16) (h : Handle) (hc0 : State.Canon s) :
    State.Canon (State.startRefute s c h) := by
  unfold State.startRefute
  repeat' first
    | with_reducible assumption
    | with_reducible apply foldl_canon
    | with_reducible apply State.hypLeave_canon
    | dsimp only
    | split
    | intro _

theorem State.startConfirm_canon (s : State) (c : Fin 16) (h : Handle) (hc0 : State.Canon s) :
    State.Canon (State.startConfirm s c h) := by
  unfold State.startConfirm
  repeat' first
    | with_reducible assumption
    | with_reducible apply State.hypLeave_canon
    | dsimp only
    | split

theorem State.hypBegin_canon (s : State) (c : Fin 16) (hc0 : State.Canon s) :
    State.Canon (State.hypBegin s c) := by
  unfold State.hypBegin
  repeat' first
    | with_reducible assumption
    | with_reducible apply State.startRefute_canon
    | with_reducible apply State.startConfirm_canon
    | dsimp only
    | split

theorem State.mergeVersion_canon (s : State) (p : Handle) (v : Version) (hc0 : State.Canon s) :
    State.Canon (State.mergeVersion s p v) := by
  unfold State.mergeVersion
  repeat' first
    | with_reducible assumption
    | with_reducible apply Mem.wf_setByte
    | with_reducible apply Mem.wf_setTag
    | with_reducible apply Mem.wf_setFull
    | with_reducible apply Mem.wf_setPoison
    | with_reducible apply Mem.wf_write
    | with_reducible exact canon_mem (by assumption)
    | with_reducible exact canon_peers (by assumption)
    | with_reducible apply foldl_canon
    | with_reducible apply foldl_wf
    | with_reducible apply Mem.write_canon
    | with_reducible apply State.mem_canon
    | with_reducible apply State.touchLlc_canon
    | with_reducible apply State.peers_canon
    | with_reducible apply Mem.setPoison_canon
    | dsimp only
    | split
    | intro _
    | dsimp only [State.Canon]
    | with_reducible refine And.intro ?_ ?_

theorem State.setThyp_canon (s : State) (p : Place) (h : Handle) (hc0 : State.Canon s) :
    State.Canon (State.setThyp s p h) := by
  unfold State.setThyp
  repeat' first
    | with_reducible assumption
    | with_reducible apply State.updThread_canon
    | with_reducible apply State.pokeImage_canon
    | dsimp only
    | split

theorem State.renameHyp_canon (s : State) (c : Fin 16) (h : Handle) (p : Handle) (hc0 : State.Canon s) :
    State.Canon (State.renameHyp s c h p) := by
  unfold State.renameHyp
  repeat' first
    | with_reducible assumption
    | with_reducible apply foldl_canon
    | with_reducible apply State.mem_canon
    | with_reducible apply State.peers_canon
    | with_reducible apply State.setThyp_canon
    | with_reducible apply State.mapThreads_canon
    | with_reducible apply State.updCtx_canon
    | dsimp only
    | split
    | intro _

theorem State.mergeCaches_canon (s : State) (c : Fin 16) (h : Handle) (p : Handle) (hc0 : State.Canon s) :
    State.Canon (State.mergeCaches s c h p) := by
  unfold State.mergeCaches
  repeat' first
    | with_reducible assumption

theorem State.drainHyp_canon (s : State) (c : Fin 16) (h : Handle) (hc0 : State.Canon s) :
    State.Canon (State.drainHyp s c h) := by
  unfold State.drainHyp
  repeat' first
    | with_reducible assumption
    | with_reducible apply State.cleanLines_canon
    | with_reducible apply State.drain_canon

theorem State.resolve_canon (s : State) (c : Fin 16) (h : Handle) (ok : Bool) (succ : Handle) (named : Handle) (hc0 : State.Canon s) :
    State.Canon (State.resolve s c h ok succ named) := by
  unfold State.resolve
  repeat' first
    | with_reducible assumption
    | with_reducible apply State.mem_canon
    | with_reducible apply State.peers_canon
    | with_reducible apply State.setHyp_canon

theorem State.hypConfirm_canon (s : State) (c : Fin 16) (h : Handle) (hc0 : State.Canon s) :
    State.Canon (State.hypConfirm s c h) := by
  unfold State.hypConfirm
  repeat' first
    | with_reducible assumption
    | with_reducible apply foldl_canon
    | with_reducible apply State.mergeVersion_canon
    | with_reducible apply State.renameHyp_canon
    | with_reducible apply State.mem_canon
    | with_reducible apply State.peers_canon
    | with_reducible apply State.mergeCaches_canon
    | with_reducible apply State.drainHyp_canon
    | with_reducible apply State.resolve_canon
    | with_reducible apply State.updCtx_canon
    | dsimp only
    | split
    | intro _

theorem State.hypAnswer_canon (s : State) (c : Fin 16) (p : Place) (id : ℕ) (f : Thread → Thread) (hc0 : State.Canon s) :
    State.Canon (State.hypAnswer s c p id f) := by
  unfold State.hypAnswer
  repeat' first
    | with_reducible assumption
    | with_reducible apply State.message_canon
    | with_reducible apply State.updThread_canon
    | with_reducible refine canon_of_pair (by assumption) ?_
    | dsimp only
    | split

theorem State.hypRefute_canon (s : State) (c : Fin 16) (h : Handle) (hc0 : State.Canon s) :
    State.Canon (State.hypRefute s c h) := by
  unfold State.hypRefute
  repeat' first
    | with_reducible assumption
    | with_reducible apply foldl_canon
    | with_reducible apply State.mem_canon
    | with_reducible apply State.peers_canon
    | with_reducible apply State.resolve_canon
    | dsimp only
    | split
    | intro _

theorem State.hypSeen_canon (s : State) (c : Fin 16) (core : CoreId) (hc0 : State.Canon s) :
    State.Canon (State.hypSeen s c core) := by
  unfold State.hypSeen
  repeat' first
    | with_reducible assumption

theorem State.hypNew_canon (s : State) (c : Fin 16) (p : Handle) (hc0 : State.Canon s) :
    State.Canon (State.hypNew s c p).1 := by
  unfold State.hypNew
  repeat' first
    | with_reducible assumption
    | with_reducible apply State.mem_canon
    | with_reducible apply State.peers_canon
    | with_reducible apply State.setHyp_canon
    | with_reducible refine canon_of_pair (by assumption) ?_
    | dsimp only
    | split

theorem State.hypServe_canon (s : State) (c : Fin 16) (hc0 : State.Canon s) :
    State.Canon (State.hypServe s c) := by
  unfold State.hypServe
  repeat' first
    | with_reducible assumption
    | with_reducible apply State.hypBegin_canon
    | with_reducible apply State.hypConfirm_canon
    | with_reducible apply State.hypAnswer_canon
    | with_reducible apply State.hypRefute_canon
    | with_reducible apply State.hypSeen_canon
    | with_reducible apply State.hypNew_canon
    | with_reducible apply State.updCtx_canon
    | with_reducible refine canon_of_pair (by assumption) ?_
    | dsimp only
    | split

theorem askController_canon (s : State) (q : HypReq) (hc0 : State.Canon s) :
    Keeps (askController s q) := by
  unfold askController
  repeat' first
    | with_reducible assumption
    | with_reducible apply keeps_next
    | with_reducible apply keeps_fault
    | with_reducible apply State.hypBegin_canon
    | with_reducible apply State.exchange_canon
    | with_reducible apply State.hypServe_canon
    | with_reducible apply State.updCtx_canon
    | with_reducible apply State.block_canon
    | dsimp only
    | split

theorem State.cleanAll_canon (s : State) (p : CacheLine → Bool) (hc0 : State.Canon s) :
    State.Canon (State.cleanAll s p) := by
  unfold State.cleanAll
  repeat' first
    | with_reducible assumption
    | with_reducible apply State.cleanLines_canon
    | with_reducible apply State.drain_canon

theorem State.releaseTo_canon (s : State) (sc : Scope) (hc0 : State.Canon s) :
    State.Canon (State.releaseTo s sc) := by
  unfold State.releaseTo
  repeat' first
    | with_reducible assumption
    | with_reducible apply State.mem_canon
    | with_reducible apply State.cleanAll_canon
    | with_reducible apply State.peers_canon
    | with_reducible apply State.drain_canon
    | dsimp only
    | split

theorem execHref_canon (a : Reg) (s : State) (hc1 : State.Canon s) :
    Keeps (execHref a s) := by
  unfold execHref
  repeat' first
    | with_reducible assumption
    | with_reducible apply keeps_next
    | with_reducible apply keeps_fault
    | with_reducible apply askController_canon
    | with_reducible apply State.releaseTo_canon

theorem State.freeEp_canon (s : State) (i : ℕ) (ep : ℕ) (hc0 : State.Canon s) :
    State.Canon (State.freeEp s i ep) := by
  unfold State.freeEp
  repeat' first
    | with_reducible assumption
    | with_reducible apply State.setInst_canon
    | dsimp only
    | split

theorem State.endXfer_canon (s : State) (pos : ℕ) (t : Xfer) (hc0 : State.Canon s) :
    State.Canon (State.endXfer s pos t) := by
  unfold State.endXfer
  repeat' first
    | with_reducible assumption
    | with_reducible apply State.setStreamer_canon
    | with_reducible apply State.freeEp_canon
    | dsimp only
    | split

theorem execTransferComplete_canon (pos : Fin 128) (k : ℕ) (s : State) (hc2 : State.Canon s) :
    Keeps (execTransferComplete pos k s) := by
  unfold execTransferComplete
  repeat' first
    | with_reducible assumption
    | with_reducible apply keeps_next
    | with_reducible apply keeps_fault
    | with_reducible apply State.endXfer_canon
    | dsimp only
    | split

theorem Firing.send_canon (f : Firing) (d : Flit) (hc0 : State.Canon f.s) :
    State.Canon (Firing.send f d).s := by
  unfold Firing.send
  repeat' first
    | with_reducible assumption

theorem Firing.updNode_canon (f : Firing) (g : NodeState → NodeState) (hc0 : State.Canon f.s) :
    State.Canon (Firing.updNode f g).s := by
  unfold Firing.updNode
  repeat' first
    | with_reducible assumption

theorem State.headerFault_canon (s : State) (x : Inst) (page : ℕ) (pe : ℕ) (ch : ℕ) (hc0 : State.Canon s) :
    State.Canon (State.headerFault s x page pe ch) := by
  unfold State.headerFault
  repeat' first
    | with_reducible assumption
    | with_reducible apply State.asyncRecord_canon

theorem Firing.fault_canon (f : Firing) (k : ℕ) (hc0 : State.Canon f.s) :
    State.Canon (Firing.fault f k).s := by
  unfold Firing.fault
  repeat' first
    | with_reducible assumption
    | with_reducible apply State.headerFault_canon
    | with_reducible apply State.setInst_canon

theorem Firing.misalign_canon (f : Firing) (k : ℕ) (hs : List Flit) (hc0 : State.Canon f.s) :
    State.Canon (Firing.misalign f k hs).s := by
  unfold Firing.misalign
  repeat' first
    | with_reducible assumption
    | with_reducible apply Firing.updNode_canon
    | with_reducible apply Firing.fault_canon

theorem withFiring_canon (n : NodeFields) (ins : List (BitVec 4)) (s : State) (k : Firing → Result) (hc2 : State.Canon s) (hc3 : ∀ y0, (State.Canon y0.s) → (Keeps (k y0))) :
    Keeps (withFiring n ins s k) := by
  unfold withFiring
  repeat' first
    | with_reducible assumption
    | with_reducible apply hc3
    | with_reducible apply keeps_next
    | with_reducible apply keeps_fault
    | dsimp only
    | split

theorem Firing.skipTile_canon (f : Firing) (k : ℕ) (on : Bool) (off : NodeState → NodeState) (hc0 : State.Canon f.s) :
    State.Canon (Firing.skipTile f k on off).s := by
  unfold Firing.skipTile
  repeat' first
    | with_reducible assumption
    | with_reducible apply Firing.updNode_canon
    | dsimp only
    | split

theorem Firing.done_canon (f : Firing) (hc0 : State.Canon f.s) :
    Keeps (Firing.done f) := by
  unfold Firing.done
  repeat' first
    | with_reducible assumption
    | with_reducible apply keeps_next
    | with_reducible apply keeps_fault
    | with_reducible apply State.stir_canon

theorem Firing.recoverFirst_canon (f : Firing) (out : Firing → Flit → Firing) (hc0 : State.Canon f.s) (hc1 : ∀ y0, (State.Canon y0.s) → ∀ y1, (State.Canon (out y0 y1).s)) :
    State.Canon (Firing.recoverFirst f out).s := by
  unfold Firing.recoverFirst
  repeat' first
    | with_reducible assumption
    | with_reducible apply hc1
    | with_reducible apply Firing.updNode_canon
    | dsimp only
    | split

theorem Firing.recover_canon (f : Firing) (out : Firing → Flit → Firing) (hc0 : State.Canon f.s) (hc1 : ∀ y0, (State.Canon y0.s) → ∀ y1, (State.Canon (out y0 y1).s)) :
    Keeps (Firing.recover f out) := by
  unfold Firing.recover
  repeat' first
    | with_reducible assumption
    | with_reducible apply hc1
    | with_reducible apply keeps_next
    | with_reducible apply keeps_fault
    | with_reducible apply Firing.skipTile_canon
    | with_reducible apply Firing.done_canon
    | with_reducible apply Firing.recoverFirst_canon

theorem Firing.faultOnce_canon (f : Firing) (k : ℕ) (hc0 : State.Canon f.s) :
    State.Canon (Firing.faultOnce f k).s := by
  unfold Firing.faultOnce
  repeat' first
    | with_reducible assumption
    | with_reducible apply Firing.fault_canon
    | dsimp only
    | split

theorem Firing.needHeaders_canon (f : Firing) (hs : List Flit) (hc0 : State.Canon f.s) :
    State.Canon (Firing.needHeaders f hs).s := by
  unfold Firing.needHeaders
  repeat' first
    | with_reducible assumption
    | with_reducible apply foldl_canon
    | with_reducible apply foldl_canon_firing
    | with_reducible apply Firing.faultOnce_canon
    | with_reducible apply Firing.updNode_canon
    | dsimp only
    | split
    | intro _

theorem Firing.takeHeaders_canon (f : Firing) (bad : List Flit → ℕ → Flit → Bool) (hs : List Flit) (hc0 : State.Canon f.s) :
    State.Canon (Firing.takeHeaders f bad hs).1.s := by
  unfold Firing.takeHeaders
  repeat' first
    | with_reducible assumption
    | with_reducible apply foldl_canon_fpair
    | with_reducible apply foldl_canon
    | with_reducible apply foldl_canon_firing
    | with_reducible apply Firing.faultOnce_canon
    | with_reducible apply Firing.updNode_canon
    | with_reducible refine canon_of_fpair (by assumption) ?_
    | dsimp only
    | split
    | intro _

theorem fireInto_canon (out : Firing → Flit → Firing) (n : NodeFields) (ins : List (BitVec 4)) (bad : List Flit → ℕ → Flit → Bool) (onHeader : Firing → Bool → Result) (onData : Firing → List Flit → Result) (idle : Firing → Result) (s : State) (hc0 : ∀ y0, (State.Canon y0.s) → ∀ y1, (State.Canon (out y0 y1).s)) (hc4 : ∀ y0, (State.Canon y0.s) → ∀ y1, (Keeps (onHeader y0 y1))) (hc5 : ∀ y0, (State.Canon y0.s) → ∀ y1, (Keeps (onData y0 y1))) (hc6 : ∀ y0, (State.Canon y0.s) → (Keeps (idle y0))) (hc7 : State.Canon s) :
    Keeps (fireInto out n ins bad onHeader onData idle s) := by
  unfold fireInto
  repeat' first
    | with_reducible assumption
    | with_reducible apply hc0
    | with_reducible apply hc4
    | with_reducible apply hc5
    | with_reducible apply hc6
    | with_reducible apply keeps_next
    | with_reducible apply keeps_fault
    | with_reducible apply Firing.misalign_canon
    | with_reducible apply withFiring_canon
    | with_reducible apply Firing.recover_canon
    | with_reducible apply Firing.needHeaders_canon
    | with_reducible apply Firing.takeHeaders_canon
    | with_reducible refine canon_of_fpair (by assumption) ?_
    | dsimp only
    | split
    | intro _

theorem fire_canon (n : NodeFields) (ins : List (BitVec 4)) (bad : List Flit → ℕ → Flit → Bool) (onHeader : Firing → Bool → Result) (onData : Firing → List Flit → Result) (idle : Firing → Result) (s : State) (hc3 : ∀ y0, (State.Canon y0.s) → ∀ y1, (Keeps (onHeader y0 y1))) (hc4 : ∀ y0, (State.Canon y0.s) → ∀ y1, (Keeps (onData y0 y1))) (hc5 : ∀ y0, (State.Canon y0.s) → (Keeps (idle y0))) (hc6 : State.Canon s) :
    Keeps (fire n ins bad onHeader onData idle s) := by
  unfold fire
  repeat' first
    | with_reducible assumption
    | with_reducible apply hc3
    | with_reducible apply hc4
    | with_reducible apply hc5
    | with_reducible apply keeps_next
    | with_reducible apply keeps_fault
    | with_reducible apply Firing.send_canon
    | with_reducible apply fireInto_canon
    | dsimp only
    | split
    | intro _

theorem Firing.counted_canon (f : Firing) (hc0 : State.Canon f.s) :
    State.Canon (Firing.counted f).s := by
  unfold Firing.counted
  repeat' first
    | with_reducible assumption
    | with_reducible apply Firing.updNode_canon

theorem Firing.takeAll_canon (f : Firing) (hc0 : State.Canon f.s) :
    State.Canon (Firing.takeAll f).s := by
  unfold Firing.takeAll
  repeat' first
    | with_reducible assumption

theorem Firing.sendHeader_canon (f : Firing) (w : Word) (psn : Bool) (hc0 : State.Canon f.s) :
    State.Canon (Firing.sendHeader f w psn).s := by
  unfold Firing.sendHeader
  repeat' first
    | with_reducible assumption
    | with_reducible apply Firing.send_canon
    | with_reducible apply Firing.takeAll_canon

theorem Firing.flags_canon (f : Firing) (fl : Flags) (hc0 : State.Canon f.s) :
    State.Canon (Firing.flags f fl).s := by
  unfold Firing.flags
  repeat' first
    | with_reducible assumption
    | with_reducible apply State.pageFlags_canon
    | dsimp only
    | split

theorem Firing.lanes_canon (f : Firing) (k : NodeKind) (hs : List Flit) (hc0 : State.Canon f.s) :
    State.Canon (Firing.lanes f k hs).1.s := by
  unfold Firing.lanes
  repeat' first
    | with_reducible assumption
    | with_reducible apply foldl_canon_fpair
    | with_reducible apply foldl_canon
    | with_reducible apply foldl_canon_firing
    | with_reducible apply Firing.flags_canon

theorem elementwise_canon (k : NodeKind) (n : NodeFields) (ins : List (BitVec 4)) (s : State) (hc3 : State.Canon s) :
    Keeps (elementwise k n ins s) := by
  unfold elementwise
  repeat' first
    | with_reducible assumption
    | with_reducible apply keeps_next
    | with_reducible apply keeps_fault
    | with_reducible apply Firing.send_canon
    | with_reducible apply fire_canon
    | with_reducible apply Firing.counted_canon
    | with_reducible apply Firing.done_canon
    | with_reducible apply Firing.updNode_canon
    | with_reducible apply Firing.takeAll_canon
    | with_reducible apply Firing.sendHeader_canon
    | with_reducible apply Firing.lanes_canon
    | with_reducible apply Firing.fault_canon
    | with_reducible refine canon_of_fpair (by assumption) ?_
    | dsimp only
    | split
    | intro _

theorem execNcmp_canon (n : NodeFields) (s : State) (hc1 : State.Canon s) :
    Keeps (execNcmp n s) := by
  unfold execNcmp
  repeat' first
    | with_reducible assumption
    | with_reducible apply keeps_next
    | with_reducible apply keeps_fault
    | with_reducible apply elementwise_canon

theorem execInstanceCompact_canon (i : ℕ) (lx : ℕ) (ly : ℕ) (s : State) (hc3 : State.Canon s) :
    Keeps (execInstanceCompact i lx ly s) := by
  unfold execInstanceCompact
  repeat' first
    | with_reducible assumption
    | with_reducible apply keeps_next
    | with_reducible apply keeps_fault
    | with_reducible apply State.mem_canon
    | with_reducible apply State.peers_canon
    | with_reducible apply State.request_canon
    | dsimp only
    | split

theorem execInstanceSaveComplete_canon (i : ℕ) (s : State) (hc1 : State.Canon s) :
    Keeps (execInstanceSaveComplete i s) := by
  unfold execInstanceSaveComplete
  repeat' first
    | with_reducible assumption
    | with_reducible apply keeps_next
    | with_reducible apply keeps_fault
    | with_reducible apply State.carryOut_canon
    | with_reducible apply State.setInst_canon
    | with_reducible apply State.vacate_canon
    | dsimp only
    | split

theorem execBfi_canon (d : Reg) (a : Reg) (w : BitVec 6) (p : BitVec 6) (s : State) (hc4 : State.Canon s) :
    Keeps (execBfi d a w p s) := by
  unfold execBfi
  repeat' first
    | with_reducible assumption
    | with_reducible apply keeps_next
    | with_reducible apply keeps_fault
    | with_reducible apply doneG_canon

theorem execCflx_canon (a : Reg) (s : State) (hc1 : State.Canon s) :
    Keeps (execCflx a s) := by
  unfold execCflx
  repeat' first
    | with_reducible assumption
    | with_reducible apply keeps_next
    | with_reducible apply keeps_fault
    | with_reducible apply State.post_canon
    | with_reducible apply State.mem_canon
    | with_reducible apply State.peers_canon
    | with_reducible apply trapWith_canon
    | with_reducible apply State.block_canon
    | with_reducible refine canon_of_pair (by assumption) ?_
    | dsimp only
    | split

theorem State.writeRing_canon (s : State) (pa : ℕ) (r : Ring) (hc0 : State.Canon s) :
    State.Canon (State.writeRing s pa r) := by
  unfold State.writeRing
  repeat' first
    | with_reducible assumption
    | with_reducible apply State.writeWords_canon

theorem ringStep_canon (s : State) (p : Word) (k : Ring → Option (Ring × Word)) (fin : State → Bool → Word → Result) (hc0 : State.Canon s) (hc3 : ∀ y0, State.Canon y0 → ∀ y1, ∀ y2, (Keeps (fin y0 y1 y2))) :
    Keeps (ringStep s p k fin) := by
  unfold ringStep
  repeat' first
    | with_reducible assumption
    | with_reducible apply hc3
    | with_reducible apply keeps_next
    | with_reducible apply keeps_fault
    | with_reducible apply State.exchange_canon
    | with_reducible apply State.threadTouch_canon
    | with_reducible apply inTrouble_canon
    | with_reducible apply trapWith_canon
    | with_reducible apply State.writeRing_canon
    | with_reducible apply State.drain_canon
    | dsimp only
    | split

theorem execAcqs_canon (d : Reg) (a : Reg) (s : State) (hc2 : State.Canon s) :
    Keeps (execAcqs d a s) := by
  unfold execAcqs
  repeat' first
    | with_reducible assumption
    | with_reducible apply keeps_next
    | with_reducible apply keeps_fault
    | with_reducible apply ringStep_canon
    | with_reducible apply doneG_canon
    | dsimp only
    | split
    | intro _

theorem execLuih_canon (d : Reg) (i : BitVec 20) (s : State) (hc2 : State.Canon s) :
    Keeps (execLuih d i s) := by
  unfold execLuih
  repeat' first
    | with_reducible assumption
    | with_reducible apply keeps_next
    | with_reducible apply keeps_fault
    | with_reducible apply doneG_canon

theorem execShr_canon (d : Reg) (a : Reg) (b : Reg) (s : State) (hc3 : State.Canon s) :
    Keeps (execShr d a b s) := by
  unfold execShr
  repeat' first
    | with_reducible assumption
    | with_reducible apply keeps_next
    | with_reducible apply keeps_fault
    | with_reducible apply doneG_canon

theorem State.dropCommand_canon (s : State) (c : Fin 16) (id : BitVec 32) (hc0 : State.Canon s) :
    State.Canon (State.dropCommand s c id) := by
  unfold State.dropCommand
  repeat' first
    | with_reducible assumption
    | with_reducible apply State.updCtx_canon

theorem State.refuse_canon (s : State) (f : EngineFault) (addr : Word) (hc0 : State.Canon s) :
    State.Canon (State.refuse s f addr) := by
  unfold State.refuse
  repeat' first
    | with_reducible assumption
    | with_reducible apply State.seqRecord_canon
    | with_reducible apply State.dropCommand_canon
    | with_reducible apply State.stopGraph_canon
    | dsimp only
    | split

theorem refused_canon (s : State) (hc0 : State.Canon s) :
    Keeps (refused s) := by
  unfold refused
  repeat' first
    | with_reducible assumption
    | with_reducible apply keeps_next
    | with_reducible apply keeps_fault
    | with_reducible apply State.refuse_canon

theorem onInsts_canon (slot : BitVec 3) (inst : BitVec 10) (s : State) (f : State → ℕ → Inst → State) (hc2 : State.Canon s) (hc3 : ∀ y0, State.Canon y0 → ∀ y1, ∀ y2, (State.Canon (f y0 y1 y2))) :
    Keeps (onInsts slot inst s f) := by
  unfold onInsts
  repeat' first
    | with_reducible assumption
    | with_reducible apply hc3
    | with_reducible apply keeps_next
    | with_reducible apply keeps_fault
    | with_reducible apply foldl_canon
    | with_reducible apply refused_canon
    | dsimp only
    | split
    | intro _

theorem execSbnd_canon (_q : CmdQual) (ep : BitVec 8) (slot : BitVec 3) (inst : BitVec 10) (value : BitVec 64) (ety : BitVec 4) (s : State) (hc6 : State.Canon s) :
    Keeps (execSbnd _q ep slot inst value ety s) := by
  unfold execSbnd
  repeat' first
    | with_reducible assumption
    | with_reducible apply keeps_next
    | with_reducible apply keeps_fault
    | with_reducible apply State.setInst_canon
    | with_reducible apply refused_canon
    | with_reducible apply onInsts_canon
    | dsimp only
    | split
    | intro _

theorem State.launchXfers_canon (s : State) (pos : ℕ) (k : Queued) (slot : ℕ) (names : List ℕ) (bnd : Bool) (daddr : Word) (d : Desc) (version : ℕ) (hc0 : State.Canon s) :
    State.Canon (State.launchXfers s pos k slot names bnd daddr d version) := by
  unfold State.launchXfers
  repeat' first
    | with_reducible assumption
    | with_reducible apply foldl_canon
    | with_reducible apply foldl_canon_pair
    | with_reducible apply State.setStreamer_canon
    | with_reducible apply State.setInst_canon
    | with_reducible apply State.tick_canon
    | with_reducible refine canon_of_pair (by assumption) ?_
    | dsimp only
    | split
    | intro _

theorem State.refuseQueued_canon (s : State) (k : Queued) (f : EngineFault) (addr : Word) (hc0 : State.Canon s) :
    State.Canon (State.refuseQueued s k f addr) := by
  unfold State.refuseQueued
  repeat' first
    | with_reducible assumption
    | with_reducible apply State.mem_canon
    | with_reducible apply State.refuse_canon

theorem State.askWords_canon (s : State) (src : ℕ) (c : Fin 16) (va : ℕ) (n : ℕ) (hc0 : State.Canon s) :
    State.Canon (State.askWords s src c va n) := by
  unfold State.askWords
  repeat' first
    | with_reducible assumption
    | with_reducible apply foldl_canon
    | with_reducible apply State.engineAsk_canon
    | dsimp only
    | split
    | intro _

theorem State.startTransfer_canon (s : State) (pos : ℕ) (k : Queued) (hc0 : State.Canon s) :
    State.Canon (State.startTransfer s pos k) := by
  unfold State.startTransfer
  repeat' first
    | with_reducible assumption
    | with_reducible apply State.launchXfers_canon
    | with_reducible apply State.refuseQueued_canon
    | with_reducible apply State.askWords_canon
    | dsimp only
    | split

theorem execTransferStart_canon (pos : Fin 128) (s : State) (hc1 : State.Canon s) :
    Keeps (execTransferStart pos s) := by
  unfold execTransferStart
  repeat' first
    | with_reducible assumption
    | with_reducible apply keeps_next
    | with_reducible apply keeps_fault
    | with_reducible apply State.setStreamer_canon
    | with_reducible apply State.startTransfer_canon
    | dsimp only
    | split

theorem State.failEntry_canon (s : State) (e : StoreEntry) (hc0 : State.Canon s) :
    State.Canon (State.failEntry s e) := by
  unfold State.failEntry
  repeat' first
    | with_reducible assumption
    | with_reducible apply State.asyncRecord_canon
    | with_reducible apply State.logAtom_canon
    | with_reducible apply State.mem_canon
    | with_reducible apply State.peers_canon
    | with_reducible refine canon_of_pair (by assumption) ?_
    | dsimp only
    | split

theorem State.failPosted_canon (s : State) (k : ℕ) (hc0 : State.Canon s) :
    Keeps (State.failPosted s k) := by
  unfold State.failPosted
  repeat' first
    | with_reducible assumption
    | with_reducible apply keeps_next
    | with_reducible apply keeps_fault
    | with_reducible apply State.failRoute_canon
    | with_reducible apply State.failEntry_canon
    | dsimp only
    | split

theorem State.failAccess_canon (s : State) (pa : ℕ) (addr : Word) (hc0 : State.Canon s) :
    Keeps (State.failAccess s pa addr) := by
  unfold State.failAccess
  repeat' first
    | with_reducible assumption
    | with_reducible apply keeps_next
    | with_reducible apply keeps_fault
    | with_reducible apply State.failRoute_canon
    | with_reducible apply trapWith_canon

theorem State.failAwaited_canon (s : State) (hc0 : State.Canon s) :
    Keeps (State.failAwaited s) := by
  unfold State.failAwaited
  repeat' first
    | with_reducible assumption
    | with_reducible apply keeps_next
    | with_reducible apply keeps_fault
    | with_reducible apply done_canon
    | with_reducible apply State.asyncRecord_canon
    | with_reducible apply State.wake_canon
    | with_reducible apply State.failAccess_canon
    | with_reducible apply State.failRoute_canon
    | with_reducible apply State.withdraw_canon
    | with_reducible refine canon_of_pair (by assumption) ?_
    | dsimp only
    | split

theorem State.failThread_canon (s : State) (k : ℕ) (hc0 : State.Canon s) :
    Keeps (State.failThread s k) := by
  unfold State.failThread
  repeat' first
    | with_reducible assumption
    | with_reducible apply keeps_next
    | with_reducible apply keeps_fault
    | with_reducible apply State.failPosted_canon
    | with_reducible apply State.failAwaited_canon
    | dsimp only
    | split

theorem execRouteRequestFail_canon (who : Requester) (k : ℕ) (s : State) (hc2 : State.Canon s) :
    Keeps (execRouteRequestFail who k s) := by
  unfold execRouteRequestFail
  repeat' first
    | with_reducible assumption
    | with_reducible apply keeps_next
    | with_reducible apply keeps_fault
    | with_reducible apply onThread_canon
    | with_reducible apply State.failThread_canon
    | with_reducible apply State.mem_canon
    | with_reducible apply State.peers_canon
    | dsimp only
    | split
    | intro _

theorem doneFloat_canon (s : State) (d : Reg) (x : ℕ × Flags) (turns : ℕ) (hc0 : State.Canon s) :
    Keeps (doneFloat s d x turns) := by
  unfold doneFloat
  repeat' first
    | with_reducible assumption
    | with_reducible apply keeps_next
    | with_reducible apply keeps_fault
    | with_reducible apply State.raiseFlags_canon
    | with_reducible apply State.setF_canon
    | with_reducible apply forfeit_canon
    | with_reducible apply State.advance_canon

theorem execIcvf_canon (t : FType) (d : Reg) (a : Reg) (ty : IntType) (r : RmField) (s : State) (hc5 : State.Canon s) :
    Keeps (execIcvf t d a ty r s) := by
  unfold execIcvf
  repeat' first
    | with_reducible assumption
    | with_reducible apply keeps_next
    | with_reducible apply keeps_fault
    | with_reducible apply doneFloat_canon

theorem execFsub_canon (t : FType) (d : Reg) (a : Reg) (b : Reg) (r : RmField) (s : State) (hc5 : State.Canon s) :
    Keeps (execFsub t d a b r s) := by
  unfold execFsub
  repeat' first
    | with_reducible assumption
    | with_reducible apply keeps_next
    | with_reducible apply keeps_fault
    | with_reducible apply doneFloat_canon

theorem setHypothesis_canon (s : State) (v : Word) (hc0 : State.Canon s) :
    Keeps (setHypothesis s v) := by
  unfold setHypothesis
  repeat' first
    | with_reducible assumption
    | with_reducible apply keeps_next
    | with_reducible apply keeps_fault
    | with_reducible apply done_canon
    | with_reducible apply State.mem_canon
    | with_reducible apply State.peers_canon
    | with_reducible apply State.deliver_canon
    | dsimp only
    | split

theorem execHset_canon (a : Reg) (s : State) (hc1 : State.Canon s) :
    Keeps (execHset a s) := by
  unfold execHset
  repeat' first
    | with_reducible assumption
    | with_reducible apply keeps_next
    | with_reducible apply keeps_fault
    | with_reducible apply setHypothesis_canon

theorem execSplc_canon (_q : CmdQual) (partl : Bool) (slot : BitVec 3) (ninst : BitVec 10) (queue : BitVec 6) (s : State) (hc5 : State.Canon s) :
    Keeps (execSplc _q partl slot ninst queue s) := by
  unfold execSplc
  repeat' first
    | with_reducible assumption
    | with_reducible apply keeps_next
    | with_reducible apply keeps_fault
    | with_reducible apply State.tick_canon
    | with_reducible apply refused_canon
    | with_reducible apply State.updCtx_canon
    | with_reducible refine canon_of_pair (by assumption) ?_
    | dsimp only
    | split

theorem execSra_canon (d : Reg) (a : Reg) (b : Reg) (s : State) (hc3 : State.Canon s) :
    Keeps (execSra d a b s) := by
  unfold execSra
  repeat' first
    | with_reducible assumption
    | with_reducible apply keeps_next
    | with_reducible apply keeps_fault
    | with_reducible apply doneG_canon

theorem execRouteLinkChange_canon (port : Fin 48) (up : Bool) (lanes : Fin 5) (s : State) (hc3 : State.Canon s) :
    Keeps (execRouteLinkChange port up lanes s) := by
  unfold execRouteLinkChange
  repeat' first
    | with_reducible assumption
    | with_reducible apply keeps_next
    | with_reducible apply keeps_fault
    | with_reducible apply State.setReg_canon

theorem execSinkWaitTimeout_canon (c : Fin 16) (g : Fin 4) (s : State) (hc2 : State.Canon s) :
    Keeps (execSinkWaitTimeout c g s) := by
  have h1 := State.noteDrain_canon s c hc2
  rw [execSinkWaitTimeout]
  generalize s.noteDrain c = u at h1 ⊢
  split
  · split
    · split
      · exact keeps_next (State.finishGraph_canon _ _ _ _ h1)
      · exact keeps_next h1
    · exact keeps_next h1
  · exact keeps_next h1

theorem execSmigCommit_canon (k : ℕ) (s : State) (hc1 : State.Canon s) :
    Keeps (execSmigCommit k s) := by
  unfold execSmigCommit
  repeat' first
    | with_reducible assumption
    | with_reducible apply keeps_next
    | with_reducible apply keeps_fault
    | with_reducible apply tryCanon_ok
    | with_reducible apply tryCanon_spilled
    | with_reducible apply tryCanon_wait
    | with_reducible apply State.endXfer_canon
    | with_reducible apply State.elemWrite_canon
    | with_reducible apply State.tryElem_canon
    | with_reducible refine canon_of_spilled (by assumption) ?_
    | with_reducible refine canon_of_wait (by assumption) ?_
    | dsimp only
    | split

theorem State.haltContext_canon (s : State) (c : Fin 16) (hc0 : State.Canon s) :
    State.Canon (State.haltContext s c) := by
  unfold State.haltContext
  repeat' first
    | with_reducible assumption
    | with_reducible apply foldl_canon
    | with_reducible apply State.preempt_canon
    | with_reducible apply State.updThread_canon
    | with_reducible apply State.updCtx_canon
    | dsimp only
    | split
    | intro _

theorem execDrainComplete_canon (p : Place) (s : State) (hc1 : State.Canon s) :
    Keeps (execDrainComplete p s) := by
  unfold execDrainComplete
  repeat' first
    | with_reducible assumption
    | with_reducible apply keeps_next
    | with_reducible apply keeps_fault
    | with_reducible apply onThread_canon
    | with_reducible apply State.releaseTo_canon
    | with_reducible apply State.endThread_canon
    | with_reducible apply State.drain_canon
    | with_reducible apply State.haltContext_canon
    | dsimp only
    | split
    | intro _

theorem State.touched_canon (t : State) (s : State) (addr : Word) (pa : ℕ) (n : ℕ) (rd : Bool) (wr : Bool) (hc0 : State.Canon t) (hc1 : State.Canon s) :
    State.Canon (State.touched t s addr pa n rd wr) := by
  unfold State.touched
  repeat' first
    | with_reducible assumption
    | with_reducible apply State.touchBy_canon

theorem State.landed_canon (s : State) (dst : LoadDest) (n : ℕ) (v : ℕ) (hc0 : State.Canon s) :
    State.Canon (State.landed s dst n v) := by
  unfold State.landed
  repeat' first
    | with_reducible assumption

theorem State.fullLanded_canon (t : State) (s : State) (addr : Word) (pa : ℕ) (n : ℕ) (consume : Bool) (hc0 : State.Canon t) (hc1 : State.Canon s) :
    State.Canon (State.fullLanded t s addr pa n consume) := by
  unfold State.fullLanded
  repeat' first
    | with_reducible assumption
    | with_reducible apply State.acquire_canon
    | with_reducible apply State.touched_canon
    | dsimp only
    | split

theorem State.loadReg_canon (s : State) (r : DevReg) (addr : Word) (pa : ℕ) (dst : LoadDest) (hc0 : State.Canon s) :
    State.Canon (State.loadReg s r addr pa dst) := by
  unfold State.loadReg
  repeat' first
    | with_reducible assumption
    | with_reducible apply State.touched_canon
    | with_reducible apply State.exchange_canon
    | with_reducible apply State.landed_canon
    | with_reducible apply State.block_canon
    | dsimp only
    | split

theorem loadTurn_canon (s : State) (n : ℕ) (q : LoadQual) (reg : Bool) (b : Reg) (o : BitVec 12) (dst : LoadDest) (hc0 : State.Canon s) :
    Keeps (loadTurn s n q reg b o dst) := by
  unfold loadTurn
  repeat' first
    | with_reducible assumption
    | with_reducible apply keeps_next
    | with_reducible apply keeps_fault
    | with_reducible apply exCanon_ok
    | with_reducible exact exCanon_error
    | with_reducible apply exCanonL_ok
    | with_reducible exact exCanonL_error
    | with_reducible apply State.touched_canon
    | with_reducible apply State.fullLoad_canon
    | with_reducible apply inTrouble_canon
    | with_reducible apply trapWith_canon
    | with_reducible apply State.loadAt_canon
    | with_reducible apply State.landed_canon
    | with_reducible apply State.fullLanded_canon
    | with_reducible apply State.loadReg_canon
    | with_reducible apply State.block_canon
    | with_reducible refine canon_of_ok (by assumption) ?_
    | with_reducible refine canon_of_okL (by assumption) ?_
    | dsimp only
    | split

theorem execLdp_canon (d : Reg) (b : Reg) (q : LoadQual) (o : BitVec 12) (s : State) (hc4 : State.Canon s) :
    Keeps (execLdp d b q o s) := by
  unfold execLdp
  repeat' first
    | with_reducible assumption
    | with_reducible apply keeps_next
    | with_reducible apply keeps_fault
    | with_reducible apply loadTurn_canon

theorem execNsub_canon (n : NodeFields) (s : State) (hc1 : State.Canon s) :
    Keeps (execNsub n s) := by
  unfold execNsub
  repeat' first
    | with_reducible assumption
    | with_reducible apply keeps_next
    | with_reducible apply keeps_fault
    | with_reducible apply elementwise_canon

theorem writeTwa_canon (s : State) (n : Fin 4) (v : Word) (hc0 : State.Canon s) :
    Keeps (writeTwa s n v) := by
  unfold writeTwa
  repeat' first
    | with_reducible assumption
    | with_reducible apply keeps_next
    | with_reducible apply keeps_fault
    | with_reducible apply done_canon

theorem writeTwc_canon (s : State) (n : Fin 4) (v : Word) (hc0 : State.Canon s) :
    Keeps (writeTwc s n v) := by
  unfold writeTwc
  repeat' first
    | with_reducible assumption
    | with_reducible apply keeps_next
    | with_reducible apply keeps_fault
    | with_reducible apply done_canon
    | with_reducible apply State.mem_canon
    | with_reducible apply State.peers_canon
    | with_reducible apply trapNow_canon
    | dsimp only
    | split

theorem execMts_canon (a : Reg) (n : BitVec 12) (s : State) (hc2 : State.Canon s) :
    Keeps (execMts a n s) := by
  unfold execMts
  repeat' first
    | with_reducible assumption
    | with_reducible apply keeps_next
    | with_reducible apply keeps_fault
    | with_reducible apply done_canon
    | with_reducible apply writeTwa_canon
    | with_reducible apply State.mem_canon
    | with_reducible apply State.peers_canon
    | with_reducible apply writeTwc_canon
    | with_reducible apply trapNow_canon
    | with_reducible apply setHypothesis_canon
    | dsimp only
    | split

theorem State.appendLaunch_canon (s : State) (c : Fin 16) (q : Fin 64) (ws : List Word) (p : Option Word) (h : Handle) (hc0 : State.Canon s) :
    State.Canon (State.appendLaunch s c q ws p h) := by
  unfold State.appendLaunch
  repeat' first
    | with_reducible assumption
    | with_reducible apply State.tick_canon
    | with_reducible apply State.updCtx_canon

theorem State.loadWords_canon (s : State) (p : Word) (pa : ℕ) (z3 : ℕ) (hc0 : State.Canon s) :
    ExCanonL (State.loadWords s p pa z3) := by
  induction z3 generalizing s p pa with
  | zero  =>
    unfold State.loadWords
    repeat' first
      | with_reducible assumption
      | with_reducible apply exCanonL_ok
  | succ n_ ih =>
    unfold State.loadWords
    repeat' first
      | with_reducible assumption
      | with_reducible apply ih
      | with_reducible apply exCanonL_ok
      | with_reducible exact exCanonL_error
      | with_reducible apply State.loadAt_canon
      | with_reducible refine canon_of_okL (by assumption) ?_
      | dsimp only
      | split

theorem State.loadDesc_canon (s : State) (p : Word) (ea : ℕ) (pa : ℕ) (hc0 : State.Canon s) :
    ExCanonL (State.loadDesc s p ea pa) := by
  unfold State.loadDesc
  repeat' first
    | with_reducible assumption
    | with_reducible apply exCanonL_ok
    | with_reducible exact exCanonL_error
    | with_reducible apply State.loadWords_canon
    | with_reducible refine canon_of_okL (by assumption) ?_
    | dsimp only
    | split

theorem launchTurn_canon (s : State) (a : Reg) (b : Reg) (count : Option Reg) (hc0 : State.Canon s) :
    Keeps (launchTurn s a b count) := by
  unfold launchTurn
  repeat' first
    | with_reducible assumption
    | with_reducible apply keeps_next
    | with_reducible apply keeps_fault
    | with_reducible apply exCanonL_ok
    | with_reducible exact exCanonL_error
    | with_reducible apply done_canon
    | with_reducible apply State.appendLaunch_canon
    | with_reducible apply inTrouble_canon
    | with_reducible apply State.loadDesc_canon
    | with_reducible apply State.block_canon
    | with_reducible refine canon_of_okL (by assumption) ?_
    | dsimp only
    | split

theorem atFence_canon (s : State) (sc : Scope) (k : State → Result) (hc0 : State.Canon s) (hc2 : ∀ y0, State.Canon y0 → (Keeps (k y0))) :
    Keeps (atFence s sc k) := by
  unfold atFence
  repeat' first
    | with_reducible assumption
    | with_reducible apply hc2
    | with_reducible apply keeps_next
    | with_reducible apply keeps_fault
    | with_reducible apply State.releaseTo_canon
    | with_reducible apply State.haltContext_canon
    | dsimp only
    | split

theorem execLnch_canon (a : Reg) (b : Reg) (s : State) (hc2 : State.Canon s) :
    Keeps (execLnch a b s) := by
  unfold execLnch
  repeat' first
    | with_reducible assumption
    | with_reducible apply keeps_next
    | with_reducible apply keeps_fault
    | with_reducible apply launchTurn_canon
    | with_reducible apply atFence_canon
    | dsimp only
    | split
    | intro _

theorem execFmul_canon (t : FType) (d : Reg) (a : Reg) (b : Reg) (r : RmField) (s : State) (hc5 : State.Canon s) :
    Keeps (execFmul t d a b r s) := by
  unfold execFmul
  repeat' first
    | with_reducible assumption
    | with_reducible apply keeps_next
    | with_reducible apply keeps_fault
    | with_reducible apply doneFloat_canon

theorem execTenc_canon (t : FType) (d : Reg) (a : Reg) (n : Fin 4) (s : State) (hc4 : State.Canon s) :
    Keeps (execTenc t d a n s) := by
  unfold execTenc
  repeat' first
    | with_reducible assumption
    | with_reducible apply keeps_next
    | with_reducible apply keeps_fault
    | with_reducible apply doneInt_canon

theorem wtfeTurn_canon (d : Reg) (limit : Word) (s : State) (hc2 : State.Canon s) :
    Keeps (wtfeTurn d limit s) := by
  unfold wtfeTurn
  repeat' first
    | with_reducible assumption
    | with_reducible apply keeps_next
    | with_reducible apply keeps_fault
    | with_reducible apply endWait_canon
    | with_reducible apply State.mem_canon
    | with_reducible apply State.peers_canon
    | dsimp only
    | split

theorem barwTurn_canon (d : Reg) (b : Fin 4) (limit : Word) (s : State) (hc3 : State.Canon s) :
    Keeps (barwTurn d b limit s) := by
  unfold barwTurn
  repeat' first
    | with_reducible assumption
    | with_reducible apply keeps_next
    | with_reducible apply keeps_fault
    | with_reducible apply State.acquire_canon
    | with_reducible apply endWait_canon
    | with_reducible apply acquiring_canon
    | with_reducible apply State.mem_canon
    | with_reducible apply State.peers_canon
    | with_reducible apply State.block_canon
    | dsimp only
    | split
    | intro _

theorem twaitTurn_canon (d : Reg) (limit : Word) (s : State) (hc2 : State.Canon s) :
    Keeps (twaitTurn d limit s) := by
  unfold twaitTurn
  repeat' first
    | with_reducible assumption
    | with_reducible apply keeps_next
    | with_reducible apply keeps_fault
    | with_reducible apply State.acquire_canon
    | with_reducible apply endWait_canon
    | with_reducible apply acquiring_canon
    | with_reducible apply State.mem_canon
    | with_reducible apply State.peers_canon
    | with_reducible apply State.block_canon
    | dsimp only
    | split
    | intro _

theorem timedTurn_canon (s : State) (hc0 : State.Canon s) :
    Keeps (timedTurn s) := by
  unfold timedTurn
  repeat' first
    | with_reducible assumption
    | with_reducible apply keeps_next
    | with_reducible apply keeps_fault
    | with_reducible apply hwaitTurn_canon
    | with_reducible apply wtfeTurn_canon
    | with_reducible apply barwTurn_canon
    | with_reducible apply twaitTurn_canon
    | dsimp only
    | split

theorem State.takeOrphan_canon (s : State) (hc0 : State.Canon s) :
    State.Canon (State.takeOrphan s) := by
  unfold State.takeOrphan
  repeat' first
    | with_reducible assumption
    | with_reducible apply State.mem_canon
    | with_reducible apply State.peers_canon
    | with_reducible apply State.settleTable_canon
    | with_reducible apply State.withdraw_canon
    | with_reducible apply State.deliver_canon
    | dsimp only
    | split

theorem execTimedWaitTimeout_canon (p : Place) (s : State) (hc1 : State.Canon s) :
    Keeps (execTimedWaitTimeout p s) := by
  unfold execTimedWaitTimeout
  repeat' first
    | with_reducible assumption
    | with_reducible apply keeps_next
    | with_reducible apply keeps_fault
    | with_reducible apply onThread_canon
    | with_reducible apply timedTurn_canon
    | with_reducible apply State.takeOrphan_canon
    | dsimp only
    | split
    | intro _

theorem execLdH_canon (d : Reg) (b : Reg) (q : LoadQual) (o : BitVec 12) (s : State) (hc4 : State.Canon s) :
    Keeps (execLdH d b q o s) := by
  unfold execLdH
  repeat' first
    | with_reducible assumption
    | with_reducible apply keeps_next
    | with_reducible apply keeps_fault
    | with_reducible apply loadTurn_canon

theorem execNfma_canon (n : NodeFields) (s : State) (hc1 : State.Canon s) :
    Keeps (execNfma n s) := by
  unfold execNfma
  repeat' first
    | with_reducible assumption
    | with_reducible apply keeps_next
    | with_reducible apply keeps_fault
    | with_reducible apply elementwise_canon

theorem branchIf_canon (c : Bool) (o : BitVec 15) (s : State) (hc2 : State.Canon s) :
    Keeps (branchIf c o s) := by
  unfold branchIf
  repeat' first
    | with_reducible assumption
    | with_reducible apply keeps_next
    | with_reducible apply keeps_fault
    | with_reducible apply done_canon
    | with_reducible apply State.goto_canon
    | dsimp only
    | split

theorem execBgen_canon (a : Reg) (b : Reg) (o : BitVec 15) (s : State) (hc3 : State.Canon s) :
    Keeps (execBgen a b o s) := by
  unfold execBgen
  repeat' first
    | with_reducible assumption
    | with_reducible apply keeps_next
    | with_reducible apply keeps_fault
    | with_reducible apply branchIf_canon

theorem execFlitArrive_canon (i : ℕ) (k : ℕ) (s : State) (hc2 : State.Canon s) :
    Keeps (execFlitArrive i k s) := by
  unfold execFlitArrive
  repeat' first
    | with_reducible assumption
    | with_reducible apply keeps_next
    | with_reducible apply keeps_fault
    | with_reducible apply State.stir_canon
    | dsimp only
    | split

theorem execLoop_canon (a : Reg) (o : BitVec 15) (s : State) (hc2 : State.Canon s) :
    Keeps (execLoop a o s) := by
  unfold execLoop
  repeat' first
    | with_reducible assumption
    | with_reducible apply keeps_next
    | with_reducible apply keeps_fault
    | with_reducible apply done_canon
    | with_reducible apply State.setG_canon
    | with_reducible apply State.goto_canon
    | dsimp only
    | split

theorem execFmin_canon (t : FType) (d : Reg) (a : Reg) (b : Reg) (s : State) (hc4 : State.Canon s) :
    Keeps (execFmin t d a b s) := by
  unfold execFmin
  repeat' first
    | with_reducible assumption
    | with_reducible apply keeps_next
    | with_reducible apply keeps_fault
    | with_reducible apply doneFloat_canon

theorem execNsel_canon (n : NodeFields) (s : State) (hc1 : State.Canon s) :
    Keeps (execNsel n s) := by
  unfold execNsel
  repeat' first
    | with_reducible assumption
    | with_reducible apply keeps_next
    | with_reducible apply keeps_fault
    | with_reducible apply elementwise_canon

theorem execHrefDiscard_canon (c : Fin 16) (s : State) (hc1 : State.Canon s) :
    Keeps (execHrefDiscard c s) := by
  unfold execHrefDiscard
  repeat' first
    | with_reducible assumption
    | with_reducible apply keeps_next
    | with_reducible apply keeps_fault
    | with_reducible apply State.hypServe_canon
    | dsimp only
    | split

theorem withLine_canon (s : State) (p : Word) (ea : ℕ) (k : ℕ → Result) (hc0 : State.Canon s) (hc3 : ∀ y0, (Keeps (k y0))) :
    Keeps (withLine s p ea k) := by
  unfold withLine
  repeat' first
    | with_reducible assumption
    | with_reducible apply hc3
    | with_reducible apply keeps_next
    | with_reducible apply keeps_fault
    | with_reducible apply done_canon
    | with_reducible apply inTrouble_canon
    | dsimp only
    | split

theorem execCfls_canon (b : Reg) (o : BitVec 12) (s : State) (hc2 : State.Canon s) :
    Keeps (execCfls b o s) := by
  unfold execCfls
  repeat' first
    | with_reducible assumption
    | with_reducible apply keeps_next
    | with_reducible apply keeps_fault
    | with_reducible apply done_canon
    | with_reducible apply State.cleanAll_canon
    | with_reducible apply withLine_canon
    | dsimp only
    | split
    | intro _

theorem execSigv_canon (a : Reg) (b : Reg) (s : State) (hc2 : State.Canon s) :
    Keeps (execSigv a b s) := by
  unfold execSigv
  repeat' first
    | with_reducible assumption
    | with_reducible apply keeps_next
    | with_reducible apply keeps_fault
    | with_reducible apply State.post_canon
    | with_reducible apply done_canon
    | with_reducible apply State.mem_canon
    | with_reducible apply State.peers_canon
    | with_reducible apply atFence_canon
    | with_reducible refine canon_of_pair (by assumption) ?_
    | dsimp only
    | split
    | intro _

theorem State.setSlice_canon (s : State) (pos : ℕ) (v : Slice) (hc0 : State.Canon s) :
    State.Canon (State.setSlice s pos v) := by
  unfold State.setSlice
  repeat' first
    | with_reducible assumption

theorem State.unloadProg_canon (s : State) (pos : ℕ) (prog : Fin 4) (hc0 : State.Canon s) :
    State.Canon (State.unloadProg s pos prog) := by
  unfold State.unloadProg
  repeat' first
    | with_reducible assumption
    | with_reducible apply State.freeEp_canon
    | with_reducible apply State.setSlice_canon
    | dsimp only
    | split

theorem holdBack_canon (s : State) (hc0 : State.Canon s) :
    Keeps (holdBack s) := by
  unfold holdBack
  repeat' first
    | with_reducible assumption
    | with_reducible apply keeps_next
    | with_reducible apply keeps_fault
    | with_reducible apply State.updCtx_canon

theorem execSagpU_canon (_q : CmdQual) (pos : BitVec 7) (prog : BitVec 2) (s : State) (hc3 : State.Canon s) :
    Keeps (execSagpU _q pos prog s) := by
  unfold execSagpU
  repeat' first
    | with_reducible assumption
    | with_reducible apply keeps_next
    | with_reducible apply keeps_fault
    | with_reducible apply State.unloadProg_canon
    | with_reducible apply holdBack_canon
    | dsimp only
    | split

theorem execHypControllerRequest_canon (c : Fin 16) (s : State) (hc1 : State.Canon s) :
    Keeps (execHypControllerRequest c s) := by
  unfold execHypControllerRequest
  repeat' first
    | with_reducible assumption
    | with_reducible apply keeps_next
    | with_reducible apply keeps_fault
    | with_reducible apply State.hypServe_canon
    | dsimp only
    | split

theorem State.tokenAcquired_canon (s : State) (r : ℕ) (hc0 : State.Canon s) :
    State.Canon (State.tokenAcquired s r) := by
  unfold State.tokenAcquired
  repeat' first
    | with_reducible assumption
    | with_reducible apply State.acquire_canon

theorem State.reach_canon (s : State) (home : ℕ) (p : Place) (hc0 : State.Canon s) :
    State.Canon (State.reach s home p) := by
  unfold State.reach
  repeat' first
    | with_reducible assumption
    | with_reducible apply State.updThread_canon
    | with_reducible apply State.pokeImage_canon
    | with_reducible apply State.tell_canon
    | dsimp only
    | split

theorem execTokenGrantArrive_canon (k : ℕ) (s : State) (hc1 : State.Canon s) :
    Keeps (execTokenGrantArrive k s) := by
  unfold execTokenGrantArrive
  repeat' first
    | with_reducible assumption
    | with_reducible apply keeps_next
    | with_reducible apply keeps_fault
    | with_reducible apply State.setToken_canon
    | with_reducible apply State.tokenAcquired_canon
    | with_reducible apply onThread_canon
    | with_reducible apply State.wake_canon
    | with_reducible apply State.mem_canon
    | with_reducible apply State.peers_canon
    | with_reducible apply State.reach_canon
    | with_reducible apply State.tell_canon
    | with_reducible apply State.advance_canon
    | dsimp only
    | split
    | intro _

theorem execBfxS_canon (d : Reg) (a : Reg) (w : BitVec 6) (p : BitVec 6) (s : State) (hc4 : State.Canon s) :
    Keeps (execBfxS d a w p s) := by
  unfold execBfxS
  repeat' first
    | with_reducible assumption
    | with_reducible apply keeps_next
    | with_reducible apply keeps_fault
    | with_reducible apply doneG_canon

theorem execAnd_canon (d : Reg) (a : Reg) (b : Reg) (s : State) (hc3 : State.Canon s) :
    Keeps (execAnd d a b s) := by
  unfold execAnd
  repeat' first
    | with_reducible assumption
    | with_reducible apply keeps_next
    | with_reducible apply keeps_fault
    | with_reducible apply doneG_canon

theorem portTurn_canon (s : State) (addr : Word) (pa : ℕ) (v : ℕ) (hc0 : State.Canon s) :
    Keeps (portTurn s addr pa v) := by
  unfold portTurn
  repeat' first
    | with_reducible assumption
    | with_reducible apply keeps_next
    | with_reducible apply keeps_fault
    | with_reducible apply done_canon
    | with_reducible apply State.touched_canon
    | with_reducible apply State.exchange_canon
    | with_reducible apply State.updCtx_canon
    | with_reducible apply atFence_canon
    | with_reducible apply State.block_canon
    | dsimp only
    | split
    | intro _

theorem State.storeReg_canon (s : State) (r : DevReg) (addr : Word) (pa : ℕ) (v : Word) (hc0 : State.Canon s) :
    State.Canon (State.storeReg s r addr pa v) := by
  unfold State.storeReg
  repeat' first
    | with_reducible assumption
    | with_reducible apply optCanon_some
    | with_reducible exact optCanon_none
    | with_reducible apply optCanon_map
    | with_reducible apply State.touched_canon
    | with_reducible apply State.exchange_canon
    | with_reducible apply State.returnTo_canon
    | with_reducible apply State.storeWait_canon
    | with_reducible apply State.enter_canon
    | with_reducible apply State.devWrite_canon
    | with_reducible apply State.advance_canon
    | with_reducible apply State.block_canon
    | with_reducible refine canon_of_some (by assumption) ?_
    | dsimp only
    | split

theorem storeTurn_canon (s : State) (n : ℕ) (q : StoreQual) (reg : Bool) (port : Bool) (b : Reg) (o : BitVec 12) (v : ℕ) (hc0 : State.Canon s) :
    Keeps (storeTurn s n q reg port b o v) := by
  unfold storeTurn
  repeat' first
    | with_reducible assumption
    | with_reducible apply keeps_next
    | with_reducible apply keeps_fault
    | with_reducible apply exCanon_ok
    | with_reducible exact exCanon_error
    | with_reducible apply portTurn_canon
    | with_reducible apply State.touched_canon
    | with_reducible apply State.storeAt_canon
    | with_reducible apply inTrouble_canon
    | with_reducible apply trapWith_canon
    | with_reducible apply State.storeReg_canon
    | with_reducible refine canon_of_ok (by assumption) ?_
    | dsimp only
    | split

theorem execStD_canon (d : Reg) (b : Reg) (q : StoreQual) (o : BitVec 12) (s : State) (hc4 : State.Canon s) :
    Keeps (execStD d b q o s) := by
  unfold execStD
  repeat' first
    | with_reducible assumption
    | with_reducible apply keeps_next
    | with_reducible apply keeps_fault
    | with_reducible apply storeTurn_canon

theorem Firing.emit_canon (f : Firing) (t : ℕ) (tail : Bool) (hc0 : State.Canon f.s) :
    State.Canon (Firing.emit f t tail).s := by
  unfold Firing.emit
  repeat' first
    | with_reducible assumption
    | with_reducible apply foldl_canon
    | with_reducible apply foldl_canon_firing
    | with_reducible apply Firing.send_canon
    | with_reducible apply Firing.updNode_canon
    | dsimp only
    | split

theorem Firing.convertFlit_canon (f : Firing) (k : NodeKind) (d : Flit) (hc0 : State.Canon f.s) :
    State.Canon (Firing.convertFlit f k d).s := by
  unfold Firing.convertFlit
  repeat' first
    | with_reducible assumption
    | with_reducible apply foldl_canon
    | with_reducible apply foldl_canon_firing
    | with_reducible apply Firing.counted_canon
    | with_reducible apply Firing.updNode_canon
    | with_reducible apply Firing.flags_canon
    | with_reducible apply Firing.takeAll_canon
    | dsimp only
    | split

theorem repack_canon (k : NodeKind) (n : NodeFields) (header : TileHdr → Word) (s : State) (hc3 : State.Canon s) :
    Keeps (repack k n header s) := by
  unfold repack
  repeat' first
    | with_reducible assumption
    | with_reducible apply keeps_next
    | with_reducible apply keeps_fault
    | with_reducible apply Firing.emit_canon
    | with_reducible apply fire_canon
    | with_reducible apply Firing.done_canon
    | with_reducible apply Firing.convertFlit_canon
    | with_reducible apply Firing.sendHeader_canon
    | dsimp only
    | split
    | intro _

theorem repackStep_canon (k : NodeKind) (n : NodeFields) (header : TileHdr → Word) (s : State) (hc3 : State.Canon s) :
    Keeps (repackStep k n header s) := by
  unfold repackStep
  repeat' first
    | with_reducible assumption
    | with_reducible apply keeps_next
    | with_reducible apply keeps_fault
    | with_reducible apply Firing.emit_canon
    | with_reducible apply Firing.done_canon
    | with_reducible apply repack_canon
    | with_reducible apply withFiring_canon
    | with_reducible apply Firing.needHeaders_canon
    | dsimp only
    | split
    | intro _

theorem execNdec_canon (n : NodeFields) (s : State) (hc1 : State.Canon s) :
    Keeps (execNdec n s) := by
  unfold execNdec
  repeat' first
    | with_reducible assumption
    | with_reducible apply keeps_next
    | with_reducible apply keeps_fault
    | with_reducible apply repackStep_canon

theorem execFle_canon (t : FType) (d : Reg) (a : Reg) (b : Reg) (s : State) (hc4 : State.Canon s) :
    Keeps (execFle t d a b s) := by
  unfold execFle
  repeat' first
    | with_reducible assumption
    | with_reducible apply keeps_next
    | with_reducible apply keeps_fault
    | with_reducible apply doneInt_canon

theorem execQtop_canon (d : Reg) (a : Reg) (s : State) (hc2 : State.Canon s) :
    Keeps (execQtop d a s) := by
  unfold execQtop
  repeat' first
    | with_reducible assumption
    | with_reducible apply keeps_next
    | with_reducible apply keeps_fault
    | with_reducible apply State.mem_canon
    | with_reducible apply State.peers_canon
    | with_reducible apply doneG_canon
    | dsimp only
    | split

theorem execBlt_canon (a : Reg) (b : Reg) (o : BitVec 15) (s : State) (hc3 : State.Canon s) :
    Keeps (execBlt a b o s) := by
  unfold execBlt
  repeat' first
    | with_reducible assumption
    | with_reducible apply keeps_next
    | with_reducible apply keeps_fault
    | with_reducible apply branchIf_canon

theorem execPresDiscard_canon (site : Fin 1024) (port : Fin 4) (s : State) (hc2 : State.Canon s) :
    Keeps (execPresDiscard site port s) := by
  unfold execPresDiscard
  repeat' first
    | with_reducible assumption
    | with_reducible apply keeps_next
    | with_reducible apply keeps_fault
    | with_reducible apply State.portDiscard_canon

theorem execStfD_canon (d : Reg) (b : Reg) (q : StoreQual) (o : BitVec 12) (s : State) (hc4 : State.Canon s) :
    Keeps (execStfD d b q o s) := by
  unfold execStfD
  repeat' first
    | with_reducible assumption
    | with_reducible apply keeps_next
    | with_reducible apply keeps_fault
    | with_reducible apply storeTurn_canon

theorem State.takeEp_canon (s : State) (i : ℕ) (x : Inst) (ep : ℕ) (id : ℕ) (hc0 : State.Canon s) :
    OptCanonR (State.takeEp s i x ep id) := by
  unfold State.takeEp
  repeat' first
    | with_reducible assumption
    | with_reducible apply optCanonR_some
    | with_reducible exact optCanonR_none
    | with_reducible apply State.stir_canon
    | with_reducible refine canon_of_someR (by assumption) ?_
    | dsimp only
    | split

theorem State.progHeaderBad_canon (s : State) (pos : ℕ) (p : EdgeProg) (hc0 : State.Canon s) :
    State.Canon (State.progHeaderBad s pos p) := by
  unfold State.progHeaderBad
  repeat' first
    | with_reducible assumption
    | with_reducible apply State.asyncRecord_canon

theorem State.progTake_canon (s : State) (pos : ℕ) (prog : Fin 4) (p : EdgeProg) (f : Flit) (hc0 : State.Canon s) :
    State.Canon (State.progTake s pos prog p f) := by
  unfold State.progTake
  repeat' first
    | with_reducible assumption
    | with_reducible apply foldl_canon
    | with_reducible apply State.setSlice_canon
    | with_reducible apply State.progHeaderBad_canon
    | dsimp only
    | split
    | intro _

theorem State.updProg_canon (s : State) (pos : ℕ) (prog : ℕ) (f : EdgeProg → EdgeProg) (hc0 : State.Canon s) :
    State.Canon (State.updProg s pos prog f) := by
  unfold State.updProg
  repeat' first
    | with_reducible assumption
    | with_reducible apply State.setSlice_canon

theorem State.deliverEp_canon (s : State) (i : ℕ) (x : Inst) (ep : ℕ) (own : Option (ℕ × Word)) (f : Flit) (hc0 : State.Canon s) :
    OptCanon (State.deliverEp s i x ep own f) := by
  unfold State.deliverEp
  repeat' first
    | with_reducible assumption
    | with_reducible apply optCanon_some
    | with_reducible exact optCanon_none
    | with_reducible apply optCanon_map
    | with_reducible apply State.stir_canon
    | with_reducible refine canon_of_some (by assumption) ?_
    | dsimp only
    | split

theorem execEdgeProgramFlit_canon (pos : Fin 128) (prog : Fin 4) (s : State) (hc2 : State.Canon s) :
    Keeps (execEdgeProgramFlit pos prog s) := by
  unfold execEdgeProgramFlit
  repeat' first
    | with_reducible assumption
    | with_reducible apply keeps_next
    | with_reducible apply keeps_fault
    | with_reducible apply optCanon_some
    | with_reducible exact optCanon_none
    | with_reducible apply optCanonR_some
    | with_reducible exact optCanonR_none
    | with_reducible apply optCanon_map
    | with_reducible apply State.takeEp_canon
    | with_reducible apply State.progTake_canon
    | with_reducible apply State.updProg_canon
    | with_reducible apply State.setSlice_canon
    | with_reducible apply State.deliverEp_canon
    | with_reducible refine canon_of_some (by assumption) ?_
    | with_reducible refine canon_of_someR (by assumption) ?_
    | dsimp only
    | split

theorem execBge_canon (a : Reg) (b : Reg) (o : BitVec 15) (s : State) (hc3 : State.Canon s) :
    Keeps (execBge a b o s) := by
  unfold execBge
  repeat' first
    | with_reducible assumption
    | with_reducible apply keeps_next
    | with_reducible apply keeps_fault
    | with_reducible apply branchIf_canon

theorem execDivn_canon (d : Reg) (a : Reg) (b : Reg) (s : State) (hc3 : State.Canon s) :
    Keeps (execDivn d a b s) := by
  unfold execDivn
  repeat' first
    | with_reducible assumption
    | with_reducible apply keeps_next
    | with_reducible apply keeps_fault
    | with_reducible apply divide_canon

theorem execBmaskWrite_canon (ctx : Fin 16) (b : Fin 4) (bw : Fin 16) (v : Word) (s : State) (hc4 : State.Canon s) :
    Keeps (execBmaskWrite ctx b bw v s) := by
  unfold execBmaskWrite
  repeat' first
    | with_reducible assumption
    | with_reducible apply keeps_next
    | with_reducible apply keeps_fault
    | with_reducible apply State.writeBmask_canon

theorem execNneg_canon (n : NodeFields) (s : State) (hc1 : State.Canon s) :
    Keeps (execNneg n s) := by
  unfold execNneg
  repeat' first
    | with_reducible assumption
    | with_reducible apply keeps_next
    | with_reducible apply keeps_fault
    | with_reducible apply elementwise_canon

theorem execCinv_canon (b : Reg) (o : BitVec 12) (s : State) (hc2 : State.Canon s) :
    Keeps (execCinv b o s) := by
  unfold execCinv
  repeat' first
    | with_reducible assumption
    | with_reducible apply keeps_next
    | with_reducible apply keeps_fault
    | with_reducible apply done_canon
    | with_reducible apply State.flushAll_canon
    | with_reducible apply withLine_canon
    | dsimp only
    | split
    | intro _

theorem execFdiv_canon (t : FType) (d : Reg) (a : Reg) (b : Reg) (r : RmField) (s : State) (hc5 : State.Canon s) :
    Keeps (execFdiv t d a b r s) := by
  unfold execFdiv
  repeat' first
    | with_reducible assumption
    | with_reducible apply keeps_next
    | with_reducible apply keeps_fault
    | with_reducible apply doneFloat_canon

theorem Mem.copyPage_canon (src : Mem) (dst : Mem) (a : ℕ) (b : ℕ) (n : ℕ) (hc0 : Mem.wf (src)) (hc1 : Mem.wf (dst)) :
    Mem.wf (Mem.copyPage src dst a b n) := by
  obtain ⟨a1, a2, a3, a4, a5, a6, a7, a8⟩ := hc0
  obtain ⟨b1, b2, b3, b4, b5, b6, b7, b8⟩ := hc1
  exact ⟨sorted_splice a1 b1 _ _ _, mem_splice (P := fun v => v ≠ 0) a2 b2 _ _ _, sorted_splice a3 b3 _ _ _, mem_splice (P := fun v => v ≠ 0) a4 b4 _ _ _,
    sorted_splice a5 b5 _ _ _, mem_splice (P := fun v => v = true) a6 b6 _ _ _, b7.filter _, fun e he => b8 e (List.mem_filter.1 he).1⟩

theorem execPageFillComplete_canon (k : ℕ) (err : Bool) (s : State) (hc2 : State.Canon s) :
    Keeps (execPageFillComplete k err s) := by
  unfold execPageFillComplete
  repeat' first
    | with_reducible assumption
    | with_reducible apply keeps_next
    | with_reducible apply keeps_fault
    | with_reducible apply optCanon_some
    | with_reducible exact optCanon_none
    | with_reducible apply optCanon_map
    | with_reducible apply Mem.wf_setByte
    | with_reducible apply Mem.wf_setTag
    | with_reducible apply Mem.wf_setFull
    | with_reducible apply Mem.wf_setPoison
    | with_reducible apply Mem.wf_write
    | with_reducible exact canon_mem (by assumption)
    | with_reducible exact canon_peers (by assumption)
    | with_reducible apply foldl_canon
    | with_reducible apply foldl_wf
    | with_reducible apply Mem.copyPage_canon
    | with_reducible apply State.serveWaiters_canon
    | with_reducible apply State.wake_canon
    | with_reducible apply State.mem_canon
    | with_reducible apply State.peers_canon
    | with_reducible apply State.writeHome_canon
    | with_reducible apply State.mapThreads_canon
    | with_reducible apply State.focus_canon
    | with_reducible apply State.updCtx_canon
    | with_reducible apply State.pageFault_canon
    | with_reducible refine canon_of_some (by assumption) ?_
    | dsimp only
    | split
    | intro _
    | dsimp only [State.Canon]
    | with_reducible refine And.intro ?_ ?_

theorem execCrcc_canon (d : Reg) (a : Reg) (b : Reg) (n : BitVec 3) (s : State) (hc4 : State.Canon s) :
    Keeps (execCrcc d a b n s) := by
  unfold execCrcc
  repeat' first
    | with_reducible assumption
    | with_reducible apply keeps_next
    | with_reducible apply keeps_fault
    | with_reducible apply doneG_canon

theorem execFabs_canon (t : FType) (d : Reg) (a : Reg) (s : State) (hc3 : State.Canon s) :
    Keeps (execFabs t d a s) := by
  unfold execFabs
  repeat' first
    | with_reducible assumption
    | with_reducible apply keeps_next
    | with_reducible apply keeps_fault
    | with_reducible apply doneFloat_canon

theorem readTime_canon (s : State) (d : Reg) (hc0 : State.Canon s) :
    Keeps (readTime s d) := by
  unfold readTime
  repeat' first
    | with_reducible assumption
    | with_reducible apply keeps_next
    | with_reducible apply keeps_fault
    | with_reducible apply State.mem_canon
    | with_reducible apply State.peers_canon
    | with_reducible apply doneG_canon

theorem execMfs_canon (d : Reg) (n : BitVec 12) (s : State) (hc2 : State.Canon s) :
    Keeps (execMfs d n s) := by
  unfold execMfs
  repeat' first
    | with_reducible assumption
    | with_reducible apply keeps_next
    | with_reducible apply keeps_fault
    | with_reducible apply doneG_canon
    | with_reducible apply readTime_canon
    | with_reducible apply trapNow_canon
    | dsimp only
    | split

theorem execShdr_canon (_q : CmdQual) (ep : BitVec 8) (slot : BitVec 3) (inst : BitVec 10) (scale : BitVec 8) (tslot : BitVec 2) (en : Bool) (s : State) (hc7 : State.Canon s) :
    Keeps (execShdr _q ep slot inst scale tslot en s) := by
  unfold execShdr
  repeat' first
    | with_reducible assumption
    | with_reducible apply keeps_next
    | with_reducible apply keeps_fault
    | with_reducible apply State.setInst_canon
    | with_reducible apply refused_canon
    | with_reducible apply onInsts_canon
    | dsimp only
    | split
    | intro _

theorem execNcvt_canon (n : NodeFields) (s : State) (hc1 : State.Canon s) :
    Keeps (execNcvt n s) := by
  unfold execNcvt
  repeat' first
    | with_reducible assumption
    | with_reducible apply keeps_next
    | with_reducible apply keeps_fault
    | with_reducible apply repackStep_canon

theorem execLdfW_canon (d : Reg) (b : Reg) (q : LoadQual) (o : BitVec 12) (s : State) (hc4 : State.Canon s) :
    Keeps (execLdfW d b q o s) := by
  unfold execLdfW
  repeat' first
    | with_reducible assumption
    | with_reducible apply keeps_next
    | with_reducible apply keeps_fault
    | with_reducible apply loadTurn_canon

theorem execLlcEvict_canon (line : ℕ) (s : State) (hc1 : State.Canon s) :
    Keeps (execLlcEvict line s) := by
  unfold execLlcEvict
  repeat' first
    | with_reducible assumption
    | with_reducible apply keeps_next
    | with_reducible apply keeps_fault
    | with_reducible apply State.mem_canon
    | with_reducible apply State.peers_canon
    | dsimp only
    | split

theorem State.writeMap_canon (s : State) (x : Inst) (cause : ShutCause) (hc0 : State.Canon s) :
    State.Canon (State.writeMap s x cause) := by
  unfold State.writeMap
  repeat' first
    | with_reducible assumption
    | with_reducible apply foldl_canon
    | with_reducible apply foldl_canon_pair
    | with_reducible apply State.writeWords_canon
    | with_reducible apply State.message_canon
    | with_reducible refine canon_of_pair (by assumption) ?_
    | dsimp only
    | split
    | intro _

theorem State.shutter_canon (s : State) (i : ℕ) (cause : ShutCause) (hc0 : State.Canon s) :
    State.Canon (State.shutter s i cause) := by
  unfold State.shutter
  repeat' first
    | with_reducible assumption
    | with_reducible apply State.writeMap_canon
    | with_reducible apply State.setInst_canon
    | with_reducible apply State.tick_canon
    | with_reducible refine canon_of_pair (by assumption) ?_
    | dsimp only
    | split

theorem execCfgeccError_canon (i : ℕ) (page : ℕ) (s : State) (hc2 : State.Canon s) :
    Keeps (execCfgeccError i page s) := by
  unfold execCfgeccError
  repeat' first
    | with_reducible assumption
    | with_reducible apply keeps_next
    | with_reducible apply keeps_fault
    | with_reducible apply State.countReload_canon
    | with_reducible apply State.shutter_canon
    | with_reducible apply State.discardInst_canon
    | with_reducible apply State.shutReload_canon
    | dsimp only
    | split

theorem execLea_canon (d : Reg) (a : Reg) (b : Reg) (sc : Fin 5) (s : State) (hc4 : State.Canon s) :
    Keeps (execLea d a b sc s) := by
  unfold execLea
  repeat' first
    | with_reducible assumption
    | with_reducible apply keeps_next
    | with_reducible apply keeps_fault
    | with_reducible apply doneG_canon

theorem enqueue_canon (s : State) (tgt : ℕ) (hc0 : State.Canon s) :
    Keeps (enqueue s tgt) := by
  unfold enqueue
  repeat' first
    | with_reducible assumption
    | with_reducible apply keeps_next
    | with_reducible apply keeps_fault
    | with_reducible apply State.setStreamer_canon
    | with_reducible apply refused_canon
    | with_reducible apply holdBack_canon
    | dsimp only
    | split

theorem enqueueData_canon (s : State) (o : DataOps) (unbound : Bool) (hc0 : State.Canon s) :
    Keeps (enqueueData s o unbound) := by
  unfold enqueueData
  repeat' first
    | with_reducible assumption
    | with_reducible apply keeps_next
    | with_reducible apply keeps_fault
    | with_reducible apply enqueue_canon
    | with_reducible apply refused_canon
    | dsimp only
    | split

theorem execSlkp_canon (_q : CmdQual) (o : DataOps) (s : State) (hc2 : State.Canon s) :
    Keeps (execSlkp _q o s) := by
  unfold execSlkp
  repeat' first
    | with_reducible assumption
    | with_reducible apply keeps_next
    | with_reducible apply keeps_fault
    | with_reducible apply enqueueData_canon

theorem State.emitAccess_canon (s : State) (i : ℕ) (page : ℕ) (p : Fin 4) (k : ℕ) (hc0 : State.Canon s) :
    State.Canon (State.emitAccess s i page p k) := by
  unfold State.emitAccess
  repeat' first
    | with_reducible assumption
    | with_reducible apply State.stir_canon
    | dsimp only
    | split

theorem execPortResultReturn_canon (i : ℕ) (page : ℕ) (port : Fin 4) (k : ℕ) (s : State) (hc4 : State.Canon s) :
    Keeps (execPortResultReturn i page port k s) := by
  unfold execPortResultReturn
  repeat' first
    | with_reducible assumption
    | with_reducible apply keeps_next
    | with_reducible apply keeps_fault
    | with_reducible apply State.emitAccess_canon
    | with_reducible apply State.tryAccess_canon
    | dsimp only
    | split

theorem execSagp_canon (_q : CmdQual) (pos : BitVec 7) (prog : BitVec 2) (pgm : BitVec 46) (slot : BitVec 3) (inst : BitVec 10) (s : State) (hc6 : State.Canon s) :
    Keeps (execSagp _q pos prog pgm slot inst s) := by
  unfold execSagp
  repeat' first
    | with_reducible assumption
    | with_reducible apply keeps_next
    | with_reducible apply keeps_fault
    | with_reducible apply State.unloadProg_canon
    | with_reducible apply State.refuse_canon
    | with_reducible apply State.setInst_canon
    | with_reducible apply State.askWords_canon
    | with_reducible apply refused_canon
    | with_reducible apply State.setSlice_canon
    | with_reducible apply holdBack_canon
    | dsimp only
    | split

theorem Routing.done_canon (f : Routing) (hc0 : State.Canon f.s) :
    Keeps (Routing.done f) := by
  unfold Routing.done
  repeat' first
    | with_reducible assumption
    | with_reducible apply keeps_next
    | with_reducible apply keeps_fault
    | with_reducible apply State.stir_canon

theorem Routing.send_canon (f : Routing) (m : BitVec 16) (psn : Bool) (d : Flit) (hc0 : State.Canon f.s) :
    State.Canon (Routing.send f m psn d).s := by
  unfold Routing.send
  repeat' first
    | with_reducible assumption

theorem Routing.upd_canon (f : Routing) (g : RouterState → RouterState) (hc0 : State.Canon f.s) :
    State.Canon (Routing.upd f g).s := by
  unfold Routing.upd
  repeat' first
    | with_reducible assumption

theorem Routing.take_canon (f : Routing) (ch : BitVec 4) (hc0 : State.Canon f.s) :
    State.Canon (Routing.take f ch).s := by
  unfold Routing.take
  repeat' first
    | with_reducible assumption

theorem moveFlit_canon (f : Routing) (ch : BitVec 4) (mask : BitVec 16) (psn : Bool) (g : RouterState → Bool → RouterState) (hc0 : State.Canon f.s) :
    Keeps (moveFlit f ch mask psn g) := by
  unfold moveFlit
  repeat' first
    | with_reducible assumption
    | with_reducible apply keeps_next
    | with_reducible apply keeps_fault
    | with_reducible apply Routing.done_canon
    | with_reducible apply Routing.send_canon
    | with_reducible apply Routing.upd_canon
    | with_reducible apply Routing.take_canon
    | dsimp only
    | split

theorem withRouter_canon (r : RouterFields) (s : State) (k : Routing → Result) (hc1 : State.Canon s) (hc2 : ∀ y0, (State.Canon y0.s) → (Keeps (k y0))) :
    Keeps (withRouter r s k) := by
  unfold withRouter
  repeat' first
    | with_reducible assumption
    | with_reducible apply hc2
    | with_reducible apply keeps_next
    | with_reducible apply keeps_fault
    | dsimp only
    | split

theorem execFork_canon (r : RouterFields) (s : State) (hc1 : State.Canon s) :
    Keeps (execFork r s) := by
  unfold execFork
  repeat' first
    | with_reducible assumption
    | with_reducible apply keeps_next
    | with_reducible apply keeps_fault
    | with_reducible apply moveFlit_canon
    | with_reducible apply withRouter_canon
    | dsimp only
    | split
    | intro _

theorem State.siteTokens_canon (s : State) (c : Fin 16) (tid : BitVec 24) (core : CoreId) (hc0 : State.Canon s) :
    State.Canon (State.siteTokens s c tid core) := by
  unfold State.siteTokens
  repeat' first
    | with_reducible assumption
    | with_reducible apply State.updCtx_canon

theorem State.settleIn_canon (s : State) (t : Thread) (n : Fin 1024) (k : Fin 16) (hc0 : State.Canon s) :
    State.Canon (State.settleIn s t n k) := by
  unfold State.settleIn
  repeat' first
    | with_reducible assumption
    | with_reducible apply State.post_canon
    | with_reducible apply State.addThread_canon
    | with_reducible apply State.dropClean_canon
    | with_reducible apply State.mem_canon
    | with_reducible apply State.peers_canon
    | with_reducible apply State.acquireFor_canon
    | with_reducible apply State.siteTokens_canon
    | with_reducible apply State.tick_canon
    | with_reducible refine canon_of_pair (by assumption) ?_
    | dsimp only
    | split

theorem State.moveTrap_canon (s : State) (t : Thread) (n : Fin 1024) (k : Fin 16) (hc0 : State.Canon s) :
    State.Canon (State.moveTrap s t n k) := by
  unfold State.moveTrap
  repeat' first
    | with_reducible assumption
    | with_reducible apply State.writeWords_canon

theorem State.resume_canon (s : State) (t : Thread) (n : Fin 1024) (k : Fin 16) (hc0 : State.Canon s) :
    State.Canon (State.resume s t n k) := by
  have h1 := State.dropThread_canon s t.place hc0
  rw [State.resume]
  generalize s.dropThread t.place = u at h1 ⊢
  split
  · exact State.settleIn_canon _ _ _ _ (State.moveTrap_canon _ _ _ _ h1)
  · exact State.settleIn_canon _ _ _ _ h1

theorem State.landSaved_canon (s : State) (c : Fin 16) (t : Thread) (n : Fin 1024) (k : Fin 16) (hc0 : State.Canon s) :
    State.Canon (State.landSaved s c t n k) := by
  unfold State.landSaved
  repeat' first
    | with_reducible assumption
    | with_reducible apply State.resume_canon
    | with_reducible apply State.message_canon
    | with_reducible apply State.updThread_canon

theorem State.landLaunch_canon (s : State) (c : Fin 16) (l : Launch) (n : Fin 1024) (k : Fin 16) (hc0 : State.Canon s) :
    State.Canon (State.landLaunch s c l n k) := by
  unfold State.landLaunch
  repeat' first
    | with_reducible assumption
    | with_reducible apply State.message_canon
    | with_reducible apply State.updLaunch_canon
    | with_reducible apply State.settleIn_canon
    | with_reducible apply State.updCtx_canon
    | with_reducible refine canon_of_pair (by assumption) ?_
    | dsimp only
    | split

theorem State.landHead_canon (s : State) (c : Fin 16) (q : Fin 64) (n : Fin 1024) (k : Fin 16) (hc0 : State.Canon s) :
    State.Canon (State.landHead s c q n k) := by
  unfold State.landHead
  repeat' first
    | with_reducible assumption
    | with_reducible apply State.landSaved_canon
    | with_reducible apply State.landLaunch_canon
    | with_reducible apply State.updCtx_canon
    | dsimp only
    | split

theorem State.startGraph_canon (s : State) (c : Fin 16) (g : Fin 4) (l : Launch) (hc0 : State.Canon s) :
    State.Canon (State.startGraph s c g l) := by
  unfold State.startGraph
  repeat' first
    | with_reducible assumption
    | with_reducible apply State.tick_canon
    | with_reducible apply State.updCtx_canon

theorem State.startHead_canon (s : State) (c : Fin 16) (q : Fin 64) (l : Launch) (hc0 : State.Canon s) :
    OptCanon (State.startHead s c q l) := by
  unfold State.startHead
  repeat' first
    | with_reducible assumption
    | with_reducible apply optCanon_some
    | with_reducible exact optCanon_none
    | with_reducible apply optCanon_map
    | with_reducible apply State.startGraph_canon
    | with_reducible apply State.seqRecord_canon
    | with_reducible apply State.askWords_canon
    | with_reducible apply State.updLaunch_canon
    | with_reducible apply State.updCtx_canon
    | with_reducible refine canon_of_some (by assumption) ?_
    | dsimp only
    | split
    | intro _

theorem State.beginHead_canon (s : State) (c : Fin 16) (q : Fin 64) (hc0 : State.Canon s) :
    State.Canon (State.beginHead s c q) := by
  unfold State.beginHead
  repeat' first
    | with_reducible assumption
    | with_reducible apply optCanon_some
    | with_reducible exact optCanon_none
    | with_reducible apply optCanon_map
    | with_reducible apply optCanon_getD
    | with_reducible apply State.startHead_canon
    | with_reducible refine canon_of_some (by assumption) ?_
    | dsimp only
    | split

theorem execYield_canon (s : State) (hc0 : State.Canon s) :
    Keeps (execYield s) := by
  have h1 : s.advance.saveTh.Canon := State.saveTh_canon _ (State.advance_canon _ hc0)
  have hd := done_canon s hc0
  rw [execYield]
  split
  · dsimp only
    split
    · exact hd
    · split
      · exact keeps_ite (keeps_next (State.makeReady_canon _ _ _ (State.landHead_canon _ _ _ _ _ (State.beginHead_canon _ _ _ h1)))) hd
      · split
        · exact keeps_next (State.makeReady_canon _ _ _ (State.landSaved_canon _ _ _ _ _ h1))
        · exact hd
  · exact hd

theorem execPref_canon (h : PrefHint) (b : Reg) (o : BitVec 12) (s : State) (hc3 : State.Canon s) :
    Keeps (execPref h b o s) := by
  unfold execPref
  repeat' first
    | with_reducible assumption
    | with_reducible apply keeps_next
    | with_reducible apply keeps_fault
    | with_reducible apply done_canon
    | with_reducible apply State.fill_canon
    | with_reducible apply State.block_canon
    | dsimp only
    | split

theorem execBarrierRelease_canon (c : Fin 16) (b : Fin 4) (s : State) (hc2 : State.Canon s) :
    Keeps (execBarrierRelease c b s) := by
  unfold execBarrierRelease
  repeat' first
    | with_reducible assumption
    | with_reducible apply keeps_next
    | with_reducible apply keeps_fault
    | with_reducible apply foldl_canon
    | with_reducible apply State.setBar_canon
    | with_reducible apply State.reach_canon
    | dsimp only
    | split
    | intro _

theorem execAswpR_canon (d : Reg) (a : Reg) (b : Reg) (z : AtomSize) (s : State) (hc4 : State.Canon s) :
    Keeps (execAswpR d a b z s) := by
  unfold execAswpR
  repeat' first
    | with_reducible assumption
    | with_reducible apply keeps_next
    | with_reducible apply keeps_fault
    | with_reducible apply returnAtom_canon

theorem State.notice_canon (s : State) (c : Fin 16) (a : Word) (v : ℕ) (hc0 : State.Canon s) :
    State.Canon (State.notice s c a v) := by
  unfold State.notice
  repeat' first
    | with_reducible assumption
    | with_reducible apply State.seqRecord_canon
    | with_reducible apply State.engineWrite_canon
    | dsimp only
    | split

theorem execStbl_canon (_q : CmdQual) (tbl : BitVec 4) (desc : BitVec 46) (free : BitVec 49) (s : State) (hc4 : State.Canon s) :
    Keeps (execStbl _q tbl desc free s) := by
  unfold execStbl
  repeat' first
    | with_reducible assumption
    | with_reducible apply keeps_next
    | with_reducible apply keeps_fault
    | with_reducible apply State.refuse_canon
    | with_reducible apply State.askWords_canon
    | with_reducible apply refused_canon
    | with_reducible apply State.updCtx_canon
    | with_reducible apply State.notice_canon
    | dsimp only
    | split

theorem execShli_canon (d : Reg) (a : Reg) (n : BitVec 6) (s : State) (hc3 : State.Canon s) :
    Keeps (execShli d a n s) := by
  unfold execShli
  repeat' first
    | with_reducible assumption
    | with_reducible apply keeps_next
    | with_reducible apply keeps_fault
    | with_reducible apply doneG_canon

theorem execFadd_canon (t : FType) (d : Reg) (a : Reg) (b : Reg) (r : RmField) (s : State) (hc5 : State.Canon s) :
    Keeps (execFadd t d a b r s) := by
  unfold execFadd
  repeat' first
    | with_reducible assumption
    | with_reducible apply keeps_next
    | with_reducible apply keeps_fault
    | with_reducible apply doneFloat_canon

theorem execFlt_canon (t : FType) (d : Reg) (a : Reg) (b : Reg) (s : State) (hc4 : State.Canon s) :
    Keeps (execFlt t d a b s) := by
  unfold execFlt
  repeat' first
    | with_reducible assumption
    | with_reducible apply keeps_next
    | with_reducible apply keeps_fault
    | with_reducible apply doneInt_canon

theorem execNor_canon (n : NodeFields) (s : State) (hc1 : State.Canon s) :
    Keeps (execNor n s) := by
  unfold execNor
  repeat' first
    | with_reducible assumption
    | with_reducible apply keeps_next
    | with_reducible apply keeps_fault
    | with_reducible apply elementwise_canon

theorem execTwait_canon (d : Reg) (a : Reg) (s : State) (hc2 : State.Canon s) :
    Keeps (execTwait d a s) := by
  unfold execTwait
  repeat' first
    | with_reducible assumption
    | with_reducible apply keeps_next
    | with_reducible apply keeps_fault
    | with_reducible apply twaitTurn_canon

theorem execBarw_canon (d : Reg) (a : Reg) (b : Reg) (s : State) (hc3 : State.Canon s) :
    Keeps (execBarw d a b s) := by
  unfold execBarw
  repeat' first
    | with_reducible assumption
    | with_reducible apply keeps_next
    | with_reducible apply keeps_fault
    | with_reducible apply barwTurn_canon

theorem execCxrstGo_canon (ctx : Fin 16) (s : State) (hc1 : State.Canon s) :
    Keeps (execCxrstGo ctx s) := by
  unfold execCxrstGo
  repeat' first
    | with_reducible assumption
    | with_reducible apply keeps_next
    | with_reducible apply keeps_fault
    | with_reducible apply State.resetContext_canon

theorem withDecision_canon (f : Routing) (k : Routing → Bool → Bool → Result) (hc0 : State.Canon f.s) (hc1 : ∀ y0, (State.Canon y0.s) → ∀ y1, ∀ y2, (Keeps (k y0 y1 y2))) :
    Keeps (withDecision f k) := by
  unfold withDecision
  repeat' first
    | with_reducible assumption
    | with_reducible apply hc1
    | with_reducible apply keeps_next
    | with_reducible apply keeps_fault
    | with_reducible apply Routing.done_canon
    | with_reducible apply Routing.take_canon
    | dsimp only
    | split

theorem decided_canon (r : RouterFields) (input : Bool → BitVec 4) (mask : Bool → BitVec 16) (s : State) (hc3 : State.Canon s) :
    Keeps (decided r input mask s) := by
  unfold decided
  repeat' first
    | with_reducible assumption
    | with_reducible apply keeps_next
    | with_reducible apply keeps_fault
    | with_reducible apply moveFlit_canon
    | with_reducible apply withRouter_canon
    | with_reducible apply withDecision_canon
    | with_reducible apply Routing.upd_canon
    | with_reducible apply Routing.take_canon
    | dsimp only
    | split
    | intro _

theorem execMerge_canon (r : RouterFields) (s : State) (hc1 : State.Canon s) :
    Keeps (execMerge r s) := by
  unfold execMerge
  repeat' first
    | with_reducible assumption
    | with_reducible apply keeps_next
    | with_reducible apply keeps_fault
    | with_reducible apply decided_canon

theorem execGraphEnd_canon (c : Fin 16) (g : Fin 4) (s : State) (hc2 : State.Canon s) :
    Keeps (execGraphEnd c g s) := by
  have h1 := State.noteDrain_canon s c hc2
  rw [execGraphEnd]
  generalize s.noteDrain c = u at h1 ⊢
  split
  · split
    · exact keeps_next (State.finishGraph_canon _ _ _ _ h1)
    · exact keeps_next h1
  · exact keeps_next h1

theorem execWtfe_canon (d : Reg) (a : Reg) (b : Reg) (s : State) (hc3 : State.Canon s) :
    Keeps (execWtfe d a b s) := by
  unfold execWtfe
  repeat' first
    | with_reducible assumption
    | with_reducible apply keeps_next
    | with_reducible apply keeps_fault
    | with_reducible apply exCanon_ok
    | with_reducible exact exCanon_error
    | with_reducible apply State.acquire_canon
    | with_reducible apply endWait_canon
    | with_reducible apply acquiring_canon
    | with_reducible apply State.mem_canon
    | with_reducible apply State.fullLoad_canon
    | with_reducible apply State.peers_canon
    | with_reducible apply inTrouble_canon
    | with_reducible refine canon_of_ok (by assumption) ?_
    | dsimp only
    | split
    | intro _
    | dsimp only [State.Canon]

theorem execMvfg_canon (t : FType) (d : Reg) (a : Reg) (s : State) (hc3 : State.Canon s) :
    Keeps (execMvfg t d a s) := by
  unfold execMvfg
  repeat' first
    | with_reducible assumption
    | with_reducible apply keeps_next
    | with_reducible apply keeps_fault
    | with_reducible apply doneInt_canon

theorem State.noteLeave_canon (s : State) (x : Inst) (door : ℕ) (p : Ticket) (hc0 : State.Canon s) :
    State.Canon (State.noteLeave s x door p) := by
  unfold State.noteLeave
  repeat' first
    | with_reducible assumption
    | with_reducible apply State.logTake_canon
    | with_reducible apply State.logAppend_canon
    | dsimp only
    | split

theorem execDoorResultRelease_canon (i : ℕ) (door : ℕ) (s : State) (hc2 : State.Canon s) :
    Keeps (execDoorResultRelease i door s) := by
  unfold execDoorResultRelease
  repeat' first
    | with_reducible assumption
    | with_reducible apply keeps_next
    | with_reducible apply keeps_fault
    | with_reducible apply State.noteLeave_canon
    | with_reducible apply State.stir_canon
    | dsimp only
    | split

theorem execQgrd_canon (d : Reg) (s : State) (hc1 : State.Canon s) :
    Keeps (execQgrd d s) := by
  unfold execQgrd
  repeat' first
    | with_reducible assumption
    | with_reducible apply keeps_next
    | with_reducible apply keeps_fault
    | with_reducible apply doneG_canon

theorem execHalt_canon (s : State) (hc0 : State.Canon s) :
    Keeps (execHalt s) := by
  unfold execHalt
  repeat' first
    | with_reducible assumption
    | with_reducible apply keeps_next

theorem withAtom_canon (s : State) (p : Word) (z : AtomSize) (k : State → ℕ → ℕ → Result) (hc0 : State.Canon s) (hc3 : ∀ y0, State.Canon y0 → ∀ y1, ∀ y2, (Keeps (k y0 y1 y2))) :
    Keeps (withAtom s p z k) := by
  unfold withAtom
  repeat' first
    | with_reducible assumption
    | with_reducible apply hc3
    | with_reducible apply keeps_next
    | with_reducible apply keeps_fault
    | with_reducible apply optCanon_some
    | with_reducible exact optCanon_none
    | with_reducible apply optCanon_map
    | with_reducible apply inTrouble_canon
    | with_reducible apply State.storeWait_canon
    | with_reducible refine canon_of_some (by assumption) ?_
    | dsimp only
    | split

theorem postAtom_canon (op : AtomOp) (z : AtomSize) (p : Word) (b : Word) (expect : Word) (s : State) (hc5 : State.Canon s) :
    Keeps (postAtom op z p b expect s) := by
  unfold postAtom
  repeat' first
    | with_reducible assumption
    | with_reducible apply keeps_next
    | with_reducible apply keeps_fault
    | with_reducible apply State.evictFor_canon
    | with_reducible apply done_canon
    | with_reducible apply withAtom_canon
    | with_reducible apply State.enter_canon
    | dsimp only
    | split
    | intro _

theorem execAcas_canon (a : Reg) (b : Reg) (z : AtomSize) (c : Reg) (s : State) (hc4 : State.Canon s) :
    Keeps (execAcas a b z c s) := by
  unfold execAcas
  repeat' first
    | with_reducible assumption
    | with_reducible apply keeps_next
    | with_reducible apply keeps_fault
    | with_reducible apply postAtom_canon

theorem execAadd_canon (a : Reg) (b : Reg) (z : AtomSize) (s : State) (hc3 : State.Canon s) :
    Keeps (execAadd a b z s) := by
  unfold execAadd
  repeat' first
    | with_reducible assumption
    | with_reducible apply keeps_next
    | with_reducible apply keeps_fault
    | with_reducible apply postAtom_canon

theorem execSink_canon (r : RouterFields) (s : State) (hc1 : State.Canon s) :
    Keeps (execSink r s) := by
  unfold execSink
  repeat' first
    | with_reducible assumption
    | with_reducible apply keeps_next
    | with_reducible apply keeps_fault
    | with_reducible apply Routing.done_canon
    | with_reducible apply withRouter_canon
    | with_reducible apply Routing.take_canon
    | dsimp only
    | split
    | intro _

theorem fence_canon (rel : Bool) (acq : Bool) (sc : Scope) (s : State) (hc3 : State.Canon s) :
    Keeps (fence rel acq sc s) := by
  unfold fence
  repeat' first
    | with_reducible assumption
    | with_reducible apply keeps_next
    | with_reducible apply keeps_fault
    | with_reducible apply State.acquire_canon
    | with_reducible apply done_canon
    | with_reducible apply acquiring_canon
    | with_reducible apply forfeit_canon
    | with_reducible apply State.haltContext_canon
    | with_reducible apply atFence_canon
    | with_reducible apply State.advance_canon
    | dsimp only
    | split
    | intro _

theorem execFenceAcq_canon (sc : Scope) (s : State) (hc1 : State.Canon s) :
    Keeps (execFenceAcq sc s) := by
  unfold execFenceAcq
  repeat' first
    | with_reducible assumption
    | with_reducible apply keeps_next
    | with_reducible apply keeps_fault
    | with_reducible apply fence_canon

theorem execQblt_canon (d : Reg) (a : Reg) (b : Reg) (s : State) (hc3 : State.Canon s) :
    Keeps (execQblt d a b s) := by
  unfold execQblt
  repeat' first
    | with_reducible assumption
    | with_reducible apply keeps_next
    | with_reducible apply keeps_fault
    | with_reducible apply doneG_canon

theorem execPadr_canon (d : Reg) (a : Reg) (b : Reg) (s : State) (hc3 : State.Canon s) :
    Keeps (execPadr d a b s) := by
  unfold execPadr
  repeat' first
    | with_reducible assumption
    | with_reducible apply keeps_next
    | with_reducible apply keeps_fault
    | with_reducible apply doneG_canon

theorem execXori_canon (d : Reg) (a : Reg) (i : BitVec 15) (s : State) (hc3 : State.Canon s) :
    Keeps (execXori d a i s) := by
  unfold execXori
  repeat' first
    | with_reducible assumption
    | with_reducible apply keeps_next
    | with_reducible apply keeps_fault
    | with_reducible apply doneG_canon

theorem execAfaddF32_canon (a : Reg) (b : Reg) (s : State) (hc2 : State.Canon s) :
    Keeps (execAfaddF32 a b s) := by
  unfold execAfaddF32
  repeat' first
    | with_reducible assumption
    | with_reducible apply keeps_next
    | with_reducible apply keeps_fault
    | with_reducible apply postAtom_canon

theorem withRegion_canon (s : State) (p : Word) (k : ℕ → Result) (hc0 : State.Canon s) (hc2 : ∀ y0, (Keeps (k y0))) :
    Keeps (withRegion s p k) := by
  unfold withRegion
  repeat' first
    | with_reducible assumption
    | with_reducible apply hc2
    | with_reducible apply keeps_next
    | with_reducible apply keeps_fault
    | with_reducible apply inTrouble_canon
    | with_reducible apply trapWith_canon
    | dsimp only
    | split

theorem execTkaq_canon (a : Reg) (s : State) (hc1 : State.Canon s) :
    Keeps (execTkaq a s) := by
  unfold execTkaq
  repeat' first
    | with_reducible assumption
    | with_reducible apply keeps_next
    | with_reducible apply keeps_fault
    | with_reducible apply done_canon
    | with_reducible apply acquiring_canon
    | with_reducible apply State.tokenAcquired_canon
    | with_reducible apply withRegion_canon
    | with_reducible apply State.askToken_canon
    | dsimp only
    | split
    | intro _

theorem execHconfMerge_canon (c : Fin 16) (s : State) (hc1 : State.Canon s) :
    Keeps (execHconfMerge c s) := by
  unfold execHconfMerge
  repeat' first
    | with_reducible assumption
    | with_reducible apply keeps_next
    | with_reducible apply keeps_fault
    | with_reducible apply State.hypServe_canon
    | dsimp only
    | split

theorem State.interrupt_canon (s : State) (b : ℕ) (hc0 : State.Canon s) :
    State.Canon (State.interrupt s b) := by
  unfold State.interrupt
  repeat' first
    | with_reducible assumption

theorem State.takeInterrupt_canon (s : State) (b : ℕ) (hc0 : State.Canon s) :
    State.Canon (State.takeInterrupt s b) := by
  unfold State.takeInterrupt
  repeat' first
    | with_reducible assumption
    | with_reducible apply State.withdraw_canon
    | with_reducible apply State.interrupt_canon

theorem execInterruptEntry_canon (core : Fin 16) (s : State) (hc1 : State.Canon s) :
    Keeps (execInterruptEntry core s) := by
  unfold execInterruptEntry
  repeat' first
    | with_reducible assumption
    | with_reducible apply keeps_next
    | with_reducible apply keeps_fault
    | with_reducible apply State.takeInterrupt_canon
    | with_reducible apply onThread_canon
    | dsimp only
    | split
    | intro _

theorem execSltn_canon (d : Reg) (a : Reg) (b : Reg) (s : State) (hc3 : State.Canon s) :
    Keeps (execSltn d a b s) := by
  unfold execSltn
  repeat' first
    | with_reducible assumption
    | with_reducible apply keeps_next
    | with_reducible apply keeps_fault
    | with_reducible apply doneG_canon

theorem passing_canon (n : NodeFields) (g : NodeState → Flit → NodeState × Flit) (s : State) (hc2 : State.Canon s) :
    Keeps (passing n g s) := by
  unfold passing
  repeat' first
    | with_reducible assumption
    | with_reducible apply keeps_next
    | with_reducible apply keeps_fault
    | with_reducible apply Firing.send_canon
    | with_reducible apply Firing.done_canon
    | with_reducible apply Firing.updNode_canon
    | with_reducible apply Firing.takeAll_canon
    | with_reducible apply withFiring_canon
    | dsimp only
    | split
    | intro _

theorem execNrly_canon (n : NodeFields) (s : State) (hc1 : State.Canon s) :
    Keeps (execNrly n s) := by
  unfold execNrly
  repeat' first
    | with_reducible assumption
    | with_reducible apply keeps_next
    | with_reducible apply keeps_fault
    | with_reducible apply passing_canon

theorem execSarm_canon (_q : CmdQual) (abs : Bool) (ep : BitVec 8) (slot : BitVec 3) (inst : BitVec 10) (count : BitVec 32) (s : State) (hc6 : State.Canon s) :
    Keeps (execSarm _q abs ep slot inst count s) := by
  unfold execSarm
  repeat' first
    | with_reducible assumption
    | with_reducible apply keeps_next
    | with_reducible apply keeps_fault
    | with_reducible apply State.setInst_canon
    | with_reducible apply onInsts_canon
    | dsimp only
    | split
    | intro _

theorem execNmax_canon (n : NodeFields) (s : State) (hc1 : State.Canon s) :
    Keeps (execNmax n s) := by
  unfold execNmax
  repeat' first
    | with_reducible assumption
    | with_reducible apply keeps_next
    | with_reducible apply keeps_fault
    | with_reducible apply elementwise_canon

theorem execAdd_canon (d : Reg) (a : Reg) (b : Reg) (s : State) (hc3 : State.Canon s) :
    Keeps (execAdd d a b s) := by
  unfold execAdd
  repeat' first
    | with_reducible assumption
    | with_reducible apply keeps_next
    | with_reducible apply keeps_fault
    | with_reducible apply doneG_canon

theorem trapCode_canon (code : ℕ) (s : State) (hc1 : State.Canon s) :
    Keeps (trapCode code s) := by
  unfold trapCode
  repeat' first
    | with_reducible assumption
    | with_reducible apply keeps_next
    | with_reducible apply keeps_fault
    | with_reducible apply State.deliver_canon
    | with_reducible apply State.advance_canon

theorem execTrapService_canon (c : BitVec 11) (s : State) (hc1 : State.Canon s) :
    Keeps (execTrapService c s) := by
  unfold execTrapService
  repeat' first
    | with_reducible assumption
    | with_reducible apply keeps_next
    | with_reducible apply keeps_fault
    | with_reducible apply State.saveWith_canon
    | with_reducible apply trapCode_canon
    | with_reducible apply State.advance_canon
    | dsimp only
    | split

theorem execAswp_canon (a : Reg) (b : Reg) (z : AtomSize) (s : State) (hc3 : State.Canon s) :
    Keeps (execAswp a b z s) := by
  unfold execAswp
  repeat' first
    | with_reducible assumption
    | with_reducible apply keeps_next
    | with_reducible apply keeps_fault
    | with_reducible apply postAtom_canon

theorem execAandR_canon (d : Reg) (a : Reg) (b : Reg) (z : AtomSize) (s : State) (hc4 : State.Canon s) :
    Keeps (execAandR d a b z s) := by
  unfold execAandR
  repeat' first
    | with_reducible assumption
    | with_reducible apply keeps_next
    | with_reducible apply keeps_fault
    | with_reducible apply returnAtom_canon

theorem execStH_canon (d : Reg) (b : Reg) (q : StoreQual) (o : BitVec 12) (s : State) (hc4 : State.Canon s) :
    Keeps (execStH d b q o s) := by
  unfold execStH
  repeat' first
    | with_reducible assumption
    | with_reducible apply keeps_next
    | with_reducible apply keeps_fault
    | with_reducible apply storeTurn_canon

theorem execCacheEvict_canon (k : ℕ) (s : State) (hc1 : State.Canon s) :
    Keeps (execCacheEvict k s) := by
  unfold execCacheEvict
  repeat' first
    | with_reducible assumption
    | with_reducible apply keeps_next
    | with_reducible apply keeps_fault
    | with_reducible apply State.mem_canon
    | with_reducible apply State.peers_canon
    | with_reducible apply State.writeBack_canon
    | dsimp only
    | split

theorem execStp_canon (d : Reg) (b : Reg) (q : StoreQual) (o : BitVec 12) (s : State) (hc4 : State.Canon s) :
    Keeps (execStp d b q o s) := by
  unfold execStp
  repeat' first
    | with_reducible assumption
    | with_reducible apply keeps_next
    | with_reducible apply keeps_fault
    | with_reducible apply storeTurn_canon

theorem execGctlCommit_canon (v : Word) (s : State) (hc1 : State.Canon s) :
    Keeps (execGctlCommit v s) := by
  unfold execGctlCommit
  repeat' first
    | with_reducible assumption
    | with_reducible apply keeps_next
    | with_reducible apply keeps_fault
    | with_reducible apply State.commitGroups_canon

theorem execOr_canon (d : Reg) (a : Reg) (b : Reg) (s : State) (hc3 : State.Canon s) :
    Keeps (execOr d a b s) := by
  unfold execOr
  repeat' first
    | with_reducible assumption
    | with_reducible apply keeps_next
    | with_reducible apply keeps_fault
    | with_reducible apply doneG_canon

theorem withPort_canon (s : State) (k : Fin 4 → Result) (hc0 : State.Canon s) (hc1 : ∀ y0, (Keeps (k y0))) :
    Keeps (withPort s k) := by
  unfold withPort
  repeat' first
    | with_reducible assumption
    | with_reducible apply hc1
    | with_reducible apply keeps_next
    | with_reducible apply keeps_fault
    | dsimp only
    | split

theorem Firing.pushAccess_canon (f : Firing) (p : Fin 4) (a : PortAccess) (hc0 : State.Canon f.s) :
    State.Canon (Firing.pushAccess f p a).s := by
  unfold Firing.pushAccess
  repeat' first
    | with_reducible assumption

theorem Firing.pushResult_canon (f : Firing) (p : Fin 4) (n : NodeFields) (d : Flit) (hc0 : State.Canon f.s) :
    State.Canon (Firing.pushResult f p n d).s := by
  unfold Firing.pushResult
  repeat' first
    | with_reducible assumption
    | with_reducible apply Firing.updNode_canon
    | with_reducible apply Firing.pushAccess_canon
    | dsimp only
    | split

theorem fireQueued_canon (p : Fin 4) (n : NodeFields) (ins : List (BitVec 4)) (bad : List Flit → ℕ → Flit → Bool) (onHeader : Firing → Bool → Result) (onData : Firing → List Flit → Result) (s : State) (hc4 : ∀ y0, (State.Canon y0.s) → ∀ y1, (Keeps (onHeader y0 y1))) (hc5 : ∀ y0, (State.Canon y0.s) → ∀ y1, (Keeps (onData y0 y1))) (hc6 : State.Canon s) :
    Keeps (fireQueued p n ins bad onHeader onData s) := by
  unfold fireQueued
  repeat' first
    | with_reducible assumption
    | with_reducible apply hc4
    | with_reducible apply hc5
    | with_reducible apply keeps_next
    | with_reducible apply keeps_fault
    | with_reducible apply fireInto_canon
    | with_reducible apply Firing.pushResult_canon
    | dsimp only
    | split
    | intro _

theorem Firing.pushHeader_canon (f : Firing) (p : Fin 4) (w : Word) (psn : Bool) (hc0 : State.Canon f.s) :
    State.Canon (Firing.pushHeader f p w psn).s := by
  unfold Firing.pushHeader
  repeat' first
    | with_reducible assumption
    | with_reducible apply Firing.pushAccess_canon
    | dsimp only
    | split

theorem execNst_canon (n : NodeFields) (s : State) (hc1 : State.Canon s) :
    Keeps (execNst n s) := by
  unfold execNst
  repeat' first
    | with_reducible assumption
    | with_reducible apply keeps_next
    | with_reducible apply keeps_fault
    | with_reducible apply withPort_canon
    | with_reducible apply Firing.done_canon
    | with_reducible apply Firing.updNode_canon
    | with_reducible apply fireQueued_canon
    | with_reducible apply Firing.pushHeader_canon
    | with_reducible apply Firing.pushAccess_canon
    | with_reducible apply Firing.takeAll_canon
    | dsimp only
    | split
    | intro _

theorem execSel_canon (d : Reg) (a : Reg) (b : Reg) (c : Reg) (s : State) (hc4 : State.Canon s) :
    Keeps (execSel d a b c s) := by
  unfold execSel
  repeat' first
    | with_reducible assumption
    | with_reducible apply keeps_next
    | with_reducible apply keeps_fault
    | with_reducible apply doneG_canon

theorem execTgld_canon (d : Reg) (b : Reg) (o : BitVec 12) (s : State) (hc3 : State.Canon s) :
    Keeps (execTgld d b o s) := by
  unfold execTgld
  repeat' first
    | with_reducible assumption
    | with_reducible apply keeps_next
    | with_reducible apply keeps_fault
    | with_reducible apply inTrouble_canon
    | with_reducible apply doneG_canon
    | dsimp only
    | split

theorem execHangDetect_canon (i : ℕ) (s : State) (hc1 : State.Canon s) :
    Keeps (execHangDetect i s) := by
  unfold execHangDetect
  repeat' first
    | with_reducible assumption
    | with_reducible apply keeps_next
    | with_reducible apply keeps_fault
    | with_reducible apply State.shutDiscard_canon
    | with_reducible apply State.shutter_canon
    | dsimp only
    | split

theorem execNmul_canon (n : NodeFields) (s : State) (hc1 : State.Canon s) :
    Keeps (execNmul n s) := by
  unfold execNmul
  repeat' first
    | with_reducible assumption
    | with_reducible apply keeps_next
    | with_reducible apply keeps_fault
    | with_reducible apply elementwise_canon

theorem execNmin_canon (n : NodeFields) (s : State) (hc1 : State.Canon s) :
    Keeps (execNmin n s) := by
  unfold execNmin
  repeat' first
    | with_reducible assumption
    | with_reducible apply keeps_next
    | with_reducible apply keeps_fault
    | with_reducible apply elementwise_canon

theorem execSlt_canon (d : Reg) (a : Reg) (b : Reg) (s : State) (hc3 : State.Canon s) :
    Keeps (execSlt d a b s) := by
  unfold execSlt
  repeat' first
    | with_reducible assumption
    | with_reducible apply keeps_next
    | with_reducible apply keeps_fault
    | with_reducible apply doneG_canon

theorem execRels_canon (a : Reg) (b : Reg) (s : State) (hc2 : State.Canon s) :
    Keeps (execRels a b s) := by
  unfold execRels
  repeat' first
    | with_reducible assumption
    | with_reducible apply keeps_next
    | with_reducible apply keeps_fault
    | with_reducible apply done_canon
    | with_reducible apply ringStep_canon
    | with_reducible apply atFence_canon
    | dsimp only
    | split
    | intro _

theorem execTbldComplete_canon (p : Place) (s : State) (hc1 : State.Canon s) :
    Keeps (execTbldComplete p s) := by
  unfold execTbldComplete
  repeat' first
    | with_reducible assumption
    | with_reducible apply keeps_next
    | with_reducible apply keeps_fault
    | with_reducible apply State.settleTable_canon

theorem execAminn_canon (a : Reg) (b : Reg) (z : AtomSize) (s : State) (hc3 : State.Canon s) :
    Keeps (execAminn a b z s) := by
  unfold execAminn
  repeat' first
    | with_reducible assumption
    | with_reducible apply keeps_next
    | with_reducible apply keeps_fault
    | with_reducible apply postAtom_canon

theorem execFrnd_canon (t : FType) (d : Reg) (a : Reg) (r : RmField) (s : State) (hc4 : State.Canon s) :
    Keeps (execFrnd t d a r s) := by
  unfold execFrnd
  repeat' first
    | with_reducible assumption
    | with_reducible apply keeps_next
    | with_reducible apply keeps_fault
    | with_reducible apply doneFloat_canon

theorem execAdpc_canon (d : Reg) (i : BitVec 20) (s : State) (hc2 : State.Canon s) :
    Keeps (execAdpc d i s) := by
  unfold execAdpc
  repeat' first
    | with_reducible assumption
    | with_reducible apply keeps_next
    | with_reducible apply keeps_fault
    | with_reducible apply doneG_canon

theorem execLdnW_canon (d : Reg) (b : Reg) (q : LoadQual) (o : BitVec 12) (s : State) (hc4 : State.Canon s) :
    Keeps (execLdnW d b q o s) := by
  unfold execLdnW
  repeat' first
    | with_reducible assumption
    | with_reducible apply keeps_next
    | with_reducible apply keeps_fault
    | with_reducible apply loadTurn_canon

theorem execRol_canon (d : Reg) (a : Reg) (b : Reg) (s : State) (hc3 : State.Canon s) :
    Keeps (execRol d a b s) := by
  unfold execRol
  repeat' first
    | with_reducible assumption
    | with_reducible apply keeps_next
    | with_reducible apply keeps_fault
    | with_reducible apply doneG_canon

theorem State.setReserve_canon (s : State) (n : Fin 1024) (k : Fin 16) (b : Bool) (hc0 : State.Canon s) :
    State.Canon (State.setReserve s n k b) := by
  unfold State.setReserve
  repeat' first
    | with_reducible assumption
    | with_reducible apply State.setSite_canon

theorem execCaravanLand_canon (k : ℕ) (s : State) (hc1 : State.Canon s) :
    Keeps (execCaravanLand k s) := by
  unfold execCaravanLand
  repeat' first
    | with_reducible assumption
    | with_reducible apply keeps_next
    | with_reducible apply keeps_fault
    | with_reducible apply optCanon_some
    | with_reducible exact optCanon_none
    | with_reducible apply optCanon_map
    | with_reducible apply optCanon_getD
    | with_reducible apply State.dropThread_canon
    | with_reducible apply State.saveTh_canon
    | with_reducible apply State.addThread_canon
    | with_reducible apply State.message_canon
    | with_reducible apply State.makeReady_canon
    | with_reducible apply State.mem_canon
    | with_reducible apply State.peers_canon
    | with_reducible apply State.resetOver_canon
    | with_reducible apply State.endThread_canon
    | with_reducible apply State.focus_canon
    | with_reducible apply State.settleIn_canon
    | with_reducible apply State.setReserve_canon
    | with_reducible refine canon_of_pair (by assumption) ?_
    | with_reducible refine canon_of_some (by assumption) ?_
    | dsimp only
    | split

theorem execStresRetry_canon (pos : Fin 128) (ctx : Fin 16) (s : State) (hc2 : State.Canon s) :
    Keeps (execStresRetry pos ctx s) := by
  unfold execStresRetry
  repeat' first
    | with_reducible assumption
    | with_reducible apply keeps_next
    | with_reducible apply keeps_fault
    | with_reducible apply State.streamRetry_canon

theorem execBfx_canon (d : Reg) (a : Reg) (w : BitVec 6) (p : BitVec 6) (s : State) (hc4 : State.Canon s) :
    Keeps (execBfx d a w p s) := by
  unfold execBfx
  repeat' first
    | with_reducible assumption
    | with_reducible apply keeps_next
    | with_reducible apply keeps_fault
    | with_reducible apply doneG_canon

theorem execNenc_canon (n : NodeFields) (s : State) (hc1 : State.Canon s) :
    Keeps (execNenc n s) := by
  unfold execNenc
  repeat' first
    | with_reducible assumption
    | with_reducible apply keeps_next
    | with_reducible apply keeps_fault
    | with_reducible apply repackStep_canon

theorem execNcon_canon (n : NodeFields) (s : State) (hc1 : State.Canon s) :
    Keeps (execNcon n s) := by
  unfold execNcon
  repeat' first
    | with_reducible assumption
    | with_reducible apply keeps_next
    | with_reducible apply keeps_fault
    | with_reducible apply elementwise_canon

theorem execCoff_canon (a : Reg) (s : State) (hc1 : State.Canon s) :
    Keeps (execCoff a s) := by
  unfold execCoff
  repeat' first
    | with_reducible assumption
    | with_reducible apply keeps_next
    | with_reducible apply keeps_fault
    | with_reducible apply done_canon
    | with_reducible apply State.setReg_canon
    | with_reducible apply State.setSite_canon
    | with_reducible apply State.mem_canon
    | with_reducible apply State.peers_canon
    | with_reducible apply trapNow_canon
    | with_reducible apply State.block_canon
    | dsimp only
    | split

theorem execLdfH_canon (d : Reg) (b : Reg) (q : LoadQual) (o : BitVec 12) (s : State) (hc4 : State.Canon s) :
    Keeps (execLdfH d b q o s) := by
  unfold execLdfH
  repeat' first
    | with_reducible assumption
    | with_reducible apply keeps_next
    | with_reducible apply keeps_fault
    | with_reducible apply loadTurn_canon

theorem execFcvt_canon (t : FType) (d : Reg) (a : Reg) (src : FType) (r : RmField) (s : State) (hc5 : State.Canon s) :
    Keeps (execFcvt t d a src r s) := by
  unfold execFcvt
  repeat' first
    | with_reducible assumption
    | with_reducible apply keeps_next
    | with_reducible apply keeps_fault
    | with_reducible apply doneFloat_canon

theorem execNcnt_canon (n : NodeFields) (s : State) (hc1 : State.Canon s) :
    Keeps (execNcnt n s) := by
  unfold execNcnt
  repeat' first
    | with_reducible assumption
    | with_reducible apply keeps_next
    | with_reducible apply keeps_fault
    | with_reducible apply passing_canon

theorem execLandingReplyArrive_canon (k : ℕ) (s : State) (hc1 : State.Canon s) :
    Keeps (execLandingReplyArrive k s) := by
  unfold execLandingReplyArrive
  repeat' first
    | with_reducible assumption
    | with_reducible apply keeps_next
    | with_reducible apply keeps_fault
    | with_reducible apply onThread_canon
    | with_reducible apply State.wake_canon
    | with_reducible apply State.mem_canon
    | with_reducible apply State.peers_canon
    | with_reducible apply State.tick_canon
    | with_reducible apply State.drain_canon
    | with_reducible apply State.advance_canon
    | with_reducible refine canon_of_pair (by assumption) ?_
    | dsimp only
    | split
    | intro _

theorem Firing.reduceFlit_canon (f : Firing) (d : Flit) (hc0 : State.Canon f.s) :
    State.Canon (Firing.reduceFlit f d).s := by
  unfold Firing.reduceFlit
  repeat' first
    | with_reducible assumption
    | with_reducible apply Firing.counted_canon
    | with_reducible apply Firing.updNode_canon
    | with_reducible apply Firing.flags_canon
    | with_reducible apply Firing.takeAll_canon
    | dsimp only
    | split

theorem execNred_canon (n : NodeFields) (s : State) (hc1 : State.Canon s) :
    Keeps (execNred n s) := by
  unfold execNred
  repeat' first
    | with_reducible assumption
    | with_reducible apply keeps_next
    | with_reducible apply keeps_fault
    | with_reducible apply Firing.emit_canon
    | with_reducible apply fire_canon
    | with_reducible apply Firing.done_canon
    | with_reducible apply Firing.sendHeader_canon
    | with_reducible apply withFiring_canon
    | with_reducible apply Firing.reduceFlit_canon
    | dsimp only
    | split
    | intro _

theorem execFmax_canon (t : FType) (d : Reg) (a : Reg) (b : Reg) (s : State) (hc4 : State.Canon s) :
    Keeps (execFmax t d a b s) := by
  unfold execFmax
  repeat' first
    | with_reducible assumption
    | with_reducible apply keeps_next
    | with_reducible apply keeps_fault
    | with_reducible apply doneFloat_canon

theorem execRem_canon (d : Reg) (a : Reg) (b : Reg) (s : State) (hc3 : State.Canon s) :
    Keeps (execRem d a b s) := by
  unfold execRem
  repeat' first
    | with_reducible assumption
    | with_reducible apply keeps_next
    | with_reducible apply keeps_fault
    | with_reducible apply divide_canon

theorem execAand_canon (a : Reg) (b : Reg) (z : AtomSize) (s : State) (hc3 : State.Canon s) :
    Keeps (execAand a b z s) := by
  unfold execAand
  repeat' first
    | with_reducible assumption
    | with_reducible apply keeps_next
    | with_reducible apply keeps_fault
    | with_reducible apply postAtom_canon

theorem execXor_canon (d : Reg) (a : Reg) (b : Reg) (s : State) (hc3 : State.Canon s) :
    Keeps (execXor d a b s) := by
  unfold execXor
  repeat' first
    | with_reducible assumption
    | with_reducible apply keeps_next
    | with_reducible apply keeps_fault
    | with_reducible apply doneG_canon

theorem execMin_canon (d : Reg) (a : Reg) (b : Reg) (s : State) (hc3 : State.Canon s) :
    Keeps (execMin d a b s) := by
  unfold execMin
  repeat' first
    | with_reducible assumption
    | with_reducible apply keeps_next
    | with_reducible apply keeps_fault
    | with_reducible apply doneG_canon

theorem execVisit_canon (b : Reg) (o : BitVec 12) (s : State) (hc2 : State.Canon s) :
    Keeps (execVisit b o s) := by
  unfold execVisit
  repeat' first
    | with_reducible assumption
    | with_reducible apply keeps_next
    | with_reducible apply keeps_fault
    | with_reducible apply done_canon
    | with_reducible apply State.askLanding_canon
    | with_reducible apply inTrouble_canon
    | with_reducible apply trapWith_canon
    | dsimp only
    | split

theorem execCreditReturn_canon (i : ℕ) (k : ℕ) (s : State) (hc2 : State.Canon s) :
    Keeps (execCreditReturn i k s) := by
  unfold execCreditReturn
  repeat' first
    | with_reducible assumption
    | with_reducible apply keeps_next
    | with_reducible apply keeps_fault
    | with_reducible apply State.setInst_canon
    | dsimp only
    | split

theorem execSsct_canon (_q : CmdQual) (o : DataOps) (s : State) (hc2 : State.Canon s) :
    Keeps (execSsct _q o s) := by
  unfold execSsct
  repeat' first
    | with_reducible assumption
    | with_reducible apply keeps_next
    | with_reducible apply keeps_fault
    | with_reducible apply enqueueData_canon

theorem execAaddR_canon (d : Reg) (a : Reg) (b : Reg) (z : AtomSize) (s : State) (hc4 : State.Canon s) :
    Keeps (execAaddR d a b z s) := by
  unfold execAaddR
  repeat' first
    | with_reducible assumption
    | with_reducible apply keeps_next
    | with_reducible apply keeps_fault
    | with_reducible apply returnAtom_canon

theorem execLdD_canon (d : Reg) (b : Reg) (q : LoadQual) (o : BitVec 12) (s : State) (hc4 : State.Canon s) :
    Keeps (execLdD d b q o s) := by
  unfold execLdD
  repeat' first
    | with_reducible assumption
    | with_reducible apply keeps_next
    | with_reducible apply keeps_fault
    | with_reducible apply loadTurn_canon

theorem execFenceAr_canon (sc : Scope) (s : State) (hc1 : State.Canon s) :
    Keeps (execFenceAr sc s) := by
  unfold execFenceAr
  repeat' first
    | with_reducible assumption
    | with_reducible apply keeps_next
    | with_reducible apply keeps_fault
    | with_reducible apply fence_canon

theorem execFsgn_canon (t : FType) (d : Reg) (a : Reg) (b : Reg) (s : State) (hc4 : State.Canon s) :
    Keeps (execFsgn t d a b s) := by
  unfold execFsgn
  repeat' first
    | with_reducible assumption
    | with_reducible apply keeps_next
    | with_reducible apply keeps_fault
    | with_reducible apply doneFloat_canon

theorem execStorePerform_canon (k : ℕ) (s : State) (hc1 : State.Canon s) :
    Keeps (execStorePerform k s) := by
  unfold execStorePerform
  repeat' first
    | with_reducible assumption
    | with_reducible apply keeps_next
    | with_reducible apply keeps_fault
    | with_reducible apply State.perform_canon
    | dsimp only
    | split

theorem Firing.emitPending_canon (f : Firing) (hc0 : State.Canon f.s) :
    State.Canon (Firing.emitPending f).s := by
  unfold Firing.emitPending
  repeat' first
    | with_reducible assumption
    | with_reducible apply Firing.send_canon
    | with_reducible apply Firing.updNode_canon
    | dsimp only
    | split

theorem execNbnd_canon (n : NodeFields) (s : State) (hc1 : State.Canon s) :
    Keeps (execNbnd n s) := by
  unfold execNbnd
  repeat' first
    | with_reducible assumption
    | with_reducible apply keeps_next
    | with_reducible apply keeps_fault
    | with_reducible apply fire_canon
    | with_reducible apply Firing.counted_canon
    | with_reducible apply Firing.done_canon
    | with_reducible apply Firing.updNode_canon
    | with_reducible apply Firing.emitPending_canon
    | with_reducible apply Firing.takeAll_canon
    | with_reducible apply withFiring_canon
    | dsimp only
    | split
    | intro _

theorem execLaunchStart_canon (c : Fin 16) (q : Fin 64) (s : State) (hc2 : State.Canon s) :
    Keeps (execLaunchStart c q s) := by
  unfold execLaunchStart
  repeat' first
    | with_reducible assumption
    | with_reducible apply keeps_next
    | with_reducible apply keeps_fault
    | with_reducible apply optCanon_some
    | with_reducible exact optCanon_none
    | with_reducible apply optCanon_map
    | with_reducible apply optCanon_getD
    | with_reducible apply State.startHead_canon
    | with_reducible refine canon_of_some (by assumption) ?_
    | dsimp only
    | split

theorem execFscl_canon (t : FType) (d : Reg) (a : Reg) (b : Reg) (r : RmField) (s : State) (hc5 : State.Canon s) :
    Keeps (execFscl t d a b r s) := by
  unfold execFscl
  repeat' first
    | with_reducible assumption
    | with_reducible apply keeps_next
    | with_reducible apply keeps_fault
    | with_reducible apply doneFloat_canon

theorem execFfms_canon (t : FType) (d : Reg) (a : Reg) (b : Reg) (c : Reg) (s : State) (hc5 : State.Canon s) :
    Keeps (execFfms t d a b c s) := by
  unfold execFfms
  repeat' first
    | with_reducible assumption
    | with_reducible apply keeps_next
    | with_reducible apply keeps_fault
    | with_reducible apply doneFloat_canon

theorem execFenceRel_canon (sc : Scope) (s : State) (hc1 : State.Canon s) :
    Keeps (execFenceRel sc s) := by
  unfold execFenceRel
  repeat' first
    | with_reducible assumption
    | with_reducible apply keeps_next
    | with_reducible apply keeps_fault
    | with_reducible apply fence_canon

theorem execFcvi_canon (t : FType) (d : Reg) (a : Reg) (ty : IntType) (r : RmField) (s : State) (hc5 : State.Canon s) :
    Keeps (execFcvi t d a ty r s) := by
  unfold execFcvi
  repeat' first
    | with_reducible assumption
    | with_reducible apply keeps_next
    | with_reducible apply keeps_fault
    | with_reducible apply doneInt_canon

theorem execImageWriteComplete_canon (p : Place) (s : State) (hc1 : State.Canon s) :
    Keeps (execImageWriteComplete p s) := by
  unfold execImageWriteComplete
  repeat' first
    | with_reducible assumption
    | with_reducible apply keeps_next
    | with_reducible apply keeps_fault
    | with_reducible apply onThread_canon
    | with_reducible apply State.wake_canon
    | dsimp only
    | split
    | intro _

theorem execMinn_canon (d : Reg) (a : Reg) (b : Reg) (s : State) (hc3 : State.Canon s) :
    Keeps (execMinn d a b s) := by
  unfold execMinn
  repeat' first
    | with_reducible assumption
    | with_reducible apply keeps_next
    | with_reducible apply keeps_fault
    | with_reducible apply doneG_canon

theorem execAminnR_canon (d : Reg) (a : Reg) (b : Reg) (z : AtomSize) (s : State) (hc4 : State.Canon s) :
    Keeps (execAminnR d a b z s) := by
  unfold execAminnR
  repeat' first
    | with_reducible assumption
    | with_reducible apply keeps_next
    | with_reducible apply keeps_fault
    | with_reducible apply returnAtom_canon

theorem execQrng_canon (d : Reg) (a : Reg) (s : State) (hc2 : State.Canon s) :
    Keeps (execQrng d a s) := by
  unfold execQrng
  repeat' first
    | with_reducible assumption
    | with_reducible apply keeps_next
    | with_reducible apply keeps_fault
    | with_reducible apply doneG_canon
    | dsimp only
    | split

theorem execLaunchComplete_canon (c : Fin 16) (k : ℕ) (s : State) (hc2 : State.Canon s) :
    Keeps (execLaunchComplete c k s) := by
  unfold execLaunchComplete
  repeat' first
    | with_reducible assumption
    | with_reducible apply keeps_next
    | with_reducible apply keeps_fault
    | with_reducible apply State.completeLaunch_canon
    | dsimp only
    | split

theorem State.takeWatch_canon (s : State) (hc0 : State.Canon s) :
    State.Canon (State.takeWatch s) := by
  unfold State.takeWatch
  repeat' first
    | with_reducible assumption
    | with_reducible apply State.deliverMade_canon
    | with_reducible apply State.mem_canon
    | with_reducible apply State.peers_canon
    | dsimp only
    | split

theorem execWatchDeliver_canon (p : Place) (s : State) (hc1 : State.Canon s) :
    Keeps (execWatchDeliver p s) := by
  unfold execWatchDeliver
  repeat' first
    | with_reducible assumption
    | with_reducible apply keeps_next
    | with_reducible apply keeps_fault
    | with_reducible apply onThread_canon
    | with_reducible apply State.takeWatch_canon
    | dsimp only
    | split
    | intro _

theorem execRemn_canon (d : Reg) (a : Reg) (b : Reg) (s : State) (hc3 : State.Canon s) :
    Keeps (execRemn d a b s) := by
  unfold execRemn
  repeat' first
    | with_reducible assumption
    | with_reducible apply keeps_next
    | with_reducible apply keeps_fault
    | with_reducible apply divide_canon

theorem execNadd_canon (n : NodeFields) (s : State) (hc1 : State.Canon s) :
    Keeps (execNadd n s) := by
  unfold execNadd
  repeat' first
    | with_reducible assumption
    | with_reducible apply keeps_next
    | with_reducible apply keeps_fault
    | with_reducible apply elementwise_canon

theorem execStfW_canon (d : Reg) (b : Reg) (q : StoreQual) (o : BitVec 12) (s : State) (hc4 : State.Canon s) :
    Keeps (execStfW d b q o s) := by
  unfold execStfW
  repeat' first
    | with_reducible assumption
    | with_reducible apply keeps_next
    | with_reducible apply keeps_fault
    | with_reducible apply storeTurn_canon

theorem execMax_canon (d : Reg) (a : Reg) (b : Reg) (s : State) (hc3 : State.Canon s) :
    Keeps (execMax d a b s) := by
  unfold execMax
  repeat' first
    | with_reducible assumption
    | with_reducible apply keeps_next
    | with_reducible apply keeps_fault
    | with_reducible apply doneG_canon

theorem State.tokenRequest_canon (s : State) (k : ℕ) (c : Fin 16) (r : ℕ) (who : Holder) (p : Place) (byStore : Bool) (hc0 : State.Canon s) :
    State.Canon (State.tokenRequest s k c r who p byStore) := by
  unfold State.tokenRequest
  repeat' first
    | with_reducible assumption
    | with_reducible apply State.setToken_canon
    | with_reducible apply State.mem_canon
    | with_reducible apply State.peers_canon
    | with_reducible apply State.sendGrant_canon
    | with_reducible apply State.send_canon
    | dsimp only
    | split

theorem execTokenRequestRetry_canon (k : ℕ) (s : State) (hc1 : State.Canon s) :
    Keeps (execTokenRequestRetry k s) := by
  unfold execTokenRequestRetry
  repeat' first
    | with_reducible assumption
    | with_reducible apply keeps_next
    | with_reducible apply keeps_fault
    | with_reducible apply State.tokenRequest_canon
    | dsimp only
    | split

theorem execTkhd_canon (a : Reg) (b : Reg) (s : State) (hc2 : State.Canon s) :
    Keeps (execTkhd a b s) := by
  unfold execTkhd
  repeat' first
    | with_reducible assumption
    | with_reducible apply keeps_next
    | with_reducible apply keeps_fault
    | with_reducible apply done_canon
    | with_reducible apply State.setToken_canon
    | with_reducible apply withRegion_canon
    | with_reducible apply trapWith_canon
    | with_reducible apply State.sendGrant_canon
    | with_reducible apply State.sweep_canon
    | with_reducible apply State.passOn_canon
    | with_reducible apply atFence_canon
    | dsimp only
    | split
    | intro _

theorem execPop_canon (d : Reg) (a : Reg) (s : State) (hc2 : State.Canon s) :
    Keeps (execPop d a s) := by
  unfold execPop
  repeat' first
    | with_reducible assumption
    | with_reducible apply keeps_next
    | with_reducible apply keeps_fault
    | with_reducible apply doneG_canon

theorem execNabs_canon (n : NodeFields) (s : State) (hc1 : State.Canon s) :
    Keeps (execNabs n s) := by
  unfold execNabs
  repeat' first
    | with_reducible assumption
    | with_reducible apply keeps_next
    | with_reducible apply keeps_fault
    | with_reducible apply elementwise_canon

theorem walkTurn_canon (addr : Word) (va : ℕ) (level : ℕ) (table : ℕ) (why : WalkFor) (s : State) (hc5 : State.Canon s) :
    Keeps (walkTurn addr va level table why s) := by
  unfold walkTurn
  repeat' first
    | with_reducible assumption
    | with_reducible apply keeps_next
    | with_reducible apply keeps_fault
    | with_reducible apply State.askFill_canon
    | with_reducible apply State.wake_canon
    | with_reducible apply State.exchange_canon
    | with_reducible apply State.tlbAdd_canon
    | with_reducible apply State.pageFault_canon
    | with_reducible apply State.advance_canon
    | with_reducible apply State.block_canon
    | dsimp only
    | split

theorem execTlbWalkLevelReturn_canon (p : Place) (s : State) (hc1 : State.Canon s) :
    Keeps (execTlbWalkLevelReturn p s) := by
  unfold execTlbWalkLevelReturn
  repeat' first
    | with_reducible assumption
    | with_reducible apply keeps_next
    | with_reducible apply keeps_fault
    | with_reducible apply onThread_canon
    | with_reducible apply walkTurn_canon
    | dsimp only
    | split
    | intro _

theorem execLdnB_canon (d : Reg) (b : Reg) (q : LoadQual) (o : BitVec 12) (s : State) (hc4 : State.Canon s) :
    Keeps (execLdnB d b q o s) := by
  unfold execLdnB
  repeat' first
    | with_reducible assumption
    | with_reducible apply keeps_next
    | with_reducible apply keeps_fault
    | with_reducible apply loadTurn_canon

theorem execStresDiscard_canon (pos : Fin 128) (ctx : Fin 16) (s : State) (hc2 : State.Canon s) :
    Keeps (execStresDiscard pos ctx s) := by
  unfold execStresDiscard
  repeat' first
    | with_reducible assumption
    | with_reducible apply keeps_next
    | with_reducible apply keeps_fault
    | with_reducible apply State.streamDiscard_canon

theorem execIllegal_canon (w : BitVec 32) (s : State) (hc1 : State.Canon s) :
    Keeps (execIllegal w s) := by
  unfold execIllegal
  repeat' first
    | with_reducible assumption
    | with_reducible apply keeps_next
    | with_reducible apply keeps_fault
    | with_reducible apply State.deliver_canon

theorem takeEnable_canon (f : Routing) (g : RouterState → RouterState) (hc0 : State.Canon f.s) :
    Keeps (takeEnable f g) := by
  unfold takeEnable
  repeat' first
    | with_reducible assumption
    | with_reducible apply keeps_next
    | with_reducible apply keeps_fault
    | with_reducible apply Routing.done_canon
    | with_reducible apply Routing.upd_canon
    | with_reducible apply Routing.take_canon
    | dsimp only
    | split

theorem takeDone_canon (f : Routing) (k : Routing → Result) (hc0 : State.Canon f.s) (hc1 : ∀ y0, (State.Canon y0.s) → (Keeps (k y0))) :
    Keeps (takeDone f k) := by
  unfold takeDone
  repeat' first
    | with_reducible assumption
    | with_reducible apply hc1
    | with_reducible apply keeps_next
    | with_reducible apply keeps_fault
    | with_reducible apply Routing.done_canon
    | with_reducible apply Routing.upd_canon
    | with_reducible apply Routing.take_canon
    | dsimp only
    | split

theorem sendEnable_canon (f : Routing) (hc0 : State.Canon f.s) :
    Keeps (sendEnable f) := by
  unfold sendEnable
  repeat' first
    | with_reducible assumption
    | with_reducible apply keeps_next
    | with_reducible apply keeps_fault
    | with_reducible apply Routing.done_canon
    | with_reducible apply Routing.send_canon
    | with_reducible apply Routing.upd_canon
    | dsimp only
    | split

theorem sendDone_canon (f : Routing) (g : RouterState → RouterState) (hc0 : State.Canon f.s) :
    Keeps (sendDone f g) := by
  unfold sendDone
  repeat' first
    | with_reducible assumption
    | with_reducible apply keeps_next
    | with_reducible apply keeps_fault
    | with_reducible apply Routing.done_canon
    | with_reducible apply Routing.send_canon
    | with_reducible apply Routing.upd_canon
    | dsimp only
    | split

theorem execCstr_canon (r : RouterFields) (s : State) (hc1 : State.Canon s) :
    Keeps (execCstr r s) := by
  unfold execCstr
  repeat' first
    | with_reducible assumption
    | with_reducible apply keeps_next
    | with_reducible apply keeps_fault
    | with_reducible apply takeEnable_canon
    | with_reducible apply Routing.done_canon
    | with_reducible apply withRouter_canon
    | with_reducible apply takeDone_canon
    | with_reducible apply sendEnable_canon
    | with_reducible apply Routing.upd_canon
    | with_reducible apply sendDone_canon
    | dsimp only
    | split
    | intro _

theorem execCarry_canon (r : RouterFields) (s : State) (hc1 : State.Canon s) :
    Keeps (execCarry r s) := by
  unfold execCarry
  repeat' first
    | with_reducible assumption
    | with_reducible apply keeps_next
    | with_reducible apply keeps_fault
    | with_reducible apply moveFlit_canon
    | with_reducible apply Routing.done_canon
    | with_reducible apply withRouter_canon
    | with_reducible apply withDecision_canon
    | with_reducible apply Routing.upd_canon
    | with_reducible apply Routing.take_canon
    | dsimp only
    | split
    | intro _

theorem execRoutecfgWrite_canon (v : Word) (s : State) (hc1 : State.Canon s) :
    Keeps (execRoutecfgWrite v s) := by
  unfold execRoutecfgWrite
  repeat' first
    | with_reducible assumption
    | with_reducible apply keeps_next
    | with_reducible apply keeps_fault
    | with_reducible apply State.writeRoutecfg_canon

theorem execFlushAckArrive_canon (k : ℕ) (s : State) (hc1 : State.Canon s) :
    Keeps (execFlushAckArrive k s) := by
  unfold execFlushAckArrive
  repeat' first
    | with_reducible assumption
    | with_reducible apply keeps_next
    | with_reducible apply keeps_fault
    | with_reducible apply onThread_canon
    | with_reducible apply State.wake_canon
    | with_reducible apply State.mem_canon
    | with_reducible apply State.peers_canon
    | with_reducible apply State.mapThreads_canon
    | with_reducible apply State.flushEnd_canon
    | with_reducible apply State.advance_canon
    | dsimp only
    | split
    | intro _

theorem State.syncWrite_canon (s : State) (c : Fin 16) (k : Command) (hc0 : State.Canon s) :
    OptCanon (State.syncWrite s c k) := by
  unfold State.syncWrite
  repeat' first
    | with_reducible assumption
    | with_reducible apply optCanon_some
    | with_reducible exact optCanon_none
    | with_reducible apply optCanon_map
    | with_reducible apply State.engineWrite_canon
    | with_reducible refine canon_of_some (by assumption) ?_
    | dsimp only
    | split

theorem execSsyn_canon (_q : CmdQual) (_n : Bool) (_queue : BitVec 6) (_addr : BitVec 52) (_value : BitVec 32) (s : State) (hc5 : State.Canon s) :
    Keeps (execSsyn _q _n _queue _addr _value s) := by
  unfold execSsyn
  repeat' first
    | with_reducible assumption
    | with_reducible apply keeps_next
    | with_reducible apply keeps_fault
    | with_reducible apply optCanon_some
    | with_reducible exact optCanon_none
    | with_reducible apply optCanon_map
    | with_reducible apply State.syncWrite_canon
    | with_reducible apply refused_canon
    | with_reducible apply State.updCtx_canon
    | with_reducible refine canon_of_some (by assumption) ?_
    | dsimp only
    | split

theorem execAxor_canon (a : Reg) (b : Reg) (z : AtomSize) (s : State) (hc3 : State.Canon s) :
    Keeps (execAxor a b z s) := by
  unfold execAxor
  repeat' first
    | with_reducible assumption
    | with_reducible apply keeps_next
    | with_reducible apply keeps_fault
    | with_reducible apply postAtom_canon

theorem execBara_canon (a : Reg) (s : State) (hc1 : State.Canon s) :
    Keeps (execBara a s) := by
  unfold execBara
  repeat' first
    | with_reducible assumption
    | with_reducible apply keeps_next
    | with_reducible apply keeps_fault
    | with_reducible apply done_canon
    | with_reducible apply State.mem_canon
    | with_reducible apply State.peers_canon
    | with_reducible apply State.setBar_canon
    | with_reducible apply trapNow_canon
    | with_reducible apply atFence_canon
    | with_reducible apply State.send_canon
    | dsimp only
    | split
    | intro _

theorem execTbld_canon (a : Reg) (n : Fin 4) (s : State) (hc2 : State.Canon s) :
    Keeps (execTbld a n s) := by
  unfold execTbld
  repeat' first
    | with_reducible assumption
    | with_reducible apply keeps_next
    | with_reducible apply keeps_fault
    | with_reducible apply trapWith_canon
    | with_reducible apply State.tick_canon
    | with_reducible apply State.block_canon
    | with_reducible refine canon_of_pair (by assumption) ?_
    | dsimp only
    | split

theorem execMul_canon (d : Reg) (a : Reg) (b : Reg) (s : State) (hc3 : State.Canon s) :
    Keeps (execMul d a b s) := by
  unfold execMul
  repeat' first
    | with_reducible assumption
    | with_reducible apply keeps_next
    | with_reducible apply keeps_fault
    | with_reducible apply doneG_canon

theorem execAxorR_canon (d : Reg) (a : Reg) (b : Reg) (z : AtomSize) (s : State) (hc4 : State.Canon s) :
    Keeps (execAxorR d a b z s) := by
  unfold execAxorR
  repeat' first
    | with_reducible assumption
    | with_reducible apply keeps_next
    | with_reducible apply keeps_fault
    | with_reducible apply returnAtom_canon

theorem execTdec_canon (d : Reg) (a : Reg) (n : Fin 4) (s : State) (hc3 : State.Canon s) :
    Keeps (execTdec d a n s) := by
  unfold execTdec
  repeat' first
    | with_reducible assumption
    | with_reducible apply keeps_next
    | with_reducible apply keeps_fault
    | with_reducible apply doneFloat_canon

theorem execShri_canon (d : Reg) (a : Reg) (n : BitVec 6) (s : State) (hc3 : State.Canon s) :
    Keeps (execShri d a n s) := by
  unfold execShri
  repeat' first
    | with_reducible assumption
    | with_reducible apply keeps_next
    | with_reducible apply keeps_fault
    | with_reducible apply doneG_canon

theorem execSteer_canon (r : RouterFields) (s : State) (hc1 : State.Canon s) :
    Keeps (execSteer r s) := by
  unfold execSteer
  repeat' first
    | with_reducible assumption
    | with_reducible apply keeps_next
    | with_reducible apply keeps_fault
    | with_reducible apply decided_canon

theorem execAtomicApply_canon (k : ℕ) (s : State) (hc1 : State.Canon s) :
    Keeps (execAtomicApply k s) := by
  unfold execAtomicApply
  repeat' first
    | with_reducible assumption
    | with_reducible apply keeps_next
    | with_reducible apply keeps_fault
    | with_reducible apply State.perform_canon
    | dsimp only
    | split

theorem State.retireMembers_canon (s : State) (n : ℕ) (hc0 : State.Canon s) :
    State.Canon (State.retireMembers s n) := by
  unfold State.retireMembers
  repeat' first
    | with_reducible assumption

theorem State.refuseWaiter_canon (s : State) (p : Place) (n : ℕ) (hc0 : State.Canon s) :
    State.Canon (State.refuseWaiter s p n) := by
  unfold State.refuseWaiter
  repeat' first
    | with_reducible assumption
    | with_reducible apply optCanon_some
    | with_reducible exact optCanon_none
    | with_reducible apply optCanon_map
    | with_reducible apply State.wake_canon
    | with_reducible apply State.mem_canon
    | with_reducible apply State.peers_canon
    | with_reducible apply State.focus_canon
    | with_reducible apply State.deliver_canon
    | with_reducible refine canon_of_some (by assumption) ?_
    | dsimp only
    | split
    | intro _
    | dsimp only [State.Canon]

theorem State.endRetirement_canon (s : State) (n : Fin 1024) (hc0 : State.Canon s) :
    State.Canon (State.endRetirement s n) := by
  unfold State.endRetirement
  repeat' first
    | with_reducible assumption
    | with_reducible apply foldl_canon
    | with_reducible apply State.setReg_canon
    | with_reducible apply State.setSite_canon
    | with_reducible apply State.refuseWaiter_canon
    | with_reducible apply State.mem_canon
    | with_reducible apply State.peers_canon
    | dsimp only
    | split
    | intro _

theorem State.moveOff_canon (s : State) (n : ℕ) (hc0 : State.Canon s) :
    State.Canon (State.moveOff s n) := by
  unfold State.moveOff
  repeat' first
    | with_reducible assumption
    | with_reducible apply State.request_canon
    | dsimp only
    | split

theorem State.retireThread_canon (s : State) (t : Thread) (hc0 : State.Canon s) :
    State.Canon (State.retireThread s t) := by
  unfold State.retireThread
  repeat' first
    | with_reducible assumption
    | with_reducible apply State.mem_canon
    | with_reducible apply State.makeRecord_canon
    | with_reducible apply State.peers_canon
    | with_reducible apply State.endThread_canon
    | with_reducible apply State.queueRecord_canon

theorem State.clearSite_canon (s : State) (n : Fin 1024) (forced : Bool) (hc0 : State.Canon s) :
    State.Canon (State.clearSite s n forced) := by
  unfold State.clearSite
  repeat' first
    | with_reducible assumption
    | with_reducible apply foldl_canon
    | with_reducible apply State.preempt_canon
    | with_reducible apply State.makeReady_canon
    | with_reducible apply State.mem_canon
    | with_reducible apply State.peers_canon
    | with_reducible apply State.retireThread_canon
    | dsimp only
    | split
    | intro _

theorem State.retireRank_canon (s : State) (n : ℕ) (hc0 : State.Canon s) :
    State.Canon (State.retireRank s n) := by
  unfold State.retireRank
  repeat' first
    | with_reducible assumption

theorem execRetirementRun_canon (s : State) (hc0 : State.Canon s) :
    Keeps (execRetirementRun s) := by
  unfold execRetirementRun
  repeat' first
    | with_reducible assumption
    | with_reducible apply keeps_next
    | with_reducible apply keeps_fault
    | with_reducible apply State.retireMembers_canon
    | with_reducible apply State.endRetirement_canon
    | with_reducible apply State.moveOff_canon
    | with_reducible apply State.mem_canon
    | with_reducible apply State.clearSite_canon
    | with_reducible apply State.peers_canon
    | with_reducible apply State.retireRank_canon
    | dsimp only
    | split

theorem execMaxn_canon (d : Reg) (a : Reg) (b : Reg) (s : State) (hc3 : State.Canon s) :
    Keeps (execMaxn d a b s) := by
  unfold execMaxn
  repeat' first
    | with_reducible assumption
    | with_reducible apply keeps_next
    | with_reducible apply keeps_fault
    | with_reducible apply doneG_canon

theorem execAor_canon (a : Reg) (b : Reg) (z : AtomSize) (s : State) (hc3 : State.Canon s) :
    Keeps (execAor a b z s) := by
  unfold execAor
  repeat' first
    | with_reducible assumption
    | with_reducible apply keeps_next
    | with_reducible apply keeps_fault
    | with_reducible apply postAtom_canon

theorem execNld_canon (n : NodeFields) (s : State) (hc1 : State.Canon s) :
    Keeps (execNld n s) := by
  unfold execNld
  repeat' first
    | with_reducible assumption
    | with_reducible apply keeps_next
    | with_reducible apply keeps_fault
    | with_reducible apply withPort_canon
    | with_reducible apply Firing.done_canon
    | with_reducible apply Firing.updNode_canon
    | with_reducible apply fireQueued_canon
    | with_reducible apply Firing.pushHeader_canon
    | with_reducible apply Firing.pushAccess_canon
    | with_reducible apply Firing.takeAll_canon
    | dsimp only
    | split
    | intro _

theorem State.finish_canon (s : State) (c : Fin 16) (k : Command) (hc0 : State.Canon s) :
    State.Canon (State.finish s c k) := by
  unfold State.finish
  repeat' first
    | with_reducible assumption
    | with_reducible apply State.setReg_canon
    | with_reducible apply State.dropCommand_canon
    | with_reducible apply State.noteDrain_canon
    | with_reducible apply State.updGraph_canon
    | dsimp only
    | split

theorem execCommandComplete_canon (c : Fin 16) (id : BitVec 32) (s : State) (hc2 : State.Canon s) :
    Keeps (execCommandComplete c id s) := by
  unfold execCommandComplete
  repeat' first
    | with_reducible assumption
    | with_reducible apply keeps_next
    | with_reducible apply keeps_fault
    | with_reducible apply optCanon_some
    | with_reducible exact optCanon_none
    | with_reducible apply optCanon_map
    | with_reducible apply State.mem_canon
    | with_reducible apply State.refuse_canon
    | with_reducible apply State.peers_canon
    | with_reducible apply State.finish_canon
    | with_reducible apply State.syncWrite_canon
    | with_reducible refine canon_of_some (by assumption) ?_
    | dsimp only
    | split

theorem execLdB_canon (d : Reg) (b : Reg) (q : LoadQual) (o : BitVec 12) (s : State) (hc4 : State.Canon s) :
    Keeps (execLdB d b q o s) := by
  unfold execLdB
  repeat' first
    | with_reducible assumption
    | with_reducible apply keeps_next
    | with_reducible apply keeps_fault
    | with_reducible apply loadTurn_canon

theorem execQspd_canon (d : Reg) (a : Reg) (s : State) (hc2 : State.Canon s) :
    Keeps (execQspd d a s) := by
  unfold execQspd
  repeat' first
    | with_reducible assumption
    | with_reducible apply keeps_next
    | with_reducible apply keeps_fault
    | with_reducible apply doneG_canon

theorem State.seat_canon (s : State) (x : Inst) (a : ℕ × ℕ) (area : List ℕ) (hc0 : State.Canon s) :
    State.Canon (State.seat s x a area).1 := by
  unfold State.seat
  repeat' first
    | with_reducible assumption
    | with_reducible apply foldl_canon
    | with_reducible apply foldl_canon_pair
    | with_reducible apply State.logTake_canon
    | with_reducible apply State.logAppend_canon
    | with_reducible apply State.claim_canon
    | with_reducible apply State.tick_canon
    | with_reducible refine canon_of_pair (by assumption) ?_
    | dsimp only
    | split
    | intro _

theorem State.placeOne_canon (s : State) (c : Fin 16) (p : Placement) (cfg : Config) (num : ℕ) (hc0 : State.Canon s) :
    OptCanon (State.placeOne s c p cfg num) := by
  unfold State.placeOne
  repeat' first
    | with_reducible assumption
    | with_reducible apply optCanon_some
    | with_reducible exact optCanon_none
    | with_reducible apply optCanon_map
    | with_reducible apply State.mem_canon
    | with_reducible apply State.peers_canon
    | with_reducible apply State.tick_canon
    | with_reducible apply State.seat_canon
    | with_reducible refine canon_of_pair (by assumption) ?_
    | with_reducible refine canon_of_some (by assumption) ?_
    | dsimp only
    | split

theorem State.placeMany_canon (s : State) (c : Fin 16) (p : Placement) (cfg : Config) (num : ℕ) (z5 : ℕ) (hc0 : State.Canon s) :
    State.Canon (State.placeMany s c p cfg num z5).1 := by
  induction z5 generalizing s c p cfg num with
  | zero  =>
    unfold State.placeMany
    repeat' first
      | with_reducible assumption
  | succ n_ ih =>
    unfold State.placeMany
    repeat' first
      | with_reducible assumption
      | with_reducible apply ih
      | with_reducible apply optCanon_some
      | with_reducible exact optCanon_none
      | with_reducible apply optCanon_map
      | with_reducible apply State.placeOne_canon
      | with_reducible refine canon_of_pair (by assumption) ?_
      | with_reducible refine canon_of_some (by assumption) ?_
      | dsimp only
      | split

theorem State.place_canon (s : State) (c : Fin 16) (k : ℕ) (p : Placement) (hc0 : State.Canon s) :
    OptCanon (State.place s c k p) := by
  unfold State.place
  repeat' first
    | with_reducible assumption
    | with_reducible apply optCanon_some
    | with_reducible exact optCanon_none
    | with_reducible apply optCanon_map
    | with_reducible apply State.updCtx_canon
    | with_reducible apply State.placeMany_canon
    | with_reducible refine canon_of_pair (by assumption) ?_
    | with_reducible refine canon_of_some (by assumption) ?_
    | dsimp only
    | split

theorem State.restore_canon (s : State) (i : ℕ) (x : Inst) (hc0 : State.Canon s) :
    OptCanon (State.restore s i x) := by
  unfold State.restore
  repeat' first
    | with_reducible assumption
    | with_reducible apply optCanon_some
    | with_reducible exact optCanon_none
    | with_reducible apply optCanon_map
    | with_reducible apply State.place_canon
    | with_reducible apply State.setInst_canon
    | with_reducible apply State.seat_canon
    | with_reducible refine canon_of_pair (by assumption) ?_
    | with_reducible refine canon_of_some (by assumption) ?_
    | dsimp only
    | split
    | intro _

theorem execInstancePlace_canon (k : ℕ) (s : State) (hc1 : State.Canon s) :
    Keeps (execInstancePlace k s) := by
  unfold execInstancePlace
  repeat' first
    | with_reducible assumption
    | with_reducible apply keeps_next
    | with_reducible apply keeps_fault
    | with_reducible apply optCanon_some
    | with_reducible exact optCanon_none
    | with_reducible apply optCanon_map
    | with_reducible apply optCanon_getD
    | with_reducible apply State.restore_canon
    | with_reducible apply State.place_canon
    | with_reducible refine canon_of_some (by assumption) ?_
    | dsimp only
    | split

theorem execLdnH_canon (d : Reg) (b : Reg) (q : LoadQual) (o : BitVec 12) (s : State) (hc4 : State.Canon s) :
    Keeps (execLdnH d b q o s) := by
  unfold execLdnH
  repeat' first
    | with_reducible assumption
    | with_reducible apply keeps_next
    | with_reducible apply keeps_fault
    | with_reducible apply loadTurn_canon

theorem execTgst_canon (d : Reg) (b : Reg) (o : BitVec 12) (s : State) (hc3 : State.Canon s) :
    Keeps (execTgst d b o s) := by
  unfold execTgst
  repeat' first
    | with_reducible assumption
    | with_reducible apply keeps_next
    | with_reducible apply keeps_fault
    | with_reducible apply optCanon_some
    | with_reducible exact optCanon_none
    | with_reducible apply optCanon_map
    | with_reducible apply done_canon
    | with_reducible apply State.threadTouch_canon
    | with_reducible apply inTrouble_canon
    | with_reducible apply State.storeWait_canon
    | with_reducible apply State.enter_canon
    | with_reducible refine canon_of_some (by assumption) ?_
    | dsimp only
    | split

theorem execAorR_canon (d : Reg) (a : Reg) (b : Reg) (z : AtomSize) (s : State) (hc4 : State.Canon s) :
    Keeps (execAorR d a b z s) := by
  unfold execAorR
  repeat' first
    | with_reducible assumption
    | with_reducible apply keeps_next
    | with_reducible apply keeps_fault
    | with_reducible apply returnAtom_canon

theorem execTokenRequestArrive_canon (k : ℕ) (s : State) (hc1 : State.Canon s) :
    Keeps (execTokenRequestArrive k s) := by
  unfold execTokenRequestArrive
  repeat' first
    | with_reducible assumption
    | with_reducible apply keeps_next
    | with_reducible apply keeps_fault
    | with_reducible apply State.tokenRequest_canon
    | dsimp only
    | split

theorem execFcls_canon (t : FType) (d : Reg) (a : Reg) (s : State) (hc3 : State.Canon s) :
    Keeps (execFcls t d a s) := by
  unfold execFcls
  repeat' first
    | with_reducible assumption
    | with_reducible apply keeps_next
    | with_reducible apply keeps_fault
    | with_reducible apply doneInt_canon

theorem execBne_canon (a : Reg) (b : Reg) (o : BitVec 15) (s : State) (hc3 : State.Canon s) :
    Keeps (execBne a b o s) := by
  unfold execBne
  repeat' first
    | with_reducible assumption
    | with_reducible apply keeps_next
    | with_reducible apply keeps_fault
    | with_reducible apply branchIf_canon

theorem State.drainRow_canon (s : State) (i : ℕ) (page : ℕ) (hc0 : State.Canon s) :
    OptCanon (State.drainRow s i page) := by
  unfold State.drainRow
  repeat' first
    | with_reducible assumption
    | with_reducible apply optCanon_some
    | with_reducible exact optCanon_none
    | with_reducible apply optCanon_map
    | with_reducible apply State.stir_canon
    | with_reducible apply State.accPost_canon
    | with_reducible refine canon_of_some (by assumption) ?_
    | dsimp only
    | split

theorem execPageRowDrain_canon (i : ℕ) (page : ℕ) (row : Fin 16) (s : State) (hc3 : State.Canon s) :
    Keeps (execPageRowDrain i page row s) := by
  unfold execPageRowDrain
  repeat' first
    | with_reducible assumption
    | with_reducible apply keeps_next
    | with_reducible apply keeps_fault
    | with_reducible apply optCanon_some
    | with_reducible exact optCanon_none
    | with_reducible apply optCanon_map
    | with_reducible apply optCanon_getD
    | with_reducible apply State.drainRow_canon
    | with_reducible refine canon_of_some (by assumption) ?_
    | dsimp only
    | split

theorem execAmaxnR_canon (d : Reg) (a : Reg) (b : Reg) (z : AtomSize) (s : State) (hc4 : State.Canon s) :
    Keeps (execAmaxnR d a b z s) := by
  unfold execAmaxnR
  repeat' first
    | with_reducible assumption
    | with_reducible apply keeps_next
    | with_reducible apply keeps_fault
    | with_reducible apply returnAtom_canon

theorem execBltn_canon (a : Reg) (b : Reg) (o : BitVec 15) (s : State) (hc3 : State.Canon s) :
    Keeps (execBltn a b o s) := by
  unfold execBltn
  repeat' first
    | with_reducible assumption
    | with_reducible apply keeps_next
    | with_reducible apply keeps_fault
    | with_reducible apply branchIf_canon

theorem execCmts_canon (a : Reg) (b : Reg) (s : State) (hc2 : State.Canon s) :
    Keeps (execCmts a b s) := by
  unfold execCmts
  repeat' first
    | with_reducible assumption
    | with_reducible apply keeps_next
    | with_reducible apply keeps_fault
    | with_reducible apply done_canon
    | with_reducible apply ringStep_canon
    | with_reducible apply atFence_canon
    | dsimp only
    | split
    | intro _

theorem execBeq_canon (a : Reg) (b : Reg) (o : BitVec 15) (s : State) (hc3 : State.Canon s) :
    Keeps (execBeq a b o s) := by
  unfold execBeq
  repeat' first
    | with_reducible assumption
    | with_reducible apply keeps_next
    | with_reducible apply keeps_fault
    | with_reducible apply branchIf_canon

theorem execFeWaiterRetry_canon (p : Place) (s : State) (hc1 : State.Canon s) :
    Keeps (execFeWaiterRetry p s) := by
  unfold execFeWaiterRetry
  repeat' first
    | with_reducible assumption
    | with_reducible apply keeps_next
    | with_reducible apply keeps_fault
    | with_reducible apply State.updThread_canon
    | with_reducible apply State.mem_canon
    | with_reducible apply State.peers_canon
    | with_reducible apply State.serveOne_canon
    | dsimp only
    | split

theorem State.accept_canon (s : State) (c : Fin 16) (k : Command) (hc0 : State.Canon s) :
    State.Canon (State.accept s c k) := by
  unfold State.accept
  repeat' first
    | with_reducible assumption
    | with_reducible apply State.updCtx_canon

theorem State.fetchCommand_canon (s : State) (c : Fin 16) (g : Fin 4) (r : Graph) (hc0 : State.Canon s) :
    State.Canon (State.fetchCommand s c g r) := by
  unfold State.fetchCommand
  repeat' first
    | with_reducible assumption
    | with_reducible apply State.seqRecord_canon
    | with_reducible apply State.askWords_canon
    | with_reducible apply State.stopGraph_canon
    | with_reducible apply State.updGraph_canon
    | with_reducible apply State.accept_canon
    | dsimp only
    | split

theorem execCommandAccept_canon (c : Fin 16) (s : State) (hc1 : State.Canon s) :
    Keeps (execCommandAccept c s) := by
  unfold execCommandAccept
  repeat' first
    | with_reducible assumption
    | with_reducible apply keeps_next
    | with_reducible apply keeps_fault
    | with_reducible apply State.updCtx_canon
    | with_reducible apply State.accept_canon
    | with_reducible apply State.fetchCommand_canon
    | dsimp only
    | split

theorem execHstat_canon (d : Reg) (a : Reg) (s : State) (hc2 : State.Canon s) :
    Keeps (execHstat d a s) := by
  unfold execHstat
  repeat' first
    | with_reducible assumption
    | with_reducible apply keeps_next
    | with_reducible apply keeps_fault
    | with_reducible apply askController_canon

theorem execScpy_canon (_q : CmdQual) (o : DataOps) (s : State) (hc2 : State.Canon s) :
    Keeps (execScpy _q o s) := by
  unfold execScpy
  repeat' first
    | with_reducible assumption
    | with_reducible apply keeps_next
    | with_reducible apply keeps_fault
    | with_reducible apply enqueueData_canon

theorem State.eret_canon (s : State) (hc0 : State.Canon s) :
    State.Canon (State.eret s) := by
  unfold State.eret
  repeat' first
    | with_reducible assumption

theorem execEret_canon (s : State) (hc0 : State.Canon s) :
    Keeps (execEret s) := by
  unfold execEret
  repeat' first
    | with_reducible assumption
    | with_reducible apply keeps_next
    | with_reducible apply keeps_fault
    | with_reducible apply trapNow_canon
    | with_reducible apply State.eret_canon
    | dsimp only
    | split

theorem execFneg_canon (t : FType) (d : Reg) (a : Reg) (s : State) (hc3 : State.Canon s) :
    Keeps (execFneg t d a s) := by
  unfold execFneg
  repeat' first
    | with_reducible assumption
    | with_reducible apply keeps_next
    | with_reducible apply keeps_fault
    | with_reducible apply doneFloat_canon

theorem execTnow_canon (d : Reg) (s : State) (hc1 : State.Canon s) :
    Keeps (execTnow d s) := by
  unfold execTnow
  repeat' first
    | with_reducible assumption
    | with_reducible apply keeps_next
    | with_reducible apply keeps_fault
    | with_reducible apply readTime_canon

theorem execSdor_canon (_q : CmdQual) (door : BitVec 8) (slot : BitVec 3) (inst : BitVec 10) (blk : BitVec 48) (s : State) (hc5 : State.Canon s) :
    Keeps (execSdor _q door slot inst blk s) := by
  unfold execSdor
  repeat' first
    | with_reducible assumption
    | with_reducible apply keeps_next
    | with_reducible apply keeps_fault
    | with_reducible apply State.refuse_canon
    | with_reducible apply State.setInst_canon
    | with_reducible apply State.askWords_canon
    | with_reducible apply refused_canon
    | with_reducible apply onInsts_canon
    | dsimp only
    | split
    | intro _

theorem execSmig_canon (_q : CmdQual) (tgt : BitVec 8) (_blk : BitVec 48) (s : State) (hc3 : State.Canon s) :
    Keeps (execSmig _q tgt _blk s) := by
  unfold execSmig
  repeat' first
    | with_reducible assumption
    | with_reducible apply keeps_next
    | with_reducible apply keeps_fault
    | with_reducible apply enqueue_canon

theorem execStW_canon (d : Reg) (b : Reg) (q : StoreQual) (o : BitVec 12) (s : State) (hc4 : State.Canon s) :
    Keeps (execStW d b q o s) := by
  unfold execStW
  repeat' first
    | with_reducible assumption
    | with_reducible apply keeps_next
    | with_reducible apply keeps_fault
    | with_reducible apply storeTurn_canon

theorem State.askWake_canon (s : State) (n : Fin 1024) (hc0 : State.Canon s) :
    OptCanon (State.askWake s n) := by
  unfold State.askWake
  repeat' first
    | with_reducible assumption
    | with_reducible apply optCanon_some
    | with_reducible exact optCanon_none
    | with_reducible apply optCanon_map
    | with_reducible apply State.setSite_canon
    | with_reducible apply State.mem_canon
    | with_reducible apply State.peers_canon
    | with_reducible refine canon_of_some (by assumption) ?_
    | dsimp only
    | split

theorem State.slotFor_canon (s : State) (c : Fin 16) (q : Fin 64) (h : Head) (hc0 : State.Canon s) :
    OptCanonL (State.slotFor s c q h) := by
  unfold State.slotFor
  repeat' first
    | with_reducible assumption
    | with_reducible apply optCanonL_some
    | with_reducible exact optCanonL_none
    | with_reducible apply optCanonL_map
    | with_reducible apply State.preempt_canon
    | with_reducible apply State.makeReady_canon
    | with_reducible refine canon_of_someL (by assumption) ?_
    | with_reducible refine canon_of_someL' (by assumption) ?_
    | dsimp only
    | split
    | intro _

theorem State.threadLand_canon (s : State) (c : Fin 16) (q : Fin 64) (hc0 : State.Canon s) :
    State.Canon (State.threadLand s c q) := by
  unfold State.threadLand
  repeat' first
    | with_reducible assumption
    | with_reducible apply optCanon_some
    | with_reducible exact optCanon_none
    | with_reducible apply optCanonL_some
    | with_reducible exact optCanonL_none
    | with_reducible apply optCanon_map
    | with_reducible apply optCanon_getD
    | with_reducible apply optCanonL_map
    | with_reducible apply State.landHead_canon
    | with_reducible apply State.askWake_canon
    | with_reducible apply State.slotFor_canon
    | with_reducible refine canon_of_some (by assumption) ?_
    | with_reducible refine canon_of_someL (by assumption) ?_
    | with_reducible refine canon_of_someL' (by assumption) ?_
    | dsimp only
    | split

theorem execThreadLand_canon (c : Fin 16) (q : Fin 64) (s : State) (hc2 : State.Canon s) :
    Keeps (execThreadLand c q s) := by
  unfold execThreadLand
  repeat' first
    | with_reducible assumption
    | with_reducible apply keeps_next
    | with_reducible apply keeps_fault
    | with_reducible apply State.threadLand_canon

theorem execBoundaryShutter_canon (i : ℕ) (s : State) (hc1 : State.Canon s) :
    Keeps (execBoundaryShutter i s) := by
  unfold execBoundaryShutter
  repeat' first
    | with_reducible assumption
    | with_reducible apply keeps_next
    | with_reducible apply keeps_fault
    | with_reducible apply State.shutResume_canon
    | with_reducible apply State.shutter_canon
    | dsimp only
    | split

theorem execRor_canon (d : Reg) (a : Reg) (b : Reg) (s : State) (hc3 : State.Canon s) :
    Keeps (execRor d a b s) := by
  unfold execRor
  repeat' first
    | with_reducible assumption
    | with_reducible apply keeps_next
    | with_reducible apply keeps_fault
    | with_reducible apply doneG_canon

theorem execHypOutcomeArrive_canon (k : ℕ) (s : State) (hc1 : State.Canon s) :
    Keeps (execHypOutcomeArrive k s) := by
  unfold execHypOutcomeArrive
  repeat' first
    | with_reducible assumption
    | with_reducible apply keeps_next
    | with_reducible apply keeps_fault
    | with_reducible apply State.mem_canon
    | with_reducible apply State.peers_canon
    | dsimp only
    | split

theorem execGroupCommitDone_canon (s : State) (hc0 : State.Canon s) :
    Keeps (execGroupCommitDone s) := by
  unfold execGroupCommitDone
  repeat' first
    | with_reducible assumption
    | with_reducible apply keeps_next
    | with_reducible apply keeps_fault
    | with_reducible apply State.mem_canon
    | with_reducible apply State.peers_canon
    | dsimp only
    | split

theorem execMulh_canon (d : Reg) (a : Reg) (b : Reg) (s : State) (hc3 : State.Canon s) :
    Keeps (execMulh d a b s) := by
  unfold execMulh
  repeat' first
    | with_reducible assumption
    | with_reducible apply keeps_next
    | with_reducible apply keeps_fault
    | with_reducible apply doneG_canon

theorem execLdfD_canon (d : Reg) (b : Reg) (q : LoadQual) (o : BitVec 12) (s : State) (hc4 : State.Canon s) :
    Keeps (execLdfD d b q o s) := by
  unfold execLdfD
  repeat' first
    | with_reducible assumption
    | with_reducible apply keeps_next
    | with_reducible apply keeps_fault
    | with_reducible apply loadTurn_canon

theorem divideEnd_canon (d : Reg) (v : Word) (s : State) (hc2 : State.Canon s) :
    Keeps (divideEnd d v s) := by
  unfold divideEnd
  repeat' first
    | with_reducible assumption
    | with_reducible apply keeps_next
    | with_reducible apply keeps_fault
    | with_reducible apply State.wake_canon
    | with_reducible apply State.setG_canon
    | with_reducible apply State.advance_canon

theorem execDivideComplete_canon (p : Place) (s : State) (hc1 : State.Canon s) :
    Keeps (execDivideComplete p s) := by
  unfold execDivideComplete
  repeat' first
    | with_reducible assumption
    | with_reducible apply keeps_next
    | with_reducible apply keeps_fault
    | with_reducible apply divideEnd_canon
    | with_reducible apply onThread_canon
    | dsimp only
    | split
    | intro _

theorem execAmaxR_canon (d : Reg) (a : Reg) (b : Reg) (z : AtomSize) (s : State) (hc4 : State.Canon s) :
    Keeps (execAmaxR d a b z s) := by
  unfold execAmaxR
  repeat' first
    | with_reducible assumption
    | with_reducible apply keeps_next
    | with_reducible apply keeps_fault
    | with_reducible apply returnAtom_canon

theorem execLdW_canon (d : Reg) (b : Reg) (q : LoadQual) (o : BitVec 12) (s : State) (hc4 : State.Canon s) :
    Keeps (execLdW d b q o s) := by
  unfold execLdW
  repeat' first
    | with_reducible assumption
    | with_reducible apply keeps_next
    | with_reducible apply keeps_fault
    | with_reducible apply loadTurn_canon

theorem execHconf_canon (a : Reg) (s : State) (hc1 : State.Canon s) :
    Keeps (execHconf a s) := by
  unfold execHconf
  repeat' first
    | with_reducible assumption
    | with_reducible apply keeps_next
    | with_reducible apply keeps_fault
    | with_reducible apply askController_canon
    | with_reducible apply atFence_canon
    | dsimp only
    | split
    | intro _

theorem execNshr_canon (n : NodeFields) (s : State) (hc1 : State.Canon s) :
    Keeps (execNshr n s) := by
  unfold execNshr
  repeat' first
    | with_reducible assumption
    | with_reducible apply keeps_next
    | with_reducible apply keeps_fault
    | with_reducible apply elementwise_canon

theorem execNdor_canon (n : NodeFields) (s : State) (hc1 : State.Canon s) :
    Keeps (execNdor n s) := by
  unfold execNdor
  repeat' first
    | with_reducible assumption
    | with_reducible apply keeps_next
    | with_reducible apply keeps_fault
    | with_reducible apply Firing.done_canon
    | with_reducible apply State.message_canon
    | with_reducible apply Firing.takeAll_canon
    | with_reducible apply Firing.needHeaders_canon
    | with_reducible apply Firing.takeHeaders_canon
    | with_reducible refine canon_of_pair (by assumption) ?_
    | with_reducible refine canon_of_fpair (by assumption) ?_
    | dsimp only
    | split

theorem execAfaddRF32_canon (d : Reg) (a : Reg) (b : Reg) (s : State) (hc3 : State.Canon s) :
    Keeps (execAfaddRF32 d a b s) := by
  unfold execAfaddRF32
  repeat' first
    | with_reducible assumption
    | with_reducible apply keeps_next
    | with_reducible apply keeps_fault
    | with_reducible apply returnAtom_canon

theorem execRtmapWrite_canon (m : Fin 1152) (v : Word) (s : State) (hc2 : State.Canon s) :
    Keeps (execRtmapWrite m v s) := by
  unfold execRtmapWrite
  repeat' first
    | with_reducible assumption
    | with_reducible apply keeps_next
    | with_reducible apply keeps_fault
    | with_reducible apply State.writeRtmap_canon

theorem State.bufferLine_canon (s : State) (x : Inst) (page : ℕ) (p : Fin 4) (line : ℕ) (hc0 : State.Canon s) :
    State.Canon (State.bufferLine s x page p line).1 := by
  unfold State.bufferLine
  repeat' first
    | with_reducible assumption
    | with_reducible apply foldl_canon
    | with_reducible apply foldl_canon_pair
    | with_reducible apply State.ownWriteBack_canon
    | with_reducible apply State.engineAsk_canon
    | with_reducible refine canon_of_pair (by assumption) ?_
    | dsimp only
    | split

theorem Firing.ownUpdate_canon (f : Firing) (p : Fin 4) (addr : Word) (operand : Word) (hc0 : State.Canon f.s) :
    State.Canon (Firing.ownUpdate f p addr operand).1.s := by
  unfold Firing.ownUpdate
  repeat' first
    | with_reducible assumption
    | with_reducible apply Firing.flags_canon
    | with_reducible apply State.logReduction_canon
    | with_reducible apply State.portTouch_canon
    | with_reducible apply State.bufferLine_canon
    | with_reducible refine canon_of_pair (by assumption) ?_
    | with_reducible refine canon_of_fpair (by assumption) ?_
    | dsimp only
    | split

theorem execNown_canon (n : NodeFields) (s : State) (hc1 : State.Canon s) :
    Keeps (execNown n s) := by
  unfold execNown
  repeat' first
    | with_reducible assumption
    | with_reducible apply keeps_next
    | with_reducible apply keeps_fault
    | with_reducible apply Firing.send_canon
    | with_reducible apply Firing.ownUpdate_canon
    | with_reducible apply Firing.done_canon
    | with_reducible apply Firing.updNode_canon
    | with_reducible apply Firing.sendHeader_canon
    | with_reducible apply withFiring_canon
    | with_reducible apply Firing.needHeaders_canon
    | with_reducible apply Firing.takeHeaders_canon
    | with_reducible refine canon_of_fpair (by assumption) ?_
    | dsimp only
    | split
    | intro _

theorem execFeq_canon (t : FType) (d : Reg) (a : Reg) (b : Reg) (s : State) (hc4 : State.Canon s) :
    Keeps (execFeq t d a b s) := by
  unfold execFeq
  repeat' first
    | with_reducible assumption
    | with_reducible apply keeps_next
    | with_reducible apply keeps_fault
    | with_reducible apply doneInt_canon

theorem execSrai_canon (d : Reg) (a : Reg) (n : BitVec 6) (s : State) (hc3 : State.Canon s) :
    Keeps (execSrai d a n s) := by
  unfold execSrai
  repeat' first
    | with_reducible assumption
    | with_reducible apply keeps_next
    | with_reducible apply keeps_fault
    | with_reducible apply doneG_canon

theorem execTableVersionFree_canon (c : Fin 16) (k : ℕ) (s : State) (hc2 : State.Canon s) :
    Keeps (execTableVersionFree c k s) := by
  unfold execTableVersionFree
  repeat' first
    | with_reducible assumption
    | with_reducible apply keeps_next
    | with_reducible apply keeps_fault
    | with_reducible apply State.updCtx_canon
    | with_reducible apply State.notice_canon
    | dsimp only
    | split

theorem execSignalDeliver_canon (k : ℕ) (s : State) (hc1 : State.Canon s) :
    Keeps (execSignalDeliver k s) := by
  unfold execSignalDeliver
  repeat' first
    | with_reducible assumption
    | with_reducible apply keeps_next
    | with_reducible apply keeps_fault
    | with_reducible apply State.updThread_canon
    | with_reducible apply State.mem_canon
    | with_reducible apply State.peers_canon
    | with_reducible apply State.pokeImage_canon
    | dsimp only
    | split

theorem execSdrn_canon (_q : CmdQual) (clear : Bool) (o : DrainOps) (s : State) (hc3 : State.Canon s) :
    Keeps (execSdrn _q clear o s) := by
  unfold execSdrn
  repeat' first
    | with_reducible assumption
    | with_reducible apply keeps_next
    | with_reducible apply keeps_fault
    | with_reducible apply foldl_canon
    | with_reducible apply foldl_canon_pair
    | with_reducible apply State.setStreamer_canon
    | with_reducible apply State.setInst_canon
    | with_reducible apply State.tick_canon
    | with_reducible apply refused_canon
    | with_reducible refine canon_of_pair (by assumption) ?_
    | dsimp only
    | split
    | intro _

theorem Stepping.upd_canon (f : Stepping) (g : Section → Section) (hc0 : State.Canon f.s) :
    State.Canon (Stepping.upd f g).s := by
  unfold Stepping.upd
  repeat' first
    | with_reducible assumption

theorem Stepping.fault_canon (f : Stepping) (e : Edge) (hc0 : State.Canon f.s) :
    State.Canon (Stepping.fault f e).s := by
  unfold Stepping.fault
  repeat' first
    | with_reducible assumption
    | with_reducible apply State.headerFault_canon
    | with_reducible apply State.setInst_canon

theorem Stepping.rowStep_canon (f : Stepping) (py : ℕ) (run : ℕ) (els : List (ℕ × Bool × ℕ × List (ℕ × Addend))) (hc0 : State.Canon f.s) :
    State.Canon (Stepping.rowStep f py run els).s := by
  unfold Stepping.rowStep
  repeat' first
    | with_reducible assumption
    | with_reducible apply foldl_canon_stepping
    | with_reducible apply foldl_canon
    | with_reducible apply Stepping.upd_canon
    | with_reducible apply State.pageFlags_canon
    | dsimp only
    | split

theorem Stepping.products_canon (f : Stepping) (hc0 : State.Canon f.s) :
    State.Canon (Stepping.products f).s := by
  unfold Stepping.products
  repeat' first
    | with_reducible assumption
    | with_reducible apply foldl_canon_stepping
    | with_reducible apply foldl_canon
    | with_reducible apply Stepping.rowStep_canon
    | dsimp only
    | split
    | intro _

theorem Stepping.flush_canon (f : Stepping) (edges : List Edge) (z2 : ℕ) (hc0 : State.Canon f.s) :
    State.Canon (Stepping.flush f edges z2).s := by
  induction z2 generalizing f edges with
  | zero  =>
    unfold Stepping.flush
    repeat' first
      | with_reducible assumption
  | succ n_ ih =>
    unfold Stepping.flush
    repeat' first
      | with_reducible assumption
      | with_reducible apply ih
      | with_reducible apply Stepping.upd_canon
      | with_reducible apply Stepping.products_canon

theorem Stepping.misalign_canon (f : Stepping) (e : Edge) (edges : List Edge) (hc0 : State.Canon f.s) :
    State.Canon (Stepping.misalign f e edges).s := by
  unfold Stepping.misalign
  repeat' first
    | with_reducible assumption
    | with_reducible apply foldl_canon_stepping
    | with_reducible apply foldl_canon
    | with_reducible apply Stepping.upd_canon
    | with_reducible apply Stepping.fault_canon
    | with_reducible apply Stepping.flush_canon

theorem Stepping.take_canon (f : Stepping) (e : Edge) (hc0 : State.Canon f.s) :
    State.Canon (Stepping.take f e).s := by
  unfold Stepping.take
  repeat' first
    | with_reducible assumption

theorem Stepping.consume_canon (f : Stepping) (e : Edge) (d : Flit) (hc0 : State.Canon f.s) :
    State.Canon (Stepping.consume f e d).s := by
  unfold Stepping.consume
  repeat' first
    | with_reducible assumption
    | with_reducible apply Stepping.take_canon
    | with_reducible apply Stepping.upd_canon
    | with_reducible apply Stepping.fault_canon
    | dsimp only
    | split

theorem State.drainRows_canon (s : State) (i : ℕ) (page : ℕ) (z3 : ℕ) (hc0 : State.Canon s) :
    State.Canon (State.drainRows s i page z3) := by
  induction z3 generalizing s i page with
  | zero  =>
    unfold State.drainRows
    repeat' first
      | with_reducible assumption
  | succ n_ ih =>
    unfold State.drainRows
    repeat' first
      | with_reducible assumption
      | with_reducible apply ih
      | with_reducible apply optCanon_some
      | with_reducible exact optCanon_none
      | with_reducible apply optCanon_map
      | with_reducible apply State.drainRow_canon
      | with_reducible refine canon_of_some (by assumption) ?_
      | dsimp only
      | split

theorem Stepping.done_canon (f : Stepping) (hc0 : State.Canon f.s) :
    Keeps (Stepping.done f) := by
  unfold Stepping.done
  repeat' first
    | with_reducible assumption
    | with_reducible apply keeps_next
    | with_reducible apply keeps_fault
    | with_reducible apply State.stir_canon

theorem Stepping.discard_canon (f : Stepping) (edges : List Edge) (hc0 : State.Canon f.s) :
    State.Canon (Stepping.discard f edges).s := by
  unfold Stepping.discard
  repeat' first
    | with_reducible assumption
    | with_reducible apply foldl_canon_stepping
    | with_reducible apply foldl_canon
    | with_reducible apply Stepping.take_canon
    | with_reducible apply Stepping.upd_canon
    | dsimp only
    | split
    | intro _

theorem execSectionStep_canon (n : NodeFields) (s : State) (hc1 : State.Canon s) :
    Keeps (execSectionStep n s) := by
  unfold execSectionStep
  repeat' first
    | with_reducible assumption
    | with_reducible apply keeps_next
    | with_reducible apply keeps_fault
    | with_reducible apply foldl_canon_stepping
    | with_reducible apply foldl_canon
    | with_reducible apply Stepping.upd_canon
    | with_reducible apply Stepping.misalign_canon
    | with_reducible apply Stepping.consume_canon
    | with_reducible apply State.drainRows_canon
    | with_reducible apply Stepping.products_canon
    | with_reducible apply Stepping.done_canon
    | with_reducible apply Stepping.discard_canon
    | dsimp only
    | split
    | intro _

theorem execSeq_canon (d : Reg) (a : Reg) (b : Reg) (s : State) (hc3 : State.Canon s) :
    Keeps (execSeq d a b s) := by
  unfold execSeq
  repeat' first
    | with_reducible assumption
    | with_reducible apply keeps_next
    | with_reducible apply keeps_fault
    | with_reducible apply doneG_canon

theorem execAmaxn_canon (a : Reg) (b : Reg) (z : AtomSize) (s : State) (hc3 : State.Canon s) :
    Keeps (execAmaxn a b z s) := by
  unfold execAmaxn
  repeat' first
    | with_reducible assumption
    | with_reducible apply keeps_next
    | with_reducible apply keeps_fault
    | with_reducible apply postAtom_canon

theorem waitTurn_canon (s : State) (hc0 : State.Canon s) :
    Keeps (waitTurn s) := by
  unfold waitTurn
  repeat' first
    | with_reducible assumption
    | with_reducible apply keeps_next
    | with_reducible apply keeps_fault
    | with_reducible apply State.accApply_canon
    | with_reducible apply divideEnd_canon
    | with_reducible apply State.wake_canon
    | with_reducible apply execTbldComplete_canon
    | with_reducible apply timedTurn_canon
    | with_reducible apply State.pause_canon
    | with_reducible apply State.perform_canon
    | with_reducible apply State.hypServe_canon
    | with_reducible apply walkTurn_canon
    | with_reducible apply remoteTurn_canon
    | with_reducible apply State.block_canon
    | dsimp only
    | split

theorem execIssueWaitComplete_canon (p : Place) (s : State) (hc1 : State.Canon s) :
    Keeps (execIssueWaitComplete p s) := by
  unfold execIssueWaitComplete
  repeat' first
    | with_reducible assumption
    | with_reducible apply keeps_next
    | with_reducible apply keeps_fault
    | with_reducible apply onThread_canon
    | with_reducible apply State.takeOrphan_canon
    | with_reducible apply waitTurn_canon
    | dsimp only
    | split
    | intro _

theorem execTokenRecallComplete_canon (k : ℕ) (s : State) (hc1 : State.Canon s) :
    Keeps (execTokenRecallComplete k s) := by
  unfold execTokenRecallComplete
  repeat' first
    | with_reducible assumption
    | with_reducible apply keeps_next
    | with_reducible apply keeps_fault
    | with_reducible apply State.giveUp_canon
    | dsimp only
    | split

theorem execOrphan_canon (p : Place) (s : State) (hc1 : State.Canon s) :
    Keeps (execOrphan p s) := by
  unfold execOrphan
  repeat' first
    | with_reducible assumption
    | with_reducible apply keeps_next
    | with_reducible apply keeps_fault
    | with_reducible apply onThread_canon
    | with_reducible apply State.takeOrphan_canon
    | dsimp only
    | split
    | intro _

theorem execCpip_canon (r : RouterFields) (s : State) (hc1 : State.Canon s) :
    Keeps (execCpip r s) := by
  unfold execCpip
  repeat' first
    | with_reducible assumption
    | with_reducible apply keeps_next
    | with_reducible apply keeps_fault
    | with_reducible apply takeEnable_canon
    | with_reducible apply withRouter_canon
    | with_reducible apply takeDone_canon
    | with_reducible apply sendEnable_canon
    | with_reducible apply sendDone_canon
    | dsimp only
    | split
    | intro _

theorem execScol_canon (_q : CmdQual) (o : DataOps) (s : State) (hc2 : State.Canon s) :
    Keeps (execScol _q o s) := by
  unfold execScol
  repeat' first
    | with_reducible assumption
    | with_reducible apply keeps_next
    | with_reducible apply keeps_fault
    | with_reducible apply enqueueData_canon

theorem execCtz_canon (d : Reg) (a : Reg) (s : State) (hc2 : State.Canon s) :
    Keeps (execCtz d a s) := by
  unfold execCtz
  repeat' first
    | with_reducible assumption
    | with_reducible apply keeps_next
    | with_reducible apply keeps_fault
    | with_reducible apply doneG_canon

theorem execJal_canon (o : BitVec 25) (s : State) (hc1 : State.Canon s) :
    Keeps (execJal o s) := by
  unfold execJal
  repeat' first
    | with_reducible assumption
    | with_reducible apply keeps_next
    | with_reducible apply keeps_fault
    | with_reducible apply State.setG_canon
    | with_reducible apply State.goto_canon

theorem execPlacingComplete_canon (i : ℕ) (s : State) (hc1 : State.Canon s) :
    Keeps (execPlacingComplete i s) := by
  unfold execPlacingComplete
  repeat' first
    | with_reducible assumption
    | with_reducible apply keeps_next
    | with_reducible apply keeps_fault
    | with_reducible apply State.carryOut_canon
    | with_reducible apply State.setInst_canon
    | dsimp only
    | split

theorem execFfma_canon (t : FType) (d : Reg) (a : Reg) (b : Reg) (c : Reg) (s : State) (hc5 : State.Canon s) :
    Keeps (execFfma t d a b c s) := by
  unfold execFfma
  repeat' first
    | with_reducible assumption
    | with_reducible apply keeps_next
    | with_reducible apply keeps_fault
    | with_reducible apply doneFloat_canon

theorem execStB_canon (d : Reg) (b : Reg) (q : StoreQual) (o : BitVec 12) (s : State) (hc4 : State.Canon s) :
    Keeps (execStB d b q o s) := by
  unfold execStB
  repeat' first
    | with_reducible assumption
    | with_reducible apply keeps_next
    | with_reducible apply keeps_fault
    | with_reducible apply storeTurn_canon

theorem execHget_canon (d : Reg) (s : State) (hc1 : State.Canon s) :
    Keeps (execHget d s) := by
  unfold execHget
  repeat' first
    | with_reducible assumption
    | with_reducible apply keeps_next
    | with_reducible apply keeps_fault
    | with_reducible apply doneG_canon

theorem execStfH_canon (d : Reg) (b : Reg) (q : StoreQual) (o : BitVec 12) (s : State) (hc4 : State.Canon s) :
    Keeps (execStfH d b q o s) := by
  unfold execStfH
  repeat' first
    | with_reducible assumption
    | with_reducible apply keeps_next
    | with_reducible apply keeps_fault
    | with_reducible apply storeTurn_canon

theorem execLnci_canon (a : Reg) (b : Reg) (c : Reg) (s : State) (hc3 : State.Canon s) :
    Keeps (execLnci a b c s) := by
  unfold execLnci
  repeat' first
    | with_reducible assumption
    | with_reducible apply keeps_next
    | with_reducible apply keeps_fault
    | with_reducible apply launchTurn_canon
    | with_reducible apply atFence_canon
    | dsimp only
    | split
    | intro _

theorem execPrgt_canon (d : Reg) (a : Reg) (b : Reg) (s : State) (hc3 : State.Canon s) :
    Keeps (execPrgt d a b s) := by
  unfold execPrgt
  repeat' first
    | with_reducible assumption
    | with_reducible apply keeps_next
    | with_reducible apply keeps_fault
    | with_reducible apply doneG_canon

theorem execShl_canon (d : Reg) (a : Reg) (b : Reg) (s : State) (hc3 : State.Canon s) :
    Keeps (execShl d a b s) := by
  unfold execShl
  repeat' first
    | with_reducible assumption
    | with_reducible apply keeps_next
    | with_reducible apply keeps_fault
    | with_reducible apply doneG_canon

theorem execAndi_canon (d : Reg) (a : Reg) (i : BitVec 15) (s : State) (hc3 : State.Canon s) :
    Keeps (execAndi d a i s) := by
  unfold execAndi
  repeat' first
    | with_reducible assumption
    | with_reducible apply keeps_next
    | with_reducible apply keeps_fault
    | with_reducible apply doneG_canon

theorem State.fitWatches_canon (s : State) (before : Vector Word 4) (hc0 : State.Canon s) :
    State.Canon (State.fitWatches s before) := by
  unfold State.fitWatches
  repeat' first
    | with_reducible assumption
    | with_reducible apply foldl_canon
    | with_reducible apply State.mem_canon
    | with_reducible apply State.peers_canon
    | dsimp only
    | split
    | intro _

theorem State.tret_canon (s : State) (hc0 : State.Canon s) :
    State.Canon (State.tret s) := by
  unfold State.tret
  repeat' first
    | with_reducible assumption
    | with_reducible apply forfeit_canon
    | with_reducible apply State.mem_canon
    | with_reducible apply State.fitWatches_canon

theorem execTret_canon (s : State) (hc0 : State.Canon s) :
    Keeps (execTret s) := by
  unfold execTret
  repeat' first
    | with_reducible assumption
    | with_reducible apply keeps_next
    | with_reducible apply keeps_fault
    | with_reducible apply State.tret_canon
    | with_reducible apply trapNow_canon
    | with_reducible apply trapCode_canon
    | dsimp only
    | split

theorem execAcasR_canon (d : Reg) (a : Reg) (b : Reg) (z : AtomSize) (c : Reg) (s : State) (hc5 : State.Canon s) :
    Keeps (execAcasR d a b z c s) := by
  unfold execAcasR
  repeat' first
    | with_reducible assumption
    | with_reducible apply keeps_next
    | with_reducible apply keeps_fault
    | with_reducible apply returnAtom_canon

theorem execLui_canon (d : Reg) (i : BitVec 20) (s : State) (hc2 : State.Canon s) :
    Keeps (execLui d i s) := by
  unfold execLui
  repeat' first
    | with_reducible assumption
    | with_reducible apply keeps_next
    | with_reducible apply keeps_fault
    | with_reducible apply doneG_canon

theorem execSwin_canon (_q : CmdQual) (win : BitVec 4) (slot : BitVec 3) (obj : BitVec 48) (ntf : BitVec 48) (s : State) (hc5 : State.Canon s) :
    Keeps (execSwin _q win slot obj ntf s) := by
  unfold execSwin
  repeat' first
    | with_reducible assumption
    | with_reducible apply keeps_next
    | with_reducible apply keeps_fault
    | with_reducible apply State.refuse_canon
    | with_reducible apply State.askWords_canon
    | with_reducible apply refused_canon
    | with_reducible apply State.updCtx_canon
    | dsimp only
    | split

theorem execSwinU_canon (_q : CmdQual) (win : BitVec 4) (slot : BitVec 3) (s : State) (hc3 : State.Canon s) :
    Keeps (execSwinU _q win slot s) := by
  unfold execSwinU
  repeat' first
    | with_reducible assumption
    | with_reducible apply keeps_next
    | with_reducible apply keeps_fault
    | with_reducible apply State.updCtx_canon

theorem execPresRetry_canon (site : Fin 1024) (port : Fin 4) (s : State) (hc2 : State.Canon s) :
    Keeps (execPresRetry site port s) := by
  unfold execPresRetry
  repeat' first
    | with_reducible assumption
    | with_reducible apply keeps_next
    | with_reducible apply keeps_fault
    | with_reducible apply State.portRetry_canon

theorem execInvar_canon (r : RouterFields) (s : State) (hc1 : State.Canon s) :
    Keeps (execInvar r s) := by
  unfold execInvar
  repeat' first
    | with_reducible assumption
    | with_reducible apply keeps_next
    | with_reducible apply keeps_fault
    | with_reducible apply Routing.done_canon
    | with_reducible apply withRouter_canon
    | with_reducible apply withDecision_canon
    | with_reducible apply Routing.send_canon
    | with_reducible apply Routing.upd_canon
    | with_reducible apply Routing.take_canon
    | dsimp only
    | split
    | intro _

theorem execHnew_canon (d : Reg) (a : Reg) (s : State) (hc2 : State.Canon s) :
    Keeps (execHnew d a s) := by
  unfold execHnew
  repeat' first
    | with_reducible assumption
    | with_reducible apply keeps_next
    | with_reducible apply keeps_fault
    | with_reducible apply askController_canon

theorem execAddi_canon (d : Reg) (a : Reg) (i : BitVec 15) (s : State) (hc3 : State.Canon s) :
    Keeps (execAddi d a i s) := by
  unfold execAddi
  repeat' first
    | with_reducible assumption
    | with_reducible apply keeps_next
    | with_reducible apply keeps_fault
    | with_reducible apply doneG_canon

theorem execPeks_canon (d : Reg) (a : Reg) (s : State) (hc2 : State.Canon s) :
    Keeps (execPeks d a s) := by
  unfold execPeks
  repeat' first
    | with_reducible assumption
    | with_reducible apply keeps_next
    | with_reducible apply keeps_fault
    | with_reducible apply State.acquire_canon
    | with_reducible apply acquiring_canon
    | with_reducible apply ringStep_canon
    | with_reducible apply forfeit_canon
    | with_reducible apply State.setG_canon
    | with_reducible apply doneG_canon
    | with_reducible apply State.advance_canon
    | dsimp only
    | split
    | intro _

theorem execPtag_canon (d : Reg) (a : Reg) (b : Reg) (s : State) (hc3 : State.Canon s) :
    Keeps (execPtag d a b s) := by
  unfold execPtag
  repeat' first
    | with_reducible assumption
    | with_reducible apply keeps_next
    | with_reducible apply keeps_fault
    | with_reducible apply doneG_canon

theorem execSupd_canon (_q : CmdQual) (o : DataOps) (s : State) (hc2 : State.Canon s) :
    Keeps (execSupd _q o s) := by
  unfold execSupd
  repeat' first
    | with_reducible assumption
    | with_reducible apply keeps_next
    | with_reducible apply keeps_fault
    | with_reducible apply enqueueData_canon

theorem execJ_canon (o : BitVec 25) (s : State) (hc1 : State.Canon s) :
    Keeps (execJ o s) := by
  unfold execJ
  repeat' first
    | with_reducible assumption
    | with_reducible apply keeps_next
    | with_reducible apply keeps_fault
    | with_reducible apply State.goto_canon

theorem execSgth_canon (_q : CmdQual) (o : DataOps) (s : State) (hc2 : State.Canon s) :
    Keeps (execSgth _q o s) := by
  unfold execSgth
  repeat' first
    | with_reducible assumption
    | with_reducible apply keeps_next
    | with_reducible apply keeps_fault
    | with_reducible apply enqueueData_canon

theorem execNshl_canon (n : NodeFields) (s : State) (hc1 : State.Canon s) :
    Keeps (execNshl n s) := by
  unfold execNshl
  repeat' first
    | with_reducible assumption
    | with_reducible apply keeps_next
    | with_reducible apply keeps_fault
    | with_reducible apply elementwise_canon

theorem execNacc_canon (n : NodeFields) (s : State) (hc1 : State.Canon s) :
    Keeps (execNacc n s) := by
  unfold execNacc
  repeat' first
    | with_reducible assumption
    | with_reducible apply keeps_next
    | with_reducible apply keeps_fault
    | with_reducible apply Firing.send_canon
    | with_reducible apply fire_canon
    | with_reducible apply Firing.counted_canon
    | with_reducible apply Firing.done_canon
    | with_reducible apply Firing.updNode_canon
    | with_reducible apply Firing.flags_canon
    | with_reducible apply Firing.takeAll_canon
    | with_reducible apply Firing.sendHeader_canon
    | dsimp only
    | split
    | intro _

theorem execSub_canon (d : Reg) (a : Reg) (b : Reg) (s : State) (hc3 : State.Canon s) :
    Keeps (execSub d a b s) := by
  unfold execSub
  repeat' first
    | with_reducible assumption
    | with_reducible apply keeps_next
    | with_reducible apply keeps_fault
    | with_reducible apply doneG_canon

theorem execGate_canon (r : RouterFields) (s : State) (hc1 : State.Canon s) :
    Keeps (execGate r s) := by
  unfold execGate
  repeat' first
    | with_reducible assumption
    | with_reducible apply keeps_next
    | with_reducible apply keeps_fault
    | with_reducible apply decided_canon

theorem execScfg_canon (_q : CmdQual) (img : BitVec 46) (rpt : BitVec 48) (slot : BitVec 3) (s : State) (hc4 : State.Canon s) :
    Keeps (execScfg _q img rpt slot s) := by
  unfold execScfg
  repeat' first
    | with_reducible assumption
    | with_reducible apply keeps_next
    | with_reducible apply keeps_fault
    | with_reducible apply State.setReg_canon
    | with_reducible apply State.engineGranules_canon
    | with_reducible apply State.askWords_canon
    | with_reducible apply State.stopGraph_canon
    | with_reducible apply refused_canon
    | with_reducible apply State.updCtx_canon
    | dsimp only
    | split

theorem State.landDoor_canon (s : State) (i : ℕ) (x : Inst) (d : ℕ) (p : Ticket) (r : ℕ) (n : Fin 1024) (k : Fin 16) (hc0 : State.Canon s) :
    State.Canon (State.landDoor s i x d p r n k) := by
  unfold State.landDoor
  repeat' first
    | with_reducible assumption
    | with_reducible apply State.setInst_canon
    | with_reducible apply State.settleIn_canon
    | with_reducible apply State.updCtx_canon

theorem execDoorThreadLand_canon (i : ℕ) (door : ℕ) (s : State) (hc2 : State.Canon s) :
    Keeps (execDoorThreadLand i door s) := by
  unfold execDoorThreadLand
  repeat' first
    | with_reducible assumption
    | with_reducible apply keeps_next
    | with_reducible apply keeps_fault
    | with_reducible apply optCanon_some
    | with_reducible exact optCanon_none
    | with_reducible apply optCanon_map
    | with_reducible apply optCanon_getD
    | with_reducible apply State.landSaved_canon
    | with_reducible apply State.askWake_canon
    | with_reducible apply State.landDoor_canon
    | with_reducible refine canon_of_some (by assumption) ?_
    | dsimp only
    | split

theorem execClz_canon (d : Reg) (a : Reg) (s : State) (hc2 : State.Canon s) :
    Keeps (execClz d a s) := by
  unfold execClz
  repeat' first
    | with_reducible assumption
    | with_reducible apply keeps_next
    | with_reducible apply keeps_fault
    | with_reducible apply doneG_canon

theorem execNxor_canon (n : NodeFields) (s : State) (hc1 : State.Canon s) :
    Keeps (execNxor n s) := by
  unfold execNxor
  repeat' first
    | with_reducible assumption
    | with_reducible apply keeps_next
    | with_reducible apply keeps_fault
    | with_reducible apply elementwise_canon

theorem execSred_canon (_q : CmdQual) (o : DataOps) (s : State) (hc2 : State.Canon s) :
    Keeps (execSred _q o s) := by
  unfold execSred
  repeat' first
    | with_reducible assumption
    | with_reducible apply keeps_next
    | with_reducible apply keeps_fault
    | with_reducible apply enqueueData_canon

theorem execOri_canon (d : Reg) (a : Reg) (i : BitVec 15) (s : State) (hc3 : State.Canon s) :
    Keeps (execOri d a i s) := by
  unfold execOri
  repeat' first
    | with_reducible assumption
    | with_reducible apply keeps_next
    | with_reducible apply keeps_fault
    | with_reducible apply doneG_canon

theorem State.noteWindow_canon (s : State) (c : Fin 16) (pa : ℕ) (w0 : Word) (hc0 : State.Canon s) :
    State.Canon (State.noteWindow s c pa w0) := by
  unfold State.noteWindow
  repeat' first
    | with_reducible assumption
    | with_reducible apply State.updCtx_canon

theorem State.openWindows_canon (s : State) (c : Fin 16) (slot : ℕ) (hc0 : State.Canon s) :
    State.Canon (State.openWindows s c slot) := by
  unfold State.openWindows
  repeat' first
    | with_reducible assumption
    | with_reducible apply foldl_canon
    | with_reducible apply foldl_canon_pair
    | with_reducible apply State.engineGranules_canon
    | with_reducible apply State.message_canon
    | with_reducible apply State.seqRecord_canon
    | with_reducible apply State.updCtx_canon
    | with_reducible apply State.noteWindow_canon
    | with_reducible refine canon_of_pair (by assumption) ?_
    | dsimp only
    | split
    | intro _

theorem State.updInst_canon (s : State) (i : ℕ) (f : Inst → Inst) (hc0 : State.Canon s) :
    State.Canon (State.updInst s i f) := by
  unfold State.updInst
  repeat' first
    | with_reducible assumption
    | with_reducible apply State.setInst_canon
    | dsimp only
    | split

theorem State.notePassed_canon (s : State) (i : ℕ) (hc0 : State.Canon s) :
    State.Canon (State.notePassed s i) := by
  unfold State.notePassed
  repeat' first
    | with_reducible assumption
    | with_reducible apply State.openWindows_canon
    | with_reducible apply State.updInst_canon
    | dsimp only
    | split

theorem State.passBoundary_canon (s : State) (i : ℕ) (hc0 : State.Canon s) :
    State.Canon (State.passBoundary s i) := by
  unfold State.passBoundary
  repeat' first
    | with_reducible assumption
    | with_reducible apply foldl_canon
    | with_reducible apply State.adoptTables_canon
    | with_reducible apply State.carryOut_canon
    | with_reducible apply State.ownCleanAll_canon
    | with_reducible apply State.updGraph_canon
    | with_reducible apply State.notePassed_canon
    | with_reducible apply State.updInst_canon
    | dsimp only
    | split

theorem execSegmentBoundary_canon (i : ℕ) (s : State) (hc1 : State.Canon s) :
    Keeps (execSegmentBoundary i s) := by
  unfold execSegmentBoundary
  repeat' first
    | with_reducible assumption
    | with_reducible apply keeps_next
    | with_reducible apply keeps_fault
    | with_reducible apply State.carryOut_canon
    | with_reducible apply State.passBoundary_canon
    | with_reducible apply State.ownCleanAll_canon
    | dsimp only
    | split

theorem execNand_canon (n : NodeFields) (s : State) (hc1 : State.Canon s) :
    Keeps (execNand n s) := by
  unfold execNand
  repeat' first
    | with_reducible assumption
    | with_reducible apply keeps_next
    | with_reducible apply keeps_fault
    | with_reducible apply elementwise_canon

theorem execBars_canon (d : Reg) (a : Reg) (s : State) (hc2 : State.Canon s) :
    Keeps (execBars d a s) := by
  unfold execBars
  repeat' first
    | with_reducible assumption
    | with_reducible apply keeps_next
    | with_reducible apply keeps_fault
    | with_reducible apply forfeit_canon
    | with_reducible apply State.setG_canon
    | with_reducible apply State.advance_canon

theorem execAmax_canon (a : Reg) (b : Reg) (z : AtomSize) (s : State) (hc3 : State.Canon s) :
    Keeps (execAmax a b z s) := by
  unfold execAmax
  repeat' first
    | with_reducible assumption
    | with_reducible apply keeps_next
    | with_reducible apply keeps_fault
    | with_reducible apply postAtom_canon

theorem execAmin_canon (a : Reg) (b : Reg) (z : AtomSize) (s : State) (hc3 : State.Canon s) :
    Keeps (execAmin a b z s) := by
  unfold execAmin
  repeat' first
    | with_reducible assumption
    | with_reducible apply keeps_next
    | with_reducible apply keeps_fault
    | with_reducible apply postAtom_canon

theorem execSplcU_canon (_q : CmdQual) (_p : Bool) (slot : BitVec 3) (queue : BitVec 6) (s : State) (hc4 : State.Canon s) :
    Keeps (execSplcU _q _p slot queue s) := by
  unfold execSplcU
  repeat' first
    | with_reducible assumption
    | with_reducible apply keeps_next
    | with_reducible apply keeps_fault
    | with_reducible apply refused_canon
    | with_reducible apply State.releaseEach_canon
    | dsimp only
    | split

theorem execSmov_canon (_q : CmdQual) (slot : BitVec 3) (inst : BitVec 10) (lx : BitVec 5) (ly : BitVec 5) (any : Bool) (s : State) (hc6 : State.Canon s) :
    Keeps (execSmov _q slot inst lx ly any s) := by
  unfold execSmov
  repeat' first
    | with_reducible assumption
    | with_reducible apply keeps_next
    | with_reducible apply keeps_fault
    | with_reducible apply State.setInst_canon
    | with_reducible apply State.request_canon
    | with_reducible apply refused_canon
    | dsimp only
    | split

theorem execCseq_canon (r : RouterFields) (s : State) (hc1 : State.Canon s) :
    Keeps (execCseq r s) := by
  unfold execCseq
  repeat' first
    | with_reducible assumption
    | with_reducible apply keeps_next
    | with_reducible apply keeps_fault
    | with_reducible apply takeEnable_canon
    | with_reducible apply withRouter_canon
    | with_reducible apply takeDone_canon
    | with_reducible apply sendEnable_canon
    | with_reducible apply sendDone_canon
    | dsimp only
    | split
    | intro _

theorem execLandingRequestArrive_canon (k : ℕ) (s : State) (hc1 : State.Canon s) :
    Keeps (execLandingRequestArrive k s) := by
  unfold execLandingRequestArrive
  repeat' first
    | with_reducible assumption
    | with_reducible apply keeps_next
    | with_reducible apply keeps_fault
    | with_reducible apply optCanon_some
    | with_reducible exact optCanon_none
    | with_reducible apply optCanon_map
    | with_reducible apply State.post_canon
    | with_reducible apply State.askWake_canon
    | with_reducible apply State.mem_canon
    | with_reducible apply State.peers_canon
    | with_reducible apply State.setReserve_canon
    | with_reducible refine canon_of_pair (by assumption) ?_
    | with_reducible refine canon_of_some (by assumption) ?_
    | dsimp only
    | split

theorem execFsqrt_canon (t : FType) (d : Reg) (a : Reg) (r : RmField) (s : State) (hc4 : State.Canon s) :
    Keeps (execFsqrt t d a r s) := by
  unfold execFsqrt
  repeat' first
    | with_reducible assumption
    | with_reducible apply keeps_next
    | with_reducible apply keeps_fault
    | with_reducible apply doneFloat_canon

theorem State.makeRanges_canon (s : State) (c : Fin 16) (slot : ℕ) (total : ℕ) (hc0 : State.Canon s) :
    State.Canon (State.makeRanges s c slot total) := by
  unfold State.makeRanges
  repeat' first
    | with_reducible assumption
    | with_reducible apply foldl_canon
    | with_reducible apply State.updInst_canon
    | dsimp only
    | split
    | intro _

theorem execSseg_canon (_q : CmdQual) (last : Bool) (slot : BitVec 3) (tiles : BitVec 32) (s : State) (hc4 : State.Canon s) :
    Keeps (execSseg _q last slot tiles s) := by
  unfold execSseg
  repeat' first
    | with_reducible assumption
    | with_reducible apply keeps_next
    | with_reducible apply keeps_fault
    | with_reducible apply foldl_canon
    | with_reducible apply State.makeRanges_canon
    | with_reducible apply State.passBoundary_canon
    | with_reducible apply refused_canon
    | with_reducible apply State.updCtx_canon
    | with_reducible apply State.updGraph_canon
    | with_reducible apply State.notePassed_canon
    | with_reducible apply State.updInst_canon
    | dsimp only
    | split
    | intro _

theorem execSbndT_canon (_q : CmdQual) (slot : BitVec 3) (inst : BitVec 10) (page : BitVec 10) (port : BitVec 2) (tag : BitVec 4) (s : State) (hc6 : State.Canon s) :
    Keeps (execSbndT _q slot inst page port tag s) := by
  unfold execSbndT
  repeat' first
    | with_reducible assumption
    | with_reducible apply keeps_next
    | with_reducible apply keeps_fault
    | with_reducible apply State.setInst_canon
    | with_reducible apply refused_canon
    | with_reducible apply onInsts_canon
    | dsimp only
    | split
    | intro _

theorem execInstanceDisplace_canon (i : ℕ) (s : State) (hc1 : State.Canon s) :
    Keeps (execInstanceDisplace i s) := by
  unfold execInstanceDisplace
  repeat' first
    | with_reducible assumption
    | with_reducible apply keeps_next
    | with_reducible apply keeps_fault
    | with_reducible apply State.request_canon
    | dsimp only
    | split

theorem execJalr_canon (d : Reg) (a : Reg) (i : BitVec 15) (s : State) (hc3 : State.Canon s) :
    Keeps (execJalr d a i s) := by
  unfold execJalr
  repeat' first
    | with_reducible assumption
    | with_reducible apply keeps_next
    | with_reducible apply keeps_fault
    | with_reducible apply State.setG_canon
    | with_reducible apply trapWith_canon
    | with_reducible apply State.goto_canon
    | dsimp only
    | split

theorem execTrap_canon (c : BitVec 11) (s : State) (hc1 : State.Canon s) :
    Keeps (execTrap c s) := by
  unfold execTrap
  repeat' first
    | with_reducible assumption
    | with_reducible apply keeps_next
    | with_reducible apply keeps_fault
    | with_reducible apply trapCode_canon

theorem execMvgf_canon (t : FType) (d : Reg) (a : Reg) (s : State) (hc3 : State.Canon s) :
    Keeps (execMvgf t d a s) := by
  unfold execMvgf
  repeat' first
    | with_reducible assumption
    | with_reducible apply keeps_next
    | with_reducible apply keeps_fault
    | with_reducible apply doneFloat_canon

theorem State.nodeFlags_canon (s : State) (i : ℕ) (page : ℕ) (fl : Flags) (hc0 : State.Canon s) :
    State.Canon (State.nodeFlags s i page fl) := by
  unfold State.nodeFlags
  repeat' first
    | with_reducible assumption
    | with_reducible apply State.pageFlags_canon
    | with_reducible apply State.setInst_canon
    | dsimp only
    | split

theorem State.tableStep_canon (s : State) (p : Place) (i : ℕ) (hc0 : State.Canon s) :
    State.Canon (State.tableStep s p i) := by
  unfold State.tableStep
  repeat' first
    | with_reducible assumption
    | with_reducible apply optCanon_some
    | with_reducible exact optCanon_none
    | with_reducible apply exCanonL_ok
    | with_reducible exact exCanonL_error
    | with_reducible apply optCanon_map
    | with_reducible apply State.mem_canon
    | with_reducible apply State.peers_canon
    | with_reducible apply State.tableTouch_canon
    | with_reducible apply State.focus_canon
    | with_reducible apply State.tableGranule_canon
    | with_reducible refine canon_of_some (by assumption) ?_
    | with_reducible refine canon_of_okL (by assumption) ?_
    | dsimp only
    | split
    | intro _
    | dsimp only [State.Canon]

theorem State.memAt_canon (s : State) (pa : ℕ) (hc0 : State.Canon s) :
    Mem.wf (State.memAt s pa) := by
  unfold State.memAt
  repeat' first
    | with_reducible assumption
    | with_reducible apply Mem.wf_setByte
    | with_reducible apply Mem.wf_setTag
    | with_reducible apply Mem.wf_setFull
    | with_reducible apply Mem.wf_setPoison
    | with_reducible apply Mem.wf_write
    | with_reducible exact canon_mem (by assumption)
    | with_reducible exact canon_peers (by assumption)
    | with_reducible apply State.mem_canon
    | with_reducible apply State.peers_canon
    | dsimp only
    | split

theorem State.release_canon (s : State) (hc0 : State.Canon s) :
    State.Canon (State.release s) := by
  unfold State.release
  repeat' first
    | with_reducible assumption
    | with_reducible apply State.releaseTo_canon

theorem State.deliverTo_canon (s : State) (t : Xfer) (side : Side) (f : Flit) (hc0 : State.Canon s) :
    OptCanon (State.deliverTo s t side f) := by
  unfold State.deliverTo
  repeat' first
    | with_reducible assumption
    | with_reducible apply optCanon_some
    | with_reducible exact optCanon_none
    | with_reducible apply optCanon_map
    | with_reducible apply State.updProg_canon
    | with_reducible apply State.deliverEp_canon
    | with_reducible refine canon_of_some (by assumption) ?_
    | dsimp only
    | split

theorem State.takeFrom_canon (s : State) (t : Xfer) (side : Side) (hc0 : State.Canon s) :
    OptCanonR (State.takeFrom s t side) := by
  unfold State.takeFrom
  repeat' first
    | with_reducible assumption
    | with_reducible apply optCanonR_some
    | with_reducible exact optCanonR_none
    | with_reducible apply State.takeEp_canon
    | with_reducible apply State.updProg_canon
    | with_reducible refine canon_of_someR (by assumption) ?_
    | dsimp only
    | split

theorem State.xferHeaderBad_canon (s : State) (pos : ℕ) (t : Xfer) (elem : ℕ) (tile : ℕ) (hc0 : State.Canon s) :
    State.Canon (State.xferHeaderBad s pos t elem tile) := by
  unfold State.xferHeaderBad
  repeat' first
    | with_reducible assumption
    | with_reducible apply State.asyncRecord_canon

theorem Moved.andThen_canon (m : Moved) (f : State → State) (hc0 : MovedCanon (m)) (hc1 : ∀ y0, State.Canon y0 → (State.Canon (f y0))) :
    MovedCanon (Moved.andThen m f) := by
  cases m with
  | yes s => exact hc1 _ hc0
  | no s => exact hc0

theorem State.copyOut_canon (s : State) (pos : ℕ) (t : Xfer) (src : Side) (dst : Side) (ety : ℕ) (tslot : ℕ) (scale : ℤ) (dims : List (ℕ × ℤ × ℤ)) (final : ℕ) (hc0 : State.Canon s) :
    MovedCanon (State.copyOut s pos t src dst ety tslot scale dims final) := by
  unfold State.copyOut
  repeat' first
    | with_reducible assumption
    | with_reducible apply optCanon_some
    | with_reducible exact optCanon_none
    | with_reducible apply movedCanon_yes
    | with_reducible apply movedCanon_no
    | with_reducible apply tryCanon_ok
    | with_reducible apply tryCanon_spilled
    | with_reducible apply tryCanon_wait
    | with_reducible apply optCanon_map
    | with_reducible apply State.deliverTo_canon
    | with_reducible apply State.elemRead_canon
    | with_reducible apply State.updXfer_canon
    | with_reducible apply State.tryElem_canon
    | with_reducible refine canon_of_pair (by assumption) ?_
    | with_reducible refine canon_of_some (by assumption) ?_
    | with_reducible refine canon_of_yes (by assumption) ?_
    | with_reducible refine canon_of_no (by assumption) ?_
    | with_reducible refine canon_of_spilled (by assumption) ?_
    | with_reducible refine canon_of_wait (by assumption) ?_
    | dsimp only
    | split

theorem State.copyTake_canon (s : State) (pos : ℕ) (t : Xfer) (ety : ℕ) (dims : List (ℕ × ℤ × ℤ)) (f : Flit) (hc0 : State.Canon s) :
    State.Canon (State.copyTake s pos t ety dims f) := by
  unfold State.copyTake
  repeat' first
    | with_reducible assumption
    | with_reducible apply State.updXfer_canon
    | with_reducible apply State.xferHeaderBad_canon
    | dsimp only
    | split

theorem State.copyIn_canon (s : State) (pos : ℕ) (t : Xfer) (src : Side) (dst : Side) (ety : ℕ) (dims : List (ℕ × ℤ × ℤ)) (final : ℕ) (hc0 : State.Canon s) :
    MovedCanon (State.copyIn s pos t src dst ety dims final) := by
  unfold State.copyIn
  repeat' first
    | with_reducible assumption
    | with_reducible apply optCanonR_some
    | with_reducible exact optCanonR_none
    | with_reducible apply movedCanon_yes
    | with_reducible apply movedCanon_no
    | with_reducible apply State.copyTake_canon
    | with_reducible apply State.takeFrom_canon
    | with_reducible apply State.updXfer_canon
    | with_reducible apply Moved.andThen_canon
    | with_reducible apply State.putElem_canon
    | with_reducible refine canon_of_someR (by assumption) ?_
    | with_reducible refine canon_of_yes (by assumption) ?_
    | with_reducible refine canon_of_no (by assumption) ?_
    | dsimp only
    | split
    | intro _

theorem State.memoryMove_canon (s : State) (pos : ℕ) (t : Xfer) (stop : ℕ) (at_ : ℕ → Spill) (early : Bool) (hc0 : State.Canon s) :
    MovedCanon (State.memoryMove s pos t stop at_ early) := by
  unfold State.memoryMove
  repeat' first
    | with_reducible assumption
    | with_reducible apply movedCanon_yes
    | with_reducible apply movedCanon_no
    | with_reducible apply tryCanon_ok
    | with_reducible apply tryCanon_spilled
    | with_reducible apply tryCanon_wait
    | with_reducible apply State.elemRead_canon
    | with_reducible apply State.moveElem_canon
    | with_reducible apply State.updXfer_canon
    | with_reducible apply Moved.andThen_canon
    | with_reducible apply State.tryElem_canon
    | with_reducible apply State.putElem_canon
    | with_reducible refine canon_of_pair (by assumption) ?_
    | with_reducible refine canon_of_yes (by assumption) ?_
    | with_reducible refine canon_of_no (by assumption) ?_
    | with_reducible refine canon_of_spilled (by assumption) ?_
    | with_reducible refine canon_of_wait (by assumption) ?_
    | dsimp only
    | split
    | intro _

theorem State.copyMove_canon (s : State) (pos : ℕ) (t : Xfer) (src : Side) (dst : Side) (ety : ℕ) (tslot : ℕ) (scale : ℤ) (dims : List (ℕ × ℤ × ℤ)) (early : Bool) (hc0 : State.Canon s) :
    MovedCanon (State.copyMove s pos t src dst ety tslot scale dims early) := by
  unfold State.copyMove
  repeat' first
    | with_reducible assumption
    | with_reducible apply movedCanon_yes
    | with_reducible apply movedCanon_no
    | with_reducible apply State.copyOut_canon
    | with_reducible apply State.memoryMove_canon
    | with_reducible apply State.updXfer_canon
    | with_reducible apply State.copyIn_canon
    | with_reducible refine canon_of_yes (by assumption) ?_
    | with_reducible refine canon_of_no (by assumption) ?_
    | dsimp only
    | split

theorem Work.go_canon (s : State) (z1 : Option Cursor) (hc0 : State.Canon s) :
    WorkCanon (Work.go s z1) := by
  unfold Work.go
  repeat' first
    | with_reducible assumption
    | with_reducible apply workCanon_stay
    | with_reducible apply workCanon_next
    | with_reducible apply workCanon_ended
    | with_reducible apply workCanon_park
    | with_reducible apply workCanon_hold
    | dsimp only
    | split

theorem Moved.step_canon (m : Moved) (c : Option Cursor) (hc0 : MovedCanon (m)) :
    WorkCanon (Moved.step m c) := by
  cases m with
  | yes s => exact Work.go_canon _ _ hc0
  | no s => exact hc0

theorem State.cursorRead_canon (s : State) (pos : ℕ) (t : Xfer) (c : Cursor) (rest : Option Cursor) (e : Spill) (k : State → Option Word → Work) (hc0 : State.Canon s) (hc6 : ∀ y0, State.Canon y0 → ∀ y1, (WorkCanon (k y0 y1))) :
    WorkCanon (State.cursorRead s pos t c rest e k) := by
  unfold State.cursorRead
  repeat' first
    | with_reducible assumption
    | with_reducible apply hc6
    | with_reducible apply tryCanon_ok
    | with_reducible apply tryCanon_spilled
    | with_reducible apply tryCanon_wait
    | with_reducible apply workCanon_stay
    | with_reducible apply workCanon_next
    | with_reducible apply workCanon_ended
    | with_reducible apply workCanon_park
    | with_reducible apply workCanon_hold
    | with_reducible apply State.elemRead_canon
    | with_reducible apply State.tryElem_canon
    | with_reducible refine canon_of_pair (by assumption) ?_
    | with_reducible refine canon_of_spilled (by assumption) ?_
    | with_reducible refine canon_of_wait (by assumption) ?_
    | dsimp only
    | split

theorem State.foundRow_canon (s : State) (pos : ℕ) (t : Xfer) (r : Rows) (c : Cursor) (x : ℤ) (row : RowAt) (hc0 : State.Canon s) :
    WorkCanon (State.foundRow s pos t r c x row) := by
  unfold State.foundRow
  repeat' first
    | with_reducible assumption
    | with_reducible apply workCanon_stay
    | with_reducible apply workCanon_next
    | with_reducible apply workCanon_ended
    | with_reducible apply workCanon_park
    | with_reducible apply workCanon_hold
    | with_reducible apply State.updXfer_canon
    | dsimp only
    | split

theorem State.resolveRow_canon (s : State) (pos : ℕ) (t : Xfer) (r : Rows) (c : Cursor) (x : ℤ) (hc0 : State.Canon s) :
    WorkCanon (State.resolveRow s pos t r c x) := by
  unfold State.resolveRow
  repeat' first
    | with_reducible assumption
    | with_reducible apply workCanon_stay
    | with_reducible apply workCanon_next
    | with_reducible apply workCanon_ended
    | with_reducible apply workCanon_park
    | with_reducible apply workCanon_hold
    | with_reducible apply State.cursorRead_canon
    | with_reducible apply State.foundRow_canon
    | dsimp only
    | split
    | intro _

theorem State.rowRead_canon (s : State) (pos : ℕ) (t : Xfer) (r : Rows) (c : Cursor) (row : RowAt) (early : Bool) (hc0 : State.Canon s) :
    WorkCanon (State.rowRead s pos t r c row early) := by
  unfold State.rowRead
  repeat' first
    | with_reducible assumption
    | with_reducible apply movedCanon_yes
    | with_reducible apply movedCanon_no
    | with_reducible apply tryCanon_ok
    | with_reducible apply tryCanon_spilled
    | with_reducible apply tryCanon_wait
    | with_reducible apply workCanon_stay
    | with_reducible apply workCanon_next
    | with_reducible apply workCanon_ended
    | with_reducible apply workCanon_park
    | with_reducible apply workCanon_hold
    | with_reducible apply State.elemRead_canon
    | with_reducible apply State.cursorRead_canon
    | with_reducible apply Work.go_canon
    | with_reducible apply State.moveElem_canon
    | with_reducible apply State.updXfer_canon
    | with_reducible apply State.tryElem_canon
    | with_reducible apply Moved.step_canon
    | with_reducible apply State.putElem_canon
    | with_reducible refine canon_of_pair (by assumption) ?_
    | with_reducible refine canon_of_yes (by assumption) ?_
    | with_reducible refine canon_of_no (by assumption) ?_
    | with_reducible refine canon_of_spilled (by assumption) ?_
    | with_reducible refine canon_of_wait (by assumption) ?_
    | dsimp only
    | split
    | intro _

theorem State.updateAt_canon (s : State) (pos : ℕ) (t : Xfer) (n : ℕ) (p : Word) (op : AtomOp) (size : ℕ) (operand : Word) (hc0 : State.Canon s) :
    MovedCanon (State.updateAt s pos t n p op size operand) := by
  unfold State.updateAt
  repeat' first
    | with_reducible assumption
    | with_reducible apply movedCanon_yes
    | with_reducible apply movedCanon_no
    | with_reducible apply State.tryUpdate_canon

theorem State.rowUpdate_canon (s : State) (pos : ℕ) (t : Xfer) (r : Rows) (c : Cursor) (row : RowAt) (v : Option Word) (hc0 : State.Canon s) :
    WorkCanon (State.rowUpdate s pos t r c row v) := by
  unfold State.rowUpdate
  repeat' first
    | with_reducible assumption
    | with_reducible apply movedCanon_yes
    | with_reducible apply movedCanon_no
    | with_reducible apply workCanon_stay
    | with_reducible apply workCanon_next
    | with_reducible apply workCanon_ended
    | with_reducible apply workCanon_park
    | with_reducible apply workCanon_hold
    | with_reducible apply State.updateAt_canon
    | with_reducible apply Work.go_canon
    | with_reducible apply State.logUpdate_canon
    | with_reducible apply Moved.step_canon
    | with_reducible refine canon_of_yes (by assumption) ?_
    | with_reducible refine canon_of_no (by assumption) ?_
    | dsimp only
    | split

theorem State.putRow_canon (s : State) (pos : ℕ) (t : Xfer) (r : Rows) (c : Cursor) (row : RowAt) (v : Option Word) (hc0 : State.Canon s) :
    WorkCanon (State.putRow s pos t r c row v) := by
  unfold State.putRow
  repeat' first
    | with_reducible assumption
    | with_reducible apply movedCanon_yes
    | with_reducible apply movedCanon_no
    | with_reducible apply workCanon_stay
    | with_reducible apply workCanon_next
    | with_reducible apply workCanon_ended
    | with_reducible apply workCanon_park
    | with_reducible apply workCanon_hold
    | with_reducible apply State.rowUpdate_canon
    | with_reducible apply Work.go_canon
    | with_reducible apply Moved.step_canon
    | with_reducible apply State.putElem_canon
    | with_reducible refine canon_of_yes (by assumption) ?_
    | with_reducible refine canon_of_no (by assumption) ?_
    | dsimp only
    | split

theorem State.rowWrite_canon (s : State) (pos : ℕ) (t : Xfer) (r : Rows) (c : Cursor) (row : RowAt) (early : Bool) (hc0 : State.Canon s) :
    WorkCanon (State.rowWrite s pos t r c row early) := by
  unfold State.rowWrite
  repeat' first
    | with_reducible assumption
    | with_reducible apply movedCanon_yes
    | with_reducible apply movedCanon_no
    | with_reducible apply workCanon_stay
    | with_reducible apply workCanon_next
    | with_reducible apply workCanon_ended
    | with_reducible apply workCanon_park
    | with_reducible apply workCanon_hold
    | with_reducible apply State.cursorRead_canon
    | with_reducible apply State.putRow_canon
    | with_reducible apply Work.go_canon
    | with_reducible apply State.moveElem_canon
    | with_reducible apply Moved.step_canon
    | with_reducible refine canon_of_yes (by assumption) ?_
    | with_reducible refine canon_of_no (by assumption) ?_
    | dsimp only
    | split
    | intro _

theorem State.work_canon (s : State) (pos : ℕ) (t : Xfer) (r : Rows) (c : Cursor) (early : Bool) (hc0 : State.Canon s) :
    WorkCanon (State.work s pos t r c early) := by
  unfold State.work
  repeat' first
    | with_reducible assumption
    | with_reducible apply workCanon_stay
    | with_reducible apply workCanon_next
    | with_reducible apply workCanon_ended
    | with_reducible apply workCanon_park
    | with_reducible apply workCanon_hold
    | with_reducible apply State.resolveRow_canon
    | with_reducible apply State.rowWrite_canon
    | with_reducible apply State.cursorRead_canon
    | with_reducible apply State.putRow_canon
    | with_reducible apply State.rowRead_canon
    | with_reducible apply State.foundRow_canon
    | dsimp only
    | split
    | intro _

theorem State.tileOver_canon (s : State) (pos : ℕ) (t : Xfer) (r : Rows) (hc0 : State.Canon s) :
    State.Canon (State.tileOver s pos t r) := by
  unfold State.tileOver
  repeat' first
    | with_reducible assumption
    | with_reducible apply State.updXfer_canon

theorem State.indexTake_canon (s : State) (pos : ℕ) (t : Xfer) (r : Rows) (f : Flit) (hc0 : State.Canon s) :
    State.Canon (State.indexTake s pos t r f) := by
  unfold State.indexTake
  repeat' first
    | with_reducible assumption
    | with_reducible apply State.updXfer_canon
    | with_reducible apply State.xferHeaderBad_canon
    | dsimp only
    | split

theorem State.dataTake_canon (s : State) (pos : ℕ) (t : Xfer) (r : Rows) (f : Flit) (hc0 : State.Canon s) :
    State.Canon (State.dataTake s pos t r f) := by
  unfold State.dataTake
  repeat' first
    | with_reducible assumption
    | with_reducible apply State.updXfer_canon
    | with_reducible apply State.xferHeaderBad_canon
    | dsimp only
    | split

theorem Work.settle_canon (pos : ℕ) (t : Xfer) (again : Bool) (z3 : Work) (hc3 : WorkCanon (z3)) :
    MovedCanon (Work.settle pos t again z3) := by
  cases z3 with
  | stay s => exact hc3
  | next s c => exact State.updXfer_canon _ _ _ _ hc3
  | ended s => exact State.updXfer_canon _ _ _ _ hc3
  | park s p r => exact State.updXfer_canon _ _ _ _ hc3
  | hold s p r => exact State.updXfer_canon _ _ _ _ hc3

theorem State.formRow_canon (s : State) (pos : ℕ) (t : Xfer) (r : Rows) (hc0 : State.Canon s) :
    OptCanon (State.formRow s pos t r) := by
  unfold State.formRow
  repeat' first
    | with_reducible assumption
    | with_reducible apply optCanon_some
    | with_reducible exact optCanon_none
    | with_reducible apply optCanon_map
    | with_reducible apply State.updXfer_canon
    | with_reducible refine canon_of_some (by assumption) ?_
    | dsimp only
    | split
    | intro _

theorem State.indexOut_canon (s : State) (pos : ℕ) (t : Xfer) (r : Rows) (hc0 : State.Canon s) :
    OptCanon (State.indexOut s pos t r) := by
  rw [State.indexOut]
  split
  · exact optCanon_mapS (State.deliverTo_canon _ _ _ _ hc0) fun x hx => State.updXfer_canon _ _ _ _ hx
  · exact optCanon_mapS (State.deliverTo_canon _ _ _ _ hc0) fun x hx => State.updXfer_canon _ _ _ _ hx
  · exact optCanon_none

theorem State.indexMove_canon (s : State) (pos : ℕ) (t : Xfer) (r : Rows) (early : Bool) (hc0 : State.Canon s) :
    MovedCanon (State.indexMove s pos t r early) := by
  unfold State.indexMove
  repeat' first
    | with_reducible assumption
    | with_reducible apply optCanon_some
    | with_reducible exact optCanon_none
    | with_reducible apply optCanonR_some
    | with_reducible exact optCanonR_none
    | with_reducible apply movedCanon_yes
    | with_reducible apply movedCanon_no
    | with_reducible apply workCanon_stay
    | with_reducible apply workCanon_next
    | with_reducible apply workCanon_ended
    | with_reducible apply workCanon_park
    | with_reducible apply workCanon_hold
    | with_reducible apply optCanon_map
    | with_reducible apply Work.settle_canon
    | with_reducible apply State.indexOut_canon
    | with_reducible apply State.tileOver_canon
    | with_reducible apply State.dataTake_canon
    | with_reducible apply State.formRow_canon
    | with_reducible apply State.indexTake_canon
    | with_reducible apply State.takeFrom_canon
    | with_reducible apply State.work_canon
    | with_reducible apply State.updXfer_canon
    | with_reducible refine canon_of_some (by assumption) ?_
    | with_reducible refine canon_of_someR (by assumption) ?_
    | with_reducible refine canon_of_yes (by assumption) ?_
    | with_reducible refine canon_of_no (by assumption) ?_
    | dsimp only
    | split

theorem State.migrateMove_canon (s : State) (pos : ℕ) (t : Xfer) (tbl : ℕ) (old : Word) (dst : Word) (len : ℕ) (hc0 : State.Canon s) :
    MovedCanon (State.migrateMove s pos t tbl old dst len) := by
  unfold State.migrateMove
  repeat' first
    | with_reducible assumption
    | with_reducible apply movedCanon_yes
    | with_reducible apply movedCanon_no
    | with_reducible apply tryCanon_ok
    | with_reducible apply tryCanon_spilled
    | with_reducible apply tryCanon_wait
    | with_reducible apply State.elemRead_canon
    | with_reducible apply State.elemWrite_canon
    | with_reducible apply State.updXfer_canon
    | with_reducible apply State.tryElem_canon
    | with_reducible refine canon_of_pair (by assumption) ?_
    | with_reducible refine canon_of_yes (by assumption) ?_
    | with_reducible refine canon_of_no (by assumption) ?_
    | with_reducible refine canon_of_spilled (by assumption) ?_
    | with_reducible refine canon_of_wait (by assumption) ?_
    | dsimp only
    | split

theorem State.reduceWork_canon (s : State) (pos : ℕ) (t : Xfer) (parts : List Participant) (root : Word) (ety : ℕ) (op : ℕ) (sat : Bool) (len : ℕ) (c : Cursor) (early : Bool) (hc0 : State.Canon s) :
    WorkCanon (State.reduceWork s pos t parts root ety op sat len c early) := by
  unfold State.reduceWork
  repeat' first
    | with_reducible assumption
    | with_reducible apply movedCanon_yes
    | with_reducible apply movedCanon_no
    | with_reducible apply workCanon_stay
    | with_reducible apply workCanon_next
    | with_reducible apply workCanon_ended
    | with_reducible apply workCanon_park
    | with_reducible apply workCanon_hold
    | with_reducible apply State.cursorRead_canon
    | with_reducible apply Moved.step_canon
    | with_reducible apply State.putElem_canon
    | with_reducible refine canon_of_yes (by assumption) ?_
    | with_reducible refine canon_of_no (by assumption) ?_
    | dsimp only
    | split
    | intro _

theorem State.reduceMove_canon (s : State) (pos : ℕ) (t : Xfer) (parts : List Participant) (root : Word) (ety : ℕ) (op : ℕ) (sat : Bool) (len : ℕ) (early : Bool) (hc0 : State.Canon s) :
    MovedCanon (State.reduceMove s pos t parts root ety op sat len early) := by
  unfold State.reduceMove
  repeat' first
    | with_reducible assumption
    | with_reducible apply movedCanon_yes
    | with_reducible apply movedCanon_no
    | with_reducible apply workCanon_stay
    | with_reducible apply workCanon_next
    | with_reducible apply workCanon_ended
    | with_reducible apply workCanon_park
    | with_reducible apply workCanon_hold
    | with_reducible apply Work.settle_canon
    | with_reducible apply State.reduceWork_canon
    | with_reducible apply State.updXfer_canon
    | with_reducible refine canon_of_yes (by assumption) ?_
    | with_reducible refine canon_of_no (by assumption) ?_
    | dsimp only
    | split

theorem State.collectMove_canon (s : State) (pos : ℕ) (t : Xfer) (parts : List Participant) (root : Word) (ety : ℕ) (kind : ℕ) (len : ℕ) (early : Bool) (hc0 : State.Canon s) :
    MovedCanon (State.collectMove s pos t parts root ety kind len early) := by
  unfold State.collectMove
  repeat' first
    | with_reducible assumption
    | with_reducible apply movedCanon_yes
    | with_reducible apply movedCanon_no
    | with_reducible apply State.memoryMove_canon

theorem State.drainMove_canon (s : State) (t : Xfer) (fmt : ℕ) (rm : ℕ) (tbl : ℕ) (scl : BitVec 8) (rows : Option (Vector AccRow 16)) (etgt : Word) (site : ℕ) (asl : ℕ) (ep : ℕ) (hc0 : State.Canon s) :
    MovedCanon (State.drainMove s t fmt rm tbl scl rows etgt site asl ep) := by
  unfold State.drainMove
  repeat' first
    | with_reducible assumption
    | with_reducible apply optCanon_some
    | with_reducible exact optCanon_none
    | with_reducible apply movedCanon_yes
    | with_reducible apply movedCanon_no
    | with_reducible apply optCanon_map
    | with_reducible apply State.deliverTo_canon
    | with_reducible apply State.pageFlags_canon
    | with_reducible apply State.endXfer_canon
    | with_reducible apply State.accPost_canon
    | with_reducible apply State.updXfer_canon
    | with_reducible refine canon_of_some (by assumption) ?_
    | with_reducible refine canon_of_yes (by assumption) ?_
    | with_reducible refine canon_of_no (by assumption) ?_
    | dsimp only
    | split

theorem State.xferStep_canon (s : State) (pos : ℕ) (t : Xfer) (early : Bool) (hc0 : State.Canon s) :
    MovedCanon (State.xferStep s pos t early) := by
  unfold State.xferStep
  repeat' first
    | with_reducible assumption
    | with_reducible apply movedCanon_yes
    | with_reducible apply movedCanon_no
    | with_reducible apply State.copyMove_canon
    | with_reducible apply State.drainMove_canon
    | with_reducible apply State.indexMove_canon
    | with_reducible apply State.migrateMove_canon
    | with_reducible apply State.reduceMove_canon
    | with_reducible apply State.collectMove_canon
    | with_reducible refine canon_of_yes (by assumption) ?_
    | with_reducible refine canon_of_no (by assumption) ?_
    | dsimp only
    | split

theorem State.moveXfer_canon (s : State) (pos : ℕ) (k : ℕ) (early : Bool) (hc0 : State.Canon s) :
    State.Canon (State.moveXfer s pos k early) := by
  unfold State.moveXfer
  repeat' first
    | with_reducible assumption
    | with_reducible apply movedCanon_yes
    | with_reducible apply movedCanon_no
    | with_reducible apply State.xferStep_canon
    | with_reducible refine canon_of_yes (by assumption) ?_
    | with_reducible refine canon_of_no (by assumption) ?_
    | dsimp only
    | split

theorem State.fetchFill_canon (s : State) (pa : ℕ) (hc0 : State.Canon s) :
    State.Canon (State.fetchFill s pa) := by
  unfold State.fetchFill
  repeat' first
    | with_reducible assumption
    | with_reducible apply State.fill_canon

theorem State.retransmit_canon (s : State) (port : Fin 48) (hc0 : State.Canon s) :
    State.Canon (State.retransmit s port) := by
  unfold State.retransmit
  repeat' first
    | with_reducible assumption
    | with_reducible apply State.setRegBits_canon

theorem State.saveHalted_canon (s : State) (hc0 : State.Canon s) :
    State.Canon (State.saveHalted s) := by
  unfold State.saveHalted
  repeat' first
    | with_reducible assumption
    | with_reducible apply State.saveTh_canon

theorem State.runTurn_canon (s : State) (hc0 : State.Canon s) :
    AgendaCanon (State.runTurn s) := by
  unfold State.runTurn
  repeat' first
    | with_reducible assumption
    | with_reducible apply keeps_next
    | with_reducible apply keeps_fault
    | with_reducible apply agendaCanon_answer
    | with_reducible apply agendaCanon_run
    | with_reducible apply State.takeInterrupt_canon
    | with_reducible apply inTrouble_canon
    | with_reducible apply State.saveHalted_canon
    | with_reducible apply State.fetchFill_canon
    | with_reducible apply State.takeWatch_canon
    | with_reducible apply State.takeOrphan_canon
    | with_reducible refine canon_of_run (by assumption) ?_
    | dsimp only
    | split

theorem State.ownTurn_canon (s : State) (hc0 : State.Canon s) :
    AgendaCanon (State.ownTurn s) := by
  unfold State.ownTurn
  repeat' first
    | with_reducible assumption
    | with_reducible apply keeps_next
    | with_reducible apply keeps_fault
    | with_reducible apply agendaCanon_answer
    | with_reducible apply agendaCanon_run
    | with_reducible apply State.takeInterrupt_canon
    | with_reducible apply State.runTurn_canon
    | with_reducible apply execImageWriteComplete_canon
    | with_reducible apply State.takeOrphan_canon
    | with_reducible apply waitTurn_canon
    | with_reducible refine canon_of_run (by assumption) ?_
    | dsimp only
    | split

theorem State.coreCycle_canon (s : State) (n : Fin 1024) (hc0 : State.Canon s) :
    AgendaCanon (State.coreCycle s n) := by
  unfold State.coreCycle
  repeat' first
    | with_reducible assumption
    | with_reducible apply keeps_next
    | with_reducible apply keeps_fault
    | with_reducible apply optCanon_some
    | with_reducible exact optCanon_none
    | with_reducible apply agendaCanon_answer
    | with_reducible apply agendaCanon_run
    | with_reducible apply optCanon_map
    | with_reducible apply State.setSite_canon
    | with_reducible apply State.ownTurn_canon
    | with_reducible apply State.focus_canon
    | with_reducible refine canon_of_some (by assumption) ?_
    | with_reducible refine canon_of_run (by assumption) ?_
    | dsimp only
    | split

theorem State.nextTurn_canon (s : State) (hc0 : State.Canon s) :
    AgendaCanon (State.nextTurn s) := by
  unfold State.nextTurn
  repeat' first
    | with_reducible assumption
    | with_reducible apply keeps_next
    | with_reducible apply keeps_fault
    | with_reducible apply agendaCanon_answer
    | with_reducible apply agendaCanon_run
    | with_reducible apply State.ownTurn_canon
    | with_reducible apply State.coreCycle_canon
    | with_reducible refine canon_of_run (by assumption) ?_
    | dsimp only
    | split

theorem State.serveRoute_canon (s : State) (pa : ℕ) (tag : BitVec 4) (r : RouteReq) (hc0 : State.Canon s) :
    State.Canon (State.serveRoute s pa tag r) := by
  have hm : ∀ f : Mem → Mem, (∀ m, m.wf → (f m).wf) → (s.updMem pa f).Canon := fun f hf => State.updMem_canon _ _ _ hc0 hf
  cases r with
  | tag t => exact State.updMem_canon _ _ _ (State.settleTag_canon _ _ hc0) fun m h => Mem.wf_setTag h _ _
  | read => exact canon_ite (State.touchLlc_canon _ _ _ hc0) hc0
  | full c => exact canon_ite (canon_ite (State.serveRemote_canon _ _ _ _ hc0) (canon_ite hc0 hc0)) hc0
  | withdraw c => exact State.unrecord_canon _ _ _ _ hc0
  | store n v fills =>
    have h1 := State.writeHome_canon s 0 0 pa n v hc0
    exact canon_ite (canon_ite (State.makeFull_canon _ _ h1) h1) hc0
  | atom op z b x => exact canon_ite (State.applyAtom_canon _ _ _ _ _ _ _ _ hc0) hc0

theorem State.routeIn_canon (s : State) (o : ℕ) (tag : BitVec 4) (r : RouteReq) (hc0 : State.Canon s) :
    State.Canon (State.routeIn s o tag r) := by
  unfold State.routeIn
  repeat' first
    | with_reducible assumption
    | with_reducible apply State.serveRoute_canon
    | dsimp only
    | split

theorem State.startCommand_canon (s : State) (c : Fin 16) (id : BitVec 32) (hc0 : State.Canon s) :
    AgendaCanon (State.startCommand s c id) := by
  unfold State.startCommand
  repeat' first
    | with_reducible assumption
    | with_reducible apply keeps_next
    | with_reducible apply keeps_fault
    | with_reducible apply agendaCanon_answer
    | with_reducible apply agendaCanon_run
    | with_reducible apply State.mem_canon
    | with_reducible apply State.peers_canon
    | with_reducible apply refused_canon
    | with_reducible apply State.updCtx_canon
    | with_reducible refine canon_of_run (by assumption) ?_
    | dsimp only
    | split

theorem State.letGo_canon (s : State) (hc0 : State.Canon s) :
    State.Canon (State.letGo s) := by
  unfold State.letGo
  repeat' first
    | with_reducible assumption

theorem State.elapse_canon (s : State) (f : Fin 8) (ns : ℕ) (hc0 : State.Canon s) :
    State.Canon (State.elapse s f ns) := by
  unfold State.elapse
  repeat' first
    | with_reducible assumption
    | with_reducible apply State.mem_canon
    | with_reducible apply State.peers_canon
    | with_reducible apply State.noteDrains_canon
    | with_reducible apply State.letGo_canon
    | dsimp only
    | split

theorem State.poisonLine_canon (s : State) (line : ℕ) (ver : Option (Fin 16 × Handle)) (hc0 : State.Canon s) :
    State.Canon (State.poisonLine s line ver) := by
  unfold State.poisonLine
  repeat' first
    | with_reducible assumption
    | with_reducible apply Mem.wf_setByte
    | with_reducible apply Mem.wf_setTag
    | with_reducible apply Mem.wf_setFull
    | with_reducible apply Mem.wf_setPoison
    | with_reducible apply Mem.wf_write
    | with_reducible exact canon_mem (by assumption)
    | with_reducible exact canon_peers (by assumption)
    | with_reducible apply foldl_canon
    | with_reducible apply foldl_wf
    | with_reducible apply State.mem_canon
    | with_reducible apply State.peers_canon
    | with_reducible apply Mem.setPoison_canon
    | dsimp only
    | split
    | intro _
    | dsimp only [State.Canon]
    | with_reducible refine And.intro ?_ ?_

theorem State.advanceRef_canon (s : State) (ns : ℕ) (hc0 : State.Canon s) :
    State.Canon (State.advanceRef s ns) := by
  unfold State.advanceRef
  repeat' first
    | with_reducible assumption
    | with_reducible apply State.mem_canon
    | with_reducible apply State.peers_canon
    | with_reducible apply State.letGo_canon

theorem State.turnAt_canon (s : State) (p : Place) (hc0 : State.Canon s) :
    AgendaCanon (State.turnAt s p) := by
  unfold State.turnAt
  repeat' first
    | with_reducible assumption
    | with_reducible apply keeps_next
    | with_reducible apply keeps_fault
    | with_reducible apply optCanon_some
    | with_reducible exact optCanon_none
    | with_reducible apply agendaCanon_answer
    | with_reducible apply agendaCanon_run
    | with_reducible apply optCanon_map
    | with_reducible apply State.ownTurn_canon
    | with_reducible apply State.coreCycle_canon
    | with_reducible apply State.focus_canon
    | with_reducible refine canon_of_some (by assumption) ?_
    | with_reducible refine canon_of_run (by assumption) ?_
    | dsimp only
    | split

theorem State.startFire_canon (s : State) (i : ℕ) (page : ℕ) (pe : ℕ) (router : Bool) (hc0 : State.Canon s) :
    AgendaCanon (State.startFire s i page pe router) := by
  unfold State.startFire
  repeat' first
    | with_reducible assumption
    | with_reducible apply keeps_next
    | with_reducible apply keeps_fault
    | with_reducible apply agendaCanon_answer
    | with_reducible apply agendaCanon_run
    | with_reducible apply State.mem_canon
    | with_reducible apply State.peers_canon
    | with_reducible refine canon_of_run (by assumption) ?_
    | dsimp only
    | split

theorem State.agentWrite_canon (s : State) (o : ℕ) (v : Word) (hc0 : State.Canon s) :
    State.Canon (State.agentWrite s o v) := by
  unfold State.agentWrite
  repeat' first
    | with_reducible assumption
    | with_reducible apply optCanon_some
    | with_reducible exact optCanon_none
    | with_reducible apply optCanon_map
    | with_reducible apply State.answer_canon
    | with_reducible apply State.mem_canon
    | with_reducible apply State.peers_canon
    | with_reducible apply State.returnTo_canon
    | with_reducible apply State.focus_canon
    | with_reducible apply State.devWrite_canon
    | with_reducible refine canon_of_some (by assumption) ?_
    | dsimp only
    | split

theorem State.spoil_canon (s : State) (c : Fin 16) (slot : Fin 8) (page : ℕ) (hc0 : State.Canon s) :
    State.Canon (State.spoil s c slot page) := by
  unfold State.spoil
  repeat' first
    | with_reducible assumption
    | with_reducible apply State.updCtx_canon

theorem State.peerWrite_canon (s : State) (a : ℕ) (b : Byte) (hc0 : State.Canon s) :
    State.Canon (State.peerWrite s a b) := by
  unfold State.peerWrite
  repeat' first
    | with_reducible assumption
    | with_reducible apply Mem.wf_setByte
    | with_reducible apply Mem.wf_setTag
    | with_reducible apply Mem.wf_setFull
    | with_reducible apply Mem.wf_setPoison
    | with_reducible apply Mem.wf_write
    | with_reducible exact canon_mem (by assumption)
    | with_reducible exact canon_peers (by assumption)
    | with_reducible apply State.mem_canon
    | with_reducible apply State.peers_canon
    | with_reducible apply Mem.setByte_canon
    | dsimp only
    | split
    | intro _
    | dsimp only [State.Canon]
    | with_reducible refine And.intro ?_ ?_

theorem State.moveToken_canon (s : State) (i : ℕ) (ep : ℕ) (hc0 : State.Canon s) :
    State.Canon (State.moveToken s i ep) := by
  unfold State.moveToken
  repeat' first
    | with_reducible assumption
    | with_reducible apply State.setInst_canon
    | dsimp only
    | split

theorem State.agentRead_canon (s : State) (o : ℕ) (hc0 : State.Canon s) :
    State.Canon (State.agentRead s o) := by
  unfold State.agentRead
  repeat' first
    | with_reducible assumption
    | with_reducible apply optCanon_some
    | with_reducible exact optCanon_none
    | with_reducible apply optCanon_map
    | with_reducible apply State.answer_canon
    | with_reducible apply State.focus_canon
    | with_reducible refine canon_of_some (by assumption) ?_
    | dsimp only
    | split

theorem State.prefetch_canon (s : State) (c : Fin 16) (g : Fin 4) (hc0 : State.Canon s) :
    State.Canon (State.prefetch s c g) := by
  unfold State.prefetch
  repeat' first
    | with_reducible assumption
    | with_reducible apply State.askWords_canon
    | with_reducible apply State.updGraph_canon
    | dsimp only
    | split

theorem State.take_canon (s : State) (z1 : Input) (hc0 : State.Canon s) :
    AgendaCanon (State.take s z1) := by
  unfold State.take
  repeat' first
    | with_reducible assumption
    | with_reducible apply keeps_next
    | with_reducible apply keeps_fault
    | with_reducible apply agendaCanon_answer
    | with_reducible apply agendaCanon_run
    | with_reducible apply State.routeIn_canon
    | with_reducible apply State.startCommand_canon
    | with_reducible apply State.applyRegion_canon
    | with_reducible apply State.tableStep_canon
    | with_reducible apply State.elapse_canon
    | with_reducible apply State.poisonLine_canon
    | with_reducible apply State.moveXfer_canon
    | with_reducible apply State.advanceRef_canon
    | with_reducible apply State.turnAt_canon
    | with_reducible apply State.startFire_canon
    | with_reducible apply State.coreCycle_canon
    | with_reducible apply State.agentWrite_canon
    | with_reducible apply State.retransmit_canon
    | with_reducible apply State.dropTlb_canon
    | with_reducible apply State.returnTo_canon
    | with_reducible apply State.spoil_canon
    | with_reducible apply State.peerWrite_canon
    | with_reducible apply State.moveToken_canon
    | with_reducible apply State.agentRead_canon
    | with_reducible apply State.prefetch_canon
    | with_reducible refine canon_of_run (by assumption) ?_
    | dsimp only
    | split

theorem State.agenda_canon (s : State) (hc0 : State.Canon s) :
    AgendaCanon (State.agenda s) := by
  unfold State.agenda
  repeat' first
    | with_reducible assumption
    | with_reducible apply keeps_next
    | with_reducible apply keeps_fault
    | with_reducible apply agendaCanon_answer
    | with_reducible apply agendaCanon_run
    | with_reducible apply State.answer_canon
    | with_reducible apply State.mem_canon
    | with_reducible apply State.nextTurn_canon
    | with_reducible apply State.peers_canon
    | with_reducible apply State.take_canon
    | with_reducible refine canon_of_run (by assumption) ?_
    | dsimp only
    | split

theorem State.placeWord_canon (s : State) (nbits : ℕ) (w : ℕ) (hc0 : State.Canon s) :
    State.Canon (State.placeWord s nbits w) := by
  unfold State.placeWord
  repeat' first
    | with_reducible assumption
    | with_reducible apply Mem.wf_setByte
    | with_reducible apply Mem.wf_setTag
    | with_reducible apply Mem.wf_setFull
    | with_reducible apply Mem.wf_setPoison
    | with_reducible apply Mem.wf_write
    | with_reducible exact canon_mem (by assumption)
    | with_reducible exact canon_peers (by assumption)
    | with_reducible apply Mem.write_canon
    | with_reducible apply State.mem_canon
    | with_reducible apply State.peers_canon
    | dsimp only
    | split
    | intro _
    | dsimp only [State.Canon]
    | with_reducible refine And.intro ?_ ?_

theorem State.withFetchWord_canon (s : State) (nbits : ℕ) (w : ℕ) (hc0 : State.Canon s) :
    State.Canon (State.withFetchWord s nbits w) := by
  unfold State.withFetchWord
  repeat' first
    | with_reducible assumption
    | with_reducible apply State.placeWord_canon

end Sys2Proof.Machine
end

