-- ==== Sys2Proof/Laws/Decode.lean ====
section
/-!
SUPPORT. Sys2Proof/Laws/Decode.lean: what each field of an encoded word reads as, and what each shape of the decoders answers on
the words of that shape.
-/
namespace Sys2Proof

/-! ### Cutting a field out of an append -/

theorem extract_high {w v s n : Nat} (x : BitVec w) (y : BitVec v) (h : v ≤ s) :
    (x ++ y).extractLsb' s n = x.extractLsb' (s - v) n := by
  ext i hi
  simp only [BitVec.getElem_extractLsb', BitVec.getLsbD_append]
  have : ¬ s + i < v := by omega
  simp [this]
  congr 1
  omega

theorem extract_within {w v s n : Nat} (x : BitVec w) (y : BitVec v) (h : s + n ≤ v) :
    (x ++ y).extractLsb' s n = y.extractLsb' s n := by
  ext i hi
  simp only [BitVec.getElem_extractLsb', BitVec.getLsbD_append]
  have : s + i < v := by omega
  simp [this]

theorem extract_all {w : Nat} (x : BitVec w) : x.extractLsb' 0 w = x := by
  ext i hi
  simp

/-- A bit above the low part of an append. -/
theorem bit_high {w v i : Nat} (x : BitVec w) (y : BitVec v) (h : v ≤ i) : (x ++ y).getLsbD i = x.getLsbD (i - v) := by
  rw [BitVec.getLsbD_append, if_neg (by omega)]

/-- A bit of the low part of an append. -/
theorem bit_low {w v i : Nat} (x : BitVec w) (y : BitVec v) (h : i < v) : (x ++ y).getLsbD i = y.getLsbD i := by
  rw [BitVec.getLsbD_append, if_pos h]

theorem bit_ofBool (b : Bool) : (BitVec.ofBool b).getLsbD 0 = b := by cases b <;> rfl

/-- A run of bits of an append as a number, above its low part. -/
theorem run_high {w v s n : Nat} (x : BitVec w) (y : BitVec v) (h : v ≤ s) :
    ((x ++ y).toNat >>> s) % 2 ^ n = (x.toNat >>> (s - v)) % 2 ^ n := by
  have := congrArg BitVec.toNat (extract_high (n := n) x y h)
  simpa only [BitVec.extractLsb'_toNat] using this

/-- A run of bits of an append as a number, in its low part. -/
theorem run_within {w v s n : Nat} (x : BitVec w) (y : BitVec v) (h : s + n ≤ v) :
    ((x ++ y).toNat >>> s) % 2 ^ n = (y.toNat >>> s) % 2 ^ n := by
  have := congrArg BitVec.toNat (extract_within (n := n) x y h)
  simpa only [BitVec.extractLsb'_toNat] using this

/-- A run of a part that is zero. -/
theorem run_zero {w s n : Nat} : ((0#w).toNat >>> s) % 2 ^ n = 0 := by simp

/-! ### Fields of the 32-bit layouts (R35) -/

@[simp] theorem fMajor_encRR (m : BitVec 7) (d a b o c : BitVec 5) : fMajor (encRR m d a b o c) = m := by
  unfold fMajor encRR
  rw [extract_high _ _ (by decide), extract_high _ _ (by decide), extract_high _ _ (by decide), extract_high _ _ (by decide), extract_high _ _ (by decide)]
  exact extract_all _
@[simp] theorem fD_encRR (m : BitVec 7) (d a b o c : BitVec 5) : fD (encRR m d a b o c) = d := by
  unfold fD encRR
  rw [extract_high _ _ (by decide), extract_high _ _ (by decide), extract_high _ _ (by decide), extract_high _ _ (by decide)]
  rw [extract_within _ _ (by decide)]
  exact extract_all _
@[simp] theorem fA_encRR (m : BitVec 7) (d a b o c : BitVec 5) : fA (encRR m d a b o c) = a := by
  unfold fA encRR
  rw [extract_high _ _ (by decide), extract_high _ _ (by decide), extract_high _ _ (by decide)]
  rw [extract_within _ _ (by decide)]
  exact extract_all _
@[simp] theorem fB_encRR (m : BitVec 7) (d a b o c : BitVec 5) : fB (encRR m d a b o c) = b := by
  unfold fB encRR
  rw [extract_high _ _ (by decide), extract_high _ _ (by decide)]
  rw [extract_within _ _ (by decide)]
  exact extract_all _
@[simp] theorem fOp5_encRR (m : BitVec 7) (d a b o c : BitVec 5) : fOp5 (encRR m d a b o c) = o := by
  unfold fOp5 encRR
  rw [extract_high _ _ (by decide)]
  rw [extract_within _ _ (by decide)]
  exact extract_all _
@[simp] theorem fC_encRR (m : BitVec 7) (d a b o c : BitVec 5) : fC (encRR m d a b o c) = c := by
  unfold fC encRR
  rw [extract_within _ _ (by decide)]
  exact extract_all _
@[simp] theorem fMajor_encRI (m : BitVec 7) (d a : BitVec 5) (i : BitVec 15) : fMajor (encRI m d a i) = m := by
  unfold fMajor encRI
  rw [extract_high _ _ (by decide), extract_high _ _ (by decide), extract_high _ _ (by decide)]
  exact extract_all _
@[simp] theorem fD_encRI (m : BitVec 7) (d a : BitVec 5) (i : BitVec 15) : fD (encRI m d a i) = d := by
  unfold fD encRI
  rw [extract_high _ _ (by decide), extract_high _ _ (by decide)]
  rw [extract_within _ _ (by decide)]
  exact extract_all _
@[simp] theorem fA_encRI (m : BitVec 7) (d a : BitVec 5) (i : BitVec 15) : fA (encRI m d a i) = a := by
  unfold fA encRI
  rw [extract_high _ _ (by decide)]
  rw [extract_within _ _ (by decide)]
  exact extract_all _
@[simp] theorem fImm15_encRI (m : BitVec 7) (d a : BitVec 5) (i : BitVec 15) : fImm15 (encRI m d a i) = i := by
  unfold fImm15 encRI
  rw [extract_within _ _ (by decide)]
  exact extract_all _
@[simp] theorem fMajor_encAt (m : BitVec 7) (d a b : BitVec 5) (o : BitVec 4) (z : BitVec 1) (c : BitVec 5) : fMajor (encAt m d a b o z c) = m := by
  unfold fMajor encAt
  rw [extract_high _ _ (by decide), extract_high _ _ (by decide), extract_high _ _ (by decide), extract_high _ _ (by decide), extract_high _ _ (by decide), extract_high _ _ (by decide)]
  exact extract_all _
@[simp] theorem fD_encAt (m : BitVec 7) (d a b : BitVec 5) (o : BitVec 4) (z : BitVec 1) (c : BitVec 5) : fD (encAt m d a b o z c) = d := by
  unfold fD encAt
  rw [extract_high _ _ (by decide), extract_high _ _ (by decide), extract_high _ _ (by decide), extract_high _ _ (by decide), extract_high _ _ (by decide)]
  rw [extract_within _ _ (by decide)]
  exact extract_all _
@[simp] theorem fA_encAt (m : BitVec 7) (d a b : BitVec 5) (o : BitVec 4) (z : BitVec 1) (c : BitVec 5) : fA (encAt m d a b o z c) = a := by
  unfold fA encAt
  rw [extract_high _ _ (by decide), extract_high _ _ (by decide), extract_high _ _ (by decide), extract_high _ _ (by decide)]
  rw [extract_within _ _ (by decide)]
  exact extract_all _
@[simp] theorem fB_encAt (m : BitVec 7) (d a b : BitVec 5) (o : BitVec 4) (z : BitVec 1) (c : BitVec 5) : fB (encAt m d a b o z c) = b := by
  unfold fB encAt
  rw [extract_high _ _ (by decide), extract_high _ _ (by decide), extract_high _ _ (by decide)]
  rw [extract_within _ _ (by decide)]
  exact extract_all _
@[simp] theorem bits6_encAt (m : BitVec 7) (d a b : BitVec 5) (o : BitVec 4) (z : BitVec 1) (c : BitVec 5) : (encAt m d a b o z c).extractLsb' 6 4 = o := by
  unfold encAt
  rw [extract_high _ _ (by decide), extract_high _ _ (by decide)]
  rw [extract_within _ _ (by decide)]
  exact extract_all _
@[simp] theorem bits5_encAt (m : BitVec 7) (d a b : BitVec 5) (o : BitVec 4) (z : BitVec 1) (c : BitVec 5) : (encAt m d a b o z c).extractLsb' 5 1 = z := by
  unfold encAt
  rw [extract_high _ _ (by decide)]
  rw [extract_within _ _ (by decide)]
  exact extract_all _
@[simp] theorem fC_encAt (m : BitVec 7) (d a b : BitVec 5) (o : BitVec 4) (z : BitVec 1) (c : BitVec 5) : fC (encAt m d a b o z c) = c := by
  unfold fC encAt
  rw [extract_within _ _ (by decide)]
  exact extract_all _
@[simp] theorem fMajor_encM (m : BitVec 7) (d b : BitVec 5) (q : BitVec 3) (o : BitVec 12) : fMajor (encM m d b q o) = m := by
  unfold fMajor encM
  rw [extract_high _ _ (by decide), extract_high _ _ (by decide), extract_high _ _ (by decide), extract_high _ _ (by decide)]
  exact extract_all _
@[simp] theorem fD_encM (m : BitVec 7) (d b : BitVec 5) (q : BitVec 3) (o : BitVec 12) : fD (encM m d b q o) = d := by
  unfold fD encM
  rw [extract_high _ _ (by decide), extract_high _ _ (by decide), extract_high _ _ (by decide)]
  rw [extract_within _ _ (by decide)]
  exact extract_all _
@[simp] theorem fA_encM (m : BitVec 7) (d b : BitVec 5) (q : BitVec 3) (o : BitVec 12) : fA (encM m d b q o) = b := by
  unfold fA encM
  rw [extract_high _ _ (by decide), extract_high _ _ (by decide)]
  rw [extract_within _ _ (by decide)]
  exact extract_all _
@[simp] theorem fQual_encM (m : BitVec 7) (d b : BitVec 5) (q : BitVec 3) (o : BitVec 12) : fQual (encM m d b q o) = q := by
  unfold fQual encM
  rw [extract_high _ _ (by decide)]
  rw [extract_within _ _ (by decide)]
  exact extract_all _
@[simp] theorem fOff12_encM (m : BitVec 7) (d b : BitVec 5) (q : BitVec 3) (o : BitVec 12) : fOff12 (encM m d b q o) = o := by
  unfold fOff12 encM
  rw [extract_within _ _ (by decide)]
  exact extract_all _
@[simp] theorem fMajor_encU (m : BitVec 7) (d : BitVec 5) (i : BitVec 20) : fMajor (encU m d i) = m := by
  unfold fMajor encU
  rw [extract_high _ _ (by decide), extract_high _ _ (by decide)]
  exact extract_all _
@[simp] theorem fD_encU (m : BitVec 7) (d : BitVec 5) (i : BitVec 20) : fD (encU m d i) = d := by
  unfold fD encU
  rw [extract_high _ _ (by decide)]
  rw [extract_within _ _ (by decide)]
  exact extract_all _
@[simp] theorem fImm20_encU (m : BitVec 7) (d : BitVec 5) (i : BitVec 20) : fImm20 (encU m d i) = i := by
  unfold fImm20 encU
  rw [extract_within _ _ (by decide)]
  exact extract_all _
@[simp] theorem fMajor_encJ (m : BitVec 7) (i : BitVec 25) : fMajor (encJ m i) = m := by
  unfold fMajor encJ
  rw [extract_high _ _ (by decide)]
  exact extract_all _
@[simp] theorem fOff25_encJ (m : BitVec 7) (i : BitVec 25) : fOff25 (encJ m i) = i := by
  unfold fOff25 encJ
  rw [extract_within _ _ (by decide)]
  exact extract_all _

/-- The size bit of an atomic. -/
theorem size_encAt (m : BitVec 7) (d a b : BitVec 5) (o : BitVec 4) (z : BitVec 1) (c : BitVec 5) :
    (encAt m d a b o z c).getLsbD 5 = z.getLsbD 0 := by
  unfold encAt
  rw [bit_high _ _ (by decide), bit_low _ _ (by decide)]

/-! ### Codes -/

@[simp] theorem reg_num (r : Reg) : reg (num r) = r := rfl
theorem reg_zero : reg 0 = 0 := rfl
@[simp] theorem rmOf_rmCode (r : RmField) : rmOf (rmCode r) = some r := by cases r <;> rfl
@[simp] theorem ftypeOf_ftypeCode (t : FType) : ftypeOf (ftypeCode t) = some t := by cases t <;> rfl
@[simp] theorem intTypeOf_intTypeCode (t : IntType) : intTypeOf (intTypeCode t) = some t := by cases t <;> rfl
@[simp] theorem loadQualOf_loadQualCode (q : LoadQual) : loadQualOf (loadQualCode q) = some q := by cases q <;> rfl
@[simp] theorem storeQualOf_storeQualCode (q : StoreQual) : storeQualOf (storeQualCode q) = some q := by cases q <;> rfl
@[simp] theorem scopeOf_scopeCode (s : Scope) : scopeOf (scopeCode s) = some s := by cases s <;> rfl
@[simp] theorem sizeOf_sizeCode (z : AtomSize) : sizeOf ((sizeCode z).getLsbD 0) = z := by cases z <;> rfl
@[simp] theorem smallOf_smallCode (n : Fin 4) : smallOf (smallCode n) = some n := by revert n; decide

/-! ### The majors -/

theorem decode_00 {w : BitVec 32} (h : fMajor w = 0x00) : decode w = .ok (.illegal w) := by
  unfold decode; rw [h]; rfl
theorem decode_01 {w : BitVec 32} (h : fMajor w = 0x01) : decode w = decodeInt w := by
  unfold decode; rw [h]; rfl
theorem decode_02 {w : BitVec 32} (h : fMajor w = 0x02) : decode w = decodeIntm w := by
  unfold decode; rw [h]; rfl
theorem decode_03 {w : BitVec 32} (h : fMajor w = 0x03) : decode w = decodePtr w := by
  unfold decode; rw [h]; rfl
theorem decode_04 {w : BitVec 32} (h : fMajor w = 0x04) : decode w = .ok (.addi (reg (fD w)) (reg (fA w)) (fImm15 w)) := by
  unfold decode; rw [h]; rfl
theorem decode_05 {w : BitVec 32} (h : fMajor w = 0x05) : decode w = .ok (.andi (reg (fD w)) (reg (fA w)) (fImm15 w)) := by
  unfold decode; rw [h]; rfl
theorem decode_06 {w : BitVec 32} (h : fMajor w = 0x06) : decode w = .ok (.ori (reg (fD w)) (reg (fA w)) (fImm15 w)) := by
  unfold decode; rw [h]; rfl
theorem decode_07 {w : BitVec 32} (h : fMajor w = 0x07) : decode w = .ok (.xori (reg (fD w)) (reg (fA w)) (fImm15 w)) := by
  unfold decode; rw [h]; rfl
theorem decode_08 {w : BitVec 32} (h : fMajor w = 0x08) : decode w = decodeShi w := by
  unfold decode; rw [h]; rfl
theorem decode_09 {w : BitVec 32} (h : fMajor w = 0x09) : decode w = decodeBfx w := by
  unfold decode; rw [h]; rfl
theorem decode_0A {w : BitVec 32} (h : fMajor w = 0x0A) : decode w = decodeBfi w := by
  unfold decode; rw [h]; rfl
theorem decode_0B {w : BitVec 32} (h : fMajor w = 0x0B) : decode w = .ok (.lui (reg (fD w)) (fImm20 w)) := by
  unfold decode; rw [h]; rfl
theorem decode_0C {w : BitVec 32} (h : fMajor w = 0x0C) : decode w = .ok (.luih (reg (fD w)) (fImm20 w)) := by
  unfold decode; rw [h]; rfl
theorem decode_0D {w : BitVec 32} (h : fMajor w = 0x0D) : decode w = .ok (.adpc (reg (fD w)) (fImm20 w)) := by
  unfold decode; rw [h]; rfl
theorem decode_10 {w : BitVec 32} (h : fMajor w = 0x10) : decode w = .ok (.beq (reg (fD w)) (reg (fA w)) (fImm15 w)) := by
  unfold decode; rw [h]; rfl
theorem decode_11 {w : BitVec 32} (h : fMajor w = 0x11) : decode w = .ok (.bne (reg (fD w)) (reg (fA w)) (fImm15 w)) := by
  unfold decode; rw [h]; rfl
theorem decode_12 {w : BitVec 32} (h : fMajor w = 0x12) : decode w = .ok (.blt (reg (fD w)) (reg (fA w)) (fImm15 w)) := by
  unfold decode; rw [h]; rfl
theorem decode_13 {w : BitVec 32} (h : fMajor w = 0x13) : decode w = .ok (.bge (reg (fD w)) (reg (fA w)) (fImm15 w)) := by
  unfold decode; rw [h]; rfl
theorem decode_14 {w : BitVec 32} (h : fMajor w = 0x14) : decode w = .ok (.bltn (reg (fD w)) (reg (fA w)) (fImm15 w)) := by
  unfold decode; rw [h]; rfl
theorem decode_15 {w : BitVec 32} (h : fMajor w = 0x15) : decode w = .ok (.bgen (reg (fD w)) (reg (fA w)) (fImm15 w)) := by
  unfold decode; rw [h]; rfl
theorem decode_16 {w : BitVec 32} (h : fMajor w = 0x16) : decode w = .ok (.j (fOff25 w)) := by
  unfold decode; rw [h]; rfl
theorem decode_17 {w : BitVec 32} (h : fMajor w = 0x17) : decode w = .ok (.jal (fOff25 w)) := by
  unfold decode; rw [h]; rfl
theorem decode_18 {w : BitVec 32} (h : fMajor w = 0x18) : decode w = .ok (.jalr (reg (fD w)) (reg (fA w)) (fImm15 w)) := by
  unfold decode; rw [h]; rfl
theorem decode_19 {w : BitVec 32} (h : fMajor w = 0x19) : decode w = decodeLoop w := by
  unfold decode; rw [h]; rfl
theorem decode_1A {w : BitVec 32} (h : fMajor w = 0x1A) : decode w = decodeSysi w := by
  unfold decode; rw [h]; rfl
theorem decode_1B {w : BitVec 32} (h : fMajor w = 0x1B) : decode w = decodeSys w := by
  unfold decode; rw [h]; rfl
theorem decode_20 {w : BitVec 32} (h : fMajor w = 0x20) : decode w = decodeFp .f64 w := by
  unfold decode; rw [h]; rfl
theorem decode_21 {w : BitVec 32} (h : fMajor w = 0x21) : decode w = decodeFp .f32 w := by
  unfold decode; rw [h]; rfl
theorem decode_22 {w : BitVec 32} (h : fMajor w = 0x22) : decode w = decodeFp .f16 w := by
  unfold decode; rw [h]; rfl
theorem decode_23 {w : BitVec 32} (h : fMajor w = 0x23) : decode w = decodeFp .b16 w := by
  unfold decode; rw [h]; rfl
theorem decode_24 {w : BitVec 32} (h : fMajor w = 0x24) : decode w = decodeFp .w19 w := by
  unfold decode; rw [h]; rfl
theorem decode_30 {w : BitVec 32} (h : fMajor w = 0x30) : decode w = shLoad .ldB w := by
  unfold decode; rw [h]; rfl
theorem decode_31 {w : BitVec 32} (h : fMajor w = 0x31) : decode w = shLoad .ldH w := by
  unfold decode; rw [h]; rfl
theorem decode_32 {w : BitVec 32} (h : fMajor w = 0x32) : decode w = shLoad .ldW w := by
  unfold decode; rw [h]; rfl
theorem decode_33 {w : BitVec 32} (h : fMajor w = 0x33) : decode w = shLoad .ldD w := by
  unfold decode; rw [h]; rfl
theorem decode_34 {w : BitVec 32} (h : fMajor w = 0x34) : decode w = shLoad .ldnB w := by
  unfold decode; rw [h]; rfl
theorem decode_35 {w : BitVec 32} (h : fMajor w = 0x35) : decode w = shLoad .ldnH w := by
  unfold decode; rw [h]; rfl
theorem decode_36 {w : BitVec 32} (h : fMajor w = 0x36) : decode w = shLoad .ldnW w := by
  unfold decode; rw [h]; rfl
theorem decode_38 {w : BitVec 32} (h : fMajor w = 0x38) : decode w = shStore .stB w := by
  unfold decode; rw [h]; rfl
theorem decode_39 {w : BitVec 32} (h : fMajor w = 0x39) : decode w = shStore .stH w := by
  unfold decode; rw [h]; rfl
theorem decode_3A {w : BitVec 32} (h : fMajor w = 0x3A) : decode w = shStore .stW w := by
  unfold decode; rw [h]; rfl
theorem decode_3B {w : BitVec 32} (h : fMajor w = 0x3B) : decode w = shStore .stD w := by
  unfold decode; rw [h]; rfl
theorem decode_3C {w : BitVec 32} (h : fMajor w = 0x3C) : decode w = shLoad .ldfH w := by
  unfold decode; rw [h]; rfl
theorem decode_3D {w : BitVec 32} (h : fMajor w = 0x3D) : decode w = shLoad .ldfW w := by
  unfold decode; rw [h]; rfl
theorem decode_3E {w : BitVec 32} (h : fMajor w = 0x3E) : decode w = shLoad .ldfD w := by
  unfold decode; rw [h]; rfl
theorem decode_40 {w : BitVec 32} (h : fMajor w = 0x40) : decode w = shStore .stfH w := by
  unfold decode; rw [h]; rfl
theorem decode_41 {w : BitVec 32} (h : fMajor w = 0x41) : decode w = shStore .stfW w := by
  unfold decode; rw [h]; rfl
theorem decode_42 {w : BitVec 32} (h : fMajor w = 0x42) : decode w = shStore .stfD w := by
  unfold decode; rw [h]; rfl
theorem decode_43 {w : BitVec 32} (h : fMajor w = 0x43) : decode w = shEven w (shLoad .ldp w) := by
  unfold decode; rw [h]; rfl
theorem decode_44 {w : BitVec 32} (h : fMajor w = 0x44) : decode w = shEven w (shStore .stp w) := by
  unfold decode; rw [h]; rfl
theorem decode_45 {w : BitVec 32} (h : fMajor w = 0x45) : decode w = decodePref w := by
  unfold decode; rw [h]; rfl
theorem decode_46 {w : BitVec 32} (h : fMajor w = 0x46) : decode w = shBase .cfls w := by
  unfold decode; rw [h]; rfl
theorem decode_47 {w : BitVec 32} (h : fMajor w = 0x47) : decode w = shBase .cinv w := by
  unfold decode; rw [h]; rfl
theorem decode_48 {w : BitVec 32} (h : fMajor w = 0x48) : decode w = shTag .tgld w := by
  unfold decode; rw [h]; rfl
theorem decode_49 {w : BitVec 32} (h : fMajor w = 0x49) : decode w = shTag .tgst w := by
  unfold decode; rw [h]; rfl
theorem decode_4A {w : BitVec 32} (h : fMajor w = 0x4A) : decode w = shBase .visit w := by
  unfold decode; rw [h]; rfl
theorem decode_50 {w : BitVec 32} (h : fMajor w = 0x50) : decode w = decodeOrd w := by
  unfold decode; rw [h]; rfl
theorem decode_51 {w : BitVec 32} (h : fMajor w = 0x51) : decode w = decodeFence w := by
  unfold decode; rw [h]; rfl
theorem decode_52 {w : BitVec 32} (h : fMajor w = 0x52) : decode w = decodeAtom w := by
  unfold decode; rw [h]; rfl
theorem decode_53 {w : BitVec 32} (h : fMajor w = 0x53) : decode w = decodeAtomR w := by
  unfold decode; rw [h]; rfl
theorem decode_54 {w : BitVec 32} (h : fMajor w = 0x54) : decode w = decodeSync w := by
  unfold decode; rw [h]; rfl
theorem decode_55 {w : BitVec 32} (h : fMajor w = 0x55) : decode w = decodeHyp w := by
  unfold decode; rw [h]; rfl
theorem decode_56 {w : BitVec 32} (h : fMajor w = 0x56) : decode w = decodeAcc w := by
  unfold decode; rw [h]; rfl
theorem decode_57 {w : BitVec 32} (h : fMajor w = 0x57) : decode w = decodeLnch w := by
  unfold decode; rw [h]; rfl

/-! ### Shapes -/

theorem shDAB_enc (k : Reg → Reg → Reg → Instr) (m : BitVec 7) (d a b : Reg) (o : BitVec 5) :
    shDAB k (encRR m (num d) (num a) (num b) o 0) = .ok (k d a b) := by simp [shDAB]
theorem shDA_enc (k : Reg → Reg → Instr) (m : BitVec 7) (d a : Reg) (o : BitVec 5) :
    shDA k (encRR m (num d) (num a) 0 o 0) = .ok (k d a) := by simp [shDA]
theorem shD_enc (k : Reg → Instr) (m : BitVec 7) (d : Reg) (o : BitVec 5) :
    shD k (encRR m (num d) 0 0 o 0) = .ok (k d) := by simp [shD]
theorem shA_enc (k : Reg → Instr) (m : BitVec 7) (a : Reg) (o : BitVec 5) :
    shA k (encRR m 0 (num a) 0 o 0) = .ok (k a) := by simp [shA]
theorem shAB_enc (k : Reg → Reg → Instr) (m : BitVec 7) (a b : Reg) (o : BitVec 5) :
    shAB k (encRR m 0 (num a) (num b) o 0) = .ok (k a b) := by simp [shAB]
theorem shNone_enc (i : Instr) (m : BitVec 7) (o : BitVec 5) : shNone i (encRR m 0 0 0 o 0) = .ok i := by simp [shNone]
theorem withRm_enc (k : RmField → Instr) (m : BitVec 7) (d a b o : BitVec 5) (r : RmField) :
    withRm (encRR m d a b o (rmCode r)) k = .ok (k r) := by simp [withRm]
theorem shLoad_enc (k : Reg → Reg → LoadQual → BitVec 12 → Instr) (m : BitVec 7) (d b : Reg) (q : LoadQual) (o : BitVec 12) :
    shLoad k (encM m (num d) (num b) (loadQualCode q) o) = .ok (k d b q o) := by simp [shLoad]
theorem shStore_enc (k : Reg → Reg → StoreQual → BitVec 12 → Instr) (m : BitVec 7) (d b : Reg) (q : StoreQual) (o : BitVec 12) :
    shStore k (encM m (num d) (num b) (storeQualCode q) o) = .ok (k d b q o) := by simp [shStore]
theorem shBase_enc (k : Reg → BitVec 12 → Instr) (m : BitVec 7) (b : Reg) (o : BitVec 12) :
    shBase k (encM m 0 (num b) 0 o) = .ok (k b o) := by simp [shBase]
theorem shTag_enc (k : Reg → Reg → BitVec 12 → Instr) (m : BitVec 7) (d b : Reg) (o : BitVec 12) :
    shTag k (encM m (num d) (num b) 0 o) = .ok (k d b o) := by simp [shTag]
theorem shAtom_enc (k : Reg → Reg → AtomSize → Instr) (m : BitVec 7) (a b : Reg) (o : BitVec 4) (z : AtomSize) :
    shAtom k (encAt m 0 (num a) (num b) o (sizeCode z) 0) = .ok (k a b z) := by
  unfold shAtom; rw [size_encAt, sizeOf_sizeCode]; simp
theorem shAtomR_enc (k : Reg → Reg → Reg → AtomSize → Instr) (m : BitVec 7) (d a b : Reg) (o : BitVec 4) (z : AtomSize) :
    shAtomR k (encAt m (num d) (num a) (num b) o (sizeCode z) 0) = .ok (k d a b z) := by
  unfold shAtomR; rw [size_encAt, sizeOf_sizeCode]; simp

theorem decodeInt_00 {w : BitVec 32} (h : fOp5 w = 0x00) : decodeInt w = (shDAB .add w) := by
  unfold decodeInt; rw [h]; rfl
theorem decodeInt_01 {w : BitVec 32} (h : fOp5 w = 0x01) : decodeInt w = (shDAB .sub w) := by
  unfold decodeInt; rw [h]; rfl
theorem decodeInt_02 {w : BitVec 32} (h : fOp5 w = 0x02) : decodeInt w = (shDAB .and w) := by
  unfold decodeInt; rw [h]; rfl
theorem decodeInt_03 {w : BitVec 32} (h : fOp5 w = 0x03) : decodeInt w = (shDAB .or w) := by
  unfold decodeInt; rw [h]; rfl
theorem decodeInt_04 {w : BitVec 32} (h : fOp5 w = 0x04) : decodeInt w = (shDAB .xor w) := by
  unfold decodeInt; rw [h]; rfl
theorem decodeInt_05 {w : BitVec 32} (h : fOp5 w = 0x05) : decodeInt w = (shDAB .shl w) := by
  unfold decodeInt; rw [h]; rfl
theorem decodeInt_06 {w : BitVec 32} (h : fOp5 w = 0x06) : decodeInt w = (shDAB .shr w) := by
  unfold decodeInt; rw [h]; rfl
theorem decodeInt_07 {w : BitVec 32} (h : fOp5 w = 0x07) : decodeInt w = (shDAB .sra w) := by
  unfold decodeInt; rw [h]; rfl
theorem decodeInt_08 {w : BitVec 32} (h : fOp5 w = 0x08) : decodeInt w = (shDAB .rol w) := by
  unfold decodeInt; rw [h]; rfl
theorem decodeInt_09 {w : BitVec 32} (h : fOp5 w = 0x09) : decodeInt w = (shDAB .ror w) := by
  unfold decodeInt; rw [h]; rfl
theorem decodeInt_0A {w : BitVec 32} (h : fOp5 w = 0x0A) : decodeInt w = (shDAB .min w) := by
  unfold decodeInt; rw [h]; rfl
theorem decodeInt_0B {w : BitVec 32} (h : fOp5 w = 0x0B) : decodeInt w = (shDAB .max w) := by
  unfold decodeInt; rw [h]; rfl
theorem decodeInt_0C {w : BitVec 32} (h : fOp5 w = 0x0C) : decodeInt w = (shDAB .minn w) := by
  unfold decodeInt; rw [h]; rfl
theorem decodeInt_0D {w : BitVec 32} (h : fOp5 w = 0x0D) : decodeInt w = (shDAB .maxn w) := by
  unfold decodeInt; rw [h]; rfl
theorem decodeInt_0E {w : BitVec 32} (h : fOp5 w = 0x0E) : decodeInt w = (shDAB .slt w) := by
  unfold decodeInt; rw [h]; rfl
theorem decodeInt_0F {w : BitVec 32} (h : fOp5 w = 0x0F) : decodeInt w = (shDAB .sltn w) := by
  unfold decodeInt; rw [h]; rfl
theorem decodeInt_10 {w : BitVec 32} (h : fOp5 w = 0x10) : decodeInt w = (shDAB .seq w) := by
  unfold decodeInt; rw [h]; rfl
theorem decodeInt_11 {w : BitVec 32} (h : fOp5 w = 0x11) : decodeInt w = (.ok (.sel (reg (fD w)) (reg (fA w)) (reg (fB w)) (reg (fC w)))) := by
  unfold decodeInt; rw [h]; rfl
theorem decodeIntm_00 {w : BitVec 32} (h : fOp5 w = 0x00) : decodeIntm w = (shDAB .mul w) := by
  unfold decodeIntm; rw [h]; rfl
theorem decodeIntm_01 {w : BitVec 32} (h : fOp5 w = 0x01) : decodeIntm w = (shDAB .mulh w) := by
  unfold decodeIntm; rw [h]; rfl
theorem decodeIntm_02 {w : BitVec 32} (h : fOp5 w = 0x02) : decodeIntm w = (shDAB .mulhn w) := by
  unfold decodeIntm; rw [h]; rfl
theorem decodeIntm_03 {w : BitVec 32} (h : fOp5 w = 0x03) : decodeIntm w = (shDAB .div w) := by
  unfold decodeIntm; rw [h]; rfl
theorem decodeIntm_04 {w : BitVec 32} (h : fOp5 w = 0x04) : decodeIntm w = (shDAB .divn w) := by
  unfold decodeIntm; rw [h]; rfl
theorem decodeIntm_05 {w : BitVec 32} (h : fOp5 w = 0x05) : decodeIntm w = (shDAB .rem w) := by
  unfold decodeIntm; rw [h]; rfl
theorem decodeIntm_06 {w : BitVec 32} (h : fOp5 w = 0x06) : decodeIntm w = (shDAB .remn w) := by
  unfold decodeIntm; rw [h]; rfl
theorem decodeIntm_07 {w : BitVec 32} (h : fOp5 w = 0x07) : decodeIntm w = (shDA .clz w) := by
  unfold decodeIntm; rw [h]; rfl
theorem decodeIntm_08 {w : BitVec 32} (h : fOp5 w = 0x08) : decodeIntm w = (shDA .ctz w) := by
  unfold decodeIntm; rw [h]; rfl
theorem decodeIntm_09 {w : BitVec 32} (h : fOp5 w = 0x09) : decodeIntm w = (shDA .pop w) := by
  unfold decodeIntm; rw [h]; rfl
theorem decodePtr_00 {w : BitVec 32} (h : fOp5 w = 0x00) : decodePtr w = (if h : (fC w).toNat < 5 then .ok (.lea (reg (fD w)) (reg (fA w)) (reg (fB w)) ⟨(fC w).toNat, h⟩) else .error .reservedValue) := by
  unfold decodePtr; rw [h]; rfl
theorem decodePtr_01 {w : BitVec 32} (h : fOp5 w = 0x01) : decodePtr w = (shDAB .ptag w) := by
  unfold decodePtr; rw [h]; rfl
theorem decodePtr_02 {w : BitVec 32} (h : fOp5 w = 0x02) : decodePtr w = (shDAB .prgt w) := by
  unfold decodePtr; rw [h]; rfl
theorem decodePtr_03 {w : BitVec 32} (h : fOp5 w = 0x03) : decodePtr w = (shDAB .padr w) := by
  unfold decodePtr; rw [h]; rfl
theorem decodeSys_00 {w : BitVec 32} (h : fOp5 w = 0x00) : decodeSys w = (shNone .eret w) := by
  unfold decodeSys; rw [h]; rfl
theorem decodeSys_01 {w : BitVec 32} (h : fOp5 w = 0x01) : decodeSys w = (shNone .yield w) := by
  unfold decodeSys; rw [h]; rfl
theorem decodeSys_02 {w : BitVec 32} (h : fOp5 w = 0x02) : decodeSys w = (shNone .halt w) := by
  unfold decodeSys; rw [h]; rfl
theorem decodeSys_03 {w : BitVec 32} (h : fOp5 w = 0x03) : decodeSys w = (shD .tnow w) := by
  unfold decodeSys; rw [h]; rfl
theorem decodeSys_04 {w : BitVec 32} (h : fOp5 w = 0x04) : decodeSys w = (shDA .twait w) := by
  unfold decodeSys; rw [h]; rfl
theorem decodeSys_05 {w : BitVec 32} (h : fOp5 w = 0x05) : decodeSys w = (shD .qgrd w) := by
  unfold decodeSys; rw [h]; rfl
theorem decodeSys_06 {w : BitVec 32} (h : fOp5 w = 0x06) : decodeSys w = (shDA .qtop w) := by
  unfold decodeSys; rw [h]; rfl
theorem decodeSys_07 {w : BitVec 32} (h : fOp5 w = 0x07) : decodeSys w = (shDA .qspd w) := by
  unfold decodeSys; rw [h]; rfl
theorem decodeSys_08 {w : BitVec 32} (h : fOp5 w = 0x08) : decodeSys w = (shDAB .qblt w) := by
  unfold decodeSys; rw [h]; rfl
theorem decodeSys_09 {w : BitVec 32} (h : fOp5 w = 0x09) : decodeSys w = (shDA .qrng w) := by
  unfold decodeSys; rw [h]; rfl
theorem decodeSys_0A {w : BitVec 32} (h : fOp5 w = 0x0A) : decodeSys w = (shA .coff w) := by
  unfold decodeSys; rw [h]; rfl
theorem decodeSys_0B {w : BitVec 32} (h : fOp5 w = 0x0B) : decodeSys w = (shAB .sigv w) := by
  unfold decodeSys; rw [h]; rfl
theorem decodeSys_0C {w : BitVec 32} (h : fOp5 w = 0x0C) : decodeSys w = (if w.extractLsb' 3 2 = 0 then .ok (.crcc (reg (fD w)) (reg (fA w)) (reg (fB w)) (w.extractLsb' 0 3)) else .error .reservedValue) := by
  unfold decodeSys; rw [h]; rfl
theorem decodeOrd_00 {w : BitVec 32} (h : fOp5 w = 0x00) : decodeOrd w = (shA .tkaq w) := by
  unfold decodeOrd; rw [h]; rfl
theorem decodeOrd_01 {w : BitVec 32} (h : fOp5 w = 0x01) : decodeOrd w = (shAB .tkhd w) := by
  unfold decodeOrd; rw [h]; rfl
theorem decodeOrd_02 {w : BitVec 32} (h : fOp5 w = 0x02) : decodeOrd w = (shA .cflx w) := by
  unfold decodeOrd; rw [h]; rfl
theorem decodeSync_00 {w : BitVec 32} (h : fOp5 w = 0x00) : decodeSync w = (shA .bara w) := by
  unfold decodeSync; rw [h]; rfl
theorem decodeSync_01 {w : BitVec 32} (h : fOp5 w = 0x01) : decodeSync w = (shDAB .barw w) := by
  unfold decodeSync; rw [h]; rfl
theorem decodeSync_02 {w : BitVec 32} (h : fOp5 w = 0x02) : decodeSync w = (shDA .bars w) := by
  unfold decodeSync; rw [h]; rfl
theorem decodeSync_03 {w : BitVec 32} (h : fOp5 w = 0x03) : decodeSync w = (shDA .acqs w) := by
  unfold decodeSync; rw [h]; rfl
theorem decodeSync_04 {w : BitVec 32} (h : fOp5 w = 0x04) : decodeSync w = (shAB .cmts w) := by
  unfold decodeSync; rw [h]; rfl
theorem decodeSync_05 {w : BitVec 32} (h : fOp5 w = 0x05) : decodeSync w = (shDA .peks w) := by
  unfold decodeSync; rw [h]; rfl
theorem decodeSync_06 {w : BitVec 32} (h : fOp5 w = 0x06) : decodeSync w = (shAB .rels w) := by
  unfold decodeSync; rw [h]; rfl
theorem decodeSync_07 {w : BitVec 32} (h : fOp5 w = 0x07) : decodeSync w = (shDAB .wtfe w) := by
  unfold decodeSync; rw [h]; rfl
theorem decodeHyp_00 {w : BitVec 32} (h : fOp5 w = 0x00) : decodeHyp w = (shDA .hnew w) := by
  unfold decodeHyp; rw [h]; rfl
theorem decodeHyp_01 {w : BitVec 32} (h : fOp5 w = 0x01) : decodeHyp w = (shA .hset w) := by
  unfold decodeHyp; rw [h]; rfl
theorem decodeHyp_02 {w : BitVec 32} (h : fOp5 w = 0x02) : decodeHyp w = (shD .hget w) := by
  unfold decodeHyp; rw [h]; rfl
theorem decodeHyp_03 {w : BitVec 32} (h : fOp5 w = 0x03) : decodeHyp w = (shA .hconf w) := by
  unfold decodeHyp; rw [h]; rfl
theorem decodeHyp_04 {w : BitVec 32} (h : fOp5 w = 0x04) : decodeHyp w = (shA .href w) := by
  unfold decodeHyp; rw [h]; rfl
theorem decodeHyp_05 {w : BitVec 32} (h : fOp5 w = 0x05) : decodeHyp w = (shDA .hstat w) := by
  unfold decodeHyp; rw [h]; rfl
theorem decodeHyp_06 {w : BitVec 32} (h : fOp5 w = 0x06) : decodeHyp w = (shDAB .hwait w) := by
  unfold decodeHyp; rw [h]; rfl
theorem decodeLnch_00 {w : BitVec 32} (h : fOp5 w = 0x00) : decodeLnch w = (shAB .lnch w) := by
  unfold decodeLnch; rw [h]; rfl
theorem decodeLnch_01 {w : BitVec 32} (h : fOp5 w = 0x01) : decodeLnch w = (if fD w = 0 then .ok (.lnci (reg (fA w)) (reg (fB w)) (reg (fC w))) else .error .unusedField) := by
  unfold decodeLnch; rw [h]; rfl
theorem decodeFp_00 {t : FType} {w : BitVec 32} (h : fOp5 w = 0x00) : decodeFp t w = (withRm w (.fadd t (reg (fD w)) (reg (fA w)) (reg (fB w)))) := by
  unfold decodeFp; rw [h]; rfl
theorem decodeFp_01 {t : FType} {w : BitVec 32} (h : fOp5 w = 0x01) : decodeFp t w = (withRm w (.fsub t (reg (fD w)) (reg (fA w)) (reg (fB w)))) := by
  unfold decodeFp; rw [h]; rfl
theorem decodeFp_02 {t : FType} {w : BitVec 32} (h : fOp5 w = 0x02) : decodeFp t w = (withRm w (.fmul t (reg (fD w)) (reg (fA w)) (reg (fB w)))) := by
  unfold decodeFp; rw [h]; rfl
theorem decodeFp_03 {t : FType} {w : BitVec 32} (h : fOp5 w = 0x03) : decodeFp t w = (withRm w (.fdiv t (reg (fD w)) (reg (fA w)) (reg (fB w)))) := by
  unfold decodeFp; rw [h]; rfl
theorem decodeFp_04 {t : FType} {w : BitVec 32} (h : fOp5 w = 0x04) : decodeFp t w = (if fB w = 0 then withRm w (.fsqrt t (reg (fD w)) (reg (fA w))) else .error .unusedField) := by
  unfold decodeFp; rw [h]; rfl
theorem decodeFp_05 {t : FType} {w : BitVec 32} (h : fOp5 w = 0x05) : decodeFp t w = (shDAB (.fmin t) w) := by
  unfold decodeFp; rw [h]; rfl
theorem decodeFp_06 {t : FType} {w : BitVec 32} (h : fOp5 w = 0x06) : decodeFp t w = (shDAB (.fmax t) w) := by
  unfold decodeFp; rw [h]; rfl
theorem decodeFp_07 {t : FType} {w : BitVec 32} (h : fOp5 w = 0x07) : decodeFp t w = (shDA (.fabs t) w) := by
  unfold decodeFp; rw [h]; rfl
theorem decodeFp_08 {t : FType} {w : BitVec 32} (h : fOp5 w = 0x08) : decodeFp t w = (shDA (.fneg t) w) := by
  unfold decodeFp; rw [h]; rfl
theorem decodeFp_09 {t : FType} {w : BitVec 32} (h : fOp5 w = 0x09) : decodeFp t w = (shDAB (.fsgn t) w) := by
  unfold decodeFp; rw [h]; rfl
theorem decodeFp_0A {t : FType} {w : BitVec 32} (h : fOp5 w = 0x0A) : decodeFp t w = (shDAB (.feq t) w) := by
  unfold decodeFp; rw [h]; rfl
theorem decodeFp_0B {t : FType} {w : BitVec 32} (h : fOp5 w = 0x0B) : decodeFp t w = (shDAB (.flt t) w) := by
  unfold decodeFp; rw [h]; rfl
theorem decodeFp_0C {t : FType} {w : BitVec 32} (h : fOp5 w = 0x0C) : decodeFp t w = (shDAB (.fle t) w) := by
  unfold decodeFp; rw [h]; rfl
theorem decodeFp_0D {t : FType} {w : BitVec 32} (h : fOp5 w = 0x0D) : decodeFp t w = (shDA (.fcls t) w) := by
  unfold decodeFp; rw [h]; rfl
theorem decodeFp_0E {t : FType} {w : BitVec 32} (h : fOp5 w = 0x0E) : decodeFp t w = (.ok (.ffma t (reg (fD w)) (reg (fA w)) (reg (fB w)) (reg (fC w)))) := by
  unfold decodeFp; rw [h]; rfl
theorem decodeFp_0F {t : FType} {w : BitVec 32} (h : fOp5 w = 0x0F) : decodeFp t w = (.ok (.ffms t (reg (fD w)) (reg (fA w)) (reg (fB w)) (reg (fC w)))) := by
  unfold decodeFp; rw [h]; rfl
theorem decodeFp_10 {t : FType} {w : BitVec 32} (h : fOp5 w = 0x10) : decodeFp t w = (match ftypeOf (fB w) with | some src => if t = src then .error .sameType else withRm w (.fcvt t (reg (fD w)) (reg (fA w)) src) | none => .error .reservedValue) := by
  unfold decodeFp; rw [h]; rfl
theorem decodeFp_11 {t : FType} {w : BitVec 32} (h : fOp5 w = 0x11) : decodeFp t w = (match intTypeOf (fB w) with | some ty => withRm w (.fcvi t (reg (fD w)) (reg (fA w)) ty) | none => .error .reservedValue) := by
  unfold decodeFp; rw [h]; rfl
theorem decodeFp_12 {t : FType} {w : BitVec 32} (h : fOp5 w = 0x12) : decodeFp t w = (match intTypeOf (fB w) with | some ty => withRm w (.icvf t (reg (fD w)) (reg (fA w)) ty) | none => .error .reservedValue) := by
  unfold decodeFp; rw [h]; rfl
theorem decodeFp_13 {t : FType} {w : BitVec 32} (h : fOp5 w = 0x13) : decodeFp t w = (if fB w = 0 then withRm w (.frnd t (reg (fD w)) (reg (fA w))) else .error .unusedField) := by
  unfold decodeFp; rw [h]; rfl
theorem decodeFp_14 {t : FType} {w : BitVec 32} (h : fOp5 w = 0x14) : decodeFp t w = (withRm w (.fscl t (reg (fD w)) (reg (fA w)) (reg (fB w)))) := by
  unfold decodeFp; rw [h]; rfl
theorem decodeFp_15 {t : FType} {w : BitVec 32} (h : fOp5 w = 0x15) : decodeFp t w = (shDA (.mvgf t) w) := by
  unfold decodeFp; rw [h]; rfl
theorem decodeFp_16 {t : FType} {w : BitVec 32} (h : fOp5 w = 0x16) : decodeFp t w = (shDA (.mvfg t) w) := by
  unfold decodeFp; rw [h]; rfl
theorem decodeFp_17 {t : FType} {w : BitVec 32} (h : fOp5 w = 0x17) : decodeFp t w = (if fC w = 0 then match smallOf (fB w) with | some n => .ok (.tenc t (reg (fD w)) (reg (fA w)) n) | none => .error .reservedValue else .error .unusedField) := by
  unfold decodeFp; rw [h]; rfl
theorem decodeFp_18 {t : FType} {w : BitVec 32} (h : fOp5 w = 0x18) : decodeFp t w = (if fC w = 0 ∧ t = .w19 then match smallOf (fB w) with | some n => .ok (.tdec (reg (fD w)) (reg (fA w)) n) | none => .error .reservedValue else .error .unusedField) := by
  unfold decodeFp; rw [h]; rfl
theorem decodeFp_19 {t : FType} {w : BitVec 32} (h : fOp5 w = 0x19) : decodeFp t w = (if fC w = 0 ∧ fD w = 0 ∧ t = .w19 then match smallOf (fB w) with | some n => .ok (.tbld (reg (fA w)) n) | none => .error .reservedValue else .error .unusedField) := by
  unfold decodeFp; rw [h]; rfl
theorem decodeAtom_0 {w : BitVec 32} (h : w.extractLsb' 6 4 = 0x0) : decodeAtom w = (shAtom .aadd w) := by
  unfold decodeAtom; rw [h]; rfl
theorem decodeAtom_1 {w : BitVec 32} (h : w.extractLsb' 6 4 = 0x1) : decodeAtom w = (shAtom .aand w) := by
  unfold decodeAtom; rw [h]; rfl
theorem decodeAtom_2 {w : BitVec 32} (h : w.extractLsb' 6 4 = 0x2) : decodeAtom w = (shAtom .aor w) := by
  unfold decodeAtom; rw [h]; rfl
theorem decodeAtom_3 {w : BitVec 32} (h : w.extractLsb' 6 4 = 0x3) : decodeAtom w = (shAtom .axor w) := by
  unfold decodeAtom; rw [h]; rfl
theorem decodeAtom_4 {w : BitVec 32} (h : w.extractLsb' 6 4 = 0x4) : decodeAtom w = (shAtom .amin w) := by
  unfold decodeAtom; rw [h]; rfl
theorem decodeAtom_5 {w : BitVec 32} (h : w.extractLsb' 6 4 = 0x5) : decodeAtom w = (shAtom .amax w) := by
  unfold decodeAtom; rw [h]; rfl
theorem decodeAtom_6 {w : BitVec 32} (h : w.extractLsb' 6 4 = 0x6) : decodeAtom w = (shAtom .aminn w) := by
  unfold decodeAtom; rw [h]; rfl
theorem decodeAtom_7 {w : BitVec 32} (h : w.extractLsb' 6 4 = 0x7) : decodeAtom w = (shAtom .amaxn w) := by
  unfold decodeAtom; rw [h]; rfl
theorem decodeAtom_8 {w : BitVec 32} (h : w.extractLsb' 6 4 = 0x8) : decodeAtom w = (shAtom .aswp w) := by
  unfold decodeAtom; rw [h]; rfl
theorem decodeAtom_9 {w : BitVec 32} (h : w.extractLsb' 6 4 = 0x9) : decodeAtom w = (if fD w = 0 then .ok (.acas (reg (fA w)) (reg (fB w)) (sizeOf (w.getLsbD 5)) (reg (fC w))) else .error .unusedField) := by
  unfold decodeAtom; rw [h]; rfl
theorem decodeAtom_A {w : BitVec 32} (h : w.extractLsb' 6 4 = 0xA) : decodeAtom w = (if w.getLsbD 5 then .error .reservedValue else shAB .afaddF32 w) := by
  unfold decodeAtom; rw [h]; rfl
theorem decodeAtomR_0 {w : BitVec 32} (h : w.extractLsb' 6 4 = 0x0) : decodeAtomR w = (shAtomR .aaddR w) := by
  unfold decodeAtomR; rw [h]; rfl
theorem decodeAtomR_1 {w : BitVec 32} (h : w.extractLsb' 6 4 = 0x1) : decodeAtomR w = (shAtomR .aandR w) := by
  unfold decodeAtomR; rw [h]; rfl
theorem decodeAtomR_2 {w : BitVec 32} (h : w.extractLsb' 6 4 = 0x2) : decodeAtomR w = (shAtomR .aorR w) := by
  unfold decodeAtomR; rw [h]; rfl
theorem decodeAtomR_3 {w : BitVec 32} (h : w.extractLsb' 6 4 = 0x3) : decodeAtomR w = (shAtomR .axorR w) := by
  unfold decodeAtomR; rw [h]; rfl
theorem decodeAtomR_4 {w : BitVec 32} (h : w.extractLsb' 6 4 = 0x4) : decodeAtomR w = (shAtomR .aminR w) := by
  unfold decodeAtomR; rw [h]; rfl
theorem decodeAtomR_5 {w : BitVec 32} (h : w.extractLsb' 6 4 = 0x5) : decodeAtomR w = (shAtomR .amaxR w) := by
  unfold decodeAtomR; rw [h]; rfl
theorem decodeAtomR_6 {w : BitVec 32} (h : w.extractLsb' 6 4 = 0x6) : decodeAtomR w = (shAtomR .aminnR w) := by
  unfold decodeAtomR; rw [h]; rfl
theorem decodeAtomR_7 {w : BitVec 32} (h : w.extractLsb' 6 4 = 0x7) : decodeAtomR w = (shAtomR .amaxnR w) := by
  unfold decodeAtomR; rw [h]; rfl
theorem decodeAtomR_8 {w : BitVec 32} (h : w.extractLsb' 6 4 = 0x8) : decodeAtomR w = (shAtomR .aswpR w) := by
  unfold decodeAtomR; rw [h]; rfl
theorem decodeAtomR_9 {w : BitVec 32} (h : w.extractLsb' 6 4 = 0x9) : decodeAtomR w = (.ok (.acasR (reg (fD w)) (reg (fA w)) (reg (fB w)) (sizeOf (w.getLsbD 5)) (reg (fC w)))) := by
  unfold decodeAtomR; rw [h]; rfl
theorem decodeAtomR_A {w : BitVec 32} (h : w.extractLsb' 6 4 = 0xA) : decodeAtomR w = (if w.getLsbD 5 then .error .reservedValue else shDAB .afaddRF32 w) := by
  unfold decodeAtomR; rw [h]; rfl

theorem decode_fp {t : FType} {w : BitVec 32} (h : fMajor w = fpMajor t) : decode w = decodeFp t w := by
  cases t
  · exact decode_20 h
  · exact decode_21 h
  · exact decode_22 h
  · exact decode_23 h
  · exact decode_24 h

end Sys2Proof
end

