-- ==== Sys2Proof/Laws/PerInstr.lean ====
section
/-!
SUPPORT. Sys2Proof/Laws/PerInstr.lean: the round trip of the encoders and decoders, instruction by instruction.
-/
namespace Sys2Proof

/-! ### Words of 32 bits -/

theorem dec_illegal (w : BitVec 32) (h : WellFormed (.illegal w) = true) : decode (w) = .ok (.illegal w) := by
  have h : fMajor w = 0 := by simpa [WellFormed, fMajor] using h
  exact decode_00 h
theorem dec_add (d : Reg) (a : Reg) (b : Reg) : decode (encRR 0x01 (num d) (num a) (num b) 0x00 0) = .ok (.add d a b) := by
  rw [decode_01 (fMajor_encRR ..), decodeInt_00 (fOp5_encRR ..)]
  exact shDAB_enc ..
theorem dec_sub (d : Reg) (a : Reg) (b : Reg) : decode (encRR 0x01 (num d) (num a) (num b) 0x01 0) = .ok (.sub d a b) := by
  rw [decode_01 (fMajor_encRR ..), decodeInt_01 (fOp5_encRR ..)]
  exact shDAB_enc ..
theorem dec_and (d : Reg) (a : Reg) (b : Reg) : decode (encRR 0x01 (num d) (num a) (num b) 0x02 0) = .ok (.and d a b) := by
  rw [decode_01 (fMajor_encRR ..), decodeInt_02 (fOp5_encRR ..)]
  exact shDAB_enc ..
theorem dec_or (d : Reg) (a : Reg) (b : Reg) : decode (encRR 0x01 (num d) (num a) (num b) 0x03 0) = .ok (.or d a b) := by
  rw [decode_01 (fMajor_encRR ..), decodeInt_03 (fOp5_encRR ..)]
  exact shDAB_enc ..
theorem dec_xor (d : Reg) (a : Reg) (b : Reg) : decode (encRR 0x01 (num d) (num a) (num b) 0x04 0) = .ok (.xor d a b) := by
  rw [decode_01 (fMajor_encRR ..), decodeInt_04 (fOp5_encRR ..)]
  exact shDAB_enc ..
theorem dec_shl (d : Reg) (a : Reg) (b : Reg) : decode (encRR 0x01 (num d) (num a) (num b) 0x05 0) = .ok (.shl d a b) := by
  rw [decode_01 (fMajor_encRR ..), decodeInt_05 (fOp5_encRR ..)]
  exact shDAB_enc ..
theorem dec_shr (d : Reg) (a : Reg) (b : Reg) : decode (encRR 0x01 (num d) (num a) (num b) 0x06 0) = .ok (.shr d a b) := by
  rw [decode_01 (fMajor_encRR ..), decodeInt_06 (fOp5_encRR ..)]
  exact shDAB_enc ..
theorem dec_sra (d : Reg) (a : Reg) (b : Reg) : decode (encRR 0x01 (num d) (num a) (num b) 0x07 0) = .ok (.sra d a b) := by
  rw [decode_01 (fMajor_encRR ..), decodeInt_07 (fOp5_encRR ..)]
  exact shDAB_enc ..
theorem dec_rol (d : Reg) (a : Reg) (b : Reg) : decode (encRR 0x01 (num d) (num a) (num b) 0x08 0) = .ok (.rol d a b) := by
  rw [decode_01 (fMajor_encRR ..), decodeInt_08 (fOp5_encRR ..)]
  exact shDAB_enc ..
theorem dec_ror (d : Reg) (a : Reg) (b : Reg) : decode (encRR 0x01 (num d) (num a) (num b) 0x09 0) = .ok (.ror d a b) := by
  rw [decode_01 (fMajor_encRR ..), decodeInt_09 (fOp5_encRR ..)]
  exact shDAB_enc ..
theorem dec_min (d : Reg) (a : Reg) (b : Reg) : decode (encRR 0x01 (num d) (num a) (num b) 0x0A 0) = .ok (.min d a b) := by
  rw [decode_01 (fMajor_encRR ..), decodeInt_0A (fOp5_encRR ..)]
  exact shDAB_enc ..
theorem dec_max (d : Reg) (a : Reg) (b : Reg) : decode (encRR 0x01 (num d) (num a) (num b) 0x0B 0) = .ok (.max d a b) := by
  rw [decode_01 (fMajor_encRR ..), decodeInt_0B (fOp5_encRR ..)]
  exact shDAB_enc ..
theorem dec_minn (d : Reg) (a : Reg) (b : Reg) : decode (encRR 0x01 (num d) (num a) (num b) 0x0C 0) = .ok (.minn d a b) := by
  rw [decode_01 (fMajor_encRR ..), decodeInt_0C (fOp5_encRR ..)]
  exact shDAB_enc ..
theorem dec_maxn (d : Reg) (a : Reg) (b : Reg) : decode (encRR 0x01 (num d) (num a) (num b) 0x0D 0) = .ok (.maxn d a b) := by
  rw [decode_01 (fMajor_encRR ..), decodeInt_0D (fOp5_encRR ..)]
  exact shDAB_enc ..
theorem dec_slt (d : Reg) (a : Reg) (b : Reg) : decode (encRR 0x01 (num d) (num a) (num b) 0x0E 0) = .ok (.slt d a b) := by
  rw [decode_01 (fMajor_encRR ..), decodeInt_0E (fOp5_encRR ..)]
  exact shDAB_enc ..
theorem dec_sltn (d : Reg) (a : Reg) (b : Reg) : decode (encRR 0x01 (num d) (num a) (num b) 0x0F 0) = .ok (.sltn d a b) := by
  rw [decode_01 (fMajor_encRR ..), decodeInt_0F (fOp5_encRR ..)]
  exact shDAB_enc ..
theorem dec_seq (d : Reg) (a : Reg) (b : Reg) : decode (encRR 0x01 (num d) (num a) (num b) 0x10 0) = .ok (.seq d a b) := by
  rw [decode_01 (fMajor_encRR ..), decodeInt_10 (fOp5_encRR ..)]
  exact shDAB_enc ..
theorem dec_sel (d : Reg) (a : Reg) (b : Reg) (c : Reg) : decode (encRR 0x01 (num d) (num a) (num b) 0x11 (num c)) = .ok (.sel d a b c) := by
  rw [decode_01 (fMajor_encRR ..), decodeInt_11 (fOp5_encRR ..)]
  simp
theorem dec_mul (d : Reg) (a : Reg) (b : Reg) : decode (encRR 0x02 (num d) (num a) (num b) 0x00 0) = .ok (.mul d a b) := by
  rw [decode_02 (fMajor_encRR ..), decodeIntm_00 (fOp5_encRR ..)]
  exact shDAB_enc ..
theorem dec_mulh (d : Reg) (a : Reg) (b : Reg) : decode (encRR 0x02 (num d) (num a) (num b) 0x01 0) = .ok (.mulh d a b) := by
  rw [decode_02 (fMajor_encRR ..), decodeIntm_01 (fOp5_encRR ..)]
  exact shDAB_enc ..
theorem dec_mulhn (d : Reg) (a : Reg) (b : Reg) : decode (encRR 0x02 (num d) (num a) (num b) 0x02 0) = .ok (.mulhn d a b) := by
  rw [decode_02 (fMajor_encRR ..), decodeIntm_02 (fOp5_encRR ..)]
  exact shDAB_enc ..
theorem dec_div (d : Reg) (a : Reg) (b : Reg) : decode (encRR 0x02 (num d) (num a) (num b) 0x03 0) = .ok (.div d a b) := by
  rw [decode_02 (fMajor_encRR ..), decodeIntm_03 (fOp5_encRR ..)]
  exact shDAB_enc ..
theorem dec_divn (d : Reg) (a : Reg) (b : Reg) : decode (encRR 0x02 (num d) (num a) (num b) 0x04 0) = .ok (.divn d a b) := by
  rw [decode_02 (fMajor_encRR ..), decodeIntm_04 (fOp5_encRR ..)]
  exact shDAB_enc ..
theorem dec_rem (d : Reg) (a : Reg) (b : Reg) : decode (encRR 0x02 (num d) (num a) (num b) 0x05 0) = .ok (.rem d a b) := by
  rw [decode_02 (fMajor_encRR ..), decodeIntm_05 (fOp5_encRR ..)]
  exact shDAB_enc ..
theorem dec_remn (d : Reg) (a : Reg) (b : Reg) : decode (encRR 0x02 (num d) (num a) (num b) 0x06 0) = .ok (.remn d a b) := by
  rw [decode_02 (fMajor_encRR ..), decodeIntm_06 (fOp5_encRR ..)]
  exact shDAB_enc ..
theorem dec_clz (d : Reg) (a : Reg) : decode (encRR 0x02 (num d) (num a) 0 0x07 0) = .ok (.clz d a) := by
  rw [decode_02 (fMajor_encRR ..), decodeIntm_07 (fOp5_encRR ..)]
  exact shDA_enc ..
theorem dec_ctz (d : Reg) (a : Reg) : decode (encRR 0x02 (num d) (num a) 0 0x08 0) = .ok (.ctz d a) := by
  rw [decode_02 (fMajor_encRR ..), decodeIntm_08 (fOp5_encRR ..)]
  exact shDA_enc ..
theorem dec_pop (d : Reg) (a : Reg) : decode (encRR 0x02 (num d) (num a) 0 0x09 0) = .ok (.pop d a) := by
  rw [decode_02 (fMajor_encRR ..), decodeIntm_09 (fOp5_encRR ..)]
  exact shDA_enc ..
theorem dec_lea (d : Reg) (a : Reg) (b : Reg) (s : Fin 5) : decode (encRR 0x03 (num d) (num a) (num b) 0x00 (BitVec.ofNat 5 s.val)) = .ok (.lea d a b s) := by
  rw [decode_03 (fMajor_encRR ..), decodePtr_00 (fOp5_encRR ..)]
  revert s; intro s; fin_cases s <;> simp
theorem dec_ptag (d : Reg) (a : Reg) (b : Reg) : decode (encRR 0x03 (num d) (num a) (num b) 0x01 0) = .ok (.ptag d a b) := by
  rw [decode_03 (fMajor_encRR ..), decodePtr_01 (fOp5_encRR ..)]
  exact shDAB_enc ..
theorem dec_prgt (d : Reg) (a : Reg) (b : Reg) : decode (encRR 0x03 (num d) (num a) (num b) 0x02 0) = .ok (.prgt d a b) := by
  rw [decode_03 (fMajor_encRR ..), decodePtr_02 (fOp5_encRR ..)]
  exact shDAB_enc ..
theorem dec_padr (d : Reg) (a : Reg) (b : Reg) : decode (encRR 0x03 (num d) (num a) (num b) 0x03 0) = .ok (.padr d a b) := by
  rw [decode_03 (fMajor_encRR ..), decodePtr_03 (fOp5_encRR ..)]
  exact shDAB_enc ..
theorem dec_addi (d : Reg) (a : Reg) (i : BitVec 15) : decode (encRI 0x04 (num d) (num a) i) = .ok (.addi d a i) := by
  rw [decode_04 (fMajor_encRI ..)]
  simp
theorem dec_andi (d : Reg) (a : Reg) (i : BitVec 15) : decode (encRI 0x05 (num d) (num a) i) = .ok (.andi d a i) := by
  rw [decode_05 (fMajor_encRI ..)]
  simp
theorem dec_ori (d : Reg) (a : Reg) (i : BitVec 15) : decode (encRI 0x06 (num d) (num a) i) = .ok (.ori d a i) := by
  rw [decode_06 (fMajor_encRI ..)]
  simp
theorem dec_xori (d : Reg) (a : Reg) (i : BitVec 15) : decode (encRI 0x07 (num d) (num a) i) = .ok (.xori d a i) := by
  rw [decode_07 (fMajor_encRI ..)]
  simp
theorem dec_shli (d : Reg) (a : Reg) (n : BitVec 6) : decode (encRI 0x08 (num d) (num a) (0#3 ++ 0#6 ++ n)) = .ok (.shli d a n) := by
  rw [decode_08 (fMajor_encRI ..)]
  have h1 : fQual (encRI 0x08 (num d) (num a) (0#3 ++ 0#6 ++ n)) = 0#3 := by
    unfold fQual encRI
    rw [extract_within _ _ (by decide), extract_high _ _ (by decide), extract_high _ _ (by decide)]
    exact extract_all _
  have h2 : (encRI 0x08 (num d) (num a) (0#3 ++ 0#6 ++ n)).extractLsb' 6 6 = 0#6 := by
    unfold encRI
    rw [extract_within _ _ (by decide), extract_high _ _ (by decide), extract_within _ _ (by decide)]
    exact extract_all _
  have h3 : (encRI 0x08 (num d) (num a) (0#3 ++ 0#6 ++ n)).extractLsb' 0 6 = n := by
    unfold encRI
    rw [extract_within _ _ (by decide), extract_within _ _ (by decide)]
    exact extract_all _
  unfold decodeShi
  rw [h1, h2, h3]
  simp
theorem dec_shri (d : Reg) (a : Reg) (n : BitVec 6) : decode (encRI 0x08 (num d) (num a) (1#3 ++ 0#6 ++ n)) = .ok (.shri d a n) := by
  rw [decode_08 (fMajor_encRI ..)]
  have h1 : fQual (encRI 0x08 (num d) (num a) (1#3 ++ 0#6 ++ n)) = 1#3 := by
    unfold fQual encRI
    rw [extract_within _ _ (by decide), extract_high _ _ (by decide), extract_high _ _ (by decide)]
    exact extract_all _
  have h2 : (encRI 0x08 (num d) (num a) (1#3 ++ 0#6 ++ n)).extractLsb' 6 6 = 0#6 := by
    unfold encRI
    rw [extract_within _ _ (by decide), extract_high _ _ (by decide), extract_within _ _ (by decide)]
    exact extract_all _
  have h3 : (encRI 0x08 (num d) (num a) (1#3 ++ 0#6 ++ n)).extractLsb' 0 6 = n := by
    unfold encRI
    rw [extract_within _ _ (by decide), extract_within _ _ (by decide)]
    exact extract_all _
  unfold decodeShi
  rw [h1, h2, h3]
  simp
theorem dec_srai (d : Reg) (a : Reg) (n : BitVec 6) : decode (encRI 0x08 (num d) (num a) (2#3 ++ 0#6 ++ n)) = .ok (.srai d a n) := by
  rw [decode_08 (fMajor_encRI ..)]
  have h1 : fQual (encRI 0x08 (num d) (num a) (2#3 ++ 0#6 ++ n)) = 2#3 := by
    unfold fQual encRI
    rw [extract_within _ _ (by decide), extract_high _ _ (by decide), extract_high _ _ (by decide)]
    exact extract_all _
  have h2 : (encRI 0x08 (num d) (num a) (2#3 ++ 0#6 ++ n)).extractLsb' 6 6 = 0#6 := by
    unfold encRI
    rw [extract_within _ _ (by decide), extract_high _ _ (by decide), extract_within _ _ (by decide)]
    exact extract_all _
  have h3 : (encRI 0x08 (num d) (num a) (2#3 ++ 0#6 ++ n)).extractLsb' 0 6 = n := by
    unfold encRI
    rw [extract_within _ _ (by decide), extract_within _ _ (by decide)]
    exact extract_all _
  unfold decodeShi
  rw [h1, h2, h3]
  simp
theorem dec_bfx (d : Reg) (a : Reg) (w : BitVec 6) (p : BitVec 6) (h : WellFormed (.bfx d a w p) = true) : decode (encRI 0x09 (num d) (num a) (0#3 ++ w ++ p)) = .ok (.bfx d a w p) := by
  rw [decode_09 (fMajor_encRI ..)]
  have h1 : fQual (encRI 0x09 (num d) (num a) (0#3 ++ w ++ p)) = 0#3 := by
    unfold fQual encRI
    rw [extract_within _ _ (by decide), extract_high _ _ (by decide), extract_high _ _ (by decide)]
    exact extract_all _
  have h2 : (encRI 0x09 (num d) (num a) (0#3 ++ w ++ p)).extractLsb' 6 6 = w := by
    unfold encRI
    rw [extract_within _ _ (by decide), extract_high _ _ (by decide), extract_within _ _ (by decide)]
    exact extract_all _
  have h3 : (encRI 0x09 (num d) (num a) (0#3 ++ w ++ p)).extractLsb' 0 6 = p := by
    unfold encRI
    rw [extract_within _ _ (by decide), extract_within _ _ (by decide)]
    exact extract_all _
  have h : w.toNat + 1 + p.toNat ≤ 64 := by simpa [WellFormed] using h
  unfold decodeBfx shField
  rw [h1, h2, h3]
  simp [h]
theorem dec_bfxS (d : Reg) (a : Reg) (w : BitVec 6) (p : BitVec 6) (h : WellFormed (.bfxS d a w p) = true) : decode (encRI 0x09 (num d) (num a) (1#3 ++ w ++ p)) = .ok (.bfxS d a w p) := by
  rw [decode_09 (fMajor_encRI ..)]
  have h1 : fQual (encRI 0x09 (num d) (num a) (1#3 ++ w ++ p)) = 1#3 := by
    unfold fQual encRI
    rw [extract_within _ _ (by decide), extract_high _ _ (by decide), extract_high _ _ (by decide)]
    exact extract_all _
  have h2 : (encRI 0x09 (num d) (num a) (1#3 ++ w ++ p)).extractLsb' 6 6 = w := by
    unfold encRI
    rw [extract_within _ _ (by decide), extract_high _ _ (by decide), extract_within _ _ (by decide)]
    exact extract_all _
  have h3 : (encRI 0x09 (num d) (num a) (1#3 ++ w ++ p)).extractLsb' 0 6 = p := by
    unfold encRI
    rw [extract_within _ _ (by decide), extract_within _ _ (by decide)]
    exact extract_all _
  have h : w.toNat + 1 + p.toNat ≤ 64 := by simpa [WellFormed] using h
  unfold decodeBfx shField
  rw [h1, h2, h3]
  simp [h]
theorem dec_bfi (d : Reg) (a : Reg) (w : BitVec 6) (p : BitVec 6) (h : WellFormed (.bfi d a w p) = true) : decode (encRI 0x0A (num d) (num a) (0#3 ++ w ++ p)) = .ok (.bfi d a w p) := by
  rw [decode_0A (fMajor_encRI ..)]
  have h1 : fQual (encRI 0x0A (num d) (num a) (0#3 ++ w ++ p)) = 0#3 := by
    unfold fQual encRI
    rw [extract_within _ _ (by decide), extract_high _ _ (by decide), extract_high _ _ (by decide)]
    exact extract_all _
  have h2 : (encRI 0x0A (num d) (num a) (0#3 ++ w ++ p)).extractLsb' 6 6 = w := by
    unfold encRI
    rw [extract_within _ _ (by decide), extract_high _ _ (by decide), extract_within _ _ (by decide)]
    exact extract_all _
  have h3 : (encRI 0x0A (num d) (num a) (0#3 ++ w ++ p)).extractLsb' 0 6 = p := by
    unfold encRI
    rw [extract_within _ _ (by decide), extract_within _ _ (by decide)]
    exact extract_all _
  have h : w.toNat + 1 + p.toNat ≤ 64 := by simpa [WellFormed] using h
  unfold decodeBfi shField
  rw [h1, h2, h3]
  simp [h]
theorem dec_lui (d : Reg) (i : BitVec 20) : decode (encU 0x0B (num d) i) = .ok (.lui d i) := by
  rw [decode_0B (fMajor_encU ..)]
  simp
theorem dec_luih (d : Reg) (i : BitVec 20) : decode (encU 0x0C (num d) i) = .ok (.luih d i) := by
  rw [decode_0C (fMajor_encU ..)]
  simp
theorem dec_adpc (d : Reg) (i : BitVec 20) : decode (encU 0x0D (num d) i) = .ok (.adpc d i) := by
  rw [decode_0D (fMajor_encU ..)]
  simp
theorem dec_beq (a : Reg) (b : Reg) (o : BitVec 15) : decode (encRI 0x10 (num a) (num b) o) = .ok (.beq a b o) := by
  rw [decode_10 (fMajor_encRI ..)]
  simp
theorem dec_bne (a : Reg) (b : Reg) (o : BitVec 15) : decode (encRI 0x11 (num a) (num b) o) = .ok (.bne a b o) := by
  rw [decode_11 (fMajor_encRI ..)]
  simp
theorem dec_blt (a : Reg) (b : Reg) (o : BitVec 15) : decode (encRI 0x12 (num a) (num b) o) = .ok (.blt a b o) := by
  rw [decode_12 (fMajor_encRI ..)]
  simp
theorem dec_bge (a : Reg) (b : Reg) (o : BitVec 15) : decode (encRI 0x13 (num a) (num b) o) = .ok (.bge a b o) := by
  rw [decode_13 (fMajor_encRI ..)]
  simp
theorem dec_bltn (a : Reg) (b : Reg) (o : BitVec 15) : decode (encRI 0x14 (num a) (num b) o) = .ok (.bltn a b o) := by
  rw [decode_14 (fMajor_encRI ..)]
  simp
theorem dec_bgen (a : Reg) (b : Reg) (o : BitVec 15) : decode (encRI 0x15 (num a) (num b) o) = .ok (.bgen a b o) := by
  rw [decode_15 (fMajor_encRI ..)]
  simp
theorem dec_j (o : BitVec 25) : decode (encJ 0x16 o) = .ok (.j o) := by
  rw [decode_16 (fMajor_encJ ..)]
  simp
theorem dec_jal (o : BitVec 25) : decode (encJ 0x17 o) = .ok (.jal o) := by
  rw [decode_17 (fMajor_encJ ..)]
  simp
theorem dec_jalr (d : Reg) (a : Reg) (i : BitVec 15) : decode (encRI 0x18 (num d) (num a) i) = .ok (.jalr d a i) := by
  rw [decode_18 (fMajor_encRI ..)]
  simp
theorem dec_loop (a : Reg) (o : BitVec 15) (h : WellFormed (.loop a o) = true) : decode (encRI 0x19 (num a) 0 o) = .ok (.loop a o) := by
  rw [decode_19 (fMajor_encRI ..)]
  have h : ¬ a = 0 := by simpa [WellFormed] using h
  have h1 : ¬ num a = 0 := fun e => h (congrArg reg e)
  rw [decodeLoop, fA_encRI, if_pos rfl, fD_encRI, if_neg h1]
  simp
theorem dec_trap (c : BitVec 11) : decode (encM 0x1A 0 0 0 (0#1 ++ c)) = .ok (.trap c) := by
  rw [decode_1A (fMajor_encM ..)]
  have h1 : (encM 0x1A 0 0 0 (0#1 ++ c)).extractLsb' 11 1 = 0#1 := by
    unfold encM
    rw [extract_within _ _ (by decide), extract_high _ _ (by decide)]
    exact extract_all _
  have h2 : (encM 0x1A 0 0 0 (0#1 ++ c)).extractLsb' 0 11 = c := by
    unfold encM
    rw [extract_within _ _ (by decide), extract_within _ _ (by decide)]
    exact extract_all _
  unfold decodeSysi
  rw [fQual_encM, h1, h2]
  simp
theorem dec_trapService (c : BitVec 11) (h : WellFormed (.trapService c) = true) : decode (encM 0x1A 0 0 0 (1#1 ++ c)) = .ok (.trapService c) := by
  rw [decode_1A (fMajor_encM ..)]
  have h1 : (encM 0x1A 0 0 0 (1#1 ++ c)).extractLsb' 11 1 = 1#1 := by
    unfold encM
    rw [extract_within _ _ (by decide), extract_high _ _ (by decide)]
    exact extract_all _
  have h2 : (encM 0x1A 0 0 0 (1#1 ++ c)).extractLsb' 0 11 = c := by
    unfold encM
    rw [extract_within _ _ (by decide), extract_within _ _ (by decide)]
    exact extract_all _
  have h : ¬ c = 2047#11 := by simpa [WellFormed] using h
  unfold decodeSysi
  rw [fQual_encM, h1, h2]
  simp [h]
theorem dec_tret  : decode (encM 0x1A 0 0 0 0xFFF) = .ok (.tret) := by
  decide
theorem dec_mfs (d : Reg) (n : BitVec 12) : decode (encM 0x1A (num d) 0 1 n) = .ok (.mfs d n) := by
  rw [decode_1A (fMajor_encM ..)]
  unfold decodeSysi
  rw [fQual_encM]
  simp
theorem dec_mts (a : Reg) (n : BitVec 12) : decode (encM 0x1A 0 (num a) 2 n) = .ok (.mts a n) := by
  rw [decode_1A (fMajor_encM ..)]
  unfold decodeSysi
  rw [fQual_encM]
  simp
theorem dec_eret  : decode (encRR 0x1B (0) (0) (0) 0x00 0) = .ok (.eret) := by
  rw [decode_1B (fMajor_encRR ..), decodeSys_00 (fOp5_encRR ..)]
  exact shNone_enc ..
theorem dec_yield  : decode (encRR 0x1B (0) (0) (0) 0x01 0) = .ok (.yield) := by
  rw [decode_1B (fMajor_encRR ..), decodeSys_01 (fOp5_encRR ..)]
  exact shNone_enc ..
theorem dec_halt  : decode (encRR 0x1B (0) (0) (0) 0x02 0) = .ok (.halt) := by
  rw [decode_1B (fMajor_encRR ..), decodeSys_02 (fOp5_encRR ..)]
  exact shNone_enc ..
theorem dec_tnow (d : Reg) : decode (encRR 0x1B (num d) (0) (0) 0x03 0) = .ok (.tnow d) := by
  rw [decode_1B (fMajor_encRR ..), decodeSys_03 (fOp5_encRR ..)]
  exact shD_enc ..
theorem dec_twait (d : Reg) (a : Reg) : decode (encRR 0x1B (num d) (num a) (0) 0x04 0) = .ok (.twait d a) := by
  rw [decode_1B (fMajor_encRR ..), decodeSys_04 (fOp5_encRR ..)]
  exact shDA_enc ..
theorem dec_qgrd (d : Reg) : decode (encRR 0x1B (num d) (0) (0) 0x05 0) = .ok (.qgrd d) := by
  rw [decode_1B (fMajor_encRR ..), decodeSys_05 (fOp5_encRR ..)]
  exact shD_enc ..
theorem dec_qtop (d : Reg) (a : Reg) : decode (encRR 0x1B (num d) (num a) (0) 0x06 0) = .ok (.qtop d a) := by
  rw [decode_1B (fMajor_encRR ..), decodeSys_06 (fOp5_encRR ..)]
  exact shDA_enc ..
theorem dec_qspd (d : Reg) (a : Reg) : decode (encRR 0x1B (num d) (num a) (0) 0x07 0) = .ok (.qspd d a) := by
  rw [decode_1B (fMajor_encRR ..), decodeSys_07 (fOp5_encRR ..)]
  exact shDA_enc ..
theorem dec_qblt (d : Reg) (a : Reg) (b : Reg) : decode (encRR 0x1B (num d) (num a) (num b) 0x08 0) = .ok (.qblt d a b) := by
  rw [decode_1B (fMajor_encRR ..), decodeSys_08 (fOp5_encRR ..)]
  exact shDAB_enc ..
theorem dec_qrng (d : Reg) (a : Reg) : decode (encRR 0x1B (num d) (num a) (0) 0x09 0) = .ok (.qrng d a) := by
  rw [decode_1B (fMajor_encRR ..), decodeSys_09 (fOp5_encRR ..)]
  exact shDA_enc ..
theorem dec_coff (a : Reg) : decode (encRR 0x1B (0) (num a) (0) 0x0A 0) = .ok (.coff a) := by
  rw [decode_1B (fMajor_encRR ..), decodeSys_0A (fOp5_encRR ..)]
  exact shA_enc ..
theorem dec_sigv (a : Reg) (b : Reg) : decode (encRR 0x1B (0) (num a) (num b) 0x0B 0) = .ok (.sigv a b) := by
  rw [decode_1B (fMajor_encRR ..), decodeSys_0B (fOp5_encRR ..)]
  exact shAB_enc ..
theorem dec_crcc (d : Reg) (a : Reg) (b : Reg) (n : BitVec 3) : decode (encRR 0x1B (num d) (num a) (num b) 0x0C (0#2 ++ n)) = .ok (.crcc d a b n) := by
  rw [decode_1B (fMajor_encRR ..), decodeSys_0C (fOp5_encRR ..)]
  have h1 : (encRR 0x1B (num d) (num a) (num b) 0x0C (0#2 ++ n)).extractLsb' 3 2 = 0 := by
    unfold encRR
    rw [extract_within _ _ (by decide), extract_high _ _ (by decide)]
    exact extract_all _
  have h2 : (encRR 0x1B (num d) (num a) (num b) 0x0C (0#2 ++ n)).extractLsb' 0 3 = n := by
    unfold encRR
    rw [extract_within _ _ (by decide), extract_within _ _ (by decide)]
    exact extract_all _
  rw [if_pos h1, h2]
  simp
theorem dec_fadd (t : FType) (d : Reg) (a : Reg) (b : Reg) (r : RmField) : decode (encRR (fpMajor t) (num d) (num a) (num b) 0x00 (rmCode r)) = .ok (.fadd t d a b r) := by
  rw [decode_fp (fMajor_encRR ..), decodeFp_00 (fOp5_encRR ..)]
  simp [withRm_enc]
theorem dec_fsub (t : FType) (d : Reg) (a : Reg) (b : Reg) (r : RmField) : decode (encRR (fpMajor t) (num d) (num a) (num b) 0x01 (rmCode r)) = .ok (.fsub t d a b r) := by
  rw [decode_fp (fMajor_encRR ..), decodeFp_01 (fOp5_encRR ..)]
  simp [withRm_enc]
theorem dec_fmul (t : FType) (d : Reg) (a : Reg) (b : Reg) (r : RmField) : decode (encRR (fpMajor t) (num d) (num a) (num b) 0x02 (rmCode r)) = .ok (.fmul t d a b r) := by
  rw [decode_fp (fMajor_encRR ..), decodeFp_02 (fOp5_encRR ..)]
  simp [withRm_enc]
theorem dec_fdiv (t : FType) (d : Reg) (a : Reg) (b : Reg) (r : RmField) : decode (encRR (fpMajor t) (num d) (num a) (num b) 0x03 (rmCode r)) = .ok (.fdiv t d a b r) := by
  rw [decode_fp (fMajor_encRR ..), decodeFp_03 (fOp5_encRR ..)]
  simp [withRm_enc]
theorem dec_fsqrt (t : FType) (d : Reg) (a : Reg) (r : RmField) : decode (encRR (fpMajor t) (num d) (num a) 0 0x04 (rmCode r)) = .ok (.fsqrt t d a r) := by
  rw [decode_fp (fMajor_encRR ..), decodeFp_04 (fOp5_encRR ..)]
  simp [withRm_enc]
theorem dec_fmin (t : FType) (d : Reg) (a : Reg) (b : Reg) : decode (encRR (fpMajor t) (num d) (num a) (num b) 0x05 0) = .ok (.fmin t d a b) := by
  rw [decode_fp (fMajor_encRR ..), decodeFp_05 (fOp5_encRR ..)]
  exact shDAB_enc ..
theorem dec_fmax (t : FType) (d : Reg) (a : Reg) (b : Reg) : decode (encRR (fpMajor t) (num d) (num a) (num b) 0x06 0) = .ok (.fmax t d a b) := by
  rw [decode_fp (fMajor_encRR ..), decodeFp_06 (fOp5_encRR ..)]
  exact shDAB_enc ..
theorem dec_fabs (t : FType) (d : Reg) (a : Reg) : decode (encRR (fpMajor t) (num d) (num a) 0 0x07 0) = .ok (.fabs t d a) := by
  rw [decode_fp (fMajor_encRR ..), decodeFp_07 (fOp5_encRR ..)]
  exact shDA_enc ..
theorem dec_fneg (t : FType) (d : Reg) (a : Reg) : decode (encRR (fpMajor t) (num d) (num a) 0 0x08 0) = .ok (.fneg t d a) := by
  rw [decode_fp (fMajor_encRR ..), decodeFp_08 (fOp5_encRR ..)]
  exact shDA_enc ..
theorem dec_fsgn (t : FType) (d : Reg) (a : Reg) (b : Reg) : decode (encRR (fpMajor t) (num d) (num a) (num b) 0x09 0) = .ok (.fsgn t d a b) := by
  rw [decode_fp (fMajor_encRR ..), decodeFp_09 (fOp5_encRR ..)]
  exact shDAB_enc ..
theorem dec_feq (t : FType) (d : Reg) (a : Reg) (b : Reg) : decode (encRR (fpMajor t) (num d) (num a) (num b) 0x0A 0) = .ok (.feq t d a b) := by
  rw [decode_fp (fMajor_encRR ..), decodeFp_0A (fOp5_encRR ..)]
  exact shDAB_enc ..
theorem dec_flt (t : FType) (d : Reg) (a : Reg) (b : Reg) : decode (encRR (fpMajor t) (num d) (num a) (num b) 0x0B 0) = .ok (.flt t d a b) := by
  rw [decode_fp (fMajor_encRR ..), decodeFp_0B (fOp5_encRR ..)]
  exact shDAB_enc ..
theorem dec_fle (t : FType) (d : Reg) (a : Reg) (b : Reg) : decode (encRR (fpMajor t) (num d) (num a) (num b) 0x0C 0) = .ok (.fle t d a b) := by
  rw [decode_fp (fMajor_encRR ..), decodeFp_0C (fOp5_encRR ..)]
  exact shDAB_enc ..
theorem dec_fcls (t : FType) (d : Reg) (a : Reg) : decode (encRR (fpMajor t) (num d) (num a) 0 0x0D 0) = .ok (.fcls t d a) := by
  rw [decode_fp (fMajor_encRR ..), decodeFp_0D (fOp5_encRR ..)]
  exact shDA_enc ..
theorem dec_ffma (t : FType) (d : Reg) (a : Reg) (b : Reg) (c : Reg) : decode (encRR (fpMajor t) (num d) (num a) (num b) 0x0E (num c)) = .ok (.ffma t d a b c) := by
  rw [decode_fp (fMajor_encRR ..), decodeFp_0E (fOp5_encRR ..)]
  simp
theorem dec_ffms (t : FType) (d : Reg) (a : Reg) (b : Reg) (c : Reg) : decode (encRR (fpMajor t) (num d) (num a) (num b) 0x0F (num c)) = .ok (.ffms t d a b c) := by
  rw [decode_fp (fMajor_encRR ..), decodeFp_0F (fOp5_encRR ..)]
  simp
theorem dec_fcvt (t : FType) (d : Reg) (a : Reg) (src : FType) (r : RmField) (h : WellFormed (.fcvt t d a src r) = true) : decode (encRR (fpMajor t) (num d) (num a) (ftypeCode src) 0x10 (rmCode r)) = .ok (.fcvt t d a src r) := by
  rw [decode_fp (fMajor_encRR ..), decodeFp_10 (fOp5_encRR ..)]
  have h : ¬ t = src := by simpa [WellFormed] using h
  simp [withRm_enc, h]
theorem dec_fcvi (t : FType) (d : Reg) (a : Reg) (ty : IntType) (r : RmField) : decode (encRR (fpMajor t) (num d) (num a) (intTypeCode ty) 0x11 (rmCode r)) = .ok (.fcvi t d a ty r) := by
  rw [decode_fp (fMajor_encRR ..), decodeFp_11 (fOp5_encRR ..)]
  simp [withRm_enc]
theorem dec_icvf (t : FType) (d : Reg) (a : Reg) (ty : IntType) (r : RmField) : decode (encRR (fpMajor t) (num d) (num a) (intTypeCode ty) 0x12 (rmCode r)) = .ok (.icvf t d a ty r) := by
  rw [decode_fp (fMajor_encRR ..), decodeFp_12 (fOp5_encRR ..)]
  simp [withRm_enc]
theorem dec_frnd (t : FType) (d : Reg) (a : Reg) (r : RmField) : decode (encRR (fpMajor t) (num d) (num a) 0 0x13 (rmCode r)) = .ok (.frnd t d a r) := by
  rw [decode_fp (fMajor_encRR ..), decodeFp_13 (fOp5_encRR ..)]
  simp [withRm_enc]
theorem dec_fscl (t : FType) (d : Reg) (a : Reg) (b : Reg) (r : RmField) : decode (encRR (fpMajor t) (num d) (num a) (num b) 0x14 (rmCode r)) = .ok (.fscl t d a b r) := by
  rw [decode_fp (fMajor_encRR ..), decodeFp_14 (fOp5_encRR ..)]
  simp [withRm_enc]
theorem dec_mvgf (t : FType) (d : Reg) (a : Reg) : decode (encRR (fpMajor t) (num d) (num a) 0 0x15 0) = .ok (.mvgf t d a) := by
  rw [decode_fp (fMajor_encRR ..), decodeFp_15 (fOp5_encRR ..)]
  exact shDA_enc ..
theorem dec_mvfg (t : FType) (d : Reg) (a : Reg) : decode (encRR (fpMajor t) (num d) (num a) 0 0x16 0) = .ok (.mvfg t d a) := by
  rw [decode_fp (fMajor_encRR ..), decodeFp_16 (fOp5_encRR ..)]
  exact shDA_enc ..
theorem dec_tenc (t : FType) (d : Reg) (a : Reg) (n : Fin 4) : decode (encRR (fpMajor t) (num d) (num a) (smallCode n) 0x17 0) = .ok (.tenc t d a n) := by
  rw [decode_fp (fMajor_encRR ..), decodeFp_17 (fOp5_encRR ..)]
  simp [reg_zero]
theorem dec_tdec (d : Reg) (a : Reg) (n : Fin 4) : decode (encRR 0x24 (num d) (num a) (smallCode n) 0x18 0) = .ok (.tdec d a n) := by
  rw [decode_24 (fMajor_encRR ..), decodeFp_18 (fOp5_encRR ..)]
  simp [reg_zero]
theorem dec_tbld (a : Reg) (n : Fin 4) : decode (encRR 0x24 0 (num a) (smallCode n) 0x19 0) = .ok (.tbld a n) := by
  rw [decode_24 (fMajor_encRR ..), decodeFp_19 (fOp5_encRR ..)]
  simp [reg_zero]
theorem dec_ldB (d : Reg) (b : Reg) (q : LoadQual) (o : BitVec 12) : decode (encM 0x30 (num d) (num b) (loadQualCode q) o) = .ok (.ldB d b q o) := by
  rw [decode_30 (fMajor_encM ..)]
  exact shLoad_enc ..
theorem dec_ldH (d : Reg) (b : Reg) (q : LoadQual) (o : BitVec 12) : decode (encM 0x31 (num d) (num b) (loadQualCode q) o) = .ok (.ldH d b q o) := by
  rw [decode_31 (fMajor_encM ..)]
  exact shLoad_enc ..
theorem dec_ldW (d : Reg) (b : Reg) (q : LoadQual) (o : BitVec 12) : decode (encM 0x32 (num d) (num b) (loadQualCode q) o) = .ok (.ldW d b q o) := by
  rw [decode_32 (fMajor_encM ..)]
  exact shLoad_enc ..
theorem dec_ldD (d : Reg) (b : Reg) (q : LoadQual) (o : BitVec 12) : decode (encM 0x33 (num d) (num b) (loadQualCode q) o) = .ok (.ldD d b q o) := by
  rw [decode_33 (fMajor_encM ..)]
  exact shLoad_enc ..
theorem dec_ldnB (d : Reg) (b : Reg) (q : LoadQual) (o : BitVec 12) : decode (encM 0x34 (num d) (num b) (loadQualCode q) o) = .ok (.ldnB d b q o) := by
  rw [decode_34 (fMajor_encM ..)]
  exact shLoad_enc ..
theorem dec_ldnH (d : Reg) (b : Reg) (q : LoadQual) (o : BitVec 12) : decode (encM 0x35 (num d) (num b) (loadQualCode q) o) = .ok (.ldnH d b q o) := by
  rw [decode_35 (fMajor_encM ..)]
  exact shLoad_enc ..
theorem dec_ldnW (d : Reg) (b : Reg) (q : LoadQual) (o : BitVec 12) : decode (encM 0x36 (num d) (num b) (loadQualCode q) o) = .ok (.ldnW d b q o) := by
  rw [decode_36 (fMajor_encM ..)]
  exact shLoad_enc ..
theorem dec_stB (d : Reg) (b : Reg) (q : StoreQual) (o : BitVec 12) : decode (encM 0x38 (num d) (num b) (storeQualCode q) o) = .ok (.stB d b q o) := by
  rw [decode_38 (fMajor_encM ..)]
  exact shStore_enc ..
theorem dec_stH (d : Reg) (b : Reg) (q : StoreQual) (o : BitVec 12) : decode (encM 0x39 (num d) (num b) (storeQualCode q) o) = .ok (.stH d b q o) := by
  rw [decode_39 (fMajor_encM ..)]
  exact shStore_enc ..
theorem dec_stW (d : Reg) (b : Reg) (q : StoreQual) (o : BitVec 12) : decode (encM 0x3A (num d) (num b) (storeQualCode q) o) = .ok (.stW d b q o) := by
  rw [decode_3A (fMajor_encM ..)]
  exact shStore_enc ..
theorem dec_stD (d : Reg) (b : Reg) (q : StoreQual) (o : BitVec 12) : decode (encM 0x3B (num d) (num b) (storeQualCode q) o) = .ok (.stD d b q o) := by
  rw [decode_3B (fMajor_encM ..)]
  exact shStore_enc ..
theorem dec_ldfH (d : Reg) (b : Reg) (q : LoadQual) (o : BitVec 12) : decode (encM 0x3C (num d) (num b) (loadQualCode q) o) = .ok (.ldfH d b q o) := by
  rw [decode_3C (fMajor_encM ..)]
  exact shLoad_enc ..
theorem dec_ldfW (d : Reg) (b : Reg) (q : LoadQual) (o : BitVec 12) : decode (encM 0x3D (num d) (num b) (loadQualCode q) o) = .ok (.ldfW d b q o) := by
  rw [decode_3D (fMajor_encM ..)]
  exact shLoad_enc ..
theorem dec_ldfD (d : Reg) (b : Reg) (q : LoadQual) (o : BitVec 12) : decode (encM 0x3E (num d) (num b) (loadQualCode q) o) = .ok (.ldfD d b q o) := by
  rw [decode_3E (fMajor_encM ..)]
  exact shLoad_enc ..
theorem dec_stfH (d : Reg) (b : Reg) (q : StoreQual) (o : BitVec 12) : decode (encM 0x40 (num d) (num b) (storeQualCode q) o) = .ok (.stfH d b q o) := by
  rw [decode_40 (fMajor_encM ..)]
  exact shStore_enc ..
theorem dec_stfW (d : Reg) (b : Reg) (q : StoreQual) (o : BitVec 12) : decode (encM 0x41 (num d) (num b) (storeQualCode q) o) = .ok (.stfW d b q o) := by
  rw [decode_41 (fMajor_encM ..)]
  exact shStore_enc ..
theorem dec_stfD (d : Reg) (b : Reg) (q : StoreQual) (o : BitVec 12) : decode (encM 0x42 (num d) (num b) (storeQualCode q) o) = .ok (.stfD d b q o) := by
  rw [decode_42 (fMajor_encM ..)]
  exact shStore_enc ..
theorem dec_ldp (d : Reg) (b : Reg) (q : LoadQual) (o : BitVec 12) (h : WellFormed (.ldp d b q o) = true) : decode (encM 0x43 (num d) (num b) (loadQualCode q) o) = .ok (.ldp d b q o) := by
  rw [decode_43 (fMajor_encM ..)]
  have h : d.val % 2 = 0 := by simpa [WellFormed] using h
  unfold shEven
  rw [shLoad_enc, fD_encM, if_pos (show (num d).toNat % 2 = 0 from h)]
theorem dec_stp (d : Reg) (b : Reg) (q : StoreQual) (o : BitVec 12) (h : WellFormed (.stp d b q o) = true) : decode (encM 0x44 (num d) (num b) (storeQualCode q) o) = .ok (.stp d b q o) := by
  rw [decode_44 (fMajor_encM ..)]
  have h : d.val % 2 = 0 := by simpa [WellFormed] using h
  unfold shEven
  rw [shStore_enc, fD_encM, if_pos (show (num d).toNat % 2 = 0 from h)]
theorem dec_pref (h : PrefHint) (b : Reg) (o : BitVec 12) : decode (encM 0x45 (match h with | .read => 0 | .write => 1) (num b) 0 o) = .ok (.pref h b o) := by
  rw [decode_45 (fMajor_encM ..)]
  unfold decodePref
  rw [fQual_encM, if_pos rfl, fD_encM]
  cases h <;> simp
theorem dec_cfls (b : Reg) (o : BitVec 12) : decode (encM 0x46 0 (num b) 0 o) = .ok (.cfls b o) := by
  rw [decode_46 (fMajor_encM ..)]
  exact shBase_enc ..
theorem dec_cinv (b : Reg) (o : BitVec 12) : decode (encM 0x47 0 (num b) 0 o) = .ok (.cinv b o) := by
  rw [decode_47 (fMajor_encM ..)]
  exact shBase_enc ..
theorem dec_visit (b : Reg) (o : BitVec 12) : decode (encM 0x4A 0 (num b) 0 o) = .ok (.visit b o) := by
  rw [decode_4A (fMajor_encM ..)]
  exact shBase_enc ..
theorem dec_tgld (d : Reg) (b : Reg) (o : BitVec 12) : decode (encM 0x48 (num d) (num b) 0 o) = .ok (.tgld d b o) := by
  rw [decode_48 (fMajor_encM ..)]
  exact shTag_enc ..
theorem dec_tgst (d : Reg) (b : Reg) (o : BitVec 12) : decode (encM 0x49 (num d) (num b) 0 o) = .ok (.tgst d b o) := by
  rw [decode_49 (fMajor_encM ..)]
  exact shTag_enc ..
theorem dec_tkaq (a : Reg) : decode (encRR 0x50 (0) (num a) (0) 0x00 0) = .ok (.tkaq a) := by
  rw [decode_50 (fMajor_encRR ..), decodeOrd_00 (fOp5_encRR ..)]
  exact shA_enc ..
theorem dec_tkhd (a : Reg) (b : Reg) : decode (encRR 0x50 (0) (num a) (num b) 0x01 0) = .ok (.tkhd a b) := by
  rw [decode_50 (fMajor_encRR ..), decodeOrd_01 (fOp5_encRR ..)]
  exact shAB_enc ..
theorem dec_cflx (a : Reg) : decode (encRR 0x50 (0) (num a) (0) 0x02 0) = .ok (.cflx a) := by
  rw [decode_50 (fMajor_encRR ..), decodeOrd_02 (fOp5_encRR ..)]
  exact shA_enc ..
theorem dec_fenceAcq (s : Scope) : decode (encRI 0x51 0 0 (0#10 ++ 1#2 ++ scopeCode s)) = .ok (.fenceAcq s) := by
  rw [decode_51 (fMajor_encRI ..)]
  have h1 : (encRI 0x51 0 0 (0#10 ++ 1#2 ++ scopeCode s)).extractLsb' 5 10 = 0 := by
    unfold encRI
    rw [extract_within _ _ (by decide), extract_high _ _ (by decide), extract_high _ _ (by decide)]
    exact extract_all _
  have h2 : (encRI 0x51 0 0 (0#10 ++ 1#2 ++ scopeCode s)).extractLsb' 0 3 = scopeCode s := by
    unfold encRI
    rw [extract_within _ _ (by decide), extract_within _ _ (by decide)]
    exact extract_all _
  have h3 : (encRI 0x51 0 0 (0#10 ++ 1#2 ++ scopeCode s)).extractLsb' 3 2 = 1#2 := by
    unfold encRI
    rw [extract_within _ _ (by decide), extract_high _ _ (by decide), extract_within _ _ (by decide)]
    exact extract_all _
  unfold decodeFence
  rw [h1, h2, h3, scopeOf_scopeCode]
  simp
theorem dec_fenceRel (s : Scope) : decode (encRI 0x51 0 0 (0#10 ++ 2#2 ++ scopeCode s)) = .ok (.fenceRel s) := by
  rw [decode_51 (fMajor_encRI ..)]
  have h1 : (encRI 0x51 0 0 (0#10 ++ 2#2 ++ scopeCode s)).extractLsb' 5 10 = 0 := by
    unfold encRI
    rw [extract_within _ _ (by decide), extract_high _ _ (by decide), extract_high _ _ (by decide)]
    exact extract_all _
  have h2 : (encRI 0x51 0 0 (0#10 ++ 2#2 ++ scopeCode s)).extractLsb' 0 3 = scopeCode s := by
    unfold encRI
    rw [extract_within _ _ (by decide), extract_within _ _ (by decide)]
    exact extract_all _
  have h3 : (encRI 0x51 0 0 (0#10 ++ 2#2 ++ scopeCode s)).extractLsb' 3 2 = 2#2 := by
    unfold encRI
    rw [extract_within _ _ (by decide), extract_high _ _ (by decide), extract_within _ _ (by decide)]
    exact extract_all _
  unfold decodeFence
  rw [h1, h2, h3, scopeOf_scopeCode]
  simp
theorem dec_fenceAr (s : Scope) : decode (encRI 0x51 0 0 (0#10 ++ 3#2 ++ scopeCode s)) = .ok (.fenceAr s) := by
  rw [decode_51 (fMajor_encRI ..)]
  have h1 : (encRI 0x51 0 0 (0#10 ++ 3#2 ++ scopeCode s)).extractLsb' 5 10 = 0 := by
    unfold encRI
    rw [extract_within _ _ (by decide), extract_high _ _ (by decide), extract_high _ _ (by decide)]
    exact extract_all _
  have h2 : (encRI 0x51 0 0 (0#10 ++ 3#2 ++ scopeCode s)).extractLsb' 0 3 = scopeCode s := by
    unfold encRI
    rw [extract_within _ _ (by decide), extract_within _ _ (by decide)]
    exact extract_all _
  have h3 : (encRI 0x51 0 0 (0#10 ++ 3#2 ++ scopeCode s)).extractLsb' 3 2 = 3#2 := by
    unfold encRI
    rw [extract_within _ _ (by decide), extract_high _ _ (by decide), extract_within _ _ (by decide)]
    exact extract_all _
  unfold decodeFence
  rw [h1, h2, h3, scopeOf_scopeCode]
  simp
theorem dec_aadd (a : Reg) (b : Reg) (z : AtomSize) : decode (encAt 0x52 0 (num a) (num b) 0x0 (sizeCode z) 0) = .ok (.aadd a b z) := by
  rw [decode_52 (fMajor_encAt ..), decodeAtom_0 (bits6_encAt ..)]
  exact shAtom_enc ..
theorem dec_aand (a : Reg) (b : Reg) (z : AtomSize) : decode (encAt 0x52 0 (num a) (num b) 0x1 (sizeCode z) 0) = .ok (.aand a b z) := by
  rw [decode_52 (fMajor_encAt ..), decodeAtom_1 (bits6_encAt ..)]
  exact shAtom_enc ..
theorem dec_aor (a : Reg) (b : Reg) (z : AtomSize) : decode (encAt 0x52 0 (num a) (num b) 0x2 (sizeCode z) 0) = .ok (.aor a b z) := by
  rw [decode_52 (fMajor_encAt ..), decodeAtom_2 (bits6_encAt ..)]
  exact shAtom_enc ..
theorem dec_axor (a : Reg) (b : Reg) (z : AtomSize) : decode (encAt 0x52 0 (num a) (num b) 0x3 (sizeCode z) 0) = .ok (.axor a b z) := by
  rw [decode_52 (fMajor_encAt ..), decodeAtom_3 (bits6_encAt ..)]
  exact shAtom_enc ..
theorem dec_amin (a : Reg) (b : Reg) (z : AtomSize) : decode (encAt 0x52 0 (num a) (num b) 0x4 (sizeCode z) 0) = .ok (.amin a b z) := by
  rw [decode_52 (fMajor_encAt ..), decodeAtom_4 (bits6_encAt ..)]
  exact shAtom_enc ..
theorem dec_amax (a : Reg) (b : Reg) (z : AtomSize) : decode (encAt 0x52 0 (num a) (num b) 0x5 (sizeCode z) 0) = .ok (.amax a b z) := by
  rw [decode_52 (fMajor_encAt ..), decodeAtom_5 (bits6_encAt ..)]
  exact shAtom_enc ..
theorem dec_aminn (a : Reg) (b : Reg) (z : AtomSize) : decode (encAt 0x52 0 (num a) (num b) 0x6 (sizeCode z) 0) = .ok (.aminn a b z) := by
  rw [decode_52 (fMajor_encAt ..), decodeAtom_6 (bits6_encAt ..)]
  exact shAtom_enc ..
theorem dec_amaxn (a : Reg) (b : Reg) (z : AtomSize) : decode (encAt 0x52 0 (num a) (num b) 0x7 (sizeCode z) 0) = .ok (.amaxn a b z) := by
  rw [decode_52 (fMajor_encAt ..), decodeAtom_7 (bits6_encAt ..)]
  exact shAtom_enc ..
theorem dec_aswp (a : Reg) (b : Reg) (z : AtomSize) : decode (encAt 0x52 0 (num a) (num b) 0x8 (sizeCode z) 0) = .ok (.aswp a b z) := by
  rw [decode_52 (fMajor_encAt ..), decodeAtom_8 (bits6_encAt ..)]
  exact shAtom_enc ..
theorem dec_acas (a : Reg) (b : Reg) (z : AtomSize) (c : Reg) : decode (encAt 0x52 0 (num a) (num b) 0x9 (sizeCode z) (num c)) = .ok (.acas a b z c) := by
  rw [decode_52 (fMajor_encAt ..), decodeAtom_9 (bits6_encAt ..)]
  rw [size_encAt, sizeOf_sizeCode]
  simp
theorem dec_afaddF32 (a : Reg) (b : Reg) : decode (encAt 0x52 0 (num a) (num b) 0xA 0 0) = .ok (.afaddF32 a b) := by
  rw [decode_52 (fMajor_encAt ..), decodeAtom_A (bits6_encAt ..)]
  rw [size_encAt]
  simp [shAB]
theorem dec_aaddR (d : Reg) (a : Reg) (b : Reg) (z : AtomSize) : decode (encAt 0x53 (num d) (num a) (num b) 0x0 (sizeCode z) 0) = .ok (.aaddR d a b z) := by
  rw [decode_53 (fMajor_encAt ..), decodeAtomR_0 (bits6_encAt ..)]
  exact shAtomR_enc ..
theorem dec_aandR (d : Reg) (a : Reg) (b : Reg) (z : AtomSize) : decode (encAt 0x53 (num d) (num a) (num b) 0x1 (sizeCode z) 0) = .ok (.aandR d a b z) := by
  rw [decode_53 (fMajor_encAt ..), decodeAtomR_1 (bits6_encAt ..)]
  exact shAtomR_enc ..
theorem dec_aorR (d : Reg) (a : Reg) (b : Reg) (z : AtomSize) : decode (encAt 0x53 (num d) (num a) (num b) 0x2 (sizeCode z) 0) = .ok (.aorR d a b z) := by
  rw [decode_53 (fMajor_encAt ..), decodeAtomR_2 (bits6_encAt ..)]
  exact shAtomR_enc ..
theorem dec_axorR (d : Reg) (a : Reg) (b : Reg) (z : AtomSize) : decode (encAt 0x53 (num d) (num a) (num b) 0x3 (sizeCode z) 0) = .ok (.axorR d a b z) := by
  rw [decode_53 (fMajor_encAt ..), decodeAtomR_3 (bits6_encAt ..)]
  exact shAtomR_enc ..
theorem dec_aminR (d : Reg) (a : Reg) (b : Reg) (z : AtomSize) : decode (encAt 0x53 (num d) (num a) (num b) 0x4 (sizeCode z) 0) = .ok (.aminR d a b z) := by
  rw [decode_53 (fMajor_encAt ..), decodeAtomR_4 (bits6_encAt ..)]
  exact shAtomR_enc ..
theorem dec_amaxR (d : Reg) (a : Reg) (b : Reg) (z : AtomSize) : decode (encAt 0x53 (num d) (num a) (num b) 0x5 (sizeCode z) 0) = .ok (.amaxR d a b z) := by
  rw [decode_53 (fMajor_encAt ..), decodeAtomR_5 (bits6_encAt ..)]
  exact shAtomR_enc ..
theorem dec_aminnR (d : Reg) (a : Reg) (b : Reg) (z : AtomSize) : decode (encAt 0x53 (num d) (num a) (num b) 0x6 (sizeCode z) 0) = .ok (.aminnR d a b z) := by
  rw [decode_53 (fMajor_encAt ..), decodeAtomR_6 (bits6_encAt ..)]
  exact shAtomR_enc ..
theorem dec_amaxnR (d : Reg) (a : Reg) (b : Reg) (z : AtomSize) : decode (encAt 0x53 (num d) (num a) (num b) 0x7 (sizeCode z) 0) = .ok (.amaxnR d a b z) := by
  rw [decode_53 (fMajor_encAt ..), decodeAtomR_7 (bits6_encAt ..)]
  exact shAtomR_enc ..
theorem dec_aswpR (d : Reg) (a : Reg) (b : Reg) (z : AtomSize) : decode (encAt 0x53 (num d) (num a) (num b) 0x8 (sizeCode z) 0) = .ok (.aswpR d a b z) := by
  rw [decode_53 (fMajor_encAt ..), decodeAtomR_8 (bits6_encAt ..)]
  exact shAtomR_enc ..
theorem dec_acasR (d : Reg) (a : Reg) (b : Reg) (z : AtomSize) (c : Reg) : decode (encAt 0x53 (num d) (num a) (num b) 0x9 (sizeCode z) (num c)) = .ok (.acasR d a b z c) := by
  rw [decode_53 (fMajor_encAt ..), decodeAtomR_9 (bits6_encAt ..)]
  rw [size_encAt, sizeOf_sizeCode]
  simp
theorem dec_afaddRF32 (d : Reg) (a : Reg) (b : Reg) : decode (encAt 0x53 (num d) (num a) (num b) 0xA 0 0) = .ok (.afaddRF32 d a b) := by
  rw [decode_53 (fMajor_encAt ..), decodeAtomR_A (bits6_encAt ..)]
  rw [size_encAt]
  simp [shDAB]
theorem dec_bara (a : Reg) : decode (encRR 0x54 (0) (num a) (0) 0x00 0) = .ok (.bara a) := by
  rw [decode_54 (fMajor_encRR ..), decodeSync_00 (fOp5_encRR ..)]
  exact shA_enc ..
theorem dec_barw (d : Reg) (a : Reg) (b : Reg) : decode (encRR 0x54 (num d) (num a) (num b) 0x01 0) = .ok (.barw d a b) := by
  rw [decode_54 (fMajor_encRR ..), decodeSync_01 (fOp5_encRR ..)]
  exact shDAB_enc ..
theorem dec_bars (d : Reg) (a : Reg) : decode (encRR 0x54 (num d) (num a) (0) 0x02 0) = .ok (.bars d a) := by
  rw [decode_54 (fMajor_encRR ..), decodeSync_02 (fOp5_encRR ..)]
  exact shDA_enc ..
theorem dec_acqs (d : Reg) (a : Reg) : decode (encRR 0x54 (num d) (num a) (0) 0x03 0) = .ok (.acqs d a) := by
  rw [decode_54 (fMajor_encRR ..), decodeSync_03 (fOp5_encRR ..)]
  exact shDA_enc ..
theorem dec_cmts (a : Reg) (b : Reg) : decode (encRR 0x54 (0) (num a) (num b) 0x04 0) = .ok (.cmts a b) := by
  rw [decode_54 (fMajor_encRR ..), decodeSync_04 (fOp5_encRR ..)]
  exact shAB_enc ..
theorem dec_peks (d : Reg) (a : Reg) : decode (encRR 0x54 (num d) (num a) (0) 0x05 0) = .ok (.peks d a) := by
  rw [decode_54 (fMajor_encRR ..), decodeSync_05 (fOp5_encRR ..)]
  exact shDA_enc ..
theorem dec_rels (a : Reg) (b : Reg) : decode (encRR 0x54 (0) (num a) (num b) 0x06 0) = .ok (.rels a b) := by
  rw [decode_54 (fMajor_encRR ..), decodeSync_06 (fOp5_encRR ..)]
  exact shAB_enc ..
theorem dec_wtfe (d : Reg) (a : Reg) (b : Reg) : decode (encRR 0x54 (num d) (num a) (num b) 0x07 0) = .ok (.wtfe d a b) := by
  rw [decode_54 (fMajor_encRR ..), decodeSync_07 (fOp5_encRR ..)]
  exact shDAB_enc ..
theorem dec_hnew (d : Reg) (a : Reg) : decode (encRR 0x55 (num d) (num a) (0) 0x00 0) = .ok (.hnew d a) := by
  rw [decode_55 (fMajor_encRR ..), decodeHyp_00 (fOp5_encRR ..)]
  exact shDA_enc ..
theorem dec_hset (a : Reg) : decode (encRR 0x55 (0) (num a) (0) 0x01 0) = .ok (.hset a) := by
  rw [decode_55 (fMajor_encRR ..), decodeHyp_01 (fOp5_encRR ..)]
  exact shA_enc ..
theorem dec_hget (d : Reg) : decode (encRR 0x55 (num d) (0) (0) 0x02 0) = .ok (.hget d) := by
  rw [decode_55 (fMajor_encRR ..), decodeHyp_02 (fOp5_encRR ..)]
  exact shD_enc ..
theorem dec_hconf (a : Reg) : decode (encRR 0x55 (0) (num a) (0) 0x03 0) = .ok (.hconf a) := by
  rw [decode_55 (fMajor_encRR ..), decodeHyp_03 (fOp5_encRR ..)]
  exact shA_enc ..
theorem dec_href (a : Reg) : decode (encRR 0x55 (0) (num a) (0) 0x04 0) = .ok (.href a) := by
  rw [decode_55 (fMajor_encRR ..), decodeHyp_04 (fOp5_encRR ..)]
  exact shA_enc ..
theorem dec_hstat (d : Reg) (a : Reg) : decode (encRR 0x55 (num d) (num a) (0) 0x05 0) = .ok (.hstat d a) := by
  rw [decode_55 (fMajor_encRR ..), decodeHyp_05 (fOp5_encRR ..)]
  exact shDA_enc ..
theorem dec_hwait (d : Reg) (a : Reg) (b : Reg) : decode (encRR 0x55 (num d) (num a) (num b) 0x06 0) = .ok (.hwait d a b) := by
  rw [decode_55 (fMajor_encRR ..), decodeHyp_06 (fOp5_encRR ..)]
  exact shDAB_enc ..
theorem dec_acca (a : Reg) (b : Reg) (n : Fin 4) : decode (encRR 0x56 0 (num a) (num b) 0x00 (smallCode n)) = .ok (.acca a b n) := by
  rw [decode_56 (fMajor_encRR ..)]
  unfold decodeAcc
  rw [fC_encRR, smallOf_smallCode, fOp5_encRR]
  simp
theorem dec_accr (a : Reg) (b : Reg) (n : Fin 4) : decode (encRR 0x56 0 (num a) (num b) 0x01 (smallCode n)) = .ok (.accr a b n) := by
  rw [decode_56 (fMajor_encRR ..)]
  unfold decodeAcc
  rw [fC_encRR, smallOf_smallCode, fOp5_encRR]
  simp
theorem dec_accz (n : Fin 4) : decode (encRR 0x56 0 0 0 0x02 (smallCode n)) = .ok (.accz n) := by
  rw [decode_56 (fMajor_encRR ..)]
  unfold decodeAcc
  rw [fC_encRR, smallOf_smallCode, fOp5_encRR]
  simp
theorem dec_accn (d : Reg) (b : Reg) (n : Fin 4) : decode (encRR 0x56 (num d) 0 (num b) 0x03 (smallCode n)) = .ok (.accn d b n) := by
  rw [decode_56 (fMajor_encRR ..)]
  unfold decodeAcc
  rw [fC_encRR, smallOf_smallCode, fOp5_encRR]
  simp
theorem dec_accx (d : Reg) (b : Reg) (n : Fin 4) : decode (encRR 0x56 (num d) 0 (num b) 0x04 (smallCode n)) = .ok (.accx d b n) := by
  rw [decode_56 (fMajor_encRR ..)]
  unfold decodeAcc
  rw [fC_encRR, smallOf_smallCode, fOp5_encRR]
  simp
theorem dec_lnch (a : Reg) (b : Reg) : decode (encRR 0x57 0 (num a) (num b) 0x00 0) = .ok (.lnch a b) := by
  rw [decode_57 (fMajor_encRR ..), decodeLnch_00 (fOp5_encRR ..)]
  exact shAB_enc ..
theorem dec_lnci (a : Reg) (b : Reg) (c : Reg) : decode (encRR 0x57 0 (num a) (num b) 0x01 (num c)) = .ok (.lnci a b c) := by
  rw [decode_57 (fMajor_encRR ..), decodeLnch_01 (fOp5_encRR ..)]
  simp

/-! ### Node and router words -/

theorem op_encNode (op : BitVec 8) (n : NodeFields) : (encNode op n).extractLsb' 56 8 = op := by
  unfold encNode
  repeat rw [extract_high _ _ (by decide)]
  exact extract_all _

theorem ety_encNode (op : BitVec 8) (n : NodeFields) : (encNode op n).extractLsb' 52 4 = n.ety := by
  unfold encNode
  rw [extract_high _ _ (by decide), extract_high _ _ (by decide), extract_high _ _ (by decide), extract_high _ _ (by decide), extract_high _ _ (by decide), extract_high _ _ (by decide), extract_within _ _ (by decide)]
  exact extract_all _
theorem fn_encNode (op : BitVec 8) (n : NodeFields) : (encNode op n).extractLsb' 48 4 = n.fn := by
  unfold encNode
  rw [extract_high _ _ (by decide), extract_high _ _ (by decide), extract_high _ _ (by decide), extract_high _ _ (by decide), extract_high _ _ (by decide), extract_within _ _ (by decide)]
  exact extract_all _
theorem ina_encNode (op : BitVec 8) (n : NodeFields) : (encNode op n).extractLsb' 44 4 = n.ina := by
  unfold encNode
  rw [extract_high _ _ (by decide), extract_high _ _ (by decide), extract_high _ _ (by decide), extract_high _ _ (by decide), extract_within _ _ (by decide)]
  exact extract_all _
theorem inb_encNode (op : BitVec 8) (n : NodeFields) : (encNode op n).extractLsb' 40 4 = n.inb := by
  unfold encNode
  rw [extract_high _ _ (by decide), extract_high _ _ (by decide), extract_high _ _ (by decide), extract_within _ _ (by decide)]
  exact extract_all _
theorem inc_encNode (op : BitVec 8) (n : NodeFields) : (encNode op n).extractLsb' 36 4 = n.inc := by
  unfold encNode
  rw [extract_high _ _ (by decide), extract_high _ _ (by decide), extract_within _ _ (by decide)]
  exact extract_all _
theorem omask_encNode (op : BitVec 8) (n : NodeFields) : (encNode op n).extractLsb' 20 16 = n.omask := by
  unfold encNode
  rw [extract_high _ _ (by decide), extract_within _ _ (by decide)]
  exact extract_all _
theorem param_encNode (op : BitVec 8) (n : NodeFields) : (encNode op n).extractLsb' 0 20 = n.param := by
  unfold encNode
  rw [extract_within _ _ (by decide)]
  exact extract_all _
theorem nodeFields_encNode (op : BitVec 8) (n : NodeFields) : nodeFields (encNode op n) = n := by
  unfold nodeFields
  rw [ety_encNode, fn_encNode, ina_encNode, inb_encNode, inc_encNode, omask_encNode, param_encNode]

theorem rop_encRouter (op : BitVec 4) (r : RouterFields) : (encRouter op r).extractLsb' 44 4 = op := by
  unfold encRouter
  rw [extract_high _ _ (by decide), extract_high _ _ (by decide), extract_high _ _ (by decide), extract_high _ _ (by decide), extract_high _ _ (by decide), extract_within _ _ (by decide)]
  exact extract_all _
theorem swmask_encRouter (op : BitVec 4) (r : RouterFields) : (encRouter op r).extractLsb' 48 16 = r.swmask := by
  unfold encRouter
  rw [extract_high _ _ (by decide), extract_high _ _ (by decide), extract_high _ _ (by decide), extract_high _ _ (by decide), extract_high _ _ (by decide), extract_high _ _ (by decide)]
  exact extract_all _
theorem ctl_encRouter (op : BitVec 4) (r : RouterFields) : (encRouter op r).extractLsb' 40 4 = r.ctl := by
  unfold encRouter
  rw [extract_high _ _ (by decide), extract_high _ _ (by decide), extract_high _ _ (by decide), extract_high _ _ (by decide), extract_within _ _ (by decide)]
  exact extract_all _
theorem ia_encRouter (op : BitVec 4) (r : RouterFields) : (encRouter op r).extractLsb' 36 4 = r.ia := by
  unfold encRouter
  rw [extract_high _ _ (by decide), extract_high _ _ (by decide), extract_high _ _ (by decide), extract_within _ _ (by decide)]
  exact extract_all _
theorem ib_encRouter (op : BitVec 4) (r : RouterFields) : (encRouter op r).extractLsb' 32 4 = r.ib := by
  unfold encRouter
  rw [extract_high _ _ (by decide), extract_high _ _ (by decide), extract_within _ _ (by decide)]
  exact extract_all _
theorem oa_encRouter (op : BitVec 4) (r : RouterFields) : (encRouter op r).extractLsb' 16 16 = r.oa := by
  unfold encRouter
  rw [extract_high _ _ (by decide), extract_within _ _ (by decide)]
  exact extract_all _
theorem ob_encRouter (op : BitVec 4) (r : RouterFields) : (encRouter op r).extractLsb' 0 16 = r.ob := by
  unfold encRouter
  rw [extract_within _ _ (by decide)]
  exact extract_all _
theorem routerFields_encRouter (op : BitVec 4) (r : RouterFields) : routerFields (encRouter op r) = r := by
  unfold routerFields
  rw [swmask_encRouter, ctl_encRouter, ia_encRouter, ib_encRouter, oa_encRouter, ob_encRouter]

theorem dec_nadd (n : NodeFields) : decodeNode (encNode 0x01 n) = .ok (.nadd n) := by
  unfold decodeNode; rw [op_encNode, nodeFields_encNode]; rfl
theorem dec_nsub (n : NodeFields) : decodeNode (encNode 0x02 n) = .ok (.nsub n) := by
  unfold decodeNode; rw [op_encNode, nodeFields_encNode]; rfl
theorem dec_nmul (n : NodeFields) : decodeNode (encNode 0x03 n) = .ok (.nmul n) := by
  unfold decodeNode; rw [op_encNode, nodeFields_encNode]; rfl
theorem dec_nfma (n : NodeFields) : decodeNode (encNode 0x04 n) = .ok (.nfma n) := by
  unfold decodeNode; rw [op_encNode, nodeFields_encNode]; rfl
theorem dec_nmin (n : NodeFields) : decodeNode (encNode 0x05 n) = .ok (.nmin n) := by
  unfold decodeNode; rw [op_encNode, nodeFields_encNode]; rfl
theorem dec_nmax (n : NodeFields) : decodeNode (encNode 0x06 n) = .ok (.nmax n) := by
  unfold decodeNode; rw [op_encNode, nodeFields_encNode]; rfl
theorem dec_nabs (n : NodeFields) : decodeNode (encNode 0x07 n) = .ok (.nabs n) := by
  unfold decodeNode; rw [op_encNode, nodeFields_encNode]; rfl
theorem dec_nneg (n : NodeFields) : decodeNode (encNode 0x08 n) = .ok (.nneg n) := by
  unfold decodeNode; rw [op_encNode, nodeFields_encNode]; rfl
theorem dec_ncmp (n : NodeFields) : decodeNode (encNode 0x09 n) = .ok (.ncmp n) := by
  unfold decodeNode; rw [op_encNode, nodeFields_encNode]; rfl
theorem dec_nsel (n : NodeFields) : decodeNode (encNode 0x0A n) = .ok (.nsel n) := by
  unfold decodeNode; rw [op_encNode, nodeFields_encNode]; rfl
theorem dec_ncvt (n : NodeFields) : decodeNode (encNode 0x0B n) = .ok (.ncvt n) := by
  unfold decodeNode; rw [op_encNode, nodeFields_encNode]; rfl
theorem dec_ndec (n : NodeFields) : decodeNode (encNode 0x0C n) = .ok (.ndec n) := by
  unfold decodeNode; rw [op_encNode, nodeFields_encNode]; rfl
theorem dec_nenc (n : NodeFields) : decodeNode (encNode 0x0D n) = .ok (.nenc n) := by
  unfold decodeNode; rw [op_encNode, nodeFields_encNode]; rfl
theorem dec_nand (n : NodeFields) : decodeNode (encNode 0x0E n) = .ok (.nand n) := by
  unfold decodeNode; rw [op_encNode, nodeFields_encNode]; rfl
theorem dec_nor (n : NodeFields) : decodeNode (encNode 0x0F n) = .ok (.nor n) := by
  unfold decodeNode; rw [op_encNode, nodeFields_encNode]; rfl
theorem dec_nxor (n : NodeFields) : decodeNode (encNode 0x10 n) = .ok (.nxor n) := by
  unfold decodeNode; rw [op_encNode, nodeFields_encNode]; rfl
theorem dec_nshl (n : NodeFields) : decodeNode (encNode 0x11 n) = .ok (.nshl n) := by
  unfold decodeNode; rw [op_encNode, nodeFields_encNode]; rfl
theorem dec_nshr (n : NodeFields) : decodeNode (encNode 0x12 n) = .ok (.nshr n) := by
  unfold decodeNode; rw [op_encNode, nodeFields_encNode]; rfl
theorem dec_nred (n : NodeFields) : decodeNode (encNode 0x13 n) = .ok (.nred n) := by
  unfold decodeNode; rw [op_encNode, nodeFields_encNode]; rfl
theorem dec_nacc (n : NodeFields) : decodeNode (encNode 0x14 n) = .ok (.nacc n) := by
  unfold decodeNode; rw [op_encNode, nodeFields_encNode]; rfl
theorem dec_ncnt (n : NodeFields) : decodeNode (encNode 0x15 n) = .ok (.ncnt n) := by
  unfold decodeNode; rw [op_encNode, nodeFields_encNode]; rfl
theorem dec_nbnd (n : NodeFields) : decodeNode (encNode 0x16 n) = .ok (.nbnd n) := by
  unfold decodeNode; rw [op_encNode, nodeFields_encNode]; rfl
theorem dec_ncon (n : NodeFields) : decodeNode (encNode 0x17 n) = .ok (.ncon n) := by
  unfold decodeNode; rw [op_encNode, nodeFields_encNode]; rfl
theorem dec_nrly (n : NodeFields) : decodeNode (encNode 0x18 n) = .ok (.nrly n) := by
  unfold decodeNode; rw [op_encNode, nodeFields_encNode]; rfl
theorem dec_nld (n : NodeFields) : decodeNode (encNode 0x20 n) = .ok (.nld n) := by
  unfold decodeNode; rw [op_encNode, nodeFields_encNode]; rfl
theorem dec_nst (n : NodeFields) : decodeNode (encNode 0x21 n) = .ok (.nst n) := by
  unfold decodeNode; rw [op_encNode, nodeFields_encNode]; rfl
theorem dec_nown (n : NodeFields) : decodeNode (encNode 0x22 n) = .ok (.nown n) := by
  unfold decodeNode; rw [op_encNode, nodeFields_encNode]; rfl
theorem dec_ndor (n : NodeFields) : decodeNode (encNode 0x23 n) = .ok (.ndor n) := by
  unfold decodeNode; rw [op_encNode, nodeFields_encNode]; rfl
theorem dec_sectionStep (n : NodeFields) : decodeNode (encNode 0x30 n) = .ok (.sectionStep n) := by
  unfold decodeNode; rw [op_encNode, nodeFields_encNode]; rfl
theorem dec_steer (r : RouterFields) : decodeRouter (encRouter 0x1 r) = .ok (.steer r) := by
  unfold decodeRouter; rw [rop_encRouter, routerFields_encRouter]; rfl
theorem dec_carry (r : RouterFields) : decodeRouter (encRouter 0x2 r) = .ok (.carry r) := by
  unfold decodeRouter; rw [rop_encRouter, routerFields_encRouter]; rfl
theorem dec_invar (r : RouterFields) : decodeRouter (encRouter 0x3 r) = .ok (.invar r) := by
  unfold decodeRouter; rw [rop_encRouter, routerFields_encRouter]; rfl
theorem dec_merge (r : RouterFields) : decodeRouter (encRouter 0x4 r) = .ok (.merge r) := by
  unfold decodeRouter; rw [rop_encRouter, routerFields_encRouter]; rfl
theorem dec_gate (r : RouterFields) : decodeRouter (encRouter 0x5 r) = .ok (.gate r) := by
  unfold decodeRouter; rw [rop_encRouter, routerFields_encRouter]; rfl
theorem dec_fork (r : RouterFields) : decodeRouter (encRouter 0x6 r) = .ok (.fork r) := by
  unfold decodeRouter; rw [rop_encRouter, routerFields_encRouter]; rfl
theorem dec_sink (r : RouterFields) : decodeRouter (encRouter 0x7 r) = .ok (.sink r) := by
  unfold decodeRouter; rw [rop_encRouter, routerFields_encRouter]; rfl
theorem dec_cseq (r : RouterFields) : decodeRouter (encRouter 0x8 r) = .ok (.cseq r) := by
  unfold decodeRouter; rw [rop_encRouter, routerFields_encRouter]; rfl
theorem dec_cpip (r : RouterFields) : decodeRouter (encRouter 0x9 r) = .ok (.cpip r) := by
  unfold decodeRouter; rw [rop_encRouter, routerFields_encRouter]; rfl
theorem dec_cstr (r : RouterFields) : decodeRouter (encRouter 0xA r) = .ok (.cstr r) := by
  unfold decodeRouter; rw [rop_encRouter, routerFields_encRouter]; rfl

/-! ### Stream commands -/

theorem op_encCmd (op : BitVec 8) (q : CmdQual) (sp : BitVec 6) (t : BitVec 8) (x : BitVec 104) :
    (encCmd op q sp t x).extractLsb' 120 8 = op := by
  unfold encCmd
  repeat rw [extract_high _ _ (by decide)]
  exact extract_all _
theorem qual_encCmd (op : BitVec 8) (q : CmdQual) (sp : BitVec 6) (t : BitVec 8) (x : BitVec 104) :
    cmdQual (encCmd op q sp t x) = q := by
  unfold cmdQual encCmd
  rw [bit_high _ _ (by decide), bit_high _ _ (by decide), bit_high _ _ (by decide), bit_high _ _ (by decide), bit_low _ _ (by decide),
    bit_ofBool, bit_high _ _ (by decide), bit_high _ _ (by decide), bit_high _ _ (by decide), bit_low _ _ (by decide), bit_ofBool]
theorem special_encCmd (op : BitVec 8) (q : CmdQual) (sp : BitVec 6) (t : BitVec 8) (x : BitVec 104) :
    (encCmd op q sp t x).extractLsb' 112 6 = sp := by
  unfold encCmd
  rw [extract_high _ _ (by decide), extract_high _ _ (by decide), extract_within _ _ (by decide)]
  exact extract_all _
theorem special_bit_encCmd (op : BitVec 8) (q : CmdQual) (sp : BitVec 6) (t : BitVec 8) (x : BitVec 104) (i : Nat) (h : 112 ≤ i)
    (h' : i < 118) : (encCmd op q sp t x).getLsbD i = sp.getLsbD (i - 112) := by
  unfold encCmd
  rw [bit_high _ _ (by omega), bit_high _ _ (by omega), bit_low _ _ (by omega), Nat.sub_sub]
theorem target_encCmd (op : BitVec 8) (q : CmdQual) (sp : BitVec 6) (t : BitVec 8) (x : BitVec 104) :
    cmdTarget (encCmd op q sp t x) = t := by
  unfold cmdTarget encCmd
  rw [extract_high _ _ (by decide), extract_within _ _ (by decide)]
  exact extract_all _
theorem targetPart_encCmd (op : BitVec 8) (q : CmdQual) (sp : BitVec 6) (t : BitVec 8) (x : BitVec 104) (n : Nat) (h : n ≤ 8) :
    (encCmd op q sp t x).extractLsb' 104 n = t.extractLsb' 0 n := by
  unfold encCmd
  rw [extract_high _ _ (by decide), extract_within _ _ (by omega)]
theorem operand_encCmd (op : BitVec 8) (q : CmdQual) (sp : BitVec 6) (t : BitVec 8) (x : BitVec 104) (s n : Nat) (h : s + n ≤ 104) :
    (encCmd op q sp t x).extractLsb' s n = x.extractLsb' s n := by
  unfold encCmd
  rw [extract_within _ _ h]
theorem operand_bit_encCmd (op : BitVec 8) (q : CmdQual) (sp : BitVec 6) (t : BitVec 8) (x : BitVec 104) (i : Nat) (h : i < 104) :
    (encCmd op q sp t x).getLsbD i = x.getLsbD i := by
  unfold encCmd
  rw [bit_low _ _ h]
theorem run_encCmd (op : BitVec 8) (q : CmdQual) (sp : BitVec 6) (t : BitVec 8) (x : BitVec 104) (s n : Nat) (h : s + n ≤ 104) :
    ((encCmd op q sp t x).toNat >>> s) % 2 ^ n = (x.toNat >>> s) % 2 ^ n := by
  unfold encCmd
  rw [run_within _ _ h]
theorem bool_special (b : Bool) : (0#5 ++ BitVec.ofBool b).getLsbD 0 = b := by cases b <;> rfl
theorem bool_special_one (b : Bool) : (1#5 ++ BitVec.ofBool b).getLsbD 0 = b := by cases b <;> rfl

theorem dec_scfg (q : CmdQual) (img : BitVec 46) (rpt : BitVec 48) (slot : BitVec 3) : decodeStream (encCmd 0x01 q 0#6 0 (0#5 ++ slot ++ rpt ++ 0#2 ++ img)) = .ok (.scfg q img rpt slot) := by
  have r0 : ((encCmd 0x01 q 0#6 0 (0#5 ++ slot ++ rpt ++ 0#2 ++ img)).toNat >>> 46) % 2 ^ 2 = 0 := by
    rw [run_encCmd _ _ _ _ _ _ _ (by decide)]
    repeat first | rw [run_high _ _ (by decide)] | rw [run_within _ _ (by decide)]
    exact run_zero
  have r1 : ((encCmd 0x01 q 0#6 0 (0#5 ++ slot ++ rpt ++ 0#2 ++ img)).toNat >>> 99) % 2 ^ 5 = 0 := by
    rw [run_encCmd _ _ _ _ _ _ _ (by decide)]
    repeat first | rw [run_high _ _ (by decide)] | rw [run_within _ _ (by decide)]
    exact run_zero
  have f0 : (encCmd 0x01 q 0#6 0 (0#5 ++ slot ++ rpt ++ 0#2 ++ img)).extractLsb' 0 46 = img := by
    rw [operand_encCmd _ _ _ _ _ _ _ (by decide)]
    repeat first | rw [extract_high _ _ (by decide)] | rw [extract_within _ _ (by decide)]
    exact extract_all _
  have f1 : (encCmd 0x01 q 0#6 0 (0#5 ++ slot ++ rpt ++ 0#2 ++ img)).extractLsb' 48 48 = rpt := by
    rw [operand_encCmd _ _ _ _ _ _ _ (by decide)]
    repeat first | rw [extract_high _ _ (by decide)] | rw [extract_within _ _ (by decide)]
    exact extract_all _
  have f2 : (encCmd 0x01 q 0#6 0 (0#5 ++ slot ++ rpt ++ 0#2 ++ img)).extractLsb' 96 3 = slot := by
    rw [operand_encCmd _ _ _ _ _ _ _ (by decide)]
    repeat first | rw [extract_high _ _ (by decide)] | rw [extract_within _ _ (by decide)]
    exact extract_all _
  have hs : ¬ ((0#6 : BitVec 6) &&& ~~~(0 : BitVec 6) ≠ 0) := by decide
  have ht : ((0 : BitVec 8) == 0) = true := rfl
  unfold decodeStream
  rw [op_encCmd]
  show decodeScfg (encCmd 0x01 q 0#6 0 (0#5 ++ slot ++ rpt ++ 0#2 ++ img)) = _
  unfold decodeScfg checked
  rw [special_encCmd, if_neg hs, qual_encCmd]
  rw [target_encCmd, ht]
  have hu : unusedZero (encCmd 0x01 q 0#6 0 (0#5 ++ slot ++ rpt ++ 0#2 ++ img)) [(46, 2), (99, 5)] = true := by
    simp only [unusedZero, List.all_cons, List.all_nil, r0, r1]
    rfl
  rw [hu]
  simp only [f0, f1, f2, Bool.not_true, Bool.false_eq_true, if_false, if_true]
theorem dec_splc (q : CmdQual) (part : Bool) (slot : BitVec 3) (ninst : BitVec 10) (queue : BitVec 6) : decodeStream (encCmd 0x02 q (0#5 ++ BitVec.ofBool part) 0 (0#74 ++ queue ++ 0#6 ++ ninst ++ 0#5 ++ slot)) = .ok (.splc q part slot ninst queue) := by
  have r0 : ((encCmd 0x02 q (0#5 ++ BitVec.ofBool part) 0 (0#74 ++ queue ++ 0#6 ++ ninst ++ 0#5 ++ slot)).toNat >>> 3) % 2 ^ 5 = 0 := by
    rw [run_encCmd _ _ _ _ _ _ _ (by decide)]
    repeat first | rw [run_high _ _ (by decide)] | rw [run_within _ _ (by decide)]
    exact run_zero
  have r1 : ((encCmd 0x02 q (0#5 ++ BitVec.ofBool part) 0 (0#74 ++ queue ++ 0#6 ++ ninst ++ 0#5 ++ slot)).toNat >>> 18) % 2 ^ 6 = 0 := by
    rw [run_encCmd _ _ _ _ _ _ _ (by decide)]
    repeat first | rw [run_high _ _ (by decide)] | rw [run_within _ _ (by decide)]
    exact run_zero
  have r2 : ((encCmd 0x02 q (0#5 ++ BitVec.ofBool part) 0 (0#74 ++ queue ++ 0#6 ++ ninst ++ 0#5 ++ slot)).toNat >>> 30) % 2 ^ 74 = 0 := by
    rw [run_encCmd _ _ _ _ _ _ _ (by decide)]
    repeat first | rw [run_high _ _ (by decide)] | rw [run_within _ _ (by decide)]
    exact run_zero
  have f0 : (encCmd 0x02 q (0#5 ++ BitVec.ofBool part) 0 (0#74 ++ queue ++ 0#6 ++ ninst ++ 0#5 ++ slot)).extractLsb' 0 3 = slot := by
    rw [operand_encCmd _ _ _ _ _ _ _ (by decide)]
    repeat first | rw [extract_high _ _ (by decide)] | rw [extract_within _ _ (by decide)]
    exact extract_all _
  have f1 : (encCmd 0x02 q (0#5 ++ BitVec.ofBool part) 0 (0#74 ++ queue ++ 0#6 ++ ninst ++ 0#5 ++ slot)).extractLsb' 8 10 = ninst := by
    rw [operand_encCmd _ _ _ _ _ _ _ (by decide)]
    repeat first | rw [extract_high _ _ (by decide)] | rw [extract_within _ _ (by decide)]
    exact extract_all _
  have f2 : (encCmd 0x02 q (0#5 ++ BitVec.ofBool part) 0 (0#74 ++ queue ++ 0#6 ++ ninst ++ 0#5 ++ slot)).extractLsb' 24 6 = queue := by
    rw [operand_encCmd _ _ _ _ _ _ _ (by decide)]
    repeat first | rw [extract_high _ _ (by decide)] | rw [extract_within _ _ (by decide)]
    exact extract_all _
  have b0 : (encCmd 0x02 q (0#5 ++ BitVec.ofBool part) 0 (0#74 ++ queue ++ 0#6 ++ ninst ++ 0#5 ++ slot)).getLsbD 112 = part := by
    rw [special_bit_encCmd _ _ _ _ _ _ (by decide) (by decide)]
    exact bool_special _
  have hs : ¬ ((0#5 ++ BitVec.ofBool part) &&& ~~~(1 : BitVec 6) ≠ 0) := by cases part <;> decide
  have ht : ((0 : BitVec 8) == 0) = true := rfl
  have hb : (encCmd 0x02 q (0#5 ++ BitVec.ofBool part) 0 (0#74 ++ queue ++ 0#6 ++ ninst ++ 0#5 ++ slot)).getLsbD 113 = false := by
    rw [special_bit_encCmd _ _ _ _ _ _ (by decide) (by decide)]
    cases part <;> rfl
  unfold decodeStream
  rw [op_encCmd]
  show (if (encCmd 0x02 q (0#5 ++ BitVec.ofBool part) 0 (0#74 ++ queue ++ 0#6 ++ ninst ++ 0#5 ++ slot)).getLsbD 113 then decodeSplcU (encCmd 0x02 q (0#5 ++ BitVec.ofBool part) 0 (0#74 ++ queue ++ 0#6 ++ ninst ++ 0#5 ++ slot)) else decodeSplc (encCmd 0x02 q (0#5 ++ BitVec.ofBool part) 0 (0#74 ++ queue ++ 0#6 ++ ninst ++ 0#5 ++ slot))) = _
  rw [hb]
  simp only [Bool.false_eq_true, if_false, if_true]
  unfold decodeSplc checked
  rw [special_encCmd, if_neg hs, qual_encCmd]
  rw [target_encCmd, ht]
  have hu : unusedZero (encCmd 0x02 q (0#5 ++ BitVec.ofBool part) 0 (0#74 ++ queue ++ 0#6 ++ ninst ++ 0#5 ++ slot)) [(3, 5), (18, 6), (30, 74)] = true := by
    simp only [unusedZero, List.all_cons, List.all_nil, r0, r1, r2]
    rfl
  rw [hu]
  simp only [f0, f1, f2, b0, Bool.not_true, Bool.false_eq_true, if_false, if_true]
theorem dec_splcU (q : CmdQual) (part : Bool) (slot : BitVec 3) (queue : BitVec 6) : decodeStream (encCmd 0x02 q (1#5 ++ BitVec.ofBool part) 0 (0#74 ++ queue ++ 0#21 ++ slot)) = .ok (.splcU q part slot queue) := by
  have r0 : ((encCmd 0x02 q (1#5 ++ BitVec.ofBool part) 0 (0#74 ++ queue ++ 0#21 ++ slot)).toNat >>> 3) % 2 ^ 21 = 0 := by
    rw [run_encCmd _ _ _ _ _ _ _ (by decide)]
    repeat first | rw [run_high _ _ (by decide)] | rw [run_within _ _ (by decide)]
    exact run_zero
  have r1 : ((encCmd 0x02 q (1#5 ++ BitVec.ofBool part) 0 (0#74 ++ queue ++ 0#21 ++ slot)).toNat >>> 30) % 2 ^ 74 = 0 := by
    rw [run_encCmd _ _ _ _ _ _ _ (by decide)]
    repeat first | rw [run_high _ _ (by decide)] | rw [run_within _ _ (by decide)]
    exact run_zero
  have f0 : (encCmd 0x02 q (1#5 ++ BitVec.ofBool part) 0 (0#74 ++ queue ++ 0#21 ++ slot)).extractLsb' 0 3 = slot := by
    rw [operand_encCmd _ _ _ _ _ _ _ (by decide)]
    repeat first | rw [extract_high _ _ (by decide)] | rw [extract_within _ _ (by decide)]
    exact extract_all _
  have f1 : (encCmd 0x02 q (1#5 ++ BitVec.ofBool part) 0 (0#74 ++ queue ++ 0#21 ++ slot)).extractLsb' 24 6 = queue := by
    rw [operand_encCmd _ _ _ _ _ _ _ (by decide)]
    repeat first | rw [extract_high _ _ (by decide)] | rw [extract_within _ _ (by decide)]
    exact extract_all _
  have b0 : (encCmd 0x02 q (1#5 ++ BitVec.ofBool part) 0 (0#74 ++ queue ++ 0#21 ++ slot)).getLsbD 112 = part := by
    rw [special_bit_encCmd _ _ _ _ _ _ (by decide) (by decide)]
    exact bool_special_one _
  have hs : ¬ ((1#5 ++ BitVec.ofBool part) &&& ~~~(3 : BitVec 6) ≠ 0) := by cases part <;> decide
  have ht : ((0 : BitVec 8) == 0) = true := rfl
  have hb : (encCmd 0x02 q (1#5 ++ BitVec.ofBool part) 0 (0#74 ++ queue ++ 0#21 ++ slot)).getLsbD 113 = true := by
    rw [special_bit_encCmd _ _ _ _ _ _ (by decide) (by decide)]
    cases part <;> rfl
  unfold decodeStream
  rw [op_encCmd]
  show (if (encCmd 0x02 q (1#5 ++ BitVec.ofBool part) 0 (0#74 ++ queue ++ 0#21 ++ slot)).getLsbD 113 then decodeSplcU (encCmd 0x02 q (1#5 ++ BitVec.ofBool part) 0 (0#74 ++ queue ++ 0#21 ++ slot)) else decodeSplc (encCmd 0x02 q (1#5 ++ BitVec.ofBool part) 0 (0#74 ++ queue ++ 0#21 ++ slot))) = _
  rw [hb]
  simp only [Bool.false_eq_true, if_false, if_true]
  unfold decodeSplcU checked
  rw [special_encCmd, if_neg hs, qual_encCmd]
  rw [target_encCmd, ht]
  have hu : unusedZero (encCmd 0x02 q (1#5 ++ BitVec.ofBool part) 0 (0#74 ++ queue ++ 0#21 ++ slot)) [(3, 21), (30, 74)] = true := by
    simp only [unusedZero, List.all_cons, List.all_nil, r0, r1]
    rfl
  rw [hu]
  simp only [f0, f1, b0, Bool.not_true, Bool.false_eq_true, if_false, if_true]
theorem dec_smov (q : CmdQual) (slot : BitVec 3) (inst : BitVec 10) (lx : BitVec 5) (ly : BitVec 5) (any : Bool) : decodeStream (encCmd 0x03 q 0#6 0 (0#75 ++ BitVec.ofBool any ++ ly ++ lx ++ inst ++ 0#5 ++ slot)) = .ok (.smov q slot inst lx ly any) := by
  have r0 : ((encCmd 0x03 q 0#6 0 (0#75 ++ BitVec.ofBool any ++ ly ++ lx ++ inst ++ 0#5 ++ slot)).toNat >>> 3) % 2 ^ 5 = 0 := by
    rw [run_encCmd _ _ _ _ _ _ _ (by decide)]
    repeat first | rw [run_high _ _ (by decide)] | rw [run_within _ _ (by decide)]
    exact run_zero
  have r1 : ((encCmd 0x03 q 0#6 0 (0#75 ++ BitVec.ofBool any ++ ly ++ lx ++ inst ++ 0#5 ++ slot)).toNat >>> 29) % 2 ^ 75 = 0 := by
    rw [run_encCmd _ _ _ _ _ _ _ (by decide)]
    repeat first | rw [run_high _ _ (by decide)] | rw [run_within _ _ (by decide)]
    exact run_zero
  have f0 : (encCmd 0x03 q 0#6 0 (0#75 ++ BitVec.ofBool any ++ ly ++ lx ++ inst ++ 0#5 ++ slot)).extractLsb' 0 3 = slot := by
    rw [operand_encCmd _ _ _ _ _ _ _ (by decide)]
    repeat first | rw [extract_high _ _ (by decide)] | rw [extract_within _ _ (by decide)]
    exact extract_all _
  have f1 : (encCmd 0x03 q 0#6 0 (0#75 ++ BitVec.ofBool any ++ ly ++ lx ++ inst ++ 0#5 ++ slot)).extractLsb' 8 10 = inst := by
    rw [operand_encCmd _ _ _ _ _ _ _ (by decide)]
    repeat first | rw [extract_high _ _ (by decide)] | rw [extract_within _ _ (by decide)]
    exact extract_all _
  have f2 : (encCmd 0x03 q 0#6 0 (0#75 ++ BitVec.ofBool any ++ ly ++ lx ++ inst ++ 0#5 ++ slot)).extractLsb' 18 5 = lx := by
    rw [operand_encCmd _ _ _ _ _ _ _ (by decide)]
    repeat first | rw [extract_high _ _ (by decide)] | rw [extract_within _ _ (by decide)]
    exact extract_all _
  have f3 : (encCmd 0x03 q 0#6 0 (0#75 ++ BitVec.ofBool any ++ ly ++ lx ++ inst ++ 0#5 ++ slot)).extractLsb' 23 5 = ly := by
    rw [operand_encCmd _ _ _ _ _ _ _ (by decide)]
    repeat first | rw [extract_high _ _ (by decide)] | rw [extract_within _ _ (by decide)]
    exact extract_all _
  have b0 : (encCmd 0x03 q 0#6 0 (0#75 ++ BitVec.ofBool any ++ ly ++ lx ++ inst ++ 0#5 ++ slot)).getLsbD 28 = any := by
    rw [operand_bit_encCmd _ _ _ _ _ _ (by decide)]
    repeat first | rw [bit_high _ _ (by decide)] | rw [bit_low _ _ (by decide)]
    exact bit_ofBool _
  have hs : ¬ ((0#6 : BitVec 6) &&& ~~~(0 : BitVec 6) ≠ 0) := by decide
  have ht : ((0 : BitVec 8) == 0) = true := rfl
  unfold decodeStream
  rw [op_encCmd]
  show decodeSmov (encCmd 0x03 q 0#6 0 (0#75 ++ BitVec.ofBool any ++ ly ++ lx ++ inst ++ 0#5 ++ slot)) = _
  unfold decodeSmov checked
  rw [special_encCmd, if_neg hs, qual_encCmd]
  rw [target_encCmd, ht]
  have hu : unusedZero (encCmd 0x03 q 0#6 0 (0#75 ++ BitVec.ofBool any ++ ly ++ lx ++ inst ++ 0#5 ++ slot)) [(3, 5), (29, 75)] = true := by
    simp only [unusedZero, List.all_cons, List.all_nil, r0, r1]
    rfl
  rw [hu]
  simp only [f0, f1, f2, f3, b0, Bool.not_true, Bool.false_eq_true, if_false, if_true]
theorem dec_sarm (q : CmdQual) (abs : Bool) (ep : BitVec 8) (slot : BitVec 3) (inst : BitVec 10) (count : BitVec 32) : decodeStream (encCmd 0x04 q (0#5 ++ BitVec.ofBool abs) ep (0#56 ++ count ++ 0#3 ++ inst ++ slot)) = .ok (.sarm q abs ep slot inst count) := by
  have r0 : ((encCmd 0x04 q (0#5 ++ BitVec.ofBool abs) ep (0#56 ++ count ++ 0#3 ++ inst ++ slot)).toNat >>> 13) % 2 ^ 3 = 0 := by
    rw [run_encCmd _ _ _ _ _ _ _ (by decide)]
    repeat first | rw [run_high _ _ (by decide)] | rw [run_within _ _ (by decide)]
    exact run_zero
  have r1 : ((encCmd 0x04 q (0#5 ++ BitVec.ofBool abs) ep (0#56 ++ count ++ 0#3 ++ inst ++ slot)).toNat >>> 48) % 2 ^ 56 = 0 := by
    rw [run_encCmd _ _ _ _ _ _ _ (by decide)]
    repeat first | rw [run_high _ _ (by decide)] | rw [run_within _ _ (by decide)]
    exact run_zero
  have f0 : (encCmd 0x04 q (0#5 ++ BitVec.ofBool abs) ep (0#56 ++ count ++ 0#3 ++ inst ++ slot)).extractLsb' 104 8 = ep := by
    rw [targetPart_encCmd _ _ _ _ _ _ (by decide)]
    exact extract_all _
  have f1 : (encCmd 0x04 q (0#5 ++ BitVec.ofBool abs) ep (0#56 ++ count ++ 0#3 ++ inst ++ slot)).extractLsb' 0 3 = slot := by
    rw [operand_encCmd _ _ _ _ _ _ _ (by decide)]
    repeat first | rw [extract_high _ _ (by decide)] | rw [extract_within _ _ (by decide)]
    exact extract_all _
  have f2 : (encCmd 0x04 q (0#5 ++ BitVec.ofBool abs) ep (0#56 ++ count ++ 0#3 ++ inst ++ slot)).extractLsb' 3 10 = inst := by
    rw [operand_encCmd _ _ _ _ _ _ _ (by decide)]
    repeat first | rw [extract_high _ _ (by decide)] | rw [extract_within _ _ (by decide)]
    exact extract_all _
  have f3 : (encCmd 0x04 q (0#5 ++ BitVec.ofBool abs) ep (0#56 ++ count ++ 0#3 ++ inst ++ slot)).extractLsb' 16 32 = count := by
    rw [operand_encCmd _ _ _ _ _ _ _ (by decide)]
    repeat first | rw [extract_high _ _ (by decide)] | rw [extract_within _ _ (by decide)]
    exact extract_all _
  have b0 : (encCmd 0x04 q (0#5 ++ BitVec.ofBool abs) ep (0#56 ++ count ++ 0#3 ++ inst ++ slot)).getLsbD 112 = abs := by
    rw [special_bit_encCmd _ _ _ _ _ _ (by decide) (by decide)]
    exact bool_special _
  have hs : ¬ ((0#5 ++ BitVec.ofBool abs) &&& ~~~(1 : BitVec 6) ≠ 0) := by cases abs <;> decide
  unfold decodeStream
  rw [op_encCmd]
  show decodeSarm (encCmd 0x04 q (0#5 ++ BitVec.ofBool abs) ep (0#56 ++ count ++ 0#3 ++ inst ++ slot)) = _
  unfold decodeSarm checked
  rw [special_encCmd, if_neg hs, qual_encCmd]
  have hu : unusedZero (encCmd 0x04 q (0#5 ++ BitVec.ofBool abs) ep (0#56 ++ count ++ 0#3 ++ inst ++ slot)) [(13, 3), (48, 56)] = true := by
    simp only [unusedZero, List.all_cons, List.all_nil, r0, r1]
    rfl
  rw [hu]
  simp only [f0, f1, f2, f3, b0, Bool.not_true, Bool.false_eq_true, if_false, if_true]
theorem dec_sbnd (q : CmdQual) (ep : BitVec 8) (slot : BitVec 3) (inst : BitVec 10) (value : BitVec 64) (ety : BitVec 4) (h : WellFormed (.sbnd q ep slot inst value ety) = true) : decodeStream (encCmd 0x05 q 0#6 ep (0#20 ++ ety ++ value ++ 0#3 ++ inst ++ slot)) = .ok (.sbnd q ep slot inst value ety) := by
  have r0 : ((encCmd 0x05 q 0#6 ep (0#20 ++ ety ++ value ++ 0#3 ++ inst ++ slot)).toNat >>> 13) % 2 ^ 3 = 0 := by
    rw [run_encCmd _ _ _ _ _ _ _ (by decide)]
    repeat first | rw [run_high _ _ (by decide)] | rw [run_within _ _ (by decide)]
    exact run_zero
  have r1 : ((encCmd 0x05 q 0#6 ep (0#20 ++ ety ++ value ++ 0#3 ++ inst ++ slot)).toNat >>> 84) % 2 ^ 20 = 0 := by
    rw [run_encCmd _ _ _ _ _ _ _ (by decide)]
    repeat first | rw [run_high _ _ (by decide)] | rw [run_within _ _ (by decide)]
    exact run_zero
  have f0 : (encCmd 0x05 q 0#6 ep (0#20 ++ ety ++ value ++ 0#3 ++ inst ++ slot)).extractLsb' 80 4 = ety := by
    rw [operand_encCmd _ _ _ _ _ _ _ (by decide)]
    repeat first | rw [extract_high _ _ (by decide)] | rw [extract_within _ _ (by decide)]
    exact extract_all _
  have f1 : (encCmd 0x05 q 0#6 ep (0#20 ++ ety ++ value ++ 0#3 ++ inst ++ slot)).extractLsb' 104 8 = ep := by
    rw [targetPart_encCmd _ _ _ _ _ _ (by decide)]
    exact extract_all _
  have f2 : (encCmd 0x05 q 0#6 ep (0#20 ++ ety ++ value ++ 0#3 ++ inst ++ slot)).extractLsb' 0 3 = slot := by
    rw [operand_encCmd _ _ _ _ _ _ _ (by decide)]
    repeat first | rw [extract_high _ _ (by decide)] | rw [extract_within _ _ (by decide)]
    exact extract_all _
  have f3 : (encCmd 0x05 q 0#6 ep (0#20 ++ ety ++ value ++ 0#3 ++ inst ++ slot)).extractLsb' 3 10 = inst := by
    rw [operand_encCmd _ _ _ _ _ _ _ (by decide)]
    repeat first | rw [extract_high _ _ (by decide)] | rw [extract_within _ _ (by decide)]
    exact extract_all _
  have f4 : (encCmd 0x05 q 0#6 ep (0#20 ++ ety ++ value ++ 0#3 ++ inst ++ slot)).extractLsb' 16 64 = value := by
    rw [operand_encCmd _ _ _ _ _ _ _ (by decide)]
    repeat first | rw [extract_high _ _ (by decide)] | rw [extract_within _ _ (by decide)]
    exact extract_all _
  have hs : ¬ ((0#6 : BitVec 6) &&& ~~~(0 : BitVec 6) ≠ 0) := by decide
  have hw : ety.toNat < 8 := by simpa [WellFormed] using h
  have hb : (encCmd 0x05 q 0#6 ep (0#20 ++ ety ++ value ++ 0#3 ++ inst ++ slot)).getLsbD 112 = false := by
    rw [special_bit_encCmd _ _ _ _ _ _ (by decide) (by decide)]
    rfl
  unfold decodeStream
  rw [op_encCmd]
  show (if (encCmd 0x05 q 0#6 ep (0#20 ++ ety ++ value ++ 0#3 ++ inst ++ slot)).getLsbD 112 then decodeSbndT (encCmd 0x05 q 0#6 ep (0#20 ++ ety ++ value ++ 0#3 ++ inst ++ slot)) else decodeSbnd (encCmd 0x05 q 0#6 ep (0#20 ++ ety ++ value ++ 0#3 ++ inst ++ slot))) = _
  rw [hb]
  simp only [Bool.false_eq_true, if_false, if_true]
  unfold decodeSbnd checked
  rw [f0, if_pos hw]
  rw [special_encCmd, if_neg hs, qual_encCmd]
  have hu : unusedZero (encCmd 0x05 q 0#6 ep (0#20 ++ ety ++ value ++ 0#3 ++ inst ++ slot)) [(13, 3), (84, 20)] = true := by
    simp only [unusedZero, List.all_cons, List.all_nil, r0, r1]
    rfl
  rw [hu]
  simp only [f0, f1, f2, f3, f4, Bool.not_true, Bool.false_eq_true, if_false, if_true]
theorem dec_sbndT (q : CmdQual) (slot : BitVec 3) (inst : BitVec 10) (page : BitVec 10) (port : BitVec 2) (tag : BitVec 4) : decodeStream (encCmd 0x05 q 1#6 0 (0#72 ++ tag ++ port ++ page ++ 0#3 ++ inst ++ slot)) = .ok (.sbndT q slot inst page port tag) := by
  have r0 : ((encCmd 0x05 q 1#6 0 (0#72 ++ tag ++ port ++ page ++ 0#3 ++ inst ++ slot)).toNat >>> 13) % 2 ^ 3 = 0 := by
    rw [run_encCmd _ _ _ _ _ _ _ (by decide)]
    repeat first | rw [run_high _ _ (by decide)] | rw [run_within _ _ (by decide)]
    exact run_zero
  have r1 : ((encCmd 0x05 q 1#6 0 (0#72 ++ tag ++ port ++ page ++ 0#3 ++ inst ++ slot)).toNat >>> 32) % 2 ^ 72 = 0 := by
    rw [run_encCmd _ _ _ _ _ _ _ (by decide)]
    repeat first | rw [run_high _ _ (by decide)] | rw [run_within _ _ (by decide)]
    exact run_zero
  have f0 : (encCmd 0x05 q 1#6 0 (0#72 ++ tag ++ port ++ page ++ 0#3 ++ inst ++ slot)).extractLsb' 0 3 = slot := by
    rw [operand_encCmd _ _ _ _ _ _ _ (by decide)]
    repeat first | rw [extract_high _ _ (by decide)] | rw [extract_within _ _ (by decide)]
    exact extract_all _
  have f1 : (encCmd 0x05 q 1#6 0 (0#72 ++ tag ++ port ++ page ++ 0#3 ++ inst ++ slot)).extractLsb' 3 10 = inst := by
    rw [operand_encCmd _ _ _ _ _ _ _ (by decide)]
    repeat first | rw [extract_high _ _ (by decide)] | rw [extract_within _ _ (by decide)]
    exact extract_all _
  have f2 : (encCmd 0x05 q 1#6 0 (0#72 ++ tag ++ port ++ page ++ 0#3 ++ inst ++ slot)).extractLsb' 16 10 = page := by
    rw [operand_encCmd _ _ _ _ _ _ _ (by decide)]
    repeat first | rw [extract_high _ _ (by decide)] | rw [extract_within _ _ (by decide)]
    exact extract_all _
  have f3 : (encCmd 0x05 q 1#6 0 (0#72 ++ tag ++ port ++ page ++ 0#3 ++ inst ++ slot)).extractLsb' 26 2 = port := by
    rw [operand_encCmd _ _ _ _ _ _ _ (by decide)]
    repeat first | rw [extract_high _ _ (by decide)] | rw [extract_within _ _ (by decide)]
    exact extract_all _
  have f4 : (encCmd 0x05 q 1#6 0 (0#72 ++ tag ++ port ++ page ++ 0#3 ++ inst ++ slot)).extractLsb' 28 4 = tag := by
    rw [operand_encCmd _ _ _ _ _ _ _ (by decide)]
    repeat first | rw [extract_high _ _ (by decide)] | rw [extract_within _ _ (by decide)]
    exact extract_all _
  have hs : ¬ ((1#6 : BitVec 6) &&& ~~~(1 : BitVec 6) ≠ 0) := by decide
  have ht : ((0 : BitVec 8) == 0) = true := rfl
  have hb : (encCmd 0x05 q 1#6 0 (0#72 ++ tag ++ port ++ page ++ 0#3 ++ inst ++ slot)).getLsbD 112 = true := by
    rw [special_bit_encCmd _ _ _ _ _ _ (by decide) (by decide)]
    rfl
  unfold decodeStream
  rw [op_encCmd]
  show (if (encCmd 0x05 q 1#6 0 (0#72 ++ tag ++ port ++ page ++ 0#3 ++ inst ++ slot)).getLsbD 112 then decodeSbndT (encCmd 0x05 q 1#6 0 (0#72 ++ tag ++ port ++ page ++ 0#3 ++ inst ++ slot)) else decodeSbnd (encCmd 0x05 q 1#6 0 (0#72 ++ tag ++ port ++ page ++ 0#3 ++ inst ++ slot))) = _
  rw [hb]
  simp only [Bool.false_eq_true, if_false, if_true]
  unfold decodeSbndT checked
  rw [special_encCmd, if_neg hs, qual_encCmd]
  rw [target_encCmd, ht]
  have hu : unusedZero (encCmd 0x05 q 1#6 0 (0#72 ++ tag ++ port ++ page ++ 0#3 ++ inst ++ slot)) [(13, 3), (32, 72)] = true := by
    simp only [unusedZero, List.all_cons, List.all_nil, r0, r1]
    rfl
  rw [hu]
  simp only [f0, f1, f2, f3, f4, Bool.not_true, Bool.false_eq_true, if_false, if_true]
theorem dec_sseg (q : CmdQual) (last : Bool) (slot : BitVec 3) (tiles : BitVec 32) : decodeStream (encCmd 0x06 q (0#5 ++ BitVec.ofBool last) 0 (0#64 ++ tiles ++ 0#5 ++ slot)) = .ok (.sseg q last slot tiles) := by
  have r0 : ((encCmd 0x06 q (0#5 ++ BitVec.ofBool last) 0 (0#64 ++ tiles ++ 0#5 ++ slot)).toNat >>> 3) % 2 ^ 5 = 0 := by
    rw [run_encCmd _ _ _ _ _ _ _ (by decide)]
    repeat first | rw [run_high _ _ (by decide)] | rw [run_within _ _ (by decide)]
    exact run_zero
  have r1 : ((encCmd 0x06 q (0#5 ++ BitVec.ofBool last) 0 (0#64 ++ tiles ++ 0#5 ++ slot)).toNat >>> 40) % 2 ^ 64 = 0 := by
    rw [run_encCmd _ _ _ _ _ _ _ (by decide)]
    repeat first | rw [run_high _ _ (by decide)] | rw [run_within _ _ (by decide)]
    exact run_zero
  have f0 : (encCmd 0x06 q (0#5 ++ BitVec.ofBool last) 0 (0#64 ++ tiles ++ 0#5 ++ slot)).extractLsb' 0 3 = slot := by
    rw [operand_encCmd _ _ _ _ _ _ _ (by decide)]
    repeat first | rw [extract_high _ _ (by decide)] | rw [extract_within _ _ (by decide)]
    exact extract_all _
  have f1 : (encCmd 0x06 q (0#5 ++ BitVec.ofBool last) 0 (0#64 ++ tiles ++ 0#5 ++ slot)).extractLsb' 8 32 = tiles := by
    rw [operand_encCmd _ _ _ _ _ _ _ (by decide)]
    repeat first | rw [extract_high _ _ (by decide)] | rw [extract_within _ _ (by decide)]
    exact extract_all _
  have b0 : (encCmd 0x06 q (0#5 ++ BitVec.ofBool last) 0 (0#64 ++ tiles ++ 0#5 ++ slot)).getLsbD 112 = last := by
    rw [special_bit_encCmd _ _ _ _ _ _ (by decide) (by decide)]
    exact bool_special _
  have hs : ¬ ((0#5 ++ BitVec.ofBool last) &&& ~~~(1 : BitVec 6) ≠ 0) := by cases last <;> decide
  have ht : ((0 : BitVec 8) == 0) = true := rfl
  unfold decodeStream
  rw [op_encCmd]
  show decodeSseg (encCmd 0x06 q (0#5 ++ BitVec.ofBool last) 0 (0#64 ++ tiles ++ 0#5 ++ slot)) = _
  unfold decodeSseg checked
  rw [special_encCmd, if_neg hs, qual_encCmd]
  rw [target_encCmd, ht]
  have hu : unusedZero (encCmd 0x06 q (0#5 ++ BitVec.ofBool last) 0 (0#64 ++ tiles ++ 0#5 ++ slot)) [(3, 5), (40, 64)] = true := by
    simp only [unusedZero, List.all_cons, List.all_nil, r0, r1]
    rfl
  rw [hu]
  simp only [f0, f1, b0, Bool.not_true, Bool.false_eq_true, if_false, if_true]
theorem dec_ssyn (q : CmdQual) (n : Bool) (queue : BitVec 6) (addr : BitVec 52) (value : BitVec 32) : decodeStream (encCmd 0x07 q (0#5 ++ BitVec.ofBool n) (0#2 ++ queue) (0#8 ++ value ++ 0#12 ++ addr)) = .ok (.ssyn q n queue addr value) := by
  have r0 : ((encCmd 0x07 q (0#5 ++ BitVec.ofBool n) (0#2 ++ queue) (0#8 ++ value ++ 0#12 ++ addr)).toNat >>> 52) % 2 ^ 12 = 0 := by
    rw [run_encCmd _ _ _ _ _ _ _ (by decide)]
    repeat first | rw [run_high _ _ (by decide)] | rw [run_within _ _ (by decide)]
    exact run_zero
  have r1 : ((encCmd 0x07 q (0#5 ++ BitVec.ofBool n) (0#2 ++ queue) (0#8 ++ value ++ 0#12 ++ addr)).toNat >>> 96) % 2 ^ 8 = 0 := by
    rw [run_encCmd _ _ _ _ _ _ _ (by decide)]
    repeat first | rw [run_high _ _ (by decide)] | rw [run_within _ _ (by decide)]
    exact run_zero
  have f0 : (encCmd 0x07 q (0#5 ++ BitVec.ofBool n) (0#2 ++ queue) (0#8 ++ value ++ 0#12 ++ addr)).extractLsb' 104 6 = queue := by
    rw [targetPart_encCmd _ _ _ _ _ _ (by decide), extract_within _ _ (by decide)]
    exact extract_all _
  have f1 : (encCmd 0x07 q (0#5 ++ BitVec.ofBool n) (0#2 ++ queue) (0#8 ++ value ++ 0#12 ++ addr)).extractLsb' 0 52 = addr := by
    rw [operand_encCmd _ _ _ _ _ _ _ (by decide)]
    repeat first | rw [extract_high _ _ (by decide)] | rw [extract_within _ _ (by decide)]
    exact extract_all _
  have f2 : (encCmd 0x07 q (0#5 ++ BitVec.ofBool n) (0#2 ++ queue) (0#8 ++ value ++ 0#12 ++ addr)).extractLsb' 64 32 = value := by
    rw [operand_encCmd _ _ _ _ _ _ _ (by decide)]
    repeat first | rw [extract_high _ _ (by decide)] | rw [extract_within _ _ (by decide)]
    exact extract_all _
  have b0 : (encCmd 0x07 q (0#5 ++ BitVec.ofBool n) (0#2 ++ queue) (0#8 ++ value ++ 0#12 ++ addr)).getLsbD 112 = n := by
    rw [special_bit_encCmd _ _ _ _ _ _ (by decide) (by decide)]
    exact bool_special _
  have hs : ¬ ((0#5 ++ BitVec.ofBool n) &&& ~~~(1 : BitVec 6) ≠ 0) := by cases n <;> decide
  have ht : decide ((0#2 ++ queue).toNat < 64) = true := by
    rw [decide_eq_true_eq, BitVec.toNat_append]
    have := queue.isLt
    simp
    omega
  unfold decodeStream
  rw [op_encCmd]
  show decodeSsyn (encCmd 0x07 q (0#5 ++ BitVec.ofBool n) (0#2 ++ queue) (0#8 ++ value ++ 0#12 ++ addr)) = _
  unfold decodeSsyn checked
  rw [special_encCmd, if_neg hs, qual_encCmd]
  rw [target_encCmd, ht]
  have hu : unusedZero (encCmd 0x07 q (0#5 ++ BitVec.ofBool n) (0#2 ++ queue) (0#8 ++ value ++ 0#12 ++ addr)) [(52, 12), (96, 8)] = true := by
    simp only [unusedZero, List.all_cons, List.all_nil, r0, r1]
    rfl
  rw [hu]
  simp only [f0, f1, f2, b0, Bool.not_true, Bool.false_eq_true, if_false, if_true]
theorem dec_scpy (q : CmdQual) (o : DataOps) (h : WellFormed (.scpy q o) = true) : decodeStream (encCmd 0x10 q 0 o.tgt (encData o)) = .ok (.scpy q o) := by
  have r0 : ((encCmd 0x10 q 0 o.tgt (encData o)).toNat >>> 46) % 2 ^ 2 = 0 := by
    rw [run_encCmd _ _ _ _ _ _ _ (by decide)]
    unfold encData
    repeat first | rw [run_high _ _ (by decide)] | rw [run_within _ _ (by decide)]
    exact run_zero
  have r1 : ((encCmd 0x10 q 0 o.tgt (encData o)).toNat >>> 62) % 2 ^ 42 = 0 := by
    rw [run_encCmd _ _ _ _ _ _ _ (by decide)]
    unfold encData
    repeat first | rw [run_high _ _ (by decide)] | rw [run_within _ _ (by decide)]
    exact run_zero
  have f0 : (encCmd 0x10 q 0 o.tgt (encData o)).extractLsb' 104 8 = o.tgt := by
    rw [targetPart_encCmd _ _ _ _ _ _ (by decide)]
    exact extract_all _
  have f1 : (encCmd 0x10 q 0 o.tgt (encData o)).extractLsb' 0 46 = o.desc := by
    rw [operand_encCmd _ _ _ _ _ _ _ (by decide)]
    unfold encData
    repeat first | rw [extract_high _ _ (by decide)] | rw [extract_within _ _ (by decide)]
    exact extract_all _
  have f2 : (encCmd 0x10 q 0 o.tgt (encData o)).extractLsb' 48 3 = o.slot := by
    rw [operand_encCmd _ _ _ _ _ _ _ (by decide)]
    unfold encData
    repeat first | rw [extract_high _ _ (by decide)] | rw [extract_within _ _ (by decide)]
    exact extract_all _
  have f3 : (encCmd 0x10 q 0 o.tgt (encData o)).extractLsb' 51 10 = o.inst := by
    rw [operand_encCmd _ _ _ _ _ _ _ (by decide)]
    unfold encData
    repeat first | rw [extract_high _ _ (by decide)] | rw [extract_within _ _ (by decide)]
    exact extract_all _
  have b0 : (encCmd 0x10 q 0 o.tgt (encData o)).getLsbD 61 = o.bnd := by
    rw [operand_bit_encCmd _ _ _ _ _ _ (by decide)]
    unfold encData
    repeat first | rw [bit_high _ _ (by decide)] | rw [bit_low _ _ (by decide)]
    exact bit_ofBool _
  have hs : ¬ ((0 : BitVec 6) &&& ~~~(0 : BitVec 6) ≠ 0) := by decide
  have ht : streamerTarget o.tgt = true := h
  unfold decodeStream
  rw [op_encCmd]
  show decodeScpy (encCmd 0x10 q 0 o.tgt (encData o)) = _
  unfold decodeScpy checked
  rw [special_encCmd, if_neg hs, qual_encCmd]
  rw [target_encCmd, ht]
  have hu : unusedZero (encCmd 0x10 q 0 o.tgt (encData o)) [(46, 2), (62, 42)] = true := by
    simp only [unusedZero, List.all_cons, List.all_nil, r0, r1]
    rfl
  rw [hu]
  simp only [f0, f1, f2, f3, b0, Bool.not_true, Bool.false_eq_true, if_false, if_true]
theorem dec_sgth (q : CmdQual) (o : DataOps) (h : WellFormed (.sgth q o) = true) : decodeStream (encCmd 0x11 q 0 o.tgt (encData o)) = .ok (.sgth q o) := by
  have r0 : ((encCmd 0x11 q 0 o.tgt (encData o)).toNat >>> 46) % 2 ^ 2 = 0 := by
    rw [run_encCmd _ _ _ _ _ _ _ (by decide)]
    unfold encData
    repeat first | rw [run_high _ _ (by decide)] | rw [run_within _ _ (by decide)]
    exact run_zero
  have r1 : ((encCmd 0x11 q 0 o.tgt (encData o)).toNat >>> 62) % 2 ^ 42 = 0 := by
    rw [run_encCmd _ _ _ _ _ _ _ (by decide)]
    unfold encData
    repeat first | rw [run_high _ _ (by decide)] | rw [run_within _ _ (by decide)]
    exact run_zero
  have f0 : (encCmd 0x11 q 0 o.tgt (encData o)).extractLsb' 104 8 = o.tgt := by
    rw [targetPart_encCmd _ _ _ _ _ _ (by decide)]
    exact extract_all _
  have f1 : (encCmd 0x11 q 0 o.tgt (encData o)).extractLsb' 0 46 = o.desc := by
    rw [operand_encCmd _ _ _ _ _ _ _ (by decide)]
    unfold encData
    repeat first | rw [extract_high _ _ (by decide)] | rw [extract_within _ _ (by decide)]
    exact extract_all _
  have f2 : (encCmd 0x11 q 0 o.tgt (encData o)).extractLsb' 48 3 = o.slot := by
    rw [operand_encCmd _ _ _ _ _ _ _ (by decide)]
    unfold encData
    repeat first | rw [extract_high _ _ (by decide)] | rw [extract_within _ _ (by decide)]
    exact extract_all _
  have f3 : (encCmd 0x11 q 0 o.tgt (encData o)).extractLsb' 51 10 = o.inst := by
    rw [operand_encCmd _ _ _ _ _ _ _ (by decide)]
    unfold encData
    repeat first | rw [extract_high _ _ (by decide)] | rw [extract_within _ _ (by decide)]
    exact extract_all _
  have b0 : (encCmd 0x11 q 0 o.tgt (encData o)).getLsbD 61 = o.bnd := by
    rw [operand_bit_encCmd _ _ _ _ _ _ (by decide)]
    unfold encData
    repeat first | rw [bit_high _ _ (by decide)] | rw [bit_low _ _ (by decide)]
    exact bit_ofBool _
  have hs : ¬ ((0 : BitVec 6) &&& ~~~(0 : BitVec 6) ≠ 0) := by decide
  have ht : streamerTarget o.tgt = true := h
  unfold decodeStream
  rw [op_encCmd]
  show decodeSgth (encCmd 0x11 q 0 o.tgt (encData o)) = _
  unfold decodeSgth checked
  rw [special_encCmd, if_neg hs, qual_encCmd]
  rw [target_encCmd, ht]
  have hu : unusedZero (encCmd 0x11 q 0 o.tgt (encData o)) [(46, 2), (62, 42)] = true := by
    simp only [unusedZero, List.all_cons, List.all_nil, r0, r1]
    rfl
  rw [hu]
  simp only [f0, f1, f2, f3, b0, Bool.not_true, Bool.false_eq_true, if_false, if_true]
theorem dec_ssct (q : CmdQual) (o : DataOps) (h : WellFormed (.ssct q o) = true) : decodeStream (encCmd 0x12 q 0 o.tgt (encData o)) = .ok (.ssct q o) := by
  have r0 : ((encCmd 0x12 q 0 o.tgt (encData o)).toNat >>> 46) % 2 ^ 2 = 0 := by
    rw [run_encCmd _ _ _ _ _ _ _ (by decide)]
    unfold encData
    repeat first | rw [run_high _ _ (by decide)] | rw [run_within _ _ (by decide)]
    exact run_zero
  have r1 : ((encCmd 0x12 q 0 o.tgt (encData o)).toNat >>> 62) % 2 ^ 42 = 0 := by
    rw [run_encCmd _ _ _ _ _ _ _ (by decide)]
    unfold encData
    repeat first | rw [run_high _ _ (by decide)] | rw [run_within _ _ (by decide)]
    exact run_zero
  have f0 : (encCmd 0x12 q 0 o.tgt (encData o)).extractLsb' 104 8 = o.tgt := by
    rw [targetPart_encCmd _ _ _ _ _ _ (by decide)]
    exact extract_all _
  have f1 : (encCmd 0x12 q 0 o.tgt (encData o)).extractLsb' 0 46 = o.desc := by
    rw [operand_encCmd _ _ _ _ _ _ _ (by decide)]
    unfold encData
    repeat first | rw [extract_high _ _ (by decide)] | rw [extract_within _ _ (by decide)]
    exact extract_all _
  have f2 : (encCmd 0x12 q 0 o.tgt (encData o)).extractLsb' 48 3 = o.slot := by
    rw [operand_encCmd _ _ _ _ _ _ _ (by decide)]
    unfold encData
    repeat first | rw [extract_high _ _ (by decide)] | rw [extract_within _ _ (by decide)]
    exact extract_all _
  have f3 : (encCmd 0x12 q 0 o.tgt (encData o)).extractLsb' 51 10 = o.inst := by
    rw [operand_encCmd _ _ _ _ _ _ _ (by decide)]
    unfold encData
    repeat first | rw [extract_high _ _ (by decide)] | rw [extract_within _ _ (by decide)]
    exact extract_all _
  have b0 : (encCmd 0x12 q 0 o.tgt (encData o)).getLsbD 61 = o.bnd := by
    rw [operand_bit_encCmd _ _ _ _ _ _ (by decide)]
    unfold encData
    repeat first | rw [bit_high _ _ (by decide)] | rw [bit_low _ _ (by decide)]
    exact bit_ofBool _
  have hs : ¬ ((0 : BitVec 6) &&& ~~~(0 : BitVec 6) ≠ 0) := by decide
  have ht : streamerTarget o.tgt = true := h
  unfold decodeStream
  rw [op_encCmd]
  show decodeSsct (encCmd 0x12 q 0 o.tgt (encData o)) = _
  unfold decodeSsct checked
  rw [special_encCmd, if_neg hs, qual_encCmd]
  rw [target_encCmd, ht]
  have hu : unusedZero (encCmd 0x12 q 0 o.tgt (encData o)) [(46, 2), (62, 42)] = true := by
    simp only [unusedZero, List.all_cons, List.all_nil, r0, r1]
    rfl
  rw [hu]
  simp only [f0, f1, f2, f3, b0, Bool.not_true, Bool.false_eq_true, if_false, if_true]
theorem dec_slkp (q : CmdQual) (o : DataOps) (h : WellFormed (.slkp q o) = true) : decodeStream (encCmd 0x13 q 0 o.tgt (encData o)) = .ok (.slkp q o) := by
  have r0 : ((encCmd 0x13 q 0 o.tgt (encData o)).toNat >>> 46) % 2 ^ 2 = 0 := by
    rw [run_encCmd _ _ _ _ _ _ _ (by decide)]
    unfold encData
    repeat first | rw [run_high _ _ (by decide)] | rw [run_within _ _ (by decide)]
    exact run_zero
  have r1 : ((encCmd 0x13 q 0 o.tgt (encData o)).toNat >>> 62) % 2 ^ 42 = 0 := by
    rw [run_encCmd _ _ _ _ _ _ _ (by decide)]
    unfold encData
    repeat first | rw [run_high _ _ (by decide)] | rw [run_within _ _ (by decide)]
    exact run_zero
  have f0 : (encCmd 0x13 q 0 o.tgt (encData o)).extractLsb' 104 8 = o.tgt := by
    rw [targetPart_encCmd _ _ _ _ _ _ (by decide)]
    exact extract_all _
  have f1 : (encCmd 0x13 q 0 o.tgt (encData o)).extractLsb' 0 46 = o.desc := by
    rw [operand_encCmd _ _ _ _ _ _ _ (by decide)]
    unfold encData
    repeat first | rw [extract_high _ _ (by decide)] | rw [extract_within _ _ (by decide)]
    exact extract_all _
  have f2 : (encCmd 0x13 q 0 o.tgt (encData o)).extractLsb' 48 3 = o.slot := by
    rw [operand_encCmd _ _ _ _ _ _ _ (by decide)]
    unfold encData
    repeat first | rw [extract_high _ _ (by decide)] | rw [extract_within _ _ (by decide)]
    exact extract_all _
  have f3 : (encCmd 0x13 q 0 o.tgt (encData o)).extractLsb' 51 10 = o.inst := by
    rw [operand_encCmd _ _ _ _ _ _ _ (by decide)]
    unfold encData
    repeat first | rw [extract_high _ _ (by decide)] | rw [extract_within _ _ (by decide)]
    exact extract_all _
  have b0 : (encCmd 0x13 q 0 o.tgt (encData o)).getLsbD 61 = o.bnd := by
    rw [operand_bit_encCmd _ _ _ _ _ _ (by decide)]
    unfold encData
    repeat first | rw [bit_high _ _ (by decide)] | rw [bit_low _ _ (by decide)]
    exact bit_ofBool _
  have hs : ¬ ((0 : BitVec 6) &&& ~~~(0 : BitVec 6) ≠ 0) := by decide
  have ht : streamerTarget o.tgt = true := h
  unfold decodeStream
  rw [op_encCmd]
  show decodeSlkp (encCmd 0x13 q 0 o.tgt (encData o)) = _
  unfold decodeSlkp checked
  rw [special_encCmd, if_neg hs, qual_encCmd]
  rw [target_encCmd, ht]
  have hu : unusedZero (encCmd 0x13 q 0 o.tgt (encData o)) [(46, 2), (62, 42)] = true := by
    simp only [unusedZero, List.all_cons, List.all_nil, r0, r1]
    rfl
  rw [hu]
  simp only [f0, f1, f2, f3, b0, Bool.not_true, Bool.false_eq_true, if_false, if_true]
theorem dec_supd (q : CmdQual) (o : DataOps) (h : WellFormed (.supd q o) = true) : decodeStream (encCmd 0x14 q 0 o.tgt (encData o)) = .ok (.supd q o) := by
  have r0 : ((encCmd 0x14 q 0 o.tgt (encData o)).toNat >>> 46) % 2 ^ 2 = 0 := by
    rw [run_encCmd _ _ _ _ _ _ _ (by decide)]
    unfold encData
    repeat first | rw [run_high _ _ (by decide)] | rw [run_within _ _ (by decide)]
    exact run_zero
  have r1 : ((encCmd 0x14 q 0 o.tgt (encData o)).toNat >>> 62) % 2 ^ 42 = 0 := by
    rw [run_encCmd _ _ _ _ _ _ _ (by decide)]
    unfold encData
    repeat first | rw [run_high _ _ (by decide)] | rw [run_within _ _ (by decide)]
    exact run_zero
  have f0 : (encCmd 0x14 q 0 o.tgt (encData o)).extractLsb' 104 8 = o.tgt := by
    rw [targetPart_encCmd _ _ _ _ _ _ (by decide)]
    exact extract_all _
  have f1 : (encCmd 0x14 q 0 o.tgt (encData o)).extractLsb' 0 46 = o.desc := by
    rw [operand_encCmd _ _ _ _ _ _ _ (by decide)]
    unfold encData
    repeat first | rw [extract_high _ _ (by decide)] | rw [extract_within _ _ (by decide)]
    exact extract_all _
  have f2 : (encCmd 0x14 q 0 o.tgt (encData o)).extractLsb' 48 3 = o.slot := by
    rw [operand_encCmd _ _ _ _ _ _ _ (by decide)]
    unfold encData
    repeat first | rw [extract_high _ _ (by decide)] | rw [extract_within _ _ (by decide)]
    exact extract_all _
  have f3 : (encCmd 0x14 q 0 o.tgt (encData o)).extractLsb' 51 10 = o.inst := by
    rw [operand_encCmd _ _ _ _ _ _ _ (by decide)]
    unfold encData
    repeat first | rw [extract_high _ _ (by decide)] | rw [extract_within _ _ (by decide)]
    exact extract_all _
  have b0 : (encCmd 0x14 q 0 o.tgt (encData o)).getLsbD 61 = o.bnd := by
    rw [operand_bit_encCmd _ _ _ _ _ _ (by decide)]
    unfold encData
    repeat first | rw [bit_high _ _ (by decide)] | rw [bit_low _ _ (by decide)]
    exact bit_ofBool _
  have hs : ¬ ((0 : BitVec 6) &&& ~~~(0 : BitVec 6) ≠ 0) := by decide
  have ht : streamerTarget o.tgt = true := h
  unfold decodeStream
  rw [op_encCmd]
  show decodeSupd (encCmd 0x14 q 0 o.tgt (encData o)) = _
  unfold decodeSupd checked
  rw [special_encCmd, if_neg hs, qual_encCmd]
  rw [target_encCmd, ht]
  have hu : unusedZero (encCmd 0x14 q 0 o.tgt (encData o)) [(46, 2), (62, 42)] = true := by
    simp only [unusedZero, List.all_cons, List.all_nil, r0, r1]
    rfl
  rw [hu]
  simp only [f0, f1, f2, f3, b0, Bool.not_true, Bool.false_eq_true, if_false, if_true]
theorem dec_smig (q : CmdQual) (tgt : BitVec 8) (blk : BitVec 48) (h : WellFormed (.smig q tgt blk) = true) : decodeStream (encCmd 0x15 q 0#6 tgt (0#56 ++ blk)) = .ok (.smig q tgt blk) := by
  have r0 : ((encCmd 0x15 q 0#6 tgt (0#56 ++ blk)).toNat >>> 48) % 2 ^ 56 = 0 := by
    rw [run_encCmd _ _ _ _ _ _ _ (by decide)]
    repeat first | rw [run_high _ _ (by decide)] | rw [run_within _ _ (by decide)]
    exact run_zero
  have f0 : (encCmd 0x15 q 0#6 tgt (0#56 ++ blk)).extractLsb' 104 8 = tgt := by
    rw [targetPart_encCmd _ _ _ _ _ _ (by decide)]
    exact extract_all _
  have f1 : (encCmd 0x15 q 0#6 tgt (0#56 ++ blk)).extractLsb' 0 48 = blk := by
    rw [operand_encCmd _ _ _ _ _ _ _ (by decide)]
    repeat first | rw [extract_high _ _ (by decide)] | rw [extract_within _ _ (by decide)]
    exact extract_all _
  have hs : ¬ ((0#6 : BitVec 6) &&& ~~~(0 : BitVec 6) ≠ 0) := by decide
  have ht : streamerTarget tgt = true := h
  unfold decodeStream
  rw [op_encCmd]
  show decodeSmig (encCmd 0x15 q 0#6 tgt (0#56 ++ blk)) = _
  unfold decodeSmig checked
  rw [special_encCmd, if_neg hs, qual_encCmd]
  rw [target_encCmd, ht]
  have hu : unusedZero (encCmd 0x15 q 0#6 tgt (0#56 ++ blk)) [(48, 56)] = true := by
    simp only [unusedZero, List.all_cons, List.all_nil, r0]
    rfl
  rw [hu]
  simp only [f0, f1, Bool.not_true, Bool.false_eq_true, if_false, if_true]
theorem dec_stbl (q : CmdQual) (tbl : BitVec 4) (desc : BitVec 46) (free : BitVec 49) : decodeStream (encCmd 0x16 q 0#6 0 (0#1 ++ free ++ desc ++ 0#4 ++ tbl)) = .ok (.stbl q tbl desc free) := by
  have r0 : ((encCmd 0x16 q 0#6 0 (0#1 ++ free ++ desc ++ 0#4 ++ tbl)).toNat >>> 4) % 2 ^ 4 = 0 := by
    rw [run_encCmd _ _ _ _ _ _ _ (by decide)]
    repeat first | rw [run_high _ _ (by decide)] | rw [run_within _ _ (by decide)]
    exact run_zero
  have r1 : ((encCmd 0x16 q 0#6 0 (0#1 ++ free ++ desc ++ 0#4 ++ tbl)).toNat >>> 103) % 2 ^ 1 = 0 := by
    rw [run_encCmd _ _ _ _ _ _ _ (by decide)]
    repeat first | rw [run_high _ _ (by decide)] | rw [run_within _ _ (by decide)]
    exact run_zero
  have f0 : (encCmd 0x16 q 0#6 0 (0#1 ++ free ++ desc ++ 0#4 ++ tbl)).extractLsb' 0 4 = tbl := by
    rw [operand_encCmd _ _ _ _ _ _ _ (by decide)]
    repeat first | rw [extract_high _ _ (by decide)] | rw [extract_within _ _ (by decide)]
    exact extract_all _
  have f1 : (encCmd 0x16 q 0#6 0 (0#1 ++ free ++ desc ++ 0#4 ++ tbl)).extractLsb' 8 46 = desc := by
    rw [operand_encCmd _ _ _ _ _ _ _ (by decide)]
    repeat first | rw [extract_high _ _ (by decide)] | rw [extract_within _ _ (by decide)]
    exact extract_all _
  have f2 : (encCmd 0x16 q 0#6 0 (0#1 ++ free ++ desc ++ 0#4 ++ tbl)).extractLsb' 54 49 = free := by
    rw [operand_encCmd _ _ _ _ _ _ _ (by decide)]
    repeat first | rw [extract_high _ _ (by decide)] | rw [extract_within _ _ (by decide)]
    exact extract_all _
  have hs : ¬ ((0#6 : BitVec 6) &&& ~~~(0 : BitVec 6) ≠ 0) := by decide
  have ht : ((0 : BitVec 8) == 0) = true := rfl
  unfold decodeStream
  rw [op_encCmd]
  show decodeStbl (encCmd 0x16 q 0#6 0 (0#1 ++ free ++ desc ++ 0#4 ++ tbl)) = _
  unfold decodeStbl checked
  rw [special_encCmd, if_neg hs, qual_encCmd]
  rw [target_encCmd, ht]
  have hu : unusedZero (encCmd 0x16 q 0#6 0 (0#1 ++ free ++ desc ++ 0#4 ++ tbl)) [(4, 4), (103, 1)] = true := by
    simp only [unusedZero, List.all_cons, List.all_nil, r0, r1]
    rfl
  rw [hu]
  simp only [f0, f1, f2, Bool.not_true, Bool.false_eq_true, if_false, if_true]
theorem dec_sdor (q : CmdQual) (door : BitVec 8) (slot : BitVec 3) (inst : BitVec 10) (blk : BitVec 48) : decodeStream (encCmd 0x18 q 0#6 door (0#40 ++ blk ++ 0#3 ++ inst ++ slot)) = .ok (.sdor q door slot inst blk) := by
  have r0 : ((encCmd 0x18 q 0#6 door (0#40 ++ blk ++ 0#3 ++ inst ++ slot)).toNat >>> 13) % 2 ^ 3 = 0 := by
    rw [run_encCmd _ _ _ _ _ _ _ (by decide)]
    repeat first | rw [run_high _ _ (by decide)] | rw [run_within _ _ (by decide)]
    exact run_zero
  have r1 : ((encCmd 0x18 q 0#6 door (0#40 ++ blk ++ 0#3 ++ inst ++ slot)).toNat >>> 64) % 2 ^ 40 = 0 := by
    rw [run_encCmd _ _ _ _ _ _ _ (by decide)]
    repeat first | rw [run_high _ _ (by decide)] | rw [run_within _ _ (by decide)]
    exact run_zero
  have f0 : (encCmd 0x18 q 0#6 door (0#40 ++ blk ++ 0#3 ++ inst ++ slot)).extractLsb' 104 8 = door := by
    rw [targetPart_encCmd _ _ _ _ _ _ (by decide)]
    exact extract_all _
  have f1 : (encCmd 0x18 q 0#6 door (0#40 ++ blk ++ 0#3 ++ inst ++ slot)).extractLsb' 0 3 = slot := by
    rw [operand_encCmd _ _ _ _ _ _ _ (by decide)]
    repeat first | rw [extract_high _ _ (by decide)] | rw [extract_within _ _ (by decide)]
    exact extract_all _
  have f2 : (encCmd 0x18 q 0#6 door (0#40 ++ blk ++ 0#3 ++ inst ++ slot)).extractLsb' 3 10 = inst := by
    rw [operand_encCmd _ _ _ _ _ _ _ (by decide)]
    repeat first | rw [extract_high _ _ (by decide)] | rw [extract_within _ _ (by decide)]
    exact extract_all _
  have f3 : (encCmd 0x18 q 0#6 door (0#40 ++ blk ++ 0#3 ++ inst ++ slot)).extractLsb' 16 48 = blk := by
    rw [operand_encCmd _ _ _ _ _ _ _ (by decide)]
    repeat first | rw [extract_high _ _ (by decide)] | rw [extract_within _ _ (by decide)]
    exact extract_all _
  have hs : ¬ ((0#6 : BitVec 6) &&& ~~~(0 : BitVec 6) ≠ 0) := by decide
  unfold decodeStream
  rw [op_encCmd]
  show decodeSdor (encCmd 0x18 q 0#6 door (0#40 ++ blk ++ 0#3 ++ inst ++ slot)) = _
  unfold decodeSdor checked
  rw [special_encCmd, if_neg hs, qual_encCmd]
  have hu : unusedZero (encCmd 0x18 q 0#6 door (0#40 ++ blk ++ 0#3 ++ inst ++ slot)) [(13, 3), (64, 40)] = true := by
    simp only [unusedZero, List.all_cons, List.all_nil, r0, r1]
    rfl
  rw [hu]
  simp only [f0, f1, f2, f3, Bool.not_true, Bool.false_eq_true, if_false, if_true]
theorem dec_swin (q : CmdQual) (win : BitVec 4) (slot : BitVec 3) (obj : BitVec 48) (ntf : BitVec 48) : decodeStream (encCmd 0x19 q 0#6 (0#4 ++ win) (0#5 ++ ntf ++ obj ++ slot)) = .ok (.swin q win slot obj ntf) := by
  have r0 : ((encCmd 0x19 q 0#6 (0#4 ++ win) (0#5 ++ ntf ++ obj ++ slot)).toNat >>> 99) % 2 ^ 5 = 0 := by
    rw [run_encCmd _ _ _ _ _ _ _ (by decide)]
    repeat first | rw [run_high _ _ (by decide)] | rw [run_within _ _ (by decide)]
    exact run_zero
  have f0 : (encCmd 0x19 q 0#6 (0#4 ++ win) (0#5 ++ ntf ++ obj ++ slot)).extractLsb' 104 4 = win := by
    rw [targetPart_encCmd _ _ _ _ _ _ (by decide), extract_within _ _ (by decide)]
    exact extract_all _
  have f1 : (encCmd 0x19 q 0#6 (0#4 ++ win) (0#5 ++ ntf ++ obj ++ slot)).extractLsb' 0 3 = slot := by
    rw [operand_encCmd _ _ _ _ _ _ _ (by decide)]
    repeat first | rw [extract_high _ _ (by decide)] | rw [extract_within _ _ (by decide)]
    exact extract_all _
  have f2 : (encCmd 0x19 q 0#6 (0#4 ++ win) (0#5 ++ ntf ++ obj ++ slot)).extractLsb' 3 48 = obj := by
    rw [operand_encCmd _ _ _ _ _ _ _ (by decide)]
    repeat first | rw [extract_high _ _ (by decide)] | rw [extract_within _ _ (by decide)]
    exact extract_all _
  have f3 : (encCmd 0x19 q 0#6 (0#4 ++ win) (0#5 ++ ntf ++ obj ++ slot)).extractLsb' 51 48 = ntf := by
    rw [operand_encCmd _ _ _ _ _ _ _ (by decide)]
    repeat first | rw [extract_high _ _ (by decide)] | rw [extract_within _ _ (by decide)]
    exact extract_all _
  have hs : ¬ ((0#6 : BitVec 6) &&& ~~~(0 : BitVec 6) ≠ 0) := by decide
  have ht : decide ((0#4 ++ win).toNat < 16) = true := by
    rw [decide_eq_true_eq, BitVec.toNat_append]
    have := win.isLt
    simp
    omega
  have hb : (encCmd 0x19 q 0#6 (0#4 ++ win) (0#5 ++ ntf ++ obj ++ slot)).getLsbD 112 = false := by
    rw [special_bit_encCmd _ _ _ _ _ _ (by decide) (by decide)]
    rfl
  unfold decodeStream
  rw [op_encCmd]
  show (if (encCmd 0x19 q 0#6 (0#4 ++ win) (0#5 ++ ntf ++ obj ++ slot)).getLsbD 112 then decodeSwinU (encCmd 0x19 q 0#6 (0#4 ++ win) (0#5 ++ ntf ++ obj ++ slot)) else decodeSwin (encCmd 0x19 q 0#6 (0#4 ++ win) (0#5 ++ ntf ++ obj ++ slot))) = _
  rw [hb]
  simp only [Bool.false_eq_true, if_false, if_true]
  unfold decodeSwin checked
  rw [special_encCmd, if_neg hs, qual_encCmd]
  rw [target_encCmd, ht]
  have hu : unusedZero (encCmd 0x19 q 0#6 (0#4 ++ win) (0#5 ++ ntf ++ obj ++ slot)) [(99, 5)] = true := by
    simp only [unusedZero, List.all_cons, List.all_nil, r0]
    rfl
  rw [hu]
  simp only [f0, f1, f2, f3, Bool.not_true, Bool.false_eq_true, if_false, if_true]
theorem dec_swinU (q : CmdQual) (win : BitVec 4) (slot : BitVec 3) : decodeStream (encCmd 0x19 q 1#6 (0#4 ++ win) (0#101 ++ slot)) = .ok (.swinU q win slot) := by
  have r0 : ((encCmd 0x19 q 1#6 (0#4 ++ win) (0#101 ++ slot)).toNat >>> 3) % 2 ^ 101 = 0 := by
    rw [run_encCmd _ _ _ _ _ _ _ (by decide)]
    repeat first | rw [run_high _ _ (by decide)] | rw [run_within _ _ (by decide)]
    exact run_zero
  have f0 : (encCmd 0x19 q 1#6 (0#4 ++ win) (0#101 ++ slot)).extractLsb' 104 4 = win := by
    rw [targetPart_encCmd _ _ _ _ _ _ (by decide), extract_within _ _ (by decide)]
    exact extract_all _
  have f1 : (encCmd 0x19 q 1#6 (0#4 ++ win) (0#101 ++ slot)).extractLsb' 0 3 = slot := by
    rw [operand_encCmd _ _ _ _ _ _ _ (by decide)]
    repeat first | rw [extract_high _ _ (by decide)] | rw [extract_within _ _ (by decide)]
    exact extract_all _
  have hs : ¬ ((1#6 : BitVec 6) &&& ~~~(1 : BitVec 6) ≠ 0) := by decide
  have ht : decide ((0#4 ++ win).toNat < 16) = true := by
    rw [decide_eq_true_eq, BitVec.toNat_append]
    have := win.isLt
    simp
    omega
  have hb : (encCmd 0x19 q 1#6 (0#4 ++ win) (0#101 ++ slot)).getLsbD 112 = true := by
    rw [special_bit_encCmd _ _ _ _ _ _ (by decide) (by decide)]
    rfl
  unfold decodeStream
  rw [op_encCmd]
  show (if (encCmd 0x19 q 1#6 (0#4 ++ win) (0#101 ++ slot)).getLsbD 112 then decodeSwinU (encCmd 0x19 q 1#6 (0#4 ++ win) (0#101 ++ slot)) else decodeSwin (encCmd 0x19 q 1#6 (0#4 ++ win) (0#101 ++ slot))) = _
  rw [hb]
  simp only [Bool.false_eq_true, if_false, if_true]
  unfold decodeSwinU checked
  rw [special_encCmd, if_neg hs, qual_encCmd]
  rw [target_encCmd, ht]
  have hu : unusedZero (encCmd 0x19 q 1#6 (0#4 ++ win) (0#101 ++ slot)) [(3, 101)] = true := by
    simp only [unusedZero, List.all_cons, List.all_nil, r0]
    rfl
  rw [hu]
  simp only [f0, f1, Bool.not_true, Bool.false_eq_true, if_false, if_true]
theorem dec_sagp (q : CmdQual) (pos : BitVec 7) (prog : BitVec 2) (pgm : BitVec 46) (slot : BitVec 3) (inst : BitVec 10) : decodeStream (encCmd 0x1A q 0#6 (0#1 ++ pos) (0#40 ++ inst ++ slot ++ 0#1 ++ pgm ++ 0#2 ++ prog)) = .ok (.sagp q pos prog pgm slot inst) := by
  have r0 : ((encCmd 0x1A q 0#6 (0#1 ++ pos) (0#40 ++ inst ++ slot ++ 0#1 ++ pgm ++ 0#2 ++ prog)).toNat >>> 2) % 2 ^ 2 = 0 := by
    rw [run_encCmd _ _ _ _ _ _ _ (by decide)]
    repeat first | rw [run_high _ _ (by decide)] | rw [run_within _ _ (by decide)]
    exact run_zero
  have r1 : ((encCmd 0x1A q 0#6 (0#1 ++ pos) (0#40 ++ inst ++ slot ++ 0#1 ++ pgm ++ 0#2 ++ prog)).toNat >>> 50) % 2 ^ 1 = 0 := by
    rw [run_encCmd _ _ _ _ _ _ _ (by decide)]
    repeat first | rw [run_high _ _ (by decide)] | rw [run_within _ _ (by decide)]
    exact run_zero
  have r2 : ((encCmd 0x1A q 0#6 (0#1 ++ pos) (0#40 ++ inst ++ slot ++ 0#1 ++ pgm ++ 0#2 ++ prog)).toNat >>> 64) % 2 ^ 40 = 0 := by
    rw [run_encCmd _ _ _ _ _ _ _ (by decide)]
    repeat first | rw [run_high _ _ (by decide)] | rw [run_within _ _ (by decide)]
    exact run_zero
  have f0 : (encCmd 0x1A q 0#6 (0#1 ++ pos) (0#40 ++ inst ++ slot ++ 0#1 ++ pgm ++ 0#2 ++ prog)).extractLsb' 104 7 = pos := by
    rw [targetPart_encCmd _ _ _ _ _ _ (by decide), extract_within _ _ (by decide)]
    exact extract_all _
  have f1 : (encCmd 0x1A q 0#6 (0#1 ++ pos) (0#40 ++ inst ++ slot ++ 0#1 ++ pgm ++ 0#2 ++ prog)).extractLsb' 0 2 = prog := by
    rw [operand_encCmd _ _ _ _ _ _ _ (by decide)]
    repeat first | rw [extract_high _ _ (by decide)] | rw [extract_within _ _ (by decide)]
    exact extract_all _
  have f2 : (encCmd 0x1A q 0#6 (0#1 ++ pos) (0#40 ++ inst ++ slot ++ 0#1 ++ pgm ++ 0#2 ++ prog)).extractLsb' 4 46 = pgm := by
    rw [operand_encCmd _ _ _ _ _ _ _ (by decide)]
    repeat first | rw [extract_high _ _ (by decide)] | rw [extract_within _ _ (by decide)]
    exact extract_all _
  have f3 : (encCmd 0x1A q 0#6 (0#1 ++ pos) (0#40 ++ inst ++ slot ++ 0#1 ++ pgm ++ 0#2 ++ prog)).extractLsb' 51 3 = slot := by
    rw [operand_encCmd _ _ _ _ _ _ _ (by decide)]
    repeat first | rw [extract_high _ _ (by decide)] | rw [extract_within _ _ (by decide)]
    exact extract_all _
  have f4 : (encCmd 0x1A q 0#6 (0#1 ++ pos) (0#40 ++ inst ++ slot ++ 0#1 ++ pgm ++ 0#2 ++ prog)).extractLsb' 54 10 = inst := by
    rw [operand_encCmd _ _ _ _ _ _ _ (by decide)]
    repeat first | rw [extract_high _ _ (by decide)] | rw [extract_within _ _ (by decide)]
    exact extract_all _
  have hs : ¬ ((0#6 : BitVec 6) &&& ~~~(0 : BitVec 6) ≠ 0) := by decide
  have ht : decide ((0#1 ++ pos).toNat < 128) = true := by
    rw [decide_eq_true_eq, BitVec.toNat_append]
    have := pos.isLt
    simp
    omega
  have hb : (encCmd 0x1A q 0#6 (0#1 ++ pos) (0#40 ++ inst ++ slot ++ 0#1 ++ pgm ++ 0#2 ++ prog)).getLsbD 112 = false := by
    rw [special_bit_encCmd _ _ _ _ _ _ (by decide) (by decide)]
    rfl
  unfold decodeStream
  rw [op_encCmd]
  show (if (encCmd 0x1A q 0#6 (0#1 ++ pos) (0#40 ++ inst ++ slot ++ 0#1 ++ pgm ++ 0#2 ++ prog)).getLsbD 112 then decodeSagpU (encCmd 0x1A q 0#6 (0#1 ++ pos) (0#40 ++ inst ++ slot ++ 0#1 ++ pgm ++ 0#2 ++ prog)) else decodeSagp (encCmd 0x1A q 0#6 (0#1 ++ pos) (0#40 ++ inst ++ slot ++ 0#1 ++ pgm ++ 0#2 ++ prog))) = _
  rw [hb]
  simp only [Bool.false_eq_true, if_false, if_true]
  unfold decodeSagp checked
  rw [special_encCmd, if_neg hs, qual_encCmd]
  rw [target_encCmd, ht]
  have hu : unusedZero (encCmd 0x1A q 0#6 (0#1 ++ pos) (0#40 ++ inst ++ slot ++ 0#1 ++ pgm ++ 0#2 ++ prog)) [(2, 2), (50, 1), (64, 40)] = true := by
    simp only [unusedZero, List.all_cons, List.all_nil, r0, r1, r2]
    rfl
  rw [hu]
  simp only [f0, f1, f2, f3, f4, Bool.not_true, Bool.false_eq_true, if_false, if_true]
theorem dec_sagpU (q : CmdQual) (pos : BitVec 7) (prog : BitVec 2) : decodeStream (encCmd 0x1A q 1#6 (0#1 ++ pos) (0#102 ++ prog)) = .ok (.sagpU q pos prog) := by
  have r0 : ((encCmd 0x1A q 1#6 (0#1 ++ pos) (0#102 ++ prog)).toNat >>> 2) % 2 ^ 102 = 0 := by
    rw [run_encCmd _ _ _ _ _ _ _ (by decide)]
    repeat first | rw [run_high _ _ (by decide)] | rw [run_within _ _ (by decide)]
    exact run_zero
  have f0 : (encCmd 0x1A q 1#6 (0#1 ++ pos) (0#102 ++ prog)).extractLsb' 104 7 = pos := by
    rw [targetPart_encCmd _ _ _ _ _ _ (by decide), extract_within _ _ (by decide)]
    exact extract_all _
  have f1 : (encCmd 0x1A q 1#6 (0#1 ++ pos) (0#102 ++ prog)).extractLsb' 0 2 = prog := by
    rw [operand_encCmd _ _ _ _ _ _ _ (by decide)]
    repeat first | rw [extract_high _ _ (by decide)] | rw [extract_within _ _ (by decide)]
    exact extract_all _
  have hs : ¬ ((1#6 : BitVec 6) &&& ~~~(1 : BitVec 6) ≠ 0) := by decide
  have ht : decide ((0#1 ++ pos).toNat < 128) = true := by
    rw [decide_eq_true_eq, BitVec.toNat_append]
    have := pos.isLt
    simp
    omega
  have hb : (encCmd 0x1A q 1#6 (0#1 ++ pos) (0#102 ++ prog)).getLsbD 112 = true := by
    rw [special_bit_encCmd _ _ _ _ _ _ (by decide) (by decide)]
    rfl
  unfold decodeStream
  rw [op_encCmd]
  show (if (encCmd 0x1A q 1#6 (0#1 ++ pos) (0#102 ++ prog)).getLsbD 112 then decodeSagpU (encCmd 0x1A q 1#6 (0#1 ++ pos) (0#102 ++ prog)) else decodeSagp (encCmd 0x1A q 1#6 (0#1 ++ pos) (0#102 ++ prog))) = _
  rw [hb]
  simp only [Bool.false_eq_true, if_false, if_true]
  unfold decodeSagpU checked
  rw [special_encCmd, if_neg hs, qual_encCmd]
  rw [target_encCmd, ht]
  have hu : unusedZero (encCmd 0x1A q 1#6 (0#1 ++ pos) (0#102 ++ prog)) [(2, 102)] = true := by
    simp only [unusedZero, List.all_cons, List.all_nil, r0]
    rfl
  rw [hu]
  simp only [f0, f1, Bool.not_true, Bool.false_eq_true, if_false, if_true]
theorem dec_sred (q : CmdQual) (o : DataOps) (h : WellFormed (.sred q o) = true) : decodeStream (encCmd 0x20 q 0 o.tgt (encData o)) = .ok (.sred q o) := by
  have r0 : ((encCmd 0x20 q 0 o.tgt (encData o)).toNat >>> 46) % 2 ^ 2 = 0 := by
    rw [run_encCmd _ _ _ _ _ _ _ (by decide)]
    unfold encData
    repeat first | rw [run_high _ _ (by decide)] | rw [run_within _ _ (by decide)]
    exact run_zero
  have r1 : ((encCmd 0x20 q 0 o.tgt (encData o)).toNat >>> 62) % 2 ^ 42 = 0 := by
    rw [run_encCmd _ _ _ _ _ _ _ (by decide)]
    unfold encData
    repeat first | rw [run_high _ _ (by decide)] | rw [run_within _ _ (by decide)]
    exact run_zero
  have f0 : (encCmd 0x20 q 0 o.tgt (encData o)).extractLsb' 104 8 = o.tgt := by
    rw [targetPart_encCmd _ _ _ _ _ _ (by decide)]
    exact extract_all _
  have f1 : (encCmd 0x20 q 0 o.tgt (encData o)).extractLsb' 0 46 = o.desc := by
    rw [operand_encCmd _ _ _ _ _ _ _ (by decide)]
    unfold encData
    repeat first | rw [extract_high _ _ (by decide)] | rw [extract_within _ _ (by decide)]
    exact extract_all _
  have f2 : (encCmd 0x20 q 0 o.tgt (encData o)).extractLsb' 48 3 = o.slot := by
    rw [operand_encCmd _ _ _ _ _ _ _ (by decide)]
    unfold encData
    repeat first | rw [extract_high _ _ (by decide)] | rw [extract_within _ _ (by decide)]
    exact extract_all _
  have f3 : (encCmd 0x20 q 0 o.tgt (encData o)).extractLsb' 51 10 = o.inst := by
    rw [operand_encCmd _ _ _ _ _ _ _ (by decide)]
    unfold encData
    repeat first | rw [extract_high _ _ (by decide)] | rw [extract_within _ _ (by decide)]
    exact extract_all _
  have b0 : (encCmd 0x20 q 0 o.tgt (encData o)).getLsbD 61 = o.bnd := by
    rw [operand_bit_encCmd _ _ _ _ _ _ (by decide)]
    unfold encData
    repeat first | rw [bit_high _ _ (by decide)] | rw [bit_low _ _ (by decide)]
    exact bit_ofBool _
  have hs : ¬ ((0 : BitVec 6) &&& ~~~(0 : BitVec 6) ≠ 0) := by decide
  have ht : streamerTarget o.tgt = true := h
  unfold decodeStream
  rw [op_encCmd]
  show decodeSred (encCmd 0x20 q 0 o.tgt (encData o)) = _
  unfold decodeSred checked
  rw [special_encCmd, if_neg hs, qual_encCmd]
  rw [target_encCmd, ht]
  have hu : unusedZero (encCmd 0x20 q 0 o.tgt (encData o)) [(46, 2), (62, 42)] = true := by
    simp only [unusedZero, List.all_cons, List.all_nil, r0, r1]
    rfl
  rw [hu]
  simp only [f0, f1, f2, f3, b0, Bool.not_true, Bool.false_eq_true, if_false, if_true]
theorem dec_scol (q : CmdQual) (o : DataOps) (h : WellFormed (.scol q o) = true) : decodeStream (encCmd 0x21 q 0 o.tgt (encData o)) = .ok (.scol q o) := by
  have r0 : ((encCmd 0x21 q 0 o.tgt (encData o)).toNat >>> 46) % 2 ^ 2 = 0 := by
    rw [run_encCmd _ _ _ _ _ _ _ (by decide)]
    unfold encData
    repeat first | rw [run_high _ _ (by decide)] | rw [run_within _ _ (by decide)]
    exact run_zero
  have r1 : ((encCmd 0x21 q 0 o.tgt (encData o)).toNat >>> 62) % 2 ^ 42 = 0 := by
    rw [run_encCmd _ _ _ _ _ _ _ (by decide)]
    unfold encData
    repeat first | rw [run_high _ _ (by decide)] | rw [run_within _ _ (by decide)]
    exact run_zero
  have f0 : (encCmd 0x21 q 0 o.tgt (encData o)).extractLsb' 104 8 = o.tgt := by
    rw [targetPart_encCmd _ _ _ _ _ _ (by decide)]
    exact extract_all _
  have f1 : (encCmd 0x21 q 0 o.tgt (encData o)).extractLsb' 0 46 = o.desc := by
    rw [operand_encCmd _ _ _ _ _ _ _ (by decide)]
    unfold encData
    repeat first | rw [extract_high _ _ (by decide)] | rw [extract_within _ _ (by decide)]
    exact extract_all _
  have f2 : (encCmd 0x21 q 0 o.tgt (encData o)).extractLsb' 48 3 = o.slot := by
    rw [operand_encCmd _ _ _ _ _ _ _ (by decide)]
    unfold encData
    repeat first | rw [extract_high _ _ (by decide)] | rw [extract_within _ _ (by decide)]
    exact extract_all _
  have f3 : (encCmd 0x21 q 0 o.tgt (encData o)).extractLsb' 51 10 = o.inst := by
    rw [operand_encCmd _ _ _ _ _ _ _ (by decide)]
    unfold encData
    repeat first | rw [extract_high _ _ (by decide)] | rw [extract_within _ _ (by decide)]
    exact extract_all _
  have b0 : (encCmd 0x21 q 0 o.tgt (encData o)).getLsbD 61 = o.bnd := by
    rw [operand_bit_encCmd _ _ _ _ _ _ (by decide)]
    unfold encData
    repeat first | rw [bit_high _ _ (by decide)] | rw [bit_low _ _ (by decide)]
    exact bit_ofBool _
  have hs : ¬ ((0 : BitVec 6) &&& ~~~(0 : BitVec 6) ≠ 0) := by decide
  have ht : streamerTarget o.tgt = true := h
  unfold decodeStream
  rw [op_encCmd]
  show decodeScol (encCmd 0x21 q 0 o.tgt (encData o)) = _
  unfold decodeScol checked
  rw [special_encCmd, if_neg hs, qual_encCmd]
  rw [target_encCmd, ht]
  have hu : unusedZero (encCmd 0x21 q 0 o.tgt (encData o)) [(46, 2), (62, 42)] = true := by
    simp only [unusedZero, List.all_cons, List.all_nil, r0, r1]
    rfl
  rw [hu]
  simp only [f0, f1, f2, f3, b0, Bool.not_true, Bool.false_eq_true, if_false, if_true]
theorem dec_sdrn (q : CmdQual) (clear : Bool) (o : DrainOps) : decodeStream (encCmd 0x22 q (0#5 ++ BitVec.ofBool clear) o.ep (0#14 ++ o.epage ++ o.elink ++ 0#8 ++ o.scl ++ o.tbl ++ o.rm ++ o.fmt ++ o.asl ++ o.page ++ o.inst ++ o.slot)) = .ok (.sdrn q clear o) := by
  have r0 : ((encCmd 0x22 q (0#5 ++ BitVec.ofBool clear) o.ep (0#14 ++ o.epage ++ o.elink ++ 0#8 ++ o.scl ++ o.tbl ++ o.rm ++ o.fmt ++ o.asl ++ o.page ++ o.inst ++ o.slot)).toNat >>> 40) % 2 ^ 8 = 0 := by
    rw [run_encCmd _ _ _ _ _ _ _ (by decide)]
    repeat first | rw [run_high _ _ (by decide)] | rw [run_within _ _ (by decide)]
    exact run_zero
  have r1 : ((encCmd 0x22 q (0#5 ++ BitVec.ofBool clear) o.ep (0#14 ++ o.epage ++ o.elink ++ 0#8 ++ o.scl ++ o.tbl ++ o.rm ++ o.fmt ++ o.asl ++ o.page ++ o.inst ++ o.slot)).toNat >>> 90) % 2 ^ 14 = 0 := by
    rw [run_encCmd _ _ _ _ _ _ _ (by decide)]
    repeat first | rw [run_high _ _ (by decide)] | rw [run_within _ _ (by decide)]
    exact run_zero
  have f0 : (encCmd 0x22 q (0#5 ++ BitVec.ofBool clear) o.ep (0#14 ++ o.epage ++ o.elink ++ 0#8 ++ o.scl ++ o.tbl ++ o.rm ++ o.fmt ++ o.asl ++ o.page ++ o.inst ++ o.slot)).extractLsb' 104 8 = o.ep := by
    rw [targetPart_encCmd _ _ _ _ _ _ (by decide)]
    exact extract_all _
  have f1 : (encCmd 0x22 q (0#5 ++ BitVec.ofBool clear) o.ep (0#14 ++ o.epage ++ o.elink ++ 0#8 ++ o.scl ++ o.tbl ++ o.rm ++ o.fmt ++ o.asl ++ o.page ++ o.inst ++ o.slot)).extractLsb' 0 3 = o.slot := by
    rw [operand_encCmd _ _ _ _ _ _ _ (by decide)]
    repeat first | rw [extract_high _ _ (by decide)] | rw [extract_within _ _ (by decide)]
    exact extract_all _
  have f2 : (encCmd 0x22 q (0#5 ++ BitVec.ofBool clear) o.ep (0#14 ++ o.epage ++ o.elink ++ 0#8 ++ o.scl ++ o.tbl ++ o.rm ++ o.fmt ++ o.asl ++ o.page ++ o.inst ++ o.slot)).extractLsb' 3 10 = o.inst := by
    rw [operand_encCmd _ _ _ _ _ _ _ (by decide)]
    repeat first | rw [extract_high _ _ (by decide)] | rw [extract_within _ _ (by decide)]
    exact extract_all _
  have f3 : (encCmd 0x22 q (0#5 ++ BitVec.ofBool clear) o.ep (0#14 ++ o.epage ++ o.elink ++ 0#8 ++ o.scl ++ o.tbl ++ o.rm ++ o.fmt ++ o.asl ++ o.page ++ o.inst ++ o.slot)).extractLsb' 13 10 = o.page := by
    rw [operand_encCmd _ _ _ _ _ _ _ (by decide)]
    repeat first | rw [extract_high _ _ (by decide)] | rw [extract_within _ _ (by decide)]
    exact extract_all _
  have f4 : (encCmd 0x22 q (0#5 ++ BitVec.ofBool clear) o.ep (0#14 ++ o.epage ++ o.elink ++ 0#8 ++ o.scl ++ o.tbl ++ o.rm ++ o.fmt ++ o.asl ++ o.page ++ o.inst ++ o.slot)).extractLsb' 23 2 = o.asl := by
    rw [operand_encCmd _ _ _ _ _ _ _ (by decide)]
    repeat first | rw [extract_high _ _ (by decide)] | rw [extract_within _ _ (by decide)]
    exact extract_all _
  have f5 : (encCmd 0x22 q (0#5 ++ BitVec.ofBool clear) o.ep (0#14 ++ o.epage ++ o.elink ++ 0#8 ++ o.scl ++ o.tbl ++ o.rm ++ o.fmt ++ o.asl ++ o.page ++ o.inst ++ o.slot)).extractLsb' 25 2 = o.fmt := by
    rw [operand_encCmd _ _ _ _ _ _ _ (by decide)]
    repeat first | rw [extract_high _ _ (by decide)] | rw [extract_within _ _ (by decide)]
    exact extract_all _
  have f6 : (encCmd 0x22 q (0#5 ++ BitVec.ofBool clear) o.ep (0#14 ++ o.epage ++ o.elink ++ 0#8 ++ o.scl ++ o.tbl ++ o.rm ++ o.fmt ++ o.asl ++ o.page ++ o.inst ++ o.slot)).extractLsb' 27 3 = o.rm := by
    rw [operand_encCmd _ _ _ _ _ _ _ (by decide)]
    repeat first | rw [extract_high _ _ (by decide)] | rw [extract_within _ _ (by decide)]
    exact extract_all _
  have f7 : (encCmd 0x22 q (0#5 ++ BitVec.ofBool clear) o.ep (0#14 ++ o.epage ++ o.elink ++ 0#8 ++ o.scl ++ o.tbl ++ o.rm ++ o.fmt ++ o.asl ++ o.page ++ o.inst ++ o.slot)).extractLsb' 30 2 = o.tbl := by
    rw [operand_encCmd _ _ _ _ _ _ _ (by decide)]
    repeat first | rw [extract_high _ _ (by decide)] | rw [extract_within _ _ (by decide)]
    exact extract_all _
  have f8 : (encCmd 0x22 q (0#5 ++ BitVec.ofBool clear) o.ep (0#14 ++ o.epage ++ o.elink ++ 0#8 ++ o.scl ++ o.tbl ++ o.rm ++ o.fmt ++ o.asl ++ o.page ++ o.inst ++ o.slot)).extractLsb' 32 8 = o.scl := by
    rw [operand_encCmd _ _ _ _ _ _ _ (by decide)]
    repeat first | rw [extract_high _ _ (by decide)] | rw [extract_within _ _ (by decide)]
    exact extract_all _
  have f9 : (encCmd 0x22 q (0#5 ++ BitVec.ofBool clear) o.ep (0#14 ++ o.epage ++ o.elink ++ 0#8 ++ o.scl ++ o.tbl ++ o.rm ++ o.fmt ++ o.asl ++ o.page ++ o.inst ++ o.slot)).extractLsb' 48 32 = o.elink := by
    rw [operand_encCmd _ _ _ _ _ _ _ (by decide)]
    repeat first | rw [extract_high _ _ (by decide)] | rw [extract_within _ _ (by decide)]
    exact extract_all _
  have f10 : (encCmd 0x22 q (0#5 ++ BitVec.ofBool clear) o.ep (0#14 ++ o.epage ++ o.elink ++ 0#8 ++ o.scl ++ o.tbl ++ o.rm ++ o.fmt ++ o.asl ++ o.page ++ o.inst ++ o.slot)).extractLsb' 80 10 = o.epage := by
    rw [operand_encCmd _ _ _ _ _ _ _ (by decide)]
    repeat first | rw [extract_high _ _ (by decide)] | rw [extract_within _ _ (by decide)]
    exact extract_all _
  have b0 : (encCmd 0x22 q (0#5 ++ BitVec.ofBool clear) o.ep (0#14 ++ o.epage ++ o.elink ++ 0#8 ++ o.scl ++ o.tbl ++ o.rm ++ o.fmt ++ o.asl ++ o.page ++ o.inst ++ o.slot)).getLsbD 112 = clear := by
    rw [special_bit_encCmd _ _ _ _ _ _ (by decide) (by decide)]
    exact bool_special _
  have hs : ¬ ((0#5 ++ BitVec.ofBool clear) &&& ~~~(1 : BitVec 6) ≠ 0) := by cases clear <;> decide
  unfold decodeStream
  rw [op_encCmd]
  show decodeSdrn (encCmd 0x22 q (0#5 ++ BitVec.ofBool clear) o.ep (0#14 ++ o.epage ++ o.elink ++ 0#8 ++ o.scl ++ o.tbl ++ o.rm ++ o.fmt ++ o.asl ++ o.page ++ o.inst ++ o.slot)) = _
  unfold decodeSdrn checked
  rw [special_encCmd, if_neg hs, qual_encCmd]
  have hu : unusedZero (encCmd 0x22 q (0#5 ++ BitVec.ofBool clear) o.ep (0#14 ++ o.epage ++ o.elink ++ 0#8 ++ o.scl ++ o.tbl ++ o.rm ++ o.fmt ++ o.asl ++ o.page ++ o.inst ++ o.slot)) [(40, 8), (90, 14)] = true := by
    simp only [unusedZero, List.all_cons, List.all_nil, r0, r1]
    rfl
  rw [hu]
  simp only [f0, f1, f2, f3, f4, f5, f6, f7, f8, f9, f10, b0, Bool.not_true, Bool.false_eq_true, if_false, if_true]
theorem dec_shdr (q : CmdQual) (ep : BitVec 8) (slot : BitVec 3) (inst : BitVec 10) (scale : BitVec 8) (tslot : BitVec 2) (en : Bool) : decodeStream (encCmd 0x23 q 0#6 ep (0#77 ++ BitVec.ofBool en ++ tslot ++ scale ++ 0#3 ++ inst ++ slot)) = .ok (.shdr q ep slot inst scale tslot en) := by
  have r0 : ((encCmd 0x23 q 0#6 ep (0#77 ++ BitVec.ofBool en ++ tslot ++ scale ++ 0#3 ++ inst ++ slot)).toNat >>> 13) % 2 ^ 3 = 0 := by
    rw [run_encCmd _ _ _ _ _ _ _ (by decide)]
    repeat first | rw [run_high _ _ (by decide)] | rw [run_within _ _ (by decide)]
    exact run_zero
  have r1 : ((encCmd 0x23 q 0#6 ep (0#77 ++ BitVec.ofBool en ++ tslot ++ scale ++ 0#3 ++ inst ++ slot)).toNat >>> 27) % 2 ^ 77 = 0 := by
    rw [run_encCmd _ _ _ _ _ _ _ (by decide)]
    repeat first | rw [run_high _ _ (by decide)] | rw [run_within _ _ (by decide)]
    exact run_zero
  have f0 : (encCmd 0x23 q 0#6 ep (0#77 ++ BitVec.ofBool en ++ tslot ++ scale ++ 0#3 ++ inst ++ slot)).extractLsb' 104 8 = ep := by
    rw [targetPart_encCmd _ _ _ _ _ _ (by decide)]
    exact extract_all _
  have f1 : (encCmd 0x23 q 0#6 ep (0#77 ++ BitVec.ofBool en ++ tslot ++ scale ++ 0#3 ++ inst ++ slot)).extractLsb' 0 3 = slot := by
    rw [operand_encCmd _ _ _ _ _ _ _ (by decide)]
    repeat first | rw [extract_high _ _ (by decide)] | rw [extract_within _ _ (by decide)]
    exact extract_all _
  have f2 : (encCmd 0x23 q 0#6 ep (0#77 ++ BitVec.ofBool en ++ tslot ++ scale ++ 0#3 ++ inst ++ slot)).extractLsb' 3 10 = inst := by
    rw [operand_encCmd _ _ _ _ _ _ _ (by decide)]
    repeat first | rw [extract_high _ _ (by decide)] | rw [extract_within _ _ (by decide)]
    exact extract_all _
  have f3 : (encCmd 0x23 q 0#6 ep (0#77 ++ BitVec.ofBool en ++ tslot ++ scale ++ 0#3 ++ inst ++ slot)).extractLsb' 16 8 = scale := by
    rw [operand_encCmd _ _ _ _ _ _ _ (by decide)]
    repeat first | rw [extract_high _ _ (by decide)] | rw [extract_within _ _ (by decide)]
    exact extract_all _
  have f4 : (encCmd 0x23 q 0#6 ep (0#77 ++ BitVec.ofBool en ++ tslot ++ scale ++ 0#3 ++ inst ++ slot)).extractLsb' 24 2 = tslot := by
    rw [operand_encCmd _ _ _ _ _ _ _ (by decide)]
    repeat first | rw [extract_high _ _ (by decide)] | rw [extract_within _ _ (by decide)]
    exact extract_all _
  have b0 : (encCmd 0x23 q 0#6 ep (0#77 ++ BitVec.ofBool en ++ tslot ++ scale ++ 0#3 ++ inst ++ slot)).getLsbD 26 = en := by
    rw [operand_bit_encCmd _ _ _ _ _ _ (by decide)]
    repeat first | rw [bit_high _ _ (by decide)] | rw [bit_low _ _ (by decide)]
    exact bit_ofBool _
  have hs : ¬ ((0#6 : BitVec 6) &&& ~~~(0 : BitVec 6) ≠ 0) := by decide
  unfold decodeStream
  rw [op_encCmd]
  show decodeShdr (encCmd 0x23 q 0#6 ep (0#77 ++ BitVec.ofBool en ++ tslot ++ scale ++ 0#3 ++ inst ++ slot)) = _
  unfold decodeShdr checked
  rw [special_encCmd, if_neg hs, qual_encCmd]
  have hu : unusedZero (encCmd 0x23 q 0#6 ep (0#77 ++ BitVec.ofBool en ++ tslot ++ scale ++ 0#3 ++ inst ++ slot)) [(13, 3), (27, 77)] = true := by
    simp only [unusedZero, List.all_cons, List.all_nil, r0, r1]
    rfl
  rw [hu]
  simp only [f0, f1, f2, f3, f4, b0, Bool.not_true, Bool.false_eq_true, if_false, if_true]

end Sys2Proof

namespace Sys2Proof.Laws.RoundTrip

theorem of_none {α : Type} {p : α → Prop} {x : Option α} (h : x = none) : ∀ w, x = some w → p w := by
  subst h; intro w hw; cases hw

theorem of_some {α : Type} {p : α → Prop} {x : Option α} {v : α} (h : x = some v) (hp : p v) : ∀ w, x = some w → p w := by
  subst h; intro w hw; cases hw; exact hp

/-- A well-formed instruction is what its layer's decoder reads from its own encoded word, in whichever layer it has one. -/
def Statement (i : Instr) : Prop :=
  WellFormed i = true →
    (∀ w, encode i = some w → decode w = .ok i) ∧ (∀ w, encodeNode i = some w → decodeNode w = .ok i) ∧
      (∀ w, encodeRouter i = some w → decodeRouter w = .ok i) ∧ (∀ w, encodeStream i = some w → decodeStream w = .ok i)

theorem illegal (x0 : BitVec 32) : Statement (.illegal x0) :=
  fun hw => ⟨of_some rfl (dec_illegal x0 hw), of_none rfl, of_none rfl, of_none rfl⟩
theorem add (x0 : Reg) (x1 : Reg) (x2 : Reg) : Statement (.add x0 x1 x2) :=
  fun _ => ⟨of_some rfl (dec_add x0 x1 x2), of_none rfl, of_none rfl, of_none rfl⟩
theorem sub (x0 : Reg) (x1 : Reg) (x2 : Reg) : Statement (.sub x0 x1 x2) :=
  fun _ => ⟨of_some rfl (dec_sub x0 x1 x2), of_none rfl, of_none rfl, of_none rfl⟩
theorem and (x0 : Reg) (x1 : Reg) (x2 : Reg) : Statement (.and x0 x1 x2) :=
  fun _ => ⟨of_some rfl (dec_and x0 x1 x2), of_none rfl, of_none rfl, of_none rfl⟩
theorem or (x0 : Reg) (x1 : Reg) (x2 : Reg) : Statement (.or x0 x1 x2) :=
  fun _ => ⟨of_some rfl (dec_or x0 x1 x2), of_none rfl, of_none rfl, of_none rfl⟩
theorem xor (x0 : Reg) (x1 : Reg) (x2 : Reg) : Statement (.xor x0 x1 x2) :=
  fun _ => ⟨of_some rfl (dec_xor x0 x1 x2), of_none rfl, of_none rfl, of_none rfl⟩
theorem shl (x0 : Reg) (x1 : Reg) (x2 : Reg) : Statement (.shl x0 x1 x2) :=
  fun _ => ⟨of_some rfl (dec_shl x0 x1 x2), of_none rfl, of_none rfl, of_none rfl⟩
theorem shr (x0 : Reg) (x1 : Reg) (x2 : Reg) : Statement (.shr x0 x1 x2) :=
  fun _ => ⟨of_some rfl (dec_shr x0 x1 x2), of_none rfl, of_none rfl, of_none rfl⟩
theorem sra (x0 : Reg) (x1 : Reg) (x2 : Reg) : Statement (.sra x0 x1 x2) :=
  fun _ => ⟨of_some rfl (dec_sra x0 x1 x2), of_none rfl, of_none rfl, of_none rfl⟩
theorem rol (x0 : Reg) (x1 : Reg) (x2 : Reg) : Statement (.rol x0 x1 x2) :=
  fun _ => ⟨of_some rfl (dec_rol x0 x1 x2), of_none rfl, of_none rfl, of_none rfl⟩
theorem ror (x0 : Reg) (x1 : Reg) (x2 : Reg) : Statement (.ror x0 x1 x2) :=
  fun _ => ⟨of_some rfl (dec_ror x0 x1 x2), of_none rfl, of_none rfl, of_none rfl⟩
theorem min (x0 : Reg) (x1 : Reg) (x2 : Reg) : Statement (.min x0 x1 x2) :=
  fun _ => ⟨of_some rfl (dec_min x0 x1 x2), of_none rfl, of_none rfl, of_none rfl⟩
theorem max (x0 : Reg) (x1 : Reg) (x2 : Reg) : Statement (.max x0 x1 x2) :=
  fun _ => ⟨of_some rfl (dec_max x0 x1 x2), of_none rfl, of_none rfl, of_none rfl⟩
theorem minn (x0 : Reg) (x1 : Reg) (x2 : Reg) : Statement (.minn x0 x1 x2) :=
  fun _ => ⟨of_some rfl (dec_minn x0 x1 x2), of_none rfl, of_none rfl, of_none rfl⟩
theorem maxn (x0 : Reg) (x1 : Reg) (x2 : Reg) : Statement (.maxn x0 x1 x2) :=
  fun _ => ⟨of_some rfl (dec_maxn x0 x1 x2), of_none rfl, of_none rfl, of_none rfl⟩
theorem slt (x0 : Reg) (x1 : Reg) (x2 : Reg) : Statement (.slt x0 x1 x2) :=
  fun _ => ⟨of_some rfl (dec_slt x0 x1 x2), of_none rfl, of_none rfl, of_none rfl⟩
theorem sltn (x0 : Reg) (x1 : Reg) (x2 : Reg) : Statement (.sltn x0 x1 x2) :=
  fun _ => ⟨of_some rfl (dec_sltn x0 x1 x2), of_none rfl, of_none rfl, of_none rfl⟩
theorem seq (x0 : Reg) (x1 : Reg) (x2 : Reg) : Statement (.seq x0 x1 x2) :=
  fun _ => ⟨of_some rfl (dec_seq x0 x1 x2), of_none rfl, of_none rfl, of_none rfl⟩
theorem sel (x0 : Reg) (x1 : Reg) (x2 : Reg) (x3 : Reg) : Statement (.sel x0 x1 x2 x3) :=
  fun _ => ⟨of_some rfl (dec_sel x0 x1 x2 x3), of_none rfl, of_none rfl, of_none rfl⟩
theorem mul (x0 : Reg) (x1 : Reg) (x2 : Reg) : Statement (.mul x0 x1 x2) :=
  fun _ => ⟨of_some rfl (dec_mul x0 x1 x2), of_none rfl, of_none rfl, of_none rfl⟩
theorem mulh (x0 : Reg) (x1 : Reg) (x2 : Reg) : Statement (.mulh x0 x1 x2) :=
  fun _ => ⟨of_some rfl (dec_mulh x0 x1 x2), of_none rfl, of_none rfl, of_none rfl⟩
theorem mulhn (x0 : Reg) (x1 : Reg) (x2 : Reg) : Statement (.mulhn x0 x1 x2) :=
  fun _ => ⟨of_some rfl (dec_mulhn x0 x1 x2), of_none rfl, of_none rfl, of_none rfl⟩
theorem div (x0 : Reg) (x1 : Reg) (x2 : Reg) : Statement (.div x0 x1 x2) :=
  fun _ => ⟨of_some rfl (dec_div x0 x1 x2), of_none rfl, of_none rfl, of_none rfl⟩
theorem divn (x0 : Reg) (x1 : Reg) (x2 : Reg) : Statement (.divn x0 x1 x2) :=
  fun _ => ⟨of_some rfl (dec_divn x0 x1 x2), of_none rfl, of_none rfl, of_none rfl⟩
theorem rem (x0 : Reg) (x1 : Reg) (x2 : Reg) : Statement (.rem x0 x1 x2) :=
  fun _ => ⟨of_some rfl (dec_rem x0 x1 x2), of_none rfl, of_none rfl, of_none rfl⟩
theorem remn (x0 : Reg) (x1 : Reg) (x2 : Reg) : Statement (.remn x0 x1 x2) :=
  fun _ => ⟨of_some rfl (dec_remn x0 x1 x2), of_none rfl, of_none rfl, of_none rfl⟩
theorem clz (x0 : Reg) (x1 : Reg) : Statement (.clz x0 x1) :=
  fun _ => ⟨of_some rfl (dec_clz x0 x1), of_none rfl, of_none rfl, of_none rfl⟩
theorem ctz (x0 : Reg) (x1 : Reg) : Statement (.ctz x0 x1) :=
  fun _ => ⟨of_some rfl (dec_ctz x0 x1), of_none rfl, of_none rfl, of_none rfl⟩
theorem pop (x0 : Reg) (x1 : Reg) : Statement (.pop x0 x1) :=
  fun _ => ⟨of_some rfl (dec_pop x0 x1), of_none rfl, of_none rfl, of_none rfl⟩
theorem lea (x0 : Reg) (x1 : Reg) (x2 : Reg) (x3 : Fin 5) : Statement (.lea x0 x1 x2 x3) :=
  fun _ => ⟨of_some rfl (dec_lea x0 x1 x2 x3), of_none rfl, of_none rfl, of_none rfl⟩
theorem ptag (x0 : Reg) (x1 : Reg) (x2 : Reg) : Statement (.ptag x0 x1 x2) :=
  fun _ => ⟨of_some rfl (dec_ptag x0 x1 x2), of_none rfl, of_none rfl, of_none rfl⟩
theorem prgt (x0 : Reg) (x1 : Reg) (x2 : Reg) : Statement (.prgt x0 x1 x2) :=
  fun _ => ⟨of_some rfl (dec_prgt x0 x1 x2), of_none rfl, of_none rfl, of_none rfl⟩
theorem padr (x0 : Reg) (x1 : Reg) (x2 : Reg) : Statement (.padr x0 x1 x2) :=
  fun _ => ⟨of_some rfl (dec_padr x0 x1 x2), of_none rfl, of_none rfl, of_none rfl⟩
theorem addi (x0 : Reg) (x1 : Reg) (x2 : BitVec 15) : Statement (.addi x0 x1 x2) :=
  fun _ => ⟨of_some rfl (dec_addi x0 x1 x2), of_none rfl, of_none rfl, of_none rfl⟩
theorem andi (x0 : Reg) (x1 : Reg) (x2 : BitVec 15) : Statement (.andi x0 x1 x2) :=
  fun _ => ⟨of_some rfl (dec_andi x0 x1 x2), of_none rfl, of_none rfl, of_none rfl⟩
theorem ori (x0 : Reg) (x1 : Reg) (x2 : BitVec 15) : Statement (.ori x0 x1 x2) :=
  fun _ => ⟨of_some rfl (dec_ori x0 x1 x2), of_none rfl, of_none rfl, of_none rfl⟩
theorem xori (x0 : Reg) (x1 : Reg) (x2 : BitVec 15) : Statement (.xori x0 x1 x2) :=
  fun _ => ⟨of_some rfl (dec_xori x0 x1 x2), of_none rfl, of_none rfl, of_none rfl⟩
theorem shli (x0 : Reg) (x1 : Reg) (x2 : BitVec 6) : Statement (.shli x0 x1 x2) :=
  fun _ => ⟨of_some rfl (dec_shli x0 x1 x2), of_none rfl, of_none rfl, of_none rfl⟩
theorem shri (x0 : Reg) (x1 : Reg) (x2 : BitVec 6) : Statement (.shri x0 x1 x2) :=
  fun _ => ⟨of_some rfl (dec_shri x0 x1 x2), of_none rfl, of_none rfl, of_none rfl⟩
theorem srai (x0 : Reg) (x1 : Reg) (x2 : BitVec 6) : Statement (.srai x0 x1 x2) :=
  fun _ => ⟨of_some rfl (dec_srai x0 x1 x2), of_none rfl, of_none rfl, of_none rfl⟩
theorem bfx (x0 : Reg) (x1 : Reg) (x2 : BitVec 6) (x3 : BitVec 6) : Statement (.bfx x0 x1 x2 x3) :=
  fun hw => ⟨of_some rfl (dec_bfx x0 x1 x2 x3 hw), of_none rfl, of_none rfl, of_none rfl⟩
theorem bfxS (x0 : Reg) (x1 : Reg) (x2 : BitVec 6) (x3 : BitVec 6) : Statement (.bfxS x0 x1 x2 x3) :=
  fun hw => ⟨of_some rfl (dec_bfxS x0 x1 x2 x3 hw), of_none rfl, of_none rfl, of_none rfl⟩
theorem bfi (x0 : Reg) (x1 : Reg) (x2 : BitVec 6) (x3 : BitVec 6) : Statement (.bfi x0 x1 x2 x3) :=
  fun hw => ⟨of_some rfl (dec_bfi x0 x1 x2 x3 hw), of_none rfl, of_none rfl, of_none rfl⟩
theorem lui (x0 : Reg) (x1 : BitVec 20) : Statement (.lui x0 x1) :=
  fun _ => ⟨of_some rfl (dec_lui x0 x1), of_none rfl, of_none rfl, of_none rfl⟩
theorem luih (x0 : Reg) (x1 : BitVec 20) : Statement (.luih x0 x1) :=
  fun _ => ⟨of_some rfl (dec_luih x0 x1), of_none rfl, of_none rfl, of_none rfl⟩
theorem adpc (x0 : Reg) (x1 : BitVec 20) : Statement (.adpc x0 x1) :=
  fun _ => ⟨of_some rfl (dec_adpc x0 x1), of_none rfl, of_none rfl, of_none rfl⟩
theorem beq (x0 : Reg) (x1 : Reg) (x2 : BitVec 15) : Statement (.beq x0 x1 x2) :=
  fun _ => ⟨of_some rfl (dec_beq x0 x1 x2), of_none rfl, of_none rfl, of_none rfl⟩
theorem bne (x0 : Reg) (x1 : Reg) (x2 : BitVec 15) : Statement (.bne x0 x1 x2) :=
  fun _ => ⟨of_some rfl (dec_bne x0 x1 x2), of_none rfl, of_none rfl, of_none rfl⟩
theorem blt (x0 : Reg) (x1 : Reg) (x2 : BitVec 15) : Statement (.blt x0 x1 x2) :=
  fun _ => ⟨of_some rfl (dec_blt x0 x1 x2), of_none rfl, of_none rfl, of_none rfl⟩
theorem bge (x0 : Reg) (x1 : Reg) (x2 : BitVec 15) : Statement (.bge x0 x1 x2) :=
  fun _ => ⟨of_some rfl (dec_bge x0 x1 x2), of_none rfl, of_none rfl, of_none rfl⟩
theorem bltn (x0 : Reg) (x1 : Reg) (x2 : BitVec 15) : Statement (.bltn x0 x1 x2) :=
  fun _ => ⟨of_some rfl (dec_bltn x0 x1 x2), of_none rfl, of_none rfl, of_none rfl⟩
theorem bgen (x0 : Reg) (x1 : Reg) (x2 : BitVec 15) : Statement (.bgen x0 x1 x2) :=
  fun _ => ⟨of_some rfl (dec_bgen x0 x1 x2), of_none rfl, of_none rfl, of_none rfl⟩
theorem j (x0 : BitVec 25) : Statement (.j x0) :=
  fun _ => ⟨of_some rfl (dec_j x0), of_none rfl, of_none rfl, of_none rfl⟩
theorem jal (x0 : BitVec 25) : Statement (.jal x0) :=
  fun _ => ⟨of_some rfl (dec_jal x0), of_none rfl, of_none rfl, of_none rfl⟩
theorem jalr (x0 : Reg) (x1 : Reg) (x2 : BitVec 15) : Statement (.jalr x0 x1 x2) :=
  fun _ => ⟨of_some rfl (dec_jalr x0 x1 x2), of_none rfl, of_none rfl, of_none rfl⟩
theorem loop (x0 : Reg) (x1 : BitVec 15) : Statement (.loop x0 x1) :=
  fun hw => ⟨of_some rfl (dec_loop x0 x1 hw), of_none rfl, of_none rfl, of_none rfl⟩
theorem trap (x0 : BitVec 11) : Statement (.trap x0) :=
  fun _ => ⟨of_some rfl (dec_trap x0), of_none rfl, of_none rfl, of_none rfl⟩
theorem trapService (x0 : BitVec 11) : Statement (.trapService x0) :=
  fun hw => ⟨of_some rfl (dec_trapService x0 hw), of_none rfl, of_none rfl, of_none rfl⟩
theorem tret : Statement (.tret) :=
  fun _ => ⟨of_some rfl (dec_tret), of_none rfl, of_none rfl, of_none rfl⟩
theorem mfs (x0 : Reg) (x1 : BitVec 12) : Statement (.mfs x0 x1) :=
  fun _ => ⟨of_some rfl (dec_mfs x0 x1), of_none rfl, of_none rfl, of_none rfl⟩
theorem mts (x0 : Reg) (x1 : BitVec 12) : Statement (.mts x0 x1) :=
  fun _ => ⟨of_some rfl (dec_mts x0 x1), of_none rfl, of_none rfl, of_none rfl⟩
theorem eret : Statement (.eret) :=
  fun _ => ⟨of_some rfl (dec_eret), of_none rfl, of_none rfl, of_none rfl⟩
theorem yield : Statement (.yield) :=
  fun _ => ⟨of_some rfl (dec_yield), of_none rfl, of_none rfl, of_none rfl⟩
theorem halt : Statement (.halt) :=
  fun _ => ⟨of_some rfl (dec_halt), of_none rfl, of_none rfl, of_none rfl⟩
theorem tnow (x0 : Reg) : Statement (.tnow x0) :=
  fun _ => ⟨of_some rfl (dec_tnow x0), of_none rfl, of_none rfl, of_none rfl⟩
theorem twait (x0 : Reg) (x1 : Reg) : Statement (.twait x0 x1) :=
  fun _ => ⟨of_some rfl (dec_twait x0 x1), of_none rfl, of_none rfl, of_none rfl⟩
theorem qgrd (x0 : Reg) : Statement (.qgrd x0) :=
  fun _ => ⟨of_some rfl (dec_qgrd x0), of_none rfl, of_none rfl, of_none rfl⟩
theorem qtop (x0 : Reg) (x1 : Reg) : Statement (.qtop x0 x1) :=
  fun _ => ⟨of_some rfl (dec_qtop x0 x1), of_none rfl, of_none rfl, of_none rfl⟩
theorem qspd (x0 : Reg) (x1 : Reg) : Statement (.qspd x0 x1) :=
  fun _ => ⟨of_some rfl (dec_qspd x0 x1), of_none rfl, of_none rfl, of_none rfl⟩
theorem qblt (x0 : Reg) (x1 : Reg) (x2 : Reg) : Statement (.qblt x0 x1 x2) :=
  fun _ => ⟨of_some rfl (dec_qblt x0 x1 x2), of_none rfl, of_none rfl, of_none rfl⟩
theorem qrng (x0 : Reg) (x1 : Reg) : Statement (.qrng x0 x1) :=
  fun _ => ⟨of_some rfl (dec_qrng x0 x1), of_none rfl, of_none rfl, of_none rfl⟩
theorem coff (x0 : Reg) : Statement (.coff x0) :=
  fun _ => ⟨of_some rfl (dec_coff x0), of_none rfl, of_none rfl, of_none rfl⟩
theorem sigv (x0 : Reg) (x1 : Reg) : Statement (.sigv x0 x1) :=
  fun _ => ⟨of_some rfl (dec_sigv x0 x1), of_none rfl, of_none rfl, of_none rfl⟩
theorem crcc (x0 : Reg) (x1 : Reg) (x2 : Reg) (x3 : BitVec 3) : Statement (.crcc x0 x1 x2 x3) :=
  fun _ => ⟨of_some rfl (dec_crcc x0 x1 x2 x3), of_none rfl, of_none rfl, of_none rfl⟩
theorem fadd (x0 : FType) (x1 : Reg) (x2 : Reg) (x3 : Reg) (x4 : RmField) : Statement (.fadd x0 x1 x2 x3 x4) :=
  fun _ => ⟨of_some rfl (dec_fadd x0 x1 x2 x3 x4), of_none rfl, of_none rfl, of_none rfl⟩
theorem fsub (x0 : FType) (x1 : Reg) (x2 : Reg) (x3 : Reg) (x4 : RmField) : Statement (.fsub x0 x1 x2 x3 x4) :=
  fun _ => ⟨of_some rfl (dec_fsub x0 x1 x2 x3 x4), of_none rfl, of_none rfl, of_none rfl⟩
theorem fmul (x0 : FType) (x1 : Reg) (x2 : Reg) (x3 : Reg) (x4 : RmField) : Statement (.fmul x0 x1 x2 x3 x4) :=
  fun _ => ⟨of_some rfl (dec_fmul x0 x1 x2 x3 x4), of_none rfl, of_none rfl, of_none rfl⟩
theorem fdiv (x0 : FType) (x1 : Reg) (x2 : Reg) (x3 : Reg) (x4 : RmField) : Statement (.fdiv x0 x1 x2 x3 x4) :=
  fun _ => ⟨of_some rfl (dec_fdiv x0 x1 x2 x3 x4), of_none rfl, of_none rfl, of_none rfl⟩
theorem fsqrt (x0 : FType) (x1 : Reg) (x2 : Reg) (x3 : RmField) : Statement (.fsqrt x0 x1 x2 x3) :=
  fun _ => ⟨of_some rfl (dec_fsqrt x0 x1 x2 x3), of_none rfl, of_none rfl, of_none rfl⟩
theorem fmin (x0 : FType) (x1 : Reg) (x2 : Reg) (x3 : Reg) : Statement (.fmin x0 x1 x2 x3) :=
  fun _ => ⟨of_some rfl (dec_fmin x0 x1 x2 x3), of_none rfl, of_none rfl, of_none rfl⟩
theorem fmax (x0 : FType) (x1 : Reg) (x2 : Reg) (x3 : Reg) : Statement (.fmax x0 x1 x2 x3) :=
  fun _ => ⟨of_some rfl (dec_fmax x0 x1 x2 x3), of_none rfl, of_none rfl, of_none rfl⟩
theorem fabs (x0 : FType) (x1 : Reg) (x2 : Reg) : Statement (.fabs x0 x1 x2) :=
  fun _ => ⟨of_some rfl (dec_fabs x0 x1 x2), of_none rfl, of_none rfl, of_none rfl⟩
theorem fneg (x0 : FType) (x1 : Reg) (x2 : Reg) : Statement (.fneg x0 x1 x2) :=
  fun _ => ⟨of_some rfl (dec_fneg x0 x1 x2), of_none rfl, of_none rfl, of_none rfl⟩
theorem fsgn (x0 : FType) (x1 : Reg) (x2 : Reg) (x3 : Reg) : Statement (.fsgn x0 x1 x2 x3) :=
  fun _ => ⟨of_some rfl (dec_fsgn x0 x1 x2 x3), of_none rfl, of_none rfl, of_none rfl⟩
theorem feq (x0 : FType) (x1 : Reg) (x2 : Reg) (x3 : Reg) : Statement (.feq x0 x1 x2 x3) :=
  fun _ => ⟨of_some rfl (dec_feq x0 x1 x2 x3), of_none rfl, of_none rfl, of_none rfl⟩
theorem flt (x0 : FType) (x1 : Reg) (x2 : Reg) (x3 : Reg) : Statement (.flt x0 x1 x2 x3) :=
  fun _ => ⟨of_some rfl (dec_flt x0 x1 x2 x3), of_none rfl, of_none rfl, of_none rfl⟩
theorem fle (x0 : FType) (x1 : Reg) (x2 : Reg) (x3 : Reg) : Statement (.fle x0 x1 x2 x3) :=
  fun _ => ⟨of_some rfl (dec_fle x0 x1 x2 x3), of_none rfl, of_none rfl, of_none rfl⟩
theorem fcls (x0 : FType) (x1 : Reg) (x2 : Reg) : Statement (.fcls x0 x1 x2) :=
  fun _ => ⟨of_some rfl (dec_fcls x0 x1 x2), of_none rfl, of_none rfl, of_none rfl⟩
theorem ffma (x0 : FType) (x1 : Reg) (x2 : Reg) (x3 : Reg) (x4 : Reg) : Statement (.ffma x0 x1 x2 x3 x4) :=
  fun _ => ⟨of_some rfl (dec_ffma x0 x1 x2 x3 x4), of_none rfl, of_none rfl, of_none rfl⟩
theorem ffms (x0 : FType) (x1 : Reg) (x2 : Reg) (x3 : Reg) (x4 : Reg) : Statement (.ffms x0 x1 x2 x3 x4) :=
  fun _ => ⟨of_some rfl (dec_ffms x0 x1 x2 x3 x4), of_none rfl, of_none rfl, of_none rfl⟩
theorem fcvt (x0 : FType) (x1 : Reg) (x2 : Reg) (x3 : FType) (x4 : RmField) : Statement (.fcvt x0 x1 x2 x3 x4) :=
  fun hw => ⟨of_some rfl (dec_fcvt x0 x1 x2 x3 x4 hw), of_none rfl, of_none rfl, of_none rfl⟩
theorem fcvi (x0 : FType) (x1 : Reg) (x2 : Reg) (x3 : IntType) (x4 : RmField) : Statement (.fcvi x0 x1 x2 x3 x4) :=
  fun _ => ⟨of_some rfl (dec_fcvi x0 x1 x2 x3 x4), of_none rfl, of_none rfl, of_none rfl⟩
theorem icvf (x0 : FType) (x1 : Reg) (x2 : Reg) (x3 : IntType) (x4 : RmField) : Statement (.icvf x0 x1 x2 x3 x4) :=
  fun _ => ⟨of_some rfl (dec_icvf x0 x1 x2 x3 x4), of_none rfl, of_none rfl, of_none rfl⟩
theorem frnd (x0 : FType) (x1 : Reg) (x2 : Reg) (x3 : RmField) : Statement (.frnd x0 x1 x2 x3) :=
  fun _ => ⟨of_some rfl (dec_frnd x0 x1 x2 x3), of_none rfl, of_none rfl, of_none rfl⟩
theorem fscl (x0 : FType) (x1 : Reg) (x2 : Reg) (x3 : Reg) (x4 : RmField) : Statement (.fscl x0 x1 x2 x3 x4) :=
  fun _ => ⟨of_some rfl (dec_fscl x0 x1 x2 x3 x4), of_none rfl, of_none rfl, of_none rfl⟩
theorem mvgf (x0 : FType) (x1 : Reg) (x2 : Reg) : Statement (.mvgf x0 x1 x2) :=
  fun _ => ⟨of_some rfl (dec_mvgf x0 x1 x2), of_none rfl, of_none rfl, of_none rfl⟩
theorem mvfg (x0 : FType) (x1 : Reg) (x2 : Reg) : Statement (.mvfg x0 x1 x2) :=
  fun _ => ⟨of_some rfl (dec_mvfg x0 x1 x2), of_none rfl, of_none rfl, of_none rfl⟩
theorem tenc (x0 : FType) (x1 : Reg) (x2 : Reg) (x3 : Fin 4) : Statement (.tenc x0 x1 x2 x3) :=
  fun _ => ⟨of_some rfl (dec_tenc x0 x1 x2 x3), of_none rfl, of_none rfl, of_none rfl⟩
theorem tdec (x0 : Reg) (x1 : Reg) (x2 : Fin 4) : Statement (.tdec x0 x1 x2) :=
  fun _ => ⟨of_some rfl (dec_tdec x0 x1 x2), of_none rfl, of_none rfl, of_none rfl⟩
theorem tbld (x0 : Reg) (x1 : Fin 4) : Statement (.tbld x0 x1) :=
  fun _ => ⟨of_some rfl (dec_tbld x0 x1), of_none rfl, of_none rfl, of_none rfl⟩
theorem ldB (x0 : Reg) (x1 : Reg) (x2 : LoadQual) (x3 : BitVec 12) : Statement (.ldB x0 x1 x2 x3) :=
  fun _ => ⟨of_some rfl (dec_ldB x0 x1 x2 x3), of_none rfl, of_none rfl, of_none rfl⟩
theorem ldH (x0 : Reg) (x1 : Reg) (x2 : LoadQual) (x3 : BitVec 12) : Statement (.ldH x0 x1 x2 x3) :=
  fun _ => ⟨of_some rfl (dec_ldH x0 x1 x2 x3), of_none rfl, of_none rfl, of_none rfl⟩
theorem ldW (x0 : Reg) (x1 : Reg) (x2 : LoadQual) (x3 : BitVec 12) : Statement (.ldW x0 x1 x2 x3) :=
  fun _ => ⟨of_some rfl (dec_ldW x0 x1 x2 x3), of_none rfl, of_none rfl, of_none rfl⟩
theorem ldD (x0 : Reg) (x1 : Reg) (x2 : LoadQual) (x3 : BitVec 12) : Statement (.ldD x0 x1 x2 x3) :=
  fun _ => ⟨of_some rfl (dec_ldD x0 x1 x2 x3), of_none rfl, of_none rfl, of_none rfl⟩
theorem ldnB (x0 : Reg) (x1 : Reg) (x2 : LoadQual) (x3 : BitVec 12) : Statement (.ldnB x0 x1 x2 x3) :=
  fun _ => ⟨of_some rfl (dec_ldnB x0 x1 x2 x3), of_none rfl, of_none rfl, of_none rfl⟩
theorem ldnH (x0 : Reg) (x1 : Reg) (x2 : LoadQual) (x3 : BitVec 12) : Statement (.ldnH x0 x1 x2 x3) :=
  fun _ => ⟨of_some rfl (dec_ldnH x0 x1 x2 x3), of_none rfl, of_none rfl, of_none rfl⟩
theorem ldnW (x0 : Reg) (x1 : Reg) (x2 : LoadQual) (x3 : BitVec 12) : Statement (.ldnW x0 x1 x2 x3) :=
  fun _ => ⟨of_some rfl (dec_ldnW x0 x1 x2 x3), of_none rfl, of_none rfl, of_none rfl⟩
theorem stB (x0 : Reg) (x1 : Reg) (x2 : StoreQual) (x3 : BitVec 12) : Statement (.stB x0 x1 x2 x3) :=
  fun _ => ⟨of_some rfl (dec_stB x0 x1 x2 x3), of_none rfl, of_none rfl, of_none rfl⟩
theorem stH (x0 : Reg) (x1 : Reg) (x2 : StoreQual) (x3 : BitVec 12) : Statement (.stH x0 x1 x2 x3) :=
  fun _ => ⟨of_some rfl (dec_stH x0 x1 x2 x3), of_none rfl, of_none rfl, of_none rfl⟩
theorem stW (x0 : Reg) (x1 : Reg) (x2 : StoreQual) (x3 : BitVec 12) : Statement (.stW x0 x1 x2 x3) :=
  fun _ => ⟨of_some rfl (dec_stW x0 x1 x2 x3), of_none rfl, of_none rfl, of_none rfl⟩
theorem stD (x0 : Reg) (x1 : Reg) (x2 : StoreQual) (x3 : BitVec 12) : Statement (.stD x0 x1 x2 x3) :=
  fun _ => ⟨of_some rfl (dec_stD x0 x1 x2 x3), of_none rfl, of_none rfl, of_none rfl⟩
theorem ldfH (x0 : Reg) (x1 : Reg) (x2 : LoadQual) (x3 : BitVec 12) : Statement (.ldfH x0 x1 x2 x3) :=
  fun _ => ⟨of_some rfl (dec_ldfH x0 x1 x2 x3), of_none rfl, of_none rfl, of_none rfl⟩
theorem ldfW (x0 : Reg) (x1 : Reg) (x2 : LoadQual) (x3 : BitVec 12) : Statement (.ldfW x0 x1 x2 x3) :=
  fun _ => ⟨of_some rfl (dec_ldfW x0 x1 x2 x3), of_none rfl, of_none rfl, of_none rfl⟩
theorem ldfD (x0 : Reg) (x1 : Reg) (x2 : LoadQual) (x3 : BitVec 12) : Statement (.ldfD x0 x1 x2 x3) :=
  fun _ => ⟨of_some rfl (dec_ldfD x0 x1 x2 x3), of_none rfl, of_none rfl, of_none rfl⟩
theorem stfH (x0 : Reg) (x1 : Reg) (x2 : StoreQual) (x3 : BitVec 12) : Statement (.stfH x0 x1 x2 x3) :=
  fun _ => ⟨of_some rfl (dec_stfH x0 x1 x2 x3), of_none rfl, of_none rfl, of_none rfl⟩
theorem stfW (x0 : Reg) (x1 : Reg) (x2 : StoreQual) (x3 : BitVec 12) : Statement (.stfW x0 x1 x2 x3) :=
  fun _ => ⟨of_some rfl (dec_stfW x0 x1 x2 x3), of_none rfl, of_none rfl, of_none rfl⟩
theorem stfD (x0 : Reg) (x1 : Reg) (x2 : StoreQual) (x3 : BitVec 12) : Statement (.stfD x0 x1 x2 x3) :=
  fun _ => ⟨of_some rfl (dec_stfD x0 x1 x2 x3), of_none rfl, of_none rfl, of_none rfl⟩
theorem ldp (x0 : Reg) (x1 : Reg) (x2 : LoadQual) (x3 : BitVec 12) : Statement (.ldp x0 x1 x2 x3) :=
  fun hw => ⟨of_some rfl (dec_ldp x0 x1 x2 x3 hw), of_none rfl, of_none rfl, of_none rfl⟩
theorem stp (x0 : Reg) (x1 : Reg) (x2 : StoreQual) (x3 : BitVec 12) : Statement (.stp x0 x1 x2 x3) :=
  fun hw => ⟨of_some rfl (dec_stp x0 x1 x2 x3 hw), of_none rfl, of_none rfl, of_none rfl⟩
theorem pref (x0 : PrefHint) (x1 : Reg) (x2 : BitVec 12) : Statement (.pref x0 x1 x2) :=
  fun _ => ⟨of_some rfl (dec_pref x0 x1 x2), of_none rfl, of_none rfl, of_none rfl⟩
theorem cfls (x0 : Reg) (x1 : BitVec 12) : Statement (.cfls x0 x1) :=
  fun _ => ⟨of_some rfl (dec_cfls x0 x1), of_none rfl, of_none rfl, of_none rfl⟩
theorem cinv (x0 : Reg) (x1 : BitVec 12) : Statement (.cinv x0 x1) :=
  fun _ => ⟨of_some rfl (dec_cinv x0 x1), of_none rfl, of_none rfl, of_none rfl⟩
theorem tgld (x0 : Reg) (x1 : Reg) (x2 : BitVec 12) : Statement (.tgld x0 x1 x2) :=
  fun _ => ⟨of_some rfl (dec_tgld x0 x1 x2), of_none rfl, of_none rfl, of_none rfl⟩
theorem tgst (x0 : Reg) (x1 : Reg) (x2 : BitVec 12) : Statement (.tgst x0 x1 x2) :=
  fun _ => ⟨of_some rfl (dec_tgst x0 x1 x2), of_none rfl, of_none rfl, of_none rfl⟩
theorem visit (x0 : Reg) (x1 : BitVec 12) : Statement (.visit x0 x1) :=
  fun _ => ⟨of_some rfl (dec_visit x0 x1), of_none rfl, of_none rfl, of_none rfl⟩
theorem tkaq (x0 : Reg) : Statement (.tkaq x0) :=
  fun _ => ⟨of_some rfl (dec_tkaq x0), of_none rfl, of_none rfl, of_none rfl⟩
theorem tkhd (x0 : Reg) (x1 : Reg) : Statement (.tkhd x0 x1) :=
  fun _ => ⟨of_some rfl (dec_tkhd x0 x1), of_none rfl, of_none rfl, of_none rfl⟩
theorem cflx (x0 : Reg) : Statement (.cflx x0) :=
  fun _ => ⟨of_some rfl (dec_cflx x0), of_none rfl, of_none rfl, of_none rfl⟩
theorem fenceAcq (x0 : Scope) : Statement (.fenceAcq x0) :=
  fun _ => ⟨of_some rfl (dec_fenceAcq x0), of_none rfl, of_none rfl, of_none rfl⟩
theorem fenceRel (x0 : Scope) : Statement (.fenceRel x0) :=
  fun _ => ⟨of_some rfl (dec_fenceRel x0), of_none rfl, of_none rfl, of_none rfl⟩
theorem fenceAr (x0 : Scope) : Statement (.fenceAr x0) :=
  fun _ => ⟨of_some rfl (dec_fenceAr x0), of_none rfl, of_none rfl, of_none rfl⟩
theorem aadd (x0 : Reg) (x1 : Reg) (x2 : AtomSize) : Statement (.aadd x0 x1 x2) :=
  fun _ => ⟨of_some rfl (dec_aadd x0 x1 x2), of_none rfl, of_none rfl, of_none rfl⟩
theorem aand (x0 : Reg) (x1 : Reg) (x2 : AtomSize) : Statement (.aand x0 x1 x2) :=
  fun _ => ⟨of_some rfl (dec_aand x0 x1 x2), of_none rfl, of_none rfl, of_none rfl⟩
theorem aor (x0 : Reg) (x1 : Reg) (x2 : AtomSize) : Statement (.aor x0 x1 x2) :=
  fun _ => ⟨of_some rfl (dec_aor x0 x1 x2), of_none rfl, of_none rfl, of_none rfl⟩
theorem axor (x0 : Reg) (x1 : Reg) (x2 : AtomSize) : Statement (.axor x0 x1 x2) :=
  fun _ => ⟨of_some rfl (dec_axor x0 x1 x2), of_none rfl, of_none rfl, of_none rfl⟩
theorem amin (x0 : Reg) (x1 : Reg) (x2 : AtomSize) : Statement (.amin x0 x1 x2) :=
  fun _ => ⟨of_some rfl (dec_amin x0 x1 x2), of_none rfl, of_none rfl, of_none rfl⟩
theorem amax (x0 : Reg) (x1 : Reg) (x2 : AtomSize) : Statement (.amax x0 x1 x2) :=
  fun _ => ⟨of_some rfl (dec_amax x0 x1 x2), of_none rfl, of_none rfl, of_none rfl⟩
theorem aminn (x0 : Reg) (x1 : Reg) (x2 : AtomSize) : Statement (.aminn x0 x1 x2) :=
  fun _ => ⟨of_some rfl (dec_aminn x0 x1 x2), of_none rfl, of_none rfl, of_none rfl⟩
theorem amaxn (x0 : Reg) (x1 : Reg) (x2 : AtomSize) : Statement (.amaxn x0 x1 x2) :=
  fun _ => ⟨of_some rfl (dec_amaxn x0 x1 x2), of_none rfl, of_none rfl, of_none rfl⟩
theorem aswp (x0 : Reg) (x1 : Reg) (x2 : AtomSize) : Statement (.aswp x0 x1 x2) :=
  fun _ => ⟨of_some rfl (dec_aswp x0 x1 x2), of_none rfl, of_none rfl, of_none rfl⟩
theorem acas (x0 : Reg) (x1 : Reg) (x2 : AtomSize) (x3 : Reg) : Statement (.acas x0 x1 x2 x3) :=
  fun _ => ⟨of_some rfl (dec_acas x0 x1 x2 x3), of_none rfl, of_none rfl, of_none rfl⟩
theorem afaddF32 (x0 : Reg) (x1 : Reg) : Statement (.afaddF32 x0 x1) :=
  fun _ => ⟨of_some rfl (dec_afaddF32 x0 x1), of_none rfl, of_none rfl, of_none rfl⟩
theorem aaddR (x0 : Reg) (x1 : Reg) (x2 : Reg) (x3 : AtomSize) : Statement (.aaddR x0 x1 x2 x3) :=
  fun _ => ⟨of_some rfl (dec_aaddR x0 x1 x2 x3), of_none rfl, of_none rfl, of_none rfl⟩
theorem aandR (x0 : Reg) (x1 : Reg) (x2 : Reg) (x3 : AtomSize) : Statement (.aandR x0 x1 x2 x3) :=
  fun _ => ⟨of_some rfl (dec_aandR x0 x1 x2 x3), of_none rfl, of_none rfl, of_none rfl⟩
theorem aorR (x0 : Reg) (x1 : Reg) (x2 : Reg) (x3 : AtomSize) : Statement (.aorR x0 x1 x2 x3) :=
  fun _ => ⟨of_some rfl (dec_aorR x0 x1 x2 x3), of_none rfl, of_none rfl, of_none rfl⟩
theorem axorR (x0 : Reg) (x1 : Reg) (x2 : Reg) (x3 : AtomSize) : Statement (.axorR x0 x1 x2 x3) :=
  fun _ => ⟨of_some rfl (dec_axorR x0 x1 x2 x3), of_none rfl, of_none rfl, of_none rfl⟩
theorem aminR (x0 : Reg) (x1 : Reg) (x2 : Reg) (x3 : AtomSize) : Statement (.aminR x0 x1 x2 x3) :=
  fun _ => ⟨of_some rfl (dec_aminR x0 x1 x2 x3), of_none rfl, of_none rfl, of_none rfl⟩
theorem amaxR (x0 : Reg) (x1 : Reg) (x2 : Reg) (x3 : AtomSize) : Statement (.amaxR x0 x1 x2 x3) :=
  fun _ => ⟨of_some rfl (dec_amaxR x0 x1 x2 x3), of_none rfl, of_none rfl, of_none rfl⟩
theorem aminnR (x0 : Reg) (x1 : Reg) (x2 : Reg) (x3 : AtomSize) : Statement (.aminnR x0 x1 x2 x3) :=
  fun _ => ⟨of_some rfl (dec_aminnR x0 x1 x2 x3), of_none rfl, of_none rfl, of_none rfl⟩
theorem amaxnR (x0 : Reg) (x1 : Reg) (x2 : Reg) (x3 : AtomSize) : Statement (.amaxnR x0 x1 x2 x3) :=
  fun _ => ⟨of_some rfl (dec_amaxnR x0 x1 x2 x3), of_none rfl, of_none rfl, of_none rfl⟩
theorem aswpR (x0 : Reg) (x1 : Reg) (x2 : Reg) (x3 : AtomSize) : Statement (.aswpR x0 x1 x2 x3) :=
  fun _ => ⟨of_some rfl (dec_aswpR x0 x1 x2 x3), of_none rfl, of_none rfl, of_none rfl⟩
theorem acasR (x0 : Reg) (x1 : Reg) (x2 : Reg) (x3 : AtomSize) (x4 : Reg) : Statement (.acasR x0 x1 x2 x3 x4) :=
  fun _ => ⟨of_some rfl (dec_acasR x0 x1 x2 x3 x4), of_none rfl, of_none rfl, of_none rfl⟩
theorem afaddRF32 (x0 : Reg) (x1 : Reg) (x2 : Reg) : Statement (.afaddRF32 x0 x1 x2) :=
  fun _ => ⟨of_some rfl (dec_afaddRF32 x0 x1 x2), of_none rfl, of_none rfl, of_none rfl⟩
theorem bara (x0 : Reg) : Statement (.bara x0) :=
  fun _ => ⟨of_some rfl (dec_bara x0), of_none rfl, of_none rfl, of_none rfl⟩
theorem barw (x0 : Reg) (x1 : Reg) (x2 : Reg) : Statement (.barw x0 x1 x2) :=
  fun _ => ⟨of_some rfl (dec_barw x0 x1 x2), of_none rfl, of_none rfl, of_none rfl⟩
theorem bars (x0 : Reg) (x1 : Reg) : Statement (.bars x0 x1) :=
  fun _ => ⟨of_some rfl (dec_bars x0 x1), of_none rfl, of_none rfl, of_none rfl⟩
theorem acqs (x0 : Reg) (x1 : Reg) : Statement (.acqs x0 x1) :=
  fun _ => ⟨of_some rfl (dec_acqs x0 x1), of_none rfl, of_none rfl, of_none rfl⟩
theorem cmts (x0 : Reg) (x1 : Reg) : Statement (.cmts x0 x1) :=
  fun _ => ⟨of_some rfl (dec_cmts x0 x1), of_none rfl, of_none rfl, of_none rfl⟩
theorem peks (x0 : Reg) (x1 : Reg) : Statement (.peks x0 x1) :=
  fun _ => ⟨of_some rfl (dec_peks x0 x1), of_none rfl, of_none rfl, of_none rfl⟩
theorem rels (x0 : Reg) (x1 : Reg) : Statement (.rels x0 x1) :=
  fun _ => ⟨of_some rfl (dec_rels x0 x1), of_none rfl, of_none rfl, of_none rfl⟩
theorem wtfe (x0 : Reg) (x1 : Reg) (x2 : Reg) : Statement (.wtfe x0 x1 x2) :=
  fun _ => ⟨of_some rfl (dec_wtfe x0 x1 x2), of_none rfl, of_none rfl, of_none rfl⟩
theorem hnew (x0 : Reg) (x1 : Reg) : Statement (.hnew x0 x1) :=
  fun _ => ⟨of_some rfl (dec_hnew x0 x1), of_none rfl, of_none rfl, of_none rfl⟩
theorem hset (x0 : Reg) : Statement (.hset x0) :=
  fun _ => ⟨of_some rfl (dec_hset x0), of_none rfl, of_none rfl, of_none rfl⟩
theorem hget (x0 : Reg) : Statement (.hget x0) :=
  fun _ => ⟨of_some rfl (dec_hget x0), of_none rfl, of_none rfl, of_none rfl⟩
theorem hconf (x0 : Reg) : Statement (.hconf x0) :=
  fun _ => ⟨of_some rfl (dec_hconf x0), of_none rfl, of_none rfl, of_none rfl⟩
theorem href (x0 : Reg) : Statement (.href x0) :=
  fun _ => ⟨of_some rfl (dec_href x0), of_none rfl, of_none rfl, of_none rfl⟩
theorem hstat (x0 : Reg) (x1 : Reg) : Statement (.hstat x0 x1) :=
  fun _ => ⟨of_some rfl (dec_hstat x0 x1), of_none rfl, of_none rfl, of_none rfl⟩
theorem hwait (x0 : Reg) (x1 : Reg) (x2 : Reg) : Statement (.hwait x0 x1 x2) :=
  fun _ => ⟨of_some rfl (dec_hwait x0 x1 x2), of_none rfl, of_none rfl, of_none rfl⟩
theorem acca (x0 : Reg) (x1 : Reg) (x2 : Fin 4) : Statement (.acca x0 x1 x2) :=
  fun _ => ⟨of_some rfl (dec_acca x0 x1 x2), of_none rfl, of_none rfl, of_none rfl⟩
theorem accr (x0 : Reg) (x1 : Reg) (x2 : Fin 4) : Statement (.accr x0 x1 x2) :=
  fun _ => ⟨of_some rfl (dec_accr x0 x1 x2), of_none rfl, of_none rfl, of_none rfl⟩
theorem accz (x0 : Fin 4) : Statement (.accz x0) :=
  fun _ => ⟨of_some rfl (dec_accz x0), of_none rfl, of_none rfl, of_none rfl⟩
theorem accn (x0 : Reg) (x1 : Reg) (x2 : Fin 4) : Statement (.accn x0 x1 x2) :=
  fun _ => ⟨of_some rfl (dec_accn x0 x1 x2), of_none rfl, of_none rfl, of_none rfl⟩
theorem accx (x0 : Reg) (x1 : Reg) (x2 : Fin 4) : Statement (.accx x0 x1 x2) :=
  fun _ => ⟨of_some rfl (dec_accx x0 x1 x2), of_none rfl, of_none rfl, of_none rfl⟩
theorem lnch (x0 : Reg) (x1 : Reg) : Statement (.lnch x0 x1) :=
  fun _ => ⟨of_some rfl (dec_lnch x0 x1), of_none rfl, of_none rfl, of_none rfl⟩
theorem lnci (x0 : Reg) (x1 : Reg) (x2 : Reg) : Statement (.lnci x0 x1 x2) :=
  fun _ => ⟨of_some rfl (dec_lnci x0 x1 x2), of_none rfl, of_none rfl, of_none rfl⟩
theorem scfg (x0 : CmdQual) (x1 : BitVec 46) (x2 : BitVec 48) (x3 : BitVec 3) : Statement (.scfg x0 x1 x2 x3) :=
  fun _ => ⟨of_none rfl, of_none rfl, of_none rfl, of_some rfl (dec_scfg x0 x1 x2 x3)⟩
theorem splc (x0 : CmdQual) (x1 : Bool) (x2 : BitVec 3) (x3 : BitVec 10) (x4 : BitVec 6) : Statement (.splc x0 x1 x2 x3 x4) :=
  fun _ => ⟨of_none rfl, of_none rfl, of_none rfl, of_some rfl (dec_splc x0 x1 x2 x3 x4)⟩
theorem splcU (x0 : CmdQual) (x1 : Bool) (x2 : BitVec 3) (x3 : BitVec 6) : Statement (.splcU x0 x1 x2 x3) :=
  fun _ => ⟨of_none rfl, of_none rfl, of_none rfl, of_some rfl (dec_splcU x0 x1 x2 x3)⟩
theorem smov (x0 : CmdQual) (x1 : BitVec 3) (x2 : BitVec 10) (x3 : BitVec 5) (x4 : BitVec 5) (x5 : Bool) : Statement (.smov x0 x1 x2 x3 x4 x5) :=
  fun _ => ⟨of_none rfl, of_none rfl, of_none rfl, of_some rfl (dec_smov x0 x1 x2 x3 x4 x5)⟩
theorem sarm (x0 : CmdQual) (x1 : Bool) (x2 : BitVec 8) (x3 : BitVec 3) (x4 : BitVec 10) (x5 : BitVec 32) : Statement (.sarm x0 x1 x2 x3 x4 x5) :=
  fun _ => ⟨of_none rfl, of_none rfl, of_none rfl, of_some rfl (dec_sarm x0 x1 x2 x3 x4 x5)⟩
theorem sbnd (x0 : CmdQual) (x1 : BitVec 8) (x2 : BitVec 3) (x3 : BitVec 10) (x4 : BitVec 64) (x5 : BitVec 4) : Statement (.sbnd x0 x1 x2 x3 x4 x5) :=
  fun hw => ⟨of_none rfl, of_none rfl, of_none rfl, of_some rfl (dec_sbnd x0 x1 x2 x3 x4 x5 hw)⟩
theorem sbndT (x0 : CmdQual) (x1 : BitVec 3) (x2 : BitVec 10) (x3 : BitVec 10) (x4 : BitVec 2) (x5 : BitVec 4) : Statement (.sbndT x0 x1 x2 x3 x4 x5) :=
  fun _ => ⟨of_none rfl, of_none rfl, of_none rfl, of_some rfl (dec_sbndT x0 x1 x2 x3 x4 x5)⟩
theorem sseg (x0 : CmdQual) (x1 : Bool) (x2 : BitVec 3) (x3 : BitVec 32) : Statement (.sseg x0 x1 x2 x3) :=
  fun _ => ⟨of_none rfl, of_none rfl, of_none rfl, of_some rfl (dec_sseg x0 x1 x2 x3)⟩
theorem ssyn (x0 : CmdQual) (x1 : Bool) (x2 : BitVec 6) (x3 : BitVec 52) (x4 : BitVec 32) : Statement (.ssyn x0 x1 x2 x3 x4) :=
  fun _ => ⟨of_none rfl, of_none rfl, of_none rfl, of_some rfl (dec_ssyn x0 x1 x2 x3 x4)⟩
theorem scpy (x0 : CmdQual) (x1 : DataOps) : Statement (.scpy x0 x1) :=
  fun hw => ⟨of_none rfl, of_none rfl, of_none rfl, of_some rfl (dec_scpy x0 x1 hw)⟩
theorem sgth (x0 : CmdQual) (x1 : DataOps) : Statement (.sgth x0 x1) :=
  fun hw => ⟨of_none rfl, of_none rfl, of_none rfl, of_some rfl (dec_sgth x0 x1 hw)⟩
theorem ssct (x0 : CmdQual) (x1 : DataOps) : Statement (.ssct x0 x1) :=
  fun hw => ⟨of_none rfl, of_none rfl, of_none rfl, of_some rfl (dec_ssct x0 x1 hw)⟩
theorem slkp (x0 : CmdQual) (x1 : DataOps) : Statement (.slkp x0 x1) :=
  fun hw => ⟨of_none rfl, of_none rfl, of_none rfl, of_some rfl (dec_slkp x0 x1 hw)⟩
theorem supd (x0 : CmdQual) (x1 : DataOps) : Statement (.supd x0 x1) :=
  fun hw => ⟨of_none rfl, of_none rfl, of_none rfl, of_some rfl (dec_supd x0 x1 hw)⟩
theorem smig (x0 : CmdQual) (x1 : BitVec 8) (x2 : BitVec 48) : Statement (.smig x0 x1 x2) :=
  fun hw => ⟨of_none rfl, of_none rfl, of_none rfl, of_some rfl (dec_smig x0 x1 x2 hw)⟩
theorem stbl (x0 : CmdQual) (x1 : BitVec 4) (x2 : BitVec 46) (x3 : BitVec 49) : Statement (.stbl x0 x1 x2 x3) :=
  fun _ => ⟨of_none rfl, of_none rfl, of_none rfl, of_some rfl (dec_stbl x0 x1 x2 x3)⟩
theorem sdor (x0 : CmdQual) (x1 : BitVec 8) (x2 : BitVec 3) (x3 : BitVec 10) (x4 : BitVec 48) : Statement (.sdor x0 x1 x2 x3 x4) :=
  fun _ => ⟨of_none rfl, of_none rfl, of_none rfl, of_some rfl (dec_sdor x0 x1 x2 x3 x4)⟩
theorem swin (x0 : CmdQual) (x1 : BitVec 4) (x2 : BitVec 3) (x3 : BitVec 48) (x4 : BitVec 48) : Statement (.swin x0 x1 x2 x3 x4) :=
  fun _ => ⟨of_none rfl, of_none rfl, of_none rfl, of_some rfl (dec_swin x0 x1 x2 x3 x4)⟩
theorem swinU (x0 : CmdQual) (x1 : BitVec 4) (x2 : BitVec 3) : Statement (.swinU x0 x1 x2) :=
  fun _ => ⟨of_none rfl, of_none rfl, of_none rfl, of_some rfl (dec_swinU x0 x1 x2)⟩
theorem sagp (x0 : CmdQual) (x1 : BitVec 7) (x2 : BitVec 2) (x3 : BitVec 46) (x4 : BitVec 3) (x5 : BitVec 10) : Statement (.sagp x0 x1 x2 x3 x4 x5) :=
  fun _ => ⟨of_none rfl, of_none rfl, of_none rfl, of_some rfl (dec_sagp x0 x1 x2 x3 x4 x5)⟩
theorem sagpU (x0 : CmdQual) (x1 : BitVec 7) (x2 : BitVec 2) : Statement (.sagpU x0 x1 x2) :=
  fun _ => ⟨of_none rfl, of_none rfl, of_none rfl, of_some rfl (dec_sagpU x0 x1 x2)⟩
theorem sred (x0 : CmdQual) (x1 : DataOps) : Statement (.sred x0 x1) :=
  fun hw => ⟨of_none rfl, of_none rfl, of_none rfl, of_some rfl (dec_sred x0 x1 hw)⟩
theorem scol (x0 : CmdQual) (x1 : DataOps) : Statement (.scol x0 x1) :=
  fun hw => ⟨of_none rfl, of_none rfl, of_none rfl, of_some rfl (dec_scol x0 x1 hw)⟩
theorem sdrn (x0 : CmdQual) (x1 : Bool) (x2 : DrainOps) : Statement (.sdrn x0 x1 x2) :=
  fun _ => ⟨of_none rfl, of_none rfl, of_none rfl, of_some rfl (dec_sdrn x0 x1 x2)⟩
theorem shdr (x0 : CmdQual) (x1 : BitVec 8) (x2 : BitVec 3) (x3 : BitVec 10) (x4 : BitVec 8) (x5 : BitVec 2) (x6 : Bool) : Statement (.shdr x0 x1 x2 x3 x4 x5 x6) :=
  fun _ => ⟨of_none rfl, of_none rfl, of_none rfl, of_some rfl (dec_shdr x0 x1 x2 x3 x4 x5 x6)⟩
theorem nadd (x0 : NodeFields) : Statement (.nadd x0) :=
  fun _ => ⟨of_none rfl, of_some rfl (dec_nadd x0), of_none rfl, of_none rfl⟩
theorem nsub (x0 : NodeFields) : Statement (.nsub x0) :=
  fun _ => ⟨of_none rfl, of_some rfl (dec_nsub x0), of_none rfl, of_none rfl⟩
theorem nmul (x0 : NodeFields) : Statement (.nmul x0) :=
  fun _ => ⟨of_none rfl, of_some rfl (dec_nmul x0), of_none rfl, of_none rfl⟩
theorem nfma (x0 : NodeFields) : Statement (.nfma x0) :=
  fun _ => ⟨of_none rfl, of_some rfl (dec_nfma x0), of_none rfl, of_none rfl⟩
theorem nmin (x0 : NodeFields) : Statement (.nmin x0) :=
  fun _ => ⟨of_none rfl, of_some rfl (dec_nmin x0), of_none rfl, of_none rfl⟩
theorem nmax (x0 : NodeFields) : Statement (.nmax x0) :=
  fun _ => ⟨of_none rfl, of_some rfl (dec_nmax x0), of_none rfl, of_none rfl⟩
theorem nabs (x0 : NodeFields) : Statement (.nabs x0) :=
  fun _ => ⟨of_none rfl, of_some rfl (dec_nabs x0), of_none rfl, of_none rfl⟩
theorem nneg (x0 : NodeFields) : Statement (.nneg x0) :=
  fun _ => ⟨of_none rfl, of_some rfl (dec_nneg x0), of_none rfl, of_none rfl⟩
theorem ncmp (x0 : NodeFields) : Statement (.ncmp x0) :=
  fun _ => ⟨of_none rfl, of_some rfl (dec_ncmp x0), of_none rfl, of_none rfl⟩
theorem nsel (x0 : NodeFields) : Statement (.nsel x0) :=
  fun _ => ⟨of_none rfl, of_some rfl (dec_nsel x0), of_none rfl, of_none rfl⟩
theorem ncvt (x0 : NodeFields) : Statement (.ncvt x0) :=
  fun _ => ⟨of_none rfl, of_some rfl (dec_ncvt x0), of_none rfl, of_none rfl⟩
theorem ndec (x0 : NodeFields) : Statement (.ndec x0) :=
  fun _ => ⟨of_none rfl, of_some rfl (dec_ndec x0), of_none rfl, of_none rfl⟩
theorem nenc (x0 : NodeFields) : Statement (.nenc x0) :=
  fun _ => ⟨of_none rfl, of_some rfl (dec_nenc x0), of_none rfl, of_none rfl⟩
theorem nand (x0 : NodeFields) : Statement (.nand x0) :=
  fun _ => ⟨of_none rfl, of_some rfl (dec_nand x0), of_none rfl, of_none rfl⟩
theorem nor (x0 : NodeFields) : Statement (.nor x0) :=
  fun _ => ⟨of_none rfl, of_some rfl (dec_nor x0), of_none rfl, of_none rfl⟩
theorem nxor (x0 : NodeFields) : Statement (.nxor x0) :=
  fun _ => ⟨of_none rfl, of_some rfl (dec_nxor x0), of_none rfl, of_none rfl⟩
theorem nshl (x0 : NodeFields) : Statement (.nshl x0) :=
  fun _ => ⟨of_none rfl, of_some rfl (dec_nshl x0), of_none rfl, of_none rfl⟩
theorem nshr (x0 : NodeFields) : Statement (.nshr x0) :=
  fun _ => ⟨of_none rfl, of_some rfl (dec_nshr x0), of_none rfl, of_none rfl⟩
theorem nred (x0 : NodeFields) : Statement (.nred x0) :=
  fun _ => ⟨of_none rfl, of_some rfl (dec_nred x0), of_none rfl, of_none rfl⟩
theorem nacc (x0 : NodeFields) : Statement (.nacc x0) :=
  fun _ => ⟨of_none rfl, of_some rfl (dec_nacc x0), of_none rfl, of_none rfl⟩
theorem ncnt (x0 : NodeFields) : Statement (.ncnt x0) :=
  fun _ => ⟨of_none rfl, of_some rfl (dec_ncnt x0), of_none rfl, of_none rfl⟩
theorem nbnd (x0 : NodeFields) : Statement (.nbnd x0) :=
  fun _ => ⟨of_none rfl, of_some rfl (dec_nbnd x0), of_none rfl, of_none rfl⟩
theorem ncon (x0 : NodeFields) : Statement (.ncon x0) :=
  fun _ => ⟨of_none rfl, of_some rfl (dec_ncon x0), of_none rfl, of_none rfl⟩
theorem nrly (x0 : NodeFields) : Statement (.nrly x0) :=
  fun _ => ⟨of_none rfl, of_some rfl (dec_nrly x0), of_none rfl, of_none rfl⟩
theorem nld (x0 : NodeFields) : Statement (.nld x0) :=
  fun _ => ⟨of_none rfl, of_some rfl (dec_nld x0), of_none rfl, of_none rfl⟩
theorem nst (x0 : NodeFields) : Statement (.nst x0) :=
  fun _ => ⟨of_none rfl, of_some rfl (dec_nst x0), of_none rfl, of_none rfl⟩
theorem nown (x0 : NodeFields) : Statement (.nown x0) :=
  fun _ => ⟨of_none rfl, of_some rfl (dec_nown x0), of_none rfl, of_none rfl⟩
theorem ndor (x0 : NodeFields) : Statement (.ndor x0) :=
  fun _ => ⟨of_none rfl, of_some rfl (dec_ndor x0), of_none rfl, of_none rfl⟩
theorem sectionStep (x0 : NodeFields) : Statement (.sectionStep x0) :=
  fun _ => ⟨of_none rfl, of_some rfl (dec_sectionStep x0), of_none rfl, of_none rfl⟩
theorem steer (x0 : RouterFields) : Statement (.steer x0) :=
  fun _ => ⟨of_none rfl, of_none rfl, of_some rfl (dec_steer x0), of_none rfl⟩
theorem gate (x0 : RouterFields) : Statement (.gate x0) :=
  fun _ => ⟨of_none rfl, of_none rfl, of_some rfl (dec_gate x0), of_none rfl⟩
theorem fork (x0 : RouterFields) : Statement (.fork x0) :=
  fun _ => ⟨of_none rfl, of_none rfl, of_some rfl (dec_fork x0), of_none rfl⟩
theorem sink (x0 : RouterFields) : Statement (.sink x0) :=
  fun _ => ⟨of_none rfl, of_none rfl, of_some rfl (dec_sink x0), of_none rfl⟩
theorem merge (x0 : RouterFields) : Statement (.merge x0) :=
  fun _ => ⟨of_none rfl, of_none rfl, of_some rfl (dec_merge x0), of_none rfl⟩
theorem carry (x0 : RouterFields) : Statement (.carry x0) :=
  fun _ => ⟨of_none rfl, of_none rfl, of_some rfl (dec_carry x0), of_none rfl⟩
theorem invar (x0 : RouterFields) : Statement (.invar x0) :=
  fun _ => ⟨of_none rfl, of_none rfl, of_some rfl (dec_invar x0), of_none rfl⟩
theorem cseq (x0 : RouterFields) : Statement (.cseq x0) :=
  fun _ => ⟨of_none rfl, of_none rfl, of_some rfl (dec_cseq x0), of_none rfl⟩
theorem cpip (x0 : RouterFields) : Statement (.cpip x0) :=
  fun _ => ⟨of_none rfl, of_none rfl, of_some rfl (dec_cpip x0), of_none rfl⟩
theorem cstr (x0 : RouterFields) : Statement (.cstr x0) :=
  fun _ => ⟨of_none rfl, of_none rfl, of_some rfl (dec_cstr x0), of_none rfl⟩
theorem creditReturn (x0 : Nat) (x1 : Nat) : Statement (.creditReturn x0 x1) :=
  fun _ => ⟨of_none rfl, of_none rfl, of_none rfl, of_none rfl⟩
theorem flitArrive (x0 : Nat) (x1 : Nat) : Statement (.flitArrive x0 x1) :=
  fun _ => ⟨of_none rfl, of_none rfl, of_none rfl, of_none rfl⟩
theorem portResultReturn (x0 : Nat) (x1 : Nat) (x2 : Fin 4) (x3 : Nat) : Statement (.portResultReturn x0 x1 x2 x3) :=
  fun _ => ⟨of_none rfl, of_none rfl, of_none rfl, of_none rfl⟩
theorem pageRowDrain (x0 : Nat) (x1 : Nat) (x2 : Fin 16) : Statement (.pageRowDrain x0 x1 x2) :=
  fun _ => ⟨of_none rfl, of_none rfl, of_none rfl, of_none rfl⟩
theorem storeEventApply (x0 : Fin 1024) : Statement (.storeEventApply x0) :=
  fun _ => ⟨of_none rfl, of_none rfl, of_none rfl, of_none rfl⟩
theorem issueWaitComplete (x0 : Place) : Statement (.issueWaitComplete x0) :=
  fun _ => ⟨of_none rfl, of_none rfl, of_none rfl, of_none rfl⟩
theorem divideComplete (x0 : Place) : Statement (.divideComplete x0) :=
  fun _ => ⟨of_none rfl, of_none rfl, of_none rfl, of_none rfl⟩
theorem tbldComplete (x0 : Place) : Statement (.tbldComplete x0) :=
  fun _ => ⟨of_none rfl, of_none rfl, of_none rfl, of_none rfl⟩
theorem imageWriteComplete (x0 : Place) : Statement (.imageWriteComplete x0) :=
  fun _ => ⟨of_none rfl, of_none rfl, of_none rfl, of_none rfl⟩
theorem drainComplete (x0 : Place) : Statement (.drainComplete x0) :=
  fun _ => ⟨of_none rfl, of_none rfl, of_none rfl, of_none rfl⟩
theorem storePerform (x0 : Nat) : Statement (.storePerform x0) :=
  fun _ => ⟨of_none rfl, of_none rfl, of_none rfl, of_none rfl⟩
theorem feWaiterRetry (x0 : Place) : Statement (.feWaiterRetry x0) :=
  fun _ => ⟨of_none rfl, of_none rfl, of_none rfl, of_none rfl⟩
theorem atomicApply (x0 : Nat) : Statement (.atomicApply x0) :=
  fun _ => ⟨of_none rfl, of_none rfl, of_none rfl, of_none rfl⟩
theorem tlbWalkLevelReturn (x0 : Place) : Statement (.tlbWalkLevelReturn x0) :=
  fun _ => ⟨of_none rfl, of_none rfl, of_none rfl, of_none rfl⟩
theorem pageFillComplete (x0 : Nat) (x1 : Bool) : Statement (.pageFillComplete x0 x1) :=
  fun _ => ⟨of_none rfl, of_none rfl, of_none rfl, of_none rfl⟩
theorem watchDeliver (x0 : Place) : Statement (.watchDeliver x0) :=
  fun _ => ⟨of_none rfl, of_none rfl, of_none rfl, of_none rfl⟩
theorem landingRequestArrive (x0 : Nat) : Statement (.landingRequestArrive x0) :=
  fun _ => ⟨of_none rfl, of_none rfl, of_none rfl, of_none rfl⟩
theorem landingReplyArrive (x0 : Nat) : Statement (.landingReplyArrive x0) :=
  fun _ => ⟨of_none rfl, of_none rfl, of_none rfl, of_none rfl⟩
theorem caravanLand (x0 : Nat) : Statement (.caravanLand x0) :=
  fun _ => ⟨of_none rfl, of_none rfl, of_none rfl, of_none rfl⟩
theorem flushAckArrive (x0 : Nat) : Statement (.flushAckArrive x0) :=
  fun _ => ⟨of_none rfl, of_none rfl, of_none rfl, of_none rfl⟩
theorem tokenRequestArrive (x0 : Nat) : Statement (.tokenRequestArrive x0) :=
  fun _ => ⟨of_none rfl, of_none rfl, of_none rfl, of_none rfl⟩
theorem tokenRequestRetry (x0 : Nat) : Statement (.tokenRequestRetry x0) :=
  fun _ => ⟨of_none rfl, of_none rfl, of_none rfl, of_none rfl⟩
theorem tokenRecallComplete (x0 : Nat) : Statement (.tokenRecallComplete x0) :=
  fun _ => ⟨of_none rfl, of_none rfl, of_none rfl, of_none rfl⟩
theorem tokenGrantArrive (x0 : Nat) : Statement (.tokenGrantArrive x0) :=
  fun _ => ⟨of_none rfl, of_none rfl, of_none rfl, of_none rfl⟩
theorem llcEvict (x0 : Nat) : Statement (.llcEvict x0) :=
  fun _ => ⟨of_none rfl, of_none rfl, of_none rfl, of_none rfl⟩
theorem cacheEvict (x0 : Nat) : Statement (.cacheEvict x0) :=
  fun _ => ⟨of_none rfl, of_none rfl, of_none rfl, of_none rfl⟩
theorem barrierRelease (x0 : Fin 16) (x1 : Fin 4) : Statement (.barrierRelease x0 x1) :=
  fun _ => ⟨of_none rfl, of_none rfl, of_none rfl, of_none rfl⟩
theorem timedWaitTimeout (x0 : Place) : Statement (.timedWaitTimeout x0) :=
  fun _ => ⟨of_none rfl, of_none rfl, of_none rfl, of_none rfl⟩
theorem signalDeliver (x0 : Nat) : Statement (.signalDeliver x0) :=
  fun _ => ⟨of_none rfl, of_none rfl, of_none rfl, of_none rfl⟩
theorem interruptEntry (x0 : Fin 16) : Statement (.interruptEntry x0) :=
  fun _ => ⟨of_none rfl, of_none rfl, of_none rfl, of_none rfl⟩
theorem retirementRun : Statement (.retirementRun) :=
  fun _ => ⟨of_none rfl, of_none rfl, of_none rfl, of_none rfl⟩
theorem resyncPulse : Statement (.resyncPulse) :=
  fun _ => ⟨of_none rfl, of_none rfl, of_none rfl, of_none rfl⟩
theorem hypControllerRequest (x0 : Fin 16) : Statement (.hypControllerRequest x0) :=
  fun _ => ⟨of_none rfl, of_none rfl, of_none rfl, of_none rfl⟩
theorem hconfMerge (x0 : Fin 16) : Statement (.hconfMerge x0) :=
  fun _ => ⟨of_none rfl, of_none rfl, of_none rfl, of_none rfl⟩
theorem hrefDiscard (x0 : Fin 16) : Statement (.hrefDiscard x0) :=
  fun _ => ⟨of_none rfl, of_none rfl, of_none rfl, of_none rfl⟩
theorem orphan (x0 : Place) : Statement (.orphan x0) :=
  fun _ => ⟨of_none rfl, of_none rfl, of_none rfl, of_none rfl⟩
theorem hypOutcomeArrive (x0 : Nat) : Statement (.hypOutcomeArrive x0) :=
  fun _ => ⟨of_none rfl, of_none rfl, of_none rfl, of_none rfl⟩
theorem commandAccept (x0 : Fin 16) : Statement (.commandAccept x0) :=
  fun _ => ⟨of_none rfl, of_none rfl, of_none rfl, of_none rfl⟩
theorem commandComplete (x0 : Fin 16) (x1 : BitVec 32) : Statement (.commandComplete x0 x1) :=
  fun _ => ⟨of_none rfl, of_none rfl, of_none rfl, of_none rfl⟩
theorem instancePlace (x0 : Nat) : Statement (.instancePlace x0) :=
  fun _ => ⟨of_none rfl, of_none rfl, of_none rfl, of_none rfl⟩
theorem instanceDisplace (x0 : Nat) : Statement (.instanceDisplace x0) :=
  fun _ => ⟨of_none rfl, of_none rfl, of_none rfl, of_none rfl⟩
theorem instanceCompact (x0 : Nat) (x1 : Nat) (x2 : Nat) : Statement (.instanceCompact x0 x1 x2) :=
  fun _ => ⟨of_none rfl, of_none rfl, of_none rfl, of_none rfl⟩
theorem instanceSaveComplete (x0 : Nat) : Statement (.instanceSaveComplete x0) :=
  fun _ => ⟨of_none rfl, of_none rfl, of_none rfl, of_none rfl⟩
theorem segmentBoundary (x0 : Nat) : Statement (.segmentBoundary x0) :=
  fun _ => ⟨of_none rfl, of_none rfl, of_none rfl, of_none rfl⟩
theorem graphEnd (x0 : Fin 16) (x1 : Fin 4) : Statement (.graphEnd x0 x1) :=
  fun _ => ⟨of_none rfl, of_none rfl, of_none rfl, of_none rfl⟩
theorem sinkWaitTimeout (x0 : Fin 16) (x1 : Fin 4) : Statement (.sinkWaitTimeout x0 x1) :=
  fun _ => ⟨of_none rfl, of_none rfl, of_none rfl, of_none rfl⟩
theorem launchStart (x0 : Fin 16) (x1 : Fin 64) : Statement (.launchStart x0 x1) :=
  fun _ => ⟨of_none rfl, of_none rfl, of_none rfl, of_none rfl⟩
theorem threadLand (x0 : Fin 16) (x1 : Fin 64) : Statement (.threadLand x0 x1) :=
  fun _ => ⟨of_none rfl, of_none rfl, of_none rfl, of_none rfl⟩
theorem launchComplete (x0 : Fin 16) (x1 : Nat) : Statement (.launchComplete x0 x1) :=
  fun _ => ⟨of_none rfl, of_none rfl, of_none rfl, of_none rfl⟩
theorem hangDetect (x0 : Nat) : Statement (.hangDetect x0) :=
  fun _ => ⟨of_none rfl, of_none rfl, of_none rfl, of_none rfl⟩
theorem boundaryShutter (x0 : Nat) : Statement (.boundaryShutter x0) :=
  fun _ => ⟨of_none rfl, of_none rfl, of_none rfl, of_none rfl⟩
theorem cfgeccError (x0 : Nat) (x1 : Nat) : Statement (.cfgeccError x0 x1) :=
  fun _ => ⟨of_none rfl, of_none rfl, of_none rfl, of_none rfl⟩
theorem transferStart (x0 : Fin 128) : Statement (.transferStart x0) :=
  fun _ => ⟨of_none rfl, of_none rfl, of_none rfl, of_none rfl⟩
theorem transferComplete (x0 : Fin 128) (x1 : Nat) : Statement (.transferComplete x0 x1) :=
  fun _ => ⟨of_none rfl, of_none rfl, of_none rfl, of_none rfl⟩
theorem edgeProgramFlit (x0 : Fin 128) (x1 : Fin 4) : Statement (.edgeProgramFlit x0 x1) :=
  fun _ => ⟨of_none rfl, of_none rfl, of_none rfl, of_none rfl⟩
theorem smigCommit (x0 : Nat) : Statement (.smigCommit x0) :=
  fun _ => ⟨of_none rfl, of_none rfl, of_none rfl, of_none rfl⟩
theorem tableVersionFree (x0 : Fin 16) (x1 : Nat) : Statement (.tableVersionFree x0 x1) :=
  fun _ => ⟨of_none rfl, of_none rfl, of_none rfl, of_none rfl⟩
theorem doorThreadLand (x0 : Nat) (x1 : Nat) : Statement (.doorThreadLand x0 x1) :=
  fun _ => ⟨of_none rfl, of_none rfl, of_none rfl, of_none rfl⟩
theorem doorResultRelease (x0 : Nat) (x1 : Nat) : Statement (.doorResultRelease x0 x1) :=
  fun _ => ⟨of_none rfl, of_none rfl, of_none rfl, of_none rfl⟩
theorem routeRequestFail (x0 : Requester) (x1 : Nat) : Statement (.routeRequestFail x0 x1) :=
  fun _ => ⟨of_none rfl, of_none rfl, of_none rfl, of_none rfl⟩
theorem routeLinkChange (x0 : Fin 48) (x1 : Bool) (x2 : Fin 5) : Statement (.routeLinkChange x0 x1 x2) :=
  fun _ => ⟨of_none rfl, of_none rfl, of_none rfl, of_none rfl⟩
theorem corePowerOff (x0 : Fin 1024) : Statement (.corePowerOff x0) :=
  fun _ => ⟨of_none rfl, of_none rfl, of_none rfl, of_none rfl⟩
theorem coreWake (x0 : Fin 1024) : Statement (.coreWake x0) :=
  fun _ => ⟨of_none rfl, of_none rfl, of_none rfl, of_none rfl⟩
theorem activityBalance (x0 : Fin 4) (x1 : BitVec 10) (x2 : BitVec 10) : Statement (.activityBalance x0 x1 x2) :=
  fun _ => ⟨of_none rfl, of_none rfl, of_none rfl, of_none rfl⟩
theorem startUp : Statement (.startUp) :=
  fun _ => ⟨of_none rfl, of_none rfl, of_none rfl, of_none rfl⟩
theorem mgmtFrameReceive (x0 : List Byte) : Statement (.mgmtFrameReceive x0) :=
  fun _ => ⟨of_none rfl, of_none rfl, of_none rfl, of_none rfl⟩
theorem ownerReset (x0 : OwnerRequest) : Statement (.ownerReset x0) :=
  fun _ => ⟨of_none rfl, of_none rfl, of_none rfl, of_none rfl⟩
theorem keytabEnrol (x0 : OwnerRequest) : Statement (.keytabEnrol x0) :=
  fun _ => ⟨of_none rfl, of_none rfl, of_none rfl, of_none rfl⟩
theorem attestationRequest (x0 : BitVec 256) : Statement (.attestationRequest x0) :=
  fun _ => ⟨of_none rfl, of_none rfl, of_none rfl, of_none rfl⟩
theorem rerunCompare (x0 : Nat) (x1 : Nat) (x2 : List (Nat × BitVec 64 × BitVec 8)) (x3 : Nat × Nat) : Statement (.rerunCompare x0 x1 x2 x3) :=
  fun _ => ⟨of_none rfl, of_none rfl, of_none rfl, of_none rfl⟩
theorem tlbinvWrite (x0 : Fin 16) (x1 : Word) : Statement (.tlbinvWrite x0 x1) :=
  fun _ => ⟨of_none rfl, of_none rfl, of_none rfl, of_none rfl⟩
theorem tlbInvalidationDone (x0 : Fin 16) : Statement (.tlbInvalidationDone x0) :=
  fun _ => ⟨of_none rfl, of_none rfl, of_none rfl, of_none rfl⟩
theorem rgnctlCountWrite (x0 : Fin 16) (x1 : Word) : Statement (.rgnctlCountWrite x0 x1) :=
  fun _ => ⟨of_none rfl, of_none rfl, of_none rfl, of_none rfl⟩
theorem regionTableReadDone (x0 : Fin 16) : Statement (.regionTableReadDone x0) :=
  fun _ => ⟨of_none rfl, of_none rfl, of_none rfl, of_none rfl⟩
theorem rlogctlPendClear (x0 : Fin 16) (x1 : Word) : Statement (.rlogctlPendClear x0 x1) :=
  fun _ => ⟨of_none rfl, of_none rfl, of_none rfl, of_none rfl⟩
theorem fqctlRdWrite (x0 : Fin 16) (x1 : Fin 3) (x2 : Word) : Statement (.fqctlRdWrite x0 x1 x2) :=
  fun _ => ⟨of_none rfl, of_none rfl, of_none rfl, of_none rfl⟩
theorem cxrsmResume (x0 : Fin 16) (x1 : Word) : Statement (.cxrsmResume x0 x1) :=
  fun _ => ⟨of_none rfl, of_none rfl, of_none rfl, of_none rfl⟩
theorem cxrsmDiscard (x0 : Fin 16) (x1 : Word) : Statement (.cxrsmDiscard x0 x1) :=
  fun _ => ⟨of_none rfl, of_none rfl, of_none rfl, of_none rfl⟩
theorem cxpreWrite (x0 : Fin 16) (x1 : Word) : Statement (.cxpreWrite x0 x1) :=
  fun _ => ⟨of_none rfl, of_none rfl, of_none rfl, of_none rfl⟩
theorem cxrstGo (x0 : Fin 16) : Statement (.cxrstGo x0) :=
  fun _ => ⟨of_none rfl, of_none rfl, of_none rfl, of_none rfl⟩
theorem bmaskWrite (x0 : Fin 16) (x1 : Fin 4) (x2 : Fin 16) (x3 : Word) : Statement (.bmaskWrite x0 x1 x2 x3) :=
  fun _ => ⟨of_none rfl, of_none rfl, of_none rfl, of_none rfl⟩
theorem presRetry (x0 : Fin 1024) (x1 : Fin 4) : Statement (.presRetry x0 x1) :=
  fun _ => ⟨of_none rfl, of_none rfl, of_none rfl, of_none rfl⟩
theorem presDiscard (x0 : Fin 1024) (x1 : Fin 4) : Statement (.presDiscard x0 x1) :=
  fun _ => ⟨of_none rfl, of_none rfl, of_none rfl, of_none rfl⟩
theorem stresRetry (x0 : Fin 128) (x1 : Fin 16) : Statement (.stresRetry x0 x1) :=
  fun _ => ⟨of_none rfl, of_none rfl, of_none rfl, of_none rfl⟩
theorem stresDiscard (x0 : Fin 128) (x1 : Fin 16) : Statement (.stresDiscard x0 x1) :=
  fun _ => ⟨of_none rfl, of_none rfl, of_none rfl, of_none rfl⟩
theorem shutctlResume (x0 : Fin 16) (x1 : Word) : Statement (.shutctlResume x0 x1) :=
  fun _ => ⟨of_none rfl, of_none rfl, of_none rfl, of_none rfl⟩
theorem shutctlDiscard (x0 : Fin 16) (x1 : Word) : Statement (.shutctlDiscard x0 x1) :=
  fun _ => ⟨of_none rfl, of_none rfl, of_none rfl, of_none rfl⟩
theorem shutctlReload (x0 : Fin 16) (x1 : Word) : Statement (.shutctlReload x0 x1) :=
  fun _ => ⟨of_none rfl, of_none rfl, of_none rfl, of_none rfl⟩
theorem gctlCommit (x0 : Word) : Statement (.gctlCommit x0) :=
  fun _ => ⟨of_none rfl, of_none rfl, of_none rfl, of_none rfl⟩
theorem groupCommitDone : Statement (.groupCommitDone) :=
  fun _ => ⟨of_none rfl, of_none rfl, of_none rfl, of_none rfl⟩
theorem routecfgWrite (x0 : Word) : Statement (.routecfgWrite x0) :=
  fun _ => ⟨of_none rfl, of_none rfl, of_none rfl, of_none rfl⟩
theorem rtmapWrite (x0 : Fin 1152) (x1 : Word) : Statement (.rtmapWrite x0 x1) :=
  fun _ => ⟨of_none rfl, of_none rfl, of_none rfl, of_none rfl⟩
theorem rtuctlStage (x0 : Word) : Statement (.rtuctlStage x0) :=
  fun _ => ⟨of_none rfl, of_none rfl, of_none rfl, of_none rfl⟩
theorem rtuStagingDone : Statement (.rtuStagingDone) :=
  fun _ => ⟨of_none rfl, of_none rfl, of_none rfl, of_none rfl⟩
theorem rtuctlCommit : Statement (.rtuctlCommit) :=
  fun _ => ⟨of_none rfl, of_none rfl, of_none rfl, of_none rfl⟩
theorem rtuctlAbort : Statement (.rtuctlAbort) :=
  fun _ => ⟨of_none rfl, of_none rfl, of_none rfl, of_none rfl⟩
theorem rrstatClear : Statement (.rrstatClear) :=
  fun _ => ⟨of_none rfl, of_none rfl, of_none rfl, of_none rfl⟩
theorem registerWrite (x0 : Nat) (x1 : Word) : Statement (.registerWrite x0 x1) :=
  fun _ => ⟨of_none rfl, of_none rfl, of_none rfl, of_none rfl⟩
theorem placingComplete (x0 : Nat) : Statement (.placingComplete x0) :=
  fun _ => ⟨of_none rfl, of_none rfl, of_none rfl, of_none rfl⟩
theorem managementPortLinkUp (x0 : Bool) : Statement (.managementPortLinkUp x0) :=
  fun _ => ⟨of_none rfl, of_none rfl, of_none rfl, of_none rfl⟩

end Sys2Proof.Laws.RoundTrip
end

