-- ==== Sys2Proof/Tests/Slice0.lean ====
section
/-!
SUPPORT. Sys2Proof/Tests/Slice0.lean: the model's own tests. A `test_` theorem checks a word, a refusal or a single step
against a value that the spec gives or that follows from its tables; a `wit_` theorem shows a state and operands that meet the
hypotheses of the obligation whose name it carries, with a witness for each of its clauses.
-/
namespace Sys2Proof.Tests
set_option Elab.async false
open Sys2Proof Sys2Proof.Machine

/-! ### Decoding: words written out from the encodings of the spec -/

/-- R106: NOP is ADD g0, g0, g0, word 0x0200_0000. -/
theorem test_decode_nop : (decode 0x02000000).toOption = some (.add 0 0 0) := by decide +kernel

/-- R11's listing: the words of its address-building and load lines. -/
theorem test_decode_addresses :
    (decode 0x16512345).toOption = some (.lui 5 0x12345) ∧ (decode 0x0C528640).toOption = some (.ori 5 5 0x640) ∧
    (decode 0x1850000A).toOption = some (.luih 5 0xA) ∧ (decode 0x08900001).toOption = some (.addi 9 0 1) ∧
    (decode 0x0652A440).toOption = some (.prgt 5 5 9) ∧ (decode 0x66628000).toOption = some (.ldD 6 5 .plain 0) ∧
    (decode 0x02739800).toOption = some (.add 7 7 6) := by decide +kernel

/-- Families BRANCH, JUMP and LOOP: R99 to R102 (RI, J: opcode in bits 31:25, offsets in words). -/
theorem test_decode_control :
    (decode (0x10#7 ++ 3#5 ++ 4#5 ++ 0x7FFF#15)).toOption = some (.beq 3 4 0x7FFF) ∧
    (decode 0x32807FFD).toOption = some (.loop 8 (-3)) ∧ (decode 0x2E000003).toOption = some (.jal 3) ∧
    (decode 0x30008000).toOption = some (.jalr 0 1 0) := by decide +kernel

/-- Families BFX and DIV: R41 (imm 14:12 the form, 11:6 the width less 1, 5:0 the position), R91. -/
theorem test_decode_fields :
    (decode 0x129A13D0).toOption = some (.bfxS 9 20 15 16) ∧ (decode 0x125183C0).toOption = some (.bfx 5 3 15 0) ∧
    (decode 0x04329880).toOption = some (.divn 3 5 6) ∧ (decode 0x044298C0).toOption = some (.remn 4 5 6) := by decide +kernel

/-- Family SYSI and SYS: R43, R225, R229. -/
theorem test_decode_system :
    (decode 0x35801002).toOption = some (.mfs 24 2) ∧ (decode 0x34000005).toOption = some (.trap 5) ∧
    (decode 0x34000FFF).toOption = some .tret ∧ (decode 0x34000800).toOption = some (.trapService 0) ∧
    (decode 0x36000020).toOption = some .yield ∧ (decode 0x36000040).toOption = some .halt ∧
    (decode (0x36000140 + 3 * 2 ^ 15)).toOption = some (.coff 3) := by decide +kernel

/-- Families FP and TABLE: R44, R45. -/
theorem test_decode_float :
    (decode 0x48148E40).toOption = some (.icvf .w19 1 9 .i64 .dyn) ∧ (decode 0x4810B280).toOption = some (.fscl .w19 1 1 12 .dyn) ∧
    (decode 0x48028720).toOption = some (.tbld 5 1) ∧ (decode 0x434106E0).toOption = some (.tenc .f32 20 2 1) ∧
    (decode 0x48648700).toOption = some (.tdec 6 9 1) := by decide +kernel

/-- Families LOAD, STORE and TAG: R46, R47 (qualifier in bits 14:12, scaled offset in 11:0). -/
theorem test_decode_memory :
    (decode 0x76418000).toOption = some (.stD 4 3 .plain 0) ∧ (decode 0x76731001).toOption = some (.stD 7 6 .fes 1) ∧
    (decode 0x66832001).toOption = some (.ldD 8 6 .fec 1) ∧ (decode 0x92918001).toOption = some (.tgst 9 3 1) ∧
    (decode 0x90A18001).toOption = some (.tgld 10 3 1) := by decide +kernel

/-- Families ORD and FENCE: R48, R192. -/
theorem test_decode_order :
    (decode 0xA0028000).toOption = some (.tkaq 5) ∧ (decode 0xA2000013).toOption = some (.fenceRel .device) ∧
    (decode 0xA200001C).toOption = some (.fenceAr .domain) := by decide +kernel

/-- Families ATOM and ATOMR: R49 (major, d, a, b, aop, sz, c). -/
theorem test_decode_atomics :
    (decode (0x52#7 ++ 0#5 ++ 3#5 ++ 4#5 ++ 0x0#4 ++ 1#1 ++ 0#5)).toOption = some (.aadd 3 4 .d) ∧
    (decode (0x53#7 ++ 9#5 ++ 3#5 ++ 4#5 ++ 0x9#4 ++ 0#1 ++ 5#5)).toOption = some (.acasR 9 3 4 .w 5) ∧
    (decode (0x53#7 ++ 9#5 ++ 3#5 ++ 4#5 ++ 0xA#4 ++ 1#1 ++ 0#5)).toOption = none := by decide +kernel

/-- Families SYNC, HYP, ACC and LNCH: R50, R211. -/
theorem test_decode_selected :
    (decode 0xA8618060).toOption = some (.acqs 6 3) ∧ (decode 0xA8019C80).toOption = some (.cmts 3 7) ∧
    (decode 0xA89180A0).toOption = some (.peks 9 3) ∧
    (decode (0x55#7 ++ 2#5 ++ 3#5 ++ 4#5 ++ 0x06#5 ++ 0#5)).toOption = some (.hwait 2 3 4) ∧
    (decode (0x56#7 ++ 0#5 ++ 3#5 ++ 4#5 ++ 0x00#5 ++ 2#5)).toOption = some (.acca 3 4 2) ∧
    (decode (0x57#7 ++ 0#5 ++ 3#5 ++ 4#5 ++ 0x01#5 ++ 5#5)).toOption = some (.lnci 3 4 5) := by decide +kernel

/-- Stream commands: R67 (OP, .B, .S, command's own qualifiers, target, operands), R332, R341, R343, R363. -/
theorem test_decode_stream :
    (decodeStream (0x01#8 ++ 0b010000#6 ++ 0#2 ++ 0#8 ++ (0#5 ++ 2#3 ++ 0x11#48 ++ 0#2 ++ 0x22#46))).toOption
      = some (.scfg { b := false, s := true } 0x22 0x11 2) ∧
    (decodeStream (0x04#8 ++ 0b00000001#8 ++ 7#8 ++ (0#56 ++ 9#32 ++ 0#3 ++ 0x3FF#10 ++ 5#3))).toOption
      = some (.sarm { b := false, s := false } true 7 5 0x3FF 9) ∧
    (decodeStream (0x06#8 ++ 0b10000001#8 ++ 0#8 ++ (0#64 ++ 9#32 ++ 0#5 ++ 5#3))).toOption
      = some (.sseg { b := true, s := false } true 5 9) ∧
    (decodeStream (0x10#8 ++ 0#8 ++ 0x80#8 ++ 0#104)).toOption = none ∧
    (decodeStream (0x10#8 ++ 0b11000000#8 ++ 0xFF#8 ++ (0#42 ++ 1#1 ++ 3#10 ++ 2#3 ++ 0#2 ++ 0x40#46))).toOption
      = some (.scpy { b := true, s := true } { tgt := 0xFF, desc := 0x40, slot := 2, inst := 3, bnd := true }) := by decide +kernel

/-- Node and router words: R53 and R56, as the examples of the fabric, control and door chapters write them. -/
theorem test_decode_configuration :
    (decodeNode 0x0180250004200000).toOption = some (.nadd { ety := 8, fn := 0, ina := 2, inb := 5, inc := 0, omask := 0x42, param := 0 }) ∧
    (decodeNode 0x2370000000200000).toOption = some (.ndor { ety := 7, fn := 0, ina := 0, inb := 0, inc := 0, omask := 2, param := 0 }) ∧
    (decodeRouter 0x000842010008000C).toOption = some (.merge { swmask := 8, ctl := 2, ia := 0, ib := 1, oa := 8, ob := 12 }) ∧
    (decodeRouter 0x0000B00000000000).toOption = none ∧ (decodeNode 0x1900000000000000).toOption = none := by decide +kernel

/-! ### Ill-formed terms: one for each condition of `WellFormed` -/

/-- R38: a reserved word has major 0. -/
theorem test_refuses_major : WellFormed (.illegal 0x02000000) = false := rfl
/-- R41: a field runs past bit 63. -/
theorem test_refuses_fields : WellFormed (.bfx 1 2 32 32) = false ∧ WellFormed (.bfxS 1 2 63 1) = false ∧ WellFormed (.bfi 1 2 0 63) = true ∧
    WellFormed (.bfi 1 2 1 63) = false := by decide
/-- R102: LOOP of g0. -/
theorem test_refuses_loop : WellFormed (.loop 0 1) = false := rfl
/-- R229: a service code that is TRET's. -/
theorem test_refuses_service : WellFormed (.trapService 0x7FF) = false := rfl
/-- R46: a pair at an odd register. -/
theorem test_refuses_pairs : WellFormed (.ldp 3 2 .plain 0) = false ∧ WellFormed (.stp 3 2 .plain 0) = false := by decide
/-- R45: a conversion of a format to itself. -/
theorem test_refuses_conversion : WellFormed (.fcvt .f32 1 2 .f32 .dyn) = false := by decide
/-- R342: a token of a type that is no integer. -/
theorem test_refuses_token : WellFormed (.sbnd { b := false, s := false } 0 0 0 0 8) = false := by decide
/-- R68: a streamer target outside class P, for each command that has one. -/
theorem test_refuses_targets : ∀ o : DataOps, o.tgt = 0x80 → ∀ q, WellFormed (.scpy q o) = false ∧ WellFormed (.sgth q o) = false ∧
    WellFormed (.ssct q o) = false ∧ WellFormed (.slkp q o) = false ∧ WellFormed (.supd q o) = false ∧ WellFormed (.sred q o) = false ∧
    WellFormed (.scol q o) = false ∧ WellFormed (.smig q 0x80 0) = false := by
  intro o h q; simp only [WellFormed, h]; decide

/-! ### States for the tests and the witnesses -/

/-- A module after reset in which a thread of context 1 acts from slot 0 of site 0. -/
def barrel : State :=
  { State.reset with th := { Thread.blank with place := .slot 0 0, ctx := 1, tid := 7 }, rest := [] }

/-- The same with g3 and g4 set. -/
def barrelG (x y : Word) : State :=
  { barrel with th := { barrel.th with g := (barrel.th.g.set 3 x).set 4 y } }

/-- A control core in user mode. -/
def user : State := { State.reset with th := { State.reset.th with sup := false } }

/-- Memory that holds a word at address 0. -/
def holding (w : Nat) : State := { State.reset with mem := Mem.cleared.write 0 4 w }

theorem wit_ReservedMajorsAreIllegal : (fMajor 0xFE000000#32).toNat = 0x7F ∧ (fMajor 0x1C000000#32).toNat = 0x0E ∧ (fMajor 0#32).toNat = 0 := by
  decide +kernel

theorem wit_StepRunsTheDecodedInstruction :
    State.reset.inputs = [] ∧ State.reset.boot = .up ∧ State.reset.th.resident = true ∧ State.reset.th.st = .run ∧
    (State.reset.th.onBarrel && (State.reset.ctx State.reset.th.ctx).halted) = false ∧ State.reset.isOrphan = false ∧
    State.reset.watchDue = false ∧ State.reset.interruptDue = none ∧
    (∃ pa i, (holding 0x02000000).fetchPa = .ok pa ∧ decode ((holding 0x02000000).codeWord pa) = .ok i) ∧
    (∃ pa e, (holding 0x02000001).fetchPa = .ok pa ∧ decode ((holding 0x02000001).codeWord pa) = .error e) ∧
    (∃ e, ({ State.reset with th := { State.reset.th with pc := 0x12000000000 } } : State).fetchPa = .error e) ∧
    State.reset.th.onControl = true ∧ barrel.th.place = .slot 0 0 ∧ (barrel.site 0).rot.toNat = (0 : Fin 16).val := by
  refine ⟨by decide +kernel, by decide +kernel, by decide +kernel, by decide +kernel, by decide +kernel, by decide +kernel,
    by decide +kernel, by decide +kernel, ⟨_, _, rfl, rfl⟩, ⟨_, _, rfl, rfl⟩, ⟨_, rfl⟩, by decide +kernel,
    by decide +kernel, by decide +kernel⟩

/-- The hypotheses of the round trips at a boundary: the last register, the widest field and a reserved word. -/
theorem wit_EncodeThenDecode :
    WellFormed (.bfx 31 31 63 0) = true ∧ encode (.bfx 31 31 63 0) = some (0x09#7 ++ 31#5 ++ 31#5 ++ 0#3 ++ 63#6 ++ 0#6) ∧
    WellFormed (.trapService 0) = true ∧ encode (.trapService 0) = some 0x34000800 ∧ WellFormed (.illegal 0) = true ∧
    WellFormed (.sink { swmask := 0, ctl := 0, ia := 1, ib := 0, oa := 0, ob := 0 }) = true ∧
    (encodeRouter (.sink { swmask := 0, ctl := 0, ia := 1, ib := 0, oa := 0, ob := 0 })).isSome = true ∧
    (encodeNode (.nrly { ety := 0, fn := 0, ina := 1, inb := 0, inc := 0, omask := 1, param := 0 })).isSome = true ∧
    (encodeStream (.scpy { b := true, s := true } { tgt := 0xFF, desc := 0x40, slot := 2, inst := 3, bnd := true })).isSome = true := by
  decide +kernel

theorem wit_InputsComeFirst :
    (∃ t, State.focus { State.reset with inputs := [] } (.control 3) = some t) ∧ State.reset.boot = .up ∧
    ({ State.reset with boot := .failed } : State).boot = .failed ∧ bootAnswers (.turn (.control 0)) = none ∧
    bootAnswers (.occur (.managementPortLinkUp true)) = some (.managementPortLinkUp true) ∧
    (∃ t, State.focus (barrel.setSite 0 { barrel.site 0 with rot := (barrel.site 0).rot + 1 }) (.slot 0 (barrel.site 0).rot.toFin) = some t) ∧
    (barrel.site 0).rot.toFin ≠ (1 : Fin 16) ∧ barrel.fields[0].hold = false ∧ barrel.fields[0].time.toNat + 5 < 2 ^ 64 :=
  ⟨⟨_, rfl⟩, by decide +kernel, rfl, rfl, rfl, ⟨_, rfl⟩, by decide +kernel, by decide +kernel, by decide +kernel⟩

theorem wit_Shifts : 63 = ((barrelG 1 0xFFF).gr 4).toNat % 64 ∧ 0 = ((barrelG 1 0x40).gr 4).toNat % 64 ∧ 63 = (63#6).toNat := by decide +kernel

theorem wit_MultiplyAndCount : (barrelG 0 0).gr 3 = 0 ∧
    (63 < 64 ∧ ((barrelG 1 0).gr 3).getLsbD (63 - 63) = true ∧ ∀ j, 63 - 63 < j → ((barrelG 1 0).gr 3).getLsbD j = false) ∧
    (63 < 64 ∧ ((barrelG (1 <<< 63) 0).gr 3).getLsbD 63 = true ∧ ∀ j, j < 63 → ((barrelG (1 <<< 63) 0).gr 3).getLsbD j = false) ∧
    64 = ((List.range 64).filter fun j => ((barrelG (-1) 0).gr 3).getLsbD j).length := by
  refine ⟨by decide +kernel, ⟨by decide, by decide +kernel, fun j h => ?_⟩, by decide +kernel, by decide +kernel⟩
  show (1#64).getLsbD j = false
  simp; omega

theorem wit_Division : barrel.gr 4 = 0 ∧ (barrelG 5 2).gr 4 ≠ 0 ∧ (barrelG 5 2).th.onBarrel = true ∧ State.reset.th.onBarrel = false ∧
    (∀ w ∈ [Wait.divide 3 1 9, .divide 1 1 9, .turns 3, .turns 1],
      ({ barrel with th := { barrel.th with st := .wait, wait := w } } : State).th.wait = w ∧
      ({ barrel with th := { barrel.th with st := .wait, wait := w } } : State).th.st = .wait) := by decide +kernel

theorem wit_BitFields : (63#6).toNat + 1 + (0#6).toNat ≤ 64 ∧ (0#6).toNat + 1 + (63#6).toNat ≤ 64 ∧
    ∃ v : Word, ∀ j, j < 64 → v.getLsbD j = if (0#6).toNat ≤ j ∧ j ≤ (0#6).toNat + (63#6).toNat then ((barrelG 7 0).gr 3).getLsbD (j - (0#6).toNat)
      else ((barrelG 7 0).gr 4).getLsbD j := by
  refine ⟨by decide, by decide, 7, by decide +kernel⟩

theorem wit_Branches : (barrelG 1 1).gr 3 = (barrelG 1 1).gr 4 ∧ (barrelG 1 2).gr 3 ≠ (barrelG 1 2).gr 4 ∧
    ((barrelG (-1) 1).gr 3).toInt < ((barrelG (-1) 1).gr 4).toInt ∧ ¬ ((barrelG (-1) 1).gr 3).toNat < ((barrelG (-1) 1).gr 4).toNat := by
  decide +kernel

theorem wit_JumpThroughRegister : (BitVec.ofInt 52 (((barrelG 8 0).gr 3).toInt + (-4#15).toInt)).toNat % 4 = 0 ∧
    (BitVec.ofInt 52 (((barrelG 8 0).gr 3).toInt + (1#15).toInt)).toNat % 4 ≠ 0 := by decide +kernel

theorem wit_LoopCountsDown : (3 : Reg) ≠ 0 ∧ BitVec.ofInt 64 (((barrelG 0 0).gr 3).toInt - 1) ≠ 0 ∧
    BitVec.ofInt 64 (((barrelG 1 0).gr 3).toInt - 1) = 0 ∧ fMajor 0x32000000#32 = 0x19 ∧ fD 0x32000000#32 = 0 ∧
    fMajor 0x32108000#32 = 0x19 ∧ fA 0x32108000#32 ≠ 0 := by decide +kernel

theorem wit_ControlTrapEntry : State.reset.mem.wf ∧ user.mem.wf ∧ State.reset.th.onControl = true ∧ State.reset.th.sv.sfrec.toNat % 64 = 0 ∧
    State.reset.th.sv.sfrec.toNat < 0x12000000000 ∧ user.th.onControl = true ∧ user.th.sup = false ∧
    user.th.sv.sfrec.toNat % 64 = 0 ∧ user.th.sv.sfrec.toNat < 0x12000000000 := by decide +kernel

theorem wit_EretRestores : State.reset.th.onControl = true ∧ State.reset.th.sup = true ∧ barrel.th.onBarrel = true ∧
    ∃ t u, exec (.illegal 0) State.reset = .next t ∧ exec .eret t = .next u :=
  ⟨by decide +kernel, by decide +kernel, by decide +kernel, _, _, rfl, rfl⟩

/-- Control core 0 with the retirement source pending and enabled. -/
def pending : State :=
  { State.reset with regs := [(retstatAt, 1 <<< 63)], th := { State.reset.th with sv := { State.reset.th.sv with ssts := 1, sien := 0xF00 } } }

theorem wit_InterruptEntry : pending.inputs = [] ∧ pending.boot = .up ∧ pending.th.place = .control 0 ∧ pending.th.st = .run ∧
    pending.th.wait = .none ∧ pending.th.mid = false ∧ pending.th.tseq = 0 ∧ pending.isOrphan = false ∧ pending.th.watches = [] ∧ pending.th.sv.ssts.getLsbD 0 = true ∧
    (pending.sipnd 0).getLsbD 8 = true ∧ pending.th.sv.sien.getLsbD 8 = true ∧
    ∀ j, j < 8 → ((pending.sipnd 0).getLsbD j && pending.th.sv.sien.getLsbD j) = false := by decide +kernel

/-- The same in a wait. -/
def pendingIn (w : Wait) : State := { pending with th := { pending.th with st := .wait, wait := w } }

theorem wit_InterruptEntry_waits : ∀ w ∈ [Wait.barrier 3 0 0, .signal 3 0, .outcome 3 0 0, .fill 0 0, .version 0, .retire,
      .full 0x1F000000000 8 0 0 (.zero 1) false false 0 0, .hyp 4],
    (pendingIn w).inputs = [] ∧ (pendingIn w).th.place = .control 0 ∧ (pendingIn w).th.st = .wait ∧ (pendingIn w).th.wait = w ∧
    (pendingIn w).isOrphan = false ∧ (pendingIn w).th.sv.ssts.getLsbD 0 = true ∧ ((pendingIn w).sipnd 0).getLsbD 8 = true ∧
    (pendingIn w).th.sv.sien.getLsbD 8 = true ∧ ∀ j, j < 8 → (((pendingIn w).sipnd 0).getLsbD j && (pendingIn w).th.sv.sien.getLsbD j) = false := by
  decide +kernel

/-- A thread whose context has a trap vector. -/
def vectored : State := { barrel with regs := [(cxtrapAt 1, 0x10001)] }

theorem wit_TrapAndReturn : vectored.mem.wf ∧ vectored.th.place = .slot 0 0 ∧ vectored.th.intrap = false ∧ (vectored.reg (cxtrapAt vectored.th.ctx)).getLsbD 0 = true ∧
    vectored.th.pc.toNat % 4 = 0 ∧ (vectored.th.tmode.toNat % 8 ∈ [1, 2, 3, 4, 5] ∧ vectored.th.tmode.toNat < 16) ∧
    vectored.th.tflags.toNat < 32 ∧ canonHandle vectored.th.thyp = vectored.th.thyp ∧
    ∀ i : Fin 4, normTwa vectored.th.twa[i] = vectored.th.twa[i] ∧ normTwc vectored.th.twc[i] = vectored.th.twc[i] := by decide +kernel

/-- A thread of context 1 whose host trap queue is enabled and empty. -/
def queued : State := { barrel with regs := [(fqbaseAt 1 1, 1)] }

theorem wit_ServiceRequest : queued.mem.wf ∧ queued.th.place = .slot 0 0 ∧ queued.th.wait = .none ∧ queued.sbuf.filter (ofSlot queued.th) = [] ∧
    queued.th.save % 2048 = 0 ∧ queued.th.save + 2048 ≤ 0x12000000000 ∧ (queued.reg (cxtrapAt queued.th.ctx)).getLsbD 0 = false ∧
    queued.queueOpen queued.th.ctx 1 = true ∧ ((queued.ctx queued.th.ctx).heldQ.any fun h => h.1 = 1) = false ∧
    barrel.queueOpen barrel.th.ctx 1 = false ∧ (0x7FE#11 : BitVec 11) ≠ 0x7FF ∧ (∀ u ∈ queued.rest, u.place ≠ .slot 0 0 ∧ u.place ≠ .caravan 0 0) ∧
    bits (queued.reg (fqbaseAt 1 1)) 12 40 * 4096 + bits (queued.reg (fqctlAt 1 1)) 16 13 % 2 ^ bits (queued.reg (fqbaseAt 1 1)) 1 4 * 64 = 0 ∧
    0 + 64 ≤ 0x12000000000 ∧ (queued.th.save + 2048 ≤ 0 ∨
      ({ queued with th := { queued.th with save := 2048 } } : State).th.save = 0 + 2048) := by decide +kernel

theorem wit_StateRegisterReads : State.reset.th.supervisor = true ∧ user.th.supervisor = false ∧ barrel.th.supervisor = false ∧
    State.reset.th.place = .control 0 ∧ (0x10B ≤ (0x10B#12).toNat ∧ (0x1FF#12).toNat < 0x200) ∧ (0x100 ≤ (0x100#12).toNat) ∧
    (0x13 < (0x14#12).toNat ∧ (0x17#12).toNat < 0x18) ∧ 0x200 ≤ (0xFFF#12).toNat := by decide +kernel

/-- A thread beside four others that hold sixteen watches of context scope. -/
def crowded : State :=
  { barrel with rest := (List.finRange 4).map fun (k : Fin 4) =>
      { Thread.blank with place := .slot 1 (Fin.ofNat 16 k), ctx := 1, tid := BitVec.ofNat 24 (20 + k), twc := Vector.replicate 4 0x42F } }

theorem wit_StateRegisterWrites : State.reset.th.supervisor = true ∧ barrel.th.supervisor = false ∧
    contextWatch (normTwc 0) = false ∧ contextWatch (normTwc 0xFFFFFFFFFFFFFFEF) = true ∧ 16 ≤ crowded.watchCount crowded.th.cx crowded.th.place 0 ∧
    barrel.watchCount barrel.th.cx barrel.th.place 0 < 16 := by decide +kernel

theorem wit_TimeAndSignals : barrel.th.st = .run ∧ barrel.th.wait = .none ∧ barrel.th.sigs = 0 ∧ ((barrelG 0 0).gr 3).toNat ≤ (0 : Word).toNat ∧
    (0 : Word).toNat < ((barrelG 9 0).gr 3).toNat ∧ ({ barrel with th := { barrel.th with sigs := 5 } } : State).th.sigs ≠ 0 ∧
    barrel.awaitsFlush = false ∧ (barrel.th.onBarrel && barrel.pendingFault barrel.th.ctx) = false ∧
    barrel.findTid barrel.th.cx 9 = none ∧ (barrel.findTid barrel.th.cx 7).isSome = true := by decide +kernel

theorem wit_TimeAndSignals_release : barrel = barrel.releaseTo .device := rfl

theorem wit_Queries : ((barrelG 1 0).gr 3).toNat % 256 = 1 ∧ ((barrelG 0x100 0).gr 3).toNat % 256 = 0 ∧ 1 < ((barrelG 0xFF 0).gr 3).toNat % 256 ∧
    (1023 : Fin 1024).val = ((barrelG 1023 0).gr 3).toNat % 1024 ∧ 7 = ((barrelG 7 0).gr 3).toNat % 8 := by decide +kernel

theorem wit_AddressQueryAndCrc : ((barrelG 0xFFFF 0).gr 3).toNat % 2 ^ 52 < 0x10000 ∧ 0x10000 ≤ ((barrelG 0x10000 0).gr 3).toNat % 2 ^ 52 ∧
    ((barrelG 0x0010000000010000 0).gr 3).toNat / 2 ^ 52 % 64 ≠ 0 ∧ ((barrelG 0x10000 0).gr 3).toNat / 2 ^ 52 % 64 = 0 ∧
    (∃ e, (barrelG 0x10000 0).lookAt 0x10000 = .error e) ∧ State.reset.th.supervisor = true ∧
    State.reset.present (State.reset.superPa 0x12000000000) = false ∧ State.reset.present (State.reset.superPa 0x10000) = true ∧
    State.reset.isLocal (State.reset.superPa 0x10000) = true ∧ spaceOf (offsetOf (State.reset.superPa 0x10000)) = .hbm ∧
    spaceOf (offsetOf (State.reset.superPa 0x1F000000000)) = .tcm :=
  ⟨by decide +kernel, by decide +kernel, by decide +kernel, by decide +kernel, ⟨_, rfl⟩, by decide +kernel, by decide +kernel,
    by decide +kernel, by decide +kernel, by decide +kernel, by decide +kernel⟩

/-- Control core 0 with site 5 enabled, whatever its module is made of. -/
def enabled : State :=
  { State.reset with sites := [(5, { Site.initial 5 with status := .enabled })], th := { State.reset.th with g := State.reset.th.g.set 3 0x10005 } }

theorem wit_RetirementStarts : user.th.supervisor = false ∧ enabled.th.supervisor = true ∧ (5 : Fin 1024).val = (enabled.gr 3).toNat % 1024 ∧
    (enabled.site 5).status = .enabled ∧ enabled.retire = none ∧
    ({ enabled with retire := some { site := 6, forced := false, begun := false } } : State).retire ≠ none ∧
    (({ enabled with sites := [(5, { Site.initial 5 with status := .closing })] } : State).site 5).status ≠ .enabled := by decide +kernel

/-- A thread of context 1 that has been saved at the door of an instance released since, and is ready. -/
def leaving : Thread :=
  { Thread.blank with place := .saved 1 8, ctx := 1, tid := 8, origin := .door 4 0 0 0, ready := some 0 }

theorem wit_ServiceRequest_yield : State.reset.th.onBarrel = false ∧ barrel.th.place = .slot 0 0 ∧
    ({ barrel with sites := [(0, { Site.initial 0 with status := .closing })] } : State).takesLandings 0 1 = false ∧
    ({ barrel with sites := [(0, { Site.initial 0 with status := .enabled })] } : State).takesLandings 0 1 = true ∧
    ({ barrel with sites := [(0, { Site.initial 0 with status := .enabled })] } : State).yieldHead 1 0 0 = none ∧
    ({ barrel with sites := [(0, { Site.initial 0 with status := .enabled })] } : State).yieldDoor 1 0 0 = none ∧
    (({ barrel with sites := [(0, { Site.initial 0 with status := .enabled })], rest := [leaving] } : State).yieldDoor 1 0 0).any
      (fun u => decide (u = leaving) && u.tid != barrel.th.tid) = true := by decide +kernel

theorem wit_FloatArithmetic : (barrel.th.tmode.getLsbD 3) = false ∧
    ({ barrel with th := { barrel.th with tmode := 9, f := barrel.th.f.set 2 1 } } : State).th.tmode.getLsbD 3 = true ∧
    ({ barrel with th := { barrel.th with tmode := 9, f := barrel.th.f.set 2 1 } } : State).fdatum .f32 2 = .fin false 1 (-149) ∧
    1 < 2 ^ (fmtOf .f32).fb ∧ isSubnormal (fmtOf .f64) (1 % 2 ^ 64) = true := by decide +kernel

/-- A thread with an infinity in f1, a NaN in f2, a signalling NaN in f3, 1.5 in f4 and −2 in f5, all of FP32. -/
def floats : State :=
  { barrel with th := { barrel.th with f := ((((barrel.th.f.set 1 0xFF800000).set 2 0x7FC00000).set 3 0x7FA00000).set 4 0x3FC00000).set 5 0xC0000000 } }

theorem wit_SignCompareMove : (fmtOf .f32).width = 32 ∧ (floats.fr 4).toNat % 2 ^ 32 = 0x3FC00000 ∧
    (unpack (fmtOf .f32) 0x7FC00000).isNan = true ∧ (unpack (fmtOf .f32) 0x7FA00000).isSig = true ∧
    (unpack (fmtOf .f32) 0x3FC00000).isNan = false ∧
    cmpData (unpack (fmtOf .f32) 0xC0000000) (unpack (fmtOf .f32) 0x3FC00000) = .lt ∧
    cmpData (unpack (fmtOf .f32) 0) (unpack (fmtOf .f32) 0x80000000) = .eq ∧
    cmpData (unpack (fmtOf .f32) 0x3FC00000) (unpack (fmtOf .f32) 0xFF800000) = .gt := by decide +kernel

theorem wit_Conversions : (∃ q, floats.fsource .f32 2 = .nan q) ∧ floats.fsource .f32 1 = .inf true ∧ floats.fsource .f32 4 = .fin false 0xC00000 (-23) ∧
    roundInt .rne false 0xC00000 (-23) = (2, false) ∧ intMax 8 true < 200 ∧ (-200 : Int) < intMin 8 true ∧ intMin 8 true ≤ 2 ∧ 2 ≤ intMax 8 true :=
  ⟨⟨_, rfl⟩, by decide +kernel, by decide +kernel, by decide +kernel, by decide +kernel, by decide +kernel, by decide +kernel, by decide +kernel⟩

theorem wit_RoundingOfMultiples : (2, false) = quantise .rne false 5 (-1) false 0 ∧ (3, true) = quantise .rup true 3 0 false 0 := by decide +kernel

theorem wit_RepresentableValuesStay : 0x3FC00000 < 2 ^ (fmtOf .f32).width ∧ unpack (fmtOf .f32) 0x3FC00000 = .fin false 0xC00000 (-23) ∧
    unpack (fmtOf .f32) 1 = .fin false 1 (-149) := by decide +kernel

/-- A thread of context 1 on site 0 with 2 MiB of memory at 0 and its own TCM at 0x4000_0000 mapped for every access, and a
pointer to 0x2_0000 in g3. -/
def mapped : State :=
  { barrelG 0x0C00000000020000 0x0C00000040000000 with
    regs := [(cxrootAt 1, 1)],
    sites := [(0, { Site.initial 0 with status := .enabled })],
    tlb := [{ owner := .core (.site 0), ctx := 1, va := 0, log2 := 21, leaf := 0x1F, stale := false },
            { owner := .core (.site 0), ctx := 1, va := 0x40000000, log2 := 21, leaf := 0x1F00000001F, stale := false },
            { owner := .core (.site 0), ctx := 1, va := 0x80000000, log2 := 21, leaf := 0x13, stale := false },
            { owner := .core (.site 0), ctx := 1, va := 0xC0000000, log2 := 21, leaf := 0x1200000001F, stale := false }] }

theorem wit_DecodeTables : barrel.threadTable 0 = none ∧ ((barrelG 0x20004 0).gr 3).toNat % 64 ≠ 0 ∧ ((barrelG 0x20040 0).gr 3).toNat % 64 = 0 ∧
    floats.fsource .f32 0 = .fin false 0 (-149) := by decide +kernel

/-- A TBLD of slot 1 under way whose granules have all been read: +0 throughout, or a NaN throughout. -/
def tabling (v : BitVec 128) : State :=
  { mapped with th := { mapped.th with st := .wait, wait := .table 1 0x0C00000000020000 9 ((List.range' 0 64).map fun i => (i, v)) } }

theorem tableRead_all (s : State) (p : Word) (got : Sparse (BitVec 128)) (v : BitVec 128) (k : Nat) : ∀ (i : Nat) (acc : List (BitVec 128)),
    (∀ j, i ≤ j → j < i + k → (got.find? fun g => g.1 = j) = some (j, v) ∧ lineRead got j = true) →
    s.tableRead p got k i acc = (s, .ok (acc ++ List.replicate k v)) := by
  induction k with
  | zero => intro i acc _; simp [State.tableRead]
  | succ k ih =>
    intro i acc h
    rw [State.tableRead, (h i (Nat.le_refl i) (by omega)).1]
    simp only [(h i (Nat.le_refl i) (by omega)).2, Bool.not_true, Bool.false_eq_true, and_false, if_false]
    rw [ih (i + 1) _ fun j a b => h j (by omega) (by omega), List.append_assoc, List.replicate_succ]
    rfl

theorem mem_imageWords_replicate (w : BitVec 32) (n : Nat) (v : BitVec 128) (h : w ∈ imageWords (List.replicate n v)) :
    w ∈ imageWords [v] := by
  obtain ⟨x, hx, hw⟩ := List.mem_flatMap.mp h
  exact List.mem_flatMap.mpr ⟨x, List.mem_singleton.mpr (List.eq_of_mem_replicate hx), hw⟩

theorem wit_DecodeTables_load : (tabling 0).earlierTable (tabling 0).th.core 1 9 = none ∧ ((tabling 0).site 0).issued[1] ≤ 9 ∧
    (tabling 0).th.onBarrel = true := by decide +kernel

theorem find_granule (v : BitVec 128) (n : Nat) : ∀ a j, a ≤ j → j < a + n →
    (((List.range' a n).map fun i => (i, v)).find? fun g => g.1 = j) = some (j, v) := by
  induction n with
  | zero => intro a j h h'; omega
  | succ n ih =>
    intro a j h h'
    rw [List.range'_succ, List.map_cons, List.find?_cons]
    by_cases e : a = j
    · simp [e]
    · simpa [e] using ih (a + 1) j (by omega) (by omega)

theorem wit_DecodeTables_image (s : State) (p : Word) (v : BitVec 128) :
    s.tableRead p ((List.range' 0 64).map fun i => (i, v)) 64 0 [] = (s, .ok (List.replicate 64 v)) := by
  have all : ((List.range' 0 64).all fun j => lineRead ((List.range' 0 64).map fun i => (i, v)) j) = true := rfl
  have h := tableRead_all s p _ v 64 0 [] fun j a b => ⟨find_granule v 64 0 j a b, List.all_eq_true.mp all j (List.mem_range'_1.mpr ⟨a, b⟩)⟩
  rwa [List.nil_append] at h

theorem wit_DecodeTables_words (w : BitVec 32) :
    (w ∈ imageWords (List.replicate 64 (0 : BitVec 128)) → w.toNat < 2 ^ 19 ∧ isFinite19 (w.setWidth 19) = true) ∧
    (w ∈ imageWords (List.replicate 64 (0x0007FFFF0007FFFF0007FFFF0007FFFF : BitVec 128)) →
      w.toNat < 2 ^ 19 ∧ isFinite19 (w.setWidth 19) = false) := by
  have a : (imageWords [(0 : BitVec 128)]).all (fun w => w.toNat < 2 ^ 19 ∧ isFinite19 (w.setWidth 19) = true) = true := by decide +kernel
  have b : (imageWords [(0x0007FFFF0007FFFF0007FFFF0007FFFF : BitVec 128)]).all
      (fun w => w.toNat < 2 ^ 19 ∧ isFinite19 (w.setWidth 19) = false) = true := by decide +kernel
  exact ⟨fun h => of_decide_eq_true (List.all_eq_true.mp a w (mem_imageWords_replicate w _ _ h)),
    fun h => of_decide_eq_true (List.all_eq_true.mp b w (mem_imageWords_replicate w _ _ h))⟩

theorem wit_ChecksInOrder :
    (0x1FFFC : Int) = (((0x0C0000000001FFFC#64).toNat % 2 ^ 52 : Nat) + (0#12).toInt * 8) % 2 ^ 52 ∧ 0x1FFFC % 8 ≠ 0 ∧
    (0xFFF8 : Int) = (((0xC00000000000FFF8#64).toNat % 2 ^ 52 : Nat) + (0#12).toInt * 8) % 2 ^ 52 ∧
    (0x0010000000020000#64).toNat / 2 ^ 52 % 64 ≠ 0 ∧ (0x20000#64).toNat / 2 ^ 58 % 4 = 0 ∧ (0x0400000000020000#64).toNat / 2 ^ 58 % 4 = 1 ∧
    2 ≤ (mapped.gr 3).toNat / 2 ^ 58 % 4 ∧ mapped.th.supervisor = false ∧ mapped.translate 0x20000 false = .ok (0x20000, 0x1F) ∧
    mapped.translate 0x80000000 false = .ok (0, 0x13) ∧ pteR 0x13 = false ∧ pteW 0x13 = false ∧
    mapped.translate 0xC0000000 false = .ok (0x12000000000, 0x1200000001F) ∧ pteR 0x1200000001F = true ∧ pteW 0x1200000001F = true ∧
    mapped.reachable 0x12000000000 (loadReq 8 .plain true) = false ∧ mapped.reachable 0x12000000000 (storeReq 8 .plain true false) = false ∧
    (mapped.isLocal 0x20000 && spaceOf (offsetOf 0x20000) == .device) = false ∧ mapped.sbuf = [] ∧
    mapped.tagSeen 0x20000 ≠ BitVec.ofNat 4 ((0x1C00000000020000#64).toNat / 2 ^ 60) ∧
    mapped.check 0x1C00000000020000 0x20000 (loadReq 8 .plain true) = .ok 0x20000 ∧
    mapped.check 0x1C00000000020000 0x20000 (storeReq 8 .plain true false) = .ok 0x20000 := by decide +kernel

theorem wit_PlainLoads : mapped.check (mapped.gr 3) (effective (mapped.gr 3) 0 8) (loadReq 8 .plain true) = .ok 0x20000 ∧
    mapped.check (mapped.gr 3) (effective (mapped.gr 3) 0x7FF 1) (loadReq 1 .nt false) = .ok 0x207FF ∧
    (mapped.isLocal 0x20000 && spaceOf (offsetOf 0x20000) == .device) = false ∧
    (mapped.sbuf.any fun x => decide (x.core = mapped.th.core) && x.overlaps 0x20000 8) = false ∧
    mapped.tagSeen 0x20000 = BitVec.ofNat 4 ((mapped.gr 3).toNat / 2 ^ 60) ∧ mapped.poisonSeen 0x20000 = false ∧ mapped.anyWatch = false ∧
    mapped.copyHeld 0x20000 = none ∧ hypNum mapped.th.thyp = 0 ∧ mapped.isLocal 0x20000 = true ∧
    (mapped.cache.filter fun x => decide (x.core = mapped.th.core)).length < 1024 := by
  decide +kernel

/-- `mapped` with a page of module 9, in reach, at 0x1_0000_0000. -/
def far : State :=
  { mapped with regs := [(cxrootAt 1, 1), (routecfgAt, 1 <<< 63), (rtmapAt 9, 1)],
                tlb := mapped.tlb ++ [{ owner := .core (.site 0), ctx := 1, va := 0x100000000, log2 := 21, leaf := 0x12000000001F, stale := false }],
                th := { mapped.th with g := mapped.th.g.set 5 0x0C00000100000000 } }

theorem wit_PlainLoads_far :
    (match far.check (far.gr 5) (effective (far.gr 5) 0 8) (loadReq 8 .plain true) with | .error (.wait (.remote false _ _ none)) => true | _ => false) = true ∧
    (match far.check (far.gr 5) (effective (far.gr 5) 0 8) (storeReq 8 .plain true false) with
      | .error (.wait (.remote true _ _ none)) => true | _ => false) = true ∧
    (match ({ far with th := { far.th with pass := true } } : State).check (far.gr 5) (effective (far.gr 5) 0 8) (loadReq 8 .plain true) with
      | .ok pa => far.isLocal pa == false && !(far.sbuf.any fun x => ofSlot far.th x && x.pa / 64 == pa / 64) | _ => false) = true := by
  decide +kernel

theorem wit_FullEmptyLoads : mapped.check (mapped.gr 4) (effective (mapped.gr 4) 0 8) (loadReq 8 .fec true) = .ok 0x1F000000000 ∧
    mapped.isLocal 0x1F000000000 = true ∧ spaceOf (offsetOf 0x1F000000000) ≠ .device ∧
    mapped.tagSeen 0x1F000000000 = BitVec.ofNat 4 ((mapped.gr 4).toNat / 2 ^ 60) ∧ mapped.poisonHome mapped.th.cx mapped.th.thyp 0x1F000000000 = false ∧
    mapped.anyWatch = false ∧ mapped.awaitsFlush = false ∧ mapped.mem.isFull (offsetOf 0x1F000000000) = false ∧
    ({ mapped with mem := mapped.mem.setFull 0x1F000000000 true } : State).mem.isFull (offsetOf 0x1F000000000) = true := by
  decide +kernel

theorem wit_StoresEnterTheBuffer : mapped.check (mapped.gr 3) (effective (mapped.gr 3) 0 8) (storeReq 8 .plain true false) = .ok 0x20000 ∧
    mapped.check (mapped.gr 3) (effective (mapped.gr 3) 0x800 16) (storeReq 16 .plain false true) = .ok 0x18000 ∧
    mapped.th.onBarrel = true ∧ mapped.ownTcm 0x20000 = false ∧ mapped.tokenNeeded 0x20000 = none ∧ mapped.versionBlocked 0x20000 = false ∧
    mapped.bufferFull = false ∧ mapped.anyWatch = false ∧ mapped.th.st = .run := by
  decide +kernel

/-- The same thread with a store of eight bytes, and with an atomic, in its core's buffer. -/
def buffered (k : StoreKind) : State :=
  { mapped with sbuf := [{ id := 4, core := .site 0, slot := 0, ctx := 1, tid := 7, hyp := 0, va := 0x20000, pa := 0x20000, size := 8,
                           data := 0x1122334455667788, kind := k, insn := 0, pc := 0 }] }

theorem wit_PlainLoads_forwarding : (buffered .plain).check ((buffered .plain).gr 3) (effective ((buffered .plain).gr 3) 0 8) (loadReq 8 .plain true) =
      .ok 0x20000 ∧ (∀ x ∈ (buffered .plain).sbuf, x.core = (buffered .plain).th.core ∧ x.overlaps 0x20000 8 = true ∧
        x.kind ∈ [StoreKind.plain, .fes, .nt] ∧ x.hyp = (buffered .plain).th.thyp) ∧ (buffered .plain).tagSeen 0x20000 = 0 ∧
    (∀ x ∈ (buffered (.atom .add .d 1)).sbuf, x.core = (buffered (.atom .add .d 1)).th.core ∧ x.overlaps 0x20000 8 = true ∧
      x.kind ∉ [StoreKind.plain, .fes, .nt]) ∧
    (buffered (.atom .add .d 1)).check ((buffered .plain).gr 3) (effective ((buffered .plain).gr 3) 0 8) (loadReq 8 .plain true) = .ok 0x20000 := by
  decide +kernel

theorem wit_StoresPerform : (buffered .plain).mem.wf ∧ (((buffered .plain).sbuf.find? fun e => e.id = 4 && !e.isAtom).isSome = true) ∧
    (∀ x ∈ (buffered .plain).sbuf, (buffered .plain).canPerform x = true ∧ (buffered .plain).isLocal x.pa = true ∧ hypNum x.hyp = 0 ∧
      (buffered .plain).regionOf x.core x.ctx (offsetOf x.pa) = none ∧ x.size ∈ [1, 2, 4, 8, 16]) ∧
    ((buffered .plain).cache.all fun l => !l.isDirty) = true ∧ mapped.ownTcm 0x1F000000000 = true ∧ mapped.sbuf = [] ∧
    mapped.check (mapped.gr 4) (effective (mapped.gr 4) 0 8) (storeReq 8 .plain true false) = .ok 0x1F000000000 := by
  decide +kernel

theorem wit_FencesAndFlushes : (mapped.th.onBarrel && mapped.pendingFault mapped.th.ctx) = false ∧ mapped.awaitsFlush = false ∧
    (0 : Fin 1024).val = ((barrelG 0 0).gr 3).toNat % 1024 ∧ (mapped.site 0).isDark = false ∧
    ({ mapped with sites := [(0, { Site.initial 0 with status := .dark })] } : State).site 0 = { Site.initial 0 with status := .dark } ∧
    SiteStatus.dark ≠ .enabled ∧ mapped.check (mapped.gr 3) (effective (mapped.gr 3) 0x7FF 64) (cacheReq 1 false) = .ok 0x3FFC0 ∧
    mapped.localHbm 0x3FFC0 = true ∧ (mapped.flushes.any fun g => g.target == .site 0) = false ∧
    mapped.check (mapped.gr 3) (effective (mapped.gr 3) 0x7FF 64) (prefReq .write) = .ok 0x3FFC0 ∧
    mapped.tagSeen 0x3FFC0 = BitVec.ofNat 4 ((mapped.gr 3).toNat / 2 ^ 60) ∧ mapped.poisonSeen 0x3FFC0 = false ∧
    (mapped.cache.filter fun x => decide (x.core = mapped.th.core)).length < 1024 := by
  decide +kernel

theorem wit_FencesAndFlushes_prefetch :
    (∃ e, (barrelG 0x20000 0).check ((barrelG 0x20000 0).gr 3) (effective ((barrelG 0x20000 0).gr 3) 0 64) (prefReq .read) = .error e ∧
      ∀ w, e ≠ .wait w) ∧
    (∃ addr va level table why, ({ mapped with tlb := [] } : State).check (mapped.gr 3) (effective (mapped.gr 3) 0 64) (prefReq .read) =
      .error (.wait (.walk addr va level table why))) := by
  refine ⟨⟨_, rfl, fun w h => ?_⟩, ⟨_, _, _, _, _, rfl⟩⟩
  cases h

/-- The way of a message in the witnesses. -/
def way : Way := { src := 1, dst := 2, num := 0 }

/-- The thread of `mapped` waits for a reply that grants slot 3 of site 9 for its visit. -/
def landing : State :=
  { mapped with th := { mapped.th with st := .wait, wait := .landing },
                land := [{ place := .slot 0 0, target := 9, grant := some (some 3), visit := true, stamp := 0, way := way }] }

theorem wit_TagsAndMigration : mapped.check (mapped.gr 3) (effective (mapped.gr 3) 0 16) (tagReq false) = .ok 0x20000 ∧
    mapped.check (mapped.gr 3) (effective (mapped.gr 3) 0 16) (tagReq true) = .ok 0x20000 ∧ mapped.anyWatch = false ∧ hypNum mapped.th.thyp = 0 ∧
    mapped.tokenNeeded 0x20000 = none ∧ mapped.bufferFull = false ∧ mapped.th.onBarrel = true ∧ mapped.ownTcm 0x20000 = false ∧
    mapped.check (mapped.gr 4) (effective (mapped.gr 4) 0 1) { cacheReq 1 false with rd := false } = .ok 0x1F000000000 ∧
    mapped.translate (effective (mapped.gr 4) 0 1) false = .ok (0x1F000000000, 0x1F00000001F) ∧ pteMig 0x1F00000001F = false ∧
    pteMig 0x3F = true ∧ tcmSite (offsetOf 0x1F000000000) = mapped.th.site ∧ mapped.th.intrap = false ∧ mapped.th.pass = false ∧
    landing.th.wait = .landing ∧ landing.sbuf = [] ∧ (landing.land.all fun l => !landing.overtakes l.way) = true ∧ (landing.land.map fun l => (l.grant, l.visit, l.place)) = [(some (some 3), true, landing.th.place)] := by
  decide +kernel

/-- The same module with region 5 over the page at 0x2_0000, its token as given, and a second thread of the context. -/
def region (t : Token) : State :=
  { mapped with regs := [(cxrootAt 1, 1), (rgnbaseAt 1, 1)],
                ctxs := (Vector.replicate 16 Ctx.reset).set 1 { Ctx.reset with regions := [(5, 0x20000, 12)], tokens := [t] },
                rest := [{ Thread.blank with place := .slot 1 0, ctx := 1, tid := 8 }] }

theorem wit_RegionTokens : mapped.check (mapped.gr 3) ((mapped.gr 3).toNat % 2 ^ 52) tokenReq = .ok 0x20000 ∧ mapped.localHbm 0x20000 = true ∧
    mapped.regionOf mapped.th.core mapped.th.cx (offsetOf 0x20000) = none ∧ (region (tokenFree 5)).regionOf (.site 0) 1 (offsetOf 0x20FFF) = some 5 ∧
    (region (tokenFree 5)).awaitsFlush = false ∧ ((region (tokenFree 5)).token 1 5).holder ≠ some (.thread 7) ∧
    ((region { tokenFree 5 with holder := some (.thread 7) }).token 1 5).holder = some (region (tokenFree 5)).th.holder ∧
    ((region { tokenFree 5 with holder := some (.thread 7) }).token 1 5).site = none ∧ (region (tokenFree 5)).pendingFault 1 = false ∧
    ((region (tokenFree 5)).findTid 1 8).isSome = true ∧ (region (tokenFree 5)).findTid 1 7 = some (region (tokenFree 5)).th ∧
    (let s : State := { region { tokenFree 5 with holder := some (.thread 7) } with
       tokmsgs := [.grant 1 5 (.thread 7) (.slot 0 0) way], th := { mapped.th with st := .wait, wait := .token 5 true 0x0C00000000020000 } }
     s.tokmsgs[0]? = some (.grant s.th.cx 5 s.th.holder (.slot 0 0) way) ∧ s.overtakes way = false ∧ s.th.wait = .token 5 true (s.gr 3) ∧
       (s.token s.th.cx 5).holder = some s.th.holder ∧
       s.findHolder s.th.cx s.th.holder = some s.th ∧ s.takesGrants s.th = true ∧ s.th.resident = true) ∧
    (let s : State := { region (tokenFree 5) with
       sites := [(1, { Site.initial 1 with status := .enabled })], tokmsgs := [.request 1 5 (.thread 8) (.slot 1 0) false way] }
     s.overtakes way = false ∧ (s.findHolder 1 (.thread 8)).any (fun u => s.takesGrants u) = true ∧ (s.token 1 5).holder = none) := by
  decide +kernel

/-! ### Single steps, with the values that the spec's worked examples give or that its tables fix -/

/-- What a register holds after an instruction that answers a next state. -/
def gAfter (i : Instr) (s : State) (r : Reg) : Option Word :=
  match exec i s with
  | .next t => some (t.gr r)
  | _ => none

/-- What a floating-point register and TFLAGS hold after an instruction that answers a next state. -/
def fAfter (i : Instr) (s : State) (r : Reg) : Option (Word × Nat) :=
  match exec i s with
  | .next t => some (t.fr r, t.th.tflags.toNat)
  | _ => none

/-- Where the pc stands after an instruction that answers a next state. -/
def pcAfter (i : Instr) (s : State) : Option Nat :=
  match exec i s with
  | .next t => some t.th.pc.toNat
  | _ => none

/-- The first lines of the worked example of R106's chapter: imm bit 19 fills bits 63:32, which LUIH replaces. -/
theorem test_lui : gAfter (.lui 3 0x80010) barrel 3 = some 0xFFFFFFFF80010000 := by decide +kernel
theorem test_ori : gAfter (.ori 3 3 7) (barrelG 0xFFFFFFFF80010000 0) 3 = some 0xFFFFFFFF80010007 := by decide +kernel
theorem test_luih : gAfter (.luih 3 0x64) (barrelG 0xFFFFFFFF80010007 0) 3 = some 0x0000006480010007 := by decide +kernel
theorem test_bfx : gAfter (.bfx 6 3 15 16) (barrelG 0x0000006480010007 0) 6 = some 0x8001 := by decide +kernel
theorem test_bfx_s : gAfter (.bfxS 9 3 15 16) (barrelG 0x0000006480010007 0) 9 = some 0xFFFFFFFFFFFF8001 := by decide +kernel
/-- 0x806C divided by 3, on a control core, which writes the result at once. -/
theorem test_divn : gAfter (.divn 5 3 4) { State.reset with th := { State.reset.th with g := (State.reset.th.g.set 3 0x806C).set 4 3 } } 5 = some 0x2ACE := by
  decide +kernel
theorem test_remn : gAfter (.remn 5 3 4) { State.reset with th := { State.reset.th with g := (State.reset.th.g.set 3 0x806C).set 4 3 } } 5 = some 2 := by
  decide +kernel
/-- R91: division truncates towards zero, and the remainder takes the dividend's sign. −7 by 2. -/
theorem test_div_truncates :
    gAfter (.div 5 3 4) { State.reset with th := { State.reset.th with g := (State.reset.th.g.set 3 (-7)).set 4 2 } } 5 = some (-3) ∧
    gAfter (.rem 5 3 4) { State.reset with th := { State.reset.th with g := (State.reset.th.g.set 3 (-7)).set 4 2 } } 5 = some (-1) := by
  decide +kernel
theorem test_jal_links : gAfter (.jal 3) { barrel with th := { barrel.th with pc := 0x200010 } } 1 = some 0x200014 ∧
    pcAfter (.jal 3) { barrel with th := { barrel.th with pc := 0x200010 } } = some 0x20001C := by decide +kernel
/-- R101: the jump reads its register before it writes the link, when both are one. -/
theorem test_jalr_reads_first : pcAfter (.jalr 3 3 4) (barrelG 0x200000 0) = some 0x200004 := by decide +kernel
/-- R84: ADD g5, g5, g5 doubles g5, and R87: sums wrap. -/
theorem test_add_doubles : gAfter (.add 3 3 3) (barrelG 21 0) 3 = some 42 := by decide +kernel
theorem test_add_wraps : gAfter (.add 5 3 4) (barrelG 0xFFFFFFFFFFFFFFFF 2) 5 = some 1 := by decide +kernel
/-- R8: g0 reads zero and discards what is written to it. -/
theorem test_g0 : gAfter (.addi 0 3 1) (barrelG 21 0) 0 = some 0 := by decide +kernel
/-- R88: the count is taken modulo 64. -/
theorem test_shl_modulo : gAfter (.shl 5 3 4) (barrelG 1 65) 5 = some 2 ∧ gAfter (.sra 5 3 4) (barrelG 0x8000000000000000 63) 5 = some (-1) ∧
    gAfter (.ror 5 3 4) (barrelG 1 1) 5 = some 0x8000000000000000 := by decide +kernel
/-- R90: the two high halves of −1 times −1 differ, and zero has 64 leading zeros. -/
theorem test_mulh : gAfter (.mulh 5 3 4) (barrelG (-1) (-1)) 5 = some 0 ∧ gAfter (.mulhn 5 3 4) (barrelG (-1) (-1)) 5 = some 0xFFFFFFFFFFFFFFFE ∧
    gAfter (.clz 5 3) (barrelG 0 0) 5 = some 64 := by decide +kernel
/-- R96: LEA keeps tag and rights and wraps in bits 51:0. -/
theorem test_lea : gAfter (.lea 5 3 4 3) (barrelG 0x1C0FFFFFFFFFFFF8 1) 5 = some 0x1C00000000000000 := by decide +kernel
/-- R102: LOOP from 1 falls through, and from 0 wraps and is taken. -/
theorem test_loop : pcAfter (.loop 3 (-2)) (barrelG 1 0) = some 4 ∧ gAfter (.loop 3 2) (barrelG 0 0) 3 = some (-1) ∧
    pcAfter (.loop 3 2) (barrelG 0 0) = some 8 := by decide +kernel
/-- R99: the signed and the unsigned order of −1 and 1. -/
theorem test_branches : pcAfter (.blt 3 4 4) (barrelG (-1) 1) = some 16 ∧ pcAfter (.bltn 3 4 4) (barrelG (-1) 1) = some 4 := by decide +kernel
/-- R256: the CRC-32C of the digits 1 to 9, with the usual first value and last complement, is 0xE306_9283. -/
theorem test_crcc : ∃ v, gAfter (.crcc 5 3 4 0) (barrelG 0xFFFFFFFF 0x3837363534333231) 5 = some v ∧
    gAfter (.crcc 5 3 4 1) (barrelG v 0x39) 5 = some (0xE3069283 ^^^ 0xFFFFFFFF) := ⟨_, rfl, by decide +kernel⟩
/-- The table example of the floating-point chapter: 1 scaled by 2^−3, and 3 by the same, in F32. -/
theorem test_fscl : fAfter (.fscl .f32 2 2 3 .dyn)
    { barrelG (-3) 0 with th := { (barrelG (-3) 0).th with f := (barrelG (-3) 0).th.f.set 2 0x3F800000 } } 2 = some (0x3E000000, 0) := by decide +kernel
theorem test_icvf : fAfter (.icvf .f32 5 3 .i64 .dyn) (barrelG 100 0) 5 = some (0x42C80000, 0) := by decide +kernel
/-- R112, R133: infinity less infinity gives the canonical NaN with NV, bit 4 of TFLAGS. -/
theorem test_fadd_invalid : fAfter (.fadd .f32 6 1 5 .dyn) { floats with th := { floats.th with f := floats.th.f.set 5 0x7F800000 } } 6
    = some (0x7FC00000, 16) := by decide +kernel
/-- R114, R136: a conversion saturates with NV. −2 as N8 is 0. -/
theorem test_fcvi_saturates : gAfter (.fcvi .f32 7 5 .n8 .dyn) floats 7 = some 0 := by decide +kernel
/-- R155, R7: a byte loads with its sign, and memory that nothing has written reads zero. -/
theorem test_load_clear : gAfter (.ldB 6 3 .plain 0) mapped 6 = some 0 := by decide +kernel
theorem test_load_sign : gAfter (.ldB 6 3 .plain 0) { mapped with mem := Mem.cleared.write 0x20000 8 0x80 } 6 = some 0xFFFFFFFFFFFFFF80 := by
  decide +kernel
/-- R161: the tag of a granule. -/
theorem test_tgld : gAfter (.tgld 10 3 0) { mapped with mem := Mem.cleared.setTag 0x20000 0 } 10 = some 0 := by decide +kernel

theorem wit_Atomics : mapped.mem.wf ∧ mapped.sbuf = [] ∧ (mapped.cache.all fun l => !l.isDirty) = true ∧ mapped.anyWatch = false ∧
    hypNum mapped.th.thyp = 0 ∧ mapped.isLocal 0x20000 = true ∧ mapped.tokenNeeded 0x20000 = none ∧
    mapped.tagHome 0x20000 = BitVec.ofNat 4 ((mapped.gr 3).toNat / 2 ^ 60) ∧ mapped.poisonHome mapped.th.cx mapped.th.thyp 0x20000 = false ∧
    mapped.check (mapped.gr 3) ((mapped.gr 3).toNat % 2 ^ 52) (atomReq 4) = .ok 0x20000 ∧
    mapped.check (mapped.gr 3) ((mapped.gr 3).toNat % 2 ^ 52) { atomReq 8 with posted := true } = .ok 0x20000 := by decide +kernel

/-- The same thread with a ring of four slots of eight bytes in its TCM, its slot states as given and three counts. -/
def ring (lo rsv cns rls : Nat) : State :=
  { mapped with mem := ((((mapped.mem.write 0x1F000000000 8 0x0C00000040000100).write 0x1F000000008 8 0x304).write 0x1F000000010 4 rsv).write
      0x1F000000018 4 cns).write 0x1F000000020 4 rls |>.write 0x1F000000028 8 lo }

theorem wit_Rings : ((ring 0 0 0 0).readRing 0x1F000000000).bad = false ∧ (ring 0 0 0 0).mem.wf ∧ (ring 0 0 0 0).th.fwd = [] ∧
    hasFull 0x1F000000000 = true ∧ (ring 0 0 0 0).ringTags ((ring 0 0 0 0).gr 4) 0x1F000000000 = none ∧
    (ring 0 0 0 0).check ((ring 0 0 0 0).gr 4) (((ring 0 0 0 0).gr 4).toNat % 2 ^ 52) ringReq = .ok 0x1F000000000 ∧
    gap32 ((ring 0 0 0 0).readRing 0x1F000000000).rsv ((ring 0 0 0 0).readRing 0x1F000000000).rls < ((ring 0 0 0 0).readRing 0x1F000000000).count := by
  decide +kernel

theorem wit_Rings_states : ((ring 0x55 4 0 0).readRing 0x1F000000000).bad = false ∧
    ((ring 0x55 4 0 0).readRing 0x1F000000000).count ≤ gap32 ((ring 0x55 4 0 0).readRing 0x1F000000000).rsv ((ring 0x55 4 0 0).readRing 0x1F000000000).rls ∧
    ((ring 0x55 4 0 0).readRing 0x1F000000000).indexOf 0x40000118 = some 3 ∧ ((ring 0x55 4 0 0).readRing 0x1F000000000).state 3 = 1 ∧
    ((ring 0x02 1 0 0).readRing 0x1F000000000).cns ≠ ((ring 0x02 1 0 0).readRing 0x1F000000000).rsv ∧
    ((ring 0x02 1 0 0).readRing 0x1F000000000).state 0 = 2 ∧ ((ring 0x03 1 1 0).readRing 0x1F000000000).state 0 = 3 ∧
    ((ring 0 0 0 0).readRing 0x1F000000000).indexOf 0x40000104 = none := by decide +kernel

/-- The same thread with barrier 0 of its context, and what it remembers of it, as given. -/
def atBarrier (x : Barrier) (av : Bool) : State :=
  { mapped with ctxs := (Vector.replicate 16 Ctx.reset).set 1 { Ctx.reset with bars := Ctx.reset.bars.set 0 x },
                th := { mapped.th with g := Thread.blank.g.set 4 0x0C00000040000000, av := Thread.blank.av.set 0 av } }

theorem wit_BarriersAndTimedWaits : (atBarrier Barrier.reset false).th.cx = 1 ∧ ((atBarrier Barrier.reset false).gr 3).toNat % 4 = 0 ∧
    ((atBarrier Barrier.reset false).bar 1 0).en = false ∧ ((atBarrier { Barrier.reset with en := true } true).bar 1 0).en = true ∧
    (atBarrier { Barrier.reset with en := true } true).th.av[0] = true ∧ (atBarrier Barrier.reset false).pendingFault 1 = false ∧
    Barrier.released { Barrier.reset with en := true } (atBarrier { Barrier.reset with en := true } true).th.aph[0] = false ∧
    Barrier.released { Barrier.reset with en := true, phase := 1 } (atBarrier Barrier.reset true).th.aph[0] = true ∧
    tget 0 Barrier.reset.arr (atBarrier Barrier.reset false).th.site < Barrier.reset.cnt ∧
    ((atBarrier { Barrier.reset with ready := true } true).bar 1 0).ready = true ∧ ((atBarrier Barrier.reset false).gr 5) = 0 ∧
    (1 : Word) ≠ 0 ∧ (0 : Word).toNat ≤ ((atBarrier Barrier.reset false).tnow (atBarrier Barrier.reset false).th).toNat ∧
    mapped.check (mapped.gr 4) ((mapped.gr 4).toNat % 2 ^ 52) wtfeReq = .ok 0x1F000000000 ∧ mapped.fullHome 0x1F000000000 = false ∧
    ({ mapped with mem := mapped.mem.setFull 0x1F000000000 true } : State).fullHome 0x1F000000000 = true := by decide +kernel

/-- The same thread with hypothesis 1 of its context live under H0, and its handle in g5. -/
def supposing (depth : Nat) : State :=
  { mapped with ctxs := (Vector.replicate 16 Ctx.reset).set 1 { Ctx.reset with
                  hyps := [(1, { hypFree with st := .live, gen := 1, parent := 0, depth := depth })] },
                th := { mapped.th with g := mapped.th.g.set 5 0x10001 } }

theorem wit_Hypotheses : canonHandle (((supposing 1).gr 5).setWidth 32) = 0x10001 ∧ (supposing 1).liveHyp 1 0x10001 = true ∧
    (supposing 1).liveHyp 1 0x20001 = false ∧ ((supposing 1).ctx 1).hypQ = [] ∧ (supposing 8).hypDepth 1 0x10001 = 8 ∧
    (supposing 7).hypDepth 1 0x10001 < 8 ∧ ((supposing 1).hyp 1 2).st = .free ∧ (∀ m, m < 2 → 0 < m → ((supposing 1).hyp 1 m).st ≠ .free) ∧
    hypNum 0x10001 ≠ 0 ∧ (supposing 1).th.thyp ≠ 0x10001 ∧ (supposing 1).parentHyp 1 0x10001 = 0 ∧ (supposing 1).vers = [] ∧
    (∀ u ∈ (supposing 1).threads, u.thyp ≠ 0x10001) ∧ (supposing 1).mem.wf ∧
    ({ supposing 1 with th := { State.reset.th with sup := false, sv := { State.reset.th.sv with sctx := 1 }, g := (supposing 1).th.g } } : State).th.cx = 1 ∧
    ({ supposing 1 with th := { State.reset.th with sup := false, sv := { State.reset.th.sv with sctx := 1 }, g := (supposing 1).th.g } } : State).th.onBarrel = false ∧ (supposing 1).hwaitStatus 0 = some 0 ∧ (supposing 1).hwaitStatus 0x30001 = some 3 ∧
    (supposing 1).hwaitStatus 0x10001 = none := by decide +kernel

/-- All 255 hypotheses of context 1 live. -/
def crowdedHyps : State :=
  { mapped with ctxs := (Vector.replicate 16 Ctx.reset).set 1 { Ctx.reset with
                  hyps := (List.range 255).map fun k => (k + 1, { hypFree with st := .live, gen := 1, depth := 1 }) } }

theorem wit_Hypotheses_full : ∀ n, n < 256 → 0 < n → (crowdedHyps.hyp 1 n).st ≠ .free := by decide +kernel

/-- The same thread with its site's arrival queue as given and its slot 0 claimed by an instance of context 2. -/
def accumulating (q : List AccEvent) (claim : Option (Fin 16)) : State :=
  { mapped with sites := [(0, { Site.initial 0 with status := .enabled, acc := { AccStore.cleared with queue := q, claim := AccStore.cleared.claim.set 0 claim } })] }

theorem wit_AccumulatorStore : State.reset.th.onControl = true ∧ State.reset.accAllowed 0 = false ∧ (accumulating [] (some 2)).accAllowed 0 = false ∧
    (accumulating [] none).accAllowed 0 = true ∧ ((accumulating [] none).accQueue 0).length < 32 ∧ (accumulating [] none).accQueue 0 = [] ∧
    32 ≤ ((accumulating (List.replicate 32 (.clear 0 0)) none).accQueue 0).length ∧
    (accumulating [.clear 0 0] none).accQueue 0 = [.clear 0 0] ∧ ((accumulating [.clear 0 0] none).site 0).acc.claim[0] = none ∧
    mapped.check (mapped.gr 3) ((mapped.gr 3).toNat % 2 ^ 52) (cacheReq 64 false) = .ok 0x20000 ∧
    (mapped.lineLoad (mapped.gr 3) 0x20000 4 []).toOption.isSome = true ∧ ((barrelG 0 0x100).gr 4).getLsbD 8 = true := by decide +kernel

theorem wit_LaunchInstructions : mapped = mapped.releaseTo .device := rfl

theorem wit_LaunchInstructions_read : (mapped.th.onBarrel && mapped.pendingFault mapped.th.ctx) = false ∧
    mapped.check (mapped.gr 3) (plainAddress (mapped.gr 3)) (lineReq 64) = .ok 0x20000 ∧
    mapped.check (mapped.gr 3) (plainAddress (mapped.gr 3)) (lineReq 4) = .ok 0x20000 ∧
    (mapped.loadDesc (mapped.gr 3) (plainAddress (mapped.gr 3)) 0x20000).toOption.isSome = true ∧ (mapped.queued 1 0).length < 16 ∧ (mapped.ctx 1).resetting = false := by
  decide +kernel

/-- A processing element with credit on every output, the flits given on inputs 2, 5 and 7, an FP32 or other header of scale 0
of the given type in force on A, B and C. -/
def pe (a b c : List Flit) (ety : Nat) : PE :=
  { ins := (((Vector.replicate 16 []).set 2 a).set 5 b).set 7 c, tookN := 0, nextN := 0, tookR := 0, credit := Vector.replicate 16 4,
    node := { NodeState.fresh with hdrs := Vector.replicate 3 { set := true, word := headerWord ety 0 0 0 0, psn := false } },
    router := RouterState.fresh }

/-- A configuration of one page with the given node and router words. -/
def oneCfg (nodes routes : Sparse (BitVec 64)) : Sys2Proof.Machine.Config :=
  { extw := 1, exth := 1, doors := [], pages := [{ px := 0, py := 0, matrix := false, nodes := nodes, routes := routes,
                                                   ranges := Vector.replicate 4 [], good := true }], links := [], bytes := 0 }

/-- An instance of one page on site 0 in RUN, with one processing element as given. -/
def one (n : Nat) (p : PE) : Inst :=
  { ctx := 1, slot := 2, num := 0, uid := 0, st := .run, back := .idle, cfg := oneCfg [] [], group := 0, version := 1, anchor := (0, 0),
    sites := [0], area := [0], graph := none, hyp := 0, prio := 0, placed := 0, pes := [(n, p)], ports := [], secs := [], wires := [],
    credits := [], arms := [], serais := [], range := none, taken := 0, segTiles := 0, segCmd := 0, final := false, retired := false,
    flags := 0, slots := [], savedAcc := [], pend := .none, waited := 0, active := 0, shut := none, shutAt := 0, tabs := [], poolAt := 0,
    cmdTok := 0, stopped := false, passed := false, tape := [], wt := 50 }

/-- A module with that instance, its element about to fire, and a command of context 1 about to execute. -/
def fabric (n : Nat) (x : Inst) : State :=
  { mapped with insts := [x], pe := { inst := 0, page := 0, pe := n },
                cmd := { ctx := 1, id := 5, stream := .port, hyp := 0, site := 0, slot := 0 },
                ctxs := (Vector.replicate 16 Ctx.reset).set 1 { Ctx.reset with
                  slots := Ctx.reset.slots.set 2 (some (oneCfg [] [])),
                  accepted := [{ word := 0, id := 5, stream := .port, hyp := 0, site := 0, slot := 0, begun := true, wrote := false, upTo := 0 }] } }

/-- A data flit, with EOT. -/
def flit (v : Word) : Flit := dataFlit v 0x08 false

/-- A command in a streamer's queue. -/
def anyQueued : Queued := { ctx := 1, cmd := 0, word := 0, stream := .port, hyp := 0, site := 0, slot := 0 }

theorem wit_StreamerCommands :
    (((fabric 17 (one 17 (pe [] [] [] 8))).ctx 1).accepted.find? fun (x : Command) => decide (x.id = 5)).isSome = true ∧
    ((fabric 17 (one 17 (pe [] [] [] 8))).streamer 127).queue.length < 64 ∧ (127 : Nat) < 128 ∧ (0x80#8).toNat = 128 ∧
    (∀ r, r < 128 → ((fabric 17 (one 17 (pe [] [] [] 8))).streamer 0).queue.length ≤ ((fabric 17 (one 17 (pe [] [] [] 8))).streamer r).queue.length) ∧
    64 ≤ (({ mapped with streams := [(3, { Streamer.reset with queue := List.replicate 64 anyQueued })] } : State).streamer 3).queue.length := by decide +kernel

theorem wit_InstanceCommands : let x := one 17 (pe [] [] [] 8)
    (decide (x.ctx = 1) && decide (x.slot = (2#3).toNat) && (decide (0x3FF#10 = 0x3FF) || decide (x.num = (0x3FF#10).toNat))) = true ∧
    ((fabric 17 x).ctx 1).slots[(2#3).toFin] = some (oneCfg [] []) ∧ ((fabric 17 x).ctx 1).slots[(3#3).toFin] = none ∧
    (0#10).toNat < (oneCfg [] []).pages.length ∧ (oneCfg [] []).pages.length ≤ (1#10).toNat ∧ (oneCfg [] []).isOutput 255 = false ∧
    (oneCfg [] []).doors.length ≤ (0#8).toNat := by decide +kernel

theorem wit_SequencerCommands : let s := fabric 17 { one 17 (pe [] [] [] 8) with st := .idle }
    (2 : Fin 8).val = (2#3).toNat ∧ s.cmd.stream = .port ∧ (s.ctx 1).slots[2] = some (oneCfg [] []) ∧ (s.instsOf 1 2).length = 1 ∧
    s.instsOf 1 3 = [] ∧ 0 < (900#10).toNat ∧ (900#10).toNat ≤ 900 ∧ 2 ∉ (s.ctx 1).portRanges ∧ 0 < [1, 2].sum ∧ (∀ e ∈ s.insts, 0 < e.wt) ∧
    (((s.ctx 1).accepted.find? fun (x : Command) => decide (x.id = 5)).isSome = true) ∧ s.syncReady 1
      { word := 0, id := 5, stream := .port, hyp := 0, site := 0, slot := 0, begun := true, wrote := false, upTo := 0 } = true ∧
    s.progBusy 0 0 = false ∧ (∀ e ∈ s.insts, e.st = .idle ∧ e.back ≠ .run ∧ e.pend ≠ .release) := by decide +kernel

theorem wit_Nodes : let x := one 17 (pe [flit 5] [flit 7] [flit 1] 3)
    (fabric 17 x).insts[(fabric 17 x).pe.inst]? = some x ∧ (fabric 17 x).instActs x = true ∧ x.space 0 17 0x0042 = true ∧ (x.peAt 0 17).node.recovering = false ∧
    x.head 0 17 2 true = some (flit 5) ∧ x.head 0 17 5 true = some (flit 7) ∧ x.head 0 17 7 true = some (flit 1) ∧
    (flit 5).hdr = false ∧ (flit 5).sot = false ∧ (flit 7).eot = (flit 5).eot ∧ ((x.peAt 0 17).node.hdrAt 0).set = true ∧ (flit 5).psn = false ∧
    ((x.peAt 0 17).node.hdrAt 2).psn = false ∧ bits ((x.peAt 0 17).node.hdrAt 1).word 48 8 = 0 ∧ (flit 5).poison.psn = true := by decide +kernel

/-- The element of a memory port beside a port as given. -/
def porting (p : PortState) : Inst := { one 0 (pe [flit 0x40] [flit 9] [] 3) with ports := [(0, p)] }

theorem wit_NodesThatHold : let x := porting PortState.fresh
    (fabric 0 x).insts[(fabric 0 x).pe.inst]? = some x ∧ (fabric 0 x).instActs x = true ∧ (fabric 0 x).evictBlocked x 0 0 = false ∧ x.space 0 0 0x0001 = true ∧ (x.peAt 0 0).node.recovering = false ∧
    x.head 0 0 2 true = some (flit 0x40) ∧ (flit 0x40).psn = false ∧ (x.peAt 0 0).node.elems = [] ∧ (x.peAt 0 0).node.acc = none ∧
    (x.peAt 0 0).node.pending = [] ∧ portOf 0 = some 0 ∧ (x.port 0 0).spills < 64 ∧ (x.port 0 0).flights < 64 ∧
    0 < min (lanesOf 3) ((bits ((x.peAt 0 0).node.hdrAt 0).word 16 16 + 1) * (bits ((x.peAt 0 0).node.hdrAt 0).word 0 16 + 1)) := by decide +kernel

theorem wit_NodesThatHold_door : let x := { one 17 (pe [flit 5] [] [] 10) with serais := [{ seraiFresh with tiles :=
      [{ num := 0, header := flit 0, hsent := false, marks := [], left := 0, closed := false }] }] }
    x.serais[0]? = some { seraiFresh with tiles := [{ num := 0, header := flit 0, hsent := false, marks := [], left := 0, closed := false }] } ∧
    seraiFresh.room 4 = true ∧ (x.serais.all fun v => v.tiles.all (·.closed)) = false := by decide +kernel

theorem wit_NodesThatHold_section : Section.fresh.skip = false ∧ Section.fresh.hold = false ∧ Section.fresh.step = 0 ∧ Section.fresh.refs = [] ∧ Section.fresh.eoks = [] ∧
    ({ one 0 (pe [flit 1] [flit 1] [] 3) with cfg := oneCfg [(0, 0x3000250000000000)] [] } : Inst).nmmas 0 = [0] ∧
    (Section.fresh.rows.toList.any fun (r : RowBuf × RowBuf) => r.1.ready || r.2.ready) = false ∧ (flit 1).agreement = (flit 1).agreement ∧
    (let st : EdgeState := tget EdgeState.fresh [(0, { EdgeState.fresh with hdr := { set := true, word := 0, psn := false } })] 0
     st.hdr = { set := true, word := 0, psn := false } ∧ st.last = false ∧ st.blks = []) := by decide +kernel

theorem wit_Routers : let x := one 17 (pe [flit 1] [flit 7] [flit 0] 8)
    (fabric 17 x).instActs x = true ∧ (fabric 17 x).openHyp x.ctx x.hyp = true ∧
    x.head 0 17 2 false = some (flit 1) ∧ (flit 1).hdr = false ∧ (x.peAt 0 17).router.inUnit = false ∧ (x.peAt 0 17).router.full = false ∧
    (x.peAt 0 17).router.carry = .init ∧ (x.peAt 0 17).router.held.length < 16 ∧ (x.peAt 0 17).router.active = false ∧
    (x.peAt 0 17).router.acts < 64 ∧ (x.peAt 0 17).router.dones < 1 ∧ (∀ ch ∈ maskChans 0xFFFF, 0 < (x.peAt 0 17).credit[ch]) ∧
    x.head 0 17 9 false = none ∧ (flit 1).eot = true ∧
    ({ RouterState.fresh with inUnit := true, carry := .drain, active := true, full := true, held := [flit 1] } : RouterState).held[0]? = some (flit 1) := by
  decide +kernel

/-- The thread of `mapped` in WAIT for `w`. -/
def waiting (w : Wait) : State := { mapped with th := { mapped.th with st := .wait, wait := w } }

/-- A launch of one thread on queue 0 that has started. -/
def aLaunch : Launch :=
  { id := 3, queue := 0, desc := { words := Vector.replicate 16 0 }, lnci := none, hyp := 0, count := 1, landed := 0, ended := 0, good := 0,
    fault := false, flags := 0, fcnt := 0, fseq := 0, started := true, version := 1, prio := 0, group := 0, status := none, serial := 0 }

/-- Context 1 with that launch in its queues, thread contexts to give, queue 0 enabled in a group of site 0 alone. -/
def launching (l : Launch) : State :=
  { mapped with th := { mapped.th with st := .drain, origin := .launch 3 },
                regs := [(cxrootAt 1, 1), (lqcfgAt 1 0, 1 <<< 63), (spbaseAt 1, 1), (spcntAt 1, 4)],
                groups := { Groups.reset with force := [(0, { desc := 0x8000000001010001, ranks := [(0, rankEntry 0)] })] },
                ctxs := (Vector.replicate 16 Ctx.reset).set 1 { Ctx.reset with queues := [l] } }

theorem wit_EventsOfThreads_waits : (waiting (.version 0x20000)).th.place = .slot 0 0 ∧ (waiting (.version 0x20000)).th.cx = 1 ∧ (waiting (.version 0x20000)).th.wait = .version 0x20000 ∧
    (waiting (.version 0x20000)).th.st = .wait ∧ (waiting (.version 0x20000)).th.resident = true ∧ (waiting (.version 0x20000)).isOrphan = false ∧
    ({ mapped with th := { mapped.th with st := .load } } : State).th.resident = true ∧
    (launching aLaunch).th.st = .drain ∧ (launching aLaunch).th.origin = .launch 3 ∧ aLaunch ∈ ((launching aLaunch).ctx 1).queues ∧
    ((launching aLaunch).ctx 1).tokens = [] ∧ (launching aLaunch).pendingFault 1 = false ∧
    (∀ u ∈ (launching aLaunch).rest, u.place ≠ .slot 0 0 ∧ u.place ≠ .caravan 0 0) ∧
    (waiting (.full 0x1F000000000 8 0 0 (.zero 1) false false 0 0)).fullHome 0x1F000000000 = false ∧ mapped.recordedAt 0x1F000000000 < 64 ∧
    (waiting (.signal 3 0)).th.sigs = 0 ∧ (0 : Word).toNat ≤ ((waiting (.signal 3 0)).tnow (waiting (.signal 3 0)).th).toNat := by decide +kernel

/-- The thread of `mapped` walking at a level for an address whose entry is as given. -/
def walking (level e : Nat) : State :=
  { waiting (.walk 0x30000 0x30000 level 0 .access) with mem := mapped.mem.write (walkEntry level 0 0x30000) 8 e }

theorem wit_EventsOfThreads_walks :
    (match (walking 0 0x10001).walkStep 1 0 ((walking 0 0x10001).walkRead 0 0 0x30000) with | .table pa => pa == 0x10000 | _ => false) = true ∧
    (match (walking 3 0x3001F).walkStep 1 3 ((walking 3 0x3001F).walkRead 3 0 0x30000) with | .leaf e => e == 0x3001F | _ => false) = true ∧
    (match (walking 0 0).walkStep 1 0 ((walking 0 0).walkRead 0 0 0x30000) with | .fault k => k == 9 | _ => false) = true ∧
    ((walking 0 0).tlb.filter fun (x : TlbEntry) => decide (x.owner = .core (walking 0 0).th.core)).length < 1024 := by decide +kernel

/-- A page of context 1 that a fill is bringing from module 2. -/
def filling : State :=
  { mapped with mem := Mem.cleared.write 0x400 8 0x5005E, regs := [(cxrootAt 1, 1), (cxpeerAt 1, 0x8000000000000002), (routecfgAt, 1 <<< 63), (rtmapAt 2, 1)],
                ctxs := (Vector.replicate 16 Ctx.reset).set 1 { Ctx.reset with fills := [(0x400, 0x50000)] } }

theorem wit_EventsOfThreads_fill : (filling.ctx 1).fills = [(0x400, 0x50000)] ∧ (∀ d, d ≠ 1 → (filling.ctx d).fills = []) ∧ filling.mem.wf ∧
    filling.peers.wf ∧ filling.peers.poison = [] ∧ filling.fillOpen 1 = true ∧ filling.isLocal 0x400 = true ∧ filling.readHome 0 0 0x400 8 = 0x5005E ∧
    offsetOf (pteAddr 0x5005E) = 0x50000 ∧ spaceOf (offsetOf 0x400) = .hbm ∧ 0x50000 % 16 = 0 ∧
    (bits (filling.reg (cxpeerAt 1)) 0 11 * 2 ^ 41 + 0x50000) % 16 = 0 := by decide +kernel

/-- A record with nothing in it. -/
def noRecord : Record :=
  { addr := 0, tid := 0, insn := 0, cause := 0, src := 0, ctx := 0, expt := 0, fndt := 0, hyp := 0, site := 0, unit := 0, lane := 0, elem := 0,
    time := 0, pc := 0, detail := 0, seq := 0 }

/-- A control core in user mode under a hypothesis that is not live. -/
def orphaned : State := { user with th := { user.th with thyp := 0x10001 } }

/-- The thread of `mapped` at a landing at site 9, which takes landings. -/
def toLand (st : SiteStatus) : State :=
  { waiting .landing with land := [{ place := .slot 0 0, target := 9, grant := none, visit := true, stamp := 0, way := way }],
                          sites := [(9, { Site.initial 9 with status := st, reserve := 8 })],
                          rest := [{ Thread.blank with place := .caravan 9 3, ctx := 1, tid := 8 }] }

theorem wit_EventsOfThreads_moves :
    (({ mapped with th := { mapped.th with watches := [{ n := 0, record := noRecord }] } } : State).watchDue = true) ∧
    orphaned.isOrphan = true ∧ orphaned.th.onControl = true ∧ orphaned.th.st = .run ∧ orphaned.th.wait = .none ∧
    (toLand .enabled).takesLandings 9 1 = true ∧ ((toLand .enabled).site 9).on = true ∧ ((toLand .enabled).openSlot 9).isSome = true ∧
    (toLand .closing).takesLandings 9 1 = false ∧ ((toLand .closing).land.all fun l => !(toLand .closing).overtakes l.way) = true ∧
    (({ toLand .enabled with tokmsgs := [.grant 1 5 (.thread 7) (.slot 0 0) { way with num := 0 }],
                             land := [{ place := .slot 0 0, target := 9, grant := none, visit := true, stamp := 0, way := { way with num := 4 } }] } : State).overtakes
      { way with num := 4 }) = true ∧ ((toLand .enabled).caravanAt 0).isSome = true ∧ ((toLand .enabled).ctx 1).resetting = false ∧
    ((toLand .enabled).site 9).status = .enabled := by decide +kernel

/-- `region` with a token request of thread 7 on its way. -/
def asking (t : Token) : State := { region t with tokmsgs := [.request 1 5 (.thread 7) (.slot 0 0) false way] }

theorem wit_EventsOfThreads_tokens : (asking (tokenFree 5)).tokmsgs[0]? = some (.request 1 5 (.thread 7) (.slot 0 0) false way) ∧ (asking (tokenFree 5)).overtakes way = false ∧
    (let s := region { tokenFree 5 with holder := some (.thread 8), called := true, used := true, queue := [(.thread 7, false)] }
     (s.token 1 5).queue = [(.thread 7, false)] ∧ (s.findHolder 1 (.thread 7)).any (fun u => s.takesGrants u) = true ∧ s.sbuf = [] ∧ s.cache = []) ∧
    (((asking (tokenFree 5)).findHolder 1 (.thread 7)).all fun x => (asking (tokenFree 5)).takesGrants x) = true ∧
    ((asking (tokenFree 5)).findHolder 1 (.thread 7)).isSome = true ∧ (Holder.thread 8 ≠ .thread 7) ∧
    ((asking (tokenFree 5)).token 1 5).holder = none ∧ ((asking (tokenFree 5)).token 1 5).region = 5 ∧
    ((asking { tokenFree 5 with holder := some (.thread 8) }).token 1 5).holder = some (.thread 8) ∧
    ((region { tokenFree 5 with holder := some (.thread 8), called := true, used := true }).token 1 5).called = true ∧
    ((region { tokenFree 5 with holder := some (.thread 8), called := true, used := true }).token 1 5).used = true ∧ 5 < 4096 ∧
    (region { tokenFree 5 with holder := some (.thread 8), called := true, used := true }).holderBusy 1 5 (.thread 8) = false ∧
    (tokenFree 5).queue = [] := by decide +kernel

/-- The core of `mapped` with a copy of a line of which the first byte is dirty. -/
def copied : State :=
  { mapped with cache := [{ core := .site 0, ctx := 1, line := 0x800, hyp := 0, data := 0xAB, dirty := 1, tags := 0, tdirty := 0, poison := 0,
                            writer := 0, whole := 0 }] }

theorem wit_EventsOfThreads_lines : copied.cache[0]?.isSome = true ∧ copied.mem.wf ∧ (∀ x ∈ copied.cache, hypNum x.hyp = 0 ∧ x.line * 64 + 64 ≤ 0x12000000000) ∧
    (∀ v ∈ mapped.vers, v.line ≠ 0x800) := by decide +kernel

/-- Context 1 with requests at its hypothesis controller for the thread of `mapped`, and a signal for it. -/
def served (q : HypReq) : State :=
  { waiting (.hyp 4) with ctxs := (Vector.replicate 16 Ctx.reset).set 1 { Ctx.reset with hypQ := [(4, q)] },
                          signals := [{ who := 0, ctx := 1, tid := 7, bits := 5, stamp := 0, way := way }], outmsgs := [(1, 0x10001)] }

theorem wit_EventsOfThreads_messages : ((served (.stat (.slot 0 0) 3 0)).ctx 1).hypQ = [(4, .stat (.slot 0 0) 3 0)] ∧
    ((served (.new (.slot 0 0) 3 0)).ctx 1).hypQ = [(4, .new (.slot 0 0) 3 0)] ∧ (served (.conf (.slot 0 0) 0)).th.wait = .hyp 4 ∧
    (served (.refute (.slot 0 0) 0)).signals[0]? = some { who := 0, ctx := 1, tid := 7, bits := 5, stamp := 0, way := way } ∧ (served (.refute (.slot 0 0) 0)).overtakes way = false ∧
    ((served (.refute (.slot 0 0) 0)).findTid 1 7).isSome = true ∧ (served (.refute (.slot 0 0) 0)).outmsgs[0]? = some (1, 0x10001) ∧
    (1039 < 1040 ∧ 1039 = 1024 + (15 : Fin 16).val) := by decide +kernel

theorem wit_EventsOfThreads_launches : let s := launching { aLaunch with started := false }
    ((s.headOf 1 0).isSome = true) ∧ (s.ctx 1).halted = false ∧ (s.ctx 1).resetting = false ∧ s.inOrder 1 { aLaunch with started := false } = true ∧
    bits aLaunch.desc.words[0] 0 2 = 0 ∧ aLaunch.lnci = none ∧ aLaunch.invalid aLaunch.count = false ∧ bit (s.reg (lqcfgAt 1 0)) 63 = true ∧
    s.liveHyp 1 (canonHandle (aLaunch.desc.words[2].setWidth 32)) = true ∧ aLaunch.count ≠ 0 ∧ (s.freeRecord 1).isSome = true ∧
    (s.bestSite 1 (s.groupNow (s.queueGroup 1 0)).members).isSome = true ∧ (launching aLaunch).wantsSlot 1 0 = true ∧
    ((launching aLaunch).bestSite 1 ((launching aLaunch).groupAt aLaunch.version aLaunch.group).members).isSome = true ∧
    (launching aLaunch).outranked 1 0 0 = false ∧ ((launching aLaunch).site 0).on = true ∧
    ((launching { aLaunch with landed := 1, ended := 1 }).ctx 1).queues[0]? = some { aLaunch with landed := 1, ended := 1 } := by decide +kernel

/-- An instance with a door at element 17, whose first request waits for a thread. -/
def doored : Inst :=
  { one 17 (pe [] [] [] 10) with
    cfg := { oneCfg [(17, 0x2370000000200000)] [] with doors := [{ entry := 0x1000, ordered := true, reply := 0, serai := 4, slots := 2, stack := 0 }] },
    serais := [{ seraiFresh with bound := some (0, 0), places := [{ st := .parked, ticket := 0, req := flit 6, pos := 0, tile := 0, stamp := 0,
                                                                    result := [], order := 0, index := 0, sent := 0 }] }] }

theorem wit_EventsOfThreads_doors : let s := { launching aLaunch with insts := [doored] }
    s.insts[0]? = some doored ∧ (∀ v ∈ doored.serais, v.bound = some (0, 0) ∧ ((v.places.find? fun (t : Ticket) => t.st == .parked).isSome = true)) ∧
    s.instActs doored = true ∧ (s.site 0).on = true ∧ doored.doorAt 0 = some (0, 17) ∧ s.doorSaved doored.ctx doored.uid 0 = none ∧ (s.freeRecord doored.ctx).isSome = true ∧
    (s.doorSlot doored.ctx (nearSites (doored.siteOf 0))).isSome = true ∧ 0 < (doored.door 0).slots ∧ doored.sites ≠ [] := by decide +kernel

/-- The module of `fabric` around `one 17` changed as given. -/
def engines (f : Inst → Inst) : State := fabric 17 (f (one 17 (pe [flit 5] [] [] 3)))

/-- An instance with a link from element 17, output 3, to input 4 of element 18 of the same page, and one from output 4 to
endpoint 9, a credit and two flits under way. -/
def linked : Inst :=
  { one 17 (pe [flit 5] [] [] 3) with
    cfg := { oneCfg [] [] with links := [{ page := 0, pe := 17, ch := 3, word := 0x90A00004 }, { page := 0, pe := 17, ch := 4, word := 0x804C0004 }] },
    credits := [{ page := 0, pe := 17, ch := 3, flit := flit 0 }],
    wires := [{ page := 0, pe := 17, ch := 3, flit := flit 1 }, { page := 0, pe := 17, ch := 4, flit := flit 2 }] }

theorem wit_EventsOfEngines_flits : linked.credits[0]?.isSome = true ∧ (firstOf linked.wires 0).isSome = true ∧ (firstOf linked.wires 1).isSome = true ∧
    (linked.cfg.links.map fun (l : Link) => (l.endpoint, linked.cfg.target l)) = [(none, some (0, 18, 4)), (some 9, none)] ∧
    (linked.cfg.linkOf 0 17 3).isSome = true ∧ (linked.cfg.linkOf 0 17 4).isSome = true := by decide +kernel

/-- A port access, answered or spilled. -/
def anAccess (done : Option Flit) (spilled : Bool) : PortAccess :=
  { pe := 0, store := false, va := 0x20000, size := 8, mask := 0, flit := flit 0, marks := 8, addr := 0x20000, elem := 0, tile := 0, pos := 0,
    iter := 0, hdr := false, done := done, spilled := spilled }

/-- A row buffer that may drain. -/
def fullRow : RowBuf := { RowBuf.cleared with ready := true }

theorem wit_EventsOfEngines_ports : ((porting { PortState.fresh with acc := [anAccess (some (flit 3)) false] }).port 0 0).acc[0]? =
      some (anAccess (some (flit 3)) false) ∧ (porting PortState.fresh).space 0 (portPe 0) 1 = true ∧
    ((porting { PortState.fresh with acc := [anAccess none true] }).port 0 0).spills = 1 ∧
    (fabric 0 (porting PortState.fresh)).pageOn 0 = some (0, 0) ∧
    ((({ porting PortState.fresh with secs := [(0, { Section.fresh with rows := Section.fresh.rows.set 15 (fullRow, RowBuf.cleared) })] } :
      Inst).section 0).drainNext = some (15, fullRow)) ∧ (fabric 0 (porting PortState.fresh)).engineActs (porting PortState.fresh) = true ∧
    (fabric 0 (porting PortState.fresh)).instActs (porting PortState.fresh) = true ∧ (fabric 0 (porting PortState.fresh)).accRoom 0 = true := by decide +kernel

/-- A command of the port stream. -/
def aCommand (word : BitVec 128) (begun wrote : Bool) : Command :=
  { word := word, id := 5, stream := .port, hyp := 0, site := 0, slot := 0, begun := begun, wrote := wrote, upTo := 0 }

/-- Context 1 with commands accepted and at its port. -/
def commanded (accepted port : List Command) : State :=
  { mapped with ctxs := (Vector.replicate 16 Ctx.reset).set 1 { Ctx.reset with accepted := accepted, port := port } }

/-- A graph on graph slot 0. -/
def aGraph : Graph :=
  { launch := 3, pc := 0x20000, started := 0, prio := 0, hyp := 0, queue := 0, count := 0, last := none, tiles := 0, flags := 0, ended := false, ahead := [],
    drained := none, status := none, ranges := [], endSlot := 0, curSlot := none }

/-- Context 1 with that graph. -/
def graphed (g : Graph) : State :=
  { mapped with ctxs := (Vector.replicate 16 Ctx.reset).set 1 { Ctx.reset with graphs := Ctx.reset.graphs.set 0 (some g) } }

theorem wit_EventsOfEngines_commands : let k := aCommand 0 true false
    ((commanded [] [k]).ctx 1).port = [k] ∧ ((commanded [] [k]).ctx 1).streamReady .port = true ∧ ((commanded [] [k]).ctx 1).halted = false ∧
    ((graphed aGraph).nextGraph 1).isSome = true ∧ (((commanded [k] []).ctx 1).accepted.find? fun m => m.id = k.id) = some k ∧ k.op ≠ 0x07 ∧
    (commanded [k] []).commandDone 1 k = true ∧ (aCommand (7 <<< 120) true true).op = 0x07 ∧
    (commanded [aCommand (7 <<< 120) true true] []).commandDone 1 (aCommand (7 <<< 120) true true) = true ∧
    (commanded [aCommand (7 <<< 120 ||| 1 <<< 112) true false] []).syncReady 1 (aCommand (7 <<< 120 ||| 1 <<< 112) true false) = true ∧
    (aCommand (7 <<< 120 ||| 1 <<< 112) true false).field 0 52 = 0 ∧
    ((commanded [] []).syncWrite 1 (aCommand (7 <<< 120) true false)).isSome = true ∧
    (graphed { aGraph with status := some 2 }).graphOver 1 0 { aGraph with status := some 2 } = some 2 ∧
    (graphed aGraph).openHyp 1 0 = true ∧ (graphed aGraph).graphIdle 1 0 = true ∧ (0 : Word).toNat + (graphed aGraph).hangTime 1 = 1000000 := by decide +kernel

/-- Sites 0 to 3 in a group of two rows, an instance on site 2 at (0, 1) and one on site 1 at (1, 0), and a placement that
waits, in slot 3, for two positions beside each other. -/
def scatteredState (prio : Nat) (graph : Option (Fin 4)) : State :=
  { mapped with
    sites := (List.range 4).map fun n => (n, { Site.initial n with status := .enabled }),
    groups := { Groups.reset with force := [(0, { desc := 0x8000000002020004, ranks := (List.range 4).map fun r => (r, rankEntry r) })] },
    insts := [{ one 17 (pe [] [] [] 3) with anchor := (0, 1), sites := [2], area := [2], graph := graph },
              { one 17 (pe [] [] [] 3) with num := 1, anchor := (1, 0), sites := [1], area := [1] }],
    ctxs := (Vector.replicate 16 Ctx.reset).set 1 { Ctx.reset with
      slots := (Ctx.reset.slots.set 2 (some (oneCfg [] []))).set 3 (some { oneCfg [] [] with extw := 2 }),
      places := [{ slot := 3, ninst := 1, partl := false, queue := 0, prio := prio, id := 6, stream := .port, version := 1, made := 0, cmp := true }] } }

theorem wit_EventsOfEngines_moves :
    (scatteredState 4 (some 0)).displaceable = some 0 ∧
    (match (scatteredState 0 none).insts[0]? with
     | some x => x.pend == .none && x.st == .run && (scatteredState 0 none).wanted x false &&
         (((scatteredState 0 none).freeAnchors ((scatteredState 0 none).groupNow x.group) x.cfg.extw x.cfg.exth (some 0)).head?.map fun a => a.1) == some (0, 0)
     | none => false) = true ∧
    ((scatteredState 0 none).waiting[0]? = (((scatteredState 0 none).ctx 1).places[0]?).map fun p => Waiting.fresh 1 0 p) := by decide +kernel

/-- A placement that fits. -/
def fitting : State :=
  { scatteredState 0 none with
    insts := [],
    ctxs := (Vector.replicate 16 Ctx.reset).set 1 { Ctx.reset with
      slots := Ctx.reset.slots.set 3 (some { oneCfg [] [] with extw := 2 }),
      places := [{ slot := 3, ninst := 1, partl := false, queue := 0, prio := 0, id := 6, stream := .port, version := 1, made := 0, cmp := true }] } }

theorem wit_EventsOfEngines_places : (∀ p ∈ (fitting.ctx 1).places, (fitting.place 1 0 p).isSome = true) ∧ (fitting.waiting[0]? = ((fitting.ctx 1).places[0]?).map fun p => Waiting.fresh 1 0 p) ∧
    (let x : Inst := { one 17 (pe [] [] [] 3) with st := .saved, sites := [], area := [] }
     let s : State := { scatteredState 0 none with insts := [x], ctxs := Vector.replicate 16 Ctx.reset }
     s.waiting = [.saved 0 x] ∧ (s.restore 0 x).isSome = true) := by decide +kernel

theorem wit_EventsOfEngines_states : let x := one 17 (pe [flit 5] [] [] 3)
    x.monitored = true ∧ x.unfinished = true ∧ x.active.toNat + (engines id).hangTime 1 = 1000000 ∧
    (engines id).hardware 1 .hang = true ∧ ({ engines id with regs := [(cxmodeAt 1, 0x1B)] } : State).hardware 1 .hang = false ∧
    bit ((engines id).reg (shmapAt 1)) 0 = false ∧ x.area ≠ [] ∧ (engines id).slotEvents x = false ∧ x.passed = false ∧
    (engines fun x => { x with passed := true }).insts.map (·.passed) = [true] ∧ (engines id).atBoundary x = true ∧ 0 < x.cfg.pages.length ∧ (engines id).stagedGood x = true ∧
    ((engines id).ctx 1).cecnt < 4294967295 ∧
    (let s : State := { engines id with fields := Vector.replicate 8 { time := 2000000, fact := 0, hold := false } }
     x.active.toNat + s.hangTime 1 ≤ (s.instTime x).toNat ∧ (s.seqTime 1).toNat = 2000000) ∧
    ((engines fun x => { x with st := .shuttered, back := .run, shut := some .hang }).insts.findIdx? fun (z : Inst) =>
      z.ctx = 1 && z.slot == bits (0x0200000000000000#64) 56 3 && z.num == bits (0x0200000000000000#64) 32 10) = some 0 := by decide +kernel

/-- A transfer of context 1. -/
def aTransfer (desc : Desc) (spent : Bool) : Xfer :=
  { id := 12, ctx := 1, cmd := 5, stream := .port, slot := 2, inst := none, hyp := 0, daddr := 0, desc := desc, at_ := 0, span := none,
    tiles := 0, hdr := false, bad := false, psn := false, rd := 0, ahead := [], part := [], buf := [], mbuf := [], mout := [], phase := .header, last := false,
    idx := [], cur := none, parked := [], redo := [], held := [], lost := false, version := 0, fillAt := none, nofill := false, spent := spent }

/-- Context 1 with 1 GiB of memory mapped by tables in memory, and a streamer as given at position 3. -/
def streaming (v : Streamer) : State :=
  { mapped with mem := (Mem.cleared.write 0 8 0x10001).write 0x10000 8 0x1F, streams := [(3, v)] }

/-- A spilled access. -/
def aSpill : Spill :=
  { ctx := 1, xfer := 12, elem := 0, tile := 0, va := 0, size := 4, align := 4, write := false, data := 0, psn := false, next := 0, hold := false,
    part := none, partN := none, upd := none, feed := false, key := 0, comm := false }

theorem wit_EventsOfEngines_transfers :
    ((streaming { Streamer.reset with queue := [anyQueued] }).streamer 3).queue = [anyQueued] ∧ (Streamer.reset).running < 16 ∧
    bits anyQueued.word 120 8 ≠ 0x15 ∧
    ((streaming { Streamer.reset with xfers := [aTransfer (.reduce [] 0 8 0 false 4) true] }).streamer 3).xfers[0]? =
      some (aTransfer (.reduce [] 0 8 0 false 4) true) ∧
    ((streaming { Streamer.reset with xfers := [aTransfer (.migrate 0 0 0x20000 0x30000 0x20000 64 0x0C00000000020000) true] }).streams.findSome?
      fun (q : Nat × Streamer) => (q.2.xfers.find? fun v => v.id = 12).map fun v => (q.1, v)).isSome = true ∧
    (streaming { Streamer.reset with xfers := [aTransfer (.migrate 0 0 0x20000 0x30000 0x20000 64 0x0C00000000020000) true] }).updating 1 0x30000 64 = false ∧
    (streaming Streamer.reset).enginePointer 1 0 0x0C00000000020000 2 false true = .ok 0x20000 ∧
    (((streaming { Streamer.reset with spill := [aSpill] }).streamer 3).spill.filter fun z => z.ctx = 1) = [aSpill] ∧
    (streaming Streamer.reset).engineWords 1 0x20000 4 = .ok [0, 0, 0, 0] := by decide +kernel

/-- An edge program that pushes or absorbs, within the slice or at endpoint 9. -/
def aProgram (absorbs streams : Bool) (buf : List Flit) : EdgeProg :=
  { ctx := 1, words := Vector.replicate 8 (flag 0 absorbs ||| flag 1 streams ||| field 8 8 9), slot := 2, inst := 0, at_ := 0, pass := 0,
    tile := false, bad := false, hdr := false, buf := buf }

theorem wit_EventsOfEngines_programs : (aProgram true true [flit 1]).absorbs = true ∧ (aProgram true true [flit 1]).streams = true ∧
    (aProgram true true [flit 1]).finished = false ∧ (aProgram false false [flit 1]).absorbs = false ∧ (aProgram false false [flit 1]).streams = false ∧
    (let x : Inst := { one 17 (pe [] [] [] 3) with arms := [{ Arm.fresh (oneCfg [] []) 9 with fed := [flit 4] }] }
     (fabric 17 x).progInst (aProgram true false []) = some (0, x) ∧ ((fabric 17 x).takeEp 0 x 9 0).isSome = true) ∧
    (let x : Inst := { one 17 (pe [] [] [] 3) with arms := [{ Arm.fresh (oneCfg [] []) 9 with armed := 2, target := some (0, 17, 3), depth := 4 }] }
     ((fabric 17 x).deliverEp 0 x 9 (aProgram false false [flit 4]).feeding (flit 4)).isSome = true) := by decide +kernel

/-- A version of table 2 that an STBL has replaced. -/
def oldTable : TableVer :=
  { tbl := 2, serial := 0, base := 0, rows := 1, stride := 64, hot := 0, ety := 8, rowLen := 4, label := 0, current := false, free := 0 }

theorem wit_EventsOfEngines_rest :
    (let s : State := { mapped with ctxs := (Vector.replicate 16 Ctx.reset).set 1 { Ctx.reset with tables := [oldTable] } }
     (s.ctx 1).tables[0]? = some oldTable ∧ s.versionUsed 1 oldTable = false) ∧
    doored.doorAt 0 = some (0, 17) ∧ doored.space 0 17 (BitVec.ofNat 16 (bits (doored.nodeWord 0 17) 20 16)) = true ∧
    (let x : Inst := { doored with serais := [{ seraiFresh with
        places := [{ st := .replied, ticket := 0, req := flit 6, pos := 0, tile := 0, stamp := 0, result := [flit 8], order := 0, index := 0, sent := 0 }],
        tiles := [{ num := 0, header := flit 0, hsent := true, marks := [8], left := 0, closed := true }] }] }
     ((fabric 17 x).nextResult x 0 0).isSome = true ∧ (x.door 0).ordered = true) ∧
    (engines id).sampled (one 17 (pe [] [] [] 3)) = true := by decide +kernel

/-- A module whose retirement of site 9 has begun, and finds nothing there. -/
def retiring : State := { mapped with retire := some { site := 9, forced := false, begun := true } }

/-- Groups as given by their staged and committed values. -/
def grouped (desc : Word) (busy : Bool) : State :=
  { mapped with groups := { Groups.reset with staged := [(0, { desc := desc, ranks := [(0, rankEntry 0)] })], busy := busy, ver := 2 } }

/-- A thread of context 1 that has been saved. -/
def savedThread : Thread := { Thread.blank with place := .saved 1 8, ctx := 1, tid := 8 }

theorem wit_EventsOfTheSystem : (retiring.retire = some { site := 9, forced := false, begun := true }) ∧ retiring.residents 9 = [] ∧
    (∀ x ∈ retiring.insts, (9 : Fin 1024).val ∉ x.area) ∧ (waiting (.remote false (2 ^ 41 + 64) 0x20000 none)).th.wait = .remote false (2 ^ 41 + 64) 0x20000 none ∧
    bits (({ mapped with regs := [(rtmapAt 1, 6)] } : State).reg (rtmapAt ((2 ^ 41 + 64) / 2 ^ 41))) 0 48 ≠ 0 ∧
    (({ buffered .plain with sbuf := (buffered .plain).sbuf.map fun e => { e with pa := 2 ^ 41 + 0x20000 } } : State).sbuf.filter fun (f : StoreEntry) =>
      ofSlot (buffered .plain).th f && !(buffered .plain).isLocal f.pa)[0]?.isSome = true ∧
    ({ mapped with sites := [(9, { Site.initial 9 with status := .enabled })] } : State).mayPowerOff 9 = true ∧
    (({ mapped with sites := [(9, { Site.initial 9 with status := .enabled, on := false, waking := some 3 })] } : State).site 9).waking = some 3 ∧
    siteField 9 = siteField 8 ∧
    max (100#10).toNat (90#10).toNat ≥ 10 * (max (100#10).toNat (90#10).toNat - min (100#10).toNat (90#10).toNat) ∧
    max (100#10).toNat (89#10).toNat < 10 * (max (100#10).toNat (89#10).toNat - min (100#10).toNat (89#10).toNat) ∧
    ({ State.reset with boot := .failed } : State).boot = .failed ∧ State.reset.boot = .up ∧ ([] : List Byte).length ≤ 9216 ∧
    (List.replicate 9217 (0 : Byte)).length > 9216 := by decide +kernel

theorem wit_EventsOfTheSystem_writes : bit (mapped.reg (tlbstatAt 1)) 0 = false ∧ mapped.sbuf = [] ∧ mapped.holdsOld 1 = false ∧
    ({ mapped with rest := [savedThread] } : State).findThread (.saved 1 (BitVec.ofNat 24 (bits (8#64) 0 24))) = some savedThread ∧
    savedThread.ready = none ∧ mapped.findTid 1 (BitVec.ofNat 24 (bits (7#64) 0 24)) = some mapped.th ∧ mapped.th.onBarrel = true ∧
    bits (1151#64) 0 11 ≤ 1151 ∧ 1151 < bits (1152#64) 0 11 ∧ mapped.rtu.st ≠ .staging ∧ mapped.rtu.st ≠ .committing ∧
    spaceOf (cxrootAt 1) = .device ∧ cxrootAt 1 % 8 = 0 ∧ (devReg (cxrootAt 1)).isSome = true ∧
    (∀ r ∈ devReg (cxrootAt 1), mapped.regPresent r = true ∧ mapped.devBusy r = false ∧ (plainStored 0x10001 r).isSome = true) ∧
    bit (({ mapped with regs := [(rgnctlAt 1, 1 <<< 63)] } : State).reg (rgnctlAt 1)) 63 = true ∧ (mapped.ctx 1).resetting = false ∧
    (grouped 0 true).groups.busy = true ∧ (grouped 0 true).boundOlder = false ∧ bit (0x8000000000000000#64) 63 = true ∧
    (grouped 0 false).groups.busy = false ∧ (grouped 0x8000000000000000 false).commitFault = some (0, 0) := by decide +kernel

theorem wit_EventsOfTheSystem_commit : let s : State := { grouped 0x8000000001010001 false with sites := [(0, { Site.initial 0 with status := .enabled })] }
    (s.staged 0).en = true ∧ (s.staged 0).descBad = false ∧ s.commitFault = none := by decide +kernel

theorem wit_ServiceRequest_heads :
    let away : State := { launching { aLaunch with count := 2 } with th := mapped.th }
    let fresh : State := { launching { aLaunch with started := false } with th := mapped.th }
    let back : State := { launching aLaunch with th := mapped.th, rest := [{ Thread.blank with place := .saved 1 8, ctx := 1, tid := 8, ready := some 0 }],
                                                 ctxs := Vector.replicate 16 Ctx.reset }
    (away.takesLandings 0 1 = true ∧ away.yieldHead 1 0 0 = some 0 ∧ away.th.ready = none ∧ (away.freeRecord 1).isSome = true ∧
      (match away.headOf 1 0 with | some (.launch l) => l.started | _ => false) = true) ∧
    (fresh.yieldHead 1 0 0 = some 0 ∧ (match fresh.headOf 1 0 with | some (.launch l) => !l.started | _ => false) = true ∧
      (match (fresh.advance.saveTh.beginHead 1 0).headOf 1 0 with | some (.launch l) => l.started && l.id == 3 | _ => false) = true ∧
      ((fresh.advance.saveTh.beginHead 1 0).freeRecord 1).isSome = true) ∧
    (back.yieldHead 1 0 0 = some 0 ∧ (match back.headOf 1 0 with | some (.thread u) => decide (u.tid = 8) && u.tid != back.th.tid | _ => false) = true) := by
  decide +kernel

theorem wit_StoresPerform_more :
    (let s : State := { buffered .plain with sbuf := (buffered .plain).sbuf.map fun e => { e with pa := 2 ^ 41 + 0x20000 } }
     s.peers.wf ∧ ∀ x ∈ s.sbuf, s.canPerform x = true ∧ s.isLocal x.pa = false ∧ x.size = 8) ∧
    (let s : State := { buffered .fes with sbuf := (buffered .fes).sbuf.map fun e => { e with pa := 0x1F000000000 } }
     s.feq = [] ∧ ∀ x ∈ s.sbuf, s.canPerform x = true ∧ s.localHbm x.pa = false ∧ s.isLocal x.pa = true) ∧
    (let s : State := { State.reset with th := { State.reset.th with g := (State.reset.th.g.set 3 0x0C00000000020000).set 4 (BitVec.ofNat 64 (cxtrapAt 1) ||| 0x0C00000000000000) } }
     s.th.onControl = true ∧ s.sbuf = [] ∧ s.mem.wf ∧ s.feq = [] ∧ s.anyWatch = false ∧ s.th.st = .run ∧
     s.check (s.gr 3) (effective (s.gr 3) 0 16) (storeReq 16 .plain false true) = .ok (s.superPa 0x20000) ∧ s.isLocal (s.superPa 0x20000) = true ∧
     s.check (s.gr 4) (effective (s.gr 4) 0 8) (storeReq 8 .plain true false) = .ok (s.superPa (cxtrapAt 1)) ∧
     spaceOf (offsetOf (s.superPa (cxtrapAt 1))) = .device ∧ devReg (offsetOf (s.superPa (cxtrapAt 1))) = some (.cxtrap 1) ∧
     plainStored 0x10001 (.cxtrap 1) = some (cxtrapAt 1, 0x10001)) := by
  decide +kernel

theorem wit_FencesAndFlushes_lines :
    (let s : State := { copied with cache := copied.cache.map fun x => { x with whole := 2 } }
     s.mem.wf ∧ s.sbuf = [] ∧ s.check (s.gr 3) (effective (s.gr 3) 0 64) (cacheReq 1 false) = .ok 0x20000 ∧ s.localHbm 0x20000 = true ∧
     offsetOf 0x20000 / 64 = 0x800 ∧ (∀ x ∈ s.cache, x.core = s.th.core ∧ x.ctx = s.th.cx ∧ x.line = 0x800 ∧ hypNum x.hyp = 0 ∧
       x.isDirty = true ∧ (x.tdirty == 0) = true ∧ ∀ y ∈ s.cache, y = x) ∧ s.cache.Nodup) ∧
    (buffered .plain).sbuf.Pairwise (fun e f => e.id < f.id) ∧ (∀ e ∈ (buffered .plain).sbuf, e.isTag = false ∧ ofSlot (buffered .plain).th e = true) ∧
    (∀ e ∈ (buffered .plain).sbuf, (buffered .plain).sbuf = [e]) ∧
    (match far.check (far.gr 5) (effective (far.gr 5) 0 64) (cacheReq 1 false) with | .error (.wait (.remote _ _ _ _)) => true | _ => false) = true ∧
    (match ({ mapped with flushes := [{ target := .site 0, ctx := 1, tid := 7, place := .slot 0 0, auto := true, way := way }] } : State).check (mapped.gr 3)
      (effective (mapped.gr 3) 0 64) (prefReq .read) with | .error (.wait .flush) => true | _ => false) = true := by
  decide +kernel

theorem wit_TagsAndMigration_visits :
    (let s : State := { mapped with sites := [(0, { Site.initial 0 with status := .enabled }), (1, { Site.initial 1 with status := .enabled }),
                                              (2, { Site.initial 2 with status := .dark })],
                                    th := { mapped.th with g := (mapped.th.g.set 4 0x0C00000040040000).set 5 0x0C00000040080000 } }
     s.check (s.gr 4) (effective (s.gr 4) 0 1) { cacheReq 1 false with rd := false } = .ok 0x1F000040000 ∧
     s.translate (effective (s.gr 4) 0 1) false = .ok (0x1F000040000, 0x1F00000001F) ∧ tcmSite (offsetOf 0x1F000040000) = 1 ∧
     (s.site 1).isDark = false ∧ s.translate (effective (s.gr 5) 0 1) false = .ok (0x1F000080000, 0x1F00000001F) ∧
     tcmSite (offsetOf 0x1F000080000) = 2 ∧ (s.site 2).isDark = true) ∧
    mapped.check (mapped.gr 3) (effective (mapped.gr 3) 0 1) { cacheReq 1 false with rd := false } = .ok 0x20000 ∧
    mapped.translate (effective (mapped.gr 3) 0 1) false = .ok (0x20000, 0x1F) ∧ pteMig 0x1F = false ∧ spaceOf (offsetOf 0x20000) ≠ .tcm ∧
    (let s : State := { State.reset with th := { State.reset.th with g := State.reset.th.g.set 3 0x0C00000000020000 } }
     s.th.onBarrel = false ∧ s.th.onControl = true ∧ s.sbuf = [] ∧ s.mem.wf ∧ s.regionOf s.th.core s.th.cx 0x20000 = none ∧
     s.check (s.gr 3) (effective (s.gr 3) 0 16) (tagReq true) = .ok (s.superPa 0x20000) ∧ hypNum s.th.thyp = 0 ∧ s.anyWatch = false ∧
     s.tokenNeeded (s.superPa 0x20000) = none ∧ s.bufferFull = false) ∧
    ({ mapped with th := { mapped.th with intrap := true } } : State).th.intrap = true ∧
    (match far.check (far.gr 5) (effective (far.gr 5) 0 1) { cacheReq 1 false with rd := false } with
      | .error (.wait (.remote _ _ _ _)) => true | _ => false) = true := by
  decide +kernel

theorem wit_RegionTokens_handing : let s := region { tokenFree 5 with holder := some (.thread 7) }
    s.sbuf = [] ∧ s.cache = [] ∧ (s.th.onBarrel && s.pendingFault s.th.ctx) = false ∧
    Holder.thread ((7#64).setWidth 24) = s.th.holder ∧ Holder.thread ((8#64).setWidth 24) ≠ s.th.holder ∧
    (s.findTid s.th.cx ((8#64).setWidth 24)).isSome = true := by decide +kernel

theorem wit_Rings_released : (∀ k, ((ring 0x55 4 0 0).readRing 0x1F000000000).indexOf 0x40000118 = some k →
      ((ring 0x55 4 0 0).readRing 0x1F000000000).state k ≠ 3) ∧ ((ring 0x55 4 0 0).readRing 0x1F000000000).indexOf 0x40000118 ≠ none ∧
    ((ring 0x03 1 1 0).readRing 0x1F000000000).state 0 ≠ 1 := by decide +kernel

theorem wit_BarriersAndTimedWaits_ahead : let x : Barrier := { Barrier.reset with en := true, arr := [(0, 1)] }
    (atBarrier x false).th.site = 0 ∧ x.cnt ≤ tget 0 x.arr 0 ∧ (atBarrier x false).sbuf = [] ∧ (atBarrier x false).cache = [] ∧
    (atBarrier x false).th.av[0] = false ∧ State.reset.th.onControl = true ∧ State.reset.th.av[0] = false ∧
    (let s : State := { mapped with th := { mapped.th with g := mapped.th.g.set 5 1 }, fields := Vector.replicate 8 { time := 9, fact := 0, hold := false } }
     s.gr 5 ≠ 0 ∧ (s.gr 5).toNat ≤ (s.tnow s.th).toNat ∧ s.fullHome 0x1F000000000 = false ∧ s.recordedAt 0x1F000000000 < 64 ∧
     s.poisonHome s.th.cx s.th.thyp 0x1F000000000 = false ∧ s.tagSeen 0x1F000000000 = BitVec.ofNat 4 ((s.gr 4).toNat / 2 ^ 60)) := by
  decide +kernel

theorem wit_Hypotheses_barrel : (supposing 1).sbuf = [] ∧ (supposing 1).cache = [] ∧
    ((supposing 1).th.onBarrel && (supposing 1).pendingFault (supposing 1).th.ctx) = false ∧ (supposing 1).th.onBarrel = true ∧
    (∀ q : HypReq, ((served q).ctx 1).hypQ ≠ []) := by
  refine ⟨by decide +kernel, by decide +kernel, by decide +kernel, by decide +kernel, fun q => List.cons_ne_nil _ _⟩

theorem wit_LaunchInstructions_waits :
    16 ≤ (({ mapped with ctxs := (Vector.replicate 16 Ctx.reset).set 1 { Ctx.reset with
      queues := List.replicate 16 { aLaunch with started := false } } } : State).queued 1 0).length ∧
    (({ mapped with ctxs := (Vector.replicate 16 Ctx.reset).set 1 { Ctx.reset with resetting := true } } : State).ctx 1).resetting = true := by
  decide +kernel

/-- A hypothesis tree of context 1: 2 under 1, 1 under H0, and a version of line 0x800 of hypothesis 1. -/
def supposed (q : HypReq) (up : Handle) : State :=
  { waiting (.hyp 4) with
    vers := [{ ctx := 1, hyp := 0x10001, line := 0x800, data := 7, poison := 0 }],
    ctxs := (Vector.replicate 16 Ctx.reset).set 1 { Ctx.reset with
      hypQ := [(4, q)],
      hyps := [(1, { hypFree with st := .live, gen := 1, parent := up, depth := 1 }), (2, { hypFree with st := .live, gen := 3, parent := 0x10001, depth := 2 })] } }

theorem wit_EventsOfThreads_tree :
    (let s := supposed (.new (.slot 0 0) 5 0x10001) 0
     (s.ctx 1).hypQ = [(4, .new (.slot 0 0) 5 0x10001)] ∧ s.th.wait = .hyp 4 ∧ (5 : Reg) ≠ 0 ∧ s.liveHyp 1 (canonHandle 0x10001) = true ∧
       s.liveHyp 1 (canonHandle 0x20001) = false ∧ s.hypDepth 1 0x10001 ≠ 8 ∧ (s.hyp 1 3).st = .free ∧ (∀ m, m < 3 → 0 < m → (s.hyp 1 m).st ≠ .free) ∧
       (s.ctx 1).hyps.Pairwise (fun a b => a.1 < b.1) ∧ (supposing 8).hypDepth 1 0x10001 = 8) := by
  decide +kernel

theorem wit_EventsOfThreads_confirm :
    (∀ up : Fin 2, let s := supposed (.conf (.slot 0 0) 0x10001) (if up = 0 then 0 else 0x30002)
     canonHandle 0x10001 = 0x10001 ∧ hypNum 0x10001 ≠ 0 ∧ s.liveHyp 1 0x10001 = true ∧ s.th.resident = true ∧ s.sbuf = [] ∧ s.cache = [] ∧
       (s.ctx 1).hypQ = [(4, .conf (.slot 0 0) 0x10001)] ∧ (∀ u ∈ s.rest, u.thyp ≠ 0x10001) ∧ (s.vers.map fun v => (v.ctx, v.hyp)) = [(1, 0x10001)] ∧
       s.mem.wf ∧ (s.hyp 1 1).parent = (if up = 0 then 0 else 0x30002)) := by
  decide +kernel

theorem wit_EventsOfThreads_refute :
    (let s := supposed (.refute (.slot 0 0) 0x10001) 0
     (s.ctx 1).hypQ = [(4, .refute (.slot 0 0) 0x10001)] ∧ (∀ e ∈ (s.ctx 1).hyps, e.1 < 256 ∧ e.2.st ≠ .refuting) ∧
       (s.hyp 1 2).gen = 3 ∧ handleOf 3 2 = 0x30002 ∧ s.inSubtree 1 0x10001 0x30002 = true) ∧
    (let s : State := { mapped with outmsgs := [(1, 0x20001), (1, 0x10001)], seen := [{ ctx := 1, h := 0x20001, core := .control 15 }] }
     s.outmsgs[1]? = some (1, 0x10001) ∧
       ((s.outmsgs.take 1).all fun e => s.seen.any fun m => decide (m.ctx = 1) && m.h == e.2 && decide (m.core = .control 15)) = true) := by
  decide +kernel

theorem wit_EventsOfThreads_record : let l := { aLaunch with landed := 1, ended := 1, good := 1, desc := { words := (Vector.replicate 16 (0 : Word)).set 3 0x40000000 } }
    ((launching l).ctx 1).queues[0]? = some l ∧ l.status = none ∧ l.started = true ∧ bits l.desc.words[0] 0 2 = 0 ∧ l.ended = l.count ∧
    l.landed = l.count ∧ bits l.desc.words[3] 0 52 ≠ 0 ∧ bits l.desc.words[3] 0 52 % 64 = 0 ∧ (launching l).mem.wf ∧ (launching l).feq = [] := by
  decide +kernel

theorem wit_EventsOfThreads_caravans : let s : State := { toLand .enabled with rest := [{ Thread.blank with place := .caravan 9 3, ctx := 1, tid := 8, old := some 4, landed := 6 }] }
    (s.caravanAt 0).any (fun x => x.way == some { src := siteKey 4, dst := siteKey 9, num := 6 }) = true ∧
      s.overtakes { src := siteKey 4, dst := siteKey 9, num := 6 } = false ∧ s.overtakes { src := siteKey 4, dst := siteKey 9, num := 7 } = true := by decide +kernel

/-- An instance whose port 0 has one access under way, and a range from 0x1_0000 to 0x2_FFFF for loads and stores. -/
def accessing (store : Bool) (va : Nat) : Inst :=
  let x := porting { PortState.fresh with acc := [{ anAccess none false with store := store, va := va, mask := 0xFF, flit := flit 5 }] }
  { x with cfg := { x.cfg with pages := x.cfg.pages.map fun p =>
      { p with ranges := p.ranges.set 0 [{ base := 0x10000, limit := 0x2FFFF, offset := 0, ctrl := 3 }] } } }

theorem wit_EventsOfEngines_access : ∀ st : Bool, let x := accessing st 0x20000
    let s := fabric 0 x
    s.instActs x = true ∧ x.waveOpen 0 0 0 = true ∧ hypNum x.hyp = 0 ∧ bits (x.nodeWord 0 (portPe 0)) 20 16 = 0 ∧ s.anyWatch = false ∧
    s.mem.wf ∧ (0xFF#8).toNat + 1 = 2 ^ 8 ∧ s.localHbm 0x20000 = true ∧
    (match s.portCheck x 0 0 0x20000 8 (if st then 1 else 0) with | .ok pa => pa == 0x20000 | .error _ => false) = true ∧
    (match s.portCheck x 0 0 0x2FFF9 8 (if st then 1 else 0) with | .ok _ => false | .error _ => true) = true := by decide +kernel

theorem wit_EventsOfEngines_programsFetched :
    (let s := graphed { aGraph with ahead := [5, 6] }
     (s.nextGraph 1).isSome = true ∧ (s.ctx 1).port = [] ∧ (s.ctx 1).halted = false ∧ (s.ctx 1).resetting = false) ∧
    (match (graphed aGraph).programWord 1 aGraph.pc with | .error _ => true | .ok _ => false) = true ∧
    (match ({ graphed aGraph with mem := (Mem.cleared.write 0 8 0x10001).write 0x10000 8 0x1F } : State).programWord 1 aGraph.pc with
      | .ok _ => true | .error _ => false) = true := by decide +kernel

theorem wit_EventsOfEngines_boundaries :
    (let x : Inst := { one 17 (pe [] [] [] 3) with st := .idle, graph := some 0 }
     let s : State := { fabric 17 x with ctxs := (graphed aGraph).ctxs }
     x.passed = false ∧ x.ownIdle = true ∧ x.pend = .none ∧ (s.ctx 1).graphs[0] = some aGraph ∧
       (((s.instsOf 1 2).all fun e => e.1 == 0 || e.2.passed) = true)) ∧
    (let x : Inst := { one 17 (pe [] [] [] 3) with st := .idle, passed := true, pend := .release }
     x.ownIdle = true ∧ x.pend = .release) ∧
    (let s : State := graphed { aGraph with ended := true, drained := some 0 }
     let u := s.noteDrain 1
     (u.ctx 1).graphs[0].any (fun r => r.ended && r.status == none && r.drained.isSome && u.graphIdle 1 0 && u.openHyp 1 r.hyp) = true) := by
  decide +kernel

theorem wit_EventsOfEngines_commit : let d : Desc := .migrate 0 0 0x20000 0x30000 0x20000 64 0x0C00000000020000
    (aTransfer d true).at_ ≤ 64 ∧ (0x0C00000000020000#64).toNat % 8 = 0 ∧ (streaming Streamer.reset).filling (aTransfer d true) = false ∧
    (streaming Streamer.reset).mem.wf ∧ (streaming Streamer.reset).anyWatch = false ∧
    (match (streaming Streamer.reset).enginePointer 1 0 0x0C00000080000000 2 false true (some 3) with
     | .error e => ((streaming Streamer.reset).fillFor (aTransfer d true) 0x80000000 e).isNone | .ok _ => false) = true := by decide +kernel

theorem wit_EventsOfEngines_shadows : let x : Inst := { one 17 (pe [] [] [] 3) with
      arms := [{ Arm.fresh (oneCfg [] []) 9 with factor := 0 }], tape := [{ out := true, ep := 9, tile := 2, flit := flit 1 }] }
    (engines fun _ => x).sampled x = true ∧ x.tileOut 2 = true ∧ x.tileOut 3 = false ∧
    (let s : State := { scatteredState 0 none with insts := [x] }
     let free := (s.freeAnchors (s.groupAt x.version x.group) x.cfg.extw x.cfg.exth none).map (·.1)
     s.sampled x = true ∧ ∃ a ∈ free, free ≠ [] ∧ (63, 63) ∉ free) := by
  decide +kernel

theorem wit_EventsOfTheSystem_startUp : ({ State.reset with boot := .starting 3 24 } : State).boot = .starting 3 24 ∧
    (∀ e ∈ [(2, 0), (2, 1), (2, 2), (2, 16), (3, 0), (3, 47), (4, 7), (5, 0), (6, 0)],
      ({ State.reset with boot := .starting e.1 e.2 } : State).boot = .starting e.1 e.2) := by decide +kernel

theorem wit_EventsOfTheSystem_wakes : let s : State := { mapped with
      sites := [(8, { Site.initial 8 with on := false, waking := some 5 }), (9, { Site.initial 9 with on := false, waking := some 3 })] }
    (s.site 8).waking = some 5 ∧ (s.site 9).waking = some 3 ∧ siteField 9 = siteField 8 := by decide +kernel

theorem wit_EventsOfTheSystem_updates :
    ({ mapped with rtu := { mapped.rtu with st := .staging } } : State).rtu.st = .staging ∧
    (let s : State := { mapped with rtu := { mapped.rtu with st := .staged }, clock := 3, tokmsgs := [.grant 1 5 (.thread 7) (.slot 0 0) way] }
     s.rtu.st = .staged ∧ (∃ w ∈ s.ways, w.num < s.clock)) ∧
    (let s : State := { mapped with rtu := { mapped.rtu with st := .committing, hold := 3 } }
     s.rtu.st = .committing ∧ ∀ w ∈ s.ways, s.rtu.hold ≤ w.num) := by
  refine ⟨by decide +kernel, ⟨by decide +kernel, way, by decide +kernel, by decide +kernel⟩, by decide +kernel, by decide +kernel⟩

theorem wit_EventsOfTheSystem_reads : let s : State := { State.reset with th := { State.reset.th with g := State.reset.th.g.set 3 (BitVec.ofNat 64 (cxmodeAt 15) ||| 0x0C00000000000000) } }
    s.check (s.gr 3) (effective (s.gr 3) 0 8) (loadReq 8 .plain true) = .ok (s.superPa (cxmodeAt 15)) ∧ s.isLocal (s.superPa (cxmodeAt 15)) = true ∧
    spaceOf (offsetOf (s.superPa (cxmodeAt 15))) = .device ∧ devReg (offsetOf (s.superPa (cxmodeAt 15))) = some (.cxmode 15) ∧
    (∀ x ∈ s.sbuf, x.core = s.th.core → x.overlaps (s.superPa (cxmodeAt 15)) 8 = false) ∧ s.anyWatch = false := by decide +kernel

theorem wit_MemoryStaysCanonical : State.reset.mem.wf ∧ State.reset.peers.wf ∧
    ∃ t, step { State.reset with inputs := [.elapse 0 5] } = .next t :=
  ⟨by decide +kernel, by decide +kernel, _, rfl⟩

end Sys2Proof.Tests
end

section
/-!
SUPPORT. The statements of the scope: what every meaning and every step keeps, how a step chooses what it does, the state after
reset, and what plain loads and stores bring about. Each part begins with the facts that its last theorem uses.
-/
namespace Sys2Proof.Machine

/-! ### Every meaning answers a next state, and keeps memory canonical (R7, R12) -/

/-- The answer of a meaning is a next state, and that state has canonical memories if `s` has. -/
def Sound (s : State) (r : Result) : Prop := Answers r ∧ (s.Canon → Keeps r)

theorem Answers.sound {s : State} {r : Result} (ha : Answers r) (hk : s.Canon → Keeps r) : Sound s r := ⟨ha, hk⟩

/-- Apart from the other meanings, and so is the next one: at default transparency the elaborator runs the drain's note when it looks at
the type of `execGraphEnd_canon`. -/
theorem execGraphEnd_sound (c : Fin 16) (g : Fin 4) (s : State) : Sound s (execGraphEnd c g s) := by
  refine ⟨execGraphEnd_answers c g s, ?_⟩
  intro h
  with_reducible refine execGraphEnd_canon _ _ _ h

theorem execSinkWaitTimeout_sound (c : Fin 16) (g : Fin 4) (s : State) : Sound s (execSinkWaitTimeout c g s) := by
  refine ⟨execSinkWaitTimeout_answers c g s, ?_⟩
  intro h
  with_reducible refine execSinkWaitTimeout_canon _ _ _ h

theorem exec_sound (i : Instr) (s : State) : Sound s (exec i s) := by
  cases i with
  | illegal w => exact (execIllegal_answers w s).sound (execIllegal_canon w s)
  | add d a b => exact (execAdd_answers d a b s).sound (execAdd_canon d a b s)
  | sub d a b => exact (execSub_answers d a b s).sound (execSub_canon d a b s)
  | and d a b => exact (execAnd_answers d a b s).sound (execAnd_canon d a b s)
  | or d a b => exact (execOr_answers d a b s).sound (execOr_canon d a b s)
  | xor d a b => exact (execXor_answers d a b s).sound (execXor_canon d a b s)
  | shl d a b => exact (execShl_answers d a b s).sound (execShl_canon d a b s)
  | shr d a b => exact (execShr_answers d a b s).sound (execShr_canon d a b s)
  | sra d a b => exact (execSra_answers d a b s).sound (execSra_canon d a b s)
  | rol d a b => exact (execRol_answers d a b s).sound (execRol_canon d a b s)
  | ror d a b => exact (execRor_answers d a b s).sound (execRor_canon d a b s)
  | min d a b => exact (execMin_answers d a b s).sound (execMin_canon d a b s)
  | max d a b => exact (execMax_answers d a b s).sound (execMax_canon d a b s)
  | minn d a b => exact (execMinn_answers d a b s).sound (execMinn_canon d a b s)
  | maxn d a b => exact (execMaxn_answers d a b s).sound (execMaxn_canon d a b s)
  | slt d a b => exact (execSlt_answers d a b s).sound (execSlt_canon d a b s)
  | sltn d a b => exact (execSltn_answers d a b s).sound (execSltn_canon d a b s)
  | seq d a b => exact (execSeq_answers d a b s).sound (execSeq_canon d a b s)
  | sel d a b c => exact (execSel_answers d a b c s).sound (execSel_canon d a b c s)
  | mul d a b => exact (execMul_answers d a b s).sound (execMul_canon d a b s)
  | mulh d a b => exact (execMulh_answers d a b s).sound (execMulh_canon d a b s)
  | mulhn d a b => exact (execMulhn_answers d a b s).sound (execMulhn_canon d a b s)
  | div d a b => exact (execDiv_answers d a b s).sound (execDiv_canon d a b s)
  | divn d a b => exact (execDivn_answers d a b s).sound (execDivn_canon d a b s)
  | rem d a b => exact (execRem_answers d a b s).sound (execRem_canon d a b s)
  | remn d a b => exact (execRemn_answers d a b s).sound (execRemn_canon d a b s)
  | clz d a => exact (execClz_answers d a s).sound (execClz_canon d a s)
  | ctz d a => exact (execCtz_answers d a s).sound (execCtz_canon d a s)
  | pop d a => exact (execPop_answers d a s).sound (execPop_canon d a s)
  | lea d a b sc => exact (execLea_answers d a b sc s).sound (execLea_canon d a b sc s)
  | ptag d a b => exact (execPtag_answers d a b s).sound (execPtag_canon d a b s)
  | prgt d a b => exact (execPrgt_answers d a b s).sound (execPrgt_canon d a b s)
  | padr d a b => exact (execPadr_answers d a b s).sound (execPadr_canon d a b s)
  | addi d a x => exact (execAddi_answers d a x s).sound (execAddi_canon d a x s)
  | andi d a x => exact (execAndi_answers d a x s).sound (execAndi_canon d a x s)
  | ori d a x => exact (execOri_answers d a x s).sound (execOri_canon d a x s)
  | xori d a x => exact (execXori_answers d a x s).sound (execXori_canon d a x s)
  | shli d a n => exact (execShli_answers d a n s).sound (execShli_canon d a n s)
  | shri d a n => exact (execShri_answers d a n s).sound (execShri_canon d a n s)
  | srai d a n => exact (execSrai_answers d a n s).sound (execSrai_canon d a n s)
  | bfx d a w p => exact (execBfx_answers d a w p s).sound (execBfx_canon d a w p s)
  | bfxS d a w p => exact (execBfxS_answers d a w p s).sound (execBfxS_canon d a w p s)
  | bfi d a w p => exact (execBfi_answers d a w p s).sound (execBfi_canon d a w p s)
  | lui d x => exact (execLui_answers d x s).sound (execLui_canon d x s)
  | luih d x => exact (execLuih_answers d x s).sound (execLuih_canon d x s)
  | adpc d x => exact (execAdpc_answers d x s).sound (execAdpc_canon d x s)
  | beq a b o => exact (execBeq_answers a b o s).sound (execBeq_canon a b o s)
  | bne a b o => exact (execBne_answers a b o s).sound (execBne_canon a b o s)
  | blt a b o => exact (execBlt_answers a b o s).sound (execBlt_canon a b o s)
  | bge a b o => exact (execBge_answers a b o s).sound (execBge_canon a b o s)
  | bltn a b o => exact (execBltn_answers a b o s).sound (execBltn_canon a b o s)
  | bgen a b o => exact (execBgen_answers a b o s).sound (execBgen_canon a b o s)
  | j o => exact (execJ_answers o s).sound (execJ_canon o s)
  | jal o => exact (execJal_answers o s).sound (execJal_canon o s)
  | jalr d a x => exact (execJalr_answers d a x s).sound (execJalr_canon d a x s)
  | loop a o => exact (execLoop_answers a o s).sound (execLoop_canon a o s)
  | trap c => exact (execTrap_answers c s).sound (execTrap_canon c s)
  | trapService c => exact (execTrapService_answers c s).sound (execTrapService_canon c s)
  | tret => exact (execTret_answers s).sound (execTret_canon s)
  | mfs d n => exact (execMfs_answers d n s).sound (execMfs_canon d n s)
  | mts a n => exact (execMts_answers a n s).sound (execMts_canon a n s)
  | eret => exact (execEret_answers s).sound (execEret_canon s)
  | yield => exact (execYield_answers s).sound (execYield_canon s)
  | halt => exact (execHalt_answers s).sound (execHalt_canon s)
  | tnow d => exact (execTnow_answers d s).sound (execTnow_canon d s)
  | twait d a => exact (execTwait_answers d a s).sound (execTwait_canon d a s)
  | qgrd d => exact (execQgrd_answers d s).sound (execQgrd_canon d s)
  | qtop d a => exact (execQtop_answers d a s).sound (execQtop_canon d a s)
  | qspd d a => exact (execQspd_answers d a s).sound (execQspd_canon d a s)
  | qblt d a b => exact (execQblt_answers d a b s).sound (execQblt_canon d a b s)
  | qrng d a => exact (execQrng_answers d a s).sound (execQrng_canon d a s)
  | coff a => exact (execCoff_answers a s).sound (execCoff_canon a s)
  | sigv a b => exact (execSigv_answers a b s).sound (execSigv_canon a b s)
  | crcc d a b n => exact (execCrcc_answers d a b n s).sound (execCrcc_canon d a b n s)
  | fadd t d a b r => exact (execFadd_answers t d a b r s).sound (execFadd_canon t d a b r s)
  | fsub t d a b r => exact (execFsub_answers t d a b r s).sound (execFsub_canon t d a b r s)
  | fmul t d a b r => exact (execFmul_answers t d a b r s).sound (execFmul_canon t d a b r s)
  | fdiv t d a b r => exact (execFdiv_answers t d a b r s).sound (execFdiv_canon t d a b r s)
  | fsqrt t d a r => exact (execFsqrt_answers t d a r s).sound (execFsqrt_canon t d a r s)
  | fmin t d a b => exact (execFmin_answers t d a b s).sound (execFmin_canon t d a b s)
  | fmax t d a b => exact (execFmax_answers t d a b s).sound (execFmax_canon t d a b s)
  | fabs t d a => exact (execFabs_answers t d a s).sound (execFabs_canon t d a s)
  | fneg t d a => exact (execFneg_answers t d a s).sound (execFneg_canon t d a s)
  | fsgn t d a b => exact (execFsgn_answers t d a b s).sound (execFsgn_canon t d a b s)
  | feq t d a b => exact (execFeq_answers t d a b s).sound (execFeq_canon t d a b s)
  | flt t d a b => exact (execFlt_answers t d a b s).sound (execFlt_canon t d a b s)
  | fle t d a b => exact (execFle_answers t d a b s).sound (execFle_canon t d a b s)
  | fcls t d a => exact (execFcls_answers t d a s).sound (execFcls_canon t d a s)
  | ffma t d a b c => exact (execFfma_answers t d a b c s).sound (execFfma_canon t d a b c s)
  | ffms t d a b c => exact (execFfms_answers t d a b c s).sound (execFfms_canon t d a b c s)
  | fcvt t d a src r => exact (execFcvt_answers t d a src r s).sound (execFcvt_canon t d a src r s)
  | fcvi t d a ty r => exact (execFcvi_answers t d a ty r s).sound (execFcvi_canon t d a ty r s)
  | icvf t d a ty r => exact (execIcvf_answers t d a ty r s).sound (execIcvf_canon t d a ty r s)
  | frnd t d a r => exact (execFrnd_answers t d a r s).sound (execFrnd_canon t d a r s)
  | fscl t d a b r => exact (execFscl_answers t d a b r s).sound (execFscl_canon t d a b r s)
  | mvgf t d a => exact (execMvgf_answers t d a s).sound (execMvgf_canon t d a s)
  | mvfg t d a => exact (execMvfg_answers t d a s).sound (execMvfg_canon t d a s)
  | tenc t d a n => exact (execTenc_answers t d a n s).sound (execTenc_canon t d a n s)
  | tdec d a n => exact (execTdec_answers d a n s).sound (execTdec_canon d a n s)
  | tbld a n => exact (execTbld_answers a n s).sound (execTbld_canon a n s)
  | ldB d b q o => exact (execLdB_answers d b q o s).sound (execLdB_canon d b q o s)
  | ldH d b q o => exact (execLdH_answers d b q o s).sound (execLdH_canon d b q o s)
  | ldW d b q o => exact (execLdW_answers d b q o s).sound (execLdW_canon d b q o s)
  | ldD d b q o => exact (execLdD_answers d b q o s).sound (execLdD_canon d b q o s)
  | ldnB d b q o => exact (execLdnB_answers d b q o s).sound (execLdnB_canon d b q o s)
  | ldnH d b q o => exact (execLdnH_answers d b q o s).sound (execLdnH_canon d b q o s)
  | ldnW d b q o => exact (execLdnW_answers d b q o s).sound (execLdnW_canon d b q o s)
  | stB d b q o => exact (execStB_answers d b q o s).sound (execStB_canon d b q o s)
  | stH d b q o => exact (execStH_answers d b q o s).sound (execStH_canon d b q o s)
  | stW d b q o => exact (execStW_answers d b q o s).sound (execStW_canon d b q o s)
  | stD d b q o => exact (execStD_answers d b q o s).sound (execStD_canon d b q o s)
  | ldfH d b q o => exact (execLdfH_answers d b q o s).sound (execLdfH_canon d b q o s)
  | ldfW d b q o => exact (execLdfW_answers d b q o s).sound (execLdfW_canon d b q o s)
  | ldfD d b q o => exact (execLdfD_answers d b q o s).sound (execLdfD_canon d b q o s)
  | stfH d b q o => exact (execStfH_answers d b q o s).sound (execStfH_canon d b q o s)
  | stfW d b q o => exact (execStfW_answers d b q o s).sound (execStfW_canon d b q o s)
  | stfD d b q o => exact (execStfD_answers d b q o s).sound (execStfD_canon d b q o s)
  | ldp d b q o => exact (execLdp_answers d b q o s).sound (execLdp_canon d b q o s)
  | stp d b q o => exact (execStp_answers d b q o s).sound (execStp_canon d b q o s)
  | pref h b o => exact (execPref_answers h b o s).sound (execPref_canon h b o s)
  | cfls b o => exact (execCfls_answers b o s).sound (execCfls_canon b o s)
  | cinv b o => exact (execCinv_answers b o s).sound (execCinv_canon b o s)
  | tgld d b o => exact (execTgld_answers d b o s).sound (execTgld_canon d b o s)
  | tgst d b o => exact (execTgst_answers d b o s).sound (execTgst_canon d b o s)
  | visit b o => exact (execVisit_answers b o s).sound (execVisit_canon b o s)
  | tkaq a => exact (execTkaq_answers a s).sound (execTkaq_canon a s)
  | tkhd a b => exact (execTkhd_answers a b s).sound (execTkhd_canon a b s)
  | cflx a => exact (execCflx_answers a s).sound (execCflx_canon a s)
  | fenceAcq sc => exact (execFenceAcq_answers sc s).sound (execFenceAcq_canon sc s)
  | fenceRel sc => exact (execFenceRel_answers sc s).sound (execFenceRel_canon sc s)
  | fenceAr sc => exact (execFenceAr_answers sc s).sound (execFenceAr_canon sc s)
  | aadd a b z => exact (execAadd_answers a b z s).sound (execAadd_canon a b z s)
  | aand a b z => exact (execAand_answers a b z s).sound (execAand_canon a b z s)
  | aor a b z => exact (execAor_answers a b z s).sound (execAor_canon a b z s)
  | axor a b z => exact (execAxor_answers a b z s).sound (execAxor_canon a b z s)
  | amin a b z => exact (execAmin_answers a b z s).sound (execAmin_canon a b z s)
  | amax a b z => exact (execAmax_answers a b z s).sound (execAmax_canon a b z s)
  | aminn a b z => exact (execAminn_answers a b z s).sound (execAminn_canon a b z s)
  | amaxn a b z => exact (execAmaxn_answers a b z s).sound (execAmaxn_canon a b z s)
  | aswp a b z => exact (execAswp_answers a b z s).sound (execAswp_canon a b z s)
  | acas a b z c => exact (execAcas_answers a b z c s).sound (execAcas_canon a b z c s)
  | afaddF32 a b => exact (execAfaddF32_answers a b s).sound (execAfaddF32_canon a b s)
  | aaddR d a b z => exact (execAaddR_answers d a b z s).sound (execAaddR_canon d a b z s)
  | aandR d a b z => exact (execAandR_answers d a b z s).sound (execAandR_canon d a b z s)
  | aorR d a b z => exact (execAorR_answers d a b z s).sound (execAorR_canon d a b z s)
  | axorR d a b z => exact (execAxorR_answers d a b z s).sound (execAxorR_canon d a b z s)
  | aminR d a b z => exact (execAminR_answers d a b z s).sound (execAminR_canon d a b z s)
  | amaxR d a b z => exact (execAmaxR_answers d a b z s).sound (execAmaxR_canon d a b z s)
  | aminnR d a b z => exact (execAminnR_answers d a b z s).sound (execAminnR_canon d a b z s)
  | amaxnR d a b z => exact (execAmaxnR_answers d a b z s).sound (execAmaxnR_canon d a b z s)
  | aswpR d a b z => exact (execAswpR_answers d a b z s).sound (execAswpR_canon d a b z s)
  | acasR d a b z c => exact (execAcasR_answers d a b z c s).sound (execAcasR_canon d a b z c s)
  | afaddRF32 d a b => exact (execAfaddRF32_answers d a b s).sound (execAfaddRF32_canon d a b s)
  | bara a => exact (execBara_answers a s).sound (execBara_canon a s)
  | barw d a b => exact (execBarw_answers d a b s).sound (execBarw_canon d a b s)
  | bars d a => exact (execBars_answers d a s).sound (execBars_canon d a s)
  | acqs d a => exact (execAcqs_answers d a s).sound (execAcqs_canon d a s)
  | cmts a b => exact (execCmts_answers a b s).sound (execCmts_canon a b s)
  | peks d a => exact (execPeks_answers d a s).sound (execPeks_canon d a s)
  | rels a b => exact (execRels_answers a b s).sound (execRels_canon a b s)
  | wtfe d a b => exact (execWtfe_answers d a b s).sound (execWtfe_canon d a b s)
  | hnew d a => exact (execHnew_answers d a s).sound (execHnew_canon d a s)
  | hset a => exact (execHset_answers a s).sound (execHset_canon a s)
  | hget d => exact (execHget_answers d s).sound (execHget_canon d s)
  | hconf a => exact (execHconf_answers a s).sound (execHconf_canon a s)
  | href a => exact (execHref_answers a s).sound (execHref_canon a s)
  | hstat d a => exact (execHstat_answers d a s).sound (execHstat_canon d a s)
  | hwait d a b => exact (execHwait_answers d a b s).sound (execHwait_canon d a b s)
  | acca a b n => exact (execAcca_answers a b n s).sound (execAcca_canon a b n s)
  | accr a b n => exact (execAccr_answers a b n s).sound (execAccr_canon a b n s)
  | accz n => exact (execAccz_answers n s).sound (execAccz_canon n s)
  | accn d b n => exact (execAccn_answers d b n s).sound (execAccn_canon d b n s)
  | accx d b n => exact (execAccx_answers d b n s).sound (execAccx_canon d b n s)
  | lnch a b => exact (execLnch_answers a b s).sound (execLnch_canon a b s)
  | lnci a b c => exact (execLnci_answers a b c s).sound (execLnci_canon a b c s)
  | scfg q img rpt slot => exact (execScfg_answers q img rpt slot s).sound (execScfg_canon q img rpt slot s)
  | splc q part slot ninst queue => exact (execSplc_answers q part slot ninst queue s).sound (execSplc_canon q part slot ninst queue s)
  | splcU q part slot queue => exact (execSplcU_answers q part slot queue s).sound (execSplcU_canon q part slot queue s)
  | smov q slot inst lx ly any => exact (execSmov_answers q slot inst lx ly any s).sound (execSmov_canon q slot inst lx ly any s)
  | sarm q abs ep slot inst count => exact (execSarm_answers q abs ep slot inst count s).sound (execSarm_canon q abs ep slot inst count s)
  | sbnd q ep slot inst value ety => exact (execSbnd_answers q ep slot inst value ety s).sound (execSbnd_canon q ep slot inst value ety s)
  | sbndT q slot inst page port tag => exact (execSbndT_answers q slot inst page port tag s).sound (execSbndT_canon q slot inst page port tag s)
  | sseg q last slot tiles => exact (execSseg_answers q last slot tiles s).sound (execSseg_canon q last slot tiles s)
  | ssyn q n queue addr value => exact (execSsyn_answers q n queue addr value s).sound (execSsyn_canon q n queue addr value s)
  | scpy q o => exact (execScpy_answers q o s).sound (execScpy_canon q o s)
  | sgth q o => exact (execSgth_answers q o s).sound (execSgth_canon q o s)
  | ssct q o => exact (execSsct_answers q o s).sound (execSsct_canon q o s)
  | slkp q o => exact (execSlkp_answers q o s).sound (execSlkp_canon q o s)
  | supd q o => exact (execSupd_answers q o s).sound (execSupd_canon q o s)
  | smig q tgt blk => exact (execSmig_answers q tgt blk s).sound (execSmig_canon q tgt blk s)
  | stbl q tbl desc free => exact (execStbl_answers q tbl desc free s).sound (execStbl_canon q tbl desc free s)
  | sdor q door slot inst blk => exact (execSdor_answers q door slot inst blk s).sound (execSdor_canon q door slot inst blk s)
  | swin q win slot obj ntf => exact (execSwin_answers q win slot obj ntf s).sound (execSwin_canon q win slot obj ntf s)
  | swinU q win slot => exact (execSwinU_answers q win slot s).sound (execSwinU_canon q win slot s)
  | sagp q pos prog pgm slot inst => exact (execSagp_answers q pos prog pgm slot inst s).sound (execSagp_canon q pos prog pgm slot inst s)
  | sagpU q pos prog => exact (execSagpU_answers q pos prog s).sound (execSagpU_canon q pos prog s)
  | sred q o => exact (execSred_answers q o s).sound (execSred_canon q o s)
  | scol q o => exact (execScol_answers q o s).sound (execScol_canon q o s)
  | sdrn q clear o => exact (execSdrn_answers q clear o s).sound (execSdrn_canon q clear o s)
  | shdr q ep slot inst scale tslot en => exact (execShdr_answers q ep slot inst scale tslot en s).sound (execShdr_canon q ep slot inst scale tslot en s)
  | nadd n => exact (execNadd_answers n s).sound (execNadd_canon n s)
  | nsub n => exact (execNsub_answers n s).sound (execNsub_canon n s)
  | nmul n => exact (execNmul_answers n s).sound (execNmul_canon n s)
  | nfma n => exact (execNfma_answers n s).sound (execNfma_canon n s)
  | nmin n => exact (execNmin_answers n s).sound (execNmin_canon n s)
  | nmax n => exact (execNmax_answers n s).sound (execNmax_canon n s)
  | nabs n => exact (execNabs_answers n s).sound (execNabs_canon n s)
  | nneg n => exact (execNneg_answers n s).sound (execNneg_canon n s)
  | ncmp n => exact (execNcmp_answers n s).sound (execNcmp_canon n s)
  | nsel n => exact (execNsel_answers n s).sound (execNsel_canon n s)
  | ncvt n => exact (execNcvt_answers n s).sound (execNcvt_canon n s)
  | ndec n => exact (execNdec_answers n s).sound (execNdec_canon n s)
  | nenc n => exact (execNenc_answers n s).sound (execNenc_canon n s)
  | nand n => exact (execNand_answers n s).sound (execNand_canon n s)
  | nor n => exact (execNor_answers n s).sound (execNor_canon n s)
  | nxor n => exact (execNxor_answers n s).sound (execNxor_canon n s)
  | nshl n => exact (execNshl_answers n s).sound (execNshl_canon n s)
  | nshr n => exact (execNshr_answers n s).sound (execNshr_canon n s)
  | nred n => exact (execNred_answers n s).sound (execNred_canon n s)
  | nacc n => exact (execNacc_answers n s).sound (execNacc_canon n s)
  | ncnt n => exact (execNcnt_answers n s).sound (execNcnt_canon n s)
  | nbnd n => exact (execNbnd_answers n s).sound (execNbnd_canon n s)
  | ncon n => exact (execNcon_answers n s).sound (execNcon_canon n s)
  | nrly n => exact (execNrly_answers n s).sound (execNrly_canon n s)
  | nld n => exact (execNld_answers n s).sound (execNld_canon n s)
  | nst n => exact (execNst_answers n s).sound (execNst_canon n s)
  | nown n => exact (execNown_answers n s).sound (execNown_canon n s)
  | ndor n => exact (execNdor_answers n s).sound (execNdor_canon n s)
  | sectionStep n => exact (execSectionStep_answers n s).sound (execSectionStep_canon n s)
  | steer r => exact (execSteer_answers r s).sound (execSteer_canon r s)
  | gate r => exact (execGate_answers r s).sound (execGate_canon r s)
  | fork r => exact (execFork_answers r s).sound (execFork_canon r s)
  | sink r => exact (execSink_answers r s).sound (execSink_canon r s)
  | merge r => exact (execMerge_answers r s).sound (execMerge_canon r s)
  | carry r => exact (execCarry_answers r s).sound (execCarry_canon r s)
  | invar r => exact (execInvar_answers r s).sound (execInvar_canon r s)
  | cseq r => exact (execCseq_answers r s).sound (execCseq_canon r s)
  | cpip r => exact (execCpip_answers r s).sound (execCpip_canon r s)
  | cstr r => exact (execCstr_answers r s).sound (execCstr_canon r s)
  | creditReturn x k => exact (execCreditReturn_answers x k s).sound (execCreditReturn_canon x k s)
  | flitArrive x k => exact (execFlitArrive_answers x k s).sound (execFlitArrive_canon x k s)
  | portResultReturn x page port k => exact (execPortResultReturn_answers x page port k s).sound (execPortResultReturn_canon x page port k s)
  | pageRowDrain x page row => exact (execPageRowDrain_answers x page row s).sound (execPageRowDrain_canon x page row s)
  | storeEventApply site => exact (execStoreEventApply_answers site s).sound (execStoreEventApply_canon site s)
  | issueWaitComplete p => exact (execIssueWaitComplete_answers p s).sound (execIssueWaitComplete_canon p s)
  | divideComplete p => exact (execDivideComplete_answers p s).sound (execDivideComplete_canon p s)
  | tbldComplete p => exact (execTbldComplete_answers p s).sound (execTbldComplete_canon p s)
  | imageWriteComplete p => exact (execImageWriteComplete_answers p s).sound (execImageWriteComplete_canon p s)
  | drainComplete p => exact (execDrainComplete_answers p s).sound (execDrainComplete_canon p s)
  | storePerform k => exact (execStorePerform_answers k s).sound (execStorePerform_canon k s)
  | feWaiterRetry p => exact (execFeWaiterRetry_answers p s).sound (execFeWaiterRetry_canon p s)
  | atomicApply k => exact (execAtomicApply_answers k s).sound (execAtomicApply_canon k s)
  | tlbWalkLevelReturn p => exact (execTlbWalkLevelReturn_answers p s).sound (execTlbWalkLevelReturn_canon p s)
  | pageFillComplete k err => exact (execPageFillComplete_answers k err s).sound (execPageFillComplete_canon k err s)
  | watchDeliver p => exact (execWatchDeliver_answers p s).sound (execWatchDeliver_canon p s)
  | landingRequestArrive k => exact (execLandingRequestArrive_answers k s).sound (execLandingRequestArrive_canon k s)
  | landingReplyArrive k => exact (execLandingReplyArrive_answers k s).sound (execLandingReplyArrive_canon k s)
  | caravanLand k => exact (execCaravanLand_answers k s).sound (execCaravanLand_canon k s)
  | flushAckArrive k => exact (execFlushAckArrive_answers k s).sound (execFlushAckArrive_canon k s)
  | tokenRequestArrive k => exact (execTokenRequestArrive_answers k s).sound (execTokenRequestArrive_canon k s)
  | tokenRequestRetry k => exact (execTokenRequestRetry_answers k s).sound (execTokenRequestRetry_canon k s)
  | tokenRecallComplete k => exact (execTokenRecallComplete_answers k s).sound (execTokenRecallComplete_canon k s)
  | tokenGrantArrive k => exact (execTokenGrantArrive_answers k s).sound (execTokenGrantArrive_canon k s)
  | llcEvict line => exact (execLlcEvict_answers line s).sound (execLlcEvict_canon line s)
  | cacheEvict k => exact (execCacheEvict_answers k s).sound (execCacheEvict_canon k s)
  | barrierRelease ctx b => exact (execBarrierRelease_answers ctx b s).sound (execBarrierRelease_canon ctx b s)
  | timedWaitTimeout p => exact (execTimedWaitTimeout_answers p s).sound (execTimedWaitTimeout_canon p s)
  | signalDeliver k => exact (execSignalDeliver_answers k s).sound (execSignalDeliver_canon k s)
  | interruptEntry core => exact (execInterruptEntry_answers core s).sound (execInterruptEntry_canon core s)
  | retirementRun => exact (execRetirementRun_answers s).sound (execRetirementRun_canon s)
  | resyncPulse => exact (execResyncPulse_answers s).sound (execResyncPulse_canon s)
  | hypControllerRequest ctx => exact (execHypControllerRequest_answers ctx s).sound (execHypControllerRequest_canon ctx s)
  | hconfMerge ctx => exact (execHconfMerge_answers ctx s).sound (execHconfMerge_canon ctx s)
  | hrefDiscard ctx => exact (execHrefDiscard_answers ctx s).sound (execHrefDiscard_canon ctx s)
  | orphan p => exact (execOrphan_answers p s).sound (execOrphan_canon p s)
  | hypOutcomeArrive k => exact (execHypOutcomeArrive_answers k s).sound (execHypOutcomeArrive_canon k s)
  | commandAccept ctx => exact (execCommandAccept_answers ctx s).sound (execCommandAccept_canon ctx s)
  | commandComplete ctx id => exact (execCommandComplete_answers ctx id s).sound (execCommandComplete_canon ctx id s)
  | instancePlace k => exact (execInstancePlace_answers k s).sound (execInstancePlace_canon k s)
  | instanceDisplace x => exact (execInstanceDisplace_answers x s).sound (execInstanceDisplace_canon x s)
  | instanceCompact x lx ly => exact (execInstanceCompact_answers x lx ly s).sound (execInstanceCompact_canon x lx ly s)
  | instanceSaveComplete x => exact (execInstanceSaveComplete_answers x s).sound (execInstanceSaveComplete_canon x s)
  | segmentBoundary x => exact (execSegmentBoundary_answers x s).sound (execSegmentBoundary_canon x s)
  | graphEnd ctx g => exact execGraphEnd_sound ctx g s
  | sinkWaitTimeout ctx g => exact execSinkWaitTimeout_sound ctx g s
  | launchStart ctx qn => exact (execLaunchStart_answers ctx qn s).sound (execLaunchStart_canon ctx qn s)
  | threadLand ctx qn => exact (execThreadLand_answers ctx qn s).sound (execThreadLand_canon ctx qn s)
  | launchComplete ctx k => exact (execLaunchComplete_answers ctx k s).sound (execLaunchComplete_canon ctx k s)
  | hangDetect x => exact (execHangDetect_answers x s).sound (execHangDetect_canon x s)
  | boundaryShutter x => exact (execBoundaryShutter_answers x s).sound (execBoundaryShutter_canon x s)
  | cfgeccError x page => exact (execCfgeccError_answers x page s).sound (execCfgeccError_canon x page s)
  | transferStart pos => exact (execTransferStart_answers pos s).sound (execTransferStart_canon pos s)
  | transferComplete pos k => exact (execTransferComplete_answers pos k s).sound (execTransferComplete_canon pos k s)
  | edgeProgramFlit pos prog => exact (execEdgeProgramFlit_answers pos prog s).sound (execEdgeProgramFlit_canon pos prog s)
  | smigCommit k => exact (execSmigCommit_answers k s).sound (execSmigCommit_canon k s)
  | tableVersionFree ctx k => exact (execTableVersionFree_answers ctx k s).sound (execTableVersionFree_canon ctx k s)
  | doorThreadLand x door => exact (execDoorThreadLand_answers x door s).sound (execDoorThreadLand_canon x door s)
  | doorResultRelease x door => exact (execDoorResultRelease_answers x door s).sound (execDoorResultRelease_canon x door s)
  | routeRequestFail p k => exact (execRouteRequestFail_answers p k s).sound (execRouteRequestFail_canon p k s)
  | routeLinkChange port up lanes => exact (execRouteLinkChange_answers port up lanes s).sound (execRouteLinkChange_canon port up lanes s)
  | corePowerOff site => exact (execCorePowerOff_answers site s).sound (execCorePowerOff_canon site s)
  | coreWake site => exact (execCoreWake_answers site s).sound (execCoreWake_canon site s)
  | activityBalance row act0 act1 => exact (execActivityBalance_answers row act0 act1 s).sound (execActivityBalance_canon row act0 act1 s)
  | startUp => exact (execStartUp_answers s).sound (execStartUp_canon s)
  | mgmtFrameReceive frame => exact (execMgmtFrameReceive_answers frame s).sound (execMgmtFrameReceive_canon frame s)
  | ownerReset req => exact (execOwnerReset_answers req s).sound (execOwnerReset_canon req s)
  | keytabEnrol req => exact (execKeytabEnrol_answers req s).sound (execKeytabEnrol_canon req s)
  | attestationRequest nonce => exact (execAttestationRequest_answers nonce s).sound (execAttestationRequest_canon nonce s)
  | rerunCompare x tile shadow anchor => exact (execRerunCompare_answers x tile shadow anchor s).sound (execRerunCompare_canon x tile shadow anchor s)
  | tlbinvWrite ctx v => exact (execTlbinvWrite_answers ctx v s).sound (execTlbinvWrite_canon ctx v s)
  | tlbInvalidationDone ctx => exact (execTlbInvalidationDone_answers ctx s).sound (execTlbInvalidationDone_canon ctx s)
  | rgnctlCountWrite ctx v => exact (execRgnctlCountWrite_answers ctx v s).sound (execRgnctlCountWrite_canon ctx v s)
  | regionTableReadDone ctx => exact (execRegionTableReadDone_answers ctx s).sound (execRegionTableReadDone_canon ctx s)
  | rlogctlPendClear ctx v => exact (execRlogctlPendClear_answers ctx v s).sound (execRlogctlPendClear_canon ctx v s)
  | fqctlRdWrite ctx fq v => exact (execFqctlRdWrite_answers ctx fq v s).sound (execFqctlRdWrite_canon ctx fq v s)
  | cxrsmResume ctx v => exact (execCxrsmResume_answers ctx v s).sound (execCxrsmResume_canon ctx v s)
  | cxrsmDiscard ctx v => exact (execCxrsmDiscard_answers ctx v s).sound (execCxrsmDiscard_canon ctx v s)
  | cxpreWrite ctx v => exact (execCxpreWrite_answers ctx v s).sound (execCxpreWrite_canon ctx v s)
  | cxrstGo ctx => exact (execCxrstGo_answers ctx s).sound (execCxrstGo_canon ctx s)
  | bmaskWrite ctx b bw v => exact (execBmaskWrite_answers ctx b bw v s).sound (execBmaskWrite_canon ctx b bw v s)
  | presRetry site port => exact (execPresRetry_answers site port s).sound (execPresRetry_canon site port s)
  | presDiscard site port => exact (execPresDiscard_answers site port s).sound (execPresDiscard_canon site port s)
  | stresRetry pos ctx => exact (execStresRetry_answers pos ctx s).sound (execStresRetry_canon pos ctx s)
  | stresDiscard pos ctx => exact (execStresDiscard_answers pos ctx s).sound (execStresDiscard_canon pos ctx s)
  | shutctlResume ctx v => exact (execShutctlResume_answers ctx v s).sound (execShutctlResume_canon ctx v s)
  | shutctlDiscard ctx v => exact (execShutctlDiscard_answers ctx v s).sound (execShutctlDiscard_canon ctx v s)
  | shutctlReload ctx v => exact (execShutctlReload_answers ctx v s).sound (execShutctlReload_canon ctx v s)
  | gctlCommit v => exact (execGctlCommit_answers v s).sound (execGctlCommit_canon v s)
  | groupCommitDone => exact (execGroupCommitDone_answers s).sound (execGroupCommitDone_canon s)
  | routecfgWrite v => exact (execRoutecfgWrite_answers v s).sound (execRoutecfgWrite_canon v s)
  | rtmapWrite m v => exact (execRtmapWrite_answers m v s).sound (execRtmapWrite_canon m v s)
  | rtuctlStage v => exact (execRtuctlStage_answers v s).sound (execRtuctlStage_canon v s)
  | rtuStagingDone => exact (execRtuStagingDone_answers s).sound (execRtuStagingDone_canon s)
  | rtuctlCommit => exact (execRtuctlCommit_answers s).sound (execRtuctlCommit_canon s)
  | rtuctlAbort => exact (execRtuctlAbort_answers s).sound (execRtuctlAbort_canon s)
  | rrstatClear => exact (execRrstatClear_answers s).sound (execRrstatClear_canon s)
  | registerWrite off v => exact (execRegisterWrite_answers off v s).sound (execRegisterWrite_canon off v s)
  | placingComplete x => exact (execPlacingComplete_answers x s).sound (execPlacingComplete_canon x s)
  | managementPortLinkUp rs => exact (execManagementPortLinkUp_answers rs s).sound (execManagementPortLinkUp_canon rs s)

theorem exec_answers (i : Instr) (s : State) : Answers (exec i s) := (exec_sound i s).1

theorem exec_keeps (i : Instr) {s : State} (h : s.Canon) : Keeps (exec i s) := (exec_sound i s).2 h

/-- A step is the answer of its agenda or the meaning of the agenda's instruction, and both keep canonical memories. -/
theorem step_keeps {s : State} (h : s.Canon) : Keeps (step s) := by
  have ha := State.agenda_canon s h
  unfold step
  split
  · next r e => rw [e] at ha; exact ha
  · next i u e => exact exec_keeps i (canon_of_run e ha)

/-- Settles O60: what the agenda leaves and every meaning keep both memories in canonical form. -/
theorem memoryStaysCanonical : Obligations.MemoryStaysCanonical := by
  intro s t hm hp ht
  exact keeps_of ht (step_keeps ⟨hm, hp⟩)

/-- Settles O29, one meaning at a time. -/
theorem everyInstructionAnswers : Obligations.EveryInstructionAnswers :=
  fun i s => exec_answers i s

/-! ### The turn of the thread or control core that acts (R12, R79) -/

theorem step_of_answer {s : State} {r : Result} (h : s.agenda = .answer r) : step s = r := by
  unfold step; rw [h]

theorem step_of_run {s u : State} {i : Instr} (h : s.agenda = .run i u) : step s = exec i u := by
  unfold step; rw [h]

theorem Thread.resident_of_control {t : Thread} (h : t.onControl = true) : t.resident = true := by simp [Thread.resident, h]

theorem Thread.resident_of_slot {t : Thread} {n : Fin 1024} {k : Fin 16} (h : t.place = .slot n k) : t.resident = true := by
  simp [Thread.resident, Thread.onBarrel, h]

theorem State.nextTurn_of_control {s : State} (h : s.th.onControl = true) : s.nextTurn = s.ownTurn := by
  unfold Thread.onControl at h
  unfold State.nextTurn
  split at h <;> simp_all

/-- A place that the acting thread holds keeps its focus. -/
theorem State.focus_here {s : State} {p : Place} (h : s.th.place = p) : s.focus p = some s := by
  unfold State.focus; rw [if_pos h]

/-- A core cycle gives its turn to the thread that the focus of ROT's slot brings up. -/
theorem State.coreCycle_of_focus {s t : State} {n : Fin 1024}
    (h : State.focus (s.setSite n { s.site n with rot := (s.site n).rot + 1 }) (.slot n (s.site n).rot.toFin) = some t) :
    s.coreCycle n = t.ownTurn := by
  unfold State.coreCycle; simp only [h]

theorem State.nextTurn_of_slot {s : State} {n : Fin 1024} {k : Fin 16} (hp : s.th.place = .slot n k) (hr : (s.site n).rot.toNat = k.val) :
    s.nextTurn = (s.setSite n { s.site n with rot := (s.site n).rot + 1 }).ownTurn := by
  have hk : (s.site n).rot.toFin = k := Fin.ext hr
  have hf := State.focus_here (s := s.setSite n { s.site n with rot := (s.site n).rot + 1 }) (p := .slot n (s.site n).rot.toFin)
    (hk ▸ hp)
  unfold State.nextTurn
  rw [hp]
  exact State.coreCycle_of_focus hf

theorem State.agenda_idle {s : State} (hi : s.inputs = []) (hb : s.boot = .up) : s.agenda = s.nextTurn := by
  unfold State.agenda; rw [hi]; simp only [hb]

/-- With no stop due, a turn in RUN fetches. -/
theorem State.ownTurn_fetches {s : State} (hres : s.th.resident = true) (hst : s.th.st = .run)
    (hh : (s.th.onBarrel && (s.ctx s.th.ctx).halted) = false) (ho : s.isOrphan = false) (hw : s.watchDue = false)
    (hi : s.interruptDue = none) :
    s.ownTurn = match s.fetchPa with
      | .error e => .answer (inTrouble s (s.th.pc.setWidth 64) e)
      | .ok pa => .run (instrOf (s.codeWord pa)) (s.fetchFill pa) := by
  unfold State.ownTurn State.runTurn
  rw [hst, hi]
  simp only [hres, hh, ho, hw, Bool.not_true, Bool.false_eq_true, if_false] <;> rfl

theorem instrOf_of_ok {w : BitVec 32} {i : Instr} (h : decode w = .ok i) : instrOf w = i := by unfold instrOf; rw [h]

theorem instrOf_of_error {w : BitVec 32} {e} (h : decode w = .error e) : instrOf w = .illegal w := by unfold instrOf; rw [h]

/-- Settles O5: the agenda is the turn of the acting thread or control core, and with no stop due that turn fetches. -/
theorem stepRunsTheDecodedInstruction : Obligations.StepRunsTheDecodedInstruction := by
  intro s u hin hb hu hst hh ho hw hi
  have hturn : s.agenda = u.ownTurn ∧ u.th.resident = true := by
    rw [State.agenda_idle hin hb]
    rcases hu with ⟨hc, rfl⟩ | ⟨n, k, hp, hr, rfl⟩
    · exact ⟨State.nextTurn_of_control hc, Thread.resident_of_control hc⟩
    · exact ⟨State.nextTurn_of_slot hp hr, Thread.resident_of_slot (t := s.th) hp⟩
  obtain ⟨hag, hres⟩ := hturn
  rw [State.ownTurn_fetches hres hst hh ho hw hi] at hag
  refine ⟨fun pa i hf hd => ?_, fun pa e hf hd => ?_, fun e hf => ?_⟩ <;> rw [hf] at hag
  · rw [step_of_run hag, instrOf_of_ok hd]
  · rw [step_of_run hag, instrOf_of_error hd]
  · exact step_of_answer hag

/-! ### The inputs of the tape (R12) -/

theorem State.agenda_take {s : State} {a : Input} {rest : List Input} (hb : s.boot = .up) (hi : s.inputs = a :: rest) :
    s.agenda = State.take { s with inputs := rest } a := by
  unfold State.agenda; rw [hi, hb]

theorem State.agenda_starting {s : State} {a : Input} {rest : List Input} {st un : Nat} (hb : s.boot = .starting st un)
    (hi : s.inputs = a :: rest) : s.agenda = .run .startUp { s with inputs := rest } := by
  unfold State.agenda; rw [hi, hb]

theorem State.agenda_starting_idle {s : State} {st un : Nat} (hb : s.boot = .starting st un) (hi : s.inputs = []) :
    s.agenda = .run .startUp s := by
  unfold State.agenda; rw [hi, hb]

/-- The agenda after a failed boot, for an input that waits (R446). -/
theorem State.agenda_failed {s : State} {a : Input} {rest : List Input} (hb : s.boot = .failed) (hi : s.inputs = a :: rest) :
    s.agenda = match bootAnswers a with
      | some i => .run i { s with inputs := rest }
      | none =>
        if isAgent a then .answer (.next (State.answer { s with inputs := rest } .bootFailure)) else .answer (.fault .bootFailed) := by
  unfold State.agenda; rw [hi, hb] <;> rfl

theorem State.agenda_failed_idle {s : State} (hb : s.boot = .failed) (hi : s.inputs = []) : s.agenda = .answer (.fault .bootFailed) := by
  unfold State.agenda; rw [hi, hb]

/-! ### Time (R16, R243) -/

/-- Only the contexts differ: what dating the drains of graphs comes to. -/
def SameButCtxs (s t : State) : Prop := t = { s with ctxs := t.ctxs }

theorem SameButCtxs.refl (s : State) : SameButCtxs s s := rfl

theorem SameButCtxs.trans {s t u : State} (h : SameButCtxs s t) (k : SameButCtxs t u) : SameButCtxs s u := by
  unfold SameButCtxs at *; rw [k, h]

theorem SameButCtxs.foldl {β : Type} {f : State → β → State} (hf : ∀ s x, SameButCtxs s (f s x)) (l : List β) (s : State) :
    SameButCtxs s (l.foldl f s) := by
  induction l generalizing s with
  | nil => exact .refl s
  | cons x l ih => exact (hf s x).trans (ih _)

theorem State.updGraph_ctxs (s : State) (c : Fin 16) (g : Fin 4) (f : Graph → Graph) : SameButCtxs s (s.updGraph c g f) := rfl

theorem State.noteGraph_ctxs (s : State) (c : Fin 16) (g : Fin 4) : SameButCtxs s (s.noteGraph c g) := by
  unfold State.noteGraph
  split
  · exact .refl s
  · next r _ =>
    extract_lets u past idle coming
    have hu : SameButCtxs s u := by
      simp only [u]
      split
      · split
        · exact State.updGraph_ctxs s c g _
        · exact .refl s
      · exact .refl s
    clear_value u
    split
    · exact hu
    · split
      · exact hu.trans (State.updGraph_ctxs u c g _)
      · split
        · exact hu.trans (State.updGraph_ctxs u c g _)
        · exact hu

theorem State.noteDrains_ctxs (s : State) : SameButCtxs s s.noteDrains :=
  .foldl (fun s c => .foldl (fun s g => s.noteGraph_ctxs c g) _ s) _ s

/-- Letting counters go changes no counter's time. -/
theorem State.letGo_time (s : State) (g : Fin 8) : (s.letGo.fields[g]).time = (s.fields[g]).time := by
  simp only [State.letGo, Fin.getElem_fin, Vector.getElem_map]
  split <;> rfl

theorem State.elapse_of_hold {s : State} {f : Fin 8} (ns : Nat) (h : s.fields[f].hold = true) : s.elapse f ns = s.noteDrains := by
  have e : s.noteDrains.fields = s.fields := by rw [s.noteDrains_ctxs]
  unfold State.elapse
  simp only [e, h, if_true]

theorem State.elapse_time_of_run {s : State} {f : Fin 8} (ns : Nat) (h : s.fields[f].hold = false) (g : Fin 8) :
    (s.elapse f ns).fields[g].time = if g = f then later s.fields[f].time ns else s.fields[g].time := by
  have e : s.noteDrains.fields = s.fields := by rw [s.noteDrains_ctxs]
  unfold State.elapse
  simp only [e, h, Bool.false_eq_true, if_false]
  rw [State.letGo_time]
  by_cases hg : g = f
  · subst hg; simp
  · have : f.val ≠ g.val := fun k => hg (Fin.ext k.symm)
    simp [hg, this]

/-- The passing of time changes contexts, counters and the reference alone. -/
theorem State.elapse_frame (s : State) (f : Fin 8) (ns : Nat) :
    s.elapse f ns = { s with ctxs := (s.elapse f ns).ctxs, fields := (s.elapse f ns).fields, ref := (s.elapse f ns).ref } := by
  obtain ⟨c, h⟩ : ∃ c, s.noteDrains = { s with ctxs := c } := ⟨_, s.noteDrains_ctxs⟩
  unfold State.elapse
  simp only [h]
  split <;> rfl

/-! ### The registers that a management agent reaches (R448) -/

theorem State.agentRead_of_reg {s t : State} {o : Nat} {r : DevReg} (ht : s.focus (.control 0) = some t) (ho : spaceOf o = .device)
    (hr : devReg o = some r) :
    s.agentRead o = s.answer (if devAllowed true false r then .value o (t.devRead r) else .noAccess o) := by
  unfold State.agentRead; rw [if_pos ho, hr, ht]

theorem State.agentRead_of_none (s : State) {o : Nat} (h : spaceOf o ≠ .device ∨ devReg o = none) :
    s.agentRead o = s.answer (.noAccess o) := by
  have e : (if spaceOf o = .device then devReg o else none) = none := by
    rcases h with h | h
    · exact if_neg h
    · simp [h]
  unfold State.agentRead; rw [e]

theorem State.agentWrite_of_reg {s t : State} {o : Nat} {r : DevReg} (v : Word) (ht : s.focus (.control 0) = some t)
    (ho : spaceOf o = .device) (hr : devReg o = some r) :
    s.agentWrite o v = if !devAllowed true true r then s.answer (.noAccess o)
      else if t.devBusy r then { s with inputs := s.inputs ++ [.mgmtWrite o v] }
      else ((t.devWrite r v).returnTo s.th.place).answer (.written o) := by
  unfold State.agentWrite; rw [if_pos ho, hr, ht]

theorem State.agentRead_devid {s t : State} (ht : s.focus (.control 0) = some t) :
    s.agentRead 0x1FF00000000 = s.answer (.value 0x1FF00000000 devidValue) := by
  rw [State.agentRead_of_reg (r := .devid) ht (by decide) (by decide +kernel)]
  rfl

/-! ### The step of a waiting input -/

/-- Settles O6: what `take` gives each input while the module is up, and what the agenda is in the other states of start-up. -/
theorem inputsComeFirst : Obligations.InputsComeFirst := by
  intro s rest s' turn
  have hturn : ∀ a, s.agenda = a → step s = turn a := fun a h => by subst h; rfl
  refine ⟨fun hb => ?_, fun st un hb => ?_, fun hb => ?_⟩
  · have up : ∀ {a}, s.inputs = a :: rest → step s = turn (s'.take a) := fun hi => hturn _ (State.agenda_take hb hi)
    refine ⟨fun i hi => ?_, fun f ns hi => ?_, fun k t hi ht => ?_, fun n t hi ht => ?_, fun n k hi hk => ?_, fun o t ht hi => ?_,
      fun o v t r ht hi ho hr => ?_⟩
    · rw [up hi]
      constructor <;> intro h <;> simp [State.take, h, turn]
    · refine ⟨_, up hi, s'.elapse_frame f ns, fun hh hlt => ?_, fun hh => ?_, fun g hg => ?_⟩
      · rw [State.elapse_time_of_run (s := s') ns hh f, if_pos rfl]
        exact if_pos hlt
      · rw [State.elapse_of_hold (s := s') ns hh, s'.noteDrains_ctxs]
      · cases hh : s.fields[f].hold with
        | true => rw [State.elapse_of_hold (s := s') ns hh, s'.noteDrains_ctxs]
        | false => rw [State.elapse_time_of_run (s := s') ns hh g, if_neg hg]
    · rw [up hi]
      simp only [State.take, State.turnAt, ht]
    · rw [up hi]
      exact congrArg turn (State.coreCycle_of_focus (s := s') ht)
    · rw [up hi]
      simp only [State.take, State.turnAt]
      rw [if_neg (show (s'.site n).rot.toFin ≠ k from hk)]
    · rw [up hi]
      refine ⟨?_, fun r ho hr => ?_, fun h => ?_⟩
      · rintro rfl
        exact congrArg _ (State.agentRead_devid ht)
      · exact congrArg _ (State.agentRead_of_reg ht ho hr)
      · exact congrArg _ (s'.agentRead_of_none h)
    · rw [up hi]
      have e : turn (s'.take (.mgmtWrite o v)) = .next (s'.agentWrite o v) := rfl
      rw [e, State.agentWrite_of_reg v ht ho hr]
      refine ⟨fun h => ?_, fun h hbusy => ?_, fun h hbusy => ?_⟩
      · simp [h]
      · simp [h, hbusy, s']
      · simp [h, hbusy, s']
  · exact ⟨fun hi => step_of_run (State.agenda_starting_idle hb hi), fun a hi => step_of_run (State.agenda_starting hb hi)⟩
  · refine ⟨fun hi => step_of_answer (State.agenda_failed_idle hb hi), fun a hi hn ha => ?_, fun a i hi hs => ?_, fun o v hi => ?_, rfl,
      fun p => rfl⟩
    · exact step_of_answer (by rw [State.agenda_failed hb hi, hn, ha]; rfl)
    · exact step_of_run (by rw [State.agenda_failed hb hi, hs])
    · rcases hi with hi | hi <;> exact step_of_answer (State.agenda_failed hb hi)

/-! ### The state after reset (R7, R359, R422, R443) -/

@[simp] theorem State.reset_ctx (c : Fin 16) : State.reset.ctx c = Ctx.reset := by simp [State.ctx, State.reset]

@[simp] theorem State.reset_bar (c : Fin 16) (b : Fin 4) : State.reset.bar c b = Barrier.reset := by
  simp [State.bar, Ctx.reset]

@[simp] theorem State.reset_groupNow (g : Nat) : State.reset.groupNow g = defaultGroup g := by
  simp [State.groupNow, State.groupAt, State.reset, Groups.reset, groupIn, tget]

/-- No device register is listed after reset, so each reads its reset value. -/
theorem State.reset_reg (o : Nat) : State.reset.reg o = regReset o := rfl

theorem regReset_cxmode (c : Fin 16) : regReset (cxmodeAt c) = 0x1F := by
  unfold regReset cxmodeAt
  rw [if_pos (by omega)]

theorem regReset_hangint (c : Fin 16) : regReset (hangintAt c) = 1000 := by
  unfold regReset hangintAt spbaseAt
  rw [if_neg (by omega), if_pos (by omega)]

theorem regReset_rrcfg : regReset rrcfgAt = 12 := by decide

/-- The registers whose reset value is not 0 are CXMODE, HANGINT and the comparison rate (R359, R441, R451). -/
theorem regReset_other {o : Nat} (ho : o % 8 = 0) (hc : ∀ c : Fin 16, o ≠ cxmodeAt c ∧ o ≠ hangintAt c) (hr : o ≠ rrcfgAt) :
    regReset o = 0 := by
  unfold regReset
  rw [if_neg, if_neg, if_neg (show o ≠ 0x1FF00430000 from hr)]
  · rintro ⟨h, hm⟩
    exact (hc ⟨(o - 0x1FF000E0000) / 0x80, by omega⟩).2 (by unfold hangintAt spbaseAt; dsimp only; omega)
  · intro h
    exact (hc ⟨(o - 0x1FF00400000) / 8, by omega⟩).1 (by unfold cxmodeAt; dsimp only; omega)

theorem State.reset_threads : State.reset.threads = (List.finRange 16).map Thread.controlCore := rfl

theorem Thread.controlCore_gr (i : Fin 16) (r : Reg) : (Thread.controlCore i).gr r = 0 := by
  unfold Thread.gr Thread.controlCore Thread.blank
  split
  · rfl
  · simp

theorem defaultGroup_off {g : Nat} (h : g ≠ 0) : (defaultGroup g).desc = 0 := by unfold defaultGroup; rw [if_neg h]

/-- The fields of the default group's descriptor, in both grades (R422). -/
theorem defaultGroup_desc : bit (defaultGroup 0).desc 63 = true ∧ bits (defaultGroup 0).desc 16 6 = 30 ∧
    bits (defaultGroup 0).desc 24 6 = (if Config.isAe850 = true then 29 else 30) := by
  unfold defaultGroup
  cases Config.isAe850 <;> decide +kernel

/-- A table made of a list and its places holds each element at its place. -/
theorem tget_zipIdx {α β : Type} (d : β) (f : α → β) (l : List α) (k r : Nat) (a : α) (h : l[r]? = some a) :
    tget d ((l.zipIdx k).map fun e => (e.2, f e.1)) (k + r) = f a := by
  induction l generalizing k r with
  | nil => simp at h
  | cons x l ih =>
    cases r with
    | zero =>
      obtain rfl : x = a := by simpa using h
      simp [tget]
    | succ r =>
      have := ih (k + 1) r (by simpa using h)
      simp only [List.zipIdx_cons, List.map_cons, tget]
      rw [if_neg (by omega), ← this]
      congr 1
      omega

theorem defaultGroup_ranks {r : Nat} {n : Fin 1024} (h : defaultSites[r]? = some n) :
    tget 0 (defaultGroup 0).ranks r = rankEntry n := by
  have e : (defaultGroup 0).ranks = defaultSites.zipIdx.map fun e => (e.2, rankEntry e.1) := by unfold defaultGroup; rw [if_pos rfl]
  have := tget_zipIdx 0 (fun n : Fin 1024 => rankEntry n) defaultSites 0 r n h
  rw [Nat.zero_add] at this
  rw [e, this]

/-- Settles O59: each field of the reset state is read off, and the registers and ranks by the lemmas above. -/
theorem resetValues : Obligations.ResetValues := by
  unfold Obligations.ResetValues
  simp only [State.reset_reg, State.reset_groupNow, State.reset_ctx, State.reset_bar, State.reset_threads]
  refine ⟨Mem.wf_cleared, Mem.wf_cleared, fun a => ⟨rfl, rfl, rfl, rfl⟩, fun c => ?_, regReset_rrcfg,
    fun o ho hc hr => regReset_other ho hc hr, rfl, rfl, rfl, rfl, rfl, rfl, rfl, fun k hk => ?_, fun t ht => ?_, ?_, rfl, fun j => ?_,
    rfl, fun g hg => defaultGroup_off hg, ?_⟩
  · exact ⟨regReset_cxmode c, regReset_hangint c, rfl, rfl, rfl, rfl, fun b => by simp [Barrier.reset]⟩
  · have : 0 ≠ k.val := fun h => hk (Fin.ext h.symm)
    simp [State.reset, this]
  · obtain ⟨i, -, rfl⟩ := List.mem_map.1 ht
    exact ⟨rfl, rfl, rfl, rfl, Thread.controlCore_gr i⟩
  · simp
  · simp [State.reset, Field.reset]
  · obtain ⟨h1, h2, h3⟩ := defaultGroup_desc
    exact ⟨h1, h2, h3, fun r n h => defaultGroup_ranks h⟩

/-! ### Bytes of a word (R8) -/

/-- Byte `j` of a number. -/
def byteAt (x j : Nat) : Nat := x / 256 ^ j % 256

theorem byteAt_eq_bits {w : Nat} (x : BitVec w) (j : Nat) : byteAt x.toNat j = bits x (8 * j) 8 := by
  have e : 256 ^ j = 2 ^ (8 * j) := by rw [Nat.pow_mul]
  simp [byteAt, bits, Nat.shiftRight_eq_div_pow, e]

theorem bits_lt {w : Nat} (x : BitVec w) (lo n : Nat) : bits x lo n < 2 ^ n := Nat.mod_lt _ (Nat.two_pow_pos n)

theorem testBit_bits {w : Nat} (x : BitVec w) (lo n i : Nat) : (bits x lo n).testBit i = (decide (i < n) && x.getLsbD (lo + i)) := by
  simp [bits, Nat.testBit_mod_two_pow, Nat.testBit_shiftRight, BitVec.getLsbD]

theorem getLsbD_setBits {w : Nat} (x : BitVec w) {lo n v i : Nat} (hi : i < w) :
    (setBits x lo n v).getLsbD i = if lo ≤ i ∧ i < lo + n then v.testBit (i - lo) else x.getLsbD i := by
  unfold setBits
  simp only [BitVec.getLsbD_or, BitVec.getLsbD_and, BitVec.getLsbD_not, BitVec.getLsbD_ofNat, Nat.testBit_shiftLeft,
    Nat.testBit_two_pow_sub_one, Nat.testBit_mod_two_pow, hi, decide_true, Bool.true_and]
  by_cases h1 : lo ≤ i
  · by_cases h2 : i < lo + n
    · have : i - lo < n := by omega
      simp [h1, h2, this]
    · have : ¬ i - lo < n := by omega
      simp [h1, h2, this]
  · simp [h1]

theorem byteAt_setBits {w : Nat} (x : BitVec w) {i j v : Nat} (hj : 8 * j + 8 ≤ w) :
    byteAt (setBits x (8 * i) 8 v).toNat j = if j = i then v % 256 else byteAt x.toNat j := by
  rw [byteAt_eq_bits, byteAt_eq_bits]
  apply Nat.eq_of_testBit_eq
  intro k
  rw [testBit_bits]
  by_cases hk : k < 8
  · rw [getLsbD_setBits x (by omega)]
    by_cases hji : j = i
    · subst hji
      rw [if_pos (by omega), if_pos rfl, show 256 = 2 ^ 8 from rfl, Nat.testBit_mod_two_pow]
      simp [hk]
    · rw [if_neg (by omega), if_neg hji, testBit_bits]
  · simp only [hk, decide_false, Bool.false_and]
    symm
    apply Nat.testBit_lt_two_pow
    refine Nat.lt_of_lt_of_le (m := 2 ^ 8) ?_ (Nat.pow_le_pow_right (by omega) (by omega))
    split
    · omega
    · exact bits_lt _ _ _

theorem setBits_lt {w : Nat} (x : BitVec w) {lo n v m : Nat} (hx : x.toNat < 2 ^ m) (hm : lo + n ≤ m) :
    (setBits x lo n v).toNat < 2 ^ m := by
  apply Nat.lt_pow_two_of_testBit
  intro i hi
  have e : x.toNat.testBit i = false := Nat.testBit_lt_two_pow (Nat.lt_of_lt_of_le hx (Nat.pow_le_pow_right (by omega) hi))
  by_cases hw : i < w
  · have := getLsbD_setBits x (lo := lo) (n := n) (v := v) hw
    rw [if_neg (by omega)] at this
    exact this.trans e
  · exact Nat.testBit_lt_two_pow (Nat.lt_of_lt_of_le (BitVec.isLt _) (Nat.pow_le_pow_right (by omega) (by omega)))

/-! ### Buffered stores over the bytes of a load (R85) -/

/-- Whether an entry's bytes reach the byte at an address. -/
abbrev StoreEntry.Covers (e : StoreEntry) (a : Nat) : Prop := e.pa ≤ a ∧ a < e.pa + e.size

theorem StoreEntry.covers_of_overlaps {e : StoreEntry} {a : Nat} (h : e.overlaps a 1 = true) : e.Covers a := by
  unfold StoreEntry.overlaps at h
  simp only [Bool.and_eq_true, decide_eq_true_eq] at h
  exact ⟨by omega, h.2⟩

/-- An entry that covers one of some bytes and overlaps them somewhere overlaps that byte: it is no tag store. -/
theorem StoreEntry.overlaps_of_covers {e : StoreEntry} {pa n i : Nat} (h : e.overlaps pa n = true) (hc : e.Covers (pa + i)) :
    e.overlaps (pa + i) 1 = true := by
  unfold StoreEntry.overlaps at *
  unfold StoreEntry.Covers at hc
  simp only [Bool.and_eq_true, decide_eq_true_eq] at *
  exact ⟨⟨h.1.1, by omega⟩, hc.2⟩

theorem StoreEntry.overlaps_of_byte {e : StoreEntry} {pa n i : Nat} (hi : i < n) (h : e.overlaps (pa + i) 1 = true) :
    e.overlaps pa n = true := by
  unfold StoreEntry.overlaps at *
  simp only [Bool.and_eq_true, decide_eq_true_eq] at *
  exact ⟨⟨h.1.1, by omega⟩, by omega⟩

/-- One byte of an entry laid over a load's bytes. -/
def StoreEntry.overlayByte (e : StoreEntry) (pa : Nat) (v : BitVec 128) (i : Nat) : BitVec 128 :=
  if e.pa ≤ pa + i ∧ pa + i < e.pa + e.size then setBits v (8 * i) 8 (bits e.data (8 * (pa + i - e.pa)) 8) else v

theorem StoreEntry.overlay_eq (e : StoreEntry) (pa n : Nat) (v : BitVec 128) :
    e.overlay pa n v = (List.range n).foldl (e.overlayByte pa) v := rfl

theorem StoreEntry.byteAt_overlayByte (e : StoreEntry) (pa : Nat) (v : BitVec 128) {i j : Nat} (hj : j < 16) :
    byteAt (e.overlayByte pa v i).toNat j =
      if j = i ∧ e.Covers (pa + i) then byteAt e.data.toNat (pa + i - e.pa) else byteAt v.toNat j := by
  unfold StoreEntry.overlayByte
  by_cases hc : e.pa ≤ pa + i ∧ pa + i < e.pa + e.size
  · have hc' : e.Covers (pa + i) := hc
    rw [if_pos hc, byteAt_setBits v (by omega), byteAt_eq_bits e.data]
    by_cases h : j = i
    · rw [if_pos h, if_pos ⟨h, hc'⟩]
      exact Nat.mod_eq_of_lt (bits_lt _ _ 8)
    · rw [if_neg h, if_neg fun k => h k.1]
  · rw [if_neg hc, if_neg fun k => hc k.2]

theorem StoreEntry.byteAt_overlayBytes (e : StoreEntry) (pa : Nat) {j : Nat} (hj : j < 16) (l : List Nat) (v : BitVec 128) :
    byteAt (l.foldl (e.overlayByte pa) v).toNat j =
      if j ∈ l ∧ e.Covers (pa + j) then byteAt e.data.toNat (pa + j - e.pa) else byteAt v.toNat j := by
  induction l generalizing v with
  | nil => simp
  | cons i l ih =>
    rw [List.foldl_cons, ih, e.byteAt_overlayByte pa v hj]
    by_cases hc : e.Covers (pa + j)
    · by_cases hl : j ∈ l
      · rw [if_pos ⟨hl, hc⟩, if_pos ⟨List.mem_cons_of_mem _ hl, hc⟩]
      · by_cases hji : j = i
        · subst hji; simp [hc]
        · simp [hl, hji]
    · by_cases hji : j = i
      · subst hji; simp [hc]
      · simp [hc, hji]

/-- A byte of an overlay: the entry's where it covers it. -/
theorem StoreEntry.byteAt_overlay (e : StoreEntry) (pa : Nat) {n j : Nat} (hj : j < n) (hn : n ≤ 16) (v : BitVec 128) :
    (e.Covers (pa + j) → byteAt (e.overlay pa n v).toNat j = byteAt e.data.toNat (pa + j - e.pa)) ∧
    (¬ e.Covers (pa + j) → byteAt (e.overlay pa n v).toNat j = byteAt v.toNat j) := by
  rw [e.overlay_eq, e.byteAt_overlayBytes pa (by omega)]
  exact ⟨fun h => if_pos ⟨List.mem_range.2 hj, h⟩, fun h => if_neg fun k => h k.2⟩

theorem StoreEntry.overlayBytes_lt (e : StoreEntry) (pa n : Nat) {l : List Nat} (hl : ∀ i ∈ l, i < n) {v : BitVec 128}
    (hv : v.toNat < 2 ^ (8 * n)) : (l.foldl (e.overlayByte pa) v).toNat < 2 ^ (8 * n) := by
  induction l generalizing v with
  | nil => exact hv
  | cons i l ih =>
    refine ih (fun k hk => hl k (List.mem_cons_of_mem _ hk)) ?_
    have hi := hl i List.mem_cons_self
    unfold StoreEntry.overlayByte
    split
    · exact setBits_lt v hv (by omega)
    · exact hv

theorem StoreEntry.overlay_lt (e : StoreEntry) (pa n : Nat) {v : BitVec 128} (hv : v.toNat < 2 ^ (8 * n)) :
    (e.overlay pa n v).toNat < 2 ^ (8 * n) := by
  rw [e.overlay_eq]
  exact e.overlayBytes_lt pa n (fun i hi => List.mem_range.1 hi) hv

/-- Entries laid over bytes one after another, oldest first. -/
def overlays (pa n : Nat) (l : List StoreEntry) (v : BitVec 128) : BitVec 128 := l.foldl (fun v e => e.overlay pa n v) v

theorem overlays_lt (pa n : Nat) (l : List StoreEntry) {v : BitVec 128} (hv : v.toNat < 2 ^ (8 * n)) :
    (overlays pa n l v).toNat < 2 ^ (8 * n) := by
  induction l generalizing v with
  | nil => exact hv
  | cons e l ih => exact ih (e.overlay_lt pa n hv)

theorem byteAt_overlays_of_none {pa n j : Nat} (hj : j < n) (hn : n ≤ 16) {l : List StoreEntry} (hl : ∀ e ∈ l, ¬ e.Covers (pa + j))
    (v : BitVec 128) : byteAt (overlays pa n l v).toNat j = byteAt v.toNat j := by
  induction l generalizing v with
  | nil => rfl
  | cons e l ih =>
    exact (ih (fun x hx => hl x (List.mem_cons_of_mem _ hx)) _).trans ((e.byteAt_overlay pa hj hn v).2 (hl e List.mem_cons_self))

theorem byteAt_overlays_of_last {pa n j : Nat} (hj : j < n) (hn : n ≤ 16) (l : List StoreEntry) {x : StoreEntry} {r : List StoreEntry}
    (hx : x.Covers (pa + j)) (hr : ∀ e ∈ r, ¬ e.Covers (pa + j)) (v : BitVec 128) :
    byteAt (overlays pa n (l ++ x :: r) v).toNat j = byteAt x.data.toNat (pa + j - x.pa) := by
  have e : overlays pa n (l ++ x :: r) v = overlays pa n r (x.overlay pa n (overlays pa n l v)) := by
    simp [overlays, List.foldl_append]
  rw [e, byteAt_overlays_of_none hj hn hr]
  exact (x.byteAt_overlay pa hj hn _).1 hx

/-! ### Messages and cache fills change stamps and copies alone (R190, R244, R245) -/

theorem Thread.raise_floor (t : Thread) (v : Word) : ∃ f : Word, t.raise v = { t with floor := f } ∧ t.floor.toNat ≤ f.toNat := by
  unfold Thread.raise
  split
  · exact ⟨v, rfl, by omega⟩
  · exact ⟨t.floor, rfl, Nat.le_refl _⟩

/-- A request and its response raise the thread's floor and the stamp registers, and change nothing else. -/
theorem State.exchange_frame (s : State) (home : Nat) : ∃ (f : Word) (st : Sparse Word),
    s.exchange home = { s with th := { s.th with floor := f }, stamps := st } ∧ s.th.floor.toNat ≤ f.toNat := by
  unfold State.exchange State.message
  split
  · obtain ⟨f, e, h⟩ := s.th.raise_floor (s.stamp home)
    exact ⟨f, s.stamps, by rw [e], h⟩
  · dsimp only
    obtain ⟨f, e, h⟩ := s.th.raise_floor (((State.message s s.th.key home).1.message home s.th.key).2)
    exact ⟨f, _, by rw [← e]; rfl, h⟩

theorem State.replaceLlc_frame (s : State) (line : Nat) : ∃ l : Sparse Bool, s.replaceLlc line = { s with llc := l } := by
  unfold State.replaceLlc
  split
  · exact ⟨_, rfl⟩
  · exact ⟨s.llc, rfl⟩

theorem State.touchLlc_frame (s : State) (line : Nat) (d : Bool) : ∃ l : Sparse Bool, s.touchLlc line d = { s with llc := l } := by
  unfold State.touchLlc
  dsimp only
  split
  · exact ⟨_, rfl⟩
  · obtain ⟨l, e⟩ := s.replaceLlc_frame line
    exact ⟨_, by rw [e]⟩

/-- A fill of a core with room for a line changes the copies held, in the core and at the slice, and nothing else. -/
theorem State.fill_frame {s : State} {core : CoreId} (c : Fin 16) (line : Nat) (h : Handle)
    (hroom : (s.cache.filter fun x => decide (x.core = core)).length < core.lines) :
    ∃ (l : Sparse Bool) (k : List CacheLine), s.fill core c line h = { s with llc := l, cache := k } := by
  unfold State.fill
  split
  · exact ⟨s.llc, s.cache, rfl⟩
  · have e : s.makeRoom core = s := if_pos hroom
    obtain ⟨l, hl⟩ := s.touchLlc_frame line false
    simp only [e, hl]
    exact ⟨_, _, rfl⟩

/-- With no watchpoint enabled an access tells nobody of it (R168). -/
theorem State.touched_of_quiet {t : State} (s : State) (addr : Word) (pa n : Nat) (rd wr : Bool) (h : t.anyWatch = false) :
    t.touched s addr pa n rd wr = t := by
  unfold State.touched State.touchBy State.touch
  split
  · rw [if_neg (by simp [h])]
  · rfl

/-! ### What a load reads (R85, R190) -/

theorem Mem.read_lt (m : Mem) (a n : Nat) : m.read a n < 2 ^ (8 * n) := by
  induction n generalizing a with
  | zero => simp [Mem.read]
  | succ n ih =>
    have h := ih (a + 1)
    have hb := (m.byte a).isLt
    have e : 2 ^ (8 * (n + 1)) = 256 * 2 ^ (8 * n) := by rw [Nat.mul_succ, Nat.pow_add, Nat.mul_comm]
    simp only [Mem.read]
    omega

theorem State.readHome_lt (s : State) (c : Fin 16) (h : Handle) (pa n : Nat) : s.readHome c h pa n < 2 ^ (8 * n) := by
  unfold State.readHome
  split
  · dsimp only
    split
    · exact Nat.mod_lt _ (Nat.two_pow_pos _)
    · exact Mem.read_lt _ _ _
  · exact Mem.read_lt _ _ _

/-- Under H0 a view is committed data (R258, R261). -/
theorem State.view_of_h0 (s : State) (c : Fin 16) {h : Handle} (line : Nat) (h0 : hypNum h = 0) : s.view c h line = none := by
  simp [State.view, State.chainHyp, h0]

theorem State.localHbm_of_not_local {s : State} {pa : Nat} (h : s.isLocal pa = false) : s.localHbm pa = false := by
  simp [State.localHbm, h]

theorem State.readHome_local_h0 {s : State} (c : Fin 16) {h : Handle} {pa : Nat} (n : Nat) (hl : s.isLocal pa = true) (h0 : hypNum h = 0) :
    s.readHome c h pa n = s.mem.read (offsetOf pa) n := by
  simp [State.readHome, State.view_of_h0 s c _ h0, State.memAt, State.cellAt, hl]

theorem State.readHome_remote {s : State} (c : Fin 16) (h : Handle) {pa : Nat} (n : Nat) (hl : s.isLocal pa = false) :
    s.readHome c h pa n = s.peers.read pa n := by
  simp [State.readHome, State.localHbm_of_not_local hl, State.memAt, State.cellAt, hl]

theorem State.copyHeld_remote {s : State} {pa : Nat} (hl : s.isLocal pa = false) : s.copyHeld pa = none := by
  simp [State.copyHeld, State.localHbm_of_not_local hl]

/-- The buffered stores of the thread's core over the bytes of an access. -/
def State.lap (s : State) (pa n : Nat) : List StoreEntry := s.sbuf.filter fun e => decide (e.core = s.th.core) && e.overlaps pa n

/-- The bytes under the buffered stores: of the core's copy, or of the home. -/
def State.loadBase (s : State) (pa n : Nat) : Nat :=
  match s.copyHeld pa with
  | some x => bits x.data (8 * (offsetOf pa % 64)) (8 * n)
  | none => s.readHome s.th.cx s.th.thyp pa n

/-- The bytes of a load. -/
def State.loadBytes (s : State) (pa n : Nat) : BitVec 128 := overlays pa n (s.lap pa n) (BitVec.ofNat 128 (s.loadBase pa n))

theorem State.loadBase_of_copy {s : State} {pa : Nat} {x : CacheLine} (n : Nat) (h : s.copyHeld pa = some x) :
    s.loadBase pa n = bits x.data (8 * (offsetOf pa % 64)) (8 * n) := by unfold State.loadBase; rw [h]

theorem State.loadBase_of_none {s : State} {pa : Nat} (n : Nat) (h : s.copyHeld pa = none) :
    s.loadBase pa n = s.readHome s.th.cx s.th.thyp pa n := by unfold State.loadBase; rw [h]

theorem State.loadBase_lt (s : State) (pa n : Nat) : s.loadBase pa n < 2 ^ (8 * n) := by
  unfold State.loadBase
  split
  · exact bits_lt _ _ _
  · exact s.readHome_lt _ _ _ _

theorem State.loadBase_toNat (s : State) (pa : Nat) {n : Nat} (hn : n ≤ 16) : (BitVec.ofNat 128 (s.loadBase pa n)).toNat = s.loadBase pa n :=
  Nat.mod_eq_of_lt (Nat.lt_of_lt_of_le (s.loadBase_lt pa n) (Nat.pow_le_pow_right (by omega) (by omega)))

theorem State.loadBytes_lt (s : State) (pa : Nat) {n : Nat} (hn : n ≤ 16) : (s.loadBytes pa n).toNat < 256 ^ n := by
  have e : 256 ^ n = 2 ^ (8 * n) := by rw [Nat.pow_mul]
  rw [e]
  refine overlays_lt pa n _ ?_
  rw [s.loadBase_toNat pa hn]
  exact s.loadBase_lt pa n

/-- A byte that no buffered store of the core is over is the copy's or the home's. -/
theorem State.byteAt_loadBytes_of_none {s : State} {pa n i : Nat} (hi : i < n) (hn : n ≤ 16)
    (h : ∀ x ∈ s.sbuf, x.core = s.th.core → x.overlaps (pa + i) 1 = false) :
    byteAt (s.loadBytes pa n).toNat i = byteAt (s.loadBase pa n) i := by
  refine (byteAt_overlays_of_none hi hn (fun e he hc => ?_) _).trans (by rw [s.loadBase_toNat pa hn])
  simp only [State.lap, List.mem_filter, Bool.and_eq_true, decide_eq_true_eq] at he
  obtain ⟨hm, hcore, ho⟩ := he
  have := h e hm hcore
  rw [e.overlaps_of_covers ho hc] at this
  exact Bool.noConfusion this

/-- A byte under a buffered store of the core is that of the youngest one. -/
theorem State.byteAt_loadBytes_of_last {s : State} {pa n i : Nat} (hi : i < n) (hn : n ≤ 16) {l r : List StoreEntry} {x : StoreEntry}
    (hs : s.sbuf = l ++ x :: r) (hx : x.core = s.th.core) (ho : x.overlaps (pa + i) 1 = true)
    (hr : ∀ y ∈ r, y.core = s.th.core → y.overlaps (pa + i) 1 = false) :
    byteAt (s.loadBytes pa n).toNat i = byteAt x.data.toNat (pa + i - x.pa) := by
  unfold State.loadBytes State.lap
  rw [hs, List.filter_append, List.filter_cons_of_pos (by simp [hx, x.overlaps_of_byte hi ho])]
  refine byteAt_overlays_of_last hi hn _ (x.covers_of_overlaps ho) (fun e he hc => ?_) _
  simp only [List.mem_filter, Bool.and_eq_true, decide_eq_true_eq] at he
  obtain ⟨hm, hcore, hl⟩ := he
  have := hr e hm hcore
  rw [e.overlaps_of_covers hl hc] at this
  exact Bool.noConfusion this

/-! ### The load's turn (R155) -/

/-- What a load changes beside the destination: the floor, what it has read by forwarding, stamps and copies. -/
structure Loaded (s t : State) : Prop where
  thread : t.th = { s.th with floor := t.th.floor, fwd := t.th.fwd }
  floor : s.th.floor.toNat ≤ t.th.floor.toNat
  module : t = { s with th := t.th, stamps := t.stamps, llc := t.llc, cache := t.cache }

theorem Loaded.anyWatch {s t : State} (h : Loaded s t) : t.anyWatch = s.anyWatch := by
  obtain ⟨hth, -, hm⟩ := h
  rw [hm]
  unfold State.anyWatch State.threads
  dsimp only
  rw [hth]
  rfl

theorem drain_of_none {s : State} {p : StoreEntry → Bool} (h : (s.sbuf.any p) = false) : s.drain p = s := by
  have e : s.sbuf.filter p = [] := by
    rw [List.filter_eq_nil_iff]
    exact fun a ha => by simpa using List.any_eq_false.1 h a ha
  unfold State.drain
  simp [e]

theorem State.settleRemote_of_none {s : State} {pa : Nat}
    (h : s.isLocal pa = true ∨ (s.sbuf.any fun x => ofSlot s.th x && x.pa / 64 == pa / 64) = false) : s.settleRemote pa = s := by
  unfold State.settleRemote
  rcases h with h | h
  · rw [if_pos h]
  · split
    · rfl
    · exact drain_of_none h

theorem State.tagCheck_of_eq {s : State} {p : Word} {pa : Nat} (h : s.tagSeen pa = BitVec.ofNat 4 (p.toNat / 2 ^ 60)) :
    s.tagCheck p pa = .ok () := by
  have e : BitVec.ofNat 4 (bits p 60 4) = s.tagSeen pa := by
    rw [h]
    apply BitVec.eq_of_toNat_eq
    simp [bits, Nat.shiftRight_eq_div_pow]
  unfold State.tagCheck
  exact if_pos e

/-- The state in which a load has asked the home for what its core holds no copy of. -/
def State.loadAsked (s : State) (pa : Nat) : State :=
  match s.copyHeld pa with
  | some _ => s
  | none => if s.isLocal pa then s.exchange (homeKey (offsetOf pa)) else s

/-- The state in which a load has left its copy. -/
def State.loadKept (s : State) (pa : Nat) (keep : Bool) : State :=
  if (s.loadAsked pa).localHbm pa ∧ keep then (s.loadAsked pa).fill s.th.core s.th.cx (offsetOf pa / 64) s.th.thyp else s.loadAsked pa

/-- The state in which a load's bytes have come. -/
def State.loadState (s : State) (pa n : Nat) (keep : Bool) : State :=
  let u := s.loadKept pa keep
  let sib := ((s.lap pa n).filter fun e => e.slot ≠ s.th.slot).map (·.id)
  { u with th := { u.th with fwd := u.th.fwd ++ sib.filter fun i => !u.th.fwd.contains i } }

theorem State.loadAsked_frame (s : State) (pa : Nat) : ∃ (f : Word) (st : Sparse Word),
    s.loadAsked pa = { s with th := { s.th with floor := f }, stamps := st } ∧ s.th.floor.toNat ≤ f.toNat := by
  unfold State.loadAsked
  split
  · exact ⟨_, _, rfl, Nat.le_refl _⟩
  · split
    · exact s.exchange_frame _
    · exact ⟨_, _, rfl, Nat.le_refl _⟩

theorem State.loadKept_frame {s : State} (pa : Nat) (keep : Bool)
    (hroom : (s.cache.filter fun x => decide (x.core = s.th.core)).length < s.th.core.lines) :
    ∃ (f : Word) (st : Sparse Word) (l : Sparse Bool) (k : List CacheLine),
      s.loadKept pa keep = { s with th := { s.th with floor := f }, stamps := st, llc := l, cache := k } ∧
        s.th.floor.toNat ≤ f.toNat := by
  obtain ⟨f, st, e, hf⟩ := s.loadAsked_frame pa
  unfold State.loadKept
  rw [e]
  split
  · obtain ⟨l, k, ek⟩ := State.fill_frame (s := { s with th := { s.th with floor := f }, stamps := st }) s.th.cx (offsetOf pa / 64)
      s.th.thyp hroom
    exact ⟨f, st, l, k, ek, hf⟩
  · exact ⟨f, st, _, _, rfl, hf⟩

theorem State.loadState_loaded {s : State} (pa n : Nat) (keep : Bool)
    (hroom : (s.cache.filter fun x => decide (x.core = s.th.core)).length < s.th.core.lines) : Loaded s (s.loadState pa n keep) := by
  obtain ⟨f, st, l, k, e, hf⟩ := State.loadKept_frame pa keep hroom
  unfold State.loadState
  rw [e]
  exact ⟨rfl, hf, rfl⟩

/-- A load whose checks to step 9 have passed, with every store over its bytes forwardable, its tag right and no poison. -/
theorem State.loadAt_of_clear {s : State} {p : Word} {pa n : Nat} (keep : Bool) (hset : s.settleRemote pa = s)
    (hfw : ∀ x ∈ s.lap pa n, x.forwards s.th.cx s.th.thyp = true) (htag : s.tagSeen pa = BitVec.ofNat 4 (p.toNat / 2 ^ 60))
    (hpsn : s.poisonSeen pa = false) : s.loadAt p pa n keep = .ok (s.loadState pa n keep, s.loadBytes pa n) := by
  have hany : ((s.lap pa n).any fun e => !e.forwards s.th.cx s.th.thyp) = false := by
    rw [List.any_eq_false]
    exact fun x hx => by simp [hfw x hx]
  unfold State.loadAt
  simp only [hset]
  rw [if_neg (by simpa [State.lap] using hany), State.tagCheck_of_eq htag]
  simp only [hpsn, Bool.false_eq_true, false_and, if_false]
  rfl

/-- A load over whose bytes some store may not be forwarded waits for it (R85). -/
theorem State.loadAt_of_overlap {s : State} (p : Word) {pa n : Nat} (keep : Bool) (hset : s.settleRemote pa = s)
    {x : StoreEntry} (hx : x ∈ s.lap pa n) (hfw : x.forwards s.th.cx s.th.thyp = false) :
    s.loadAt p pa n keep = .error (.wait (.overlap pa n)) := by
  have hany : ((s.lap pa n).any fun e => !e.forwards s.th.cx s.th.thyp) = true := List.any_eq_true.2 ⟨x, hx, by simp [hfw]⟩
  unfold State.loadAt
  simp only [hset]
  exact if_pos hany

theorem StoreEntry.forwards_iff (e : StoreEntry) (c : Fin 16) (h : Handle) :
    e.forwards c h = true ↔ e.kind ∈ [StoreKind.plain, .fes, .nt] ∧ e.hyp = h ∧ (hypNum h = 0 ∨ e.ctx = c) := by
  unfold StoreEntry.forwards
  cases e.kind <;> simp

/-- The turn of a plain or .NT load whose checks pass: it is the access of `loadAt`, away from the device window. -/
theorem loadTurn_of_check {s : State} {n : Nat} {q : LoadQual} {reg : Bool} {b : Reg} {o : BitVec 12} (dst : LoadDest) {pa : Nat}
    (hq : q = .plain ∨ q = .nt) (hc : s.check (s.gr b) (effective (s.gr b) o n) (loadReq n q reg) = .ok pa)
    (hd : (s.isLocal pa && spaceOf (offsetOf pa) == .device) = false) :
    loadTurn s n q reg b o dst =
      match s.loadAt (s.gr b) pa n (!loadNt q) with
      | .error e => inTrouble s (withTop (s.gr b) (effective (s.gr b) o n)) e
      | .ok (t, v) => .next ((t.touched s (withTop (s.gr b) (effective (s.gr b) o n)) pa n true false).landed dst n v.toNat) := by
  have hf : loadFull q = false := by rcases hq with rfl | rfl <;> rfl
  unfold loadTurn
  simp only [hc, hf, Bool.false_eq_true, false_and, if_false]
  rw [if_neg (by simpa using hd)] <;> rfl

/-- A load that completes. -/
theorem loadTurn_completes {s : State} {n : Nat} {q : LoadQual} {reg : Bool} {b : Reg} {o : BitVec 12} (dst : LoadDest) {pa : Nat}
    (hq : q = .plain ∨ q = .nt) (hc : s.check (s.gr b) (effective (s.gr b) o n) (loadReq n q reg) = .ok pa)
    (hd : (s.isLocal pa && spaceOf (offsetOf pa) == .device) = false) (hset : s.settleRemote pa = s)
    (hfw : ∀ x ∈ s.lap pa n, x.forwards s.th.cx s.th.thyp = true)
    (htag : s.tagSeen pa = BitVec.ofNat 4 ((s.gr b).toNat / 2 ^ 60)) (hpsn : s.poisonSeen pa = false) (hw : s.anyWatch = false)
    (hroom : (s.cache.filter fun x => decide (x.core = s.th.core)).length < s.th.core.lines) :
    ∃ u, Loaded s u ∧ loadTurn s n q reg b o dst = .next (u.landed dst n (s.loadBytes pa n).toNat) := by
  have hl := State.loadState_loaded pa n (!loadNt q) hroom
  refine ⟨_, hl, ?_⟩
  rw [loadTurn_of_check dst hq hc hd, State.loadAt_of_clear _ hset hfw htag hpsn]
  dsimp only
  rw [State.touched_of_quiet s _ _ _ _ _ (hl.anyWatch.trans hw)]

/-- A load that waits for a buffered store over its bytes. -/
theorem loadTurn_of_overlap {s : State} {n : Nat} {q : LoadQual} {reg : Bool} {b : Reg} {o : BitVec 12} (dst : LoadDest) {pa : Nat}
    (hq : q = .plain ∨ q = .nt) (hc : s.check (s.gr b) (effective (s.gr b) o n) (loadReq n q reg) = .ok pa)
    (hd : (s.isLocal pa && spaceOf (offsetOf pa) == .device) = false) (hset : s.settleRemote pa = s)
    {x : StoreEntry} (hx : x ∈ s.lap pa n) (hfw : x.forwards s.th.cx s.th.thyp = false) :
    loadTurn s n q reg b o dst = .next { s with th := { s.th with st := .wait, wait := .overlap pa n, mid := true } } := by
  rw [loadTurn_of_check dst hq hc hd, State.loadAt_of_overlap _ _ hset hx hfw]
  rfl

/-- A load of another module's memory waits for the response (R148). -/
theorem loadTurn_of_remote {s : State} {n : Nat} {q : LoadQual} {reg : Bool} {b : Reg} {o : BitVec 12} (dst : LoadDest) {pa : Nat}
    (hc : s.check (s.gr b) (effective (s.gr b) o n) (loadReq n q reg) = .error (.wait (.remote false pa 0 none))) :
    loadTurn s n q reg b o dst = .next { s with th := { s.th with
      st := .wait, wait := .remote false pa (withTop (s.gr b) (effective (s.gr b) o n)) none, mid := true } } := by
  unfold loadTurn
  simp only [hc]
  rfl

/-- The response lets the thread run its access again (R437). -/
theorem waitTurn_of_response {s : State} {w : Bool} {pa : Nat} {a : Word} (hw : s.th.wait = .remote w pa a none)
    (hb : (s.sbuf.any fun x => ofSlot s.th x && x.pa / 64 == pa / 64) = false) :
    waitTurn s = .next { s with th := { s.th with st := .run, wait := .none, pass := true } } := by
  unfold waitTurn
  rw [hw]
  dsimp only
  unfold remoteTurn
  dsimp only
  rw [drain_of_none hb]
  rfl

/-- A row of the table of loads: an instruction that loads so many bytes into the registers that the function gives. -/
def IsLoad (s : State) (b : Reg) (q : LoadQual) (o : BitVec 12) (e : Instr × Nat × Bool × (Nat → Thread)) : Prop :=
  e.2.1 ≤ 16 ∧ ∃ dst, exec e.1 s = loadTurn s e.2.1 q e.2.2.1 b o dst ∧
    ∀ v, (e.2.2.2 v).g = (s.th.landLoad dst e.2.1 v).g ∧ (e.2.2.2 v).f = (s.th.landLoad dst e.2.1 v).f

theorem IsLoad.row {s : State} {b : Reg} {q : LoadQual} {o : BitVec 12} {i : Instr} {n : Nat} {reg : Bool} {f : Nat → Thread}
    (dst : LoadDest) (hn : n ≤ 16) (hex : exec i s = loadTurn s n q reg b o dst)
    (hv : ∀ v, (f v).g = (s.th.landLoad dst n v).g ∧ (f v).f = (s.th.landLoad dst n v).f) : IsLoad s b q o (i, n, reg, f) :=
  ⟨hn, dst, hex, hv⟩

/-- What landing a load does to a thread that differs in its floor and in what it has read by forwarding. -/
theorem Thread.landLoad_loaded (t : Thread) (f : Word) (l : List Nat) (dst : LoadDest) (n v : Nat) :
    Thread.landLoad { t with floor := f, fwd := l } dst n v = { t with
      g := (t.landLoad dst n v).g, f := (t.landLoad dst n v).f, pc := t.pc + 4, st := .run, wait := .none, pass := false, mid := false,
      floor := f, fwd := l } := by
  cases dst with
  | float d => rfl
  | signed d => simp only [Thread.landLoad, Thread.setG]; split <;> rfl
  | zero d => simp only [Thread.landLoad, Thread.setG]; split <;> rfl
  | status d => simp only [Thread.landLoad, Thread.setG]; split <;> rfl
  | pair d =>
    simp only [Thread.landLoad, Thread.setG]
    split <;> split <;> rfl

/-- Settles O37: each row is a turn of `loadTurn`, whose bytes are the home's or the copy's under those of the store buffer. -/
theorem plainLoads : Obligations.PlainLoads := by
  intro d b q o s pa sx G F P rows mine
  have hrows : ∀ e ∈ rows, IsLoad s b q o e := by
    simp only [rows, List.forall_mem_cons, List.not_mem_nil, false_imp_iff, implies_true, and_true]
    exact ⟨.row (.signed d) (by decide) rfl fun v => ⟨rfl, rfl⟩, .row (.signed d) (by decide) rfl fun v => ⟨rfl, rfl⟩,
      .row (.signed d) (by decide) rfl fun v => ⟨rfl, rfl⟩,
      .row (.signed d) (by decide) rfl fun v => by simp only [G, Thread.landLoad, BitVec.signExtend_eq, and_self],
      .row (.zero d) (by decide) rfl fun v => ⟨rfl, rfl⟩, .row (.zero d) (by decide) rfl fun v => ⟨rfl, rfl⟩,
      .row (.zero d) (by decide) rfl fun v => ⟨rfl, rfl⟩, .row (.float d) (by decide) rfl fun v => ⟨rfl, rfl⟩,
      .row (.float d) (by decide) rfl fun v => ⟨rfl, rfl⟩, .row (.float d) (by decide) rfl fun v => ⟨rfl, rfl⟩,
      .row (.pair d) (by decide) rfl fun v => ⟨rfl, rfl⟩⟩
  refine ⟨fun e he hq hc hd hset => ⟨fun hfw htag hpsn hw hroom => ?_, fun x hx hcore ho hnot => ?_⟩, fun e he hc => ?_,
    fun w a hw hb => waitTurn_of_response hw hb⟩
  · obtain ⟨hn, dst, hex, hdst⟩ := hrows e he
    have hlap : ∀ x ∈ s.lap pa e.2.1, x.forwards s.th.cx s.th.thyp = true := by
      intro x hx
      simp only [State.lap, List.mem_filter, Bool.and_eq_true, decide_eq_true_eq] at hx
      obtain ⟨hm, hcore, ho⟩ := hx
      obtain ⟨⟨-, hk⟩, hh, hcx⟩ := hfw x hm hcore ho
      exact (x.forwards_iff _ _).2 ⟨hk, hh, hcx⟩
    obtain ⟨u, hl, hu⟩ := loadTurn_completes dst hq hc hd (State.settleRemote_of_none hset) hlap htag hpsn hw hroom
    obtain ⟨hth, hfl, hm⟩ := hl
    have ht : (u.landed dst e.2.1 (s.loadBytes pa e.2.1).toNat).th = _ :=
      (congrArg (fun t => Thread.landLoad t dst e.2.1 (s.loadBytes pa e.2.1).toNat) hth).trans (Thread.landLoad_loaded ..)
    obtain ⟨hg, hf⟩ := hdst (s.loadBytes pa e.2.1).toNat
    refine ⟨_, (s.loadBytes pa e.2.1).toNat, s.loadBase pa e.2.1, hex.trans hu, s.loadBytes_lt pa hn,
      fun x h => State.loadBase_of_copy _ h, fun h => State.loadBase_of_none _ h, fun h h0 hloc => ?_, fun hloc => ?_, fun i hi => ⟨?_, ?_⟩,
      ?_, ?_, ?_, ?_, ?_⟩
    · rw [State.loadBase_of_none _ h, State.readHome_local_h0 _ _ hloc h0]
    · rw [State.loadBase_of_none _ (State.copyHeld_remote hloc), State.readHome_remote _ _ _ hloc]
    · exact fun h => State.byteAt_loadBytes_of_none hi hn h
    · exact fun l x r hs hx ho hr => State.byteAt_loadBytes_of_last hi hn hs hx ho hr
    · rw [ht]; exact hg.symm
    · rw [ht]; exact hf.symm
    · rw [ht]
    · rw [ht]; exact hfl
    · rw [State.landed, hm]; exact ⟨rfl, rfl, rfl, rfl, rfl, rfl, rfl⟩
  · obtain ⟨-, dst, hex, -⟩ := hrows e he
    refine hex.trans (loadTurn_of_overlap dst hq hc hd (State.settleRemote_of_none hset) (x := x) ?_ ?_)
    · simp [State.lap, hx, hcore, ho]
    · rw [Bool.eq_false_iff]
      intro h
      obtain ⟨hk, hh, hcx⟩ := (x.forwards_iff _ _).1 h
      exact hnot ⟨⟨hcore, hk⟩, hh, hcx⟩
  · obtain ⟨-, dst, hex, -⟩ := hrows e he
    exact hex.trans (loadTurn_of_remote dst hc)

/-! ### A state that lists a device register twice

A sparse table is meant to be sorted with one entry for each key, but a `State` may hold any list as its table of device registers, and
`setReg` of a reset value takes one entry away. -/

/-- Control core 0 with a pointer to SPCNT of context 0 in g1, and that register listed twice. -/
def twiceListed : State :=
  { State.reset with
    regs := [(spcntAt 0, 5), (spcntAt 0, 7)],
    th := { State.reset.th with g := State.reset.th.g.set 1 (0x0C00000000000000 ||| BitVec.ofNat 64 (spcntAt 0)) } }

/-- What a device register reads in the state that an answer gives. -/
def regAfter (r : Result) (o : Nat) : Option Word := match r with | .next t => some (t.reg o) | _ => none

theorem twiceListed_check : twiceListed.check (twiceListed.gr 1) (effective (twiceListed.gr 1) 0 8) (storeReq 8 .plain true false) =
    .ok (spcntAt 0) := by decide +kernel

/-- A store of 0, the reset value of SPCNT, takes the first entry away and uncovers the second. -/
theorem twiceListed_store : regAfter (exec (.stD 0 1 .plain 0) twiceListed) (spcntAt 0) = some 7 := by decide +kernel

/-- Refutes O40: of a control core's store to a register that holds plain bits, since no premise keeps the table of registers canonical.
In `twiceListed` SPCNT of context 0 stands twice in that table, and after a store of 0 to it the register reads 7, and not the 0 stored. -/
theorem not_storesPerform : ¬ Obligations.StoresPerform := by
  rintro ⟨-, -, -, hreg⟩
  obtain ⟨t, ht, -, -, -, -, hw, -⟩ := hreg 0 1 0 twiceListed (spcntAt 0) (spcntAt 0) (.spcnt 0) 0 twiceListed_check (by decide +kernel)
    (by decide +kernel) (by decide +kernel) rfl (by decide +kernel) (by decide +kernel) (by simp)
  have h7 := twiceListed_store
  rw [ht] at h7
  have h0 : t.reg (spcntAt 0) = 7 := Option.some.inj h7
  exact absurd (hw.symm.trans h0) (by decide)

end Sys2Proof.Machine
end

section
/-!
SUPPORT. Full-empty loads of this module: what a load with .FEK or .FEC does at a full and at an empty granule.
-/
namespace Sys2Proof.Machine

/-! ### Full-empty loads of this module (R163, R164) -/

/-- The load instructions of R155 for one destination, with their sizes, whether they may name a device register, and the thread with
the loaded value in its registers. -/
def loadRows (d b : Reg) (q : LoadQual) (o : BitVec 12) (s : State) : List (Instr × Nat × Bool × (Nat → Thread)) :=
  let sx (n v : Nat) : Word := BitVec.ofInt 64 (BitVec.ofNat (8 * n) v).toInt
  let G (f : Nat → Word) (v : Nat) : Thread := s.th.setG d (f v)
  let F (v : Nat) : Thread := { s.th with f := s.th.f.set d (BitVec.ofNat 64 v) }
  let P (v : Nat) : Thread := (s.th.setG d (BitVec.ofNat 64 v)).setG (d + 1) (BitVec.ofNat 64 (v / 2 ^ 64))
  [(.ldB d b q o, 1, false, G (sx 1)), (.ldH d b q o, 2, false, G (sx 2)), (.ldW d b q o, 4, false, G (sx 4)),
   (.ldD d b q o, 8, true, G (BitVec.ofNat 64)), (.ldnB d b q o, 1, false, G (BitVec.ofNat 64)),
   (.ldnH d b q o, 2, false, G (BitVec.ofNat 64)), (.ldnW d b q o, 4, false, G (BitVec.ofNat 64)),
   (.ldfH d b q o, 2, false, F), (.ldfW d b q o, 4, false, F), (.ldfD d b q o, 8, false, F), (.ldp d b q o, 16, false, P)]

theorem loadRows_isLoad {d b : Reg} {q : LoadQual} {o : BitVec 12} {s : State} : ∀ e ∈ loadRows d b q o s, IsLoad s b q o e := by
  have signed {i n} {reg : Bool} {f : Nat → Word} (hn : n ≤ 16) (hex : exec i s = loadTurn s n q reg b o (.signed d))
      (hv : ∀ v, f v = (BitVec.ofNat (8 * n) v).signExtend 64) : IsLoad s b q o (i, n, reg, fun v => s.th.setG d (f v)) :=
    .row _ hn hex fun v => by rw [hv]; exact ⟨rfl, rfl⟩
  have zero {i n} (hn : n ≤ 16) (hex : exec i s = loadTurn s n q false b o (.zero d)) :
      IsLoad s b q o (i, n, false, fun v => s.th.setG d (BitVec.ofNat 64 v)) := .row _ hn hex fun _ => ⟨rfl, rfl⟩
  have float {i n} (hn : n ≤ 16) (hex : exec i s = loadTurn s n q false b o (.float d)) :
      IsLoad s b q o (i, n, false, fun v => { s.th with f := s.th.f.set d (BitVec.ofNat 64 v) }) := .row _ hn hex fun _ => ⟨rfl, rfl⟩
  simp only [loadRows, List.forall_mem_cons, List.not_mem_nil, false_imp_iff, implies_true, and_true]
  exact ⟨signed (by decide) rfl fun _ => rfl, signed (by decide) rfl fun _ => rfl, signed (by decide) rfl fun _ => rfl,
    signed (by decide) rfl fun v => (BitVec.signExtend_eq _).symm, zero (by decide) rfl, zero (by decide) rfl, zero (by decide) rfl,
    float (by decide) rfl, float (by decide) rfl, float (by decide) rfl, .row (.pair d) (by decide) rfl fun _ => ⟨rfl, rfl⟩⟩

/-- A copy stays in an acquire only where some region governs its line (R178). -/
theorem State.acquire_cache (s : State) {x : CacheLine} (hx : x ∈ s.acquire.cache) (hcore : x.core = s.th.core) (hctx : x.ctx = s.th.cx)
    (hclean : x.isDirty = false) : (s.regionOf s.th.core s.th.cx (x.line * 64)).isSome = true := by
  simp only [State.acquire, State.acquireFor, List.mem_filter, hcore, hctx, hclean, decide_true, Bool.not_false, Bool.true_and,
    Bool.not_not] at hx
  obtain ⟨-, hheld⟩ := hx
  split at hheld
  · exact Bool.noConfusion hheld
  · next r h => rw [h]; rfl

/-- The granules with full-empty bits of this module are neither cached nor versioned (R25, R147, R261). -/
theorem State.localHbm_of_hasFull {s : State} {pa : Nat} (h : hasFull pa = true) : s.localHbm pa = false := by
  unfold hasFull at h
  unfold State.localHbm
  cases hs : spaceOf (offsetOf pa) <;> simp_all

/-- A check that passes has not refused. -/
theorem ok_of_refusal {ε α : Type} {c : Prop} [Decidable c] {e : ε} {x : Except ε α} {a : α} (h : (if c then .error e else x) = .ok a) :
    ¬ c ∧ x = .ok a := by
  by_cases hc : c
  · rw [if_pos hc] at h; exact nomatch h
  · rw [if_neg hc] at h; exact ⟨hc, h⟩

/-- An access with a full-empty qualifier that the checks let through has full-empty bits (step 10 of R146). -/
theorem State.hasFull_of_check {s : State} {p : Word} {ea pa : Nat} {q : Req} (h : s.check p ea q = .ok pa) (hq : q.full = true) :
    hasFull pa = true := by
  unfold State.check at h
  iterate 4 obtain ⟨-, h⟩ := ok_of_refusal h
  split at h
  · exact nomatch h
  · iterate 5 obtain ⟨-, h⟩ := ok_of_refusal h
    obtain ⟨hfull, h⟩ := ok_of_refusal h
    iterate 2 obtain ⟨-, h⟩ := ok_of_refusal h
    cases h
    simpa [hq] using hfull

/-- The state in which the home has answered a full-empty load, and has emptied the granule for one that consumes it. -/
def State.taken (s : State) (pa : Nat) (consume : Bool) : State :=
  { s.exchange (homeKey (offsetOf pa)) with mem := if consume then s.mem.setFull (offsetOf pa) false else s.mem }

/-- Taking a granule raises the floor and stamps, and may empty the granule. -/
theorem State.taken_frame (s : State) (pa : Nat) (consume : Bool) : ∃ (f : Word) (st : Sparse Word), s.taken pa consume =
    { s with th := { s.th with floor := f }, stamps := st, mem := if consume then s.mem.setFull (offsetOf pa) false else s.mem } := by
  obtain ⟨f, st, e, -⟩ := s.exchange_frame (homeKey (offsetOf pa))
  exact ⟨f, st, by rw [State.taken, e]⟩

/-- A granule of this module for which the current thread's core buffers nothing, with the pointer's tag and no poison. -/
structure GranuleReady (s : State) (p : Word) (pa : Nat) : Prop where
  isLocal : s.isLocal pa = true
  unbuffered : (s.sbuf.any fun x => decide (x.core = s.th.core) && x.overlaps (pa / 16 * 16) 16) = false
  tag : s.tagSeen pa = BitVec.ofNat 4 (p.toNat / 2 ^ 60)
  sound : s.poisonHome s.th.cx s.th.thyp pa = false

theorem GranuleReady.fullHome {s : State} {p : Word} {pa : Nat} (h : GranuleReady s p pa) : s.fullHome pa = s.mem.isFull (offsetOf pa) := by
  rw [State.fullHome, State.memAt, State.cellAt, if_pos h.isLocal, if_pos h.isLocal]

/-- A full-empty load of a full granule. -/
theorem State.fullLoad_of_full {s : State} {p ea : Word} {pa n : Nat} (dst : LoadDest) (consume : Bool) (limit : Word)
    (hr : GranuleReady s p pa) (hhbm : s.localHbm pa = false) (hfull : s.mem.isFull (offsetOf pa) = true) :
    s.fullLoad p ea pa n dst consume limit = .ok ((s.taken pa consume).landed dst n (s.mem.read (offsetOf pa) n)) := by
  have hset : s.settleRemote pa = s := State.settleRemote_of_none (.inl hr.isLocal)
  have hread : s.readHome s.th.cx s.th.thyp pa n = s.mem.read (offsetOf pa) n := by
    simp [State.readHome, hhbm, State.memAt, State.cellAt, hr.isLocal]
  obtain ⟨f, st, e, -⟩ := s.exchange_frame (homeKey (offsetOf pa))
  have hloc : State.isLocal { s with th := { s.th with floor := f }, stamps := st } pa = true := hr.isLocal
  unfold State.fullLoad State.taken
  simp only [hset, hr.unbuffered, State.tagCheck_of_eq hr.tag, hr.sound, hr.fullHome, hfull, hread, hr.isLocal, e, Bool.false_eq_true,
    if_false, if_true]
  cases consume
  · rfl
  · simp only [State.updMem, State.cellAt, if_true, hloc]
    rfl

/-- A full-empty load of an empty granule is recorded while its home has room, and waits. -/
theorem State.fullLoad_of_empty {s : State} {p ea : Word} {pa n : Nat} (dst : LoadDest) (consume : Bool) (limit : Word)
    (hr : GranuleReady s p pa) (hempty : s.mem.isFull (offsetOf pa) = false) :
    ∃ w, s.fullLoad p ea pa n dst consume limit =
      .ok (State.block { s with feq := if s.recordedAt pa < 64 then s.feq ++ [(pa / 16, .thread s.th.place, consume)] else s.feq } w) := by
  have hset : s.settleRemote pa = s := State.settleRemote_of_none (.inl hr.isLocal)
  unfold State.fullLoad
  simp only [hset, hr.unbuffered, State.tagCheck_of_eq hr.tag, hr.sound, hr.fullHome, hempty, Bool.false_eq_true, if_false]
  by_cases hroom : s.recordedAt pa < 64
  · exact ⟨_, by rw [if_pos hroom, if_pos hroom]⟩
  · exact ⟨_, by rw [if_neg hroom, if_neg hroom]⟩

/-- The turn of a full-empty load whose checks pass, with no flush to wait for, is the access of `fullLoad`. -/
theorem loadTurn_of_full {s : State} {n : Nat} {q : LoadQual} {reg : Bool} {b : Reg} {o : BitVec 12} (dst : LoadDest) {pa : Nat}
    (hq : loadFull q = true) (hc : s.check (s.gr b) (effective (s.gr b) o n) (loadReq n q reg) = .ok pa)
    (hd : spaceOf (offsetOf pa) ≠ .device) (hflush : s.awaitsFlush = false) :
    loadTurn s n q reg b o dst =
      match s.fullLoad (s.gr b) (withTop (s.gr b) (effective (s.gr b) o n)) pa n dst (loadConsumes q) 0 with
      | .error e => inTrouble s (withTop (s.gr b) (effective (s.gr b) o n)) e
      | .ok t => .next (if t.th.st = .wait then t
          else t.fullLanded s (withTop (s.gr b) (effective (s.gr b) o n)) pa n (loadConsumes q)) := by
  unfold loadTurn
  simp only [hc, hq, hflush, Bool.false_eq_true, and_false, if_false, if_true]
  rw [if_neg fun h => hd h.2] <;> rfl

/-- With no watchpoint enabled, what follows a full-empty load is the acquire after a window's record (R31, R390). -/
theorem State.fullLanded_of_quiet {t : State} (s : State) (addr : Word) (pa n : Nat) (consume : Bool) (h : t.anyWatch = false) :
    t.fullLanded s addr pa n consume = if s.noteAt s.th.cx pa then t.acquire else t := by
  unfold State.fullLanded
  rw [State.touched_of_quiet s addr pa n true consume h]

/-- The state in which a load has landed the bytes of a full granule, with the floor and stamps that its messages have left. -/
def State.fullTaken (s : State) (f : Word) (st : Sparse Word) (dst : LoadDest) (pa n : Nat) (consume : Bool) : State :=
  { s with
    th := { s.th with
      g := (s.th.landLoad dst n (s.mem.read (offsetOf pa) n)).g, f := (s.th.landLoad dst n (s.mem.read (offsetOf pa) n)).f,
      pc := s.th.pc + 4, st := .run, wait := .none, pass := false, mid := false, floor := f }
    stamps := st
    mem := if consume then s.mem.setFull (offsetOf pa) false else s.mem }

theorem State.taken_landed (s : State) (dst : LoadDest) (pa n : Nat) (consume : Bool) : ∃ (f : Word) (st : Sparse Word),
    (s.taken pa consume).landed dst n (s.mem.read (offsetOf pa) n) = s.fullTaken f st dst pa n consume := by
  obtain ⟨f, st, e⟩ := s.taken_frame pa consume
  refine ⟨f, st, ?_⟩
  rw [e, State.landed]
  exact congrArg (fun t => { s with th := t, stamps := st, mem := if consume then s.mem.setFull (offsetOf pa) false else s.mem })
    (s.th.landLoad_loaded f s.th.fwd dst n _)

/-- A full-empty load of a full granule completes. -/
theorem loadTurn_of_fullGranule {s : State} {n : Nat} {q : LoadQual} {reg : Bool} {b : Reg} {o : BitVec 12} (dst : LoadDest) {pa : Nat}
    (hq : loadFull q = true) (hc : s.check (s.gr b) (effective (s.gr b) o n) (loadReq n q reg) = .ok pa)
    (hd : spaceOf (offsetOf pa) ≠ .device) (hflush : s.awaitsFlush = false) (hr : GranuleReady s (s.gr b) pa) (hw : s.anyWatch = false)
    (hfull : s.mem.isFull (offsetOf pa) = true) : ∃ (f : Word) (st : Sparse Word), loadTurn s n q reg b o dst =
      .next (if s.noteAt s.th.cx pa then (s.fullTaken f st dst pa n (loadConsumes q)).acquire
        else s.fullTaken f st dst pa n (loadConsumes q)) := by
  obtain ⟨f, st, e⟩ := s.taken_landed dst pa n (loadConsumes q)
  have hhbm := State.localHbm_of_hasFull (s := s) (State.hasFull_of_check hc hq)
  have hrun : (s.fullTaken f st dst pa n (loadConsumes q)).th.st ≠ .wait := SlotState.noConfusion
  have hquiet : (s.fullTaken f st dst pa n (loadConsumes q)).anyWatch = false := hw
  refine ⟨f, st, ?_⟩
  rw [loadTurn_of_full dst hq hc hd hflush, State.fullLoad_of_full dst _ _ hr hhbm hfull, e]
  dsimp only
  rw [if_neg hrun, State.fullLanded_of_quiet s _ pa n _ hquiet]

/-- A full-empty load of an empty granule waits. -/
theorem loadTurn_of_emptyGranule {s : State} {n : Nat} {q : LoadQual} {reg : Bool} {b : Reg} {o : BitVec 12} (dst : LoadDest) {pa : Nat}
    (hq : loadFull q = true) (hc : s.check (s.gr b) (effective (s.gr b) o n) (loadReq n q reg) = .ok pa)
    (hd : spaceOf (offsetOf pa) ≠ .device) (hflush : s.awaitsFlush = false) (hr : GranuleReady s (s.gr b) pa)
    (hempty : s.mem.isFull (offsetOf pa) = false) : ∃ w, loadTurn s n q reg b o dst = .next (State.block
      { s with feq := if s.recordedAt pa < 64 then s.feq ++ [(pa / 16, .thread s.th.place, loadConsumes q)] else s.feq } w) := by
  obtain ⟨w, e⟩ := State.fullLoad_of_empty (ea := withTop (s.gr b) (effective (s.gr b) o n)) (n := n) dst (loadConsumes q) 0 hr hempty
  refine ⟨w, ?_⟩
  rw [loadTurn_of_full dst hq hc hd hflush, e]
  dsimp only
  rw [if_pos (State.block_th_st _ _)]

/-- Settles O38: the turn of a full-empty load is the access of `fullLoad`, which a full granule completes and an empty one holds. -/
theorem fullEmptyLoads : Obligations.FullEmptyLoads := by
  intro d b q o s pa sx G F P rows e he hq hc hloc hd hbuf htag hpsn hw hflush
  obtain ⟨-, dst, hex, hdst⟩ : IsLoad s b q o e := loadRows_isLoad e he
  have hr : GranuleReady s (s.gr b) pa := ⟨hloc, hbuf, htag, hpsn⟩
  have hfe : loadFull q = true := by rcases hq with rfl | rfl <;> rfl
  have hcons : loadConsumes q = decide (q = .fec) := by rcases hq with rfl | rfl <;> rfl
  refine ⟨fun hfull => ?_, fun hempty => ?_⟩
  · obtain ⟨f, st, ht⟩ := loadTurn_of_fullGranule dst hfe hc hd hflush hr hw hfull
    obtain ⟨hg, hf⟩ := hdst (s.mem.read (offsetOf pa) e.2.1)
    have hmem : (if loadConsumes q then s.mem.setFull (offsetOf pa) false else s.mem) =
        if q = .fec then s.mem.setFull (offsetOf pa) false else s.mem := by simp [hcons]
    refine ⟨_, _, hex.trans ht, rfl, ?_⟩
    split
    · exact ⟨hg.symm, hf.symm, rfl, rfl, hmem, rfl, rfl, fun _ x hx hcore hctx hclean => State.acquire_cache _ hx hcore hctx hclean⟩
    · next hnote => exact ⟨hg.symm, hf.symm, rfl, rfl, hmem, rfl, rfl, fun h => absurd h hnote⟩
  · obtain ⟨w, ht⟩ := loadTurn_of_emptyGranule dst hfe hc hd hflush hr hempty
    exact ⟨_, hex.trans ht, rfl, rfl, rfl, rfl, rfl, by rcases hq with rfl | rfl <;> rfl⟩

end Sys2Proof.Machine
end

section
/-!
SUPPORT. TGLD, TGST and VISIT: what each does once its checks have passed, and the landing that VISIT asked for.
-/
namespace Sys2Proof.Machine

/-! ### Tags of granules (R159 to R161) -/

/-- TGLD whose checks pass (R161). -/
theorem execTgld_of_check {d b : Reg} {o : BitVec 12} {s : State} {pa : Nat}
    (hc : s.check (s.gr b) (effective (s.gr b) o 16) (tagReq false) = .ok pa) :
    execTgld d b o s = .next (s.afterG d ((s.tagSeen pa).setWidth 64)) := by
  unfold execTgld
  simp only [hc, doneG_eq]

/-- What a tag store of H0 that waits for nothing does to its state, before its pc moves. -/
def State.tagStored (s : State) (d b : Reg) (o : BitVec 12) (pa : Nat) : State :=
  s.enter (withTop (s.gr b) (effective (s.gr b) o 16)) pa 16 0 (.tag ((s.gr d).setWidth 4))

theorem State.storeWait_of_h0 {s : State} {pa : Nat} (va : Word) (h0 : hypNum s.th.thyp = 0) (htok : s.tokenNeeded pa = none)
    (hroom : s.bufferFull = false) : s.storeWait va pa = none := by
  have hver : s.versionBlocked pa = false := by simp [State.versionBlocked, h0]
  simp [State.storeWait, htok, hver, hroom]

theorem execTgst_of_check {d b : Reg} {o : BitVec 12} {s : State} {pa : Nat}
    (hc : s.check (s.gr b) (effective (s.gr b) o 16) (tagReq true) = .ok pa) (hw : s.anyWatch = false) (h0 : hypNum s.th.thyp = 0)
    (htok : s.tokenNeeded pa = none) (hroom : s.bufferFull = false) :
    execTgst d b o s = .next (s.tagStored d b o pa).advance := by
  have hquiet (insn : BitVec 32) (va : Word) : s.threadTouch insn va pa 16 false false true = s := by
    unfold State.threadTouch State.touchBy State.touch
    split
    · rw [if_neg (by simp [hw])]
    · rfl
  unfold execTgst
  simp only [hc, h0, ne_eq, not_true_eq_false, if_false, State.storeWait_of_h0 _ h0 htok hroom, hquiet]
  rfl

/-- Using a token changes tokens of contexts alone. -/
theorem State.tokenUsed_ctxs (s : State) (pa : Nat) : SameButCtxs s (s.tokenUsed pa) := by
  unfold State.tokenUsed
  split
  · dsimp only
    split <;> rfl
  · rfl

/-- Away from the own TCM a barrel thread's tag store takes a buffer entry. -/
theorem State.tagStored_of_barrel {s : State} {d b : Reg} {o : BitVec 12} {pa : Nat} (hb : s.th.onBarrel = true) (hown : s.ownTcm pa = false) :
    ∃ (x : StoreEntry) (k : Vector Ctx 16), x.pa = pa ∧ x.kind = .tag ((s.gr d).setWidth 4) ∧
      s.tagStored d b o pa = { s with ctxs := k, nextSt := s.nextSt + 1, sbuf := s.sbuf ++ [x] } := by
  have hctl : s.th.onControl = false := by
    unfold Thread.onBarrel at hb
    unfold Thread.onControl
    split at hb <;> simp_all
  obtain ⟨k, hk⟩ : ∃ k, State.tokenUsed { s with nextSt := s.nextSt + 1 } pa = { s with nextSt := s.nextSt + 1, ctxs := k } :=
    ⟨_, State.tokenUsed_ctxs _ pa⟩
  have hown' : State.ownTcm { s with nextSt := s.nextSt + 1, ctxs := k } pa = false := hown
  unfold State.tagStored State.enter
  simp only [hk, hown', hctl, Bool.false_eq_true, or_self, if_false]
  exact ⟨_, k, rfl, rfl, rfl⟩

/-- With no dirty line among those that leave, a flush only drops copies. -/
theorem State.flushLines_of_clean {s : State} {p : CacheLine → Bool} (h : ∀ x ∈ s.cache, x.isDirty = false) :
    ∃ k, s.flushLines p = { s with cache := k } := by
  have e : s.cache.filter (fun x => p x && x.isDirty) = [] :=
    List.filter_eq_nil_iff.2 fun x hx => by simp [h x hx]
  unfold State.flushLines State.cleanLines
  simp only [e, List.foldl_nil]
  exact ⟨_, rfl⟩

theorem State.giveUpCopies_of_clean {s : State} (e : StoreEntry) (h : ∀ x ∈ s.cache, x.isDirty = false) :
    ∃ k, s.giveUpCopies e = { s with cache := k } := by
  unfold State.giveUpCopies
  split
  · exact State.flushLines_of_clean h
  · exact ⟨_, rfl⟩

theorem State.send_stamps (s : State) (src dst : Nat) : ∃ st, s.send src dst = { s with stamps := st } := by
  unfold State.send
  split
  · exact ⟨_, rfl⟩
  · exact ⟨_, rfl⟩

theorem State.carry_stamps (s : State) (e : StoreEntry) : ∃ st, s.carry e = { s with stamps := st } := by
  unfold State.carry
  split
  · exact s.send_stamps _ _
  · exact ⟨_, rfl⟩

/-- A thread's tag store that meets no token region sets the home's tag, and the tags of copies. -/
theorem State.performTag_of_noRegion {s : State} {e : StoreEntry} (t : BitVec 4) (hloc : s.isLocal e.pa = true)
    (hreg : s.regionOf e.core e.ctx (offsetOf e.pa) = none) :
    ∃ st k, s.performTag e t = { s with stamps := st, cache := k, mem := s.mem.setTag (offsetOf e.pa) t } := by
  obtain ⟨st, hs⟩ := s.carry_stamps e
  have hloc' : State.isLocal { s with stamps := st } e.pa = true := hloc
  unfold State.performTag
  rw [if_neg (by simp [hreg])]
  simp only [hs, State.updMem, State.cellAt, hloc, hloc', if_true]
  by_cases hh : State.localHbm { s with stamps := st, mem := s.mem.setTag (offsetOf e.pa) t } e.pa = true
  · exact ⟨_, _, if_pos hh⟩
  · exact ⟨st, s.cache, if_neg hh⟩

/-- A tag store that performs with no dirty copy and no token region stores the tag in memory, and no byte. -/
theorem State.performEntry_of_tag {s : State} {e : StoreEntry} {t : BitVec 4} (hk : e.kind = .tag t) (hloc : s.isLocal e.pa = true)
    (hreg : s.regionOf e.core e.ctx (offsetOf e.pa) = none) (hclean : ∀ x ∈ s.cache, x.isDirty = false) :
    ∃ st k, s.performEntry e = { s with stamps := st, cache := k, mem := s.mem.setTag (offsetOf e.pa) t } := by
  obtain ⟨k, hgive⟩ := State.giveUpCopies_of_clean e hclean
  obtain ⟨st, k', ht⟩ := State.performTag_of_noRegion (s := { s with cache := k }) t hloc hreg
  unfold State.performEntry
  simp only [hk, hgive, ht]
  exact ⟨_, _, rfl⟩

/-- A control core's tag store acts at once: with nothing buffered, no region and no dirty copy, only the tag is stored in memory. -/
theorem State.tagStored_of_control {s : State} {d b : Reg} {o : BitVec 12} {pa : Nat} (hctl : s.th.onControl = true) (hbuf : s.sbuf = [])
    (hloc : s.isLocal pa = true) (hreg : s.regionOf s.th.core s.th.cx (offsetOf pa) = none) (hclean : ∀ x ∈ s.cache, x.isDirty = false) :
    ∃ st k, s.tagStored d b o pa = { s with
      nextSt := s.nextSt + 1, stamps := st, cache := k, mem := s.mem.setTag (offsetOf pa) ((s.gr d).setWidth 4) } := by
  have hused : State.tokenUsed { s with nextSt := s.nextSt + 1 } pa = { s with nextSt := s.nextSt + 1 } := by
    have hreg' : State.regionOf { s with nextSt := s.nextSt + 1 } s.th.core s.th.cx (offsetOf pa) = none := hreg
    unfold State.tokenUsed
    simp only [hreg', ite_self]
  have hdrain (p : StoreEntry → Bool) : State.drain { s with nextSt := s.nextSt + 1 } p = { s with nextSt := s.nextSt + 1 } :=
    drain_of_none (by simp [hbuf])
  unfold State.tagStored State.enter
  simp only [hused, hctl, true_or, if_true, State.settleGranule, State.settleTag, hdrain, ite_self]
  exact State.performEntry_of_tag (s := { s with nextSt := s.nextSt + 1 }) rfl hloc hreg hclean

/-! ### VISIT (R171) -/

/-- The site that VISIT names: the owner of a MIG page, or the site of a TCM of this module (R171). -/
def State.visitTarget (s : State) (pa : Nat) (leaf : Word) : Option Nat :=
  if pteMig leaf then some (pteOwn leaf)
  else if s.isLocal pa ∧ spaceOf (offsetOf pa) = .tcm then some (tcmSite (offsetOf pa)) else none

/-- What VISIT asks of the checks. -/
abbrev visitReq : Req := { cacheReq 1 false with rd := false }

/-- VISIT that has nowhere to go, or goes nowhere, only moves the pc (R171, R228). -/
theorem execVisit_stays {b : Reg} {o : BitVec 12} {s : State} {pa : Nat}
    (hc : s.check (s.gr b) (effective (s.gr b) o 1) visitReq = .ok pa)
    (h : s.th.onBarrel = false ∨ s.th.intrap = true ∨ s.th.pass = true) : execVisit b o s = .next (s.jumped (s.th.pc + 4)) := by
  have hstay (n : Nat) : !s.th.onBarrel ∨ s.th.intrap ∨ n = s.th.site ∨ s.th.pass := by
    rcases h with h | h | h <;> simp [h]
  unfold execVisit
  simp only [hc, hstay, if_true]
  split <;> exact done_eq s

theorem Thread.not_supervisor_of_barrel {t : Thread} (h : t.onBarrel = true) : t.supervisor = false := by
  unfold Thread.onBarrel at h
  unfold Thread.supervisor Thread.onControl
  split at h <;> simp_all

/-- VISIT of a barrel thread outside its handler, by the site that its address names. -/
theorem execVisit_of_target {b : Reg} {o : BitVec 12} {s : State} {pa : Nat} {leaf : Word}
    (hc : s.check (s.gr b) (effective (s.gr b) o 1) visitReq = .ok pa) (htr : s.translate (effective (s.gr b) o 1) false = .ok (pa, leaf))
    (hb : s.th.onBarrel = true) :
    execVisit b o s = match s.visitTarget pa leaf with
      | none => done s
      | some n =>
        if s.th.intrap ∨ n = s.th.site ∨ s.th.pass then done s
        else if (s.site n).isDark then trapWith s 0x0C (withTop (s.gr b) (effective (s.gr b) o 1)) 0
        else .next (s.askLanding (fin 1024 n) true) := by
  unfold execVisit State.visitTarget
  simp only [hc, htr, Thread.not_supervisor_of_barrel hb, hb, Bool.not_true, Bool.not_false, Bool.false_eq_true, false_or, if_true] <;> rfl

/-- VISIT of another module's address completes without waiting for a response. -/
theorem execVisit_of_remote {b : Reg} {o : BitVec 12} {s : State} {w : Bool} {pa : Nat} {va : Word} {r : Option RemoteAtom}
    (hc : s.check (s.gr b) (effective (s.gr b) o 1) visitReq = .error (.wait (.remote w pa va r))) :
    execVisit b o s = .next (s.jumped (s.th.pc + 4)) := by
  unfold execVisit
  simp only [hc]
  exact done_eq s

/-! ### Landings (R170) -/

/-- A granted landing of a VISIT puts the thread in a caravan, with the pc at the next instruction. -/
theorem execLandingReplyArrive_of_grant {s : State} {k : Nat} {l : Landing} {j : Fin 16} (hl : s.land[k]? = some l)
    (hg : l.grant = some (some j)) (hv : l.visit = true) (ho : s.overtakes l.way = false) (hp : s.th.place = l.place)
    (hw : s.th.wait = .landing) (hbuf : s.sbuf = []) : ∃ old, execLandingReplyArrive k s = .next { s with
      land := dropAt s.land k
      th := { s.th with place := .caravan l.target j, st := .run, wait := .none, pc := s.th.pc + 4, pass := false, mid := false, old := old,
                        landed := s.clock }
      clock := s.clock + 1 } := by
  have hdrain (p : StoreEntry → Bool) : State.drain { s with land := dropAt s.land k } p = { s with land := dropAt s.land k } :=
    drain_of_none (by simp [hbuf])
  have hfocus : State.focus { s with land := dropAt s.land k } l.place = some { s with land := dropAt s.land k } := State.focus_here hp
  unfold execLandingReplyArrive onThread
  simp only [hl, hg, ho, hv, hfocus, hw, hdrain, Bool.false_eq_true, ne_eq, not_true_eq_false, if_false, if_true]
  exact ⟨_, rfl⟩

/-- Settles O42: tags by the lemmas of TGLD and TGST, VISIT by the site that its address names. -/
theorem tagsAndMigration : Obligations.TagsAndMigration := by
  intro d b o s pa
  refine ⟨fun hc => ?_, fun hc hw h0 htok hroom => ?_, fun ea hea hc => ?_, fun ea w va r hea hc => ?_, fun k l j hl hg hv ho hp hw _ hbuf => ?_⟩
  · exact (execTgld_of_check hc).trans (by rw [BitVec.ofNat_toNat])
  · have hex : exec (.tgst d b o) s = _ := execTgst_of_check hc hw h0 htok hroom
    refine ⟨fun hb hown => ?_, fun hctl hbuf _ hloc hreg hclean => ?_⟩
    · obtain ⟨x, k, hxpa, hxk, e⟩ := State.tagStored_of_barrel (d := d) (b := b) (o := o) hb hown
      rw [e] at hex
      exact ⟨_, x, hex, rfl, hxpa, hxk.trans (by rw [BitVec.ofNat_toNat]), rfl, rfl⟩
    · obtain ⟨st, k, e⟩ := State.tagStored_of_control (d := d) (b := b) (o := o) hctl hbuf hloc hreg (by simpa using hclean)
      rw [e] at hex
      exact ⟨_, hex, by rw [BitVec.ofNat_toNat]; rfl, rfl, rfl⟩
  · subst hea
    refine ⟨execVisit_stays hc, fun leaf n htr hb hin hpass hn => ?_, fun leaf htr hb hmig hn => ?_⟩
    · have hex : exec (.visit b o) s = _ := execVisit_of_target hc htr hb
      have htarget : s.visitTarget pa leaf = some n := by
        unfold State.visitTarget
        rcases hn with ⟨hm, rfl⟩ | ⟨hm, hloc, htcm, rfl⟩ <;> simp_all
      simp only [htarget, hin, hpass, Bool.false_eq_true, or_false, false_or] at hex
      refine ⟨fun hdark hne => ?_, fun hown => ?_, fun m hm hne hlit => ?_⟩
      · rw [hex, if_neg hne, if_pos hdark]
        rfl
      · rw [hex, if_pos hown]
        exact done_eq s
      · rw [hex, if_neg hne, if_neg (by simp [hlit])]
        subst hm
        rw [show fin 1024 m.val = m from Fin.ext (Nat.mod_eq_of_lt m.isLt)]
        rfl
    · have htarget : s.visitTarget pa leaf = none := by
        unfold State.visitTarget
        rcases hn with h | h <;> simp [hmig, h]
      have hex : exec (.visit b o) s = _ := execVisit_of_target hc htr hb
      rw [hex, htarget]
      exact done_eq s
  · subst hea
    exact execVisit_of_remote hc
  · obtain ⟨old, h⟩ := execLandingReplyArrive_of_grant hl hg hv ho hp hw hbuf
    exact ⟨_, h, rfl, rfl, rfl⟩

end Sys2Proof.Machine
end

section
/-!
SUPPORT. Fields and single bits of words: what field, flag and setBits leave in a field and outside it.
-/
namespace Sys2Proof.Machine

/-! ### Fields of words (R9) -/

theorem bits_eq_of_getLsbD {w : Nat} {x : BitVec w} {lo n m : Nat} (hm : m < 2 ^ n) (h : ∀ i < n, x.getLsbD (lo + i) = m.testBit i) :
    bits x lo n = m := by
  apply Nat.eq_of_testBit_eq
  intro i
  rw [testBit_bits]
  by_cases hi : i < n
  · simp [hi, h i hi]
  · simp [hi, Nat.testBit_lt_two_pow (Nat.lt_of_lt_of_le hm (Nat.pow_le_pow_right (by omega) (by omega : n ≤ i)))]

theorem bits_or {w : Nat} (x y : BitVec w) (lo n : Nat) : bits (x ||| y) lo n = bits x lo n ||| bits y lo n := by
  apply Nat.eq_of_testBit_eq
  intro i
  simp only [Nat.testBit_or, testBit_bits, BitVec.getLsbD_or]
  cases decide (i < n) <;> simp

theorem bit_or {w : Nat} (x y : BitVec w) (i : Nat) : bit (x ||| y) i = (bit x i || bit y i) := by simp [bit]

theorem getLsbD_field (lo n v i : Nat) : (field lo n v).getLsbD i = (decide (i < 64 ∧ lo ≤ i ∧ i < lo + n) && v.testBit (i - lo)) := by
  unfold field
  rw [BitVec.getLsbD_ofNat, Nat.testBit_shiftLeft, Nat.testBit_mod_two_pow]
  by_cases h1 : lo ≤ i
  · have : i - lo < n ↔ i < lo + n := by omega
    simp [h1, this, Bool.and_assoc]
  · simp [h1]

theorem bits_field_same {lo n : Nat} (v : Nat) (h : lo + n ≤ 64) : bits (field lo n v) lo n = v % 2 ^ n := by
  refine bits_eq_of_getLsbD (Nat.mod_lt _ (Nat.two_pow_pos n)) fun i hi => ?_
  rw [getLsbD_field, Nat.testBit_mod_two_pow, decide_eq_true (by omega), decide_eq_true hi, Nat.add_sub_cancel_left]

theorem bits_field_other {lo n : Nat} (v : Nat) {lo' n' : Nat} (h : lo' + n' ≤ lo ∨ lo + n ≤ lo') : bits (field lo n v) lo' n' = 0 := by
  refine bits_eq_of_getLsbD (Nat.two_pow_pos n') fun i hi => ?_
  rw [getLsbD_field, decide_eq_false (by omega), Bool.false_and, Nat.zero_testBit]

theorem bit_field_other {lo n : Nat} (v : Nat) {i : Nat} (h : i < lo ∨ lo + n ≤ i) : bit (field lo n v) i = false := by
  rw [bit, getLsbD_field, decide_eq_false (by omega), Bool.false_and]

theorem bit_flag_same {i : Nat} (b : Bool) (h : i < 64) : bit (flag i b) i = b := by
  rw [bit, flag, getLsbD_field, decide_eq_true (by omega), Nat.sub_self]
  cases b <;> rfl

theorem bits_flag_other {lo : Nat} (b : Bool) {lo' n' : Nat} (h : lo' + n' ≤ lo ∨ lo < lo') : bits (flag lo b) lo' n' = 0 :=
  bits_field_other _ h

theorem bits_setBits_same {w : Nat} (x : BitVec w) {lo n : Nat} (v : Nat) (h : lo + n ≤ w) : bits (setBits x lo n v) lo n = v % 2 ^ n := by
  refine bits_eq_of_getLsbD (Nat.mod_lt _ (Nat.two_pow_pos n)) fun i hi => ?_
  rw [getLsbD_setBits x (by omega), if_pos (by omega), Nat.testBit_mod_two_pow, decide_eq_true hi, Nat.add_sub_cancel_left, Bool.true_and]

theorem bit_setBits_other {w : Nat} (x : BitVec w) {lo n : Nat} (v : Nat) {i : Nat} (h : i < lo ∨ lo + n ≤ i) :
    bit (setBits x lo n v) i = bit x i := by
  unfold bit
  by_cases hi : i < w
  · rw [getLsbD_setBits x hi, if_neg (by omega)]
  · rw [BitVec.getLsbD_of_ge _ _ (by omega), BitVec.getLsbD_of_ge _ _ (by omega)]

theorem bits_setBits_other {w : Nat} (x : BitVec w) {lo n : Nat} (v : Nat) {lo' n' : Nat} (h : lo' + n' ≤ lo ∨ lo + n ≤ lo') :
    bits (setBits x lo n v) lo' n' = bits x lo' n' := by
  refine bits_eq_of_getLsbD (bits_lt x lo' n') fun i hi => ?_
  rw [testBit_bits, decide_eq_true hi, Bool.true_and]
  exact bit_setBits_other x v (by omega)

theorem bit_setBits_same {w : Nat} (x : BitVec w) {i : Nat} (v : Nat) (h : i < w) : bit (setBits x i 1 v) i = v.testBit 0 := by
  rw [bit, getLsbD_setBits x h, if_pos (by omega), Nat.sub_self]

theorem testBit_zero_toNat (b : Bool) : b.toNat.testBit 0 = b := by cases b <;> rfl

theorem bit_eq_bits {w : Nat} (x : BitVec w) (i : Nat) : bits x i 1 = (bit x i).toNat :=
  bits_eq_of_getLsbD (Bool.toNat_lt _) fun k hk => by
    obtain rfl : k = 0 := by omega
    rw [testBit_zero_toNat]
    rfl

end Sys2Proof.Machine
end

section
/-!
SUPPORT. The list of instances through the homes, the caches and the store buffer.
-/
namespace Sys2Proof.Machine

/-! ### What leaves the instances as they are

The homes, the caches and the store buffer hold no instances: whatever performs there keeps the list of them (R85, R190). -/

theorem foldl_insts {β : Type} {f : State → β → State} (hf : ∀ s x, (f s x).insts = s.insts) (l : List β) (s : State) :
    (l.foldl f s).insts = s.insts := by
  induction l generalizing s with
  | nil => rfl
  | cons x l ih => exact (ih _).trans (hf s x)

theorem State.ite_insts (p : Prop) [Decidable p] (s t : State) : (if p then s else t).insts = if p then s.insts else t.insts :=
  apply_ite State.insts p s t

@[simp] theorem State.updCtx_insts (s : State) (c : Fin 16) (f : Ctx → Ctx) : (s.updCtx c f).insts = s.insts := rfl

@[simp] theorem State.send_insts (s : State) (src dst : Nat) : (s.send src dst).insts = s.insts := by unfold State.send; split <;> rfl

@[simp] theorem State.replaceLlc_insts (s : State) (line : Nat) : (s.replaceLlc line).insts = s.insts := by
  unfold State.replaceLlc; split <;> rfl

@[simp] theorem State.touchLlc_insts (s : State) (line : Nat) (d : Bool) : (s.touchLlc line d).insts = s.insts := by
  unfold State.touchLlc
  dsimp only
  split
  · rfl
  · exact s.replaceLlc_insts line

@[simp] theorem State.makeVersion_insts (s : State) (c : Fin 16) (h : Handle) (line : Nat) : (s.makeVersion c h line).insts = s.insts := by
  unfold State.makeVersion; split <;> rfl

@[simp] theorem State.updMem_insts (s : State) (pa : Nat) (f : Mem → Mem) : (s.updMem pa f).insts = s.insts := by
  unfold State.updMem; split <;> rfl

@[simp] theorem State.writeHome_insts (s : State) (c : Fin 16) (h : Handle) (pa n v : Nat) : (s.writeHome c h pa n v).insts = s.insts := by
  unfold State.writeHome
  dsimp only
  split
  · split
    · exact State.touchLlc_insts _ _ _
    · split
      · exact s.makeVersion_insts _ _ _
      · rfl
  · exact s.updMem_insts _ _

@[simp] theorem State.writeWords_insts (s : State) (c : Fin 16) (pa : Nat) (l : List Word) : (s.writeWords c pa l).insts = s.insts := by
  induction l generalizing s pa with
  | nil => rfl
  | cons w l ih => exact (ih _ _).trans (s.writeHome_insts _ _ _ _ _)

@[simp] theorem State.writeMasked_insts (s : State) (c : Fin 16) (h : Handle) (pa : Nat) (d : BitVec 512) (mask : BitVec 64) (n : Nat) :
    (s.writeMasked c h pa d mask n).insts = s.insts := by
  induction n generalizing s with
  | zero => rfl
  | succ n ih =>
    refine (ih _).trans ?_
    split
    · exact s.writeHome_insts _ _ _ _ _
    · rfl

@[simp] theorem State.clearWhole_insts (s : State) (c : Fin 16) (h : Handle) (pa : Nat) (d : BitVec 512) (whole : BitVec 4) :
    (s.clearWhole c h pa d whole).insts = s.insts :=
  foldl_insts (fun s i => by simp [State.ite_insts]) _ s

@[simp] theorem State.writeTag_insts (s : State) (x : CacheLine) (i : Nat) : (s.writeTag x i).insts = s.insts := by
  unfold State.writeTag; dsimp only; split <;> rfl

@[simp] theorem State.writeBack_insts (s : State) (x : CacheLine) : (s.writeBack x).insts = s.insts := by
  unfold State.writeBack
  refine (foldl_insts (fun s i => by simp [State.ite_insts]) _ _).trans ?_
  simp [State.ite_insts]

@[simp] theorem State.flushLines_insts (s : State) (p : CacheLine → Bool) : (s.flushLines p).insts = s.insts :=
  foldl_insts State.writeBack_insts _ s

@[simp] theorem State.makeRoom_insts (s : State) (core : CoreId) : (s.makeRoom core).insts = s.insts := by
  unfold State.makeRoom
  split
  · rfl
  · split
    · exact s.writeBack_insts _
    · rfl

@[simp] theorem State.fill_insts (s : State) (core : CoreId) (c : Fin 16) (line : Nat) (h : Handle) :
    (s.fill core c line h).insts = s.insts := by
  unfold State.fill
  split
  · rfl
  · exact (State.touchLlc_insts (s.makeRoom core) line false).trans (s.makeRoom_insts core)

@[simp] theorem State.updCache_insts (s : State) (core : CoreId) (c : Fin 16) (line : Nat) (h : Handle) (f : CacheLine → CacheLine) :
    (s.updCache core c line h f).insts = s.insts := rfl

@[simp] theorem State.carry_insts (s : State) (e : StoreEntry) : (s.carry e).insts = s.insts := by
  unfold State.carry; split <;> simp

@[simp] theorem State.makeRecord_insts (s : State) (key : Nat) (r : Record) : (s.makeRecord key r).1.insts = s.insts := by
  unfold State.makeRecord; dsimp only; split <;> rfl

@[simp] theorem State.pokeImage_insts (s : State) (t : Thread) (off : Nat) (v : Word) : (s.pokeImage t off v).insts = s.insts := by
  unfold State.pokeImage; split <;> simp

@[simp] theorem State.updThread_insts (s : State) (p : Place) (f : Thread → Thread) : (s.updThread p f).insts = s.insts := rfl

@[simp] theorem State.hitOne_insts (s : State) (p : Place) (n : Fin 4) (k : Touch) : (s.hitOne p n k).insts = s.insts := by
  unfold State.hitOne
  split
  · rfl
  · split
    · dsimp only
      split <;> simp
    · rfl

@[simp] theorem State.touch_insts (s : State) (k : Touch) : (s.touch k).insts = s.insts := by
  unfold State.touch
  split
  · exact foldl_insts (fun s p => foldl_insts (fun s n => s.hitOne_insts p n k) _ s) _ s
  · rfl

@[simp] theorem State.touchBy_insts (s : State) (t : Thread) (insn : BitVec 32) (va : Word) (pa len : Nat) (rd wr tg : Bool) :
    (s.touchBy t insn va pa len rd wr tg).insts = s.insts := by
  unfold State.touchBy; split <;> simp

@[simp] theorem State.tell_insts (s : State) (home : Nat) (p : Place) : (s.tell home p).insts = s.insts := by
  unfold State.tell
  split
  · rfl
  · split <;> rfl

@[simp] theorem State.acquireFor_insts (s : State) (t : Thread) : (s.acquireFor t).insts = s.insts := rfl

@[simp] theorem State.serveOne_insts (s : State) (p : Place) : (s.serveOne p).insts = s.insts := by
  unfold State.serveOne
  split
  · rfl
  · split
    · simp [State.ite_insts]
    · rfl

@[simp] theorem State.serveRemote_insts (s : State) (pa : Nat) (tag : BitVec 4) (consume : Bool) :
    (s.serveRemote pa tag consume).insts = s.insts := by
  unfold State.serveRemote; split <;> simp

@[simp] theorem State.unrecord_insts (s : State) (g : Nat) (w : Waiter) (consume : Bool) : (s.unrecord g w consume).insts = s.insts := by
  unfold State.unrecord; split <;> rfl

@[simp] theorem State.serveWaiters_insts (s : State) (pa : Nat) (l : List (Nat × Waiter × Bool)) :
    (s.serveWaiters pa l).insts = s.insts := by
  induction l generalizing s with
  | nil => rfl
  | cons e l ih =>
    obtain ⟨g, w, consume⟩ := e
    unfold State.serveWaiters
    split
    · cases w <;> dsimp only <;> split <;> simp [ih]
    · exact ih s

@[simp] theorem State.makeFull_insts (s : State) (pa : Nat) : (s.makeFull pa).insts = s.insts := by
  simp [State.makeFull]

@[simp] theorem State.performStore_insts (s : State) (e : StoreEntry) : (s.performStore e).insts = s.insts := by
  unfold State.performStore
  dsimp only
  split
  · split
    · rfl
    · split <;> simp
  · split <;> simp

@[simp] theorem State.performTag_insts (s : State) (e : StoreEntry) (t : BitVec 4) : (s.performTag e t).insts = s.insts := by
  simp [State.performTag, State.ite_insts]

@[simp] theorem State.logReduction_insts (s : State) (c : Fin 16) (w0 w1 w2 w3 : Word) :
    (s.logReduction c w0 w1 w2 w3).insts = s.insts := by
  unfold State.logReduction
  rw [State.ite_insts, State.setReg_insts, State.setReg_insts, State.writeWords_insts, ite_self]

@[simp] theorem State.logAtom_insts (s : State) (e : StoreEntry) (op : AtomOp) (z : AtomSize) (x : Word) (cause found : Nat) :
    (s.logAtom e op z x cause found).insts = s.insts := s.logReduction_insts _ _ _ _ _

@[simp] theorem State.applyAtom_insts (s : State) (c : Fin 16) (h : Handle) (pa : Nat) (op : AtomOp) (z : AtomSize) (b expect : Nat) :
    (s.applyAtom c h pa op z b expect).1.insts = s.insts := by
  unfold State.applyAtom; dsimp only; split <;> simp

@[simp] theorem State.touchEntry_insts (s : State) (e : StoreEntry) : (s.touchEntry e).insts = s.insts := by
  unfold State.touchEntry; dsimp only; split <;> simp

@[simp] theorem State.performAtom_insts (s : State) (e : StoreEntry) (op : AtomOp) (z : AtomSize) (x : Word) :
    (s.performAtom e op z x).insts = s.insts := by
  unfold State.performAtom
  split
  · rfl
  · dsimp only
    split
    · simp
    · simp only [State.applyAtom_insts, State.touchEntry_insts]
      split <;> simp

@[simp] theorem State.giveUpCopies_insts (s : State) (e : StoreEntry) : (s.giveUpCopies e).insts = s.insts := by
  unfold State.giveUpCopies; split <;> simp

@[simp] theorem State.performEntry_insts (s : State) (e : StoreEntry) : (s.performEntry e).insts = s.insts := by
  unfold State.performEntry; dsimp only; split <;> simp

@[simp] theorem State.perform_insts (s : State) (e : StoreEntry) : (s.perform e).insts = s.insts := by
  unfold State.perform; split <;> simp

@[simp] theorem State.performIds_insts (s : State) (ids : List Nat) (n : Nat) : (s.performIds ids n).insts = s.insts := by
  induction n generalizing s with
  | zero => rfl
  | succ n ih =>
    unfold State.performIds
    split
    · exact (ih _).trans (s.perform_insts _)
    · rfl

@[simp] theorem State.drain_insts (s : State) (p : StoreEntry → Bool) : (s.drain p).insts = s.insts := by
  unfold State.drain; dsimp only; split <;> simp

@[simp] theorem State.flushAll_insts (s : State) (p : CacheLine → Bool) : (s.flushAll p).insts = s.insts := by
  simp [State.flushAll]

end Sys2Proof.Machine
end

section
/-!
SUPPORT. Retirement, the resynchronisation pulse and the events of Route.
-/
namespace Sys2Proof.Machine

/-! ### Retirement, resynchronisation and Route (R16, R254, R434 to R437) -/

/-- A site with no thread has nothing to clear (R254). -/
theorem State.clearSite_of_empty {s : State} {n : Fin 1024} (h : s.residents n = []) : s.clearSite n false = s := by
  simp [State.clearSite, h]

theorem State.moveOff_of_apart {s : State} {n : Nat} (h : ∀ x ∈ s.insts, n ∉ x.area) : s.moveOff n = s := by
  have hnone : (s.insts.findIdx? fun x => x.area.contains n && x.pend == .none && x.st != .shuttered) = none := by
    rw [List.findIdx?_eq_none_iff]
    intro x hx
    simp [h x hx]
  rw [State.moveOff, hnone]

theorem State.endRetirement_status (s : State) (n : Fin 1024) : ((s.endRetirement n).site n).status = .retired := by
  unfold State.endRetirement
  generalize (s.threads.map (·.place)).foldl (fun (s : State) p => s.refuseWaiter p n) s = u
  exact congrArg Site.status ((u.site_setSite n n _).trans (if_pos rfl))

theorem retirementRun_ends {s : State} {r : Retirement} (hr : s.retire = some r) (hbegun : r.begun = true) (hforced : r.forced = false)
    (hempty : s.residents r.site = []) (hinsts : ∀ x ∈ s.insts, r.site.val ∉ x.area) :
    exec .retirementRun s = .next (s.endRetirement r.site) := by
  have hany : (s.insts.any fun x => x.area.contains r.site.val) = false := by
    simpa using hinsts
  change execRetirementRun s = _
  simp only [execRetirementRun, hr, hbegun, hforced, if_true, State.clearSite_of_empty hempty, State.moveOff_of_apart hinsts, hempty,
    hany]
  rfl

theorem resyncPulse_steps (s : State) : ∃ t : State, exec .resyncPulse s = .next t ∧ t.mem = s.mem ∧ t.threads = s.threads ∧
    t.regs = s.regs ∧ t.insts = s.insts ∧ t.ref = s.ref ∧
    ∀ j : Fin 8, t.fields[j].fact = s.fields[j].fact ∧ t.fields[j].hold = decide (s.ref.toNat < s.fields[j].time.toNat) ∧
      t.fields[j].time = if s.fields[j].time.toNat < s.ref.toNat then s.ref else s.fields[j].time := by
  obtain ⟨k, hnote⟩ : ∃ k, s.noteDrains = { s with ctxs := k } := ⟨_, s.noteDrains_ctxs⟩
  refine ⟨_, rfl, ?_⟩
  rw [hnote]
  refine ⟨rfl, rfl, rfl, rfl, rfl, fun j => ?_⟩
  simp only [Fin.getElem_fin, Vector.getElem_map]
  by_cases hbehind : s.fields[j.val].time.toNat < s.ref.toNat
  · simp [hbehind, Nat.le_of_lt hbehind]
  · simp [hbehind]

theorem streamerRequestFail_silent (s : State) (pos : Fin 128) (k : Nat) : ∃ t : State,
    exec (.routeRequestFail (.streamer pos) k) s = .next t ∧ t = { s with silent := t.silent } ∧
      ∀ q : Fin 128, q ∈ t.silent ↔ q = pos ∨ q ∈ s.silent := by
  refine ⟨_, rfl, rfl, fun q => ?_⟩
  dsimp only
  split
  next hin =>
    have hmem : pos ∈ s.silent := by simpa using hin
    exact ⟨Or.inr, fun h => h.elim (· ▸ hmem) id⟩
  next => simp [or_comm]

/-- The element of a filtered range at a place: it passes the filter, and as many elements below it do as its place says. -/
theorem getElem_filter_range (p : Nat → Bool) {n k : Nat} (h : k < ((List.range n).filter p).length) :
    ((List.range n).filter p)[k] < n ∧ p ((List.range n).filter p)[k] = true ∧
      ((List.range ((List.range n).filter p)[k]).filter p).length = k := by
  induction n with
  | zero => simp at h
  | succ n ih =>
    have hsplit : (List.range (n + 1)).filter p = (List.range n).filter p ++ [n].filter p := by
      rw [List.range_succ, List.filter_append]
    by_cases hk : k < ((List.range n).filter p).length
    · have hget : ((List.range (n + 1)).filter p)[k] = ((List.range n).filter p)[k] := by
        simp only [hsplit, List.getElem_append_left hk]
      obtain ⟨hlt, hp, hcount⟩ := ih hk
      rw [hget]
      exact ⟨by omega, hp, hcount⟩
    · have hn : p n = true := by
        by_contra hn
        simp [hsplit, hn] at h
        exact hk h
      have hlast : k = ((List.range n).filter p).length := by
        simp [hsplit, hn] at h
        omega
      have hget : ((List.range (n + 1)).filter p)[k] = n := by
        simp [hsplit, hn, hlast]
      rw [hget]
      exact ⟨by omega, hn, hlast.symm⟩

theorem State.routePort_spec (s : State) (pa : Nat) (h : bits (s.reg (rtmapAt (pa / 2 ^ 41))) 0 48 ≠ 0) :
    s.routePort pa < 48 ∧ bit (s.reg (rtmapAt (pa / 2 ^ 41))) (s.routePort pa) = true ∧
      ((List.range (s.routePort pa)).filter fun p => bit (s.reg (rtmapAt (pa / 2 ^ 41))) p).length =
        pa / 64 % ((List.range 48).filter fun p => bit (s.reg (rtmapAt (pa / 2 ^ 41))) p).length := by
  unfold State.routePort
  generalize s.reg (rtmapAt (pa / 2 ^ 41)) = w at h ⊢
  have hports : ((List.range 48).filter fun p => (bits w 0 48).testBit p) = (List.range 48).filter (bit w) := by
    refine List.filter_congr fun p hp => ?_
    rw [testBit_bits, decide_eq_true (List.mem_range.mp hp), Nat.zero_add, Bool.true_and]
    rfl
  have hpos : 0 < ((List.range 48).filter (bit w)).length := by
    rw [← hports]
    obtain ⟨i, hi⟩ := Nat.exists_testBit_of_ne_zero h
    refine List.length_pos_of_mem (a := i) (List.mem_filter.mpr ⟨?_, hi⟩)
    rw [testBit_bits] at hi
    simp at hi
    simpa using hi.1
  dsimp only
  rw [hports, List.getD_eq_getElem?_getD, List.getElem?_eq_getElem (Nat.mod_lt _ hpos), Option.getD_some]
  exact getElem_filter_range _ _

theorem threadRequestFail_awaited {s : State} {p : Place} (hp : s.th.place = p) {pa : Nat} {addr : Word} {a : Option RemoteAtom}
    (hw : s.th.wait = .remote false pa addr a) : exec (.routeRequestFail (.thread p) 0) s =
      trapWith (s.wake.failRoute (pa / 2 ^ 41)) 0x0C addr (BitVec.ofNat 64 (s.routePort pa)) := by
  change onThread p s (fun s => s.failThread 0) = _
  simp only [onThread, State.focus_here hp, State.failThread, State.awaitsRoute, State.failAwaited, hw]
  rfl

theorem threadRequestFail_posted {s : State} {p : Place} (hp : s.th.place = p) {e : StoreEntry} {k : Nat} (hw : s.th.wait = .none)
    (he : (s.sbuf.filter fun (f : StoreEntry) => ofSlot s.th f && !s.isLocal f.pa)[k]? = some e) :
    exec (.routeRequestFail (.thread p) k) s = .next ((s.failEntry e).failRoute (e.pa / 2 ^ 41)) := by
  change onThread p s (fun s => s.failThread k) = _
  simp only [onThread, State.focus_here hp, State.failThread, State.awaitsRoute, State.failPosted, hw, he]
  rfl

theorem routeLinkChange_word (s : State) (port : Fin 48) (up : Bool) (lanes : Fin 5) : ∃ w : Word,
    exec (.routeLinkChange port up lanes) s = .next (s.setReg (rtportAt port) w) ∧
      bits w 0 3 = lanes ∧ bit w 63 = up ∧ bit w 62 = (bit (s.reg (rtportAt port)) 62 || bit (s.reg (rtportAt port)) 63 != up) ∧
      ∀ n : Nat, 3 ≤ n → n < 62 → bit w n = bit (s.reg (rtportAt port)) n := by
  refine ⟨_, rfl, ?_⟩
  generalize s.reg (rtportAt port) = old
  unfold rtportChanged
  refine ⟨?_, ?_, ?_, fun n h3 h62 => ?_⟩
  · rw [bits_setBits_other _ _ (by omega), bits_setBits_other _ _ (by omega), bits_setBits_same _ _ (by omega)]
    exact Nat.mod_eq_of_lt (by have := lanes.isLt; omega)
  · rw [bit_setBits_other _ _ (by omega), bit_setBits_same _ _ (by omega), testBit_zero_toNat]
  · rw [bit_setBits_same _ _ (by omega)]
    by_cases hup : bit old 63 = up
    · rw [if_pos hup, hup, bne_self_eq_false, Bool.or_false, bit_eq_bits, testBit_zero_toNat]
    · rw [if_neg hup, bne_iff_ne.mpr hup, Bool.or_true]
      rfl
  · rw [bit_setBits_other _ _ (by omega), bit_setBits_other _ _ (by omega), bit_setBits_other _ _ (by omega)]

end Sys2Proof.Machine
end

section
/-!
SUPPORT. Power, activity and power-on.
-/
namespace Sys2Proof.Machine

/-! ### Power and activity (R444, R445) -/

theorem corePowerOff_frame {s : State} {n : Fin 1024} (h : s.mayPowerOff n = true) : ∃ t : State, exec (.corePowerOff n) s = .next t ∧
    (t.site n).on = false ∧ (∀ l ∈ t.cache, l.core ≠ .site n) ∧ (s.cache = [] → t.mem = s.mem) := by
  refine ⟨(s.flushLines fun x => decide (x.core = .site n)).setSite n
    { (s.flushLines fun x => decide (x.core = .site n)).site n with on := false }, ?_, ?_, fun l hl => ?_, fun hempty => ?_⟩
  · change execCorePowerOff n s = _
    rw [execCorePowerOff, if_pos h]
  · rw [State.site_setSite, if_pos rfl]
  · have hkept := (List.mem_filter.mp hl).2
    simpa using hkept
  · simp [State.flushLines, State.cleanLines, hempty]

theorem State.wakeBefore_iff (s : State) (n : Fin 1024) (k : Nat) :
    s.wakeBefore n k = true ↔ ∃ (m : Fin 1024) (j : Nat), siteField m = siteField n ∧ (s.site m).waking = some j ∧ j < k := by
  simp only [State.wakeBefore, List.any_eq_true, List.mem_finRange, true_and, Bool.and_eq_true, beq_iff_eq]
  refine exists_congr fun m => ?_
  cases (s.site m).waking <;> simp

theorem coreWake_oldest {s : State} {n : Fin 1024} {k : Nat} (hw : (s.site n).waking = some k)
    (hold : ∀ (m : Fin 1024) (j : Nat), siteField m = siteField n → (s.site m).waking = some j → k ≤ j) :
    exec (.coreWake n) s = .next (s.setSite n { s.site n with on := true, waking := none, rot := 0 }) := by
  have hnone : ¬ s.wakeBefore n k = true := fun hb => by
    obtain ⟨m, j, hf, hj, hlt⟩ := (s.wakeBefore_iff n k).mp hb
    exact absurd (hold m j hf hj) (by omega)
  change execCoreWake n s = _
  simp only [execCoreWake, hw]
  rw [if_neg hnone]

theorem coreWake_behind {s : State} {n m : Fin 1024} {k j : Nat} (hw : (s.site n).waking = some k) (hf : siteField m = siteField n)
    (hj : (s.site m).waking = some j) (hlt : j < k) : exec (.coreWake n) s = .next s := by
  change execCoreWake n s = _
  simp only [execCoreWake, hw]
  rw [if_pos ((s.wakeBefore_iff n k).mpr ⟨m, j, hf, hj, hlt⟩)]

/-- The word that FACT holds: the activity, the ballast and whether the field is paced (R445). -/
def factWord (act bal pace : Nat) : Word := field 32 1 pace ||| field 16 10 bal ||| field 0 10 act

theorem State.setFact_fields (s : State) {f : Nat} (act bal pace : Nat) (h : f < 8) :
    (s.setFact f act bal pace).fields = s.fields.set f { s.fields[f] with fact := factWord act bal pace } := by
  rw [State.setFact, dif_pos h]
  rfl

theorem State.setFact_mem (s : State) (f act bal pace : Nat) : (s.setFact f act bal pace).mem = s.mem := by
  unfold State.setFact
  split <;> rfl

theorem State.setFact_two (s : State) {f g : Fin 8} (hne : f ≠ g) (a b bf bg pf pg : Nat) :
    let t := (s.setFact f a bf pf).setFact g b bg pg
    t.mem = s.mem ∧ t.fields[f].time = s.fields[f].time ∧ t.fields[g].time = s.fields[g].time ∧
      t.fields[f].fact = factWord a bf pf ∧ t.fields[g].fact = factWord b bg pg := by
  have hval : f.val ≠ g.val := fun h => hne (Fin.ext h)
  refine ⟨by rw [State.setFact_mem, State.setFact_mem], ?_⟩
  simp only [Fin.getElem_fin, State.setFact_fields _ _ _ _ g.isLt, State.setFact_fields _ _ _ _ f.isLt, Vector.getElem_set_self,
    Vector.getElem_set_ne _ _ hval.symm, Vector.getElem_set_ne _ _ hval]
  exact ⟨trivial, trivial, trivial, trivial⟩

theorem factWord_act (act bal pace : Nat) (h : act < 1024) : bits (factWord act bal pace) 0 10 = act := by
  rw [factWord, bits_or, bits_or, bits_field_other _ (by omega), bits_field_other _ (by omega), bits_field_same _ (by omega),
    Nat.zero_or, Nat.zero_or]
  exact Nat.mod_eq_of_lt h

theorem factWord_bal_zero (act pace : Nat) : bits (factWord act 0 pace) 16 10 = 0 := by
  rw [factWord, bits_or, bits_or, bits_field_other _ (by omega), bits_field_same _ (by omega), bits_field_other _ (by omega)]
  rfl

theorem factWord_pace_zero (act bal : Nat) : bit (factWord act bal 0) 32 = false := by
  rw [factWord, bit_or, bit_or, bit_field_other (lo := 16) _ (by omega), bit_field_other (lo := 0) _ (by omega), Bool.or_false,
    Bool.or_false]
  rfl

theorem factWord_plain (act : Nat) : factWord act 0 0 = field 0 10 act := by
  simp [factWord, field]

theorem activityBalance_effect (s : State) (row : Fin 4) (a b : BitVec 10) (f g : Fin 8) (hf : f.val = 2 * row.val)
    (hg : g.val = 2 * row.val + 1) : ∃ t : State,
      exec (.activityBalance row a b) s = .next t ∧ t.mem = s.mem ∧ t.fields[f].time = s.fields[f].time ∧ t.fields[g].time = s.fields[g].time ∧
      (max a.toNat b.toNat ≥ 10 * (max a.toNat b.toNat - min a.toNat b.toNat) →
        t.fields[f].fact = field 0 10 a.toNat ∧ t.fields[g].fact = field 0 10 b.toNat) ∧
      (max a.toNat b.toNat < 10 * (max a.toNat b.toNat - min a.toNat b.toNat) → bits t.fields[f].fact 0 10 = a.toNat ∧
        bits t.fields[g].fact 0 10 = b.toNat ∧
        if a.toNat < b.toNat then bit t.fields[f].fact 32 = false ∧ bits t.fields[g].fact 16 10 = 0
        else bit t.fields[g].fact 32 = false ∧ bits t.fields[f].fact 16 10 = 0) := by
  have hne : f ≠ g := fun h => by have := congrArg Fin.val h; omega
  have ha : a.toNat < 1024 := a.isLt
  have hb : b.toNat < 1024 := b.isLt
  have hgap : (if a.toNat ≤ b.toNat then b.toNat - a.toNat else a.toNat - b.toNat) = max a.toNat b.toNat - min a.toNat b.toNat := by
    split <;> omega
  have hexec : exec (.activityBalance row a b) s = execActivityBalance row a b s := rfl
  rw [hexec]
  simp only [execActivityBalance, hgap, ← hg]
  simp only [← hf]
  by_cases hfar : max a.toNat b.toNat < 10 * (max a.toNat b.toNat - min a.toNat b.toNat)
  · rw [if_pos hfar]
    by_cases hlt : a.toNat < b.toNat
    · obtain ⟨hmem, htf, htg, hff, hfg⟩ := s.free.1.setFact_two hne a.toNat b.toNat (bits s.free.2 0 10) 0 0 (bits s.free.2 16 1)
      refine ⟨_, if_pos hlt, hmem, htf, htg, fun h => absurd hfar (by omega), fun _ => ?_⟩
      rw [hff, hfg, if_pos hlt]
      exact ⟨factWord_act _ _ _ ha, factWord_act _ _ _ hb, factWord_pace_zero _ _, factWord_bal_zero _ _⟩
    · obtain ⟨hmem, htf, htg, hff, hfg⟩ := s.free.1.setFact_two hne a.toNat b.toNat 0 (bits s.free.2 0 10) (bits s.free.2 16 1) 0
      refine ⟨_, if_neg hlt, hmem, htf, htg, fun h => absurd hfar (by omega), fun _ => ?_⟩
      rw [hff, hfg, if_neg hlt]
      exact ⟨factWord_act _ _ _ ha, factWord_act _ _ _ hb, factWord_pace_zero _ _, factWord_bal_zero _ _⟩
  · obtain ⟨hmem, htf, htg, hff, hfg⟩ := s.setFact_two hne a.toNat b.toNat 0 0 0 0
    rw [if_neg hfar]
    refine ⟨_, rfl, hmem, htf, htg, fun _ => ?_, fun h => absurd h hfar⟩
    rw [hff, hfg, factWord_plain, factWord_plain]
    exact ⟨rfl, rfl⟩

/-! ### Start-up (R7, R443, R446) -/

theorem tget_map_range {α : Type} (d : α) (f : Nat → α) {n k : Nat} (h : k < n) : tget d ((List.range n).map fun i => (i, f i)) k = f k := by
  have hmem : ∀ l : List Nat, k ∈ l → tget d (l.map fun i => (i, f i)) k = f k := by
    intro l hl
    induction l with
    | nil => simp at hl
    | cons i l ih =>
      rw [List.map_cons, tget]
      by_cases hi : k = i
      · rw [if_pos hi, hi]
      · rw [if_neg hi]
        exact ih ((List.mem_cons.mp hl).resolve_left hi)
  exact hmem _ (List.mem_range.mpr h)

/-- A site that is retired is so after start-up (R254). -/
theorem keptSites_retired {d : Site} {t : Sparse Site} {n : Nat} (h : (tget d t n).status = .retired) :
    (tget d (keptSites t) n).status = .retired := by
  induction t with
  | nil => exact h
  | cons e t ih =>
    obtain ⟨k, v⟩ := e
    rw [tget] at h
    by_cases hk : n = k
    · rw [if_pos hk] at h
      simp [keptSites, h, tget, hk]
    · rw [if_neg hk] at h
      have hrest : (tget d (keptSites t) n).status = .retired := ih h
      by_cases hv : v.status = .retired
      · simpa [keptSites, List.filter_cons, hv, tget, hk] using hrest
      · simpa [keptSites, List.filter_cons, hv] using hrest

theorem State.powerOn_site (s : State) (n : Fin 1024) : s.powerOn.site n = { s.startUp.site n with on := false } := by
  unfold State.powerOn
  generalize s.startUp = u
  rw [State.site, tget_map_range _ _ n.isLt]

theorem startUp_powerOn {s : State} (h : s.boot = .up ∨ s.boot = .failed) : ∃ t : State, exec .startUp s = .next t ∧
    t.boot = .starting 1 0 ∧ t.mem = s.mem ∧ t.threads = [Thread.controlCore 0] ∧ t.regs = State.reset.regs ∧ t.insts = [] ∧ t.tlb = [] ∧
      t.keytab = s.keytab ∧ t.owners = s.owners ∧ t.peers = s.peers ∧ t.inputs = s.inputs ∧
      ∀ n : Fin 1024, (t.site n).on = false ∧ ((s.site n).status = .retired → (t.site n).status = .retired) := by
  have hexec : exec .startUp s = .next s.powerOn := by
    change execStartUp s = _
    rcases h with h | h <;> rw [execStartUp, h]
  refine ⟨_, hexec, rfl, rfl, rfl, rfl, rfl, rfl, rfl, rfl, rfl, rfl, fun n => ?_⟩
  rw [State.powerOn_site]
  exact ⟨rfl, fun hret => keptSites_retired hret⟩

end Sys2Proof.Machine
end

section
/-!
SUPPORT. The units of start-up.
-/
namespace Sys2Proof.Machine

/-! ### The units of start-up (R443, R446) -/

theorem State.startUnit_kept (s : State) (stage unit : Nat) : (s.startUnit stage unit).keytab = s.keytab ∧
    (s.startUnit stage unit).owners = s.owners ∧ (s.startUnit stage unit).regs = s.regs := by
  unfold State.startUnit
  split
  · split <;> exact ⟨rfl, rfl, rfl⟩
  · exact ⟨rfl, rfl, rfl⟩
  · exact ⟨rfl, rfl, rfl⟩
  · split <;> exact ⟨rfl, rfl, rfl⟩
  · dsimp only
    split <;> split <;> exact ⟨rfl, rfl, rfl⟩
  · split <;> exact ⟨rfl, rfl, rfl⟩
  · exact ⟨rfl, rfl, rfl⟩
  · exact ⟨rfl, rfl, rfl⟩

theorem State.startUnit_boot_failed (s : State) (h : Boot.verdict = .failed) : s.startUnit 2 0 = { s with boot := .failed } := by
  unfold State.startUnit
  split
  · rw [h]
  all_goals simp_all

theorem State.startUnit_boot (s : State) {stage unit : Nat} (h : ¬(stage = 2 ∧ unit = 0 ∧ Boot.verdict = .failed)) :
    (s.startUnit stage unit).boot = s.boot := by
  unfold State.startUnit
  split
  · split
    next hv => exact absurd ⟨rfl, rfl, hv⟩ h
    next => rfl
  · rfl
  · rfl
  · split <;> rfl
  · dsimp only
    split <;> split <;> rfl
  · split <;> rfl
  · rfl
  · rfl

theorem startUp_unit {s : State} {stage unit : Nat} (h : s.boot = .starting stage unit) :
    exec .startUp s = .next { s.startUnit stage unit with
      boot := if stage = 2 ∧ unit = 0 ∧ Boot.verdict = .failed then .failed else s.nextUnit stage unit } := by
  change execStartUp s = _
  simp only [execStartUp, h]
  by_cases hfail : stage = 2 ∧ unit = 0 ∧ Boot.verdict = .failed
  · obtain ⟨rfl, rfl, hv⟩ := hfail
    simp only [s.startUnit_boot_failed hv, hv, and_self, if_true]
  · rw [if_neg hfail, s.startUnit_boot hfail, h]

theorem State.startUnit_two_mem (s : State) (unit : Nat) : (s.startUnit 2 unit).mem = s.mem := by
  match unit with
  | 0 =>
    unfold State.startUnit
    split
    · split <;> rfl
    all_goals simp_all
  | 1 => rfl
  | _ + 2 => rfl

theorem State.startUnit_two_threads (s : State) {k : Nat} (h : 1 ≤ k) :
    (s.startUnit 2 (k + 1)).threads = s.threads ++ [Thread.controlCore (fin 16 k)] := by
  obtain ⟨j, rfl⟩ := Nat.exists_eq_add_of_le' h
  rfl

theorem State.startUnit_three (s : State) (unit : Nat) : s.startUnit 3 unit =
    if unit < 24 then s else { s with mem := s.mem.wipe fun o => spaceOf o == .hbm && stackOf o == unit - 24 } := rfl

theorem State.startUnit_three_threads (s : State) (unit : Nat) : (s.startUnit 3 unit).threads = s.threads := by
  rw [State.startUnit_three]
  split <;> rfl

theorem State.startUnit_three_byte (s : State) (unit o : Nat) : (s.startUnit 3 unit).mem.byte o =
    if 24 ≤ unit ∧ spaceOf o = .hbm ∧ stackOf o = unit - 24 then 0 else s.mem.byte o := by
  rw [State.startUnit_three]
  by_cases h : unit < 24
  · rw [if_pos h, if_neg (by omega)]
  · rw [if_neg h]
    refine (s.mem.byte_wipe _ o).trans (if_congr ?_ rfl rfl)
    simp [Nat.le_of_not_lt h]

theorem State.startUnit_four_eq (s : State) (unit : Nat) : s.startUnit 4 unit =
    (let u := if h : unit < 8 then { s with fields := s.fields.set unit Field.reset } else s
     if unit = 7 then { u with rtu := { u.rtu with force := Config.darkSiteTables } } else u) := rfl

theorem State.startUnit_four (s : State) (unit : Nat) :
    (s.startUnit 4 unit).mem = s.mem ∧ (∀ h : unit < 8, (s.startUnit 4 unit).fields[unit] = Field.reset) ∧
      (unit = 7 → (s.startUnit 4 unit).rtu.force = Config.darkSiteTables) := by
  rw [State.startUnit_four_eq]
  refine ⟨?_, fun h => ?_, fun h => ?_⟩
  · split <;> split <;> rfl
  · rw [dif_pos h]
    split <;> exact Vector.getElem_set_self _
  · subst h
    rfl

theorem State.startUnit_five (s : State) {unit : Nat} {n : Fin 1024} (h : s.wakeOrder[unit]? = some n) : s.startUnit 5 unit = s.wakeSite n := by
  unfold State.startUnit
  split
  case h_6 => rw [h]
  all_goals simp_all

theorem State.wakeSite_effect (s : State) (n : Fin 1024) (u : Boot) : let t := { s.wakeSite n with boot := u }
    (t.site n).on = true ∧ (∀ l ∈ t.cache, l.core ≠ .site n) ∧ ∀ o : Nat, spaceOf o = .tcm → tcmSite o = n.val → t.mem.byte o = 0 := by
  refine ⟨?_, fun l hl => ?_, fun o htcm hsite => ?_⟩
  · exact congrArg Site.on ((s.site_setSite n n _).trans (if_pos rfl))
  · have hkept := (List.mem_filter.mp hl).2
    simpa using hkept
  · refine (s.mem.byte_wipe _ o).trans (if_pos ?_)
    simp [htcm, hsite]

/-- The default group over the enabled sites has the descriptor of the default group and is enabled (R422). -/
theorem State.regroup_enabled (s : State) : bit (s.regroup.groupNow 0).desc 63 = true := by
  have hput : ∀ (t : Sparse Group) (g : Group), groupIn (if g = groupIn t 0 then t else tput true t 0 g) 0 = g := by
    intro t g
    split
    next h => exact h.symm
    next => exact (tget_tput_keep _ _ _ _ _).trans (if_pos rfl)
  unfold State.groupNow State.groupAt
  rw [if_pos rfl]
  unfold State.regroup
  dsimp only
  rw [hput]
  exact defaultGroup_desc.1

theorem startUp_effect {s : State} {stage unit : Nat} (h : s.boot = .starting stage unit) : ∃ t : State, exec .startUp s = .next t ∧
      (t.boot = if stage = 2 ∧ unit = 0 ∧ Boot.verdict = .failed then .failed
        else if unit + 1 < s.stageUnits stage then .starting stage (unit + 1) else if stage < 6 then .starting (stage + 1) 0 else .up) ∧
      t.keytab = s.keytab ∧ t.owners = s.owners ∧ t.regs = s.regs ∧
      (stage = 2 → t.mem = s.mem ∧ ∀ k : Nat, 2 ≤ unit → unit = k + 1 → t.threads = s.threads ++ [Thread.controlCore (fin 16 k)]) ∧
      (stage = 3 → t.threads = s.threads ∧ ∀ o : Nat,
        t.mem.byte o = if 24 ≤ unit ∧ spaceOf o = .hbm ∧ stackOf o = unit - 24 then 0 else s.mem.byte o) ∧
      (stage = 4 → t.mem = s.mem ∧ (∀ h : unit < 8, t.fields[unit] = Field.reset) ∧ (unit = 7 → t.rtu.force = Config.darkSiteTables)) ∧
      (stage = 5 → ∀ n : Fin 1024, s.wakeOrder[unit]? = some n → (t.site n).on = true ∧ (∀ l ∈ t.cache, l.core ≠ .site n) ∧
        ∀ o : Nat, spaceOf o = .tcm → tcmSite o = n.val → t.mem.byte o = 0) ∧
      (stage = 6 → t.mem = s.mem ∧ t.threads = s.threads ∧ bit (t.groupNow 0).desc 63 = true) := by
  obtain ⟨hkeys, howners, hregs⟩ := s.startUnit_kept stage unit
  refine ⟨_, startUp_unit h, rfl, hkeys, howners, hregs, ?_, ?_, ?_, ?_, ?_⟩
  · rintro rfl
    refine ⟨s.startUnit_two_mem unit, fun k hk hunit => ?_⟩
    subst hunit
    exact s.startUnit_two_threads (by omega)
  · rintro rfl
    exact ⟨s.startUnit_three_threads unit, s.startUnit_three_byte unit⟩
  · rintro rfl
    exact s.startUnit_four unit
  · rintro rfl n hn
    rw [s.startUnit_five hn]
    exact s.wakeSite_effect n _
  · rintro rfl
    exact ⟨rfl, rfl, s.regroup_enabled⟩

end Sys2Proof.Machine
end

section
/-!
SUPPORT. The management port: frames, owner change, enrolment and attestation.
-/
namespace Sys2Proof.Machine

/-! ### The management port (R446 to R449) -/

theorem mgmtFrameReceive_failed {s : State} (h : s.boot = .failed) (frame : List Byte) :
    exec (.mgmtFrameReceive frame) s = .next { s with mgmt := { s.mgmt with outbox := s.mgmt.outbox ++ [.bootFailure] } } := by
  have hanswer : execMgmtFrameReceive frame s = .next (s.answer .bootFailure) := by
    simp only [execMgmtFrameReceive, h]
  exact hanswer

theorem mgmtFrameReceive_nonce {s : State} (h : s.boot = .up) {frame : List Byte} (hup : s.mgmt.up = true) (hlen : frame.length ≤ 9216) :
    ∃ (t : State) (n : BitVec 256), exec (.mgmtFrameReceive frame) s = .next t ∧
        t.mem = s.mem ∧ t.th = s.th ∧ t.mgmt.up = true ∧ t.mgmt.inbox = s.mgmt.inbox ++ [frame] ∧
        t.mgmt.nonces = s.mgmt.nonces ++ [n] ∧ t.mgmt.outbox = s.mgmt.outbox ++ [.nonce n] := by
  let u : State := s.freshNonce.1
  refine ⟨{ u with mgmt := { u.mgmt with inbox := u.mgmt.inbox ++ [frame], nonces := u.mgmt.nonces ++ [s.freshNonce.2] } }.answer
    (.nonce s.freshNonce.2), s.freshNonce.2, ?_, rfl, rfl, hup, rfl, rfl, rfl⟩
  change execMgmtFrameReceive frame s = _
  simp only [execMgmtFrameReceive, h]
  exact if_pos ⟨hup, hlen⟩

theorem mgmtFrameReceive_long {s : State} (h : s.boot = .up) {frame : List Byte} (hlen : 9216 < frame.length) :
    exec (.mgmtFrameReceive frame) s = .next s := by
  change execMgmtFrameReceive frame s = _
  simp only [execMgmtFrameReceive, h]
  exact if_neg fun hc => absurd hc.2 (by omega)

/-- Where no register holds more than its reset value, a register reads what is written. -/
theorem State.reg_setReg_of_empty {s : State} (h : s.regs = []) (o : Nat) (v : Word) : (s.setReg o v).reg o = v := by
  unfold State.reg State.setReg
  rw [h]
  by_cases hv : v = regReset o
  · simp [tput, tget, hv]
  · simp [tput, tget, hv]

theorem State.ownerReset_effect (s : State) : (s.ownerReset).owners = s.owners + 1 ∧ (s.ownerReset).mem = State.reset.mem ∧
    (s.ownerReset).insts = [] ∧ (s.ownerReset).keytab[0] = s.keytab[0] ∧ (∀ k : Fin 16, k ≠ 0 → (s.ownerReset).keytab[k] = none) ∧
    bits ((s.ownerReset).reg routecfgAt) 0 11 = s.modId ∧ (s.ownerReset).mgmt = s.mgmt := by
  refine ⟨rfl, rfl, rfl, Vector.getElem_set_self _, fun k hk => ?_, ?_, rfl⟩
  · have hpos : (0 : Nat) ≠ k.val := fun h => hk (Fin.ext h.symm)
    change ((Vector.replicate 16 none).set 0 s.keytab[0])[k.val] = none
    rw [Vector.getElem_set_ne _ _ hpos, Vector.getElem_replicate]
  · unfold State.ownerReset
    dsimp only
    rw [State.reg_setReg_of_empty rfl, bits_field_same _ (by omega)]
    exact Nat.mod_eq_of_lt (bits_lt _ _ _)

theorem ownerReset_answers {s : State} (h : s.boot = .up) (q : OwnerRequest) : ∃ t : State, exec (.ownerReset q) s = .next t ∧
        (s.mayReset q = true → t.owners = s.owners + 1 ∧ t.mem = State.reset.mem ∧ t.insts = [] ∧ t.keytab[0] = s.keytab[0] ∧
          (∀ k : Fin 16, k ≠ 0 → t.keytab[k] = none) ∧ bits (t.reg routecfgAt) 0 11 = bits (s.reg routecfgAt) 0 11 ∧
          t.mgmt.outbox = s.mgmt.outbox ++ [.ownerDone (s.owners + 1)] ∧ q.nonce ∉ t.mgmt.nonces) ∧
        (s.mayReset q = false → t.owners = s.owners ∧ t.mem = s.mem ∧ t.keytab = s.keytab ∧ t.mgmt.outbox = s.mgmt.outbox ++ [.authFailure]) := by
  have hexec : exec (.ownerReset q) s = execOwnerReset q s := rfl
  rw [hexec]
  simp only [execOwnerReset, h]
  by_cases hmay : s.mayReset q = true
  · rw [if_pos hmay]
    refine ⟨_, rfl, fun _ => ?_, fun hno => absurd hmay (by simp [hno])⟩
    let u : State := { s.takeFrame with
      mgmt := { s.takeFrame.mgmt with nonces := s.takeFrame.mgmt.nonces.filter fun n => n != q.nonce } }
    obtain ⟨howners, hmem, hinsts, hkey, hkeys, hmod, hmgmt⟩ := u.ownerReset_effect
    refine ⟨howners, hmem, hinsts, hkey, hkeys, hmod, ?_, ?_⟩
    · change u.ownerReset.mgmt.outbox ++ [Answer.ownerDone u.ownerReset.owners] = _
      rw [hmgmt, howners]
      rfl
    · change q.nonce ∉ u.ownerReset.mgmt.nonces
      rw [hmgmt]
      simp [u]
  · rw [if_neg hmay]
    exact ⟨_, rfl, fun hyes => absurd hyes hmay, fun _ => ⟨rfl, rfl, rfl, rfl⟩⟩

/-- The key table after the writes of an enrolment. -/
def enrolled (keys : List (Fin 16 × BitVec 256)) (t : Vector (Option (BitVec 256)) 16) : Vector (Option (BitVec 256)) 16 :=
  keys.foldl (fun t k => t.set k.1 (some k.2)) t

theorem enrolled_other {keys : List (Fin 16 × BitVec 256)} {k : Fin 16} (h : ∀ e ∈ keys, e.1 ≠ k) (t : Vector (Option (BitVec 256)) 16) :
    (enrolled keys t)[k] = t[k] := by
  induction keys generalizing t with
  | nil => rfl
  | cons e l ih =>
    obtain ⟨he, hl⟩ := List.forall_mem_cons.mp h
    have hval : e.1.val ≠ k.val := fun hv => he (Fin.ext hv)
    exact (ih hl _).trans (Vector.getElem_set_ne _ _ hval)

theorem enrolled_last {keys l r : List (Fin 16 × BitVec 256)} {e : Fin 16 × BitVec 256} (hsplit : keys = l ++ e :: r)
    (hr : ∀ x ∈ r, x.1 ≠ e.1) (t : Vector (Option (BitVec 256)) 16) : (enrolled keys t)[e.1] = some e.2 := by
  subst hsplit
  rw [enrolled, List.foldl_append]
  exact (enrolled_other hr _).trans (Vector.getElem_set_self _)

theorem keytabEnrol_answers {s : State} (h : s.boot = .up) (q : OwnerRequest) : ∃ t : State, exec (.keytabEnrol q) s = .next t ∧
        t.mem = s.mem ∧ t.owners = s.owners ∧
        if (∀ e ∈ q.keys, e.1 ≠ 0) ∧ (s.noOwner = true ∨ signedBy (s.keytab.toList.drop 1) (enrolMessage q) q = true) then
          t.mgmt.outbox = s.mgmt.outbox ++ [.enrolled (q.keys.map fun e => e.1)] ∧
            (∀ k : Fin 16, (∀ e ∈ q.keys, e.1 ≠ k) → t.keytab[k] = s.keytab[k]) ∧
            ∀ l e r, q.keys = l ++ e :: r → (∀ x ∈ r, x.1 ≠ e.1) → t.keytab[e.1] = some e.2
        else t.keytab = s.keytab ∧ t.mgmt.outbox = s.mgmt.outbox ++ [.authFailure] := by
  have hexec : exec (.keytabEnrol q) s = execKeytabEnrol q s := rfl
  have hall : (q.keys.all fun k => k.1 != 0) = true ↔ ∀ e ∈ q.keys, e.1 ≠ 0 := by
    simp
  rw [hexec]
  simp only [execKeytabEnrol, h, hall]
  by_cases hok : (∀ e ∈ q.keys, e.1 ≠ 0) ∧ (s.noOwner = true ∨ signedBy (s.keytab.toList.drop 1) (enrolMessage q) q = true)
  · rw [if_pos hok]
    refine ⟨_, rfl, rfl, rfl, ?_⟩
    rw [if_pos hok]
    exact ⟨rfl, fun k hk => enrolled_other hk _, fun l e r hsplit hr => enrolled_last hsplit hr _⟩
  · rw [if_neg hok]
    refine ⟨_, rfl, rfl, rfl, ?_⟩
    rw [if_neg hok]
    exact ⟨rfl, rfl⟩

theorem attestationRequest_report {s : State} (h : s.boot = .up) (nonce : BitVec 256) : exec (.attestationRequest nonce) s = .next
    (s.takeFrame.answer (.attested (s.report_ nonce) (Config.identitySign (s.report_ nonce).bytes))) := by
  change execAttestationRequest nonce s = _
  simp only [execAttestationRequest, h]

end Sys2Proof.Machine
end

section
/-!
SUPPORT. Writes of device registers that act.
-/
namespace Sys2Proof.Machine

/-! ### Writes of device registers (R152, R153, R188, R206, R213, R226, R232 to R235, R419, R433, R434, R450) -/

theorem State.reg_setReg_self {s : State} {o : Nat} {v : Word} (h : v ≠ regReset o) : (s.setReg o v).reg o = v :=
  (s.reg_setReg_of_ne o v h o).trans (if_pos rfl)

theorem regReset_tlbstat (c : Fin 16) : regReset (tlbstatAt c) = 0 := by
  unfold regReset tlbstatAt cxrootAt
  rw [if_neg (by omega), if_neg (by omega), if_neg (by omega)]

theorem tlbinvWrite_busy {s : State} {c : Fin 16} (h : bit (s.reg (tlbstatAt c)) 0 = true) (v : Word) :
    exec (.tlbinvWrite c v) s = .next s := if_pos h

theorem tlbinvWrite_starts {s : State} {c : Fin 16} (h : bit (s.reg (tlbstatAt c)) 0 = false) (v : Word) :
    ∃ t : State, exec (.tlbinvWrite c v) s = .next t ∧ t.mem = s.mem ∧ bit (t.reg (tlbstatAt c)) 0 = true ∧
        t.tlb = s.tlb.map fun (e : TlbEntry) => if e.ctx = c ∧ invalidates v e = true then { e with stale := true } else e := by
  refine ⟨s.writeTlbinv c v, if_neg (by simp [h]), rfl, ?_, rfl⟩
  have hbusy : bit (setBits (s.reg (tlbstatAt c)) 0 1 1) 0 = true := bit_setBits_same _ _ (by omega)
  have hne : setBits (s.reg (tlbstatAt c)) 0 1 1 ≠ regReset (tlbstatAt c) := fun he => by
    rw [he, regReset_tlbstat] at hbusy
    exact absurd hbusy (by decide)
  exact (congrArg (bit · 0) (State.reg_setReg_self hne)).trans hbusy

theorem rgnctlCountWrite_word (s : State) (c : Fin 16) (v : Word) : ∃ w : Word,
    exec (.rgnctlCountWrite c v) s = .next (s.setReg (rgnctlAt c) w) ∧ bit w 63 = true ∧ bits w 0 13 = min 4096 (bits v 0 13) := by
  refine ⟨_, rfl, ?_, ?_⟩
  · rw [bit_setBits_other _ _ (by omega), bit_setBits_same _ _ (by omega)]
    rfl
  · rw [bits_setBits_same _ _ (by omega)]
    exact Nat.mod_eq_of_lt (by omega)

theorem rlogctlPendClear_word (s : State) (c : Fin 16) (v : Word) : ∃ w : Word, bit w 63 = false ∧ bits w 45 16 = 0 ∧
    bits w 0 13 = bits v 0 13 ∧ exec (.rlogctlPendClear c v) s =
      .next (if (s.ctx c).halted = true then (s.setReg (rlogctlAt c) w).restart c else s.setReg (rlogctlAt c) w) := by
  have hpend : bit (setBits v 63 1 1) 63 = true := bit_setBits_same _ _ (by omega)
  refine ⟨setBits (setBits (setBits (s.reg (rlogctlAt c)) 0 13 (bits (setBits v 63 1 1) 0 13)) 63 1 0) 45 16 0, ?_, ?_, ?_, ?_⟩
  · rw [bit_setBits_other _ _ (by omega), bit_setBits_same _ _ (by omega)]
    rfl
  · rw [bits_setBits_same _ _ (by omega)]
    rfl
  · rw [bits_setBits_other _ _ (by omega), bits_setBits_other _ _ (by omega), bits_setBits_same _ _ (by omega),
      bits_setBits_other _ _ (by omega)]
    exact Nat.mod_eq_of_lt (bits_lt _ _ _)
  · exact congrArg Host.Outcome.next (if_pos hpend)

theorem fqctlRdWrite_word (s : State) (c : Fin 16) (q : Fin 3) (v : Word) : ∃ w : Word, bits w 0 13 = bits v 0 13 ∧
    bits w 45 16 = (if q = 2 then 0 else bits (s.reg (fqctlAt c q)) 45 16) ∧
      exec (.fqctlRdWrite c q v) s = .next ((s.setReg (fqctlAt c q) w).writeHeld c) := by
  have hrd (x : Word) : bits (setBits x 0 13 (bits v 0 13)) 0 13 = bits v 0 13 := by
    rw [bits_setBits_same _ _ (by omega)]
    exact Nat.mod_eq_of_lt (bits_lt _ _ _)
  refine ⟨_, ?_, ?_, rfl⟩
  · split
    · rw [bits_setBits_other _ _ (by omega), hrd]
    · exact hrd _
  · split
    · rw [bits_setBits_same _ _ (by omega)]
      rfl
    · exact bits_setBits_other _ _ (by omega)

theorem State.findThread_mem {s : State} {p : Place} {x : Thread} (h : s.findThread p = some x) : x ∈ s.threads ∧ x.place = p := by
  obtain ⟨hp, hmem⟩ := List.find?_eq_some_iff_append.mp h
  exact ⟨List.mem_of_find?_eq_some h, by simpa using hp⟩

theorem State.updThread_mem {s : State} {p : Place} {x : Thread} (h : s.findThread p = some x) (f : Thread → Thread) :
    f x ∈ (s.updThread p f).threads := by
  obtain ⟨hmem, hplace⟩ := State.findThread_mem h
  have hmap : (s.updThread p f).threads = s.threads.map fun t => if t.place = p then f t else t := rfl
  rw [hmap]
  exact List.mem_map.mpr ⟨x, hmem, if_pos hplace⟩

theorem cxrsmResume_ready {s : State} {c : Fin 16} {v : Word} {x : Thread}
    (hx : s.findThread (.saved c (BitVec.ofNat 24 (bits v 0 24))) = some x) (hready : x.ready = none) :
    ∃ t : State, exec (.cxrsmResume c v) s = .next t ∧ t.mem = s.mem ∧ ∃ y ∈ t.threads, y.place = x.place ∧ y.pc = x.pc ∧
          y.g = x.g ∧ y.ready = some (fin 64 (bits v 24 6)) := by
  have hact : bit (setBits v 63 1 0) 63 = false := bit_setBits_same _ _ (by omega)
  have htid : bits (setBits v 63 1 0) 0 24 = bits v 0 24 := bits_setBits_other _ _ (by omega)
  have hqueue : bits (setBits v 63 1 0) 24 6 = bits v 24 6 := bits_setBits_other _ _ (by omega)
  let land (t : Thread) : Thread := { t with ready := some (fin 64 (bits v 24 6)), landed := s.tick.2 }
  have hexec : exec (.cxrsmResume c v) s = .next (s.tick.1.updThread (.saved c (BitVec.ofNat 24 (bits v 0 24))) land) := by
    change Host.Outcome.next (s.writeCxrsm c (setBits v 63 1 0)) = _
    simp only [State.writeCxrsm, hact, htid, hqueue, hx, hready]
    rfl
  exact ⟨_, hexec, rfl, _, State.updThread_mem (s := s.tick.1) hx land, rfl, rfl, rfl, rfl⟩

theorem cxrsmDiscard_ends {s : State} {c : Fin 16} {v : Word} {x : Thread}
    (hx : s.findThread (.saved c (BitVec.ofNat 24 (bits v 0 24))) = some x) :
    exec (.cxrsmDiscard c v) s = .next (s.endThread x.place false true) := by
  have hact : bit (setBits v 63 1 1) 63 = true := bit_setBits_same _ _ (by omega)
  have htid : bits (setBits v 63 1 1) 0 24 = bits v 0 24 := bits_setBits_other _ _ (by omega)
  change Host.Outcome.next (s.writeCxrsm c (setBits v 63 1 1)) = _
  simp only [State.writeCxrsm, hact, htid, hx, (State.findThread_mem hx).2]
  rfl

theorem cxpreWrite_preempts {s : State} {c : Fin 16} {v : Word} {x : Thread}
    (hx : s.findTid c (BitVec.ofNat 24 (bits v 0 24)) = some x) (hbarrel : x.onBarrel = true) :
    exec (.cxpreWrite c v) s = .next (s.preempt x.place) := by
  change Host.Outcome.next (s.writeCxpre c v) = _
  simp only [State.writeCxpre, hx, hbarrel]
  rfl

theorem bmaskWrite_mask (s : State) (c : Fin 16) (v : Word) (b : Fin 4) (w : Fin 16) : ∃ t : State,
    exec (.bmaskWrite c b w v) s = .next t ∧ t.mem = s.mem ∧ t.bar c b = (s.bar c b).writeMask w (s.maskBits w v) ∧
      bits (t.bar c b).maskN (64 * w) 64 = (s.maskBits w v).toNat := by
  have hbar : (s.writeBmask c b w v).bar c b = (s.bar c b).writeMask w (s.maskBits w v) := by
    simp [State.writeBmask, State.setBar, State.bar, State.updCtx, State.setCtx, State.ctx]
  refine ⟨_, rfl, rfl, hbar, ?_⟩
  rw [hbar]
  refine (bits_setBits_same _ _ (by omega)).trans ?_
  exact Nat.mod_eq_of_lt (s.maskBits w v).isLt

theorem gctlCommit_starts {s : State} {v : Word} (hv : bit v 63 = true) (hidle : s.groups.busy = false) (hgood : s.commitFault = none) :
    exec (.gctlCommit v) s =
      .next { s with groups := { s.groups with err := false, egrp := 0, erank := 0, busy := true, coming := s.groups.staged } } := by
  change Host.Outcome.next (s.commitGroups v) = _
  simp only [State.commitGroups, hv, hidle, hgood]
  rfl

theorem gctlCommit_refused {s : State} {v : Word} (hv : bit v 63 = true) (hidle : s.groups.busy = false) {g r : Nat}
    (hbad : s.commitFault = some (g, r)) :
    exec (.gctlCommit v) s = .next { s with groups := { s.groups with err := true, egrp := g, erank := r } } := by
  change Host.Outcome.next (s.commitGroups v) = _
  simp only [State.commitGroups, hv, hidle, hbad]
  rfl

theorem routecfgWrite_word (s : State) (v : Word) : ∃ w : Word, exec (.routecfgWrite v) s = .next (s.setReg routecfgAt w) ∧
    (1151 < bits v 0 11 → w = 0) ∧ (bits v 0 11 ≤ 1151 → bits w 0 11 = bits v 0 11 ∧ bit w 63 = bit v 63) := by
  refine ⟨routecfgStored v, rfl, fun h => if_pos h, fun h => ?_⟩
  rw [routecfgStored, if_neg (by omega)]
  constructor
  · rw [bits_or, bits_field_other _ (by omega), bits_field_same _ (by omega), Nat.zero_or]
    exact Nat.mod_eq_of_lt (bits_lt _ _ _)
  · rw [bit_or, bit_field_other (lo := 0) _ (by omega), Bool.or_false, bit_eq_bits]
    exact bit_flag_same _ (by omega)

theorem rtmapWrite_word (s : State) (v : Word) (m : Fin 1152) : ∃ w : Word,
    exec (.rtmapWrite m v) s = .next ((s.settleRoute m).setReg (rtmapAt m) w) ∧ bits w 0 48 = bits v 0 48 ∧
      bit w 63 = (bit v 63 && bit ((s.settleRoute m).reg (rtmapAt m)) 63) := by
  refine ⟨_, rfl, ?_, ?_⟩
  · rw [rtmapStored, bits_or, bits_field_other _ (by omega), bits_field_same _ (by omega), Nat.zero_or]
    exact Nat.mod_eq_of_lt (bits_lt _ _ _)
  · rw [rtmapStored, bit_or, bit_field_other (lo := 0) _ (by omega), Bool.or_false]
    cases bit v 63
    · exact bit_flag_same false (by omega)
    · rw [if_pos rfl, bit_eq_bits]
      exact bit_flag_same _ (by omega)

theorem rtuctlStage_begins {s : State} (hstaging : s.rtu.st ≠ .staging) (hcommit : s.rtu.st ≠ .committing) (v : Word) :
    exec (.rtuctlStage v) s = .next { s with rtu := { s.rtu with st := .staging, img := bits v 6 46 * 64, cause := 0, site := 0 } } := by
  change Host.Outcome.next (s.stageRtu v) = _
  unfold State.stageRtu
  split
  next h => exact absurd h hstaging
  next h => exact absurd h hcommit
  next => rfl

theorem registerWrite_devWrite {s : State} {off : Nat} {r : DevReg} (hspace : spaceOf off = .device) (halign : off % 8 = 0)
    (hreg : devReg off = some r) (hpresent : s.regPresent r = true) (hbusy : s.devBusy r = false) (v : Word) :
    exec (.registerWrite off v) s = .next (s.devWrite r v) := by
  change execRegisterWrite off v s = _
  rw [execRegisterWrite, if_pos ⟨hspace, halign⟩]
  simp only [hreg, hpresent, hbusy]
  rfl

/-- A register of plain fields, but for a fault queue's base, takes what is stored of the write and does nothing else. -/
theorem State.devWrite_plain {s : State} {r : DevReg} {v w : Word} {o : Nat} (hplain : plainStored v r = some (o, w))
    (hbase : ∀ k q, r ≠ .fqbase k q) : s.devWrite r v = s.setReg o w := by
  simp only [State.devWrite, hplain]
  unfold State.devStored
  split
  next k q => exact absurd rfl (hbase k q)
  next => rfl

end Sys2Proof.Machine
end

section
/-!
SUPPORT. The ends of invalidations, table reads and commits, and the updates of routing tables.
-/
namespace Sys2Proof.Machine

/-! ### The ends of what the writes began (R153, R188, R189, R420, R450) -/

theorem tlbInvalidationDone_drops {s : State} (c : Fin 16) (h : s.sbuf = []) : ∃ u : State, u.mem = s.mem ∧ u.regs = s.regs ∧
    (∀ e : TlbEntry, e ∈ u.tlb ↔ e ∈ s.tlb ∧ ¬(e.ctx = c ∧ e.stale = true)) ∧ exec (.tlbInvalidationDone c) s =
      .next (if u.holdsOld c = true ∨ u.fillsOld c = true then u else u.setReg (tlbstatAt c) (setBits (s.reg (tlbstatAt c)) 0 1 0)) := by
  have hdrain : (s.dropTlb fun e => e.ctx = c && e.stale).drain (fun e => e.ctx = c) = s.dropTlb fun e => e.ctx = c && e.stale :=
    drain_of_none (by
      have hnil : (s.dropTlb fun e => e.ctx = c && e.stale).sbuf = [] := h
      rw [hnil, List.any_nil])
  refine ⟨s.dropTlb fun e => e.ctx = c && e.stale, rfl, rfl, fun e => ?_, ?_⟩
  · refine List.mem_filter.trans (and_congr_right fun _ => ?_)
    simp [imp_iff_not_or]
  · change execTlbInvalidationDone c s = _
    simp only [execTlbInvalidationDone, hdrain]
    split <;> rfl

theorem regionTableReadDone_effect {s : State} {c : Fin 16} (h : bit (s.reg (rgnctlAt c)) 63 = true) : ∃ (t : State) (w : Word),
    exec (.regionTableReadDone c) s = .next t ∧
      (t.ctx c).regions = ((s.regionEntries c).filter fun (e : Nat × Word) => bit e.2 63 && !regionBad e.2).map
        (fun (e : Nat × Word) => (e.1, bits e.2 12 29 * 4096, bits e.2 0 6)) ∧
      t.regs = (s.setReg (rgnctlAt c) w).regs ∧ bit w 63 = false ∧
      (bit w 62 = true ↔ ∃ e ∈ s.regionEntries c, regionBad e.2 = true) ∧ t.mem = s.mem ∧ t.th = s.th := by
  let bad : Option Nat := ((s.regionEntries c).find? fun e => regionBad e.2).map (·.1)
  let u : State := s.updCtx c fun x => { x with regions := s.regionsRead c, early := [] }
  let w : Word := setBits (setBits (setBits (s.reg (rgnctlAt c)) 63 1 0) 62 1 bad.isSome.toNat) 16 12 (bad.getD 0)
  refine ⟨u.setReg (rgnctlAt c) w, w, if_pos h, ?_, rfl, ?_, ?_, rfl, rfl⟩
  · exact congrArg Ctx.regions ((s.ctx_setCtx c c _).trans (if_pos rfl))
  · rw [bit_setBits_other _ _ (by omega), bit_setBits_other _ _ (by omega), bit_setBits_same _ _ (by omega)]
    rfl
  · rw [bit_setBits_other _ _ (by omega), bit_setBits_same _ _ (by omega), testBit_zero_toNat, Option.isSome_map, List.find?_isSome]

theorem groupCommitDone_effect {s : State} (hbusy : s.groups.busy = true) (hbound : s.boundOlder = false) : exec .groupCommitDone s =
    .next { s with groups := { s.groups with
      before := s.groups.force, force := s.groups.coming, coming := [], busy := false, ver := s.groups.ver + 1 } } :=
  if_pos ⟨hbusy, by simp [hbound]⟩

/-! ### Routing-table updates (R450) -/

/-- What an image must satisfy before its records are looked at (R450). -/
def rtuSigned (entry : Option (BitVec 256)) (g : Config.RtuImage) : Prop :=
  entry = some (keyDigest g.key) ∧ Config.slhDsaVerify g.key (bytesOf g.digest 32) g.sig = true

/-- Whether the digest covers the records of an image. -/
def rtuWhole (g : Config.RtuImage) : Prop := Config.shake256 (g.records.flatMap fun r => r.body ++ bytesOf r.crc 4) = g.digest

theorem rtuFault_unsigned {entry : Option (BitVec 256)} {g : Config.RtuImage} (h : ¬rtuSigned entry g) : rtuFault entry g = some (3, 0) := by
  refine if_pos ?_
  by_contra hno
  obtain ⟨hkey, hver⟩ := not_or.mp hno
  exact h ⟨not_not.mp hkey, by simpa using hver⟩

theorem rtuFault_signed {entry : Option (BitVec 256)} {g : Config.RtuImage} (h : rtuSigned entry g) : rtuFault entry g =
    g.records.findSome? fun r => if crc32c r.body ≠ r.crc then some (1, r.site)
      else if decide (Config.shake256 (g.records.flatMap fun r => r.body ++ bytesOf r.crc 4) = g.digest) then none else some (2, r.site) := by
  obtain ⟨hkey, hver⟩ := h
  exact if_neg (by simp [hkey, hver])

theorem rtuFault_good {entry : Option (BitVec 256)} {g : Config.RtuImage} (h : rtuSigned entry g) (hwhole : rtuWhole g)
    (hcrc : ∀ r ∈ g.records, crc32c r.body = r.crc) : rtuFault entry g = none := by
  rw [rtuFault_signed h, List.findSome?_eq_none_iff]
  intro r hr
  have hdigest : Config.shake256 (g.records.flatMap fun r => r.body ++ bytesOf r.crc 4) = g.digest := hwhole
  rw [if_neg (not_not.mpr (hcrc r hr)), if_pos (decide_eq_true hdigest)]

theorem rtuFault_partial {entry : Option (BitVec 256)} {g : Config.RtuImage} (h : rtuSigned entry g) (hwhole : ¬rtuWhole g)
    {r : Config.RtuRecord} {l : List Config.RtuRecord} (hl : g.records = r :: l) :
    rtuFault entry g = some (if crc32c r.body = r.crc then 2 else 1, r.site) := by
  have hdec : decide (Config.shake256 (g.records.flatMap fun r => r.body ++ bytesOf r.crc 4) = g.digest) = false := decide_eq_false hwhole
  rw [rtuFault_signed h, hdec, hl, List.findSome?_cons]
  by_cases hcrc : crc32c r.body = r.crc <;> simp [hcrc]

theorem rtuFault_crc {entry : Option (BitVec 256)} {g : Config.RtuImage} (h : rtuSigned entry g) (hwhole : rtuWhole g)
    {r : Config.RtuRecord} {l m : List Config.RtuRecord} (hl : g.records = l ++ r :: m) (hbefore : ∀ x ∈ l, crc32c x.body = x.crc)
    (hcrc : crc32c r.body ≠ r.crc) : rtuFault entry g = some (1, r.site) := by
  have hdec : decide (Config.shake256 (g.records.flatMap fun r => r.body ++ bytesOf r.crc 4) = g.digest) = true := decide_eq_true hwhole
  rw [rtuFault_signed h, hdec, hl, List.findSome?_append, List.findSome?_eq_none_iff.mpr, List.findSome?_cons, if_pos hcrc]
  · rfl
  · intro x hx
    rw [if_neg (not_not.mpr (hbefore x hx)), if_pos rfl]

/-- The image that staging reads at IMG. -/
def State.stagedImage (s : State) : Option Config.RtuImage :=
  Config.rtuImage (s.bytesAt s.rtu.img (Config.rtuLength (s.bytesAt s.rtu.img 64)))

theorem rtuStagingDone_noImage {s : State} (h : s.rtu.st = .staging) (himage : s.stagedImage = none) :
    exec .rtuStagingDone s = .next { s with rtu := { s.rtu with st := .rejected, cause := 4, site := 0 } } := by
  change execRtuStagingDone s = _
  rw [State.stagedImage] at himage
  rw [execRtuStagingDone]
  split
  next => rw [himage]
  next hno => exact absurd h hno

theorem rtuStagingDone_rejected {s : State} (h : s.rtu.st = .staging) {g : Config.RtuImage} (himage : s.stagedImage = some g)
    {cause : BitVec 4} {site : BitVec 10} (hfault : rtuFault s.keytab[0] g = some (cause, site)) :
    exec .rtuStagingDone s = .next { s with rtu := { s.rtu with st := .rejected, cause := cause, site := site } } := by
  change execRtuStagingDone s = _
  rw [State.stagedImage] at himage
  rw [execRtuStagingDone]
  split
  next => simp only [himage, hfault]
  next hno => exact absurd h hno

theorem rtuStagingDone_staged {s : State} (h : s.rtu.st = .staging) {g : Config.RtuImage} (himage : s.stagedImage = some g)
    (hfault : rtuFault s.keytab[0] g = none) :
    exec .rtuStagingDone s = .next { s with rtu := { s.rtu with st := .staged, staged := g.records.map fun r => (r.site, r.body) } } := by
  change execRtuStagingDone s = _
  rw [State.stagedImage] at himage
  rw [execRtuStagingDone]
  split
  next => simp only [himage, hfault]
  next hno => exact absurd h hno

theorem rtuStagingDone_effect {s : State} (h : s.rtu.st = .staging) : ∃ t : State, exec .rtuStagingDone s = .next t ∧ t.mem = s.mem ∧
      t.rtu.force = s.rtu.force ∧ (s.stagedImage = none → t.rtu.st = .rejected ∧ t.rtu.cause = 4) ∧
      ∀ g : Config.RtuImage, s.stagedImage = some g →
        (¬rtuSigned s.keytab[0] g → t.rtu.st = .rejected ∧ t.rtu.cause = 3) ∧
        (rtuSigned s.keytab[0] g → rtuWhole g → (∀ r ∈ g.records, crc32c r.body = r.crc) →
          t.rtu.st = .staged ∧ t.rtu.staged = g.records.map fun r => (r.site, r.body)) ∧
        (rtuSigned s.keytab[0] g → ¬rtuWhole g → ∀ r l, g.records = r :: l → t.rtu.st = .rejected ∧ t.rtu.site = r.site ∧
          t.rtu.cause = if crc32c r.body = r.crc then 2 else 1) ∧
        ∀ l r m, rtuSigned s.keytab[0] g → rtuWhole g → g.records = l ++ r :: m → (∀ x ∈ l, crc32c x.body = x.crc) →
          crc32c r.body ≠ r.crc → t.rtu.st = .rejected ∧ t.rtu.cause = 1 ∧ t.rtu.site = r.site := by
  cases himage : s.stagedImage with
  | none => exact ⟨_, rtuStagingDone_noImage h himage, rfl, rfl, fun _ => ⟨rfl, rfl⟩, fun g hg => nomatch hg⟩
  | some g =>
    cases hfault : rtuFault s.keytab[0] g with
    | none =>
      refine ⟨_, rtuStagingDone_staged h himage hfault, rfl, rfl, fun hno => (nomatch hno), fun g' hg => ?_⟩
      obtain rfl : g = g' := Option.some.inj hg
      refine ⟨fun hs => ?_, fun _ _ _ => ⟨rfl, rfl⟩, fun hs hw r l hl => ?_, fun l r m hs hw hl hb hc => ?_⟩
      · exact nomatch (rtuFault_unsigned hs).symm.trans hfault
      · exact nomatch (rtuFault_partial hs hw hl).symm.trans hfault
      · exact nomatch (rtuFault_crc hs hw hl hb hc).symm.trans hfault
    | some fault =>
      obtain ⟨cause, site⟩ := fault
      refine ⟨_, rtuStagingDone_rejected h himage hfault, rfl, rfl, fun hno => (nomatch hno), fun g' hg => ?_⟩
      obtain rfl : g = g' := Option.some.inj hg
      refine ⟨fun hs => ?_, fun hs hw hc => ?_, fun hs hw r l hl => ?_, fun l r m hs hw hl hb hc => ?_⟩
      · obtain ⟨rfl, rfl⟩ := Prod.mk.inj (Option.some.inj ((rtuFault_unsigned hs).symm.trans hfault))
        exact ⟨rfl, rfl⟩
      · exact nomatch (rtuFault_good hs hw hc).symm.trans hfault
      · obtain ⟨rfl, rfl⟩ := Prod.mk.inj (Option.some.inj ((rtuFault_partial hs hw hl).symm.trans hfault))
        exact ⟨rfl, rfl, rfl⟩
      · obtain ⟨rfl, rfl⟩ := Prod.mk.inj (Option.some.inj ((rtuFault_crc hs hw hl hb hc).symm.trans hfault))
        exact ⟨rfl, rfl, rfl⟩

theorem State.switchRtu_waits {s : State} (h : ∃ w ∈ s.ways, w.num < s.rtu.hold) : s.switchRtu = s := if_pos (by simpa using h)

theorem State.switchRtu_switches {s : State} (h : ¬∃ w ∈ s.ways, w.num < s.rtu.hold) :
    s.switchRtu = { s with rtu := { s.rtu with st := .idle, force := s.rtu.staged } } :=
  if_neg (by simpa using h)

theorem rtuctlCommit_staged {s : State} (h : s.rtu.st = .staged) : ∃ t : State, exec .rtuctlCommit s = .next t ∧
    t = { s with rtu := t.rtu } ∧ t.rtu.hold = s.clock ∧
      if ∃ w ∈ s.ways, w.num < s.clock then t.rtu.st = .committing ∧ t.rtu.force = s.rtu.force
      else t.rtu.st = .idle ∧ t.rtu.force = s.rtu.staged := by
  have hexec : exec .rtuctlCommit s = .next { s with rtu := { s.rtu with st := .committing, hold := s.clock } }.switchRtu := by
    change execRtuctlCommit s = _
    simp only [execRtuctlCommit, State.commitRtu, h]
  by_cases hearly : ∃ w ∈ s.ways, w.num < s.clock
  · rw [State.switchRtu_waits (s := { s with rtu := { s.rtu with st := .committing, hold := s.clock } }) hearly] at hexec
    exact ⟨_, hexec, rfl, rfl, (if_pos hearly).symm ▸ ⟨rfl, rfl⟩⟩
  · rw [State.switchRtu_switches (s := { s with rtu := { s.rtu with st := .committing, hold := s.clock } }) hearly] at hexec
    exact ⟨_, hexec, rfl, rfl, (if_neg hearly).symm ▸ ⟨rfl, rfl⟩⟩

theorem rtuctlAbort_staged {s : State} (h : s.rtu.st = .staged) :
    exec .rtuctlAbort s = .next { s with rtu := { s.rtu with st := .idle } } := by
  change Host.Outcome.next s.abortRtu = _
  simp only [State.abortRtu, h]

theorem rtuctlCommit_ends {s : State} (h : s.rtu.st = .committing) (hways : ∀ w ∈ s.ways, s.rtu.hold ≤ w.num) :
    exec .rtuctlCommit s = .next { s with rtu := { s.rtu with st := .idle, force := s.rtu.staged } } := by
  have hnone : ¬∃ w ∈ s.ways, w.num < s.rtu.hold := by
    rintro ⟨w, hw, hlt⟩
    exact absurd (hways w hw) (by omega)
  have hexec : exec .rtuctlCommit s = .next s.switchRtu := by
    change execRtuctlCommit s = _
    simp only [execRtuctlCommit, h]
  rw [hexec, State.switchRtu_switches hnone]

end Sys2Proof.Machine
end

section
/-!
SUPPORT. The reset of a context and its instances.
-/
namespace Sys2Proof.Machine

/-! ### A context's reset leaves it no instances (R239) -/

theorem State.stopEngines_insts (s : State) (x : Inst) : (s.stopEngines x).insts = s.insts := rfl

theorem State.vacate_insts (s : State) (x : Inst) : (s.vacate x).insts = s.insts :=
  (foldl_insts (f := State.adoptTables) (fun _ _ => rfl) x.sites _).trans (foldl_insts (f := State.unclaim) (fun _ _ => rfl) x.slots s)

theorem State.release_insts {s : State} {i : Nat} {x : Inst} (h : s.insts[i]? = some x) : (s.release_ i).insts = s.insts.eraseIdx i := by
  have hdrop : dropAt ((s.stopEngines x).vacate x).insts i = s.insts.eraseIdx i := by
    rw [State.vacate_insts, State.stopEngines_insts]
    rfl
  simp only [State.release_, h, State.ite_insts, State.updCtx_insts, ite_self, hdrop]

/-- Releasing as many times as there are instances leaves none that satisfies the predicate. -/
theorem State.releaseAll_none (p : Inst → Bool) {n : Nat} {s : State} (hn : s.insts.length ≤ n) :
    ∀ x ∈ (s.releaseAll p n).insts, p x = false := by
  induction n generalizing s with
  | zero =>
    have hnil : s.insts = [] := List.length_eq_zero_iff.mp (by omega)
    intro x hx
    rw [State.releaseAll, hnil] at hx
    exact absurd hx List.not_mem_nil
  | succ n ih =>
    rw [State.releaseAll]
    split
    next i hi =>
      obtain ⟨hlt, -⟩ := List.findIdx?_eq_some_iff_getElem.mp hi
      refine ih ?_
      rw [State.release_insts (List.getElem?_eq_getElem hlt), List.length_eraseIdx_of_lt hlt]
      omega
    next hnone => exact List.findIdx?_eq_none_iff.mp hnone

theorem State.dropInstances_none (s : State) (c : Fin 16) : ∀ x ∈ (s.dropInstances c).insts, x.ctx ≠ c := by
  intro x hx
  have hno := State.releaseAll_none (fun x => x.ctx = c) (Nat.le_refl _) x hx
  simpa using hno

theorem State.dropLines_insts (s : State) (c : Fin 16) : (s.dropLines c).insts = s.insts := s.flushAll_insts _

theorem State.clearCtx_insts (s : State) (c : Fin 16) : (s.clearCtx c).insts = s.insts := by
  simp only [State.clearCtx, State.setRegBits, State.setReg_insts, State.setCtx_insts]

theorem State.resetOver_insts (s : State) (c : Fin 16) : (s.resetOver c).insts = s.insts := by
  rw [State.resetOver, State.ite_insts, State.updCtx_insts, ite_self]

theorem State.resetContext_none {s : State} {c : Fin 16} (h : (s.ctx c).resetting = false) :
    ∀ x ∈ (s.resetContext c).insts, x.ctx ≠ c := by
  have hmark : ¬(s.ctx c).resetting = true := by simp [h]
  rw [State.resetContext, if_neg hmark]
  dsimp only
  generalize List.foldl _ _ _ = u
  rw [State.resetOver_insts, State.clearCtx_insts]
  change ∀ x ∈ ((((u.dropInstances c).dropEngines c).dropHyps c).dropLines c).insts, _
  rw [State.dropLines_insts]
  exact u.dropInstances_none c

end Sys2Proof.Machine
end

section
/-!
SUPPORT. Loads of device registers and the values that they read.
-/
namespace Sys2Proof.Machine

/-! ### Loads of device registers (R149, R155, R453) -/

theorem State.loadReg_effect {s : State} (r : DevReg) (addr : Word) {pa : Nat} (d : Reg)
    (hbuf : ∀ x ∈ s.sbuf, x.core = s.th.core → x.overlaps pa 8 = false) (hwatch : s.anyWatch = false) :
    let t := s.loadReg r addr pa (.signed d)
    t.th.g = (s.th.setG d (s.devRead r)).g ∧ t.th.f = s.th.f ∧ t.th.pc = s.th.pc + 4 ∧ s.th.floor.toNat ≤ t.th.floor.toNat ∧
      t.mem = s.mem ∧ t.regs = s.regs ∧ t.sbuf = s.sbuf ∧ t.rest = s.rest := by
  have hnone : ¬(s.sbuf.any fun e => decide (e.core = s.th.core) && e.overlaps pa 8) = true := by
    simpa using hbuf
  obtain ⟨f, st, hhome, hfloor⟩ : ∃ (f : Word) (st : Sparse Word),
      (if devHome s.th r = s.th.key then s else s.exchange (devHome s.th r)) = { s with th := { s.th with floor := f }, stamps := st } ∧
        s.th.floor.toNat ≤ f.toNat := by
    split
    · exact ⟨s.th.floor, s.stamps, rfl, Nat.le_refl _⟩
    · exact s.exchange_frame _
  have hquiet : State.anyWatch { s with th := { s.th with floor := f }, stamps := st } = false := hwatch
  have hvalue : (BitVec.ofNat (8 * 8) (s.devRead r).toNat).signExtend 64 = s.devRead r := by
    have hsame : BitVec.ofNat (8 * 8) (s.devRead r).toNat = s.devRead r := by
      rw [BitVec.ofNat_toNat]
      exact BitVec.setWidth_eq _
    rw [hsame]
    exact BitVec.signExtend_eq _
  have hland : s.loadReg r addr pa (.signed d) = { s with
      th := Thread.landLoad { s.th with floor := f, fwd := s.th.fwd } (.signed d) 8 (s.devRead r).toNat, stamps := st } := by
    rw [State.loadReg, if_neg hnone]
    dsimp only
    rw [hhome, State.touched_of_quiet _ _ _ _ _ _ hquiet]
    rfl
  rw [hland, Thread.landLoad_loaded]
  refine ⟨?_, ?_, rfl, hfloor, rfl, rfl, rfl, rfl⟩
  · change (s.th.setG d _).g = _
    rw [hvalue]
  · change (s.th.setG d _).f = _
    exact Thread.setG_f _ _ _

theorem ldD_device {s : State} {d b : Reg} {o : BitVec 12} {pa : Nat} {r : DevReg}
    (hcheck : s.check (s.gr b) (effective (s.gr b) o 8) (loadReq 8 .plain true) = .ok pa) (hlocal : s.isLocal pa = true)
    (hspace : spaceOf (offsetOf pa) = .device) (hreg : devReg (offsetOf pa) = some r) :
    exec (.ldD d b .plain o) s = .next (s.loadReg r (withTop (s.gr b) (effective (s.gr b) o 8)) pa (.signed d)) := by
  change loadTurn s 8 .plain true b o (.signed d) = _
  simp only [loadTurn, hcheck]
  rw [if_pos ⟨hlocal, hspace⟩, hreg]

/-! ### What a device register reads (R9, R152, R213, R239, R348, R359, R417, R418, R450) -/

theorem devRead_tlbstat (s : State) (k : Fin 16) : (s.devRead (.tlbstat k)).toNat = bits (s.reg (tlbstatAt k)) 0 1 := by
  change (field 0 1 (bits (s.reg (tlbstatAt k)) 0 1)).toNat = _
  rw [bit_eq_bits]
  cases bit (s.reg (tlbstatAt k)) 0 <;> rfl

/-- A word with a count at bit 32 over a stored field of 24 bits. -/
theorem countWord_fields (n : Nat) (w : Word) : bits (field 32 24 n ||| field 0 24 (bits w 0 24)) 0 24 = bits w 0 24 ∧
    bits (field 32 24 n ||| field 0 24 (bits w 0 24)) 32 24 = n % 2 ^ 24 := by
  constructor
  · rw [bits_or, bits_field_other _ (by omega), bits_field_same _ (by omega), Nat.zero_or]
    exact Nat.mod_eq_of_lt (bits_lt _ _ _)
  · rw [bits_or, bits_field_same _ (by omega), bits_field_other _ (by omega), Nat.or_zero]

theorem devRead_bmask (s : State) (k : Fin 16) (v : Fin 4) (n : Fin 16) :
    (s.devRead (.bmask k v n)).toNat = bits (s.bar k v).maskN (64 * n) 64 := by
  change (BitVec.ofNat 64 (bits (s.bar k v).maskN (64 * n) 64)).toNat = _
  rw [BitVec.toNat_ofNat]
  exact Nat.mod_eq_of_lt (bits_lt _ _ _)

theorem Barrier.config_fields (x : Barrier) : bits x.config 3 5 = x.cntN % 32 ∧ bit x.config 0 = x.en := by
  unfold Barrier.config
  constructor
  · rw [bits_or, bits_field_same _ (by omega), bits_flag_other _ (by omega), Nat.or_zero]
    rfl
  · rw [bit_or, bit_field_other (lo := 3) _ (by omega), bit_flag_same _ (by omega), Bool.false_or]

theorem Barrier.status_phase (x : Barrier) : bits x.status 32 32 = x.phase.toNat := by
  rw [Barrier.status, bits_or, bits_field_same _ (by omega), bits_field_other _ (by omega), Nat.or_zero]
  exact Nat.mod_eq_of_lt x.phase.isLt

theorem Ctx.sequencer_fields (x : Ctx) : bits x.sequencer 0 32 = x.nextId.toNat ∧ bit x.sequencer 40 = !x.places.isEmpty := by
  unfold Ctx.sequencer
  constructor
  · rw [bits_or, bits_or, bits_flag_other _ (by omega), bits_field_other _ (by omega), bits_field_same _ (by omega), Nat.zero_or,
      Nat.zero_or]
    exact Nat.mod_eq_of_lt x.nextId.isLt
  · rw [bit_or, bit_or, bit_flag_same _ (by omega), bit_field_other (lo := 32) _ (by omega), bit_field_other (lo := 0) _ (by omega),
      Bool.or_false, Bool.or_false]

theorem State.queueStatus_fields (s : State) (c : Fin 16) (q : Fin 64) :
    bits (s.queueStatus c q) 0 5 = (s.queued c q).length % 32 ∧ bit (s.queueStatus c q) 63 = s.blocked c q := by
  unfold State.queueStatus
  dsimp only
  constructor
  · rw [bits_or, bits_or, bits_flag_other _ (by omega), bits_field_other _ (by omega), bits_field_same _ (by omega), Nat.zero_or,
      Nat.zero_or]
    rfl
  · rw [bit_or, bit_or, bit_flag_same _ (by omega), bit_field_other (lo := 32) _ (by omega), bit_field_other (lo := 0) _ (by omega),
      Bool.or_false, Bool.or_false]

theorem State.descWord_fields (s : State) (x : Group) :
    bit (s.descWord x) 63 = x.en ∧ bits (s.descWord x) 32 16 = s.groups.ver.toNat ∧ bits (s.descWord x) 0 11 = x.nrank % 2048 := by
  unfold State.descWord
  refine ⟨?_, ?_, ?_⟩
  · rw [bit_or, bit_or, bit_or, bit_or, bit_flag_same _ (by omega), bit_field_other (lo := 32) _ (by omega),
      bit_field_other (lo := 24) _ (by omega), bit_field_other (lo := 16) _ (by omega), bit_field_other (lo := 0) _ (by omega)]
    simp only [Bool.or_false]
  · rw [bits_or, bits_or, bits_or, bits_or, bits_flag_other _ (by omega), bits_field_same _ (by omega),
      bits_field_other (lo := 24) _ (by omega), bits_field_other (lo := 16) _ (by omega), bits_field_other (lo := 0) _ (by omega)]
    simp only [Nat.zero_or, Nat.or_zero]
    exact Nat.mod_eq_of_lt s.groups.ver.isLt
  · rw [bits_or, bits_or, bits_or, bits_or, bits_flag_other _ (by omega), bits_field_other (lo := 32) _ (by omega),
      bits_field_other (lo := 24) _ (by omega), bits_field_other (lo := 16) _ (by omega), bits_field_same _ (by omega)]
    simp only [Nat.zero_or]
    rfl

theorem Group.entryWord_fields (x : Group) (r : Nat) :
    bits (x.entryWord r) 0 10 = bits (tget 0 x.ranks r) 0 10 ∧ bit (x.entryWord r) 63 = bit (tget 0 x.ranks r) 63 := by
  unfold Group.entryWord
  dsimp only
  constructor
  · rw [bits_or, bits_flag_other _ (by omega), bits_field_same _ (by omega), Nat.zero_or]
    exact Nat.mod_eq_of_lt (bits_lt _ _ _)
  · rw [bit_or, bit_flag_same _ (by omega), bit_field_other (lo := 0) _ (by omega), Bool.or_false]

theorem Rtu.status_fields (r : Rtu) :
    bits r.status 60 3 = (match r.st with | .idle => 0 | .staging => 1 | .staged => 2 | .committing => 3 | .rejected => 4) ∧
      bits r.status 56 4 = r.cause.toNat ∧ bits r.status 0 10 = r.site.toNat := by
  unfold Rtu.status
  dsimp only
  refine ⟨?_, ?_, ?_⟩
  · rw [bits_or, bits_or, bits_or, bits_flag_other _ (by omega), bits_field_same _ (by omega),
      bits_field_other (lo := 56) _ (by omega), bits_field_other (lo := 0) _ (by omega)]
    cases r.st <;> rfl
  · rw [bits_or, bits_or, bits_or, bits_flag_other _ (by omega), bits_field_other (lo := 60) _ (by omega), bits_field_same _ (by omega),
      bits_field_other (lo := 0) _ (by omega)]
    simp only [Nat.zero_or, Nat.or_zero]
    exact Nat.mod_eq_of_lt r.cause.isLt
  · rw [bits_or, bits_or, bits_or, bits_flag_other _ (by omega), bits_field_other (lo := 60) _ (by omega),
      bits_field_other (lo := 56) _ (by omega), bits_field_same _ (by omega)]
    simp only [Nat.zero_or]
    exact Nat.mod_eq_of_lt r.site.isLt

theorem devRead_fact (s : State) (f : Fin 8) : s.devRead (.fact f) = s.fields[f].fact := dif_pos f.isLt

/-- The registers whose stored word is read as it stands, with their offsets. -/
def storedRegisters (c : Fin 16) : List (DevReg × Nat) :=
  [(DevReg.cxroot c, cxrootAt c), (.cxpeer c, cxpeerAt c), (.rgnbase c, rgnbaseAt c), (.rgnctl c, rgnctlAt c),
    (.rlogbase c, rlogbaseAt c), (.rlogctl c, rlogctlAt c), (.cxtrap c, cxtrapAt c), (.cxtcmv c, cxtcmvAt c), (.retstat, retstatAt),
    (.spbase c, spbaseAt c), (.fsbase c, fsbaseAt c), (.shmap c, shmapAt c), (.hangint c, hangintAt c), (.sqint c, sqintAt c),
    (.ldstat c, ldstatAt c), (.routecfg, routecfgAt), (.cxmode c, cxmodeAt c), (.rrcfg, rrcfgAt), (.rrstat, rrstatAt),
    (.rplctl c, rplctlAt c)]

theorem devRead_stored (s : State) (c : Fin 16) : ∀ e ∈ storedRegisters c, s.devRead e.1 = s.reg e.2 := by
  simp only [storedRegisters, List.forall_mem_cons, List.not_mem_nil, false_imp_iff, implies_true, and_true]
  exact ⟨rfl, rfl, rfl, rfl, rfl, rfl, rfl, rfl, rfl, rfl, rfl, rfl, rfl, rfl, rfl, rfl, rfl, rfl, rfl, rfl⟩

end Sys2Proof.Machine
end

section
/-!
SUPPORT. The obligation on the events of the system, from one lemma for each event.
-/
namespace Sys2Proof.Machine

/-! ### The obligation on the system's events -/

/-- Settles O58: one lemma for each event, and for a load of a device register the frame of `loadReg` with what each register reads. -/
theorem eventsOfTheSystem : Obligations.EventsOfTheSystem := by
  intro s c
  refine ⟨fun r hr hbegun hforced hempty hinsts =>
      ⟨_, retirementRun_ends hr hbegun hforced hempty hinsts, rfl, rfl, s.endRetirement_status r.site⟩,
    resyncPulse_steps s, streamerRequestFail_silent s, s.routePort_spec,
    fun p hp => ⟨fun pa addr a hw => threadRequestFail_awaited hp hw, fun e k hw he => threadRequestFail_posted hp hw he⟩,
    routeLinkChange_word s, fun n h => corePowerOff_frame h,
    fun n k hw => ⟨coreWake_oldest hw, fun m j hf hj hlt => coreWake_behind hw hf hj hlt⟩,
    activityBalance_effect s, startUp_powerOn, fun stage unit => startUp_effect, fun rs => rfl, mgmtFrameReceive_failed,
    fun hup => ⟨fun frame => mgmtFrameReceive_nonce hup, fun frame => mgmtFrameReceive_long hup, ownerReset_answers hup,
      keytabEnrol_answers hup, attestationRequest_report hup⟩,
    fun v => ⟨fun h => tlbinvWrite_busy h v, fun h => tlbinvWrite_starts h v, rgnctlCountWrite_word s c v, rlogctlPendClear_word s c v,
      fun q => fqctlRdWrite_word s c q v, fun x hx => ⟨cxrsmResume_ready hx, cxrsmDiscard_ends hx⟩, fun x => cxpreWrite_preempts,
      bmaskWrite_mask s c v, fun hv hidle => ⟨gctlCommit_starts hv hidle, fun g r => gctlCommit_refused hv hidle⟩,
      routecfgWrite_word s v, rtmapWrite_word s v, fun hs hc => rtuctlStage_begins hs hc v, fun off r hspace halign hreg hp hb => ?_⟩,
    tlbInvalidationDone_drops c, regionTableReadDone_effect, fun h => ⟨rfl, State.resetContext_none h⟩,
    groupCommitDone_effect, rtuStagingDone_effect, fun h => ⟨rtuctlCommit_staged h, rtuctlAbort_staged h⟩, rtuctlCommit_ends,
    fun d b o pa r hcheck hlocal hspace hreg hbuf hwatch => ?_, rfl⟩
  · have hexec := registerWrite_devWrite hspace halign hreg hp hb v
    exact ⟨hexec, fun o w hplain hbase => hexec.trans (congrArg Host.Outcome.next (State.devWrite_plain hplain hbase))⟩
  · obtain ⟨hg, hf, hpc, hfloor, hmem, hregs, hsbuf, hrest⟩ :=
      State.loadReg_effect r (withTop (s.gr b) (effective (s.gr b) o 8)) d hbuf hwatch
    refine ⟨_, s.devRead r, ldD_device hcheck hlocal hspace hreg, hg, hf, hpc, hfloor, hmem, hregs, hsbuf, hrest, ?_⟩
    refine ⟨?_, ?_, ?_, ?_, ?_, ?_, ?_⟩
    · rintro k (rfl | rfl | rfl | rfl) <;> rfl
    · rintro (rfl | ⟨n, p, rfl⟩ | ⟨p, k, rfl⟩) <;> rfl
    · rintro rfl; rfl
    · rintro n rfl; rfl
    · rintro x y rfl; rfl
    · intro e he hr
      rw [hr]
      exact devRead_stored s c e he
    refine ⟨?_, ?_, ?_, ?_, ?_, ?_, ?_, ?_⟩
    · rintro k q rfl; rfl
    · rintro k q rfl; rfl
    · rintro k q rfl; rfl
    · rintro m rfl; rfl
    · rintro p rfl; rfl
    · rintro n rfl; rfl
    · rintro n rfl; rfl
    refine ⟨?_, ?_, ?_, ?_, ?_, ?_, ?_, ?_⟩
    · rintro k rfl; exact devRead_tlbstat s k
    · rintro k rfl; exact countWord_fields _ _
    · rintro k rfl; exact countWord_fields _ _
    · rintro k v n rfl; exact devRead_bmask s k v n
    · rintro k v rfl; exact (s.bar k v).config_fields
    · rintro k v rfl; exact (s.bar k v).status_phase
    · rintro k rfl; exact bit_flag_same _ (by omega)
    refine ⟨?_, ?_, ?_, ?_, ?_, ?_⟩
    · rintro f rfl; exact devRead_fact s f
    · rintro k rfl; exact (s.ctx k).sequencer_fields
    · rintro k q rfl; exact s.queueStatus_fields k q
    · rintro g rfl; exact s.descWord_fields _
    · rintro g n rfl; exact Group.entryWord_fields _ n
    · rintro rfl; exact s.rtu.status_fields

end Sys2Proof.Machine
end

section
/-!
SUPPORT. The statements on the encodings of the layers (02_encodings.md): the round trips of the encoders and decoders, and the words
that the map of major opcodes refuses.
-/
namespace Sys2Proof

/-! ### From an instruction to its word and back (R35, R53, R56, R67) -/

namespace Laws

theorem roundTrip (i : Instr) : RoundTrip.Statement i := by
  cases i with
  | illegal w => exact RoundTrip.illegal w
  | add d a b => exact RoundTrip.add d a b
  | sub d a b => exact RoundTrip.sub d a b
  | and d a b => exact RoundTrip.and d a b
  | or d a b => exact RoundTrip.or d a b
  | xor d a b => exact RoundTrip.xor d a b
  | shl d a b => exact RoundTrip.shl d a b
  | shr d a b => exact RoundTrip.shr d a b
  | sra d a b => exact RoundTrip.sra d a b
  | rol d a b => exact RoundTrip.rol d a b
  | ror d a b => exact RoundTrip.ror d a b
  | min d a b => exact RoundTrip.min d a b
  | max d a b => exact RoundTrip.max d a b
  | minn d a b => exact RoundTrip.minn d a b
  | maxn d a b => exact RoundTrip.maxn d a b
  | slt d a b => exact RoundTrip.slt d a b
  | sltn d a b => exact RoundTrip.sltn d a b
  | seq d a b => exact RoundTrip.seq d a b
  | sel d a b c => exact RoundTrip.sel d a b c
  | mul d a b => exact RoundTrip.mul d a b
  | mulh d a b => exact RoundTrip.mulh d a b
  | mulhn d a b => exact RoundTrip.mulhn d a b
  | div d a b => exact RoundTrip.div d a b
  | divn d a b => exact RoundTrip.divn d a b
  | rem d a b => exact RoundTrip.rem d a b
  | remn d a b => exact RoundTrip.remn d a b
  | clz d a => exact RoundTrip.clz d a
  | ctz d a => exact RoundTrip.ctz d a
  | pop d a => exact RoundTrip.pop d a
  | lea d a b sc => exact RoundTrip.lea d a b sc
  | ptag d a b => exact RoundTrip.ptag d a b
  | prgt d a b => exact RoundTrip.prgt d a b
  | padr d a b => exact RoundTrip.padr d a b
  | addi d a x => exact RoundTrip.addi d a x
  | andi d a x => exact RoundTrip.andi d a x
  | ori d a x => exact RoundTrip.ori d a x
  | xori d a x => exact RoundTrip.xori d a x
  | shli d a n => exact RoundTrip.shli d a n
  | shri d a n => exact RoundTrip.shri d a n
  | srai d a n => exact RoundTrip.srai d a n
  | bfx d a w p => exact RoundTrip.bfx d a w p
  | bfxS d a w p => exact RoundTrip.bfxS d a w p
  | bfi d a w p => exact RoundTrip.bfi d a w p
  | lui d x => exact RoundTrip.lui d x
  | luih d x => exact RoundTrip.luih d x
  | adpc d x => exact RoundTrip.adpc d x
  | beq a b o => exact RoundTrip.beq a b o
  | bne a b o => exact RoundTrip.bne a b o
  | blt a b o => exact RoundTrip.blt a b o
  | bge a b o => exact RoundTrip.bge a b o
  | bltn a b o => exact RoundTrip.bltn a b o
  | bgen a b o => exact RoundTrip.bgen a b o
  | j o => exact RoundTrip.j o
  | jal o => exact RoundTrip.jal o
  | jalr d a x => exact RoundTrip.jalr d a x
  | loop a o => exact RoundTrip.loop a o
  | trap c => exact RoundTrip.trap c
  | trapService c => exact RoundTrip.trapService c
  | tret => exact RoundTrip.tret
  | mfs d n => exact RoundTrip.mfs d n
  | mts a n => exact RoundTrip.mts a n
  | eret => exact RoundTrip.eret
  | yield => exact RoundTrip.yield
  | halt => exact RoundTrip.halt
  | tnow d => exact RoundTrip.tnow d
  | twait d a => exact RoundTrip.twait d a
  | qgrd d => exact RoundTrip.qgrd d
  | qtop d a => exact RoundTrip.qtop d a
  | qspd d a => exact RoundTrip.qspd d a
  | qblt d a b => exact RoundTrip.qblt d a b
  | qrng d a => exact RoundTrip.qrng d a
  | coff a => exact RoundTrip.coff a
  | sigv a b => exact RoundTrip.sigv a b
  | crcc d a b n => exact RoundTrip.crcc d a b n
  | fadd t d a b r => exact RoundTrip.fadd t d a b r
  | fsub t d a b r => exact RoundTrip.fsub t d a b r
  | fmul t d a b r => exact RoundTrip.fmul t d a b r
  | fdiv t d a b r => exact RoundTrip.fdiv t d a b r
  | fsqrt t d a r => exact RoundTrip.fsqrt t d a r
  | fmin t d a b => exact RoundTrip.fmin t d a b
  | fmax t d a b => exact RoundTrip.fmax t d a b
  | fabs t d a => exact RoundTrip.fabs t d a
  | fneg t d a => exact RoundTrip.fneg t d a
  | fsgn t d a b => exact RoundTrip.fsgn t d a b
  | feq t d a b => exact RoundTrip.feq t d a b
  | flt t d a b => exact RoundTrip.flt t d a b
  | fle t d a b => exact RoundTrip.fle t d a b
  | fcls t d a => exact RoundTrip.fcls t d a
  | ffma t d a b c => exact RoundTrip.ffma t d a b c
  | ffms t d a b c => exact RoundTrip.ffms t d a b c
  | fcvt t d a src r => exact RoundTrip.fcvt t d a src r
  | fcvi t d a ty r => exact RoundTrip.fcvi t d a ty r
  | icvf t d a ty r => exact RoundTrip.icvf t d a ty r
  | frnd t d a r => exact RoundTrip.frnd t d a r
  | fscl t d a b r => exact RoundTrip.fscl t d a b r
  | mvgf t d a => exact RoundTrip.mvgf t d a
  | mvfg t d a => exact RoundTrip.mvfg t d a
  | tenc t d a n => exact RoundTrip.tenc t d a n
  | tdec d a n => exact RoundTrip.tdec d a n
  | tbld a n => exact RoundTrip.tbld a n
  | ldB d b q o => exact RoundTrip.ldB d b q o
  | ldH d b q o => exact RoundTrip.ldH d b q o
  | ldW d b q o => exact RoundTrip.ldW d b q o
  | ldD d b q o => exact RoundTrip.ldD d b q o
  | ldnB d b q o => exact RoundTrip.ldnB d b q o
  | ldnH d b q o => exact RoundTrip.ldnH d b q o
  | ldnW d b q o => exact RoundTrip.ldnW d b q o
  | stB d b q o => exact RoundTrip.stB d b q o
  | stH d b q o => exact RoundTrip.stH d b q o
  | stW d b q o => exact RoundTrip.stW d b q o
  | stD d b q o => exact RoundTrip.stD d b q o
  | ldfH d b q o => exact RoundTrip.ldfH d b q o
  | ldfW d b q o => exact RoundTrip.ldfW d b q o
  | ldfD d b q o => exact RoundTrip.ldfD d b q o
  | stfH d b q o => exact RoundTrip.stfH d b q o
  | stfW d b q o => exact RoundTrip.stfW d b q o
  | stfD d b q o => exact RoundTrip.stfD d b q o
  | ldp d b q o => exact RoundTrip.ldp d b q o
  | stp d b q o => exact RoundTrip.stp d b q o
  | pref h b o => exact RoundTrip.pref h b o
  | cfls b o => exact RoundTrip.cfls b o
  | cinv b o => exact RoundTrip.cinv b o
  | tgld d b o => exact RoundTrip.tgld d b o
  | tgst d b o => exact RoundTrip.tgst d b o
  | visit b o => exact RoundTrip.visit b o
  | tkaq a => exact RoundTrip.tkaq a
  | tkhd a b => exact RoundTrip.tkhd a b
  | cflx a => exact RoundTrip.cflx a
  | fenceAcq sc => exact RoundTrip.fenceAcq sc
  | fenceRel sc => exact RoundTrip.fenceRel sc
  | fenceAr sc => exact RoundTrip.fenceAr sc
  | aadd a b z => exact RoundTrip.aadd a b z
  | aand a b z => exact RoundTrip.aand a b z
  | aor a b z => exact RoundTrip.aor a b z
  | axor a b z => exact RoundTrip.axor a b z
  | amin a b z => exact RoundTrip.amin a b z
  | amax a b z => exact RoundTrip.amax a b z
  | aminn a b z => exact RoundTrip.aminn a b z
  | amaxn a b z => exact RoundTrip.amaxn a b z
  | aswp a b z => exact RoundTrip.aswp a b z
  | acas a b z c => exact RoundTrip.acas a b z c
  | afaddF32 a b => exact RoundTrip.afaddF32 a b
  | aaddR d a b z => exact RoundTrip.aaddR d a b z
  | aandR d a b z => exact RoundTrip.aandR d a b z
  | aorR d a b z => exact RoundTrip.aorR d a b z
  | axorR d a b z => exact RoundTrip.axorR d a b z
  | aminR d a b z => exact RoundTrip.aminR d a b z
  | amaxR d a b z => exact RoundTrip.amaxR d a b z
  | aminnR d a b z => exact RoundTrip.aminnR d a b z
  | amaxnR d a b z => exact RoundTrip.amaxnR d a b z
  | aswpR d a b z => exact RoundTrip.aswpR d a b z
  | acasR d a b z c => exact RoundTrip.acasR d a b z c
  | afaddRF32 d a b => exact RoundTrip.afaddRF32 d a b
  | bara a => exact RoundTrip.bara a
  | barw d a b => exact RoundTrip.barw d a b
  | bars d a => exact RoundTrip.bars d a
  | acqs d a => exact RoundTrip.acqs d a
  | cmts a b => exact RoundTrip.cmts a b
  | peks d a => exact RoundTrip.peks d a
  | rels a b => exact RoundTrip.rels a b
  | wtfe d a b => exact RoundTrip.wtfe d a b
  | hnew d a => exact RoundTrip.hnew d a
  | hset a => exact RoundTrip.hset a
  | hget d => exact RoundTrip.hget d
  | hconf a => exact RoundTrip.hconf a
  | href a => exact RoundTrip.href a
  | hstat d a => exact RoundTrip.hstat d a
  | hwait d a b => exact RoundTrip.hwait d a b
  | acca a b n => exact RoundTrip.acca a b n
  | accr a b n => exact RoundTrip.accr a b n
  | accz n => exact RoundTrip.accz n
  | accn d b n => exact RoundTrip.accn d b n
  | accx d b n => exact RoundTrip.accx d b n
  | lnch a b => exact RoundTrip.lnch a b
  | lnci a b c => exact RoundTrip.lnci a b c
  | scfg q img rpt slot => exact RoundTrip.scfg q img rpt slot
  | splc q part slot ninst queue => exact RoundTrip.splc q part slot ninst queue
  | splcU q part slot queue => exact RoundTrip.splcU q part slot queue
  | smov q slot inst lx ly any => exact RoundTrip.smov q slot inst lx ly any
  | sarm q abs ep slot inst count => exact RoundTrip.sarm q abs ep slot inst count
  | sbnd q ep slot inst value ety => exact RoundTrip.sbnd q ep slot inst value ety
  | sbndT q slot inst page port tag => exact RoundTrip.sbndT q slot inst page port tag
  | sseg q last slot tiles => exact RoundTrip.sseg q last slot tiles
  | ssyn q n queue addr value => exact RoundTrip.ssyn q n queue addr value
  | scpy q o => exact RoundTrip.scpy q o
  | sgth q o => exact RoundTrip.sgth q o
  | ssct q o => exact RoundTrip.ssct q o
  | slkp q o => exact RoundTrip.slkp q o
  | supd q o => exact RoundTrip.supd q o
  | smig q tgt blk => exact RoundTrip.smig q tgt blk
  | stbl q tbl desc free => exact RoundTrip.stbl q tbl desc free
  | sdor q door slot inst blk => exact RoundTrip.sdor q door slot inst blk
  | swin q win slot obj ntf => exact RoundTrip.swin q win slot obj ntf
  | swinU q win slot => exact RoundTrip.swinU q win slot
  | sagp q pos prog pgm slot inst => exact RoundTrip.sagp q pos prog pgm slot inst
  | sagpU q pos prog => exact RoundTrip.sagpU q pos prog
  | sred q o => exact RoundTrip.sred q o
  | scol q o => exact RoundTrip.scol q o
  | sdrn q clear o => exact RoundTrip.sdrn q clear o
  | shdr q ep slot inst scale tslot en => exact RoundTrip.shdr q ep slot inst scale tslot en
  | nadd n => exact RoundTrip.nadd n
  | nsub n => exact RoundTrip.nsub n
  | nmul n => exact RoundTrip.nmul n
  | nfma n => exact RoundTrip.nfma n
  | nmin n => exact RoundTrip.nmin n
  | nmax n => exact RoundTrip.nmax n
  | nabs n => exact RoundTrip.nabs n
  | nneg n => exact RoundTrip.nneg n
  | ncmp n => exact RoundTrip.ncmp n
  | nsel n => exact RoundTrip.nsel n
  | ncvt n => exact RoundTrip.ncvt n
  | ndec n => exact RoundTrip.ndec n
  | nenc n => exact RoundTrip.nenc n
  | nand n => exact RoundTrip.nand n
  | nor n => exact RoundTrip.nor n
  | nxor n => exact RoundTrip.nxor n
  | nshl n => exact RoundTrip.nshl n
  | nshr n => exact RoundTrip.nshr n
  | nred n => exact RoundTrip.nred n
  | nacc n => exact RoundTrip.nacc n
  | ncnt n => exact RoundTrip.ncnt n
  | nbnd n => exact RoundTrip.nbnd n
  | ncon n => exact RoundTrip.ncon n
  | nrly n => exact RoundTrip.nrly n
  | nld n => exact RoundTrip.nld n
  | nst n => exact RoundTrip.nst n
  | nown n => exact RoundTrip.nown n
  | ndor n => exact RoundTrip.ndor n
  | sectionStep n => exact RoundTrip.sectionStep n
  | steer r => exact RoundTrip.steer r
  | gate r => exact RoundTrip.gate r
  | fork r => exact RoundTrip.fork r
  | sink r => exact RoundTrip.sink r
  | merge r => exact RoundTrip.merge r
  | carry r => exact RoundTrip.carry r
  | invar r => exact RoundTrip.invar r
  | cseq r => exact RoundTrip.cseq r
  | cpip r => exact RoundTrip.cpip r
  | cstr r => exact RoundTrip.cstr r
  | creditReturn x k => exact RoundTrip.creditReturn x k
  | flitArrive x k => exact RoundTrip.flitArrive x k
  | portResultReturn x page port k => exact RoundTrip.portResultReturn x page port k
  | pageRowDrain x page row => exact RoundTrip.pageRowDrain x page row
  | storeEventApply site => exact RoundTrip.storeEventApply site
  | issueWaitComplete p => exact RoundTrip.issueWaitComplete p
  | divideComplete p => exact RoundTrip.divideComplete p
  | tbldComplete p => exact RoundTrip.tbldComplete p
  | imageWriteComplete p => exact RoundTrip.imageWriteComplete p
  | drainComplete p => exact RoundTrip.drainComplete p
  | storePerform k => exact RoundTrip.storePerform k
  | feWaiterRetry p => exact RoundTrip.feWaiterRetry p
  | atomicApply k => exact RoundTrip.atomicApply k
  | tlbWalkLevelReturn p => exact RoundTrip.tlbWalkLevelReturn p
  | pageFillComplete k err => exact RoundTrip.pageFillComplete k err
  | watchDeliver p => exact RoundTrip.watchDeliver p
  | landingRequestArrive k => exact RoundTrip.landingRequestArrive k
  | landingReplyArrive k => exact RoundTrip.landingReplyArrive k
  | caravanLand k => exact RoundTrip.caravanLand k
  | flushAckArrive k => exact RoundTrip.flushAckArrive k
  | tokenRequestArrive k => exact RoundTrip.tokenRequestArrive k
  | tokenRequestRetry k => exact RoundTrip.tokenRequestRetry k
  | tokenRecallComplete k => exact RoundTrip.tokenRecallComplete k
  | tokenGrantArrive k => exact RoundTrip.tokenGrantArrive k
  | llcEvict line => exact RoundTrip.llcEvict line
  | cacheEvict k => exact RoundTrip.cacheEvict k
  | barrierRelease ctx b => exact RoundTrip.barrierRelease ctx b
  | timedWaitTimeout p => exact RoundTrip.timedWaitTimeout p
  | signalDeliver k => exact RoundTrip.signalDeliver k
  | interruptEntry core => exact RoundTrip.interruptEntry core
  | retirementRun => exact RoundTrip.retirementRun
  | resyncPulse => exact RoundTrip.resyncPulse
  | hypControllerRequest ctx => exact RoundTrip.hypControllerRequest ctx
  | hconfMerge ctx => exact RoundTrip.hconfMerge ctx
  | hrefDiscard ctx => exact RoundTrip.hrefDiscard ctx
  | orphan p => exact RoundTrip.orphan p
  | hypOutcomeArrive k => exact RoundTrip.hypOutcomeArrive k
  | commandAccept ctx => exact RoundTrip.commandAccept ctx
  | commandComplete ctx id => exact RoundTrip.commandComplete ctx id
  | instancePlace k => exact RoundTrip.instancePlace k
  | instanceDisplace x => exact RoundTrip.instanceDisplace x
  | instanceCompact x lx ly => exact RoundTrip.instanceCompact x lx ly
  | instanceSaveComplete x => exact RoundTrip.instanceSaveComplete x
  | segmentBoundary x => exact RoundTrip.segmentBoundary x
  | graphEnd ctx g => exact RoundTrip.graphEnd ctx g
  | sinkWaitTimeout ctx g => exact RoundTrip.sinkWaitTimeout ctx g
  | launchStart ctx qn => exact RoundTrip.launchStart ctx qn
  | threadLand ctx qn => exact RoundTrip.threadLand ctx qn
  | launchComplete ctx k => exact RoundTrip.launchComplete ctx k
  | hangDetect x => exact RoundTrip.hangDetect x
  | boundaryShutter x => exact RoundTrip.boundaryShutter x
  | cfgeccError x page => exact RoundTrip.cfgeccError x page
  | transferStart pos => exact RoundTrip.transferStart pos
  | transferComplete pos k => exact RoundTrip.transferComplete pos k
  | edgeProgramFlit pos prog => exact RoundTrip.edgeProgramFlit pos prog
  | smigCommit k => exact RoundTrip.smigCommit k
  | tableVersionFree ctx k => exact RoundTrip.tableVersionFree ctx k
  | doorThreadLand x door => exact RoundTrip.doorThreadLand x door
  | doorResultRelease x door => exact RoundTrip.doorResultRelease x door
  | routeRequestFail p k => exact RoundTrip.routeRequestFail p k
  | routeLinkChange port up lanes => exact RoundTrip.routeLinkChange port up lanes
  | corePowerOff site => exact RoundTrip.corePowerOff site
  | coreWake site => exact RoundTrip.coreWake site
  | activityBalance row act0 act1 => exact RoundTrip.activityBalance row act0 act1
  | startUp => exact RoundTrip.startUp
  | mgmtFrameReceive frame => exact RoundTrip.mgmtFrameReceive frame
  | ownerReset req => exact RoundTrip.ownerReset req
  | keytabEnrol req => exact RoundTrip.keytabEnrol req
  | attestationRequest nonce => exact RoundTrip.attestationRequest nonce
  | rerunCompare x tile shadow anchor => exact RoundTrip.rerunCompare x tile shadow anchor
  | tlbinvWrite ctx v => exact RoundTrip.tlbinvWrite ctx v
  | tlbInvalidationDone ctx => exact RoundTrip.tlbInvalidationDone ctx
  | rgnctlCountWrite ctx v => exact RoundTrip.rgnctlCountWrite ctx v
  | regionTableReadDone ctx => exact RoundTrip.regionTableReadDone ctx
  | rlogctlPendClear ctx v => exact RoundTrip.rlogctlPendClear ctx v
  | fqctlRdWrite ctx fq v => exact RoundTrip.fqctlRdWrite ctx fq v
  | cxrsmResume ctx v => exact RoundTrip.cxrsmResume ctx v
  | cxrsmDiscard ctx v => exact RoundTrip.cxrsmDiscard ctx v
  | cxpreWrite ctx v => exact RoundTrip.cxpreWrite ctx v
  | cxrstGo ctx => exact RoundTrip.cxrstGo ctx
  | bmaskWrite ctx b bw v => exact RoundTrip.bmaskWrite ctx b bw v
  | presRetry site port => exact RoundTrip.presRetry site port
  | presDiscard site port => exact RoundTrip.presDiscard site port
  | stresRetry pos ctx => exact RoundTrip.stresRetry pos ctx
  | stresDiscard pos ctx => exact RoundTrip.stresDiscard pos ctx
  | shutctlResume ctx v => exact RoundTrip.shutctlResume ctx v
  | shutctlDiscard ctx v => exact RoundTrip.shutctlDiscard ctx v
  | shutctlReload ctx v => exact RoundTrip.shutctlReload ctx v
  | gctlCommit v => exact RoundTrip.gctlCommit v
  | groupCommitDone => exact RoundTrip.groupCommitDone
  | routecfgWrite v => exact RoundTrip.routecfgWrite v
  | rtmapWrite m v => exact RoundTrip.rtmapWrite m v
  | rtuctlStage v => exact RoundTrip.rtuctlStage v
  | rtuStagingDone => exact RoundTrip.rtuStagingDone
  | rtuctlCommit => exact RoundTrip.rtuctlCommit
  | rtuctlAbort => exact RoundTrip.rtuctlAbort
  | rrstatClear => exact RoundTrip.rrstatClear
  | registerWrite off v => exact RoundTrip.registerWrite off v
  | placingComplete x => exact RoundTrip.placingComplete x
  | managementPortLinkUp rs => exact RoundTrip.managementPortLinkUp rs

end Laws

/-- Settles O1: the round trip of each instruction in the layer that has a word for it. -/
theorem encodeThenDecode : Obligations.EncodeThenDecode := fun i => Laws.roundTrip i

/-! ### From a word to its instruction and back (R35, R40, R53, R56) -/

/-- A register field that is read and numbered again is as it was. -/
@[simp] theorem num_reg (x : BitVec 5) : num (reg x) = x := rfl

/-- The six fields of a word in the RR format make up the word (R35). -/
theorem encRR_fields (w : BitVec 32) : encRR (fMajor w) (fD w) (fA w) (fB w) (fOp5 w) (fC w) = w := by
  unfold encRR fMajor fD fA fB fOp5 fC
  simp only [BitVec.extractLsb'_append_extractLsb'_eq_extractLsb']
  exact extract_all w

/-- A node word is made up of its OP and the fields below it (R53). -/
theorem encNode_nodeFields {w : BitVec 64} {op : BitVec 8} (h : (w.extractLsb' 56 8).toNat = op.toNat) :
    encNode op (nodeFields w) = w := by
  rw [← BitVec.eq_of_toNat_eq h]
  unfold encNode nodeFields
  simp only [BitVec.extractLsb'_append_extractLsb'_eq_extractLsb']
  exact extract_all w

/-- A router word is made up of its ROP and the fields beside it (R56). -/
theorem encRouter_routerFields {w : BitVec 64} {rop : BitVec 4} (h : (w.extractLsb' 44 4).toNat = rop.toNat) :
    encRouter rop (routerFields w) = w := by
  rw [← BitVec.eq_of_toNat_eq h]
  unfold encRouter routerFields
  simp only [BitVec.extractLsb'_append_extractLsb'_eq_extractLsb']
  exact extract_all w

theorem encodeNode_of_decodeNode {w : BitVec 64} {i : Instr} (h : decodeNode w = .ok i) : encodeNode i = some w := by
  unfold decodeNode at h
  split at h
  case h_30 => cases h
  all_goals
    next hop =>
      cases h
      exact congrArg some (encNode_nodeFields hop)

theorem encodeRouter_of_decodeRouter {w : BitVec 64} {i : Instr} (h : decodeRouter w = .ok i) : encodeRouter i = some w := by
  unfold decodeRouter at h
  split at h
  case h_11 => cases h
  all_goals
    next hrop =>
      cases h
      exact congrArg some (encRouter_routerFields hrop)

/-- A word that the shape of d, a and b accepts has a zero c field. -/
theorem shDAB_eq_ok {k : Reg → Reg → Reg → Instr} {w : BitVec 32} {i : Instr} (h : shDAB k w = .ok i) :
    fC w = 0 ∧ k (reg (fD w)) (reg (fA w)) (reg (fB w)) = i := by
  unfold shDAB at h
  split at h
  · next hc => exact ⟨hc, Except.ok.inj h⟩
  · cases h

/-- A word that a function of d, a and b accepts is made up of its major, its op5 and the three registers. -/
theorem encode_of_shDAB {k : Reg → Reg → Reg → Instr} {w : BitVec 32} {i : Instr} {m : BitVec 7} {op : BitVec 5}
    (hk : ∀ d a b, encode (k d a b) = some (encRR m (num d) (num a) (num b) op 0)) (hm : fMajor w = m)
    (hop : (fOp5 w).toNat = op.toNat) (h : shDAB k w = .ok i) : encode i = some w := by
  obtain ⟨hc, rfl⟩ := shDAB_eq_ok h
  rw [hk, num_reg, num_reg, num_reg, ← hm, ← BitVec.eq_of_toNat_eq hop, ← hc, encRR_fields]

theorem encode_of_decodeInt {w : BitVec 32} {i : Instr} (h : decodeInt w = .ok i) (hm : fMajor w = 0x01) : encode i = some w := by
  unfold decodeInt at h
  split at h
  case h_18 hop =>
    cases h
    have hop : fOp5 w = 0x11 := BitVec.eq_of_toNat_eq hop
    exact congrArg some (by rw [num_reg, num_reg, num_reg, num_reg, ← hm, ← hop, encRR_fields])
  case h_19 => cases h
  all_goals
    next hop =>
      refine encode_of_shDAB (fun _ _ _ => rfl) hm ?_ h
      exact hop

/-- Settles O2: the fields of a word make up the word, so a decoder that reads every field, or asks that it is zero, loses nothing. -/
theorem decodeThenEncode : Obligations.DecodeThenEncode :=
  ⟨fun _ _ => encodeNode_of_decodeNode, fun _ _ => encodeRouter_of_decodeRouter, fun _ _ => encode_of_decodeInt⟩

/-! ### The words that are refused for their major opcode (R38) -/

section NotForTheMajor

/-! Neither a shape of fields nor the decoder of an allocated major ever gives the major as its reason. -/

variable (w : BitVec 32)

@[simp] theorem shDAB_not_reservedMajor (k : Reg → Reg → Reg → Instr) : shDAB k w ≠ .error .reservedMajor := by
  unfold shDAB; split <;> simp
@[simp] theorem shDA_not_reservedMajor (k : Reg → Reg → Instr) : shDA k w ≠ .error .reservedMajor := by
  unfold shDA; split <;> simp
@[simp] theorem shD_not_reservedMajor (k : Reg → Instr) : shD k w ≠ .error .reservedMajor := by
  unfold shD; split <;> simp
@[simp] theorem shA_not_reservedMajor (k : Reg → Instr) : shA k w ≠ .error .reservedMajor := by
  unfold shA; split <;> simp
@[simp] theorem shAB_not_reservedMajor (k : Reg → Reg → Instr) : shAB k w ≠ .error .reservedMajor := by
  unfold shAB; split <;> simp
@[simp] theorem shNone_not_reservedMajor (i : Instr) : shNone i w ≠ .error .reservedMajor := by
  unfold shNone; split <;> simp
@[simp] theorem shField_not_reservedMajor (k : Reg → Reg → BitVec 6 → BitVec 6 → Instr) : shField k w ≠ .error .reservedMajor := by
  unfold shField; split <;> simp
@[simp] theorem withRm_not_reservedMajor (k : RmField → Instr) : withRm w k ≠ .error .reservedMajor := by
  unfold withRm; split <;> simp
@[simp] theorem shLoad_not_reservedMajor (k : Reg → Reg → LoadQual → BitVec 12 → Instr) : shLoad k w ≠ .error .reservedMajor := by
  unfold shLoad; split <;> simp
@[simp] theorem shStore_not_reservedMajor (k : Reg → Reg → StoreQual → BitVec 12 → Instr) : shStore k w ≠ .error .reservedMajor := by
  unfold shStore; split <;> simp
@[simp] theorem shBase_not_reservedMajor (k : Reg → BitVec 12 → Instr) : shBase k w ≠ .error .reservedMajor := by
  unfold shBase; repeat' split
  all_goals simp
@[simp] theorem shTag_not_reservedMajor (k : Reg → Reg → BitVec 12 → Instr) : shTag k w ≠ .error .reservedMajor := by
  unfold shTag; split <;> simp
@[simp] theorem shAtom_not_reservedMajor (k : Reg → Reg → AtomSize → Instr) : shAtom k w ≠ .error .reservedMajor := by
  unfold shAtom; split <;> simp
@[simp] theorem shAtomR_not_reservedMajor (k : Reg → Reg → Reg → AtomSize → Instr) : shAtomR k w ≠ .error .reservedMajor := by
  unfold shAtomR; split <;> simp
theorem shEven_not_reservedMajor {x : Decoded} (h : x ≠ .error .reservedMajor) : shEven w x ≠ .error .reservedMajor := by
  unfold shEven; split <;> simp [h]

@[simp] theorem decodeInt_not_reservedMajor : decodeInt w ≠ .error .reservedMajor := by
  unfold decodeInt; split <;> simp
@[simp] theorem decodeIntm_not_reservedMajor : decodeIntm w ≠ .error .reservedMajor := by
  unfold decodeIntm; split <;> simp
@[simp] theorem decodePtr_not_reservedMajor : decodePtr w ≠ .error .reservedMajor := by
  unfold decodePtr; repeat' split
  all_goals simp
@[simp] theorem decodeShi_not_reservedMajor : decodeShi w ≠ .error .reservedMajor := by
  unfold decodeShi; repeat' split
  all_goals simp
@[simp] theorem decodeBfx_not_reservedMajor : decodeBfx w ≠ .error .reservedMajor := by
  unfold decodeBfx; split <;> simp
@[simp] theorem decodeBfi_not_reservedMajor : decodeBfi w ≠ .error .reservedMajor := by
  unfold decodeBfi; split <;> simp
@[simp] theorem decodeLoop_not_reservedMajor : decodeLoop w ≠ .error .reservedMajor := by
  unfold decodeLoop; repeat' split
  all_goals simp
@[simp] theorem decodeSysi_not_reservedMajor : decodeSysi w ≠ .error .reservedMajor := by
  unfold decodeSysi; repeat' split
  all_goals simp
@[simp] theorem decodeSys_not_reservedMajor : decodeSys w ≠ .error .reservedMajor := by
  unfold decodeSys; repeat' split
  all_goals simp
@[simp] theorem decodeFp_not_reservedMajor (t : FType) : decodeFp t w ≠ .error .reservedMajor := by
  unfold decodeFp; repeat' split
  all_goals simp
@[simp] theorem decodePref_not_reservedMajor : decodePref w ≠ .error .reservedMajor := by
  unfold decodePref; repeat' split
  all_goals simp
@[simp] theorem decodeOrd_not_reservedMajor : decodeOrd w ≠ .error .reservedMajor := by
  unfold decodeOrd; split <;> simp
@[simp] theorem decodeFence_not_reservedMajor : decodeFence w ≠ .error .reservedMajor := by
  unfold decodeFence; repeat' split
  all_goals simp
@[simp] theorem decodeAtom_not_reservedMajor : decodeAtom w ≠ .error .reservedMajor := by
  unfold decodeAtom; repeat' split
  all_goals simp
@[simp] theorem decodeAtomR_not_reservedMajor : decodeAtomR w ≠ .error .reservedMajor := by
  unfold decodeAtomR; repeat' split
  all_goals simp
@[simp] theorem decodeSync_not_reservedMajor : decodeSync w ≠ .error .reservedMajor := by
  unfold decodeSync; split <;> simp
@[simp] theorem decodeHyp_not_reservedMajor : decodeHyp w ≠ .error .reservedMajor := by
  unfold decodeHyp; split <;> simp
@[simp] theorem decodeAcc_not_reservedMajor : decodeAcc w ≠ .error .reservedMajor := by
  unfold decodeAcc; repeat' split
  all_goals simp
@[simp] theorem decodeLnch_not_reservedMajor : decodeLnch w ≠ .error .reservedMajor := by
  unfold decodeLnch; repeat' split
  all_goals simp

end NotForTheMajor

/-- The majors that the map of R38 marks reserved. -/
def ReservedMajor (m : Nat) : Prop :=
  m ∈ [0x0E, 0x0F, 0x1C, 0x1D, 0x1E, 0x1F, 0x25, 0x26, 0x27, 0x28, 0x29, 0x2A, 0x2B, 0x2C, 0x2D, 0x2E, 0x2F,
    0x37, 0x3F, 0x4B, 0x4C, 0x4D, 0x4E, 0x4F] ∨ 0x58 ≤ m

theorem decode_eq_reservedMajor_iff (w : BitVec 32) : decode w = .error .reservedMajor ↔ ReservedMajor (fMajor w).toNat := by
  unfold decode ReservedMajor
  split
  case h_65 =>
    simp only [List.mem_cons, List.not_mem_nil, or_false, true_iff]
    grind
  all_goals
    next hm => simp [hm, shEven_not_reservedMajor]

theorem instrOf_of_reservedMajor {w : BitVec 32} (h : decode w = .error .reservedMajor ∨ (fMajor w).toNat = 0) :
    Machine.instrOf w = .illegal w := by
  rcases h with h | h
  · exact Machine.instrOf_of_error h
  · exact Machine.instrOf_of_ok (decode_00 (BitVec.eq_of_toNat_eq h))

/-- ILLEGAL takes the trap of cause 0x01 with its word in the record (R38, R39). -/
theorem exec_illegal (w : BitVec 32) (s : Machine.State) :
    Machine.exec (.illegal w) s = .next (s.deliver (s.th.record 0x01 w 0 0 0 0)) := rfl

/-- Settles O3: only the last arm of the map of majors refuses a word for its major, and no decoder of a major does. -/
theorem reservedMajorsAreIllegal : Obligations.ReservedMajorsAreIllegal := by
  intro w s
  refine ⟨decode_eq_reservedMajor_iff w, fun h => ?_⟩
  have hi := instrOf_of_reservedMajor h
  exact ⟨hi, hi ▸ exec_illegal w s⟩

/-- Settles O4: the words are those of the encoder, so the round trip reads them, and 0x02000001 is ADD with a nonzero c field. -/
theorem wordsOfTheSpec : Obligations.WordsOfTheSpec :=
  ⟨dec_add 0 0 0, dec_yield, dec_halt, dec_coff 3, decode_00 rfl, (decode_01 rfl).trans (decodeInt_00 rfl),
    dec_nadd { ety := 8, fn := 0, ina := 2, inb := 5, inc := 0, omask := 0x0042, param := 0 },
    dec_ndor { ety := 7, fn := 0, ina := 0, inb := 0, inc := 0, omask := 0x0002, param := 0 },
    dec_merge { swmask := 0x0008, ctl := 2, ia := 0, ib := 1, oa := 8, ob := 12 },
    dec_sseg { b := true, s := false } true 5 9,
    dec_scpy { b := true, s := true } { tgt := 0xFF, desc := 0x40, slot := 2, inst := 3, bnd := true } rfl⟩

end Sys2Proof
end

section
/-!
SUPPORT. The arithmetic of 64-bit words: the words of the integer instructions as exact numbers, and the replacing of a field.
-/
namespace Sys2Proof

/-! ### Words as integers (R87 to R90) -/

theorem ofInt_sub_toInt {w : Nat} (x y : BitVec w) : BitVec.ofInt w (x.toInt - y.toInt) = x - y := by
  rw [Int.sub_eq_add_neg, BitVec.ofInt_add, BitVec.ofInt_neg, BitVec.ofInt_toInt, BitVec.ofInt_toInt, BitVec.sub_eq_add_neg]

theorem ofInt_mul_toInt {w : Nat} (x y : BitVec w) : BitVec.ofInt w (x.toInt * y.toInt) = x * y := by
  rw [BitVec.ofInt_mul, BitVec.ofInt_toInt, BitVec.ofInt_toInt]

theorem ofNat_add_toNat {w : Nat} (x y : BitVec w) : BitVec.ofNat w (x.toNat + y.toNat) = x + y := by
  simp [BitVec.ofNat_add]

/-- A sign extension is the word of the same integer. -/
theorem signExtend_eq_ofInt {w : Nat} (v : Nat) (x : BitVec w) : x.signExtend v = BitVec.ofInt v x.toInt := rfl

/-- Fewer bits of an integer's word are the narrower word of that integer. -/
theorem setWidth_ofInt {v w : Nat} (h : v ≤ w) (i : Int) : (BitVec.ofInt w i).setWidth v = BitVec.ofInt v i := by
  rw [← BitVec.signExtend_eq_setWidth_of_le _ h, signExtend_eq_ofInt, ← BitVec.toInt_inj, BitVec.toInt_ofInt, BitVec.toInt_ofInt,
    BitVec.toInt_ofInt]
  exact Int.bmod_bmod_of_dvd (Nat.pow_dvd_pow 2 h)

theorem Word.ofBool_decide (p : Prop) [Decidable p] : Word.ofBool (decide p) = if p then 1 else 0 := by
  simp [Word.ofBool]

/-! ### Shifts and rotations (R88) -/

theorem ofNat_mul_two_pow {w : Nat} (x : BitVec w) (n : Nat) : BitVec.ofNat w (x.toNat * 2 ^ n) = x <<< n :=
  BitVec.eq_of_toNat_eq (by simp [Nat.shiftLeft_eq])

theorem ofNat_div_two_pow {w : Nat} (x : BitVec w) (n : Nat) : BitVec.ofNat w (x.toNat / 2 ^ n) = x >>> n := by
  apply BitVec.eq_of_toNat_eq
  rw [BitVec.toNat_ofNat, BitVec.toNat_ushiftRight, Nat.shiftRight_eq_div_pow]
  exact Nat.mod_eq_of_lt (Nat.lt_of_le_of_lt (Nat.div_le_self _ _) x.isLt)

theorem ofInt_div_two_pow {w : Nat} (x : BitVec w) (n : Nat) : BitVec.ofInt w (x.toInt / 2 ^ n) = x.sshiftRight n := by
  rw [BitVec.sshiftRight, Int.shiftRight_eq_div_pow]
  norm_cast

theorem rotateLeft_of_lt {w : Nat} (x : BitVec w) {n : Nat} (h : n < w) : x.rotateLeft n = x <<< n ||| x >>> (w - n) := by
  rw [BitVec.rotateLeft_def, Nat.mod_eq_of_lt h]

theorem rotateRight_of_lt {w : Nat} (x : BitVec w) {n : Nat} (h : n < w) : x.rotateRight n = x >>> n ||| x <<< (w - n) := by
  rw [BitVec.rotateRight_def, Nat.mod_eq_of_lt h]

/-! ### Fields of a word (R94 to R96) -/

/-- A word with a field replaced, as a number. -/
theorem toNat_setBits {w : Nat} (x : BitVec w) {lo n : Nat} (v : Nat) (h : lo + n ≤ w) :
    (setBits x lo n v).toNat = x.toNat / 2 ^ (lo + n) * 2 ^ (lo + n) + v % 2 ^ n * 2 ^ lo + x.toNat % 2 ^ lo := by
  have e : x.toNat / 2 ^ (lo + n) * 2 ^ (lo + n) + v % 2 ^ n * 2 ^ lo + x.toNat % 2 ^ lo =
      2 ^ lo * (2 ^ n * (x.toNat / 2 ^ (lo + n)) + v % 2 ^ n) + x.toNat % 2 ^ lo := by rw [Nat.pow_add]; ring
  rw [e]
  apply Nat.eq_of_testBit_eq
  intro i
  rw [Nat.testBit_two_pow_mul_add _ (Nat.mod_lt _ (Nat.two_pow_pos lo)),
    Nat.testBit_two_pow_mul_add _ (Nat.mod_lt _ (Nat.two_pow_pos n)), BitVec.testBit_toNat]
  by_cases hi : i < w
  · rw [Machine.getLsbD_setBits x hi]
    by_cases h1 : i < lo
    · simp [h1, Nat.not_le.2 h1, BitVec.getLsbD]
    · by_cases h2 : i < lo + n
      · have : i - lo < n := by omega
        simp [h1, h2, this, Nat.le_of_not_lt h1]
      · have : ¬ i - lo < n := by omega
        have e : i - lo - n + (lo + n) = i := by omega
        simp [h1, h2, this, Nat.testBit_div_two_pow, e, BitVec.getLsbD]
  · have h1 : ¬ i < lo := by omega
    have h2 : ¬ i - lo < n := by omega
    have e : i - lo - n + (lo + n) = i := by omega
    rw [if_neg h1, if_neg h2, Nat.testBit_div_two_pow, e, BitVec.getLsbD_of_ge _ _ (by omega)]
    exact (BitVec.getLsbD_of_ge x i (by omega)).symm

theorem setBits_eq_ofNat {w : Nat} (x : BitVec w) {lo n : Nat} (v : Nat) (h : lo + n ≤ w) : setBits x lo n v =
    BitVec.ofNat w (x.toNat / 2 ^ (lo + n) * 2 ^ (lo + n) + v % 2 ^ n * 2 ^ lo + x.toNat % 2 ^ lo) := by
  rw [← toNat_setBits x v h, BitVec.ofNat_toNat, BitVec.setWidth_eq]

end Sys2Proof
end

section
/-!
SUPPORT. The integer instructions of family 03: what each leaves, from the arithmetic of words.
-/
namespace Sys2Proof.Machine

/-! ### Sums, shifts and comparisons (R87 to R89) -/

/-- Completing with a word that is the one stated. -/
theorem doneG_eq_of {s : State} {d : Reg} {v w : Word} (h : v = w) : doneG s d v = .next (s.afterG d w) := h ▸ doneG_eq s d v

/-- Settles O7: an instruction that completes leaves `afterG`, and the words are those of the exact sums and differences. -/
theorem addAndLogic : Obligations.AddAndLogic := by
  intro d a b s
  exact ⟨doneG_eq_of (ofNat_add_toNat ..).symm, doneG_eq_of (ofInt_sub_toInt ..).symm, doneG_eq .., doneG_eq .., doneG_eq ..⟩

theorem shiftCount_eq (b : Word) : shiftCount b = b.toNat % 64 := bits_zero b 6

/-- Settles O8: each shift is the exact quotient or product, and a rotation by less than 64 joins two shifts. -/
theorem shifts : Obligations.Shifts := by
  intro d a b i s n
  simp only [ofNat_mul_two_pow, ofNat_div_two_pow, ofInt_div_two_pow]
  constructor
  · rintro rfl
    rw [← shiftCount_eq]
    have hn : shiftCount (s.gr b) < 64 := bits_lt ..
    exact ⟨doneG_eq .., doneG_eq .., doneG_eq .., doneG_eq_of (rotateLeft_of_lt _ hn), doneG_eq_of (rotateRight_of_lt _ hn)⟩
  · rintro rfl
    exact ⟨doneG_eq .., doneG_eq .., doneG_eq ..⟩

/-- Settles O9: a minimum or maximum is one of the two sources, whose word is that of its own reading. -/
theorem compareAndSelect : Obligations.CompareAndSelect := by
  intro d a b c s
  refine ⟨doneG_eq_of ?_, doneG_eq_of ?_, doneG_eq_of ?_, doneG_eq_of ?_, doneG_eq_of ?_, doneG_eq_of ?_, doneG_eq_of ?_,
    doneG_eq_of ?_⟩
  · rw [min_def, apply_ite (BitVec.ofInt 64), BitVec.ofInt_toInt, BitVec.ofInt_toInt]
  · rw [max_comm, max_def, apply_ite (BitVec.ofInt 64), BitVec.ofInt_toInt, BitVec.ofInt_toInt]
  · rw [min_def, apply_ite (BitVec.ofNat 64), BitVec.ofNat_toNat, BitVec.ofNat_toNat, BitVec.setWidth_eq, BitVec.setWidth_eq]
  · rw [max_comm, max_def, apply_ite (BitVec.ofNat 64), BitVec.ofNat_toNat, BitVec.ofNat_toNat, BitVec.setWidth_eq, BitVec.setWidth_eq]
  · exact Word.ofBool_decide _
  · exact Word.ofBool_decide _
  · exact Word.ofBool_decide _
  · exact ite_not ..

/-! ### Counts of bits (R90) -/

theorem leadingZeros_of_clear {a : Word} {n : Nat} (h : ∀ j, j < n → a.getLsbD j = false) : leadingZeros a n = n := by
  induction n with
  | zero => rfl
  | succ n ih => simp [leadingZeros, h n (Nat.lt_succ_self n), ih fun j hj => h j (Nat.lt_succ_of_lt hj)]

/-- The highest one bit below bit `n` ends the leading zeros. -/
theorem leadingZeros_of_highest {a : Word} {m n : Nat} (hm : m < n) (hone : a.getLsbD m = true)
    (habove : ∀ j, m < j → j < n → a.getLsbD j = false) : leadingZeros a n = n - 1 - m := by
  induction n with
  | zero => omega
  | succ n ih =>
    by_cases h : m = n
    · subst h; simp [leadingZeros, hone]
    · have hn : m < n := by omega
      rw [leadingZeros, habove n hn (Nat.lt_succ_self n), ih hn fun j h1 h2 => habove j h1 (Nat.lt_succ_of_lt h2)]
      simp only [Bool.false_eq_true, if_false]
      omega

theorem trailingZeros_of_clear {a : Word} {n : Nat} (h : ∀ j, j < 64 → a.getLsbD j = false) (hn : n ≤ 64) : trailingZeros a n = n := by
  induction n with
  | zero => rfl
  | succ n ih => simp [trailingZeros, h (63 - n) (by omega), ih (by omega)]

/-- The lowest one bit from bit `64 - n` up ends the trailing zeros. -/
theorem trailingZeros_of_lowest {a : Word} {m n : Nat} (hm : 64 ≤ m + n) (hone : a.getLsbD m = true) (hm' : m < 64)
    (hbelow : ∀ j, j < m → a.getLsbD j = false) (hn : n ≤ 64) : trailingZeros a n = m + n - 64 := by
  induction n with
  | zero => omega
  | succ n ih =>
    by_cases h : m = 63 - n
    · subst h
      simp only [trailingZeros, hone, if_true]
      omega
    · rw [trailingZeros, hbelow (63 - n) (by omega), ih (by omega) (by omega)]
      simp only [Bool.false_eq_true, if_false]
      omega

theorem onesBelow_eq_length (a : Word) (n : Nat) : onesBelow a n = ((List.range n).filter fun j => a.getLsbD j).length := by
  induction n with
  | zero => rfl
  | succ n ih => cases h : a.getLsbD n <;> simp [onesBelow, List.range_succ, List.filter_append, ih, h]

/-- Settles O10: the products are words of exact products, and the counts are those of the model's recursions over the bits. -/
theorem multiplyAndCount : Obligations.MultiplyAndCount := by
  intro d a b s k
  refine ⟨doneG_eq_of (ofInt_mul_toInt ..).symm, doneG_eq .., doneG_eq .., fun h => doneG_eq_of (congrArg _ ?_),
    fun h => doneG_eq_of (congrArg _ ?_), fun h => doneG_eq_of (congrArg _ ?_)⟩
  · rcases h with ⟨rfl, h0⟩ | ⟨hk, hone, habove⟩
    · exact leadingZeros_of_clear fun j _ => by simp [h0]
    · rw [leadingZeros_of_highest (by omega) hone fun j h _ => habove j h]
      omega
  · rcases h with ⟨rfl, h0⟩ | ⟨hk, hone, hbelow⟩
    · exact trailingZeros_of_clear (fun j _ => by simp [h0]) (Nat.le_refl _)
    · rw [trailingZeros_of_lowest (by omega) hone hk hbelow (Nat.le_refl _)]
      omega
  · rw [h]
    exact onesBelow_eq_length ..

/-! ### Divisions (R91) -/

/-- The three answers of a division. -/
theorem divide_cases (s : State) (d : Reg) (b v : Word) :
    (b = 0 → divide s d b v = .next (s.deliver (s.recordOf 0x04 0 0 0 0))) ∧
    (b ≠ 0 → s.th.onBarrel = false → divide s d b v = .next (s.afterG d v)) ∧
    (b ≠ 0 → s.th.onBarrel = true →
      divide s d b v = .next { s with th := { s.th with st := .wait, wait := .divide 3 d v, mid := true } }) := by
  refine ⟨fun hb => ?_, fun hb hc => ?_, fun hb hc => ?_⟩ <;> unfold divide
  · rw [if_pos hb]; rfl
  · rw [if_neg hb, hc, ← doneG_eq]; rfl
  · rw [if_neg hb, if_pos hc]; rfl

/-- The end of a division writes its destination and moves the pc of the thread that leaves WAIT. -/
theorem divideEnd_eq (s : State) (d : Reg) (v : Word) :
    divideEnd d v s = .next { s.afterG d v with th := { (s.afterG d v).th with st := .run, wait := .none } } := by
  have h : divideEnd d v s = doneG s.wake d v := by
    unfold divideEnd doneG done
    rfl
  rw [h, doneG_eq]
  rfl

theorem onThread_here {s : State} {p : Place} (h : s.th.place = p) (f : State → Result) : onThread p s f = f s := by
  unfold onThread; rw [State.focus_here h]

/-- Settles O11: the four divisions share one rule for their answers, and the turns of a waiting thread count down. -/
theorem division : Obligations.Division := by
  intro d a b s results
  refine ⟨fun e he => ?_, fun n v p hst => ⟨fun hw => ?_, fun hw => ?_, fun hw hp => ?_, fun hw => ?_, fun hw => ?_⟩⟩
  · simp only [results, List.mem_cons, List.not_mem_nil, or_false] at he
    rcases he with rfl | rfl | rfl | rfl <;> exact divide_cases s d (s.gr b) _
  · simp [waitTurn, hw, hst, State.block]
  · simp only [waitTurn, hw, Nat.le_refl, if_true]
    exact divideEnd_eq s d v
  · show execDivideComplete p s = _
    rw [execDivideComplete, onThread_here hp, hw]
    exact divideEnd_eq s d v
  · simp [waitTurn, hw, hst, State.pause]
  · simp only [waitTurn, hw, Nat.le_refl, if_true]
    rfl

/-! ### Immediates (R92, R95) -/

theorem add_sImm (x : Word) (i : BitVec 15) : x + sImm i = BitVec.ofInt 64 (x.toInt + i.toInt) := by
  rw [sImm, signExtend_eq_ofInt, BitVec.ofInt_add, BitVec.ofInt_toInt]

theorem zImm_eq (i : BitVec 15) : zImm i = BitVec.ofNat 64 i.toNat := (BitVec.ofNat_toNat 64 i).symm

theorem luiValue_eq (u : BitVec 20) : luiValue u = BitVec.ofInt 64 (u.toInt * 2 ^ 12) := by
  have e : (u ++ (0 : BitVec 12)).toInt = u.toInt * 2 ^ 12 := BitVec.toInt_append_zero.trans (Int.mul_comm ..)
  rw [luiValue, signExtend_eq_ofInt, e]

/-- The target of a branch is the exact one modulo 2^52. -/
theorem branchTarget_eq {w : Nat} (pc : Addr) (o : BitVec w) :
    branchTarget pc o = BitVec.ofInt 52 ((pc.toNat : Int) + o.toInt * 4) := by
  rw [branchTarget, signExtend_eq_ofInt, BitVec.ofInt_add, BitVec.ofInt_mul, BitVec.ofInt_natCast, BitVec.ofNat_toNat,
    BitVec.setWidth_eq]
  rfl

theorem adpcValue_eq (pc : Addr) (u : BitVec 20) :
    adpcValue pc u = BitVec.ofNat 64 (((pc.toNat : Int) + u.toInt * 4) % 2 ^ 52).toNat := by
  rw [adpcValue, branchTarget_eq, ← BitVec.ofNat_toNat, BitVec.toNat_ofInt]
  norm_cast

/-- Settles O12: each immediate is extended as its rule says, and the sums are words of the exact ones. -/
theorem immediates : Obligations.Immediates := by
  intro d a i u s
  refine ⟨doneG_eq_of (add_sImm ..), doneG_eq_of (zImm_eq i ▸ rfl), doneG_eq_of (zImm_eq i ▸ rfl), doneG_eq_of (zImm_eq i ▸ rfl),
    doneG_eq_of (luiValue_eq u), doneG_eq_of ?_, doneG_eq_of (adpcValue_eq ..)⟩
  have hd : (s.gr d).toNat < 2 ^ 64 := (s.gr d).isLt
  rw [luihValue, setBits_eq_ofNat _ _ (by decide)]
  exact congrArg _ (by omega)

/-! ### Bit fields (R94) -/

theorem ofNat_bits {w : Nat} (x : BitVec w) (lo n : Nat) : BitVec.ofNat n (bits x lo n) = BitVec.ofNat n (x.toNat / 2 ^ lo) :=
  BitVec.eq_of_toNat_eq (by simp [bits, Nat.shiftRight_eq_div_pow])

/-- Settles O13: BFX takes the field as a number, BFX.S as an integer, and BFI puts it bit by bit. -/
theorem bitFields : Obligations.BitFields := by
  intro d a w p s hw
  have hn : fieldWidth w ≤ 64 := by have := w.isLt; unfold fieldWidth; omega
  refine ⟨doneG_eq_of ?_, doneG_eq_of ?_, fun v hv => doneG_eq_of ?_⟩
  · rw [extractField, ofNat_bits, if_neg Bool.false_ne_true, ← BitVec.ofNat_toNat, BitVec.toNat_ofNat]
    rfl
  · rw [extractField, ofNat_bits, if_pos rfl]
    rfl
  · apply BitVec.eq_of_getLsbD_eq
    intro j hj
    rw [getLsbD_setBits _ hj, hv j hj]
    have e : (p.toNat ≤ j ∧ j < p.toNat + fieldWidth w) ↔ (p.toNat ≤ j ∧ j ≤ p.toNat + w.toNat) := by unfold fieldWidth; omega
    simp only [e]
    rfl

/-! ### Pointers (R96) -/

/-- Settles O14: each instruction replaces one field of the pointer. -/
theorem pointerParts : Obligations.PointerParts := by
  intro d a b k s
  have ha : (s.gr a).toNat < 2 ^ 64 := (s.gr a).isLt
  have hb : (s.gr b).toNat < 2 ^ 64 := (s.gr b).isLt
  refine ⟨doneG_eq_of ?_, doneG_eq_of ?_, doneG_eq_of ?_, doneG_eq_of ?_⟩
  · have e : (s.gr a + s.gr b <<< k.val).toNat % 2 ^ 52 = ((s.gr a).toNat % 2 ^ 52 + (s.gr b).toNat * 2 ^ k.val) % 2 ^ 52 := by
      rw [BitVec.toNat_add, BitVec.toNat_shiftLeft, Nat.shiftLeft_eq]
      omega
    rw [leaValue, setBits_eq_ofNat _ _ (by decide), e]
    exact congrArg _ (by omega)
  · rw [setBits_eq_ofNat _ _ (by decide), bits_zero]
    exact congrArg _ (by omega)
  · rw [setBits_eq_ofNat _ _ (by decide), bits_zero]
    exact congrArg _ (by omega)
  · rw [setBits_eq_ofNat _ _ (by decide), bits_zero]
    exact congrArg _ (by omega)

/-! ### Control flow (R99 to R102) -/

/-- A conditional branch goes to its target or to the next instruction. -/
theorem branchIf_goes (c : Prop) [Decidable c] (o : BitVec 15) (s : State) :
    (c → branchIf c o s = .next (s.jumped (BitVec.ofInt 52 ((s.th.pc.toNat : Int) + o.toInt * 4)))) ∧
      (¬ c → branchIf c o s = .next (s.jumped (s.th.pc + 4))) := by
  rw [← branchTarget_eq]
  refine ⟨fun h => ?_, fun h => ?_⟩
  · rw [branchIf, if_pos (decide_eq_true h)]
    rfl
  · rw [branchIf, if_neg (by simpa using h)]
    exact done_eq s

theorem linkOf_eq (pc : Addr) : linkOf pc = BitVec.ofNat 64 ((pc.toNat + 4) % 2 ^ 52) := by
  rw [linkOf, ← BitVec.ofNat_toNat, BitVec.toNat_add]
  rfl

/-- Settles O15: the six branches are one rule over their condition, and the jumps always go to their target. -/
theorem branches : Obligations.Branches := by
  intro a b o j s goes
  refine ⟨branchIf_goes _ o s, branchIf_goes _ o s, branchIf_goes _ o s, branchIf_goes _ o s, branchIf_goes _ o s, branchIf_goes _ o s,
    ?_, ?_⟩
  · rw [← branchTarget_eq]
    rfl
  · rw [← branchTarget_eq, ← linkOf_eq, ← setG_goto_eq]
    rfl

theorem jalrTarget_eq (x : Word) (i : BitVec 15) : jalrTarget x i = BitVec.ofInt 52 (x.toInt + i.toInt) := by
  rw [jalrTarget, add_sImm, setWidth_ofInt (by decide)]

/-- Settles O16: the target is computed from g[a] before g[d] is written, and its low two bits decide. -/
theorem jumpThroughRegister : Obligations.JumpThroughRegister := by
  rintro d a i s t rfl
  have e : (jalrTarget (s.gr a) i).toNat % 4 = bits (jalrTarget (s.gr a) i) 0 2 := (bits_zero _ 2).symm
  rw [← jalrTarget_eq, e, ← linkOf_eq, ← setG_goto_eq]
  constructor <;> intro h <;> show execJalr d a i s = _
  · simp only [execJalr, h, ne_eq, not_true, if_false]
  · simp only [execJalr, h, ne_eq, not_false_eq_true, if_true]
    rfl

theorem instrOf_of_badLoop {w : BitVec 32} (hm : fMajor w = 0x19) (h : fD w = 0 ∨ fA w ≠ 0) : instrOf w = .illegal w := by
  obtain ⟨e, he⟩ : ∃ e, decodeLoop w = .error e := by
    unfold decodeLoop
    split
    · next ha => exact ⟨_, if_pos (h.resolve_right (not_not_intro ha))⟩
    · exact ⟨_, rfl⟩
  exact instrOf_of_error ((decode_19 hm).trans he)

/-- Settles O17: the count goes down in the register, and its new value decides; a word of LOOP with other fields is refused. -/
theorem loopCountsDown : Obligations.LoopCountsDown := by
  refine ⟨?_, fun w => instrOf_of_badLoop⟩
  rintro a o s n - rfl
  have e : BitVec.ofInt 64 ((s.gr a).toInt - 1) = s.gr a - 1 := ofInt_sub_toInt (s.gr a) 1
  rw [e, ← branchTarget_eq]
  constructor <;> intro h <;> show execLoop a o s = _
  · simp only [execLoop, h, ne_eq, not_false_eq_true, if_true, setG_goto_eq]
  · simp only [execLoop, h, ne_eq, not_true, if_false, done, State.advance, setG_goto_eq]
    simp

end Sys2Proof.Machine
end

section
/-!
SUPPORT. Stores of barrel threads: the checked access, the entry it takes and what it leaves unchanged.
-/
namespace Sys2Proof.Machine

/-! ### Stores of barrel threads (R85, R155, R174) -/

theorem Thread.not_onControl_of_onBarrel {t : Thread} (h : t.onBarrel = true) : t.onControl = false := by
  unfold Thread.onBarrel at h
  unfold Thread.onControl
  split at h <;> simp_all

/-- Opening the version that a write will perform on changes the versions alone (R262). -/
theorem State.openVersion_frame (s : State) (pa : Nat) : ∃ v, s.openVersion pa = { s with vers := v } := by
  unfold State.openVersion State.makeVersion
  split
  · split <;> exact ⟨_, rfl⟩
  · exact ⟨_, rfl⟩

/-- A store of a barrel thread outside its own TCM takes an entry (R85, R155). -/
theorem State.enter_of_barrel {s : State} {pa : Nat} (va : Word) (n v : Nat) (q : StoreQual) (hb : s.th.onBarrel = true)
    (hown : s.ownTcm pa = false) : ∃ (x : StoreEntry) (k : Vector Ctx 16),
      s.enter va pa n v (storeKindOf q) = { s with ctxs := k, nextSt := s.nextSt + 1, sbuf := s.sbuf ++ [x] } ∧
      x.pa = pa ∧ x.size = n ∧ x.data = BitVec.ofNat 128 v ∧ x.core = s.th.core ∧ x.slot = s.th.slot ∧ x.ctx = s.th.cx ∧
      x.hyp = s.th.thyp ∧ x.kind = storeKindOf q := by
  have hctl := Thread.not_onControl_of_onBarrel hb
  obtain ⟨k, hk⟩ : ∃ k, State.tokenUsed { s with nextSt := s.nextSt + 1 } pa = { s with nextSt := s.nextSt + 1, ctxs := k } :=
    ⟨_, State.tokenUsed_ctxs _ pa⟩
  have hown' : State.ownTcm { s with nextSt := s.nextSt + 1, ctxs := k } pa = false := hown
  unfold State.enter
  simp only [hk, hctl, Bool.false_eq_true, false_or]
  rw [if_neg (by cases q <;> simp [storeKindOf, hown'])]
  exact ⟨_, k, rfl, rfl, rfl, rfl, rfl, rfl, rfl, rfl, rfl⟩

/-- What a store that takes an entry changes: the entry `x` joins the buffer and the pc moves; beside that only the floor, stamps,
versions, tokens of contexts and the serial number of entries. -/
structure Stored (s t : State) (x : StoreEntry) : Prop where
  entry : t.sbuf = s.sbuf ++ [x]
  thread : t.th = { s.th with pc := s.th.pc + 4, pass := false, mid := false, floor := t.th.floor }
  module : t = { s with th := t.th, stamps := t.stamps, vers := t.vers, ctxs := t.ctxs, nextSt := t.nextSt, sbuf := t.sbuf }

theorem Stored.anyWatch {s t : State} {x : StoreEntry} (h : Stored s t x) : t.anyWatch = s.anyWatch := by
  obtain ⟨-, hth, hm⟩ := h
  rw [hm]
  unfold State.anyWatch State.threads
  dsimp only
  rw [hth]
  rfl

/-- The state in which a store has asked the home for the granule's tag, where the core does not hold it. -/
def State.storeAsked (s : State) (pa : Nat) : State :=
  if s.tagHeld pa ∨ !s.isLocal pa then s else s.exchange (homeKey (offsetOf pa))

theorem State.storeAsked_frame (s : State) (pa : Nat) : ∃ (f : Word) (st : Sparse Word),
    s.storeAsked pa = { s with th := { s.th with floor := f }, stamps := st } := by
  unfold State.storeAsked
  split
  · exact ⟨_, _, rfl⟩
  · obtain ⟨f, st, e, -⟩ := s.exchange_frame (homeKey (offsetOf pa))
    exact ⟨f, st, e⟩

/-- A store whose checks to step 9 have passed, with its tag right and nothing to wait for, takes its entry. -/
theorem State.storeAt_of_clear {s : State} {p : Word} {pa : Nat} (ea : Word) (n v : Nat) (q : StoreQual) (hb : s.th.onBarrel = true)
    (hown : s.ownTcm pa = false) (htag : s.tagSeen pa = BitVec.ofNat 4 (p.toNat / 2 ^ 60)) (hwait : s.storeWait ea pa = none) :
    ∃ (t : State) (x : StoreEntry), s.storeAt p ea pa n v (storeKindOf q) = .ok t ∧ Stored s t x ∧
      x.pa = pa ∧ x.size = n ∧ x.data = BitVec.ofNat 128 v ∧ x.core = s.th.core ∧ x.slot = s.th.slot ∧ x.ctx = s.th.cx ∧
      x.hyp = s.th.thyp ∧ x.kind = storeKindOf q := by
  obtain ⟨f, st, hasked⟩ := s.storeAsked_frame pa
  obtain ⟨vs, hver⟩ := State.openVersion_frame { s with th := { s.th with floor := f }, stamps := st } pa
  obtain ⟨x, k, henter, hx⟩ := State.enter_of_barrel
    (s := { s with th := { s.th with floor := f }, stamps := st, vers := vs }) ea n v q hb hown
  have h : s.storeAt p ea pa n v (storeKindOf q) =
      .ok (((s.storeAsked pa).openVersion pa).enter ea pa n v (storeKindOf q)).advance := by
    unfold State.storeAt
    rw [State.tagCheck_of_eq htag]
    simp only [hwait]
    rfl
  rw [hasked, hver, henter] at h
  exact ⟨_, x, h, ⟨rfl, rfl, rfl⟩, hx⟩

/-- With no token, version slot or buffer entry to wait for, a store does not wait. -/
theorem State.storeWait_of_none {s : State} {pa : Nat} (va : Word) (htok : s.tokenNeeded pa = none)
    (hver : s.versionBlocked pa = false) (hroom : s.bufferFull = false) : s.storeWait va pa = none := by
  simp [State.storeWait, htok, hver, hroom]

/-- A row of the table of stores: an instruction that stores the low bytes of a number, and those bytes. -/
def IsStore (s : State) (b : Reg) (q : StoreQual) (o : BitVec 12) (e : Instr × Nat × Bool × Bool × Nat) : Prop :=
  e.2.1 ≤ 16 ∧ ∃ v, exec e.1 s = storeTurn s e.2.1 q e.2.2.1 e.2.2.2.1 b o v ∧ e.2.2.2.2 = v % 2 ^ (8 * e.2.1)

theorem IsStore.row {s : State} {b : Reg} {q : StoreQual} {o : BitVec 12} {i : Instr} {n : Nat} {reg port : Bool} {low v : Nat}
    (hn : n ≤ 16) (hex : exec i s = storeTurn s n q reg port b o v) (hlow : low = v % 2 ^ (8 * n)) :
    IsStore s b q o (i, n, reg, port, low) :=
  ⟨hn, v, hex, hlow⟩

/-- A store to another module's memory waits for the response that its tag check needs (R148). -/
theorem storeTurn_of_remote {s : State} {n : Nat} {q : StoreQual} {reg port : Bool} {b : Reg} {o : BitVec 12} (v : Nat) {pa : Nat}
    (hc : s.check (s.gr b) (effective (s.gr b) o n) (storeReq n q reg port) = .error (.wait (.remote true pa 0 none))) :
    storeTurn s n q reg port b o v = .next { s with th := { s.th with
      st := .wait, wait := .remote true pa (withTop (s.gr b) (effective (s.gr b) o n)) none, mid := true } } := by
  unfold storeTurn
  simp only [hc]
  rfl

/-- A store that completes. -/
theorem storeTurn_completes {s : State} {n : Nat} {q : StoreQual} {reg port : Bool} {b : Reg} {o : BitVec 12} (v : Nat) {pa : Nat}
    (hc : s.check (s.gr b) (effective (s.gr b) o n) (storeReq n q reg port) = .ok pa)
    (hd : (s.isLocal pa && spaceOf (offsetOf pa) == .device) = false) (hb : s.th.onBarrel = true) (hown : s.ownTcm pa = false)
    (htag : s.tagSeen pa = BitVec.ofNat 4 ((s.gr b).toNat / 2 ^ 60)) (htok : s.tokenNeeded pa = none)
    (hver : s.versionBlocked pa = false) (hroom : s.bufferFull = false) (hw : s.anyWatch = false) (hst : s.th.st = .run) :
    ∃ (t : State) (x : StoreEntry), storeTurn s n q reg port b o v = .next t ∧ Stored s t x ∧
      x.pa = pa ∧ x.size = n ∧ x.data = BitVec.ofNat 128 (v % 2 ^ (8 * n)) ∧ x.core = s.th.core ∧ x.slot = s.th.slot ∧
      x.ctx = s.th.cx ∧ x.hyp = s.th.thyp ∧ x.kind = storeKindOf q := by
  obtain ⟨t, x, ht, hstored, hx⟩ := State.storeAt_of_clear (withTop (s.gr b) (effective (s.gr b) o n)) n (v % 2 ^ (8 * n)) q hb hown htag
    (State.storeWait_of_none _ htok hver hroom)
  refine ⟨t, x, ?_, hstored, hx⟩
  have hrun : t.th.st ≠ .wait := by rw [hstored.thread, hst]; decide
  unfold storeTurn
  simp only [hc, ht]
  rw [if_neg (by simpa using hd), if_neg hrun, State.touched_of_quiet s _ _ _ _ _ (hstored.anyWatch.trans hw)]

/-- The two words of a pair as one number of 128 bits. -/
theorem pair_mod (v w : Word) : v.toNat + 2 ^ 64 * w.toNat = (v.toNat + 2 ^ 64 * w.toNat) % 2 ^ (8 * 16) := by
  have hv := v.isLt
  have hw := w.isLt
  omega

/-- Settles O39: each row is a turn of `storeTurn`, whose access takes an entry with the low bytes. -/
theorem storesEnterTheBuffer : Obligations.StoresEnterTheBuffer := by
  intro d b q o s pa low pair rows
  have hrows : ∀ e ∈ rows, IsStore s b q o e := by
    simp only [rows, List.forall_mem_cons, List.not_mem_nil, false_imp_iff, implies_true, and_true]
    exact ⟨.row (by decide) rfl rfl, .row (by decide) rfl rfl, .row (by decide) rfl rfl, .row (by decide) rfl rfl,
      .row (by decide) rfl rfl, .row (by decide) rfl rfl, .row (by decide) rfl rfl, .row (by decide) rfl (pair_mod _ _)⟩
  intro e he
  obtain ⟨hn, v, hex, hlow⟩ := hrows e he
  refine ⟨fun hc => hex.trans (storeTurn_of_remote v hc), fun hc hd hb hown htag htok hver hroom hw hst => ?_⟩
  obtain ⟨t, x, ht, ⟨hbuf, hth, hm⟩, hpa, hsize, hdata, hx⟩ := storeTurn_completes v hc hd hb hown htag htok hver hroom hw hst
  have hdata' : x.data.toNat = e.2.2.2.2 := by
    rw [hdata, hlow, BitVec.toNat_ofNat]
    exact Nat.mod_eq_of_lt (Nat.lt_of_lt_of_le (Nat.mod_lt _ (Nat.two_pow_pos _)) (Nat.pow_le_pow_right (by decide) (by omega)))
  obtain ⟨hcore, hslot, hctx, hhyp, hkind⟩ := hx
  exact ⟨t, x, hex.trans ht, hbuf, hpa, hsize, hdata', hcore, hslot, hctx, hhyp, hkind, hth, by rw [hm], by rw [hm], by rw [hm], by rw [hm]⟩

end Sys2Proof.Machine
end

section
/-!
SUPPORT. A state in which the eviction of a cache line changes bytes that the line does not hold dirty.
-/
namespace Sys2Proof.Machine

/-! ### A cache line whose marks name bytes that it does not hold dirty

`whole` is meant to mark only granules that are dirty, but a `State` may hold any line, and a write-back writes every granule that
`whole` marks. -/

/-- The state after reset with a clean copy of line 0 in control core 0's cache: its first byte is 1, no byte is dirty, and its first
granule is marked as written whole. -/
def wholeButClean : State :=
  { State.reset with
    cache := [{ core := .control 0, ctx := 0, line := 0, hyp := 0, data := 1, dirty := 0, tags := 0, tdirty := 0, poison := 0,
                whole := 1, writer := 0 }] }

/-- What a byte of memory holds in the state that an answer gives. -/
def byteAfter (r : Result) (a : Nat) : Option Byte := match r with | .next t => some (t.mem.byte a) | _ => none

/-- The eviction writes the marked granule, whose first byte no mask names. -/
theorem wholeButClean_evicted : byteAfter (exec (.cacheEvict 0) wholeButClean) 0 = some 1 := by decide +kernel

/-- Refutes O56: of an evicted cache line, since no premise ties the marks of granules written whole to the dirty bytes. In
`wholeButClean` the evicted line has no dirty byte, and byte 0 of memory reads 1 after the eviction, and not 0 as before. -/
theorem not_eventsOfThreads : ¬ Obligations.EventsOfThreads := by
  intro h
  obtain ⟨-, -, -, -, -, -, -, -, -, -, -, -, -, -, hevict, -⟩ := h wholeButClean (.control 0) 0 rfl rfl
  obtain ⟨t, ht, -, -, hbyte, -⟩ := hevict 0 _ rfl Mem.wf_cleared (by decide) (by decide)
  have h1 : some (t.mem.byte 0) = some 1 := by
    have e := wholeButClean_evicted
    rw [ht] at e
    exact e
  have h0 : t.mem.byte 0 = 0 := hbyte 0
  rw [h0] at h1
  exact absurd h1 (by decide)

end Sys2Proof.Machine
end

section
/-!
SUPPORT. The end of a floating-point instruction, once for those that write f[d] and once for those that write g[d].
-/
namespace Sys2Proof.Machine

/-! ### What a completed floating-point instruction writes (R113, R128, R143) -/

@[simp] theorem forfeit_th_g (n : Nat) (s : State) : (forfeit n s).th.g = s.th.g := by unfold forfeit; split <;> rfl

@[simp] theorem forfeit_th_f (n : Nat) (s : State) : (forfeit n s).th.f = s.th.f := by unfold forfeit; split <;> rfl

/-- An instruction whose meaning is `doneFloat` writes the bits and raises the flags that `doneFloat` is given. -/
theorem writesF_of_doneFloat {i : Instr} {s : State} {d : Reg} {x : Nat × Flags} {n : Nat} (h : exec i s = doneFloat s d x n) :
    WritesF i s d x.1 x.2 n := by
  refine ⟨_, h, floatStep s (s.setF d (BitVec.ofNat 64 x.1)) x.2 n rfl rfl, ?_, ?_⟩ <;>
    simp only [forfeit_th_g, forfeit_th_f, State.advance, State.goto, raiseFlags_th] <;> rfl

/-- An instruction whose meaning is `doneInt` writes the word and raises the flags that `doneInt` is given. -/
theorem writesG_of_doneInt {i : Instr} {s : State} {d : Reg} {v : Word} {fl : Flags} {n : Nat} (h : exec i s = doneInt s d v fl n) :
    WritesG i s d v fl n := by
  have ht : (s.setG d v).th = { s.th with g := if d = 0 then s.th.g else s.th.g.set d v } := by
    unfold State.setG Thread.setG
    split <;> rfl
  refine ⟨_, h, floatStep s (s.setG d v) fl n rfl (by rw [ht]), ?_, ?_⟩ <;>
    simp only [forfeit_th_g, forfeit_th_f, State.advance, State.goto, raiseFlags_th, ht]

theorem writesF_of_eq {i : Instr} {s : State} {d : Reg} {x : Nat × Flags} {v n : Nat} {fl : Flags} (hx : x = (v, fl))
    (h : exec i s = doneFloat s d x n) : WritesF i s d v fl n := by
  subst hx
  exact writesF_of_doneFloat h

theorem writesG_of_eq {i : Instr} {s : State} {d : Reg} {v w : Word} {fl fl' : Flags} {n : Nat} (hv : v = w) (hf : fl = fl')
    (h : exec i s = doneInt s d v fl n) : WritesG i s d w fl' n := by
  subst hv hf
  exact writesG_of_doneInt h

/-! ### The operands and turns of the arithmetic (R113, R131, R132, R143) -/

theorem State.fbits_eq (s : State) (t : FType) (r : Reg) : s.fbits t r = (s.fr r).toNat % 2 ^ (fmtOf t).width := bits_zero ..

/-- With FZ a subnormal source is read as a zero of its sign. -/
theorem State.fsource_of_fz {s : State} {t : FType} {r : Reg} {g : Bool} {n : Nat} {e : Int} (hz : s.fz = true)
    (hd : s.fdatum t r = .fin g n e) (hn : n < 2 ^ (fmtOf t).fb) : s.fsource t r = .fin g 0 e := by
  rw [State.fsource, if_pos hz, hd]
  exact if_pos hn

theorem State.normTurns_eq (s : State) (t : FType) (rs : List Reg) : s.normTurns t rs =
    if s.th.tmode.getLsbD 3 = false ∧ ∃ k ∈ rs, isSubnormal (fmtOf t) ((s.fr k).toNat % 2 ^ (fmtOf t).width) = true then 4 else 0 := by
  simp only [State.normTurns, State.fz, bit, State.fbits_eq, Bool.not_eq_true', List.any_eq_true]

/-- Settles O30: each instruction is `doneFloat` of its operation. -/
theorem floatArithmetic : Obligations.FloatArithmetic := by
  intro t d a b c r s f m x y z norm long gives
  have hlong : divTurns t = long := by cases t <;> rfl
  refine ⟨writesF_of_doneFloat rfl, writesF_of_doneFloat rfl, writesF_of_doneFloat rfl, ?_, ?_, writesF_of_doneFloat rfl,
    writesF_of_doneFloat rfl, writesF_of_doneFloat rfl, writesF_of_doneFloat rfl, s.normTurns_eq t,
    fun hz g n e hd hn => State.fsource_of_fz hz hd hn, fun _ _ _ _ => rfl⟩
  · rw [← hlong]
    exact writesF_of_doneFloat rfl
  · rw [← hlong]
    exact writesF_of_doneFloat rfl

end Sys2Proof.Machine
end

section
/-!
SUPPORT. Rounding to a multiple of a power of two, and of the values that a format holds.
-/
namespace Sys2Proof.Machine

/-! ### A multiple of a power of two (R125) -/

/-- Whether a mode takes the next multiple, by the rest `t` above the multiple `n` of the unit `u`. -/
def RestRoundsUp (r : Round) (g : Bool) (n : Nat) (t u : ℚ) : Prop :=
  t ≠ 0 ∧ match r with
    | .rne => u < 2 * t ∨ 2 * t = u ∧ n % 2 = 1
    | .rna => u ≤ 2 * t
    | .rtz => False
    | .rup => g = false
    | .rdn => g = true

theorem roundsUp_iff_rest {r : Round} {g : Bool} {n : Nat} {t u : ℚ} :
    roundsUp r g n (decide (t = 0)) (compare (2 * t) u) = true ↔ RestRoundsUp r g n t u := by
  by_cases ht : t = 0
  · simp [roundsUp, RestRoundsUp, ht]
  · cases r <;> simp [roundsUp, RestRoundsUp, ht, compare_gt_iff_gt, compare_lt_iff_lt]

/-- Scaling by a power of two does not change how a rest compares with one half of its unit. -/
theorem compare_twice_scaled (k d : Nat) {w : ℚ} (hw : 0 < w) :
    compare (2 * ((k : ℚ) * w)) ((2 ^ (d + 1) : Nat) * w) = compare k (2 ^ d) := by
  have h1 : 2 * ((k : ℚ) * w) = (k : ℚ) * (2 * w) := by ring
  have h2 : ((2 ^ (d + 1) : Nat) : ℚ) * w = ((2 ^ d : Nat) : ℚ) * (2 * w) := by push_cast; ring
  rw [h1, h2]
  rcases lt_trichotomy k (2 ^ d) with h | h | h
  · rw [compare_lt_iff_lt.2 h, compare_lt_iff_lt]
    exact mul_lt_mul_of_pos_right (Nat.cast_lt.2 h) (by positivity)
  · rw [compare_eq_iff_eq.2 h, h, compare_eq_iff_eq]
  · rw [compare_gt_iff_gt.2 h, compare_gt_iff_gt]
    exact mul_lt_mul_of_pos_right (Nat.cast_lt.2 h) (by positivity)

/-- With a unit above the last place, `quantise` divides by the unit and goes by the remainder. -/
theorem quantise_of_lt (r : Round) (g : Bool) (m d : Nat) {e q : Int} (hq : q = e + (d + 1 : Nat)) :
    quantise r g m e false q =
      (if roundsUp r g (m / 2 ^ (d + 1)) (decide (m % 2 ^ (d + 1) = 0)) (compare (m % 2 ^ (d + 1)) (2 ^ d)) then m / 2 ^ (d + 1) + 1
        else m / 2 ^ (d + 1), decide (m % 2 ^ (d + 1) = 0)) := by
  have hd : (q - e).toNat = d + 1 := by omega
  have hle : ¬ q ≤ e := by omega
  simp only [quantise, hle, if_false, hd, Nat.add_sub_cancel, Bool.not_false, Bool.and_true, beq_eq_decide, decide_eq_true_eq, compare,
    compareOfLessAndEq]
  rfl

/-- A magnitude is its greatest multiple of the unit and a rest below the unit, and the rest decides the rounding. -/
theorem quantise_eq_floor (r : Round) (g : Bool) (m : Nat) (e q : Int) : ∃ (N : Nat) (t : ℚ),
    0 ≤ t ∧ t < (2 : ℚ) ^ q ∧ m * (2 : ℚ) ^ e = N * 2 ^ q + t ∧
      quantise r g m e false q = (if roundsUp r g N (decide (t = 0)) (compare (2 * t) (2 ^ q)) then N + 1 else N, decide (t = 0)) := by
  have hw : (0 : ℚ) < 2 ^ e := by positivity
  by_cases hq : q ≤ e
  · refine ⟨m * 2 ^ (e - q).toNat, 0, le_rfl, by positivity, ?_, by simp [quantise, hq, roundsUp]⟩
    have he : (2 : ℚ) ^ e = 2 ^ (e - q).toNat * 2 ^ q := by
      rw [← zpow_natCast, ← zpow_add₀ two_ne_zero]
      congr 1
      omega
    rw [he]
    push_cast
    ring
  · obtain ⟨d, rfl⟩ : ∃ d : Nat, q = e + (d + 1 : Nat) := ⟨(q - e).toNat - 1, by omega⟩
    have hu : (2 : ℚ) ^ (e + (d + 1 : Nat)) = (2 ^ (d + 1) : Nat) * 2 ^ e := by
      rw [zpow_add₀ two_ne_zero, zpow_natCast, mul_comm, Nat.cast_pow, Nat.cast_ofNat]
    have hzero : (((m % 2 ^ (d + 1) : Nat) : ℚ) * 2 ^ e = 0) = (m % 2 ^ (d + 1) = 0) := by simp [hw.ne']
    refine ⟨m / 2 ^ (d + 1), (m % 2 ^ (d + 1) : Nat) * 2 ^ e, by positivity, ?_, ?_, ?_⟩
    · rw [hu]
      exact mul_lt_mul_of_pos_right (Nat.cast_lt.2 (Nat.mod_lt _ (Nat.two_pow_pos _))) hw
    · rw [hu, ← mul_assoc, ← add_mul]
      exact congrArg (· * _) (mod_cast (Nat.div_add_mod' m _).symm)
    · simp only [hu, hzero, compare_twice_scaled _ _ hw]
      exact quantise_of_lt r g m d rfl

/-- What `quantise` gives: the greatest multiple, or the next one where the rest rounds up. -/
theorem quantise_cases {r : Round} {g : Bool} {m n : Nat} {e q : Int} {exact : Bool} (h : (n, exact) = quantise r g m e false q) :
    ∃ (N : Nat) (t : ℚ), 0 ≤ t ∧ t < (2 : ℚ) ^ q ∧ m * (2 : ℚ) ^ e = N * 2 ^ q + t ∧ (exact = true ↔ t = 0) ∧
      (RestRoundsUp r g N t (2 ^ q) ∧ n = N + 1 ∨ ¬ RestRoundsUp r g N t (2 ^ q) ∧ n = N) := by
  obtain ⟨N, t, ht0, htu, hx, hq⟩ := quantise_eq_floor r g m e q
  obtain ⟨hn, rfl⟩ := Prod.mk.inj (h.trans hq)
  refine ⟨N, t, ht0, htu, hx, decide_eq_true_iff, ?_⟩
  rw [← roundsUp_iff_rest]
  split at hn
  · next hup => exact .inl ⟨hup, hn⟩
  · next hdown => exact .inr ⟨hdown, hn⟩

/-- Settles O33: the multiple is the greatest one, or the next where the rest rounds up; each clause is linear in the rest. -/
theorem roundingOfMultiples : Obligations.RoundingOfMultiples := by
  intro r g m n e q exact h x u
  obtain ⟨N, t, ht0, htu, hx, hexact, hn⟩ : ∃ (N : Nat) (t : ℚ), 0 ≤ t ∧ t < u ∧ x = N * u + t ∧ (exact = true ↔ t = 0) ∧
    (RestRoundsUp r g N t u ∧ n = N + 1 ∨ ¬ RestRoundsUp r g N t u ∧ n = N) := quantise_cases h
  clear_value x u
  subst hx
  rw [hexact]
  obtain ⟨⟨hz, hmode⟩, rfl⟩ | ⟨hdown, rfl⟩ := hn
  · have ht : 0 < t := lt_of_le_of_ne ht0 (Ne.symm hz)
    have hup : ((N + 1 : Nat) : ℚ) * u = N * u + u := by push_cast; ring
    clear h hexact
    cases r <;> grind
  · have hnext : ((n : ℚ) + 1) * u = n * u + u := by ring
    clear h hexact
    unfold RestRoundsUp at hdown
    cases r <;> grind

end Sys2Proof.Machine
end

section
/-!
SUPPORT. Finite values of a format: their bit patterns, and rounding them to the format they come from.
-/
namespace Sys2Proof.Machine

/-! ### The finite values of a format (R110, R111) -/

/-- Above a pattern's exponent field stands its sign bit alone. -/
theorem div_signPlace_lt {f : Fmt} {x : Nat} (hx : x < 2 ^ f.width) : x / 2 ^ (f.fb + f.eb) < 2 := by
  rw [Nat.div_lt_iff_lt_mul (Nat.two_pow_pos _), ← Nat.pow_succ']
  exact hx.trans_eq (congrArg _ (by unfold Fmt.width; omega))

/-- A bit pattern is its fraction, its exponent field and its sign bit. -/
theorem bits_of_fields {f : Fmt} {x : Nat} (hx : x < 2 ^ f.width) :
    x = signBit f ((x / 2 ^ (f.fb + f.eb)) % 2 = 1) + (x / 2 ^ f.fb) % 2 ^ f.eb * 2 ^ f.fb + x % 2 ^ f.fb := by
  have hsign := div_signPlace_lt hx
  have hs : signBit f ((x / 2 ^ (f.fb + f.eb)) % 2 = 1) = x / 2 ^ (f.fb + f.eb) * 2 ^ (f.fb + f.eb) := by
    unfold signBit
    generalize x / 2 ^ (f.fb + f.eb) = k at hsign
    interval_cases k <;> simp
  have hpow : 2 ^ (f.fb + f.eb) = 2 ^ f.eb * 2 ^ f.fb := by rw [add_comm, Nat.pow_add]
  have h1 := Nat.div_add_mod' x (2 ^ f.fb)
  have h2 := Nat.div_add_mod' (x / 2 ^ f.fb) (2 ^ f.eb)
  rw [Nat.div_div_eq_div_mul, mul_comm (2 ^ f.fb), ← hpow] at h2
  rw [hs, hpow, ← mul_assoc, ← hpow, ← add_mul, h2, h1]

/-- A pattern of a finite value has a subnormal magnitude at exponent field 0, else a normal one below the top field. -/
theorem unpack_eq_fin {f : Fmt} {x : Nat} {g : Bool} {m : Nat} {e : Int} (hx : x < 2 ^ f.width) (h : unpack f x = .fin g m e) :
    (m < 2 ^ f.fb ∧ e = 1 - f.bias - f.fb ∧ x = signBit f g + m) ∨
    ∃ E F, 0 < E ∧ E < f.eTop ∧ F < 2 ^ f.fb ∧ m = 2 ^ f.fb + F ∧ e = E - f.bias - f.fb ∧ x = signBit f g + E * 2 ^ f.fb + F := by
  have hbits := bits_of_fields hx
  have hF : x % 2 ^ f.fb < 2 ^ f.fb := Nat.mod_lt _ (Nat.two_pow_pos _)
  have hE : (x / 2 ^ f.fb) % 2 ^ f.eb < 2 ^ f.eb := Nat.mod_lt _ (Nat.two_pow_pos _)
  simp only [unpack] at h
  split at h
  · split at h <;> cases h
  · next htop =>
    split at h
    · next h0 =>
      obtain ⟨rfl, rfl, rfl⟩ := Datum.fin.inj h
      rw [h0, Nat.zero_mul, Nat.add_zero] at hbits
      exact .inl ⟨hF, rfl, hbits⟩
    · next h0 =>
      obtain ⟨rfl, rfl, rfl⟩ := Datum.fin.inj h
      unfold Fmt.eTop at htop ⊢
      exact .inr ⟨_, _, by omega, by omega, hF, rfl, rfl, hbits⟩

/-! ### Rounding a value of the format (R125) -/

/-- A magnitude at or above the unit is a multiple of it. -/
theorem quantise_of_le (r : Round) (g : Bool) (m : Nat) {e q : Int} (h : q ≤ e) :
    quantise r g m e false q = (m * 2 ^ (e - q).toNat, true) := by
  simp [quantise, h, roundsUp]

/-- A magnitude whose exponent is that of its last place in the format is kept, and gives the fields of its pattern. -/
theorem roundFin_of_lastPlace {f : Fmt} (r : Round) (g : Bool) {m : Nat} {e : Int} (h0 : m ≠ 0) (hm : m < 2 ^ f.prec)
    (hq : max ((m.log2 : Int) + e - f.fb) (1 - f.bias - f.fb) = e) : roundFin f r false g m e false =
      if m < 2 ^ f.fb then (signBit f g + m, 0)
      else if e + f.fb + f.bias ≥ f.eTop then (overflowBits f r g, fOF ||| fNX)
      else (signBit f g + (e + f.fb + f.bias).toNat * 2 ^ f.fb + (m - 2 ^ f.fb), 0) := by
  simp [roundFin, h0, hm.ne, hq, quantise_of_le _ _ _ (le_refl _)]

/-- A magnitude that fits the fraction, at the exponent of the subnormals, keeps its bits. -/
theorem roundFin_subnormal {f : Fmt} (r : Round) (g : Bool) {m : Nat} (hm : m < 2 ^ f.fb) :
    roundFin f r false g m (1 - f.bias - f.fb) false = (signBit f g + m, 0) := by
  by_cases h0 : m = 0
  · subst h0; rfl
  · have hlog : m.log2 < f.fb := (Nat.log2_lt h0).2 hm
    have hprec : m < 2 ^ f.prec := hm.trans (Nat.pow_lt_pow_right (by decide) (Nat.lt_succ_self _))
    rw [roundFin_of_lastPlace r g h0 hprec (by omega), if_pos hm]

/-- A normal magnitude below the top exponent field keeps its fraction and its exponent field. -/
theorem roundFin_normal {f : Fmt} (r : Round) (g : Bool) {E F : Nat} (h0 : 0 < E) (hE : E < f.eTop) (hF : F < 2 ^ f.fb) :
    roundFin f r false g (2 ^ f.fb + F) (E - f.bias - f.fb) false = (signBit f g + E * 2 ^ f.fb + F, 0) := by
  have hpos : 2 ^ f.fb + F ≠ 0 := (Nat.add_pos_left (Nat.two_pow_pos _) _).ne'
  have hprec : 2 ^ f.fb + F < 2 ^ (f.fb + 1) := by omega
  have hlog : (2 ^ f.fb + F).log2 = f.fb := (Nat.log2_eq_iff hpos).2 ⟨Nat.le_add_right _ _, hprec⟩
  have hbe : (E : Int) - f.bias - f.fb + f.fb + f.bias = E := by omega
  rw [roundFin_of_lastPlace r g hpos hprec (by omega), if_neg (by omega), if_neg (by omega), hbe, Int.toNat_natCast,
    Nat.add_sub_cancel_left]

/-- Settles O34: a finite pattern is of a subnormal or of a normal value, and each rounds to its own fields. -/
theorem representableValuesStay : Obligations.RepresentableValuesStay := by
  intro t r x g m e hx h
  obtain ⟨hm, rfl, rfl⟩ | ⟨E, F, h0, hE, hF, rfl, rfl, rfl⟩ := unpack_eq_fin hx h
  · exact roundFin_subnormal r g hm
  · exact roundFin_normal r g h0 hE hF

end Sys2Proof.Machine
end

section
/-!
SUPPORT. Signs, comparisons, classes and conversions of floating-point data.
-/
namespace Sys2Proof.Machine

/-! ### Sign bits (R133) -/

theorem Fmt.width_sub_one (f : Fmt) : f.width - 1 = f.fb + f.eb := by unfold Fmt.width; omega

/-- A pattern below the place of its sign bit is of a positive datum, and one from there up of a negative one. -/
theorem signOf_cases {f : Fmt} {x : Nat} (hx : x < 2 ^ f.width) :
    (signOf f x = false ∧ x < 2 ^ (f.width - 1) ∧ x / 2 ^ (f.width - 1) = 0) ∨
    (signOf f x = true ∧ 2 ^ (f.width - 1) ≤ x ∧ x / 2 ^ (f.width - 1) = 1) := by
  have hlt := div_signPlace_lt hx
  have hpos := Nat.two_pow_pos (f.fb + f.eb)
  rw [f.width_sub_one, signOf]
  rcases Nat.lt_or_ge x (2 ^ (f.fb + f.eb)) with h | h
  · have h0 := Nat.div_eq_of_lt h
    exact .inl ⟨by rw [h0]; rfl, h, h0⟩
  · have h1 : x / 2 ^ (f.fb + f.eb) = 1 := Nat.le_antisymm (Nat.le_of_lt_succ hlt) (Nat.div_pos h hpos)
    exact .inr ⟨by rw [h1]; rfl, h, h1⟩

theorem withSign_eq (f : Fmt) (x : Nat) (g : Bool) :
    withSign f x g = x % 2 ^ (f.width - 1) + if g then 2 ^ (f.width - 1) else 0 := by
  rw [f.width_sub_one]
  rfl

theorem withSign_false (f : Fmt) (x : Nat) : withSign f x false = x % 2 ^ (f.width - 1) := withSign_eq f x false

theorem withSign_signOf {f : Fmt} (x : Nat) {y : Nat} (hy : y < 2 ^ f.width) :
    withSign f x (signOf f y) = x % 2 ^ (f.width - 1) + y / 2 ^ (f.width - 1) * 2 ^ (f.width - 1) := by
  rw [withSign_eq]
  obtain ⟨hs, -, hq⟩ | ⟨hs, -, hq⟩ := signOf_cases hy <;> simp [hs, hq]

theorem withSign_not_signOf {f : Fmt} {x : Nat} (hx : x < 2 ^ f.width) :
    withSign f x (!signOf f x) = if x < 2 ^ (f.width - 1) then x + 2 ^ (f.width - 1) else x - 2 ^ (f.width - 1) := by
  have hmod := Nat.div_add_mod' x (2 ^ (f.width - 1))
  rw [withSign_eq]
  obtain ⟨hs, hlt, hq⟩ | ⟨hs, hge, hq⟩ := signOf_cases hx
  · rw [hs, Nat.mod_eq_of_lt hlt, if_pos hlt]
    rfl
  · rw [hq] at hmod
    rw [hs, if_neg (Nat.not_lt.2 hge)]
    simp only [Bool.not_true, Bool.false_eq_true, if_false]
    omega

/-! ### NaNs, the lesser and the greater (R133) -/

theorem Datum.isSig_of_not_nan {x : Datum} (h : x.isNan = false) : x.isSig = false := by
  cases x <;> simp_all [Datum.isNan, Datum.isSig]

/-- The flags of an operation that a signalling NaN alone makes invalid. -/
theorem flags_of_signalling (a b : Datum) :
    (if a.isSig || b.isSig then fNV else 0) = if a.isSig = true ∨ b.isSig = true then (16 : Flags) else 0 := by
  simp only [Bool.or_eq_true, fNV]

theorem minMax_of_not_nan {f : Fmt} {x y : Nat} (least : Bool) (hx : (unpack f x).isNan = false) (hy : (unpack f y).isNan = false) :
    ∃ v, minMax f least x y = (v, 0) ∧ (v = x ∨ v = y) ∧ (cmpData (unpack f x) (unpack f y) = .lt → v = if least then x else y) ∧
      (cmpData (unpack f x) (unpack f y) = .gt → v = if least then y else x) := by
  simp only [minMax, hx, hy, Datum.isSig_of_not_nan hx, Datum.isSig_of_not_nan hy, Bool.or_self, Bool.and_self, Bool.false_eq_true,
    if_false]
  cases h : cmpData (unpack f x) (unpack f y) with
  | lt => cases least <;> simp
  | gt => cases least <;> simp
  | eq => exact ⟨_, rfl, by split <;> simp, nofun, nofun⟩

/-- With a NaN among the operands, the other operand, or the canonical NaN where both are. -/
theorem minMax_of_nan {f : Fmt} {x y : Nat} (least : Bool) (h : (unpack f x).isNan = true ∨ (unpack f y).isNan = true) :
    minMax f least x y =
      (if (unpack f x).isNan then if (unpack f y).isNan then canonNan f else y else x,
       if (unpack f x).isSig = true ∨ (unpack f y).isSig = true then 16 else 0) := by
  simp only [minMax, flags_of_signalling]
  cases hx : (unpack f x).isNan <;> cases hy : (unpack f y).isNan <;> simp_all

/-! ### Comparisons (R133) -/

theorem compare_of_nan {a b : Datum} (h : a.isNan = true ∨ b.isNan = true) :
    compareEq a b = (false, if a.isSig = true ∨ b.isSig = true then 16 else 0) ∧ compareLt a b = (false, 16) ∧
      compareLe a b = (false, 16) := by
  rw [← Bool.or_eq_true] at h
  rw [← flags_of_signalling]
  exact ⟨if_pos h, if_pos h, if_pos h⟩

theorem compare_of_not_nan {a b : Datum} (h : ¬ (a.isNan = true ∨ b.isNan = true)) :
    compareEq a b = (decide (cmpData a b = .eq), 0) ∧ compareLt a b = (decide (cmpData a b = .lt), 0) ∧
      compareLe a b = (decide (cmpData a b ≠ .gt), 0) := by
  rw [← Bool.or_eq_true] at h
  rw [← beq_eq_decide, ← beq_eq_decide, decide_not, ← beq_eq_decide]
  exact ⟨if_neg h, if_neg h, if_neg h⟩

theorem writesG_of_compare {i : Instr} {s : State} {d : Reg} {x : Bool × Flags} {p : Bool} {fl : Flags} {n : Nat} (hx : x = (p, fl))
    (h : exec i s = doneInt s d (Word.ofBool x.1) x.2 n) : WritesG i s d (Word.ofBool p) fl n := by
  subst hx
  exact writesG_of_doneInt h

/-! ### Classes (R135) -/

/-- The class mask has one bit: of a NaN or an infinity the bit that R135 gives it, of a finite value one of bits 1 to 6. -/
theorem classMask_eq_two_pow (f : Fmt) (x : Nat) : ∃ k, k < 10 ∧ classMask f x = 2 ^ k ∧ (k = 9 ↔ unpack f x = .nan false) ∧
    (k = 8 ↔ unpack f x = .nan true) ∧ (k = 7 ↔ unpack f x = .inf false) ∧ (k = 0 ↔ unpack f x = .inf true) := by
  unfold classMask
  cases unpack f x with
  | nan sig => cases sig <;> [refine ⟨9, ?_⟩; refine ⟨8, ?_⟩] <;> simp
  | inf g => cases g <;> [refine ⟨7, ?_⟩; refine ⟨0, ?_⟩] <;> simp
  | fin g m e =>
    obtain ⟨k, h0, h7, hk⟩ : ∃ k, 0 < k ∧ k < 7 ∧ (if m = 0 then (if g then 2 ^ 3 else 2 ^ 4)
        else if isSubnormal f x then (if g then 2 ^ 2 else 2 ^ 5) else (if g then 2 ^ 1 else 2 ^ 6)) = 2 ^ k := by
      split_ifs
      · exact ⟨3, by decide, by decide, rfl⟩
      · exact ⟨4, by decide, by decide, rfl⟩
      · exact ⟨2, by decide, by decide, rfl⟩
      · exact ⟨5, by decide, by decide, rfl⟩
      · exact ⟨1, by decide, by decide, rfl⟩
      · exact ⟨6, by decide, by decide, rfl⟩
    refine ⟨k, by omega, hk, ?_⟩
    simp only [reduceCtorEq, iff_false]
    omega

/-- Settles O31: each instruction is `doneFloat` or `doneInt` of a function of the operands' bits. -/
theorem signCompareMove : Obligations.SignCompareMove := by
  intro t d a b s w x y hw hx hy A B nan sig
  subst hw
  have hxlt : x < 2 ^ (fmtOf t).width := hx ▸ Nat.mod_lt _ (Nat.two_pow_pos _)
  have hylt : y < 2 ^ (fmtOf t).width := hy ▸ Nat.mod_lt _ (Nat.two_pow_pos _)
  have ha : s.fbits t a = x := (s.fbits_eq t a).trans hx.symm
  have hb : s.fbits t b = y := (s.fbits_eq t b).trans hy.symm
  have hA : s.fdatum t a = A := congrArg _ ha
  have hB : s.fdatum t b = B := congrArg _ hb
  have hfeq : exec (.feq t d a b) s = doneInt s d (Word.ofBool (compareEq A B).1) (compareEq A B).2 0 := by rw [← hA, ← hB]; rfl
  have hflt : exec (.flt t d a b) s = doneInt s d (Word.ofBool (compareLt A B).1) (compareLt A B).2 0 := by rw [← hA, ← hB]; rfl
  have hfle : exec (.fle t d a b) s = doneInt s d (Word.ofBool (compareLe A B).1) (compareLe A B).2 0 := by rw [← hA, ← hB]; rfl
  have hmin : exec (.fmin t d a b) s = doneFloat s d (minMax (fmtOf t) true x y) 0 := by rw [← ha, ← hb]; rfl
  have hmax : exec (.fmax t d a b) s = doneFloat s d (minMax (fmtOf t) false x y) 0 := by rw [← ha, ← hb]; rfl
  obtain ⟨k, hk, hmask, hclass⟩ := classMask_eq_two_pow (fmtOf t) x
  refine ⟨writesF_of_eq (by rw [ha, withSign_false]) rfl, writesF_of_eq (by rw [ha, withSign_not_signOf hxlt]) rfl,
    writesF_of_eq (by rw [ha, hb, withSign_signOf x hylt]) rfl, writesF_of_eq (by rw [bits_zero]) rfl,
    writesG_of_eq (by rw [ha]) rfl rfl, fun hnan => ?_, fun hnan => ?_, fun h1 h2 => ?_, fun h1 h2 => ?_, fun h1 h2 => ?_,
    k, hk, writesG_of_eq (by rw [ha, hmask]) rfl rfl, hclass⟩
  · obtain ⟨heq, hlt, hle⟩ := compare_of_nan hnan
    exact ⟨writesG_of_compare heq hfeq, writesG_of_compare hlt hflt, writesG_of_compare hle hfle⟩
  · obtain ⟨heq, hlt, hle⟩ := compare_of_not_nan hnan
    obtain ⟨hnx, hny⟩ := not_or.1 hnan
    obtain ⟨v, hv, hvmem, hvlt, hvgt⟩ := minMax_of_not_nan true (Bool.eq_false_of_not_eq_true hnx) (Bool.eq_false_of_not_eq_true hny)
    obtain ⟨u, hu, humem, hult, hugt⟩ := minMax_of_not_nan false (Bool.eq_false_of_not_eq_true hnx) (Bool.eq_false_of_not_eq_true hny)
    rw [← Word.ofBool_decide, ← Word.ofBool_decide, ← ite_not, ← Word.ofBool_decide]
    exact ⟨writesG_of_compare heq hfeq, writesG_of_compare hlt hflt, writesG_of_compare hle hfle,
      ⟨v, hvmem, hvlt, hvgt, writesF_of_eq hv hmin⟩, ⟨u, humem, hult, hugt, writesF_of_eq hu hmax⟩⟩
  · have hn : ∀ least, minMax (fmtOf t) least x y = (canonNan (fmtOf t), sig) := fun least => (minMax_of_nan least (.inl h1)).trans (by
      rw [if_pos h1, if_pos h2])
    exact ⟨writesF_of_eq (hn true) hmin, writesF_of_eq (hn false) hmax⟩
  · have hn : ∀ least, minMax (fmtOf t) least x y = (y, sig) := fun least => (minMax_of_nan least (.inl h1)).trans (by
      rw [if_pos h1, if_neg (ne_true_of_eq_false h2)])
    exact ⟨writesF_of_eq (hn true) hmin, writesF_of_eq (hn false) hmax⟩
  · have hn : ∀ least, minMax (fmtOf t) least x y = (x, sig) := fun least => (minMax_of_nan least (.inr h2)).trans (by
      rw [if_neg (ne_true_of_eq_false h1)])
    exact ⟨writesF_of_eq (hn true) hmin, writesF_of_eq (hn false) hmax⟩

/-! ### Conversions (R114, R136) -/

theorem intSource_eq (ty : IntType) (a : Word) : intSource ty a =
    if intSigned ty then (BitVec.ofNat (intWidth ty) a.toNat).toInt else (a.toNat % 2 ^ intWidth ty : Nat) := by
  rw [← BitVec.toNat_ofNat]
  rfl

theorem intMin_le_intMax (ty : IntType) : intMin (intWidth ty) (intSigned ty) ≤ intMax (intWidth ty) (intSigned ty) := by
  cases ty <;> decide

theorem toInteger_nan (w : Nat) (sg : Bool) (r : Round) (q : Bool) : toInteger w sg r (.nan q) = (0, 16) := rfl

theorem toInteger_inf (w : Nat) (sg : Bool) (r : Round) (g : Bool) :
    toInteger w sg r (.inf g) = (if g then intMin w sg else intMax w sg, 16) := rfl

/-- A finite datum as an integer: saturated with NV out of range, else rounded with NX where it changes. -/
theorem toInteger_fin {w : Nat} {sg g x : Bool} {r : Round} {m : Nat} {e n : Int} (h : (n, x) = roundInt r g m e)
    (hrange : intMin w sg ≤ intMax w sg) :
    (intMax w sg < n → toInteger w sg r (.fin g m e) = (intMax w sg, 16)) ∧
    (n < intMin w sg → toInteger w sg r (.fin g m e) = (intMin w sg, 16)) ∧
    (intMin w sg ≤ n → n ≤ intMax w sg → toInteger w sg r (.fin g m e) = (n, if x then 0 else 1)) := by
  simp only [toInteger, ← h]
  refine ⟨fun h1 => if_pos h1, fun h1 => ?_, fun h1 h2 => ?_⟩
  · rw [if_neg (by omega), if_pos h1]
    rfl
  · rw [if_neg (by omega), if_neg (by omega)]
    rfl

theorem writesG_of_integer {i : Instr} {s : State} {d : Reg} {x : Int × Flags} {v : Int} {fl : Flags} {n : Nat} (hx : x = (v, fl))
    (h : exec i s = doneInt s d (BitVec.ofInt 64 x.1) x.2 n) : WritesG i s d (BitVec.ofInt 64 v) fl n := by
  subst hx
  exact writesG_of_doneInt h

/-- Settles O32: FCVT and ICVF round their source's value, and FCVI goes by the case of its datum. -/
theorem conversions : Obligations.Conversions := by
  intro t src d a ty r s
  have hfcvi : ∀ {x}, s.fsource t a = x → exec (.fcvi t d a ty r) s =
      doneInt s d (BitVec.ofInt 64 (toInteger (intWidth ty) (intSigned ty) (s.roundField r) x).1)
        (toInteger (intWidth ty) (intSigned ty) (s.roundField r) x).2 (s.normTurns t [a]) := by
    rintro x rfl
    rfl
  refine ⟨fun v hv => ?_, fun v hv => ?_, intSource_eq ty _, fun q hx => ?_, fun g hx => ?_, fun g m e n x hx hn => ?_⟩
  · subst hv
    exact writesF_of_doneFloat rfl
  · subst hv
    exact writesF_of_doneFloat rfl
  · exact writesG_of_integer (toInteger_nan ..) (hfcvi hx)
  · exact writesG_of_integer (toInteger_inf ..) (hfcvi hx)
  · obtain ⟨hover, hunder, hin⟩ := toInteger_fin hn (intMin_le_intMax ty)
    exact ⟨fun h => writesG_of_integer (hover h) (hfcvi hx), fun h => writesG_of_integer (hunder h) (hfcvi hx),
      fun h1 h2 => writesG_of_integer (hin h1 h2) (hfcvi hx)⟩

end Sys2Proof.Machine
end

section
/-!
SUPPORT. A table load that ends while the flush of the core that its thread left is still under way.
-/
namespace Sys2Proof.Machine

/-! ### The end of a table load ends a pending flush (R141, R197)

TBLD_COMPLETE first ends the flushes of the cores that the thread left, which write their dirty lines back, and then reads what is
left of the image. -/

/-- An image of +0 throughout, all of whose granules have been read. -/
def zeroImage : Sparse (BitVec 128) := (List.range 64).map fun i => (i, 0)

/-- A thread that came from site 1 to slot 0 of site 0 in the midst of a TBLD of slot 1 from its own TCM: site 1 still holds a dirty
byte 1 of line 0, and its flush of the context is not yet acknowledged. -/
def loadingBeforeFlush : State :=
  { State.reset with
    rest := [],
    th := { Thread.blank with
      place := .slot 0 0, ctx := 1, tid := 7, st := .wait, wait := .table 1 0x0C00000040000000 9 zeroImage },
    cache := [{ core := .site 1, ctx := 1, line := 0, hyp := 0, data := 1, dirty := 1, tags := 0, tdirty := 0, poison := 0,
                whole := 0, writer := 0 }],
    flushes := [{ target := .site 1, ctx := 1, tid := 7, place := .slot 0 0, auto := true, way := { src := 0, dst := 0, num := 0 } }] }

theorem zeroImage_whole : ∀ i < 64, (zeroImage.find? fun g => g.1 = i) = some (i, 0) ∧ lineRead zeroImage i = true := by decide +kernel

/-- An image whose granules have all been read is taken as it was read, and the state stays. -/
theorem tableRead_zeroImage (s : State) (p : Word) (k : Nat) : ∀ i acc, i + k ≤ 64 →
    s.tableRead p zeroImage k i acc = (s, .ok (acc ++ List.replicate k 0)) := by
  induction k with
  | zero => intro i acc _; rw [List.replicate_zero, List.append_nil]; rfl
  | succ k ih =>
    intro i acc hi
    obtain ⟨hfind, hline⟩ := zeroImage_whole i (by omega)
    rw [State.tableRead, hfind]
    simp only [hline, Bool.not_true, Bool.false_eq_true, and_false, if_false]
    rw [ih (i + 1) _ (by omega), List.append_assoc]
    rfl

theorem loadingBeforeFlush_ends : byteAfter (exec (.tbldComplete (.slot 0 0)) loadingBeforeFlush) 0 = some 1 := by decide +kernel

theorem imageWords_zero : imageWords (List.replicate 64 0) = List.replicate 256 0 := by decide +kernel

/-- Refutes O35: of a load that ends while a flush of its thread is not acknowledged. In `loadingBeforeFlush` the end of the load writes
the dirty byte of site 1 back, so byte 0 of memory reads 1, and not 0 as after the reading of the image alone. -/
theorem not_decodeTables : ¬ Obligations.DecodeTables := by
  intro h
  obtain ⟨-, -, -, -, -, -, hends, -⟩ := h .f32 0 0 1 loadingBeforeFlush
  obtain ⟨u, hu, -, -, hmem, -⟩ := hends 0x0C00000040000000 9 zeroImage (.slot 0 0) _ _ _ rfl rfl rfl (by decide +kernel)
    (tableRead_zeroImage _ _ 64 0 [] (by decide)) imageWords_zero.symm (fun w hw => List.eq_of_mem_replicate hw ▸ by decide)
    ⟨0, List.mem_replicate.2 ⟨by decide, rfl⟩, by decide +kernel⟩
    (by decide +kernel)
  have h1 : some (u.mem.byte 0) = some 1 := by
    have e := loadingBeforeFlush_ends
    rw [hu] at e
    exact e
  rw [hmem] at h1
  exact absurd h1 (by decide +kernel)

end Sys2Proof.Machine
end

section
/-!
SUPPORT. The checks on a thread's access in their order, and what a load or store does that one of them refuses.
-/
namespace Sys2Proof.Machine

/-! ### Effective addresses (R144, R230) -/

/-- The effective address of an access of eight bytes as an integer sum modulo 2^52. -/
theorem effective_eq_of_sum {p : Word} {o : BitVec 12} {ea : Nat}
    (h : (ea : Int) = ((p.toNat % 2 ^ 52 : Nat) + o.toInt * 8) % 2 ^ 52) : effective p o 8 = ea := by
  have hword : (p.setWidth 52 : BitVec 52) + o.signExtend 52 * BitVec.ofNat 52 8 =
      BitVec.ofInt 52 ((p.toNat % 2 ^ 52 : Nat) + o.toInt * 8) := by
    rw [BitVec.ofInt_add, BitVec.ofInt_mul, BitVec.ofInt_natCast, ← BitVec.toNat_setWidth, BitVec.ofNat_toNat, BitVec.setWidth_eq]
    rfl
  rw [effective, hword, BitVec.toNat_ofInt]
  push_cast at h ⊢
  omega

/-- A record's ADDR has bits 63:52 of the pointer and the effective address below them. -/
theorem withTop_eq_ofNat (p : Word) {ea : Nat} (h : ea < 2 ^ 52) :
    withTop p ea = BitVec.ofNat 64 (p.toNat / 2 ^ 52 * 2 ^ 52 + ea) := by
  rw [withTop, setBits_eq_ofNat p ea (by decide), Nat.mod_eq_of_lt h, Nat.pow_zero, Nat.mod_one, Nat.mul_one, Nat.add_zero]

/-! ### The checks one by one (R146)

Each lemma assumes that the checks before its own have passed. -/

section Checks
variable {s : State} {p : Word} {ea : Nat} {q : Req}

theorem State.check_of_misaligned (h : ea % q.align ≠ 0) : s.check p ea q = .error (.trap 0x05 0 0 0) := if_pos h

theorem State.check_of_low (halign : ea % q.align = 0) (h : ea < 0x10000) : s.check p ea q = .error (.trap 0x06 0 0 0) := by
  unfold State.check
  rw [if_neg (not_not.2 halign), if_pos h]

theorem State.check_of_notCanonical (halign : ea % q.align = 0) (hhigh : 0x10000 ≤ ea) (h : p.toNat / 2 ^ 52 % 64 ≠ 0) :
    s.check p ea q = .error (.trap 0x07 0 0 0) := by
  have hbits : bits p 52 6 ≠ 0 := by rwa [bits, Nat.shiftRight_eq_div_pow]
  unfold State.check
  rw [if_neg (not_not.2 halign), if_neg (Nat.not_lt.2 hhigh), if_pos hbits]

/-- An address and a pointer that the checks for ALIGN, NULL and NONCANON let through. -/
structure WellFormedAddress (p : Word) (ea : Nat) (q : Req) : Prop where
  aligned : ea % q.align = 0
  high : 0x10000 ≤ ea
  canonical : p.toNat / 2 ^ 52 % 64 = 0

theorem WellFormedAddress.bits_eq (h : WellFormedAddress p ea q) : bits p 52 6 = 0 := by
  rw [bits, Nat.shiftRight_eq_div_pow]
  exact h.canonical

theorem State.check_of_fewRights (hwf : WellFormedAddress p ea q) (h : p.toNat / 2 ^ 58 % 4 < q.need) :
    s.check p ea q = .error (.trap 0x08 0 0 0) := by
  have hrights : bits p 58 2 < q.need := by rwa [bits, Nat.shiftRight_eq_div_pow]
  unfold State.check
  rw [if_neg (not_not.2 hwf.aligned), if_neg (Nat.not_lt.2 hwf.high), if_neg (not_not.2 hwf.bits_eq), if_pos hrights]

/-- An access that the first four checks let through, with the physical address and the leaf that it is checked against: a control core
in supervisor mode is not translated. -/
structure PlacedAccess (s : State) (p : Word) (ea : Nat) (q : Req) (pa : Nat) (leaf : Word) : Prop extends WellFormedAddress p ea q where
  rights : q.need ≤ p.toNat / 2 ^ 58 % 4
  placed : (if s.th.supervisor then .ok (s.superPa ea, 0xC) else s.translate ea false) = .ok (pa, leaf)

theorem PlacedAccess.not_fewRights {pa : Nat} {leaf : Word} (h : PlacedAccess s p ea q pa leaf) : ¬ bits p 58 2 < q.need := by
  rw [bits, Nat.shiftRight_eq_div_pow]
  exact Nat.not_lt.2 h.rights

theorem PlacedAccess.translated {pa : Nat} {leaf : Word} (h : PlacedAccess s p ea q pa leaf) :
    (if !s.th.supervisor then s.translate ea false else .ok (s.superPa ea, 0xC)) = .ok (pa, leaf) := by
  rw [← h.placed]
  cases s.th.supervisor <;> rfl

theorem State.check_of_noPermission {pa : Nat} {leaf : Word} (hp : PlacedAccess s p ea q pa leaf)
    (h : (q.rd ∧ !pteR leaf) ∨ (q.wr ∧ !pteW leaf)) : s.check p ea q = .error (.trap 0x0B 0 0 0) := by
  unfold State.check
  rw [if_neg (not_not.2 hp.aligned), if_neg (Nat.not_lt.2 hp.high), if_neg (not_not.2 hp.bits_eq), if_neg hp.not_fewRights]
  simp only [hp.translated]
  exact if_pos h

theorem State.check_of_unreachable {pa : Nat} {leaf : Word} (hp : PlacedAccess s p ea q pa leaf)
    (hperm : ¬ ((q.rd ∧ !pteR leaf) ∨ (q.wr ∧ !pteW leaf))) (h : s.reachable pa q = false) :
    s.check p ea q = .error (.trap 0x0C 0 0 0) := by
  unfold State.check
  rw [if_neg (not_not.2 hp.aligned), if_neg (Nat.not_lt.2 hp.high), if_neg (not_not.2 hp.bits_eq), if_neg hp.not_fewRights]
  simp only [hp.translated]
  rw [if_neg hperm, if_pos (by rw [h]; rfl)]

end Checks

/-! ### Loads and stores that a check refuses (R146, R160) -/

/-- A load that a check refuses does no more than the trouble asks. -/
theorem loadTurn_of_error {s : State} {n : Nat} {q : LoadQual} {reg : Bool} {b : Reg} {o : BitVec 12} (dst : LoadDest) {e : Trouble}
    (h : s.check (s.gr b) (effective (s.gr b) o n) (loadReq n q reg) = .error e) :
    loadTurn s n q reg b o dst = inTrouble s (withTop (s.gr b) (effective (s.gr b) o n)) e := by
  unfold loadTurn
  simp only [h]

theorem storeTurn_of_error {s : State} {n : Nat} {q : StoreQual} {reg port : Bool} {b : Reg} {o : BitVec 12} (v : Nat) {e : Trouble}
    (h : s.check (s.gr b) (effective (s.gr b) o n) (storeReq n q reg port) = .error e) :
    storeTurn s n q reg port b o v = inTrouble s (withTop (s.gr b) (effective (s.gr b) o n)) e := by
  unfold storeTurn
  simp only [h]

theorem State.tagCheck_of_ne {s : State} {p : Word} {pa : Nat} (h : s.tagSeen pa ≠ BitVec.ofNat 4 (p.toNat / 2 ^ 60)) :
    s.tagCheck p pa = .error (.trap 0x0F 0 (BitVec.ofNat 4 (p.toNat / 2 ^ 60)) (s.tagSeen pa)) := by
  have e : BitVec.ofNat 4 (bits p 60 4) = BitVec.ofNat 4 (p.toNat / 2 ^ 60) := by
    apply BitVec.eq_of_toNat_eq
    simp [bits, Nat.shiftRight_eq_div_pow]
  unfold State.tagCheck
  rw [e]
  exact if_neg h.symm

/-- A load of a granule with another tag, over which the core buffers nothing, raises TAG with both tags. -/
theorem loadTurn_of_wrongTag {s : State} {n : Nat} {q : LoadQual} {reg : Bool} {b : Reg} {o : BitVec 12} (dst : LoadDest) {pa : Nat}
    (hq : q = .plain ∨ q = .nt) (hc : s.check (s.gr b) (effective (s.gr b) o n) (loadReq n q reg) = .ok pa)
    (hd : (s.isLocal pa && spaceOf (offsetOf pa) == .device) = false) (hbuf : s.sbuf = [])
    (htag : s.tagSeen pa ≠ BitVec.ofNat 4 ((s.gr b).toNat / 2 ^ 60)) :
    loadTurn s n q reg b o dst = .next (s.deliver (s.recordOf 0x0F (withTop (s.gr b) (effective (s.gr b) o n)) 0
      (BitVec.ofNat 4 ((s.gr b).toNat / 2 ^ 60)) (s.tagSeen pa))) := by
  have hset : s.settleRemote pa = s := State.settleRemote_of_none (.inr (by simp [hbuf]))
  rw [loadTurn_of_check dst hq hc hd]
  unfold State.loadAt
  simp only [hset, hbuf, State.tagCheck_of_ne htag, List.filter_nil, List.any_nil, Bool.false_eq_true, if_false]
  rfl

/-- A store to a granule with another tag raises TAG with both tags, before anything it would wait for. -/
theorem storeTurn_of_wrongTag {s : State} {n : Nat} {q : StoreQual} {reg port : Bool} {b : Reg} {o : BitVec 12} (v : Nat) {pa : Nat}
    (hc : s.check (s.gr b) (effective (s.gr b) o n) (storeReq n q reg port) = .ok pa)
    (hd : (s.isLocal pa && spaceOf (offsetOf pa) == .device) = false)
    (htag : s.tagSeen pa ≠ BitVec.ofNat 4 ((s.gr b).toNat / 2 ^ 60)) :
    storeTurn s n q reg port b o v = .next (s.deliver (s.recordOf 0x0F (withTop (s.gr b) (effective (s.gr b) o n)) 0
      (BitVec.ofNat 4 ((s.gr b).toNat / 2 ^ 60)) (s.tagSeen pa))) := by
  unfold storeTurn State.storeAt
  simp only [hc, State.tagCheck_of_ne htag]
  rw [if_neg (by simpa using hd)]
  rfl

/-- Settles O36: each check by its own lemma, and a refused load or store delivers the record of the cause. -/
theorem checksInOrder : Obligations.ChecksInOrder := by
  intro d b o s ea addr hea haddr raises
  have heff : effective (s.gr b) o 8 = ea := effective_eq_of_sum hea
  have htop : withTop (s.gr b) ea = addr := by rw [haddr, withTop_eq_ofNat _ (by omega)]
  have hld {cause : Nat} (h : s.check (s.gr b) ea (loadReq 8 .plain true) = .error (.trap cause 0 0 0)) :
      exec (.ldD d b .plain o) s = .next (s.deliver (s.recordOf cause addr 0 0 0)) := by
    rw [← htop, ← heff]
    exact loadTurn_of_error (.signed d) (by rw [heff, h])
  have hst {cause : Nat} (h : s.check (s.gr b) ea (storeReq 8 .plain true false) = .error (.trap cause 0 0 0)) :
      exec (.stD d b .plain o) s = .next (s.deliver (s.recordOf cause addr 0 0 0)) := by
    rw [← htop, ← heff]
    exact storeTurn_of_error _ (by rw [heff, h])
  refine ⟨fun h => ⟨hld (State.check_of_misaligned h), hst (State.check_of_misaligned h)⟩,
    fun halign h => ⟨hld (State.check_of_low halign h), hst (State.check_of_low halign h)⟩,
    fun halign hhigh h => ⟨hld (State.check_of_notCanonical halign hhigh h), hst (State.check_of_notCanonical halign hhigh h)⟩,
    fun halign hhigh hcanon => ?_, fun pa hd hbuf htag => ?_⟩
  · have hwfl : WellFormedAddress (s.gr b) ea (loadReq 8 .plain true) := ⟨halign, hhigh, hcanon⟩
    have hwfs : WellFormedAddress (s.gr b) ea (storeReq 8 .plain true false) := ⟨halign, hhigh, hcanon⟩
    refine ⟨fun h => ⟨hld (State.check_of_fewRights hwfl (h ▸ by decide)), hst (State.check_of_fewRights hwfs (h ▸ by decide))⟩,
      fun h => hst (State.check_of_fewRights hwfs (h ▸ by decide)), fun hrights pa leaf hplaced => ?_⟩
    have hpl : PlacedAccess s (s.gr b) ea (loadReq 8 .plain true) pa leaf := ⟨hwfl, Nat.le_of_succ_le hrights, hplaced⟩
    have hps : PlacedAccess s (s.gr b) ea (storeReq 8 .plain true false) pa leaf := ⟨hwfs, hrights, hplaced⟩
    refine ⟨fun hr => hld (State.check_of_noPermission hpl (.inl ⟨rfl, ?_⟩)),
      fun hw => hst (State.check_of_noPermission hps (.inr ⟨rfl, ?_⟩)),
      fun hr hreach => hld (State.check_of_unreachable hpl ?_ hreach), fun hw hreach => hst (State.check_of_unreachable hps ?_ hreach)⟩
    · rw [hr]; rfl
    · rw [hw]; rfl
    · simp [loadReq, loadConsumes, hr]
    · simp [storeReq, hw]
  · rw [← htop, ← heff]
    exact ⟨fun hc => loadTurn_of_wrongTag (.signed d) (.inl rfl) hc hd hbuf htag, fun hc => storeTurn_of_wrongTag _ hc hd htag⟩

end Sys2Proof.Machine
end

section
/-!
SUPPORT. A CFLS that lets another core's atomic perform, which hits a watchpoint of the thread that executes it.
-/
namespace Sys2Proof.Machine

/-! ### A dirty tag behind another core's atomic (R160, R166, R168)

The tag of a granule that CFLS writes back waits for the buffered stores and atomics of other cores that were checked against the old
one. CFLS performs these first, and each of them is a write for watchpoints. -/

/-- Control core 0 in supervisor mode with a pointer to line 0x800 in g1, a copy of the line with a dirty tag of granule 0, and
watchpoint 0 enabled for writes of context 0 to the first eight bytes, while the core of site 1 buffers an AADD to these. -/
def tagBehindAtomic : State :=
  { State.reset with
    th := { State.reset.th with
      g := State.reset.th.g.set 1 0x0C00000000020000
      twa := State.reset.th.twa.set 0 0x20000
      twc := State.reset.th.twc.set 0 0x325 }
    cache := [{ core := .control 0, ctx := 0, line := 0x800, hyp := 0, data := 0, dirty := 0, tags := 1, tdirty := 1, poison := 0,
                whole := 0, writer := 0 }]
    sbuf := [{ id := 0, core := .site 1, slot := 0, ctx := 0, tid := 7, hyp := 0, va := 0x0C00000000020000, pa := 0x20000, size := 8,
               data := 1, kind := .atom .add .d 0, insn := 0, pc := 0 }]
    nextSt := 1 }

/-- TWC0 of the current thread in the state that an answer gives. -/
def watchAfter (r : Result) : Option Word := match r with | .next t => some t.th.twc[0] | _ => none

theorem tagBehindAtomic_check : tagBehindAtomic.check (tagBehindAtomic.gr 1) (effective (tagBehindAtomic.gr 1) 0 64) (cacheReq 1 false) =
    .ok 0x20000 := by decide +kernel

/-- The hit sets PEND, bit 32 of TWC0. -/
theorem tagBehindAtomic_cleaned : watchAfter (exec (.cfls 1 0) tagBehindAtomic) = some 0x100000325 := by decide +kernel

/-- Refutes O41: of the thread after CFLS, since the clause that only its pc changes has no premise that the store buffers are empty. In
`tagBehindAtomic` the atomic of site 1 performs before the dirty tag reaches the home, and TWC0 of the thread, 0x325 before, then has PEND
set. -/
theorem not_fencesAndFlushes : ¬ Obligations.FencesAndFlushes := by
  intro h
  obtain ⟨-, -, -, -, -, hlines⟩ := h .thread tagBehindAtomic 0 1 0 .read
  obtain ⟨t, -, ht, -, hth, -⟩ := hlines 0x20000 tagBehindAtomic_check
  have hpend := tagBehindAtomic_cleaned
  rw [ht] at hpend
  have hsame : t.th.twc[0] = 0x325 := by rw [hth]; rfl
  have hkept : watchAfter (.next t) = some 0x325 := congrArg some hsame
  exact absurd (hkept.symm.trans hpend) (by decide)

end Sys2Proof.Machine
end

section
/-!
SUPPORT. Region tokens: what TKAQ and TKHD do once their address is checked, the request of a free token, and the grant that arrives.
-/
namespace Sys2Proof.Machine

/-! ### The tokens of a context (R191) -/

theorem State.token_region (s : State) (c : Fin 16) (r : Nat) : (s.token c r).region = r := by
  unfold State.token
  cases h : (s.ctx c).tokens.find? fun t => t.region = r with
  | none => rfl
  | some k => simpa using List.find?_some h

/-- A token that is put back is the one found for its region. -/
theorem State.token_setToken (s : State) {c : Fin 16} {r : Nat} {k : Token} (h : k.region = r) : (s.setToken c k).token c r = k := by
  have hctx : (s.setToken c k).ctx c = { s.ctx c with tokens := k :: (s.ctx c).tokens.filter fun u => u.region ≠ k.region } :=
    (s.ctx_setCtx c c _).trans (if_pos rfl)
  rw [State.token, hctx, List.find?_cons_of_pos (by simpa using h), Option.getD_some]

/-- A grant, where a home sends one, is one more message under way, and numbered by the clock. -/
theorem State.sendGrant_frame (s : State) (c : Fin 16) (r : Nat) (who : Holder) (p : Place) (asked : Bool) :
    let t := if asked then s.sendGrant c r who p else s
    t = { s with clock := t.clock, tokmsgs := t.tokmsgs } := by
  cases asked <;> rfl

/-- The acquisition of a token drops copies, and changes nothing else. -/
theorem State.tokenAcquired_cache (s : State) (r : Nat) : ∃ l, s.tokenAcquired r = { s with cache := l } := ⟨_, rfl⟩

/-! ### The region that a token instruction names (R192, R194) -/

section Named

variable {s : State} {p : Word} {pa : Nat} (hc : s.check p (p.toNat % 2 ^ 52) tokenReq = .ok pa) (hl : s.localHbm pa = true)
include hc hl

theorem withRegion_of_none (k : Nat → Result) (h : s.regionOf s.th.core s.th.cx (offsetOf pa) = none) :
    withRegion s p k = .next (s.deliver (s.recordOf 0x15 p 0 0 0)) := by
  unfold withRegion plainAddress
  simp only [bits_zero, hc, hl, if_true, h]
  rfl

theorem withRegion_of_some {r : Nat} (k : Nat → Result) (h : s.regionOf s.th.core s.th.cx (offsetOf pa) = some r) :
    withRegion s p k = k r := by
  unfold withRegion plainAddress
  simp only [bits_zero, hc, hl, if_true, h]

end Named

/-! ### TKAQ (R192) -/

section Region

variable {a : Reg} {s : State} {pa r : Nat} (hc : s.check (s.gr a) ((s.gr a).toNat % 2 ^ 52) tokenReq = .ok pa)
  (hl : s.localHbm pa = true) (hr : s.regionOf s.th.core s.th.cx (offsetOf pa) = some r)
include hc hl hr

theorem execTkaq_of_region (hflush : s.awaitsFlush = false) :
    execTkaq a s = if (s.token s.th.cx r).holder = some s.th.holder then done (s.tokenAcquired r)
      else .next (s.askToken r true (s.gr a)) := by
  rw [execTkaq, withRegion_of_some hc hl _ hr, acquiring, hflush, if_neg Bool.false_ne_true]

/-! ### TKHD (R194) -/

theorem execTkhd_of_notHolder (b : Reg) (h : (s.token s.th.cx r).holder ≠ some s.th.holder) :
    execTkhd a b s = .next (s.deliver (s.recordOf 0x16 (s.gr a) 0 0 0)) := by
  rw [execTkhd, withRegion_of_some hc hl _ hr]
  exact if_pos h

end Region

/-- The thread has nothing more to wait for of what it read by forwarding. -/
def State.settled (s : State) : State := { s with th := { s.th with fwd := [] } }

@[simp] theorem State.settled_gr (s : State) (q : Reg) : s.settled.gr q = s.gr q := rfl
@[simp] theorem State.settled_holder (s : State) : s.settled.th.holder = s.th.holder := rfl

/-- With nothing buffered and no copy held, a release only forgets what the thread read by forwarding. -/
theorem State.releaseTo_device_of_idle {s : State} (hbuf : s.sbuf = []) (hcache : s.cache = []) : s.releaseTo .device = s.settled := by
  have hdrain (q : StoreEntry → Bool) : s.drain q = s := drain_of_none (by rw [hbuf, List.any_nil])
  have hlines (q : CacheLine → Bool) : s.cleanLines q = s := by
    unfold State.cleanLines
    simp only [hcache, List.filter_nil, List.foldl_nil, List.map_nil]
    rw [← hcache]
  have hclean (q : CacheLine → Bool) : s.cleanAll q = s := by rw [State.cleanAll, hlines, hdrain]
  have hfwd : (s.th.fwd.filter fun i => s.sbuf.any fun e => e.id = i) = [] := by simp [hbuf]
  unfold State.releaseTo
  simp only [hdrain, hclean, hfwd]
  rfl

/-- With nothing pending, a fence point goes on at once. -/
theorem atFence_device_of_idle {s : State} (hbuf : s.sbuf = []) (hcache : s.cache = [])
    (hfault : (s.th.onBarrel && s.pendingFault s.th.ctx) = false) (k : State → Result) : atFence s .device k = k s.settled := by
  have h : (s.settled.th.onBarrel && s.settled.pendingFault s.settled.th.ctx) = false := hfault
  unfold atFence
  simp only [State.releaseTo_device_of_idle hbuf hcache, h, Bool.false_eq_true, if_false]

/-- A thread of an ID is found all the same. -/
theorem State.findTid_settled_isSome (s : State) (c : Fin 16) (tid : BitVec 24) :
    (s.settled.findTid c tid).isSome = (s.findTid c tid).isSome := by
  simp only [State.findTid, List.isSome_find?]
  rfl

section Handing

variable {a b : Reg} {s : State} {pa r : Nat} (hc : s.check (s.gr a) ((s.gr a).toNat % 2 ^ 52) tokenReq = .ok pa)
  (hl : s.localHbm pa = true) (hr : s.regionOf s.th.core s.th.cx (offsetOf pa) = some r)
  (hhold : (s.token s.th.cx r).holder = some s.th.holder) (hsite : (s.token s.th.cx r).site = none)
  (hbuf : s.sbuf = []) (hcache : s.cache = []) (hfault : (s.th.onBarrel && s.pendingFault s.th.ctx) = false)
include hc hl hr hhold hsite hbuf hcache hfault

theorem execTkhd_to_self (hself : Holder.thread ((s.gr b).setWidth 24) = s.th.holder) : execTkhd a b s = done s.settled := by
  rw [execTkhd, withRegion_of_some hc hl _ hr]
  dsimp only
  rw [if_neg (not_not_intro hhold), atFence_device_of_idle hbuf hcache hfault, hsite]
  exact if_pos hself

/-- The token passes to another live thread, which is sent a grant where it has asked for the token. -/
theorem execTkhd_to_other {u : Thread} (hother : Holder.thread ((s.gr b).setWidth 24) ≠ s.th.holder)
    (hu : s.findTid s.th.cx ((s.gr b).setWidth 24) = some u) : ∃ (k : Token) (n : Nat) (l : List TokenMsg), k.region = r ∧
      k.holder = some (.thread ((s.gr b).setWidth 24)) ∧
      execTkhd a b s = done { s.settled.setToken s.th.cx k with clock := n, tokmsgs := l } := by
  obtain ⟨v, hv⟩ : ∃ v, s.settled.findTid s.th.cx ((s.gr b).setWidth 24) = some v :=
    Option.isSome_iff_exists.1 ((s.findTid_settled_isSome ..).trans (by rw [hu]; rfl))
  rw [execTkhd, withRegion_of_some hc hl _ hr]
  dsimp only
  rw [if_neg (not_not_intro hhold), atFence_device_of_idle hbuf hcache hfault, hsite]
  simp only [State.settled_gr, State.settled_holder, hother, if_false, hv]
  refine ⟨_, _, _, ?region, ?holder, congrArg done (State.sendGrant_frame ..)⟩
  case region => exact s.token_region _ _
  case holder => rfl

end Handing

/-! ### Requests and grants (R191, R192) -/

/-- The request of a token that nobody holds makes the requester its holder, and sends it the grant. -/
theorem execTokenRequestArrive_of_free {s : State} {k r : Nat} {c : Fin 16} {who : Holder} {p : Place} {b : Bool} {w : Way} {u : Thread}
    (hm : s.tokmsgs[k]? = some (.request c r who p b w)) (ho : s.overtakes w = false) (hu : s.findHolder c who = some u)
    (ht : s.takesGrants u = true) (hfree : (s.token c r).holder = none) : ∃ (q : Bool) (st : Sparse Word) (v : Way),
      execTokenRequestArrive k s = .next
        { s.setToken c { s.token c r with holder := some who, site := some u.core, used := false, called := q } with
          stamps := st, clock := s.clock + 1, tokmsgs := s.tokmsgs.eraseIdx k ++ [.grant c r who p v] } := by
  obtain ⟨st, hst⟩ := s.send_stamps u.key (s.tokenKey c r)
  have hfree' : (State.token { s with stamps := st } c r).holder = none := hfree
  unfold execTokenRequestArrive State.tokenRequest
  simp only [hm, ho, hu, ht, hst, hfree', Bool.false_eq_true, Bool.not_true, if_false]
  exact ⟨_, st, _, rfl⟩

/-- Raising the acting thread's floor where it stands. -/
theorem State.updThread_raise_here (s : State) (v : Word) : ∃ (f : Word) (l : List Thread),
    s.updThread s.th.place (fun x => x.raise v) = { s with th := { s.th with floor := f }, rest := l } := by
  obtain ⟨f, e, -⟩ := s.th.raise_floor v
  refine ⟨f, s.rest.map fun x => if x.place = s.th.place then x.raise v else x, ?_⟩
  unfold State.updThread State.mapThreads
  simp only [if_true, e]

/-- A message to the acting thread raises its floor, and stamps. -/
theorem State.tell_here (s : State) (home : Nat) : ∃ (f : Word) (l : List Thread) (st : Sparse Word),
    s.tell home s.th.place = { s with th := { s.th with floor := f }, rest := l, stamps := st } := by
  have hfind : s.findThread s.th.place = some s.th := List.find?_cons_of_pos (by simp)
  unfold State.tell
  simp only [hfind]
  split
  · obtain ⟨f, l, e⟩ := s.updThread_raise_here (s.stamp home)
    exact ⟨f, l, s.stamps, e⟩
  · obtain ⟨f, l, e⟩ := (s.message home s.th.key).1.updThread_raise_here (s.message home s.th.key).2
    exact ⟨f, l, _, e⟩

/-- The state in which message `k`, the grant of region `r`'s token to the acting thread, has ended its wait, with the floor, the other
threads and the stamps that the message has left. -/
def State.granted (s : State) (k r : Nat) (f : Word) (l : List Thread) (st : Sparse Word) : State :=
  { s.setToken s.th.cx { s.token s.th.cx r with used := true } with
    th := { s.th with floor := f, st := .run, wait := .none }, rest := l, stamps := st, tokmsgs := s.tokmsgs.eraseIdx k }

/-- The grant that the acting thread waits for in a TKAQ lets it acquire, and go on at the next instruction. -/
theorem execTokenGrantArrive_of_tkaq {s : State} {k r : Nat} {p : Place} {w : Way} {va : Word} (hw : s.th.wait = .token r true va)
    (hm : s.tokmsgs[k]? = some (.grant s.th.cx r s.th.holder p w)) (ho : s.overtakes w = false)
    (hfind : s.findHolder s.th.cx s.th.holder = some s.th) (ht : s.takesGrants s.th = true) (hres : s.th.resident = true) :
    ∃ (f : Word) (l : List Thread) (st : Sparse Word), execTokenGrantArrive k s = done ((s.granted k r f l st).tokenAcquired r) := by
  obtain ⟨f, l, st, htell⟩ := State.tell_here { s with tokmsgs := dropAt s.tokmsgs k } (s.tokenKey s.th.cx r)
  have hkey : State.tokenKey { s with tokmsgs := dropAt s.tokmsgs k } s.th.cx r = s.tokenKey s.th.cx r := rfl
  refine ⟨f, l, st, ?_⟩
  unfold execTokenGrantArrive
  simp only [hm, ho, hfind, ht, hw, hres, Bool.false_eq_true, Bool.not_true, if_false, and_self, if_true]
  rw [onThread_here (s := { s with tokmsgs := dropAt s.tokmsgs k }) rfl]
  simp only [hkey, htell]
  rfl

/-- Settles O43: TKAQ and TKHD by the region that their address names and by the holder of its token, and one lemma for each message. -/
theorem regionTokens : Obligations.RegionTokens := by
  intro a b s pa hc hl
  refine ⟨fun hr => ⟨withRegion_of_none hc hl _ hr, withRegion_of_none hc hl _ hr⟩, fun r hr => ?_⟩
  refine ⟨fun hflush hhold => ?_, fun hflush hhold => ?_, execTkhd_of_notHolder hc hl hr b, fun hhold hsite hbuf hcache hfault hself => ?_,
    fun u hhold hsite hbuf hcache hfault hother hu => ?_, fun k p w u who st hm ho hu ht hfree => ?_,
    fun k p w hw hm ho hfind hhold ht hres => ?_⟩
  · obtain ⟨l, e⟩ := s.tokenAcquired_cache r
    have hex : exec (.tkaq a) s = _ := (execTkaq_of_region hc hl hr hflush).trans (if_pos hhold)
    rw [e] at hex
    exact ⟨_, hex, rfl, rfl, rfl⟩
  · exact (execTkaq_of_region hc hl hr hflush).trans (if_neg hhold)
  · exact ⟨_, execTkhd_to_self hc hl hr hhold hsite hbuf hcache hfault hself, rfl, rfl, rfl, rfl⟩
  · obtain ⟨k, n, l, hk, hholder, hex⟩ := execTkhd_to_other hc hl hr hhold hsite hbuf hcache hfault hother hu
    exact ⟨_, hex, (congrArg Token.holder (s.settled.token_setToken hk)).trans hholder, rfl, rfl, rfl⟩
  · obtain ⟨q, st, v, hex⟩ := execTokenRequestArrive_of_free hm ho hu ht hfree
    have htok := s.token_setToken (c := s.th.cx)
      (k := { s.token s.th.cx r with holder := some who, site := some u.core, used := false, called := q }) (s.token_region s.th.cx r)
    exact ⟨_, v, hex, congrArg Token.holder htok, congrArg Token.site htok, congrArg Token.used htok, rfl, rfl⟩
  · obtain ⟨f, l, st, hgrant⟩ := execTokenGrantArrive_of_tkaq hw hm ho hfind ht hres
    have hex : exec (.tokenGrantArrive k) s = _ := hgrant
    obtain ⟨cl, e⟩ := (s.granted k r f l st).tokenAcquired_cache r
    rw [e] at hex
    have htok := s.token_setToken (c := s.th.cx) (k := { s.token s.th.cx r with used := true }) (s.token_region s.th.cx r)
    exact ⟨_, hex, (congrArg Token.holder htok).trans hhold, congrArg Token.used htok, rfl, rfl, rfl, rfl⟩

end Sys2Proof.Machine
end

section
/-!
SUPPORT. Sums stay within their format: every pattern that rounding and addition give fits the width of the format.
-/
namespace Sys2Proof.Machine

/-! ### Patterns of a format (R111, R125, R133) -/

/-- The fields of a pattern make up a pattern of the format. -/
theorem fields_lt {f : Fmt} (g : Bool) {E F : Nat} (hE : E < 2 ^ f.eb) (hF : F < 2 ^ f.fb) :
    signBit f g + E * 2 ^ f.fb + F < 2 ^ f.width := by
  have hsign : signBit f g ≤ 2 ^ f.eb * 2 ^ f.fb := by
    unfold signBit
    split
    · rw [Nat.pow_add, Nat.mul_comm]
    · exact Nat.zero_le _
  have hwidth : 2 ^ f.width = 2 * (2 ^ f.eb * 2 ^ f.fb) := by
    rw [Fmt.width, Nat.pow_add, Nat.pow_add, Nat.pow_one, Nat.mul_assoc]
  have hfields : (E + 1) * 2 ^ f.fb ≤ 2 ^ f.eb * 2 ^ f.fb := Nat.mul_le_mul_right _ hE
  rw [Nat.add_mul, Nat.one_mul] at hfields
  omega

theorem Fmt.eTop_lt (f : Fmt) : f.eTop < 2 ^ f.eb := Nat.sub_lt (Nat.two_pow_pos _) Nat.one_pos

theorem infBits_lt (f : Fmt) (g : Bool) : infBits f g < 2 ^ f.width := fields_lt g f.eTop_lt (Nat.two_pow_pos _)

theorem zeroBits_lt (f : Fmt) (g : Bool) : zeroBits f g < 2 ^ f.width := by
  simpa [zeroBits] using fields_lt g (Nat.two_pow_pos f.eb) (Nat.two_pow_pos f.fb)

theorem maxBits_lt (f : Fmt) (g : Bool) : maxBits f g < 2 ^ f.width :=
  fields_lt g (Nat.lt_of_le_of_lt (Nat.sub_le _ _) f.eTop_lt) (Nat.sub_lt (Nat.two_pow_pos _) Nat.one_pos)

theorem canonNan_lt {f : Fmt} (hfb : 0 < f.fb) : canonNan f < 2 ^ f.width := by
  have h := fields_lt (f := f) false f.eTop_lt (Nat.pow_lt_pow_right Nat.one_lt_two (Nat.sub_lt hfb Nat.one_pos))
  simpa [signBit, canonNan] using h

theorem overflowBits_lt (f : Fmt) (r : Round) (g : Bool) : overflowBits f r g < 2 ^ f.width := by
  cases r with
  | rne => exact infBits_lt f g
  | rna => exact infBits_lt f g
  | rtz => exact maxBits_lt f g
  | rup => cases g <;> simp [overflowBits, infBits_lt, maxBits_lt]
  | rdn => cases g <;> simp [overflowBits, infBits_lt, maxBits_lt]

/-- A magnitude of `k` bits at exponent `e` is at most `2 ^ p` units of `2 ^ q`, where its top lies no higher than that. -/
theorem quantise_le {r : Round} {g more : Bool} {m k p : Nat} {e q : Int} (hm : m < 2 ^ k) (h : e + k ≤ q + p) :
    (quantise r g m e more q).1 ≤ 2 ^ p := by
  have hup {n : Nat} (c : Bool) (hn : n < 2 ^ p) : (if c then n + 1 else n) ≤ 2 ^ p := by split <;> omega
  unfold quantise
  split
  · have hn : m * 2 ^ (e - q).toNat < 2 ^ p := calc
      m * 2 ^ (e - q).toNat < 2 ^ k * 2 ^ (e - q).toNat := Nat.mul_lt_mul_of_pos_right hm (Nat.two_pow_pos _)
      _ = 2 ^ (k + (e - q).toNat) := (Nat.pow_add ..).symm
      _ ≤ 2 ^ p := Nat.pow_le_pow_right (by decide) (by omega)
    exact hup _ hn
  · have hn : m / 2 ^ (q - e).toNat < 2 ^ p := by
      refine Nat.div_lt_of_lt_mul (Nat.lt_of_lt_of_le hm ?_)
      rw [← Nat.pow_add]
      exact Nat.pow_le_pow_right (by decide) (by omega)
    exact hup _ hn

/-- A magnitude that fits the precision, with its exponent field below the top one, makes a pattern of the format. -/
theorem normal_lt {f : Fmt} (g : Bool) {n : Nat} {be : Int} (hn : n < 2 ^ f.prec) (hbe : ¬ be ≥ f.eTop) :
    signBit f g + be.toNat * 2 ^ f.fb + (n - 2 ^ f.fb) < 2 ^ f.width := by
  have htop := f.eTop_lt
  have hprec : 2 ^ f.prec = 2 * 2 ^ f.fb := by rw [Fmt.prec, Nat.pow_succ, Nat.mul_comm]
  exact fields_lt g (by omega) (by have := Nat.two_pow_pos f.fb; omega)

/-- Rounding gives a pattern of the format. -/
theorem roundFin_lt (f : Fmt) (r : Round) (fz g : Bool) (m : Nat) (e : Int) (more : Bool) :
    (roundFin f r fz g m e more).1 < 2 ^ f.width := by
  unfold roundFin
  split
  · exact zeroBits_lt f g
  · extract_lets top eMin qFree q
    have hq : (quantise r g m e more q).1 ≤ 2 ^ f.prec := by
      refine quantise_le (k := m.log2 + 1) Nat.lt_log2_self ?_
      simp only [q, qFree, top, Fmt.prec]
      split
      · subst m; simp; omega
      · omega
    generalize quantise r g m e more q = x at hq
    obtain ⟨n, whole⟩ := x
    dsimp only at hq ⊢
    have hprec : 2 ^ f.fb < 2 ^ f.prec := Nat.pow_lt_pow_right Nat.one_lt_two (Nat.lt_succ_self _)
    obtain ⟨n', q', h, hn'⟩ : ∃ n' q', (if n = 2 ^ f.prec then (2 ^ f.fb, q + 1) else (n, q)) = (n', q') ∧ n' < 2 ^ f.prec := by
      split
      · exact ⟨_, _, rfl, hprec⟩
      · exact ⟨_, _, rfl, by omega⟩
    rw [h]
    dsimp only
    split
    · next hlow =>
      split
      · exact zeroBits_lt f g
      · simpa using fields_lt g (Nat.two_pow_pos f.eb) hlow
    · split
      · exact overflowBits_lt f r g
      · next hbe => exact normal_lt g hn' hbe

/-- The sum of two data is a pattern of the format. -/
theorem addData_lt {f : Fmt} (hfb : 0 < f.fb) (r : Round) (fz : Bool) (x y : Datum) : (addData f r fz x y).1 < 2 ^ f.width := by
  match x, y with
  | .nan _, _ => exact canonNan_lt hfb
  | .inf _, .nan _ => exact canonNan_lt hfb
  | .fin _ _ _, .nan _ => exact canonNan_lt hfb
  | .inf a, .inf b =>
    simp only [addData]
    split
    · exact infBits_lt f a
    · exact canonNan_lt hfb
  | .inf a, .fin _ _ _ => exact infBits_lt f a
  | .fin _ _ _, .inf b => exact infBits_lt f b
  | .fin _ _ _, .fin _ _ _ => exact roundFin_lt ..

end Sys2Proof.Machine
end

section
/-!
SUPPORT. Atomics of this module's memory under H0: what one changes at its home, in the returning form and from the store buffer.
-/
namespace Sys2Proof.Machine

/-! ### A write at a home of this module under H0 (R262) -/

/-- The memory with the result of an atomic in its place, where it has one. -/
def Mem.put (m : Mem) (o n : Nat) : Option Nat → Mem
  | some v => m.write o n v
  | none => m

theorem Mem.write_eq (m : Mem) (a n v : Nat) : m.write a n v = { m with bytes := (m.write a n v).bytes } := by
  induction n generalizing m a v with
  | zero => rfl
  | succ n ih => exact ih _ _ _

theorem Mem.put_eq (m : Mem) (o n : Nat) (x : Option Nat) : m.put o n x = { m with bytes := (m.put o n x).bytes } := by
  cases x with
  | none => rfl
  | some v => exact m.write_eq o n v

theorem Mem.read_put {m : Mem} (hm : m.wf) (o n : Nat) {x : Option Nat} (hx : ∀ v, x = some v → v < 256 ^ n) :
    (m.put o n x).read o n = x.getD (m.read o n) := by
  cases x with
  | none => rfl
  | some v => exact (m.read_write_same hm o n v).trans (Nat.mod_eq_of_lt (hx v rfl))

theorem Mem.byte_put_of_out {m : Mem} (hm : m.wf) (o n : Nat) (x : Option Nat) {k : Nat} (hk : k < o ∨ o + n ≤ k) :
    (m.put o n x).byte k = m.byte k := by
  cases x with
  | none => rfl
  | some v => exact m.byte_write_of_out hm o n v k hk

/-- The `n` bytes at offset `o` read `v`, and no other byte, no tag, no full-empty bit and no other module's memory has changed. -/
def HomeChanged (s t : State) (o n v : Nat) : Prop :=
  t.mem.read o n = v ∧ (∀ k, (k < o ∨ o + n ≤ k) → t.mem.byte k = s.mem.byte k) ∧ (∀ k, t.mem.tag k = s.mem.tag k) ∧
    (∀ k, t.mem.isFull k = s.mem.isFull k) ∧ t.peers = s.peers

theorem homeChanged_of_put {s t : State} {o n : Nat} {x : Option Nat} (hwf : s.mem.wf) (hx : ∀ v, x = some v → v < 256 ^ n)
    (hmem : t.mem = s.mem.put o n x) (hpeers : t.peers = s.peers) : HomeChanged s t o n (x.getD (s.mem.read o n)) := by
  have hsame := s.mem.put_eq o n x
  refine ⟨hmem ▸ s.mem.read_put hwf o n hx, fun k hk => hmem ▸ s.mem.byte_put_of_out hwf o n x hk, fun k => ?_, fun k => ?_, hpeers⟩
  · rw [hmem, hsame]; rfl
  · rw [hmem, hsame]; rfl

/-- A write of less than a granule under H0 changes the bytes, and the slice that holds the line. -/
theorem State.writeHome_committed {s : State} {h : Handle} {pa n : Nat} (c : Fin 16) (v : Nat) (hloc : s.isLocal pa = true)
    (h0 : hypNum h = 0) (hn : n ≠ 16) :
    ∃ l, s.writeHome c h pa n v = { s with mem := s.mem.write (offsetOf pa) n v, llc := l } := by
  have hpart : (n == 16) = false := by simpa using hn
  unfold State.writeHome
  simp only [hpart, h0, Bool.false_eq_true, if_false, if_true, State.updMem, State.cellAt, hloc]
  split
  · exact State.touchLlc_frame { s with mem := s.mem.write (offsetOf pa) n v } (offsetOf pa / 64) true
  · exact ⟨s.llc, rfl⟩

/-- The value in memory that an atomic finds at its address in this module. -/
def State.atomOld (s : State) (pa : Nat) (z : AtomSize) : Nat := s.mem.read (offsetOf pa) (atomBytes z)

/-- What an atomic writes there, if anything, and its flags. -/
def State.atomOutcome (s : State) (pa : Nat) (op : AtomOp) (z : AtomSize) (b e : Nat) : Option Nat × Flags :=
  atomResult op (8 * atomBytes z) (s.atomOld pa z) b e

/-- The memory after an atomic. -/
def State.atomMem (s : State) (pa : Nat) (op : AtomOp) (z : AtomSize) (b e : Nat) : Mem :=
  s.mem.put (offsetOf pa) (atomBytes z) (s.atomOutcome pa op z b e).1

/-- An atomic applied at a home of this module under H0: its result takes the place of the old value. -/
theorem State.applyAtom_committed {s : State} {h : Handle} {pa : Nat} (c : Fin 16) (op : AtomOp) (z : AtomSize) (b e : Nat)
    (hloc : s.isLocal pa = true) (h0 : hypNum h = 0) : ∃ l, s.applyAtom c h pa op z b e =
      ({ s with mem := s.atomMem pa op z b e, llc := l }, s.atomOld pa z, (s.atomOutcome pa op z b e).2) := by
  have hn : atomBytes z ≠ 16 := by cases z <;> decide
  have hold : s.readHome c h pa (atomBytes z) = s.atomOld pa z := State.readHome_local_h0 c _ hloc h0
  unfold State.applyAtom State.atomMem State.atomOutcome
  simp only [hold]
  cases (atomResult op (8 * atomBytes z) (s.atomOld pa z) b e).1 with
  | none => exact ⟨s.llc, rfl⟩
  | some v =>
    obtain ⟨l, hl⟩ := State.writeHome_committed c v hloc h0 hn
    exact ⟨l, congrArg (·, s.atomOld pa z, _) hl⟩

/-! ### Results of the operations (R199, R200) -/

theorem ofNat_mod_two_pow (w v : Nat) : BitVec.ofNat w (v % 2 ^ w) = BitVec.ofNat w v := BitVec.eq_of_toNat_eq (by simp)

/-- An operation reads the low bits of its operands. -/
theorem State.atomOutcome_mod (s : State) (pa : Nat) (op : AtomOp) (z : AtomSize) (b e : Nat) :
    s.atomOutcome pa op z (b % 2 ^ (8 * atomBytes z)) (e % 2 ^ (8 * atomBytes z)) = s.atomOutcome pa op z b e := by
  unfold State.atomOutcome atomResult
  rw [ofNat_mod_two_pow, ofNat_mod_two_pow]

theorem State.atomOutcome_expect_mod (s : State) (pa : Nat) (op : AtomOp) (z : AtomSize) (b e : Nat) :
    s.atomOutcome pa op z b (e % 2 ^ (8 * atomBytes z)) = s.atomOutcome pa op z b e := by
  unfold State.atomOutcome atomResult
  rw [ofNat_mod_two_pow]

/-- What an atomic writes fits the bytes it writes. -/
theorem State.atomOutcome_lt (s : State) (pa : Nat) {op : AtomOp} {z : AtomSize} (hz : op = .fadd → z = .w) (b e : Nat) {v : Nat}
    (hv : (s.atomOutcome pa op z b e).1 = some v) : v < 256 ^ atomBytes z := by
  rw [show 256 ^ atomBytes z = 2 ^ (8 * atomBytes z) from (Nat.pow_mul 2 8 _).symm]
  cases op with
  | cas =>
    simp only [State.atomOutcome, atomResult] at hv
    split at hv
    · exact Option.some.inj hv ▸ BitVec.isLt _
    · exact nomatch hv
  | fadd =>
    cases hz rfl
    exact Option.some.inj hv ▸ addData_lt (f := fmtOf .f32) (by decide) ..
  | _ => exact Option.some.inj hv ▸ BitVec.isLt _

/-! ### The atomic at its home (R201 to R203) -/

/-- With no watchpoint enabled, a touch is told to nobody (R168). -/
theorem State.touch_of_quiet {s : State} (k : Touch) (h : s.anyWatch = false) : s.touch k = s := by
  unfold State.touch
  rw [if_neg (by simp [h])]

theorem State.threadTouch_of_quiet {s : State} (insn : BitVec 32) (va : Word) (pa len : Nat) (rd wr tg : Bool) (h : s.anyWatch = false) :
    s.threadTouch insn va pa len rd wr tg = s := by
  unfold State.threadTouch State.touchBy
  split
  · exact State.touch_of_quiet _ h
  · rfl

theorem State.touchEntry_of_quiet {s : State} (e : StoreEntry) (h : s.anyWatch = false) : s.touchEntry e = s := by
  unfold State.touchEntry
  split
  · exact State.touch_of_quiet _ h
  · rfl

/-- Under H0 a granule of this module is poisoned where committed memory says so (R157, R261). -/
theorem State.poisonHome_of_h0 {s : State} {h : Handle} {pa : Nat} (c : Fin 16) (hloc : s.isLocal pa = true) (h0 : hypNum h = 0) :
    s.poisonHome c h pa = s.mem.poisoned (offsetOf pa) := by
  simp [State.poisonHome, State.view_of_h0 s c _ h0, State.memAt, State.cellAt, hloc]

/-- The home of a granule of this module lets an atomic under H0 through whose pointer has the tag, where there is no poison. -/
theorem State.atomCheck_of_sound {s : State} {h : Handle} {p : Word} {pa : Nat} (c : Fin 16) (hloc : s.isLocal pa = true)
    (h0 : hypNum h = 0) (htag : s.tagHome pa = BitVec.ofNat 4 (p.toNat / 2 ^ 60)) (hpsn : s.mem.poisoned (offsetOf pa) = false) :
    s.atomCheck c h p pa = none := by
  unfold State.atomCheck
  rw [ofNat_bits, if_neg (not_not_intro htag), State.poisonHome_of_h0 c hloc h0, hpsn]
  exact if_neg Bool.false_ne_true

/-- With no dirty line, a flush only drops copies, and leaves no dirty line. -/
theorem State.flushLines_keeps_clean {s : State} {p : CacheLine → Bool} (h : ∀ x ∈ s.cache, x.isDirty = false) :
    ∃ k, s.flushLines p = { s with cache := k } ∧ ∀ x ∈ k, x.isDirty = false := by
  obtain ⟨k, hk⟩ := State.flushLines_of_clean (p := p) h
  have hnone : s.cache.filter (fun x => p x && x.isDirty) = [] := List.filter_eq_nil_iff.2 fun x hx => by simp [h x hx]
  refine ⟨k, hk, fun x hx => ?_⟩
  have hmem : x ∈ (s.flushLines p).cache := by rw [hk]; exact hx
  unfold State.flushLines State.cleanLines at hmem
  rw [hnone] at hmem
  obtain ⟨y, hy, rfl⟩ := List.mem_map.1 (List.mem_filter.1 hmem).1
  split
  · rfl
  · exact h y hy

theorem State.evictFor_of_clean {s : State} (pa : Nat) (h : ∀ x ∈ s.cache, x.isDirty = false) :
    ∃ k, s.evictFor pa = { s with cache := k } ∧ ∀ x ∈ k, x.isDirty = false := by
  unfold State.evictFor
  split
  · exact State.flushLines_keeps_clean h
  · exact ⟨_, rfl, h⟩

theorem State.openVersion_of_h0 {s : State} (pa : Nat) (h0 : hypNum s.th.thyp = 0) : s.openVersion pa = s := by
  simp [State.openVersion, h0]

/-- The state is ready for an atomic on a granule of this module that the pointer names: nothing is buffered, no copy is dirty, no
watchpoint is enabled and no token is awaited, the thread stands under H0, and the granule has the pointer's tag and no poison. -/
structure AtomReady (s : State) (p : Word) (pa : Nat) : Prop where
  wf : s.mem.wf
  unbuffered : s.sbuf = []
  clean : ∀ x ∈ s.cache, x.isDirty = false
  quiet : s.anyWatch = false
  h0 : hypNum s.th.thyp = 0
  isLocal : s.isLocal pa = true
  token : s.tokenNeeded pa = none
  tag : s.tagHome pa = BitVec.ofNat 4 (p.toNat / 2 ^ 60)
  sound : s.poisonHome s.th.cx s.th.thyp pa = false

theorem AtomReady.notPoisoned {s : State} {p : Word} {pa : Nat} (h : AtomReady s p pa) : s.mem.poisoned (offsetOf pa) = false :=
  (State.poisonHome_of_h0 s.th.cx h.isLocal h.h0).symm.trans h.sound

theorem AtomReady.versionFree {s : State} {p : Word} {pa : Nat} (h : AtomReady s p pa) : s.versionBlocked pa = false := by
  simp [State.versionBlocked, h.h0]

/-- What a returning atomic has changed once its home has answered: memory, and beside that only the thread's floor, stamps, copies and
tokens of contexts. -/
structure AtomAnswered (s t : State) : Prop where
  thread : t.th = { s.th with floor := t.th.floor }
  module : t = { s with
    th := t.th, mem := t.mem, stamps := t.stamps, cache := t.cache, ctxs := t.ctxs, llc := t.llc }

theorem AtomAnswered.anyWatch {s t : State} (h : AtomAnswered s t) : t.anyWatch = s.anyWatch := by
  obtain ⟨hth, hm⟩ := h
  rw [hm]
  unfold State.anyWatch State.threads
  dsimp only
  rw [hth]
  rfl

/-- A returning atomic at its home: the old value comes back, and the result is put in its place. -/
theorem AtomReady.atomAt {s : State} {p : Word} {pa : Nat} (h : AtomReady s p pa) (op : AtomOp) (z : AtomSize) (b e : Word) :
    ∃ t, s.atomAt p pa op z b e = .ok (t, s.atomOld pa z, (s.atomOutcome pa op z b.toNat e.toNat).2) ∧ AtomAnswered s t ∧
      t.mem = s.atomMem pa op z b.toNat e.toNat := by
  have hsettle : s.settleGranule pa = s := drain_of_none (by rw [h.unbuffered, List.any_nil])
  obtain ⟨k, hk, -⟩ := State.evictFor_of_clean pa h.clean
  obtain ⟨f, st, hex, -⟩ := State.exchange_frame { s with cache := k } (homeKey (offsetOf pa))
  have hopen := State.openVersion_of_h0 (s := { s with cache := k, th := { s.th with floor := f }, stamps := st }) pa h.h0
  obtain ⟨cs, hcs⟩ : ∃ cs, State.tokenUsed { s with cache := k, th := { s.th with floor := f }, stamps := st } pa =
    { s with cache := k, th := { s.th with floor := f }, stamps := st, ctxs := cs } := ⟨_, State.tokenUsed_ctxs _ pa⟩
  obtain ⟨l, hl⟩ := State.applyAtom_committed (s := { s with cache := k, th := { s.th with floor := f }, stamps := st, ctxs := cs })
    s.th.cx op z (b.toNat % 2 ^ (8 * atomBytes z)) (e.toNat % 2 ^ (8 * atomBytes z)) (pa := pa) h.isLocal h.h0
  have hcheck : State.atomCheck { s with cache := k } s.th.cx s.th.thyp p pa = none :=
    State.atomCheck_of_sound s.th.cx h.isLocal h.h0 h.tag h.notPoisoned
  have hloc : State.isLocal { s with cache := k } pa = true := h.isLocal
  have hout := s.atomOutcome_mod pa op z b.toNat e.toNat
  refine ⟨{ s with cache := k, th := { s.th with floor := f }, stamps := st, ctxs := cs, llc := l,
                   mem := s.atomMem pa op z b.toNat e.toNat }, ?_, ⟨rfl, rfl⟩, rfl⟩
  unfold State.atomMem
  rw [← hout]
  unfold State.atomAt
  simp only [hsettle, hk, hcheck, hloc, if_true, hex, hopen, hcs, hl]
  rfl

theorem Thread.setG_of_floor (t : Thread) (f : Word) (d : Reg) (v : Word) :
    Thread.setG { t with floor := f } d v = { t.setG d v with floor := f } := by
  unfold Thread.setG
  split <;> rfl

/-- The thread after a returning atomic, but for its floor: the old value in g[d] and the flags of the operation. -/
def ReturnedTo (s t : State) (d : Reg) (back : Word) (fl : Flags) : Prop :=
  t.th = { (s.th.setG d back) with
    pc := s.th.pc + 4, pass := false, mid := false, floor := t.th.floor, tflags := s.th.tflags ||| fl.setWidth 64 }

/-- The value at the address after an atomic. -/
def State.atomNew (s : State) (pa : Nat) (op : AtomOp) (z : AtomSize) (b e : Nat) : Nat :=
  (s.atomOutcome pa op z b e).1.getD (s.atomOld pa z)

/-- A state with the memory after an atomic has the result in its place, and nothing else in memory changed. -/
theorem AtomReady.homeChanged {s t : State} {p : Word} {pa : Nat} (h : AtomReady s p pa) {op : AtomOp} {z : AtomSize} {b e : Nat}
    (hz : op = .fadd → z = .w) (hmem : t.mem = s.atomMem pa op z b e) (hpeers : t.peers = s.peers) :
    HomeChanged s t (offsetOf pa) (atomBytes z) (s.atomNew pa op z b e) :=
  homeChanged_of_put h.wf (fun _ hv => s.atomOutcome_lt pa hz b e hv) hmem hpeers

/-- A returning atomic of this module completes. -/
theorem AtomReady.returnAtom {s : State} {p : Word} {pa : Nat} (h : AtomReady s p pa) {op : AtomOp} {z : AtomSize} (d : Reg) (b e : Word)
    (hz : op = .fadd → z = .w) (hc : s.check p (p.toNat % 2 ^ 52) (atomReq (atomBytes z)) = .ok pa) :
    ∃ t, returnAtom op z d p b e s = .next t ∧
      HomeChanged s t (offsetOf pa) (atomBytes z) (s.atomNew pa op z b.toNat e.toNat) ∧
      ReturnedTo s t d (atomReturn op z (s.atomOld pa z)) (s.atomOutcome pa op z b.toNat e.toNat).2 := by
  obtain ⟨t, ht, hans, hmem⟩ := h.atomAt op z b e
  have hquiet (insn : BitVec 32) (va : Word) : t.threadTouch insn va pa (atomBytes z) true true false = t :=
    State.threadTouch_of_quiet insn va pa _ true true false (hans.anyWatch.trans h.quiet)
  have hex : Machine.returnAtom op z d p b e s =
      done ((t.setG d (atomReturn op z (s.atomOld pa z))).raiseFlags (s.atomOutcome pa op z b.toNat e.toNat).2) := by
    unfold Machine.returnAtom plainAddress
    simp only [bits_zero, hc, h.token, h.versionFree, Bool.false_eq_true, if_false, ht, hquiet]
  obtain ⟨hth, hm⟩ := hans
  refine ⟨_, hex, h.homeChanged hz ?mem ?peers, ?thread⟩
  case mem =>
    rw [State.advance_mem, raiseFlags_eq]
    exact hmem
  case peers =>
    rw [State.advance_peers, raiseFlags_eq, hm]
    rfl
  case thread =>
    unfold ReturnedTo State.advance State.goto
    rw [raiseFlags_th]
    unfold State.setG
    rw [hth, Thread.setG_of_floor]
    simp

/-! ### The atomic in the store buffer (R201) -/

/-- A barrel thread's non-returning atomic takes an entry. -/
theorem State.enter_of_atom {s : State} (p : Word) (pa n v : Nat) (op : AtomOp) (z : AtomSize) (e : Word) (hb : s.th.onBarrel = true) :
    ∃ (x : StoreEntry) (k : Vector Ctx 16),
      s.enter p pa n v (.atom op z e) = { s with ctxs := k, nextSt := s.nextSt + 1, sbuf := s.sbuf ++ [x] } ∧
      x.pa = pa ∧ x.va = p ∧ x.data = BitVec.ofNat 128 v ∧ x.ctx = s.th.cx ∧ x.hyp = s.th.thyp ∧ x.kind = .atom op z e := by
  have hctl := Thread.not_onControl_of_onBarrel hb
  obtain ⟨k, hk⟩ : ∃ k, State.tokenUsed { s with nextSt := s.nextSt + 1 } pa = { s with nextSt := s.nextSt + 1, ctxs := k } :=
    ⟨_, State.tokenUsed_ctxs _ pa⟩
  unfold State.enter
  simp only [hk, hctl, Bool.false_eq_true, or_self, if_false]
  exact ⟨_, k, rfl, rfl, rfl, rfl, rfl, rfl, rfl⟩

/-- The one entry of the store buffer performs when its atomic is applied. -/
theorem execAtomicApply_of_only {s : State} {x : StoreEntry} (hbuf : s.sbuf = [x]) (hx : x.isAtom = true) :
    execAtomicApply x.id s = .next (State.performEntry { s with sbuf := [] } x) := by
  have hfind : (s.sbuf.find? fun e => e.id = x.id && e.isAtom) = some x := by simp [hbuf, hx]
  have hcan : s.canPerform x = true := by simp [State.canPerform, State.waitsFor, hbuf]
  have hleft : (s.sbuf.filter fun f => f.id ≠ x.id) = [] := by simp [hbuf]
  unfold execAtomicApply
  rw [hfind]
  dsimp only
  rw [State.perform, if_pos hcan, hleft]

/-- An atomic's entry that passes its checks at a home of this module changes memory as its operation says. -/
theorem State.performEntry_of_atom {s : State} {x : StoreEntry} {op : AtomOp} {z : AtomSize} {e : Word} (hk : x.kind = .atom op z e)
    (hclean : ∀ x ∈ s.cache, x.isDirty = false) (hquiet : s.anyWatch = false) (h0 : hypNum x.hyp = 0) (hloc : s.isLocal x.pa = true)
    (hcheck : s.atomCheck x.ctx x.hyp x.va x.pa = none) :
    ∃ st k l, s.performEntry x =
      { s with stamps := st, cache := k, llc := l, mem := s.atomMem x.pa op z x.data.toNat e.toNat } := by
  obtain ⟨k, hgive⟩ := State.giveUpCopies_of_clean x hclean
  obtain ⟨st, hst⟩ := State.carry_stamps { s with cache := k } x
  have hcheck' : State.atomCheck { s with cache := k, stamps := st } x.ctx x.hyp x.va x.pa = none := hcheck
  have htouch : State.touchEntry { s with cache := k, stamps := st } x = { s with cache := k, stamps := st } :=
    State.touchEntry_of_quiet x hquiet
  obtain ⟨l, hl⟩ := State.applyAtom_committed (s := { s with cache := k, stamps := st }) (pa := x.pa) x.ctx op z x.data.toNat e.toNat
    hloc h0
  unfold State.performEntry State.performAtom
  simp only [hk, hgive, h0, hst, hcheck', htouch, hl, ne_eq, not_true_eq_false, false_and, and_false, if_false]
  exact ⟨st, k, l, rfl⟩

/-- The state in which a non-returning atomic has taken the entry `x`, with the copies and tokens that this has left. -/
def State.posted (s : State) (k : List CacheLine) (cs : Vector Ctx 16) (x : StoreEntry) : State :=
  State.advance { s with cache := k, ctxs := cs, nextSt := s.nextSt + 1, sbuf := [x] }

/-- A non-returning atomic of a barrel thread takes the one entry of the store buffer, and its event then makes the change. -/
theorem AtomReady.postAtom {s : State} {p : Word} {pa : Nat} (h : AtomReady s p pa) {op : AtomOp} {z : AtomSize} (b e : Word)
    (hz : op = .fadd → z = .w) (hc : s.check p (p.toNat % 2 ^ 52) { atomReq (atomBytes z) with posted := true } = .ok pa)
    (hb : s.th.onBarrel = true) :
    ∃ t x u, postAtom op z p b e s = .next t ∧ t.sbuf = [x] ∧ x.pa = pa ∧ t.mem = s.mem ∧
      t.th = { s.th with pc := s.th.pc + 4, pass := false, mid := false } ∧ execAtomicApply x.id t = .next u ∧ u.sbuf = [] ∧
      HomeChanged s u (offsetOf pa) (atomBytes z) (s.atomNew pa op z b.toNat e.toNat) ∧ u.th = t.th := by
  have hwait (ea : Word) : s.storeWait ea pa = none :=
    State.storeWait_of_h0 ea h.h0 h.token (by simp [State.bufferFull, h.unbuffered])
  obtain ⟨k, hk, hclean⟩ := State.evictFor_of_clean pa h.clean
  obtain ⟨x, cs, henter, rfl, hva, hdata, hctx, hhyp, hkind⟩ := State.enter_of_atom (s := { s with cache := k }) p pa (atomBytes z)
    b.toNat op z (BitVec.ofNat 64 (e.toNat % 2 ^ (8 * atomBytes z))) hb
  have hex : Machine.postAtom op z p b e s = .next (s.posted k cs x) := by
    unfold Machine.postAtom withAtom plainAddress
    simp only [bits_zero, hc, hwait, hk, henter]
    rw [h.unbuffered]
    rfl
  have hexp : (BitVec.ofNat 64 (e.toNat % 2 ^ (8 * atomBytes z))).toNat = e.toNat % 2 ^ (8 * atomBytes z) := by
    rw [BitVec.toNat_ofNat]
    exact Nat.mod_eq_of_lt ((Nat.mod_le _ _).trans_lt e.isLt)
  have h0 : hypNum x.hyp = 0 := hhyp ▸ h.h0
  obtain ⟨st, k', l, hperf⟩ := State.performEntry_of_atom
    (s := { s.posted k cs x with sbuf := [] }) hkind hclean h.quiet h0 h.isLocal
    (State.atomCheck_of_sound x.ctx h.isLocal h0 (hva ▸ h.tag) h.notPoisoned)
  have hdata' : x.data.toNat = b.toNat := by
    rw [hdata, BitVec.toNat_ofNat]
    exact Nat.mod_eq_of_lt (b.isLt.trans (by decide))
  have hatom : x.isAtom = true := by simp [StoreEntry.isAtom, hkind]
  have happly : execAtomicApply x.id (s.posted k cs x) = _ := (execAtomicApply_of_only rfl hatom).trans (congrArg _ hperf)
  refine ⟨_, x, _, hex, rfl, rfl, rfl, rfl, happly, rfl, h.homeChanged hz ?_ rfl, rfl⟩
  rw [hdata', hexp]
  unfold State.atomMem
  exact congrArg (fun y => Mem.put _ _ _ (Prod.fst y)) (s.atomOutcome_expect_mod x.pa op z _ _)

/-! ### The operations (R199, R200) -/

theorem atomResult_add (w old b e : Nat) : atomResult .add w old b e = (some ((old + b % 2 ^ w) % 2 ^ w), 0) := by
  simp [atomResult]

theorem atomResult_swp (w old b e : Nat) : atomResult .swp w old b e = (some (b % 2 ^ w), 0) := by
  simp [atomResult]

section Results

variable {w old : Nat} (hold : old < 2 ^ w) (b e : Nat)
include hold

theorem atomResult_and : atomResult .and w old b e = (some (old &&& b % 2 ^ w), 0) := by
  simp [atomResult, Nat.mod_eq_of_lt hold]

theorem atomResult_or : atomResult .or w old b e = (some (old ||| b % 2 ^ w), 0) := by
  simp [atomResult, Nat.mod_eq_of_lt hold]

theorem atomResult_xor : atomResult .xor w old b e = (some (old ^^^ b % 2 ^ w), 0) := by
  simp [atomResult, Nat.mod_eq_of_lt hold]

theorem atomResult_min : atomResult .min w old b e =
    (some (if (BitVec.ofNat w old).toInt ≤ (BitVec.ofNat w (b % 2 ^ w)).toInt then old else b % 2 ^ w), 0) := by
  simp only [atomResult, ofNat_mod_two_pow, apply_ite BitVec.toNat, BitVec.toNat_ofNat, Nat.mod_eq_of_lt hold]

theorem atomResult_max : atomResult .max w old b e =
    (some (if (BitVec.ofNat w (b % 2 ^ w)).toInt ≤ (BitVec.ofNat w old).toInt then old else b % 2 ^ w), 0) := by
  simp only [atomResult, ofNat_mod_two_pow, apply_ite BitVec.toNat, BitVec.toNat_ofNat, Nat.mod_eq_of_lt hold, ge_iff_le]

theorem atomResult_minn : atomResult .minn w old b e = (some (min old (b % 2 ^ w)), 0) := by
  simp only [atomResult, apply_ite BitVec.toNat, BitVec.toNat_ofNat, Nat.mod_eq_of_lt hold, min_def]

theorem atomResult_maxn : atomResult .maxn w old b e = (some (max old (b % 2 ^ w)), 0) := by
  simp only [atomResult, apply_ite BitVec.toNat, BitVec.toNat_ofNat, Nat.mod_eq_of_lt hold, ge_iff_le, max_comm old, max_def]

theorem atomResult_cas : atomResult .cas w old b e = (if old = e % 2 ^ w then some (b % 2 ^ w) else none, 0) := by
  have heq : BitVec.ofNat w old = BitVec.ofNat w e ↔ old = e % 2 ^ w := by
    rw [← BitVec.toNat_inj, BitVec.toNat_ofNat, BitVec.toNat_ofNat, Nat.mod_eq_of_lt hold]
  simp only [atomResult, heq, BitVec.toNat_ofNat]

theorem atomResult_fadd : atomResult .fadd w old b e =
    (some (addData (fmtOf .f32) .rne false (unpack (fmtOf .f32) old) (unpack (fmtOf .f32) (b % 2 ^ w))).1,
      (addData (fmtOf .f32) .rne false (unpack (fmtOf .f32) old) (unpack (fmtOf .f32) (b % 2 ^ w))).2) := by
  simp only [atomResult, BitVec.toNat_ofNat, Nat.mod_eq_of_lt hold]

end Results

/-- The two forms of an atomic whose operation gives `v`, raises `fl` and returns `back`. -/
theorem AtomReady.forms {s : State} {p : Word} {pa : Nat} (h : AtomReady s p pa) {op : AtomOp} {z : AtomSize} (hz : op = .fadd → z = .w)
    {d : Reg} {b e : Word} {i j : Instr} (hi : exec i s = Machine.returnAtom op z d p b e s) (hj : exec j s = Machine.postAtom op z p b e s)
    {x : Option Nat} {v : Nat} {back : Word} {fl : Flags} (hx : s.atomOutcome pa op z b.toNat e.toNat = (x, fl))
    (hv : x.getD (s.atomOld pa z) = v) (hback : atomReturn op z (s.atomOld pa z) = back) :
    (s.check p (p.toNat % 2 ^ 52) (atomReq (atomBytes z)) = .ok pa →
      ∃ t, exec i s = .next t ∧ HomeChanged s t (offsetOf pa) (atomBytes z) v ∧ ReturnedTo s t d back fl) ∧
    (s.check p (p.toNat % 2 ^ 52) { atomReq (atomBytes z) with posted := true } = .ok pa → s.th.onBarrel = true →
      ∃ t x u, exec j s = .next t ∧ t.sbuf = [x] ∧ x.pa = pa ∧ t.mem = s.mem ∧
        t.th = { s.th with pc := s.th.pc + 4, pass := false, mid := false } ∧ exec (.atomicApply x.id) t = .next u ∧ u.sbuf = [] ∧
        HomeChanged s u (offsetOf pa) (atomBytes z) v ∧ u.th = t.th) := by
  have hnew : s.atomNew pa op z b.toNat e.toNat = v := by rw [State.atomNew, hx]; exact hv
  refine ⟨fun hc => ?_, fun hc hb => ?_⟩
  · obtain ⟨t, ht, hhome, hth⟩ := h.returnAtom d b e hz hc
    rw [hnew] at hhome
    rw [hback, hx] at hth
    exact ⟨t, hi.trans ht, hhome, hth⟩
  · obtain ⟨t, y, u, ht, hbuf, hpa, hmem, hth, hu, hempty, hhome, hsame⟩ := h.postAtom b e hz hc hb
    rw [hnew] at hhome
    exact ⟨t, y, u, hj.trans ht, hbuf, hpa, hmem, hth, hu, hempty, hhome, hsame⟩

/-- Settles O44: the two forms of each operation are `returnAtom` and `postAtom` of it, and its result is that of `atomResult`. -/
theorem atomics : Obligations.Atomics := by
  intro d a b c z s pa n hn hwf hbuf hclean hquiet h0 hloc htok htag hpsn m y e sg old back changed returns posts both
  obtain rfl : n = atomBytes z := by cases z <;> exact hn
  have hr : AtomReady s (s.gr a) pa :=
    ⟨hwf, hbuf, fun x hx => by simpa using List.all_eq_true.1 hclean x hx, hquiet, h0, hloc, htok, htag, hpsn⟩
  have hm : m = 2 ^ (8 * atomBytes z) := (Nat.pow_mul 2 8 _).symm
  have hy : y = (s.gr b).toNat % 2 ^ (8 * atomBytes z) := congrArg ((s.gr b).toNat % ·) hm
  have he : e = (s.gr c).toNat % 2 ^ (8 * atomBytes z) := congrArg ((s.gr c).toNat % ·) hm
  have hold : s.atomOld pa z < 2 ^ (8 * atomBytes z) := Mem.read_lt ..
  have hback : (BitVec.ofNat (8 * atomBytes z) old).signExtend 64 = back true := rfl
  have never {op : AtomOp} (h : op ≠ .fadd) : op = .fadd → z = .w := fun hop => absurd hop h
  refine ⟨?add, ?and, ?or, ?xor, ?min, ?max, ?minn, ?maxn, ?swp, ?cas, ?fadd⟩
  case add => exact hr.forms (never (by decide)) rfl rfl (atomResult_add ..) (by rw [hy, hm]; rfl) hback
  case and => exact hr.forms (never (by decide)) rfl rfl (atomResult_and hold _ _) (by rw [hy]; rfl) hback
  case or => exact hr.forms (never (by decide)) rfl rfl (atomResult_or hold _ _) (by rw [hy]; rfl) hback
  case xor => exact hr.forms (never (by decide)) rfl rfl (atomResult_xor hold _ _) (by rw [hy]; rfl) hback
  case min => exact hr.forms (never (by decide)) rfl rfl (atomResult_min hold _ _) (by rw [hy]; rfl) hback
  case max => exact hr.forms (never (by decide)) rfl rfl (atomResult_max hold _ _) (by rw [hy]; rfl) hback
  case minn => exact hr.forms (never (by decide)) rfl rfl (atomResult_minn hold _ _) (by rw [hy]; rfl) rfl
  case maxn => exact hr.forms (never (by decide)) rfl rfl (atomResult_maxn hold _ _) (by rw [hy]; rfl) rfl
  case swp => exact hr.forms (never (by decide)) rfl rfl (atomResult_swp ..) (by rw [hy]; rfl) hback
  case cas =>
    refine hr.forms (never (by decide)) rfl rfl (atomResult_cas hold _ _) ?_ hback
    rw [he, hy]
    exact apply_ite (Option.getD · old) _ _ _
  case fadd =>
    rintro rfl v rfl
    exact hr.forms (fun _ => rfl) rfl rfl (atomResult_fadd hold _ _) rfl rfl

end Sys2Proof.Machine
end

section
/-!
SUPPORT. A ring control block that stands where a control core's traps put their record.
-/
namespace Sys2Proof.Machine

/-! ### A ring control block under SFREC (R209, R211, R241)

A trap of a control core writes its record of 64 bytes at SFREC, and the 64 bytes of a ring control block may stand there. -/

/-- Control core 0 with a ring control block of one slot of eight bytes at the start of site 0's TCM, a pointer to it in g1, and SFREC
naming the same address. -/
def ringUnderRecord : State :=
  { State.reset with
    mem := { Mem.cleared with bytes := [(0x1F000000008, 1), (0x1F000000009, 3)] }
    sites := [(0, { Site.initial 0 with status := .enabled })]
    th := { State.reset.th with
      g := State.reset.th.g.set 1 0x0C0001F000000000
      sv := { State.reset.th.sv with sfrec := 0x1F000000000 } } }

theorem ringUnderRecord_good : (ringUnderRecord.readRing 0x1F000000000).bad = false ∧ ringUnderRecord.mem.wf ∧
    ringUnderRecord.anyWatch = false ∧ ringUnderRecord.ringTags (ringUnderRecord.gr 1) 0x1F000000000 = none := by decide +kernel

theorem ringUnderRecord_check : ringUnderRecord.check (ringUnderRecord.gr 1) ((ringUnderRecord.gr 1).toNat % 2 ^ 52) ringReq =
    .ok 0x1F000000000 := by decide +kernel

theorem ringUnderRecord_base : (ringUnderRecord.readRing 0x1F000000000).base = 0 := by decide +kernel

/-- The first word of the record is its ADDR, here the pointer in g1. -/
theorem ringUnderRecord_trapped :
    ((ringUnderRecord.deliver (ringUnderRecord.recordOf 0x17 (ringUnderRecord.gr 1) 0 0 0)).readRing 0x1F000000000).base =
      0x0C0001F000000000 := by decide +kernel

/-- Refutes O45: of the ring after the RINGSTATE trap, since no premise keeps the control block apart from where the trap writes its
record. In `ringUnderRecord` SFREC names the control block, whose BASE, 0 before, is then the record's ADDR. -/
theorem not_rings : ¬ Obligations.Rings := by
  intro h
  obtain ⟨hgood, hwf, hwatch, htags⟩ := ringUnderRecord_good
  obtain ⟨-, -, -, -, -, -, -, -, hsame, -⟩ := h 0 1 0 ringUnderRecord 0x1F000000000 _ rfl hgood hwf rfl rfl rfl rfl rfl hwatch rfl
    (by decide +kernel) (by decide +kernel) htags ringUnderRecord_check
  have hbase := (congrArg Ring.base hsame).symm.trans ringUnderRecord_trapped
  exact absurd (ringUnderRecord_base.symm.trans hbase) (by decide)

end Sys2Proof.Machine
end

section
/-!
SUPPORT. A barrier that releases a thread whose context image stands in its save record.
-/
namespace Sys2Proof.Machine

/-! ### A release that reaches a saved thread (R214, R235, R245)

The release of a phase raises the time floor of every thread whose arrival it releases. A saved thread has its floor in its save record,
which is in memory. -/

/-- Control core 0, barrier 0 of context 0 with its one member core arrived, and the thread that arrived there, thread 7, since saved
with its save record at 0x20000. -/
def savedAtBarrier : State :=
  { State.reset with
    ctxs := State.reset.ctxs.set 0 { Ctx.reset with bars := Ctx.reset.bars.set 0 { Barrier.reset with
      en := true, mask := 1, maskN := 1, arr := [(0, 1)], stamps := [(0, 0, true, false)], ready := true } }
    rest := { Thread.blank with place := .saved 0 7, tid := 7, av := Thread.blank.av.set 0 true, save := 0x20000 } ::
      State.reset.rest }

/-- The release message puts the floor 1 into the first word of the image. -/
theorem savedAtBarrier_released : byteAfter (exec (.barrierRelease 0 0) savedAtBarrier) 0x20000 = some 1 := by decide +kernel

/-- Refutes O46: of memory after BARRIER_RELEASE, since no premise says that the threads that the release reaches are resident. In
`savedAtBarrier` thread 7 is saved, and the first byte of its save record, 0 before, is 1 after the release. -/
theorem not_barriersAndTimedWaits : ¬ Obligations.BarriersAndTimedWaits := by
  intro h
  obtain ⟨-, -, -, -, -, -, -, -, hrelease, -⟩ := h 0 0 0 savedAtBarrier 0 0 _ _ rfl rfl rfl rfl rfl rfl
  obtain ⟨t, ht, -, -, -, -, -, hmem⟩ := hrelease rfl
  have hbyte := savedAtBarrier_released
  rw [ht] at hbyte
  have hsame : byteAfter (.next t) 0x20000 = some 0 := congrArg some (congrArg (Mem.byte · 0x20000) hmem)
  exact absurd (hsame.symm.trans hbyte) (by decide)

end Sys2Proof.Machine
end

section
/-!
SUPPORT. Words as sums of their fields.
-/
namespace Sys2Proof.Machine

/-! ### Words made of fields (R9) -/

theorem field_eq_ofNat {lo n v : Nat} (hv : v < 2 ^ n) : field lo n v = BitVec.ofNat 64 (v * 2 ^ lo) := by
  rw [field, Nat.mod_eq_of_lt hv, Nat.shiftLeft_eq]

/-- A field joins the fields above it as a summand. -/
theorem ofNat_or_field {X lo n v : Nat} (hX : 2 ^ (lo + n) ∣ X) (hv : v < 2 ^ n) :
    BitVec.ofNat 64 X ||| field lo n v = BitVec.ofNat 64 (X + v * 2 ^ lo) := by
  obtain ⟨k, rfl⟩ := hX
  have hlt : v * 2 ^ lo < 2 ^ (lo + n) := by
    rw [Nat.pow_add, Nat.mul_comm (2 ^ lo)]
    exact Nat.mul_lt_mul_of_pos_right hv (Nat.two_pow_pos lo)
  rw [field_eq_ofNat hv, Nat.two_pow_add_eq_or_of_lt hlt, BitVec.ofNat_or]

/-- A field keeps what fits in it. -/
theorem field_mod (lo n v : Nat) : field lo n (v % 2 ^ n) = field lo n v := by rw [field, Nat.mod_mod, field]

theorem ofNat_or_field_mod {X lo n : Nat} (hX : 2 ^ (lo + n) ∣ X) (v : Nat) :
    BitVec.ofNat 64 X ||| field lo n v = BitVec.ofNat 64 (X + v % 2 ^ n * 2 ^ lo) := by
  rw [← field_mod, ofNat_or_field hX (Nat.mod_lt _ (Nat.two_pow_pos n))]

theorem flag_eq_ofNat (lo : Nat) (b : Bool) : flag lo b = BitVec.ofNat 64 (b.toNat * 2 ^ lo) := field_eq_ofNat b.toNat_lt

theorem ofNat_or_flag {X lo : Nat} (hX : 2 ^ (lo + 1) ∣ X) (b : Bool) :
    BitVec.ofNat 64 X ||| flag lo b = BitVec.ofNat 64 (X + b.toNat * 2 ^ lo) := ofNat_or_field hX b.toNat_lt

theorem bits_eq_div_mod {w : Nat} (x : BitVec w) (lo n : Nat) : bits x lo n = x.toNat / 2 ^ lo % 2 ^ n := by
  rw [bits, Nat.shiftRight_eq_div_pow]

theorem toNat_bit {w : Nat} (x : BitVec w) (i : Nat) : (bit x i).toNat = x.toNat / 2 ^ i % 2 := by
  rw [← bit_eq_bits, bits_eq_div_mod, Nat.pow_one]

end Sys2Proof.Machine
end

section
/-!
SUPPORT. Words, records and images that the device writes in this module's memory, and what is read back.
-/
namespace Sys2Proof.Machine

/-! ### Addresses of this module (R27, R147) -/

theorem State.localPa_eq (s : State) {o : Nat} (ho : o < 2 ^ 41) : s.localPa o = s.modId * 2 ^ 41 + o := by
  rw [State.localPa, Nat.mod_eq_of_lt ho]

/-- The addresses of this module depend on the registers alone. -/
theorem State.localPa_congr {s t : State} (h : t.regs = s.regs) (o : Nat) : t.localPa o = s.localPa o := by
  unfold State.localPa State.modId State.reg
  rw [h]

theorem State.isLocal_localPa (s : State) (o : Nat) : s.isLocal (s.localPa o) = true := by
  simp only [State.isLocal, State.localPa, beq_iff_eq]
  omega

theorem offsetOf_localPa (s : State) {o : Nat} (ho : o < 2 ^ 41) : offsetOf (s.localPa o) = o := by
  rw [offsetOf, s.localPa_eq ho]
  omega

theorem State.localPa_add (s : State) {o n : Nat} (h : o + n < 2 ^ 41) : s.localPa o + n = s.localPa (o + n) := by
  rw [s.localPa_eq h, s.localPa_eq (by omega), Nat.add_assoc]

/-! ### Words of a memory, one after another (R8) -/

/-- Words written at consecutive addresses. -/
def Mem.putWords (m : Mem) (o : Nat) : List Word → Mem
  | [] => m
  | w :: ws => (m.write o 8 w.toNat).putWords (o + 8) ws

/-- Words read from consecutive addresses. -/
def Mem.getWords (m : Mem) (o : Nat) : Nat → List Word
  | 0 => []
  | n + 1 => BitVec.ofNat 64 (m.read o 8) :: m.getWords (o + 8) n

theorem Mem.wf_putWords {m : Mem} (h : m.wf) (o : Nat) (ws : List Word) : (m.putWords o ws).wf := by
  induction ws generalizing m o with
  | nil => exact h
  | cons w ws ih => exact ih (m.wf_write h o 8 w.toNat) (o + 8)

theorem Mem.byte_putWords_of_out {m : Mem} (h : m.wf) {o : Nat} {ws : List Word} {j : Nat} (hj : j < o ∨ o + 8 * ws.length ≤ j) :
    (m.putWords o ws).byte j = m.byte j := by
  induction ws generalizing m o with
  | nil => rfl
  | cons w ws ih =>
    rw [List.length_cons] at hj
    rw [Mem.putWords, ih (m.wf_write h ..) (by omega), m.byte_write_of_out h _ _ _ _ (by omega)]

/-- What is read depends on the bytes there alone. -/
theorem Mem.read_congr {m k : Mem} {o n : Nat} (h : ∀ j, o ≤ j → j < o + n → m.byte j = k.byte j) : m.read o n = k.read o n := by
  induction n generalizing o with
  | zero => rfl
  | succ n ih =>
    rw [Mem.read, Mem.read, h o (Nat.le_refl o) (by omega), ih fun j h1 h2 => h j (by omega) (by omega)]

theorem Mem.getWords_congr {m k : Mem} {o n : Nat} (h : ∀ j, o ≤ j → j < o + 8 * n → m.byte j = k.byte j) :
    m.getWords o n = k.getWords o n := by
  induction n generalizing o with
  | zero => rfl
  | succ n ih =>
    rw [Mem.getWords, Mem.getWords, Mem.read_congr fun j h1 h2 => h j h1 (by omega), ih fun j h1 h2 => h j (by omega) (by omega)]

theorem Mem.getWords_putWords {m : Mem} (h : m.wf) (o : Nat) (ws : List Word) : (m.putWords o ws).getWords o ws.length = ws := by
  induction ws generalizing m o with
  | nil => rfl
  | cons w ws ih =>
    have hw : m.write o 8 w.toNat |>.wf := m.wf_write h o 8 w.toNat
    have hread : ((m.write o 8 w.toNat).putWords (o + 8) ws).read o 8 = w.toNat := by
      rw [Mem.read_congr fun j _ h2 => Mem.byte_putWords_of_out hw (.inl h2), Mem.read_write_same h]
      exact Nat.mod_eq_of_lt w.isLt
    rw [Mem.putWords, List.length_cons, Mem.getWords, hread, ih hw, BitVec.ofNat_toNat, BitVec.setWidth_eq]

theorem Mem.getWords_putWords_of_out {m : Mem} (h : m.wf) {o p n : Nat} {ws : List Word} (hp : p + 8 * n ≤ o ∨ o + 8 * ws.length ≤ p) :
    (m.putWords o ws).getWords p n = m.getWords p n :=
  Mem.getWords_congr fun _ _ _ => Mem.byte_putWords_of_out h (by omega)

/-! ### Words that the device writes in this module (R27, R147) -/

/-- A committed write of one word changes memory and what the LLC holds. -/
theorem State.writeHome_word (s : State) (c : Fin 16) {pa : Nat} (v : Nat) (hl : s.isLocal pa = true) :
    ∃ l, s.writeHome c 0 pa 8 v = { s with mem := s.mem.write (offsetOf pa) 8 v, llc := l } := by
  unfold State.writeHome
  dsimp only
  split
  · obtain ⟨l, hllc⟩ := State.touchLlc_frame { s with mem := s.mem.write (offsetOf pa) 8 v } (offsetOf pa / 64) true
    exact ⟨l, hllc⟩
  · refine ⟨s.llc, ?_⟩
    simp only [State.updMem, State.cellAt, hl, if_true]
    rfl

theorem State.readHome_word (s : State) {pa : Nat} (hl : s.isLocal pa = true) : s.readHome 0 0 pa 8 = s.mem.read (offsetOf pa) 8 :=
  s.readHome_local_h0 0 8 hl rfl

theorem State.writeWords_local (s : State) (c : Fin 16) {o : Nat} {ws : List Word} (ho : o + 8 * ws.length ≤ 2 ^ 41) :
    ∃ l, s.writeWords c (s.localPa o) ws = { s with mem := s.mem.putWords o ws, llc := l } := by
  induction ws generalizing s o with
  | nil => exact ⟨_, rfl⟩
  | cons w ws ih =>
    rw [List.length_cons] at ho
    obtain ⟨l, hhome⟩ := s.writeHome_word c w.toNat (s.isLocal_localPa o)
    rw [offsetOf_localPa s (by omega)] at hhome
    rw [State.writeWords, hhome, Mem.putWords]
    generalize s.mem.write o 8 w.toNat = m
    cases ws with
    | nil => exact ⟨l, rfl⟩
    | cons w' ws =>
      rw [List.length_cons] at ho
      obtain ⟨k, hrest⟩ := ih { s with mem := m, llc := l } (o := o + 8) (by rw [List.length_cons]; omega)
      rw [State.localPa_congr (s := s) (t := { s with mem := m, llc := l }) rfl] at hrest
      rw [s.localPa_add (by omega), hrest]
      exact ⟨k, rfl⟩

theorem State.readWords_local (s : State) {o n : Nat} (ho : o + 8 * n ≤ 2 ^ 41) : s.readWords (s.localPa o) n = s.mem.getWords o n := by
  induction n generalizing o with
  | zero => rfl
  | succ n ih =>
    rw [State.readWords, s.readHome_word (s.isLocal_localPa o), offsetOf_localPa s (by omega), Mem.getWords]
    cases n with
    | zero => rfl
    | succ n => rw [s.localPa_add (by omega), ih (by omega)]

/-! ### Fault records (R230) -/

theorem State.ctx_updCtx_self (s : State) (c : Fin 16) (f : Ctx → Ctx) : (s.updCtx c f).ctx c = f (s.ctx c) := by
  rw [State.updCtx, State.ctx_setCtx, if_pos rfl]

/-- A record is stamped with the time at its maker and the count of its context, which goes up by one. -/
theorem State.makeRecord_spec (s : State) (key : Nat) (r : Record) : ∃ cs, (s.makeRecord key r).1 = { s with ctxs := cs } ∧
    (s.makeRecord key r).2 = { r with time := s.stamp key, seq := (s.ctx r.ctx).seq } ∧
    (State.ctx { s with ctxs := cs } r.ctx).seq = (s.ctx r.ctx).seq + 1 := by
  have hframe : SameButCtxs s (s.makeRecord key r).1 := by unfold State.makeRecord; dsimp only; split <;> rfl
  refine ⟨_, hframe, rfl, ?_⟩
  rw [← hframe]
  unfold State.makeRecord
  dsimp only
  split
  · rw [State.ctx_updCtx_self, State.blame, State.ctx_updCtx_self]
  · rw [State.ctx_updCtx_self]

end Sys2Proof.Machine
end

section
/-!
SUPPORT. The trap of a control core: its record, its entry, and what takes it.
-/
namespace Sys2Proof.Machine

/-! ### The trap of a control core (R230, R241) -/

/-- The eight words of a record, each a sum of its fields. -/
theorem Record.words_eq (r : Record) : r.words =
    [r.addr, BitVec.ofNat 64 (r.tid.toNat * 2 ^ 32 + r.insn.toNat),
     BitVec.ofNat 64 (r.cause.toNat * 2 ^ 56 + r.src.toNat * 2 ^ 52 + r.ctx.val * 2 ^ 48 + r.expt.toNat * 2 ^ 44 +
       r.fndt.toNat * 2 ^ 40 + r.hyp.toNat * 2 ^ 32 + r.site.toNat * 2 ^ 16 + r.unit.toNat * 2 ^ 8 + r.lane.toNat),
     r.elem, r.time, r.pc, r.detail, BitVec.ofNat 64 (r.seq.toNat * 2 ^ 32 + 1)] := by
  have hids : field 32 24 r.tid.toNat ||| field 0 32 r.insn.toNat = BitVec.ofNat 64 (r.tid.toNat * 2 ^ 32 + r.insn.toNat) := by
    rw [field_eq_ofNat r.tid.isLt, ofNat_or_field (by omega) r.insn.isLt, Nat.pow_zero, Nat.mul_one]
  have hcause : field 56 8 r.cause.toNat ||| field 52 4 r.src.toNat ||| field 48 4 r.ctx ||| field 44 4 r.expt.toNat |||
      field 40 4 r.fndt.toNat ||| field 32 8 r.hyp.toNat ||| field 16 10 r.site.toNat ||| field 8 8 r.unit.toNat |||
      field 0 8 r.lane.toNat =
      BitVec.ofNat 64 (r.cause.toNat * 2 ^ 56 + r.src.toNat * 2 ^ 52 + r.ctx.val * 2 ^ 48 + r.expt.toNat * 2 ^ 44 +
        r.fndt.toNat * 2 ^ 40 + r.hyp.toNat * 2 ^ 32 + r.site.toNat * 2 ^ 16 + r.unit.toNat * 2 ^ 8 + r.lane.toNat) := by
    rw [field_eq_ofNat r.cause.isLt, ofNat_or_field (by omega) r.src.isLt, ofNat_or_field (by omega) r.ctx.isLt,
      ofNat_or_field (by omega) r.expt.isLt, ofNat_or_field (by omega) r.fndt.isLt, ofNat_or_field (by omega) r.hyp.isLt,
      ofNat_or_field (by omega) r.site.isLt, ofNat_or_field (by omega) r.unit.isLt, ofNat_or_field (by omega) r.lane.isLt,
      Nat.pow_zero, Nat.mul_one]
  have hseq : field 32 32 r.seq.toNat ||| 1 = BitVec.ofNat 64 (r.seq.toNat * 2 ^ 32 + 1) := by
    rw [field_eq_ofNat r.seq.isLt]
    exact ofNat_or_field (lo := 0) (n := 1) (v := 1) (by omega) (by decide)
  rw [Record.words, hids, hcause, hseq]

/-- A control core at its vector after a trap with record `r`. -/
def Thread.atVector (t : Thread) (r : Record) : Thread :=
  { t with pc := t.sv.svec.setWidth 52, sup := true, pass := false, mid := false, st := .run, wait := .none,
           sv := { t.sv with
             sepc := t.pc, scause := BitVec.ofNat 64 r.cause.toNat, sfaddr := r.addr,
             ssts := BitVec.ofNat 64 (t.sv.ssts.toNat % 2 * 4 + t.sup.toNat * 2) } }

/-- The stacked status: IE of before in PIE, the mode in PSUP. -/
theorem stackedStatus_eq (x : Word) (sup : Bool) :
    flag 2 (bit x 0) ||| flag 1 sup = BitVec.ofNat 64 (x.toNat % 2 * 4 + sup.toNat * 2) := by
  rw [flag_eq_ofNat, ofNat_or_flag (by omega), toNat_bit, Nat.pow_zero, Nat.div_one]
  rfl

theorem State.enterControl_th (s : State) (t : Thread) (r : Record) : (s.enterControl t r).th = t.atVector r := by
  have hcause : field 0 8 r.cause.toNat = BitVec.ofNat 64 r.cause.toNat := by
    rw [field_eq_ofNat r.cause.isLt, Nat.pow_zero, Nat.mul_one]
  unfold State.enterControl Thread.atVector
  simp only [hcause, stackedStatus_eq]

/-- A trap writes its record at SFREC and puts the core at its vector. -/
theorem State.enterControl_eq (s : State) (t : Thread) (r : Record) (h : t.sv.sfrec.toNat + 64 ≤ 2 ^ 41) : ∃ l,
    s.enterControl t r = { s with th := t.atVector r, mem := s.mem.putWords t.sv.sfrec.toNat r.words, llc := l } := by
  obtain ⟨l, hw⟩ := s.writeWords_local r.ctx (o := t.sv.sfrec.toNat) (ws := r.words) h
  refine ⟨l, ?_⟩
  rw [← s.enterControl_th t r]
  unfold State.enterControl
  rw [hw]

theorem State.deliver_of_supervisor {s : State} {r : Record} (hc : s.th.onControl = true) (hs : s.th.sup = true) :
    s.deliver r = s.enterControl s.th { r with time := s.stamp s.th.key, seq := (s.ctx r.ctx).seq } := by
  unfold State.deliver State.deliverMade
  simp only [hc, hs, if_true]

theorem State.deliver_of_user {s : State} {r : Record} (hc : s.th.onControl = true) (hs : s.th.sup = false) :
    s.deliver r = (s.makeRecord s.th.key r).1.enterControl s.th { r with time := s.stamp s.th.key, seq := (s.ctx r.ctx).seq } := by
  obtain ⟨-, -, hrec, -⟩ := s.makeRecord_spec s.th.key r
  unfold State.deliver State.deliverMade State.ensureMade
  simp only [hc, hs, if_true, Bool.false_eq_true, if_false, hrec]

theorem State.deliver_th_of_control {s : State} (hc : s.th.onControl = true) (r : Record) : (s.deliver r).th = s.th.atVector r := by
  cases hs : s.th.sup with
  | true => rw [State.deliver_of_supervisor hc hs]; exact s.enterControl_th ..
  | false => rw [State.deliver_of_user hc hs]; exact State.enterControl_th ..

/-- A trap of a control core changes the core, the 64 bytes at SFREC, the contexts and what the LLC holds; its record is counted in user
mode (R230). -/
theorem State.deliver_of_control {s : State} (hc : s.th.onControl = true) (h : s.th.sv.sfrec.toNat + 64 ≤ 2 ^ 41) (r : Record) : ∃ cs l,
    s.deliver r = { s with
      th := s.th.atVector r, ctxs := cs, llc := l
      mem := s.mem.putWords s.th.sv.sfrec.toNat (Record.words { r with time := s.stamp s.th.key, seq := (s.ctx r.ctx).seq }) } ∧
    (State.ctx { s with ctxs := cs } r.ctx).seq = if s.th.sup then (s.ctx r.ctx).seq else (s.ctx r.ctx).seq + 1 := by
  cases hs : s.th.sup with
  | true =>
    obtain ⟨l, he⟩ := s.enterControl_eq s.th { r with time := s.stamp s.th.key, seq := (s.ctx r.ctx).seq } h
    exact ⟨s.ctxs, l, (State.deliver_of_supervisor hc hs).trans he, rfl⟩
  | false =>
    obtain ⟨cs, hframe, -, hseq⟩ := s.makeRecord_spec s.th.key r
    obtain ⟨l, he⟩ := State.enterControl_eq { s with ctxs := cs } s.th { r with time := s.stamp s.th.key, seq := (s.ctx r.ctx).seq } h
    refine ⟨cs, l, ?_, hseq⟩
    rw [State.deliver_of_user hc hs, hframe, he]
    rfl

theorem Thread.onControl_of_place {t : Thread} {k : Fin 16} (h : t.place = .control k) : t.onControl = true := by
  unfold Thread.onControl; rw [h]

/-- The record of a control core's own trap. -/
theorem Thread.record_of_control {t : Thread} {k : Fin 16} (hk : t.place = .control k) (cause : Nat) (insn : BitVec 32) (detail : Word) :
    t.record (BitVec.ofNat 8 cause) insn 0 detail 0 0 =
      { addr := 0, tid := 0, insn := insn, cause := BitVec.ofNat 8 cause, src := 1, ctx := t.sv.sctx, expt := 0, fndt := 0,
        hyp := BitVec.ofNat 8 (t.thyp.toNat % 256), site := 0, unit := BitVec.ofNat 8 k.val, lane := BitVec.ofNat 8 k.val, elem := 0,
        time := 0, pc := t.pc.setWidth 64, detail := detail, seq := 0 } := by
  have hc : t.onControl = true := Thread.onControl_of_place hk
  have hslot : t.slot = k.val := by simp [Thread.slot, hk]
  simp [Thread.record, Thread.id, Thread.cx, hc, hslot, hypNum, bits_zero]

/-- Settles O18: every trap of a control core is one entry, from the state at the instruction or at the next one. -/
theorem controlTrapEntry : Obligations.ControlTrapEntry := by
  intro s k hwf hk _ hbound entered record taken
  have hentered (pc : Addr) (p m : Bool) (r : Record) :
      entered (State.deliver { s with th := { s.th with pc := pc, pass := p, mid := m } } r) pc r := by
    obtain ⟨cs, l, ht, hseq⟩ := State.deliver_of_control (s := { s with th := { s.th with pc := pc, pass := p, mid := m } })
      (Thread.onControl_of_place hk) (show s.th.sv.sfrec.toNat + 64 ≤ 2 ^ 41 by omega) r
    rw [ht]
    refine ⟨rfl, ?words, fun a ha => Mem.byte_putWords_of_out hwf ha, hseq⟩
    case words =>
      rw [State.readWords_local _ (show s.th.sv.sfrec.toNat + 8 * 8 ≤ 2 ^ 41 by omega)]
      exact (Mem.getWords_putWords hwf _ _).trans (Record.words_eq _)
  have hrecord (cause : Nat) (insn : BitVec 32) (detail : Nat) :
      s.th.record (BitVec.ofNat 8 cause) insn 0 (BitVec.ofNat 64 detail) 0 0 = record (BitVec.ofNat 8 cause) insn detail :=
    Thread.record_of_control hk ..
  have hat (cause : Nat) (insn : BitVec 32) :
      entered (s.deliver (s.th.record (BitVec.ofNat 8 cause) insn 0 (BitVec.ofNat 64 0) 0 0)) s.th.pc (record (BitVec.ofNat 8 cause) insn 0) := by
    rw [hrecord]
    exact hentered s.th.pc s.th.pass s.th.mid _
  have hcode (code : Nat) : entered (s.advance.deliver (s.recordOf 0x03 0 (BitVec.ofNat 64 code) 0 0)) (s.th.pc + 4)
      (record 0x03 s.insn code) := by
    rw [State.recordOf, hrecord]
    exact hentered _ false false _
  have hc : s.th.onControl = true := Thread.onControl_of_place hk
  refine ⟨fun r => hentered s.th.pc s.th.pass s.th.mid r, fun w => ⟨_, rfl, hat 0x01 w⟩, fun c => ⟨_, rfl, hcode _⟩, fun c _ => ?service,
    fun hs => ⟨?eret, ?tret⟩⟩
  case service =>
    refine ⟨_, ?_, hcode _⟩
    exact if_pos hc
  case eret =>
    refine ⟨_, ?_, hat 0x02 s.insn⟩
    exact if_neg (by simp [Thread.supervisor, hs])
  case tret =>
    refine ⟨_, ?_, hcode _⟩
    exact if_pos (by simp [hc, hs])

end Sys2Proof.Machine
end

section
/-!
SUPPORT. The return from a trap of a control core, and the interrupts of one.
-/
namespace Sys2Proof.Machine

/-! ### The return from a trap of a control core (R241) -/

/-- IE is PIE after an ERET, and the other bits of SSTS stay. -/
theorem restoredStatus_eq (x : Word) : setBits x 0 1 (bit x 2).toNat = if x.getLsbD 2 then x ||| 1 else x &&& ~~~1 := by
  apply BitVec.eq_of_getLsbD_eq
  intro j hj
  rw [getLsbD_setBits x hj]
  by_cases hz : j = 0
  · subst hz
    have hbit : bit x 2 = x.getLsbD 2 := rfl
    rw [hbit]
    cases x.getLsbD 2 <;> simp
  · have h1 : (1 : Word).getLsbD j = false := (BitVec.getLsbD_one ..).trans (by simp [hz])
    rw [if_neg (by omega)]
    split
    · rw [BitVec.getLsbD_or, h1, Bool.or_false]
    · rw [BitVec.getLsbD_and, BitVec.getLsbD_not, h1, decide_eq_true hj]
      simp

theorem execEret_of_supervisor {s : State} (h : s.th.supervisor = true) : exec .eret s = .next s.eret := if_pos h

/-- What an ERET right after a trap of a control core restores. -/
theorem Thread.atVector_status (t : Thread) (r : Record) :
    bit (t.atVector r).sv.ssts 1 = t.sup ∧ bit (t.atVector r).sv.ssts 2 = bit t.sv.ssts 0 := by
  simp only [Thread.atVector, ← stackedStatus_eq, bit_or]
  rw [bit_flag_same _ (by decide), bit_flag_same _ (by decide), flag, flag, bit_field_other _ (by decide), bit_field_other _ (by decide)]
  exact ⟨Bool.false_or _, Bool.or_false _⟩

/-- Settles O19: the bits that a trap stacks are the ones that ERET takes back. -/
theorem eretRestores : Obligations.EretRestores := by
  intro s
  refine ⟨fun hc hs => ?_, fun w t u hc ht hu => ?_, fun hb => ?_⟩
  · rw [execEret_of_supervisor (by simp [Thread.supervisor, hc, hs]), ← restoredStatus_eq]
    rfl
  · obtain rfl : s.deliver (s.th.record 0x01 w 0 0 0 0) = t := Host.Outcome.next.inj ht
    have hth := State.deliver_th_of_control hc (s.th.record 0x01 w 0 0 0 0)
    generalize s.deliver (s.th.record 0x01 w 0 0 0 0) = t at hth hu
    have hsup : t.th.supervisor = true := by rw [hth]; exact (Bool.and_true _).trans hc
    obtain rfl : t.eret = u := Host.Outcome.next.inj ((execEret_of_supervisor hsup).symm.trans hu)
    obtain ⟨hmode, hie⟩ := s.th.atVector_status (s.th.record 0x01 w 0 0 0 0)
    refine ⟨?pc, ?sup, ?ie, ?g, ?f⟩
    case sup => exact (congrArg (fun x : Thread => bit x.sv.ssts 1) hth).trans hmode
    case ie =>
      refine (bit_setBits_same t.th.sv.ssts _ (by decide)).trans ((testBit_zero_toNat _).trans ?_)
      rw [hth, hie]
      rfl
    case pc => exact congrArg (fun x : Thread => x.sv.sepc) hth
    case g => show t.th.g = s.th.g; rw [hth]; rfl
    case f => show t.th.f = s.th.f; rw [hth]; rfl
  · exact if_neg (by simp [Thread.not_supervisor_of_barrel hb])

/-! ### The interrupt of a control core (R241, R242) -/

/-- The lowest of the enabled pending bits is the one that `pendingInterrupt` finds. -/
theorem State.pendingInterrupt_of_lowest {s : State} {t : Thread} {k : Fin 16} {b : Nat} (hk : t.place = .control k)
    (hie : t.sv.ssts.getLsbD 0 = true) (hb : b < 12) (hpend : (s.sipnd k).getLsbD b = true) (hen : t.sv.sien.getLsbD b = true)
    (hlow : ∀ j, j < b → ((s.sipnd k).getLsbD j && t.sv.sien.getLsbD j) = false) : s.pendingInterrupt t = some b := by
  unfold State.pendingInterrupt
  rw [hk]
  simp only [bit, hie, if_true]
  rw [List.find?_range_eq_some]
  exact ⟨by rw [hpend, hen]; rfl, List.mem_range.2 hb, fun j hj => by rw [hlow j hj]; rfl⟩

/-- The waits that end where the core stands, since nothing else is told of them (R233). -/
def Wait.ownAffair : Wait → Bool
  | .none => true | .barrier _ _ _ => true | .signal _ _ => true | .outcome _ _ _ => true | .fill _ _ => true | .version _ => true
  | .retire => true | _ => false

theorem State.withdraw_of_ownAffair {s : State} (h : s.th.wait.ownAffair = true) :
    s.withdraw = { s with th := { s.th with st := .run, wait := .none, pass := false, mid := false, tseq := 0 } } := by
  unfold State.withdraw
  dsimp only
  cases hw : s.th.wait
  case divide | full | remote | token | hyp | landing | flush => rw [hw] at h; exact absurd h Bool.false_ne_true
  all_goals rfl

theorem State.withdraw_of_full {s : State} {pa n : Nat} {g : BitVec 4} {va : Word} {d : LoadDest} {c r : Bool} {l : Word} {i : BitVec 32}
    (h : s.th.wait = .full pa n g va d c r l i) : s.withdraw =
      { s with feq := s.feq.filter fun e => decide (e.2.1 ≠ .thread s.th.place),
               th := { s.th with st := .run, wait := .none, pass := false, mid := false, tseq := 0 } } := by
  unfold State.withdraw
  dsimp only
  rw [h]

/-- Where an enabled source is pending, whether the core's interrupt is due depends on its state and wait alone. -/
theorem State.interruptDue_of_pending {s : State} {b : Nat} (h : s.pendingInterrupt s.th = some b) :
    s.interruptDue = if (s.th.st = .run ∧ !s.th.mid) ∨ (s.th.st = .wait ∧ s.th.wait.yields) then some b else none := by
  rw [State.interruptDue, h]

theorem execInterruptEntry_of_place {s : State} {k : Fin 16} (hk : s.th.place = .control k) : exec (.interruptEntry k) s =
    match s.interruptDue with | some b => .next (s.takeInterrupt b) | none => .next s := onThread_here hk _

/-- A due interrupt is what the turn of a control core comes to, between instructions and in a wait. -/
theorem State.ownTurn_of_interrupt {s : State} {k : Fin 16} {b : Nat} (hk : s.th.place = .control k) (ho : s.isOrphan = false)
    (hst : s.th.st = .run ∧ s.th.watches = [] ∨ s.th.st = .wait) (hdue : s.interruptDue = some b) :
    s.ownTurn = .answer (.next (s.takeInterrupt b)) := by
  have hres : s.th.resident = true := Thread.resident_of_control (Thread.onControl_of_place hk)
  have hbarrel : s.th.onBarrel = false := by simp [Thread.onBarrel, hk]
  unfold State.ownTurn
  rcases hst with ⟨hrun, hwatch⟩ | hwait
  · have hnone : s.watchDue = false := by simp [State.watchDue, hwatch]
    simp only [hres, hrun, State.runTurn, hbarrel, ho, hnone, hdue, Bool.not_true, Bool.false_and, Bool.false_eq_true, if_false]
  · simp only [hres, hwait, ho, hdue, Bool.not_true, Bool.false_eq_true, if_false]

/-- A control core in a wait that no interrupt withdraws has the wait's own turn. -/
theorem State.ownTurn_of_wait {s : State} {k : Fin 16} (hk : s.th.place = .control k) (ho : s.isOrphan = false) (hst : s.th.st = .wait)
    (hdue : s.interruptDue = none) : s.ownTurn = .answer (waitTurn s) := by
  have hres : s.th.resident = true := Thread.resident_of_control (Thread.onControl_of_place hk)
  unfold State.ownTurn
  simp only [hres, hst, ho, hdue, Bool.not_true, Bool.false_eq_true, if_false]

/-- A control core whose wait was withdrawn, at its vector for source `b`. -/
def State.interrupted (s : State) (l : List (Nat × Waiter × Bool)) (b : Nat) : State :=
  { s with feq := l, th := { s.th with
    pc := s.th.sv.svec.setWidth 52, sup := true, pass := false, mid := false, st := .run, wait := .none, tseq := 0, sv := { s.th.sv with
      sepc := s.th.pc, scause := BitVec.ofNat 64 (2 ^ 63 + b), sfaddr := 0, ssts := BitVec.ofNat 64 (4 + s.th.sup.toNat * 2) } } }

theorem State.takeInterrupt_eq {s : State} {l : List (Nat × Waiter × Bool)} {b : Nat} (hb : b < 12) (hie : s.th.sv.ssts.getLsbD 0 = true)
    (hw : s.withdraw = { s with feq := l, th := { s.th with st := .run, wait := .none, pass := false, mid := false, tseq := 0 } }) :
    s.takeInterrupt b = s.interrupted l b := by
  have hcause : flag 63 true ||| field 0 8 b = BitVec.ofNat 64 (2 ^ 63 + b) := by
    rw [flag_eq_ofNat, ofNat_or_field (by decide) (by omega), Nat.pow_zero, Nat.mul_one]
    rfl
  have hstatus : flag 2 (bit s.th.sv.ssts 0) ||| flag 1 s.th.sup = BitVec.ofNat 64 (4 + s.th.sup.toNat * 2) := by
    have hone : s.th.sv.ssts.toNat % 2 = 1 := by rw [← Nat.div_one s.th.sv.ssts.toNat, ← Nat.pow_zero 2, ← toNat_bit]; exact congrArg _ hie
    rw [stackedStatus_eq, hone]
  rw [State.takeInterrupt, hw]
  unfold State.interrupt State.interrupted
  dsimp only
  rw [hcause, hstatus]

/-- Settles O20: an interrupt is due in RUN and in a wait that yields, and it is taken from the state that the withdrawal leaves. -/
theorem interruptEntry : Obligations.InterruptEntry := by
  intro s k b hin hboot hk ho hie hb hpend hen hlow taken takes
  have hp : s.pendingInterrupt s.th = some b := State.pendingInterrupt_of_lowest hk hie hb hpend hen hlow
  have hagenda : s.agenda = s.ownTurn := by
    rw [State.agenda_idle hin hboot, State.nextTurn_of_control (Thread.onControl_of_place hk)]
  have htakes (l : List (Nat × Waiter × Bool)) (hst : s.th.st = .run ∧ s.th.watches = [] ∨ s.th.st = .wait) (hdue : s.interruptDue = some b)
      (hw : s.withdraw = { s with feq := l, th := { s.th with st := .run, wait := .none, pass := false, mid := false, tseq := 0 } }) :
      takes l := by
    rintro t rfl
    have heq : s.takeInterrupt b = s.interrupted l b := State.takeInterrupt_eq hb hie hw
    constructor
    · rw [step_of_answer (hagenda.trans (State.ownTurn_of_interrupt hk ho hst hdue)), heq]
      rfl
    · rw [execInterruptEntry_of_place hk, hdue]
      exact congrArg _ heq
  refine ⟨fun hst hw hmid _ hwatch => ?run, fun hst => ?wait⟩
  case run =>
    refine htakes _ (.inl ⟨hst, hwatch⟩) ?_ (State.withdraw_of_ownAffair (by rw [hw]; rfl))
    rw [State.interruptDue_of_pending hp, if_pos (.inl ⟨hst, by rw [hmid]; rfl⟩)]
  case wait =>
    have hrun : s.th.st ≠ .run := by rw [hst]; decide
    have hyields (h : s.th.wait.yields = true) : s.interruptDue = some b := by
      rw [State.interruptDue_of_pending hp, if_pos (.inr ⟨hst, h⟩)]
    have hstays (h : s.th.wait.yields = false) : exec (.interruptEntry k) s = .next s ∧ step s = waitTurn s := by
      have hdue : s.interruptDue = none := by
        rw [State.interruptDue_of_pending hp, if_neg (by rintro (⟨h1, -⟩ | ⟨-, h2⟩); exacts [hrun h1, by simp [h] at h2])]
      exact ⟨by rw [execInterruptEntry_of_place hk, hdue], step_of_answer (hagenda.trans (State.ownTurn_of_wait hk ho hst hdue))⟩
    have hown {w : Wait} (hw : s.th.wait = w) (hy : w.yields = true) (ha : w.ownAffair = true) : takes s.feq :=
      htakes _ (.inr hst) (hyields (hw ▸ hy)) (State.withdraw_of_ownAffair (hw ▸ ha))
    refine ⟨fun _ _ _ h => hown h rfl rfl, fun _ _ h => hown h rfl rfl, fun _ _ _ h => hown h rfl rfl, fun _ _ h => hown h rfl rfl,
      fun _ h => hown h rfl rfl, fun h => hown h rfl rfl, fun _ _ _ _ _ _ _ _ _ h => ?full, fun h => hstays ?other⟩
    case full =>
      have hw := State.withdraw_of_full h
      rw [hk] at hw
      exact htakes _ (.inr hst) (hyields (by rw [h]; rfl)) hw
    case other =>
      cases hw : s.th.wait <;> rw [hw] at h
      case barrier | signal | outcome | fill | version | retire | full | token => exact h.elim
      all_goals rfl

end Sys2Proof.Machine
end

section
/-!
SUPPORT. The vectored trap of a barrel thread, and the return from it.
-/
namespace Sys2Proof.Machine

/-! ### The words of the context image (R237) -/

theorem Thread.image_length (t : Thread) : t.image.length = 80 := by simp [Thread.image]

/-- An element of the middle part of a list, counted from the list's start. -/
theorem getD_of_middle {α : Type} {l pre part post : List α} (hl : l = pre ++ (part ++ post)) {p i : Nat} (hp : pre.length = p)
    (hi : i < part.length) (d : α) : l.getD (p + i) d = part[i] := by
  subst hl hp
  rw [List.getD_eq_getElem?_getD, List.getElem?_append_right (Nat.le_add_right ..), Nat.add_sub_cancel_left,
    List.getElem?_append_left hi, List.getElem?_eq_getElem hi, Option.getD_some]

theorem Thread.image_general (t : Thread) {i : Nat} (h : 0 < i) (hi : i < 32) : t.image.getD i 0 = t.g[i] := by
  obtain ⟨j, rfl⟩ : ∃ j, i = 1 + j := ⟨i - 1, by omega⟩
  rw [getD_of_middle (p := 1) (pre := [t.floor]) (part := t.g.toList.drop 1) (by simp only [Thread.image, List.append_assoc]; rfl) rfl
    (by simp; omega)]
  simp [Nat.add_comm]

theorem Thread.image_floating (t : Thread) {i : Nat} (hi : i < 32) : t.image.getD (32 + i) 0 = t.f[i] := by
  rw [getD_of_middle (pre := [t.floor] ++ t.g.toList.drop 1) (part := t.f.toList) (by simp only [Thread.image, List.append_assoc]; rfl)
    (by simp) (by simpa using hi)]
  simp

/-- The words of an image before the watchpoint registers. -/
def Thread.imageHead (t : Thread) : List Word :=
  [t.floor] ++ t.g.toList.drop 1 ++ t.f.toList ++ [t.pc.setWidth 64, t.tstat, t.tmode, t.tflags, t.thyp.setWidth 64]

theorem Thread.imageHead_length (t : Thread) : t.imageHead.length = 69 := by simp [Thread.imageHead]

theorem Thread.image_watchAddress (t : Thread) {i : Nat} (hi : i < 4) : t.image.getD (69 + i) 0 = t.twa[i] := by
  rw [getD_of_middle (pre := t.imageHead) (part := t.twa.toList) (by simp only [Thread.image, Thread.imageHead, List.append_assoc]; rfl)
    t.imageHead_length (by simpa using hi)]
  simp

theorem Thread.image_watchControl (t : Thread) {i : Nat} (hi : i < 4) : t.image.getD (73 + i) 0 = t.twc[i] := by
  rw [getD_of_middle (pre := t.imageHead ++ t.twa.toList) (part := t.twc.toList)
    (by simp only [Thread.image, Thread.imageHead, List.append_assoc]; rfl) (by simp [t.imageHead_length]) (by simpa using hi)]
  simp

theorem Thread.image_status (t : Thread) : t.image.getD 64 0 = t.pc.setWidth 64 ∧ t.image.getD 66 0 = t.tmode ∧
    t.image.getD 67 0 = t.tflags ∧ t.image.getD 68 0 = t.thyp.setWidth 64 := by
  simp [Thread.image, List.getD_eq_getElem?_getD]

/-! ### State registers as they are stored (R126, R127) -/

theorem normTmode_eq (v : Word) : normTmode v =
    BitVec.ofNat 64 (v.toNat / 8 % 2 * 8 + (if v.toNat % 8 ∈ [1, 2, 3, 4, 5] then v.toNat % 8 else 1)) := by
  have hrm : (if bits v 0 3 = 0 ∨ bits v 0 3 = 6 ∨ bits v 0 3 = 7 then 1 else bits v 0 3) =
      (if v.toNat % 8 ∈ [1, 2, 3, 4, 5] then v.toNat % 8 else 1) := by
    rw [bits_zero, ← ite_not]
    refine if_congr ?_ rfl rfl
    simp only [List.mem_cons, List.not_mem_nil, or_false]
    omega
  have hlt : (if v.toNat % 8 ∈ [1, 2, 3, 4, 5] then v.toNat % 8 else 1) < 2 ^ 3 := by split <;> omega
  unfold normTmode
  dsimp only
  rw [hrm, flag_eq_ofNat, ofNat_or_field (by omega) hlt, toNat_bit, Nat.pow_zero, Nat.mul_one]
  rfl

theorem normTflags_eq (v : Word) : normTflags v = BitVec.ofNat 64 (v.toNat % 32) := by
  rw [normTflags, bits_zero, field_eq_ofNat (Nat.mod_lt _ (by decide)), Nat.pow_zero, Nat.mul_one]
  rfl

theorem normTwa_eq (v : Word) : normTwa v = BitVec.ofNat 64 (v.toNat % 2 ^ 52) := by
  rw [normTwa, bits_zero, field_eq_ofNat (Nat.mod_lt _ (by decide)), Nat.pow_zero, Nat.mul_one]

theorem normTmode_of_stored {v : Word} (h : v.toNat % 8 ∈ [1, 2, 3, 4, 5] ∧ v.toNat < 16) : normTmode v = v := by
  rw [normTmode_eq, if_pos h.1, show v.toNat / 8 % 2 * 8 + v.toNat % 8 = v.toNat by omega, BitVec.ofNat_toNat, BitVec.setWidth_eq]

theorem normTflags_of_stored {v : Word} (h : v.toNat < 32) : normTflags v = v := by
  rw [normTflags_eq, Nat.mod_eq_of_lt h, BitVec.ofNat_toNat, BitVec.setWidth_eq]

/-! ### A stored image is loaded as it was (R229, R237) -/

/-- The state registers of a thread hold what an MTS stores, and the pc is that of an instruction. -/
structure Thread.Stored (v : Thread) : Prop where
  pc : v.pc.toNat % 4 = 0
  tmode : v.tmode.toNat % 8 ∈ [1, 2, 3, 4, 5] ∧ v.tmode.toNat < 16
  tflags : v.tflags.toNat < 32
  thyp : canonHandle v.thyp = v.thyp
  watch : ∀ i : Fin 4, normTwa v.twa[i] = v.twa[i] ∧ normTwc v.twc[i] = v.twc[i]

/-- A thread loaded with the image of another has its registers, and a floor of its own. -/
theorem Thread.loadImage_image (t : Thread) {v : Thread} (h : v.Stored) : ∃ (fl : Word) (g : Vector Word 32),
    t.loadImage v.image = { t with
      g := g, f := v.f, pc := v.pc, tmode := v.tmode, tflags := v.tflags, thyp := v.thyp, twa := v.twa, twc := v.twc, floor := fl } ∧
    ∀ r : Reg, r ≠ 0 → g[r] = v.g[r] := by
  obtain ⟨hpc, htmode, htflags, hthyp⟩ := v.image_status
  have hf : (Vector.ofFn fun i : Fin 32 => v.image.getD ((0x100 + 8 * i.val) / 8) 0) = v.f := by
    apply Vector.ext
    intro i hi
    rw [Vector.getElem_ofFn, show (0x100 + 8 * i) / 8 = 32 + i by omega, v.image_floating hi]
  have hwa : (Vector.ofFn fun i : Fin 4 => normTwa (v.image.getD ((0x228 + 8 * i.val) / 8) 0)) = v.twa := by
    apply Vector.ext
    intro i hi
    rw [Vector.getElem_ofFn, show (0x228 + 8 * i) / 8 = 69 + i by omega, v.image_watchAddress hi]
    exact (h.watch ⟨i, hi⟩).1
  have hwc : (Vector.ofFn fun i : Fin 4 => normTwc (v.image.getD ((0x248 + 8 * i.val) / 8) 0)) = v.twc := by
    apply Vector.ext
    intro i hi
    rw [Vector.getElem_ofFn, show (0x248 + 8 * i) / 8 = 73 + i by omega, v.image_watchControl hi]
    exact (h.watch ⟨i, hi⟩).2
  have hpc4 : BitVec.ofNat 52 (bits (v.image.getD (0x200 / 8) 0) 2 50 * 4) = v.pc := by
    have hlt : v.pc.toNat < 2 ^ 52 := v.pc.isLt
    have hpc0 := h.pc
    rw [show 0x200 / 8 = 64 from rfl, hpc, bits_eq_div_mod, BitVec.toNat_setWidth, Nat.mod_eq_of_lt (by omega)]
    exact BitVec.eq_of_toNat_eq (by rw [BitVec.toNat_ofNat]; omega)
  have hmode : normTmode (v.image.getD (0x210 / 8) 0) = v.tmode := (congrArg normTmode htmode).trans (normTmode_of_stored h.tmode)
  have hflags : normTflags (v.image.getD (0x218 / 8) 0) = v.tflags := (congrArg normTflags htflags).trans (normTflags_of_stored h.tflags)
  have hhyp : canonHandle ((v.image.getD (0x220 / 8) 0).setWidth 32) = v.thyp := by
    rw [show 0x220 / 8 = 68 from rfl, hthyp, BitVec.setWidth_setWidth_of_le _ (by decide), BitVec.setWidth_eq]
    exact h.thyp
  unfold Thread.loadImage
  dsimp only
  rw [hf, hwa, hwc, hpc4, hmode, hflags, hhyp]
  obtain ⟨fl, hfl, -⟩ := Thread.raise_floor { t with
    g := Vector.ofFn fun i : Fin 32 => if i = 0 then 0 else v.image.getD (8 * i.val / 8) 0, f := v.f, pc := v.pc, tmode := v.tmode,
    tflags := v.tflags, thyp := v.thyp, twa := v.twa, twc := v.twc } (v.image.getD (0 / 8) 0)
  refine ⟨fl, _, hfl, fun r hr => ?_⟩
  have hr0 : 0 < r.val := Nat.pos_of_ne_zero fun e => hr (Fin.ext e)
  rw [Fin.getElem_fin, Vector.getElem_ofFn, if_neg (by exact hr), Nat.mul_div_cancel_left _ (by decide), v.image_general hr0 r.isLt]
  rfl

/-! ### TRET (R229) -/

/-- Watchpoint registers that a TRET leaves as they were make no more of context scope. -/
theorem State.fitWatches_same (s : State) : s.fitWatches s.th.twc = s := by
  have hset (n : Fin 4) : { s with th := { s.th with twc := s.th.twc.set n s.th.twc[n] } } = s := by
    rw [show s.th.twc.set n s.th.twc[n] = s.th.twc from Vector.set_getElem_self n.isLt]
  unfold State.fitWatches
  refine List.foldl_fixed' (fun n => ?_) _
  split
  · exact hset n
  · rfl

/-- A TRET in a slot whose trap area holds the image of `v` brings back the registers of `v` and ends the handler; the thread keeps its
THYP and its watchpoint registers, which are those of `v`. -/
theorem execTret_of_image {s : State} {n : Fin 1024} {k : Fin 16} {v : Thread} (hp : s.th.place = .slot n k) (htrap : s.th.intrap = true)
    (himage : s.readWords (s.localPa (trapArea n k)) 80 = v.image) (h : v.Stored) (hthyp : s.th.thyp = v.thyp) (htwc : s.th.twc = v.twc) :
    ∃ (fl : Word) (g : Vector Word 32), exec .tret s = .next { s with th := { s.th with
      g := g, f := v.f, pc := v.pc, tmode := v.tmode, tflags := v.tflags, thyp := v.thyp, twa := v.twa, twc := v.twc, floor := fl,
      intrap := false, pass := false, mid := false, st := .wait, wait := .turns 2 } } ∧ ∀ r : Reg, r ≠ 0 → g[r] = v.g[r] := by
  obtain ⟨fl, g, hload, hg⟩ := s.th.loadImage_image h
  refine ⟨fl, g, ?_, hg⟩
  have hbarrel : s.th.onBarrel = true := by simp [Thread.onBarrel, hp]
  have hsite : s.th.site = n := by simp [Thread.site, hp]
  have hslot : s.th.slot = k := by simp [Thread.slot, hp]
  have hexec : exec .tret s = .next s.tret := by
    show execTret s = _
    unfold execTret
    simp only [Thread.not_onControl_of_onBarrel hbarrel, htrap, Bool.false_and, Bool.not_true, Bool.false_eq_true, if_false]
  rw [hexec, State.tret]
  dsimp only
  rw [hsite, hslot, himage, hload]
  dsimp only
  rw [hthyp, ite_self, htwc]
  rw [State.fitWatches_same { s with th := { s.th with
    g := g, f := v.f, pc := v.pc, tmode := v.tmode, tflags := v.tflags, thyp := v.thyp, twa := v.twa, twc := v.twc, floor := fl,
    intrap := false, pass := false, mid := false } }]
  exact congrArg Host.Outcome.next (forfeit_on _ 2 (by decide) hbarrel)

/-! ### The entry of a trap handler (R228) -/

theorem trapArea_bound (n : Fin 1024) (k : Fin 16) : trapArea n k + 0x400 ≤ 2 ^ 41 := by
  unfold trapArea
  omega

/-- A thread that enters its trap handler. -/
def Thread.inHandler (t : Thread) (ptr : Word) (pc : Addr) : Thread :=
  { t.setG 31 ptr with intrap := true, pc := pc, pass := false, mid := false, st := .wait, wait := .turns 2 }

/-- The pointer of a handler depends on the registers alone. -/
theorem State.trapPointer_congr {s t : State} (h : t.regs = s.regs) (c : Fin 16) (n k : Nat) : t.trapPointer c n k = s.trapPointer c n k := by
  unfold State.trapPointer State.reg
  rw [h]

theorem State.enterHandler_eq {s : State} {n : Fin 1024} {k : Fin 16} (hp : s.th.place = .slot n k) (c : Fin 16) (trap : Word) (r : Record) :
    ∃ l, s.enterHandler c trap r = { s with
      th := s.th.inHandler (s.trapPointer c n k) (BitVec.ofNat 52 (bits trap 2 50 * 4)), llc := l
      mem := (s.mem.putWords (trapArea n k) s.th.image).putWords (trapArea n k + 0x280) r.words } := by
  have hbarrel : s.th.onBarrel = true := by simp [Thread.onBarrel, hp]
  have hsite : s.th.site = n := by simp [Thread.site, hp]
  have hslot : s.th.slot = k := by simp [Thread.slot, hp]
  have hb := trapArea_bound n k
  obtain ⟨l, himage⟩ := s.writeWords_local c (o := trapArea n k) (ws := s.th.image) (by rw [s.th.image_length]; omega)
  generalize s.mem.putWords (trapArea n k) s.th.image = m at himage ⊢
  obtain ⟨l', hrecord⟩ : ∃ l', State.writeWords { s with mem := m, llc := l } c (s.localPa (trapArea n k + 0x280)) r.words =
      { s with mem := m.putWords (trapArea n k + 0x280) r.words, llc := l' } :=
    State.writeWords_local { s with mem := m, llc := l } c (show trapArea n k + 0x280 + 8 * 8 ≤ 2 ^ 41 by omega)
  refine ⟨l', ?_⟩
  generalize m.putWords (trapArea n k + 0x280) r.words = m' at hrecord ⊢
  unfold State.enterHandler
  dsimp only
  rw [hsite, hslot, himage, s.localPa_add (by omega), hrecord, State.trapPointer_congr (s := s) rfl,
    forfeit_on _ 2 (by decide) (by simp [Thread.onBarrel, hp])]
  rfl

/-- With a vector and outside a handler, a trap of a barrel thread enters the handler. -/
theorem State.deliver_of_vector {s : State} (hb : s.th.onBarrel = true) (hv : bit (s.reg (cxtrapAt s.th.ctx)) 0 = true)
    (hi : s.th.intrap = false) (r : Record) : s.deliver r =
      (s.makeRecord s.th.key r).1.enterHandler s.th.ctx (s.reg (cxtrapAt s.th.ctx)) (s.makeRecord s.th.key r).2 := by
  unfold State.deliver State.deliverMade State.ensureMade
  simp only [Thread.not_onControl_of_onBarrel hb, hv, hi, Bool.not_true, Bool.false_eq_true, if_false]

/-- Words written first read back after others are written behind them. -/
theorem Mem.getWords_putWords_twice {m : Mem} (h : m.wf) {o p n : Nat} {ws us : List Word} (hn : ws.length = n) (hp : o + 8 * n ≤ p) :
    ((m.putWords o ws).putWords p us).getWords o n = ws := by
  subst hn
  rw [Mem.getWords_putWords_of_out (Mem.wf_putWords h o ws) (.inl hp), Mem.getWords_putWords h]

/-- The state of a slot with a vector after a TRAP, with what the trap leaves in memory, the LLC and the contexts. -/
def State.trapped (s : State) (n k : Nat) (m : Mem) (l : Sparse Bool) (cs : Vector Ctx 16) : State :=
  { s with
    th := s.advance.th.inHandler (s.trapPointer s.th.ctx n k) (BitVec.ofNat 52 (bits (s.reg (cxtrapAt s.th.ctx)) 2 50 * 4)),
    mem := m, llc := l, ctxs := cs }

/-- What a TRAP leaves in a slot with a vector, and in its trap area. -/
theorem execTrap_of_vector {s : State} {n : Fin 1024} {k : Fin 16} (hwf : s.mem.wf) (hp : s.th.place = .slot n k) (hi : s.th.intrap = false)
    (hv : bit (s.reg (cxtrapAt s.th.ctx)) 0 = true) (c : BitVec 11) : ∃ (m : Mem) (l : Sparse Bool) (cs : Vector Ctx 16) (r : Record),
    exec (.trap c) s = .next (s.trapped n k m l cs) ∧ m.getWords (trapArea n k) 80 = s.advance.th.image ∧
      m.getWords (trapArea n k + 0x280) 8 = r.words ∧ r.detail = BitVec.ofNat 64 c.toNat := by
  have hb : s.advance.th.onBarrel = true := by simp [Thread.onBarrel, hp]
  obtain ⟨cs, hmade, hrec, -⟩ := s.advance.makeRecord_spec s.advance.th.key (s.recordOf 0x03 0 (BitVec.ofNat 64 c.toNat) 0 0)
  have htrap := State.deliver_of_vector hb hv hi (s.recordOf 0x03 0 (BitVec.ofNat 64 c.toNat) 0 0)
  rw [hmade] at htrap
  generalize (s.advance.makeRecord s.advance.th.key (s.recordOf 0x03 0 (BitVec.ofNat 64 c.toNat) 0 0)).2 = r at hrec htrap
  obtain ⟨l, henter⟩ := State.enterHandler_eq (s := { s.advance with ctxs := cs }) hp s.th.ctx (s.reg (cxtrapAt s.th.ctx)) r
  refine ⟨_, l, cs, r, congrArg Host.Outcome.next (htrap.trans henter), ?image, ?record, by rw [hrec]; rfl⟩
  case image => exact Mem.getWords_putWords_twice hwf s.advance.th.image_length (Nat.le_refl _)
  case record => exact Mem.getWords_putWords (Mem.wf_putWords hwf ..) ..

theorem State.readWords_trapped (s : State) (n k : Nat) (m : Mem) (l : Sparse Bool) (cs : Vector Ctx 16) {o j : Nat} (ho : o + 8 * j ≤ 2 ^ 41) :
    (s.trapped n k m l cs).readWords ((s.trapped n k m l cs).localPa o) j = m.getWords o j := State.readWords_local _ ho

theorem Thread.inHandler_gr (t : Thread) (ptr : Word) (pc : Addr) (r : Reg) :
    (t.inHandler ptr pc).gr r = if r = 31 then ptr else t.gr r := by
  refine (t.gr_setG 31 r ptr).trans ?_
  by_cases h : r = 31
  · subst h; rfl
  · rw [if_neg (fun e => h e.1), if_neg h]

/-- Settles O21: the trap area keeps the image from the entry to the TRET, which loads it. -/
theorem trapAndReturn : Obligations.TrapAndReturn := by
  intro s c n k hwf hp hi hv hpc hmode hflags hhyp hwatch
  have harea := trapArea_bound n k
  obtain ⟨m, l, cs, r, htrap, himage, hrecord, hcode⟩ := execTrap_of_vector hwf hp hi hv c
  have hstored : s.advance.th.Stored :=
    { pc := by rw [State.advance_th_pc, BitVec.toNat_add, show (4 : Addr).toNat = 4 from rfl]; omega
      tmode := hmode, tflags := hflags, thyp := hhyp, watch := hwatch }
  have hread := (s.readWords_trapped n k m l cs (o := trapArea n k) (j := 80) (by omega)).trans himage
  have hreadRecord := (s.readWords_trapped n k m l cs (o := trapArea n k + 0x280) (j := 8) (by omega)).trans hrecord
  obtain ⟨fl, g, htret, hg⟩ := execTret_of_image (s := s.trapped n k m l cs) hp rfl hread hstored rfl rfl
  refine ⟨_, _, htrap, htret, ⟨rfl, ?vector, rfl, fun r hr => ?others, ?pointer, hread, ?code⟩,
    rfl, rfl, fun r => ?restored, rfl, rfl, rfl, rfl, rfl, rfl⟩
  case vector => exact Nat.mod_eq_of_lt (by have := bits_lt (s.reg (cxtrapAt s.th.ctx)) 2 50; omega)
  case others => exact (s.advance.th.inHandler_gr _ _ r).trans (if_neg hr)
  case pointer => exact (s.advance.th.inHandler_gr _ _ 31).trans (if_pos rfl)
  case code =>
    rw [hreadRecord]
    exact congrArg some hcode
  case restored =>
    by_cases hr : r = 0
    · rw [hr]; rfl
    · exact (if_neg hr).trans ((hg r hr).trans (if_neg hr).symm)

end Sys2Proof.Machine
end

section
/-!
SUPPORT. MFS: the number of a register, and what is read for it (R224, R225, R240).
-/
namespace Sys2Proof.Machine

/-! ### MFS by the number of the register (R225, R240) -/

/-- TSTAT as the sum of its fields. -/
theorem Thread.tstat_eq (t : Thread) : t.tstat = BitVec.ofNat 64 (t.cx.val * 2 ^ 52 + (if t.onControl then 0 else t.site % 1024) * 2 ^ 32 +
    t.slot % 16 * 2 ^ 24 + t.onControl.toNat * 32 + t.sup.toNat * 16 + t.intrap.toNat) := by
  have hc : t.cx.val < 2 ^ 4 := t.cx.isLt
  have hs : field 32 10 (if t.onControl then 0 else t.site) = field 32 10 (if t.onControl then 0 else t.site % 1024) := by
    split
    · rfl
    · exact (field_mod 32 10 t.site).symm
  have hsite : (if t.onControl then 0 else t.site % 1024) < 2 ^ 10 := by split <;> omega
  rw [Thread.tstat, hs, field_eq_ofNat hc, ofNat_or_field (by omega) hsite, ofNat_or_field_mod (by omega), ofNat_or_flag (by omega),
    ofNat_or_flag (by omega), ofNat_or_flag (by omega)]
  simp

theorem execMfs_of_supervisor {s : State} {n : BitVec 12} {v : Word} (hs : s.th.supervisor = true) (h : 0x100 ≤ n.toNat ∧ n.toNat < 0x200)
    (hv : s.supRead n.toNat = some v) (d : Reg) : exec (.mfs d n) s = .next (s.afterG d v) := by
  show execMfs d n s = _
  unfold execMfs
  simp only [if_pos h, hs, Bool.not_true, Bool.false_eq_true, if_false, hv]
  exact doneG_eq s d v

theorem execMfs_of_unallocated {s : State} {n : BitVec 12} (hs : s.th.supervisor = true) (h : 0x100 ≤ n.toNat ∧ n.toNat < 0x200)
    (hv : s.supRead n.toNat = none) (d : Reg) : exec (.mfs d n) s = .next (s.deliver (s.recordOf 0x01 0 0 0 0)) := by
  show execMfs d n s = _
  unfold execMfs
  simp only [if_pos h, hs, Bool.not_true, Bool.false_eq_true, if_false, hv]
  rfl

theorem execMfs_of_user {s : State} {n : BitVec 12} (hs : s.th.supervisor = false) (h : 0x100 ≤ n.toNat ∧ n.toNat < 0x200) (d : Reg) :
    exec (.mfs d n) s = .next (s.deliver (s.recordOf 0x02 0 0 0 0)) := by
  show execMfs d n s = _
  unfold execMfs
  simp only [if_pos h, hs, Bool.not_false, if_true]
  rfl

/-- The numbers from 0x10B up name no supervisor register. -/
theorem State.supRead_eq_none (s : State) {n : Nat} (h : 0x10B ≤ n) : s.supRead n = none := by
  unfold State.supRead
  split
  case h_12 => rfl
  all_goals omega

theorem State.supRead_sipnd {s : State} {k : Fin 16} (hk : s.th.place = .control k) : s.supRead 0x106 = some (s.sipnd k) := by
  simp only [State.supRead, hk]

/-- The numbers between and above the thread state registers. -/
def unallocated (n : Nat) : Prop := 5 < n ∧ n < 0x10 ∨ 0x13 < n ∧ n < 0x18 ∨ 0x1B < n ∧ n < 0x100 ∨ 0x200 ≤ n

theorem execMfs_of_reserved {n : BitVec 12} (h : unallocated n.toNat) (d : Reg) (s : State) :
    exec (.mfs d n) s = .next (s.deliver (s.recordOf 0x01 0 0 0 0)) := by
  show execMfs d n s = _
  unfold unallocated at h
  unfold execMfs
  rw [if_neg (by omega)]
  split
  case h_15 => rfl
  all_goals omega

/-- Settles O23: a thread state register is read by its number, and the supervisor registers by `State.supRead`. -/
theorem stateRegisterReads : Obligations.StateRegisterReads := by
  intro d n s reads
  have thread {v w : Word} (h : v = w) : doneG s d v = .next (s.afterG d w) := doneG_eq_of h
  refine ⟨?_, ?_, ?_, ?_, ?_, fun i => ?_, rfl, fun hs => ?_, fun hs h1 h2 => execMfs_of_user hs ⟨h1, h2⟩ d,
    fun h => execMfs_of_reserved h d s⟩
  · rintro rfl
    exact thread s.th.tstat_eq
  · rintro rfl
    exact thread rfl
  · rintro rfl
    exact thread rfl
  · rintro rfl
    exact thread rfl
  · rintro rfl
    exact thread rfl
  · constructor <;> rintro rfl <;> fin_cases i <;> exact thread rfl
  · have sup (k : Nat) (v : Word) (hk : 0x100 ≤ k ∧ k < 0x200) (hv : s.supRead k = some v) : reads k v := by
      rintro rfl
      have he : (BitVec.ofNat 12 k).toNat = k := Nat.mod_eq_of_lt (by omega : k < 2 ^ 12)
      exact execMfs_of_supervisor hs (by rwa [he]) (by rwa [he]) d
    have hctx : field 0 4 s.th.sv.sctx = BitVec.ofNat 64 s.th.sv.sctx.val := (field_eq_ofNat s.th.sv.sctx.isLt).trans (by simp)
    refine ⟨sup _ _ (by omega) rfl, sup _ _ (by omega) rfl, sup _ _ (by omega) rfl, sup _ _ (by omega) rfl, sup _ _ (by omega) rfl,
      sup _ _ (by omega) rfl, fun k hk => sup _ _ (by omega) (State.supRead_sipnd hk), sup _ _ (by omega) rfl, sup _ _ (by omega) rfl,
      sup _ _ (by omega) (congrArg some hctx), sup _ _ (by omega) rfl, fun h1 h2 => ?_⟩
    exact execMfs_of_unallocated hs (by omega) (s.supRead_eq_none h1) d

end Sys2Proof.Machine
end

section
/-!
SUPPORT. MTS: the number of a register, and what is stored for it (R126, R127, R167, R225, R240).
-/
namespace Sys2Proof.Machine

/-! ### MTS by the number of the register (R225, R240) -/

theorem field_zero_bits (v : Word) {n : Nat} : field 0 n (bits v 0 n) = BitVec.ofNat 64 (v.toNat % 2 ^ n) := by
  rw [field_eq_ofNat (bits_lt v 0 n), bits_zero, Nat.pow_zero, Nat.mul_one]

/-- A cause as SCAUSE stores it. -/
theorem storedCause_eq (v : Word) : flag 63 (bit v 63) ||| field 0 8 (bits v 0 8) = BitVec.ofNat 64 (v.toNat / 2 ^ 63 * 2 ^ 63 + v.toNat % 256) := by
  have hv := v.isLt
  have hb : v.toNat / 2 ^ 63 % 2 = v.toNat / 2 ^ 63 := by omega
  rw [flag_eq_ofNat, toNat_bit, hb, ofNat_or_field (by omega) (bits_lt v 0 8), bits_zero, Nat.pow_zero, Nat.mul_one,
    show 256 = 2 ^ 8 from rfl]

/-- An address of a line as SVEC and SFREC store it. -/
theorem storedLine_eq (v : Word) : field 6 46 (bits v 6 46) = BitVec.ofNat 64 (v.toNat % 2 ^ 52 / 64 * 64) := by
  have hd : v.toNat / 2 ^ 6 % 2 ^ 46 * 2 ^ 6 = v.toNat % 2 ^ 52 / 64 * 64 := by omega
  rw [field_eq_ofNat (bits_lt v 6 46), bits_eq_div_mod, hd]

theorem execMts_of_supervisor {s : State} {n : BitVec 12} {a : Reg} {x : Supervisor} (hs : s.th.supervisor = true)
    (h : 0x100 ≤ n.toNat ∧ n.toNat < 0x200) (hx : s.th.sv.write n.toNat (s.gr a) = some x) :
    exec (.mts a n) s = .next (s.afterTh { s.th with sv := x }) := by
  show execMts a n s = _
  unfold execMts
  simp only [if_pos h, hs, Bool.not_true, Bool.false_eq_true, if_false, hx]
  rfl

theorem execMts_of_user {s : State} {n : BitVec 12} (hs : s.th.supervisor = false) (h : 0x100 ≤ n.toNat ∧ n.toNat < 0x200) (a : Reg) :
    exec (.mts a n) s = .next (s.deliver (s.recordOf 0x02 0 0 0 0)) := by
  show execMts a n s = _
  unfold execMts
  simp only [if_pos h, hs, Bool.not_false, if_true]
  rfl

theorem writeTwc_of_room {s : State} {i : Fin 4} {v : Word} (h : contextWatch (normTwc v) = false ∨ s.watchCount s.th.cx s.th.place i < 16) :
    writeTwc s i v = .next (s.afterTh { s.th with twc := s.th.twc.set i (normTwc v) }) := by
  have hc : (contextWatch (normTwc v) && decide (16 ≤ s.watchCount s.th.cx s.th.place i)) = false := by
    rcases h with h | h
    · rw [h, Bool.false_and]
    · rw [decide_eq_false (by omega), Bool.and_false]
  simp only [writeTwc, hc, Bool.false_eq_true, if_false]
  rfl

theorem writeTwc_of_full {s : State} {i : Fin 4} {v : Word} (h : contextWatch (normTwc v) = true) (hn : 16 ≤ s.watchCount s.th.cx s.th.place i) :
    writeTwc s i v = .next (s.deliver (s.recordOf 0x13 0 0 0 0)) := by
  simp only [writeTwc, h, decide_eq_true hn, Bool.and_true, if_true]
  rfl

/-- The numbers from 0x10 and from 0x18 on are the watchpoint registers. -/
theorem execMts_watch (a : Reg) (s : State) (i : Fin 4) : exec (.mts a (BitVec.ofNat 12 (0x010 + i))) s = writeTwa s i (s.gr a) ∧
    exec (.mts a (BitVec.ofNat 12 (0x018 + i))) s = writeTwc s i (s.gr a) := by
  fin_cases i <;> exact ⟨rfl, rfl⟩

/-- Settles O24: a thread state register is stored by its number, and the supervisor registers by `Supervisor.write`. -/
theorem stateRegisterWrites : Obligations.StateRegisterWrites := by
  rintro a n s v rfl writes sup
  refine ⟨?_, ?_, ?_, ?_, fun i => ?_, fun i h => ?_, fun i h hn => ?_, ?_, fun hs => ?_, fun hs h1 h2 => execMts_of_user hs ⟨h1, h2⟩ a⟩
  · rintro rfl
    rfl
  · rintro rfl
    rw [← normTmode_eq]
    rfl
  · rintro rfl
    rw [← normTflags_eq]
    rfl
  · rintro rfl
    rfl
  · rintro rfl
    rw [(execMts_watch a s i).1, ← normTwa_eq]
    rfl
  · rintro rfl
    rw [(execMts_watch a s i).2, writeTwc_of_room h]
  · rw [(execMts_watch a s i).2, writeTwc_of_full h hn]
  · rintro (rfl | rfl) <;> rfl
  · have stores (k : Nat) (x y : Supervisor) (hk : 0x100 ≤ k ∧ k < 0x200) (hx : s.th.sv.write k (s.gr a) = some x) (hxy : x = y) : sup k y := by
      rintro rfl
      have he : (BitVec.ofNat 12 k).toNat = k := Nat.mod_eq_of_lt (by omega : k < 2 ^ 12)
      exact execMts_of_supervisor hs (by rwa [he]) (by rw [he, hx, hxy])
    refine ⟨stores _ _ _ (by omega) rfl ?_, stores _ _ _ (by omega) rfl ?_, stores _ _ _ (by omega) rfl rfl, stores _ _ _ (by omega) rfl ?_,
      stores _ _ _ (by omega) rfl ?_, stores _ _ _ (by omega) rfl ?_, stores _ _ _ (by omega) rfl rfl, stores _ _ _ (by omega) rfl rfl,
      stores _ _ _ (by omega) rfl rfl, fun k hk => stores _ _ _ (by omega) rfl ?_, stores _ _ _ (by omega) rfl ?_⟩
    · rw [BitVec.ofNat_toNat]
    · rw [storedCause_eq]
    · rw [storedLine_eq]
    · rw [field_zero_bits, show 8 = 2 ^ 3 from rfl]
    · rw [field_zero_bits, show 4096 = 2 ^ 12 from rfl]
    · have : k = (BitVec.ofNat 4 (bits (s.gr a) 0 4)).toFin := Fin.ext (by simp [bits_zero, hk])
      rw [this]
    · rw [storedLine_eq]

end Sys2Proof.Machine
end

section
/-!
SUPPORT. TNOW, TWAIT and SIGV: the thread's time, the end of a timed wait, and what follows a release part.
-/
namespace Sys2Proof.Machine

/-! ### Time and signals (R245 to R247) -/

theorem setG_advance_eq (s : State) (d : Reg) (v : Word) : (s.setG d v).advance = s.afterG d v := Host.Outcome.next.inj (doneG_eq s d v)

theorem State.gr_afterG (s : State) (d q : Reg) (v : Word) : (s.afterG d v).gr q = if q = d ∧ q ≠ 0 then v else s.gr q := by
  rw [← setG_advance_eq]
  exact s.gr_setG d q v

theorem endWait_eq (s : State) (d : Reg) (v : Word) :
    endWait s d v = State.afterG { s with th := { s.th with st := .run, wait := .none } } d v := setG_advance_eq _ d v

/-- A floor is raised to the time that it bounds from below. -/
theorem Thread.raise_tnow (s : State) : s.th.raise (s.tnow s.th) = { s.th with floor := s.tnow s.th } := by
  simp only [Thread.raise, State.tnow]
  split
  · rw [if_neg (Nat.lt_irrefl _)]
  · split
    · rfl
    · have hf : s.th.floor = s.time (coreField s.th.core) := BitVec.eq_of_toNat_eq (by omega)
      rw [← hf]

theorem execTnow_eq (d : Reg) (s : State) :
    exec (.tnow d) s = .next (State.afterG { s with th := { s.th with floor := s.tnow s.th } } d (s.tnow s.th)) := by
  show readTime s d = _
  rw [readTime, Thread.raise_tnow, doneG_eq]

/-- Once the release part is done and no reduction fault is pending, an instruction goes on behind it. -/
theorem atFence_of_released {s u : State} {sc : Scope} (hu : u = s.releaseTo sc) (h : (u.th.onBarrel && u.pendingFault u.th.ctx) = false)
    (k : State → Result) : atFence s sc k = k u := by
  subst hu
  simp only [atFence, h, Bool.false_eq_true, if_false]

/-- Settles O25: TNOW by `execTnow_eq`, TWAIT by the branches of `twaitTurn`, SIGV behind its release part. -/
theorem timeAndSignals : Obligations.TimeAndSignals := by
  intro d a b s now hnow
  obtain rfl : now = s.tnow s.th := hnow
  refine ⟨execTnow_eq d s, fun hst hw hsig => ⟨fun hle => ?_, fun hlt => ?_⟩, fun hsig hf => ?_, ?_⟩
  · have hrun : { s with th := { s.th with st := .run, wait := .none } } = s := by rw [← hst, ← hw]
    show twaitTurn d (s.gr a) s = _
    rw [twaitTurn, if_neg (not_not_intro hsig), if_pos hle, endWait_eq, hrun]
  · show twaitTurn d (s.gr a) s = _
    rw [twaitTurn, if_neg (not_not_intro hsig), if_neg (Nat.not_le.mpr hlt)]
    rfl
  · have hv : field 16 16 s.th.sigs.toNat = BitVec.ofNat 64 (s.th.sigs.toNat * 2 ^ 16) := field_eq_ofNat s.th.sigs.isLt
    have hex : exec (.twait d a) s = .next (State.acquire (State.afterG
        { s with th := { s.th with sigs := 0, st := .run, wait := .none } } d (BitVec.ofNat 64 (s.th.sigs.toNat * 2 ^ 16)))) := by
      show twaitTurn d (s.gr a) s = _
      simp only [twaitTurn, if_pos hsig, acquiring, hf, Bool.false_eq_true, if_false, endWait_eq, hv]
    refine ⟨_, hex, rfl, rfl, rfl, rfl, fun hd => ?_, fun r hr => ?_, rfl⟩
    · exact (State.gr_afterG _ d d _).trans (if_pos ⟨rfl, hd⟩)
    · exact (State.gr_afterG _ d r _).trans (if_neg fun h => hr h.1)
  · intro u hu hfault tid
    refine ⟨fun h => ?_, fun hm hn => ?_⟩
    · show execSigv a b s = _
      rw [execSigv, atFence_of_released hu hfault, if_pos (h.imp_right fun hn => by rw [hn]; rfl)]
      rfl
    · have hlive : (u.findTid u.th.cx tid).isNone ≠ true := fun h => hn (Option.isNone_iff_eq_none.mp h)
      show execSigv a b s = _
      rw [execSigv, atFence_of_released hu hfault, if_neg (not_or.mpr ⟨hm, hlive⟩)]
      rfl

end Sys2Proof.Machine
end

section
/-!
SUPPORT. COFF: the branches of the instruction, and the state in which a retirement is under way (R254, R255).
-/
namespace Sys2Proof.Machine

/-! ### The start of a retirement (R254) -/

/-- An index that fits is read as itself. -/
theorem fin_bits_eq {w k : Nat} {x : BitVec w} {n : Nat} [NeZero n] {i : Fin n} (hk : n = 2 ^ k) (h : i.val = x.toNat % n) :
    fin n (bits x 0 k) = i := by
  apply Fin.ext
  rw [fin, Fin.val_ofNat, bits_zero, ← hk, Nat.mod_mod, h]

/-- RETSTAT while a site retires: BUSY and the number of the site. -/
def retiring (x : Word) (n : Nat) : Word := setBits (setBits x 62 1 1) 0 10 n

theorem bit_retiring_busy (x : Word) (n : Nat) : bit (retiring x n) 62 = true := by
  rw [retiring, bit_setBits_other _ _ (by omega), bit_setBits_same _ _ (by omega)]
  rfl

theorem bit_retiring_done (x : Word) (n : Nat) : bit (retiring x n) 63 = bit x 63 := by
  rw [retiring, bit_setBits_other _ _ (by omega), bit_setBits_other _ _ (by omega)]

theorem bits_retiring_site (x : Word) (n : Fin 1024) : bits (retiring x n) 0 10 = n.val := by
  rw [retiring, bits_setBits_same _ _ (by omega)]
  exact Nat.mod_eq_of_lt n.isLt

theorem retiring_ne_reset (x : Word) (n : Nat) : retiring x n ≠ regReset retstatAt := by
  intro h
  have hb : bit (regReset retstatAt) 62 = true := h ▸ bit_retiring_busy x n
  exact absurd hb (by decide)

/-- The state in which the retirement of a site is under way. -/
def State.beginRetire (s : State) (n : Fin 1024) (forced : Bool) : State :=
  { (s.setSite n { s.site n with status := .closing }).setReg retstatAt (retiring (s.reg retstatAt) n) with
    retire := some { site := n, forced := forced, begun := false } }

theorem State.site_beginRetire (s : State) (n : Fin 1024) (forced : Bool) (m : Nat) :
    (s.beginRetire n forced).site m = if m = n.val then { s.site n with status := .closing } else s.site m := s.site_setSite n m _

theorem State.reg_beginRetire (s : State) (n : Fin 1024) (forced : Bool) (o : Nat) :
    (s.beginRetire n forced).reg o = if o = retstatAt then retiring (s.reg retstatAt) n else s.reg o :=
  State.reg_setReg_of_ne (s.setSite n _) retstatAt _ (retiring_ne_reset _ _) o

/-- A site that closes is still live. -/
theorem State.live_beginRetire {s : State} {n : Fin 1024} (h : (s.site n).status = .enabled) (forced : Bool) :
    (s.beginRetire n forced).live = s.live := by
  have he (m : Nat) : ((s.beginRetire n forced).site m).enabled = (s.site m).enabled := by
    rw [State.site_beginRetire]
    split
    case isTrue hm =>
      subst hm
      simp only [Site.enabled, h]
      rfl
    case isFalse => rfl
  simp only [State.live, he]

theorem execCoff_of_user {s : State} (h : s.th.supervisor = false) (a : Reg) : exec (.coff a) s = .next (s.deliver (s.recordOf 0x02 0 0 0 0)) := by
  show execCoff a s = _
  rw [execCoff, h]
  rfl

section
variable {a : Reg} {s : State} {n : Fin 1024} (hn : n.val = (s.gr a).toNat % 1024) (hsup : s.th.supervisor = true)
include hn hsup

theorem execCoff_of_closed (h : (s.site n).status ≠ .enabled) : exec (.coff a) s = .next (s.deliver (s.recordOf 0x0C 0 0 0 0)) := by
  have hclosed : (s.site n).isDark = true ∨ (s.site n).status = .closing := by
    unfold Site.isDark
    cases hst : (s.site n).status
    · exact .inl rfl
    · exact absurd hst h
    · exact .inl rfl
    · exact .inr rfl
  show execCoff a s = _
  rw [execCoff, fin_bits_eq (by decide) hn, hsup]
  simp only [Bool.not_true, Bool.false_eq_true, if_false, if_pos hclosed]
  rfl

theorem execCoff_of_enabled (h : (s.site n).status = .enabled) : exec (.coff a) s =
    if s.retire.isSome then .next (s.block .retire) else done (s.beginRetire n (bit (s.gr a) 16)) := by
  have hopen : ¬((s.site n).isDark = true ∨ (s.site n).status = .closing) := by
    rw [Site.isDark, h]
    decide
  show execCoff a s = _
  rw [execCoff, fin_bits_eq (by decide) hn, hsup]
  simp only [Bool.not_true, Bool.false_eq_true, if_false, if_neg hopen]
  rfl

end

/-- Settles O28: by the status of the site and whether another retirement runs. -/
theorem retirementStarts : Obligations.RetirementStarts := by
  intro a s n hn
  refine ⟨fun hs => execCoff_of_user hs a, fun hs => ⟨execCoff_of_closed hn hs, fun hopen => ⟨fun hr => ?_, fun hr => ?_⟩⟩⟩
  · rw [execCoff_of_enabled hn hs hopen, if_pos (Option.isSome_iff_ne_none.mpr hr)]
    rfl
  · have hself : ((s.beginRetire n (bit (s.gr a) 16)).site n) = { s.site n with status := .closing } :=
      (s.site_beginRetire n _ n).trans (if_pos rfl)
    have hreg : (s.beginRetire n (bit (s.gr a) 16)).reg retstatAt = retiring (s.reg retstatAt) n :=
      (s.reg_beginRetire n _ retstatAt).trans (if_pos rfl)
    refine ⟨(s.beginRetire n (bit (s.gr a) 16)).advance, ?_, congrArg Site.status hself, State.live_beginRetire hopen (bit (s.gr a) 16),
      fun m hm => ?_, rfl, (congrArg (bit · 62) hreg).trans (bit_retiring_busy _ _), (congrArg (bits · 0 10) hreg).trans (bits_retiring_site _ n),
      (congrArg (bit · 63) hreg).trans (bit_retiring_done _ _), fun o ho => ?_, rfl, rfl⟩
    · rw [execCoff_of_enabled hn hs hopen, if_neg (by simp [hr])]
      rfl
    · exact (s.site_beginRetire n (bit (s.gr a) 16) m).trans (if_neg hm)
    · exact (s.reg_beginRetire n (bit (s.gr a) 16) o).trans (if_neg ho)

end Sys2Proof.Machine
end

section
/-!
SUPPORT. LNCH and LNCI: what follows the release part and the reads of the descriptor (R350).
-/
namespace Sys2Proof.Machine

/-! ### A launch joins its queue (R348, R350) -/

/-- A launch as it joins its queue: not started, with nothing landed and no status. -/
def State.newLaunch (t : State) (q : Fin 64) (ws : List Word) (p : Option Word) : Launch :=
  { id := (t.ctx t.th.cx).nextLaunch, queue := q, desc := { words := Vector.ofFn fun i : Fin 16 => ws.getD i 0 }, lnci := p, hyp := t.th.thyp,
    count := bits (ws.getD 0 0) 32 32, landed := 0, ended := 0, good := 0, fault := false, flags := 0, fcnt := 0, fseq := 0, started := false,
    version := 0, prio := 0, group := 0, status := none, serial := t.clock }

theorem State.queues_appendLaunch (t : State) (q : Fin 64) (ws : List Word) (p : Option Word) :
    ((t.appendLaunch t.th.cx q ws p t.th.thyp).ctx t.th.cx).queues = (t.ctx t.th.cx).queues ++ [t.newLaunch q ws p] := by
  unfold State.appendLaunch
  dsimp only
  rw [State.ctx_updCtx_self]
  rfl

/-- What LNCH and LNCI do once the descriptor is read: wait, or append the launch. -/
def State.enqueue (t : State) (q : Fin 64) (ws : List Word) (p : Option Word) : Result :=
  if 16 ≤ (t.queued t.th.cx q).length ∨ (t.ctx t.th.cx).resetting then .next (t.block .queue)
  else done (t.appendLaunch t.th.cx q ws p t.th.thyp)

theorem launchTurn_of_loaded {u t : State} {a b : Reg} {pa : Nat} {ws : List Word} {q : Fin 64}
    (hc : u.check (u.gr a) (plainAddress (u.gr a)) (lineReq 64) = .ok pa) (hl : u.loadDesc (u.gr a) (plainAddress (u.gr a)) pa = .ok (t, ws))
    (hq : q.val = (t.gr b).toNat % 64) : launchTurn u a b none = t.enqueue q ws none ∧
      ∀ {e : Reg} {pb : Nat}, t.check (t.gr e) (plainAddress (t.gr e)) (lineReq 4) = .ok pb →
        launchTurn u a b (some e) = t.enqueue q ws (some (t.gr e)) := by
  have hc' : u.check (u.gr a) (bits (u.gr a) 0 52) (lineReq 64) = .ok pa := hc
  have hl' : u.loadDesc (u.gr a) (bits (u.gr a) 0 52) pa = .ok (t, ws) := hl
  have hq' : fin 64 (bits (t.gr b) 0 6) = q := fin_bits_eq rfl hq
  constructor
  · simp only [launchTurn, hc', hl', hq']
    rfl
  · intro e pb he
    have he' : t.check (t.gr e) (bits (t.gr e) 0 52) (lineReq 4) = .ok pb := he
    simp only [launchTurn, hc', hl', he', hq']
    rfl

theorem State.enqueue_of_full {t : State} {q : Fin 64} (h : 16 ≤ (t.queued t.th.cx q).length ∨ (t.ctx t.th.cx).resetting = true) (ws : List Word)
    (p : Option Word) : t.enqueue q ws p = .next { t with th := { t.th with st := .wait, wait := .queue, mid := true } } := if_pos h

theorem State.enqueue_of_room {t : State} {q : Fin 64} (hn : (t.queued t.th.cx q).length < 16) (hr : (t.ctx t.th.cx).resetting = false)
    (ws : List Word) (p : Option Word) : ∃ v l, t.enqueue q ws p = .next v ∧ (v.ctx t.th.cx).queues = (t.ctx t.th.cx).queues ++ [l] ∧ l.queue = q ∧
      l.hyp = t.th.thyp ∧ l.lnci = p ∧ l.started = false ∧ l.status = none ∧ l.count = bits (ws.getD 0 0) 32 32 ∧
      (∀ k : Fin 16, l.desc.words[k] = ws.getD k 0) ∧ v.th = { t.th with pc := t.th.pc + 4, pass := false, mid := false } ∧ v.mem = t.mem := by
  have hopen : ¬(16 ≤ (t.queued t.th.cx q).length ∨ (t.ctx t.th.cx).resetting = true) := by simp [hr, hn]
  refine ⟨_, t.newLaunch q ws p, if_neg hopen, t.queues_appendLaunch q ws p, rfl, rfl, rfl, rfl, rfl, rfl, fun k => ?_, rfl, rfl⟩
  exact Vector.getElem_ofFn k.isLt

/-- Settles O49: behind the release part, with the descriptor read, by whether the queue has room. -/
theorem launchInstructions : Obligations.LaunchInstructions := by
  intro a b e s u t pa pb ws q hu hfault hc hl hq counted
  obtain ⟨hnone, hsome⟩ := launchTurn_of_loaded hc hl hq
  have hlnch : exec (.lnch a b) s = t.enqueue q ws none := by
    show execLnch a b s = _
    rw [execLnch, atFence_of_released hu hfault, hnone]
  have hlnci (h : counted) : exec (.lnci a b e) s = t.enqueue q ws (some (t.gr e)) := by
    show execLnci a b e s = _
    rw [execLnci, atFence_of_released hu hfault, hsome h]
  refine ⟨fun hfull => ⟨hlnch.trans (State.enqueue_of_full hfull _ _), fun h => (hlnci h).trans (State.enqueue_of_full hfull _ _)⟩,
    fun hn hr => ?_⟩
  intro joins
  have joined {i : Instr} {p : Option Word} (h : exec i s = t.enqueue q ws p) : joins i p := by
    obtain ⟨v, l, hv, hl⟩ := State.enqueue_of_room hn hr ws p
    exact ⟨v, l, h.trans hv, hl⟩
  exact ⟨joined hlnch, fun h => joined (hlnci h)⟩

end Sys2Proof.Machine
end

section
/-!
SUPPORT. The words of the queries: the module, a site, the thread's own place, the speed of a site and the latency of a pair of fields
(R248 to R251).
-/
namespace Sys2Proof.Machine

/-! ### The words of QGRD, QTOP, QSPD and QBLT (R248 to R251) -/

theorem execQgrd_eq (d : Reg) (s : State) : exec (.qgrd d) s = .next (s.afterG d (BitVec.ofNat 64 (s.modId % 2048 * 2 ^ 32 + gradeCode * 2 ^ 28 +
    Config.stepping.toNat * 2 ^ 24 + s.live % 2048 * 2 ^ 12 + coreCount))) := by
  have hgrade : gradeCode < 2 ^ 4 := by unfold gradeCode; split <;> decide
  have hcount : coreCount < 2 ^ 11 := by unfold coreCount; split <;> decide
  refine doneG_eq_of ?_
  rw [← field_mod 32 11 s.modId, field_eq_ofNat (Nat.mod_lt _ (by decide)), ofNat_or_field (by omega) hgrade,
    ofNat_or_field (by omega) Config.stepping.isLt, ofNat_or_field_mod (by omega), ofNat_or_field (by omega) hcount, Nat.pow_zero, Nat.mul_one]
  rfl

/-- The state of a site as QTOP gives it. -/
def SiteStatus.code : SiteStatus → Nat
  | .dark => 0
  | .enabled => 1
  | .retired => 2
  | .closing => 3

theorem State.siteWord_eq (s : State) {n : Nat} (hn : n < 1024) : s.siteWord n = BitVec.ofNat 64 (2 ^ 63 + (s.site n).status.code * 2 ^ 61 +
    (n / 32 % 2 * 2 + n % 32 % 2) * 2 ^ 28 + (n / 32 / 2 * 16 + n % 32 / 2) * 2 ^ 20 + (n / 32 / 8 * 2 + n % 32 / 16) * 2 ^ 16 +
    n / 32 * 32 + n % 32) := by
  have hw : s.siteWord n = flag 63 true ||| field 61 2 (s.site n).status.code ||| field 28 2 (n / 32 % 2 * 2 + n % 32 % 2) |||
      field 20 8 (n / 32 / 2 * 16 + n % 32 / 2) ||| field 16 3 (n / 32 / 8 * 2 + n % 32 / 16) ||| field 5 5 (n / 32) ||| field 0 5 (n % 32) := by
    unfold State.siteWord
    cases (s.site n).status <;> rfl
  have hcode : (s.site n).status.code < 2 ^ 2 := by cases (s.site n).status <;> decide
  rw [hw, flag_eq_ofNat, Bool.toNat_true, ofNat_or_field (by omega) hcode, ofNat_or_field (by omega) (by omega),
    ofNat_or_field (by omega) (by omega), ofNat_or_field (by omega) (by omega), ofNat_or_field (by omega) (by omega),
    ofNat_or_field (by omega) (by omega), Nat.one_mul, Nat.pow_zero, Nat.mul_one]
  rfl

theorem execQtop_site {s : State} {a : Reg} (h : (s.gr a).toNat % 256 = 1) (d : Reg) :
    exec (.qtop d a) s = .next (s.afterG d (s.siteWord ((s.gr a).toNat / 256 % 1024))) := by
  have hsel : bits (s.gr a) 0 8 = 1 := (bits_zero _ _).trans h
  have hn : bits (s.gr a) 8 10 = (s.gr a).toNat / 256 % 1024 := bits_eq_div_mod _ 8 10
  show execQtop d a s = _
  simp only [execQtop, hsel, hn, doneG_eq]

theorem execQtop_self {s : State} {a : Reg} (h : (s.gr a).toNat % 256 = 0) (d : Reg) :
    exec (.qtop d a) s = .next (State.afterG { s with th := { s.th with mov := false } } d s.th.selfWord) := by
  have hsel : bits (s.gr a) 0 8 = 0 := (bits_zero _ _).trans h
  show execQtop d a s = _
  simp only [execQtop, hsel, doneG_eq]

theorem execQtop_other {s : State} {a : Reg} (h : 1 < (s.gr a).toNat % 256) (d : Reg) : exec (.qtop d a) s = .next (s.afterG d 0) := by
  have hsel : bits (s.gr a) 0 8 = (s.gr a).toNat % 256 := bits_zero _ _
  show execQtop d a s = _
  unfold execQtop
  split
  case h_3 => exact doneG_eq s d 0
  all_goals omega

theorem bit_flag_other {lo i : Nat} (b : Bool) (h : i < lo ∨ lo < i) : bit (flag lo b) i = false := bit_field_other _ h

theorem Thread.selfWord_fields (t : Thread) : bit t.selfWord 63 = t.mov ∧ bit t.selfWord 59 = t.onControl ∧ bits t.selfWord 32 24 = t.id.toNat ∧
    bits t.selfWord 28 4 = t.cx.val ∧ bits t.selfWord 24 4 = t.slot % 16 ∧ (t.onControl = false → bits t.selfWord 0 10 = t.site % 1024) := by
  have hid : t.id.toNat % 2 ^ 24 = t.id.toNat := Nat.mod_eq_of_lt t.id.isLt
  have hcx : t.cx.val % 2 ^ 4 = t.cx.val := Nat.mod_eq_of_lt t.cx.isLt
  unfold Thread.selfWord
  refine ⟨?_, ?_, ?_, ?_, ?_, fun hc => ?_⟩
  · simp (disch := omega) only [bit_or, bit_flag_same, bit_flag_other, bit_field_other, Bool.or_false]
  · simp (disch := omega) only [bit_or, bit_flag_same, bit_flag_other, bit_field_other, Bool.or_false, Bool.false_or]
  · simp (disch := omega) only [bits_or, bits_field_same, bits_field_other, bits_flag_other, Nat.or_zero, Nat.zero_or, hid]
  · simp (disch := omega) only [bits_or, bits_field_same, bits_field_other, bits_flag_other, Nat.or_zero, Nat.zero_or, hcx]
  · simp (disch := omega) only [bits_or, bits_field_same, bits_field_other, bits_flag_other, Nat.or_zero, Nat.zero_or, Nat.reducePow]
  · simp (disch := omega) only [bits_or, bits_field_same, bits_field_other, bits_flag_other, Nat.or_zero, Nat.zero_or, Nat.reducePow, hc,
      Bool.false_eq_true, if_false]

/-- The speed word of a site that is not dark at manufacture. -/
theorem speedWord_eq {k : Fin 1024} (h : Config.darkAtManufacture k = false) : speedWord k = BitVec.ofNat 64 (2 ^ 63 +
    (1750000 + (Config.speedCode k).val * 31250) * 2 ^ 32 + ((Config.speedCode k).val + 56) * 256 + (Config.speedCode k).val) := by
  have hc : (Config.speedCode k).val < 21 := (Config.speedCode k).isLt
  rw [speedWord, dif_pos k.isLt, h]
  simp only [Bool.false_eq_true, if_false]
  rw [flag_eq_ofNat, Bool.toNat_true, ofNat_or_field (by omega) (by omega), ofNat_or_field (by omega) (by omega),
    ofNat_or_field (by omega) (by omega), Nat.one_mul, Nat.pow_zero, Nat.mul_one]
  rfl

theorem speedWord_of_dark {k : Fin 1024} (h : Config.darkAtManufacture k = true) : speedWord k = 0 := by
  rw [speedWord, dif_pos k.isLt, h]
  rfl

theorem bandOf_eq {x y : Nat} : bandOf x y = max (if x % 2 = y % 2 then 0 else 1) (max (x / 2 - y / 2) (y / 2 - x / 2)) := by
  unfold bandOf
  dsimp only
  congr 1
  · split <;> split <;> omega
  · split <;> omega

theorem latencyWord_eq {x y k : Nat} (hk : k < 4) (h : bandOf x y = k) :
    latencyWord x y = BitVec.ofNat 64 ([8, 24, 40, 64][k]! * 2 ^ 16 + [2, 12, 24, 40][k]! * 256 + k) := by
  unfold latencyWord
  rw [h]
  interval_cases k <;> rfl

/-- Settles O26: each query writes its word, which is the sum of its fields. -/
theorem queries : Obligations.Queries := by
  intro d a b s n hn
  refine ⟨execQgrd_eq d s, fun h => ⟨(s.site n).status.code, ?_, ?_⟩, fun h => ⟨_, execQtop_self h d, s.th.selfWord_fields⟩,
    fun h => execQtop_other h d, fun k hk => ?_, ?_⟩
  · cases (s.site n).status <;> rfl
  · rw [execQtop_site h, ← hn, s.siteWord_eq (by omega)]
  · have hsel : bits (s.gr a) 0 10 = k.val := (bits_zero _ _).trans hk.symm
    have hex : exec (.qspd d a) s = .next (s.afterG d (speedWord k)) := by
      rw [← hsel]
      exact doneG_eq s d _
    exact ⟨fun h => by rw [hex, speedWord_of_dark h], fun h => by rw [hex, speedWord_eq h]⟩
  · rintro x y k rfl rfl hk
    have hsel (r : Reg) : bits (s.gr r) 0 3 = (s.gr r).toNat % 8 := bits_zero _ _
    refine doneG_eq_of ?_
    rw [hsel, hsel]
    exact latencyWord_eq (by split at hk <;> omega) (bandOf_eq.trans hk.symm)

end Sys2Proof.Machine
end

section
/-!
SUPPORT. QRNG and CRCC: the word of a home, and the CRC as a fold over the bits (R253, R256).
-/
namespace Sys2Proof.Machine

/-! ### The word of a home (R253) -/

/-- V and the module, which every home's word holds. -/
def homeCommon (pa : Nat) : Word := flag 63 true ||| field 48 11 (pa / 2 ^ 41)

/-- The region of an offset of local HBM in a home's word. -/
def State.regionBits (s : State) (o : Nat) : Word :=
  match s.regionOf s.th.core s.th.cx o with
  | some r => flag 47 true ||| field 32 12 r
  | none => 0

/-- What the space of an address adds to a home's word. -/
def State.homeSpace (s : State) (pa : Nat) : Word :=
  let o := offsetOf pa
  if s.isLocal pa then
    match spaceOf o with
    | .hbm => s.regionBits o ||| (field 24 3 (stackField (stackOf o)) ||| field 0 16 (stackOf o))
    | .scratch => field 60 3 1 ||| (field 24 3 (clusterField (scratchCluster o)) ||| field 0 16 (scratchCluster o))
    | .tcm => field 60 3 2 ||| (field 24 3 (siteField (tcmSite o)) ||| field 0 16 (tcmSite o))
    | _ => field 60 3 3
  else field 60 3 4

theorem State.homeWord_eq (s : State) (pa : Nat) : s.homeWord pa = homeCommon pa ||| s.homeSpace pa := by
  unfold State.homeWord State.homeSpace
  dsimp only
  split
  · cases spaceOf (offsetOf pa) with
    | hbm =>
      cases hr : s.regionOf s.th.core s.th.cx (offsetOf pa) <;> simp only [homeCommon, State.regionBits, hr, BitVec.or_assoc]
    | scratch => simp only [homeCommon, BitVec.or_assoc]
    | tcm => simp only [homeCommon, BitVec.or_assoc]
    | device => rfl
    | none => rfl
  · rfl

theorem bits_of_zero (lo n : Nat) : bits (0 : Word) lo n = 0 := by simp [bits]

/-- The region stands in bits 47:32. -/
theorem State.bits_regionBits (s : State) (o : Nat) {lo n : Nat} (h : lo + n ≤ 32 ∨ 48 ≤ lo) : bits (s.regionBits o) lo n = 0 := by
  unfold State.regionBits
  split
  · rw [bits_or, bits_flag_other _ (by omega), bits_field_other _ (by omega), Nat.or_zero]
  · exact bits_of_zero lo n

theorem State.bits_homeSpace_module (s : State) (pa : Nat) : bits (s.homeSpace pa) 48 11 = 0 := by
  unfold State.homeSpace
  dsimp only
  split
  · cases spaceOf (offsetOf pa) <;>
      simp (disch := omega) only [bits_or, State.bits_regionBits, bits_field_other, Nat.or_zero]
  · exact bits_field_other _ (by omega)

theorem bits_homeCommon (pa : Nat) {lo n : Nat} (h : lo + n ≤ 48 ∨ 59 ≤ lo ∧ lo + n ≤ 63) : bits (homeCommon pa) lo n = 0 := by
  rw [homeCommon, bits_or, bits_flag_other _ (by omega), bits_field_other _ (by omega), Nat.or_zero]

theorem State.homeWord_valid (s : State) (pa : Nat) : bit (s.homeWord pa) 63 = true := by
  rw [State.homeWord_eq, bit_or, homeCommon, bit_or, bit_flag_same _ (by omega), Bool.true_or, Bool.true_or]

theorem State.homeWord_module (s : State) (pa : Nat) : bits (s.homeWord pa) 48 11 = pa / 2 ^ 41 % 2048 := by
  rw [State.homeWord_eq, bits_or, State.bits_homeSpace_module, homeCommon, bits_or, bits_flag_other _ (by omega), bits_field_same _ (by omega),
    Nat.or_zero, Nat.zero_or]
  rfl

/-- The space and the unit of a home are what the space adds. -/
theorem State.bits_homeWord (s : State) (pa : Nat) {lo n : Nat} (h : lo + n ≤ 48 ∨ 59 ≤ lo ∧ lo + n ≤ 63) :
    bits (s.homeWord pa) lo n = bits (s.homeSpace pa) lo n := by
  rw [State.homeWord_eq, bits_or, bits_homeCommon pa h, Nat.zero_or]

theorem State.homeWord_remote {s : State} {pa : Nat} (h : s.isLocal pa = false) : bits (s.homeWord pa) 60 3 = 4 := by
  have hw : s.homeSpace pa = field 60 3 4 := by
    rw [State.homeSpace, h]
    rfl
  rw [s.bits_homeWord pa (by omega), hw, bits_field_same _ (by omega)]
  rfl

theorem State.homeWord_hbm {s : State} {pa : Nat} (h : s.isLocal pa = true) (hs : spaceOf (offsetOf pa) = .hbm) :
    bits (s.homeWord pa) 60 3 = 0 ∧ bits (s.homeWord pa) 0 16 = offsetOf pa / 4096 % 24 := by
  have hw : s.homeSpace pa = s.regionBits (offsetOf pa) |||
      (field 24 3 (stackField (stackOf (offsetOf pa))) ||| field 0 16 (stackOf (offsetOf pa))) := by
    simp only [State.homeSpace, h, hs, if_true]
  have hlt : offsetOf pa / 4096 % 24 < 2 ^ 16 := by omega
  rw [s.bits_homeWord pa (by omega), s.bits_homeWord pa (by omega), hw]
  constructor
  · simp (disch := omega) only [bits_or, State.bits_regionBits, bits_field_other, Nat.or_zero]
  · simp (disch := omega) only [bits_or, State.bits_regionBits, bits_field_other, bits_field_same, Nat.zero_or]
    exact Nat.mod_eq_of_lt hlt

theorem tcmSite_lt {o : Nat} (h : spaceOf o = .tcm) : tcmSite o < 1024 := by
  unfold spaceOf at h
  split at h
  · cases h
  split at h
  · cases h
  split at h
  case isTrue ho =>
    unfold tcmSite
    omega
  case isFalse =>
    split at h <;> cases h

theorem State.homeWord_tcm {s : State} {pa : Nat} (h : s.isLocal pa = true) (hs : spaceOf (offsetOf pa) = .tcm) :
    bits (s.homeWord pa) 60 3 = 2 ∧ bits (s.homeWord pa) 0 16 = tcmSite (offsetOf pa) := by
  have hw : s.homeSpace pa = field 60 3 2 |||
      (field 24 3 (siteField (tcmSite (offsetOf pa))) ||| field 0 16 (tcmSite (offsetOf pa))) := by
    simp only [State.homeSpace, h, hs, if_true]
  have hlt := tcmSite_lt hs
  rw [s.bits_homeWord pa (by omega), s.bits_homeWord pa (by omega), hw]
  constructor
  · simp (disch := omega) only [bits_or, bits_field_other, bits_field_same, Nat.or_zero]
    rfl
  · simp (disch := omega) only [bits_or, bits_field_other, bits_field_same, Nat.zero_or]
    exact Nat.mod_eq_of_lt (by omega)

/-! ### QRNG by what the address names (R253) -/

theorem execQrng_null {s : State} {a : Reg} (h : (s.gr a).toNat % 2 ^ 52 < 0x10000) (d : Reg) : exec (.qrng d a) s = .next (s.afterG d 0x06) := by
  show execQrng d a s = _
  rw [execQrng, bits_zero, if_pos h, doneG_eq]

theorem execQrng_noncanon {s : State} {a : Reg} (h : 0x10000 ≤ (s.gr a).toNat % 2 ^ 52) (hc : (s.gr a).toNat / 2 ^ 52 % 64 ≠ 0) (d : Reg) :
    exec (.qrng d a) s = .next (s.afterG d 0x07) := by
  show execQrng d a s = _
  rw [execQrng, bits_zero, if_neg (Nat.not_lt.mpr h), if_pos (by rwa [bits_eq_div_mod]), doneG_eq]

/-- What an address of QRNG translates to: itself in supervisor mode, else by the context's tables. -/
def State.queryAt (s : State) (va : Nat) : Except Nat Nat := if s.th.supervisor then .ok (s.superPa va) else s.lookAt va

/-- The answer to a translated address. -/
def State.homeAnswer (s : State) : Except Nat Nat → Word
  | .error cause => BitVec.ofNat 64 cause
  | .ok pa => if s.present pa then s.homeWord pa else 0x0C

theorem execQrng_canonical {s : State} {a : Reg} (h : 0x10000 ≤ (s.gr a).toNat % 2 ^ 52) (hc : (s.gr a).toNat / 2 ^ 52 % 64 = 0) (d : Reg) :
    exec (.qrng d a) s = .next (s.afterG d (s.homeAnswer (s.queryAt ((s.gr a).toNat % 2 ^ 52)))) := by
  have hn : bits (s.gr a) 52 6 = 0 := (bits_eq_div_mod _ 52 6).trans hc
  have hat : (if (!s.th.supervisor) = true then s.lookAt ((s.gr a).toNat % 2 ^ 52) else .ok (s.superPa ((s.gr a).toNat % 2 ^ 52))) =
      s.queryAt ((s.gr a).toNat % 2 ^ 52) := by
    unfold State.queryAt
    cases s.th.supervisor <;> rfl
  show execQrng d a s = _
  rw [execQrng, bits_zero, if_neg (Nat.not_lt.mpr h), hn, if_neg (not_not_intro rfl), hat]
  cases s.queryAt ((s.gr a).toNat % 2 ^ 52) with
  | error cause => exact doneG_eq s d _
  | ok pa =>
    simp only [doneG_eq, State.homeAnswer]
    split <;> rfl

/-! ### CRC-32C (R256) -/

/-- The CRC over some bits is the fold of its step over their indices. -/
theorem crcBits_eq_foldl (v n i : Nat) (c : BitVec 32) : crcBits v n i c = (List.range n).foldl (fun x j => crcBit x (v.testBit (i + j))) c := by
  induction n generalizing i c with
  | zero => rfl
  | succ n ih =>
    rw [crcBits, ih, List.range_succ_eq_map, List.foldl_cons, List.foldl_map]
    simp only [Nat.succ_eq_add_one, Nat.add_zero, Nat.add_assoc, Nat.add_comm 1]

theorem execCrcc_eq (d a b : Reg) (n : BitVec 3) (s : State) : exec (.crcc d a b n) s = .next (s.afterG d (((List.range
    (if n = 0 then 64 else 8 * n.toNat)).foldl (fun (c : BitVec 32) i =>
      (if xor (c.getLsbD 0) ((s.gr b).getLsbD i) then (c >>> 1) ^^^ 0x82F63B78 else c >>> 1)) ((s.gr a).setWidth 32)).setWidth 64)) := by
  have hm : 8 * (if n = 0 then 8 else n.toNat) = if n = 0 then 64 else 8 * n.toNat := by split <;> rfl
  refine doneG_eq_of ?_
  rw [hm, crcBits_eq_foldl]
  simp only [Nat.zero_add]
  rfl

/-- Settles O27: QRNG by what the address names, CRCC as a fold. -/
theorem addressQueryAndCrc : Obligations.AddressQueryAndCrc := by
  rintro d a b n s va rfl
  refine ⟨fun h => execQrng_null h d, fun h hc => execQrng_noncanon h hc d, fun h hc => ?_, _, rfl, execCrcc_eq d a b n s⟩
  intro at_
  have hex : exec (.qrng d a) s = .next (s.afterG d (s.homeAnswer at_)) := execQrng_canonical h hc d
  refine ⟨fun e he => ?_, fun pa hpa hp => ?_, fun pa hpa hp => ⟨s.homeWord pa, ?_, s.homeWord_valid pa, s.homeWord_module pa,
    State.homeWord_remote, State.homeWord_hbm, State.homeWord_tcm⟩⟩
  · rw [hex, he, State.homeAnswer]
  · rw [hex, hpa, State.homeAnswer, if_neg (by simp [hp])]
  · rw [hex, hpa, State.homeAnswer, if_pos hp]

end Sys2Proof.Machine
end

section
/-!
SUPPORT. A service request in a state whose table of device registers lists FQCTL twice.
-/
namespace Sys2Proof.Machine

/-! ### A host trap queue whose count wraps (R232) -/

/-- A thread of context 0 in slot 0 of site 0. The host trap queue of the context has 8192 entries at address 0 and room for one more, with
WR at 8191 and RD at 0; FQCTL stands twice in the table of device registers, the second time with WR at 5. -/
def twiceQueued : State :=
  { State.reset with
    regs := [(fqbaseAt 0 1, 1 ||| field 1 4 13), (fqctlAt 0 1, field 16 13 8191), (fqctlAt 0 1, field 16 13 5)],
    th := { State.reset.th with place := .slot 0 0, save := 2 ^ 20 } }

/-- WR wraps to 0, so that FQCTL has its reset value, which takes the first entry away and uncovers the second. -/
theorem twiceQueued_service : regAfter (exec (.trapService 0) twiceQueued) (fqctlAt 0 1) = some (field 16 13 5) := by decide +kernel

theorem twiceQueued_fits : (twiceQueued.queueOpen 0 1 && !((twiceQueued.ctx 0).heldQ.any fun h => h.1 = 1)) = true := by decide +kernel

theorem twiceQueued_alone : ∀ u ∈ twiceQueued.rest, u.place ≠ .slot 0 0 ∧ u.place ≠ .caravan 0 0 := by decide +kernel

/-- Refutes O22: of the count of a host trap queue that takes a record, since no premise keeps the table of registers canonical. In
`twiceQueued` FQCTL stands twice in that table, and after the service request WR reads 5, and not 8191 + 1 modulo 8192. -/
theorem not_serviceRequest : ¬ Obligations.ServiceRequest := by
  intro h
  obtain ⟨hservice, -⟩ := h twiceQueued 0 0
  obtain ⟨hqueued, -⟩ := hservice 0 (.trapService 0) 0x800 Mem.wf_cleared rfl rfl rfl (by decide +kernel) (by decide +kernel)
    twiceQueued_alone (.inl ⟨rfl, by decide, rfl⟩)
  obtain ⟨t, ht, -, -, -, -, -, -, -, -, hwr⟩ := hqueued twiceQueued_fits (by decide +kernel) (by decide +kernel)
  have h5 := twiceQueued_service
  rw [ht] at h5
  have hreg : t.reg (fqctlAt 0 1) = field 16 13 5 := Option.some.inj h5
  have hbits : bits (t.reg (fqctlAt 0 1)) 16 13 = 5 := by
    rw [hreg]
    decide
  exact absurd (hbits.symm.trans hwr) (by decide +kernel)

end Sys2Proof.Machine
end

section
/-!
SUPPORT. Handles and the numbers of a context's hypotheses: their table, their subtrees, and what a resolution writes to them.
-/
namespace Sys2Proof.Machine

/-! ### Handles and numbers (R258, R265) -/

theorem toNat_handleOf (g : BitVec 16) (n : Nat) : (handleOf g n).toNat = g.toNat * 65536 + n % 256 := by
  have hg := g.isLt
  rw [handleOf, BitVec.toNat_ofNat, Nat.mod_eq_of_lt (by omega)]

theorem hypNum_handleOf (g : BitVec 16) (n : Nat) : hypNum (handleOf g n) = n % 256 := by
  rw [hypNum, bits_zero, toNat_handleOf]
  omega

theorem hypGen_handleOf (g : BitVec 16) (n : Nat) : hypGen (handleOf g n) = g := by
  have hg := g.isLt
  apply BitVec.eq_of_toNat_eq
  rw [hypGen, bits_eq_div_mod, toNat_handleOf, BitVec.toNat_ofNat]
  omega

theorem hypNum_lt (h : Handle) : hypNum h < 256 := bits_lt h 0 8

@[simp] theorem hypNum_canonHandle (h : Handle) : hypNum (canonHandle h) = hypNum h := by
  rw [canonHandle, hypNum_handleOf, Nat.mod_eq_of_lt (hypNum_lt h)]

@[simp] theorem canonHandle_canonHandle (h : Handle) : canonHandle (canonHandle h) = canonHandle h := by
  rw [canonHandle, canonHandle, hypGen_handleOf, hypNum_handleOf, handleOf, handleOf, Nat.mod_mod]

theorem setWidth_handleOf (g : BitVec 16) {n : Nat} (hn : n < 256) : (handleOf g n).setWidth 64 = BitVec.ofNat 64 (g.toNat * 65536 + n) := by
  have hg := g.isLt
  apply BitVec.eq_of_toNat_eq
  rw [BitVec.toNat_setWidth, toNat_handleOf, BitVec.toNat_ofNat, Nat.mod_eq_of_lt hn]

/-! ### The table of hypotheses of a context (R258, R260) -/

theorem State.hyp_setHyp (s : State) (c : Fin 16) (n m : Nat) (x : Hyp) :
    (s.setHyp c n x).hyp c m = if m = n then x else s.hyp c m := by
  rw [State.hyp, State.setHyp, State.ctx_updCtx_self]
  exact tget_tput_keep _ _ _ _ _

theorem State.hypQ_setHyp (s : State) (c : Fin 16) (n : Nat) (x : Hyp) : ((s.setHyp c n x).ctx c).hypQ = (s.ctx c).hypQ := by
  rw [State.setHyp, State.ctx_updCtx_self]

theorem State.liveHyp_iff {s : State} {c : Fin 16} {h : Handle} (hn : hypNum h ≠ 0) :
    s.liveHyp c h = true ↔ (s.hyp c (hypNum h)).st = .live ∧ (s.hyp c (hypNum h)).gen = hypGen h := by
  simp [State.liveHyp, hn]

/-- A value that is not the one of an unlisted key is listed. -/
theorem mem_of_tget_ne {α : Type} {d : α} {t : Sparse α} {k : Nat} (h : tget d t k ≠ d) : (k, tget d t k) ∈ t := by
  induction t with
  | nil => exact absurd rfl h
  | cons e t ih =>
    obtain ⟨n, v⟩ := e
    unfold tget at h ⊢
    split
    case isTrue hk => subst hk; exact List.mem_cons_self
    case isFalse hk => rw [if_neg hk] at h; exact List.mem_cons_of_mem _ (ih h)

theorem State.inSubtree_self (s : State) (c : Fin 16) {h : Handle} (hn : hypNum h ≠ 0) : s.inSubtree c h h = true := by
  rw [State.inSubtree, if_neg hn, State.chainHyp, if_neg hn]
  simp

/-- A handle whose number is in a state other than FREE, with its generation, is one of its own subtree in that state. -/
theorem State.mem_subtreeIn_self {s : State} {c : Fin 16} {h : Handle} {st : HypSt} (hcanon : canonHandle h = h) (hn : hypNum h ≠ 0)
    (hst : (s.hyp c (hypNum h)).st = st) (hfree : st ≠ .free) (hgen : (s.hyp c (hypNum h)).gen = hypGen h) : h ∈ s.subtreeIn c h st := by
  have hne : s.hyp c (hypNum h) ≠ hypFree := fun e => hfree (by rw [← hst, e]; rfl)
  have hself : handleOf (s.hyp c (hypNum h)).gen (hypNum h) = h := by rw [hgen]; exact hcanon
  refine List.mem_map.mpr ⟨(hypNum h, s.hyp c (hypNum h)), List.mem_filter.mpr ⟨mem_of_tget_ne hne, ?_⟩, hself⟩
  simp only [hself, hst, s.inSubtree_self c hn, beq_self_eq_true, Bool.and_true]

/-! ### What resolutions write (R260, R270, R271) -/

/-- From `s` to `t` a controller has written numbers of its context, and noted outcomes, and no other part of the module has changed. -/
structure HypWrites (c : Fin 16) (s t : State) : Prop where
  module : t = { s with ctxs := t.ctxs, outmsgs := t.outmsgs, seen := t.seen }
  queue : (t.ctx c).hypQ = (s.ctx c).hypQ

theorem HypWrites.refl (c : Fin 16) (s : State) : HypWrites c s s := ⟨rfl, rfl⟩

theorem HypWrites.trans {c : Fin 16} {s t u : State} (h : HypWrites c s t) (k : HypWrites c t u) : HypWrites c s u :=
  ⟨by rw [k.module, h.module], k.queue.trans h.queue⟩

theorem HypWrites.foldl {c : Fin 16} {f : State → Handle → State} (hf : ∀ t x, HypWrites c t (f t x)) (l : List Handle) (s : State) :
    HypWrites c s (l.foldl f s) := by
  induction l generalizing s with
  | nil => exact .refl c s
  | cons x l ih => exact (hf s x).trans (ih (f s x))

theorem HypWrites.th {c : Fin 16} {s t : State} (h : HypWrites c s t) : t.th = s.th := by rw [h.module]
theorem HypWrites.mem {c : Fin 16} {s t : State} (h : HypWrites c s t) : t.mem = s.mem := by rw [h.module]
theorem HypWrites.vers {c : Fin 16} {s t : State} (h : HypWrites c s t) : t.vers = s.vers := by rw [h.module]
theorem HypWrites.sbuf {c : Fin 16} {s t : State} (h : HypWrites c s t) : t.sbuf = s.sbuf := by rw [h.module]
theorem HypWrites.cache {c : Fin 16} {s t : State} (h : HypWrites c s t) : t.cache = s.cache := by rw [h.module]
theorem HypWrites.rest {c : Fin 16} {s t : State} (h : HypWrites c s t) : t.rest = s.rest := by rw [h.module]

theorem State.setHyp_writes (s : State) (c : Fin 16) (n : Nat) (x : Hyp) : HypWrites c s (s.setHyp c n x) := ⟨rfl, s.hypQ_setHyp c n x⟩

/-- `f` writes a state to the number of its handle, keeps each generation, and changes nothing else that matters here. -/
structure Marks (c : Fin 16) (st : HypSt) (f : State → Handle → State) : Prop where
  writes : ∀ t x, HypWrites c t (f t x)
  st : ∀ t x n, ((f t x).hyp c n).st = if n = hypNum x then st else (t.hyp c n).st
  gen : ∀ t x n, ((f t x).hyp c n).gen = (t.hyp c n).gen

theorem marks_hypLeave (c : Fin 16) (st : HypSt) (succ named : Handle) : Marks c st fun t x => t.hypLeave c st succ named x where
  writes t x := t.setHyp_writes c _ _
  st t x n := by rw [State.hypLeave, State.hyp_setHyp]; split <;> rfl
  gen t x n := by
    rw [State.hypLeave, State.hyp_setHyp]
    split
    case isTrue hn => rw [hn]
    case isFalse => rfl

theorem State.hyp_resolve (s : State) (c : Fin 16) (h : Handle) (ok : Bool) (succ named : Handle) (n : Nat) :
    (s.resolve c h ok succ named).hyp c n = if n = hypNum h then
      { s.hyp c n with st := .free, outcome := some (ok, hypGen h), succ := some (hypGen h, succ), named := named } else s.hyp c n := by
  refine (s.hyp_setHyp c _ n _).trans ?_
  split
  case isTrue hn => rw [hn]
  case isFalse => rfl

theorem State.resolve_writes (s : State) (c : Fin 16) (h : Handle) (ok : Bool) (succ named : Handle) :
    HypWrites c s (s.resolve c h ok succ named) := ⟨rfl, s.hypQ_setHyp c _ _⟩

theorem marks_resolve (c : Fin 16) (ok : Bool) (succ named : Handle) : Marks c .free fun t x => t.resolve c x ok succ named where
  writes t x := t.resolve_writes c x ok succ named
  st t x n := by rw [State.hyp_resolve]; split <;> rfl
  gen t x n := by rw [State.hyp_resolve]; split <;> rfl

section Marks

variable {c : Fin 16} {st : HypSt} {f : State → Handle → State} (hf : Marks c st f)
include hf

theorem Marks.gen_foldl (l : List Handle) (s : State) (n : Nat) : ((l.foldl f s).hyp c n).gen = (s.hyp c n).gen := by
  induction l generalizing s with
  | nil => rfl
  | cons x l ih => exact (ih (f s x)).trans (hf.gen s x n)

/-- A number once marked stays so. -/
theorem Marks.st_foldl_of_marked (l : List Handle) {s : State} {n : Nat} (h : (s.hyp c n).st = st) : ((l.foldl f s).hyp c n).st = st := by
  induction l generalizing s with
  | nil => exact h
  | cons x l ih => exact ih (by rw [hf.st, h, ite_self])

theorem Marks.st_foldl_of_mem {l : List Handle} {h : Handle} (hmem : h ∈ l) (s : State) : ((l.foldl f s).hyp c (hypNum h)).st = st := by
  obtain ⟨l₁, l₂, rfl⟩ := List.append_of_mem hmem
  rw [List.foldl_append, List.foldl_cons]
  exact hf.st_foldl_of_marked l₂ (by rw [hf.st, if_pos rfl])

end Marks

end Sys2Proof.Machine
end

section
/-!
SUPPORT. Hypothesis controllers: requests, answers, and HNEW and HSTAT where no other request is first.
-/
namespace Sys2Proof.Machine

/-! ### Requests at a controller (R269) -/

/-- The acting thread's request has joined the queue of the controller of its context, and it waits; `f` is its time floor, `st` are the
stamps that the messages have left. -/
def State.asking (s : State) (q : HypReq) (f : Word) (st : Sparse Word) : State :=
  let c := s.th.cx
  { s with th := { s.th with floor := f, st := .wait, wait := .hyp (s.ctx c).hypSer, mid := true }, stamps := st }.updCtx c fun x =>
    { x with hypQ := x.hypQ ++ [((s.ctx c).hypSer, q)], hypSer := (s.ctx c).hypSer + 1 }

theorem State.ctx_asking (s : State) (q : HypReq) (f : Word) (st : Sparse Word) : (s.asking q f st).ctx s.th.cx =
    { s.ctx s.th.cx with hypQ := (s.ctx s.th.cx).hypQ ++ [((s.ctx s.th.cx).hypSer, q)], hypSer := (s.ctx s.th.cx).hypSer + 1 } :=
  State.ctx_updCtx_self _ _ _

theorem State.hypQ_asking (s : State) (q : HypReq) (f : Word) (st : Sparse Word) :
    ((s.asking q f st).ctx s.th.cx).hypQ = (s.ctx s.th.cx).hypQ ++ [((s.ctx s.th.cx).hypSer, q)] := by rw [State.ctx_asking]

theorem State.hyp_asking (s : State) (q : HypReq) (f : Word) (st : Sparse Word) (n : Nat) :
    (s.asking q f st).hyp s.th.cx n = s.hyp s.th.cx n := by
  rw [State.hyp, State.ctx_asking]
  rfl

theorem State.liveHyp_of_hyp {s t : State} {c : Fin 16} (ht : ∀ n, t.hyp c n = s.hyp c n) (h : Handle) : t.liveHyp c h = s.liveHyp c h := by
  simp only [State.liveHyp, ht]

theorem askController_eq (s : State) (q : HypReq) : ∃ (f : Word) (st : Sparse Word), askController s q = .next
    (if (s.ctx s.th.cx).hypQ ≠ [] then s.asking q f st
     else if (s.asking q f st).hypTakesTime s.th.cx q then (s.asking q f st).hypBegin s.th.cx else (s.asking q f st).hypServe s.th.cx) := by
  obtain ⟨f, st, hx, -⟩ := s.exchange_frame (hypKey s.th.cx)
  refine ⟨f, st, ?_⟩
  unfold askController
  simp only [hx, Bool.not_eq_true', List.isEmpty_eq_false_iff]
  rfl

theorem askController_of_busy {s : State} (h : (s.ctx s.th.cx).hypQ ≠ []) (q : HypReq) :
    ∃ (f : Word) (st : Sparse Word), askController s q = .next (s.asking q f st) := by
  obtain ⟨f, st, hx⟩ := askController_eq s q
  exact ⟨f, st, by rw [hx, if_pos h]⟩

section Idle

variable {s : State} (hidle : (s.ctx s.th.cx).hypQ = [])
include hidle

theorem askController_serves {q : HypReq} (hq : ∀ t : State, t.hypTakesTime s.th.cx q = false) :
    ∃ (f : Word) (st : Sparse Word), askController s q = .next ((s.asking q f st).hypServe s.th.cx) := by
  obtain ⟨f, st, hx⟩ := askController_eq s q
  exact ⟨f, st, by rw [hx, if_neg (not_not_intro hidle), if_neg (by rw [hq]; exact Bool.false_ne_true)]⟩

theorem askController_begins {q : HypReq} (hq : ∀ f st, (s.asking q f st).hypTakesTime s.th.cx q = true) :
    ∃ (f : Word) (st : Sparse Word), askController s q = .next ((s.asking q f st).hypBegin s.th.cx) := by
  obtain ⟨f, st, hx⟩ := askController_eq s q
  exact ⟨f, st, by rw [hx, if_neg (not_not_intro hidle), if_pos (hq f st)]⟩

variable {h : Handle} (hn : hypNum h ≠ 0) (hlive : s.liveHyp s.th.cx (canonHandle h) = true)
include hn hlive

theorem askController_refute (p : Place) : ∃ (f : Word) (st : Sparse Word),
    askController s (.refute p h) = .next ((s.asking (.refute p h) f st).startRefute s.th.cx h) := by
  obtain ⟨f, st, hx⟩ := askController_begins (q := .refute p h) hidle fun f st => by
    simp only [State.hypTakesTime, State.liveHyp_of_hyp (s.hyp_asking _ f st), hlive, bne_iff_ne.mpr hn, Bool.and_self]
  refine ⟨f, st, hx.trans (congrArg _ ?_)⟩
  rw [State.hypBegin, State.hypQ_asking, hidle]
  rfl

theorem askController_conf (p : Place) : ∃ (f : Word) (st : Sparse Word),
    askController s (.conf p h) = .next ((s.asking (.conf p h) f st).startConfirm s.th.cx h) := by
  obtain ⟨f, st, hx⟩ := askController_begins (q := .conf p h) hidle fun f st => by
    simp only [State.hypTakesTime, State.liveHyp_of_hyp (s.hyp_asking _ f st), hlive, bne_iff_ne.mpr hn, Bool.and_self]
  refine ⟨f, st, hx.trans (congrArg _ ?_)⟩
  rw [State.hypBegin, State.hypQ_asking, hidle]
  rfl

end Idle

theorem hypBegin_of_nil {s : State} {c : Fin 16} (h : (s.ctx c).hypQ = []) : s.hypBegin c = s := by
  unfold State.hypBegin
  simp only [h]

/-- The queue of a controller is emptied. -/
def State.popped (s : State) (c : Fin 16) : State := s.updCtx c fun x => { x with hypQ := [] }

theorem State.hypQ_popped (s : State) (c : Fin 16) : ((s.popped c).ctx c).hypQ = [] := by rw [State.popped, State.ctx_updCtx_self]

theorem State.hyp_popped (s : State) (c : Fin 16) (n : Nat) : (s.popped c).hyp c n = s.hyp c n := by
  rw [State.hyp, State.popped, State.ctx_updCtx_self]
  rfl

/-! ### Answers of a controller (R245, R269) -/

/-- A thread whose request is answered: it goes on at its next instruction, with its floor raised to the answer's time. -/
def Thread.answered (t : Thread) (g : Thread → Thread) (r : Word) : Thread :=
  { (g t).raise r with st := .run, wait := .none, pc := t.pc + 4, pass := false, mid := false }

theorem Thread.answered_g (t : Thread) (g : Thread → Thread) (r : Word) : (t.answered g r).g = (g t).g := by
  obtain ⟨f, hf, -⟩ := (g t).raise_floor r
  rw [Thread.answered, hf]

theorem State.updThread_here (s : State) (f : Thread → Thread) :
    s.updThread s.th.place f = { s with th := f s.th, rest := s.rest.map fun t => if t.place = s.th.place then f t else t } := by
  simp only [State.updThread, State.mapThreads, if_true]

/-- The acting thread, which waits for its answer, goes on; with no request behind its own the controller has no more to do. -/
theorem State.hypAnswer_last {s : State} {c : Fin 16} {id : Nat} (hwait : s.th.wait = .hyp id) (hlast : (s.ctx c).hypQ = [])
    (g : Thread → Thread) : ∃ (r : Word) (l : List Thread) (st : Sparse Word),
    (s.hypAnswer c s.th.place id g).hypBegin c = { s with th := s.th.answered g r, rest := l, stamps := st } := by
  have hfind : s.findThread s.th.place = some s.th := List.find?_cons_of_pos (by simp)
  obtain ⟨st, r, hm⟩ : ∃ st r, s.message (hypKey c) s.th.key = ({ s with stamps := st }, r) := ⟨_, _, rfl⟩
  have hanswer : s.hypAnswer c s.th.place id g = State.updThread { s with stamps := st } s.th.place fun t => t.answered g r := by
    unfold State.hypAnswer
    simp only [hfind, hwait, if_true, hm]
    rfl
  refine ⟨r, s.rest.map fun t => if t.place = s.th.place then t.answered g r else t, st, ?_⟩
  rw [hanswer, State.updThread_here { s with stamps := st }]
  exact hypBegin_of_nil hlast

/-! ### HNEW and HSTAT (R266, R268) -/

/-- What a thread that goes on with an answer in g[d] shows: memory and every other register as in `s`, and no request left. -/
structure Answered (s t : State) (c : Fin 16) (d : Reg) (v : Word) : Prop where
  st : t.th.st = .run
  pc : t.th.pc = s.th.pc + 4
  mem : t.mem = s.mem
  gr : ∀ r, t.gr r = if r = d ∧ d ≠ 0 then v else s.gr r
  queue : (t.ctx c).hypQ = []

theorem dest_ne_zero_iff {r d : Reg} : r = d ∧ r ≠ 0 ↔ r = d ∧ d ≠ 0 := and_congr_right fun h => by rw [h]

/-- The state that performing a request has left is answered with a register; the numbers of the context stay as they are. -/
theorem answered_of_writes {s u : State} {q : HypReq} {f : Word} {st : Sparse Word}
    (hu : HypWrites s.th.cx ((s.asking q f st).popped s.th.cx) u) (d : Reg) (v : Word) :
    ∃ t, (u.hypAnswer s.th.cx s.th.place (s.ctx s.th.cx).hypSer fun x => x.setG d v).hypBegin s.th.cx = t ∧ Answered s t s.th.cx d v ∧
      ∀ n, t.hyp s.th.cx n = u.hyp s.th.cx n := by
  have hth : u.th = (s.asking q f st).th := hu.th
  have hplace : u.th.place = s.th.place := by rw [hth]; rfl
  have hlast : (u.ctx s.th.cx).hypQ = [] := hu.queue.trans (State.hypQ_popped _ _)
  obtain ⟨r, l, st', ht⟩ := State.hypAnswer_last (s := u) (id := (s.ctx s.th.cx).hypSer) (by rw [hth]; rfl) hlast fun x => x.setG d v
  rw [hplace] at ht
  refine ⟨_, ht, ⟨rfl, ?_, hu.mem, fun k => ?_, hlast⟩, fun n => rfl⟩
  · rw [hth]
    rfl
  · have hg : (u.th.answered (fun x => x.setG d v) r).gr k = (u.th.setG d v).gr k := by
      rw [Thread.gr, Thread.answered_g]
      rfl
    refine hg.trans ((Thread.gr_setG _ _ _ _).trans (if_congr dest_ne_zero_iff rfl ?_))
    rw [hth]
    rfl

theorem State.hypDepth_of_hyp {s t : State} {c : Fin 16} (ht : ∀ n, t.hyp c n = s.hyp c n) (h : Handle) : t.hypDepth c h = s.hypDepth c h := by
  simp only [State.hypDepth, ht]

theorem State.hypStatus_of_hyp {s t : State} {c : Fin 16} (ht : ∀ n, t.hyp c n = s.hyp c n) (hv : t.vers = s.vers) (h : Handle) :
    t.hypStatus c h = s.hypStatus c h := by
  simp only [State.hypStatus, State.hypCode, ht, hv]

section New

variable {s : State} {c : Fin 16} {p : Handle}

theorem State.hypNew_writes (s : State) (c : Fin 16) (p : Handle) : HypWrites c s (s.hypNew c p).1 := by
  unfold State.hypNew
  dsimp only
  split
  · exact .refl c s
  · split
    · exact .refl c s
    · split
      · exact .refl c s
      · exact ⟨rfl, State.hypQ_setHyp _ c _ _⟩

theorem hypNew_of_dead (hlive : s.liveHyp c (canonHandle p) = false) : s.hypNew c p = (s, 0x8000000000000002) := by
  simp only [State.hypNew, hlive, Bool.not_false, if_true]

variable (hlive : s.liveHyp c (canonHandle p) = true)
include hlive

theorem hypNew_of_deep (hdeep : s.hypDepth c (canonHandle p) = 8) : s.hypNew c p = (s, 0x8000000000000003) := by
  simp only [State.hypNew, hlive, hdeep, Bool.not_true, Bool.false_eq_true, if_false, if_true]

variable (hdepth : s.hypDepth c (canonHandle p) ≠ 8)
include hdepth

theorem hypNew_of_full (hfull : ∀ n, 0 < n → n < 256 → (s.hyp c n).st ≠ .free) : s.hypNew c p = (s, 0x8000000000000001) := by
  have hnone : ((List.range 256).find? fun n => n ≠ 0 && (s.hyp c n).st == .free) = none := by
    simp only [List.find?_eq_none, List.mem_range, ne_eq, Bool.and_eq_true, decide_eq_true_eq, beq_iff_eq, not_and]
    exact fun n hn h0 => hfull n (Nat.pos_of_ne_zero h0) hn
  simp only [State.hypNew, hlive, hdepth, hnone, Bool.not_true, Bool.false_eq_true, if_false]

/-- The lowest free number becomes live under the parent with its next generation. -/
theorem hypNew_of_room {n : Nat} (hpos : 0 < n) (hn : n < 256) (hfree : (s.hyp c n).st = .free)
    (hlow : ∀ m, 0 < m → m < n → (s.hyp c m).st ≠ .free) :
    ∃ g : BitVec 16, g = (if (s.hyp c n).gen = 65535 then 1 else (s.hyp c n).gen + 1) ∧
      (s.hypNew c p).2 = BitVec.ofNat 64 (g.toNat * 65536 + n) ∧ (s.hypNew c p).1.hyp c n =
        { st := .live, gen := g, parent := canonHandle p, depth := s.hypDepth c (canonHandle p) + 1, outcome := none, succ := none, named := 0 } := by
  have hfind : ((List.range 256).find? fun n => n ≠ 0 && (s.hyp c n).st == .free) = some n := by
    rw [List.find?_range_eq_some]
    simp only [ne_eq, Bool.and_eq_true, decide_eq_true_eq, beq_iff_eq, List.mem_range, Bool.not_eq_true', Bool.and_eq_false_iff,
      decide_eq_false_iff_not, not_not, beq_eq_false_iff_ne]
    exact ⟨⟨Nat.ne_of_gt hpos, hfree⟩, hn, fun m hm => (Nat.eq_zero_or_pos m).imp_right fun h => hlow m h hm⟩
  refine ⟨_, rfl, ?_, ?_⟩
  · simp only [State.hypNew, hlive, hdepth, hfind, Bool.not_true, Bool.false_eq_true, if_false, setWidth_handleOf _ hn]
  · simp only [State.hypNew, hlive, hdepth, hfind, Bool.not_true, Bool.false_eq_true, if_false, State.hyp_setHyp, if_true]
    rfl

end New

/-- A state live under its handle. -/
theorem State.liveHyp_handleOf {s : State} {c : Fin 16} {g : BitVec 16} {n : Nat} (hpos : 0 < n) (hn : n < 256)
    (hst : (s.hyp c n).st = .live) (hgen : (s.hyp c n).gen = g) : s.liveHyp c (handleOf g n) = true := by
  have hnum : hypNum (handleOf g n) = n := by rw [hypNum_handleOf, Nat.mod_eq_of_lt hn]
  rw [State.liveHyp_iff (by omega), hnum, hypGen_handleOf]
  exact ⟨hst, hgen⟩

section Serve

variable {t : State} {c : Fin 16} {id : Nat} {p : Place} {h : Handle}

theorem hypServe_of_new {d : Reg} (hq : (t.ctx c).hypQ = [(id, .new p d h)]) : t.hypServe c =
    (((t.popped c).hypNew c h).1.hypAnswer c p id fun x => x.setG d ((t.popped c).hypNew c h).2).hypBegin c := by
  have hbegin : t.hypBegin c = t := by simp only [State.hypBegin, hq]
  unfold State.hypServe
  simp only [hbegin, hq]
  rfl

theorem hypServe_of_stat {d : Reg} (hq : (t.ctx c).hypQ = [(id, .stat p d h)]) : t.hypServe c =
    ((t.popped c).hypAnswer c p id fun x => x.setG d ((t.popped c).hypStatus c h)).hypBegin c := by
  have hbegin : t.hypBegin c = t := by simp only [State.hypBegin, hq]
  unfold State.hypServe
  simp only [hbegin, hq]
  rfl

end Serve

section Idle

variable {s : State} (hidle : (s.ctx s.th.cx).hypQ = [])
include hidle

/-- The numbers are those of `s` when the controller, idle before, performs an HNEW. -/
theorem execHnew_of_idle (d a : Reg) : ∃ x t : State, (∀ n, x.hyp s.th.cx n = s.hyp s.th.cx n) ∧ exec (.hnew d a) s = .next t ∧
    Answered s t s.th.cx d (x.hypNew s.th.cx ((s.gr a).setWidth 32)).2 ∧
    ∀ n, t.hyp s.th.cx n = (x.hypNew s.th.cx ((s.gr a).setWidth 32)).1.hyp s.th.cx n := by
  obtain ⟨f, st, hask⟩ := askController_serves hidle (q := .new s.th.place d ((s.gr a).setWidth 32)) fun _ => rfl
  have hserve := hypServe_of_new ((s.hypQ_asking (.new s.th.place d ((s.gr a).setWidth 32)) f st).trans (by rw [hidle]; rfl))
  obtain ⟨t, ht, hans, hhyp⟩ := answered_of_writes (State.hypNew_writes ((s.asking _ f st).popped s.th.cx) s.th.cx ((s.gr a).setWidth 32)) d _
  exact ⟨_, t, fun n => (State.hyp_popped _ _ n).trans (s.hyp_asking _ f st n), hask.trans (congrArg _ (hserve.trans ht)), hans, hhyp⟩

section Hnew

variable (d : Reg) {a : Reg}

theorem execHnew_of_dead (hdead : s.liveHyp s.th.cx (canonHandle ((s.gr a).setWidth 32)) = false) :
    ∃ t, exec (.hnew d a) s = .next t ∧ Answered s t s.th.cx d 0x8000000000000002 := by
  obtain ⟨x, t, hx, hex, hans, -⟩ := execHnew_of_idle hidle d a
  rw [hypNew_of_dead ((State.liveHyp_of_hyp hx _).trans hdead)] at hans
  exact ⟨t, hex, hans⟩

variable (hlive : s.liveHyp s.th.cx (canonHandle ((s.gr a).setWidth 32)) = true)
include hlive

theorem execHnew_of_deep (hdeep : s.hypDepth s.th.cx (canonHandle ((s.gr a).setWidth 32)) = 8) :
    ∃ t, exec (.hnew d a) s = .next t ∧ Answered s t s.th.cx d 0x8000000000000003 := by
  obtain ⟨x, t, hx, hex, hans, -⟩ := execHnew_of_idle hidle d a
  rw [hypNew_of_deep ((State.liveHyp_of_hyp hx _).trans hlive) ((State.hypDepth_of_hyp hx _).trans hdeep)] at hans
  exact ⟨t, hex, hans⟩

variable (hdepth : s.hypDepth s.th.cx (canonHandle ((s.gr a).setWidth 32)) < 8)
include hdepth

theorem execHnew_of_full (hfull : ∀ n, 0 < n → n < 256 → (s.hyp s.th.cx n).st ≠ .free) :
    ∃ t, exec (.hnew d a) s = .next t ∧ Answered s t s.th.cx d 0x8000000000000001 := by
  obtain ⟨x, t, hx, hex, hans, -⟩ := execHnew_of_idle hidle d a
  rw [hypNew_of_full ((State.liveHyp_of_hyp hx _).trans hlive) (by rw [State.hypDepth_of_hyp hx]; exact Nat.ne_of_lt hdepth)
    fun n hpos hn => by rw [hx]; exact hfull n hpos hn] at hans
  exact ⟨t, hex, hans⟩

theorem execHnew_of_room {n : Nat} (hpos : 0 < n) (hn : n < 256) (hfree : (s.hyp s.th.cx n).st = .free)
    (hlow : ∀ m, 0 < m → m < n → (s.hyp s.th.cx m).st ≠ .free) :
    ∃ (g : BitVec 16) (t : State), g = (if (s.hyp s.th.cx n).gen = 65535 then 1 else (s.hyp s.th.cx n).gen + 1) ∧
      exec (.hnew d a) s = .next t ∧ Answered s t s.th.cx d (BitVec.ofNat 64 (g.toNat * 65536 + n)) ∧
      t.liveHyp s.th.cx (handleOf g n) = true ∧ (t.hyp s.th.cx n).parent = canonHandle ((s.gr a).setWidth 32) ∧
      (t.hyp s.th.cx n).depth = s.hypDepth s.th.cx (canonHandle ((s.gr a).setWidth 32)) + 1 := by
  obtain ⟨x, t, hx, hex, hans, hhyp⟩ := execHnew_of_idle hidle d a
  obtain ⟨g, hg, hv, hnew⟩ := hypNew_of_room ((State.liveHyp_of_hyp hx _).trans hlive)
    (by rw [State.hypDepth_of_hyp hx]; exact Nat.ne_of_lt hdepth) hpos hn (by rw [hx]; exact hfree) fun m h1 h2 => by rw [hx]; exact hlow m h1 h2
  have hat := (hhyp n).trans hnew
  rw [hx] at hg
  rw [hv] at hans
  exact ⟨g, t, hg, hex, hans, State.liveHyp_handleOf hpos hn (by rw [hat]) (by rw [hat]), by rw [hat], by rw [hat, State.hypDepth_of_hyp hx]⟩

end Hnew

theorem execHstat_of_idle (d a : Reg) :
    ∃ t, exec (.hstat d a) s = .next t ∧ Answered s t s.th.cx d (s.hypStatus s.th.cx ((s.gr a).setWidth 32)) := by
  obtain ⟨f, st, hask⟩ := askController_serves hidle (q := .stat s.th.place d ((s.gr a).setWidth 32)) fun _ => rfl
  have hserve := hypServe_of_stat ((s.hypQ_asking (.stat s.th.place d ((s.gr a).setWidth 32)) f st).trans (by rw [hidle]; rfl))
  have hstatus : ((s.asking (.stat s.th.place d ((s.gr a).setWidth 32)) f st).popped s.th.cx).hypStatus s.th.cx ((s.gr a).setWidth 32) =
      s.hypStatus s.th.cx ((s.gr a).setWidth 32) :=
    State.hypStatus_of_hyp (fun n => (State.hyp_popped _ _ n).trans (s.hyp_asking _ f st n)) rfl _
  obtain ⟨t, ht, hans, -⟩ := answered_of_writes (.refl s.th.cx ((s.asking _ f st).popped s.th.cx)) d _
  exact ⟨t, hask.trans (congrArg _ (hserve.trans ht)), hstatus ▸ hans⟩

end Idle

end Sys2Proof.Machine
end

section
/-!
SUPPORT. Resolutions from the request to the end: HREF with its discard, and HCONF into H0 with its merge.
-/
namespace Sys2Proof.Machine

/-! ### The start and the end of a refute (R260, R271) -/

theorem State.startRefute_marks {s : State} {c : Fin 16} {h : Handle} (hn : hypNum h ≠ 0) (hlive : s.liveHyp c (canonHandle h) = true) :
    HypWrites c s (s.startRefute c h) ∧ ((s.startRefute c h).hyp c (hypNum h)).st = .refuting ∧
      ((s.startRefute c h).hyp c (hypNum h)).gen = hypGen (canonHandle h) := by
  have hnum : hypNum (canonHandle h) = hypNum h := hypNum_canonHandle h
  have hn' : hypNum (canonHandle h) ≠ 0 := hnum ▸ hn
  obtain ⟨hst, hgen⟩ := (State.liveHyp_iff hn').mp hlive
  have hmem := State.mem_subtreeIn_self (canonHandle_canonHandle h) hn' hst (by decide) hgen
  have hmarks := marks_hypLeave c .refuting (s.parentHyp c (canonHandle h)) (canonHandle h)
  have hstart : s.startRefute c h = (s.subtreeIn c (canonHandle h) .live).foldl
      (fun t x => t.hypLeave c .refuting (s.parentHyp c (canonHandle h)) (canonHandle h) x) s := by
    refine if_neg (not_or.mpr ⟨hn', ?_⟩)
    rw [hlive]
    decide
  rw [hstart, ← hnum]
  exact ⟨.foldl hmarks.writes _ s, hmarks.st_foldl_of_mem hmem s, (hmarks.gen_foldl _ s _).trans hgen⟩

/-- The discard frees the number, drops its versions, and leaves the acting thread and memory as they are. -/
theorem State.hypRefute_discards {s : State} {c : Fin 16} {h : Handle} (hn : hypNum h ≠ 0) (hst : (s.hyp c (hypNum h)).st = .refuting)
    (hgen : (s.hyp c (hypNum h)).gen = hypGen (canonHandle h)) :
    (s.hypRefute c h).th = s.th ∧ (s.hypRefute c h).mem = s.mem ∧ ((s.hypRefute c h).ctx c).hypQ = (s.ctx c).hypQ ∧
      ((s.hypRefute c h).hyp c (hypNum h)).st = .free ∧
      ∀ v ∈ (s.hypRefute c h).vers, v ∈ s.vers ∧ ¬(v.ctx = c ∧ v.hyp = canonHandle h) := by
  have hnum : hypNum (canonHandle h) = hypNum h := hypNum_canonHandle h
  rw [← hnum] at hn hst hgen ⊢
  have hmem := State.mem_subtreeIn_self (canonHandle_canonHandle h) hn hst (by decide) hgen
  have hmarks := marks_resolve c false (s.parentHyp c (canonHandle h)) (canonHandle h)
  obtain ⟨w, hw, hwth, hwmem, hwctx, hwvers⟩ : ∃ w : State, s.hypRefute c h = (s.subtreeIn c (canonHandle h) .refuting).foldl
      (fun t x => t.resolve c x false (s.parentHyp c (canonHandle h)) (canonHandle h)) w ∧ w.th = s.th ∧ w.mem = s.mem ∧ w.ctxs = s.ctxs ∧
      w.vers = s.vers.filter fun v => !(v.ctx = c && (s.subtreeIn c (canonHandle h) .refuting).contains v.hyp) :=
    ⟨_, if_neg (by rintro (h0 | h0 | h0) <;> contradiction), rfl, rfl, rfl, rfl⟩
  have hframe := HypWrites.foldl hmarks.writes (s.subtreeIn c (canonHandle h) .refuting) w
  rw [hw]
  refine ⟨hframe.th.trans hwth, hframe.mem.trans hwmem, hframe.queue.trans (by rw [State.ctx, hwctx, State.ctx]),
    hmarks.st_foldl_of_mem hmem w, fun v hv => ?_⟩
  rw [hframe.vers, hwvers, List.mem_filter] at hv
  refine ⟨hv.1, fun ⟨hc, hh⟩ => ?_⟩
  have hgone := hv.2
  rw [hc, hh] at hgone
  simp [hmem] at hgone

section Serve

variable {t : State} {c : Fin 16} {id : Nat} {p : Place} {h : Handle}

/-- A refute that has started begins no second time, and its performing is the discard and the answer. -/
theorem hypServe_of_refute (hq : (t.ctx c).hypQ = [(id, .refute p h)]) (hlive : t.liveHyp c (canonHandle h) = false) :
    ∃ k : CoreId, t.hypServe c = ((((t.popped c).hypRefute c h).hypSeen c k).hypAnswer c p id State.hypServe.id_).hypBegin c := by
  have hbegin : t.hypBegin c = t := by
    simp only [State.hypBegin, hq, State.startRefute, hlive, Bool.not_false, or_true, if_true]
  unfold State.hypServe
  simp only [hbegin, hq]
  exact ⟨_, rfl⟩

theorem hypServe_of_conf (hq : (t.ctx c).hypQ = [(id, .conf p h)]) (hlive : t.liveHyp c (canonHandle h) = false) :
    ∃ k : CoreId, t.hypServe c = ((((t.popped c).hypConfirm c h).hypSeen c k).hypAnswer c p id State.hypServe.id_).hypBegin c := by
  have hbegin : t.hypBegin c = t := by
    simp only [State.hypBegin, hq, State.startConfirm, hlive, Bool.not_false, or_true, if_true]
  unfold State.hypServe
  simp only [hbegin, hq]
  exact ⟨_, rfl⟩

end Serve

/-- What a thread whose resolution is done shows: it goes on at its next instruction with its registers. -/
structure Resumed (s t : State) : Prop where
  st : t.th.st = .run
  pc : t.th.pc = s.th.pc + 4
  g : t.th.g = s.th.g

/-- The answer to the resolution of the acting thread lets it go on; memory, versions and numbers stay as they are. -/
theorem resumed_of_answer {s u : State} {q : HypReq} {f : Word} {st : Sparse Word} (hth : u.th = (s.asking q f st).th)
    (hlast : (u.ctx s.th.cx).hypQ = []) (k : CoreId) :
    ∃ t, ((u.hypSeen s.th.cx k).hypAnswer s.th.cx s.th.place (s.ctx s.th.cx).hypSer State.hypServe.id_).hypBegin s.th.cx = t ∧
      Resumed s t ∧ t.mem = u.mem ∧ t.vers = u.vers ∧ ∀ n, t.hyp s.th.cx n = u.hyp s.th.cx n := by
  have hseen : (u.hypSeen s.th.cx k).th = (s.asking q f st).th := hth
  have hplace : (u.hypSeen s.th.cx k).th.place = s.th.place := by rw [hseen]; rfl
  have hwait : (u.hypSeen s.th.cx k).th.wait = .hyp (s.ctx s.th.cx).hypSer := by rw [hseen]; rfl
  obtain ⟨r, l, st', ht⟩ := State.hypAnswer_last hwait hlast State.hypServe.id_
  rw [hplace] at ht
  refine ⟨_, ht, ⟨rfl, ?_, (Thread.answered_g _ _ r).trans ?_⟩, rfl, rfl, fun n => rfl⟩
  · rw [hseen]; rfl
  · rw [hseen]; rfl

theorem State.liveHyp_of_not_live {s : State} {c : Fin 16} {h : Handle} (hn : hypNum h ≠ 0) (hst : (s.hyp c (hypNum h)).st ≠ .live) :
    s.liveHyp c h = false :=
  Bool.eq_false_iff.mpr fun hl => hst ((State.liveHyp_iff hn).mp hl).1

section Idle

variable {s : State} {h : Handle} (hidle : (s.ctx s.th.cx).hypQ = []) (hn : hypNum h ≠ 0) (hlive : s.liveHyp s.th.cx (canonHandle h) = true)
include hidle hn hlive

/-- A refute of a live handle, from its request to its end. -/
theorem refute_then_discard : ∃ t u, askController s (.refute s.th.place h) = .next t ∧ t.th.st = .wait ∧ t.th.pc = s.th.pc ∧
    t.mem = s.mem ∧ (t.hyp s.th.cx (hypNum (canonHandle h))).st = .refuting ∧ exec (.hrefDiscard s.th.cx) t = .next u ∧ Resumed s u ∧
    u.mem = s.mem ∧ u.liveHyp s.th.cx (canonHandle h) = false ∧ (u.hyp s.th.cx (hypNum (canonHandle h))).st = .free ∧
    ∀ v ∈ u.vers, v ∈ s.vers ∧ ¬(v.ctx = s.th.cx ∧ v.hyp = canonHandle h) := by
  obtain ⟨f, st, hask⟩ := askController_refute hidle hn hlive s.th.place
  have hlive' := (State.liveHyp_of_hyp (s.hyp_asking (.refute s.th.place h) f st) (canonHandle h)).trans hlive
  obtain ⟨hw, hst, hgen⟩ := State.startRefute_marks hn hlive'
  generalize (s.asking (.refute s.th.place h) f st).startRefute s.th.cx h = t at hask hw hst hgen
  have hq : (t.ctx s.th.cx).hypQ = [((s.ctx s.th.cx).hypSer, .refute s.th.place h)] :=
    hw.queue.trans ((s.hypQ_asking _ f st).trans (by rw [hidle]; rfl))
  obtain ⟨k, hserve⟩ := hypServe_of_refute hq
    (State.liveHyp_of_not_live (by rwa [hypNum_canonHandle]) (by rw [hypNum_canonHandle, hst]; decide))
  obtain ⟨hth, hmem, hlast, hfree, hvers⟩ := State.hypRefute_discards (s := t.popped s.th.cx) hn
    ((congrArg Hyp.st (t.hyp_popped _ _)).trans hst) ((congrArg Hyp.gen (t.hyp_popped _ _)).trans hgen)
  obtain ⟨u, hu, hres, humem, huvers, huhyp⟩ := resumed_of_answer (hth.trans hw.th) (hlast.trans (t.hypQ_popped _)) k
  have hex : exec (.hrefDiscard s.th.cx) t = .next u := by
    show execHrefDiscard s.th.cx t = _
    simp only [execHrefDiscard, hq, hserve, hu]
  have hnum := hypNum_canonHandle h
  have hend : (u.hyp s.th.cx (hypNum (canonHandle h))).st = .free := by rw [huhyp, hnum]; exact hfree
  refine ⟨t, u, hask, by rw [hw.th]; rfl, by rw [hw.th]; rfl, hw.mem, by rw [hnum]; exact hst, hex, hres, humem.trans (hmem.trans hw.mem),
    State.liveHyp_of_not_live (hnum ▸ hn) (by rw [hend]; decide), hend, fun v hv => ?_⟩
  have hv' := hvers v (huvers ▸ hv)
  exact ⟨hw.vers ▸ hv'.1, hv'.2⟩

end Idle

/-! ### The start of a confirm and the steps of a merge (R260, R270) -/

theorem State.startConfirm_marks {s : State} {c : Fin 16} {h : Handle} (hn : hypNum h ≠ 0) (hlive : s.liveHyp c (canonHandle h) = true) :
    HypWrites c s (s.startConfirm c h) ∧ ((s.startConfirm c h).hyp c (hypNum h)).st = .confirming ∧
      ((s.startConfirm c h).hyp c (hypNum h)).gen = hypGen (canonHandle h) ∧
      ((s.startConfirm c h).hyp c (hypNum h)).parent = s.parentHyp c (canonHandle h) := by
  have hnum : hypNum (canonHandle h) = hypNum h := hypNum_canonHandle h
  have hn' : hypNum (canonHandle h) ≠ 0 := hnum ▸ hn
  obtain ⟨hst, hgen⟩ := (State.liveHyp_iff hn').mp hlive
  have hstart : s.startConfirm c h = s.hypLeave c .confirming (s.parentHyp c (canonHandle h)) (canonHandle h) (canonHandle h) := by
    refine if_neg (not_or.mpr ⟨hn', ?_⟩)
    rw [hlive]
    decide
  rw [hstart, ← hnum, State.hypLeave, State.hyp_setHyp, if_pos rfl]
  exact ⟨s.setHyp_writes c _ _, rfl, hgen, (if_pos hgen).symm⟩

section Idle

variable {s : State} (hbuf : s.sbuf = []) (hcache : s.cache = [])
include hcache

theorem State.cleanLines_of_empty (q : CacheLine → Bool) : s.cleanLines q = s := by
  simp only [State.cleanLines, hcache, List.filter_nil, List.foldl_nil, List.map_nil]
  rw [← hcache]

theorem State.mergeCaches_of_empty (c : Fin 16) (h p : Handle) : s.mergeCaches c h p = s := by
  simp only [State.mergeCaches, hcache, List.filter_nil, List.map_nil]
  rw [← hcache]

include hbuf

theorem State.drainHyp_of_idle (c : Fin 16) (h : Handle) : s.drainHyp c h = s := by
  rw [State.drainHyp, drain_of_none (by rw [hbuf, List.any_nil]), State.cleanLines_of_empty hcache]

end Idle

theorem State.mapThreads_of_fixed {s : State} {f : Thread → Thread} (hf : ∀ u ∈ s.threads, f u = u) : s.mapThreads f = s := by
  have hrest : s.rest.map f = s.rest := (List.map_congr_left fun u hu => hf u (List.mem_cons_of_mem _ hu)).trans (List.map_id _)
  rw [State.mapThreads, hrest, hf s.th List.mem_cons_self]

/-- A handle that no thread acts under is renamed in graphs, commands, instances and transfers alone. -/
theorem State.renameHyp_frame {s : State} {c : Fin 16} {h : Handle} (p : Handle) (hthr : ∀ u ∈ s.threads, u.thyp ≠ h) :
    ∃ w : State, s.renameHyp c h p = w ∧ w = { s with ctxs := w.ctxs, insts := w.insts, streams := w.streams } ∧
      (w.ctx c).hypQ = (s.ctx c).hypQ := by
  have hnone : (s.threads.filter fun t => !t.onControl && t.ctx = c && t.thyp = h) = [] :=
    List.filter_eq_nil_iff.mpr fun u hu => by simp [hthr u hu]
  have hsame : (s.mapThreads fun t => if t.onControl && t.cx = c && t.thyp = h then { t with thyp := p } else t) = s :=
    State.mapThreads_of_fixed fun u hu => if_neg (by simp [hthr u hu])
  obtain ⟨f, l, k, hren, hf⟩ : ∃ f l k, s.renameHyp c h p = { s.updCtx c f with insts := l, streams := k } ∧
      ∀ x : Ctx, (f x).hypQ = x.hypQ := by
    unfold State.renameHyp
    simp only [hnone, List.map_nil, List.foldl_nil, hsame]
    exact ⟨_, _, _, rfl, fun x => rfl⟩
  exact ⟨_, hren, rfl, (congrArg Ctx.hypQ (s.ctx_updCtx_self c f)).trans (hf _)⟩

theorem Mem.byte_foldl_setPoison (l : List Nat) (f : Nat → Nat) (b : Nat → Bool) (m : Mem) (k : Nat) :
    (l.foldl (fun m i => m.setPoison (f i) (b i)) m).byte k = m.byte k := by
  induction l generalizing m with
  | nil => rfl
  | cons i l ih => exact ih (m.setPoison (f i) (b i))

theorem toNat_lt_of_bytes {n : Nat} (x : BitVec (8 * n)) : x.toNat < 256 ^ n := by
  rw [show 256 = 2 ^ 8 from rfl, ← Nat.pow_mul]
  exact x.isLt

/-- A version that passes to H0 is written to its line, and no other byte changes. -/
theorem State.mergeVersion_root {s : State} (hwf : s.mem.wf) (v : Version) : ∃ (m : Mem) (l : Sparse Bool),
    s.mergeVersion 0 v = { s with mem := m, llc := l } ∧ m.read (v.line * 64) 64 = v.data.toNat ∧
      ∀ k, k < v.line * 64 ∨ v.line * 64 + 64 ≤ k → m.byte k = s.mem.byte k := by
  let m := (List.range 4).foldl (fun m i => m.setPoison (v.line * 64 + 16 * i) (bit v.poison i)) (s.mem.write (v.line * 64) 64 v.data.toNat)
  have hbyte (k : Nat) : m.byte k = (s.mem.write (v.line * 64) 64 v.data.toNat).byte k := Mem.byte_foldl_setPoison _ _ _ _ k
  obtain ⟨l, hl⟩ := State.touchLlc_frame { s with mem := m } v.line true
  refine ⟨m, l, (if_pos (by decide)).trans hl, ?_, fun k hk => (hbyte k).trans (Mem.byte_write_of_out hwf _ _ _ _ hk)⟩
  rw [Mem.read_congr fun j _ _ => hbyte j, Mem.read_write_same hwf, Nat.mod_eq_of_lt (toNat_lt_of_bytes (n := 64) v.data)]

/-- The versions pass to H0, at most one of them. -/
theorem State.mergeVersions_root {s : State} (hwf : s.mem.wf) {l : List Version} (hl : l = [] ∨ ∃ v, l = [v]) :
    ∃ (m : Mem) (c : Sparse Bool), l.foldl (fun s v => s.mergeVersion 0 v) s = { s with mem := m, llc := c } ∧
      (∀ v ∈ l, m.read (v.line * 64) 64 = v.data.toNat) ∧
      ∀ k, (∀ v ∈ l, k < v.line * 64 ∨ v.line * 64 + 64 ≤ k) → m.byte k = s.mem.byte k := by
  rcases hl with rfl | ⟨v, rfl⟩
  · exact ⟨s.mem, s.llc, rfl, fun v hv => absurd hv List.not_mem_nil, fun k _ => rfl⟩
  · obtain ⟨m, c, hm, hread, hout⟩ := State.mergeVersion_root hwf v
    exact ⟨m, c, hm, fun w hw => by rw [List.mem_singleton.mp hw]; exact hread, fun k hk => hout k (hk v List.mem_cons_self)⟩

/-- The state in which a merge has put one version, if there is one, into memory, and has recorded the number confirmed. -/
structure Merged (s u : State) (c : Fin 16) (h : Handle) : Prop where
  th : u.th = s.th
  queue : (u.ctx c).hypQ = (s.ctx c).hypQ
  vers : u.vers = []
  st : (u.hyp c (hypNum h)).st = .free
  outcome : (u.hyp c (hypNum h)).outcome = some (true, hypGen h)
  read : ∀ v ∈ s.vers, u.mem.read (v.line * 64) 64 = v.data.toNat
  byte : ∀ k, (∀ v ∈ s.vers, k < v.line * 64 ∨ v.line * 64 + 64 ≤ k) → u.mem.byte k = s.mem.byte k

theorem State.hypConfirm_merges {s : State} {c : Fin 16} {h : Handle} (hn : hypNum h ≠ 0)
    (hst : (s.hyp c (hypNum h)).st = .confirming) (hgen : (s.hyp c (hypNum h)).gen = hypGen (canonHandle h))
    (hroot : (s.hyp c (hypNum h)).parent = 0) (hbuf : s.sbuf = []) (hcache : s.cache = []) (hwf : s.mem.wf)
    (hthr : ∀ u ∈ s.threads, u.thyp ≠ canonHandle h) (hvers : s.vers = [] ∨ ∃ v, s.vers = [v] ∧ v.ctx = c ∧ v.hyp = canonHandle h) :
    Merged s (s.hypConfirm c h) c (canonHandle h) := by
  have hparent : s.parentHyp c (canonHandle h) = 0 := by simp [State.parentHyp, hgen, hroot]
  have hopen : s.openHyp c (canonHandle h) = true := by simp [State.openHyp, hn, hst, hgen]
  have hgo : ¬(hypNum (canonHandle h) = 0 ∨ (s.hyp c (hypNum (canonHandle h))).st ≠ .confirming ∨ (!s.openHyp c (canonHandle h)) = true) := by
    simp [hn, hst, hopen]
  obtain ⟨w, hw, hframe, hqueue⟩ := State.renameHyp_frame (c := c) 0 hthr
  have hwcache : w.cache = [] := by rw [hframe]; exact hcache
  have hwvers : w.vers = s.vers := by rw [hframe]
  have hwmem : w.mem = s.mem := by rw [hframe]
  have hwth : w.th = s.th := by rw [hframe]
  have hmine : (s.vers.filter fun v => v.ctx = c && v.hyp = canonHandle h) = s.vers := by
    rcases hvers with e | ⟨v, e, hc, hh⟩ <;> simp [*]
  have hleft : (s.vers.filter fun v => !(v.ctx = c && v.hyp = canonHandle h)) = [] := by
    rcases hvers with e | ⟨v, e, hc, hh⟩ <;> simp [*]
  obtain ⟨m, l, hfold, hread, hbyte⟩ := State.mergeVersions_root (s := { w with vers := [] }) (hwmem ▸ hwf)
    (hvers.imp_right fun ⟨v, e, _⟩ => ⟨v, e⟩)
  obtain ⟨f, hconf⟩ : ∃ f : Nat × Hyp → Nat × Hyp, s.hypConfirm c h =
      (State.updCtx { w with vers := [], mem := m, llc := l } c fun x => { x with hyps := x.hyps.map f }).resolve c (canonHandle h) true 0
        (canonHandle h) := by
    unfold State.hypConfirm
    simp only [if_neg hgo, hparent, State.drainHyp_of_idle hbuf hcache, hw, State.mergeCaches_of_empty hwcache, hwvers, hmine, hleft, hfold]
    exact ⟨_, rfl⟩
  rw [hconf]
  have hq : ((State.updCtx { w with vers := [], mem := m, llc := l } c fun x => { x with hyps := x.hyps.map f }).ctx c).hypQ = (s.ctx c).hypQ := by
    rw [State.ctx_updCtx_self]
    exact hqueue
  refine ⟨hwth, (State.resolve_writes _ c _ _ _ _).queue.trans hq, rfl, ?_, ?_, hread, fun k hk => (hbyte k hk).trans (by rw [hwmem])⟩
  · rw [State.hyp_resolve, if_pos rfl]
  · rw [State.hyp_resolve, if_pos rfl]

/-- A number freed by a confirm of a handle reports it confirmed (R268). -/
theorem State.hypCode_of_confirmed {s : State} {c : Fin 16} {h : Handle} (hn : hypNum h ≠ 0) (hst : (s.hyp c (hypNum h)).st = .free)
    (hout : (s.hyp c (hypNum h)).outcome = some (true, hypGen h)) : s.hypCode c h = 4 := by
  simp [State.hypCode, hn, hst, hout]

section Idle

variable {s : State} {h : Handle} (hidle : (s.ctx s.th.cx).hypQ = []) (hn : hypNum h ≠ 0) (hlive : s.liveHyp s.th.cx (canonHandle h) = true)
  (hbuf : s.sbuf = []) (hcache : s.cache = []) (hwf : s.mem.wf) (hroot : s.parentHyp s.th.cx (canonHandle h) = 0)
  (hthr : ∀ u ∈ s.threads, u.thyp ≠ canonHandle h)
  (hvers : s.vers = [] ∨ ∃ v, s.vers = [v] ∧ v.ctx = s.th.cx ∧ v.hyp = canonHandle h)
include hidle hn hlive hbuf hcache hwf hroot hthr hvers

/-- A confirm into H0, from its request to its end. -/
theorem confirm_then_merge : ∃ t u, askController s (.conf s.th.place h) = .next t ∧ t.th.st = .wait ∧ t.th.pc = s.th.pc ∧
    (t.hyp s.th.cx (hypNum (canonHandle h))).st = .confirming ∧ exec (.hconfMerge s.th.cx) t = .next u ∧ Resumed s u ∧
    u.liveHyp s.th.cx (canonHandle h) = false ∧ u.hypCode s.th.cx (canonHandle h) = 4 ∧ u.vers = [] ∧
    (∀ v ∈ s.vers, u.mem.read (v.line * 64) 64 = v.data.toNat) ∧
    ∀ k, (∀ v ∈ s.vers, k < v.line * 64 ∨ v.line * 64 + 64 ≤ k) → u.mem.byte k = s.mem.byte k := by
  obtain ⟨f, st, hask⟩ := askController_conf hidle hn hlive s.th.place
  have hlive' := (State.liveHyp_of_hyp (s.hyp_asking (.conf s.th.place h) f st) (canonHandle h)).trans hlive
  have hroot' : (s.asking (.conf s.th.place h) f st).parentHyp s.th.cx (canonHandle h) = 0 := by
    rw [State.parentHyp, State.hyp_asking]
    exact hroot
  obtain ⟨hw, hst, hgen, hpar⟩ := State.startConfirm_marks hn hlive'
  generalize (s.asking (.conf s.th.place h) f st).startConfirm s.th.cx h = t at hask hw hst hgen hpar
  have hq : (t.ctx s.th.cx).hypQ = [((s.ctx s.th.cx).hypSer, .conf s.th.place h)] :=
    hw.queue.trans ((s.hypQ_asking _ f st).trans (by rw [hidle]; rfl))
  obtain ⟨k, hserve⟩ := hypServe_of_conf hq
    (State.liveHyp_of_not_live (by rwa [hypNum_canonHandle]) (by rw [hypNum_canonHandle, hst]; decide))
  have hnone : ∀ x ∈ (t.popped s.th.cx).threads, x.thyp ≠ canonHandle h := by
    show ∀ x ∈ t.th :: t.rest, x.thyp ≠ canonHandle h
    rw [hw.th, hw.rest]
    exact List.forall_mem_cons.mpr (List.forall_mem_cons.mp hthr)
  have hm := State.hypConfirm_merges (s := t.popped s.th.cx) hn ((congrArg Hyp.st (t.hyp_popped _ _)).trans hst)
    ((congrArg Hyp.gen (t.hyp_popped _ _)).trans hgen) ((congrArg Hyp.parent (t.hyp_popped _ _)).trans (hpar.trans hroot'))
    (hw.sbuf.trans hbuf) (hw.cache.trans hcache) (by show t.mem.wf; rw [hw.mem]; exact hwf) hnone
    (by show t.vers = [] ∨ _; rw [show (t.popped s.th.cx).vers = s.vers from hw.vers, hw.vers]; exact hvers)
  obtain ⟨u, hu, hres, humem, huvers, huhyp⟩ := resumed_of_answer (hm.th.trans hw.th) (hm.queue.trans (t.hypQ_popped _)) k
  have hex : exec (.hconfMerge s.th.cx) t = .next u := by
    show execHconfMerge s.th.cx t = _
    simp only [execHconfMerge, hq, hserve, hu]
  have hversEq : (t.popped s.th.cx).vers = s.vers := hw.vers
  have hmemEq : (t.popped s.th.cx).mem = s.mem := hw.mem
  have hread := hm.read
  have hbyte := hm.byte
  rw [hversEq, ← humem] at hread hbyte
  have hnum := hypNum_canonHandle h
  have hend : (u.hyp s.th.cx (hypNum (canonHandle h))).st = .free := by rw [huhyp]; exact hm.st
  exact ⟨t, u, hask, by rw [hw.th]; rfl, by rw [hw.th]; rfl, by rw [hnum]; exact hst, hex, hres,
    State.liveHyp_of_not_live (hnum ▸ hn) (by rw [hend]; decide),
    State.hypCode_of_confirmed (hnum ▸ hn) hend (by rw [huhyp]; exact hm.outcome), huvers.trans hm.vers, hread,
    fun j hj => (hbyte j hj).trans (by rw [hmemEq])⟩

end Idle

end Sys2Proof.Machine
end

section
/-!
SUPPORT. The hypothesis instructions and their statement.
-/
namespace Sys2Proof.Machine

/-! ### The instructions (R266 to R275) -/

theorem execHget_eq (d : Reg) (s : State) : exec (.hget d) s = .next (s.afterG d (BitVec.ofNat 64 s.th.thyp.toNat)) := by
  rw [BitVec.ofNat_toNat]
  exact doneG_eq s d _

theorem exec_hset (a : Reg) (s : State) : exec (.hset a) s = setHypothesis s (s.gr a) := rfl

theorem execHset_of_live {s : State} {a : Reg} (hlive : s.liveHyp s.th.cx (canonHandle ((s.gr a).setWidth 32)) = true) :
    exec (.hset a) s = .next (s.afterTh { s.th with thyp := canonHandle ((s.gr a).setWidth 32) }) := by
  simp only [exec_hset, setHypothesis, hlive, if_true]
  rfl

theorem execHset_of_dead {s : State} {a : Reg} (hdead : s.liveHyp s.th.cx (canonHandle ((s.gr a).setWidth 32)) = false) :
    exec (.hset a) s = .next (s.deliver (s.recordOf 0x1B 0 (BitVec.ofNat 64 ((s.gr a).toNat % 2 ^ 32)) 0 0)) := by
  have hdetail : ((s.gr a).setWidth 32).setWidth 64 = BitVec.ofNat 64 ((s.gr a).toNat % 2 ^ 32) := by
    apply BitVec.eq_of_toNat_eq
    simp only [BitVec.toNat_setWidth, BitVec.toNat_ofNat]
  simp only [exec_hset, setHypothesis, hdead, Bool.false_eq_true, if_false, hdetail]

theorem execHref_of_idle {s : State} (hbuf : s.sbuf = []) (hcache : s.cache = []) (a : Reg) :
    exec (.href a) s = askController s.settled (.refute s.th.place ((s.gr a).setWidth 32)) := by
  show execHref a s = _
  unfold execHref
  rw [State.releaseTo_device_of_idle hbuf hcache]
  rfl

theorem execHconf_of_idle {s : State} (hbuf : s.sbuf = []) (hcache : s.cache = [])
    (hfault : (s.th.onBarrel && s.pendingFault s.th.ctx) = false) (a : Reg) :
    exec (.hconf a) s = askController s.settled (.conf s.th.place ((s.gr a).setWidth 32)) := by
  show execHconf a s = _
  rw [execHconf, atFence_device_of_idle hbuf hcache hfault]
  rfl

/-- An answer in which the acting thread waits behind the requests that stood at the controller before its own. -/
def WaitsAtController (s : State) (o : Result) : Prop := ∃ t q, o = .next t ∧ t.th.st = .wait ∧ t.th.pc = s.th.pc ∧
  (t.ctx s.th.cx).hypQ = (s.ctx s.th.cx).hypQ ++ [((s.ctx s.th.cx).hypSer, q)] ∧ t.th.wait = .hyp (s.ctx s.th.cx).hypSer ∧ t.mem = s.mem

theorem askController_waits {s : State} (hbusy : (s.ctx s.th.cx).hypQ ≠ []) (q : HypReq) : WaitsAtController s (askController s q) := by
  obtain ⟨f, st, hask⟩ := askController_of_busy hbusy q
  exact ⟨_, q, hask, rfl, rfl, s.hypQ_asking q f st, rfl, rfl⟩

theorem execHyp_of_busy {s : State} {d a : Reg} (hbusy : (s.ctx s.th.cx).hypQ ≠ []) {i : Instr}
    (hi : i ∈ [Instr.hnew d a, .hstat d a, .href a, .hconf a]) (hidle : i = .href a ∨ i = .hconf a → s.sbuf = [] ∧ s.cache = [])
    (hfault : i = .hconf a → (s.th.onBarrel && s.pendingFault s.th.ctx) = false) : WaitsAtController s (exec i s) := by
  simp only [List.mem_cons, List.not_mem_nil, or_false] at hi
  rcases hi with rfl | rfl | rfl | rfl
  · exact askController_waits hbusy _
  · exact askController_waits hbusy _
  · obtain ⟨hbuf, hcache⟩ := hidle (.inl rfl)
    rw [execHref_of_idle hbuf hcache]
    exact askController_waits (s := s.settled) hbusy _
  · obtain ⟨hbuf, hcache⟩ := hidle (.inr rfl)
    rw [execHconf_of_idle hbuf hcache (hfault rfl)]
    exact askController_waits (s := s.settled) hbusy _

/-! ### HWAIT (R274) -/

section Wait

variable {d a b : Reg} {s : State}

theorem exec_hwait (d a b : Reg) (s : State) : exec (.hwait d a b) s = hwaitTurn d ((s.gr a).setWidth 32) (s.gr b) s := rfl

theorem State.hwaitStatus_canonHandle (s : State) (h : Handle) : s.hwaitStatus (canonHandle h) = s.hwaitStatus h := by
  simp only [State.hwaitStatus, canonHandle_canonHandle]

theorem execHwait_of_status {k : Nat} (hk : s.hwaitStatus ((s.gr a).setWidth 32) = some k) (hflush : k = 3 ∨ s.awaitsFlush = false) :
    ∃ t, exec (.hwait d a b) s = .next t ∧ t.th = (endWait s d (BitVec.ofNat 64 k)).th ∧ t.mem = s.mem := by
  simp only [exec_hwait, hwaitTurn, hk]
  by_cases h3 : k = 3
  · subst h3
    exact ⟨_, if_pos rfl, rfl, rfl⟩
  · rw [if_neg h3, acquiring, if_neg (by simp [hflush.resolve_left h3])]
    exact ⟨_, rfl, rfl, rfl⟩

variable (hnone : s.hwaitStatus ((s.gr a).setWidth 32) = none)
include hnone

theorem execHwait_of_limit (hrun : s.th.st = .run) (hwait : s.th.wait = .none) (hb : s.gr b ≠ 0) (hle : (s.gr b).toNat ≤ (s.tnow s.th).toNat) :
    exec (.hwait d a b) s = .next (s.afterG d 1) := by
  have hsame : { s with th := { s.th with st := .run, wait := .none } } = s := by rw [← hrun, ← hwait]
  simp only [exec_hwait, hwaitTurn, hnone]
  rw [if_pos ⟨hb, hle⟩, endWait_eq, hsame]

theorem execHwait_of_open (hb : s.gr b = 0 ∨ (s.tnow s.th).toNat < (s.gr b).toNat) :
    exec (.hwait d a b) s = .next (s.block (.outcome d ((s.gr a).setWidth 32) (s.gr b))) := by
  simp only [exec_hwait, hwaitTurn, hnone]
  exact if_neg fun ⟨h0, hle⟩ => hb.elim h0 fun hlt => Nat.not_le.mpr hlt hle

end Wait

/-- Settles O47: requests by what the controller has in its queue, and resolutions by their start and their one step at the end. -/
theorem hypotheses : Obligations.Hypotheses := by
  rintro d a b s _ _ rfl rfl
  refine ⟨execHget_eq d s, execHset_of_live, fun h => ⟨_, rfl, execHset_of_dead h⟩, fun hbusy i hi => execHyp_of_busy hbusy hi,
    fun hidle => ?_, fun hrun hwait => ⟨fun k hk hflush => ?_, fun hnone hb hle => ?_, fun hnone hb => ?_⟩⟩
  · intro writes
    have hwrites {i : Instr} {v : Word} (h : ∃ t, exec i s = .next t ∧ Answered s t s.th.cx d v) : writes i v := by
      obtain ⟨t, hex, hans⟩ := h
      exact ⟨t, hex, hans.st, hans.pc, hans.mem, hans.gr, hans.queue⟩
    refine ⟨fun hdead => hwrites (execHnew_of_dead hidle d hdead), fun hlive hdeep => hwrites (execHnew_of_deep hidle d hlive hdeep),
      fun hlive hdepth hfull => hwrites (execHnew_of_full hidle d hlive hdepth hfull), fun n hlive hdepth hpos hn hfree hlow => ?_,
      hwrites (execHstat_of_idle hidle d a), fun hn hlive hbuf hcache => ⟨?_, fun hroot hwf hfault hthr hvers => ?_⟩⟩
    · obtain ⟨g, t, hg, hex, hans, hnew⟩ := execHnew_of_room hidle d hlive hdepth hpos hn hfree hlow
      exact ⟨g, hg, hwrites ⟨t, hex, hans⟩, t, hex, hnew⟩
    · obtain ⟨t, u, hask, hst, hpc, hmem, href, hex, hres, hend⟩ :=
        refute_then_discard (s := s.settled) hidle (hypNum_canonHandle _ ▸ hn) hlive
      exact ⟨t, u, (execHref_of_idle hbuf hcache a).trans hask, hst, hpc, hmem, href, hex, hres.st, hres.pc, hres.g, hend⟩
    · obtain ⟨t, u, hask, hst, hpc, hconf, hex, hres, hend⟩ :=
        confirm_then_merge (s := s.settled) hidle (hypNum_canonHandle _ ▸ hn) hlive hbuf hcache hwf hroot
          (List.forall_mem_cons.mpr (List.forall_mem_cons.mp hthr)) hvers
      exact ⟨t, u, (execHconf_of_idle hbuf hcache hfault a).trans hask, hst, hpc, hconf, hex, hres.st, hres.pc, hres.g, hend⟩
  · rw [State.hwaitStatus_canonHandle] at hk
    obtain ⟨t, hex, hth, hmem⟩ := execHwait_of_status (d := d) (b := b) hk hflush
    rw [endWait_eq] at hth
    refine ⟨t, hex, by rw [hth]; rfl, hmem, fun r => ?_⟩
    rw [State.gr, hth]
    exact (State.gr_afterG _ d r _).trans (if_congr dest_ne_zero_iff rfl rfl)
  · rw [State.hwaitStatus_canonHandle] at hnone
    exact execHwait_of_limit hnone hrun hwait hb hle
  · rw [State.hwaitStatus_canonHandle] at hnone
    exact ⟨_, execHwait_of_open hnone hb, rfl, rfl, rfl⟩

end Sys2Proof.Machine
end

section
/-!
SUPPORT. An owner node whose update hits a watchpoint of a saved thread.
-/
namespace Sys2Proof.Machine

/-! ### An owner node's update under a watchpoint of a saved thread (R148, R168, R236, R316)

The reads and writes of an owner node hit watchpoints of context scope. A saved thread has TWC0 in its save record, which is in memory. -/

/-- NOWN at the PE of port 0, of type I8, adding, with A on channel 2 and no output. -/
def ownerNode : NodeFields := { ina := 2, inb := 0, inc := 0, omask := 0, fn := 0, ety := 0, param := 0 }

/-- The zero address or operand. -/
def zeroFlit : Flit := dataFlit 0 0 false

/-- An instance of one page on site 0 in RUN, that may read and write its whole memory through port 0 and has line 0 in the buffer of that
port, with the node's channel A holding an address and an operand, both zero. -/
def owningInst : Inst :=
  { ctx := 0, slot := 0, num := 0, uid := 0, st := .run, back := .idle,
    cfg := { extw := 1, exth := 1, doors := [],
             pages := [{ px := 0, py := 0, matrix := false, nodes := [], routes := [],
                         ranges := Vector.replicate 4 [{ base := 0, limit := 63, offset := 0, ctrl := 3 }], good := true }],
             links := [], bytes := 0 },
    group := 0, version := 0, anchor := (0, 0), sites := [0], area := [0], graph := none, hyp := 0, prio := 0, placed := 0,
    pes := [(0, { ins := (Vector.replicate 16 []).set 2 [zeroFlit, zeroFlit], tookN := 0, nextN := 0, tookR := 0,
                  credit := Vector.replicate 16 0,
                  node := { NodeState.fresh with hdrs := Vector.replicate 3 { set := true, word := 0, psn := false } },
                  router := RouterState.fresh })],
    ports := [(0, { PortState.fresh with own := [{ line := 0, data := 0, mask := 0, bad := false }] })],
    secs := [], wires := [], credits := [], arms := [], serais := [], range := none, wt := 50, taken := 0, segTiles := 0, segCmd := 0,
    final := false, retired := false, flags := 0, slots := [], savedAcc := [], pend := .none, waited := 0, active := 0, shut := none,
    shutAt := 0, tabs := [], poolAt := 0, cmdTok := 0, stopped := false, passed := false, tape := [] }

/-- The instance with its owner node about to fire, and thread 7 of its context, saved with its save record at 0x20000, whose watchpoint 0
is enabled for reads and writes of the context at byte 0. -/
def watchedWhileSaved : State :=
  { State.reset with
    insts := [owningInst]
    rest := { Thread.blank with place := .saved 0 7, tid := 7, twc := Thread.blank.twc.set 0 0x27, save := 0x20000 } :: State.reset.rest
    pe := { inst := 0, page := 0, pe := 0 } }

/-- The hit writes TWC0 with PEND into the image, where the low byte of that word stood at 0 before. -/
theorem watchedWhileSaved_updated : byteAfter (exec (.nown ownerNode) watchedWhileSaved) 0x20248 = some 0x27 := by decide +kernel

theorem watchedWhileSaved_check : watchedWhileSaved.portCheck owningInst 0 0 0 1 2 = .ok 0 := by decide +kernel

/-- Refutes O54: of memory after NOWN, since no premise keeps the update apart from the watchpoints of saved threads. In
`watchedWhileSaved` byte 0x248 of the save record of thread 7 reads 0x27 after the update, and not 0 as before. -/
theorem not_nodesThatHold : ¬ Obligations.NodesThatHold := by
  intro h
  obtain ⟨hdata, -⟩ := h ownerNode watchedWhileSaved owningInst _ zeroFlit rfl rfl (by decide +kernel) (by decide +kernel) rfl
  obtain ⟨-, -, hport, -⟩ := hdata ⟨by decide +kernel, by decide, by decide, by decide, rfl, rfl⟩
  obtain ⟨-, -, hnown⟩ := hport 0 rfl (by decide +kernel) (by decide +kernel)
  obtain ⟨t, y, ht, -, hmem, -⟩ := hnown zeroFlit 0 _ [] [] rfl (by decide) (by decide) (by decide) (by decide +kernel) rfl (.inl rfl)
    watchedWhileSaved_check (by decide) rfl rfl
  have hbyte := watchedWhileSaved_updated
  rw [ht] at hbyte
  have hsame : byteAfter (.next t) 0x20248 = some 0 := congrArg some (congrArg (Mem.byte · 0x20248) hmem)
  exact absurd (hsame.symm.trans hbyte) (by decide)

end Sys2Proof.Machine
end

section
/-!
SUPPORT. The lanes of a flit as integers, and what packing elements leaves in each lane.
-/
namespace Sys2Proof.Machine

/-! ### Widths of lanes (R115) -/

theorem laneWidth_pos (t : Nat) : 0 < laneWidth t := by
  unfold laneWidth
  split <;> decide

theorem laneWidth_le (t : Nat) : laneWidth t ≤ 64 := by
  unfold laneWidth
  split <;> decide

theorem lanesOf_mul_laneWidth_le (t : Nat) : lanesOf t * laneWidth t ≤ 64 := Nat.div_mul_le_self 64 (laneWidth t)

theorem lane_lt (d : Word) (t j : Nat) : lane d t j < 2 ^ laneWidth t := bits_lt d _ _

/-! ### Packed elements (R115) -/

/-- The elements as one number, the first in its lowest digit to the base 2^w. -/
theorem digit_foldr (w : Nat) (l : List Nat) (j : Nat) (hj : j < l.length) :
    l.foldr (fun v acc => v % 2 ^ w + acc * 2 ^ w) 0 / 2 ^ (j * w) % 2 ^ w = l[j] % 2 ^ w := by
  induction l generalizing j with
  | nil => exact absurd hj (Nat.not_lt_zero j)
  | cons v l ih =>
    have hpos : 0 < 2 ^ w := Nat.two_pow_pos w
    cases j with
    | zero => simp
    | succ j =>
      have hshift : (v % 2 ^ w + l.foldr (fun v acc => v % 2 ^ w + acc * 2 ^ w) 0 * 2 ^ w) / 2 ^ w =
          l.foldr (fun v acc => v % 2 ^ w + acc * 2 ^ w) 0 := by
        rw [Nat.add_mul_div_right _ _ hpos, Nat.div_eq_of_lt (Nat.mod_lt v hpos), Nat.zero_add]
      rw [List.foldr_cons, Nat.succ_mul, Nat.add_comm (j * w), Nat.pow_add, ← Nat.div_div_eq_div_mul, hshift]
      exact ih j (Nat.lt_of_succ_lt_succ hj)

/-- A lane of a packed word holds its element, where the elements fit into the word's lanes. -/
theorem lane_packLanes {t : Nat} {l : List Nat} {j : Nat} (hl : l.length ≤ lanesOf t) (hj : j < l.length) :
    lane (packLanes t l) t j = l[j] % 2 ^ laneWidth t := by
  have hin : j * laneWidth t + laneWidth t ≤ 64 :=
    calc j * laneWidth t + laneWidth t = (j + 1) * laneWidth t := (Nat.succ_mul j _).symm
      _ ≤ lanesOf t * laneWidth t := Nat.mul_le_mul_right _ (hj.trans_le hl)
      _ ≤ 64 := lanesOf_mul_laneWidth_le t
  rw [lane, bits_eq_div_mod, packLanes, BitVec.toNat_ofNat, ← digit_foldr (laneWidth t) l j hj,
    show (64 : Nat) = j * laneWidth t + (64 - j * laneWidth t) by omega, Nat.pow_add, Nat.mod_mul_right_div_self,
    Nat.mod_mod_of_dvd _ (Nat.pow_dvd_pow 2 (by omega))]

/-! ### Lanes as integers (R288, R290) -/

/-- An integer lane as its type reads it. -/
theorem intLane_eq {t v : Nat} (hv : v < 2 ^ laneWidth t) :
    intLane t v = if t < 4 ∧ 2 ^ (laneWidth t - 1) ≤ v then (v : Int) - 2 ^ laneWidth t else v := by
  have htwice : 2 ^ laneWidth t = 2 * 2 ^ (laneWidth t - 1) := by
    rw [← Nat.pow_succ', Nat.succ_eq_add_one, Nat.sub_add_cancel (laneWidth_pos t)]
  rw [intLane, BitVec.toInt_eq_toNat_cond, BitVec.toNat_ofNat, Nat.mod_eq_of_lt hv]
  by_cases ht : t < 4
  · by_cases hneg : 2 ^ (laneWidth t - 1) ≤ v
    · rw [if_pos ht, if_neg (by omega), if_pos ⟨ht, hneg⟩]
      norm_cast
    · rw [if_pos ht, if_pos (by omega), if_neg fun h => hneg h.2]
  · rw [if_neg ht, if_neg fun h => ht h.1]

/-- A lane is the word of its integer. -/
theorem ofInt_intLane {t v : Nat} (hv : v < 2 ^ laneWidth t) : (BitVec.ofInt (laneWidth t) (intLane t v)).toNat = v := by
  unfold intLane
  split <;> simp [Nat.mod_eq_of_lt hv]

theorem toNat_ofInt_pow (w : Nat) (v : Int) : (BitVec.ofInt w v).toNat = (v % 2 ^ w).toNat := by
  rw [BitVec.toNat_ofInt]
  norm_cast

theorem fixInt_eq (t : Nat) (sat : Bool) (v : Int) :
    fixInt t sat v = ((if sat then
      (if t < 4 then max (-2 ^ (laneWidth t - 1)) (min (2 ^ (laneWidth t - 1) - 1) v) else max 0 (min (2 ^ laneWidth t - 1) v)) else v) %
        2 ^ laneWidth t).toNat := by
  rw [fixInt, toNat_ofInt_pow, intMin, intMax]
  by_cases ht : t < 4 <;> simp [ht]

theorem fixInt_lt (t : Nat) (sat : Bool) (v : Int) : fixInt t sat v < 2 ^ laneWidth t := (BitVec.ofInt _ _).isLt

/-- The low bits of an integer's word. -/
theorem toNat_emod_pow_mod (v : Int) {m w : Nat} (h : m ≤ w) : (v % 2 ^ w).toNat % 2 ^ m = (v % 2 ^ m).toNat := by
  have hw : 0 ≤ v % 2 ^ w := Int.emod_nonneg v (by positivity)
  have hm : 0 ≤ v % 2 ^ m := Int.emod_nonneg v (by positivity)
  zify
  rw [Int.toNat_of_nonneg hw, Int.toNat_of_nonneg hm, Int.emod_emod_of_dvd v (pow_dvd_pow 2 h)]

/-- The word of -1 has every bit set. -/
theorem toNat_neg_one_emod_pow (w : Nat) : ((-1 : Int) % 2 ^ w).toNat = 2 ^ w - 1 := by
  have hcast : ((2 ^ w : Nat) : Int) = 2 ^ w := by norm_cast
  have hpos : 0 < 2 ^ w := Nat.two_pow_pos w
  rw [← hcast, ← Int.add_emod_right, Int.emod_eq_of_lt (by omega) (by omega)]
  omega

/-- An integer lane in the range of its width, whatever the sign. -/
theorem intLane_bounds {t v : Nat} (hv : v < 2 ^ laneWidth t) : -2 ^ laneWidth t ≤ intLane t v ∧ intLane t v < 2 ^ laneWidth t := by
  have hlt : (v : Int) < 2 ^ laneWidth t := by exact_mod_cast hv
  rw [intLane_eq hv]
  split <;> omega

end Sys2Proof.Machine
end

section
/-!
SUPPORT. The firing of a node on data flits: what the rule of R281 to R283 leaves of it, and what leaves the node.
-/
namespace Sys2Proof.Machine

/-! ### Flits (R279) -/

theorem fin_toNat (c : BitVec 4) : fin 16 c.toNat = c.toFin := Fin.ext (Nat.mod_eq_of_lt c.isLt)

/-- A flit as it stands on a link: a poisoned one carries no data. -/
def Flit.onWire (d : Flit) : Flit := if d.psn then d.poison else d

theorem Flit.onWire_of_clean {d : Flit} (h : d.psn = false) : d.onWire = d := if_neg (by simp [h])

/-- EOT is among the marks. -/
theorem Flit.eot_of_marks {d f : Flit} (h : d.marks = f.marks) : d.eot = f.eot := by
  have hbit (d : Flit) : bit d.marks 3 = d.eot := (BitVec.getLsbD_and ..).trans (Bool.and_true _)
  rw [← hbit d, h, hbit f]

theorem dataFlit_psn (v : Word) (m : BitVec 8) (p : Bool) : (dataFlit v m p).psn = p := by
  cases p <;> simp [dataFlit, Flit.psn, bit]

theorem dataFlit_marks (v : Word) (d : Flit) (p : Bool) : (dataFlit v d.marks p).marks = d.marks := by
  simp only [dataFlit, Flit.marks]
  cases p <;> generalize d.ctl = c <;> revert c <;> decide

theorem onWire_poisoned (v : Word) (m : BitVec 8) : (dataFlit v m true).onWire = dataFlit 0 m true := by
  rw [Flit.onWire, if_pos (dataFlit_psn v m true)]
  simp only [Flit.poison, dataFlit]
  congr 1
  revert m
  decide

/-! ### Channels (R277, R278, R281) -/

theorem Inst.take_wires (x : Inst) (page pe : Nat) (node : Bool) (ch : Fin 16) : (x.take page pe node ch).wires = x.wires := by
  unfold Inst.take
  extract_lets p q tn tr freeN freeR y
  split
  · split <;> rfl
  · rfl

theorem Inst.takeAll_wires (x : Inst) (page pe : Nat) (node : Bool) (l : List (Fin 16)) :
    (x.takeAll page pe node l).wires = x.wires := by
  unfold Inst.takeAll
  induction l.eraseDups generalizing x with
  | nil => rfl
  | cons c l ih => exact (ih _).trans (x.take_wires page pe node c)

/-- One flit for each channel of the mask. -/
theorem Inst.send_wires (x : Inst) (page pe : Nat) (m : BitVec 16) (d : Flit) :
    (x.send page pe m d).wires = x.wires ++ (maskChans m).map fun ch => { page := page, pe := pe, ch := ch, flit := d.onWire } := by
  unfold Inst.send
  induction maskChans m generalizing x with
  | nil => simp
  | cons c l ih =>
    exact (ih _).trans (List.append_assoc x.wires [_] _)

/-! ### The firing under way (R281 to R283) -/

/-- The firing of the element under the cursor, with the inputs named. -/
def firingOf (n : NodeFields) (ins : List (BitVec 4)) (s : State) (x : Inst) : Firing :=
  { s := s, i := s.pe.inst, x := x, page := s.pe.page, pe := s.pe.pe, n := n, ins := ins.map fun a => fin 16 a.toNat }

/-- What a firing needs beside its inputs: its instance acts, the output channels have space, and no recovery is under way (R278, R281,
R282). -/
structure MayFire (n : NodeFields) (s : State) (x : Inst) : Prop where
  inst  : s.insts[s.pe.inst]? = some x
  acts  : s.instActs x = true
  space : x.space s.pe.page s.pe.pe n.omask = true
  whole : (x.peAt s.pe.page s.pe.pe).node.recovering = false

theorem withFiring_of_mayFire {n : NodeFields} {s : State} {x : Inst} (h : MayFire n s x) (ins : List (BitVec 4)) (k : Firing → Result) :
    withFiring n ins s k = k (firingOf n ins s x) := by
  simp [withFiring, firingOf, h.inst, h.acts, h.space]

/-- The flits at the heads of a firing's inputs, where they are data flits that agree on EOT with the first, each under a header in
force (R282, R283). -/
structure Firing.Holds (f : Firing) (a : Flit) (l : List Flit) : Prop where
  heads : f.heads = (a :: l).map some
  data  : ∀ d ∈ a :: l, d.hdr = false ∧ d.sot = false ∧ d.eot = a.eot
  set   : ∀ k, k < f.ins.length → (f.node.hdrAt k).set = true

section Holds

variable {f : Firing} {a : Flit} {l : List Flit} (h : f.Holds a l)
include h

theorem Firing.Holds.length_ins : f.ins.length = (a :: l).length := by
  simpa [Firing.heads] using congrArg List.length h.heads

theorem Firing.Holds.misaligned_eq : misaligned (a :: l) = none := by
  rw [misaligned, List.findIdx?_eq_none_iff]
  intro d hd
  obtain ⟨hhdr, -, heot⟩ := h.data d hd
  simp [hhdr, heot, (h.data a List.mem_cons_self).1]

theorem Firing.Holds.needHeaders_eq : f.needHeaders (a :: l) = f := by
  unfold Firing.needHeaders
  refine List.foldlRecOn (motive := fun g => g = f) _ _ rfl fun g hg d hd => ?_
  subst hg
  obtain ⟨d, k⟩ := d
  obtain ⟨-, hk, hdk⟩ := List.mem_zipIdx hd
  have hset : (g.node.hdrAt k).set = true := h.set k (by rw [h.length_ins]; omega)
  have hsot : d.sot = false := (h.data d (List.fst_mem_of_mem_zipIdx hd)).2.1
  simp [hset, hsot]

end Holds

/-- A firing on agreeing data flits goes to the node's own part. -/
theorem fire_of_holds {n : NodeFields} {s : State} {x : Inst} {ins : List (BitVec 4)} {a : Flit} {l : List Flit} (hf : MayFire n s x)
    (h : (firingOf n ins s x).Holds a l) (bad : List Flit → Nat → Flit → Bool) (onHeader : Firing → Bool → Result)
    (onData : Firing → List Flit → Result) (idle : Firing → Result) :
    fire n ins bad onHeader onData idle s = onData (firingOf n ins s x) (a :: l) := by
  have hwhole : (firingOf n ins s x).node.recovering = false := hf.whole
  have hheads : (firingOf n ins s x).heads.filterMap id = a :: l := by
    rw [h.heads, List.filterMap_map]
    exact List.filterMap_some
  have hdata : ((a :: l).headD { data := 0, ctl := 0 }).hdr = false := (h.data a List.mem_cons_self).1
  rw [fire, fireInto, withFiring_of_mayFire hf, if_neg (Bool.eq_false_iff.mp hwhole)]
  dsimp only
  rw [hheads, if_neg (not_not_intro h.length_ins.symm), h.misaligned_eq]
  dsimp only
  rw [hdata, if_neg Bool.false_ne_true, h.needHeaders_eq]

end Sys2Proof.Machine
end

section
/-!
SUPPORT. What leaves a firing: its flit in every output channel, and the elements of an elementwise node's flit.
-/
namespace Sys2Proof.Machine

/-! ### One flit into every output channel (R278, R281) -/

/-- The answer of a firing that sends one flit with a property into every output channel and leaves memory as it was. -/
def Sends (n : NodeFields) (s : State) (x : Inst) (r : Result) (p : Flit → Prop) : Prop :=
  ∃ (t : State) (y : Inst) (f : Flit), r = .next t ∧ t.mem = s.mem ∧ t.insts[s.pe.inst]? = some y ∧ p f ∧
    y.wires = x.wires ++ (maskChans n.omask).map fun ch => { page := s.pe.page, pe := s.pe.pe, ch := ch, flit := f }

theorem Sends.imp {n : NodeFields} {s : State} {x : Inst} {r : Result} {p q : Flit → Prop} (h : Sends n s x r p) (hpq : ∀ f, p f → q f) :
    Sends n s x r q := by
  obtain ⟨t, y, f, hr, hmem, hy, hp, hwires⟩ := h
  exact ⟨t, y, f, hr, hmem, hy, hpq f hp, hwires⟩

/-- What the way of a flit out of a firing depends on, as it was when the firing began. -/
structure Firing.Begun (g : Firing) (n : NodeFields) (s : State) (x : Inst) : Prop where
  mem   : g.s.mem = s.mem
  insts : g.s.insts = s.insts
  inst  : g.i = s.pe.inst
  page  : g.page = s.pe.page
  pe    : g.pe = s.pe.pe
  node  : g.n = n
  wires : g.x.wires = x.wires

section Begun

variable {g : Firing} {n : NodeFields} {s : State} {x : Inst}

theorem firingOf_begun (n : NodeFields) (ins : List (BitVec 4)) (s : State) (x : Inst) : (firingOf n ins s x).Begun n s x :=
  ⟨rfl, rfl, rfl, rfl, rfl, rfl, rfl⟩

theorem Firing.Begun.updNode (h : g.Begun n s x) (k : NodeState → NodeState) : (g.updNode k).Begun n s x :=
  ⟨h.mem, h.insts, h.inst, h.page, h.pe, h.node, h.wires⟩

theorem Firing.Begun.counted (h : g.Begun n s x) : g.counted.Begun n s x := h.updNode _

theorem Firing.Begun.takeAll (h : g.Begun n s x) : g.takeAll.Begun n s x :=
  ⟨h.mem, h.insts, h.inst, h.page, h.pe, h.node, (Inst.takeAll_wires ..).trans h.wires⟩

/-- Flags go into the page's register and the instance's record (R287). -/
theorem Firing.Begun.flags (h : g.Begun n s x) (fl : Flags) : (g.flags fl).Begun n s x := by
  unfold Firing.flags
  split
  · exact h
  · have hpage : g.s.pageFlags g.site fl = g.s.setReg (pgflagAt g.site) (g.s.reg (pgflagAt g.site) ||| fl.setWidth 64) := if_neg ‹_›
    rw [hpage]
    exact ⟨h.mem, h.insts, h.inst, h.page, h.pe, h.node, h.wires⟩

theorem Firing.Begun.sends (h : g.Begun n s x) (hx : s.insts[s.pe.inst]? = some x) {d : Flit} {p : Flit → Prop} (hp : p d.onWire) :
    Sends n s x (g.send d).done p := by
  obtain ⟨hlt, -⟩ := List.getElem?_eq_some_iff.mp hx
  have hset : ((g.send d).s.stir (g.send d).i (g.send d).x).insts =
      s.insts.set s.pe.inst { (g.send d).x with active := (g.send d).s.instTime (g.send d).x } := by
    rw [← h.insts, ← h.inst]
    rfl
  have hwires : (g.send d).x.wires =
      x.wires ++ (maskChans n.omask).map fun ch => { page := s.pe.page, pe := s.pe.pe, ch := ch, flit := d.onWire } := by
    rw [← h.wires, ← h.page, ← h.pe, ← h.node]
    exact Inst.send_wires ..
  exact ⟨_, _, d.onWire, rfl, h.mem, (congrArg (·[s.pe.inst]?) hset).trans (List.getElem?_set_self hlt), hp, hwires⟩

end Begun

/-! ### The elements of a data flit (R283, R285) -/

/-- The lanes of the flits now consumed that hold elements of their tile, by the header in force on A (R285). -/
def Firing.inUse (f : Firing) : Nat := min (lanesOf f.ety) ((parseHdr (f.node.hdrAt 0).word).count - f.node.count)

/-- What the operation of a node gives for one lane of its flits. -/
def laneResult (k : NodeKind) (n : NodeFields) (t : Nat) (l : List Flit) (j : Nat) : Nat :=
  (evalLane k n t (l.map fun d => lane d.data t j)).1

theorem NodeState.used_le (n : NodeState) (h : TileHdr) (lanes : Nat) : n.used h lanes ≤ lanes := by
  unfold NodeState.used
  split
  · exact le_rfl
  · exact Nat.min_le_left ..

theorem NodeState.le_used (n : NodeState) (h : TileHdr) (lanes : Nat) : min lanes (h.count - n.count) ≤ n.used h lanes := by
  unfold NodeState.used
  split
  · exact Nat.min_le_left ..
  · exact le_rfl

/-- The inputs of a firing are not poisoned, and those of a floating-point type are not scaled. -/
structure Firing.Clean (f : Firing) (a : Flit) (l : List Flit) : Prop where
  flits   : ∀ d ∈ a :: l, d.psn = false
  headers : ∀ k, k < f.ins.length → (f.node.hdrAt k).psn = false
  scales  : 8 ≤ f.ety → ∀ k, k < f.ins.length → bits (f.node.hdrAt k).word 48 8 = 0

theorem Firing.Clean.poisoned_eq {f : Firing} {a : Flit} {l : List Flit} (h : f.Clean a l) : f.poisoned (a :: l) = false := by
  rw [Firing.poisoned, Bool.or_eq_false_iff, List.any_eq_false, List.any_eq_false]
  exact ⟨fun d hd => Bool.eq_false_iff.mp (h.flits d hd),
    fun k hk => Bool.eq_false_iff.mp (h.headers k (List.mem_range.mp hk))⟩

/-- An element that is not scaled is delivered as it is. -/
theorem deliver_zero (f : Fmt) (m : Round) (x : Nat) : deliver f m 0 x = (x, 0) := if_pos rfl

/-- What a node delivers to its operation: each input's element as it stands in its lane. -/
theorem Firing.delivered {f : Firing} {a : Flit} {l : List Flit} (hh : f.Holds a l) (hp : f.Clean a l) (k : NodeKind) (j : Nat) :
    (((a :: l).zipIdx.map fun d =>
      if etyFloat f.ety then
        deliver (fmtOfEty f.ety) (k.scaleRound f.n) (parseHdr (f.node.hdrAt d.2).word).scale (lane d.1.data f.ety j)
      else (lane d.1.data f.ety j, 0)).map (·.1)) = (a :: l).map fun d => lane d.data f.ety j := by
  rw [List.map_map]
  conv_rhs => rw [← List.zipIdx_map_fst 0 (a :: l), List.map_map]
  refine List.map_congr_left fun d hd => ?_
  obtain ⟨d, i⟩ := d
  obtain ⟨-, hi, -⟩ := List.mem_zipIdx hd
  simp only [Function.comp_apply]
  split
  · have h8 : 8 ≤ f.ety := by simp_all [etyFloat]
    have hs : (parseHdr (f.node.hdrAt i).word).scale = 0 := by
      simp [parseHdr, hp.scales h8 i (by rw [hh.length_ins]; omega)]
    rw [hs, deliver_zero]
  · rfl

/-- The lanes in use of an elementwise node's result (R285, R290). -/
theorem Firing.lane_lanes {f : Firing} {a : Flit} {l : List Flit} (hh : f.Holds a l) (hp : f.Clean a l) (k : NodeKind) {j : Nat}
    (hj : j < f.inUse) : lane (f.lanes k (a :: l)).2 f.ety j = laneResult k f.n f.ety (a :: l) j % 2 ^ laneWidth f.ety := by
  have hused := hj.trans_le (f.node.le_used { parseHdr (f.node.hdrAt 0).word with ety := f.ety } _)
  have hle := f.node.used_le { parseHdr (f.node.hdrAt 0).word with ety := f.ety } (lanesOf f.ety)
  refine (lane_packLanes (by simpa using hle) (by simpa using hused)).trans ?_
  simp only [List.getElem_map, List.getElem_range]
  rw [laneResult, ← Firing.delivered hh hp k j]

theorem Firing.Begun.lanes {g : Firing} {n : NodeFields} {s : State} {x : Inst} (h : g.Begun n s x) (k : NodeKind) (l : List Flit) :
    (g.lanes k l).1.Begun n s x := h.flags _

/-! ### Elementwise nodes (R285, R290) -/

section Elementwise

variable {n : NodeFields} {s : State} {x : Inst} {ins : List (BitVec 4)} {a : Flit} {l : List Flit} (k : NodeKind) (hf : MayFire n s x)
  (hh : (firingOf n ins s x).Holds a l)
include hf hh

/-- Unpoisoned inputs give one flit with A's marks and the operation's results. -/
theorem elementwise_of_clean (hp : (firingOf n ins s x).Clean a l) :
    Sends n s x (elementwise k n ins s) fun d => d.psn = false ∧ d.marks = a.marks ∧ ∀ j, j < (firingOf n ins s x).inUse →
      lane d.data (firingOf n ins s x).ety j =
        laneResult k n (firingOf n ins s x).ety (a :: l) j % 2 ^ laneWidth (firingOf n ins s x).ety := by
  rw [elementwise, fire_of_holds hf hh]
  simp only [hp.poisoned_eq, Bool.false_eq_true, if_false, List.headD_cons]
  refine ((firingOf_begun n ins s x).lanes k (a :: l)).counted.takeAll.sends hf.inst ?_
  rw [Flit.onWire_of_clean (dataFlit_psn ..)]
  exact ⟨dataFlit_psn .., dataFlit_marks .., fun j hj => Firing.lane_lanes hh hp k hj⟩

/-- A poisoned input or header gives one poisoned flit with A's marks (R282, R283). -/
theorem elementwise_of_poisoned (hp : (firingOf n ins s x).poisoned (a :: l) = true) :
    Sends n s x (elementwise k n ins s) fun d => d.psn = true ∧ d.data = 0 ∧ d.marks = a.marks := by
  rw [elementwise, fire_of_holds hf hh]
  simp only [hp, if_true, List.headD_cons]
  refine (firingOf_begun n ins s x).counted.takeAll.sends hf.inst ?_
  rw [onWire_poisoned]
  exact ⟨dataFlit_psn .., rfl, dataFlit_marks ..⟩

end Elementwise

end Sys2Proof.Machine
end

section
/-!
SUPPORT. The inputs of a firing one by one, and the operations of the elementwise nodes on integer lanes.
-/
namespace Sys2Proof.Machine

/-! ### Inputs one by one (R281 to R285) -/

section Inputs

variable (n : NodeFields) (s : State) (x : Inst)

/-- A data flit at the head of an input channel of the element under the cursor, with EOT as given and a header in force on the input. -/
def DataAt (eot : Bool) (j : Nat) (c : BitVec 4) (d : Flit) : Prop :=
  x.head s.pe.page s.pe.pe c.toFin true = some d ∧ d.hdr = false ∧ d.sot = false ∧ d.eot = eot ∧
    ((x.peAt s.pe.page s.pe.pe).node.hdrAt j).set = true

/-- The type of the node of the element under the cursor (R122, R282). -/
def nodeType : Nat := if n.ety = 14 then bits ((x.peAt s.pe.page s.pe.pe).node.hdrAt 0).word 60 4 else n.ety.toNat

/-- Neither the flit nor the header in force on its input is poisoned, and a header of a floating-point type has scale 0. -/
def CleanAt (j : Nat) (d : Flit) : Prop :=
  d.psn = false ∧ ((x.peAt s.pe.page s.pe.pe).node.hdrAt j).psn = false ∧
    (8 ≤ nodeType n s x → bits ((x.peAt s.pe.page s.pe.pe).node.hdrAt j).word 48 8 = 0)

variable {n s x} {ins : List (BitVec 4)} {a : Flit} {l : List Flit}

theorem holds_of_dataAt (h : List.Forall₂ (fun (c : BitVec 4 × Nat) d => DataAt s x a.eot c.2 c.1 d) ins.zipIdx (a :: l)) :
    (firingOf n ins s x).Holds a l := by
  have hlen : ins.length = (a :: l).length := by simpa using h.length_eq
  have hat (i : Nat) (hi : i < ins.length) : DataAt s x a.eot i ins[i] ((a :: l)[i]'(hlen ▸ hi)) := by
    have hget := h.get (by simpa using hi) (hlen ▸ hi)
    simpa only [List.get_eq_getElem, List.getElem_zipIdx, Nat.zero_add] using hget
  refine ⟨List.ext_getElem (by simpa [Firing.heads, firingOf] using hlen) fun i hi _ => ?_, fun d hd => ?_, fun k hk => ?_⟩
  · obtain ⟨hhead, -⟩ := hat i (by simpa [Firing.heads, firingOf] using hi)
    rw [List.getElem_map, ← hhead]
    simp [Firing.heads, firingOf, fin_toNat]
  · obtain ⟨i, hi, rfl⟩ := List.getElem_of_mem hd
    obtain ⟨-, hhdr, hsot, heot, -⟩ := hat i (hlen ▸ hi)
    exact ⟨hhdr, hsot, heot⟩
  · obtain ⟨-, -, -, -, hset⟩ := hat k (by simpa [firingOf] using hk)
    exact hset

theorem clean_of_cleanAt (hlen : ins.length = (a :: l).length) (h : ∀ p ∈ (a :: l).zipIdx, CleanAt n s x p.2 p.1) :
    (firingOf n ins s x).Clean a l := by
  have hat (i : Nat) (hi : i < (a :: l).length) : CleanAt n s x i (a :: l)[i] :=
    h ((a :: l)[i], i) (List.mem_zipIdx_iff_getElem?.mpr (List.getElem?_eq_getElem hi))
  have hins (k : Nat) (hk : k < (firingOf n ins s x).ins.length) : k < (a :: l).length := by
    rw [← hlen]
    simpa [firingOf] using hk
  refine ⟨fun d hd => ?_, fun k hk => ?_, fun h8 k hk => ?_⟩
  · obtain ⟨i, hi, rfl⟩ := List.getElem_of_mem hd
    exact (hat i hi).1
  · obtain ⟨-, hpsn, -⟩ := hat k (hins k hk)
    exact hpsn
  · obtain ⟨-, -, hscale⟩ := hat k (hins k hk)
    exact hscale h8

end Inputs

/-! ### Operations on integer lanes (R290 to R292, R300) -/

/-- Shifting left by the width or more leaves nothing in the lane. -/
theorem evalLane_shl (n : NodeFields) (t a b : Nat) : (evalLane .shl n t [a, b]).1 % 2 ^ laneWidth t = a * 2 ^ b % 2 ^ laneWidth t := by
  change (if laneWidth t ≤ b then 0 else a * 2 ^ b % 2 ^ laneWidth t) % 2 ^ laneWidth t = _
  split
  · rw [Nat.zero_mod, Nat.mod_eq_zero_of_dvd (dvd_mul_of_dvd_right (Nat.pow_dvd_pow 2 ‹_›) a)]
  · exact Nat.mod_mod ..

/-- Shifting right by the width or more leaves the sign alone. -/
theorem evalLane_shr (n : NodeFields) {t a : Nat} (ha : a < 2 ^ laneWidth t) (b : Nat) :
    (evalLane .shr n t [a, b]).1 = (BitVec.ofInt (laneWidth t) (intLane t a / 2 ^ b)).toNat := by
  change (if laneWidth t ≤ b then (if intLane t a < 0 then 2 ^ laneWidth t - 1 else 0) else _) = _
  obtain ⟨hlow, hhigh⟩ := intLane_bounds ha
  split
  · have hpow : (2 : Int) ^ laneWidth t ≤ 2 ^ b := pow_le_pow_right₀ (by decide) ‹_›
    split
    · rw [Int.ediv_eq_neg_one_of_neg_of_le ‹_› (by omega), toNat_ofInt_pow, toNat_neg_one_emod_pow]
    · rw [Int.ediv_eq_zero_of_lt (not_lt.mp ‹_›) (by omega)]
      simp
  · rfl

section IntLanes

variable {n : NodeFields} {t : Nat} (h : t < 8)
include h

theorem etyInt_of_lt : etyInt t = true := decide_eq_true h

theorem evalLane_add_int (a b : Nat) : (evalLane .add n t [a, b]).1 = fixInt t (bit n.fn 3) (intLane t a + intLane t b) :=
  congrArg Prod.fst (if_pos (etyInt_of_lt h))

theorem evalLane_sub_int (a b : Nat) : (evalLane .sub n t [a, b]).1 = fixInt t (bit n.fn 3) (intLane t a - intLane t b) :=
  congrArg Prod.fst (if_pos (etyInt_of_lt h))

theorem evalLane_mul_int (a b : Nat) : (evalLane .mul n t [a, b]).1 = fixInt t (bit n.fn 3) (intLane t a * intLane t b) :=
  congrArg Prod.fst (if_pos (etyInt_of_lt h))

theorem evalLane_fma_int (a b c : Nat) :
    (evalLane .fma n t [a, b, c]).1 = fixInt t (bit n.fn 3) (intLane t a * intLane t b + intLane t c) :=
  congrArg Prod.fst (if_pos (etyInt_of_lt h))

theorem evalLane_neg_int (a : Nat) : (evalLane .neg n t [a]).1 = fixInt t (bit n.fn 3) (0 - intLane t a) :=
  congrArg Prod.fst (if_pos (etyInt_of_lt h))

/-- The absolute value of an unsigned lane is the lane, which is in the type's range. -/
theorem evalLane_abs_int {a : Nat} (ha : a < 2 ^ laneWidth t) :
    (evalLane .abs n t [a]).1 = fixInt t (bit n.fn 3) ((intLane t a).natAbs : Int) := by
  refine (congrArg Prod.fst (if_pos (etyInt_of_lt h))).trans ?_
  split
  · rfl
  · rename_i hsg
    have hlane : ((intLane t a).natAbs : Int) = a := by simp [intLane_eq ha, hsg]
    have hmax : (a : Int) ≤ 2 ^ laneWidth t - 1 := by
      have : (a : Int) < 2 ^ laneWidth t := by exact_mod_cast ha
      omega
    rw [hlane, fixInt_eq, if_neg hsg, min_eq_right hmax, max_eq_right (Int.natCast_nonneg a), ite_self]
    exact_mod_cast (Nat.mod_eq_of_lt ha).symm

/-- The greater of two lanes is not the lesser one: where the model keeps one of two equal lanes, they are the same. -/
theorem evalLane_min_int {a b : Nat} (ha : a < 2 ^ laneWidth t) (hb : b < 2 ^ laneWidth t) :
    (evalLane .min n t [a, b]).1 = (BitVec.ofInt (laneWidth t) (min (intLane t a) (intLane t b))).toNat := by
  refine (congrArg Prod.fst (if_pos (etyInt_of_lt h))).trans ?_
  change (if intLane t b < intLane t a then b else a) = _
  split
  · rw [min_eq_right_of_lt ‹_›, ofInt_intLane hb]
  · rw [min_eq_left (not_lt.mp ‹_›), ofInt_intLane ha]

theorem evalLane_max_int {a b : Nat} (ha : a < 2 ^ laneWidth t) (hb : b < 2 ^ laneWidth t) :
    (evalLane .max n t [a, b]).1 = (BitVec.ofInt (laneWidth t) (max (intLane t a) (intLane t b))).toNat := by
  refine (congrArg Prod.fst (if_pos (etyInt_of_lt h))).trans ?_
  change (if intLane t a < intLane t b then b else a) = _
  split
  · rw [max_eq_right_of_lt ‹_›, ofInt_intLane hb]
  · rw [max_eq_left (not_lt.mp ‹_›), ofInt_intLane ha]

theorem evalLane_cmp_int (a b : Nat) : (evalLane .cmp n t [a, b]).1 = if (compareLanes t n.fn.toNat a b).1 then 1 else 0 := by
  refine if_congr Iff.rfl ?_ rfl
  exact if_pos (etyInt_of_lt h)

theorem compareLanes_int (fn a b : Nat) : (compareLanes t fn a b).1 = match fn with
    | 0 => decide (intLane t a = intLane t b) | 1 => decide (intLane t a ≠ intLane t b) | 2 => decide (intLane t a < intLane t b)
    | 3 => decide (intLane t a ≤ intLane t b) | 4 => decide (intLane t b < intLane t a) | _ => decide (intLane t b ≤ intLane t a) := by
  exact congrArg Prod.fst (if_pos (etyInt_of_lt h))

/-- A constant is sign-extended for a signed type (R300). -/
theorem evalLane_con_int (l : List Nat) : (evalLane .con n t l).1 % 2 ^ laneWidth t =
    (if t < 4 then (n.param.toInt % 2 ^ laneWidth t).toNat else n.param.toNat) % 2 ^ laneWidth t := by
  change constLane n.param t % _ = _
  unfold constLane
  split
  · rw [BitVec.signExtend, toNat_ofInt_pow, toNat_emod_pow_mod _ (laneWidth_le t)]
  · simp

end IntLanes

end Sys2Proof.Machine
end

section
/-!
SUPPORT. The elementwise nodes by their inputs, relays and counters, and the family of nodes that send one flit.
-/
namespace Sys2Proof.Machine

/-! ### Nodes that pass a flit (R298, R301) -/

section Passing

variable {n : NodeFields} {s : State} {x : Inst} {d : Flit} (hf : MayFire n s x)
  (hd : x.head s.pe.page s.pe.pe n.ina.toFin true = some d)
include hf hd

theorem passing_sends (g : NodeState → Flit → NodeState × Flit) : Sends n s x (passing n g s) fun f =>
    f = (g (x.peAt s.pe.page s.pe.pe).node d).2.onWire := by
  have hheads : (firingOf n [n.ina] s x).heads = [some d] := by
    simp [Firing.heads, firingOf, fin_toNat, hd]
  rw [passing, withFiring_of_mayFire hf, hheads]
  exact ((firingOf_begun n [n.ina] s x).updNode _).takeAll.sends hf.inst rfl

end Passing

/-- The marks that a counter adds: EOR where the inner counter ends, and EOK where the outer one ends with it (R298). -/
def endMarks (n : NodeFields) (v : NodeState) : BitVec 8 :=
  if v.inner = n.param.toNat % 1024 then (if v.outer = n.param.toNat / 1024 then 0x30 else 0x10) else 0

theorem countFlit_data (n : NodeFields) (v : NodeState) {d : Flit} (h : d.hdr = false) :
    (countFlit n v d).2 = { d with ctl := d.ctl ||| endMarks n v } := by
  have hinner : bits n.param 0 10 = n.param.toNat % 1024 := bits_zero ..
  have houter : bits n.param 10 10 = n.param.toNat / 1024 := by
    rw [bits_eq_div_mod]
    exact Nat.mod_eq_of_lt (Nat.div_lt_of_lt_mul n.param.isLt)
  rw [countFlit, if_neg (by simp [h]), hinner, houter, endMarks]
  simp only [Nat.add_right_cancel_iff]
  split
  · split <;> rfl
  · simp

/-- The marks that a counter adds poison nothing. -/
theorem countFlit_onWire (n : NodeFields) (v : NodeState) {d : Flit} (h : d.hdr = false) (hpsn : d.psn = false) :
    (countFlit n v d).2.onWire = { d with ctl := d.ctl ||| endMarks n v } := by
  have hends : bit (endMarks n v) 6 = false := by
    unfold endMarks
    split
    · split <;> rfl
    · rfl
  rw [countFlit_data n v h]
  refine Flit.onWire_of_clean ?_
  rw [Flit.psn, bit, BitVec.getLsbD_or]
  exact Bool.or_eq_false_iff.mpr ⟨hpsn, hends⟩

/-! ### The family -/

/-- What an elementwise node sends on unpoisoned inputs: a flit with marks and, in each lane in use, a number modulo the lane's width. -/
def Gives (n : NodeFields) (s : State) (x : Inst) (marks : BitVec 8) (r : Result) (v : Nat → Nat) : Prop :=
  Sends n s x r fun f => f.psn = false ∧ f.marks = marks ∧ ∀ j, j < (firingOf n [] s x).inUse →
    lane f.data (nodeType n s x) j = v j % 2 ^ laneWidth (nodeType n s x)

/-- The operation of a node gives these numbers, modulo the width of the lanes. -/
def Computes (k : NodeKind) (n : NodeFields) (t : Nat) (l : List Flit) (v : Nat → Nat) : Prop :=
  ∀ j, laneResult k n t l j % 2 ^ laneWidth t = v j % 2 ^ laneWidth t

section Gives

variable {n : NodeFields} {s : State} {x : Inst} {a b c : Flit} {k : NodeKind} {v : Nat → Nat} (hf : MayFire n s x)
include hf

theorem gives_of_computes {ins : List (BitVec 4)} {l : List Flit} (hlen : ins.length = (a :: l).length)
    (hd : List.Forall₂ (fun (c : BitVec 4 × Nat) d => DataAt s x a.eot c.2 c.1 d) ins.zipIdx (a :: l))
    (hc : ∀ p ∈ (a :: l).zipIdx, CleanAt n s x p.2 p.1) (hv : Computes k n (nodeType n s x) (a :: l) v) :
    Gives n s x a.marks (elementwise k n ins s) v := by
  refine (elementwise_of_clean k hf (holds_of_dataAt hd) (clean_of_cleanAt hlen hc)).imp fun f hf => ?_
  obtain ⟨hpsn, hmarks, hlanes⟩ := hf
  exact ⟨hpsn, hmarks, fun j hj => (hlanes j hj).trans (hv j)⟩

variable (ha : DataAt s x a.eot 0 n.ina a) (hca : CleanAt n s x 0 a)
include ha hca

theorem gives_one (hv : Computes k n (nodeType n s x) [a] v) : Gives n s x a.marks (elementwise k n [n.ina] s) v :=
  gives_of_computes hf rfl (.cons ha .nil) (by simpa using hca) hv

variable (hb : DataAt s x a.eot 1 n.inb b) (hcb : CleanAt n s x 1 b)
include hb hcb

theorem gives_two (hv : Computes k n (nodeType n s x) [a, b] v) : Gives n s x a.marks (elementwise k n [n.ina, n.inb] s) v :=
  gives_of_computes hf rfl (.cons ha (.cons hb .nil)) (by simpa using ⟨hca, hcb⟩) hv

theorem gives_three (hc : DataAt s x a.eot 2 n.inc c) (hcc : CleanAt n s x 2 c) (hv : Computes k n (nodeType n s x) [a, b, c] v) :
    Gives n s x a.marks (elementwise k n [n.ina, n.inb, n.inc] s) v :=
  gives_of_computes hf rfl (.cons ha (.cons hb (.cons hc .nil))) (by simpa using ⟨hca, hcb, hcc⟩) hv

end Gives

/-- Two inputs of which a flit or a header is poisoned. -/
theorem sends_poison {n : NodeFields} {s : State} {x : Inst} {a b : Flit} (hf : MayFire n s x) (ha : DataAt s x a.eot 0 n.ina a)
    (hb : DataAt s x a.eot 1 n.inb b)
    (hpsn : a.psn = true ∨ b.psn = true ∨ ((x.peAt s.pe.page s.pe.pe).node.hdrAt 0).psn = true ∨
      ((x.peAt s.pe.page s.pe.pe).node.hdrAt 1).psn = true) (k : NodeKind) :
    Sends n s x (elementwise k n [n.ina, n.inb] s) fun f => f.psn = true ∧ f.data = 0 ∧ f.eot = a.eot := by
  have hpoisoned : (firingOf n [n.ina, n.inb] s x).poisoned [a, b] = true := by
    simpa [Firing.poisoned, firingOf, Firing.node, List.range_succ, or_assoc] using hpsn
  refine (elementwise_of_poisoned k hf (holds_of_dataAt (ins := [n.ina, n.inb]) (.cons ha (.cons hb .nil))) hpoisoned).imp fun f hf => ?_
  obtain ⟨hpsn, hdata, hmarks⟩ := hf
  exact ⟨hpsn, hdata, Flit.eot_of_marks hmarks⟩

/-- Settles O53: an elementwise node sends its operation's result in each lane, and on integer lanes that is the exact value. -/
theorem nodes : Obligations.Nodes := by
  intro n s x k da db dc hk hx hacts hspace hwhole
  subst hk
  have hf : MayFire n s x := ⟨hx, hacts, hspace, hwhole⟩
  intro nd word e w used at_ data clean sends gives a b c val fix wrap rel g u m
  have hval {v : Nat} (hv : v < 2 ^ w) : val v = intLane e v := (intLane_eq hv).symm
  have hva (j : Nat) : val (a j) = intLane e (a j) := hval (lane_lt ..)
  have hvb (j : Nat) : val (b j) = intLane e (b j) := hval (lane_lt ..)
  have hvc (j : Nat) : val (c j) = intLane e (c j) := hval (lane_lt ..)
  have hfix (v : Int) : fix v = fixInt e (bit n.fn 3) v := (fixInt_eq ..).symm
  have hwrap (v : Int) : wrap v = (BitVec.ofInt w v).toNat := (toNat_ofInt_pow ..).symm
  have hfloat (h8 : 8 ≤ e) (p q : Nat × Flags) : (if etyInt e then p else q).1 % 2 ^ w = q.1 % 2 ^ w := by
    rw [if_neg (by simpa [etyInt] using h8)]
  have hexact {p q : Nat} (h : p = q) : p % 2 ^ w = q % 2 ^ w := by rw [h]
  have hrel (h8 : e < 8) (j : Nat) : rel (val (a j)) (val (b j)) = (compareLanes e n.fn.toNat (a j) (b j)).1 := by
    rw [hva, hvb]
    exact (compareLanes_int h8 ..).symm
  refine ⟨fun ha hca => ⟨fun h8 => ⟨?nabs, ?nneg, ?ncon⟩, fun h8 h13 => ⟨?nabsFloat, ?nnegFloat⟩, fun hb hcb =>
    ⟨fun h8 => ⟨?nadd, ?nsub, ?nmul, ?nmin, ?nmax, ?ncmp, ?nand, ?nor, ?nxor, ?nshl, ?nshr⟩,
      fun h8 h13 => ⟨?naddFloat, ?nsubFloat, ?nmulFloat, ?nminFloat, ?nmaxFloat, ?ncmpFloat⟩,
      fun hc hcc => ⟨fun _ => ?nsel, fun h8 => ?nfma, fun h8 h13 => ?nfmaFloat⟩⟩⟩,
    fun ha hb hpsn i hi => ?poison, fun hd hpsn => ⟨?nrly, fun hhdr => ?ncnt⟩⟩
  case nabs => exact gives_one hf ha hca fun j => hexact ((evalLane_abs_int h8 (lane_lt ..)).trans (by rw [hfix, hva]))
  case nneg => exact gives_one hf ha hca fun j => hexact ((evalLane_neg_int h8 (a j)).trans (by rw [hfix, hva]))
  case ncon => exact gives_one hf ha hca fun j => evalLane_con_int h8 _
  case nadd => exact gives_two hf ha hca hb hcb fun j => hexact ((evalLane_add_int h8 (a j) (b j)).trans (by rw [hfix, hva, hvb]))
  case nsub => exact gives_two hf ha hca hb hcb fun j => hexact ((evalLane_sub_int h8 (a j) (b j)).trans (by rw [hfix, hva, hvb]))
  case nmul => exact gives_two hf ha hca hb hcb fun j => hexact ((evalLane_mul_int h8 (a j) (b j)).trans (by rw [hfix, hva, hvb]))
  case nmin => exact gives_two hf ha hca hb hcb fun j => hexact ((evalLane_min_int h8 (lane_lt ..) (lane_lt ..)).trans (by rw [hwrap, hva, hvb]))
  case nmax => exact gives_two hf ha hca hb hcb fun j => hexact ((evalLane_max_int h8 (lane_lt ..) (lane_lt ..)).trans (by rw [hwrap, hva, hvb]))
  case ncmp => exact gives_two hf ha hca hb hcb fun j => hexact ((evalLane_cmp_int h8 (a j) (b j)).trans (by rw [hrel h8]))
  case nand => exact gives_two hf ha hca hb hcb fun j => rfl
  case nor => exact gives_two hf ha hca hb hcb fun j => rfl
  case nxor => exact gives_two hf ha hca hb hcb fun j => rfl
  case nshl => exact gives_two hf ha hca hb hcb fun j => evalLane_shl ..
  case nshr => exact gives_two hf ha hca hb hcb fun j => hexact ((evalLane_shr n (a := a j) (lane_lt ..) (b j)).trans (by rw [hwrap, hva]))
  case nabsFloat => exact gives_one hf ha hca fun j => hfloat h8 ..
  case nnegFloat => exact gives_one hf ha hca fun j => hfloat h8 ..
  case naddFloat => exact gives_two hf ha hca hb hcb fun j => hfloat h8 ..
  case nsubFloat => exact gives_two hf ha hca hb hcb fun j => hfloat h8 ..
  case nmulFloat => exact gives_two hf ha hca hb hcb fun j => hfloat h8 ..
  case nminFloat => exact gives_two hf ha hca hb hcb fun j => hfloat h8 ..
  case nmaxFloat => exact gives_two hf ha hca hb hcb fun j => hfloat h8 ..
  case ncmpFloat => exact gives_two hf ha hca hb hcb fun j => rfl
  case nsel => exact gives_three hf ha hca hb hcb hc hcc fun j => rfl
  case nfma => exact gives_three hf ha hca hb hcb hc hcc fun j => hexact ((evalLane_fma_int h8 (a j) (b j) (c j)).trans (by rw [hfix, hva, hvb, hvc]))
  case nfmaFloat => exact gives_three hf ha hca hb hcb hc hcc fun j => hfloat h8 ..
  case poison =>
    simp only [List.mem_cons, List.not_mem_nil, or_false] at hi
    rcases hi with rfl | rfl | rfl | rfl | rfl | rfl | rfl | rfl | rfl | rfl | rfl <;> exact sends_poison hf ha hb hpsn _
  case nrly => exact (passing_sends hf hd fun v d => (v, d)).imp fun f hf => hf.trans (Flit.onWire_of_clean hpsn)
  case ncnt =>
    refine (passing_sends hf hd (countFlit n)).imp fun f hf => ?_
    rw [hf, countFlit_onWire n _ hhdr hpsn]
    exact ⟨rfl, rfl⟩

end Sys2Proof.Machine
end

section
/-!
SUPPORT. The end of a graph in a context where two instances have one uid.
-/
namespace Sys2Proof.Machine

/-! ### A graph whose instance shares its uid (R334, R346, R355)

A graph that ends asks for the release of its instances by their uids, and an instance whose release is asked for has its owner nodes'
buffers written back. A `State` may hold two instances of a context with one uid. -/

/-- An idle instance of the graph on graph slot 0 of context 1, without a modified line. -/
def graphInst : Inst := { owningInst with ctx := 1, st := .idle, graph := some 0, ports := [] }

/-- An idle instance of the port stream of context 1 in another slot, with the same uid, whose owner node has modified byte 0 of line
0x800: the first byte at 0x2_0000. -/
def namesakeInst : Inst :=
  { owningInst with
    ctx := 1, slot := 1, st := .idle, sites := [1], area := [1],
    ports := [(0, { PortState.fresh with own := [{ line := 0x800, data := 0, mask := 1, bad := false }] })] }

/-- A launch of queue 0 with its completion record at 0x2_0000. -/
def recordedLaunch : Launch :=
  { id := 3, queue := 0, desc := { words := (Vector.replicate 16 0).set 3 0x20000 }, lnci := none, hyp := 0, count := 0, landed := 0,
    ended := 0, good := 0, fault := false, flags := 0, fcnt := 0, fseq := 0, started := true, version := 0, prio := 0, group := 0,
    status := none, serial := 0 }

/-- The graph of that launch, stopped with status 2. -/
def stoppedGraph : Graph :=
  { launch := 3, pc := 0, started := 0, prio := 0, hyp := 0, queue := 0, count := 0, last := none, tiles := 0, flags := 0, ended := true,
    ahead := [], drained := none, status := some 2, ranges := [], endSlot := 0, curSlot := none }

/-- Context 1 with the first GiB mapped for reads and writes, the stopped graph, its launch, and the two instances. -/
def sharedUid : State :=
  { State.reset with
    mem := (Mem.cleared.write 0 8 0x1001).write 0x1000 8 0x0F
    regs := [(cxrootAt 1, 1)]
    insts := [namesakeInst, graphInst]
    ctxs := (Vector.replicate 16 Ctx.reset).set 1
      { Ctx.reset with graphs := Ctx.reset.graphs.set 0 (some stoppedGraph), queues := [recordedLaunch] } }

/-- The first word of memory from an address up, in the state that an answer gives. -/
def wordAfter (r : Result) (a : Nat) : Option Nat := match r with | .next t => some (t.mem.read a 8) | _ => none

/-- The write-back of the namesake clears the status in the record. -/
theorem sharedUid_ended : wordAfter (exec (.graphEnd 1 0) sharedUid) 0x20000 = some (2 ^ 63) := by decide +kernel

theorem sharedUid_graph : ((sharedUid.noteDrain 1).ctx 1).graphs[(0 : Fin 4)] = some stoppedGraph := by decide +kernel

theorem sharedUid_over : (sharedUid.noteDrain 1).graphOver 1 0 stoppedGraph = some 2 := by decide +kernel

theorem sharedUid_address : (sharedUid.noteDrain 1).engineAddress 1 (bits recordedLaunch.desc.words[3] 0 52) false true = .ok 0x20000 := by
  decide +kernel

theorem sharedUid_wf : sharedUid.mem.wf := Mem.wf_write (Mem.wf_write Mem.wf_cleared _ _ _) _ _ _

/-- Refutes O57: of the completion record of a graph that is over, since no premise keeps the uids of instances apart. In `sharedUid` the
graph's end asks for the release of the namesake of its instance, whose owner node then writes back a line over the record: its first
word reads 2^63, and not 2^63 + 2 with the status of the graph. -/
theorem not_eventsOfEngines : ¬ Obligations.EventsOfEngines := by
  intro h
  obtain ⟨-, -, -, -, -, -, -, -, -, -, -, -, -, -, -, hend, -⟩ := h sharedUid 0 namesakeInst rfl
  obtain ⟨t, ht, -, -, -, -, hrecord⟩ := (hend 1 0 stoppedGraph _ rfl sharedUid_graph).1 2 sharedUid_over
  have hread := (hrecord recordedLaunch 0x20000 (by decide +kernel) (by decide) (by decide) sharedUid_address (by decide +kernel)
    (by decide) rfl sharedUid_wf (by decide)).1
  have hword := sharedUid_ended
  rw [ht] at hword
  exact absurd (hread.symm.trans (Option.some.inj hword)) (by decide)

end Sys2Proof.Machine
end

section
/-!
SUPPORT. The commands of a context's sequencer: what a refusal leaves of them, and the streamer that a command joins.
-/
namespace Sys2Proof.Machine

/-! ### A command that is refused leaves the sequencer (R70, R329) -/

theorem State.ctx_updCtx_other (s : State) {c d : Fin 16} (f : Ctx → Ctx) (h : d ≠ c) : (s.updCtx c f).ctx d = s.ctx d := by
  rw [State.updCtx, State.ctx_setCtx, if_neg h]

theorem State.dropCommand_accepted (s : State) (c : Fin 16) (id : BitVec 32) :
    ((s.dropCommand c id).ctx c).accepted = (s.ctx c).accepted.filter fun k => k.id ≠ id := by
  rw [State.dropCommand, State.ctx_updCtx_self]

theorem State.stopGraph_accepted (s : State) (c : Fin 16) (g : Fin 4) (st : Nat) :
    ((s.stopGraph c g st).ctx c).accepted = (s.ctx c).accepted.filter fun k => k.stream ≠ .graph g ∨ k.begun := by
  simp only [State.stopGraph, State.updGraph, State.ctx_updCtx_self]

/-- A refusal may also stop the command's graph, which takes further commands away. -/
theorem State.refuse_accepted (s : State) (f : EngineFault) (addr : Word) :
    ∀ k ∈ ((s.refuse f addr).ctx s.cmd.ctx).accepted, k.id ≠ s.cmd.id := by
  intro k hk
  unfold State.refuse at hk
  dsimp only at hk
  split at hk
  next =>
    rw [State.dropCommand_accepted] at hk
    simpa using (List.mem_filter.mp hk).2
  next g _ =>
    rw [State.stopGraph_accepted, State.dropCommand_accepted] at hk
    simpa using (List.mem_filter.mp (List.mem_filter.mp hk).1).2

/-! ### The least loaded streamer (R361) -/

/-- Whether position `b` comes before `r` or is `r`, by the number of commands and then by position. -/
def leads (size : Nat → Nat) (b r : Nat) : Prop := size b < size r ∨ size b = size r ∧ b ≤ r

theorem leads_antisymm {size : Nat → Nat} {b r : Nat} (hb : leads size b r) (hr : leads size r b) : b = r := by
  unfold leads at hb hr
  omega

/-- A search upwards that changes to strictly fewer commands only keeps the lowest position of the fewest. -/
theorem foldl_leads (size : Nat → Nat) (n : Nat) :
    let m := (List.range (n + 1)).foldl (fun (b : Nat) p => if size p < size b then p else b) 0
    m ≤ n ∧ ∀ r, r ≤ n → leads size m r := by
  induction n with
  | zero =>
    refine ⟨by simp, fun r hr => ?_⟩
    obtain rfl : r = 0 := by omega
    simp [leads]
  | succ n ih =>
    obtain ⟨hle, hlead⟩ := ih
    rw [List.range_succ, List.foldl_append, List.foldl_cons, List.foldl_nil]
    generalize (List.range (n + 1)).foldl (fun (b : Nat) p => if size p < size b then p else b) 0 = m at hle hlead
    split
    next hlt =>
      refine ⟨le_rfl, fun r hr => ?_⟩
      rcases Nat.lt_or_ge n r with hnew | hold
      · exact .inr ⟨congrArg size (by omega), by omega⟩
      · have := hlead r hold
        unfold leads at *
        omega
    next hge =>
      refine ⟨by omega, fun r hr => ?_⟩
      rcases Nat.lt_or_ge n r with hnew | hold
      · obtain rfl : r = n + 1 := by omega
        unfold leads
        omega
      · exact hlead r hold

theorem State.chosen_named (s : State) {n : Nat} (h : n < 128) : s.chosen n = n := if_pos h

theorem State.chosen_least (s : State) {p : Nat} (hp : p < 128)
    (hlead : ∀ r, r < 128 → leads (fun r => (s.streamer r).queue.length) p r) : s.chosen 255 = p := by
  obtain ⟨hle, hm⟩ := foldl_leads (fun r => (s.streamer r).queue.length) 127
  rw [State.chosen, if_neg (by decide)]
  exact leads_antisymm (hm p (by omega)) (hlead _ (Nat.lt_succ_of_le hle))

/-! ### What a command that is enqueued changes (R361, R362) -/

theorem State.streamer_setStreamer_other (s : State) {p r : Nat} (v : Streamer) (h : r ≠ p) :
    (s.setStreamer p v).streamer r = s.streamer r := tget_tput_other _ _ _ _ _ _ h

/-- A command that is held back keeps its place, its stream's commands theirs, and has not begun. -/
theorem holdBack_spec (s : State) : ∃ t : State, holdBack s = .next t ∧ t = { s with ctxs := t.ctxs } ∧
    (∀ c, c ≠ s.cmd.ctx → t.ctx c = s.ctx c) ∧
    (t.ctx s.cmd.ctx).accepted.map (·.id) = (s.ctx s.cmd.ctx).accepted.map (·.id) ∧
    ∀ x ∈ (t.ctx s.cmd.ctx).accepted, x.id = s.cmd.id → x.begun = false := by
  refine ⟨_, rfl, rfl, fun c hc => State.ctx_updCtx_other s _ hc, ?_, ?_⟩
  · rw [State.ctx_updCtx_self, List.map_map]
    refine List.map_congr_left fun j _ => ?_
    simp only [Function.comp_apply]
    split <;> rfl
  · rw [State.ctx_updCtx_self]
    intro x hx hid
    obtain ⟨j, -, rfl⟩ := List.mem_map.mp hx
    by_cases h : j.id = s.cmd.id
    · rw [if_pos h]
    · rw [if_neg h] at hid
      exact absurd hid h

section
variable {s : State} {j : Command}

/-- The entry of the command that is being started in a streamer's queue. -/
def CmdCursor.queued (k : CmdCursor) (j : Command) : Queued :=
  { ctx := k.ctx, cmd := k.id, word := j.word, stream := k.stream, hyp := k.hyp, site := k.site, slot := k.slot }

theorem enqueue_eq (hj : ((s.ctx s.cmd.ctx).accepted.find? fun (x : Command) => decide (x.id = s.cmd.id)) = some j) (tgt : Nat) :
    enqueue s tgt = if 128 ≤ tgt ∧ tgt ≠ 255 then refused s
      else if 64 ≤ (s.streamer (s.chosen tgt)).queue.length then holdBack s
      else .next (s.setStreamer (s.chosen tgt)
        { s.streamer (s.chosen tgt) with queue := (s.streamer (s.chosen tgt)).queue ++ [s.cmd.queued j] }) := by
  unfold enqueue
  simp only [hj]
  rfl

theorem enqueueData_of_open {o : DataOps} {unbound : Bool}
    (h : o.bnd = true ∧ unbound = false ∨ o.bnd = false ∧ o.slot = 0 ∧ o.inst = 0) :
    enqueueData s o unbound = enqueue s o.tgt.toNat := by
  unfold enqueueData
  rcases h with ⟨hb, hu⟩ | ⟨hb, hs, hi⟩
  · simp [hb, hu]
  · simp [hb, hs, hi]

theorem enqueueData_of_closed {o : DataOps} {unbound : Bool}
    (h : o.bnd = true ∧ unbound = true ∨ o.bnd = false ∧ ¬ (o.slot = 0 ∧ o.inst = 0)) :
    enqueueData s o unbound = refused s := by
  unfold enqueueData
  rcases h with ⟨hb, hu⟩ | ⟨hb, hf⟩
  · simp [hb, hu]
  · rw [if_pos]
    simp only [hb, Bool.not_false, Bool.true_and, Bool.and_false, Bool.or_false, Bool.or_eq_true, bne_iff_ne, ne_eq]
    tauto

/-- What `Obligations.StreamerCommands` asks of a command that joins the queue that TGT names. -/
def Queues (s : State) (j : Command) (r : Result) (n : Nat) : Prop :=
  (∀ p, (n < 128 → p = n) → (n = 255 → p < 128 ∧ ∀ r, r < 128 → leads (fun q => (s.streamer q).queue.length) p r) →
      (n < 128 ∨ n = 255) →
    ((s.streamer p).queue.length < 64 → ∃ t, r = .next t ∧ (t.streamer p).queue = (s.streamer p).queue ++ [s.cmd.queued j] ∧
      (t.streamer p).xfers = (s.streamer p).xfers ∧ (∀ q, q ≠ p → t.streamer q = s.streamer q) ∧
      t = { s with streams := t.streams }) ∧
    (64 ≤ (s.streamer p).queue.length → ∃ t, r = .next t ∧ t = { s with ctxs := t.ctxs } ∧
      (∀ c, c ≠ s.cmd.ctx → t.ctx c = s.ctx c) ∧ (t.ctx s.cmd.ctx).accepted.map (·.id) = (s.ctx s.cmd.ctx).accepted.map (·.id) ∧
      ∀ x ∈ (t.ctx s.cmd.ctx).accepted, x.id = s.cmd.id → x.begun = false)) ∧
  (128 ≤ n → n ≠ 255 → r = refused s)

theorem enqueue_queues (hj : ((s.ctx s.cmd.ctx).accepted.find? fun (x : Command) => decide (x.id = s.cmd.id)) = some j) (n : Nat) :
    Queues s j (enqueue s n) n := by
  rw [enqueue_eq hj]
  refine ⟨fun p hnamed hleast hn => ?_, fun h1 h2 => if_pos ⟨h1, h2⟩⟩
  have hp : s.chosen n = p := by
    rcases hn with hlt | rfl
    · rw [State.chosen_named s hlt, hnamed hlt]
    · exact State.chosen_least s (hleast rfl).1 (hleast rfl).2
  rw [if_neg (by omega), hp]
  refine ⟨fun hroom => ?_, fun hfull => ?_⟩
  · rw [if_neg (by omega)]
    refine ⟨_, rfl, ?_, ?_, fun q hq => State.streamer_setStreamer_other s _ hq, rfl⟩ <;> simp [State.streamer_setStreamer]
  · rw [if_pos hfull]
    exact holdBack_spec s
end

/-- Settles O50: every one of these commands goes through `enqueue` or is refused before it. -/
theorem streamerCommands : Obligations.StreamerCommands := by
  unfold Obligations.StreamerCommands
  intro q o tgt blk s k j hk hj
  subst hk
  intro entry size refuses queues free
  have hrefused {i : Instr} (h : exec i s = refused s) : refuses i := ⟨h, s.refuse_accepted _ _⟩
  have hqueues {i : Instr} {n : Nat} (h : exec i s = enqueue s n) : queues i n := by
    obtain ⟨hjoin, href⟩ := h ▸ enqueue_queues hj n
    exact ⟨hjoin, fun h1 h2 => hrefused (href h1 h2)⟩
  have hmoves {i : Instr} (h : exec i s = enqueueData s o false) :
      ((o.bnd = true ∨ free) → queues i o.tgt.toNat) ∧ (o.bnd = false → ¬ free → refuses i) := by
    refine ⟨fun ho => hqueues (h.trans (enqueueData_of_open ?_)),
      fun hb hf => hrefused (h.trans (enqueueData_of_closed (.inr ⟨hb, hf⟩)))⟩
    cases hb : o.bnd with
    | true => exact .inl ⟨rfl, rfl⟩
    | false => exact .inr ⟨rfl, ho.resolve_left (by simp [hb])⟩
  have hunbound {i : Instr} (h : exec i s = enqueueData s o true) :
      (o.bnd = false → free → queues i o.tgt.toNat) ∧ ((o.bnd = true ∨ ¬ free) → refuses i) := by
    refine ⟨fun hb hf => hqueues (h.trans (enqueueData_of_open (.inr ⟨hb, hf⟩))),
      fun ho => hrefused (h.trans (enqueueData_of_closed ?_))⟩
    cases hb : o.bnd with
    | true => exact .inl ⟨rfl, rfl⟩
    | false => exact .inr ⟨rfl, ho.resolve_left (by simp [hb])⟩
  refine ⟨?_, hqueues rfl, ?_⟩
  · simp only [List.forall_mem_cons]
    exact ⟨hmoves rfl, hmoves rfl, hmoves rfl, hmoves rfl, hmoves rfl, by simp⟩
  · simp only [List.forall_mem_cons]
    exact ⟨hunbound rfl, hunbound rfl, by simp⟩

end Sys2Proof.Machine
end

section
/-!
SUPPORT. The accumulation store as the instructions of threads use it: posting an event, applying a clear, and reading with nothing
under way.
-/
namespace Sys2Proof.Machine

/-! ### The control operand (R406) -/

theorem accRow_eq (c : Word) : accRow c = Fin.ofNat 16 (c.toNat % 16) := rfl

theorem accElem_eq (c : Word) : accElem c = c.toNat / 16 % 16 := by rw [accElem, bits_eq_div_mod]; rfl

theorem accScale_eq (c : Word) : accScale c = (BitVec.ofNat 8 (c.toNat / 256)).toInt := by
  rw [accScale, bits_eq_div_mod]
  exact congrArg BitVec.toInt (BitVec.eq_of_toNat_eq (by simp))

/-! ### Who may use a slot, and room in the queue (R402, R403) -/

theorem State.accAllowed_of_control {s : State} (n : Fin 4) (h : s.th.onControl = true) : s.accAllowed n = false := by
  unfold State.accAllowed Thread.onBarrel
  unfold Thread.onControl at h
  split <;> simp_all

theorem State.accRoom_iff (s : State) (k : Nat) : s.accRoom k = true ↔ (s.accQueue k).length < 32 := decide_eq_true_iff

theorem State.accPost_queue (s : State) (k : Nat) (ev : AccEvent) : (s.accPost k ev).accQueue k = s.accQueue k ++ [ev] := by
  simp only [State.accQueue, State.accPost, State.site_setSite, if_true]

theorem State.accPost_site_other (s : State) {k m : Nat} (ev : AccEvent) (h : m ≠ k) : (s.accPost k ev).site m = s.site m := by
  rw [State.accPost, State.site_setSite, if_neg h]

/-! ### Posting (R405, R408) -/

section
variable {s : State} {n : Fin 4}

theorem postAcc_of_claimed (ev : AccEvent) (k : State → Result) (h : s.accAllowed n = false) : postAcc s n ev k = trapNow s 0x0C :=
  if_pos (by simp [h])

theorem postAcc_of_room (ev : AccEvent) (k : State → Result) (h : s.accAllowed n = true) (hr : s.accRoom s.th.site = true) :
    postAcc s n ev k = k (s.accPost s.th.site ev) := by
  rw [postAcc, if_neg (by simp [h]), if_pos hr]

theorem postAcc_of_full (ev : AccEvent) (k : State → Result) (h : s.accAllowed n = true) (hr : ¬ s.accRoom s.th.site = true) :
    postAcc s n ev k = .next (s.block .accQueue) := by
  rw [postAcc, if_neg (by simp [h]), if_neg hr]

theorem execAccr_of_claimed (a b : Reg) (h : s.accAllowed n = false) : execAccr a b n s = trapNow s 0x0C := if_pos (by simp [h])

theorem execAccr_of_full (a b : Reg) (h : s.accAllowed n = true) (hr : ¬ s.accRoom s.th.site = true) :
    execAccr a b n s = .next (s.block .accQueue) := by
  rw [execAccr, if_neg (by simp [h]), if_pos (by simp [hr])]

/-- The sixteen F32 values of a line, scaled, each for its element (R407). -/
def lineAddends (l : List (BitVec 128)) (c : Word) : List (Nat × Addend) :=
  (imageWords l).mapIdx fun j w => (j, addendOf (unpack (fmtOf .f32) w.toNat) (accScale c))

theorem execAccr_of_room {a b : Reg} {pa : Nat} {t : State} {l : List (BitVec 128)} (h : s.accAllowed n = true)
    (hr : s.accRoom s.th.site = true) (hc : s.check (s.gr a) (plainAddress (s.gr a)) (cacheReq 64 false) = .ok pa)
    (hl : s.lineLoad (s.gr a) pa 4 [] = .ok (t, l)) (hw : t.anyWatch = false) :
    execAccr a b n s = done (t.accPost t.th.site (.product t.th.slot n (accRow (s.gr b)) 1 (lineAddends l (s.gr b)))) := by
  rw [execAccr, if_neg (by simp [h]), if_neg (by simp [hr])]
  simp only [hc, hl]
  rw [State.threadTouch_of_quiet _ _ _ _ _ _ _ (by exact hw)]
  rfl

/-! ### Reading (R404, R409, R410) -/

theorem readAcc_of_claimed (k : State → AccStore → Result) (h : s.accAllowed n = false) : readAcc s n k = trapNow s 0x0C :=
  if_pos (by simp [h])

theorem readAcc_of_empty (k : State → AccStore → Result) (h : s.accAllowed n = true) (hq : s.accQueue s.th.site = []) :
    readAcc s n k = k s (s.site s.th.site).acc := by
  rw [readAcc, if_neg (by simp [h]), hq]
  simp only [List.length_nil, State.accDrain]
  rw [if_pos (by simp [hq])]

theorem State.raiseFlags_zero (s : State) : s.raiseFlags 0 = s := by simp [State.raiseFlags]

theorem execAccn_of_claimed (d b : Reg) (h : s.accAllowed n = false) : execAccn d b n s = trapNow s 0x0C := by
  rw [execAccn, readAcc_of_claimed _ h]

theorem execAccx_of_claimed (d b : Reg) (h : s.accAllowed n = false) : execAccx d b n s = trapNow s 0x0C := by
  rw [execAccx, readAcc_of_claimed _ h]

theorem execAccn_of_empty (d b : Reg) (h : s.accAllowed n = true) (hq : s.accQueue s.th.site = []) :
    execAccn d b n s = doneInt s d (accState (s.site s.th.site).acc n (s.gr b)) 0 1 := by
  rw [execAccn, readAcc_of_empty _ h hq, doneInt, State.raiseFlags_zero]

theorem execAccx_of_raw {d b : Reg} (h : s.accAllowed n = true) (hq : s.accQueue s.th.site = []) (hraw : bit (s.gr b) 8 = true) :
    execAccx d b n s =
      doneInt s d ((s.site s.th.site).acc.rows[n][accRow (s.gr b)].raw (fin 16 (accElem (s.gr b)))) 0 1 := by
  rw [execAccx, readAcc_of_empty _ h hq, doneInt, State.raiseFlags_zero]
  exact if_pos hraw

theorem execAccx_of_rounded {d b : Reg} {v : Nat × Flags} (h : s.accAllowed n = true) (hq : s.accQueue s.th.site = [])
    (hraw : bit (s.gr b) 8 = false)
    (hv : v = (s.site s.th.site).acc.rows[n][accRow (s.gr b)].convert (fin 16 (accElem (s.gr b))) (fmtOf .f32) s.roundMode 0) :
    execAccx d b n s = doneInt s d (BitVec.ofNat 64 v.1) v.2 1 := by
  rw [execAccx, readAcc_of_empty _ h hq, hv]
  exact if_neg (by simp [hraw])

end

/-! ### A clear is applied (R396, R403) -/

theorem State.mayApply_of_unclaimed {s : State} {k : Nat} {ev : AccEvent} (h : s.claimOf k ev.slot = none) : s.mayApply k ev = true := by
  unfold State.mayApply
  rw [h]

theorem State.claimOf_setSite_self (s : State) (k : Nat) (y : Site) (n : Fin 4) : (s.setSite k y).claimOf k n = y.acc.claim[n] := by
  rw [State.claimOf, State.site_setSite, if_pos rfl]

theorem State.accApply_of_clear {s : State} {k id : Nat} {n : Fin 4} {q : List AccEvent} (hq : (s.site k).acc.queue = .clear id n :: q)
    (hc : s.claimOf k n = none) : s.accApply k =
      (s.setSite k { s.site k with acc := { (s.site k).acc with queue := q } }).applyEvent k (.clear id n) := by
  have hmay : s.mayApply k (.clear id n) = true := State.mayApply_of_unclaimed hc
  have hclaim : (s.site k).acc.claim[n] = none := hc
  rw [State.accApply, hq]
  simp only [takeFirst, hmay, if_true, AccEvent.slot, State.claimOf_setSite_self, hclaim]

/-- Settles O48: posts go through `postAcc`, reads through `readAcc`, and a clear of an unclaimed slot is applied in its turn. -/
theorem accumulatorStore : Obligations.AccumulatorStore := by
  intro d a b n s k hk row scale posts
  subst hk
  have hrow : accRow (s.gr b) = row := accRow_eq _
  have hscale : accScale (s.gr b) = scale := accScale_eq _
  refine ⟨fun h => ?claimed, State.accAllowed_of_control n, fun h hroom => ?posted, fun h hfull => ?full, fun m x q hq hc => ?cleared,
    fun h hq _ => ?read⟩
  case claimed =>
    simp only [List.forall_mem_cons]
    exact ⟨postAcc_of_claimed _ _ h, execAccr_of_claimed a b h, postAcc_of_claimed _ _ h, execAccn_of_claimed d b h,
      execAccx_of_claimed d b h,
      by simp⟩
  case posted =>
    have hr := (s.accRoom_iff s.th.site).mpr hroom
    have hposts {i : Instr} {ev : AccEvent} (hi : exec i s = postAcc s n ev done) : posts i ev :=
      ⟨_, hi.trans (postAcc_of_room _ _ h hr), s.accPost_queue _ ev, rfl, rfl, fun m hm => s.accPost_site_other ev hm⟩
    refine ⟨hposts ?_, hposts rfl, fun pa t l hc hl hw hsite hplace => ?_⟩
    · rw [← accElem_eq, ← hscale, ← hrow, ← bits_zero (s.gr a) 19, ← bits_eq_div_mod (s.gr a) 19 19]
      rfl
    · have hk : t.th.site = s.th.site := congrArg (fun p => Thread.site { s.th with place := p }) hplace
      have hslot : t.th.slot = s.th.slot := congrArg (fun p => Thread.slot { s.th with place := p }) hplace
      have hqueue : t.accQueue s.th.site = s.accQueue s.th.site := congrArg (·.acc.queue) hsite
      have hex := execAccr_of_room (b := b) h hr ((congrArg (s.check _ · _) (bits_zero ..)).trans hc) hl hw
      rw [hk, hslot, hrow] at hex
      refine ⟨_, _, hex, (t.accPost_queue _ _).trans (congrArg (· ++ _) hqueue), by simp [lineAddends], fun j w hw => ?_, rfl, rfl⟩
      rw [lineAddends, List.getElem?_mapIdx, hw, hscale]
      rfl
  case full =>
    have hr : ¬ s.accRoom s.th.site = true := by rw [s.accRoom_iff]; omega
    simp only [List.forall_mem_cons]
    exact ⟨postAcc_of_full _ _ h hr, execAccr_of_full a b h hr, postAcc_of_full _ _ h hr, by simp⟩
  case cleared =>
    refine ⟨_, congrArg Host.Outcome.next (State.accApply_of_clear hq hc), ?_⟩
    simp only [State.applyEvent, State.accQueue, State.site_setSite, if_true, AccStore.clearSlot, Fin.getElem_fin, Vector.getElem_set_self,
      true_and]
    exact ⟨fun j hj => Vector.getElem_set_ne _ _ (by omega), rfl⟩
  case read =>
    have hj : fin 16 (accElem (s.gr b)) = Fin.ofNat 16 ((s.gr b).toNat / 16 % 16) := congrArg (fin 16) (accElem_eq _)
    refine ⟨writesG_of_doneInt (execAccn_of_empty d b h hq), fun hraw => ?_, fun hraw v hv => ?_⟩
    · rw [← hj]
      exact writesG_of_doneInt (execAccx_of_raw h hq hraw)
    · rw [← hj] at hv
      exact writesG_of_doneInt (execAccx_of_rounded h hq hraw hv)

end Sys2Proof.Machine
end

section
/-!
SUPPORT. Commands that act on every instance they name, and the reads of a sequencer, which raise time stamps only.
-/
namespace Sys2Proof.Machine

/-! ### The requests of an engine (R244) -/

/-- Whether a state is as another, but for the stamps of interfaces. -/
def SameButStamps (s t : State) : Prop := t = { s with stamps := t.stamps }

theorem SameButStamps.refl (s : State) : SameButStamps s s := rfl

theorem SameButStamps.trans {s t u : State} (h : SameButStamps s t) (h' : SameButStamps t u) : SameButStamps s u := by
  unfold SameButStamps at *
  rw [h', h]

theorem sameButStamps_of_stamps {s t : State} (h : ∃ st, t = { s with stamps := st }) : SameButStamps s t := by
  obtain ⟨st, rfl⟩ := h
  rfl

theorem State.engineAsk_same (s : State) (src pa : Nat) : SameButStamps s (s.engineAsk src pa) := by
  unfold State.engineAsk
  split
  · exact (sameButStamps_of_stamps (s.send_stamps _ _)).trans (sameButStamps_of_stamps (State.send_stamps _ _ _))
  · exact .refl s

/-- A fold of operations that each change stamps only. -/
theorem sameButStamps_foldl {α : Type} {f : State → α → State} (hf : ∀ s a, SameButStamps s (f s a)) (l : List α) (s : State) :
    SameButStamps s (l.foldl f s) := by
  induction l generalizing s with
  | nil => exact .refl s
  | cons a l ih => exact (hf s a).trans (ih (f s a))

theorem State.askWords_same (s : State) (src : Nat) (c : Fin 16) (va n : Nat) : SameButStamps s (s.askWords src c va n) := by
  refine sameButStamps_foldl (fun s k => ?_) _ s
  split
  · exact s.engineAsk_same _ _
  · exact .refl s

/-! ### The instances that a command names (R329) -/

/-- Whether a command of context `c` names an instance. -/
def Inst.namedBy (x : Inst) (c : Fin 16) (slot : Nat) (num : BitVec 10) : Bool :=
  decide (x.ctx = c) && decide (x.slot = slot) && (decide (num = 0x3FF) || decide (x.num = num.toNat))

theorem State.mem_named (s : State) (c : Fin 16) (slot : Nat) (num : BitVec 10) (i : Nat) :
    i ∈ s.named c slot num ↔ ∃ x, s.insts[i]? = some x ∧ x.namedBy c slot num = true := by
  simp only [State.named, State.instsOf, List.mem_map, List.mem_filter, Prod.exists, Inst.namedBy, Bool.and_eq_true, Bool.or_eq_true,
    beq_iff_eq, decide_eq_true_eq, List.mem_zipIdx_iff_getElem?]
  constructor
  · rintro ⟨j, y, ⟨⟨x, k, ⟨hx, hc, hs⟩, hj⟩, hn⟩, rfl⟩
    obtain ⟨rfl, rfl⟩ := Prod.mk.inj hj
    exact ⟨x, hx, ⟨hc, hs⟩, hn⟩
  · rintro ⟨x, hx, ⟨hc, hs⟩, hn⟩
    exact ⟨i, x, ⟨⟨x, i, ⟨hx, hc, hs⟩, rfl⟩, hn⟩, rfl⟩

theorem State.named_nodup (s : State) (c : Fin 16) (slot : Nat) (num : BitVec 10) : (s.named c slot num).Nodup := by
  have hsub : (s.named c slot num).Sublist (s.insts.zipIdx.map Prod.snd) := by
    unfold State.named State.instsOf
    refine (List.filter_sublist.map _).trans ?_
    rw [List.map_map]
    exact List.filter_sublist.map _
  rw [List.zipIdx_map_snd] at hsub
  exact hsub.nodup List.nodup_range'

theorem State.named_isEmpty (s : State) (c : Fin 16) (slot : Nat) (num : BitVec 10) :
    (s.named c slot num).isEmpty = !(s.insts.any fun x => x.namedBy c slot num) := by
  rw [Bool.eq_iff_iff, List.isEmpty_iff, List.eq_nil_iff_forall_not_mem, Bool.not_eq_true', List.any_eq_false]
  simp only [s.mem_named, not_exists, not_and]
  constructor
  · intro h x hx
    obtain ⟨i, hi⟩ := List.mem_iff_getElem?.mp hx
    exact h i x hi
  · exact fun h i x hx => h x (List.mem_of_getElem? hx)

theorem State.updInst_insts (s : State) (i : Nat) (g : Inst → Inst) :
    s.updInst i g = { s with insts := s.insts.mapIdx fun j x => if j = i then g x else x } := by
  unfold State.updInst
  split
  next x hx =>
    refine congrArg (fun l => { s with insts := l }) (List.ext_getElem? fun j => ?_)
    rw [setAt, List.getElem?_set, List.getElem?_mapIdx]
    by_cases hj : i = j
    · subst hj
      rw [if_pos rfl, if_pos (List.getElem?_eq_some_iff.mp hx).1, hx, Option.map_some, if_pos rfl]
    · simp [hj, Ne.symm hj]
  next hx =>
    have hlen : s.insts.length ≤ i := List.getElem?_eq_none_iff.mp hx
    have hkeep : (s.insts.mapIdx fun j x => if j = i then g x else x) = s.insts := by
      refine List.ext_getElem (by simp) fun j h₁ h₂ => ?_
      rw [List.getElem_mapIdx, if_neg (by omega)]
    rw [hkeep]

/-- An operation on the instances at some places, no place twice. -/
theorem foldl_updInst (g : Inst → Inst) (l : List Nat) (hl : l.Nodup) (s : State) :
    l.foldl (fun (s : State) i => s.updInst i g) s = { s with insts := s.insts.mapIdx fun i x => if i ∈ l then g x else x } := by
  induction l generalizing s with
  | nil =>
    have hkeep : (s.insts.mapIdx fun i x => if i ∈ ([] : List Nat) then g x else x) = s.insts := List.ext_getElem (by simp) (by simp)
    rw [hkeep]
    rfl
  | cons a l ih =>
    obtain ⟨hnew, hl⟩ := List.nodup_cons.mp hl
    rw [List.foldl_cons, ih hl, State.updInst_insts]
    refine congrArg (fun l => { s with insts := l }) ?_
    rw [List.mapIdx_mapIdx]
    refine congrArg (List.mapIdx · s.insts) (funext fun i => funext fun x => ?_)
    by_cases hi : i = a
    · simp [hi, hnew]
    · simp [hi]

/-- A command that changes each named instance by itself. -/
theorem onInsts_eq (slot : BitVec 3) (num : BitVec 10) (s : State) (g : Inst → Inst) :
    onInsts slot num s (fun s i x => s.setInst i (g x)) =
      if s.insts.any (fun x => x.namedBy s.cmd.ctx slot.toNat num) then
        .next { s with insts := s.insts.map fun x => if x.namedBy s.cmd.ctx slot.toNat num then g x else x }
      else refused s := by
  unfold onInsts
  simp only [s.named_isEmpty]
  cases s.insts.any fun x => x.namedBy s.cmd.ctx slot.toNat num with
  | false => rfl
  | true =>
    refine congrArg Host.Outcome.next ((foldl_updInst g _ (s.named_nodup ..) s).trans ?_)
    refine congrArg (fun l => { s with insts := l }) (List.ext_getElem? fun i => ?_)
    rw [List.getElem?_mapIdx, List.getElem?_map]
    cases hx : s.insts[i]? with
    | none => rfl
    | some x =>
      have hmem : i ∈ s.named s.cmd.ctx slot.toNat num ↔ x.namedBy s.cmd.ctx slot.toNat num = true := by
        rw [s.mem_named]
        simp [hx]
      simp only [Option.map_some, hmem]

section
variable {s u : State} {slot : BitVec 3} {num : BitVec 10}

/-- On an instance that is named it acts, after reads that have raised stamps only. -/
theorem onInsts_of_named (hu : SameButStamps s u) (g : Inst → Inst) (h : s.insts.any (·.namedBy s.cmd.ctx slot.toNat num) = true) :
    ∃ t, onInsts slot num u (fun s i x => s.setInst i (g x)) = .next t ∧ t = { s with insts := t.insts, stamps := t.stamps } ∧
      t.stamps = u.stamps ∧ t.insts = s.insts.map fun x => if x.namedBy s.cmd.ctx slot.toNat num then g x else x := by
  rw [onInsts_eq, hu]
  exact ⟨_, if_pos h, rfl, rfl, rfl⟩

theorem onInsts_of_unnamed (hu : SameButStamps s u) (g : Inst → Inst) (h : s.insts.any (·.namedBy s.cmd.ctx slot.toNat num) = false) :
    onInsts slot num u (fun s i x => s.setInst i (g x)) = refused u := by
  rw [onInsts_eq, hu]
  exact if_neg (by simp [h])

end

/-! ### Each command on its own (R341, R342, R381, R413) -/

theorem staged_eq (s : State) (c : Fin 16) (slot : BitVec 3) : (s.ctx c).slots[fin 8 slot.toNat] = (s.ctx c).slots[slot.toFin] := by
  have hslot : fin 8 slot.toNat = slot.toFin := Fin.ext (Nat.mod_eq_of_lt slot.isLt)
  exact congrArg (fun k : Fin 8 => (s.ctx c).slots[k]) hslot

theorem fin_ofNat_port : ∀ p : Fin 4, fin 4 (BitVec.ofNat 2 p.val).toNat = p := by decide

theorem tokenFlits_eq (ety : Nat) (v : Word) : tokenFlits ety v =
    [headerFlit (headerWord ety 0 0 0 0) false, dataFlit (BitVec.ofNat 64 (v.toNat % 2 ^ laneWidth ety)) 0x08 false] := by
  rw [tokenFlits, field_zero_bits]

section
variable {s : State} {slot : BitVec 3} {cfg : Config}

section
variable (h : (s.ctx s.cmd.ctx).slots[slot.toFin] = none)
include h

theorem execSbndT_of_unstaged (q : CmdQual) (num page : BitVec 10) (port : BitVec 2) (tag : BitVec 4) :
    execSbndT q slot num page port tag s = refused s := by
  rw [execSbndT, staged_eq, h]

theorem execShdr_of_unstaged (q : CmdQual) (ep : BitVec 8) (num : BitVec 10) (scale : BitVec 8) (tslot : BitVec 2) (en : Bool) :
    execShdr q ep slot num scale tslot en s = refused s := by
  rw [execShdr, staged_eq, h]

theorem execSbnd_of_unstaged (q : CmdQual) (ep : BitVec 8) (num : BitVec 10) (value : Word) (ety : BitVec 4) :
    execSbnd q ep slot num value ety s = refused s := by
  rw [execSbnd, staged_eq, h]

theorem execSdor_of_unstaged (q : CmdQual) (door : BitVec 8) (num : BitVec 10) (blk : BitVec 48) :
    execSdor q door slot num blk s = refused s := by
  unfold execSdor
  simp only [staged_eq, h]

end

section
variable (h : (s.ctx s.cmd.ctx).slots[slot.toFin] = some cfg)
include h

theorem execSbndT_of_staged (q : CmdQual) (num page : BitVec 10) (port : Fin 4) (tag : BitVec 4) :
    execSbndT q slot num page (BitVec.ofNat 2 port) tag s = if cfg.pages.length ≤ page.toNat then refused s
      else onInsts slot num s fun s i x => s.setInst i (x.setPort page.toNat port { x.port page.toNat port with btag := tag }) := by
  unfold execSbndT
  simp only [staged_eq, h, fin_ofNat_port]

theorem execShdr_of_staged (q : CmdQual) (ep : BitVec 8) (num : BitVec 10) (scale : BitVec 8) (tslot : BitVec 2) (en : Bool) :
    execShdr q ep slot num scale tslot en s = if cfg.isOutput ep.toNat then refused s
      else onInsts slot num s fun s i x =>
        s.setInst i (x.setArm { x.arm ep.toNat with editN := some (if en then some (scale, tslot) else none) }) := by
  rw [execShdr, staged_eq, h]

theorem execSbnd_of_staged (q : CmdQual) (ep : BitVec 8) (num : BitVec 10) (value : Word) (ety : BitVec 4) :
    execSbnd q ep slot num value ety s = if cfg.isOutput ep.toNat ∨ 8 ≤ ety.toNat then refused s
      else onInsts slot num s fun s i x =>
        s.setInst i ((x.setArm { x.arm ep.toNat with fed := (x.arm ep.toNat).fed ++
          [headerFlit (headerWord ety.toNat 0 0 0 0) false,
           dataFlit (BitVec.ofNat 64 (value.toNat % 2 ^ laneWidth ety.toNat)) 0x08 false] }).flushTokens ep.toNat 2) := by
  rw [execSbnd, staged_eq, h, tokenFlits_eq]

theorem execSdor_of_outside (q : CmdQual) {door : BitVec 8} (num : BitVec 10) (blk : BitVec 48) (hd : cfg.doors.length ≤ door.toNat) :
    execSdor q door slot num blk s = refused s := by
  unfold execSdor
  simp only [staged_eq, h]
  exact if_pos hd

/-- The block is read before the door is bound or the command refused. -/
theorem execSdor_of_read (q : CmdQual) {door : BitVec 8} (num : BitVec 10) {blk : BitVec 48} {stk arg : Word}
    (hd : door.toNat < cfg.doors.length) (hw : s.engineWords s.cmd.ctx (blk.toNat * 16) 4 = .ok [stk, arg, 0, 0]) :
    execSdor q door slot num blk s =
      let u := s.askWords (seqKey s.cmd.ctx) s.cmd.ctx (blk.toNat * 16) 4
      if bits stk 0 4 ≠ 0 ∨ bits stk 52 6 ≠ 0 then refused u
      else onInsts slot num u fun s i x => s.setInst i (x.setSerai door.toNat { x.serai door.toNat with bound := some (stk, arg) }) := by
  unfold execSdor
  simp only [staged_eq, h, hw]
  rw [if_neg (by omega)]
  simp

end

end

/-- Settles O51: each of these commands is refused or `onInsts` of what it does to one instance. -/
theorem instanceCommands : Obligations.InstanceCommands := by
  intro q s slot num ep scale ety8 count page port tag tslot abs en blk value ety c hit refuses does acts staged
  have hacts {i : Instr} {g : Inst → Inst} (hi : exec i s = onInsts slot num s fun s i x => s.setInst i (g x)) : acts i g := by
    refine ⟨fun h => ?_, fun h => ⟨s, rfl, fun _ => rfl, hi.trans (onInsts_of_unnamed (.refl s) g h)⟩⟩
    obtain ⟨t, ht, hframe, hstamps, hinsts⟩ := onInsts_of_named (.refl s) g h
    exact ⟨t, hi.trans ht, hframe, fun _ => hstamps, hinsts⟩
  refine ⟨hacts rfl, fun hnone => ?_, fun cfg hcfg => ⟨fun hpage => hacts ?_, fun hpage => ?_, fun hin => ⟨hacts ?_, fun hety => hacts ?_,
    fun hety => ?_⟩, fun hout => ⟨?_, ?_⟩, fun hdoor => ?_, fun stk arg hdoor hw => ⟨fun h0 h52 => ?_, fun hbad => ?_⟩⟩⟩
  · simp only [List.forall_mem_cons]
    exact ⟨execSbndT_of_unstaged hnone q .., execShdr_of_unstaged hnone q .., execSbnd_of_unstaged hnone q ..,
      execSdor_of_unstaged hnone q .., by simp⟩
  · exact (execSbndT_of_staged hcfg q ..).trans (if_neg (by omega))
  · exact (execSbndT_of_staged hcfg q ..).trans (if_pos hpage)
  · exact (execShdr_of_staged hcfg q ..).trans (if_neg (by simp [hin]))
  · exact (execSbnd_of_staged hcfg q ..).trans (if_neg (by simp [hin]; omega))
  · exact (execSbnd_of_staged hcfg q ..).trans (if_pos (.inr hety))
  · exact (execShdr_of_staged hcfg q ..).trans (if_pos hout)
  · exact (execSbnd_of_staged hcfg q ..).trans (if_pos (.inl hout))
  · exact execSdor_of_outside hcfg q _ _ hdoor
  · have hu := s.askWords_same (seqKey c) c (blk.toNat * 16) 4
    have hex := (execSdor_of_read hcfg q num hdoor hw).trans (if_neg (by simp [h0, h52]))
    refine ⟨fun h => ?_, fun h => ⟨_, hu, fun hasked => absurd hasked (by simp), hex.trans (onInsts_of_unnamed hu _ h)⟩⟩
    obtain ⟨t, ht, hframe, -, hinsts⟩ := onInsts_of_named hu _ h
    exact ⟨t, hex.trans ht, hframe, fun hasked => absurd hasked (by simp), hinsts⟩
  · exact ⟨_, s.askWords_same _ _ _ _, (execSdor_of_read hcfg q num hdoor hw).trans (if_pos hbad)⟩

end Sys2Proof.Machine
end

section
/-!
SUPPORT. The firing of a router operator: what taking and sending a flit change, and what a firing has come to so far.
-/
namespace Sys2Proof.Machine

/-! ### Taking a flit (R277, R278) -/

/-- What an element is after its router has taken the flit at the head of a channel: the flit has left, or waits for the node. -/
structure PE.Took (p q : PE) (ch : Fin 16) : Prop where
  router : q.router = p.router
  credit : q.credit = p.credit
  ins    : ∀ j, j ≠ ch → q.ins[j] = p.ins[j]
  tookR  : ∀ j : Fin 16, j ≠ ch → bit q.tookR j = bit p.tookR j
  gone   : bit q.tookR ch = true ∨ q.ins[ch] = p.ins[ch].drop 1

theorem bit_setBits_ne {w : BitVec 16} {j ch : Fin 16} (v : Nat) (h : j ≠ ch) : bit (setBits w ch 1 v) j = bit w j :=
  bit_setBits_other w v (by omega)

theorem Inst.take_eq (x : Inst) (page pe : Nat) (ch : Fin 16) : ∃ (q : PE) (l : List Wire),
    x.take page pe false ch = { x.setPe page pe q with credits := l } ∧ (x.peAt page pe).Took q ch := by
  unfold Inst.take
  extract_lets p p' tn tr freeN freeR y
  have hins (j : Fin 16) (hj : j ≠ ch) : (p'.ins.set ch (p'.ins[ch].drop 1))[j] = p.ins[j] := Vector.getElem_set_ne _ _ (by omega)
  split
  · have htook : p.Took { p' with ins := p'.ins.set ch (p'.ins[ch].drop 1), tookN := setBits tn ch 1 (bits p'.nextN ch 1),
                                  nextN := setBits p'.nextN ch 1 0, tookR := setBits tr ch 1 0 } ch :=
      ⟨rfl, rfl, hins, fun j hj => (bit_setBits_ne 0 hj).trans (bit_setBits_ne 1 hj), .inr (Vector.getElem_set_self _)⟩
    split
    · exact ⟨_, _, rfl, htook⟩
    · exact ⟨_, _, rfl, htook⟩
  · exact ⟨_, _, rfl, rfl, rfl, fun _ _ => rfl, fun j hj => bit_setBits_ne 1 hj, .inl (bit_setBits_same p.tookR 1 ch.isLt)⟩

theorem Inst.peAt_take (x : Inst) (page pe : Nat) (ch : Fin 16) :
    (x.peAt page pe).Took ((x.take page pe false ch).peAt page pe) ch := by
  obtain ⟨q, l, hx, hq⟩ := x.take_eq page pe ch
  rw [hx]
  exact (x.peAt_setPe page pe q).symm ▸ hq

/-! ### Sending a flit (R278) -/

/-- What an element is after a flit has left it: only credits have changed. -/
structure PE.Sent (p q : PE) : Prop where
  router : q.router = p.router
  ins    : q.ins = p.ins
  tookR  : q.tookR = p.tookR

theorem Inst.peAt_send (x : Inst) (page pe : Nat) (m : BitVec 16) (d : Flit) :
    (x.peAt page pe).Sent ((x.send page pe m d).peAt page pe) := by
  unfold Inst.send
  refine List.foldlRecOn (motive := fun y : Inst => (x.peAt page pe).Sent (y.peAt page pe)) _ _ ⟨rfl, rfl, rfl⟩ fun y hy c _ => ?_
  have hset (q : PE) (l : List Wire) : ({ y.setPe page pe q with wires := l } : Inst).peAt page pe = q := y.peAt_setPe page pe q
  dsimp only
  rw [hset]
  exact ⟨hy.router, hy.ins, hy.tookR⟩

theorem Flit.poison_poison (d : Flit) : d.poison.poison = d.poison := by
  simp only [Flit.poison]
  congr 1
  generalize d.ctl = c
  revert c
  decide

theorem Flit.poison_psn (d : Flit) : d.poison.psn = true := by
  simp only [Flit.poison, Flit.psn]
  generalize d.ctl = c
  revert c
  decide

/-- A flit sent under a decision stands on the link poisoned where it or the decision is. -/
theorem onWire_decided (psn : Bool) (d : Flit) : (if psn then d.poison else d).onWire = if psn || d.psn then d.poison else d := by
  cases psn with
  | false => rfl
  | true => exact (if_pos d.poison_psn).trans d.poison_poison

/-! ### Channels of a mask (R278, R310) -/

theorem mem_maskChans {m : BitVec 16} {ch : Fin 16} : ch ∈ maskChans m ↔ bit m ch = true := by simp [maskChans]

theorem maskChans_zero : maskChans 0 = [] := by decide

theorem Inst.space_iff (x : Inst) (page pe : Nat) (m : BitVec 16) :
    x.space page pe m = true ↔ ∀ ch ∈ maskChans m, 0 < (x.peAt page pe).credit[ch] := by
  simp [Inst.space]

/-- The bits that a list of channels sets. -/
theorem bit_foldl_setBits (p : Fin 16 → Bool) (l : List (Fin 16)) (m : BitVec 16) (j : Fin 16) :
    bit (l.foldl (fun (m : BitVec 16) (k : Fin 16) => if p k then setBits m k.val 1 1 else m) m) j =
      (bit m j || (decide (j ∈ l) && p j)) := by
  induction l generalizing m with
  | nil => simp
  | cons a l ih =>
    rw [List.foldl_cons, ih]
    by_cases hj : j = a
    · subst hj
      cases hp : p j with
      | false => simp
      | true => simp [bit_setBits_same _ _ j.isLt]
    · cases hp : p a with
      | false => simp [hj]
      | true => simp [hj, bit_setBits_ne _ hj]

theorem Routing.maskChans_chans (f : Routing) (dones : Bool) :
    maskChans (f.chans dones) = (maskChans f.r.oa).filter fun (ch : Fin 16) => f.x.doneChan f.page f.pe ch == dones := by
  rw [maskChans, maskChans, List.filter_filter]
  refine List.filter_congr fun j _ => ?_
  rw [Routing.chans, bit_foldl_setBits]
  have hzero : bit (0 : BitVec 16) j = false := BitVec.getLsbD_zero ..
  have hmem : decide (j ∈ maskChans f.r.oa) = bit f.r.oa j := by rw [Bool.eq_iff_iff, decide_eq_true_iff, mem_maskChans]
  rw [hzero, hmem, Bool.false_or, Bool.and_comm]

/-! ### What a firing has come to (R277, R278) -/

theorem Inst.peAt_updRouter (x : Inst) (page pe : Nat) (g : RouterState → RouterState) :
    (x.updRouter page pe g).peAt page pe = { x.peAt page pe with router := g (x.peAt page pe).router } := x.peAt_setPe page pe _

/-- An instance `y` that has come from `x` by a firing of the router of an element, which has taken the flits of some channels and put
some on their way. -/
structure Inst.Moved (x y : Inst) (page pe : Nat) (taken : List (BitVec 4)) (w : List Wire) : Prop where
  wires  : y.wires = x.wires ++ w
  credit : w = [] → (y.peAt page pe).credit = (x.peAt page pe).credit
  ins    : ∀ c : BitVec 4, c ∉ taken → (y.peAt page pe).ins[c.toFin] = (x.peAt page pe).ins[c.toFin]
  tookR  : ∀ c : BitVec 4, c ∉ taken → bit (y.peAt page pe).tookR c.toFin = bit (x.peAt page pe).tookR c.toFin
  gone   : ∀ c ∈ taken, bit (y.peAt page pe).tookR c.toFin = true ∨
    (y.peAt page pe).ins[c.toFin] = (x.peAt page pe).ins[c.toFin].drop 1

section Moved

variable {x y : Inst} {page pe : Nat} {taken : List (BitVec 4)} {w : List Wire}

theorem Inst.Moved.refl (x : Inst) (page pe : Nat) : x.Moved x page pe [] [] :=
  ⟨(List.append_nil _).symm, fun _ => rfl, fun _ _ => rfl, fun _ _ => rfl, fun _ h => absurd h List.not_mem_nil⟩

theorem Inst.Moved.head (h : x.Moved y page pe taken w) {c : BitVec 4} (hc : c ∉ taken) :
    y.head page pe c.toFin false = x.head page pe c.toFin false := by
  simp only [Inst.head, Bool.false_eq_true, if_false]
  rw [h.ins c hc, h.tookR c hc]

theorem Inst.Moved.space (h : x.Moved y page pe taken []) (m : BitVec 16) : y.space page pe m = x.space page pe m := by
  rw [Inst.space, Inst.space, h.credit rfl]

theorem Inst.Moved.left (h : x.Moved y page pe taken w) : ∀ c ∈ taken, y.head page pe c.toFin false = none ∨
    (y.peAt page pe).ins[c.toFin] = (x.peAt page pe).ins[c.toFin].drop 1 := by
  intro c hc
  refine (h.gone c hc).imp_left fun hbit => ?_
  simp only [Inst.head, Bool.false_eq_true, if_false, hbit, if_true]

theorem Inst.Moved.updRouter (h : x.Moved y page pe taken w) (g : RouterState → RouterState) :
    x.Moved (y.updRouter page pe g) page pe taken w := by
  constructor
  case wires => exact h.wires
  all_goals rw [Inst.peAt_updRouter]
  case credit => exact h.credit
  case ins => exact h.ins
  case tookR => exact h.tookR
  case gone => exact h.gone

theorem toFin_ne {c e : BitVec 4} (h : c ≠ e) : c.toFin ≠ e.toFin := fun he => h (BitVec.toFin_inj.mp he)

theorem Inst.Moved.take (h : x.Moved y page pe taken w) {e : BitVec 4} (he : e ∉ taken) :
    x.Moved (y.take page pe false e.toFin) page pe (taken ++ [e]) w := by
  have htook := y.peAt_take page pe e.toFin
  constructor
  case wires => exact (y.take_wires ..).trans h.wires
  case credit => exact fun hw => htook.credit.trans (h.credit hw)
  all_goals
    intro c hc
    simp only [List.mem_append, List.mem_singleton, not_or] at hc
  case ins => exact (htook.ins _ (toFin_ne hc.2)).trans (h.ins c hc.1)
  case tookR => exact (htook.tookR _ (toFin_ne hc.2)).trans (h.tookR c hc.1)
  case gone =>
    by_cases hce : c = e
    · subst hce
      rw [← h.ins c he]
      exact htook.gone
    · rw [htook.ins _ (toFin_ne hce), htook.tookR _ (toFin_ne hce)]
      exact h.gone c (hc.resolve_right hce)

theorem Inst.Moved.send (h : x.Moved y page pe taken []) (m : BitVec 16) (d : Flit) :
    x.Moved (y.send page pe m d) page pe taken
      ((maskChans m).map fun (ch : Fin 16) => { page := page, pe := pe, ch := ch, flit := d.onWire }) := by
  have hsent := y.peAt_send page pe m d
  constructor
  case wires => rw [Inst.send_wires, h.wires, List.append_nil]
  case credit =>
    intro hnone
    unfold Inst.send
    rw [List.map_eq_nil_iff.mp hnone]
    exact h.credit rfl
  case ins => rw [hsent.ins]; exact h.ins
  case tookR => rw [hsent.tookR]; exact h.tookR
  case gone => rw [hsent.ins, hsent.tookR]; exact h.gone

end Moved

/-- What `Obligations.Routers` asks of a firing that takes flits of some channels, sends a flit into others and leaves the operator in a
state with a property. -/
def Becomes (s : State) (x : Inst) (res : Result) (taken : List (BitVec 4)) (l : List (Fin 16)) (f : Flit) (p : RouterState → Prop) :
    Prop :=
  ∃ (t : State) (y : Inst), res = .next t ∧ t.mem = s.mem ∧ t.insts[s.pe.inst]? = some y ∧
    y.wires = x.wires ++ l.map (fun ch => { page := s.pe.page, pe := s.pe.pe, ch := ch, flit := f }) ∧
    p (y.peAt s.pe.page s.pe.pe).router ∧ ∀ c ∈ taken, y.head s.pe.page s.pe.pe c.toFin false = none ∨
      (y.peAt s.pe.page s.pe.pe).ins[c.toFin] = (x.peAt s.pe.page s.pe.pe).ins[c.toFin].drop 1

/-- The firing of the operator under the cursor, with its instance as it has become. -/
def routingOf (r : RouterFields) (s : State) (y : Inst) : Routing :=
  { s := s, i := s.pe.inst, x := y, page := s.pe.page, pe := s.pe.pe, r := r }

theorem withRouter_eq {r : RouterFields} {s : State} {x : Inst} (hx : s.insts[s.pe.inst]? = some x) (ha : s.instActs x = true)
    (k : Routing → Result) : withRouter r s k = k (routingOf r s x) := by
  simp only [withRouter, hx, ha, if_true]
  rfl

section Firing

variable {r : RouterFields} {s : State} {x y : Inst} {taken : List (BitVec 4)} {l : List (Fin 16)} {d f : Flit} {p : RouterState → Prop}

theorem Becomes.imp {res : Result} {p q : RouterState → Prop} (h : Becomes s x res taken l f p) (hpq : ∀ u, p u → q u) :
    Becomes s x res taken l f q := by
  obtain ⟨t, y, ht, hmem, hy, hwires, hp, hgone⟩ := h
  exact ⟨t, y, ht, hmem, hy, hwires, hpq _ hp, hgone⟩

theorem routingOf_head (c : BitVec 4) : (routingOf r s y).head c = y.head s.pe.page s.pe.pe c.toFin false := by
  rw [← fin_toNat]
  rfl

theorem routingOf_take (c : BitVec 4) : (routingOf r s y).take c = routingOf r s (y.take s.pe.page s.pe.pe false c.toFin) := by
  rw [← fin_toNat]
  rfl

theorem routingOf_send (m : BitVec 16) (psn : Bool) (d : Flit) : (routingOf r s y).send m psn d =
    routingOf r s (y.send s.pe.page s.pe.pe m (if psn then d.poison else d)) := rfl

theorem routingOf_upd (g : RouterState → RouterState) :
    (routingOf r s y).upd g = routingOf r s (y.updRouter s.pe.page s.pe.pe g) := rfl

variable (hx : s.insts[s.pe.inst]? = some x)
include hx

/-- A firing that has come to its end. -/
theorem Inst.Moved.becomes (h : x.Moved y s.pe.page s.pe.pe taken
      (l.map fun (ch : Fin 16) => { page := s.pe.page, pe := s.pe.pe, ch := ch, flit := f }))
    (hp : p (y.peAt s.pe.page s.pe.pe).router) : Becomes s x (routingOf r s y).done taken l f p := by
  obtain ⟨hlt, -⟩ := List.getElem?_eq_some_iff.mp hx
  exact ⟨_, { y with active := s.instTime y }, rfl, rfl, List.getElem?_set_self hlt, h.wires, hp, h.left⟩

/-- A flit moves from a data input to the channels of a mask that has room (R303). -/
theorem moveFlit_becomes (h : x.Moved y s.pe.page s.pe.pe taken []) {input : BitVec 4} (hin : input ∉ taken)
    (hd : x.head s.pe.page s.pe.pe input.toFin false = some d) {mask : BitVec 16}
    (hroom : x.space s.pe.page s.pe.pe mask = true) (psn : Bool) (g : RouterState → Bool → RouterState)
    (hp : p (g { (y.peAt s.pe.page s.pe.pe).router with inUnit := !d.eot } d.eot)) :
    Becomes s x (moveFlit (routingOf r s y) input mask psn g) (taken ++ [input]) (maskChans mask)
      (if psn || d.psn then d.poison else d) p := by
  have hspace : (routingOf r s y).space mask = true := (h.space mask).trans hroom
  unfold moveFlit
  rw [routingOf_head, h.head hin, hd]
  dsimp only
  rw [if_pos hspace, routingOf_take, routingOf_send, routingOf_upd]
  have hmoved := ((h.take hin).send mask (if psn then d.poison else d)).updRouter fun st => g { st with inUnit := !d.eot } d.eot
  rw [onWire_decided] at hmoved
  refine hmoved.becomes hx ?_
  rw [Inst.peAt_updRouter, (Inst.peAt_send ..).router, (Inst.peAt_take ..).router]
  exact hp

/-- A flit is taken and nothing sent. -/
theorem take_becomes (h : x.Moved y s.pe.page s.pe.pe taken []) {input : BitVec 4} (hin : input ∉ taken)
    (hp : p (y.peAt s.pe.page s.pe.pe).router) :
    Becomes s x ((routingOf r s y).take input).done (taken ++ [input]) [] f p := by
  rw [routingOf_take]
  refine (h.take hin).becomes hx ?_
  rw [(Inst.peAt_take ..).router]
  exact hp

theorem takeUpd_becomes (h : x.Moved y s.pe.page s.pe.pe taken []) {input : BitVec 4} (hin : input ∉ taken)
    (g : RouterState → RouterState) (hp : p (g (y.peAt s.pe.page s.pe.pe).router)) :
    Becomes s x (((routingOf r s y).take input).upd g).done (taken ++ [input]) [] f p := by
  rw [routingOf_take, routingOf_upd]
  refine ((h.take hin).updRouter g).becomes hx ?_
  rw [Inst.peAt_updRouter, (Inst.peAt_take ..).router]
  exact hp

theorem sendUpd_becomes (h : x.Moved y s.pe.page s.pe.pe taken []) (mask : BitVec 16) (psn : Bool) (g : RouterState → RouterState)
    (hp : p (g (y.peAt s.pe.page s.pe.pe).router)) :
    Becomes s x (((routingOf r s y).send mask psn d).upd g).done taken (maskChans mask) (if psn || d.psn then d.poison else d) p := by
  rw [routingOf_send, routingOf_upd]
  have hmoved := (h.send mask (if psn then d.poison else d)).updRouter g
  rw [onWire_decided] at hmoved
  refine hmoved.becomes hx ?_
  rw [Inst.peAt_updRouter, (Inst.peAt_send ..).router]
  exact hp

end Firing

end Sys2Proof.Machine
end

section
/-!
SUPPORT. The operators and controllers of routers, each by the state it fires in.
-/
namespace Sys2Proof.Machine

theorem RouterState.hold_of_room {st : RouterState} (h : st.held.length < 16) (d : Flit) :
    st.hold d = { st with held := st.held ++ [d], full := d.eot } := by
  simp only [RouterState.hold, h, if_true]

section Operators

variable {r : RouterFields} {s : State} {x : Inst} {c d : Flit}

/-- The router's state of the element under the cursor. -/
def Inst.routerAt (x : Inst) (k : PeCursor) : RouterState := (x.peAt k.page k.pe).router

/-- The flit at the head of a channel that the router under the cursor has not taken. -/
def Inst.routerHead (x : Inst) (k : PeCursor) (ch : BitVec 4) : Option Flit := x.head k.page k.pe ch.toFin false

theorem head_of (ch : BitVec 4) : (routingOf r s x).head ch = x.routerHead s.pe ch := routingOf_head ch

theorem st_of : (routingOf r s x).st = x.routerAt s.pe := rfl

theorem withDecision_of_data (hc : x.routerHead s.pe r.ctl = some c) (hh : c.hdr = false) (k : Routing → Bool → Bool → Result) :
    withDecision (routingOf r s x) k = k (routingOf r s x) (!c.psn && c.data != 0) c.psn := by
  have hhead : (routingOf r s x).head (routingOf r s x).r.ctl = some c := (head_of r.ctl).trans hc
  rw [withDecision, hhead]
  exact if_neg (by simp [hh])

variable (hx : s.insts[s.pe.inst]? = some x)
include hx

/-- After a decision, the first flit of its unit moves. -/
theorem moveDecided_becomes {input : BitVec 4} {mask : BitVec 16} {p : RouterState → Prop} (hne : r.ctl ≠ input)
    (hd : x.routerHead s.pe input = some d) (hroom : x.space s.pe.page s.pe.pe mask = true) (psn : Bool) (g : RouterState → RouterState)
    (k : RouterState → Bool → RouterState) (hp : p (k { g (x.routerAt s.pe) with inUnit := !d.eot } d.eot)) :
    Becomes s x (moveFlit (((routingOf r s x).take r.ctl).upd g) input mask psn k) [r.ctl, input] (maskChans mask)
      (if psn || d.psn then d.poison else d) p := by
  have hmoved := ((Inst.Moved.refl x s.pe.page s.pe.pe).take (e := r.ctl) List.not_mem_nil).updRouter g
  rw [routingOf_take, routingOf_upd]
  refine moveFlit_becomes hx hmoved (by simp [Ne.symm hne]) hd hroom psn k ?_
  rw [Inst.peAt_updRouter, (Inst.peAt_take ..).router]
  exact hp

variable (ha : s.instActs x = true)
include ha

/-! ### STEER, GATE and MERGE (R304, R305) -/

theorem decided_inUnit {input : Bool → BitVec 4} {mask : Bool → BitVec 16} (hu : (x.routerAt s.pe).inUnit = true)
    (hd : x.routerHead s.pe (input (x.routerAt s.pe).dec) = some d)
    (hroom : x.space s.pe.page s.pe.pe (mask (x.routerAt s.pe).dec) = true) :
    Becomes s x (decided r input mask s) [input (x.routerAt s.pe).dec] (maskChans (mask (x.routerAt s.pe).dec))
      (if (x.routerAt s.pe).dpsn || d.psn then d.poison else d) fun u => u.inUnit = !d.eot ∧ u.dec = (x.routerAt s.pe).dec := by
  rw [decided, withRouter_eq hx ha]
  dsimp only
  rw [st_of, if_pos hu]
  exact moveFlit_becomes hx (.refl ..) List.not_mem_nil hd hroom _ _ ⟨rfl, rfl⟩

theorem decided_first {input : Bool → BitVec 4} {mask : Bool → BitVec 16} {dec : Bool} (hdec : dec = (!c.psn && c.data != 0))
    (hu : (x.routerAt s.pe).inUnit = false) (hc : x.routerHead s.pe r.ctl = some c) (hh : c.hdr = false)
    (hne : r.ctl ≠ input dec) (hd : x.routerHead s.pe (input dec) = some d) (hroom : x.space s.pe.page s.pe.pe (mask dec) = true) :
    Becomes s x (decided r input mask s) [r.ctl, input dec] (maskChans (mask dec)) (if c.psn || d.psn then d.poison else d)
      fun u => u.inUnit = !d.eot ∧ u.dec = dec ∧ u.dpsn = c.psn := by
  have hspace : (routingOf r s x).space (mask dec) = true := hroom
  rw [decided, withRouter_eq hx ha]
  dsimp only
  rw [st_of, if_neg (by simp [hu]), withDecision_of_data hc hh, ← hdec, head_of, hd]
  dsimp only
  rw [if_pos hspace]
  exact moveDecided_becomes hx hne hd hroom _ _ _ ⟨rfl, rfl, rfl⟩

/-! ### FORK (R306) -/

theorem execFork_becomes (hd : x.routerHead s.pe r.ia = some d) (hroom : x.space s.pe.page s.pe.pe r.oa = true) :
    Becomes s x (execFork r s) [r.ia] (maskChans r.oa) (if d.psn then d.poison else d) fun u => u.inUnit = !d.eot := by
  rw [execFork, withRouter_eq hx ha]
  exact moveFlit_becomes hx (.refl ..) List.not_mem_nil hd hroom false _ rfl

/-! ### SINK (R305) -/

theorem execSink_spec (hd : x.routerHead s.pe r.ia = some d) :
    ∃ (t : State) (y : Inst), execSink r s = .next t ∧ t.mem = s.mem ∧ t.insts[s.pe.inst]? = some y ∧ y.wires = x.wires ∧
      (y.retired = true ↔ x.retired = true ∨ x.cfg.sink = some (s.pe.page, s.pe.pe) ∧ d.last = true ∧ x.final = true ∧
        s.openHyp x.ctx x.hyp = true) := by
  obtain ⟨hlt, -⟩ := List.getElem?_eq_some_iff.mp hx
  obtain ⟨q, l, htake, -⟩ := x.take_eq s.pe.page s.pe.pe r.ia.toFin
  rw [execSink, withRouter_eq hx ha]
  dsimp only
  rw [head_of, hd]
  dsimp only
  rw [routingOf_take, htake]
  refine ⟨_, _, rfl, rfl, List.getElem?_set_self hlt, rfl, ?_⟩
  simp [routingOf, Inst.setPe, and_assoc]

/-! ### CARRY (R307) -/

theorem execCarry_init (hst : (x.routerAt s.pe).carry = .init) (hd : x.routerHead s.pe r.ia = some d)
    (hroom : x.space s.pe.page s.pe.pe r.oa = true) :
    Becomes s x (execCarry r s) [r.ia] (maskChans r.oa) (if d.psn then d.poison else d)
      fun u => u.carry = if d.eot then .loop else .init := by
  rw [execCarry, withRouter_eq hx ha]
  dsimp only
  rw [st_of, hst]
  exact moveFlit_becomes hx (.refl ..) List.not_mem_nil hd hroom false _ rfl

theorem execCarry_inUnit (hst : (x.routerAt s.pe).carry = .loop) (hu : (x.routerAt s.pe).inUnit = true)
    (hd : x.routerHead s.pe r.ib = some d) (hroom : x.space s.pe.page s.pe.pe r.oa = true) :
    Becomes s x (execCarry r s) [r.ib] (maskChans r.oa) (if (x.routerAt s.pe).dpsn || d.psn then d.poison else d)
      fun u => u.inUnit = !d.eot ∧ u.dec = (x.routerAt s.pe).dec := by
  rw [execCarry, withRouter_eq hx ha]
  dsimp only
  rw [st_of, hst]
  dsimp only
  rw [if_pos hu]
  exact moveFlit_becomes hx (.refl ..) List.not_mem_nil hd hroom _ _ ⟨rfl, rfl⟩

section Loop

variable (hst : (x.routerAt s.pe).carry = .loop) (hu : (x.routerAt s.pe).inUnit = false) (hc : x.routerHead s.pe r.ctl = some c)
  (hh : c.hdr = false)
include hst hu hc hh

theorem execCarry_again (hdec : (!c.psn && c.data != 0) = true) (hne : r.ctl ≠ r.ib) (hd : x.routerHead s.pe r.ib = some d)
    (hroom : x.space s.pe.page s.pe.pe r.oa = true) :
    Becomes s x (execCarry r s) [r.ctl, r.ib] (maskChans r.oa) (if c.psn || d.psn then d.poison else d)
      fun u => u.carry = .loop ∧ u.inUnit = !d.eot := by
  have hspace : (routingOf r s x).space r.oa = true := hroom
  rw [execCarry, withRouter_eq hx ha]
  dsimp only
  rw [st_of, hst]
  dsimp only
  rw [if_neg (by simp [hu]), withDecision_of_data hc hh, hdec, head_of, hd]
  dsimp only
  rw [if_neg (by decide), if_pos hspace]
  exact moveDecided_becomes hx hne hd hroom _ _ _ ⟨hst, rfl⟩

theorem execCarry_leave (hdec : (!c.psn && c.data != 0) = false) :
    Becomes s x (execCarry r s) [r.ctl] [] d fun u => u.carry = .drain := by
  rw [execCarry, withRouter_eq hx ha]
  dsimp only
  rw [st_of, hst]
  dsimp only
  rw [if_neg (by simp [hu]), withDecision_of_data hc hh, hdec]
  exact takeUpd_becomes hx (.refl ..) List.not_mem_nil _ rfl

end Loop

section Drain

variable (hst : (x.routerAt s.pe).carry = .drain)
include hst

theorem execCarry_discard (hd : x.routerHead s.pe r.ib = some d) :
    Becomes s x (execCarry r s) [r.ib] [] d fun u => u.carry = .drain := by
  rw [execCarry, withRouter_eq hx ha]
  dsimp only
  rw [st_of, hst]
  dsimp only
  rw [head_of, hd]
  dsimp only
  have hroom : x.space s.pe.page s.pe.pe 0 = true := by rw [Inst.space_iff, maskChans_zero]; simp
  have hmove := moveFlit_becomes (r := r) (p := fun u => u.carry = .drain) hx (.refl x s.pe.page s.pe.pe) List.not_mem_nil hd hroom false
    (fun st _ => st) hst
  rw [maskChans_zero] at hmove
  exact hmove

theorem execCarry_tail (hb : x.routerHead s.pe r.ib = none) (hu : (x.routerAt s.pe).inUnit = false)
    (hd : x.routerHead s.pe (r.ob.extractLsb' 0 4) = some d) :
    Becomes s x (execCarry r s) [r.ob.extractLsb' 0 4] [] d fun u => u.carry = .init := by
  rw [execCarry, withRouter_eq hx ha]
  dsimp only
  rw [st_of, hst]
  dsimp only
  rw [head_of, hb]
  dsimp only
  rw [if_neg (by simp [hu]), head_of, hd]
  exact takeUpd_becomes hx (.refl ..) List.not_mem_nil _ rfl

end Drain

/-! ### INVAR (R308) -/

theorem execInvar_fill (hf : (x.routerAt s.pe).full = false) (hlen : (x.routerAt s.pe).held.length < 16)
    (hd : x.routerHead s.pe r.ia = some d) :
    Becomes s x (execInvar r s) [r.ia] [] d fun u => u.held = (x.routerAt s.pe).held ++ [d] ∧ u.full = d.eot := by
  rw [execInvar, withRouter_eq hx ha]
  dsimp only
  rw [st_of, if_pos (by simp [hf]), head_of, hd]
  refine takeUpd_becomes hx (.refl ..) List.not_mem_nil _ ?_
  exact (RouterState.hold_of_room hlen d) ▸ ⟨rfl, rfl⟩

theorem execInvar_copy (hf : (x.routerAt s.pe).full = true) (hu : (x.routerAt s.pe).inUnit = true)
    (hd : (x.routerAt s.pe).held[(x.routerAt s.pe).sent]? = some d) (hroom : x.space s.pe.page s.pe.pe r.oa = true) :
    Becomes s x (execInvar r s) [] (maskChans r.oa) (if (x.routerAt s.pe).dpsn || d.psn then d.poison else d) fun u =>
      u.held = (x.routerAt s.pe).held ∧ if (x.routerAt s.pe).sent + 1 < (x.routerAt s.pe).held.length then
        u.sent = (x.routerAt s.pe).sent + 1 ∧ u.inUnit = true else u.inUnit = false := by
  have hspace : (routingOf r s x).space r.oa = true := hroom
  rw [execInvar, withRouter_eq hx ha]
  dsimp only
  rw [st_of, if_neg (by simp [hf]), if_pos hu, if_pos hspace, List.getD_eq_getElem?_getD, hd]
  refine sendUpd_becomes hx (.refl ..) _ _ _ ⟨rfl, ?_⟩
  split
  next hmore => exact ⟨if_pos hmore, decide_eq_true hmore⟩
  next hlast => exact decide_eq_false hlast

theorem execInvar_decide (hf : (x.routerAt s.pe).full = true) (hu : (x.routerAt s.pe).inUnit = false)
    (hc : x.routerHead s.pe r.ctl = some c) (hh : c.hdr = false) :
    Becomes s x (execInvar r s) [r.ctl] [] d fun u => if !c.psn && c.data != 0 then
      u.inUnit = true ∧ u.sent = 0 ∧ u.dpsn = c.psn ∧ u.held = (x.routerAt s.pe).held else u.held = [] ∧ u.full = false := by
  rw [execInvar, withRouter_eq hx ha]
  dsimp only
  rw [st_of, if_neg (by simp [hf]), if_neg (by simp [hu]), withDecision_of_data hc hh]
  cases !c.psn && c.data != 0 with
  | true => exact takeUpd_becomes hx (.refl ..) List.not_mem_nil _ ⟨rfl, rfl, rfl, rfl⟩
  | false => exact takeUpd_becomes hx (.refl ..) List.not_mem_nil _ ⟨rfl, rfl⟩

end Operators

/-! ### Controllers (R310, R311) -/

/-- The channels of a controller's OA that are done channels, or those that are not. -/
def Inst.controllerChans (x : Inst) (r : RouterFields) (k : PeCursor) (dones : Bool) : List (Fin 16) :=
  (maskChans r.oa).filter fun (ch : Fin 16) => x.doneChan k.page k.pe ch == dones

section Controllers

variable {r : RouterFields} {s : State} {x : Inst} {d : Flit} (hx : s.insts[s.pe.inst]? = some x)

theorem token_psn (v : Nat) : (token v).psn = false := by
  change bit (0x09 : BitVec 8) 6 = false
  decide

include hx

theorem takeEnable_becomes (hd : x.routerHead s.pe r.ctl = some d) (g : RouterState → RouterState) :
    Becomes s x (takeEnable (routingOf r s x) g) [r.ctl] [] d fun u => u = if d.hdr then x.routerAt s.pe else g (x.routerAt s.pe) := by
  have hhead : (routingOf r s x).head (routingOf r s x).r.ctl = some d := (head_of r.ctl).trans hd
  rw [takeEnable, hhead]
  cases hh : d.hdr with
  | true =>
    dsimp only
    rw [if_pos hh]
    exact take_becomes hx (.refl ..) List.not_mem_nil rfl
  | false =>
    dsimp only
    rw [if_neg (by simp [hh])]
    exact takeUpd_becomes hx (.refl ..) List.not_mem_nil _ rfl

/-- A token leaves when the controller's channels of a kind have space. -/
theorem sendToken_becomes {dones : Bool}
    (hroom : ∀ ch ∈ x.controllerChans r s.pe dones, 0 < (x.peAt s.pe.page s.pe.pe).credit[ch]) (v : Nat) (g : RouterState → RouterState) :
    (routingOf r s x).space ((routingOf r s x).chans dones) = true ∧
      Becomes s x (((routingOf r s x).send ((routingOf r s x).chans dones) false (token v)).upd g).done [] (x.controllerChans r s.pe dones)
        { data := BitVec.ofNat 64 v, ctl := 0x09 } fun u => u = g (x.routerAt s.pe) := by
  have hchans : maskChans ((routingOf r s x).chans dones) = x.controllerChans r s.pe dones := Routing.maskChans_chans _ _
  rw [← hchans] at hroom ⊢
  refine ⟨(Inst.space_iff ..).mpr hroom, ?_⟩
  have hsend := sendUpd_becomes (r := r) (d := token v) (p := fun u => u = g (x.routerAt s.pe)) hx (.refl x s.pe.page s.pe.pe)
    ((routingOf r s x).chans dones) false g rfl
  rw [token_psn] at hsend
  exact hsend

theorem sendEnable_becomes (hroom : ∀ ch ∈ x.controllerChans r s.pe false, 0 < (x.peAt s.pe.page s.pe.pe).credit[ch]) :
    Becomes s x (sendEnable (routingOf r s x)) [] (x.controllerChans r s.pe false)
      { data := BitVec.ofNat 64 ((x.routerAt s.pe).issued + 1), ctl := 0x09 }
      fun u => u = { x.routerAt s.pe with issued := (x.routerAt s.pe).issued + 1 } := by
  obtain ⟨hspace, hsend⟩ :=
    sendToken_becomes (r := r) hx hroom ((x.routerAt s.pe).issued + 1) fun st => { st with issued := st.issued + 1 }
  rw [sendEnable]
  exact (if_pos hspace).symm ▸ hsend

theorem sendDone_becomes (hroom : ∀ ch ∈ x.controllerChans r s.pe true, 0 < (x.peAt s.pe.page s.pe.pe).credit[ch])
    (g : RouterState → RouterState) :
    Becomes s x (sendDone (routingOf r s x) g) [] (x.controllerChans r s.pe true) { data := 1, ctl := 0x09 }
      fun u => u = g (x.routerAt s.pe) := by
  obtain ⟨hspace, hsend⟩ := sendToken_becomes (r := r) hx hroom 1 g
  rw [sendDone]
  exact (if_pos hspace).symm ▸ hsend

variable (ha : s.instActs x = true)
include ha

theorem takeDone_becomes (hd : x.routerHead s.pe r.ia = some d) (k : Routing → Result) :
    Becomes s x (withRouter r s fun f => takeDone f k) [r.ia] [] d
      fun u => u = { x.routerAt s.pe with dones := if d.eot then (x.routerAt s.pe).dones + 1 else (x.routerAt s.pe).dones } := by
  have hhead : (routingOf r s x).head (routingOf r s x).r.ia = some d := (head_of r.ia).trans hd
  rw [withRouter_eq hx ha, takeDone, hhead]
  exact takeUpd_becomes hx (.refl ..) List.not_mem_nil _ rfl

variable (hia : x.routerHead s.pe r.ia = none)
include hia

theorem takeDone_eq (k : Routing → Result) : (withRouter r s fun f => takeDone f k) = k (routingOf r s x) := by
  have hhead : (routingOf r s x).head (routingOf r s x).r.ia = none := (head_of r.ia).trans hia
  rw [withRouter_eq hx ha, takeDone, hhead]

theorem execCseq_eq : execCseq r s = if !(x.routerAt s.pe).active then takeEnable (routingOf r s x) openWindow
    else if (x.routerAt s.pe).dones < (x.routerAt s.pe).issued then .next s
    else if (x.routerAt s.pe).issued < windowCount r then sendEnable (routingOf r s x)
    else sendDone (routingOf r s x) fun st => { st with active := false } := by
  rw [execCseq, takeDone_eq hx ha hia]
  rfl

theorem execCpip_eq : execCpip r s = if !(x.routerAt s.pe).active then takeEnable (routingOf r s x) openWindow
    else if (x.routerAt s.pe).issued < windowCount r then sendEnable (routingOf r s x)
    else if (x.routerAt s.pe).dones < windowCount r then .next s
    else sendDone (routingOf r s x) fun st => { st with active := false } := by
  rw [execCpip, takeDone_eq hx ha hia]
  rfl

theorem execCstr_eq : execCstr r s = if windowCount r ≤ (x.routerAt s.pe).dones ∧ 0 < (x.routerAt s.pe).acts then
      sendDone (routingOf r s x) fun st => { st with dones := st.dones - windowCount r, acts := st.acts - 1 }
    else if (x.routerAt s.pe).active then
      if (x.routerAt s.pe).issued < windowCount r then sendEnable (routingOf r s x)
      else ((routingOf r s x).upd fun st => { st with active := false }).done
    else if (x.routerAt s.pe).acts < 64 then
      takeEnable (routingOf r s x) fun st => { st with active := true, issued := 0, acts := st.acts + 1 }
    else .next s := by
  rw [execCstr, takeDone_eq hx ha hia]
  rfl

section Waiting

variable (hact : (x.routerAt s.pe).active = false) (hd : x.routerHead s.pe r.ctl = some d)
include hact hd

theorem execCseq_open : Becomes s x (execCseq r s) [r.ctl] [] d
    fun u => u = if d.hdr then x.routerAt s.pe else openWindow (x.routerAt s.pe) := by
  rw [execCseq_eq hx ha hia, if_pos (by simp [hact])]
  exact takeEnable_becomes hx hd _

theorem execCpip_open : Becomes s x (execCpip r s) [r.ctl] [] d
    fun u => u = if d.hdr then x.routerAt s.pe else openWindow (x.routerAt s.pe) := by
  rw [execCpip_eq hx ha hia, if_pos (by simp [hact])]
  exact takeEnable_becomes hx hd _

theorem execCstr_open (hacts : (x.routerAt s.pe).acts < 64) (hw : (x.routerAt s.pe).dones < windowCount r ∨ (x.routerAt s.pe).acts = 0) :
    Becomes s x (execCstr r s) [r.ctl] [] d fun u => u = if d.hdr then x.routerAt s.pe
      else { x.routerAt s.pe with active := true, issued := 0, acts := (x.routerAt s.pe).acts + 1 } := by
  rw [execCstr_eq hx ha hia, if_neg (by omega), if_neg (by simp [hact]), if_pos hacts]
  exact takeEnable_becomes hx hd _

end Waiting

section Active

variable (hact : (x.routerAt s.pe).active = true)
include hact

section Enables

variable (hw : (x.routerAt s.pe).issued < windowCount r)
  (hroom : ∀ ch ∈ x.controllerChans r s.pe false, 0 < (x.peAt s.pe.page s.pe.pe).credit[ch])
include hw hroom

theorem execCseq_enable (hdone : (x.routerAt s.pe).issued ≤ (x.routerAt s.pe).dones) :
    Becomes s x (execCseq r s) [] (x.controllerChans r s.pe false)
      { data := BitVec.ofNat 64 ((x.routerAt s.pe).issued + 1), ctl := 0x09 }
      fun u => u = { x.routerAt s.pe with issued := (x.routerAt s.pe).issued + 1 } := by
  rw [execCseq_eq hx ha hia, if_neg (by simp [hact]), if_neg (by omega), if_pos hw]
  exact sendEnable_becomes hx hroom

theorem execCpip_enable : Becomes s x (execCpip r s) [] (x.controllerChans r s.pe false)
    { data := BitVec.ofNat 64 ((x.routerAt s.pe).issued + 1), ctl := 0x09 }
    fun u => u = { x.routerAt s.pe with issued := (x.routerAt s.pe).issued + 1 } := by
  rw [execCpip_eq hx ha hia, if_neg (by simp [hact]), if_pos hw]
  exact sendEnable_becomes hx hroom

theorem execCstr_enable (hdones : (x.routerAt s.pe).dones < windowCount r) :
    Becomes s x (execCstr r s) [] (x.controllerChans r s.pe false)
      { data := BitVec.ofNat 64 ((x.routerAt s.pe).issued + 1), ctl := 0x09 }
      fun u => u = { x.routerAt s.pe with issued := (x.routerAt s.pe).issued + 1 } := by
  rw [execCstr_eq hx ha hia, if_neg (by omega), if_pos hact, if_pos hw]
  exact sendEnable_becomes hx hroom

end Enables

section Ends

variable (hw : windowCount r ≤ (x.routerAt s.pe).issued)
  (hroom : ∀ ch ∈ x.controllerChans r s.pe true, 0 < (x.peAt s.pe.page s.pe.pe).credit[ch])
include hw hroom

theorem execCseq_end (hdone : (x.routerAt s.pe).issued ≤ (x.routerAt s.pe).dones) :
    Becomes s x (execCseq r s) [] (x.controllerChans r s.pe true) { data := 1, ctl := 0x09 }
      fun u => u = { x.routerAt s.pe with active := false } := by
  rw [execCseq_eq hx ha hia, if_neg (by simp [hact]), if_neg (by omega), if_neg (by omega)]
  exact sendDone_becomes hx hroom _

theorem execCpip_end (hdones : windowCount r ≤ (x.routerAt s.pe).dones) :
    Becomes s x (execCpip r s) [] (x.controllerChans r s.pe true) { data := 1, ctl := 0x09 }
      fun u => u = { x.routerAt s.pe with active := false } := by
  rw [execCpip_eq hx ha hia, if_neg (by simp [hact]), if_neg (by omega), if_neg (by omega)]
  exact sendDone_becomes hx hroom _

end Ends

end Active

theorem execCstr_end (hw : windowCount r ≤ (x.routerAt s.pe).dones) (hacts : 0 < (x.routerAt s.pe).acts)
    (hroom : ∀ ch ∈ x.controllerChans r s.pe true, 0 < (x.peAt s.pe.page s.pe.pe).credit[ch]) :
    Becomes s x (execCstr r s) [] (x.controllerChans r s.pe true) { data := 1, ctl := 0x09 } fun u =>
      u = { x.routerAt s.pe with dones := (x.routerAt s.pe).dones - windowCount r, acts := (x.routerAt s.pe).acts - 1 } := by
  rw [execCstr_eq hx ha hia, if_pos ⟨hw, hacts⟩]
  exact sendDone_becomes hx hroom _

end Controllers

/-- Settles O55: by the operator, its state and what its inputs hold. -/
theorem routers : Obligations.Routers := by
  intro r s x k hk hx ha st head room becomes passed dec
  subst hk
  have hspace {m : BitVec 16} (h : room (maskChans m)) : x.space s.pe.page s.pe.pe m = true := (Inst.space_iff ..).mpr h
  have hgate (b : Bool) : maskChans (if b then r.oa else 0) = if b then maskChans r.oa else [] := by
    cases b with
    | true => rfl
    | false => exact maskChans_zero
  refine ⟨fun c d hc hh hu hia hib => ?decision, fun d hu => ?inUnit, fun d hd => ?input, fun hst => ?drain, fun hia => ?controller⟩
  case decision =>
    refine ⟨fun hd hroom => ?_, fun hd hroom => ?_, fun hd hroom => ?_, fun hst => ⟨fun hdec hd hroom => ?_, fun hdec => ?_⟩,
      fun hf => ?_⟩
    · exact decided_first hx ha rfl hu hc hh hia hd (hspace hroom)
    · have hroom' : room (maskChans (if dec c then r.oa else 0)) := (hgate _).symm ▸ hroom
      have hgates := decided_first (mask := fun b => if b then r.oa else 0) (input := fun _ => r.ia) hx ha rfl hu hc hh hia hd
        (hspace hroom')
      exact hgate (dec c) ▸ hgates
    · exact decided_first (input := fun b => if b then r.ia else r.ib) (mask := fun _ => r.oa) hx ha rfl hu hc hh
        (by split <;> assumption) hd (hspace hroom)
    · exact execCarry_again hx ha hst hu hc hh hdec hib hd (hspace hroom)
    · exact execCarry_leave hx ha hst hu hc hh hdec
    · exact execInvar_decide hx ha hf hu hc hh
  case inUnit =>
    refine ⟨fun hd hroom => ?_, fun hd hroom => ?_, fun hd hroom => ?_, fun hst hd hroom => ?_, fun hf hd hroom => ?_⟩
    · exact decided_inUnit hx ha hu hd (hspace hroom)
    · have hroom' : room (maskChans (if st.dec then r.oa else 0)) := (hgate _).symm ▸ hroom
      have hgates := decided_inUnit (r := r) (mask := fun b => if b then r.oa else 0) (input := fun _ => r.ia) hx ha hu hd (hspace hroom')
      exact hgate st.dec ▸ hgates
    · exact decided_inUnit (input := fun b => if b then r.ia else r.ib) (mask := fun _ => r.oa) hx ha hu hd (hspace hroom)
    · exact execCarry_inUnit hx ha hst hu hd (hspace hroom)
    · exact execInvar_copy hx ha hf hu hd (hspace hroom)
  case input =>
    refine ⟨fun hroom => execFork_becomes hx ha hd (hspace hroom), execSink_spec hx ha hd,
      fun hst hroom => execCarry_init hx ha hst hd (hspace hroom), fun hf hlen => execInvar_fill hx ha hf hlen hd, ?_⟩
    simp only [List.forall_mem_cons]
    exact ⟨takeDone_becomes hx ha hd _, takeDone_becomes hx ha hd _, takeDone_becomes hx ha hd _, by simp⟩
  case drain =>
    exact ⟨fun d hd => execCarry_discard hx ha hst hd, fun d hb hu hd => execCarry_tail hx ha hst hb hu hd⟩
  case controller =>
    intro w chans enables ends
    refine ⟨fun d hd hact => ⟨?_, fun hacts hw => execCstr_open hx ha hia hact hd hacts hw⟩, fun hact => ⟨fun hdone hw hroom => ?_,
      fun hdone hw hroom => ?_, fun hw hroom => ?_, fun hw hdones hroom => ?_, fun hdones hw hroom => ?_⟩, fun hw hacts hroom => ?_⟩
    · simp only [List.forall_mem_cons]
      exact ⟨execCseq_open hx ha hia hact hd, execCpip_open hx ha hia hact hd, by simp⟩
    · exact execCseq_enable hx ha hia hact hw hroom hdone
    · exact execCseq_end hx ha hia hact hw hroom hdone
    · exact execCpip_enable hx ha hia hact hw hroom
    · exact execCpip_end hx ha hia hact hw hroom hdones
    · exact execCstr_enable hx ha hia hact hw hroom hdones
    · exact execCstr_end hx ha hia hw hacts hroom

end Sys2Proof.Machine
end

section
/-!
SUPPORT. The shares of a segment's tiles by weights: they add up to the tiles.
-/
namespace Sys2Proof.Machine

/-! ### Ranks under a strict linear order -/

/-- How many of the first `n` numbers come before `i`. -/
def rank (r : Nat → Nat → Bool) (n i : Nat) : Nat := ((Finset.range n).filter fun j => r j i = true).card

section Rank

variable {r : Nat → Nat → Bool} {n : Nat} (hirr : ∀ i, r i i = false)
  (htrans : ∀ i j k, r i j = true → r j k = true → r i k = true) (htotal : ∀ i j, i ≠ j → r i j = true ∨ r j i = true)
include hirr

theorem rank_lt {i : Nat} (hi : i < n) : rank r n i < n := by
  refine (Finset.card_lt_card ((Finset.ssubset_iff_of_subset (Finset.filter_subset ..)).mpr ⟨i, ?_, ?_⟩)).trans_eq (Finset.card_range n)
  · simpa using hi
  · simp [hirr]

include htrans

theorem rank_lt_rank {i j : Nat} (hi : i < n) (h : r i j = true) : rank r n i < rank r n j := by
  refine Finset.card_lt_card ((Finset.ssubset_iff_of_subset fun k hk => ?_).mpr ⟨i, ?_, ?_⟩)
  · simp only [Finset.mem_filter, Finset.mem_range] at hk ⊢
    exact ⟨hk.1, htrans k i j hk.2 h⟩
  · simp [hi, h]
  · simp [hirr]

include htotal

theorem rank_injOn : Set.InjOn (rank r n) (Finset.range n : Finset Nat) := by
  intro i hi j hj heq
  by_contra hne
  have hi' : i < n := by simpa using hi
  have hj' : j < n := by simpa using hj
  rcases htotal i j hne with h | h
  · exact (rank_lt_rank hirr htrans hi' h).ne heq
  · exact (rank_lt_rank hirr htrans hj' h).ne heq.symm

/-- The ranks of the first `n` numbers are the first `n` numbers. -/
theorem image_rank : (Finset.range n).image (rank r n) = Finset.range n := by
  refine Finset.eq_of_subset_of_card_le (fun k hk => ?_) ?_
  · obtain ⟨i, hi, rfl⟩ := Finset.mem_image.mp hk
    exact Finset.mem_range.mpr (rank_lt hirr (Finset.mem_range.mp hi))
  · rw [Finset.card_image_of_injOn (rank_injOn hirr htrans htotal)]

theorem card_rank_lt {m : Nat} (hm : m ≤ n) : ((Finset.range n).filter fun i => rank r n i < m).card = m := by
  rw [← Finset.card_image_of_injOn ((rank_injOn hirr htrans htotal).mono (Finset.coe_subset.mpr (Finset.filter_subset ..))),
    ← Finset.filter_image (p := fun k => k < m), image_rank hirr htrans htotal]
  have hfilter : (Finset.range n).filter (fun k => k < m) = Finset.range m := by
    ext k
    simp only [Finset.mem_filter, Finset.mem_range]
    omega
  rw [hfilter, Finset.card_range]

end Rank

/-! ### Shares (R426) -/

/-- Whether an instance comes before another for one of the tiles left over: the larger weight, then the lower number. -/
def heavier (w : List Nat) (i j : Nat) : Bool := decide (w.getD j 0 < w.getD i 0) || (w.getD i 0 == w.getD j 0 && decide (i < j))

theorem heavier_iff {w : List Nat} {i j : Nat} :
    heavier w i j = true ↔ w.getD j 0 < w.getD i 0 ∨ w.getD i 0 = w.getD j 0 ∧ i < j := by
  simp [heavier]

theorem card_heavier_lt (w : List Nat) {m : Nat} (hm : m ≤ w.length) :
    ((Finset.range w.length).filter fun i => rank (heavier w) w.length i < m).card = m := by
  refine card_rank_lt (fun i => ?_) (fun i j k => ?_) (fun i j hne => ?_) hm
  · rw [Bool.eq_false_iff, Ne, heavier_iff]
    omega
  · simp only [heavier_iff]
    omega
  · simp only [heavier_iff]
    omega

/-- A share before the tiles left over are dealt out. -/
def baseShare (total : Nat) (w : List Nat) (i : Nat) : Nat := total * w.getD i 0 / w.sum

/-- The tiles left over. -/
def leftOver (total : Nat) (w : List Nat) : Nat := total - ∑ i ∈ Finset.range w.length, baseShare total w i

theorem sum_range_getD (w : List Nat) (f : Nat → Nat) : ∑ i ∈ Finset.range w.length, f (w.getD i 0) = (w.map f).sum := by
  induction w with
  | nil => rfl
  | cons a w ih => rw [List.length_cons, Finset.sum_range_succ', List.map_cons, List.sum_cons, ← ih, Nat.add_comm]; rfl

theorem sum_getD (w : List Nat) : ∑ i ∈ Finset.range w.length, w.getD i 0 = w.sum :=
  (sum_range_getD w id).trans (by rw [List.map_id])

theorem shares_eq {total : Nat} {w : List Nat} (hw : 0 < w.sum) : shares total w = (List.range w.length).map fun i =>
    baseShare total w i + if rank (heavier w) w.length i < leftOver total w then 1 else 0 := by
  have hbase : (w.map fun v => if w.sum = 0 then 0 else total * v / w.sum) = w.map fun v => total * v / w.sum :=
    List.map_congr_left fun v _ => if_neg hw.ne'
  have hleft : total - (w.map fun v => total * v / w.sum).sum = leftOver total w := by rw [leftOver, ← sum_range_getD]; rfl
  have hrank (i : Nat) : ((List.range w.length).filter fun j => heavier w j i).length = rank (heavier w) w.length i := by
    rw [rank, Finset.card, Finset.filter_val, Finset.range_val, Multiset.range, Multiset.filter_coe, Multiset.coe_card]
    simp only [Bool.decide_eq_true]
  unfold shares
  dsimp only
  rw [hbase, hleft]
  refine List.ext_getElem (by simp) fun i hi hi' => ?_
  have hlen : i < w.length := by simpa using hi'
  simp only [List.getElem_map, List.getElem_zipIdx, List.getElem_range, Nat.zero_add]
  change (if ((List.range w.length).filter fun j => heavier w j i).length < leftOver total w then _ else _) = _
  rw [hrank, baseShare, List.getD_eq_getElem _ _ hlen]
  split <;> rfl

section
variable {total : Nat} {w : List Nat} (hw : 0 < w.sum)
include hw

theorem sum_baseShare_le : ∑ i ∈ Finset.range w.length, baseShare total w i ≤ total := by
  refine le_of_mul_le_mul_right ?_ hw
  rw [Finset.sum_mul]
  calc ∑ i ∈ Finset.range w.length, baseShare total w i * w.sum
      ≤ ∑ i ∈ Finset.range w.length, total * w.getD i 0 := Finset.sum_le_sum fun i _ => Nat.div_mul_le_self ..
    _ = total * w.sum := by rw [← Finset.mul_sum, sum_getD]

theorem leftOver_le : leftOver total w ≤ w.length := by
  have hlt : total * w.sum ≤ (∑ i ∈ Finset.range w.length, (baseShare total w i + 1)) * w.sum := by
    rw [Finset.sum_mul, ← sum_getD, Finset.mul_sum]
    refine Finset.sum_le_sum fun i _ => ?_
    rw [sum_getD]
    exact (Nat.lt_div_mul_add hw).le.trans_eq (by rw [Nat.add_mul, Nat.one_mul]; rfl)
  have hle := Nat.le_of_mul_le_mul_right hlt hw
  rw [Finset.sum_add_distrib, Finset.sum_const, Finset.card_range, smul_eq_mul, Nat.mul_one] at hle
  unfold leftOver
  omega

/-- Each of the heaviest gets one of the tiles left over, and they are no more than the instances. -/
theorem shares_sum : (shares total w).sum = total := by
  have hcard := card_heavier_lt w (leftOver_le (total := total) hw)
  have hle := sum_baseShare_le (total := total) hw
  have hsum (f : Nat → Nat) (n : Nat) : ((List.range n).map f).sum = ∑ i ∈ Finset.range n, f i := rfl
  rw [shares_eq hw, hsum, Finset.sum_add_distrib, Finset.sum_boole, hcard]
  unfold leftOver
  simp only [Nat.cast_id]
  omega

theorem shares_length : (shares total w).length = w.length := by rw [shares_eq hw, List.length_map, List.length_range]

theorem baseShare_le_shares (i : Nat) : baseShare total w i ≤ (shares total w).getD i 0 := by
  rcases Nat.lt_or_ge i w.length with hi | hi
  · rw [shares_eq hw, List.getD_eq_getElem _ _ (by simpa using hi)]
    simp
  · rw [baseShare, List.getD_eq_default _ _ hi]
    simp

end

end Sys2Proof.Machine
end

section
/-!
SUPPORT. The commands of a sequencer that stage, place and move configurations and install tables, windows, programs and drains.
-/
namespace Sys2Proof.Machine

/-! ### What the stamps of interfaces leave alone (R244) -/

theorem State.engineWalk_stamps (s : State) (st : Sparse Word) (c : Fin 16) (va n level table : Nat) :
    ({ s with stamps := st } : State).engineWalk c va n level table = s.engineWalk c va n level table := by
  induction n generalizing level table with
  | zero => rfl
  | succ n ih =>
    have hstep : ({ s with stamps := st } : State).walkStep c level (({ s with stamps := st } : State).walkRead level table va) =
        s.walkStep c level (s.walkRead level table va) := rfl
    simp only [State.engineWalk, hstep, ih]

theorem SameButStamps.engineAddress {s t : State} (h : SameButStamps s t) (c : Fin 16) (va : Nat) (rd wr : Bool) :
    t.engineAddress c va rd wr = s.engineAddress c va rd wr := by
  rw [h]
  unfold State.engineAddress State.engineLeaf
  simp only [State.engineWalk_stamps]
  rfl

/-! ### SCFG (R332, R333) -/

theorem reportWord_staged :
    (flag 63 true ||| field 56 3 0 ||| field 40 8 0 ||| field 16 16 0 ||| field 0 8 0 : Word) = BitVec.ofNat 64 (2 ^ 63) := by decide

theorem field_id (id : BitVec 32) : field 0 32 id.toNat = BitVec.ofNat 64 id.toNat := by
  rw [field_eq_ofNat id.isLt, Nat.pow_zero, Nat.mul_one]

section
variable {r cause rec_ pe : Nat} (hr : r < 5) (hc : cause < 256) (hrec : rec_ < 65536) (hpe : pe < 256)
include hr hc hrec hpe

/-- The word of a report, and what LDSTAT keeps of it. -/
theorem reportWord_eq : flag 63 true ||| field 56 3 r ||| field 40 8 pe ||| field 16 16 rec_ ||| field 0 8 cause =
    BitVec.ofNat 64 (2 ^ 63 + r * 2 ^ 56 + pe * 2 ^ 40 + rec_ * 2 ^ 16 + cause) := by
  rw [flag_eq_ofNat, ofNat_or_field (by decide) (by omega), ofNat_or_field (by omega) hpe, ofNat_or_field (by omega) hrec,
    ofNat_or_field (by omega) hc]
  simp

theorem ldstat_reportWord : flag 63 true ||| field 0 59
      (bits (BitVec.ofNat 64 (2 ^ 63 + r * 2 ^ 56 + pe * 2 ^ 40 + rec_ * 2 ^ 16 + cause)) 0 59) =
    BitVec.ofNat 64 (2 ^ 63 + r * 2 ^ 56 + pe * 2 ^ 40 + rec_ * 2 ^ 16 + cause) := by
  have hbits : bits (BitVec.ofNat 64 (2 ^ 63 + r * 2 ^ 56 + pe * 2 ^ 40 + rec_ * 2 ^ 16 + cause)) 0 59 =
      r * 2 ^ 56 + pe * 2 ^ 40 + rec_ * 2 ^ 16 + cause := by
    rw [bits_zero, BitVec.toNat_ofNat]
    omega
  rw [hbits, flag_eq_ofNat, ofNat_or_field (by decide) (by omega)]
  congr 1
  simp
  omega

end

section
variable {s : State} {slot : BitVec 3} (hport : s.cmd.stream = .port)
include hport

theorem execScfg_of_staged (q : CmdQual) {img : BitVec 46} {rpt : BitVec 48} {cfg : Config} {pa : Nat} {u : State}
    (hst : s.stage s.cmd.ctx (img.toNat * 64) slot.toNat = (0, 0, 0, 0, some cfg))
    (hu : u = (s.askWords (seqKey s.cmd.ctx) s.cmd.ctx (img.toNat * 64) ((cfg.bytes + 7) / 8)).updCtx s.cmd.ctx fun x =>
      { x with slots := x.slots.set (fin 8 slot.toNat) (some cfg) })
    (ha : u.engineAddress s.cmd.ctx (rpt.toNat * 16) false true = .ok pa) (hl : u.isLocal pa = true) :
    execScfg q img rpt slot s = .next (u.engineGranules s.cmd.ctx pa [BitVec.ofNat 64 (2 ^ 63), BitVec.ofNat 64 s.cmd.id.toNat]) := by
  subst hu
  unfold execScfg
  simp only [hst, hport, ha, hl, reportWord_staged, field_id, ne_eq, not_true_eq_false, if_false, if_true]

theorem execScfg_of_failed (q : CmdQual) {img : BitVec 46} {rpt : BitVec 48} {r cause rec_ pe pa : Nat} {u : State} {w : Word}
    (hst : s.stage s.cmd.ctx (img.toNat * 64) slot.toNat = (r, cause, rec_, pe, none)) (hr0 : 0 < r) (hr : r < 5) (hc : cause < 256)
    (hrec : rec_ < 65536) (hpe : pe < 256) (hw : w = BitVec.ofNat 64 (2 ^ 63 + r * 2 ^ 56 + pe * 2 ^ 40 + rec_ * 2 ^ 16 + cause))
    (hu : u = s.setReg (ldstatAt s.cmd.ctx) w) (ha : u.engineAddress s.cmd.ctx (rpt.toNat * 16) false true = .ok pa)
    (hl : u.isLocal pa = true) :
    execScfg q img rpt slot s = .next (u.engineGranules s.cmd.ctx pa [w, BitVec.ofNat 64 s.cmd.id.toNat]) := by
  have hword := reportWord_eq hr hc hrec hpe
  have hstat := ldstat_reportWord hr hc hrec hpe
  rw [← hw] at hword hstat
  subst hu
  unfold execScfg
  simp only [hst, hport, hword, hstat, ne_eq, hr0.ne', not_false_eq_true, if_true, ha, hl, field_id]

/-! ### SPLC, SPLC_U and SMOV (R334 to R337) -/

/-- The placement that waits for a command of the port stream. -/
def State.portPlacement (s : State) (slot : BitVec 3) (ninst : BitVec 10) (partl : Bool) (queue : BitVec 6) : Placement :=
  { slot := slot.toNat, ninst := ninst.toNat, partl := partl, queue := fin 64 queue.toNat,
    prio := (s.queuePrio s.cmd.ctx (fin 64 queue.toNat)).toNat, id := s.cmd.id, stream := s.cmd.stream, version := s.groups.ver,
    made := s.clock, cmp := s.hardware s.cmd.ctx .cmp }

theorem State.placeQueue_of_port (queue : BitVec 6) :
    s.placeQueue queue = some (fin 64 queue.toNat, (s.queuePrio s.cmd.ctx (fin 64 queue.toNat)).toNat) := by
  unfold State.placeQueue
  simp only [hport]

section
variable {cfg : Config} {ninst : BitVec 10} {queue : BitVec 6} {partl : Bool} (hcfg : (s.ctx s.cmd.ctx).slots[fin 8 slot.toNat] = some cfg)
include hcfg

theorem execSplc_of_neverFits (q : CmdQual)
    (hfit : s.neverFits (s.groupNow (s.queueGroup s.cmd.ctx (fin 64 queue.toNat))) cfg (if partl then 1 else ninst.toNat) = true) :
    execSplc q partl slot ninst queue s = refused s := by
  unfold execSplc
  simp only [hcfg, s.placeQueue_of_port hport queue, hfit]
  exact if_pos (.inr (.inr (.inr trivial)))

variable (hfree : s.instsOf s.cmd.ctx slot.toNat = []) (h0 : 0 < ninst.toNat) (h900 : ninst.toNat ≤ 900)
include hfree h0 h900

theorem execSplc_of_fits (q : CmdQual)
    (hfit : s.neverFits (s.groupNow (s.queueGroup s.cmd.ctx (fin 64 queue.toNat))) cfg (if partl then 1 else ninst.toNat) = false) :
    execSplc q partl slot ninst queue s = .next (s.tick.1.updCtx s.cmd.ctx fun x =>
      { x with places := x.places ++ [s.portPlacement slot ninst partl queue] }) := by
  unfold execSplc
  simp only [hcfg, s.placeQueue_of_port hport queue, hfree, hfit]
  rw [if_neg (by simp; omega)]
  rfl

end

theorem execSplcU_eq (q : CmdQual) (partl : Bool) (queue : BitVec 6) : execSplcU q partl slot queue s =
    .next (s.releaseEach s.cmd.ctx ((s.instsOf s.cmd.ctx slot.toNat).map fun e => e.2.uid)) := by
  unfold execSplcU
  simp only [s.placeQueue_of_port hport queue]

end

theorem execSmov_eq {s : State} {slot : BitVec 3} {num : BitVec 10} {i : Nat} {x : Inst} (q : CmdQual)
    (hfind : ((s.instsOf s.cmd.ctx slot.toNat).find? fun e => e.2.num == num.toNat) = some (i, x)) (hp : x.pend ≠ .release) :
    execSmov q slot num 0 0 true s = .next ((s.setInst i { x with version := s.groups.ver }).request i (.move none)) := by
  unfold execSmov
  simp only [hfind]
  exact if_neg (by simp [hp])

/-- A request for an instance in RUN waits for its boundary. -/
theorem State.request_of_run {s : State} {i : Nat} {x : Inst} (hx : s.insts[i]? = some x) (hrun : x.st = .run) {p : Pending}
    (hp : x.pend ≠ .release) : s.request i p = s.setInst i { x with pend := p, waited := s.instTime x } := by
  obtain ⟨hlt, -⟩ := List.getElem?_eq_some_iff.mp hx
  have hset : (s.setInst i { x with pend := p, waited := s.instTime x }).insts[i]? = some { x with pend := p, waited := s.instTime x } :=
    List.getElem?_set_self hlt
  unfold State.request
  simp only [hx, if_neg hp]
  rw [State.carryOut, hset]
  simp [hrun]

/-! ### SSYN (R347) -/

theorem execSsyn_of_ready {s : State} {k : Command} (q : CmdQual) (b : Bool) (queue : BitVec 6) (addr : BitVec 52) (value : BitVec 32)
    (hk : ((s.ctx s.cmd.ctx).accepted.find? fun (x : Command) => decide (x.id = s.cmd.id)) = some k)
    (hready : s.syncReady s.cmd.ctx k = true) (h0 : k.field 0 52 = 0) : execSsyn q b queue addr value s =
      .next (s.updCtx s.cmd.ctx fun x =>
        { x with accepted := x.accepted.map fun j => if j.id = s.cmd.id then { j with wrote := true } else j }) := by
  have hid : k.id = s.cmd.id := by simpa using List.find?_some hk
  have hwrite : s.syncWrite s.cmd.ctx k = some s := if_pos h0
  unfold execSsyn
  simp only [hk, hready, if_true, hwrite, hid]

/-! ### STBL (R374, R376) -/

theorem parseTable_spec {w : List Word} {tbl serial : Nat} {free : Word} {v : TableVer} (h : parseTable w tbl serial free = some v) :
    v.current = true ∧ v.tbl = tbl := by
  unfold parseTable at h
  dsimp only at h
  split at h
  next => contradiction
  next => exact Option.some.inj h ▸ ⟨rfl, rfl⟩

/-- The versions of a table are superseded. -/
def superseded (tbl : Nat) (l : List TableVer) : List TableVer :=
  l.map fun t => if t.tbl = tbl ∧ t.current then { t with current := false, free := 0 } else t

theorem superseded_current {tbl : Nat} {l : List TableVer} : ∀ x ∈ superseded tbl l, x.tbl = tbl → x.current = false := by
  intro x hx htbl
  obtain ⟨t, -, rfl⟩ := List.mem_map.mp hx
  by_cases h : t.tbl = tbl ∧ t.current
  · rw [if_pos h]
  · rw [if_neg h] at htbl ⊢
    simpa [htbl] using h

theorem State.notice_zero (s : State) (c : Fin 16) (v : Nat) : s.notice c 0 v = s := if_pos rfl

theorem execStbl_of_parsed {s : State} {tbl : BitVec 4} {desc : BitVec 46} {w : List Word} {v : TableVer} (q : CmdQual)
    (hw : s.engineWords s.cmd.ctx (desc.toNat * 64) 8 = .ok w) (hv : parseTable w tbl.toNat (s.ctx s.cmd.ctx).tabSer 0 = some v) :
    execStbl q tbl desc 0 s = .next ((s.askWords (seqKey s.cmd.ctx) s.cmd.ctx (desc.toNat * 64) 8).updCtx s.cmd.ctx fun x =>
      { x with tabSer := x.tabSer + 1, tables := superseded tbl.toNat x.tables ++ [v] }) := by
  have hnone : field 3 49 (0 : BitVec 49).toNat = 0 := by decide
  unfold execStbl
  simp only [hw, hv, hnone, State.notice_zero]
  exact congrArg Host.Outcome.next (ite_self _)

/-! ### SWIN and SWIN_U (R389) -/

/-- The window that a command declares. -/
def declaredWindow (win : BitVec 4) (slot : BitVec 3) (base len : Word) (ntf : BitVec 48) : Window :=
  { win := win.toNat, slot := slot.toNat, base := base.setWidth 52, len := len.toNat, ntf := BitVec.ofNat 52 (ntf.toNat * 16), count := 0 }

theorem execSwin_of_good {s : State} {obj ntf : BitVec 48} {base len : Word} {pa : Nat} (q : CmdQual) (win : BitVec 4) (slot : BitVec 3)
    (hw : s.engineWords s.cmd.ctx (obj.toNat * 16) 2 = .ok [base, len]) (h0 : 0 < len.toNat) (hmax : len.toNat ≤ 2 ^ 41)
    (ha : s.engineAddress s.cmd.ctx (ntf.toNat * 16) false true = .ok pa) (hl : s.isLocal pa = true) (hf : hasFull pa = true) :
    execSwin q win slot obj ntf s = .next ((s.askWords (seqKey s.cmd.ctx) s.cmd.ctx (obj.toNat * 16) 2).updCtx s.cmd.ctx fun x =>
      { x with windows := x.windows.filter (fun v => v.win ≠ win.toNat) ++ [declaredWindow win slot base len ntf] }) := by
  have hu := s.askWords_same (seqKey s.cmd.ctx) s.cmd.ctx (obj.toNat * 16) 2
  have hlocal : (s.askWords (seqKey s.cmd.ctx) s.cmd.ctx (obj.toNat * 16) 2).isLocal pa = true := by
    rw [hu]
    exact hl
  unfold execSwin
  simp only [hw, hu.engineAddress, ha, hlocal, hf]
  exact if_neg (by simp; omega)

/-! ### Programs of edge slices (R378, R379) -/

theorem State.setInst_slices (s : State) (i : Nat) (x : Inst) : (s.setInst i x).slices = s.slices := rfl

/-- Freeing an endpoint changes instances only. -/
theorem State.freeEp_insts (s : State) (i ep : Nat) : s.freeEp i ep = { s with insts := (s.freeEp i ep).insts } := by
  unfold State.freeEp
  split
  · rfl
  · dsimp only
    split
    · rfl
    · split <;> rfl

/-- A slot that is unloaded is empty; its slice's SRAM and memory are as before. -/
theorem State.unloadProg_spec (s : State) (pos : Nat) (prog : Fin 4) : ((s.unloadProg pos prog).slice pos).progs[prog] = none ∧
    ((s.unloadProg pos prog).slice pos).sram = (s.slice pos).sram ∧ (s.unloadProg pos prog).mem = s.mem := by
  unfold State.unloadProg
  extract_lets v t
  have ht : (t.slice pos).sram = (s.slice pos).sram ∧ t.mem = s.mem := by
    unfold t
    split
    · split
      next ep w i x _ _ =>
        rw [State.freeEp_insts]
        refine ⟨?_, rfl⟩
        change ((s.setSlice pos _).slice pos).sram = _
        rw [State.slice_setSlice, if_pos rfl]
      next => exact ⟨rfl, rfl⟩
    · exact ⟨rfl, rfl⟩
  rw [State.slice_setSlice, if_pos rfl]
  exact ⟨Vector.getElem_set_self _, ht.1, ht.2⟩

theorem execSagpU_of_idle {s : State} {pos : BitVec 7} {prog : Fin 4} (q : CmdQual) (h : s.progBusy pos.toNat prog = false) :
    execSagpU q pos (BitVec.ofNat 2 prog) s = .next (s.unloadProg pos.toNat prog) := by
  unfold execSagpU
  simp only [fin_ofNat_port, h]
  rfl

theorem execSagp_of_streaming {s : State} {pos : BitVec 7} {prog : Fin 4} {pgm : BitVec 46} {slot : BitVec 3} {num : BitVec 10}
    {w : List Word} {p : EdgeProg} (q : CmdQual) (h : s.progBusy pos.toNat prog = false)
    (hw : s.engineWords s.cmd.ctx (pgm.toNat * 64) 8 = .ok w)
    (hp : p = { ctx := s.cmd.ctx, words := Vector.ofFn fun i : Fin 8 => w.getD i 0, slot := slot.toNat, inst := num.toNat, at_ := 0,
                pass := 0, tile := false, bad := false, hdr := false, buf := [] })
    (hbad : p.illFormed = false) (hs : p.streams = true) :
    execSagp q pos (BitVec.ofNat 2 prog) pgm slot num s =
      let t := (s.askWords (seqKey s.cmd.ctx) s.cmd.ctx (pgm.toNat * 64) 8).unloadProg pos.toNat prog
      .next (t.setSlice pos.toNat { t.slice pos.toNat with progs := (t.slice pos.toNat).progs.set prog (some p) }) := by
  subst hp
  unfold execSagp
  simp only [fin_ofNat_port, h, hw, hbad, hs]
  rfl

/-! ### SDRN (R411) -/

/-- The transfer by which a command drains a slot of one instance. -/
def State.drainXfer (s : State) (o : DrainOps) (x : Inst) (clear : Bool) : Xfer :=
  newXfer { ctx := s.cmd.ctx, cmd := s.cmd.id, word := 0, stream := s.cmd.stream, hyp := s.cmd.hyp, site := s.cmd.site, slot := s.cmd.slot }
    s.clock o.slot.toNat (some x.num) x.hyp 0
    (.drain o.fmt.toNat o.rm.toNat o.tbl.toNat o.scl none (drainTarget o) o.page.toNat (fin 4 o.asl.toNat) o.ep.toNat) clear.toNat

theorem execSdrn_of_one {s : State} {o : DrainOps} {i : Nat} {x : Inst} (q : CmdQual) (clear : Bool)
    (hn : s.named s.cmd.ctx o.slot.toNat o.inst = [i]) (hx : s.insts[i]? = some x) (hfmt : o.fmt.toNat < 2) (hrm : o.rm.toNat < 6)
    (htbl : o.tbl = 0) (hpage : o.page.toNat < x.cfg.pages.length) (hslot : (x.siteOf o.page.toNat, o.asl.toNat) ∈ x.slots)
    (hbind : s.bindable x o.ep.toNat (drainTarget o) = true) :
    ∃ t : State, execSdrn q clear o s = .next t ∧ t.mem = s.mem ∧
      (t.streamer drainUnit).xfers = (s.streamer drainUnit).xfers ++ [s.drainXfer o x clear] := by
  have hasl : (fin 4 o.asl.toNat).val = o.asl.toNat := Nat.mod_eq_of_lt o.asl.isLt
  have hfmt3 : o.fmt ≠ 3 := by rintro h; rw [h] at hfmt; exact absurd hfmt (by decide)
  have hfmt2 : o.fmt ≠ 2 := by rintro h; rw [h] at hfmt; exact absurd hfmt (by decide)
  unfold execSdrn
  simp only [hn, List.filterMap_cons, hx, Option.map_some, List.filterMap_nil]
  have hgood : o.fmt ≠ 3 ∧ o.rm.toNat < 6 ∧ (o.fmt = 2 → o.rm = 0) := ⟨hfmt3, hrm, fun h => absurd h hfmt2⟩
  rw [if_neg (by simpa [htbl, hpage, hbind, hasl, hslot] using hgood)]
  refine ⟨_, rfl, rfl, ?_⟩
  exact congrArg Streamer.xfers ((State.streamer_setStreamer ..).trans (if_pos rfl))

/-! ### SSEG (R343, R425, R426) -/

theorem State.mem_instsOf {s : State} {c : Fin 16} {slot j : Nat} {z : Inst} :
    (j, z) ∈ s.instsOf c slot ↔ s.insts[j]? = some z ∧ z.ctx = c ∧ z.slot = slot := by
  simp [State.instsOf, List.mem_zipIdx_iff_getElem?]

theorem State.updInst_of_some {s : State} {i : Nat} {x : Inst} (hx : s.insts[i]? = some x) (f : Inst → Inst) :
    s.updInst i f = s.setInst i (f x) := by
  unfold State.updInst
  rw [hx]

/-- One instance gets every tile. -/
theorem shares_one {total wt : Nat} (h : 0 < wt) : shares total [wt] = [total] := by
  have hw : 0 < [wt].sum := by simpa using h
  obtain ⟨v, hv⟩ := List.length_eq_one_iff.mp (shares_length (total := total) hw)
  have hsum := shares_sum (total := total) hw
  rw [hv] at hsum ⊢
  simpa using hsum

section
variable {s : State} {slot : BitVec 3} {i : Nat} {x : Inst} (hl : s.instsOf s.cmd.ctx slot.toNat = [(i, x)])
include hl

theorem insts_of_instsOf_one : s.insts[i]? = some x ∧ x.ctx = s.cmd.ctx ∧ x.slot = slot.toNat := by
  rw [← State.mem_instsOf, hl]
  exact List.mem_singleton_self _

theorem makeRanges_one (hwt : 0 < x.wt) (total : Nat) :
    s.makeRanges s.cmd.ctx slot.toNat total = s.setInst i { x with range := some (0, total), taken := 0 } := by
  unfold State.makeRanges
  simp only [hl, List.map_cons, List.map_nil, shares_one hwt]
  exact State.updInst_of_some (insts_of_instsOf_one hl).1 _

/-- With its one instance changed, a slot still has no other. -/
theorem instsOf_one_unique {u : State} {y : Inst} (hu : u.insts = s.insts.set i y) :
    ∀ e ∈ u.instsOf s.cmd.ctx slot.toNat, e.2 = y := by
  rintro ⟨j, z⟩ he
  obtain ⟨hz, hctx, hslot⟩ := State.mem_instsOf.mp he
  rw [hu, List.getElem?_set] at hz
  split at hz
  next =>
    split at hz
    · exact (Option.some.inj hz).symm
    · contradiction
  next hne =>
    have hmem : (j, z) ∈ s.instsOf s.cmd.ctx slot.toNat := State.mem_instsOf.mpr ⟨hz, hctx, hslot⟩
    rw [hl, List.mem_singleton] at hmem
    exact absurd (Prod.mk.inj hmem).1.symm hne

/-- The instance in the segment of `T` tiles that a command starts. -/
def Inst.started (x : Inst) (id : BitVec 32) (T : Nat) (last : Bool) (now : Word) (tabs : List (Nat × Nat)) : Inst :=
  { ({ x with range := some (0, T), taken := 0 } : Inst).begin_ id T last now with tabs := tabs }

end

theorem Inst.started_spec {x : Inst} {T : Nat} (hst : x.st = .idle) (hT : T ≠ 0) (id : BitVec 32) (last : Bool) (now : Word)
    (tabs : List (Nat × Nat)) :
    let y := x.started id T last now tabs
    y.st = .run ∧ y.range = some (0, T) ∧ y.taken = T ∧ y.segTiles = T ∧ y.segCmd = id ∧ y.final = last ∧ y.passed = false ∧
      y.arms = x.arms.map fun a => a.start T last := by
  simp [Inst.started, Inst.begin_, hst, hT]

theorem Inst.share_whole (x : Inst) {T : Nat} (hT : T ≠ 0) : ({ x with range := some (0, T), taken := 0 } : Inst).share T = T := by
  simp [Inst.share, hT]

/-- The boundaries of the instances of a slot that have no tile in the segment: they are passed at once (R343). -/
def State.passIdle (s : State) (c : Fin 16) (slot : Nat) : State :=
  ((s.instsOf c slot).filter fun e => e.2.st != .run && e.2.back != .run).foldl
    (fun (s : State) e => match s.insts.findIdx? fun x => x.ctx = c && x.uid == e.2.uid with
      | some i => if e.2.st = .idle then s.passBoundary i else s.notePassed i
      | none => s) s

theorem State.passIdle_of_run {s : State} {c : Fin 16} {slot : Nat} (h : ∀ e ∈ s.instsOf c slot, e.2.st = .run) :
    s.passIdle c slot = s := by
  have hnone : ((s.instsOf c slot).filter fun e => e.2.st != .run && e.2.back != .run) = [] :=
    List.filter_eq_nil_iff.mpr fun e he => by simp [h e he]
  rw [State.passIdle, hnone]
  rfl

/-- A context whose port stream has made the range of a slot. -/
def Ctx.rangeMade (c : Ctx) (slot : Nat) : Ctx := { c with portRanges := slot :: c.portRanges }

/-- The tables that a segment binds: the current version of each. -/
def Ctx.boundTables (c : Ctx) : List (Nat × Nat) := (c.tables.filter (·.current)).map fun v => (v.tbl, v.serial)

/-- The i-th instance enters a segment with the tiles that its range still holds (R343). -/
def State.startOne (s : State) (i : Nat) (id : BitVec 32) (tiles : Nat) (last : Bool) (tabs : List (Nat × Nat)) : State :=
  s.updInst i fun x => { x.begin_ id (x.share tiles) last (s.instTime x) with tabs := tabs }

theorem execSseg_of_idle {s : State} {slot : BitVec 3} {i : Nat} {x : Inst} {tiles : BitVec 32} (q : CmdQual) (last : Bool)
    (hport : s.cmd.stream = .port) (hl : s.instsOf s.cmd.ctx slot.toNat = [(i, x)]) (hst : x.st = .idle) (hback : x.back ≠ .run)
    (hwt : 0 < x.wt) (hdoors : ∀ v ∈ x.serais, v.bound.isSome = true) (hnew : slot.toNat ∉ (s.ctx s.cmd.ctx).portRanges)
    (ht : tiles ≠ 0) : ∃ (t : State) (now : Word) (tabs : List (Nat × Nat)), execSseg q last slot tiles s = .next t ∧
      t.insts[i]? = some (x.started s.cmd.id tiles.toNat last now tabs) ∧ slot.toNat ∈ (t.ctx s.cmd.ctx).portRanges ∧
      t.mem = s.mem := by
  obtain ⟨hx, -, -⟩ := insts_of_instsOf_one hl
  obtain ⟨hlt, -⟩ := List.getElem?_eq_some_iff.mp hx
  have hT : tiles.toNat ≠ 0 := fun h => ht (BitVec.eq_of_toNat_eq h)
  have hbound : s.doorsBound s.cmd.ctx slot.toNat = true := by simpa [State.doorsBound, hl] using hdoors
  have hmade : (s.ctx s.cmd.ctx).portRanges.contains slot.toNat = false := by simpa using hnew
  let ranged : Inst := { x with range := some (0, tiles.toNat), taken := 0 }
  let u : State := (s.setInst i ranged).updCtx s.cmd.ctx fun c => c.rangeMade slot.toNat
  let tabs : List (Nat × Nat) := (u.ctx s.cmd.ctx).boundTables
  let y : Inst := x.started s.cmd.id tiles.toNat last (u.instTime ranged) tabs
  have hu : u.insts[i]? = some ranged := List.getElem?_set_self hlt
  have hstart : u.startOne i s.cmd.id tiles.toNat last tabs = u.setInst i y := by
    rw [State.startOne, State.updInst_of_some hu, Inst.share_whole x hT]
    rfl
  have hpass : (u.setInst i y).passIdle s.cmd.ctx slot.toNat = u.setInst i y := by
    refine State.passIdle_of_run fun e he => ?_
    rw [instsOf_one_unique hl (List.set_set ..) e he]
    exact (Inst.started_spec hst hT ..).1
  refine ⟨u.setInst i y, u.instTime ranged, tabs, ?_, List.getElem?_set_self (by simpa [u, State.setInst, setAt] using hlt), ?_, rfl⟩
  · unfold execSseg
    simp only [hport, hmade, hl, hbound]
    rw [if_neg (by simpa [hst, hback] using ht)]
    refine congrArg Host.Outcome.next ?_
    simp only [Bool.false_eq_true, if_false, makeRanges_one hl hwt]
    change State.passIdle (u.startOne i s.cmd.id tiles.toNat last tabs) s.cmd.ctx slot.toNat = _
    rw [hstart, hpass]
  · change slot.toNat ∈ (u.ctx s.cmd.ctx).portRanges
    rw [State.ctx_updCtx_self]
    exact List.mem_cons_self

/-- Settles O52: each command by its lemma, and the shares by the ranks of the instances. -/
theorem sequencerCommands : Obligations.SequencerCommands := by
  intro q s slot n c id hn hc hid hport
  obtain rfl : n = fin 8 slot.toNat := Fin.ext (hn.trans (Nat.mod_eq_of_lt slot.isLt).symm)
  subst hc hid
  have hask (va k : Nat) := s.askWords_same (seqKey s.cmd.ctx) s.cmd.ctx va k
  refine ⟨?scfg, ?scfgFailed, ?splc, fun queue part_ => execSplcU_eq hport q part_ queue, ?smov, ?sseg,
    fun total w hw => ⟨shares_sum hw, shares_length hw, baseShare_le_shares hw⟩, ?ssyn, ?stbl, ?swin, ?swinU, ?sagp, ?sdrn⟩
  case scfg =>
    intro img rpt cfg u pa hst hu ha hl
    refine ⟨_, execScfg_of_staged hport q hst hu ha hl, rfl, ?_⟩
    rw [hu, State.ctx_updCtx_self]
    exact Vector.getElem_set_self _
  case scfgFailed =>
    intro img rpt r cause rec_ pe u pa w hst hr0 hr hcause hrec hpe hw hu ha hl
    exact execScfg_of_failed hport q hst hr0 hr hcause hrec hpe hw hu ha hl
  case splc =>
    intro ninst queue part_ cfg g hcfg hfree h0 h900 hg
    have hqueue : fin 64 queue.toNat = queue.toFin := Fin.ext (Nat.mod_eq_of_lt queue.isLt)
    subst hg
    rw [← hqueue]
    refine ⟨fun hfit => ?_, fun hfit => execSplc_of_neverFits hport hcfg q hfit⟩
    refine ⟨_, s.portPlacement slot ninst part_ queue, execSplc_of_fits hport hcfg hfree h0 h900 q hfit, ?_, hn.symm, rfl,
      Nat.mod_eq_of_lt queue.isLt, rfl, rfl, rfl, rfl, rfl⟩
    rw [State.ctx_updCtx_self]
    rfl
  case smov =>
    intro num i x hfind hp
    have hex := execSmov_eq q hfind hp
    refine ⟨hex, fun hrun hx => ?_⟩
    obtain ⟨hlt, -⟩ := List.getElem?_eq_some_iff.mp hx
    have hset : (s.setInst i { x with version := s.groups.ver }).insts[i]? = some { x with version := s.groups.ver } :=
      List.getElem?_set_self hlt
    rw [State.request_of_run hset hrun hp] at hex
    exact ⟨_, _, hex, List.getElem?_set_self (by simpa [State.setInst, setAt] using hlt), rfl, hrun⟩
  case sseg =>
    intro tiles last i x hl hst hback hwt hdoors hnew ht
    rw [hn] at hnew ⊢
    obtain ⟨t, now, tabs, hex, hy, hmade, hmem⟩ := execSseg_of_idle q last hport hl hst hback hwt hdoors hnew ht
    obtain ⟨hrun, hrange, htaken, hseg, hcmd, hfinal, hpassed, harms⟩ :=
      x.started_spec hst (fun h => ht (BitVec.eq_of_toNat_eq h)) s.cmd.id last now tabs
    exact ⟨t, _, hex, hy, hrun, hrange, htaken, hseg, hcmd, hfinal, hpassed, harms, hmade, hmem⟩
  case ssyn =>
    intro b queue addr value k hk hready h0
    refine ⟨_, execSsyn_of_ready q b queue addr value hk hready h0, rfl, ?_⟩
    rw [State.ctx_updCtx_self]
  case stbl =>
    intro tbl desc w v hw hv
    obtain ⟨hcurrent, htbl⟩ := parseTable_spec hv
    refine ⟨_, superseded tbl.toNat (s.ctx s.cmd.ctx).tables, execStbl_of_parsed q hw hv, ?_, ?_, hcurrent, htbl, List.length_map _,
      superseded_current⟩
    · rw [hask]
      rfl
    · rw [State.ctx_updCtx_self, hask]
      rfl
  case swin =>
    intro win obj ntf base len pa hw h0 hmax ha hl hf
    refine ⟨_, declaredWindow win slot base len ntf, execSwin_of_good q win slot hw h0 hmax ha hl hf, ?_, ?_, rfl, hn.symm, rfl, rfl, rfl, fun x hx hne => ?_⟩
    · rw [hask]
      rfl
    · rw [State.ctx_updCtx_self]
      exact List.mem_append_right _ (List.mem_singleton_self _)
    · rw [State.ctx_updCtx_self, hask] at hx
      obtain ⟨hmem, hwin⟩ := List.mem_filter.mp ((List.mem_append.mp hx).resolve_right fun h => hne (List.mem_singleton.mp h))
      exact ⟨by simpa using hwin, hmem⟩
  case swinU =>
    intro win
    refine ⟨_, rfl, rfl, fun w => ?_⟩
    rw [State.ctx_updCtx_self, hn]
    simp [imp_iff_not_or]
  case sagp =>
    intro pos prog hidle
    refine ⟨?_, fun pgm num w p hw hp hbad hs => ?_⟩
    · obtain ⟨hempty, -, hmem⟩ := s.unloadProg_spec pos.toNat prog
      exact ⟨_, execSagpU_of_idle q hidle, hempty, hmem⟩
    · rw [hn] at hp
      refine ⟨_, execSagp_of_streaming q hidle hw hp hbad hs, ?_, ?_, ?_⟩
      all_goals
        obtain ⟨-, hsram, hmem⟩ :=
          State.unloadProg_spec (s.askWords (seqKey s.cmd.ctx) s.cmd.ctx (pgm.toNat * 64) 8) pos.toNat prog
      · rw [State.slice_setSlice, if_pos rfl]
        exact Vector.getElem_set_self _
      · rw [State.slice_setSlice, if_pos rfl]
        refine hsram.trans ?_
        rw [hask]
        rfl
      · refine hmem.trans ?_
        rw [hask]
  case sdrn =>
    intro clear o i x hnamed hx hfmt hrm htbl hpage hslot hbind
    obtain ⟨t, hex, hmem, hxfers⟩ := execSdrn_of_one q clear hnamed hx hfmt hrm htbl hpage hslot hbind
    have hasl : (fin 4 o.asl.toNat).val = o.asl.toNat := Nat.mod_eq_of_lt o.asl.isLt
    refine ⟨t, _, hex, hxfers, rfl, rfl, rfl, rfl, rfl, ?_, hmem⟩
    simp only [State.drainXfer, newXfer, hasl, htbl]
    rfl

end Sys2Proof.Machine
end
